-- ==== Sys2Proof/Word.lean ====
section
/-! DEFINITION. The word types of the device: bytes, instruction words and dwords (00 R3), and their plainest arithmetic. -/

namespace Sys2Proof

/-- A byte (00 R3). -/
abbrev Byte := BitVec 8

/-- An instruction word or any other 32-bit word (00 R3). -/
abbrev Word32 := BitVec 32

/-- A dword: a general register or a memory word (00 R3). -/
abbrev Dword := BitVec 64

/-- Bits `[lo + n - 1 : lo]` of the number `w`. -/
def bitsOf (w lo n : Nat) : Nat := w / 2 ^ lo % 2 ^ n

/-- Bits `[lo + n - 1 : lo]` of the number `w` as a field of `n` bits. -/
def fieldOf (w lo n : Nat) : BitVec n := BitVec.ofNat n (w / 2 ^ lo)

end Sys2Proof
end

