-- ==== Sys2Proof/Syntax.lean ====
section
/-! DEFINITION. The one syntax of the machine: one constructor per row of spec/opcode_table.json. The instruction forms carry the fields of their words (15 R298 to R304, Table 15.6); the device steps carry what reaches the device from outside and the place in the state they act on. -/

namespace Sys2Proof

/-- A management message as it arrives: the 128 bits of its header and the bytes of its body (03 R58, Table 3.1). -/
structure Message where
  hdr : BitVec 128
  body : List (BitVec 8)
  deriving DecidableEq, Repr

/-- A good flit as it arrives on a Pyryta port: its header and its payload (02 Tables 2.2 and 2.3). -/
structure WireFlit where
  hdr : BitVec 128
  payload : List (BitVec 8)
  deriving DecidableEq, Repr

/-- Every step of the part: an instruction form of Limsel base 1 or a device step of the table. -/
inductive Instr where
  /-- POWER_GOOD (R28). Power-good starts the boot sequence of Table 1.6, from the Oseus boot ROM to opening the management service. -/
  | powerGood (dead : Nat) (ports : Nat) (host : Bool)
  /-- MODULE_RESET (R85). 1 ms after the reply to a reset message, the module resets and boots again. -/
  | moduleReset (dead : Nat) (ports : Nat) (host : Bool)
  /-- JUNCTION_STOP (R27). At a junction temperature of 110 °C, Oseus stops and scrubs every core, records the event and holds the module in reset. -/
  | junctionStop (temp : Nat)
  /-- THERMAL_GUARD_EVALUATION (R25). Every 3,600 aclk the guard estimates heat flux and sets gap ratios stage by stage. -/
  | thermalGuardEvaluation (gaps : List Nat) (temp : Nat) (excursion : Bool)
  /-- CREATE_CONTEXT (R68). A create-context message allocates the lowest free context identifier and builds an empty translation root. -/
  | createContext (m : Message)
  /-- DESTROY_CONTEXT (R71). A destroy-context message errors out the queue pairs, stops and scrubs the context, releases its resources and removes its mappings by one shoot-down. -/
  | destroyContext (m : Message)
  /-- SET_RESERVATIONS (R70). A set-reservations message replaces the context's class reservations and way partitions, subject to the envelope checks. -/
  | setReservations (m : Message)
  /-- MAP_MEMORY (R72). A map-memory message allocates, zeroes and maps pages of a class, or makes non-resident pages resident. -/
  | mapMemory (m : Message)
  /-- UNMAP_MEMORY (R72). An unmap-memory message removes leaf entries with one shoot-down and zeroes the freed pages. -/
  | unmapMemory (m : Message)
  /-- DIE_SWEEP_ANSWER (R98). A die answers the shoot-down once its sweep is done and the swept accesses are performed; the last answer completes the shoot-down. -/
  | dieSweepAnswer (die : Nat)
  /-- LOAD_IMAGE (R76). A load-image message checks the body and holds dispatch of the context's slices. -/
  | loadImage (m : Message)
  /-- LOAD_GRAPH (R77). A load-graph message checks the body and every node, copies the graph into scheduler memory and returns a handle. -/
  | loadGraph (m : Message)
  /-- UNLOAD_GRAPH (R77). An unload-graph message frees a graph that has no live instance. -/
  | unloadGraph (m : Message)
  /-- CREATE_QUEUE_PAIR (R73). A create-queue-pair message binds a new reliable-connected queue pair to a context. -/
  | createQueuePair (m : Message)
  /-- DESTROY_QUEUE_PAIR (R62). A destroy-queue-pair message puts the queue pair in the error state and frees its index. -/
  | destroyQueuePair (m : Message)
  /-- GRANT_PEER_ACCESS (R62). A grant-peer-access message grants or revokes peer transactions to the context. -/
  | grantPeerAccess (m : Message)
  /-- SET_GRID (R64). A set-grid message sets the grid coordinate, the port map and the reducer entries. -/
  | setGrid (m : Message)
  /-- PORT_UP (R62). A port-up message starts a retrain of a Pyryta port that is down. -/
  | portUp (m : Message)
  /-- SET_LINK_PARAMETERS (R65). A set-link-parameters message sets the host-port priorities, DSCP, rate-control parameters and the stored MAC and GID. -/
  | setLinkParameters (m : Message)
  /-- READ_COUNTERS (R85). A read-counters message returns the named per-context counters. -/
  | readCounters (m : Message)
  /-- READ_RECORDS (R84). A read-records message returns lifetime counters from one consistent snapshot. -/
  | readRecords (m : Message)
  /-- ATTEST (R66). An attest message returns a report over the nonce, the measurements and the requested image digests, signed by the identity key. -/
  | attest (m : Message)
  /-- FIRMWARE_LOAD (R67). A firmware-load message writes one part of an image into a bank; the last part triggers verification and, on success, makes the bank preferred. -/
  | firmwareLoad (m : Message)
  /-- RAISE_SECURITY_MINIMUM (R62). A raise-security-minimum message writes a new fused minimum security version, which applies from the next boot. -/
  | raiseSecurityMinimum (m : Message)
  /-- RESET (R85). A reset message is answered, and a module reset follows 1 ms later. -/
  | resetMsg (m : Message)
  /-- UNASSIGNED_MESSAGE_TYPE (R59). A management message of an unassigned type, or of a type not served in recovery mode, is refused with status 8 or 6. -/
  | unassignedMessageType (m : Message)
  /-- RDMA_WRITE_RECEIVED (R74). An incoming RDMA WRITE is translated and performed per memory word at the home slices, and fills fill-on-write tags. -/
  | rdmaWriteReceived (qp : Nat) (key : Nat) (va : Nat) (bytes : List (BitVec 8))
  /-- RDMA_READ_RECEIVED (R38). An incoming RDMA READ is answered with data reflecting every earlier operation of its queue pair. -/
  | rdmaReadReceived (qp : Nat) (key : Nat) (va : Nat) (len : Nat)
  /-- RDMA_FETCH_ADD_RECEIVED (R79). An incoming RDMA fetch-and-add is performed at the home and makes a tagged word FULL when the result is 0. -/
  | rdmaFetchAddReceived (qp : Nat) (key : Nat) (va : Nat) (v : BitVec 64)
  /-- RDMA_COMPARE_SWAP_RECEIVED (R75). An incoming RDMA compare-and-swap is performed at the home, one at a time per word. -/
  | rdmaCompareSwapReceived (qp : Nat) (key : Nat) (va : Nat) (cmp : BitVec 64) (swap : BitVec 64)
  /-- RDMA_INVALID_REQUEST (R36). An incoming operation that the port does not implement for its queue pair is NAKed as Invalid Request and the queue pair enters the error state. -/
  | rdmaInvalidRequest (qp : Nat)
  /-- CONGESTION_NOTIFICATION_RECEIVED (R34). A received congestion notification lowers the send rate of the named queue pair. -/
  | congestionNotificationReceived (qp : Nat)
  /-- ECN_MARKED_PACKET_RECEIVED (R34). A packet marked ECN-CE makes the port send a congestion notification to its sender. -/
  | ecnMarkedPacketReceived (qp : Nat)
  /-- PFC_PAUSE_FRAME (R34). A received priority flow-control frame pauses or resumes sending on its priority. -/
  | pfcPauseFrame (prio : Nat) (pause : Bool)
  /-- HOST_RDMA_RESPONSE (R81). A host response to a device-issued RDMA READ or ATOMIC completes the host-class load or atomic, or faults it. -/
  | hostRdmaResponse (op : Nat) (ok : Bool) (bytes : List (BitVec 8))
  /-- HOST_WRITE_ACK (R81). The host acknowledges, or fails, a device-issued RDMA WRITE of a host-class store, SIGNAL or fault word. -/
  | hostWriteAck (op : Nat) (ok : Bool)
  /-- QP_ACK_TIMEOUT (R63). The ACK time-out of a device-requester queue pair expires and the request is retried or fails. -/
  | qpAckTimeout (qp : Nat)
  /-- FLIT_SEND (R45). An output port picks the next sequenced flit by strict class priority when its class holds a credit. -/
  | flitSend (port : Nat)
  /-- BAD_FLIT_RECEIVED (R44). A flit with an uncorrectable codeword or a CRC mismatch is discarded and NAKed once. -/
  | badFlitReceived (port : Nat)
  /-- LINK_CONTROL_FLIT (R55). A link-control flit returns credits and acknowledgements and may carry a NAK that starts a replay. -/
  | linkControlFlit (port : Nat) (f : WireFlit)
  /-- ACK_RETURN_TIMER (R44). The receiver sends a link-control flit with ack_seq after 64 received flits or 360 aclk. -/
  | ackReturnTimer (port : Nat)
  /-- REPLAY_TIMEOUT (R44). After 7,200 aclk without ack_seq progress, the sender resends from the oldest unacknowledged flit. -/
  | replayTimeout (port : Nat)
  /-- LINK_RETRAIN_DONE (R44). A retrain ends: on success replay resumes, and on the third consecutive failure the port goes down. -/
  | linkRetrainDone (port : Nat) (ok : Bool)
  /-- PEER_READ_REQUEST (R42). A peer read request is translated in the named context, performed at the home and answered. -/
  | peerReadRequest (port : Nat) (f : WireFlit)
  /-- PEER_WRITE_REQUEST (R42). A peer write is translated and performed at the home and acknowledged, or refused. -/
  | peerWriteRequest (port : Nat) (f : WireFlit)
  /-- PEER_ATOMIC_REQUEST (R42). A peer atomic is performed at the home and its old value returned. -/
  | peerAtomicRequest (port : Nat) (f : WireFlit)
  /-- PEER_READ_RESPONSE (R42). A read response completes a device-issued peer load or gather read. -/
  | peerReadResponse (port : Nat) (f : WireFlit)
  /-- PEER_WRITE_ACK (R42). A write ack completes a peer store or peer engine write with its status. -/
  | peerWriteAck (port : Nat) (f : WireFlit)
  /-- PEER_ATOMIC_RESPONSE (R42). An atomic response returns the old value of a peer atomic. -/
  | peerAtomicResponse (port : Nat) (f : WireFlit)
  /-- REDUCTION_CONTRIBUTION (R50). A reducer handles an add, max or min contribution by the first matching row of R50 and acknowledges it. -/
  | reductionContribution (port : Nat) (f : WireFlit)
  /-- TOP_K_CONTRIBUTION (R50). A reducer handles a top-k contribution by the rows of R50 and merges its pairs under R52. -/
  | topKContribution (port : Nat) (f : WireFlit)
  /-- CONTRIBUTION_ACK (R51). A contribution ack ends the contribution successfully, schedules a resend or ends it with a fault. -/
  | contributionAck (port : Nat) (f : WireFlit)
  /-- COLLECTIVE_OPEN (R57). A reducer creates or joins collective state from an open and answers an open ack. -/
  | collectiveOpen (port : Nat) (f : WireFlit)
  /-- COLLECTIVE_OPEN_ACK (R57). An open ack lets the contributor begin contributing, or fails the command on mismatch. -/
  | collectiveOpenAck (port : Nat) (f : WireFlit)
  /-- COLLECTIVE_RESULT (R57). A destination writes a result part into its range and acts on its completion word, or discards a part not awaited. -/
  | collectiveResult (port : Nat) (f : WireFlit)
  /-- COLLECTIVE_CLOSE (R57). A reducer answers a close and frees the collective once every opener has closed. -/
  | collectiveClose (port : Nat) (f : WireFlit)
  /-- COLLECTIVE_CLOSE_ACK (R57). A close ack ends the device's part in a collective. -/
  | collectiveCloseAck (port : Nat) (f : WireFlit)
  /-- JOB_READY (R115). A reached JOB node becomes ready once every dependence word has been observed FULL. -/
  | jobReady (inst : Nat) (node : Nat)
  /-- JOB_COMPLETE (R120). A job completes when its last team exits and its accesses are performed, and it reaches its successors. -/
  | jobComplete (inst : Nat) (node : Nat)
  /-- SEAL_NODE_COMPLETE (R120). A SEAL node completes when every named member's seal has completed, and reaches its successors. -/
  | sealNodeComplete (inst : Nat) (node : Nat)
  /-- RESTORE_COMPLETE (R134). A restore copy completes, the redirect entry is retargeted and blocked fibres re-check their conditions. -/
  | restoreComplete (team : Nat)
  /-- REDIRECT_ENTRY_COMPLETION (R139). A completion or returning fibre for a saved or restoring team is held by the redirect entry or applied to its image. -/
  | redirectEntryCompletion (team : Nat)
  /-- LONG_LATENCY_DROP (R295). A long-latency instruction reaches its drop point and decrements its completion counter. -/
  | longLatencyDrop (team : Nat) (fibre : Nat) (slot : Nat)
  /-- STORE_PERFORM (R191). A store, atomic or tag operation leaves the fibre's store queue and is performed at its home. -/
  | storePerform (team : Nat) (fibre : Nat)
  /-- COLLAPSE_PROBE (R177). A holder die receives a collapse probe, invalidates its cutting if held and answers. -/
  | collapseProbe (line : Nat) (die : Nat)
  /-- CUTTING_FILL (R178). A cutting fill reaches the reading die and is installed, or returned to the read alone if a probe came first. -/
  | cuttingFill (line : Nat) (die : Nat)
  /-- RESIZE_SWITCH_POINT (R167). After exits from retention and write-backs, the team's new scratchpad allocation takes effect. -/
  | resizeSwitchPoint (team : Nat) (fibre : Nat) (slot : Nat)
  /-- ENGINE_LANDING (R160). An engine landing of b bytes is counted at its barrier and may flip the phase. -/
  | engineLanding (cmd : Nat)
  /-- ENGINE_COMPLETION_WORD (R417). A command's last byte is performed, and its completion word is filled or counted down as a release at system scope. -/
  | engineCompletionWord (cmd : Nat)
  /-- MMA_COMPLETE (R404). An issued MMA finishes, writes its tile whole and drops each signer's counter. -/
  | mmaComplete (resid : BitVec 2)
  /-- SCAN_START (R214). A queued scan starts on a stack when a query heap is free, taking its snapshot at the first start. -/
  | scanStart (stack : Nat)
  /-- SCAN_COMPLETE (R217). A stack writes its top-k list to scratchpad, which lands on the completion barrier. -/
  | scanComplete (cmd : Nat) (stack : Nat)
  /-- SCAN_REFRESH_PAUSE (R218). A refresh falls due on a bank that already owes eight, so every bank of the scan pauses and performs its owed refreshes. -/
  | scanRefreshPause (stack : Nat)
  /-- SCAN_RESUME (R218). After its owed refreshes, the scan resumes at the record where it paused. -/
  | scanResume (stack : Nat)
  /-- WALK_STEP (R221). A traversal engine reads one dword and advances, continues on another stack, or ends the walk with its result. -/
  | walkStep (cmd : Nat)
  /-- HOP_LAND (R227). A hopping fibre's transit record lands in the destination stack's escape buffer. -/
  | hopLand (team : Nat) (fibre : Nat)
  /-- NEAR_SLOT_ENTRY (R227). An escape-buffer arrival enters a free near-core slot in arrival order. -/
  | nearSlotEntry (stack : Nat)
  /-- HOP_HOME_ARRIVAL (R226). A fibre returning by HOP.home is taken back as ready by its originating core or image. -/
  | hopHomeArrival (team : Nat) (fibre : Nat)
  /-- RETURN_TRAP (R224). Once its counters are 0, a fibre's transit record ships to a service slot of the stack's M-die. -/
  | returnTrap (team : Nat) (fibre : Nat)
  /-- RETURN_TRAP_RESUME (R224). The trapped instruction has executed on the service slot, and the fibre returns to a slot of its stack. -/
  | returnTrapResume (team : Nat) (fibre : Nat)
  /-- SLOT_LANDING (R251). A channel message's last byte lands in a receive slot and the slot barrier counts one arrival and b bytes. -/
  | slotLanding (cmd : Nat)
  /-- PERMIT_RETURN (R251). A released slot's permit reaches its sender and adds 1 to its permit count. -/
  | permitReturn (ctx : Nat) (ch : Nat)
  /-- CONVERSION_INPUT (R240). Peer data or a reduction result for a conversion step arrives and is kept in unmapped memory. -/
  | conversionInput (ctx : Nat) (tid : Nat) (axis : Nat) (coord : Nat) (cells : List (Nat × BitVec 8))
  /-- CONVERSION_COMPLETE (R241). A conversion's writes are performed with their collapses, the generation advances and waiting demands pass. -/
  | conversionComplete (ctx : Nat) (tid : Nat)
  /-- ADD (R318). Adds two registers with wrap or saturation by fn. -/
  | add (d : BitVec 7) (a : BitVec 7) (b : BitVec 7) (f : BitVec 4)
  /-- SUB (R318). Subtracts b from a with wrap or saturation by fn. -/
  | sub (d : BitVec 7) (a : BitVec 7) (b : BitVec 7) (f : BitVec 4)
  /-- ADDI (R318). Adds a sign-extended 11-bit immediate in 64 bits. -/
  | addi (d : BitVec 7) (a : BitVec 7) (i : BitVec 11)
  /-- MUL (R319). Multiplies two registers and writes the low or high half of the product. -/
  | mul (d : BitVec 7) (a : BitVec 7) (b : BitVec 7) (f : BitVec 4)
  /-- MAD (R318). Adds a × b to d with wrap or saturation. -/
  | mad (d : BitVec 7) (a : BitVec 7) (b : BitVec 7) (f : BitVec 4)
  /-- DIV (R320). Writes the quotient rounded toward zero, with fixed results for the borderline cases. -/
  | div (d : BitVec 7) (a : BitVec 7) (b : BitVec 7) (s : BitVec 1) (w : BitVec 1)
  /-- REM (R320). Writes the remainder with the sign of a. -/
  | rem (d : BitVec 7) (a : BitVec 7) (b : BitVec 7) (s : BitVec 1) (w : BitVec 1)
  /-- MINMAX (R321). Writes the signed or unsigned minimum or maximum of two registers. -/
  | minmax (d : BitVec 7) (a : BitVec 7) (b : BitVec 7) (c : BitVec 1) (m : BitVec 1) (w : BitVec 1)
  /-- AND (R322). Bitwise and of two registers. -/
  | andR (d : BitVec 7) (a : BitVec 7) (b : BitVec 7)
  /-- OR (R322). Bitwise or of two registers. -/
  | orR (d : BitVec 7) (a : BitVec 7) (b : BitVec 7)
  /-- XOR (R322). Bitwise exclusive or of two registers. -/
  | xorR (d : BitVec 7) (a : BitVec 7) (b : BitVec 7)
  /-- ANDN (R322). Computes a & ~b. -/
  | andn (d : BitVec 7) (a : BitVec 7) (b : BitVec 7)
  /-- ANDI (R322). Bitwise and with a sign-extended immediate. -/
  | andi (d : BitVec 7) (a : BitVec 7) (i : BitVec 11)
  /-- ORI (R322). Bitwise or with a sign-extended immediate. -/
  | ori (d : BitVec 7) (a : BitVec 7) (i : BitVec 11)
  /-- XORI (R322). Bitwise exclusive or with a sign-extended immediate. -/
  | xori (d : BitVec 7) (a : BitVec 7) (i : BitVec 11)
  /-- SHIFT (R323). Shifts or rotates a by the count in b, in 64 or 32 bits. -/
  | shift (d : BitVec 7) (a : BitVec 7) (b : BitVec 7) (w : BitVec 1) (k : BitVec 2)
  /-- SHIFTI (R323). Shifts or rotates a by an immediate count. -/
  | shifti (d : BitVec 7) (a : BitVec 7) (w : BitVec 1) (k : BitVec 2) (c : BitVec 6)
  /-- BFX (R324). Extracts a zero-extended bit field of a. -/
  | bfx (d : BitVec 7) (a : BitVec 7) (l : BitVec 5) (p : BitVec 6)
  /-- BFI (R324). Inserts the low bits of a into a field of d. -/
  | bfi (d : BitVec 7) (a : BitVec 7) (l : BitVec 5) (p : BitVec 6)
  /-- BITOP (R325). Counts leading or trailing zeros or ones bits, or reverses bits or bytes. -/
  | bitop (d : BitVec 7) (a : BitVec 7) (f : BitVec 4)
  /-- MOV (R326). Copies a register, or sign- or zero-extends its low bits. -/
  | mov (d : BitVec 7) (a : BitVec 7) (f : BitVec 4)
  /-- MOV_RDP (R326). Reads the predicate word into a register. -/
  | movRdp (d : BitVec 7)
  /-- MOV_WRP (R326). Writes predicates p1 to p31 from a register in one step. -/
  | movWrp (a : BitVec 7)
  /-- MOV_FROM_SPECIAL (R326). Reads lk, csp, fmode, fflags or srseed into a register. -/
  | movFromSpecial (d : BitVec 7) (c : BitVec 7)
  /-- MOV_TO_SPECIAL (R326). Writes lk, csp, fmode, fflags or srseed from a register. -/
  | movToSpecial (c : BitVec 7) (a : BitVec 7)
  /-- MOVI (R327). Writes a sign-extended 11-bit immediate. -/
  | movi (d : BitVec 7) (i : BitVec 11)
  /-- MOVL (R327). Writes the 32-bit literal zero-extended. -/
  | movl (d : BitVec 7) (l : BitVec 32)
  /-- MOVL_S (R327). Writes the 32-bit literal sign-extended. -/
  | movlS (d : BitVec 7) (l : BitVec 32)
  /-- MOVL_HI (R327). Replaces the upper 32 bits of d with the literal. -/
  | movlHi (d : BitVec 7) (l : BitVec 32)
  /-- LEA (R328). Adds a to b shifted left, optionally sign-extending b's low word. -/
  | lea (d : BitVec 7) (a : BitVec 7) (b : BitVec 7) (x : BitVec 1) (s : BitVec 3)
  /-- CMP (R329). Compares two registers and combines the condition into a predicate. -/
  | cmp (p : BitVec 5) (c : BitVec 2) (a : BitVec 7) (b : BitVec 7) (n : BitVec 4)
  /-- CMPI (R329). Compares a register with a 7-bit immediate and combines into a predicate. -/
  | cmpi (p : BitVec 5) (c : BitVec 2) (a : BitVec 7) (i : BitVec 7) (n : BitVec 4)
  /-- PLOG (R330). Applies a truth table to two predicates and combines the result into a predicate. -/
  | plog (p : BitVec 5) (c : BitVec 2) (x : BitVec 5) (y : BitVec 5) (t : BitVec 4)
  /-- PRED (R303). Predicates the next span instructions of its clause. -/
  | pred (p : BitVec 5) (n : BitVec 1) (s : BitVec 3)
  /-- BRA (R332). Branches to a clause header relative to the current header when the predicate condition holds. -/
  | bra (p : BitVec 5) (n : BitVec 1) (o : BitVec 19)
  /-- CALL (R332). Writes the next clause header to lk and branches. -/
  | call (p : BitVec 5) (n : BitVec 1) (o : BitVec 19)
  /-- JMP (R333). Jumps to the clause header held in a register. -/
  | jmp (a : BitVec 7)
  /-- CALLR (R333). Writes lk and jumps to the address held in a register. -/
  | callr (a : BitVec 7)
  /-- SPAWN (R335). Creates a fibre with a payload in a bin of the team, or writes all ones when no index is free. -/
  | spawn (d : BitVec 7) (a : BitVec 7) (b : BitVec 7) (n : BitVec 4) (key : BitVec 16)
  /-- REBIN (R336). Deposits the fibre's entry, key and payload in the reorder unit and ends the fibre. -/
  | rebin (d : BitVec 7) (a : BitVec 7) (b : BitVec 7) (n : BitVec 4) (key : BitVec 16)
  /-- TRAP (R339). Raises the software trap 0x17. -/
  | trap (i : BitVec 11)
  /-- SYSRD (R341). Reads a system register into a register. -/
  | sysrd (d : BitVec 7) (s : BitVec 11)
  /-- SYSWR (R341). Writes a system register; no base-1 register has a writable field. -/
  | syswr (a : BitVec 7) (s : BitVec 11)
  /-- FENCE (R197). An acquire, release, acq_rel or sc fence at a scope. -/
  | fence (c : BitVec 3) (k : BitVec 3)
  /-- FENCE_HEAVY (R199). Acts as FENCE.sc at device scope and drains every fibre's store queue of a named team. -/
  | fenceHeavy (b : BitVec 7)
  /-- LD (R347). Plain load of 1 to 16 bytes into a register or a pair. -/
  | ld (d : BitVec 7) (b : BitVec 7) (o : BitVec 6) (s : BitVec 2) (z : BitVec 3)
  /-- ST (R347). Plain store of 1 to 16 bytes. -/
  | st (d : BitVec 7) (b : BitVec 7) (o : BitVec 6) (s : BitVec 2) (z : BitVec 3)
  /-- LDS (R348). Strong load with a scope and an order. -/
  | lds (d : BitVec 7) (b : BitVec 7) (c : BitVec 3) (k : BitVec 3) (s : BitVec 2) (z : BitVec 3)
  /-- STS (R348). Strong store with a scope and an order. -/
  | sts (d : BitVec 7) (b : BitVec 7) (c : BitVec 3) (k : BitVec 3) (s : BitVec 2) (z : BitVec 3)
  /-- LDP (R349). Loads two consecutive elements into gD and gD+1. -/
  | ldp (d : BitVec 7) (b : BitVec 7) (o : BitVec 6) (s : BitVec 2) (z : BitVec 1)
  /-- STP (R349). Stores gD and gD+1 to two consecutive elements. -/
  | stp (d : BitVec 7) (b : BitVec 7) (o : BitVec 6) (s : BitVec 2) (z : BitVec 1)
  /-- STN (R350). Stores one nibble by read-modify-write at the home. -/
  | stn (d : BitVec 7) (b : BitVec 7) (o : BitVec 6) (s : BitVec 2)
  /-- STM (R350). Byte-masked dword store. -/
  | stm (d : BitVec 7) (b : BitVec 7) (o : BitVec 6) (s : BitVec 2)
  /-- LDNR (R351). Loads, returning 0 and clearing a residency predicate on a non-resident page. -/
  | ldnr (d : BitVec 7) (b : BitVec 7) (p : BitVec 5) (s : BitVec 2) (z : BitVec 3)
  /-- PREF (R352). Prefetches a line into the L1 or its home slice without any fault. -/
  | pref (b : BitVec 7) (o : BitVec 6) (s : BitVec 2) (l : BitVec 1)
  /-- PREQ (R352). Posts a page request in the pager mailbox and rings its doorbell. -/
  | preq (d : BitVec 7) (b : BitVec 7) (o : BitVec 6) (s : BitVec 2) (w : BitVec 1)
  /-- ATOM32 (R354). 32-bit atomic operation at the home, returning the old value unless noret is set. -/
  | atom32 (d : BitVec 7) (a : BitVec 7) (b : BitVec 7) (f : BitVec 4) (c : BitVec 3) (k : BitVec 3) (r : BitVec 1) (s : BitVec 2)
  /-- ATOM64 (R354). 64-bit atomic operation at the home, returning the old value unless noret is set. -/
  | atom64 (d : BitVec 7) (a : BitVec 7) (b : BitVec 7) (f : BitVec 4) (c : BitVec 3) (k : BitVec 3) (r : BitVec 1) (s : BitVec 2)
  /-- CAS (R355). Compare-and-swap at the home, returning the old value. -/
  | cas (d : BitVec 7) (a : BitVec 7) (b : BitVec 7) (w : BitVec 1) (c : BitVec 3) (k : BitVec 3) (s : BitVec 2)
  /-- RED (R356). Integer reduction at the home with no return. -/
  | red (a : BitVec 7) (b : BitVec 7) (f : BitVec 4) (c : BitVec 3) (k : BitVec 3) (s : BitVec 2) (w : BitVec 1)
  /-- REDF (R356). Sends an i32, f32 or bf16 reduction to the stack's arithmetic unit. -/
  | redf (a : BitVec 7) (b : BitVec 7) (f : BitVec 4) (t : BitVec 2)
  /-- ACQR (R357). Acquire at a scope limited to an address range. -/
  | acqr (a : BitVec 7) (b : BitVec 7) (s : BitVec 3)
  /-- CACHE_FLUSH (R359). Writes back and deregisters this L1's dirty bytes of a line. -/
  | cacheFlush (a : BitVec 7)
  /-- CACHE_INVAL (R359). Flushes a line and drops it from this L1. -/
  | cacheInval (a : BitVec 7)
  /-- CACHE_RETAIN (R359). Gives a line the retain class in its home slice. -/
  | cacheRetain (a : BitVec 7)
  /-- CACHE_EVICT (R359). Gives a line the evict-first class in its home slice. -/
  | cacheEvict (a : BitVec 7)
  /-- RESIZE (R360). Changes the team's scratchpad allocation in keep mode. -/
  | resize (d : BitVec 7) (a : BitVec 7)
  /-- RESIZE_REL (R360). Changes the team's scratchpad allocation in release mode. -/
  | resizeRel (d : BitVec 7) (a : BitVec 7)
  /-- CACHE_WAYS (R360). Writes the team's allocation and the core's way usage. -/
  | cacheWays (d : BitVec 7)
  /-- RQDEG (R360). Returns the replication degree, home and holders of a region. -/
  | rqdeg (d : BitVec 7) (a : BitVec 7)
  /-- FILL (R361). Sets a tagged word FULL, leaving its data unchanged. -/
  | fill (a : BitVec 7) (c : BitVec 3) (k : BitVec 3)
  /-- FILL_VAL (R361). Writes a value into a tagged word and sets it FULL. -/
  | fillVal (a : BitVec 7) (b : BitVec 7) (c : BitVec 3) (k : BitVec 3)
  /-- FILL_EMPTY (R361). Sets a tagged word EMPTY, leaving its data unchanged. -/
  | fillEmpty (a : BitVec 7) (c : BitVec 3) (k : BitVec 3)
  /-- TAKE (R362). Waits until a word is FULL and is the oldest TAKE waiter, then returns the data and empties the word. -/
  | take (d : BitVec 7) (b : BitVec 7) (c : BitVec 3) (k : BitVec 3)
  /-- WAITF (R362). Waits until a word is FULL and returns its data. -/
  | waitf (d : BitVec 7) (b : BitVec 7) (c : BitVec 3) (k : BitVec 3)
  /-- CNTDN (R362). Counts a tagged word down, setting it FULL when it reaches 0. -/
  | cntdn (d : BitVec 7) (b : BitVec 7) (c : BitVec 3) (k : BitVec 3)
  /-- TAGQ (R364). Returns whether a word's tag is FULL. -/
  | tagq (d : BitVec 7) (b : BitVec 7) (o : BitVec 6)
  /-- BINIT (R366). Initialises a barrier object with an expected count. -/
  | binit (a : BitVec 7) (b : BitVec 7) (c : BitVec 1)
  /-- BINIT_FULL (R366). Initialises a barrier object from a 32-byte image in four registers. -/
  | binitFull (a : BitVec 7) (b : BitVec 7) (c : BitVec 1)
  /-- ARRIVE (R367). Counts one arrival at a barrier as a release. -/
  | arrive (a : BitVec 7) (c : BitVec 1)
  /-- ARRIVE_EXPECT (R367). Counts one arrival and announces expected bytes at a barrier. -/
  | arriveExpect (a : BitVec 7) (b : BitVec 7) (c : BitVec 1)
  /-- BWAIT (R367). Waits until a barrier's phase differs from φ, then acquires. -/
  | bwait (a : BitVec 7) (b : BitVec 7) (c : BitVec 1)
  /-- FADD (R370). Floating-point add of scalar or packed elements. -/
  | fadd (d : BitVec 7) (a : BitVec 7) (b : BitVec 7) (t : BitVec 3)
  /-- FSUB (R370). Floating-point subtract. -/
  | fsub (d : BitVec 7) (a : BitVec 7) (b : BitVec 7) (t : BitVec 3)
  /-- FMUL (R370). Floating-point multiply. -/
  | fmul (d : BitVec 7) (a : BitVec 7) (b : BitVec 7) (t : BitVec 3)
  /-- FFMA (R370). Fused multiply-add d + a × b, rounded once. -/
  | ffma (d : BitVec 7) (a : BitVec 7) (b : BitVec 7) (t : BitVec 3)
  /-- FFMS (R370). Fused multiply-subtract d − a × b, rounded once. -/
  | ffms (d : BitVec 7) (a : BitVec 7) (b : BitVec 7) (t : BitVec 3)
  /-- FMIN (R371). Floating-point minimum, with NaN-avoiding selection. -/
  | fmin (d : BitVec 7) (a : BitVec 7) (b : BitVec 7) (t : BitVec 3)
  /-- FMAX (R371). Floating-point maximum, with NaN-avoiding selection. -/
  | fmax (d : BitVec 7) (a : BitVec 7) (b : BitVec 7) (t : BitVec 3)
  /-- FCMP (R372). Compares f32 or bf16 values and combines the result into a predicate. -/
  | fcmp (p : BitVec 5) (c : BitVec 2) (a : BitVec 7) (b : BitVec 7) (t : BitVec 1) (r : BitVec 3)
  /-- FCVT (R374). Converts between floating-point formats under a rounding code. -/
  | fcvt (d : BitVec 7) (a : BitVec 7) (k : BitVec 7) (s : BitVec 1) (r : BitVec 3)
  /-- FRND (R375). Rounds a float to an integral value in the same format. -/
  | frnd (d : BitVec 7) (a : BitVec 7) (t : BitVec 3) (r : BitVec 3)
  /-- FTOI (R375). Converts a float to an integer type. -/
  | ftoi (d : BitVec 7) (a : BitVec 7) (t : BitVec 3) (i : BitVec 2) (s : BitVec 1) (r : BitVec 3)
  /-- ITOF (R375). Converts an integer to a float format. -/
  | itof (d : BitVec 7) (a : BitVec 7) (t : BitVec 3) (i : BitVec 2) (s : BitVec 1) (r : BitVec 3)
  /-- FSPEC (R376). Evaluates a special function within the stated accuracy. -/
  | fspec (d : BitVec 7) (a : BitVec 7) (t : BitVec 3) (f : BitVec 4)
  /-- FDOT (R378). Dot product of packed elements added to an accumulator, rounded or wrapped once. -/
  | fdot (d : BitVec 7) (a : BitVec 7) (b : BitVec 7) (f : BitVec 4)
  /-- FSCALE (R379). Scales elements by 2ⁿ with n from a register. -/
  | fscale (d : BitVec 7) (a : BitVec 7) (b : BitVec 7) (t : BitVec 3)
  /-- FSCALE_E8M0 (R379). Scales elements by an E8M0 factor. -/
  | fscaleE8m0 (d : BitVec 7) (a : BitVec 7) (b : BitVec 7) (t : BitVec 3)
  /-- KVMIN (R380). Selects the smaller of two key–id pairs. -/
  | kvmin (d : BitVec 7) (a : BitVec 7) (b : BitVec 7) (k : BitVec 2)
  /-- KVMAX (R380). Selects the larger of two key–id pairs. -/
  | kvmax (d : BitVec 7) (a : BitVec 7) (b : BitVec 7) (k : BitVec 2)
  /-- XSHF (R382). Shuffles register values among the members of a row at a rendezvous. -/
  | xshf (d : BitVec 7) (a : BitVec 7) (m : BitVec 7) (k : BitVec 2)
  /-- XRED (R383). Reduces all members' values and gives the result to every member. -/
  | xred (d : BitVec 7) (a : BitVec 7) (m : BitVec 7) (f : BitVec 4)
  /-- XSCAN (R384). Inclusive or exclusive prefix combination over the members. -/
  | xscan (d : BitVec 7) (a : BitVec 7) (m : BitVec 7) (e : BitVec 1) (o : BitVec 3)
  /-- XVOTE (R385). Votes all, any, uniform or ballot over the members. -/
  | xvote (d : BitVec 7) (a : BitVec 7) (m : BitVec 7) (f : BitVec 4)
  /-- XBCAST (R386). Broadcasts the lowest-lane member's value. -/
  | xbcast (d : BitVec 7) (a : BitVec 7) (m : BitVec 7)
  /-- XBCAST_LANE (R386). Broadcasts the value of a chosen lane. -/
  | xbcastLane (d : BitVec 7) (a : BitVec 7) (m : BitVec 7)
  /-- XELECT (R387). Elects the lowest-lane member. -/
  | xelect (d : BitVec 7) (m : BitVec 7)
  /-- XELECT_IF (R387). Elects the lowest-lane member whose operand bit 0 is set. -/
  | xelectIf (d : BitVec 7) (a : BitVec 7) (m : BitVec 7)
  /-- XMATCH (R388). Returns masks of members with equal values. -/
  | xmatch (d : BitVec 7) (a : BitVec 7) (m : BitVec 7) (f : BitVec 4)
  /-- TDEF (R397). Loads a tensor entry from a 128-byte image and resets its placement. -/
  | tdef (a : BitVec 7) (t : BitVec 10)
  /-- TDEF_QUERY (R397). Reads one dword of a tensor entry. -/
  | tdefQuery (d : BitVec 7) (t : BitVec 10) (s : BitVec 4)
  /-- TDEF_BIND (R397). Sets a tensor entry's base and space. -/
  | tdefBind (a : BitVec 7) (b : BitVec 7) (t : BitVec 10)
  /-- TDEF_FILL (R397). Sets a tensor entry's fill value. -/
  | tdefFill (a : BitVec 7) (t : BitVec 10)
  /-- TDEF_BOUNDS (R397). Sets one bound of a tensor entry. -/
  | tdefBounds (a : BitVec 7) (t : BitVec 10) (s : BitVec 3)
  /-- TLD (R399). Copies a tile from a memory-side tensor into scratchpad as stored. -/
  | tld (d : BitVec 7) (a : BitVec 7) (b : BitVec 7) (ts : BitVec 10) (td : BitVec 10)
  /-- TLD_DEM (R399). Copies a tile after waiting for or converting to a demanded placement. -/
  | tldDem (d : BitVec 7) (a : BitVec 7) (b : BitVec 7) (ts : BitVec 10) (td : BitVec 10)
  /-- TST (R399). Stores a scratchpad tile into a memory-side tensor. -/
  | tst (d : BitVec 7) (a : BitVec 7) (b : BitVec 7) (ts : BitVec 10) (td : BitVec 10)
  /-- MMA (R404). Signs a convergence register; at the completing signature one matrix multiply-accumulate issues. -/
  | mma (tile : BitVec 6) (a : BitVec 7) (b : BitVec 7) (acc : BitVec 1) (sat : BitVec 1) (kind : BitVec 2) (ta : BitVec 10) (tb : BitVec 10) (cv : BitVec 3) (k : BitVec 7) (n : BitVec 2)
  /-- ACC_ZERO (R408). Zeroes an accumulator tile. -/
  | accZero (tile : BitVec 6)
  /-- ACC_LD (R408). Loads tensor elements into an accumulator tile, widening to f32. -/
  | accLd (a : BitVec 7) (tile : BitVec 6) (t : BitVec 10)
  /-- ACC_ST (R409). Converts, scales and stores an accumulator tile into a tensor. -/
  | accSt (a : BitVec 7) (b : BitVec 7) (tile : BitVec 6) (t : BitVec 10) (r : BitVec 3) (sat : BitVec 1) (it : BitVec 1)
  /-- ACC_RD (R408). Reads two accumulator elements into a register. -/
  | accRd (d : BitVec 7) (a : BitVec 7) (tile : BitVec 6)
  /-- META_LD (R411). Copies bytes into metadata memory. -/
  | metaLd (a : BitVec 7) (b : BitVec 7) (off : BitVec 12) (s : BitVec 1)
  /-- META_COMPRESS (R412). Prunes a dense tile to N-of-64 per column and writes the kept elements and masks. -/
  | metaCompress (a : BitVec 7) (b : BitVec 7) (ts : BitVec 10) (td : BitVec 10) (k : BitVec 7) (n : BitVec 2)
  /-- META_EXPAND (R413). Expands kept elements and masks back into a dense tile. -/
  | metaExpand (a : BitVec 7) (b : BitVec 7) (ts : BitVec 10) (td : BitVec 10) (k : BitVec 7) (n : BitVec 2)
  /-- META_RD (R411). Reads a metadata dword into a register. -/
  | metaRd (d : BitVec 7) (a : BitVec 7)
  /-- CVDECL (R414). Declares a convergence register with a signer count. -/
  | cvdecl (c : BitVec 3) (a : BitVec 7)
  /-- CVSTAT (R414). Reads a convergence register's state. -/
  | cvstat (d : BitVec 7) (c : BitVec 3)
  /-- CVCLEAR (R414). Returns a declared convergence register without signers to idle. -/
  | cvclear (c : BitVec 3)
  /-- TCOPY (R419). Copies or combines a tensor tile into one or more target slots as an engine command. -/
  | tcopy (d : BitVec 7) (a : BitVec 7) (b : BitVec 7) (t : BitVec 10) (r : BitVec 7) (j : BitVec 7) (c : BitVec 7)
  /-- CHAIN (R420). Runs a linked list of copy and zero-write links as one engine command. -/
  | chain (d : BitVec 7) (a : BitVec 7) (c : BitVec 7)
  /-- PLACE_CONVERT (R421). Converts a distributed tensor to a demanded placement, reporting on a completion target. -/
  | placeConvert (d : BitVec 7) (c : BitVec 7) (t : BitVec 10) (dem : BitVec 16)
  /-- PLACE_SEAL (R421). Seals a local member's slot as a release at system scope. -/
  | placeSeal (d : BitVec 7) (t : BitVec 10) (m : BitVec 2)
  /-- PLACE_UNSEAL (R421). Reopens a sealed tensor's generation. -/
  | placeUnseal (d : BitVec 7) (t : BitVec 10)
  /-- PLACE_QUERY (R421). Returns a tensor's placement state, sealed mask and generation. -/
  | placeQuery (d : BitVec 7) (t : BitVec 10)
  /-- SRCH_SCAN (R422). Queues a top-k scan of an index over the named stacks. -/
  | srchScan (d : BitVec 7) (a : BitVec 7) (b : BitVec 7) (mask : BitVec 8) (k : BitVec 10) (r : BitVec 7) (c : BitVec 7)
  /-- SRCH_DIST (R423). Computes one record's distance and visibility. -/
  | srchDist (d : BitVec 7) (a : BitVec 7) (b : BitVec 7) (e : BitVec 7) (s : BitVec 7)
  /-- SRCH_WALK_LIST (R424). Starts a linked-list walk on the traversal engine. -/
  | srchWalkList (d : BitVec 7) (a : BitVec 7) (b : BitVec 7) (ko : BitVec 9) (no : BitVec 9) (r : BitVec 7) (c : BitVec 7) (n : BitVec 16)
  /-- SRCH_WALK_HASH (R424). Starts a hash-table walk on the traversal engine. -/
  | srchWalkHash (d : BitVec 7) (a : BitVec 7) (b : BitVec 7) (lb : BitVec 5) (sb : BitVec 5) (r : BitVec 7) (c : BitVec 7)
  /-- SRCH_WALK_KV (R424). Starts a key-value block walk on the traversal engine. -/
  | srchWalkKv (d : BitVec 7) (a : BitVec 7) (b : BitVec 7) (lb : BitVec 5) (t : BitVec 16) (lv : BitVec 1) (r : BitVec 7) (c : BitVec 7)
  /-- SRCH_PUSH (R425). Pushes a key–id pair into a heap list at its home. -/
  | srchPush (d : BitVec 7) (a : BitVec 7) (b : BitVec 7)
  /-- SRCH_POP (R425). Removes and returns a heap list's first pair. -/
  | srchPop (d : BitVec 7) (a : BitVec 7)
  /-- SRCH_DRAIN (R425). Empties a heap list and writes its entries as an engine command. -/
  | srchDrain (d : BitVec 7) (a : BitVec 7) (b : BitVec 7) (c : BitVec 7) (s : BitVec 1)
  /-- IXCOMMIT (R426). Advances an index version by compare-and-increment as a release at device scope. -/
  | ixcommit (d : BitVec 7) (a : BitVec 7) (b : BitVec 7)
  /-- IXVER (R426). Reads an index version with a scope and order. -/
  | ixver (d : BitVec 7) (a : BitVec 7) (c : BitVec 3) (k : BitVec 3)
  /-- HOP (R427). Moves the fibre to the stack that holds an HBM address once its counters are 0. -/
  | hop (a : BitVec 7)
  /-- CHAN_CONFIG (R246). Configures the team as a channel endpoint and initialises its slot barriers. -/
  | chanConfig (d : BitVec 7) (a : BitVec 7)
  /-- CHAN_SEND (R247). Sends scratchpad bytes into receive slots once a permit is held. -/
  | chanSend (d : BitVec 7) (a : BitVec 7) (b : BitVec 7) (ch : BitVec 6)
  /-- CHAN_SEND_ACC (R248). Sends accumulator tile rows as FP32. -/
  | chanSendAcc (d : BitVec 7) (b : BitVec 7) (ch : BitVec 6) (tile : BitVec 6)
  /-- CHAN_SEND_ACC_BF16 (R248). Sends accumulator tile rows converted to BF16. -/
  | chanSendAccBf16 (d : BitVec 7) (b : BitVec 7) (ch : BitVec 6) (tile : BitVec 6)
  /-- CHAN_WAIT (R249). Waits for message n to land in its slot and returns the slot offset. -/
  | chanWait (d : BitVec 7) (b : BitVec 7) (ch : BitVec 6) (ln : BitVec 2)
  /-- CHAN_RELEASE (R250). Releases message n and returns its permit toward the sender. -/
  | chanRelease (b : BitVec 7) (ch : BitVec 6) (ln : BitVec 2)
  /-- WDQ_INIT (R429). Loads a work distributor from its record. -/
  | wdqInit (a : BitVec 7) (q : BitVec 4)
  /-- WDQ_NEXT (R429). Requests the next tile from a distributor, answered into scratchpad. -/
  | wdqNext (d : BitVec 7) (a : BitVec 7) (q : BitVec 4) (c : BitVec 7)
  /-- WDQ_ANSWER (R124). A distributor serves one request in arrival order and lands its answer or the end token. -/
  | wdqAnswer (ctx : Nat) (q : Nat)
  /-- WDQ_RESET (R429). Returns a distributor to the unloaded state. -/
  | wdqReset (q : BitVec 4)
  /-- EXT (R307). EXT escape; every extension number of 8 or above enters the emulation handler. -/
  | ext (e : BitVec 7) (m : BitVec 2) (p : BitVec 16) (w1 : BitVec 32) (w2 : BitVec 32) (w3 : BitVec 32)
  /-- IDLE_FLIT_RECEIVED (R44). A good idle flit arrives and its ack_seq frees acknowledged flits in the sender's replay buffer and resets the replay counter. -/
  | idleFlitReceived (port : Nat) (f : WireFlit)
  /-- COLLAPSE_ANSWER (R177). A holder die's answer to a collapse probe reaches the home, clears the holder bit when the die holds no line of the region, and completes the collapse that releases and non-posted atomics wait on. -/
  | collapseAnswer (line : Nat) (die : Nat)
  /-- EVENT_RNR_RETRY (R61). After the host answers an event SEND with RNR, Oseus retries the SEND. -/
  | eventRnrRetry
  /-- COOLANT_SENSOR_POLL (R24). Every 1 ms Oseus reads the coolant supply temperature and flow. -/
  | coolantSensorPoll
  /-- LIFETIME_SAMPLE (R31). Every 1 ms of powered time, Oseus adds the temperature and utilisation samples and power-on time. -/
  | lifetimeSample
  /-- LIFETIME_FLASH_WRITE (R32). Every 60 s, and at an orderly shutdown, Oseus writes the accumulated counters to the older flash copy with a sequence number and CRC. -/
  | lifetimeFlashWrite
  /-- LOAD_IMAGE_QUIESCED (R76). Once every resident team has yielded or been saved, Oseus copies the image, computes its digest, invalidates instruction caches, resumes dispatch and replies. -/
  | loadImageQuiesced
  /-- CM_CONNECT_REQUEST (R35). The communication-manager exchange on wire queue pair 1 connects the management queue pair. -/
  | cmConnectRequest
  /-- RATE_INCREASE_PERIOD (R65). At each rate-increase period, a throttled queue pair's rate rises by step_mbps. -/
  | rateIncreasePeriod
  /-- CONTRIBUTION_RETRY_TIMER (R51). 1 µs after status 2 or 5, the contribution, or an open refused for room, is resent. -/
  | contributionRetryTimer
  /-- CONTRIBUTION_ACK_TIMEOUT (R51). Without an ack for 72,000 aclk the contribution is resent; the eighth time it fails. -/
  | contributionAckTimeout
  /-- COLLECTIVE_IDLE_TIMEOUT (R57). A reducer frees a collective that has seen no traffic for 1 s. -/
  | collectiveIdleTimeout
  /-- INSTANCE_START (R119). A FULL start word with fewer than max_live instances is taken, and a graph instance is admitted and reaches its entry node. -/
  | instanceStart
  /-- DISPATCH (R105). When a core has a free place or a slice becomes ready, the device dispatches or restores by class, deadline, ready time and team index. -/
  | dispatch
  /-- DEADLINE_MISS (R110). An admitted instance still incomplete at its deadline has kind 4 written to the graph's fault word. -/
  | deadlineMiss
  /-- BUDGET_EXHAUSTED (R102). A slice budget counter reaches 0 and the budget-exhausted trap is raised in an eligible fibre, or the team is saved by force. -/
  | budgetExhausted
  /-- BUDGET_GRACE_EXPIRY (R102). 36,000 aclk after the budget reaches 0 without YIELD, the team is saved by force and demoted. -/
  | budgetGraceExpiry
  /-- PREEMPTION_GRACE_EXPIRY (R134). 36,000 aclk after a pre-emption request without YIELD, the team is saved by force. -/
  | preemptionGraceExpiry
  /-- SAVE_COMPLETE (R134). A team's image is complete, its core resources are zeroed and the core is freed. -/
  | saveComplete
  /-- DISCARD_COMPLETE (R138). A discarded team's state is zeroed and it waits as a new slice to relaunch at restart_pc. -/
  | discardComplete
  /-- BIN_TIMER_EXPIRY (R132). A bin timer expires and the bin releases all its fibres. -/
  | binTimerExpiry
  /-- REORDER_TIMER_EXPIRY (R133). The team's reorder timer expires and every group is released in (key, entry) order. -/
  | reorderTimerExpiry
  /-- RENDEZVOUS_TIMEOUT (R155). A rendezvous blocked for rdv_timeout × 256 resident aclk traps every blocked member. -/
  | rendezvousTimeout
  /-- CONVERGENCE_TIMEOUT (R156). A first MMA signature blocked past the time-out traps every signer and clears the signer set. -/
  | convergenceTimeout
  /-- BARRIER_TIMEOUT (R161). A barrier timer reaches its time-out, sets timed_out and traps every blocked waiter. -/
  | barrierTimeout
  /-- SEAL_TIMEOUT (R240). A seal timer expires and its demand, seal, unseal or SEAL node faults or terminates. -/
  | sealTimeout
  /-- PERMIT_TIMEOUT (R250). A CHAN.send blocked for want of a permit past the time-out raises the channel protocol error. -/
  | permitTimeout
  /-- CLAUSE_START (R291). A fibre reaches a clause header, the clause is checked, and it starts once its wait mask is zero. -/
  | clauseStart
  /-- REGION_WINDOW_END (R176). At the end of a 65,536-fclk window the region's degree may step up and its window counters clear. -/
  | regionWindowEnd
  /-- REDF_PERFORM (R180). The stack's arithmetic unit performs a REDF on its word in arrival order. -/
  | redfPerform
  /-- WEIGHT_STORE_REFRESH_START (R171). A refresh group's 3,240-aclk window opens and reads of the group stall. -/
  | weightStoreRefreshStart
  /-- WEIGHT_STORE_REFRESH_END (R171). The refresh window ends, the patrol scrub of the window is done and stalled reads proceed. -/
  | weightStoreRefreshEnd
  /-- RETENTION_ENTRY (R168). An idle array enters retention and is re-encoded with the double-error-correcting code. -/
  | retentionEntry
  /-- SEAL_COMPLETE (R238). A seal completes once every store that passed the check before it is performed, and may close the generation. -/
  | sealComplete
  /-- RET (R333). Jumps to lk. -/
  | ret
  /-- EXIT (R334). Takes pending faults, waits for counters, the store queue and host acknowledgements, then ends the fibre. -/
  | exitF
  /-- YIELD (R338). Ends the slice, continuing on the same core or saving the team resumably. -/
  | yield
  /-- YIELD_SAVE (R338). Ends the slice and saves the team resumably, or answers a pending pre-emption. -/
  | yieldSave
  /-- YIELD_RESTART (R338). Discards the team for relaunch at restart_pc. -/
  | yieldRestart
  /-- RFT_RESUME (R282). Restores the frame and resumes at its pc. -/
  | rftResume
  /-- RFT_SKIP (R282). Restores the frame and continues at skip_pc. -/
  | rftSkip
  /-- RFT_KILL (R283). Terminates the job with fault-word kind 3 and the frame's cause. -/
  | rftKill
  /-- FENCE_LIGHT (R199). The light side of the asymmetric fence pair; keeps program order only. -/
  | fenceLight
  /-- HOP_HOME (R427). Moves the fibre back to its originating core. -/
  | hopHome
  /-- POWER_LOSS (R32). Module power is lost; increments not yet written to flash are lost, and an interrupted flash write leaves the previous valid copy. -/
  | powerLoss
  /-- HOST_LINK_RETRAIN (R31). The host Ethernet link loses its partner and retrains, and the retrain is counted in link_retrain instance 0. -/
  | hostLinkRetrain
  deriving DecidableEq, Repr

end Sys2Proof
end

