-- ==== Sys2Proof/WellFormed.lean ====
section
/-! DEFINITION. The checks a decoded word must pass to be an instruction: every fn value, condition, size, selector, scope and order code is one that the description of the instruction assigns (15 R306, 09 R188). What depends on the state (the register window, the space of the team) is checked when the instruction executes. -/

namespace Sys2Proof

/-- A scope code of 09 Table 9.1. -/
def wfScope (c : BitVec 3) : Bool := decide (c.toNat ≤ 5)

/-- An order an access that only reads may carry: relaxed or acquire (09 R188). -/
def wfReads (k : BitVec 3) : Bool := k == 0 || k == 1

/-- An order an access that only writes may carry: relaxed or release (09 R188). -/
def wfWrites (k : BitVec 3) : Bool := k == 0 || k == 2

/-- An order an access that reads and writes may carry (09 R188). -/
def wfBoth (k : BitVec 3) : Bool := decide (k.toNat ≤ 3)

/-- A size code of format M: b8 to b64, or b128 with an even register (15 R302). -/
def wfSize (d : BitVec 7) (z : BitVec 3) : Bool :=
  decide (z.toNat ≤ 3) || (z == 4 && decide (d.toNat % 2 = 0))

/-- An atomic: its operation, scope, space, and the orders of its two forms (17 R353, R354). -/
def wfAtom (d : BitVec 7) (f : BitVec 4) (c k : BitVec 3) (r : BitVec 1) (s : BitVec 2) : Bool :=
  decide (f.toNat ≤ 9) && wfScope c && decide (s.toNat ≤ 2) &&
    (if r == 1 then wfWrites k && d == 0 else wfBoth k)

/-- A selector of 16 Table 16.4. -/
def wfSelector (s : BitVec 11) : Bool :=
  decide (s.toNat ≤ 7) || (decide (0x10 ≤ s.toNat) && decide (s.toNat ≤ 0x15))

/-- The further words an EXT word does not announce are held as 0 (15 R307). -/
def wfExt (m : BitVec 2) (w1 w2 w3 : BitVec 32) : Bool :=
  (decide (1 ≤ m.toNat) || w1 == 0) && (decide (2 ≤ m.toNat) || w2 == 0) && (decide (3 ≤ m.toNat) || w3 == 0)

/-- The first register of a pair is even (18 R380, 20 R425). -/
def wfPair (r : BitVec 7) : Bool := decide (r.toNat % 2 = 0)

/-- A demand whose bits are valid whatever the tensor: no reserved code, bit 15 clear (11 R234). -/
def wfDemand (d : BitVec 16) : Bool :=
  decide (d.toNat < 2 ^ 15) && [1, 32, 1024].all (fun k => decide (d.toNat / k % 4 ≠ 3))

/-- A conversion code of 18 Table 18.4: an exact one takes fn 0, the others a rounding code of Table 18.3. -/
def wfFcvt (k : BitVec 7) (s : BitVec 1) (r : BitVec 3) : Bool :=
  let c := k.toNat
  if c = 2 ∨ c = 3 ∨ c = 6 ∨ c = 7 ∨ c = 9 ∨ (0x14 ≤ c ∧ c ≤ 0x17) then s == 0 && r == 0
  else (decide (c ≤ 0xB) || (decide (0x10 ≤ c) && decide (c ≤ 0x13))) && decide (r.toNat ≤ 5)

/-- The static checks of one instruction; a device step has none. -/
def Instr.wf : Instr → Bool
  | .powerGood _ _ _ => true
  | .moduleReset _ _ _ => true
  | .junctionStop _ => true
  | .thermalGuardEvaluation _ _ _ => true
  | .createContext _ => true
  | .destroyContext _ => true
  | .setReservations _ => true
  | .mapMemory _ => true
  | .unmapMemory _ => true
  | .dieSweepAnswer _ => true
  | .loadImage _ => true
  | .loadGraph _ => true
  | .unloadGraph _ => true
  | .createQueuePair _ => true
  | .destroyQueuePair _ => true
  | .grantPeerAccess _ => true
  | .setGrid _ => true
  | .portUp _ => true
  | .setLinkParameters _ => true
  | .readCounters _ => true
  | .readRecords _ => true
  | .attest _ => true
  | .firmwareLoad _ => true
  | .raiseSecurityMinimum _ => true
  | .resetMsg _ => true
  | .unassignedMessageType _ => true
  | .rdmaWriteReceived _ _ _ _ => true
  | .rdmaReadReceived _ _ _ _ => true
  | .rdmaFetchAddReceived _ _ _ _ => true
  | .rdmaCompareSwapReceived _ _ _ _ _ => true
  | .rdmaInvalidRequest _ => true
  | .congestionNotificationReceived _ => true
  | .ecnMarkedPacketReceived _ => true
  | .pfcPauseFrame _ _ => true
  | .hostRdmaResponse _ _ _ => true
  | .hostWriteAck _ _ => true
  | .qpAckTimeout _ => true
  | .flitSend _ => true
  | .badFlitReceived _ => true
  | .linkControlFlit _ _ => true
  | .ackReturnTimer _ => true
  | .replayTimeout _ => true
  | .linkRetrainDone _ _ => true
  | .peerReadRequest _ _ => true
  | .peerWriteRequest _ _ => true
  | .peerAtomicRequest _ _ => true
  | .peerReadResponse _ _ => true
  | .peerWriteAck _ _ => true
  | .peerAtomicResponse _ _ => true
  | .reductionContribution _ _ => true
  | .topKContribution _ _ => true
  | .contributionAck _ _ => true
  | .collectiveOpen _ _ => true
  | .collectiveOpenAck _ _ => true
  | .collectiveResult _ _ => true
  | .collectiveClose _ _ => true
  | .collectiveCloseAck _ _ => true
  | .jobReady _ _ => true
  | .jobComplete _ _ => true
  | .sealNodeComplete _ _ => true
  | .restoreComplete _ => true
  | .redirectEntryCompletion _ => true
  | .longLatencyDrop _ _ _ => true
  | .storePerform _ _ => true
  | .collapseProbe _ _ => true
  | .cuttingFill _ _ => true
  | .resizeSwitchPoint _ _ _ => true
  | .engineLanding _ => true
  | .engineCompletionWord _ => true
  | .mmaComplete _ => true
  | .scanStart _ => true
  | .scanComplete _ _ => true
  | .scanRefreshPause _ => true
  | .scanResume _ => true
  | .walkStep _ => true
  | .hopLand _ _ => true
  | .nearSlotEntry _ => true
  | .hopHomeArrival _ _ => true
  | .returnTrap _ _ => true
  | .returnTrapResume _ _ => true
  | .slotLanding _ => true
  | .permitReturn _ _ => true
  | .conversionInput _ _ _ _ _ => true
  | .conversionComplete _ _ => true
  | .add _ _ _ f => decide (f.toNat ≤ 5)
  | .sub _ _ _ f => decide (f.toNat ≤ 5)
  | .addi _ _ _ => true
  | .mul _ _ _ f => decide (f.toNat ≤ 3) || f == 6 || f == 7
  | .mad _ _ _ f => decide (f.toNat ≤ 5)
  | .div _ _ _ _ _ => true
  | .rem _ _ _ _ _ => true
  | .minmax _ _ _ _ _ _ => true
  | .andR _ _ _ => true
  | .orR _ _ _ => true
  | .xorR _ _ _ => true
  | .andn _ _ _ => true
  | .andi _ _ _ => true
  | .ori _ _ _ => true
  | .xori _ _ _ => true
  | .shift _ _ _ _ _ => true
  | .shifti _ _ w _ c => !(w == 1 && decide (32 ≤ c.toNat))
  | .bfx _ _ _ _ => true
  | .bfi _ _ _ _ => true
  | .bitop _ _ f => decide (f.toNat ≤ 9)
  | .mov _ _ f => decide (f.toNat ≤ 6)
  | .movRdp _ => true
  | .movWrp _ => true
  | .movFromSpecial _ c => decide (c.toNat ≤ 4)
  | .movToSpecial c _ => decide (c.toNat ≤ 4)
  | .movi _ _ => true
  | .movl _ _ => true
  | .movlS _ _ => true
  | .movlHi _ _ => true
  | .lea _ _ _ _ _ => true
  | .cmp _ _ _ _ n => decide (n.toNat ≤ 11)
  | .cmpi _ _ _ _ n => decide (n.toNat ≤ 11)
  | .plog _ _ _ _ _ => true
  | .pred _ _ _ => true
  | .bra _ _ _ => true
  | .call _ _ _ => true
  | .jmp _ => true
  | .callr _ => true
  | .spawn _ _ _ n _ => decide (n.toNat ≤ 4)
  | .rebin _ _ _ n _ => decide (n.toNat ≤ 4)
  | .trap _ => true
  | .sysrd _ s => wfSelector s
  | .syswr _ s => wfSelector s
  | .fence c k => wfScope c && decide (1 ≤ k.toNat) && decide (k.toNat ≤ 4)
  | .fenceHeavy _ => true
  | .ld d _ _ _ z => wfSize d z
  | .st d _ _ _ z => wfSize d z
  | .lds _ _ c k _ z => decide (z.toNat ≤ 3) && wfScope c && wfReads k
  | .sts _ _ c k _ z => decide (z.toNat ≤ 3) && wfScope c && wfWrites k
  | .ldp _ _ _ _ _ => true
  | .stp _ _ _ _ _ => true
  | .stn _ _ _ _ => true
  | .stm _ _ _ _ => true
  | .ldnr d _ _ s z => wfSize d z && (s == 0 || s == 3)
  | .pref _ _ s _ => s == 0 || s == 3
  | .preq _ _ _ s _ => s == 0
  | .atom32 d _ _ f c k r s => wfAtom d f c k r s
  | .atom64 d _ _ f c k r s => wfAtom d f c k r s
  | .cas _ _ _ _ c k s => wfScope c && wfBoth k && decide (s.toNat ≤ 2)
  | .red _ _ f c k s _ => decide (f.toNat ≤ 8) && wfScope c && wfWrites k && decide (s.toNat ≤ 2)
  | .redf _ _ f t => decide (f.toNat ≤ 2) && decide (t.toNat ≤ 2)
  | .acqr _ _ s => decide (2 ≤ s.toNat) && decide (s.toNat ≤ 5)
  | .cacheFlush _ => true
  | .cacheInval _ => true
  | .cacheRetain _ => true
  | .cacheEvict _ => true
  | .resize _ _ => true
  | .resizeRel _ _ => true
  | .cacheWays _ => true
  | .rqdeg _ _ => true
  | .fill _ c k => wfScope c && wfWrites k
  | .fillVal _ _ c k => wfScope c && wfWrites k
  | .fillEmpty _ c k => wfScope c && wfWrites k
  | .take _ _ c k => wfScope c && wfBoth k
  | .waitf _ _ c k => wfScope c && wfReads k
  | .cntdn _ _ c k => wfScope c && wfWrites k
  | .tagq _ _ _ => true
  | .binit _ _ _ => true
  | .binitFull _ _ _ => true
  | .arrive _ _ => true
  | .arriveExpect _ _ _ => true
  | .bwait _ _ _ => true
  | .fadd _ _ _ t => decide (t.toNat ≤ 5)
  | .fsub _ _ _ t => decide (t.toNat ≤ 5)
  | .fmul _ _ _ t => decide (t.toNat ≤ 5)
  | .ffma _ _ _ t => decide (t.toNat ≤ 5)
  | .ffms _ _ _ t => decide (t.toNat ≤ 5)
  | .fmin _ _ _ t => decide (t.toNat ≤ 5)
  | .fmax _ _ _ t => decide (t.toNat ≤ 5)
  | .fcmp _ _ _ _ _ _ => true
  | .fcvt _ _ k s r => wfFcvt k s r
  | .frnd _ _ t r => decide (t.toNat ≤ 2) && decide (r.toNat ≤ 5)
  | .ftoi _ _ t _ _ r => decide (t.toNat ≤ 2) && decide (r.toNat ≤ 5)
  | .itof _ _ t _ _ r => decide (t.toNat ≤ 2) && decide (r.toNat ≤ 5)
  | .fspec _ _ t f => decide (t.toNat ≤ 5) && decide (f.toNat ≤ 9)
  | .fdot _ _ _ f => decide (f.toNat ≤ 5)
  | .fscale _ _ _ t => decide (t.toNat ≤ 5)
  | .fscaleE8m0 _ _ _ t => decide (t.toNat ≤ 5)
  | .kvmin d a b k => wfPair d && wfPair a && wfPair b && decide (k.toNat ≤ 2)
  | .kvmax d a b k => wfPair d && wfPair a && wfPair b && decide (k.toNat ≤ 2)
  | .xshf _ _ _ _ => true
  | .xred _ _ _ f => decide (f.toNat ≤ 10)
  | .xscan _ _ _ _ o => decide (o.toNat ≤ 6)
  | .xvote _ _ _ f => decide (f.toNat ≤ 3)
  | .xbcast _ _ _ => true
  | .xbcastLane _ _ _ => true
  | .xelect _ _ => true
  | .xelectIf _ _ _ => true
  | .xmatch _ _ _ f => decide (f.toNat ≤ 3)
  | .tdef _ _ => true
  | .tdefQuery _ _ _ => true
  | .tdefBind _ _ _ => true
  | .tdefFill _ _ => true
  | .tdefBounds _ _ s => decide (s.toNat ≤ 4)
  | .tld _ _ _ _ _ => true
  | .tldDem _ _ _ _ _ => true
  | .tst _ _ _ _ _ => true
  | .mma _ _ _ _ _ kind _ _ _ _ n => decide (kind.toNat ≤ 2) && decide (n.toNat ≤ 2) && (kind == 1 || n == 0)
  | .accZero _ => true
  | .accLd _ _ _ => true
  | .accSt _ _ _ _ r _ _ => decide (r.toNat ≤ 5)
  | .accRd _ _ _ => true
  | .metaLd _ _ _ _ => true
  | .metaCompress _ _ _ _ _ n => decide (n.toNat ≤ 2)
  | .metaExpand _ _ _ _ _ n => decide (n.toNat ≤ 2)
  | .metaRd _ _ => true
  | .cvdecl _ _ => true
  | .cvstat _ _ => true
  | .cvclear _ => true
  | .tcopy _ _ _ _ _ _ _ => true
  | .chain _ _ _ => true
  | .placeConvert _ _ _ dem => wfDemand dem
  | .placeSeal _ _ _ => true
  | .placeUnseal _ _ => true
  | .placeQuery _ _ => true
  | .srchScan _ _ _ mask _ _ _ => mask != 0
  | .srchDist _ _ _ _ _ => true
  | .srchWalkList _ _ _ _ _ _ _ _ => true
  | .srchWalkHash _ _ _ _ _ _ _ => true
  | .srchWalkKv _ _ _ _ _ _ _ _ => true
  | .srchPush _ _ b => wfPair b
  | .srchPop d _ => wfPair d
  | .srchDrain _ _ _ _ _ => true
  | .ixcommit _ _ _ => true
  | .ixver _ _ c k => wfScope c && wfReads k
  | .hop _ => true
  | .chanConfig _ _ => true
  | .chanSend _ _ _ _ => true
  | .chanSendAcc _ _ _ _ => true
  | .chanSendAccBf16 _ _ _ _ => true
  | .chanWait _ _ _ _ => true
  | .chanRelease _ _ _ => true
  | .wdqInit _ _ => true
  | .wdqNext _ _ _ _ => true
  | .wdqAnswer _ _ => true
  | .wdqReset _ => true
  | .ext _ m _ w1 w2 w3 => wfExt m w1 w2 w3
  | .idleFlitReceived _ _ => true
  | .collapseAnswer _ _ => true
  | .eventRnrRetry => true
  | .coolantSensorPoll => true
  | .lifetimeSample => true
  | .lifetimeFlashWrite => true
  | .loadImageQuiesced => true
  | .cmConnectRequest => true
  | .rateIncreasePeriod => true
  | .contributionRetryTimer => true
  | .contributionAckTimeout => true
  | .collectiveIdleTimeout => true
  | .instanceStart => true
  | .dispatch => true
  | .deadlineMiss => true
  | .budgetExhausted => true
  | .budgetGraceExpiry => true
  | .preemptionGraceExpiry => true
  | .saveComplete => true
  | .discardComplete => true
  | .binTimerExpiry => true
  | .reorderTimerExpiry => true
  | .rendezvousTimeout => true
  | .convergenceTimeout => true
  | .barrierTimeout => true
  | .sealTimeout => true
  | .permitTimeout => true
  | .clauseStart => true
  | .regionWindowEnd => true
  | .redfPerform => true
  | .weightStoreRefreshStart => true
  | .weightStoreRefreshEnd => true
  | .retentionEntry => true
  | .sealComplete => true
  | .ret => true
  | .exitF => true
  | .yield => true
  | .yieldSave => true
  | .yieldRestart => true
  | .rftResume => true
  | .rftSkip => true
  | .rftKill => true
  | .fenceLight => true
  | .hopHome => true
  | .powerLoss => true
  | .hostLinkRetrain => true

end Sys2Proof
end

