-- ==== Sys2Proof/Decode.lean ====
section
/-! DEFINITION. The decoder of Limsel base 1, from the first word's major opcode down, the lengths of instructions (15 Table 15.6), and the encoder, both written from the formats of 15 R298 to R304 and the forms of chapters 16 to 20. -/

namespace Sys2Proof

/-- Why a sequence of words is no instruction. -/
inductive DecodeError where
  /-- Fewer words than the instruction has. -/
  | shortWords
  /-- The major opcode is unassigned (15 R306): the word belongs to no clause class. -/
  | unassignedOpcode
  /-- No form of the opcode has these fixed bits: a reserved field is not 0, or the sub-form code is unassigned (15 R298, R306). -/
  | unassignedForm
  /-- A condition, size, scope, order, selector or operation code that the form does not assign (15 R306, 09 R188). -/
  | illegalOperand
  deriving DecidableEq, Repr


/-- The forms of opcode 0x01: add. -/
def decode01 (w0 : Nat) : Except DecodeError Instr :=
  .ok (.add (fieldOf w0 18 7) (fieldOf w0 11 7) (fieldOf w0 4 7) (fieldOf w0 0 4))

/-- The forms of opcode 0x02: sub. -/
def decode02 (w0 : Nat) : Except DecodeError Instr :=
  .ok (.sub (fieldOf w0 18 7) (fieldOf w0 11 7) (fieldOf w0 4 7) (fieldOf w0 0 4))

/-- The forms of opcode 0x03: addi. -/
def decode03 (w0 : Nat) : Except DecodeError Instr :=
  .ok (.addi (fieldOf w0 18 7) (fieldOf w0 11 7) (fieldOf w0 0 11))

/-- The forms of opcode 0x04: mul. -/
def decode04 (w0 : Nat) : Except DecodeError Instr :=
  .ok (.mul (fieldOf w0 18 7) (fieldOf w0 11 7) (fieldOf w0 4 7) (fieldOf w0 0 4))

/-- The forms of opcode 0x05: mad. -/
def decode05 (w0 : Nat) : Except DecodeError Instr :=
  .ok (.mad (fieldOf w0 18 7) (fieldOf w0 11 7) (fieldOf w0 4 7) (fieldOf w0 0 4))

/-- The forms of opcode 0x06: div, rem. -/
def decode06 (w0 : Nat) : Except DecodeError Instr :=
  if bitsOf w0 1 1 = 0 ∧ bitsOf w0 3 1 = 0 then
    .ok (.div (fieldOf w0 18 7) (fieldOf w0 11 7) (fieldOf w0 4 7) (fieldOf w0 2 1) (fieldOf w0 0 1))
  else if bitsOf w0 1 1 = 1 ∧ bitsOf w0 3 1 = 0 then
    .ok (.rem (fieldOf w0 18 7) (fieldOf w0 11 7) (fieldOf w0 4 7) (fieldOf w0 2 1) (fieldOf w0 0 1))
  else .error .unassignedForm

/-- The forms of opcode 0x07: minmax. -/
def decode07 (w0 : Nat) : Except DecodeError Instr :=
  if bitsOf w0 3 1 = 0 then
    .ok (.minmax (fieldOf w0 18 7) (fieldOf w0 11 7) (fieldOf w0 4 7) (fieldOf w0 2 1) (fieldOf w0 1 1) (fieldOf w0 0 1))
  else .error .unassignedForm

/-- The forms of opcode 0x08: and. -/
def decode08 (w0 : Nat) : Except DecodeError Instr :=
  if bitsOf w0 0 4 = 0 then
    .ok (.andR (fieldOf w0 18 7) (fieldOf w0 11 7) (fieldOf w0 4 7))
  else .error .unassignedForm

/-- The forms of opcode 0x09: or. -/
def decode09 (w0 : Nat) : Except DecodeError Instr :=
  if bitsOf w0 0 4 = 0 then
    .ok (.orR (fieldOf w0 18 7) (fieldOf w0 11 7) (fieldOf w0 4 7))
  else .error .unassignedForm

/-- The forms of opcode 0x0A: xor. -/
def decode0A (w0 : Nat) : Except DecodeError Instr :=
  if bitsOf w0 0 4 = 0 then
    .ok (.xorR (fieldOf w0 18 7) (fieldOf w0 11 7) (fieldOf w0 4 7))
  else .error .unassignedForm

/-- The forms of opcode 0x0B: andn. -/
def decode0B (w0 : Nat) : Except DecodeError Instr :=
  if bitsOf w0 0 4 = 0 then
    .ok (.andn (fieldOf w0 18 7) (fieldOf w0 11 7) (fieldOf w0 4 7))
  else .error .unassignedForm

/-- The forms of opcode 0x0C: andi. -/
def decode0C (w0 : Nat) : Except DecodeError Instr :=
  .ok (.andi (fieldOf w0 18 7) (fieldOf w0 11 7) (fieldOf w0 0 11))

/-- The forms of opcode 0x0D: ori. -/
def decode0D (w0 : Nat) : Except DecodeError Instr :=
  .ok (.ori (fieldOf w0 18 7) (fieldOf w0 11 7) (fieldOf w0 0 11))

/-- The forms of opcode 0x0E: xori. -/
def decode0E (w0 : Nat) : Except DecodeError Instr :=
  .ok (.xori (fieldOf w0 18 7) (fieldOf w0 11 7) (fieldOf w0 0 11))

/-- The forms of opcode 0x0F: shift. -/
def decode0F (w0 : Nat) : Except DecodeError Instr :=
  if bitsOf w0 3 1 = 0 then
    .ok (.shift (fieldOf w0 18 7) (fieldOf w0 11 7) (fieldOf w0 4 7) (fieldOf w0 2 1) (fieldOf w0 0 2))
  else .error .unassignedForm

/-- The forms of opcode 0x10: shifti. -/
def decode10 (w0 : Nat) : Except DecodeError Instr :=
  if bitsOf w0 9 2 = 0 then
    .ok (.shifti (fieldOf w0 18 7) (fieldOf w0 11 7) (fieldOf w0 8 1) (fieldOf w0 6 2) (fieldOf w0 0 6))
  else .error .unassignedForm

/-- The forms of opcode 0x11: bfx. -/
def decode11 (w0 : Nat) : Except DecodeError Instr :=
  .ok (.bfx (fieldOf w0 18 7) (fieldOf w0 11 7) (fieldOf w0 6 5) (fieldOf w0 0 6))

/-- The forms of opcode 0x12: bfi. -/
def decode12 (w0 : Nat) : Except DecodeError Instr :=
  .ok (.bfi (fieldOf w0 18 7) (fieldOf w0 11 7) (fieldOf w0 6 5) (fieldOf w0 0 6))

/-- The forms of opcode 0x13: bitop. -/
def decode13 (w0 : Nat) : Except DecodeError Instr :=
  if bitsOf w0 4 7 = 0 then
    .ok (.bitop (fieldOf w0 18 7) (fieldOf w0 11 7) (fieldOf w0 0 4))
  else .error .unassignedForm

/-- The forms of opcode 0x14: mov.rdp, mov.wrp, mov, mov, mov. -/
def decode14 (w0 : Nat) : Except DecodeError Instr :=
  if bitsOf w0 0 18 = 7 then
    .ok (.movRdp (fieldOf w0 18 7))
  else if bitsOf w0 0 11 = 8 ∧ bitsOf w0 18 7 = 0 then
    .ok (.movWrp (fieldOf w0 11 7))
  else if bitsOf w0 0 11 = 9 then
    .ok (.movFromSpecial (fieldOf w0 18 7) (fieldOf w0 11 7))
  else if bitsOf w0 0 11 = 10 then
    .ok (.movToSpecial (fieldOf w0 18 7) (fieldOf w0 11 7))
  else if bitsOf w0 4 7 = 0 then
    .ok (.mov (fieldOf w0 18 7) (fieldOf w0 11 7) (fieldOf w0 0 4))
  else .error .unassignedForm

/-- The forms of opcode 0x15: movi. -/
def decode15 (w0 : Nat) : Except DecodeError Instr :=
  if bitsOf w0 11 7 = 0 then
    .ok (.movi (fieldOf w0 18 7) (fieldOf w0 0 11))
  else .error .unassignedForm

/-- The forms of opcode 0x16: movl, movl.s, movl.hi. -/
def decode16 (w0 w1 : Nat) : Except DecodeError Instr :=
  if bitsOf w0 0 18 = 0 then
    .ok (.movl (fieldOf w0 18 7) (fieldOf w1 0 32))
  else if bitsOf w0 0 18 = 1 then
    .ok (.movlS (fieldOf w0 18 7) (fieldOf w1 0 32))
  else if bitsOf w0 0 18 = 2 then
    .ok (.movlHi (fieldOf w0 18 7) (fieldOf w1 0 32))
  else .error .unassignedForm

/-- The forms of opcode 0x17: lea. -/
def decode17 (w0 : Nat) : Except DecodeError Instr :=
  .ok (.lea (fieldOf w0 18 7) (fieldOf w0 11 7) (fieldOf w0 4 7) (fieldOf w0 3 1) (fieldOf w0 0 3))

/-- The forms of opcode 0x18: cmp. -/
def decode18 (w0 : Nat) : Except DecodeError Instr :=
  .ok (.cmp (fieldOf w0 20 5) (fieldOf w0 18 2) (fieldOf w0 11 7) (fieldOf w0 4 7) (fieldOf w0 0 4))

/-- The forms of opcode 0x19: cmpi. -/
def decode19 (w0 : Nat) : Except DecodeError Instr :=
  .ok (.cmpi (fieldOf w0 20 5) (fieldOf w0 18 2) (fieldOf w0 11 7) (fieldOf w0 4 7) (fieldOf w0 0 4))

/-- The forms of opcode 0x1A: plog. -/
def decode1A (w0 : Nat) : Except DecodeError Instr :=
  if bitsOf w0 9 2 = 0 ∧ bitsOf w0 16 2 = 0 then
    .ok (.plog (fieldOf w0 20 5) (fieldOf w0 18 2) (fieldOf w0 11 5) (fieldOf w0 4 5) (fieldOf w0 0 4))
  else .error .unassignedForm

/-- The forms of opcode 0x1B: pred. -/
def decode1B (w0 : Nat) : Except DecodeError Instr :=
  if bitsOf w0 0 16 = 0 then
    .ok (.pred (fieldOf w0 20 5) (fieldOf w0 19 1) (fieldOf w0 16 3))
  else .error .unassignedForm

/-- The forms of opcode 0x20: bra. -/
def decode20 (w0 : Nat) : Except DecodeError Instr :=
  .ok (.bra (fieldOf w0 20 5) (fieldOf w0 19 1) (fieldOf w0 0 19))

/-- The forms of opcode 0x21: call. -/
def decode21 (w0 : Nat) : Except DecodeError Instr :=
  .ok (.call (fieldOf w0 20 5) (fieldOf w0 19 1) (fieldOf w0 0 19))

/-- The forms of opcode 0x22: ret, jmp, callr. -/
def decode22 (w0 : Nat) : Except DecodeError Instr :=
  if bitsOf w0 0 25 = 2 then
    .ok (.ret)
  else if bitsOf w0 0 11 = 0 ∧ bitsOf w0 18 7 = 0 then
    .ok (.jmp (fieldOf w0 11 7))
  else if bitsOf w0 0 11 = 1 ∧ bitsOf w0 18 7 = 0 then
    .ok (.callr (fieldOf w0 11 7))
  else .error .unassignedForm

/-- The forms of opcode 0x23: exit. -/
def decode23 (w0 : Nat) : Except DecodeError Instr :=
  if bitsOf w0 0 25 = 0 then
    .ok (.exitF)
  else .error .unassignedForm

/-- The forms of opcode 0x24: spawn. -/
def decode24 (w0 w1 : Nat) : Except DecodeError Instr :=
  if bitsOf w1 16 16 = 0 then
    .ok (.spawn (fieldOf w0 18 7) (fieldOf w0 11 7) (fieldOf w0 4 7) (fieldOf w0 0 4) (fieldOf w1 0 16))
  else .error .unassignedForm

/-- The forms of opcode 0x25: rebin. -/
def decode25 (w0 w1 : Nat) : Except DecodeError Instr :=
  if bitsOf w1 16 16 = 0 then
    .ok (.rebin (fieldOf w0 18 7) (fieldOf w0 11 7) (fieldOf w0 4 7) (fieldOf w0 0 4) (fieldOf w1 0 16))
  else .error .unassignedForm

/-- The forms of opcode 0x26: yield, yield.save, yield.restart. -/
def decode26 (w0 : Nat) : Except DecodeError Instr :=
  if bitsOf w0 0 25 = 0 then
    .ok (.yield)
  else if bitsOf w0 0 25 = 1 then
    .ok (.yieldSave)
  else if bitsOf w0 0 25 = 2 then
    .ok (.yieldRestart)
  else .error .unassignedForm

/-- The forms of opcode 0x27: trap. -/
def decode27 (w0 : Nat) : Except DecodeError Instr :=
  if bitsOf w0 11 14 = 0 then
    .ok (.trap (fieldOf w0 0 11))
  else .error .unassignedForm

/-- The forms of opcode 0x28: rft.resume, rft.skip, rft.kill. -/
def decode28 (w0 : Nat) : Except DecodeError Instr :=
  if bitsOf w0 0 25 = 0 then
    .ok (.rftResume)
  else if bitsOf w0 0 25 = 1 then
    .ok (.rftSkip)
  else if bitsOf w0 0 25 = 2 then
    .ok (.rftKill)
  else .error .unassignedForm

/-- The forms of opcode 0x29: sysrd. -/
def decode29 (w0 : Nat) : Except DecodeError Instr :=
  if bitsOf w0 11 7 = 0 then
    .ok (.sysrd (fieldOf w0 18 7) (fieldOf w0 0 11))
  else .error .unassignedForm

/-- The forms of opcode 0x2A: syswr. -/
def decode2A (w0 : Nat) : Except DecodeError Instr :=
  if bitsOf w0 18 7 = 0 then
    .ok (.syswr (fieldOf w0 11 7) (fieldOf w0 0 11))
  else .error .unassignedForm

/-- The forms of opcode 0x2B: fence.light, fence, fence.heavy. -/
def decode2B (w0 : Nat) : Except DecodeError Instr :=
  if bitsOf w0 0 25 = 8 then
    .ok (.fenceLight)
  else if bitsOf w0 0 5 = 0 ∧ bitsOf w0 11 14 = 0 then
    .ok (.fence (fieldOf w0 8 3) (fieldOf w0 5 3))
  else if bitsOf w0 0 11 = 16 ∧ bitsOf w0 18 7 = 0 then
    .ok (.fenceHeavy (fieldOf w0 11 7))
  else .error .unassignedForm

/-- The forms of opcode 0x30: ld. -/
def decode30 (w0 : Nat) : Except DecodeError Instr :=
  .ok (.ld (fieldOf w0 18 7) (fieldOf w0 11 7) (fieldOf w0 5 6) (fieldOf w0 3 2) (fieldOf w0 0 3))

/-- The forms of opcode 0x31: st. -/
def decode31 (w0 : Nat) : Except DecodeError Instr :=
  .ok (.st (fieldOf w0 18 7) (fieldOf w0 11 7) (fieldOf w0 5 6) (fieldOf w0 3 2) (fieldOf w0 0 3))

/-- The forms of opcode 0x32: lds. -/
def decode32 (w0 : Nat) : Except DecodeError Instr :=
  .ok (.lds (fieldOf w0 18 7) (fieldOf w0 11 7) (fieldOf w0 8 3) (fieldOf w0 5 3) (fieldOf w0 3 2) (fieldOf w0 0 3))

/-- The forms of opcode 0x33: sts. -/
def decode33 (w0 : Nat) : Except DecodeError Instr :=
  .ok (.sts (fieldOf w0 18 7) (fieldOf w0 11 7) (fieldOf w0 8 3) (fieldOf w0 5 3) (fieldOf w0 3 2) (fieldOf w0 0 3))

/-- The forms of opcode 0x34: ldp, stp. -/
def decode34 (w0 : Nat) : Except DecodeError Instr :=
  if bitsOf w0 1 2 = 1 then
    .ok (.ldp (fieldOf w0 18 7) (fieldOf w0 11 7) (fieldOf w0 5 6) (fieldOf w0 3 2) (fieldOf w0 0 1))
  else if bitsOf w0 1 2 = 3 then
    .ok (.stp (fieldOf w0 18 7) (fieldOf w0 11 7) (fieldOf w0 5 6) (fieldOf w0 3 2) (fieldOf w0 0 1))
  else .error .unassignedForm

/-- The forms of opcode 0x35: stn, stm. -/
def decode35 (w0 : Nat) : Except DecodeError Instr :=
  if bitsOf w0 0 3 = 0 then
    .ok (.stn (fieldOf w0 18 7) (fieldOf w0 11 7) (fieldOf w0 5 6) (fieldOf w0 3 2))
  else if bitsOf w0 0 3 = 3 then
    .ok (.stm (fieldOf w0 18 7) (fieldOf w0 11 7) (fieldOf w0 5 6) (fieldOf w0 3 2))
  else .error .unassignedForm

/-- The forms of opcode 0x36: ldnr. -/
def decode36 (w0 : Nat) : Except DecodeError Instr :=
  if bitsOf w0 5 1 = 0 then
    .ok (.ldnr (fieldOf w0 18 7) (fieldOf w0 11 7) (fieldOf w0 6 5) (fieldOf w0 3 2) (fieldOf w0 0 3))
  else .error .unassignedForm

/-- The forms of opcode 0x37: pref, preq. -/
def decode37 (w0 : Nat) : Except DecodeError Instr :=
  if bitsOf w0 1 2 = 0 ∧ bitsOf w0 18 7 = 0 then
    .ok (.pref (fieldOf w0 11 7) (fieldOf w0 5 6) (fieldOf w0 3 2) (fieldOf w0 0 1))
  else if bitsOf w0 1 2 = 1 then
    .ok (.preq (fieldOf w0 18 7) (fieldOf w0 11 7) (fieldOf w0 5 6) (fieldOf w0 3 2) (fieldOf w0 0 1))
  else .error .unassignedForm

/-- The forms of opcode 0x38: atom32. -/
def decode38 (w0 w1 : Nat) : Except DecodeError Instr :=
  if bitsOf w1 9 23 = 0 then
    .ok (.atom32 (fieldOf w0 18 7) (fieldOf w0 11 7) (fieldOf w0 4 7) (fieldOf w0 0 4) (fieldOf w1 0 3) (fieldOf w1 3 3) (fieldOf w1 6 1) (fieldOf w1 7 2))
  else .error .unassignedForm

/-- The forms of opcode 0x39: atom64. -/
def decode39 (w0 w1 : Nat) : Except DecodeError Instr :=
  if bitsOf w1 9 23 = 0 then
    .ok (.atom64 (fieldOf w0 18 7) (fieldOf w0 11 7) (fieldOf w0 4 7) (fieldOf w0 0 4) (fieldOf w1 0 3) (fieldOf w1 3 3) (fieldOf w1 6 1) (fieldOf w1 7 2))
  else .error .unassignedForm

/-- The forms of opcode 0x3A: cas. -/
def decode3A (w0 w1 : Nat) : Except DecodeError Instr :=
  if bitsOf w0 1 3 = 0 ∧ bitsOf w1 6 1 = 0 ∧ bitsOf w1 9 23 = 0 then
    .ok (.cas (fieldOf w0 18 7) (fieldOf w0 11 7) (fieldOf w0 4 7) (fieldOf w0 0 1) (fieldOf w1 0 3) (fieldOf w1 3 3) (fieldOf w1 7 2))
  else .error .unassignedForm

/-- The forms of opcode 0x3B: redf, red. -/
def decode3B (w0 w1 : Nat) : Except DecodeError Instr :=
  if bitsOf w0 18 7 = 0 ∧ bitsOf w1 0 11 = 512 ∧ bitsOf w1 13 19 = 0 then
    .ok (.redf (fieldOf w0 11 7) (fieldOf w0 4 7) (fieldOf w0 0 4) (fieldOf w1 11 2))
  else if bitsOf w0 18 7 = 0 ∧ bitsOf w1 6 1 = 0 ∧ bitsOf w1 9 1 = 0 ∧ bitsOf w1 11 21 = 0 then
    .ok (.red (fieldOf w0 11 7) (fieldOf w0 4 7) (fieldOf w0 0 4) (fieldOf w1 0 3) (fieldOf w1 3 3) (fieldOf w1 7 2) (fieldOf w1 10 1))
  else .error .unassignedForm

/-- The forms of opcode 0x3C: acqr. -/
def decode3C (w0 : Nat) : Except DecodeError Instr :=
  if bitsOf w0 3 1 = 0 ∧ bitsOf w0 18 7 = 0 then
    .ok (.acqr (fieldOf w0 11 7) (fieldOf w0 4 7) (fieldOf w0 0 3))
  else .error .unassignedForm

/-- The forms of opcode 0x3D: cache.flush, cache.inval, cache.retain, cache.evict, cache.ways, resize, resize.rel, rqdeg. -/
def decode3D (w0 : Nat) : Except DecodeError Instr :=
  if bitsOf w0 0 11 = 0 ∧ bitsOf w0 18 7 = 0 then
    .ok (.cacheFlush (fieldOf w0 11 7))
  else if bitsOf w0 0 11 = 1 ∧ bitsOf w0 18 7 = 0 then
    .ok (.cacheInval (fieldOf w0 11 7))
  else if bitsOf w0 0 11 = 2 ∧ bitsOf w0 18 7 = 0 then
    .ok (.cacheRetain (fieldOf w0 11 7))
  else if bitsOf w0 0 11 = 3 ∧ bitsOf w0 18 7 = 0 then
    .ok (.cacheEvict (fieldOf w0 11 7))
  else if bitsOf w0 0 18 = 6 then
    .ok (.cacheWays (fieldOf w0 18 7))
  else if bitsOf w0 0 11 = 4 then
    .ok (.resize (fieldOf w0 18 7) (fieldOf w0 11 7))
  else if bitsOf w0 0 11 = 5 then
    .ok (.resizeRel (fieldOf w0 18 7) (fieldOf w0 11 7))
  else if bitsOf w0 0 11 = 7 then
    .ok (.rqdeg (fieldOf w0 18 7) (fieldOf w0 11 7))
  else .error .unassignedForm

/-- The forms of opcode 0x40: fill, fill.empty, fill.val. -/
def decode40 (w0 w1 : Nat) : Except DecodeError Instr :=
  if bitsOf w0 0 11 = 0 ∧ bitsOf w0 18 7 = 0 ∧ bitsOf w1 6 26 = 0 then
    .ok (.fill (fieldOf w0 11 7) (fieldOf w1 0 3) (fieldOf w1 3 3))
  else if bitsOf w0 0 11 = 2 ∧ bitsOf w0 18 7 = 0 ∧ bitsOf w1 6 26 = 0 then
    .ok (.fillEmpty (fieldOf w0 11 7) (fieldOf w1 0 3) (fieldOf w1 3 3))
  else if bitsOf w0 0 4 = 1 ∧ bitsOf w0 18 7 = 0 ∧ bitsOf w1 6 26 = 0 then
    .ok (.fillVal (fieldOf w0 11 7) (fieldOf w0 4 7) (fieldOf w1 0 3) (fieldOf w1 3 3))
  else .error .unassignedForm

/-- The forms of opcode 0x41: take. -/
def decode41 (w0 : Nat) : Except DecodeError Instr :=
  if bitsOf w0 0 5 = 3 then
    .ok (.take (fieldOf w0 18 7) (fieldOf w0 11 7) (fieldOf w0 8 3) (fieldOf w0 5 3))
  else .error .unassignedForm

/-- The forms of opcode 0x42: waitf. -/
def decode42 (w0 : Nat) : Except DecodeError Instr :=
  if bitsOf w0 0 5 = 3 then
    .ok (.waitf (fieldOf w0 18 7) (fieldOf w0 11 7) (fieldOf w0 8 3) (fieldOf w0 5 3))
  else .error .unassignedForm

/-- The forms of opcode 0x43: cntdn. -/
def decode43 (w0 : Nat) : Except DecodeError Instr :=
  if bitsOf w0 0 5 = 3 then
    .ok (.cntdn (fieldOf w0 18 7) (fieldOf w0 11 7) (fieldOf w0 8 3) (fieldOf w0 5 3))
  else .error .unassignedForm

/-- The forms of opcode 0x44: tagq. -/
def decode44 (w0 : Nat) : Except DecodeError Instr :=
  if bitsOf w0 0 5 = 3 then
    .ok (.tagq (fieldOf w0 18 7) (fieldOf w0 11 7) (fieldOf w0 5 6))
  else .error .unassignedForm

/-- The forms of opcode 0x45: binit, binit.full. -/
def decode45 (w0 : Nat) : Except DecodeError Instr :=
  if bitsOf w0 0 3 = 0 ∧ bitsOf w0 18 7 = 0 then
    .ok (.binit (fieldOf w0 11 7) (fieldOf w0 4 7) (fieldOf w0 3 1))
  else if bitsOf w0 0 3 = 1 ∧ bitsOf w0 18 7 = 0 then
    .ok (.binitFull (fieldOf w0 11 7) (fieldOf w0 4 7) (fieldOf w0 3 1))
  else .error .unassignedForm

/-- The forms of opcode 0x46: arrive, arrive.expect. -/
def decode46 (w0 : Nat) : Except DecodeError Instr :=
  if bitsOf w0 0 3 = 0 ∧ bitsOf w0 4 7 = 0 ∧ bitsOf w0 18 7 = 0 then
    .ok (.arrive (fieldOf w0 11 7) (fieldOf w0 3 1))
  else if bitsOf w0 0 3 = 1 ∧ bitsOf w0 18 7 = 0 then
    .ok (.arriveExpect (fieldOf w0 11 7) (fieldOf w0 4 7) (fieldOf w0 3 1))
  else .error .unassignedForm

/-- The forms of opcode 0x47: bwait. -/
def decode47 (w0 : Nat) : Except DecodeError Instr :=
  if bitsOf w0 0 3 = 0 ∧ bitsOf w0 18 7 = 0 then
    .ok (.bwait (fieldOf w0 11 7) (fieldOf w0 4 7) (fieldOf w0 3 1))
  else .error .unassignedForm

/-- The forms of opcode 0x50: fadd, fsub. -/
def decode50 (w0 : Nat) : Except DecodeError Instr :=
  if bitsOf w0 3 1 = 0 then
    .ok (.fadd (fieldOf w0 18 7) (fieldOf w0 11 7) (fieldOf w0 4 7) (fieldOf w0 0 3))
  else if bitsOf w0 3 1 = 1 then
    .ok (.fsub (fieldOf w0 18 7) (fieldOf w0 11 7) (fieldOf w0 4 7) (fieldOf w0 0 3))
  else .error .unassignedForm

/-- The forms of opcode 0x51: fmul. -/
def decode51 (w0 : Nat) : Except DecodeError Instr :=
  if bitsOf w0 3 1 = 0 then
    .ok (.fmul (fieldOf w0 18 7) (fieldOf w0 11 7) (fieldOf w0 4 7) (fieldOf w0 0 3))
  else .error .unassignedForm

/-- The forms of opcode 0x52: ffma, ffms. -/
def decode52 (w0 : Nat) : Except DecodeError Instr :=
  if bitsOf w0 3 1 = 0 then
    .ok (.ffma (fieldOf w0 18 7) (fieldOf w0 11 7) (fieldOf w0 4 7) (fieldOf w0 0 3))
  else if bitsOf w0 3 1 = 1 then
    .ok (.ffms (fieldOf w0 18 7) (fieldOf w0 11 7) (fieldOf w0 4 7) (fieldOf w0 0 3))
  else .error .unassignedForm

/-- The forms of opcode 0x53: fmin, fmax. -/
def decode53 (w0 : Nat) : Except DecodeError Instr :=
  if bitsOf w0 3 1 = 0 then
    .ok (.fmin (fieldOf w0 18 7) (fieldOf w0 11 7) (fieldOf w0 4 7) (fieldOf w0 0 3))
  else if bitsOf w0 3 1 = 1 then
    .ok (.fmax (fieldOf w0 18 7) (fieldOf w0 11 7) (fieldOf w0 4 7) (fieldOf w0 0 3))
  else .error .unassignedForm

/-- The forms of opcode 0x54: fcmp. -/
def decode54 (w0 : Nat) : Except DecodeError Instr :=
  .ok (.fcmp (fieldOf w0 20 5) (fieldOf w0 18 2) (fieldOf w0 11 7) (fieldOf w0 4 7) (fieldOf w0 3 1) (fieldOf w0 0 3))

/-- The forms of opcode 0x55: fcvt. -/
def decode55 (w0 : Nat) : Except DecodeError Instr :=
  .ok (.fcvt (fieldOf w0 18 7) (fieldOf w0 11 7) (fieldOf w0 4 7) (fieldOf w0 3 1) (fieldOf w0 0 3))

/-- The forms of opcode 0x56: frnd, ftoi, itof. -/
def decode56 (w0 : Nat) : Except DecodeError Instr :=
  if bitsOf w0 3 3 = 0 ∧ bitsOf w0 9 2 = 0 then
    .ok (.frnd (fieldOf w0 18 7) (fieldOf w0 11 7) (fieldOf w0 6 3) (fieldOf w0 0 3))
  else if bitsOf w0 9 2 = 1 then
    .ok (.ftoi (fieldOf w0 18 7) (fieldOf w0 11 7) (fieldOf w0 6 3) (fieldOf w0 4 2) (fieldOf w0 3 1) (fieldOf w0 0 3))
  else if bitsOf w0 9 2 = 2 then
    .ok (.itof (fieldOf w0 18 7) (fieldOf w0 11 7) (fieldOf w0 6 3) (fieldOf w0 4 2) (fieldOf w0 3 1) (fieldOf w0 0 3))
  else .error .unassignedForm

/-- The forms of opcode 0x57: fspec. -/
def decode57 (w0 : Nat) : Except DecodeError Instr :=
  if bitsOf w0 7 4 = 0 then
    .ok (.fspec (fieldOf w0 18 7) (fieldOf w0 11 7) (fieldOf w0 4 3) (fieldOf w0 0 4))
  else .error .unassignedForm

/-- The forms of opcode 0x58: fdot. -/
def decode58 (w0 : Nat) : Except DecodeError Instr :=
  .ok (.fdot (fieldOf w0 18 7) (fieldOf w0 11 7) (fieldOf w0 4 7) (fieldOf w0 0 4))

/-- The forms of opcode 0x59: fscale, fscale.e8m0. -/
def decode59 (w0 : Nat) : Except DecodeError Instr :=
  if bitsOf w0 3 1 = 0 then
    .ok (.fscale (fieldOf w0 18 7) (fieldOf w0 11 7) (fieldOf w0 4 7) (fieldOf w0 0 3))
  else if bitsOf w0 3 1 = 1 then
    .ok (.fscaleE8m0 (fieldOf w0 18 7) (fieldOf w0 11 7) (fieldOf w0 4 7) (fieldOf w0 0 3))
  else .error .unassignedForm

/-- The forms of opcode 0x5A: kvmin, kvmax. -/
def decode5A (w0 : Nat) : Except DecodeError Instr :=
  if bitsOf w0 2 2 = 0 then
    .ok (.kvmin (fieldOf w0 18 7) (fieldOf w0 11 7) (fieldOf w0 4 7) (fieldOf w0 0 2))
  else if bitsOf w0 2 2 = 1 then
    .ok (.kvmax (fieldOf w0 18 7) (fieldOf w0 11 7) (fieldOf w0 4 7) (fieldOf w0 0 2))
  else .error .unassignedForm

/-- The forms of opcode 0x60: xshf. -/
def decode60 (w0 : Nat) : Except DecodeError Instr :=
  if bitsOf w0 2 2 = 0 then
    .ok (.xshf (fieldOf w0 18 7) (fieldOf w0 11 7) (fieldOf w0 4 7) (fieldOf w0 0 2))
  else .error .unassignedForm

/-- The forms of opcode 0x61: xred. -/
def decode61 (w0 : Nat) : Except DecodeError Instr :=
  .ok (.xred (fieldOf w0 18 7) (fieldOf w0 11 7) (fieldOf w0 4 7) (fieldOf w0 0 4))

/-- The forms of opcode 0x62: xscan. -/
def decode62 (w0 : Nat) : Except DecodeError Instr :=
  .ok (.xscan (fieldOf w0 18 7) (fieldOf w0 11 7) (fieldOf w0 4 7) (fieldOf w0 3 1) (fieldOf w0 0 3))

/-- The forms of opcode 0x63: xvote. -/
def decode63 (w0 : Nat) : Except DecodeError Instr :=
  .ok (.xvote (fieldOf w0 18 7) (fieldOf w0 11 7) (fieldOf w0 4 7) (fieldOf w0 0 4))

/-- The forms of opcode 0x64: xbcast, xbcast.lane. -/
def decode64 (w0 : Nat) : Except DecodeError Instr :=
  if bitsOf w0 0 4 = 0 then
    .ok (.xbcast (fieldOf w0 18 7) (fieldOf w0 11 7) (fieldOf w0 4 7))
  else if bitsOf w0 0 4 = 1 then
    .ok (.xbcastLane (fieldOf w0 18 7) (fieldOf w0 11 7) (fieldOf w0 4 7))
  else .error .unassignedForm

/-- The forms of opcode 0x65: xelect, xelect.if. -/
def decode65 (w0 : Nat) : Except DecodeError Instr :=
  if bitsOf w0 0 4 = 0 ∧ bitsOf w0 11 7 = 0 then
    .ok (.xelect (fieldOf w0 18 7) (fieldOf w0 4 7))
  else if bitsOf w0 0 4 = 1 then
    .ok (.xelectIf (fieldOf w0 18 7) (fieldOf w0 11 7) (fieldOf w0 4 7))
  else .error .unassignedForm

/-- The forms of opcode 0x66: xmatch. -/
def decode66 (w0 : Nat) : Except DecodeError Instr :=
  .ok (.xmatch (fieldOf w0 18 7) (fieldOf w0 11 7) (fieldOf w0 4 7) (fieldOf w0 0 4))

/-- The forms of opcode 0x70: tdef, tdef.fill, tdef.bounds, tdef.query, tdef.bind. -/
def decode70 (w0 w1 : Nat) : Except DecodeError Instr :=
  if bitsOf w0 0 11 = 0 ∧ bitsOf w0 18 7 = 0 ∧ bitsOf w1 10 22 = 0 then
    .ok (.tdef (fieldOf w0 11 7) (fieldOf w1 0 10))
  else if bitsOf w0 0 11 = 3 ∧ bitsOf w0 18 7 = 0 ∧ bitsOf w1 10 22 = 0 then
    .ok (.tdefFill (fieldOf w0 11 7) (fieldOf w1 0 10))
  else if bitsOf w0 0 11 = 4 ∧ bitsOf w0 18 7 = 0 ∧ bitsOf w1 13 19 = 0 then
    .ok (.tdefBounds (fieldOf w0 11 7) (fieldOf w1 0 10) (fieldOf w1 10 3))
  else if bitsOf w0 0 18 = 1 ∧ bitsOf w1 14 18 = 0 then
    .ok (.tdefQuery (fieldOf w0 18 7) (fieldOf w1 0 10) (fieldOf w1 10 4))
  else if bitsOf w0 0 4 = 2 ∧ bitsOf w0 18 7 = 0 ∧ bitsOf w1 10 22 = 0 then
    .ok (.tdefBind (fieldOf w0 11 7) (fieldOf w0 4 7) (fieldOf w1 0 10))
  else .error .unassignedForm

/-- The forms of opcode 0x71: tld, tld.dem. -/
def decode71 (w0 w1 : Nat) : Except DecodeError Instr :=
  if bitsOf w0 0 4 = 0 ∧ bitsOf w1 20 12 = 0 then
    .ok (.tld (fieldOf w0 18 7) (fieldOf w0 11 7) (fieldOf w0 4 7) (fieldOf w1 0 10) (fieldOf w1 10 10))
  else if bitsOf w0 0 4 = 1 ∧ bitsOf w1 20 12 = 0 then
    .ok (.tldDem (fieldOf w0 18 7) (fieldOf w0 11 7) (fieldOf w0 4 7) (fieldOf w1 0 10) (fieldOf w1 10 10))
  else .error .unassignedForm

/-- The forms of opcode 0x72: tst. -/
def decode72 (w0 w1 : Nat) : Except DecodeError Instr :=
  if bitsOf w0 0 4 = 0 ∧ bitsOf w1 20 12 = 0 then
    .ok (.tst (fieldOf w0 18 7) (fieldOf w0 11 7) (fieldOf w0 4 7) (fieldOf w1 0 10) (fieldOf w1 10 10))
  else .error .unassignedForm

/-- The forms of opcode 0x73: mma. -/
def decode73 (w0 w1 : Nat) : Except DecodeError Instr :=
  if bitsOf w0 24 1 = 0 then
    .ok (.mma (fieldOf w0 18 6) (fieldOf w0 11 7) (fieldOf w0 4 7) (fieldOf w0 0 1) (fieldOf w0 1 1) (fieldOf w0 2 2) (fieldOf w1 0 10) (fieldOf w1 10 10) (fieldOf w1 20 3) (fieldOf w1 23 7) (fieldOf w1 30 2))
  else .error .unassignedForm

/-- The forms of opcode 0x74: acc.zero, acc.rd, acc.ld, acc.st. -/
def decode74 (w0 w1 : Nat) : Except DecodeError Instr :=
  if bitsOf w0 0 25 = 0 ∧ bitsOf w1 6 26 = 0 then
    .ok (.accZero (fieldOf w1 0 6))
  else if bitsOf w0 0 11 = 3 ∧ bitsOf w1 6 26 = 0 then
    .ok (.accRd (fieldOf w0 18 7) (fieldOf w0 11 7) (fieldOf w1 0 6))
  else if bitsOf w0 0 11 = 1 ∧ bitsOf w0 18 7 = 0 ∧ bitsOf w1 16 16 = 0 then
    .ok (.accLd (fieldOf w0 11 7) (fieldOf w1 0 6) (fieldOf w1 6 10))
  else if bitsOf w0 0 4 = 2 ∧ bitsOf w0 18 7 = 0 ∧ bitsOf w1 21 11 = 0 then
    .ok (.accSt (fieldOf w0 11 7) (fieldOf w0 4 7) (fieldOf w1 0 6) (fieldOf w1 6 10) (fieldOf w1 16 3) (fieldOf w1 19 1) (fieldOf w1 20 1))
  else .error .unassignedForm

/-- The forms of opcode 0x75: meta.rd, meta.ld, meta.compress, meta.expand. -/
def decode75 (w0 w1 : Nat) : Except DecodeError Instr :=
  if bitsOf w0 0 11 = 3 ∧ bitsOf w1 0 32 = 0 then
    .ok (.metaRd (fieldOf w0 18 7) (fieldOf w0 11 7))
  else if bitsOf w0 0 4 = 0 ∧ bitsOf w0 18 7 = 0 ∧ bitsOf w1 13 19 = 0 then
    .ok (.metaLd (fieldOf w0 11 7) (fieldOf w0 4 7) (fieldOf w1 0 12) (fieldOf w1 12 1))
  else if bitsOf w0 0 4 = 1 ∧ bitsOf w0 18 7 = 0 ∧ bitsOf w1 20 3 = 0 then
    .ok (.metaCompress (fieldOf w0 11 7) (fieldOf w0 4 7) (fieldOf w1 0 10) (fieldOf w1 10 10) (fieldOf w1 23 7) (fieldOf w1 30 2))
  else if bitsOf w0 0 4 = 2 ∧ bitsOf w0 18 7 = 0 ∧ bitsOf w1 20 3 = 0 then
    .ok (.metaExpand (fieldOf w0 11 7) (fieldOf w0 4 7) (fieldOf w1 0 10) (fieldOf w1 10 10) (fieldOf w1 23 7) (fieldOf w1 30 2))
  else .error .unassignedForm

/-- The forms of opcode 0x76: cvclear, cvdecl, cvstat. -/
def decode76 (w0 : Nat) : Except DecodeError Instr :=
  if bitsOf w0 0 18 = 2 ∧ bitsOf w0 21 4 = 0 then
    .ok (.cvclear (fieldOf w0 18 3))
  else if bitsOf w0 0 11 = 0 ∧ bitsOf w0 21 4 = 0 then
    .ok (.cvdecl (fieldOf w0 18 3) (fieldOf w0 11 7))
  else if bitsOf w0 0 11 = 1 ∧ bitsOf w0 14 4 = 0 then
    .ok (.cvstat (fieldOf w0 18 7) (fieldOf w0 11 3))
  else .error .unassignedForm

/-- The forms of opcode 0x78: chain, tcopy. -/
def decode78 (w0 w1 : Nat) : Except DecodeError Instr :=
  if bitsOf w0 0 11 = 1 ∧ bitsOf w1 7 25 = 0 then
    .ok (.chain (fieldOf w0 18 7) (fieldOf w0 11 7) (fieldOf w1 0 7))
  else if bitsOf w0 0 4 = 0 ∧ bitsOf w1 31 1 = 0 then
    .ok (.tcopy (fieldOf w0 18 7) (fieldOf w0 11 7) (fieldOf w0 4 7) (fieldOf w1 0 10) (fieldOf w1 10 7) (fieldOf w1 17 7) (fieldOf w1 24 7))
  else .error .unassignedForm

/-- The forms of opcode 0x79: place.unseal, place.query, place.seal, place.convert. -/
def decode79 (w0 w1 : Nat) : Except DecodeError Instr :=
  if bitsOf w0 0 18 = 2 ∧ bitsOf w1 10 22 = 0 then
    .ok (.placeUnseal (fieldOf w0 18 7) (fieldOf w1 0 10))
  else if bitsOf w0 0 18 = 3 ∧ bitsOf w1 10 22 = 0 then
    .ok (.placeQuery (fieldOf w0 18 7) (fieldOf w1 0 10))
  else if bitsOf w0 0 18 = 1 ∧ bitsOf w1 12 20 = 0 then
    .ok (.placeSeal (fieldOf w0 18 7) (fieldOf w1 0 10) (fieldOf w1 10 2))
  else if bitsOf w0 0 11 = 0 ∧ bitsOf w1 26 6 = 0 then
    .ok (.placeConvert (fieldOf w0 18 7) (fieldOf w0 11 7) (fieldOf w1 0 10) (fieldOf w1 10 16))
  else .error .unassignedForm

/-- The forms of opcode 0x7A: srch.walk.hash, ixver, srch.walk.kv, srch.drain, srch.dist, srch.walk.list, srch.pop, srch.scan, srch.push, ixcommit. -/
def decode7A (w0 w1 w2 : Nat) : Except DecodeError Instr :=
  if bitsOf w0 0 4 = 3 ∧ bitsOf w1 10 22 = 0 ∧ bitsOf w2 14 18 = 0 then
    .ok (.srchWalkHash (fieldOf w0 18 7) (fieldOf w0 11 7) (fieldOf w0 4 7) (fieldOf w1 0 5) (fieldOf w1 5 5) (fieldOf w2 0 7) (fieldOf w2 7 7))
  else if bitsOf w0 0 11 = 9 ∧ bitsOf w1 6 26 = 0 then
    .ok (.ixver (fieldOf w0 18 7) (fieldOf w0 11 7) (fieldOf w1 0 3) (fieldOf w1 3 3))
  else if bitsOf w0 0 4 = 4 ∧ bitsOf w1 22 10 = 0 ∧ bitsOf w2 14 18 = 0 then
    .ok (.srchWalkKv (fieldOf w0 18 7) (fieldOf w0 11 7) (fieldOf w0 4 7) (fieldOf w1 0 5) (fieldOf w1 5 16) (fieldOf w1 21 1) (fieldOf w2 0 7) (fieldOf w2 7 7))
  else if bitsOf w0 0 4 = 7 ∧ bitsOf w1 8 24 = 0 then
    .ok (.srchDrain (fieldOf w0 18 7) (fieldOf w0 11 7) (fieldOf w0 4 7) (fieldOf w1 0 7) (fieldOf w1 7 1))
  else if bitsOf w0 0 4 = 1 ∧ bitsOf w1 14 18 = 0 then
    .ok (.srchDist (fieldOf w0 18 7) (fieldOf w0 11 7) (fieldOf w0 4 7) (fieldOf w1 0 7) (fieldOf w1 7 7))
  else if bitsOf w0 0 4 = 2 ∧ bitsOf w1 18 14 = 0 ∧ bitsOf w2 30 2 = 0 then
    .ok (.srchWalkList (fieldOf w0 18 7) (fieldOf w0 11 7) (fieldOf w0 4 7) (fieldOf w1 0 9) (fieldOf w1 9 9) (fieldOf w2 0 7) (fieldOf w2 7 7) (fieldOf w2 14 16))
  else if bitsOf w0 0 11 = 6 then
    .ok (.srchPop (fieldOf w0 18 7) (fieldOf w0 11 7))
  else if bitsOf w0 0 4 = 0 then
    .ok (.srchScan (fieldOf w0 18 7) (fieldOf w0 11 7) (fieldOf w0 4 7) (fieldOf w1 0 8) (fieldOf w1 8 10) (fieldOf w1 18 7) (fieldOf w1 25 7))
  else if bitsOf w0 0 4 = 5 then
    .ok (.srchPush (fieldOf w0 18 7) (fieldOf w0 11 7) (fieldOf w0 4 7))
  else if bitsOf w0 0 4 = 8 then
    .ok (.ixcommit (fieldOf w0 18 7) (fieldOf w0 11 7) (fieldOf w0 4 7))
  else .error .unassignedForm

/-- The forms of opcode 0x7B: hop.home, hop. -/
def decode7B (w0 : Nat) : Except DecodeError Instr :=
  if bitsOf w0 0 25 = 1 then
    .ok (.hopHome)
  else if bitsOf w0 0 11 = 0 ∧ bitsOf w0 18 7 = 0 then
    .ok (.hop (fieldOf w0 11 7))
  else .error .unassignedForm

/-- The forms of opcode 0x7C: chan.release, chan.wait, chan.send.acc, chan.send.acc.bf16, chan.send, chan.config. -/
def decode7C (w0 w1 : Nat) : Except DecodeError Instr :=
  if bitsOf w0 0 4 = 5 ∧ bitsOf w0 11 14 = 0 ∧ bitsOf w1 8 24 = 0 then
    .ok (.chanRelease (fieldOf w0 4 7) (fieldOf w1 0 6) (fieldOf w1 6 2))
  else if bitsOf w0 0 4 = 4 ∧ bitsOf w0 11 7 = 0 ∧ bitsOf w1 8 24 = 0 then
    .ok (.chanWait (fieldOf w0 18 7) (fieldOf w0 4 7) (fieldOf w1 0 6) (fieldOf w1 6 2))
  else if bitsOf w0 0 4 = 2 ∧ bitsOf w0 11 7 = 0 ∧ bitsOf w1 6 2 = 0 ∧ bitsOf w1 14 18 = 0 then
    .ok (.chanSendAcc (fieldOf w0 18 7) (fieldOf w0 4 7) (fieldOf w1 0 6) (fieldOf w1 8 6))
  else if bitsOf w0 0 4 = 3 ∧ bitsOf w0 11 7 = 0 ∧ bitsOf w1 6 2 = 0 ∧ bitsOf w1 14 18 = 0 then
    .ok (.chanSendAccBf16 (fieldOf w0 18 7) (fieldOf w0 4 7) (fieldOf w1 0 6) (fieldOf w1 8 6))
  else if bitsOf w0 0 4 = 1 ∧ bitsOf w1 6 26 = 0 then
    .ok (.chanSend (fieldOf w0 18 7) (fieldOf w0 11 7) (fieldOf w0 4 7) (fieldOf w1 0 6))
  else if bitsOf w0 0 11 = 0 then
    .ok (.chanConfig (fieldOf w0 18 7) (fieldOf w0 11 7))
  else .error .unassignedForm

/-- The forms of opcode 0x7D: wdq.reset, wdq.init, wdq.next. -/
def decode7D (w0 w1 : Nat) : Except DecodeError Instr :=
  if bitsOf w0 0 25 = 2 ∧ bitsOf w1 4 28 = 0 then
    .ok (.wdqReset (fieldOf w1 0 4))
  else if bitsOf w0 0 11 = 0 ∧ bitsOf w0 18 7 = 0 ∧ bitsOf w1 4 28 = 0 then
    .ok (.wdqInit (fieldOf w0 11 7) (fieldOf w1 0 4))
  else if bitsOf w0 0 11 = 1 ∧ bitsOf w1 11 21 = 0 then
    .ok (.wdqNext (fieldOf w0 18 7) (fieldOf w0 11 7) (fieldOf w1 0 4) (fieldOf w1 4 7))
  else .error .unassignedForm

/-- The escape word of an extension: `more` further words follow, and the ones that do not are held as 0 (15 R307). -/
def decode7F (w0 w1 w2 w3 : Nat) : Except DecodeError Instr :=
  let more := bitsOf w0 16 2
  .ok (.ext (fieldOf w0 18 7) (fieldOf w0 16 2) (fieldOf w0 0 16)
    (if 1 ≤ more then fieldOf w1 0 32 else 0) (if 2 ≤ more then fieldOf w2 0 32 else 0)
    (if 3 ≤ more then fieldOf w3 0 32 else 0))

/-- The instruction form of a first word and the words that follow it, by its major opcode (15 Table 15.6). -/
def decodeForm (w0 w1 w2 w3 : Nat) : Except DecodeError Instr :=
  match w0 / 2 ^ 25 with
  | 0x01 => decode01 w0
  | 0x02 => decode02 w0
  | 0x03 => decode03 w0
  | 0x04 => decode04 w0
  | 0x05 => decode05 w0
  | 0x06 => decode06 w0
  | 0x07 => decode07 w0
  | 0x08 => decode08 w0
  | 0x09 => decode09 w0
  | 0x0A => decode0A w0
  | 0x0B => decode0B w0
  | 0x0C => decode0C w0
  | 0x0D => decode0D w0
  | 0x0E => decode0E w0
  | 0x0F => decode0F w0
  | 0x10 => decode10 w0
  | 0x11 => decode11 w0
  | 0x12 => decode12 w0
  | 0x13 => decode13 w0
  | 0x14 => decode14 w0
  | 0x15 => decode15 w0
  | 0x16 => decode16 w0 w1
  | 0x17 => decode17 w0
  | 0x18 => decode18 w0
  | 0x19 => decode19 w0
  | 0x1A => decode1A w0
  | 0x1B => decode1B w0
  | 0x20 => decode20 w0
  | 0x21 => decode21 w0
  | 0x22 => decode22 w0
  | 0x23 => decode23 w0
  | 0x24 => decode24 w0 w1
  | 0x25 => decode25 w0 w1
  | 0x26 => decode26 w0
  | 0x27 => decode27 w0
  | 0x28 => decode28 w0
  | 0x29 => decode29 w0
  | 0x2A => decode2A w0
  | 0x2B => decode2B w0
  | 0x30 => decode30 w0
  | 0x31 => decode31 w0
  | 0x32 => decode32 w0
  | 0x33 => decode33 w0
  | 0x34 => decode34 w0
  | 0x35 => decode35 w0
  | 0x36 => decode36 w0
  | 0x37 => decode37 w0
  | 0x38 => decode38 w0 w1
  | 0x39 => decode39 w0 w1
  | 0x3A => decode3A w0 w1
  | 0x3B => decode3B w0 w1
  | 0x3C => decode3C w0
  | 0x3D => decode3D w0
  | 0x40 => decode40 w0 w1
  | 0x41 => decode41 w0
  | 0x42 => decode42 w0
  | 0x43 => decode43 w0
  | 0x44 => decode44 w0
  | 0x45 => decode45 w0
  | 0x46 => decode46 w0
  | 0x47 => decode47 w0
  | 0x50 => decode50 w0
  | 0x51 => decode51 w0
  | 0x52 => decode52 w0
  | 0x53 => decode53 w0
  | 0x54 => decode54 w0
  | 0x55 => decode55 w0
  | 0x56 => decode56 w0
  | 0x57 => decode57 w0
  | 0x58 => decode58 w0
  | 0x59 => decode59 w0
  | 0x5A => decode5A w0
  | 0x60 => decode60 w0
  | 0x61 => decode61 w0
  | 0x62 => decode62 w0
  | 0x63 => decode63 w0
  | 0x64 => decode64 w0
  | 0x65 => decode65 w0
  | 0x66 => decode66 w0
  | 0x70 => decode70 w0 w1
  | 0x71 => decode71 w0 w1
  | 0x72 => decode72 w0 w1
  | 0x73 => decode73 w0 w1
  | 0x74 => decode74 w0 w1
  | 0x75 => decode75 w0 w1
  | 0x76 => decode76 w0
  | 0x78 => decode78 w0 w1
  | 0x79 => decode79 w0 w1
  | 0x7A => decode7A w0 w1 w2
  | 0x7B => decode7B w0
  | 0x7C => decode7C w0 w1
  | 0x7D => decode7D w0 w1
  | 0x7F => decode7F w0 w1 w2 w3
  | _ => .error .unassignedOpcode

/-- A decoded form that passes its static checks. -/
def checked (i : Instr) : Except DecodeError Instr :=
  if i.wf then .ok i else .error .illegalOperand

/-- The decoder: the instruction of a first word and the three words after it; words past the instruction's length are not looked at. -/
def decode (w0 w1 w2 w3 : Nat) : Except DecodeError Instr :=
  match decodeForm w0 w1 w2 w3 with
  | .ok i => checked i
  | .error e => .error e

/-- Instruction length in words, from the first word alone: formats K and T have two, format E has those of 20 Table 20.1, EXT has one and its further words (15 R304, Table 15.6). -/
def lengthOf (w0 : Nat) : Nat :=
  match w0 / 2 ^ 25 with
  | 0x16 => 2 | 0x24 => 2 | 0x25 => 2
  | 0x38 => 2 | 0x39 => 2 | 0x3A => 2 | 0x3B => 2 | 0x40 => 2
  | 0x70 => 2 | 0x71 => 2 | 0x72 => 2 | 0x73 => 2 | 0x74 => 2 | 0x75 => 2
  | 0x78 => if bitsOf w0 0 4 ≤ 1 then 2 else 1
  | 0x79 => if bitsOf w0 0 4 ≤ 3 then 2 else 1
  | 0x7A =>
    match bitsOf w0 0 4 with
    | 0 => 2 | 1 => 2 | 2 => 3 | 3 => 3 | 4 => 3 | 7 => 2 | 9 => 2
    | _ => 1
  | 0x7C => if 1 ≤ bitsOf w0 0 4 ∧ bitsOf w0 0 4 ≤ 5 then 2 else 1
  | 0x7D => if bitsOf w0 0 4 ≤ 2 then 2 else 1
  | 0x7F => 1 + bitsOf w0 16 2
  | _ => 1

/-- The major opcodes the opcode map assigns (15 Table 15.6, R306). -/
def assignedOpcode (op : Nat) : Bool :=
  (1 ≤ op && op ≤ 0x1B) || (0x20 ≤ op && op ≤ 0x2B) || (0x30 ≤ op && op ≤ 0x3D) ||
  (0x40 ≤ op && op ≤ 0x47) || (0x50 ≤ op && op ≤ 0x5A) || (0x60 ≤ op && op ≤ 0x66) ||
  (0x70 ≤ op && op ≤ 0x76) || (0x78 ≤ op && op ≤ 0x7D) || op == 0x7F


/-- A word with fields at bits 30, 23, 20, 10, 0. -/
def pack30_23_20_10_0 (x30 x23 x20 x10 x0 : Nat) : Nat :=
  x30 * 2 ^ 30 + x23 * 2 ^ 23 + x20 * 2 ^ 20 + x10 * 2 ^ 10 + x0

/-- A word with fields at bits 30, 23, 10, 0. -/
def pack30_23_10_0 (x30 x23 x10 x0 : Nat) : Nat :=
  x30 * 2 ^ 30 + x23 * 2 ^ 23 + x10 * 2 ^ 10 + x0

/-- A word with fields at bits 25, 20, 19, 16. -/
def pack25_20_19_16 (x25 x20 x19 x16 : Nat) : Nat :=
  x25 * 2 ^ 25 + x20 * 2 ^ 20 + x19 * 2 ^ 19 + x16 * 2 ^ 16

/-- A word with fields at bits 25, 20, 19, 0. -/
def pack25_20_19_0 (x25 x20 x19 x0 : Nat) : Nat :=
  x25 * 2 ^ 25 + x20 * 2 ^ 20 + x19 * 2 ^ 19 + x0

/-- A word with fields at bits 25, 20, 18, 11, 4, 3, 0. -/
def pack25_20_18_11_4_3_0 (x25 x20 x18 x11 x4 x3 x0 : Nat) : Nat :=
  x25 * 2 ^ 25 + x20 * 2 ^ 20 + x18 * 2 ^ 18 + x11 * 2 ^ 11 + x4 * 2 ^ 4 + x3 * 2 ^ 3 + x0

/-- A word with fields at bits 25, 20, 18, 11, 4, 0. -/
def pack25_20_18_11_4_0 (x25 x20 x18 x11 x4 x0 : Nat) : Nat :=
  x25 * 2 ^ 25 + x20 * 2 ^ 20 + x18 * 2 ^ 18 + x11 * 2 ^ 11 + x4 * 2 ^ 4 + x0

/-- A word with fields at bits 25, 18, 11, 9, 6, 4, 3, 0. -/
def pack25_18_11_9_6_4_3_0 (x25 x18 x11 x9 x6 x4 x3 x0 : Nat) : Nat :=
  x25 * 2 ^ 25 + x18 * 2 ^ 18 + x11 * 2 ^ 11 + x9 * 2 ^ 9 + x6 * 2 ^ 6 + x4 * 2 ^ 4 + x3 * 2 ^ 3 + x0

/-- A word with fields at bits 25, 18, 11, 8, 6, 0. -/
def pack25_18_11_8_6_0 (x25 x18 x11 x8 x6 x0 : Nat) : Nat :=
  x25 * 2 ^ 25 + x18 * 2 ^ 18 + x11 * 2 ^ 11 + x8 * 2 ^ 8 + x6 * 2 ^ 6 + x0

/-- A word with fields at bits 25, 18, 11, 8, 5, 3, 0. -/
def pack25_18_11_8_5_3_0 (x25 x18 x11 x8 x5 x3 x0 : Nat) : Nat :=
  x25 * 2 ^ 25 + x18 * 2 ^ 18 + x11 * 2 ^ 11 + x8 * 2 ^ 8 + x5 * 2 ^ 5 + x3 * 2 ^ 3 + x0

/-- A word with fields at bits 25, 18, 11, 8, 5, 0. -/
def pack25_18_11_8_5_0 (x25 x18 x11 x8 x5 x0 : Nat) : Nat :=
  x25 * 2 ^ 25 + x18 * 2 ^ 18 + x11 * 2 ^ 11 + x8 * 2 ^ 8 + x5 * 2 ^ 5 + x0

/-- A word with fields at bits 25, 18, 11, 6, 3, 0. -/
def pack25_18_11_6_3_0 (x25 x18 x11 x6 x3 x0 : Nat) : Nat :=
  x25 * 2 ^ 25 + x18 * 2 ^ 18 + x11 * 2 ^ 11 + x6 * 2 ^ 6 + x3 * 2 ^ 3 + x0

/-- A word with fields at bits 25, 18, 11, 6, 0. -/
def pack25_18_11_6_0 (x25 x18 x11 x6 x0 : Nat) : Nat :=
  x25 * 2 ^ 25 + x18 * 2 ^ 18 + x11 * 2 ^ 11 + x6 * 2 ^ 6 + x0

/-- A word with fields at bits 25, 18, 11, 5, 3, 1, 0. -/
def pack25_18_11_5_3_1_0 (x25 x18 x11 x5 x3 x1 x0 : Nat) : Nat :=
  x25 * 2 ^ 25 + x18 * 2 ^ 18 + x11 * 2 ^ 11 + x5 * 2 ^ 5 + x3 * 2 ^ 3 + x1 * 2 ^ 1 + x0

/-- A word with fields at bits 25, 18, 11, 5, 3, 0. -/
def pack25_18_11_5_3_0 (x25 x18 x11 x5 x3 x0 : Nat) : Nat :=
  x25 * 2 ^ 25 + x18 * 2 ^ 18 + x11 * 2 ^ 11 + x5 * 2 ^ 5 + x3 * 2 ^ 3 + x0

/-- A word with fields at bits 25, 18, 11, 5, 3. -/
def pack25_18_11_5_3 (x25 x18 x11 x5 x3 : Nat) : Nat :=
  x25 * 2 ^ 25 + x18 * 2 ^ 18 + x11 * 2 ^ 11 + x5 * 2 ^ 5 + x3 * 2 ^ 3

/-- A word with fields at bits 25, 18, 11, 5, 0. -/
def pack25_18_11_5_0 (x25 x18 x11 x5 x0 : Nat) : Nat :=
  x25 * 2 ^ 25 + x18 * 2 ^ 18 + x11 * 2 ^ 11 + x5 * 2 ^ 5 + x0

/-- A word with fields at bits 25, 18, 11, 4, 3, 0. -/
def pack25_18_11_4_3_0 (x25 x18 x11 x4 x3 x0 : Nat) : Nat :=
  x25 * 2 ^ 25 + x18 * 2 ^ 18 + x11 * 2 ^ 11 + x4 * 2 ^ 4 + x3 * 2 ^ 3 + x0

/-- A word with fields at bits 25, 18, 11, 4, 2, 1, 0. -/
def pack25_18_11_4_2_1_0 (x25 x18 x11 x4 x2 x1 x0 : Nat) : Nat :=
  x25 * 2 ^ 25 + x18 * 2 ^ 18 + x11 * 2 ^ 11 + x4 * 2 ^ 4 + x2 * 2 ^ 2 + x1 * 2 ^ 1 + x0

/-- A word with fields at bits 25, 18, 11, 4, 2, 0. -/
def pack25_18_11_4_2_0 (x25 x18 x11 x4 x2 x0 : Nat) : Nat :=
  x25 * 2 ^ 25 + x18 * 2 ^ 18 + x11 * 2 ^ 11 + x4 * 2 ^ 4 + x2 * 2 ^ 2 + x0

/-- A word with fields at bits 25, 18, 11, 4, 0. -/
def pack25_18_11_4_0 (x25 x18 x11 x4 x0 : Nat) : Nat :=
  x25 * 2 ^ 25 + x18 * 2 ^ 18 + x11 * 2 ^ 11 + x4 * 2 ^ 4 + x0

/-- A word with fields at bits 25, 18, 11, 4. -/
def pack25_18_11_4 (x25 x18 x11 x4 : Nat) : Nat :=
  x25 * 2 ^ 25 + x18 * 2 ^ 18 + x11 * 2 ^ 11 + x4 * 2 ^ 4

/-- A word with fields at bits 25, 18, 11, 0. -/
def pack25_18_11_0 (x25 x18 x11 x0 : Nat) : Nat :=
  x25 * 2 ^ 25 + x18 * 2 ^ 18 + x11 * 2 ^ 11 + x0

/-- A word with fields at bits 25, 18, 11. -/
def pack25_18_11 (x25 x18 x11 : Nat) : Nat :=
  x25 * 2 ^ 25 + x18 * 2 ^ 18 + x11 * 2 ^ 11

/-- A word with fields at bits 25, 18, 8, 0. -/
def pack25_18_8_0 (x25 x18 x8 x0 : Nat) : Nat :=
  x25 * 2 ^ 25 + x18 * 2 ^ 18 + x8 * 2 ^ 8 + x0

/-- A word with fields at bits 25, 18, 4, 0. -/
def pack25_18_4_0 (x25 x18 x4 x0 : Nat) : Nat :=
  x25 * 2 ^ 25 + x18 * 2 ^ 18 + x4 * 2 ^ 4 + x0

/-- A word with fields at bits 25, 18, 4. -/
def pack25_18_4 (x25 x18 x4 : Nat) : Nat :=
  x25 * 2 ^ 25 + x18 * 2 ^ 18 + x4 * 2 ^ 4

/-- A word with fields at bits 25, 18, 0. -/
def pack25_18_0 (x25 x18 x0 : Nat) : Nat :=
  x25 * 2 ^ 25 + x18 * 2 ^ 18 + x0

/-- A word with fields at bits 25, 18. -/
def pack25_18 (x25 x18 : Nat) : Nat :=
  x25 * 2 ^ 25 + x18 * 2 ^ 18

/-- A word with fields at bits 25, 11, 5, 3, 0. -/
def pack25_11_5_3_0 (x25 x11 x5 x3 x0 : Nat) : Nat :=
  x25 * 2 ^ 25 + x11 * 2 ^ 11 + x5 * 2 ^ 5 + x3 * 2 ^ 3 + x0

/-- A word with fields at bits 25, 11, 4, 3, 0. -/
def pack25_11_4_3_0 (x25 x11 x4 x3 x0 : Nat) : Nat :=
  x25 * 2 ^ 25 + x11 * 2 ^ 11 + x4 * 2 ^ 4 + x3 * 2 ^ 3 + x0

/-- A word with fields at bits 25, 11, 4, 3. -/
def pack25_11_4_3 (x25 x11 x4 x3 : Nat) : Nat :=
  x25 * 2 ^ 25 + x11 * 2 ^ 11 + x4 * 2 ^ 4 + x3 * 2 ^ 3

/-- A word with fields at bits 25, 11, 4, 0. -/
def pack25_11_4_0 (x25 x11 x4 x0 : Nat) : Nat :=
  x25 * 2 ^ 25 + x11 * 2 ^ 11 + x4 * 2 ^ 4 + x0

/-- A word with fields at bits 25, 11, 4. -/
def pack25_11_4 (x25 x11 x4 : Nat) : Nat :=
  x25 * 2 ^ 25 + x11 * 2 ^ 11 + x4 * 2 ^ 4

/-- A word with fields at bits 25, 11, 3. -/
def pack25_11_3 (x25 x11 x3 : Nat) : Nat :=
  x25 * 2 ^ 25 + x11 * 2 ^ 11 + x3 * 2 ^ 3

/-- A word with fields at bits 25, 11, 0. -/
def pack25_11_0 (x25 x11 x0 : Nat) : Nat :=
  x25 * 2 ^ 25 + x11 * 2 ^ 11 + x0

/-- A word with fields at bits 25, 11. -/
def pack25_11 (x25 x11 : Nat) : Nat :=
  x25 * 2 ^ 25 + x11 * 2 ^ 11

/-- A word with fields at bits 25, 8, 5. -/
def pack25_8_5 (x25 x8 x5 : Nat) : Nat :=
  x25 * 2 ^ 25 + x8 * 2 ^ 8 + x5 * 2 ^ 5

/-- A word with fields at bits 25, 4, 0. -/
def pack25_4_0 (x25 x4 x0 : Nat) : Nat :=
  x25 * 2 ^ 25 + x4 * 2 ^ 4 + x0

/-- A word with fields at bits 25, 0. -/
def pack25_0 (x25 x0 : Nat) : Nat :=
  x25 * 2 ^ 25 + x0

/-- A word with fields at bits 25. -/
def pack25 (x25 : Nat) : Nat :=
  x25 * 2 ^ 25

/-- A word with fields at bits 24, 17, 10, 0. -/
def pack24_17_10_0 (x24 x17 x10 x0 : Nat) : Nat :=
  x24 * 2 ^ 24 + x17 * 2 ^ 17 + x10 * 2 ^ 10 + x0

/-- A word with fields at bits 21, 5, 0. -/
def pack21_5_0 (x21 x5 x0 : Nat) : Nat :=
  x21 * 2 ^ 21 + x5 * 2 ^ 5 + x0

/-- A word with fields at bits 20, 19, 16, 6, 0. -/
def pack20_19_16_6_0 (x20 x19 x16 x6 x0 : Nat) : Nat :=
  x20 * 2 ^ 20 + x19 * 2 ^ 19 + x16 * 2 ^ 16 + x6 * 2 ^ 6 + x0

/-- A word with fields at bits 14, 7, 0. -/
def pack14_7_0 (x14 x7 x0 : Nat) : Nat :=
  x14 * 2 ^ 14 + x7 * 2 ^ 7 + x0

/-- A word with fields at bits 12, 0. -/
def pack12_0 (x12 x0 : Nat) : Nat :=
  x12 * 2 ^ 12 + x0

/-- A word with fields at bits 11, 0. -/
def pack11_0 (x11 x0 : Nat) : Nat :=
  x11 * 2 ^ 11 + x0

/-- A word with fields at bits 10, 7, 3, 0. -/
def pack10_7_3_0 (x10 x7 x3 x0 : Nat) : Nat :=
  x10 * 2 ^ 10 + x7 * 2 ^ 7 + x3 * 2 ^ 3 + x0

/-- A word with fields at bits 10, 0. -/
def pack10_0 (x10 x0 : Nat) : Nat :=
  x10 * 2 ^ 10 + x0

/-- A word with fields at bits 9, 0. -/
def pack9_0 (x9 x0 : Nat) : Nat :=
  x9 * 2 ^ 9 + x0

/-- A word with fields at bits 8, 0. -/
def pack8_0 (x8 x0 : Nat) : Nat :=
  x8 * 2 ^ 8 + x0

/-- A word with fields at bits 7, 6, 3, 0. -/
def pack7_6_3_0 (x7 x6 x3 x0 : Nat) : Nat :=
  x7 * 2 ^ 7 + x6 * 2 ^ 6 + x3 * 2 ^ 3 + x0

/-- A word with fields at bits 7, 3, 0. -/
def pack7_3_0 (x7 x3 x0 : Nat) : Nat :=
  x7 * 2 ^ 7 + x3 * 2 ^ 3 + x0

/-- A word with fields at bits 7, 0. -/
def pack7_0 (x7 x0 : Nat) : Nat :=
  x7 * 2 ^ 7 + x0

/-- A word with fields at bits 6, 0. -/
def pack6_0 (x6 x0 : Nat) : Nat :=
  x6 * 2 ^ 6 + x0

/-- A word with fields at bits 5, 0. -/
def pack5_0 (x5 x0 : Nat) : Nat :=
  x5 * 2 ^ 5 + x0

/-- A word with fields at bits 4, 0. -/
def pack4_0 (x4 x0 : Nat) : Nat :=
  x4 * 2 ^ 4 + x0

/-- A word with fields at bits 3, 0. -/
def pack3_0 (x3 x0 : Nat) : Nat :=
  x3 * 2 ^ 3 + x0

/-- A word with fields at bits 0. -/
def pack0 (x0 : Nat) : Nat :=
  x0

/-- The words of an instruction, first word first (15 R298 to R304); a device step has no encoding. -/
def encode : Instr → List Nat
  | .powerGood _ _ _ => []
  | .moduleReset _ _ _ => []
  | .junctionStop _ => []
  | .thermalGuardEvaluation _ _ _ => []
  | .createContext _ => []
  | .destroyContext _ => []
  | .setReservations _ => []
  | .mapMemory _ => []
  | .unmapMemory _ => []
  | .dieSweepAnswer _ => []
  | .loadImage _ => []
  | .loadGraph _ => []
  | .unloadGraph _ => []
  | .createQueuePair _ => []
  | .destroyQueuePair _ => []
  | .grantPeerAccess _ => []
  | .setGrid _ => []
  | .portUp _ => []
  | .setLinkParameters _ => []
  | .readCounters _ => []
  | .readRecords _ => []
  | .attest _ => []
  | .firmwareLoad _ => []
  | .raiseSecurityMinimum _ => []
  | .resetMsg _ => []
  | .unassignedMessageType _ => []
  | .rdmaWriteReceived _ _ _ _ => []
  | .rdmaReadReceived _ _ _ _ => []
  | .rdmaFetchAddReceived _ _ _ _ => []
  | .rdmaCompareSwapReceived _ _ _ _ _ => []
  | .rdmaInvalidRequest _ => []
  | .congestionNotificationReceived _ => []
  | .ecnMarkedPacketReceived _ => []
  | .pfcPauseFrame _ _ => []
  | .hostRdmaResponse _ _ _ => []
  | .hostWriteAck _ _ => []
  | .qpAckTimeout _ => []
  | .flitSend _ => []
  | .badFlitReceived _ => []
  | .linkControlFlit _ _ => []
  | .ackReturnTimer _ => []
  | .replayTimeout _ => []
  | .linkRetrainDone _ _ => []
  | .peerReadRequest _ _ => []
  | .peerWriteRequest _ _ => []
  | .peerAtomicRequest _ _ => []
  | .peerReadResponse _ _ => []
  | .peerWriteAck _ _ => []
  | .peerAtomicResponse _ _ => []
  | .reductionContribution _ _ => []
  | .topKContribution _ _ => []
  | .contributionAck _ _ => []
  | .collectiveOpen _ _ => []
  | .collectiveOpenAck _ _ => []
  | .collectiveResult _ _ => []
  | .collectiveClose _ _ => []
  | .collectiveCloseAck _ _ => []
  | .jobReady _ _ => []
  | .jobComplete _ _ => []
  | .sealNodeComplete _ _ => []
  | .restoreComplete _ => []
  | .redirectEntryCompletion _ => []
  | .longLatencyDrop _ _ _ => []
  | .storePerform _ _ => []
  | .collapseProbe _ _ => []
  | .cuttingFill _ _ => []
  | .resizeSwitchPoint _ _ _ => []
  | .engineLanding _ => []
  | .engineCompletionWord _ => []
  | .mmaComplete _ => []
  | .scanStart _ => []
  | .scanComplete _ _ => []
  | .scanRefreshPause _ => []
  | .scanResume _ => []
  | .walkStep _ => []
  | .hopLand _ _ => []
  | .nearSlotEntry _ => []
  | .hopHomeArrival _ _ => []
  | .returnTrap _ _ => []
  | .returnTrapResume _ _ => []
  | .slotLanding _ => []
  | .permitReturn _ _ => []
  | .conversionInput _ _ _ _ _ => []
  | .conversionComplete _ _ => []
  | .add d a b f =>
    [pack25_18_11_4_0 0x01 d.toNat a.toNat b.toNat f.toNat]
  | .sub d a b f =>
    [pack25_18_11_4_0 0x02 d.toNat a.toNat b.toNat f.toNat]
  | .addi d a i =>
    [pack25_18_11_0 0x03 d.toNat a.toNat i.toNat]
  | .mul d a b f =>
    [pack25_18_11_4_0 0x04 d.toNat a.toNat b.toNat f.toNat]
  | .mad d a b f =>
    [pack25_18_11_4_0 0x05 d.toNat a.toNat b.toNat f.toNat]
  | .div d a b s w =>
    [pack25_18_11_4_2_0 0x06 d.toNat a.toNat b.toNat s.toNat w.toNat]
  | .rem d a b s w =>
    [pack25_18_11_4_2_1_0 0x06 d.toNat a.toNat b.toNat s.toNat 1 w.toNat]
  | .minmax d a b c m w =>
    [pack25_18_11_4_2_1_0 0x07 d.toNat a.toNat b.toNat c.toNat m.toNat w.toNat]
  | .andR d a b =>
    [pack25_18_11_4 0x08 d.toNat a.toNat b.toNat]
  | .orR d a b =>
    [pack25_18_11_4 0x09 d.toNat a.toNat b.toNat]
  | .xorR d a b =>
    [pack25_18_11_4 0x0A d.toNat a.toNat b.toNat]
  | .andn d a b =>
    [pack25_18_11_4 0x0B d.toNat a.toNat b.toNat]
  | .andi d a i =>
    [pack25_18_11_0 0x0C d.toNat a.toNat i.toNat]
  | .ori d a i =>
    [pack25_18_11_0 0x0D d.toNat a.toNat i.toNat]
  | .xori d a i =>
    [pack25_18_11_0 0x0E d.toNat a.toNat i.toNat]
  | .shift d a b w k =>
    [pack25_18_11_4_2_0 0x0F d.toNat a.toNat b.toNat w.toNat k.toNat]
  | .shifti d a w k c =>
    [pack25_18_11_8_6_0 0x10 d.toNat a.toNat w.toNat k.toNat c.toNat]
  | .bfx d a l p =>
    [pack25_18_11_6_0 0x11 d.toNat a.toNat l.toNat p.toNat]
  | .bfi d a l p =>
    [pack25_18_11_6_0 0x12 d.toNat a.toNat l.toNat p.toNat]
  | .bitop d a f =>
    [pack25_18_11_0 0x13 d.toNat a.toNat f.toNat]
  | .mov d a f =>
    [pack25_18_11_0 0x14 d.toNat a.toNat f.toNat]
  | .movRdp d =>
    [pack25_18_0 0x14 d.toNat 7]
  | .movWrp a =>
    [pack25_11_0 0x14 a.toNat 8]
  | .movFromSpecial d c =>
    [pack25_18_11_0 0x14 d.toNat c.toNat 9]
  | .movToSpecial c a =>
    [pack25_18_11_0 0x14 c.toNat a.toNat 10]
  | .movi d i =>
    [pack25_18_0 0x15 d.toNat i.toNat]
  | .movl d l =>
    [pack25_18 0x16 d.toNat,
     pack0 l.toNat]
  | .movlS d l =>
    [pack25_18_0 0x16 d.toNat 1,
     pack0 l.toNat]
  | .movlHi d l =>
    [pack25_18_0 0x16 d.toNat 2,
     pack0 l.toNat]
  | .lea d a b x s =>
    [pack25_18_11_4_3_0 0x17 d.toNat a.toNat b.toNat x.toNat s.toNat]
  | .cmp p c a b n =>
    [pack25_20_18_11_4_0 0x18 p.toNat c.toNat a.toNat b.toNat n.toNat]
  | .cmpi p c a i n =>
    [pack25_20_18_11_4_0 0x19 p.toNat c.toNat a.toNat i.toNat n.toNat]
  | .plog p c x y t =>
    [pack25_20_18_11_4_0 0x1A p.toNat c.toNat x.toNat y.toNat t.toNat]
  | .pred p n s =>
    [pack25_20_19_16 0x1B p.toNat n.toNat s.toNat]
  | .bra p n o =>
    [pack25_20_19_0 0x20 p.toNat n.toNat o.toNat]
  | .call p n o =>
    [pack25_20_19_0 0x21 p.toNat n.toNat o.toNat]
  | .jmp a =>
    [pack25_11 0x22 a.toNat]
  | .callr a =>
    [pack25_11_0 0x22 a.toNat 1]
  | .spawn d a b n key =>
    [pack25_18_11_4_0 0x24 d.toNat a.toNat b.toNat n.toNat,
     pack0 key.toNat]
  | .rebin d a b n key =>
    [pack25_18_11_4_0 0x25 d.toNat a.toNat b.toNat n.toNat,
     pack0 key.toNat]
  | .trap i =>
    [pack25_0 0x27 i.toNat]
  | .sysrd d s =>
    [pack25_18_0 0x29 d.toNat s.toNat]
  | .syswr a s =>
    [pack25_11_0 0x2A a.toNat s.toNat]
  | .fence c k =>
    [pack25_8_5 0x2B c.toNat k.toNat]
  | .fenceHeavy b =>
    [pack25_11_0 0x2B b.toNat 16]
  | .ld d b o s z =>
    [pack25_18_11_5_3_0 0x30 d.toNat b.toNat o.toNat s.toNat z.toNat]
  | .st d b o s z =>
    [pack25_18_11_5_3_0 0x31 d.toNat b.toNat o.toNat s.toNat z.toNat]
  | .lds d b c k s z =>
    [pack25_18_11_8_5_3_0 0x32 d.toNat b.toNat c.toNat k.toNat s.toNat z.toNat]
  | .sts d b c k s z =>
    [pack25_18_11_8_5_3_0 0x33 d.toNat b.toNat c.toNat k.toNat s.toNat z.toNat]
  | .ldp d b o s z =>
    [pack25_18_11_5_3_1_0 0x34 d.toNat b.toNat o.toNat s.toNat 1 z.toNat]
  | .stp d b o s z =>
    [pack25_18_11_5_3_1_0 0x34 d.toNat b.toNat o.toNat s.toNat 3 z.toNat]
  | .stn d b o s =>
    [pack25_18_11_5_3 0x35 d.toNat b.toNat o.toNat s.toNat]
  | .stm d b o s =>
    [pack25_18_11_5_3_0 0x35 d.toNat b.toNat o.toNat s.toNat 3]
  | .ldnr d b p s z =>
    [pack25_18_11_6_3_0 0x36 d.toNat b.toNat p.toNat s.toNat z.toNat]
  | .pref b o s l =>
    [pack25_11_5_3_0 0x37 b.toNat o.toNat s.toNat l.toNat]
  | .preq d b o s w =>
    [pack25_18_11_5_3_1_0 0x37 d.toNat b.toNat o.toNat s.toNat 1 w.toNat]
  | .atom32 d a b f c k r s =>
    [pack25_18_11_4_0 0x38 d.toNat a.toNat b.toNat f.toNat,
     pack7_6_3_0 s.toNat r.toNat k.toNat c.toNat]
  | .atom64 d a b f c k r s =>
    [pack25_18_11_4_0 0x39 d.toNat a.toNat b.toNat f.toNat,
     pack7_6_3_0 s.toNat r.toNat k.toNat c.toNat]
  | .cas d a b w c k s =>
    [pack25_18_11_4_0 0x3A d.toNat a.toNat b.toNat w.toNat,
     pack7_3_0 s.toNat k.toNat c.toNat]
  | .red a b f c k s w =>
    [pack25_11_4_0 0x3B a.toNat b.toNat f.toNat,
     pack10_7_3_0 w.toNat s.toNat k.toNat c.toNat]
  | .redf a b f t =>
    [pack25_11_4_0 0x3B a.toNat b.toNat f.toNat,
     pack11_0 t.toNat 512]
  | .acqr a b s =>
    [pack25_11_4_0 0x3C a.toNat b.toNat s.toNat]
  | .cacheFlush a =>
    [pack25_11 0x3D a.toNat]
  | .cacheInval a =>
    [pack25_11_0 0x3D a.toNat 1]
  | .cacheRetain a =>
    [pack25_11_0 0x3D a.toNat 2]
  | .cacheEvict a =>
    [pack25_11_0 0x3D a.toNat 3]
  | .resize d a =>
    [pack25_18_11_0 0x3D d.toNat a.toNat 4]
  | .resizeRel d a =>
    [pack25_18_11_0 0x3D d.toNat a.toNat 5]
  | .cacheWays d =>
    [pack25_18_0 0x3D d.toNat 6]
  | .rqdeg d a =>
    [pack25_18_11_0 0x3D d.toNat a.toNat 7]
  | .fill a c k =>
    [pack25_11 0x40 a.toNat,
     pack3_0 k.toNat c.toNat]
  | .fillVal a b c k =>
    [pack25_11_4_0 0x40 a.toNat b.toNat 1,
     pack3_0 k.toNat c.toNat]
  | .fillEmpty a c k =>
    [pack25_11_0 0x40 a.toNat 2,
     pack3_0 k.toNat c.toNat]
  | .take d b c k =>
    [pack25_18_11_8_5_0 0x41 d.toNat b.toNat c.toNat k.toNat 3]
  | .waitf d b c k =>
    [pack25_18_11_8_5_0 0x42 d.toNat b.toNat c.toNat k.toNat 3]
  | .cntdn d b c k =>
    [pack25_18_11_8_5_0 0x43 d.toNat b.toNat c.toNat k.toNat 3]
  | .tagq d b o =>
    [pack25_18_11_5_0 0x44 d.toNat b.toNat o.toNat 3]
  | .binit a b c =>
    [pack25_11_4_3 0x45 a.toNat b.toNat c.toNat]
  | .binitFull a b c =>
    [pack25_11_4_3_0 0x45 a.toNat b.toNat c.toNat 1]
  | .arrive a c =>
    [pack25_11_3 0x46 a.toNat c.toNat]
  | .arriveExpect a b c =>
    [pack25_11_4_3_0 0x46 a.toNat b.toNat c.toNat 1]
  | .bwait a b c =>
    [pack25_11_4_3 0x47 a.toNat b.toNat c.toNat]
  | .fadd d a b t =>
    [pack25_18_11_4_0 0x50 d.toNat a.toNat b.toNat t.toNat]
  | .fsub d a b t =>
    [pack25_18_11_4_3_0 0x50 d.toNat a.toNat b.toNat 1 t.toNat]
  | .fmul d a b t =>
    [pack25_18_11_4_0 0x51 d.toNat a.toNat b.toNat t.toNat]
  | .ffma d a b t =>
    [pack25_18_11_4_0 0x52 d.toNat a.toNat b.toNat t.toNat]
  | .ffms d a b t =>
    [pack25_18_11_4_3_0 0x52 d.toNat a.toNat b.toNat 1 t.toNat]
  | .fmin d a b t =>
    [pack25_18_11_4_0 0x53 d.toNat a.toNat b.toNat t.toNat]
  | .fmax d a b t =>
    [pack25_18_11_4_3_0 0x53 d.toNat a.toNat b.toNat 1 t.toNat]
  | .fcmp p c a b t r =>
    [pack25_20_18_11_4_3_0 0x54 p.toNat c.toNat a.toNat b.toNat t.toNat r.toNat]
  | .fcvt d a k s r =>
    [pack25_18_11_4_3_0 0x55 d.toNat a.toNat k.toNat s.toNat r.toNat]
  | .frnd d a t r =>
    [pack25_18_11_6_0 0x56 d.toNat a.toNat t.toNat r.toNat]
  | .ftoi d a t i s r =>
    [pack25_18_11_9_6_4_3_0 0x56 d.toNat a.toNat 1 t.toNat i.toNat s.toNat r.toNat]
  | .itof d a t i s r =>
    [pack25_18_11_9_6_4_3_0 0x56 d.toNat a.toNat 2 t.toNat i.toNat s.toNat r.toNat]
  | .fspec d a t f =>
    [pack25_18_11_4_0 0x57 d.toNat a.toNat t.toNat f.toNat]
  | .fdot d a b f =>
    [pack25_18_11_4_0 0x58 d.toNat a.toNat b.toNat f.toNat]
  | .fscale d a b t =>
    [pack25_18_11_4_0 0x59 d.toNat a.toNat b.toNat t.toNat]
  | .fscaleE8m0 d a b t =>
    [pack25_18_11_4_3_0 0x59 d.toNat a.toNat b.toNat 1 t.toNat]
  | .kvmin d a b k =>
    [pack25_18_11_4_0 0x5A d.toNat a.toNat b.toNat k.toNat]
  | .kvmax d a b k =>
    [pack25_18_11_4_2_0 0x5A d.toNat a.toNat b.toNat 1 k.toNat]
  | .xshf d a m k =>
    [pack25_18_11_4_0 0x60 d.toNat a.toNat m.toNat k.toNat]
  | .xred d a m f =>
    [pack25_18_11_4_0 0x61 d.toNat a.toNat m.toNat f.toNat]
  | .xscan d a m e o =>
    [pack25_18_11_4_3_0 0x62 d.toNat a.toNat m.toNat e.toNat o.toNat]
  | .xvote d a m f =>
    [pack25_18_11_4_0 0x63 d.toNat a.toNat m.toNat f.toNat]
  | .xbcast d a m =>
    [pack25_18_11_4 0x64 d.toNat a.toNat m.toNat]
  | .xbcastLane d a m =>
    [pack25_18_11_4_0 0x64 d.toNat a.toNat m.toNat 1]
  | .xelect d m =>
    [pack25_18_4 0x65 d.toNat m.toNat]
  | .xelectIf d a m =>
    [pack25_18_11_4_0 0x65 d.toNat a.toNat m.toNat 1]
  | .xmatch d a m f =>
    [pack25_18_11_4_0 0x66 d.toNat a.toNat m.toNat f.toNat]
  | .tdef a t =>
    [pack25_11 0x70 a.toNat,
     pack0 t.toNat]
  | .tdefQuery d t s =>
    [pack25_18_0 0x70 d.toNat 1,
     pack10_0 s.toNat t.toNat]
  | .tdefBind a b t =>
    [pack25_11_4_0 0x70 a.toNat b.toNat 2,
     pack0 t.toNat]
  | .tdefFill a t =>
    [pack25_11_0 0x70 a.toNat 3,
     pack0 t.toNat]
  | .tdefBounds a t s =>
    [pack25_11_0 0x70 a.toNat 4,
     pack10_0 s.toNat t.toNat]
  | .tld d a b ts td =>
    [pack25_18_11_4 0x71 d.toNat a.toNat b.toNat,
     pack10_0 td.toNat ts.toNat]
  | .tldDem d a b ts td =>
    [pack25_18_11_4_0 0x71 d.toNat a.toNat b.toNat 1,
     pack10_0 td.toNat ts.toNat]
  | .tst d a b ts td =>
    [pack25_18_11_4 0x72 d.toNat a.toNat b.toNat,
     pack10_0 td.toNat ts.toNat]
  | .mma tile a b acc sat kind ta tb cv k n =>
    [pack25_18_11_4_2_1_0 0x73 tile.toNat a.toNat b.toNat kind.toNat sat.toNat acc.toNat,
     pack30_23_20_10_0 n.toNat k.toNat cv.toNat tb.toNat ta.toNat]
  | .accZero tile =>
    [pack25 0x74,
     pack0 tile.toNat]
  | .accLd a tile t =>
    [pack25_11_0 0x74 a.toNat 1,
     pack6_0 t.toNat tile.toNat]
  | .accSt a b tile t r sat it =>
    [pack25_11_4_0 0x74 a.toNat b.toNat 2,
     pack20_19_16_6_0 it.toNat sat.toNat r.toNat t.toNat tile.toNat]
  | .accRd d a tile =>
    [pack25_18_11_0 0x74 d.toNat a.toNat 3,
     pack0 tile.toNat]
  | .metaLd a b off s =>
    [pack25_11_4 0x75 a.toNat b.toNat,
     pack12_0 s.toNat off.toNat]
  | .metaCompress a b ts td k n =>
    [pack25_11_4_0 0x75 a.toNat b.toNat 1,
     pack30_23_10_0 n.toNat k.toNat td.toNat ts.toNat]
  | .metaExpand a b ts td k n =>
    [pack25_11_4_0 0x75 a.toNat b.toNat 2,
     pack30_23_10_0 n.toNat k.toNat td.toNat ts.toNat]
  | .metaRd d a =>
    [pack25_18_11_0 0x75 d.toNat a.toNat 3,
     0]
  | .cvdecl c a =>
    [pack25_18_11 0x76 c.toNat a.toNat]
  | .cvstat d c =>
    [pack25_18_11_0 0x76 d.toNat c.toNat 1]
  | .cvclear c =>
    [pack25_18_0 0x76 c.toNat 2]
  | .tcopy d a b t r j c =>
    [pack25_18_11_4 0x78 d.toNat a.toNat b.toNat,
     pack24_17_10_0 c.toNat j.toNat r.toNat t.toNat]
  | .chain d a c =>
    [pack25_18_11_0 0x78 d.toNat a.toNat 1,
     pack0 c.toNat]
  | .placeConvert d c t dem =>
    [pack25_18_11 0x79 d.toNat c.toNat,
     pack10_0 dem.toNat t.toNat]
  | .placeSeal d t m =>
    [pack25_18_0 0x79 d.toNat 1,
     pack10_0 m.toNat t.toNat]
  | .placeUnseal d t =>
    [pack25_18_0 0x79 d.toNat 2,
     pack0 t.toNat]
  | .placeQuery d t =>
    [pack25_18_0 0x79 d.toNat 3,
     pack0 t.toNat]
  | .srchScan d a b mask k r c =>
    [pack25_18_11_4 0x7A d.toNat a.toNat b.toNat,
     pack25_18_8_0 c.toNat r.toNat k.toNat mask.toNat]
  | .srchDist d a b e s =>
    [pack25_18_11_4_0 0x7A d.toNat a.toNat b.toNat 1,
     pack7_0 s.toNat e.toNat]
  | .srchWalkList d a b ko no r c n =>
    [pack25_18_11_4_0 0x7A d.toNat a.toNat b.toNat 2,
     pack9_0 no.toNat ko.toNat,
     pack14_7_0 n.toNat c.toNat r.toNat]
  | .srchWalkHash d a b lb sb r c =>
    [pack25_18_11_4_0 0x7A d.toNat a.toNat b.toNat 3,
     pack5_0 sb.toNat lb.toNat,
     pack7_0 c.toNat r.toNat]
  | .srchWalkKv d a b lb t lv r c =>
    [pack25_18_11_4_0 0x7A d.toNat a.toNat b.toNat 4,
     pack21_5_0 lv.toNat t.toNat lb.toNat,
     pack7_0 c.toNat r.toNat]
  | .srchPush d a b =>
    [pack25_18_11_4_0 0x7A d.toNat a.toNat b.toNat 5]
  | .srchPop d a =>
    [pack25_18_11_0 0x7A d.toNat a.toNat 6]
  | .srchDrain d a b c s =>
    [pack25_18_11_4_0 0x7A d.toNat a.toNat b.toNat 7,
     pack7_0 s.toNat c.toNat]
  | .ixcommit d a b =>
    [pack25_18_11_4_0 0x7A d.toNat a.toNat b.toNat 8]
  | .ixver d a c k =>
    [pack25_18_11_0 0x7A d.toNat a.toNat 9,
     pack3_0 k.toNat c.toNat]
  | .hop a =>
    [pack25_11 0x7B a.toNat]
  | .chanConfig d a =>
    [pack25_18_11 0x7C d.toNat a.toNat]
  | .chanSend d a b ch =>
    [pack25_18_11_4_0 0x7C d.toNat a.toNat b.toNat 1,
     pack0 ch.toNat]
  | .chanSendAcc d b ch tile =>
    [pack25_18_4_0 0x7C d.toNat b.toNat 2,
     pack8_0 tile.toNat ch.toNat]
  | .chanSendAccBf16 d b ch tile =>
    [pack25_18_4_0 0x7C d.toNat b.toNat 3,
     pack8_0 tile.toNat ch.toNat]
  | .chanWait d b ch ln =>
    [pack25_18_4_0 0x7C d.toNat b.toNat 4,
     pack6_0 ln.toNat ch.toNat]
  | .chanRelease b ch ln =>
    [pack25_4_0 0x7C b.toNat 5,
     pack6_0 ln.toNat ch.toNat]
  | .wdqInit a q =>
    [pack25_11 0x7D a.toNat,
     pack0 q.toNat]
  | .wdqNext d a q c =>
    [pack25_18_11_0 0x7D d.toNat a.toNat 1,
     pack4_0 c.toNat q.toNat]
  | .wdqAnswer _ _ => []
  | .wdqReset q =>
    [pack25_0 0x7D 2,
     pack0 q.toNat]
  | .ext e m p w1 w2 w3 =>
    (0x7F * 2 ^ 25 + e.toNat * 2 ^ 18 + m.toNat * 2 ^ 16 + p.toNat : Nat) ::
      ([w1.toNat, w2.toNat, w3.toNat].take m.toNat)
  | .idleFlitReceived _ _ => []
  | .collapseAnswer _ _ => []
  | .eventRnrRetry => []
  | .coolantSensorPoll => []
  | .lifetimeSample => []
  | .lifetimeFlashWrite => []
  | .loadImageQuiesced => []
  | .cmConnectRequest => []
  | .rateIncreasePeriod => []
  | .contributionRetryTimer => []
  | .contributionAckTimeout => []
  | .collectiveIdleTimeout => []
  | .instanceStart => []
  | .dispatch => []
  | .deadlineMiss => []
  | .budgetExhausted => []
  | .budgetGraceExpiry => []
  | .preemptionGraceExpiry => []
  | .saveComplete => []
  | .discardComplete => []
  | .binTimerExpiry => []
  | .reorderTimerExpiry => []
  | .rendezvousTimeout => []
  | .convergenceTimeout => []
  | .barrierTimeout => []
  | .sealTimeout => []
  | .permitTimeout => []
  | .clauseStart => []
  | .regionWindowEnd => []
  | .redfPerform => []
  | .weightStoreRefreshStart => []
  | .weightStoreRefreshEnd => []
  | .retentionEntry => []
  | .sealComplete => []
  | .ret =>
    [pack25_0 0x22 2]
  | .exitF =>
    [pack25 0x23]
  | .yield =>
    [pack25 0x26]
  | .yieldSave =>
    [pack25_0 0x26 1]
  | .yieldRestart =>
    [pack25_0 0x26 2]
  | .rftResume =>
    [pack25 0x28]
  | .rftSkip =>
    [pack25_0 0x28 1]
  | .rftKill =>
    [pack25_0 0x28 2]
  | .fenceLight =>
    [pack25_0 0x2B 8]
  | .hopHome =>
    [pack25_0 0x7B 1]
  | .powerLoss => []
  | .hostLinkRetrain => []

/-- One 32-bit word from its four bytes, the lowest address first (00 R2). -/
def wordOfBytes (b0 b1 b2 b3 : Byte) : Nat :=
  b0.toNat + b1.toNat * 2 ^ 8 + b2.toNat * 2 ^ 16 + b3.toNat * 2 ^ 24

/-- The little-endian words of a byte string; bytes past the last whole word are dropped. -/
def wordsOfBytes : List Byte → List Nat
  | b0 :: b1 :: b2 :: b3 :: rest => wordOfBytes b0 b1 b2 b3 :: wordsOfBytes rest
  | _ => []

/-- The decoder on a list of words: the instruction and the words after it. -/
def decodeWords : List Nat → Except DecodeError (Instr × List Nat)
  | [] => .error .shortWords
  | w0 :: rest =>
    if rest.length + 1 < lengthOf w0 then .error .shortWords
    else
      match decode w0 (rest.getD 0 0) (rest.getD 1 0) (rest.getD 2 0) with
      | .ok i => .ok (i, rest.drop (lengthOf w0 - 1))
      | .error e => .error e

/-- The decoder on bytes: the instruction and the bytes after it. -/
def decodeBytes (bs : List Byte) : Except DecodeError (Instr × List Byte) :=
  match decodeWords (wordsOfBytes bs) with
  | .ok (i, _) => .ok (i, bs.drop (4 * lengthOf ((wordsOfBytes bs).headD 0)))
  | .error e => .error e

/-- The bytes of a number laid out as the hardware stores it, `n` bytes, the lowest address first (00 R2). -/
def bytesOfNat : Nat → Nat → List Byte
  | 0, _ => []
  | n + 1, v => BitVec.ofNat 8 v :: bytesOfNat n (v / 2 ^ 8)

/-- The bytes of an instruction given as the number `w` of the opcode table's numbering, whose first word is bits 31..0; every bit above `nbits` is 0, up to the four words of the longest instruction. -/
def tableBytes (nbits w : Nat) : List Byte := bytesOfNat 16 (w % 2 ^ nbits)

/-- The instruction the decoder reads from a table word. -/
def decodeTableWord (nbits w : Nat) : Option Instr :=
  match decodeBytes (tableBytes nbits w) with
  | .ok (i, _) => some i
  | .error _ => none

end Sys2Proof
end

