-- ==== Sys2Proof/Machine/Forms.lean ====
section
/-! DEFINITION. Facts of the instruction forms that the clause check needs: which are long-latency (15 R296, Table 15.3; 19, 20 Table 20.1), which of those write a register, predicate or tile, and the class of an opcode (15 Table 15.2). -/

namespace Sys2Proof.Machine

/-- A long-latency form that writes a general register, a predicate or an accumulator tile (15 R296). -/
def longDest : Instr → Bool
  | .ld _ _ _ _ _ => true
  | .lds _ _ _ _ _ _ => true
  | .ldp _ _ _ _ _ => true
  | .ldnr _ _ _ _ _ => true
  | .atom32 _ _ _ _ _ _ r _ => r == 0
  | .atom64 _ _ _ _ _ _ r _ => r == 0
  | .cas _ _ _ _ _ _ _ => true
  | .resize _ _ => true
  | .resizeRel _ _ => true
  | .take _ _ _ _ => true
  | .waitf _ _ _ _ => true
  | .tagq _ _ _ => true
  | .mma _ _ _ _ _ _ _ _ _ _ _ => true
  | .accRd _ _ _ => true
  | .tcopy _ _ _ _ _ _ _ => true
  | .chain _ _ _ => true
  | .placeConvert _ _ _ _ => true
  | .placeSeal _ _ _ => true
  | .placeUnseal _ _ => true
  | .placeQuery _ _ => true
  | .srchScan _ _ _ _ _ _ _ => true
  | .srchDist _ _ _ _ _ => true
  | .srchWalkList _ _ _ _ _ _ _ _ => true
  | .srchWalkHash _ _ _ _ _ _ _ => true
  | .srchWalkKv _ _ _ _ _ _ _ _ => true
  | .srchPush _ _ _ => true
  | .srchPop _ _ => true
  | .srchDrain _ _ _ _ _ => true
  | .ixcommit _ _ _ => true
  | .ixver _ _ _ _ => true
  | .chanConfig _ _ => true
  | .chanSend _ _ _ _ => true
  | .chanSendAcc _ _ _ _ => true
  | .chanSendAccBf16 _ _ _ _ => true
  | .chanWait _ _ _ _ => true
  | .wdqNext _ _ _ _ => true
  | _ => false

/-- A long-latency form (15 Table 15.3). -/
def isLong (i : Instr) : Bool :=
  longDest i || (match i with
    | .tld _ _ _ _ _ => true
    | .tldDem _ _ _ _ _ => true
    | .tst _ _ _ _ _ => true
    | .accSt _ _ _ _ _ _ _ => true
    | .metaLd _ _ _ _ => true
    | .chanRelease _ _ _ => true
    | .wdqInit _ _ => true
    | .wdqReset _ => true
    | _ => false)

/-- The opcodes a clause class admits (15 Table 15.2, R292): PRED and EXT stand in every class, a control instruction of 0x20 to 0x23 is judged by its place. -/
def classAdmits (cls op : Nat) : Bool :=
  op == 0x1B || op == 0x7F || (0x20 ≤ op && op ≤ 0x23) ||
  (match cls with
   | 0 => 1 ≤ op && op ≤ 0x1A
   | 1 => (0x50 ≤ op && op ≤ 0x5A) || (0x60 ≤ op && op ≤ 0x66)
   | 2 => (0x30 ≤ op && op ≤ 0x3D) || (0x40 ≤ op && op ≤ 0x47)
   | 3 => 0x70 ≤ op && op ≤ 0x76
   | 4 => 0x78 ≤ op && op ≤ 0x7D
   | 5 => 0x20 ≤ op && op ≤ 0x2B
   | 6 => assignedOpcode op
   | _ => false)

/-- The opcodes an atomic clause may not hold (15 R290 item 7). -/
def atomicForbids (op : Nat) : Bool :=
  op == 0x26 || op == 0x41 || op == 0x42 || op == 0x47 || (0x60 ≤ op && op ≤ 0x66) ||
  op == 0x73 || op == 0x7B || op == 0x7C

/-- Where the check of a clause stands: words seen, long-latency instructions, and instructions a PRED prefix still covers. -/
structure ClauseScan where
  nll : Nat
  span : Nat
  deriving DecidableEq, Repr

/-- The scan meets one instruction: `left` words of the clause are left, the instruction's own included (15 R290 items 2 to 7, R296). -/
def scanInstr (hdr : Nat) (left : Nat) (w0 w1 w2 w3 : Nat) (c : ClauseScan) : Option ClauseScan :=
  let op := w0 / 2 ^ 25
  let len := lengthOf w0
  let long := match decodeForm w0 w1 w2 w3 with | .ok i => (isLong i, longDest i) | .error _ => (false, false)
  let set := if c.nll = 0 then bitsOf hdr 19 4 else bitsOf hdr 23 4
  if !assignedOpcode op || !classAdmits (bitsOf hdr 4 3) op then none
  else if left < len then none
  else if 0x20 ≤ op ∧ op ≤ 0x23 ∧ left ≠ len then none
  else if bitsOf hdr 27 1 = 1 ∧ atomicForbids op then none
  else if op = 0x1B then
    (if c.span ≠ 0 then none else some { c with span := bitsOf w0 16 3 + 1 })
  else if long.1 ∧ (2 ≤ c.nll ∨ (long.2 ∧ set = 15)) then none
  else some { nll := if long.1 then c.nll + 1 else c.nll, span := c.span - 1 }

/-- The scan of all the words of a clause; `fuel` bounds the instructions, of which there are at most 15. -/
def scanClause (hdr : Nat) : Nat → List Nat → ClauseScan → Bool
  | _, [], c => c.span == 0
  | 0, _ :: _, _ => false
  | fuel + 1, w :: ws, c =>
    match scanInstr hdr (ws.length + 1) w (ws.getD 0 0) (ws.getD 1 0) (ws.getD 2 0) c with
    | some c => scanClause hdr fuel (ws.drop (lengthOf w - 1)) c
    | none => false

/-- The header's own fields (15 R290 item 1). -/
def headerOk (hdr : Nat) : Bool :=
  let set := fun k => decide (k ≤ 11) || k == 15
  bitsOf hdr 28 4 == 0xA && bitsOf hdr 0 4 != 0 && bitsOf hdr 4 3 != 7 &&
    set (bitsOf hdr 19 4) && set (bitsOf hdr 23 4)

/-- ClauseValid of 15 R290, on the header and the words of the clause. -/
def clauseValid (hdr : Nat) (ws : List Nat) : Bool :=
  headerOk hdr && ws.length == bitsOf hdr 0 4 && scanClause hdr 15 ws ⟨0, 0⟩

/-- The highest general register an instruction names (15 R298). -/
def topReg (i : Instr) : Nat :=
  match i with
  | .add d a b _ => max (d.toNat) (max a.toNat b.toNat)
  | .sub d a b _ => max (d.toNat) (max a.toNat b.toNat)
  | .addi d a _ => max d.toNat a.toNat
  | .mul d a b _ => max (d.toNat) (max a.toNat b.toNat)
  | .mad d a b _ => max (d.toNat) (max a.toNat b.toNat)
  | .div d a b _ _ => max (d.toNat) (max a.toNat b.toNat)
  | .rem d a b _ _ => max (d.toNat) (max a.toNat b.toNat)
  | .minmax d a b _ _ _ => max (d.toNat) (max a.toNat b.toNat)
  | .andR d a b => max (d.toNat) (max a.toNat b.toNat)
  | .orR d a b => max (d.toNat) (max a.toNat b.toNat)
  | .xorR d a b => max (d.toNat) (max a.toNat b.toNat)
  | .andn d a b => max (d.toNat) (max a.toNat b.toNat)
  | .andi d a _ => max d.toNat a.toNat
  | .ori d a _ => max d.toNat a.toNat
  | .xori d a _ => max d.toNat a.toNat
  | .shift d a b _ _ => max (d.toNat) (max a.toNat b.toNat)
  | .shifti d a _ _ _ => max d.toNat a.toNat
  | .bfx d a _ _ => max d.toNat a.toNat
  | .bfi d a _ _ => max d.toNat a.toNat
  | .bitop d a _ => max d.toNat a.toNat
  | .mov d a _ => max d.toNat a.toNat
  | .movRdp d => d.toNat
  | .movWrp a => a.toNat
  | .movFromSpecial d _ => d.toNat
  | .movToSpecial _ a => a.toNat
  | .movi d _ => d.toNat
  | .movl d _ => d.toNat
  | .movlS d _ => d.toNat
  | .movlHi d _ => d.toNat
  | .lea d a b _ _ => max (d.toNat) (max a.toNat b.toNat)
  | .cmp _ _ a b _ => max a.toNat b.toNat
  | .cmpi _ _ a _ _ => a.toNat
  | .jmp a => a.toNat
  | .callr a => a.toNat
  | .spawn d a b n _ => max (d.toNat) (max (a.toNat) (if n.toNat = 0 then 0 else b.toNat + (n.toNat - 1)))
  | .rebin d a b n _ => max (d.toNat) (max (a.toNat) (if n.toNat = 0 then 0 else b.toNat + (n.toNat - 1)))
  | .sysrd d _ => d.toNat
  | .syswr a _ => a.toNat
  | .fenceHeavy b => b.toNat
  | .ld d b _ _ z => max ((if z = 4 then d.toNat + 1 else d.toNat)) (b.toNat)
  | .st d b _ _ z => max ((if z = 4 then d.toNat + 1 else d.toNat)) (b.toNat)
  | .lds d b _ _ _ _ => max d.toNat b.toNat
  | .sts d b _ _ _ _ => max d.toNat b.toNat
  | .ldp d b _ _ _ => max (d.toNat + 1) (b.toNat)
  | .stp d b _ _ _ => max (d.toNat + 1) (b.toNat)
  | .stn d b _ _ => max d.toNat b.toNat
  | .stm d b _ _ => max (d.toNat + 1) (b.toNat)
  | .ldnr d b _ _ z => max ((if z = 4 then d.toNat + 1 else d.toNat)) (b.toNat)
  | .pref b _ _ _ => b.toNat
  | .preq d b _ _ _ => max d.toNat b.toNat
  | .atom32 d a b _ _ _ _ _ => max (d.toNat) (max a.toNat b.toNat)
  | .atom64 d a b _ _ _ _ _ => max (d.toNat) (max a.toNat b.toNat)
  | .cas d a b _ _ _ _ => max (d.toNat) (max a.toNat b.toNat)
  | .red a b _ _ _ _ _ => max a.toNat b.toNat
  | .redf a b _ _ => max a.toNat b.toNat
  | .acqr a b _ => max a.toNat b.toNat
  | .cacheFlush a => a.toNat
  | .cacheInval a => a.toNat
  | .cacheRetain a => a.toNat
  | .cacheEvict a => a.toNat
  | .resize d a => max d.toNat a.toNat
  | .resizeRel d a => max d.toNat a.toNat
  | .cacheWays d => d.toNat
  | .rqdeg d a => max d.toNat a.toNat
  | .fill a _ _ => a.toNat
  | .fillVal a b _ _ => max a.toNat b.toNat
  | .fillEmpty a _ _ => a.toNat
  | .take d b _ _ => max d.toNat b.toNat
  | .waitf d b _ _ => max d.toNat b.toNat
  | .cntdn d b _ _ => max d.toNat b.toNat
  | .tagq d b _ => max d.toNat b.toNat
  | .binit a b _ => max a.toNat b.toNat
  | .binitFull a b _ => max (a.toNat) (b.toNat + 3)
  | .arrive a _ => a.toNat
  | .arriveExpect a b _ => max a.toNat b.toNat
  | .bwait a b _ => max a.toNat b.toNat
  | .fadd d a b _ => max (d.toNat) (max a.toNat b.toNat)
  | .fsub d a b _ => max (d.toNat) (max a.toNat b.toNat)
  | .fmul d a b _ => max (d.toNat) (max a.toNat b.toNat)
  | .ffma d a b _ => max (d.toNat) (max a.toNat b.toNat)
  | .ffms d a b _ => max (d.toNat) (max a.toNat b.toNat)
  | .fmin d a b _ => max (d.toNat) (max a.toNat b.toNat)
  | .fmax d a b _ => max (d.toNat) (max a.toNat b.toNat)
  | .fcmp _ _ a b _ _ => max a.toNat b.toNat
  | .fcvt d a _ _ _ => max d.toNat a.toNat
  | .frnd d a _ _ => max d.toNat a.toNat
  | .ftoi d a _ _ _ _ => max d.toNat a.toNat
  | .itof d a _ _ _ _ => max d.toNat a.toNat
  | .fspec d a _ _ => max d.toNat a.toNat
  | .fdot d a b _ => max (d.toNat) (max a.toNat b.toNat)
  | .fscale d a b _ => max (d.toNat) (max a.toNat b.toNat)
  | .fscaleE8m0 d a b _ => max (d.toNat) (max a.toNat b.toNat)
  | .kvmin d a b _ => max (d.toNat + 1) (max (a.toNat + 1) (b.toNat + 1))
  | .kvmax d a b _ => max (d.toNat + 1) (max (a.toNat + 1) (b.toNat + 1))
  | .xshf d a m _ => max (d.toNat) (max a.toNat m.toNat)
  | .xred d a m _ => max (d.toNat) (max a.toNat m.toNat)
  | .xscan d a m _ _ => max (d.toNat) (max a.toNat m.toNat)
  | .xvote d a m _ => max (d.toNat) (max a.toNat m.toNat)
  | .xbcast d a m => max (d.toNat) (max a.toNat m.toNat)
  | .xbcastLane d a m => max (d.toNat) (max a.toNat m.toNat)
  | .xelect d m => max d.toNat m.toNat
  | .xelectIf d a m => max (d.toNat) (max a.toNat m.toNat)
  | .xmatch d a m _ => max (d.toNat) (max a.toNat m.toNat)
  | .tdef a _ => a.toNat
  | .tdefQuery d _ _ => d.toNat
  | .tdefBind a b _ => max a.toNat b.toNat
  | .tdefFill a _ => a.toNat
  | .tdefBounds a _ _ => a.toNat
  | .tld d a b _ _ => max (d.toNat) (max a.toNat b.toNat)
  | .tldDem d a b _ _ => max (d.toNat) (max a.toNat b.toNat)
  | .tst d a b _ _ => max (d.toNat) (max a.toNat b.toNat)
  | .mma _ a b _ _ _ _ _ _ _ _ => max a.toNat b.toNat
  | .accLd a _ _ => a.toNat
  | .accSt a b _ _ _ _ _ => max a.toNat b.toNat
  | .accRd d a _ => max d.toNat a.toNat
  | .metaLd a b _ _ => max a.toNat b.toNat
  | .metaCompress a b _ _ _ _ => max a.toNat b.toNat
  | .metaExpand a b _ _ _ _ => max a.toNat b.toNat
  | .metaRd d a => max d.toNat a.toNat
  | .cvdecl _ a => a.toNat
  | .cvstat d _ => d.toNat
  | .tcopy d a b _ r j c => max (d.toNat) (max (a.toNat) (max (b.toNat) (max (r.toNat) (max j.toNat c.toNat))))
  | .chain d a c => max (d.toNat) (max a.toNat c.toNat)
  | .placeConvert d c _ _ => max d.toNat c.toNat
  | .placeSeal d _ _ => d.toNat
  | .placeUnseal d _ => d.toNat
  | .placeQuery d _ => d.toNat
  | .srchScan d a b _ _ r c => max (d.toNat) (max (a.toNat) (max (b.toNat) (max r.toNat c.toNat)))
  | .srchDist d a b e s => max (d.toNat) (max (a.toNat) (max (b.toNat) (max e.toNat s.toNat)))
  | .srchWalkList d a b _ _ r c _ => max (d.toNat) (max (a.toNat) (max (b.toNat) (max r.toNat c.toNat)))
  | .srchWalkHash d a b _ _ r c => max (d.toNat) (max (a.toNat) (max (b.toNat) (max r.toNat c.toNat)))
  | .srchWalkKv d a b _ _ _ r c => max (d.toNat) (max (a.toNat) (max (b.toNat) (max r.toNat c.toNat)))
  | .srchPush d a b => max (d.toNat) (max (a.toNat) (b.toNat + 1))
  | .srchPop d a => max (d.toNat + 1) (a.toNat)
  | .srchDrain d a b c _ => max (d.toNat) (max (a.toNat) (max b.toNat c.toNat))
  | .ixcommit d a b => max (d.toNat) (max a.toNat b.toNat)
  | .ixver d a _ _ => max d.toNat a.toNat
  | .hop a => a.toNat
  | .chanConfig d a => max d.toNat a.toNat
  | .chanSend d a b _ => max (d.toNat) (max a.toNat b.toNat)
  | .chanSendAcc d b _ _ => max d.toNat b.toNat
  | .chanSendAccBf16 d b _ _ => max d.toNat b.toNat
  | .chanWait d b _ _ => max d.toNat b.toNat
  | .chanRelease b _ _ => b.toNat
  | .wdqInit a _ => a.toNat
  | .wdqNext d a _ c => max (d.toNat) (max a.toNat c.toNat)
  | _ => 0

end Sys2Proof.Machine
end

