-- ==== Sys2Proof/Config.lean ====
section
/-! DEFINITION. What the spec leaves open: opaque constants with no body, so that no proof can lean on a value of them. -/

namespace Sys2Proof.Config

/-- The numbers drawn where the spec leaves a choice to the device: the first argument is the step counter of the state, the second tells the choices of one step apart (log entry 2). -/
opaque free : Nat → Nat → Nat

/-- How many aclk pass in one step of the model (log entry 4). -/
opaque elapsed : Nat → Nat

/-- Which of several enabled turns runs next when the agenda names none (log entry 1). -/
opaque arbiter : Nat → Nat

/-- The value of a special function outside the points the spec states: function code, type code, operand bits (18 R376). -/
opaque special : Nat → Nat → Nat → Nat

/-- SHAKE256 of a byte string: the number of the first output bytes asked for (03 R66, 01 R30). -/
opaque shake256 : List (BitVec 8) → List (BitVec 8)

/-- The identity key's signature over a byte string (01 R30). -/
opaque sign : List (BitVec 8) → List (BitVec 8)

/-- Whether a firmware image carries a good signature of the vendor key over its digest (01 R28). -/
opaque imageSigned : List (BitVec 8) → Bool

/-- The security version that a firmware image carries (01 R28). -/
opaque securityOf : List (BitVec 8) → Nat

/-- The version of the boot ROM, the serial number of the module, and the fused MAC address (01 R30, 03 R65). -/
opaque romVersion : Nat

opaque serial : Nat

opaque fusedMac : Nat

/-- The port that the hash over eligible ports chooses: destination, class, context (02 R48). -/
opaque portHash : Nat → Nat → Nat → Nat

/-- The address hash that spreads second-tier lines over the C-die slices (08 R172): not architectural. -/
opaque homeHash : Nat → Nat

end Sys2Proof.Config
end

