-- ==== Sys2Proof/Machine/State.lean ====
section
/-! DEFINITION. The state of the module as plain data: fibres, teams, contexts, memory and its coherence, the scheduler, the engines, the links and the management unit, each with the value module reset gives it. -/

namespace Sys2Proof.Machine

/-! ### Names -/

/-- A core: its die (00 Table 0.3) and its index on that die (00 R7). -/
structure CoreId where
  die : Nat
  idx : Nat
  deriving DecidableEq, Repr

/-- A fibre: the team it belongs to, by the model's team number, and its fibre index (07 R148). -/
structure FibreRef where
  team : Nat
  fibre : Nat
  deriving DecidableEq, Repr

/-- What comes from outside the machine and has no row in the opcode table: an error of a storage array (08 R183, Table 8.5), the 256 bytes of a flit on a Pyryta port (02 R40), an RNR NAK of the host for a transaction of the device (03 R63). -/
inductive Outside where
  /-- One that the code corrects: array class and die of its lifetime counter (01 Table 1.7). -/
  | corrected (cls die : Nat)
  /-- One that it does not, at a physical address: a 32-byte sector of a stack or of the second tier, a memory word of the weight store. -/
  | memory (pa : Nat)
  /-- In a memory word of a shared-cache slice's line, of an L1's copy (core), or of a cutting (die). -/
  | cache (pa : Nat)
  | l1 (core : CoreId) (pa : Nat)
  | cutting (die pa : Nat)
  /-- In a register of a fibre, in a memory word of a team's scratchpad, of its metadata memory, in an accumulator pair. -/
  | reg (who : FibreRef) (n : Nat)
  | scratch (team off : Nat)
  | metaWord (team off : Nat)
  | acc (team pair : Nat)
  /-- In a memory word of the scratchpad of a near-core slot. -/
  | near (stack core slot off : Nat)
  /-- In device state that no context maps, of a job of a context: an image slot, a scheduler entry, an escape buffer (14 cause 0x1D); the die it arose on. -/
  | deviceState (ctx job die : Nat)
  /-- Bytes of a flit, and whether the forward error correction found no uncorrectable codeword. -/
  | wire (port : Nat) (bytes : List (BitVec 8)) (fec : Bool)
  | rnr (op : Nat)
  deriving DecidableEq, Repr

/-- What moves next: a device step; one instruction or clause header of a fibre; something from outside; Oseus at its next waiting message (03 R59); a failure report whose release is complete (03 R83); a queue pair at its oldest waiting operation (02 R38); the next waiting packet of the host port (02 R34); tags whose releases are complete (03 R80); a peer's request that waited for an engine's line (08 R182). -/
inductive Turn where
  | event (i : Instr)
  | fibre (r : FibreRef)
  | outside (u : Outside)
  | mgmt
  | report
  | qp (q : Nat)
  | hostSend
  | fills
  | peer
  deriving DecidableEq, Repr

/-- An issue quadrant (07 R148): core and quadrant; a near core or a service slot has one. -/
structure QuadId where
  core : CoreId
  quad : Nat
  deriving DecidableEq, Repr

/-- Issue at a quadrant (07 R150): the place in turn of the team it served last, and the fibres of the group-instruction under way that have not yet executed it, with its PC and the aclk of its issue. -/
structure Quad where
  id : QuadId
  last : Nat
  group : List FibreRef
  pc : Nat
  at_ : Nat
  deriving DecidableEq, Repr

/-! ### Places in memory -/

/-- A place in translated memory of class HBM, second tier or W: its physical address and what the leaf says of it (04 Table 4.4). -/
structure MemLoc where
  pa : Nat
  va : Nat
  cls : Nat
  policy : Nat
  part : Nat
  pin0 : Bool
  deriving DecidableEq, Repr

/-- A place an access resolves to (04 Table 4.1): memory, the scratchpad of a team, or a remote window (classes peer and host). -/
inductive Loc where
  | mem (m : MemLoc)
  | scr (team off : Nat)
  /-- The scratchpad of a near-core slot (10 R222). -/
  | near (stack core slot off : Nat)
  | remote (host : Bool) (window off : Nat)
  deriving DecidableEq, Repr

/-- Scope and order of an access (09 Table 9.1); a plain access has `strong = false`. -/
structure Strength where
  strong : Bool
  scope : Nat
  order : Nat
  deriving DecidableEq, Repr

/-! ### Fibres -/

/-- The states of 07 R149 and 06 Table 6.5 in which a fibre issues nothing, and `ready`. -/
inductive FibreStatus where
  | ready
  /-- Blocked at BWAIT on the object at a scratchpad place, for the flip of a phase (07 R160). -/
  | bwait (obj : Loc) (phase : Bool)
  /-- Blocked at CHAN.wait on a slot's barrier, as at BWAIT; what the instruction writes when it passes: a register and the slot's offset (12 R249). -/
  | chanWait (obj : Loc) (phase : Bool) (d value : Nat)
  /-- Blocked at TAKE or WAITF on the word at a virtual address; the waiter stands in `Coherence.waiters` (17 R363). -/
  | tagWait (va : Nat)
  /-- Served at a word that turned FULL poisoned: the next turn of the fibre is the poison-consumed fault of its TAKE or WAITF (05 R114, 08 R184; log entry 84). -/
  | poisoned (va : Nat)
  /-- Blocked at a rendezvous: instruction address and member set (07 R153), and the resident time of its arrival. -/
  | rendezvous (at_ : Nat) (members : BitVec 32) (since : Nat)
  /-- Blocked at a signed MMA of a convergence register (07 R156). -/
  | signed (cv : Nat)
  /-- Pending in a bin (06 R130) or in the reorder unit (06 R133). -/
  | inBin
  | inReorder
  /-- Ended: its index is free (16 R334). -/
  | notLive
  deriving DecidableEq, Repr

/-- Where a fibre that left its core stands (10 R222 to R227). -/
inductive Away where
  /-- In transit to a stack's escape buffer, or in it; whether it holds one of the entries for hops from full cores (10 R227). -/
  | transit (stack : Nat) (core : Bool)
  | escape (stack : Nat) (core : Bool)
  /-- In a near-core slot: stack, near core, slot (10 R222). -/
  | near (stack core slot : Nat)
  /-- Stopped by a return trap, to be shipped to a service slot of the stack's M-die; and in a service slot, with the pc of the instruction it came for (10 R224). -/
  | shipping (stack core slot : Nat)
  | service (stack slot pc : Nat)
  /-- Returning by HOP.home (10 R226). -/
  | homeward
  deriving DecidableEq, Repr

/-- The position of a fibre inside a clause (15 R291): header address and word, long-latency instructions met, and what is left of a PRED prefix's span. -/
structure Clause where
  head : Nat
  hdr : Word32
  nll : Nat
  span : Nat
  spanOn : Bool
  pfx : Option Word32
  deriving DecidableEq, Repr

/-- A part of a source: some bytes from a place up, or bytes already known. -/
inductive Piece where
  | read (l : Loc) (n : Nat)
  | known (bs : List Byte)
  deriving DecidableEq, Repr

/-- One element on its way (19 R399): an element of 8 bits or more or an o4 block, whole; or a 4-bit code, with the nibble it stands in at both ends (`half`: the high one). -/
structure Move where
  src : List Piece
  dst : List (Loc × Nat)
  half : Option Bool
  deriving DecidableEq, Repr

/-- What an outstanding long-latency instruction does at its drop point (15 Table 15.3). -/
inductive LongKind where
  /-- LD, LDS: bytes, destination register (a pair for 16 bytes). -/
  | load (loc : Loc) (bytes d : Nat) (st : Strength)
  | pair (l0 l1 : Loc) (bytes d : Nat)
  /-- LDNR on a resident page, or with none a non-resident one (17 R351). -/
  | loadNr (loc : Option Loc) (bytes d pr : Nat)
  /-- ATOM with return and CAS: the old value arrives when the store queue has performed it. -/
  | atomic (ticket d : Nat) (loc : Loc) (st : Strength) (old : Option Dword)
  | tagq (loc : Loc) (d : Nat)
  /-- TAKE and WAITF, blocked (17 R362). -/
  | tagWait (loc : Loc) (d : Nat) (take : Bool) (st : Strength)
  | resize (n d : Nat) (keep : Bool)
  /-- TLD: the moves it makes at its drop point (19 R399). -/
  | tile (moves : List Move)
  /-- META.ld: metadata offset and the source bytes (19 R411). -/
  | metaLoad (off : Nat) (src : List Piece)
  /-- A signed MMA: the number of the issued operation (07 R157). -/
  | mma (op : Nat)
  /-- An engine command of chapter 20: the group of its commands in `State.cmds`, and the register values of its drop point. -/
  | cmd (grp : Nat) (vals : List (Nat × Dword))
  /-- PLACE.seal under way: context, tensor, member, destination (20 R421). -/
  | seal (ctx tid member d : Nat)
  /-- Register values, and a predicate bit, that are known and wait for their drop point: remote loads answered before issue, WDQ.next, PLACE and SRCH forms. -/
  | value (vals : List (Nat × Dword)) (pr : Option (Nat × Bool))
  deriving DecidableEq, Repr

/-- An outstanding long-latency instruction of a fibre (15 R295, R297). -/
structure LongOp where
  kind : LongKind
  counter : Option Nat
  regs : List Nat
  preds : List Nat
  tiles : List Nat
  /-- Place in the fibre's program order of memory accesses (09 R192). -/
  seq : Nat
  pc : Nat
  /-- Length in words. -/
  len : Nat
  /-- The aclk of its issue. -/
  at_ : Nat
  deriving DecidableEq, Repr

/-- The operations of 17 Table 17.2, and the compare of CAS. -/
inductive AtomOp where
  | add | sub | and | or | xor | minI | maxI | minN | maxN | swap
  | cas (expect : Dword)
  deriving DecidableEq, Repr

/-- What an entry of the store queue does at its home (09 R191, 17 R346). -/
inductive StoreKind where
  /-- Plain or strong store: the bytes written, a hole where the mask leaves one out (17 R350). -/
  | write (loc : Loc) (bytes : List (Option Byte))
  | nibble (loc : Loc) (high : Bool) (v : BitVec 4)
  /-- ATOM, RED and CAS; with a ticket the old value goes to the fibre (17 R354 to R356). -/
  | atomic (loc : Loc) (op : AtomOp) (bytes : Nat) (v : Dword) (ticket : Option Nat)
  | redf (loc : Loc) (ftype op : Nat) (v : Dword)
  | fill (loc : Loc) (v : Option Dword)
  | fillEmpty (loc : Loc)
  | cntdn (loc : Loc) (n : Dword)
  /-- The memory word takes the poison that a tile store carried to it (08 R184). -/
  | poison (loc : Loc)
  deriving DecidableEq, Repr

structure StoreOp where
  kind : StoreKind
  st : Strength
  seq : Nat
  pc : Nat
  deriving DecidableEq, Repr

/-- A pending asynchronous fault of a fibre (14 R275). -/
structure AsyncFault where
  cause : Nat
  recAddr : Nat
  addr : Nat
  overflow : Bool
  /-- The barrier or word of the completion that carried it: a fibre blocked there takes it at once. -/
  on : Option Loc
  deriving DecidableEq, Repr

/-- A trap on its way into a handler: the entry waits for the completion counters (14 R280). -/
structure TrapEntry where
  cause : Nat
  recAddr : Nat
  addr : Nat
  pc : Nat
  skipPc : Nat
  clausePc : Nat
  words : List Word32
  clause : Option Clause
  deriving DecidableEq, Repr

/-- The in-a-handler mark and what RFT needs of the interrupted point (14 R280, R282). -/
structure HandlerMark where
  cause : Nat
  pc : Nat
  skipPc : Nat
  clause : Option Clause
  /-- The interrupted instruction is long-latency. -/
  long : Bool
  deriving DecidableEq, Repr

/-- What a member keeps while it is in a handler: an arrival, a result held for it, an MMA signature, or an MMA that has issued (06 R135). -/
inductive Held where
  | arrived (at_ : Nat) (members : BitVec 32) (since : Nat) (regs : List Dword) (fmode : BitVec 16)
  | result (at_ : Nat) (v : Dword) (flags : BitVec 16)
  | signed (cv : Nat)
  | passed (at_ : Nat)
  deriving DecidableEq, Repr

/-- A fibre (07 Table 7.1), with its position, its outstanding operations and its place. -/
structure Fibre where
  idx : Nat
  status : FibreStatus
  pc : BitVec 52
  regs : List Dword
  /-- Registers that an uncorrectable error has struck and nothing has written since (08 Table 8.5). -/
  spoilt : List Nat
  pred : BitVec 32
  lk : BitVec 52
  csp : BitVec 52
  cf : List Nat
  fmode : BitVec 16
  fflags : BitVec 16
  srseed : BitVec 32
  clause : Option Clause
  ll : List LongOp
  sq : List StoreOp
  /-- Memory accesses issued so far: the program order of 09 R192. -/
  seq : Nat
  faults : List AsyncFault
  handler : Option HandlerMark
  entering : Option TrapEntry
  /-- The PCs of host-class stores that failed and have not been reported, oldest first (03 R81). -/
  hostFail : List Nat
  /-- Release fences that later stores wait for: place in program order and scope (09 R197). -/
  fences : List (Nat × Nat)
  /-- The prefix that stood over the instruction at an address when the fibre last came to it: a later record of that instruction holds it (14 Table 14.2, words). -/
  pfxs : List (Nat × Word32)
  firstClause : Bool
  /-- Stopped by a swap point at an instruction of an atomic clause that waits (06 R136). -/
  stopped : Bool
  away : Option Away
  /-- The aclk at which the fibre last became ready or issued (07 R150). -/
  since : Nat
  held : Option Held
  deriving DecidableEq, Repr

/-! ### Teams -/

/-- Team life cycle (06 Table 6.2). -/
inductive TeamState where
  | waiting | running | preemptPending | saving | saved | restoring | discarding | done | terminated
  deriving DecidableEq, Repr

/-- A convergence register (07 Table 7.5): declared count, signers, the words and operand values of the first signature, and the resident time it was made. -/
structure Conv where
  declared : Option Nat
  signers : List Nat
  words : List Word32
  vals : List Dword
  at_ : Nat
  since : Nat
  deriving DecidableEq, Repr

/-- A pending fibre of a bin or of the reorder unit: the index it holds and its payload (06 R131, R133). -/
structure Deposit where
  fibre : Nat
  entry : Nat
  key : BitVec 16
  payload : List Dword
  deriving DecidableEq, Repr

/-- A bin (06 R130): entry and key, the resident time it became nonempty, and its fibres. -/
structure Bin where
  entry : Nat
  key : BitVec 16
  since : Nat
  fibres : List Deposit
  deriving DecidableEq, Repr

/-- The launch needs and addresses of a JOB node (05 Table 5.4) that a team carries. -/
structure Kernel where
  mcore : Bool
  window : Nat
  scratchWays : Nat
  accTiles : Nat
  metaUnits : Nat
  clW : Nat
  clH : Nat
  fibresM1 : Nat
  entryPc : Nat
  restartPc : Nat
  binTimerM1 : Nat
  budget : Nat
  nslices : Nat
  param : Nat
  faultWord : Nat
  grid : Nat × Nat × Nat
  deriving DecidableEq, Repr

/-- What arrives for a team that is not on a core (06 R139): bytes landed at a barrier; scratchpad bytes, a nibble or an operand of 08 Table 8.4, with the places among their bytes that are poisoned, and whether they are a completion of their own or the data of a landing or arrival that follows; a message's arrival at its slot barrier; a fibre on its way back. -/
inductive Completion where
  | landing (off bytes : Nat)
  | write (off : Nat) (bytes : List (Option Byte)) (poison : List Nat) (alone : Bool)
  | nibble (off : Nat) (high : Bool) (v : BitVec 4) (poison alone : Bool)
  | combine (off ftype op : Nat) (v : Dword) (poison alone : Bool)
  | arrival (off bytes : Nat)
  | fibreBack (fibre : Nat)
  deriving DecidableEq, Repr

/-- A team (06): its job, place, resources, units of its core, and its fibres. -/
structure Team where
  id : Nat
  ctx : Nat
  job : Nat
  jobTag : BitVec 32
  linear : Nat
  cluster : Option Nat
  member : Nat
  state : TeamState
  core : Option CoreId
  /-- Its slot among the teams of its core, since the last dispatch there (07 R150). -/
  slot : Nat
  kernel : Kernel
  /-- Reserved ways and the allocation (08 R167). -/
  reserved : Nat
  alloc : Nat
  /-- Scratchpad bytes that are not 0, and the memory words of it that are poisoned (08 R165, R184). -/
  scratch : List Host.Cell
  scratchPoison : List Nat
  /-- Accumulator words that are not 0, by tile × 6,144 + element (08 R165, 19 R408), and the poisoned pairs. -/
  acc : List (Nat × Word32)
  accPoison : List Nat
  metaMem : List Host.Cell
  metaPoison : List Nat
  cv : List Conv
  bins : List Bin
  /-- Bins of the core that are the team's since the last dispatch there (06 R130). -/
  binQuota : Nat
  reorder : List Deposit
  reorderSince : Nat
  /-- Resident aclk before the present residency, and when it began. -/
  resAcc : Nat
  resSince : Option Nat
  /-- Class (05 Table 5.3) after demotion, absolute deadline, time of readiness. -/
  cls : Nat
  /-- The class of its job (05 Table 5.3), which a demotion leaves alone. -/
  jobCls : Nat
  deadline : Nat
  readyAt : Nat
  /-- Slice count, the resident time at which the slice's budget ends, and the aclk at which the budget ran out and at which a pre-emption request arrived (05 R102, R103, 06 R135). -/
  slice : Nat
  budgetEnd : Nat
  budgetOut : Option Nat
  preempt : Option Nat
  /-- The budget trap, or the pre-emption request, waits to be taken by a fibre (05 R102, 06 R135). -/
  budgetTrap : Bool
  preemptTrap : Bool
  /-- Whether the save under way was forced, and whether it keeps the slice (06 R140). -/
  forced : Bool
  keepSlice : Bool
  /-- The frames of its image slot: first frame, count (06 R140). -/
  image : Nat × Nat
  redirect : List Completion
  redirected : Nat
  fibres : List Fibre
  deriving DecidableEq, Repr

/-! ### Memory and coherence -/

/-- The 16 memory words of a line and which of them are poisoned. -/
abbrev LineData := List (Dword × Bool)

/-- A line held in a core's L1 (08 R173); class W lines are read-only copies (08 R170). -/
structure L1Line where
  core : CoreId
  line : Nat
  data : LineData
  deriving DecidableEq, Repr

/-- A cutting: a die's copy of a line homed on another die (08 R175), with the partition and the way it lies in and its leaf's policy (03 R70, 08 R172). -/
structure Cutting where
  die : Nat
  line : Nat
  data : LineData
  part : Nat
  way : Nat
  policy : Nat
  deriving DecidableEq, Repr

/-- A line in its own home slice (08 R172): its partition, way and replacement class, and the 32-byte sectors that are valid and dirty. The bytes are those of `Memory`. -/
structure HomeLine where
  line : Nat
  part : Nat
  way : Nat
  cls : Nat
  valid : BitVec 4
  dirty : BitVec 4
  deriving DecidableEq, Repr

/-- A region directory entry (08 Table 8.3); a region not listed holds zeros. -/
structure Region where
  idx : Nat
  holders : BitVec 8
  degree : Nat
  pinned : Bool
  reads : Nat
  readers : BitVec 8
  writes : Nat
  ctx : Nat
  /-- Remote reads not yet sampled, 0 to 7: one count is made per 8 reads. -/
  frac : Nat
  deriving DecidableEq, Repr

/-- Who caused a write whose collapses are under way: a fibre, or an agent that is none. -/
inductive Writer where
  | fibre (r : FibreRef)
  | qp (n : Nat)
  | engine (cmd : Nat)
  | peer
  /-- Oseus, copying an image (03 R76). -/
  | oseus
  /-- The arithmetic unit of a stack: the home has counted its REDF already (08 R180). -/
  | stack
  /-- The device: tag operations of the scheduler and of engines, trap records. -/
  | other
  deriving DecidableEq, Repr

/-- A collapse probe on its way to a holder die, or its answer on the way back (08 R177). -/
structure Probe where
  line : Nat
  die : Nat
  answered : Bool
  /-- In an answer: the die holds no line of the region. -/
  clear : Bool
  writer : Writer
  ctx : Nat
  deriving DecidableEq, Repr

/-- A cutting fill on its way (08 R178), for a reading context. -/
structure Fill where
  die : Nat
  line : Nat
  data : LineData
  part : Nat
  policy : Nat
  ctx : Nat
  stale : Bool
  deriving DecidableEq, Repr

/-- A REDF forwarded to a stack's arithmetic unit (08 R180). -/
structure PendingRedf where
  m : MemLoc
  ftype : Nat
  op : Nat
  v : Dword
  who : FibreRef
  ctx : Nat
  deriving DecidableEq, Repr

/-- A fibre blocked at a tagged word, oldest first (05 R114, 17 R363). -/
structure Waiter where
  who : FibreRef
  m : MemLoc
  take : Bool
  st : Strength
  deriving DecidableEq, Repr

/-- What the device keeps of a barrier object beyond its 32 bytes (07 R161, R162): when the open phase's timer started in resident time, whether the open and the last completed phase counted an engine landing, and who has arrived. -/
structure Bar where
  obj : Loc
  since : Option Nat
  landed : Bool
  lastLanded : Bool
  arrived : List FibreRef
  deriving DecidableEq, Repr

/-- Physical memory: the bytes that differ from 0, the memory words that are FULL (05 R113), and the poisoned ones (08 R184), by memory-word number. -/
structure Memory where
  cells : List Host.Cell
  full : List Nat
  poison : List Nat
  deriving DecidableEq, Repr

/-- Copies of lines, the directory and the operations under way between dies. -/
structure Coherence where
  l1 : List L1Line
  /-- Words registered to a core: memory word and registrant (08 R173). -/
  regn : List (Nat × CoreId)
  cuttings : List Cutting
  slices : List HomeLine
  regions : List Region
  probes : List Probe
  fills : List Fill
  redfs : List PendingRedf
  waiters : List Waiter
  /-- Weight-store groups (C-die, group) in retention, and the groups whose refresh window is open, with the aclk at which it opened (08 R168, R171). -/
  retainedGroups : List (Nat × Nat)
  refreshing : List (Nat × Nat)
  /-- Retained shared-cache ways (die, way) (08 R168). -/
  retainedWays : List (Nat × Nat)
  /-- The fclk at which the last region window ended (08 R176). -/
  windowEnd : Nat
  deriving DecidableEq, Repr

/-- A shoot-down under way (04 R98): the context, its removed pages with the leaves they had, and the dies still to answer. -/
structure ShootDown where
  ctx : Nat
  removed : List (Nat × Nat × Nat)
  dies : List Nat
  /-- Frames that the pages held: first 64 KiB frame, count. -/
  frames : List (Nat × Nat)
  /-- Type and req_id of the message that waits for it. -/
  msg : Nat
  req : Nat
  since : Nat
  deriving DecidableEq, Repr

/-! ### Contexts, graphs and jobs -/

/-- A node of a topiary graph other than the header (05 Tables 5.4 and 5.5). -/
inductive NodeKind where
  | job (k : Kernel) (relDeadline hops : Nat) (deps : List Nat)
  | cond (word : Nat)
  | while_ (guard word : Nat)
  | join (count : Nat)
  | signal (countdown : Bool) (word : Nat) (value : Dword)
  | seal (tid mask : Nat)
  deriving DecidableEq, Repr

structure Node where
  kind : NodeKind
  /-- The four successor indices; 0xFFFF names none. -/
  succ : List Nat
  deriving DecidableEq, Repr

/-- A loaded graph: its handle, header (05 Table 5.3) and nodes; node 0 of the array is the header. -/
structure Graph where
  handle : Nat
  cls : Nat
  entry : Nat
  maxLive : Nat
  relDeadline : Nat
  faultWord : Nat
  startWord : Nat
  /-- The start word's page has been affected by a shoot-down (05 R455). -/
  startLost : Bool
  /-- When the start word last became FULL (05 R119). -/
  filledAt : Option Nat
  nodes : List Node
  deriving DecidableEq, Repr

/-- A reached and incomplete node of an instance (05 R120): latched dependence words, readiness, teams of its job not yet done. -/
structure NodeRun where
  node : Nat
  latched : List Bool
  ready : Bool
  job : Nat
  /-- Teams of the grid not yet created, and not yet done. -/
  nextTeam : Nat
  left : Nat
  /-- The sys.time at which a JOB node became ready (05 R105). -/
  readyAt : Nat
  /-- The aclk at which the node was reached. -/
  since : Nat
  deriving DecidableEq, Repr

/-- A live graph instance (05 R119 to R121). -/
structure Inst where
  id : Nat
  ctx : Nat
  graph : Nat
  fillTime : Nat
  /-- Admission shares held, in units of 2^-16 cores: C and M (05 R108). -/
  shareC : Nat
  shareM : Nat
  admitted : Bool
  /-- Nodes that have started and not completed, and the counts of JOIN and WHILE nodes. -/
  runs : List NodeRun
  counts : List (Nat × Nat)
  excursion : Bool
  missed : Bool
  deriving DecidableEq, Repr

/-- A remote window of a context (04 R92): remote address, queue pair or peer grid coordinate, key, first virtual address and bytes of its mapping, whether that is non-resident, pages left. -/
structure Window where
  idx : Nat
  host : Bool
  remote : Nat
  qp : Nat
  rkey : Nat
  va : Nat
  span : Nat
  nonres : Bool
  pages : Nat
  deriving DecidableEq, Repr

/-- A loaded work distributor (05 Table 5.6). -/
structure Distributor where
  idx : Nat
  width : Nat
  height : Nat
  order : Nat
  next : Nat
  deriving DecidableEq, Repr

/-- An endpoint of a hedgerow channel (12 R245, R247): its team, role and lane, its slots and barriers, its counts by lane, and the permits it holds by lane. -/
structure Endpoint where
  team : Nat
  ff : Bool
  lane : Nat
  rxOff : Nat
  rxBar : Nat
  timeout : Nat
  send : Nat
  release : List Nat
  permit : List Nat
  landed : List Nat
  /-- Another endpoint of the channel was lost after this one configured (12 R254). -/
  lost : Bool
  deriving DecidableEq, Repr

/-- A channel (12 R246): its shape as the first endpoint configured it, and its endpoints. -/
structure Chan where
  idx : Nat
  nf : Nat
  depth : Nat
  inflight : Nat
  slotKib : Nat
  ends : List Endpoint
  /-- Permits on their way back: to the forward direction, lane (12 Table 12.2). -/
  returning : List (Bool × Nat)
  deriving DecidableEq, Repr


/-- A loaded image (03 R76): index, destination, length, digest. -/
structure Image where
  idx : Nat
  dst : Nat
  len : Nat
  digest : List Byte
  deriving DecidableEq, Repr

/-- A context (03 R68), with the counters it returns (03 R85). -/
structure Context where
  id : Nat
  trapHandler : Nat
  emulHandler : Nat
  preemptHandler : Nat
  tidTable : Nat
  trapRing : Nat
  ringOrder : Nat
  pagerMbox : Nat
  rdvTimeout : Nat
  notifyTerm : Bool
  root : Nat
  critC : Nat
  critM : Nat
  intC : Nat
  intM : Nat
  partMask : List Nat
  peer : Bool
  windows : List Window
  graphs : List Graph
  images : List Image
  wdq : List Distributor
  chans : List Chan
  recSeq : Nat
  counters : List (Nat × Nat)
  /-- Dispatch of the context's slices is held for a load-image (03 R76). -/
  held : Bool
  deriving DecidableEq, Repr


/-! ### Engines and search dies -/

/-- A fibre slot of a near core (10 R222): its fibre, and its 4 KiB of scratchpad. -/
structure NearSlot where
  stack : Nat
  core : Nat
  slot : Nat
  who : FibreRef
  scratch : List Host.Cell
  poison : List Nat
  deriving DecidableEq, Repr

/-- A sealed slot of a tensor: the bytes no store may aim at (11 R238). -/
structure SealedRange where
  ctx : Nat
  tid : Nat
  member : Nat
  lo : Nat
  hi : Nat
  deriving DecidableEq, Repr

/-- Cores whose lower-class teams were asked to leave for a waiting slice, kept for it: the slice by context, job and cluster index (linear index without a cluster), and its class (05 R106). -/
structure Claim where
  ctx : Nat
  job : Nat
  unit : Nat
  cls : Nat
  cores : List CoreId
  deriving DecidableEq, Repr

/-- Where a command's completion goes (20 Table 20.2). -/
inductive Target where
  | none
  | bar (l : Loc)
  | fill (m : MemLoc)
  | countdown (m : MemLoc)
  deriving DecidableEq, Repr

/-- What happens to the bytes of a piece at its destination. -/
inductive PieceOut where
  /-- Out of bounds, or of a target that takes no data: counted and not written. -/
  | skip
  | write (l : Loc)
  | nibble (l : Loc) (high : Bool)
  /-- Combined at the home under 08 Table 8.4: element type and operation. -/
  | combine (l : Loc) (ftype op : Nat)
  /-- A peer write to a device of the grid, at a virtual address (20 R419). -/
  | peer (coord va : Nat)
  /-- A pair of 4-bit elements toward a device of the grid: both, or the first alone. -/
  | peerPair (coord va : Nat) (both : Bool)
  deriving DecidableEq, Repr

/-- A piece of a command's data: its source, known once read, its destination, the bytes it lands. -/
structure Chunk where
  src : List Piece
  /-- Places among its bytes whose memory word was poisoned when it was read (08 R184). -/
  poison : List Nat
  out : PieceOut
  lands : Nat
  /-- The remote transaction that carries it, until it is answered. -/
  sent : Bool
  deriving DecidableEq, Repr

/-- A part of a command whose sources are read together: a whole TCOPY, one link of a CHAIN. -/
structure Stage where
  chunks : List Chunk
  read : Bool
  deriving DecidableEq, Repr

/-- A candidate of a top-k list: distance code and id (10 R216). -/
structure Pair where
  dist : Nat
  id : Nat
  deriving DecidableEq, Repr

/-- The part of a scan on one stack: queued, running, paused (10 R214, R218), its list being written (R220). -/
inductive ScanPhase where
  | queued
  | running
  | paused
  | writing
  | done
  deriving DecidableEq, Repr

structure ScanPart where
  stack : Nat
  rank : Nat
  phase : ScanPhase
  /-- What is still to be written of its list: scratchpad offsets and bytes, each inside one aligned 32-byte sector. -/
  out : List (Nat × List Byte)
  deriving DecidableEq, Repr

/-- The structure a walk follows, with its operands (10 Table 10.3). -/
inductive WalkKind where
  | list (key ko no limit : Nat)
  | hash (base key b slot i : Nat)
  | kv (base p b t levels : Nat) (second : Bool)
  deriving DecidableEq, Repr

/-- What an engine command is. -/
inductive CmdKind where
  /-- TCOPY, CHAIN, SRCH.drain: stages in order. -/
  | copy
  /-- A scan: the descriptor's bits and place, query bytes (none when a sector was poisoned), k, where the lists go, snapshot once taken, parts. -/
  | scan (desc : Nat) (at_ : MemLoc) (query : Option (List Byte)) (k : Nat) (res : Loc) (snapshot : Option Nat) (parts : List ScanPart)
  /-- A walk at an address, after some steps; its result offset. -/
  | walk (k : WalkKind) (at_ : Nat) (steps : Nat) (res : Loc)
  /-- PLACE.convert of a tensor. -/
  | convert (tid : Nat)
  /-- A message of a channel: channel, forward direction, lane, number, slot barrier, receiver. -/
  | chan (ch : Nat) (forward : Bool) (lane n : Nat) (slotBar : Loc) (peer : Nat)
  /-- A request at a work distributor: its number and the answer's place. -/
  | wdq (q : Nat) (dst : Loc)
  deriving DecidableEq, Repr

/-- An issued engine command that has not completed (20 R418). -/
structure Cmd where
  id : Nat
  grp : Nat
  who : FibreRef
  ctx : Nat
  die : Nat
  core : Option CoreId
  pc : Nat
  /-- Engine code of 14 Table 14.2. -/
  engine : Nat
  kind : CmdKind
  target : Target
  total : Nat
  landed : Nat
  stages : List Stage
  /-- The first fault it met: cause, detail, address. -/
  fault : Option (Nat × Nat × Nat)
  /-- Its completion is due and waits (kinds 2 and 3, faults). -/
  ended : Bool
  /-- Pages taken from a scan by a shoot-down, as `ShootDown.removed` lists them (04 R99). -/
  lost : List (Nat × Nat × Nat)
  deriving DecidableEq, Repr

/-- An issued and unfinished MMA (19 R404, R406). -/
structure MmaOp where
  id : Nat
  core : CoreId
  die : Nat
  team : Nat
  pc : Nat
  tile : Nat
  acc : Bool
  sat : Bool
  /-- 0 dense, 1 sparse, 2 o4. -/
  kind : Nat
  /-- Kept elements of a 64-group. -/
  n : Nat
  depth : Nat
  entryA : Nat
  entryB : Nat
  ra : Nat
  rb : Nat
  /-- The masks of the sparse kind, by 96 × group + column. -/
  masks : List Nat
  signers : List Nat
  /-- The aclk of its issue. -/
  at_ : Nat
  deriving DecidableEq, Repr

/-- Who waits at a tensor's entry for a placement (11 R239, R240). -/
inductive Asker where
  | tld (r : FibreRef)
  | convert (cmd : Nat)
  | seal (r : FibreRef)
  | unseal (r : FibreRef)
  /-- A SEAL node: instance and node (05 R120). -/
  | node (inst node : Nat)
  deriving DecidableEq, Repr

/-- A waiting demand, seal or unseal with the start of its timer, in resident aclk of its team, or in aclk for a node. -/
structure Demand where
  who : Asker
  ctx : Nat
  tid : Nat
  demand : Nat
  since : Nat
  /-- The entry's controller has found the demand met (11 R239). -/
  granted : Bool
  deriving DecidableEq, Repr

/-- What came for a step of a conversion on an axis: the coordinate it came from, and bytes by virtual address. -/
structure ConvInput where
  axis : Nat
  coord : Nat
  cells : List Host.Cell
  deriving DecidableEq, Repr

/-- A conversion under way (11 R235 to R241): the demand, the axis it works on, whether that step's own data has been sent, and the inputs kept, in memory that no context maps. -/
structure ConvRun where
  ctx : Nat
  tid : Nat
  demand : Nat
  axis : Nat
  sent : Bool
  inputs : List ConvInput
  /-- Parts of collectives' results that it has taken, with their rounds (02 R57). -/
  parts : List Nat
  /-- aclk at which the present step began. -/
  since : Nat
  deriving DecidableEq, Repr

/-- A report of a failed job or refused instance that waits for its release at system scope (03 R83): the fault word's context and address, its value, whether event code 3 follows, and what was under way in the context when it was made: collapses (line and die), remote writes, REDF operations. -/
structure Report where
  ctx : Nat
  va : Nat
  word : Dword
  event : Bool
  lines : List (Nat × Nat)
  ops : List Nat
  redfs : List PendingRedf
  deriving DecidableEq, Repr

/-- A seal that has started and is not complete (11 R238). -/
structure Sealing where
  ctx : Nat
  tid : Nat
  member : Nat
  who : Option FibreRef
  /-- Instance and node of a SEAL node. -/
  node : Option (Nat × Nat)
  deriving DecidableEq, Repr

/-- A fibre that waits for a permit at a CHAN.send, from a resident time on (12 R250). -/
structure PermitWait where
  who : FibreRef
  ctx : Nat
  chan : Nat
  pc : Nat
  since : Nat
  /-- The resident time at which every permit it needs had come back, once they have. -/
  until_ : Option Nat
  deriving DecidableEq, Repr

/-! ### Device-issued remote transactions -/

/-- What a host-class or peer-class operation does at the remote side (03 R81, 02 R42). -/
inductive RemoteKind where
  | read (bytes : Nat)
  | write (bytes : List (Option Byte))
  /-- ATOM with return and CAS: fn of 17 Table 17.2, 10 for compare-and-swap with its compare value. -/
  | atomic (f : Nat) (v cmp : Dword)
  deriving DecidableEq, Repr

/-- Who waits for its answer. -/
inductive RemoteWho where
  /-- The long-latency instruction of a fibre with this place in program order; byte offset of this part of it. -/
  | load (r : FibreRef) (seq part : Nat)
  | store (r : FibreRef) (pc : Nat)
  | engine (cmd part : Nat)
  /-- A gather write of a conversion: context and tensor (11 R235). -/
  | conv (ctx tid : Nat)
  /-- An instruction word of a fibre (04 R94). -/
  | fetch (r : FibreRef)
  | device
  deriving DecidableEq, Repr

/-- A transaction sent and not answered; the answer's bytes once it has come. -/
structure RemoteOp where
  id : Nat
  host : Bool
  /-- The grid coordinate of a transaction sent to a device by name; `off` is then a virtual address. -/
  coord : Option Nat
  ctx : Nat
  /-- The window as its entry stood at the issue (04 R92). -/
  window : Option Window
  off : Nat
  kind : RemoteKind
  who : RemoteWho
  answer : Option (List Byte)
  failed : Bool
  since : Nat
  /-- Sends so far; 0 before the first. -/
  tries : Nat
  /-- The Pyryta port that carries it, once one is chosen (02 R48); its transaction tag is `id` (R42). -/
  port : Option Nat
  /-- Status of a failed peer transaction (02 Table 2.4); 255 is "link down". -/
  status : Nat
  /-- RNR NAKs it has met (03 R63). -/
  rnrs : Nat
  deriving DecidableEq, Repr

/-- An event message waiting to be sent (03 R61): number, code and further words. -/
structure EventMsg where
  num : Nat
  code : Nat
  ctx : Nat
  lost : Nat
  time : Nat
  word : Dword
  deriving DecidableEq, Repr

/-! ### Pyryta links and collectives (chapter 02) -/

/-- A flit that the device is to send (02 Tables 2.2 and 2.3); `seq` and `ack` are set, and its CRCs formed, when it is sent. -/
structure Flit where
  kind : Nat
  tc : Nat
  first : Bool
  last : Bool
  seq : Nat
  ack : Nat
  /-- Grid coordinates of destination and source, 48 bits each. -/
  dst : Nat
  src : Nat
  payload : List Byte
  /-- The context of its transaction, for the choice of a port (02 R48). -/
  ctx : Nat
  /-- The device-issued transaction it belongs to. -/
  txn : Option Nat
  deriving DecidableEq, Repr

/-- States of a port as sys.link_state codes them (02 Table 2.6). -/
inductive PortState where
  | down
  | retrain
  | up
  | replay
  deriving DecidableEq, Repr

/-- A Pyryta port (02 R44, R45, R55). -/
structure Port where
  idx : Nat
  state : PortState
  /-- Lowest and highest destination coordinates the port map lets it reach (03 Table 3.12). -/
  reach : Option (Nat × Nat)
  /-- Flits that wait to be sent. -/
  queue : List Flit
  /-- The replay buffer, oldest first, and how many of it are to be resent. -/
  buffer : List Flit
  resend : Nat
  seq : Nat
  replays : Nat
  fails : Nat
  /-- aclk of the last ack_seq progress. -/
  progress : Nat
  /-- Credits held, and the totals last received, by class. -/
  credits : List Nat
  credited : List Nat
  /-- Receiver: next sequence number, NAK outstanding, buffers freed, flits received since ack_seq was last sent and when that was. -/
  expected : Nat
  nakOut : Bool
  freed : List Nat
  unacked : Nat
  ackAt : Nat
  /-- Delivered flits of transactions whose last flit is still to come. -/
  parts : List WireFlit
  /-- The 256 bytes of the last flit sent (the model's own). -/
  out : List Byte
  deriving DecidableEq, Repr

/-- A peer request that waits for an engine command to release a line (08 R182): its kind, its first flit, its bytes. -/
structure PeerRequest where
  kind : Nat
  first : WireFlit
  bytes : List Byte
  deriving DecidableEq, Repr

/-- A contribution that this device sends (02 R49, R51). -/
structure Contribution where
  coll : Nat
  round : Nat
  contrib : Nat
  ncontrib : Nat
  op : Nat
  fmt : Nat
  offset : Nat
  /-- Element codes. -/
  elems : List Nat
  ctx : Nat
  tid : Nat
  dst : Nat
  /-- Its last send waits for an acknowledgement, since `since`; a resend is due at `since` otherwise. -/
  inFlight : Bool
  since : Nat
  sends : Nat
  deriving DecidableEq, Repr

/-- A collective this device has opened at a reducer (02 R57). -/
structure Opened where
  coll : Nat
  contrib : Nat
  ctx : Nat
  tid : Nat
  dst : Nat
  record : List Byte
  acked : Bool
  closing : Bool
  /-- Its last send waits for an answer, since `since`. -/
  inFlight : Bool
  since : Nat
  sends : Nat
  deriving DecidableEq, Repr

/-- A result destination of a collective (02 Table 2.12). -/
structure CollDest where
  contrib : Nat
  coord : Nat
  ctx : Nat
  range : Nat
  off : Nat
  count : Nat
  word : Nat
  wordKind : Nat
  deriving DecidableEq, Repr

/-- A chunk a reducer holds: what each contributor sent, and the result once delivered (02 R50). -/
structure CollChunk where
  round : Nat
  offset : Nat
  count : Nat
  parts : List (Nat × List Nat)
  result : Option (List Nat)
  deriving DecidableEq, Repr

/-- A collective whose state lives in this device's reducer (02 R50, R57). -/
structure Coll where
  id : Nat
  ncontrib : Nat
  op : Nat
  fmt : Nat
  tc : Nat
  count : Nat
  k : Nat
  dests : List CollDest
  closed : List Nat
  /-- The oldest round that is not complete; none before the first contribution. -/
  n : Option Nat
  chunks : List CollChunk
  /-- aclk of the last open, contribution or close. -/
  last : Nat
  deriving DecidableEq, Repr

/-! ### Oseus, the module's flash and the host port (chapters 01 to 03) -/

/-- A firmware bank of the module flash (01 R18). -/
structure Bank where
  image : List Byte
  valid : Bool
  deriving DecidableEq, Repr

/-- A firmware load under way (03 R67). -/
structure BankLoad where
  bank : Nat
  total : Nat
  data : List Byte
  deriving DecidableEq, Repr

/-- A copy of the lifetime counters in flash (01 R32); `whole` says that its CRC fits. -/
structure LifeCopy where
  seq : Nat
  counters : List (Nat × Nat)
  /-- Milliseconds short of a second (01 R31). -/
  carry : List (Nat × Nat)
  whole : Bool
  deriving DecidableEq, Repr

/-- An operation that has arrived on a host queue pair (02 Table 2.1): R_Key, address and operands. -/
inductive HostOp where
  | write (key va : Nat) (bytes : List Byte)
  | read (key va len : Nat)
  | fetchAdd (key va : Nat) (v : Dword)
  | compareSwap (key va : Nat) (cmp swap : Dword)
  /-- A request for an operation that the port does not implement. -/
  | invalid
  deriving DecidableEq, Repr

/-- A tag that an operation of a queue pair sets FULL once the collapses of the pair's earlier writes are complete (03 R80). -/
structure QpFill where
  qp : Nat
  ctx : Nat
  m : MemLoc
  deriving DecidableEq, Repr

/-- A host queue pair (03 Table 3.10, 02 R37): its context (64 once that is destroyed, log entry 52), its fields, its send rate in Mb/s, and the operations that have arrived and wait behind one that is not performed (02 R38). -/
structure Qp where
  idx : Nat
  ctx : Nat
  key : Nat
  remoteQpn : Nat
  mtu : Nat
  prio : Nat
  retry : Nat
  ackTimeout : Nat
  rnrRetry : Nat
  sqPsn : Nat
  rqPsn : Nat
  gid : Nat
  error : Bool
  rate : Nat
  pending : List HostOp
  deriving DecidableEq, Repr

/-- Parameters of the host port (03 Table 3.14), and which of the two flow-control priorities are paused (02 R34). -/
structure HostPort where
  up : Bool
  mac : Nat
  gid : Nat
  /-- Stored values that take effect at the next module reset; 0 is none. -/
  nextMac : Nat
  nextGid : Nat
  prioA : Nat
  prioB : Nat
  dscp : Nat
  cut : Nat
  periodUs : Nat
  stepMbps : Nat
  minMbps : Nat
  /-- The aclk at which the last rate-increase period ended. -/
  rateAt : Nat
  paused : List Nat
  deriving DecidableEq, Repr

/-- A load-image message that waits for its context's teams (03 R76). -/
structure ImageLoad where
  req : Nat
  ctx : Nat
  dst : Nat
  src : Nat
  flash : Bool
  len : Nat
  store : Option Nat
  /-- Index and digest of the image once it is copied; the reply waits for the collapses of the copy. -/
  copied : Option (Nat × List Byte)
  deriving DecidableEq, Repr

/-- Kinds of NAK (02 R36, 03 R73). -/
inductive Nak where
  | invalidRequest
  | remoteAccess
  | remoteOperational
  /-- Receiver not ready: all receive buffers of queue pair 1 are full (02 Table 2.1). -/
  | receiverNotReady
  deriving DecidableEq, Repr

/-- What the device sends on the host port. -/
inductive HostOut where
  /-- A reply or an event on queue pair 1: header and body (03 Table 3.1). -/
  | message (bytes : List Byte)
  /-- The device's own READ, WRITE and ATOMIC at a host address, with the R_Key presented (03 R81). -/
  | read (qp addr rkey len : Nat)
  | write (qp addr rkey : Nat) (bytes : List (Option Byte))
  | atomic (qp addr rkey f : Nat) (v cmp : Dword)
  | ack (qp : Nat)
  | readResponse (qp : Nat) (bytes : List Byte)
  | atomicResponse (qp : Nat) (old : Dword)
  | nak (qp : Nat) (k : Nak)
  /-- A congestion notification to the sender of a marked packet (02 R34). -/
  | congestion (qp : Nat)
  | connected
  deriving DecidableEq, Repr

/-- Oseus: boot, flash, records, thermal guard, host port and queue pairs, physical memory in use. -/
structure Oseus where
  powered : Bool
  recovery : Bool
  /-- Held in reset after a stop at 110 °C, until a reset message (01 R27). -/
  held : Bool
  /-- The module status light shows the fault that halted boot (01 Table 1.6). -/
  light : Bool
  banks : List Bank
  preferred : Nat
  fusedMin : Nat
  /-- Measurements of boot step 4: bank, digest, security version. -/
  booted : Option Nat
  digest : List Byte
  security : Nat
  loading : Option BankLoad
  /-- Images stored in flash slots (03 R76). -/
  flash : List (Nat × List Byte)
  copies : List LifeCopy
  lifeAt : Nat
  /-- Milliseconds that do not yet make a second, by entry × 65,536 + bin (01 R31). -/
  carry : List (Nat × Nat)
  sampleAt : Nat
  /-- Quadrants that issued, counted by aclk, since the last sample (01 R31). -/
  issued : Nat
  guardAt : Nat
  pollAt : Nat
  /-- Gap ratios other than 0 (01 R25). -/
  gaps : List (CoreId × Nat)
  /-- Supply temperature in °C and flow in 0.1 L/min, as last read (01 R24). -/
  coolant : Nat × Nat
  /-- The aclk at which a module reset is due (03 R85). -/
  resetAt : Option Nat
  host : HostPort
  /-- The management queue pair is connected (02 R35). -/
  mgmt : Bool
  /-- Messages in the receive buffers of queue pair 1, oldest first (02 Table 2.1, 03 R59). -/
  inbox : List Message
  qps : List Qp
  fills : List QpFill
  /-- Packets of queue pairs that wait for their priority to resume, oldest first (02 R34). -/
  waiting : List (Nat × HostOut)
  image : Option ImageLoad
  /-- 64 KiB frames in use: first frame, count. -/
  used : List (Nat × Nat)
  /-- The last message or packet sent on the host port (the model's own). -/
  out : Option HostOut
  deriving DecidableEq, Repr

/-! ### The whole machine -/

/-- Why a step has no next state although the table gives it a meaning. -/
inductive Fault where
  /-- Raised by an instruction form when `State.cur` names no fibre: no instruction executes without one (07 R145). Safe: the model stops. -/
  | noFibre
  deriving DecidableEq, Repr

/-- Why a step is refused. -/
inductive Refusal where
  /-- Raised by an arm of `exec` that has no meaning yet. Safe: the model stops. -/
  | notModelled (mnemonic : String)
  deriving DecidableEq, Repr

/-- The whole machine. -/
structure State where
  /-- The fibre that acts, for the instruction forms (the model's own, log entry 1). -/
  cur : Option FibreRef
  /-- What moves next, first to last (the model's own, log entry 1). -/
  agenda : List Turn
  /-- Steps taken: the argument of the free values (the model's own, log entry 2). -/
  tick : Nat
  /-- The next unused number for teams, commands, tickets and instances (the model's own, log entry 2). -/
  nextId : Nat
  /-- aclk since module reset (00 R5). -/
  aclk : Nat
  /-- Issue quadrants that have issued, and those that have done so in the present issue cycle (07 R150). -/
  quads : List Quad
  acted : List QuadId
  teams : List Team
  mem : Memory
  coh : Coherence
  bars : List Bar
  /-- Lines that engine commands own: line and command (08 R182). -/
  owned : List (Nat × Nat)
  cmds : List Cmd
  mmas : List MmaOp
  demands : List Demand
  convs : List ConvRun
  sealing : List Sealing
  permitWaits : List PermitWait
  reports : List Report
  shoot : Option ShootDown
  ctxs : List Context
  insts : List Inst
  /-- Graph starts whose start word has been taken: context, graph handle, fill time (05 R114, R119). -/
  starts : List (Nat × Nat × Nat)
  claims : List Claim
  /-- Occupied near-core slots (10 R222), and the fibres in escape buffers in order of arrival (10 R227). -/
  near : List NearSlot
  arrivals : List FibreRef
  /-- Refreshes that the stacks owe, by stack; 0 where not listed (10 R218). -/
  scanOwed : List (Nat × Nat)
  sealedRanges : List SealedRange
  remote : List RemoteOp
  /-- Unsent events, the count of lost ones, the next event number (03 R61). -/
  events : List EventMsg
  eventsLost : Nat
  eventSeq : Nat
  /-- Lifetime counters as Oseus accumulates them (01 Table 1.7), by entry × 65,536 + instance. -/
  life : List (Nat × Nat)
  /-- sys.thermal_state, sys.die_status, sys.boot_status, sys.grid_coord and sys.link_discard (16 Table 16.4). -/
  thermal : Dword
  dieStatus : Dword
  bootDone : Bool
  grid : Dword
  linkDiscard : Nat
  /-- Pyryta ports, and the reducer that each mesh uses (02, 03 R64). -/
  ports : List Port
  reducers : List (Nat × Nat)
  /-- Peer requests that wait, oldest first. -/
  peerWaits : List PeerRequest
  contribs : List Contribution
  opened : List Opened
  colls : List Coll
  os : Oseus
  deriving DecidableEq, Repr

/-- Empty memory: every byte 0, every tag EMPTY, no poison (03 R72, 01 R28; log entry 3). -/
def Memory.reset : Memory where
  cells := []
  full := []
  poison := []

/-- No copy, no directory entry, nothing under way (08 R174). -/
def Coherence.reset : Coherence where
  l1 := []
  regn := []
  cuttings := []
  slices := []
  regions := []
  probes := []
  fills := []
  redfs := []
  waiters := []
  retainedGroups := []
  refreshing := []
  retainedWays := []
  windowEnd := 0

/-- A port that is down, with nothing in flight (02 R44). -/
def Port.reset (i : Nat) : Port where
  idx := i
  state := .down
  reach := none
  queue := []
  buffer := []
  resend := 0
  seq := 0
  replays := 0
  fails := 0
  progress := 0
  credits := [32, 32, 32, 32]
  credited := [0, 0, 0, 0]
  expected := 0
  nakOut := false
  freed := [0, 0, 0, 0]
  unacked := 0
  ackAt := 0
  parts := []
  out := []

/-- The host port with no stored parameters (03 R65). -/
def HostPort.reset : HostPort where
  up := false
  mac := 0
  gid := 0
  nextMac := 0
  nextGid := 0
  prioA := 0
  prioB := 1
  dscp := 0
  cut := 0
  periodUs := 1
  stepMbps := 0
  minMbps := 0
  rateAt := 0
  paused := []

/-- Oseus with empty flash; bank A preferred, as at manufacture (01 R28). -/
def Oseus.reset : Oseus where
  powered := false
  recovery := false
  held := false
  light := false
  banks := [⟨[], true⟩, ⟨[], true⟩]
  preferred := 0
  fusedMin := 0
  booted := none
  digest := []
  security := 0
  loading := none
  flash := []
  copies := []
  lifeAt := 0
  carry := []
  sampleAt := 0
  issued := 0
  guardAt := 0
  pollAt := 0
  gaps := []
  coolant := (0, 0)
  resetAt := none
  host := HostPort.reset
  mgmt := false
  inbox := []
  qps := []
  fills := []
  waiting := []
  image := none
  used := []
  out := none

/-- The machine right after module reset, before its boot steps (01 R28). -/
def State.reset : State where
  cur := none
  agenda := []
  tick := 0
  nextId := 1
  aclk := 0
  quads := []
  acted := []
  teams := []
  mem := Memory.reset
  coh := Coherence.reset
  bars := []
  owned := []
  cmds := []
  mmas := []
  demands := []
  convs := []
  sealing := []
  permitWaits := []
  reports := []
  shoot := none
  ctxs := []
  insts := []
  starts := []
  claims := []
  near := []
  arrivals := []
  scanOwed := []
  sealedRanges := []
  remote := []
  events := []
  eventsLost := 0
  eventSeq := 0
  life := []
  thermal := 0
  dieStatus := 0
  bootDone := false
  grid := 0
  linkDiscard := 0
  ports := (List.range 16).map Port.reset
  reducers := []
  peerWaits := []
  contribs := []
  opened := []
  colls := []
  os := Oseus.reset

end Sys2Proof.Machine
end

