-- ==== Sys2Proof/Machine/Base.lean ====
section
/-! DEFINITION. Plain access to the state: sparse maps in canonical form, sets of numbers, byte strings, and the lookups and updates of contexts, teams and fibres. -/

namespace Sys2Proof.Machine

/-! ### Sparse maps: keys strictly rising, no entry equal to what an unlisted key reads as -/

/-- The value at a key; an unlisted key reads as `z`. -/
def sparseGet {α : Type} (z : α) : List (Nat × α) → Nat → α
  | [], _ => z
  | (b, v) :: m, a => if a = b then v else sparseGet z m a

/-- Put a value at a key, keeping the canonical form. -/
def sparsePut {α : Type} [DecidableEq α] (z : α) : List (Nat × α) → Nat → α → List (Nat × α)
  | [], a, v => if v = z then [] else [(a, v)]
  | (b, w) :: m, a, v =>
    if a < b then (if v = z then (b, w) :: m else (a, v) :: (b, w) :: m)
    else if a = b then (if v = z then m else (b, v) :: m)
    else (b, w) :: sparsePut z m a v

/-- Every key of the map is above `a`. -/
def keysAbove {α : Type} (a : Nat) : List (Nat × α) → Bool
  | [] => true
  | (b, _) :: _ => decide (a < b)

/-- The canonical form of a sparse map. -/
def sparseWf {α : Type} [DecidableEq α] (z : α) : List (Nat × α) → Bool
  | [] => true
  | (a, v) :: m => decide (v ≠ z) && keysAbove a m && sparseWf z m

/-! ### Sets of numbers, strictly rising -/

def setInsert : List Nat → Nat → List Nat
  | [], a => [a]
  | b :: m, a => if a < b then a :: b :: m else if a = b then b :: m else b :: setInsert m a

def setErase : List Nat → Nat → List Nat
  | [], _ => []
  | b :: m, a => if a = b then m else b :: setErase m a

/-- Put `a` in the set or take it out. -/
def setPut (m : List Nat) (a : Nat) (inside : Bool) : List Nat :=
  if inside then setInsert m a else setErase m a

def setAbove (a : Nat) : List Nat → Bool
  | [] => true
  | b :: _ => decide (a < b)

/-- The canonical form of a set of numbers. -/
def setWf : List Nat → Bool
  | [] => true
  | a :: m => setAbove a m && setWf m

/-- The canonical form of physical memory. -/
def Memory.wf (m : Memory) : Bool := sparseWf 0 m.cells && setWf m.full && setWf m.poison

/-! ### Byte strings (00 R2: the lowest address holds bits [7:0]) -/

/-- The number of a little-endian byte string. -/
def natOfBytes : List Byte → Nat
  | [] => 0
  | b :: bs => b.toNat + 2 ^ 8 * natOfBytes bs

/-- `n` bytes of a sparse byte map from address `a` up. -/
def sparseBytes (m : List Host.Cell) (a : Nat) : Nat → List Byte
  | 0 => []
  | n + 1 => sparseGet 0 m a :: sparseBytes m (a + 1) n

/-- Write a byte string from address `a` up; a hole leaves its byte. -/
def sparseWrite (m : List Host.Cell) (a : Nat) : List (Option Byte) → List Host.Cell
  | [] => m
  | none :: bs => sparseWrite m (a + 1) bs
  | some b :: bs => sparseWrite (sparsePut 0 m a b) (a + 1) bs

/-- The dword at a byte address of a sparse byte map. -/
def sparseDword (m : List Host.Cell) (a : Nat) : Dword := BitVec.ofNat 64 (natOfBytes (sparseBytes m a 8))

/-- The low `n` bytes of a dword. -/
def bytesOf (v : Dword) (n : Nat) : List Byte := bytesOfNat n v.toNat

/-! ### Signed reading and sign extension (15 Table 15.10) -/

/-- ImmS of a number of `n` bits. -/
def signedOf (n v : Nat) : Int := if v < 2 ^ (n - 1) then v else (v : Int) - 2 ^ n

/-- Wrap(v, n) of an integer, as a number (13 R263). -/
def wrapNat (n : Nat) (v : Int) : Nat := (v % 2 ^ n).toNat

/-- Wrap(v, 64) as a dword. -/
def wrap64 (v : Int) : Dword := BitVec.ofInt 64 v

def State.updOs (s : State) (f : Oseus → Oseus) : State := { s with os := f s.os }

/-! ### Contexts -/

def State.ctx? (s : State) (c : Nat) : Option Context := s.ctxs.find? (fun x => x.id == c)

def State.updCtx (s : State) (c : Nat) (f : Context → Context) : State :=
  { s with ctxs := s.ctxs.map (fun x => if x.id == c then f x else x) }

/-- Add to a per-context counter, saturating at 2^64 - 1 (14 R287). -/
def State.count (s : State) (c entry n : Nat) : State :=
  s.updCtx c (fun x => { x with
    counters := sparsePut 0 x.counters entry (min (sparseGet 0 x.counters entry + n) (2 ^ 64 - 1)) })

/-- The collectives that some opens name are to be closed (02 R57 item 5). -/
def State.closeCollectives (s : State) (gone : Opened → Bool) : State :=
  { s with opened := s.opened.map (fun (o : Opened) =>
      if gone o && !o.closing then { o with closing := true, inFlight := false, since := s.aclk, sends := 0 } else o) }

/-! ### Teams and fibres -/

def State.team? (s : State) (t : Nat) : Option Team := s.teams.find? (fun x => x.id == t)

def State.updTeam (s : State) (t : Nat) (f : Team → Team) : State :=
  { s with teams := s.teams.map (fun x => if x.id == t then f x else x) }

def Team.fibre? (t : Team) (i : Nat) : Option Fibre := t.fibres.find? (fun x => x.idx == i)

def Team.updFibre (t : Team) (i : Nat) (f : Fibre → Fibre) : Team :=
  { t with fibres := t.fibres.map (fun x => if x.idx == i then f x else x) }

def State.fibre? (s : State) (r : FibreRef) : Option Fibre :=
  match s.team? r.team with
  | some t => t.fibre? r.fibre
  | none => none

def State.updFibre (s : State) (r : FibreRef) (f : Fibre → Fibre) : State :=
  s.updTeam r.team (fun t => t.updFibre r.fibre f)

/-- The window size of a team in registers: 16 × (window + 1) (07 R146). -/
def Kernel.windowRegs (k : Kernel) : Nat := 16 * (k.window + 1)

/-- Live: neither ended nor waiting to be created (16 R334); a fibre in a bin or the reorder unit is live (06 R131). -/
def Fibre.live (f : Fibre) : Bool := f.status != .notLive

/-- The fibre is in a bin or in the reorder unit. -/
def Fibre.parked (f : Fibre) : Bool := f.status == .inBin || f.status == .inReorder

/-- The team is on a core and may issue (06 Table 6.2). -/
def Team.resident (t : Team) : Bool := t.state == .running || t.state == .preemptPending

/-- Resident aclk of a team (06 R136). -/
def Team.residentTime (t : Team) (aclk : Nat) : Nat :=
  match t.resSince with
  | some b => t.resAcc + (aclk - b)
  | none => t.resAcc

/-- The die a team's core lies on. -/
def Team.die (t : Team) : Nat := match t.core with | some c => c.die | none => 0

/-- Bytes cut or filled with zeros to a length. -/
def padTo (n : Nat) (bs : List Byte) : List Byte := (bs ++ List.replicate n 0).take n

/-- Row of a fibre (07 R148). -/
def rowOf (fibre : Nat) : Nat := fibre / 32

def Fibre.reg (f : Fibre) (n : Nat) : Dword := f.regs.getD n 0

/-- SetReg (15 Table 15.10). -/
def Fibre.setReg (f : Fibre) (n : Nat) (v : Dword) : Fibre := { f with regs := f.regs.set n v, spoilt := setErase f.spoilt n }

/-- Pred(i); p0 reads 1 (07 Table 7.1). -/
def Fibre.predBit (f : Fibre) (i : Nat) : Bool := i == 0 || f.pred.getLsbD i

/-- Write predicate `i`; a write to p0 is ignored. -/
def Fibre.setPred (f : Fibre) (i : Nat) (v : Bool) : Fibre :=
  if i = 0 then f
  else { f with pred := if v then f.pred ||| BitVec.twoPow 32 i else f.pred &&& ~~~ BitVec.twoPow 32 i }

/-- The predicate word with p0 held at 1. -/
def predWord (v : BitVec 32) : BitVec 32 := v ||| 1

/-- CountUp and CountDown of a completion counter (15 R295). -/
def Fibre.countUp (f : Fibre) (c : Option Nat) : Fibre :=
  match c with
  | some k => { f with cf := f.cf.set k (f.cf.getD k 0 + 1) }
  | none => f

def Fibre.countDown (f : Fibre) (c : Option Nat) : Fibre :=
  match c with
  | some k => { f with cf := f.cf.set k (f.cf.getD k 0 - 1) }
  | none => f

/-- Every completion counter is 0. -/
def Fibre.cfZero (f : Fibre) : Bool := f.cf.all (fun c => c == 0)

/-- s(f) of 06 Table 6.1: the seed of a fibre index in a team. -/
def seedOf (linear fibre : Nat) : BitVec 32 :=
  let v := (linear % 2 ^ 21 * 2 ^ 11 + fibre + 1) % 2 ^ 32
  BitVec.ofNat 32 (if v = 0 then 1 else v)

/-- The stack a fibre on a near core or a service slot belongs to (14 Table 14.2, fields near and stack). -/
def Fibre.stack? (f : Fibre) : Option Nat :=
  match f.away with
  | some (.near k _ _) => some k
  | some (.service k _ _) => some k
  | _ => none

/-- The die a fibre's accesses come from: its team's die; on a near core or a service slot its stack's M-die (09 Table 9.2, 10 R224). -/
def dieOf (t : Team) (f : Fibre) : Nat :=
  match f.stack? with
  | some k => 4 + k / 2
  | none => t.die

/-- The full core whose L1 a fibre uses: none for a fibre away from its core (08 R166). -/
def coreOf (t : Team) (f : Fibre) : Option CoreId :=
  match f.stack? with
  | some _ => none
  | none => t.core

/-! ### Clauses (15 Table 15.1) -/

def hdrCount (h : Word32) : Nat := bitsOf h.toNat 0 4
def hdrClass (h : Word32) : Nat := bitsOf h.toNat 4 3
def hdrWait (h : Word32) : Nat := bitsOf h.toNat 7 12
def hdrSetA (h : Word32) : Nat := bitsOf h.toNat 19 4
def hdrSetB (h : Word32) : Nat := bitsOf h.toNat 23 4
def hdrAtomic (h : Word32) : Bool := bitsOf h.toNat 27 1 == 1
def hdrMarker (h : Word32) : Nat := bitsOf h.toNat 28 4

/-- Address after the clause: the next clause header (15 R288). -/
def Clause.after (c : Clause) : Nat := c.head + 4 * (hdrCount c.hdr + 1)

/-- Counter of the next long-latency instruction of the clause (15 R296); 15 names none. -/
def Clause.counter (c : Clause) : Option Nat :=
  let k := if c.nll = 0 then hdrSetA c.hdr else hdrSetB c.hdr
  if k < 12 then some k else none

/-- The counter that governs the fibre's next long-latency instruction. -/
def Fibre.counter (f : Fibre) : Option Nat :=
  match f.clause with
  | some c => c.counter
  | none => none

/-- The header address of the clause a fibre stands in, for branch targets (15 R301). -/
def Fibre.clauseHead (f : Fibre) : Nat :=
  match f.clause with
  | some c => c.head
  | none => f.pc.toNat

/-- The header that follows the clause a fibre stands in. -/
def Fibre.clauseAfter (f : Fibre) : Nat :=
  match f.clause with
  | some c => c.after
  | none => f.pc.toNat

/-- The clause position after one instruction: one span instruction consumed, one long-latency position counted. -/
def Clause.past (c : Clause) (long : Bool) : Clause :=
  { c with
    nll := if long then c.nll + 1 else c.nll
    span := c.span - 1
    pfx := if c.span ≤ 1 then none else c.pfx }

/-- Pass an instruction of `len` words: the pc moves on, and past the clause's last word the fibre stands at the next header (15 R291). -/
def Fibre.pass (f : Fibre) (len : Nat) (long : Bool) (aclk : Nat) : Fibre :=
  let pc := f.pc.toNat + 4 * len
  { f with
    pc := BitVec.ofNat 52 pc
    clause := f.clause.bind (fun c => if c.after ≤ pc then none else some (c.past long))
    since := aclk }

/-- Leave the clause for a clause header (15 R293). -/
def Fibre.goto (f : Fibre) (target : Nat) (aclk : Nat) : Fibre :=
  { f with pc := BitVec.ofNat 52 target, clause := none, since := aclk }

/-- skip_pc of an instruction: the next instruction word, or the next clause header after a clause's last word; they have the same address (14 Table 14.4). -/
def skipOf (f : Fibre) (len : Nat) : Nat := f.pc.toNat + 4 * len

/-! ### Time -/

/-- sys.time: nanoseconds since module reset, at 3.6 aclk a nanosecond (00 R5, 16 Table 16.4). -/
def nsOf (aclk : Nat) : Nat := aclk * 10 / 36 % 2 ^ 64

/-- fclk since module reset: 2.4 GHz beside 3.6 GHz (00 Table 0.2). -/
def fclkOf (aclk : Nat) : Nat := aclk * 2 / 3

def State.now (s : State) : Nat := nsOf s.aclk

/-- A fresh number for teams, commands and tickets. -/
def State.fresh (s : State) : Nat × State := (s.nextId, { s with nextId := s.nextId + 1 })

/-- A choice the spec leaves to the device, as a bit (log entry 2). -/
def State.freeBit (s : State) (k : Nat) : Bool := Config.free s.tick k % 2 == 1

end Sys2Proof.Machine
end

