-- ==== Sys2Proof/Machine/Translate.lean ====
section
/-! DEFINITION. Virtual addresses: the three-level table walk, the checks of 04 Table 4.6 in their order, and the checks of 15 R309 on an access. -/

namespace Sys2Proof.Machine

/-- A precise trap an instruction asks for (15 Table 15.10, Raise). -/
structure Trap where
  cause : Nat
  detail : Nat
  addr : Nat
  /-- The PC of a store that failed, when the trap names one (03 R81); 0 otherwise. -/
  issuePc : Nat
  deriving DecidableEq, Repr

/-- Raise of 15 Table 15.10. -/
def mkTrap (cause detail addr : Nat) : Trap := ⟨cause, detail, addr, 0⟩

/-- The illegal-instruction fault: no faulting address (14 Table 14.2, log entry 10). -/
def Trap.illegal : Trap := mkTrap 0x01 0 0

/-- Address fault: unmapped (14 Table 14.2, detail 2). -/
def Trap.unmapped (a : Nat) : Trap := (mkTrap 0x03 2 (a))

/-- Address fault: permission (14 Table 14.2, detail 1); it also stands for every other row of 04 Table 4.6 that meets a mapped page (log entry 10). -/
def Trap.denied (a : Nat) : Trap := (mkTrap 0x03 1 (a))

def Trap.misaligned (a : Nat) : Trap := (mkTrap 0x05 0 (a))

/-- A leaf entry (04 Table 4.4) with the size of its page. -/
structure Leaf where
  nonres : Bool
  read : Bool
  write : Bool
  exec : Bool
  tagged : Bool
  fow : Bool
  cls : Nat
  policy : Nat
  part : Nat
  base : Nat
  pin0 : Bool
  big : Bool
  deriving DecidableEq, Repr

/-- How a walk ends (04 R89): no valid entry, an entry that breaks the rules, or a leaf. -/
inductive Walk where
  | none
  | invalid
  | leaf (l : Leaf)
  deriving DecidableEq, Repr

/-- The leaf that the 64-bit entry `e` codes (04 Table 4.4). -/
def leafOf (e : Nat) (big : Bool) : Leaf where
  nonres := bitsOf e 2 1 == 1
  read := bitsOf e 3 1 == 1
  write := bitsOf e 4 1 == 1
  exec := bitsOf e 5 1 == 1
  tagged := bitsOf e 6 1 == 1
  fow := bitsOf e 7 1 == 1
  cls := bitsOf e 8 3
  policy := bitsOf e 11 2
  part := bitsOf e 13 3
  base := bitsOf e 16 34 * 2 ^ 16
  pin0 := bitsOf e 50 1 == 1
  big := big

/-- The entry keeps the rules of 04 Tables 4.3 and 4.4: a pointer's or a leaf's reserved fields are 0, the class is one of the five. -/
def entryOk (e : Nat) (leaf big : Bool) : Bool :=
  if leaf then bitsOf e 51 13 == 0 && decide (bitsOf e 8 3 ≤ 4) && (!big || 2 < bitsOf e 8 3 || bitsOf e 16 13 == 0)
  else bitsOf e 2 14 == 0 && bitsOf e 50 14 == 0

/-- The table walk of 04 R89 from the root of a context. -/
def walk (mem : List Host.Cell) (root va : Nat) : Walk :=
  let e1 := (sparseDword mem (root + 8 * bitsOf va 42 10)).toNat
  if bitsOf e1 0 1 = 0 then .none
  else if bitsOf e1 1 1 = 1 ∨ !entryOk e1 false false then .invalid
  else
    let e2 := (sparseDword mem (bitsOf e1 16 34 * 2 ^ 16 + 8 * bitsOf va 29 13)).toNat
    if bitsOf e2 0 1 = 0 then .none
    else if bitsOf e2 1 1 = 1 then (if entryOk e2 true true then .leaf (leafOf e2 true) else .invalid)
    else if !entryOk e2 false false then .invalid
    else
      let e3 := (sparseDword mem (bitsOf e2 16 34 * 2 ^ 16 + 8 * bitsOf va 16 13)).toNat
      if bitsOf e3 0 1 = 0 then .none
      else if bitsOf e3 1 1 = 1 ∧ entryOk e3 true false then .leaf (leafOf e3 false) else .invalid

/-- Bytes of a page. -/
def pageBytes (big : Bool) : Nat := if big then 2 ^ 29 else 2 ^ 16

/-- A virtual address lies in one of some pages: virtual address, 1 for a 512 MiB page, leaf entry. -/
def inPages (ps : List (Nat × Nat × Nat)) (va : Nat) : Bool :=
  ps.any (fun p => decide (p.1 ≤ va ∧ va < p.1 + pageBytes (p.2.1 == 1)))

/-- A virtual range meets one of some pages. -/
def meetsPages (ps : List (Nat × Nat × Nat)) (va n : Nat) : Bool :=
  ps.any (fun p => decide (p.1 < va + n ∧ va < p.1 + pageBytes (p.2.1 == 1)))

/-- A die that has not yet answered the shoot-down under way may still hold the removed translation (04 R98, R99): whether it does is the device's choice. -/
def sweptLeaf (s : State) (c die va : Nat) : Option Leaf :=
  match s.shoot with
  | some sh =>
    if sh.ctx = c ∧ die ∈ sh.dies ∧ s.freeBit 7 then
      match sh.removed.find? (fun p => p.1 == va / 2 ^ 16 * 2 ^ 16 || (p.2.1 == 1 && p.1 == va / 2 ^ 29 * 2 ^ 29)) with
      | some (_, big, e) => if bitsOf e 2 1 = 1 then none else some (leafOf e (big == 1))
      | none => none
    else none
  | none => none

/-- The leaf a die of context `c` finds for a virtual address. -/
def leafFor (s : State) (c die va : Nat) : Walk :=
  match s.ctx? c with
  | none => .none
  | some x =>
    match walk s.mem.cells x.root va with
    | .none =>
      (match sweptLeaf s c die va with
      | some l => .leaf l
      | none => .none)
    | w => w

/-- Physical address of a virtual address on a leaf; on a leaf of class peer or host the virtual address itself, since the window holds its mapping's first one (04 Table 4.4, R92). -/
def Leaf.place (l : Leaf) (va : Nat) : Nat :=
  if l.cls ≤ 2 then l.base + (if l.big then va % 2 ^ 29 else va % 2 ^ 16) else va

/-- The place a leaf gives for a virtual address. -/
def Leaf.loc (l : Leaf) (va : Nat) : Loc :=
  if l.cls ≤ 2 then
    .mem { pa := l.place va, va := va, cls := l.cls, policy := l.policy, part := l.part, pin0 := l.pin0 }
  else .remote (l.cls == 4) (bitsOf l.base 16 12) (l.place va)

/-- What an access does, for the permission rows of 04 Table 4.6. -/
inductive AccKind where
  | load
  | store
  /-- Atomic, CAS, RED: both permissions. -/
  | atomic
  | redf
  /-- Tagged-word instructions: TAGQ and WAITF (read), FILL and CNTDN (write), TAKE, which loads and empties (17 R361, R362, R364). -/
  | tagRead
  | tagWrite
  | take
  | fetch
  deriving DecidableEq, Repr

/-- The C-die whose weight store holds a physical address of class W (04 Table 4.5). -/
def weightDie (pa : Nat) : Nat := bitsOf pa 31 2

/-- How a translation comes out. -/
inductive Trans where
  | ok (l : Leaf)
  /-- The leaf is non-resident: the instruction decides (04 Table 4.6). -/
  | nonres
  | trap (t : Trap)
  deriving DecidableEq, Repr

/-- The checks of 04 Table 4.6 after the walk, for a fibre on die `die`; `space` is 0 for .g and 3 for .w; `engine` for an engine command. -/
def checkLeaf (k : AccKind) (space die va : Nat) (engine : Bool) (l : Leaf) : Option Trap :=
  let needR := k = .load ∨ k = .atomic ∨ k = .redf ∨ k = .tagRead ∨ k = .take
  let needW := k = .store ∨ k = .atomic ∨ k = .redf ∨ k = .tagWrite ∨ k = .take
  if (k = .load ∨ k = .fetch) ∧ l.cls = 2 ∧ (space = 0 ∨ engine ∨ die ≠ weightDie (l.place va)) then some (.denied va)
  else if space = 3 ∧ l.cls ≠ 2 then some (.denied va)
  else if (needR ∧ !l.read) ∨ (needW ∧ !l.write) ∨ (k = .fetch ∧ !l.exec) then some (.denied va)
  else if needW ∧ l.cls = 2 then some (.denied va)
  else if (k = .tagRead ∨ k = .tagWrite ∨ k = .take) ∧ !l.tagged then some (.denied va)
  else if k = .redf ∧ l.cls ≠ 0 then some (.denied va)
  else none

/-- Translation of a virtual address with all the checks of 04 Table 4.6, in their order. -/
def translate (s : State) (c die space va : Nat) (k : AccKind) (engine : Bool) : Trans :=
  if 2 ^ 52 ≤ va then .trap (.unmapped va)
  else
    match leafFor s c die va with
    | .none => .trap (.unmapped va)
    | .invalid => .trap (mkTrap 0x1C 0 (va))
    | .leaf l =>
      if l.nonres then .nonres
      else
        match checkLeaf k space die va engine l with
        | some t => .trap t
        | none => .ok l

/-! ### Where memory is homed (01 R19) -/

def wordOf (pa : Nat) : Nat := pa / 8
def lineOf (pa : Nat) : Nat := pa / 128
def regionOf (line : Nat) : Nat := line / 4

/-- The stack of a class HBM address (04 Table 4.5). -/
def stackOf (pa : Nat) : Nat := bitsOf pa 36 3

/-- The die whose slices home a line: a stack's M-die, a C-die for class W and, by the address hash, for the second tier (01 R19, 08 R172). -/
def homeDie (line : Nat) : Nat :=
  let pa := line * 128
  if pa < 2 ^ 39 then 4 + stackOf pa / 2
  else if pa < 0x200000000000 then Config.homeHash line % 4
  else weightDie pa

end Sys2Proof.Machine
end

