-- ==== Sys2Proof/Machine/Home.lean ====
section
/-! DEFINITION. What happens at the homes of memory words: writes with their registrations and collapse probes (08 R173 to R178), where loads are served (09 Table 9.3), atomics (08 R179), tags and their waiters (05 R113, R114). -/

namespace Sys2Proof.Machine

/-! ### Lifetime counters -/

/-- Add to a lifetime counter (01 R31). -/
def State.lifeCount (s : State) (entry inst n : Nat) : State :=
  let k := entry * 65536 + inst
  { s with life := sparsePut 0 s.life k (min (sparseGet 0 s.life k + n) (2 ^ 64 - 1)) }

/-- Poison consumed, counted in the instance of the die (14 Table 14.5, 03 R84). -/
def State.poisonUsed (s : State) (die : Nat) : State := s.lifeCount 4 (8 * die + 1) 1

/-! ### Words and lines at home -/

/-- The dword of a memory word at its home, and whether it is poisoned. -/
def State.wordAt (s : State) (w : Nat) : Dword × Bool :=
  (sparseDword s.mem.cells (8 * w), s.mem.poison.contains w)

def State.lineAt (s : State) (line : Nat) : LineData :=
  (List.range 16).map (fun i => s.wordAt (16 * line + i))

/-- Bytes of a physical address range, at home. -/
def State.physBytes (s : State) (pa n : Nat) : List Byte := sparseBytes s.mem.cells pa n

def State.tagFull (s : State) (w : Nat) : Bool := s.mem.full.contains w

def State.setTag (s : State) (w : Nat) (full : Bool) : State :=
  { s with mem := { s.mem with full := setPut s.mem.full w full } }

/-- The memory words a byte string at `pa` writes whole: their poison is cleared (08 R184). -/
def wordsWhole (pa : Nat) (bytes : List (Option Byte)) : List Nat :=
  (List.range (bytes.length / 8 + 2)).filterMap (fun i =>
    let w := wordOf pa + i
    if pa ≤ 8 * w ∧ 8 * w + 8 ≤ pa + bytes.length ∧
        ((bytes.drop (8 * w - pa)).take 8).all (fun b => b.isSome) then some w else none)

/-- The memory words of which a byte string at `pa` writes at least one byte. -/
def wordsTouched (pa : Nat) (bytes : List (Option Byte)) : List Nat :=
  (List.range (bytes.length / 8 + 2)).filterMap (fun i =>
    let w := wordOf pa + i
    let lo := 8 * w - pa
    let here := ((bytes.drop lo).take (8 * w + 8 - pa - lo))
    if 8 * w < pa + bytes.length ∧ here.any (fun b => b.isSome) then some w else none)

/-- The bytes as they change physical memory, with no other effect: the data, and the poison of words written whole. -/
def Memory.write (m : Memory) (pa : Nat) (bytes : List (Option Byte)) : Memory :=
  { m with
    cells := sparseWrite m.cells pa bytes
    poison := (wordsWhole pa bytes).foldl setErase m.poison }

/-! ### The region directory (08 R174 to R176) -/

/-- The degree a degree code stands for (08 Table 8.3). -/
def degreeOf (code : Nat) : Nat := [0, 1, 2, 4, 7].getD code 7

def Region.zero (i : Nat) : Region where
  idx := i
  holders := 0
  degree := 0
  pinned := false
  reads := 0
  readers := 0
  writes := 0
  ctx := 0
  frac := 0

def State.region (s : State) (i : Nat) : Region :=
  (s.coh.regions.find? (fun r => r.idx == i)).getD (Region.zero i)

def State.putRegion (s : State) (r : Region) : State :=
  { s with coh := { s.coh with regions := r :: s.coh.regions.filter (fun x => x.idx != r.idx) } }

/-- Number of dies in a holder mask. -/
def maskCount (m : BitVec 8) : Nat := (List.range 8).countP (fun i => m.getLsbD i)

def maskDies (m : BitVec 8) : List Nat := (List.range 8).filter (fun i => m.getLsbD i)

/-- The holders that are too many for the degree: those with the highest die identifiers (08 R176). -/
def excessHolders (r : Region) : List Nat :=
  let ds := (maskDies r.holders).reverse
  ds.take (ds.length - degreeOf r.degree)

/-- A die holds a cutting of a line of the region, or is about to: a fill that no probe has overtaken is on its way (08 R178). -/
def State.holdsRegion (s : State) (die region : Nat) : Bool :=
  s.coh.cuttings.any (fun c => c.die == die && regionOf c.line == region) ||
  s.coh.fills.any (fun f => f.die == die && regionOf f.line == region && !f.stale)

def State.holdsLine (s : State) (die line : Nat) : Bool := s.coh.cuttings.any (fun c => c.die == die && c.line == line)

/-- Collapse probes for a line to every holder; a probe makes a fill in flight stale (08 R177, R178). -/
def State.sendProbes (s : State) (line : Nat) (w : Writer) (ctx : Nat) : State :=
  let ps := (maskDies (s.region (regionOf line)).holders).map (fun d => Probe.mk line d false false w ctx)
  let s := s.count ctx 0x41 ps.length
  { s with coh := { s.coh with
      probes := s.coh.probes ++ ps
      fills := s.coh.fills.map (fun (f : Fill) => if f.line == line then { f with stale := true } else f) } }

/-- The holders that are too many for the degree are collapsed: a probe for each line of the region they hold, and one that only clears the holder bit where they hold none (08 R176). -/
def State.collapseExcess (s : State) (region : Nat) (w : Writer) (ctx : Nat) : State :=
  let ps := (excessHolders (s.region region)).flatMap (fun d =>
    let ls := (s.coh.cuttings.filter (fun c => c.die == d && regionOf c.line == region)).map (fun c => c.line)
    let ls := if ls.isEmpty then [4 * region] else ls
    (ls.filter (fun l => !s.coh.probes.any (fun p => p.line == l && p.die == d && !p.answered))).map (fun l => Probe.mk l d false false w ctx))
  let s := s.count ctx 0x41 ps.length
  { s with coh := { s.coh with probes := s.coh.probes ++ ps } }

/-- The write is one that field `writes` counts: a store, an atomic, a REDF, whose tag operations execute as atomics (08 Table 8.3, R179; log entry 83). -/
def Writer.counted (w : Writer) (atomic : Bool) : Bool :=
  match w with
  | .fibre _ => true
  | .other | .qp _ | .peer => atomic
  | .engine _ | .oseus | .stack => false

/-- The write steps the degree of its region down: one that counts, an RDMA write, a peer write (08 R176). -/
def Writer.steps (w : Writer) (atomic : Bool) : Bool :=
  match w with
  | .qp _ | .peer => true
  | w => w.counted atomic

/-- The directory at a write: it is counted, a degree above 0 steps down one level, and excess holders are collapsed (08 R176). -/
def State.directoryWrite (s : State) (line : Nat) (w : Writer) (atomic : Bool) (ctx : Nat) : State :=
  let r := s.region (regionOf line)
  let down := w.steps atomic && decide (0 < r.degree)
  let s := if down then s.count ctx 0x43 1 else s
  let s := if w.counted atomic || down then s.putRegion { r with
      writes := if w.counted atomic then min (r.writes + 1) 15 else r.writes
      degree := if down then r.degree - 1 else r.degree } else s
  s.collapseExcess (regionOf line) w ctx

/-! ### Lines in the slices and their replacement (08 R172, 03 R70) -/

/-- The ways of every slice that a line of a context's partition may allocate into. -/
def State.waysFor (s : State) (ctx part : Nat) : List Nat :=
  let mask := match s.ctx? ctx with | some c => c.partMask.getD part 0xFFFF | none => 0xFFFF
  (List.range 16).filter mask.testBit

/-- A line in the slices of a die, its own or a cutting: line, partition, way, replacement class (04 Table 4.4). -/
structure SliceLine where
  line : Nat
  part : Nat
  way : Nat
  cls : Nat
  deriving DecidableEq, Repr

/-- The lines in the slices of a die. -/
def State.heldOn (s : State) (die : Nat) : List SliceLine :=
  (s.coh.cuttings.filter (fun c => c.die == die)).map (fun c => ⟨c.line, c.part, c.way, c.policy⟩) ++
  (s.coh.slices.filter (fun h => homeDie h.line == die)).map (fun h => ⟨h.line, h.part, h.way, h.cls⟩)

/-- Among the lines of its die, a line may give way to one of a class: an evict-first line always, a retained one to a retained one or when its partition holds no other, a normal one when its partition has no evict-first line. -/
def SliceLine.givesWay (h : SliceLine) (hs : List SliceLine) (cls : Nat) : Bool :=
  let mine := hs.filter (fun x => x.part == h.part)
  if h.cls = 1 then true
  else if h.cls = 2 then cls == 2 || mine.all (fun x => x.cls == 2)
  else mine.all (fun x => x.cls != 1)

def State.dropCutting (s : State) (die line : Nat) : State :=
  { s with coh := { s.coh with cuttings := s.coh.cuttings.filter (fun x => !(x.die == die && x.line == line)) } }

/-- A line leaves its own home slice; its bytes are in `Memory`. -/
def State.dropHome (s : State) (line : Nat) : State :=
  { s with coh := { s.coh with slices := s.coh.slices.filter (fun h => h.line != line) } }

/-- Room in the slices of a die for a line of a context's partition: the way it takes, and the line of that way that gives way to it, if one does; all three are the device's choices. -/
def State.roomFor (s : State) (die line part cls ctx : Nat) : Nat × Option Nat :=
  let ws := s.waysFor ctx part
  let way := ws.getD (Config.free s.tick 9 % ws.length) 0
  let hs := s.heldOn die
  let vs := hs.filter (fun h => h.way == way && h.line != line && h.givesWay hs cls)
  (way, if s.freeBit 1 then (vs[Config.free s.tick 8 % vs.length]?).map (fun h => h.line) else none)

/-- The slices of a die without the line that gives way: a cutting, or a line of their own. -/
def Coherence.without (c : Coherence) (die : Nat) (line : Option Nat) : Coherence :=
  { c with
    cuttings := c.cuttings.filter (fun x => !(x.die == die && line == some x.line))
    slices := c.slices.filter (fun h => !(homeDie h.line == die && line == some h.line)) }

/-- The sectors of a line that hold some of its words. -/
def sectorsOf (ws : List Nat) : BitVec 4 := ws.foldl (fun (v : BitVec 4) w => v ||| BitVec.twoPow 4 (w % 16 / 4)) 0

/-- The home slice after an access to some words of a line of class HBM or second tier: a normal, evict-first or retained line stands in it, its sectors valid, and dirty after a write; a bypass line is not kept. -/
def State.keepHome (s : State) (m : MemLoc) (line : Nat) (ws : List Nat) (write : Bool) (ctx : Nat) : State :=
  let v := sectorsOf (ws.filter (fun w => w / 16 == line))
  let d := if write then v else 0
  if m.cls = 2 then s
  else if m.policy = 3 then s.dropHome line
  else
    let here := s.coh.slices.any (fun h => h.line == line)
    let (way, gone) := s.roomFor (homeDie line) line m.part m.policy ctx
    let c := s.coh.without (homeDie line) (if here then none else gone)
    { s with coh := { c with slices :=
        (if here then [] else [⟨line, m.part, way, m.policy, v, d⟩]) ++ c.slices.map (fun (h : HomeLine) =>
          if h.line == line then { h with valid := h.valid ||| v, dirty := h.dirty ||| d } else h) } }

/-! ### Copies in the L1s (08 R173) -/

def State.registrant (s : State) (w : Nat) : Option CoreId :=
  (s.coh.regn.find? (fun p => p.1 == w)).map (fun p => p.2)

/-- Recall of the registrations of some words: the home copy already holds the registrant's bytes (log entry 11). -/
def State.recall (s : State) (ws : List Nat) : State :=
  { s with coh := { s.coh with regn := s.coh.regn.filter (fun p => !ws.contains p.1) } }

def State.register (s : State) (ws : List Nat) (c : CoreId) : State :=
  let s := s.recall ws
  { s with coh := { s.coh with regn := ws.map (fun w => (w, c)) ++ s.coh.regn } }

/-- Replace the words of a line copy by what the home holds. -/
def State.refreshWords (s : State) (line : Nat) (ws : List Nat) (d : LineData) : LineData :=
  (List.range 16).map (fun i =>
    if ws.contains (16 * line + i) then s.wordAt (16 * line + i) else d.getD i (0, false))

def State.dropLine (s : State) (c : CoreId) (line : Nat) : State :=
  { s with coh := { s.coh with l1 := s.coh.l1.filter (fun x => !(x.core == c && x.line == line)) } }

/-- The words of a core's own copy of a line as the home holds them. -/
def State.refreshL1 (s : State) (c : CoreId) (line : Nat) (ws : List Nat) : State :=
  { s with coh := { s.coh with l1 := s.coh.l1.map (fun x =>
      if x.core == c && x.line == line then { x with data := s.refreshWords line ws x.data } else x) } }

/-- A core's own copy after its store: updated and registered for a line homed on its die, dropped otherwise (08 R173). -/
def State.ownCopy (s : State) (c : CoreId) (line : Nat) (ws : List Nat) : State :=
  if homeDie line = c.die then (s.register ws c).refreshL1 c line ws else s.dropLine c line

/-- The lines of an owned destination: engine commands in flight own them (08 R182). The list is kept by `Engines`; `owned` reads it. -/
def linesOf (ws : List Nat) : List Nat := (ws.map (fun w => w / 16)).foldl setInsert []

/-- Where a write comes from: a full core and its die, a near core's die, or no die. -/
structure Origin where
  core : Option CoreId
  die : Option Nat
  deriving DecidableEq, Repr

/-- An agent that is on no die. -/
def Origin.outside : Origin := ⟨none, none⟩

/-- A write of bytes at the home: registrations recalled, the storing die's own cutting of a line homed elsewhere dropped first (09 R190), bytes merged, poison cleared where a word is written whole, collapse probes sent, the directory stepped, and the writing core's copy brought in line (08 R173, R176, R177). -/
def State.writeHome (s : State) (m : MemLoc) (bytes : List (Option Byte)) (w : Writer) (ctx : Nat) (o : Origin) : State :=
  let ws := wordsTouched m.pa bytes
  let s := s.recall ws
  let s := match o.die with
    | some d => (linesOf ws).foldl (fun (s : State) l => s.dropCutting d l) s
    | none => s
  let s := { s with mem := s.mem.write m.pa bytes }
  let s := (linesOf ws).foldl (fun s l =>
    ((s.keepHome m l ws true ctx).sendProbes l w ctx).directoryWrite l w false ctx) s
  match o.core with
  | some c => (linesOf ws).foldl (fun s l => s.ownCopy c l (ws.filter (fun x => x / 16 == l))) s
  | none => s

/-- Collapse of every cutting of a line, completed before the operation goes on (08 R179, R182): the probes under way and one to every other holder are answered. -/
def State.collapseNow (s : State) (line ctx : Nat) : State :=
  let open_ := s.coh.probes.filter (fun p => p.line == line && !p.answered)
  let new := (maskDies (s.region (regionOf line)).holders).filter (fun d => !s.coh.probes.any (fun p => p.line == line && p.die == d))
  let filtered := new.filter (fun d => !s.holdsLine d line)
  let s1 := (open_.filter (fun p => !s.holdsLine p.die line)).foldl (fun s p => s.count p.ctx 0x42 1) s
  let s1 := (s1.count ctx 0x41 new.length).count ctx 0x42 filtered.length
  let s1 := { s1 with coh := { s1.coh with
    cuttings := s1.coh.cuttings.filter (fun x => x.line != line)
    probes := s1.coh.probes.filter (fun p => p.line != line)
    fills := s1.coh.fills.map (fun (f : Fill) => if f.line == line then { f with stale := true } else f) } }
  let r := s1.region (regionOf line)
  let left := (maskDies r.holders).filter (fun d => s1.holdsRegion d (regionOf line))
  s1.putRegion { r with holders := left.foldl (fun h d => h ||| BitVec.twoPow 8 d) 0 }

/-- The registrations of a whole line are recalled. -/
def State.recallLine (s : State) (line : Nat) : State := s.recall ((List.range 16).map (fun i => 16 * line + i))

/-- A line is brought up to date in its stack: its registrations recalled, its dirty sectors written back (10 R215). -/
def State.settleLine (s : State) (line : Nat) : State :=
  let s := s.recallLine line
  { s with coh := { s.coh with slices := s.coh.slices.map (fun (h : HomeLine) => if h.line == line then { h with dirty := 0 } else h) } }

/-- An operation that changes a word at its home from its old value (08 R179, R181): registrations of its lines recalled, cuttings collapsed, then the bytes written with no probe for them outstanding. -/
def State.modifyHome (s : State) (m : MemLoc) (bytes : List (Option Byte)) (w : Writer) (ctx : Nat) (core : Option CoreId) : State :=
  let ws := wordsTouched m.pa bytes
  let s := (linesOf ws).foldl (fun s l => ((s.recallLine l).collapseNow l ctx).keepHome m l ws true ctx) s
  let s := { s with mem := s.mem.write m.pa bytes }
  let s := (linesOf ws).foldl (fun s l => s.directoryWrite l w true ctx) s
  match core with
  | some c => (linesOf ws).foldl (fun s l => s.refreshL1 c l (ws.filter (fun x => x / 16 == l))) s
  | none => s

/-! ### Where a load is served (09 Table 9.3) -/

/-- The bytes `[off, off + n)` of a word, from its dword. -/
def wordBytes (v : Dword) (off n : Nat) : List Byte := (bytesOf v 8).drop off |>.take n

/-- A read from another die at the home: the line's registrations recalled (08 R173), the read counted, and a cutting on its way where the reading die may install one (08 R175). -/
def State.remoteRead (s : State) (die : Nat) (m : MemLoc) (ctx : Nat) : State :=
  let line := lineOf m.pa
  let s := (s.recallLine line).keepHome m line [wordOf m.pa] false ctx
  let r := s.region (regionOf line)
  let tick := r.frac + 1
  let r := { r with
    readers := r.readers ||| BitVec.twoPow 8 die
    reads := if tick = 8 then min (r.reads + 1) 255 else r.reads
    frac := tick % 8
    pinned := m.pin0
    ctx := ctx }
  if !m.pin0 && m.policy != 3 && (r.holders.getLsbD die || decide (maskCount r.holders < degreeOf r.degree)) then
    let s := s.putRegion { r with holders := r.holders ||| BitVec.twoPow 8 die }
    { s with coh := { s.coh with fills := s.coh.fills ++ [⟨die, line, s.lineAt line, m.part, m.policy, ctx, false⟩] } }
  else s.putRegion r

/-- A read performed at the home (08 R173, R175). -/
def State.readHome (s : State) (die : Nat) (m : MemLoc) (ctx : Nat) : LineData × State :=
  let line := lineOf m.pa
  (s.lineAt line, if homeDie line = die then s.keepHome m line [wordOf m.pa] false ctx else s.remoteRead die m ctx)

/-- The die's slices serve a word: the home when it is on the die, else the die's own cutting while it holds one, else the home (09 Table 9.3, 08 R175). -/
def State.readSlices (s : State) (die : Nat) (m : MemLoc) (ctx : Nat) : LineData × State :=
  match s.coh.cuttings.find? (fun x => x.die == die && x.line == lineOf m.pa && homeDie x.line != die) with
  | some x => (x.data, s.count ctx 0x40 1)
  | none => s.readHome die m ctx

/-- Put a line copy in a core's L1. -/
def State.installL1 (s : State) (c : CoreId) (line : Nat) (d : LineData) : State :=
  let s := s.dropLine c line
  { s with coh := { s.coh with l1 := ⟨c, line, d⟩ :: s.coh.l1 } }

/-- A line copy as its own core reads it: the words registered to the core are the home's (08 R173). -/
def State.ownWords (s : State) (c : CoreId) (line : Nat) (d : LineData) : LineData :=
  s.refreshWords line ((s.coh.regn.filter (fun p => p.2 == c && p.1 / 16 == line)).map (fun p => p.1)) d

/-- A line that leaves a core's L1 is written back and deregistered (08 R173). -/
def State.evictL1 (s : State) (c : CoreId) (line : Nat) : State :=
  let s := { s with coh := { s.coh with regn := s.coh.regn.filter (fun p => !(p.2 == c && p.1 / 16 == line)) } }
  s.dropLine c line

/-- A word that a core has read past its L1: its own copy is no older (09 R190). -/
def State.renewWord (s : State) (c : CoreId) (line i : Nat) (v : Dword × Bool) : State :=
  { s with coh := { s.coh with l1 := s.coh.l1.map (fun x =>
      if x.core == c && x.line == line then { x with data := x.data.set i v } else x) } }

/-- The refresh group of a weight-store place is in its refresh window (08 R171). -/
def weightBusy (s : State) (l : Loc) : Bool :=
  match l with
  | .mem m => m.cls == 2 && decide (s.aclk % 115200 / 14400 = bitsOf m.pa 28 3) && decide (s.aclk % 14400 < 3240)
  | _ => false

/-- A core's L1 holds the line of a place. -/
def State.inL1 (s : State) (core : Option CoreId) (l : Loc) : Bool :=
  match core, l with
  | some c, .mem m => s.coh.l1.any (fun x => x.core == c && x.line == lineOf m.pa)
  | _, _ => false

/-- One load of at most 8 bytes of one memory word: the dword it finds, whether that is poisoned, and the state after (09 Table 9.3). `core` is the full core of the load; a near core's load is performed at its home slice (08 R166). A line may have left the L1 before the load; one of a weight-store group in refresh has not when the load is performed. -/
def State.serveWord (s : State) (core : Option CoreId) (die : Nat) (m : MemLoc) (ctx : Nat) (st : Strength) :
    (Dword × Bool) × State :=
  let line := lineOf m.pa
  let i := wordOf m.pa % 16
  let pick := fun (x : LineData × State) => (x.1.getD i (0, false), x.2)
  match core with
  | none => if m.cls = 2 then (s.wordAt (wordOf m.pa), s) else pick (s.readHome die m ctx)
  | some c =>
    if m.cls ≠ 2 ∧ st.strong ∧ 2 ≤ st.scope then
      let (v, s) := pick (if st.order = 1 ∧ 4 ≤ st.scope then s.readHome die m ctx else s.readSlices die m ctx)
      (v, s.renewWord c line i v)
    else
      let kept := (s.coh.l1.find? (fun x => x.core == c && x.line == line)).filter (fun _ => weightBusy s (.mem m) || !s.freeBit 0)
      (match kept with
      | some x => ((s.ownWords c line x.data).getD i (0, false), s)
      | none =>
        let s := s.evictL1 c line
        let (d, s) := if m.cls = 2 then (s.lineAt line, s) else s.readSlices die m ctx
        (d.getD i (0, false), s.installL1 c line d))

/-- The acquire of 09 R194: the core's L1 lines in the range (all of them without one) keep only the words registered to the core; the others are read anew (log entry 12). -/
def State.acquireL1 (s : State) (c : CoreId) (range : Option (Nat → Bool)) : State :=
  let hit := fun (x : L1Line) => x.core == c && (match range with | some f => f x.line | none => true)
  { s with coh := { s.coh with l1 := (s.coh.l1.filter (fun x =>
      !hit x || s.coh.regn.any (fun p => p.2 == c && p.1 / 16 == x.line))).map (fun x =>
        if hit x then { x with data := s.lineAt x.line } else x) } }

/-! ### Owned lines, probes outstanding -/

/-- A collapse of the writer's earlier writes is still under way (08 R177). -/
def State.collapsesOf (s : State) (w : Writer) : Bool := s.coh.probes.any (fun p => p.writer == w)

def State.collapsesAt (s : State) (line : Nat) : Bool := s.coh.probes.any (fun p => p.line == line)

/-- A probe toward a die has not been applied there yet (09 R198). -/
def State.probesToward (s : State) (die : Nat) : Bool := s.coh.probes.any (fun p => p.die == die && !p.answered)

/-! ### Atomic operations (17 Table 17.2) -/

/-- The new value of `n`-bit operands, as numbers below 2^n. -/
def AtomOp.apply (op : AtomOp) (n old b : Nat) : Nat :=
  match op with
  | .add => (old + b) % 2 ^ n
  | .sub => (old + (2 ^ n - b)) % 2 ^ n
  | .and => old &&& b
  | .or => old ||| b
  | .xor => old ^^^ b
  | .minI => if signedOf n old ≤ signedOf n b then old else b
  | .maxI => if signedOf n b ≤ signedOf n old then old else b
  | .minN => if old ≤ b then old else b
  | .maxN => if b ≤ old then old else b
  | .swap => b
  | .cas e => if old = e.toNat % 2 ^ n then b else old

/-- Operation of an fn code (17 Table 17.2). -/
def atomOp (f : Nat) : AtomOp :=
  match f with
  | 0 => .add | 1 => .sub | 2 => .and | 3 => .or | 4 => .xor
  | 5 => .minI | 6 => .maxI | 7 => .minN | 8 => .maxN | _ => .swap

/-! ### Tags (05 Table 5.2, R114) -/

/-- The acquire a served TAKE or WAITF makes (05 R114, 09 R194). -/
def State.acquireFor (s : State) (r : FibreRef) (st : Strength) : State :=
  if (st.order = 1 ∨ st.order = 3) ∧ 2 ≤ st.scope then
    match s.team? r.team with
    | none => s
    | some t =>
      match (t.fibre? r.fibre).bind (fun f => coreOf t f) with
      | some c => s.acquireL1 c none
      | none => s
  else s

/-- A waiter that is served: its value reaches the fibre, which passes the instruction (17 R362), and its core's copy of the word is no older (09 R190). -/
def serveWaiter (v : Dword) (w : Waiter) (s : State) : State :=
  let s := s.updFibre w.who (fun f =>
    match f.ll.find? (fun op => match op.kind with | .tagWait .. => true | _ => false) with
    | some op =>
      let d := match op.kind with | .tagWait _ d _ _ => d | _ => 0
      let f := (f.setReg d v).countDown op.counter
      { f.pass op.len true s.aclk with
        ll := f.ll.filter (fun o => o != op)
        status := .ready }
    | none => f)
  let s := match (s.team? w.who.team).bind (fun t => (t.fibre? w.who.fibre).bind (fun f => coreOf t f)) with
    | some c => s.refreshL1 c (lineOf w.m.pa) [wordOf w.m.pa]
    | none => s
  s.acquireFor w.who w.st

/-- A waiter that is served with poisoned data: its instruction consumes the poison and is not passed (08 R184; log entry 84). -/
def poisonWaiter (w : Waiter) (s : State) : State :=
  s.updFibre w.who (fun f =>
    match f.ll.find? (fun op => match op.kind with | .tagWait .. => true | _ => false) with
    | some op =>
      { f.countDown op.counter with
        ll := f.ll.filter (fun o => o != op)
        status := .poisoned w.m.va
        since := s.aclk }
    | none => f)

/-- The memory word the scheduler watches at a virtual address of a context: of a tagged, resident page of class HBM or second tier, whatever its permissions (03 R77, 05 R115). -/
def State.watched (s : State) (ctx va : Nat) : Option Nat :=
  if 2 ^ 52 ≤ va ∨ va % 8 ≠ 0 then none
  else
    match leafFor s ctx 0 va with
    | .leaf l => if l.tagged && !l.nonres && decide (l.cls ≤ 1) then some (wordOf (l.place va)) else none
    | _ => none

/-- The dependence words of a JOB node that stand at a memory word are latched (05 R115). -/
def latchDeps (s : State) (w : Nat) : State :=
  { s with insts := s.insts.map (fun i =>
      match (s.ctx? i.ctx).bind (fun c => c.graphs.find? (fun g => g.handle == i.graph)) with
      | none => i
      | some g => { i with runs := i.runs.map (fun r =>
          match (g.nodes.getD r.node ⟨.join 1, []⟩).kind with
          | .job _ _ _ deps =>
            { r with latched := (List.range deps.length).map (fun k =>
                r.latched.getD k false || s.watched i.ctx (deps.getD k 0) == some w) }
          | _ => r) }) }

/-- Live instances of a graph, and starts taken and not yet admitted. -/
def State.liveOf (s : State) (ctx g : Nat) : Nat :=
  s.insts.countP (fun i => i.ctx == ctx && i.graph == g) + s.starts.countP (fun p => p.1 == ctx && p.2.1 == g)

/-- The graph whose start word stands at a memory word and that may start an instance (05 R114 step 2, R119). -/
def State.startAt (s : State) (w : Nat) : Option (Nat × Graph) :=
  (s.ctxs.flatMap (fun c => c.graphs.map (fun g => (c.id, g)))).find? (fun p =>
    !p.2.startLost && decide (s.liveOf p.1 p.2.handle < p.2.maxLive) && s.watched p.1 p.2.startWord == some w)

/-- The graphs whose start word stands at a memory word take note of the time it became FULL (05 R119). -/
def State.noteFill (s : State) (w : Nat) : State :=
  { s with ctxs := s.ctxs.map (fun (c : Context) => { c with graphs := c.graphs.map (fun (g : Graph) =>
      if s.watched c.id g.startWord == some w then { g with filledAt := some s.now } else g) }) }

/-- The scheduler at a word that turned FULL: dependence words latched, a start taken (05 R114, R115, R119). -/
def State.observeFull (s : State) (w : Nat) : State :=
  let s := (latchDeps s w).noteFill w
  match s.startAt w with
  | some (c, g) => { s.setTag w false with starts := s.starts ++ [(c, g.handle, s.now)] }
  | none => s

/-- Waiters leave a word's queue. -/
def State.leaveWord (s : State) (gone : Waiter → Bool) : State :=
  { s with coh := { s.coh with waiters := s.coh.waiters.filter (fun x => !gone x) } }

/-- The waiters of one kind that a FULL word serves, with its data or its poison. -/
def serveAll (v : Dword × Bool) (ws : List Waiter) (s : State) : State :=
  ws.foldl (fun s x => if v.2 then poisonWaiter x s else serveWaiter v.1 x s) s

/-- A memory word turns FULL: every WAITF waiter is released, the scheduler observes, and the oldest TAKE is served while the word is still FULL, which leaves it EMPTY unless its data is poisoned (05 R114, 08 R184). The other TAKEs keep waiting. -/
def State.fullTransition (s : State) (w : Nat) : State :=
  let here := s.coh.waiters.filter (fun x => wordOf x.m.pa == w)
  let v := s.wordAt w
  let s := ((serveAll v (here.filter (fun x => !x.take)) s).leaveWord (fun x => wordOf x.m.pa == w && !x.take)).observeFull w
  match s.tagFull w, here.find? (fun x => x.take) with
  | true, some x => (serveAll v [x] (if v.2 then s else s.setTag w false)).leaveWord (fun y => y == x)
  | _, _ => s

/-- FILL at the home: the value if one is given, the tag FULL; the transition acts only when the tag was EMPTY (05 Table 5.2, R114). -/
def State.fillAt (s : State) (m : MemLoc) (v : Option Dword) (w : Writer) (ctx : Nat) (core : Option CoreId) : State :=
  let s := match v with
    | some x => s.modifyHome m ((bytesOf x 8).map some) w ctx core
    | none => s
  if s.tagFull (wordOf m.pa) then s else (s.setTag (wordOf m.pa) true).fullTransition (wordOf m.pa)

/-- A countdown at the home, by an agent of a die: the data falls by `n`; an EMPTY word whose data becomes 0 turns FULL (05 Table 5.2); a poisoned word is left alone, and the poison is counted as consumed (08 R184). -/
def State.countdownAt (s : State) (m : MemLoc) (n : Dword) (w : Writer) (ctx die : Nat) (core : Option CoreId) : State :=
  let k := wordOf m.pa
  if s.mem.poison.contains k then s.poisonUsed die
  else
    let v := (s.wordAt k).1 - n
    let s := s.modifyHome m ((bytesOf v 8).map some) w ctx core
    if v = 0 ∧ !s.tagFull k then (s.setTag k true).fullTransition k else s

end Sys2Proof.Machine
end

