-- ==== Sys2Proof/Machine/Ops.lean ====
section
/-! DEFINITION. The shared operations of the instruction meanings: reading instruction words, resolving an address to a place, taking a trap (records, handler entry, termination) and returning from one, issuing long-latency instructions and stores, and running one meaning for the current fibre. -/

namespace Sys2Proof.Machine

/-! ### The current fibre -/

/-- The team and fibre that `cur` names. -/
def State.current (s : State) : Option (FibreRef × Team × Fibre) :=
  match s.cur with
  | none => none
  | some r =>
    match s.team? r.team with
    | none => none
    | some t =>
      match t.fibre? r.fibre with
      | none => none
      | some f => some (r, t, f)

/-- The stack of a fibre on a near core. -/
def Fibre.nearSlot (f : Fibre) : Option (Nat × Nat × Nat) :=
  match f.away with
  | some (.near k c n) => some (k, c, n)
  | _ => none

/-- Registers a fibre may name: its window, and at most 32 on a near core or a service slot (10 R223, R224). -/
def windowOf (t : Team) (f : Fibre) : Nat :=
  match f.stack? with
  | some _ => min t.kernel.windowRegs 32
  | none => t.kernel.windowRegs

/-! ### Instruction words (15 R291) -/

/-- The cause that a peer transaction's status stands for (02 Table 2.4): poison, misalignment, invalid record, link down, and the address fault for the others. -/
def peerCause (status : Nat) : Nat :=
  match status with
  | 3 => 0x12 | 4 => 0x05 | 5 => 0x18 | 255 => 0x1A | _ => 0x03

/-- The cause of an asynchronous fault for a peer transaction's status: misalignment is a precise cause alone, and a store or an engine's access that meets that status reports the address fault (14 Table 14.1; log entry 52). -/
def asyncCause (status : Nat) : Nat := if status = 4 then 0x03 else peerCause status

/-- An instruction word of a page of class peer or host is still to be read: no cause, the word's address. -/
def Trap.fetching (a : Nat) : Trap := mkTrap 0 0 a

/-- What the reading of an instruction word from a page of class peer or host has brought (04 Table 4.6, last row): the word, or the failure of the load that it is. -/
def fetchedWord (s : State) (ctx pc : Nat) : Except Trap Nat :=
  match s.remote.find? (fun o => o.ctx == ctx && o.off == pc && (match o.who with | .fetch _ => o.answer.isSome || o.failed | _ => false)) with
  | none => .error (.fetching pc)
  | some o =>
    match o.answer with
    | some bs => .ok (natOfBytes bs)
    | none => .error (if o.host then .denied pc else mkTrap (peerCause o.status) 0 pc)

/-- One instruction word by a fetch translation. -/
def fetchWord (s : State) (ctx die pc : Nat) : Except Trap Nat :=
  match translate s ctx die 0 pc .fetch false with
  | .trap t => .error t
  | .nonres => .error (mkTrap 0x04 0 (pc))
  | .ok l =>
    let pa := l.place pc
    if l.cls ≤ 2 ∧ s.mem.poison.contains (wordOf pa) then .error (mkTrap 0x12 0 (pc))
    else if l.cls ≤ 2 then .ok (natOfBytes (s.physBytes pa 4))
    else fetchedWord s ctx pc

/-- Up to `n` words from `pc` on, as far as they can be fetched. -/
def fetchWords (s : State) (ctx die pc : Nat) : Nat → List Nat
  | 0 => []
  | n + 1 =>
    match fetchWord s ctx die pc with
    | .ok w => w :: fetchWords s ctx die (pc + 4) n
    | .error _ => []

/-- The words of the instruction at `pc`: as many as its length asks for. -/
def instrWords (s : State) (ctx die pc : Nat) : List Nat :=
  match fetchWord s ctx die pc with
  | .ok w => w :: fetchWords s ctx die (pc + 4) (lengthOf w - 1)
  | .error _ => []

/-! ### Events -/

/-- Queue an event message; the 257th unsent one drops the oldest, which the next event sent counts (03 R61). -/
def State.pushEvent (s : State) (code ctx : Nat) (word : Dword) : State :=
  let e : EventMsg := ⟨s.eventSeq + 1, code, ctx, 0, s.now, word⟩
  if s.events.length < 256 then { s with events := s.events ++ [e], eventSeq := s.eventSeq + 1 }
  else { s with
    events := s.events.drop 1 ++ [e]
    eventSeq := s.eventSeq + 1
    eventsLost := s.eventsLost + 1 }

/-! ### Remote transactions -/

/-- A window of a context by its number (04 R92). -/
def State.windowOf (s : State) (ctx n : Nat) : Option Window := (s.ctx? ctx).bind (fun c => c.windows.find? (fun w => w.idx == n))

/-- Send a device-issued transaction on a host or peer window (03 R81, 02 R42). -/
def State.send (s : State) (host : Bool) (ctx window off : Nat) (k : RemoteKind) (who : RemoteWho) : State :=
  { s with
    remote := s.remote ++ [⟨s.nextId, host, none, ctx, s.windowOf ctx window, off, k, who, none, false, s.aclk, 0, none, 0, 0⟩]
    nextId := s.nextId + 1 }

/-! ### Writes the device itself makes in a context's memory -/

/-- Bytes at a virtual address written by the device for context `ctx`, page by page, each where the page lets it be written; 8 bytes at most lie in one call's part. -/
def State.deviceWrite (s : State) (ctx va : Nat) (bytes : List Byte) : State :=
  match translate s ctx 8 0 va .store false with
  | .ok l =>
    (match l.loc va with
     | .mem m => s.writeHome m (bytes.map some) .other ctx .outside
     | .remote h w o => s.send h ctx w o (.write (bytes.map some)) .device
     | _ => s)
  | _ => s

/-- Consecutive dwords written by the device from a virtual address up. -/
def State.deviceDwords (s : State) (ctx va : Nat) : List Dword → State
  | [] => s
  | v :: vs => (s.deviceWrite ctx va (bytesOf v 8)).deviceDwords ctx (va + 8) vs

/-- What a job's or a graph's fault word receives; the excursion bit belongs to kind 4 alone (03 Table 3.8). -/
def faultWordOf (kind cause ctx : Nat) (excursion : Bool) (recSeq : Nat) : Dword :=
  BitVec.ofNat 64 (kind + cause * 2 ^ 8 + ctx * 2 ^ 16 + (if excursion then 2 ^ 22 else 0) + recSeq % 2 ^ 32 * 2 ^ 32)

/-- Write a fault word: an EMPTY tagged word is written and turns FULL; a FULL, unmapped, unwritable or untagged word is left alone; a host-class word goes out as an RDMA WRITE (03 R83). -/
def State.writeFaultWord (s : State) (ctx va : Nat) (v : Dword) : State :=
  match translate s ctx 8 0 va .store false with
  | .ok l =>
    (match l.loc va with
     | .mem m =>
       if l.tagged ∧ l.cls ≤ 1 ∧ !s.tagFull (wordOf m.pa) then s.fillAt m (some v) .other ctx none else s
     | .remote true w o => s.send true ctx w o (.write ((bytesOf v 8).map some)) .device
     | _ => s)
  | _ => s

/-- What a report waits for is still under way. -/
def Report.waits (p : Report) (s : State) : Bool :=
  s.coh.probes.any (fun x => p.lines.contains (x.line, x.die)) ||
  s.remote.any (fun o => p.ops.contains o.id && o.answer.isNone && !o.failed) ||
  s.coh.redfs.any (fun x => p.redfs.contains x)

/-- The fault word, then event code 3 (03 R83). -/
def State.giveReport (s : State) (p : Report) : State :=
  let s := s.writeFaultWord p.ctx p.va p.word
  if p.event then s.pushEvent 3 p.ctx p.word else s

/-- A fault word is written as a release at system scope: after the collapses, REDF operations and remote writes of its context that are under way (03 R83). -/
def State.report (s : State) (ctx va : Nat) (v : Dword) (event : Bool) : State :=
  let p : Report := {
    ctx := ctx
    va := va
    word := v
    event := event
    lines := (s.coh.probes.filter (fun x => x.ctx == ctx)).map (fun x => (x.line, x.die))
    ops := (s.remote.filter (fun o => o.ctx == ctx && (match o.kind with | .write _ => true | _ => false))).map (fun o => o.id)
    redfs := s.coh.redfs.filter (fun x => x.ctx == ctx) }
  if p.waits s then { s with reports := s.reports ++ [p] } else s.giveReport p

/-- The oldest report whose release is complete is given. -/
def State.settleReport (s : State) : State :=
  match s.reports.find? (fun p => !p.waits s) with
  | some p => { s with reports := s.reports.erase p }.giveReport p
  | none => s

/-! ### Trap records (14 R277) -/

/-- One list entry of a record (14 Table 14.3): pc, fibre, status 0 not arrived, 1 away, 2 not live. -/
structure ListEntry where
  pc : Nat
  fibre : Nat
  status : Nat
  deriving DecidableEq, Repr

/-- What a trap record says beyond the place it is taken at (14 Table 14.2). -/
structure RecordInfo where
  kind : Nat
  cause : Nat
  detail : Nat
  engine : Nat
  inHandler : Bool
  noHandler : Bool
  terminated : Bool
  pc : Nat
  issuePc : Nat
  addr : Nat
  words : List Nat
  list : List ListEntry
  more : Nat
  deriving DecidableEq, Repr

def bit (b : Bool) : Nat := if b then 1 else 0

/-- The 128 dwords of a trap record (14 Tables 14.2 and 14.3). -/
def recordDwords (seq now ctx : Nat) (t : Option Team) (f : Option Fibre) (i : RecordInfo) : List Dword :=
  let near := (f.bind Fibre.stack?).isSome
  let d1 := ctx + i.kind * 2 ^ 6 + i.cause * 2 ^ 8 + i.detail * 2 ^ 16 +
    (match t with | some t => t.jobTag.toNat | none => 0) * 2 ^ 32
  let d3 := (match f with | some f => f.idx | none => 0) +
    (match t with | some t => t.die * 2 ^ 16 + (match t.core with | some c => c.idx | none => 0) * 2 ^ 24 | none => 0) +
    i.engine * 2 ^ 32 + bit i.inHandler * 2 ^ 36 + bit i.noHandler * 2 ^ 37 + bit i.terminated * 2 ^ 38 +
    bit near * 2 ^ 39 + (match f.bind Fibre.stack? with | some k => k | none => 0) * 2 ^ 40 +
    (i.words.take 8).length * 2 ^ 44
  let ws := (List.range 4).map (fun k => i.words.getD (2 * k) 0 + i.words.getD (2 * k + 1) 0 * 2 ^ 32)
  let es := (i.list.take 32).flatMap (fun e => [e.pc, e.fibre + e.status * 2 ^ 12])
  let ds := [seq, now, d1, (match t with | some t => t.linear | none => 0), d3, i.pc, i.issuePc, i.addr,
    (i.list.take 32).length + i.more * 2 ^ 16] ++ List.replicate 7 0 ++ ws ++ es
  (ds ++ List.replicate (128 - ds.length) 0).map (BitVec.ofNat 64)

/-- The lines of a record leave the L1 of the core that took the trap, before its handler reads them (log entry 76). -/
def State.dropRecordLines (s : State) (ctx a : Nat) (core : Option CoreId) : State :=
  match core, translate s ctx 8 0 a .store false with
  | some c, .ok l =>
    (match l.loc a with
     | .mem m => s.acquireL1 c (some (fun line => decide (lineOf m.pa ≤ line ∧ line < lineOf m.pa + 8)))
     | _ => s)
  | _, _ => s

/-- Machine checks and consumed poison are counted in the lifetime counters of the die where the event arose (14 R286). -/
def State.countCause (s : State) (cause die : Nat) : State :=
  if cause = 0x13 ∨ cause = 0x1C ∨ cause = 0x1D then s.lifeCount 3 (8 * die) 1
  else if cause = 0x12 then s.poisonUsed die else s

/-- The die of a fibre of a team, or of the team alone. -/
def dieOfWho (t : Team) (f : Option Fibre) : Nat := match f with | some f => dieOf t f | none => t.die

/-- Write a trap record into the context's ring as the next sequence number; answers its address (14 R277). -/
def State.writeRecord (s : State) (ctx : Nat) (t : Option Team) (f : Option Fibre) (i : RecordInfo) : Nat × Nat × State :=
  match s.ctx? ctx with
  | none => (0, 0, s)
  | some c =>
    let q := c.recSeq + 1
    let a := c.trapRing + 1024 * (q % 2 ^ (c.ringOrder + 4))
    let s := s.updCtx ctx (fun c => { c with recSeq := q })
    let core := match t, f with | some t, some f => coreOf t f | _, _ => none
    (q, a, (s.deviceDwords ctx a (recordDwords q s.now ctx t f i)).dropRecordLines ctx a core)

/-- The cause writes a record when it is delivered to a handler (14 R277). -/
def recordedCause (c : Nat) : Bool := c != 0x02 && c != 0x0D && c != 0x0E

/-! ### Leaving a core -/

/-- The shape of an ended team: its fibres, memories and units hold nothing (06 R143). -/
def Team.scrub (t : Team) (st : TeamState) (aclk : Nat) : Team :=
  { t with
    state := st
    core := none
    reserved := 0
    scratch := []
    scratchPoison := []
    acc := []
    accPoison := []
    metaMem := []
    metaPoison := []
    cv := []
    bins := []
    reorder := []
    resAcc := t.residentTime aclk
    resSince := none
    redirect := []
    fibres := [] }

/-- A wait for permits ends: the resident time until its permits were there, or until now, counts as the fibre's stall (12 R256). -/
def State.dropPermitWait (s : State) (w : PermitWait) : State :=
  let now := (s.team? w.who.team).elim w.since (fun t => t.residentTime s.aclk)
  { s with permitWaits := s.permitWaits.filter (fun x => x != w) }.count w.ctx 0x61 (w.until_.getD now - w.since)

/-- The waits for permits of some fibres end. -/
def State.endPermitWaits (s : State) (p : FibreRef → Bool) : State :=
  (s.permitWaits.filter (fun w => p w.who)).foldl State.dropPermitWait s

/-- Every operation that hangs on fibres of some teams and not on memory is dropped: waiters, near-core slots and escape-buffer entries (10 R228), answers awaited, waits for permits. -/
def State.forgetFibres (s : State) (gone : Nat → Bool) : State :=
  let s := s.endPermitWaits (fun r => gone r.team)
  { s with
    coh := { s.coh with waiters := s.coh.waiters.filter (fun w => !gone w.who.team) }
    bars := s.bars.filter (fun b => match b.obj with | .scr t _ => !gone t | _ => true)
    near := s.near.filter (fun n => !gone n.who.team)
    arrivals := s.arrivals.filter (fun r => !gone r.team)
    remote := s.remote.map (fun (o : RemoteOp) =>
      match o.who with
      | .load r _ _ => if gone r.team then { o with who := .device } else o
      | .fetch r => if gone r.team then { o with who := .device } else o
      | .store r _ => if gone r.team then { o with who := .device } else o
      | _ => o) }

/-- What is left of a team that YIELD.restart has discarded: what still targets it finds it gone (06 R138). -/
def Team.discarded (t : Team) : Bool := t.state == .discarding && t.core.isNone

/-- Channels with an endpoint among some teams break: the other endpoints' instructions raise peer lost, and their fibres blocked at CHAN.wait with them (12 R254). -/
def State.breakChannels (s : State) (gone : Nat → Bool) : State :=
  let broken := fun (k : Nat) => s.ctxs.any (fun c => c.chans.any (fun h => h.ends.any (fun e => gone e.team) && h.ends.any (fun e => e.team == k)))
  { s with
    teams := s.teams.map (fun (t : Team) => if broken t.id then { t with fibres := t.fibres.map (fun (f : Fibre) =>
      match f.status with | .chanWait _ _ _ _ => { f with status := .ready } | _ => f) } else t)
    ctxs := s.ctxs.map (fun c => { c with
      chans := c.chans.map (fun (h : Chan) =>
        if h.ends.any (fun e => gone e.team) then
          { h with
            ends := (h.ends.filter (fun e => !gone e.team)).map (fun (e : Endpoint) => { e with lost := true })
            returning := [] } else h) }) }

/-- A message that has left its sender: its source has been read. -/
def Cmd.flying (c : Cmd) : Bool :=
  match c.kind with
  | .chan _ _ _ _ _ _ => c.stages.head?.any (fun g => g.read)
  | _ => false

/-- The team a message goes to. -/
def Cmd.peerTeam (c : Cmd) : Option Nat :=
  match c.kind with
  | .chan _ _ _ _ _ k => some k
  | _ => none

/-- Engine commands, requests and sends of some teams are abandoned, but for messages that have left for another team, which land (12 R254; log entry 98); contributions of a conversion that nobody else waits for, and the opens that go before them, are never resent (14 R284 step 2). -/
def State.dropCommands (s : State) (gone : Nat → Bool) : State :=
  let dead := (s.cmds.filter (fun c => gone c.who.team && !(c.flying && c.peerTeam.any (fun k => !gone k)))).map (fun c => c.id)
  let lost := fun (a : Asker) => match a with
    | .tld r => gone r.team
    | .seal r => gone r.team
    | .unseal r => gone r.team
    | .convert c => dead.contains c
    | .node _ _ => false
  let unsealed := s.sealing.filter (fun x => x.who.any (fun r => gone r.team))
  let asked := fun (ctx tid : Nat) => s.demands.any (fun d => d.ctx == ctx && d.tid == tid && !lost d.who &&
    (match d.who with | .tld _ => true | .convert _ => true | _ => false))
  let left := fun (ctx tid : Nat) => s.demands.any (fun d => d.ctx == ctx && d.tid == tid && lost d.who) && !asked ctx tid
  { s with
    cmds := s.cmds.filter (fun c => !dead.contains c.id)
    owned := s.owned.filter (fun p => !dead.contains p.2)
    mmas := s.mmas.filter (fun m => !gone m.team)
    demands := s.demands.filter (fun d => !lost d.who)
    sealing := s.sealing.filter (fun x => !unsealed.contains x)
    sealedRanges := s.sealedRanges.filter (fun r => !unsealed.any (fun x => x.ctx == r.ctx && x.tid == r.tid && x.member == r.member))
    contribs := s.contribs.filter (fun o => !left o.ctx o.tid)
    opened := s.opened.filter (fun o => o.acked || o.closing || !left o.ctx o.tid)
    remote := s.remote.filter (fun o => match o.who with | .engine c _ => !dead.contains c | _ => true) }

/-- An instance with no node reached and incomplete completes and releases its shares (05 R121). -/
def State.closeInstances (s : State) : State :=
  { s with insts := s.insts.filter (fun i => !i.runs.isEmpty) }

/-- The fault word and event code 3 that report a termination, or an instance refused at admission (03 R83, 14 R284 steps 5 and 6; log entry 86). -/
def State.reportTermination (s : State) (ctx va kind cause recSeq : Nat) : State :=
  s.report ctx va (faultWordOf kind cause ctx false recSeq) ((s.ctx? ctx).any (fun c => c.notifyTerm))

/-- The image slots of some teams are free again (14 R284 step 4). -/
def State.freeImages (s : State) (gone : Nat → Bool) : State :=
  let slots := (s.teams.filter (fun t => gone t.id)).map (fun t => t.image)
  s.updOs (fun o => { o with used := o.used.filter (fun p => p.2 == 0 || !slots.contains p) })

/-- Steps 1 to 4 of a termination (14 R284): the job's teams stop and are scrubbed, their commands and channels end, and the job reaches no successor; its instance is not reported as a deadline miss. -/
def State.stopJob (s : State) (job ctx : Nat) : State :=
  let gone := fun k => s.teams.any (fun t => t.id == k && t.job == job && t.ctx == ctx)
  let s1 := { s.freeImages gone with teams := s.teams.map (fun (t : Team) =>
      if gone t.id && t.state != TeamState.done then t.scrub .terminated s.aclk else t) }
  let broke := fun k => gone k && (s.team? k).any (fun t => t.state != TeamState.done)
  let s1 := ((s1.forgetFibres gone).breakChannels broke).dropCommands gone
  { s1 with insts := s1.insts.map (fun (x : Inst) =>
      if x.ctx == ctx && x.runs.any (fun r => r.job == job) then
        { x with runs := x.runs.filter (fun r => r.job != job), missed := true } else x) }

/-- Termination of a job (14 R284): its teams stop and are scrubbed, their commands and channels end, the record is written with terminated = 1, then the fault word, then the event. The job reaches no successor. -/
def State.terminateJob (s : State) (job ctx faultKind : Nat) (t : Option Team) (f : Option Fibre) (i : RecordInfo) : State :=
  let fw := match s.teams.find? (fun t => t.job == job && t.ctx == ctx) with
    | some t => t.kernel.faultWord
    | none => 0
  let (q, _, s1) := (s.stopJob job ctx).writeRecord ctx t f { i with terminated := true }
  let s1 := s1.closeInstances
  (s1.reportTermination ctx fw faultKind i.cause q).count ctx 0x74 1

/-! ### The words of a record (14 Table 14.2) -/

/-- The prefix of the present span and the words of the instruction a fibre stands at. -/
def recordWords (s : State) (tm : Team) (f : Fibre) : List Nat :=
  (match f.clause.bind (fun c => c.pfx) with | some p => [p.toNat] | none => []) ++
    instrWords s tm.ctx (dieOf tm f) f.pc.toNat

/-- A fibre notes the prefix over the instruction it has come to. -/
def Fibre.notePrefix (f : Fibre) : Fibre :=
  { f with pfxs := f.pfxs.filter (fun p => p.1 != f.pc.toNat) ++
      (match f.clause.bind (fun c => c.pfx) with | some p => [(f.pc.toNat, p)] | none => []) }

/-- The words of an instruction that a fibre issued earlier, at an address. -/
def issuedWords (s : State) (tm : Team) (f : Option Fibre) (pc : Nat) : List Nat :=
  ((f.elim [] (fun f => f.pfxs)).filter (fun p => p.1 == pc)).map (fun p => p.2.toNat) ++ instrWords s tm.ctx (dieOfWho tm f) pc

/-- The kind of the record of a trap that terminates its job: one of a cause that writes no record at its delivery is written as a termination (14 R277). -/
def endKind (cause : Nat) : Nat := if recordedCause cause then 0 else 3

/-! ### Handler entry (14 R280) -/

/-- The handler a cause enters (14 R279). -/
def Context.handlerOf (c : Context) (cause : Nat) : Nat :=
  if cause = 0x02 then c.emulHandler
  else if cause = 0x0E then c.preemptHandler
  else c.trapHandler

/-- The sixteen dwords of a handler frame (14 Table 14.4). -/
def frameDwords (f : Fibre) (e : TrapEntry) : List Dword :=
  let w := fun k => (e.words.getD k 0).toNat
  [ BitVec.ofNat 64 e.pc, BitVec.ofNat 64 e.skipPc, BitVec.ofNat 64 e.clausePc,
    BitVec.ofNat 64 ((predWord f.pred).toNat + f.fmode.toNat * 2 ^ 32 + f.fflags.toNat * 2 ^ 48),
    f.lk.setWidth 64, f.reg 0, f.reg 1, f.reg 2, f.reg 3,
    BitVec.ofNat 64 (w 0 + w 1 * 2 ^ 32), BitVec.ofNat 64 (w 2 + w 3 * 2 ^ 32),
    BitVec.ofNat 64 e.cause, 0, 0, 0, 0 ]

/-- The sealed slot a store to a virtual address would hit (11 R238). -/
def State.sealHit (s : State) (ctx va n : Nat) : Bool :=
  s.sealedRanges.any (fun r => r.ctx == ctx && decide (r.lo < va + n ∧ va < r.hi))

/-- Where a plain store of 8 bytes goes, with the checks of 04 Table 4.6 and of the seals. -/
def storePlace (s : State) (ctx die va n : Nat) : Except Trap Loc :=
  match translate s ctx die 0 va .store false with
  | .trap t => .error t
  | .nonres => .error (mkTrap 0x04 0 (va))
  | .ok l => if s.sealHit ctx va n then .error (mkTrap 0x14 0 (va)) else .ok (l.loc va)

/-- The places of the sixteen frame stores, or the first fault. -/
def framePlaces (s : State) (ctx die va : Nat) : Nat → Except Trap (List Loc)
  | 0 => .ok []
  | n + 1 =>
    match storePlace s ctx die va 8 with
    | .error t => .error t
    | .ok l =>
      match framePlaces s ctx die (va + 8) n with
      | .error t => .error t
      | .ok ls => .ok (l :: ls)

/-- A plain store. -/
def plain : Strength := ⟨false, 0, 0⟩

/-- Append dword stores to a fibre's store queue. -/
def Fibre.queueDwords (f : Fibre) (ls : List Loc) (vs : List Dword) : Fibre :=
  (ls.zip vs).foldl (fun f p =>
    { f with
      sq := f.sq ++ [⟨.write p.1 ((bytesOf p.2 8).map some), plain, f.seq, f.pc.toNat⟩]
      seq := f.seq + 1 }) f

/-- The frame's words that hold a struck register carry its poison (08 R184). -/
def Fibre.queuePoison (f : Fibre) (ls : List Loc) : Fibre :=
  (((ls.drop 5).take 4).zip (List.range 4)).foldl (fun f p =>
    if f.spoilt.contains p.2 then
      { f with sq := f.sq ++ [⟨.poison p.1, plain, f.seq, f.pc.toNat⟩], seq := f.seq + 1 }
    else f) f

/-- The first of some instruction words is that of a long-latency instruction. -/
def longWords (ws : List Word32) : Bool :=
  match decodeForm (ws.getD 0 0).toNat (ws.getD 1 0).toNat (ws.getD 2 0).toNat (ws.getD 3 0).toNat with
  | .ok i => !ws.isEmpty && isLong i
  | .error _ => false

/-- A handler can be entered at an address: mapped and executable (14 R280). -/
def handlerUsable (s : State) (ctx die h : Nat) : Option Trap :=
  match fetchWord s ctx die h with
  | .ok _ => none
  | .error t => some t

/-- A trap taken in a handler, or an entry that fails, terminates the job (14 R281, R280). -/
def State.trapInHandler (s : State) (r : FibreRef) (t : Trap) (noHandler : Bool) : State :=
  match s.team? r.team with
  | none => s
  | some tm =>
    let f := tm.fibre? r.fibre
    let s := if t.cause = 0x14 then s.count tm.ctx 0x52 1 else s
    let pc := match f with | some f => f.pc.toNat | none => 0
    (s.countCause t.cause (dieOfWho tm f)).terminateJob tm.job tm.ctx 2 (some tm) f
      { kind := endKind t.cause, cause := t.cause, detail := t.detail, engine := 0, inHandler := true, noHandler := noHandler,
        terminated := true, pc := pc, issuePc := 0, addr := t.addr,
        words := f.elim [] (recordWords s tm), list := [], more := 0 }

/-- Steps 2 to 5 of handler entry: frame stores, csp, g0 to g3, predicates, fmode, pc and the in-a-handler mark (14 R280). -/
def State.enterHandler (s : State) (r : FibreRef) : State :=
  match s.team? r.team with
  | none => s
  | some tm =>
    match tm.fibre? r.fibre, s.ctx? tm.ctx with
    | some f, some c =>
      (match f.entering with
       | none => s
       | some e =>
         let h := c.handlerOf e.cause
         let fp := (f.csp.toNat + 2 ^ 52 - 128) % 2 ^ 52
         if f.csp.toNat % 8 ≠ 0 then s.trapInHandler r (.misaligned f.csp.toNat) false
         else if h = 0 then s.trapInHandler r (.unmapped 0) true
         else
           match handlerUsable s tm.ctx (dieOf tm f) h with
           | some t => s.trapInHandler r t true
           | none =>
             match framePlaces s tm.ctx (dieOf tm f) fp 16 with
             | .error t => s.trapInHandler r t false
             | .ok ls =>
               let s := s.count tm.ctx (if e.cause = 0x02 then 0x72 else 0x70) (if e.cause = 0x0E then 0 else 1)
               s.updFibre r (fun f =>
                 let f := (f.queueDwords ls (frameDwords f e)).queuePoison ls
                 { ((((f.setReg 0 (BitVec.ofNat 64 fp)).setReg 1 (BitVec.ofNat 64 e.cause)).setReg 2
                      (BitVec.ofNat 64 e.recAddr)).setReg 3 (BitVec.ofNat 64 e.addr)) with
                   csp := BitVec.ofNat 52 fp
                   pred := 1
                   fmode := 0
                   pc := BitVec.ofNat 52 h
                   clause := none
                   status := .ready
                   since := s.aclk
                   entering := none
                   handler := some ⟨e.cause, e.pc, e.skipPc, e.clause, longWords e.words⟩ }))
    | _, _ => s

/-- A place lies in a near-core slot. -/
def NearSlot.has (x : NearSlot) (l : Loc) : Bool :=
  match l with
  | .near k c i _ => k == x.stack && c == x.core && i == x.slot
  | _ => false

/-- A command writes into a near-core slot. -/
def Cmd.writesSlot (c : Cmd) (x : NearSlot) : Bool :=
  (match c.kind with | .scan _ _ _ _ l _ _ => x.has l | .walk _ _ _ l => x.has l | _ => false) ||
  c.stages.any (fun g => g.chunks.any (fun k => match k.out with | .write l => x.has l | .nibble l _ => x.has l | _ => false))

/-- A command counts its landing at a barrier of a near-core slot. -/
def Cmd.landsIn (c : Cmd) (x : NearSlot) : Bool := match c.target with | .bar l => x.has l | _ => false

/-- The commands of a fibre whose results or landings come to its near-core slot. -/
def State.slotCommands (s : State) (r : FibreRef) : List Cmd :=
  match s.near.find? (fun n => n.who == r) with
  | none => []
  | some x => s.cmds.filter (fun c => c.who == r && (c.writesSlot x || c.landsIn x))

/-- A fibre leaves its near-core slot, which is zeroed (10 R222): a command that is still to write in the slot is dropped, since the slot's next fibre may be of another context; one that only lands there goes on without its barrier. -/
def State.leaveSlot (s : State) (r : FibreRef) : State :=
  match s.near.find? (fun n => n.who == r) with
  | none => s
  | some x =>
    let lost := fun (c : Cmd) => c.who == r && c.writesSlot x
    let dead := (s.cmds.filter lost).map (fun c => c.id)
    { s with
      near := s.near.filter (fun n => n.who != r)
      bars := s.bars.filter (fun b => !x.has b.obj)
      cmds := (s.cmds.filter (fun c => !lost c)).map (fun (c : Cmd) => if c.who = r ∧ c.landsIn x then { c with target := .none } else c)
      owned := s.owned.filter (fun p => !dead.contains p.2) }

/-- The entry under way is made on the fibre's core; that of an emulation handler on the service slot it was called for on (10 R224, R225). -/
def Fibre.entersHere (f : Fibre) : Bool :=
  match f.away, f.entering with
  | none, some _ => true
  | some (.service _ _ _), some e => e.cause == 0x02
  | _, _ => false

/-- The entry under way is completed once the completion counters are 0 (14 R280 step 1). A fibre on a near core or a service slot first goes home as by HOP.home, with its earlier accesses performed (10 R225, R226). -/
def State.tryEnter (s : State) (r : FibreRef) : State :=
  match s.fibre? r with
  | none => s
  | some f =>
    if f.entering.isNone || !f.cfZero then s
    else if f.entersHere then s.enterHandler r
    else if f.stack?.isSome && f.ll.isEmpty && f.sq.isEmpty then
      (s.leaveSlot r).updFibre r (fun f => { f with away := some .homeward })
    else s

/-- Start an entry: the fibre waits for its counters and enters; it is no longer blocked at a send. -/
def State.beginEntry (s : State) (r : FibreRef) (e : TrapEntry) : State :=
  ((s.endPermitWaits (fun x => x == r)).updFibre r (fun f => { f with entering := some e, status := .ready })).tryEnter r

/-- TAKING A TRAP: a precise trap of fibre `r` (14 R275, R277, R280, R281, R284), its event counted elsewhere. The record is written at once; in a handler, or with no handler, the job is terminated; otherwise the fibre enters its handler as soon as its counters are 0. An entry whose handler address is 0 is a trap taken in a handler (R280; log entry 8). A fault away from the core is delivered on the originating core (10 R225). -/
def State.trapAt (s : State) (r : FibreRef) (t : Trap) (list : List ListEntry) (more : Nat) : State :=
  match s.team? r.team with
  | none => s
  | some tm =>
    match tm.fibre? r.fibre with
    | none => s
    | some f =>
      let s := if t.cause = 0x14 then s.count tm.ctx 0x52 1 else s
      let words := recordWords s tm f
      let body := instrWords s tm.ctx (dieOf tm f) f.pc.toNat
      let len := match body with | w :: _ => lengthOf w | [] => 1
      let info : RecordInfo := { kind := 0, cause := t.cause, detail := t.detail, engine := if t.issuePc = 0 then 0 else 8, inHandler := f.handler.isSome, noHandler := false, terminated := false, pc := f.pc.toNat, issuePc := t.issuePc, addr := t.addr, words := words, list := list, more := more }
      let h := match s.ctx? tm.ctx with | some c => c.handlerOf t.cause | none => 0
      if f.handler.isSome then s.terminateJob tm.job tm.ctx 2 (some tm) (some f) { info with kind := endKind t.cause }
      else if h = 0 then s.terminateJob tm.job tm.ctx 2 (some tm) (some f) { info with kind := endKind t.cause, inHandler := true, noHandler := true }
      else
        let (_, a, s) := if recordedCause t.cause then s.writeRecord tm.ctx (some tm) (some f) info else (0, 0, s)
        let skip := match f.clause with
          | some _ => skipOf f len
          | none => (match body with | w :: _ => f.pc.toNat + 4 * (w % 16 + 1) | [] => f.pc.toNat + 4)
        s.beginEntry r
          { cause := t.cause, recAddr := a, addr := t.addr, pc := f.pc.toNat, skipPc := skip,
            clausePc := f.clauseHead, words := body.map (BitVec.ofNat 32), clause := f.clause }

/-- A precise trap of fibre `r`, counted (14 R286) and taken. -/
def State.raiseAt (s : State) (r : FibreRef) (t : Trap) (list : List ListEntry) (more : Nat) : State :=
  match s.team? r.team with
  | none => s
  | some tm => (s.countCause t.cause (dieOfWho tm (tm.fibre? r.fibre))).trapAt r t list more

/-- Set overflow in a trap record already written (14 R275, Table 14.2 bit 299). -/
def State.setOverflow (s : State) (ctx rec : Nat) : State :=
  match translate s ctx 8 0 (rec + 37) .store false with
  | .ok l =>
    (match l.loc (rec + 37) with
     | .mem m => s.writeHome m ((s.physBytes m.pa 1).map (fun b => some (b ||| 8))) .other ctx .outside
     | _ => s)
  | _ => s

/-- Mark an asynchronous fault pending in a fibre; the sixteenth only sets overflow in the record of the fifteenth (14 R275). -/
def State.markFault (s : State) (r : FibreRef) (ctx : Nat) (a : AsyncFault) : State :=
  match s.fibre? r with
  | none => s
  | some f =>
    if f.faults.length < 15 then s.updFibre r (fun f => { f with faults := f.faults ++ [a] })
    else s.setOverflow ctx (f.faults.getLastD a).recAddr

/-- RaiseAsync without the count: an asynchronous fault (kind 1) or a machine check at completion (kind 2) of fibre `r`'s instruction at `pc` (14 R275): the record, then the fault pending in the fibre, or in the lowest-indexed live one of its team; with none the job is terminated; a sixteenth is not delivered separately, so it writes no record of its own (14 R277). A team that YIELD.restart has discarded is found by its number: the fault goes to a fibre of it on its way home, or with none ends the job (log entry 96). -/
def State.deliverAsync (s : State) (r : FibreRef) (kind cause detail engine pc addr : Nat) (on : Option Loc) : State :=
  match s.team? r.team with
  | none => s
  | some tm =>
    let f := tm.fibre? r.fibre
    let info : RecordInfo := { kind := kind, cause := cause, detail := detail, engine := engine, inHandler := false, noHandler := false, terminated := false, pc := pc, issuePc := pc, addr := addr, words := issuedWords s tm f pc, list := [], more := 0 }
    let who := match f with
      | some g => if g.live then some g else tm.fibres.find? Fibre.live
      | none => tm.fibres.find? Fibre.live
    match who with
    | none => s.terminateJob tm.job tm.ctx 2 (some tm) f { info with terminated := true }
    | some g =>
      if 15 ≤ g.faults.length then s.setOverflow tm.ctx (g.faults.getLastD ⟨cause, 0, addr, false, none⟩).recAddr
      else
        let (_, a, s) := s.writeRecord tm.ctx (some tm) f info
        s.markFault ⟨tm.id, g.idx⟩ tm.ctx ⟨cause, a, addr, false, on⟩

/-- RaiseAsync: counted (14 R286) and delivered. -/
def State.raiseAsync (s : State) (r : FibreRef) (kind cause detail engine pc addr : Nat) (on : Option Loc) : State :=
  match s.team? r.team with
  | none => s
  | some tm => (s.countCause cause (dieOfWho tm (tm.fibre? r.fibre))).deliverAsync r kind cause detail engine pc addr on

/-- A pending asynchronous fault is taken: the handler entry at the point `pc`, which is also the skip point (14 R275, R282); with no handler the job is terminated (14 R284). -/
def State.takeAsync (s : State) (r : FibreRef) : State :=
  match s.team? r.team with
  | none => s
  | some tm =>
    match tm.fibre? r.fibre with
    | none => s
    | some f =>
      match f.faults with
      | [] => s
      | a :: rest =>
        let s := (s.updFibre r (fun f => { f with faults := rest })).count tm.ctx 0x71 1
        let h := match s.ctx? tm.ctx with | some c => c.handlerOf a.cause | none => 0
        if h = 0 then s.terminateJob tm.job tm.ctx 2 (some tm) (some f)
          { kind := 3, cause := a.cause, detail := 0, engine := 0, inHandler := true, noHandler := true, terminated := true,
            pc := f.pc.toNat, issuePc := 0, addr := a.addr, words := recordWords s tm f, list := [], more := 0 }
        else s.beginEntry r
          { cause := a.cause, recAddr := a.recAddr, addr := a.addr, pc := f.pc.toNat, skipPc := f.pc.toNat,
            clausePc := f.clauseHead, words := (instrWords s tm.ctx (dieOf tm f) f.pc.toNat).map (BitVec.ofNat 32), clause := f.clause }

/-- A team interrupt is taken by a fibre: cause 0x0D or 0x0E, no record (14 R277, R279; 06 R135). -/
def State.takeInterrupt (s : State) (r : FibreRef) (cause : Nat) : State :=
  match s.team? r.team with
  | none => s
  | some tm =>
    match tm.fibre? r.fibre with
    | none => s
    | some f =>
      (s.updTeam r.team (fun t => { t with
        budgetTrap := if cause = 0x0D then false else t.budgetTrap
        preemptTrap := if cause = 0x0E then false else t.preemptTrap })).beginEntry r
        { cause := cause, recAddr := 0, addr := 0, pc := f.pc.toNat, skipPc := f.pc.toNat,
          clausePc := f.clauseHead, words := (instrWords s tm.ctx (dieOf tm f) f.pc.toNat).map (BitVec.ofNat 32), clause := f.clause }

/-! ### Running one meaning -/

/-- Why a meaning does not pass its instruction: a trap with nothing written, a trap that it has taken itself, a state of its own (a fibre that blocks, jumps, ends or must wait), or a model fault. -/
inductive Stop where
  | trap (t : Trap)
  | took (t : Trap) (s : State)
  | hold (s : State)
  | stuck (f : Fault)

/-- What a meaning answers: the state in which the instruction has had its effect, or why it has not passed. -/
abbrev Act := Except Stop State

/-- The registers, predicates and tiles an instruction names, and whether a near core executes it. -/
structure Uses where
  rd : List Nat := []
  wr : List Nat := []
  prd : List Nat := []
  pwr : List Nat := []
  tiles : List Nat := []
  near : Bool := true
  long : Bool := false
  /-- Registers of a payload that it reads; past the window they are illegal at the fibre's pc (16 R335). -/
  payload : List Nat := []
  /-- Registers among those read whose value a store carries to memory with its poison (08 R184, 17 R346). -/
  data : List Nat := []
  /-- The accumulator tile it names; one outside the team is illegal (19 R407). -/
  tileOf : Option Nat := none

/-- The registers it reads. -/
def Uses.reads (u : Uses) : List Nat := u.rd ++ u.payload

/-- The unwaited hazard of 15 R297: a register, predicate or tile whose long-latency write is outstanding. -/
def Fibre.hazard (f : Fibre) (u : Uses) : Bool :=
  f.ll.any (fun op =>
    op.regs.any (fun r => u.reads.contains r || u.wr.contains r) ||
    op.preds.any (fun p => u.prd.contains p || u.pwr.contains p) ||
    op.tiles.any (fun t => u.tiles.contains t))

/-- The fibre is back at an MMA that issued while it was in a handler: it passes on without executing it (06 R135). -/
def Fibre.passedHere (f : Fibre) : Bool :=
  f.handler.isNone && (match f.held with | some (.passed at_) => at_ == f.pc.toNat | _ => false)

/-- A fibre on a near core meets an instruction outside the near profile: it leaves its slot for a service slot (10 R224 steps 1 and 2), counted (14 Table 14.6). -/
def State.beginReturnTrap (s : State) (r : FibreRef) (_stack : Nat) : State :=
  (s.updFibre r (fun f => { f with away := match f.away with
    | some (.near k c n) => some (.shipping k c n)
    | a => a })).count ((s.team? r.team).elim 0 (fun t => t.ctx)) 0x73 1

/-- The priority of a cause: the lowest one of several conditions of an instruction is raised (14 Table 14.1, R274). -/
def causeRank (cause : Nat) : Nat :=
  if cause = 0x01 then 2
  else if cause = 0x02 then 3
  else if cause = 0x07 then 4
  else if cause = 0x17 then 5
  else if cause = 0x05 then 6
  else if cause = 0x03 ∨ cause = 0x04 ∨ cause = 0x06 ∨ cause = 0x18 ∨ cause = 0x1C then 7
  else if cause = 0x12 then 9
  else if cause = 0x0F ∨ cause = 0x10 ∨ cause = 0x11 then 10
  else 8

/-- Of a condition that the instruction meets before its own and what the meaning answers, the one that comes first is raised (14 R274). -/
def State.raiseFirst (s : State) (r : FibreRef) (a : Act) (t : Trap) : State :=
  match a with
  | .error (.trap x) => s.raiseAt r (if causeRank x.cause < causeRank t.cause then x else t) [] 0
  | .error (.took x s') => if causeRank x.cause < causeRank t.cause then s' else s.raiseAt r t [] 0
  | _ => s.raiseAt r t [] 0

/-- The completion counter of a long-latency instruction is 15: it waits to issue (15 R295). One that has issued or signed already, while its fibre was in a handler, does not (06 R135). -/
def counterFull (u : Uses) (f : Fibre) : Bool := u.long && f.held.isNone && f.counter.any (fun c => decide (15 ≤ f.cf.getD c 0))

/-- One instruction of the current fibre: the register window (15 R298, 10 R223), the near profile, the unwaited hazard (15 R297), the poison of a register it reads (08 R183, R184; log entry 92), then the meaning; an instruction that has had its effect is passed, a trap is taken at it; a long-latency one whose counter is 15 has no effect yet and waits (15 R295). -/
def isa (len : Nat) (u : Uses) (body : FibreRef → Team → Fibre → State → Act) (s : State) :
    Host.Outcome State Fault Refusal :=
  match s.current with
  | none => .fault .noFibre
  | some (r, t, f) =>
    if (u.rd ++ u.wr).any (fun n => decide (windowOf t f ≤ n)) || u.tileOf.any (fun k => decide (t.kernel.accTiles ≤ k)) then
      .next (s.raiseAt r .illegal [] 0)
    else if u.payload.any (fun n => decide (windowOf t f ≤ n)) then .next (s.raiseAt r (mkTrap 0x01 0 f.pc.toNat) [] 0)
    else
      match f.nearSlot, u.near with
      | some (k, _, _), false => .next (s.beginReturnTrap r k)
      | _, _ =>
        if f.hazard u && !f.passedHere then .next (s.raiseFirst r (body r t f s) (mkTrap 0x07 0 0))
        else if u.reads.any (fun n => f.spoilt.contains n && !u.data.contains n) then .next (s.raiseFirst r (body r t f s) (mkTrap 0x12 0 0))
        else
          match body r t f s with
          | .ok s' => .next (if counterFull u f then s else s'.updFibre r (fun f => f.pass len u.long s.aclk))
          | .error (.trap t) => .next (s.raiseAt r t [] 0)
          | .error (.took _ s') => .next s'
          | .error (.hold s') => .next (if counterFull u f then s else s')
          | .error (.stuck e) => .fault e

/-- A device step: it always has a next state. -/
def device (s : State) : Host.Outcome State Fault Refusal := .next s

/-- The body of an instruction that only changes the fibre's own registers. -/
def onFibre (g : Fibre → Fibre) : FibreRef → Team → Fibre → State → Act :=
  fun r _ _ s => .ok (s.updFibre r g)

/-- The instruction waits: nothing has happened yet. -/
def wait (s : State) : Act := .error (.hold s)

/-! ### Issue of long-latency instructions and stores -/

/-- Issue a long-latency instruction: it waits while its counter is 15, then counts up and stands outstanding (15 R295). -/
def issueLong (r : FibreRef) (f : Fibre) (len : Nat) (k : LongKind) (regs preds tiles : List Nat) (s : State) : Act :=
  match f.counter with
  | some c =>
    if 15 ≤ f.cf.getD c 0 then wait s
    else .ok (s.updFibre r (fun f =>
      { f.countUp (some c) with
        ll := f.ll ++ [⟨k, some c, regs, preds, tiles, f.seq, f.pc.toNat, len, s.aclk⟩]
        seq := f.seq + 1 }))
  | none => .ok (s.updFibre r (fun f =>
      { f with
        ll := f.ll ++ [⟨k, none, regs, preds, tiles, f.seq, f.pc.toNat, len, s.aclk⟩]
        seq := f.seq + 1 }))

/-- Put an operation in the fibre's store queue (09 R191). -/
def queueStore (r : FibreRef) (k : StoreKind) (st : Strength) (s : State) : State :=
  s.updFibre r (fun f => { f with sq := f.sq ++ [⟨k, st, f.seq, f.pc.toNat⟩], seq := f.seq + 1 })

/-! ### Serving loads through the fibre's own store queue (09 Table 9.3) -/

/-- The address of a place, for comparing places: memory, team scratchpads, near-core slots, remote windows. -/
def Loc.key : Loc → Nat × Nat × Nat
  | .mem m => (0, 0, m.pa)
  | .scr t o => (1, t, o)
  | .near k c n o => (2, k * 2 ^ 16 + c * 2 ^ 8 + n, o)
  | .remote h w o => (3, (if h then 1 else 0) + 2 * w, o)

/-- The place `n` bytes further. -/
def Loc.plus : Loc → Nat → Loc
  | .mem m, n => .mem { m with pa := m.pa + n, va := m.va + n }
  | .scr t o, n => .scr t (o + n)
  | .near k c s o, n => .near k c s (o + n)
  | .remote h w o, n => .remote h w (o + n)

def StoreKind.loc : StoreKind → Loc
  | .write l _ => l
  | .nibble l _ _ => l
  | .atomic l _ _ _ _ => l
  | .redf l _ _ _ => l
  | .fill l _ => l
  | .fillEmpty l => l
  | .cntdn l _ => l
  | .poison l => l

/-- Bytes from its place up that a queued operation may write. -/
def StoreKind.size : StoreKind → Nat
  | .write _ bs => bs.length
  | .nibble _ _ _ => 1
  | .atomic _ _ n _ _ => n
  | .redf _ _ _ _ => 4
  | _ => 8

/-- Two places lie in one memory word. -/
def sameWord (a b : Loc) : Bool :=
  a.key.1 == b.key.1 && a.key.2.1 == b.key.2.1 && a.key.2.2 / 8 == b.key.2.2 / 8

/-- A queued operation acts on the memory word of a place. -/
def StoreKind.inWord (k : StoreKind) (l : Loc) : Bool :=
  match k with
  | .write a bs =>
    a.key.1 == l.key.1 && a.key.2.1 == l.key.2.1 && decide (a.key.2.2 / 8 ≤ l.key.2.2 / 8 ∧ l.key.2.2 / 8 ≤ (a.key.2.2 + bs.length - 1) / 8)
  | k => sameWord k.loc l

/-- The byte a queued store will put at a place, if it writes it. -/
def StoreKind.byteAt (k : StoreKind) (l : Loc) : Option Byte :=
  match k with
  | .write a bs =>
    if a.key.1 = l.key.1 ∧ a.key.2.1 = l.key.2.1 ∧ a.key.2.2 ≤ l.key.2.2 then
      (bs.getD (l.key.2.2 - a.key.2.2) none) else none
  | _ => none

/-- The youngest queued byte for a place. -/
def queuedByte (sq : List StoreOp) (l : Loc) : Option Byte :=
  sq.foldl (fun acc op => match op.kind.byteAt l with | some b => some b | none => acc) none

/-- A queued operation of the same memory word whose result is not known before it is performed. -/
def queueBlocks (sq : List StoreOp) (l : Loc) : Bool :=
  sq.any (fun op =>
    match op.kind with
    | .write _ _ => false
    | k => sameWord k.loc l)

/-- The scratchpad bytes of a team, with the poison of the word. -/
def scratchRead (s : State) (t o n : Nat) : List Byte × Bool :=
  match s.team? t with
  | some t => (sparseBytes t.scratch o n, t.scratchPoison.contains (o / 8))
  | none => (List.replicate n 0, false)

/-- The bytes of a near-core slot's scratchpad. -/
def nearRead (s : State) (k c i o n : Nat) : List Byte × Bool :=
  match s.near.find? (fun x => x.stack == k && x.core == c && x.slot == i) with
  | some x => (sparseBytes x.scratch o n, x.poison.contains (o / 8))
  | none => (List.replicate n 0, false)

/-- At most 8 bytes of one memory word, read where the load's row of 09 Table 9.3 says; a remote place is not read here. -/
def State.readPlace (s : State) (core : Option CoreId) (die ctx : Nat) (l : Loc) (n : Nat) (st : Strength) :
    (List Byte × Bool) × State :=
  match l with
  | .mem m =>
    let ((v, p), s) := s.serveWord core die m ctx st
    ((wordBytes v (m.pa % 8) n, p), s)
  | .scr t o => (scratchRead s t o n, s)
  | .near k c i o => (nearRead s k c i o n, s)
  | .remote _ _ _ => ((List.replicate n 0, false), s)

/-- A load of at most 8 bytes through the fibre's own store queue. -/
def State.loadPlace (s : State) (t : Team) (f : Fibre) (l : Loc) (n : Nat) (st : Strength) :
    (List Byte × Bool) × State :=
  let ((bs, p), s) := s.readPlace (coreOf t f) (dieOf t f) t.ctx l n st
  (((List.range n).map (fun i => (queuedByte f.sq (l.plus i)).getD (bs.getD i 0)), p), s)

/-! ### Returning from a trap (14 R282, R283; 16 R340) -/

/-- The clause at `h` passes the check of 15 R290, or the fetch fault of one of its words. -/
def clauseAt (s : State) (ctx die h : Nat) : Except Trap (Option Nat) :=
  match fetchWord s ctx die h with
  | .error t => .error t
  | .ok hdr =>
    let n := bitsOf hdr 0 4
    match (List.range n).mapM (fun k => fetchWord s ctx die (h + 4 + 4 * k)) with
    | .error t => .error t
    | .ok ws => .ok (if clauseValid hdr ws then some hdr else none)

/-- The point where RFT resume continues (14 R282, Table 14.1): causes marked "As skip" and interrupts go on past the instruction. -/
def resumesAsSkip (cause : Nat) : Bool := cause == 0x13 || cause == 0x17 || cause == 0x1C

/-- Position inside the clause after resuming at the original point, or past it. -/
def resumeClause (m : HandlerMark) (skip : Bool) (long : Bool) : Option Clause :=
  if skip && m.skipPc != m.pc then m.clause.bind (fun c => if c.after ≤ m.skipPc then none else some (c.past long))
  else m.clause

/-- A fibre that returns elsewhere withdraws its signature of a convergence register (06 R135, log entry 35). -/
def Team.withdrawSigner (t : Team) (f : Fibre) (again : Bool) : Team :=
  match f.held, again with
  | some (.signed k), false =>
    { t with cv := (List.range t.cv.length).zip t.cv |>.map (fun p =>
        if p.1 = k then
          (if p.2.signers.all (fun i => i == f.idx) then { p.2 with signers := [], words := [], vals := [] }
           else { p.2 with signers := p.2.signers.filter (fun i => i != f.idx) })
        else p.2) }
  | _, _ => t

/-- A held result, arrival or signature is kept only when the fibre comes back to its instruction (06 R135). -/
def Fibre.keepHeld (f : Fibre) (again : Bool) : Fibre := if again then f else { f with held := none }

/-- A reserved field of the sixteen dwords of a frame is not zero (14 Table 14.4, 00 R11). -/
def frameReserved (vs : List Dword) : Bool :=
  let v := fun k => (vs.getD k 0).toNat
  decide (2 ^ 52 ≤ v 0 ∨ 2 ^ 52 ≤ v 1 ∨ 2 ^ 52 ≤ v 2 ∨ 2 ^ 52 ≤ v 4 ∨ 2 ^ 8 ≤ v 11) || (vs.drop 12).any (fun d => d != 0)

/-- The word at an address of a page of class peer or host is read for a fibre, once (04 Table 4.6, last row). -/
def State.askWord (s : State) (r : FibreRef) (t : Team) (f : Fibre) (a : Nat) : State :=
  match translate s t.ctx (dieOf t f) 0 a .fetch false with
  | .ok l =>
    (match l.loc a with
     | .remote h w o => if s.remote.any (fun x => x.who == RemoteWho.fetch r && x.off == o) then s else s.send h t.ctx w o (.read 4) (.fetch r)
     | _ => s)
  | _ => s

/-- The point where RFT resume or skip continues in a handler entered with mark `m`, for the frame's pc: the original pc, or a clause header (14 R282). -/
def framePc (s : State) (r : FibreRef) (t : Team) (f : Fibre) (m : HandlerMark) (pc : Nat) : Except Stop Unit :=
  if pc = m.pc then .ok ()
  else if pc % 4 ≠ 0 then .error (.trap .illegal)
  else
    match clauseAt s t.ctx (dieOf t f) pc with
    | .ok (some _) => .ok ()
    | .ok none => .error (.trap .illegal)
    | .error e => .error (if e.cause = 0 then .hold (s.askWord r t f e.addr) else .trap .illegal)

/-- RETURNING FROM A TRAP: RFT with resume, skip or kill (mode 0, 1, 2), for a fibre in a handler, with the sixteen dwords of its frame. A frame with a nonzero reserved field is an invalid record (00 R11; log entry 85). -/
def returnFromTrap (mode : Nat) (vs : List Dword) (r : FibreRef) (t : Team) (f : Fibre) (s : State) : Act :=
  match f.handler with
  | none => .error (.trap .illegal)
  | some m =>
        let v := fun k => vs.getD k 0
        let cause := (v 11).toNat % 256
        if frameReserved vs then .error (.trap (mkTrap 0x18 0 f.csp.toNat))
        else if mode = 2 then
          .error (.hold (s.terminateJob t.job t.ctx 3 (some t) (some f)
            { kind := 3, cause := cause, detail := 0, engine := 0, inHandler := true, noHandler := false, terminated := true,
              pc := f.pc.toNat, issuePc := 0, addr := 0, words := recordWords s t f, list := [], more := 0 }))
        else
          let pc := (v 0).toNat % 2 ^ 52
          let skip := mode == 1 || resumesAsSkip m.cause
          let target := if mode = 1 then m.skipPc else if pc = m.pc then (if skip then m.skipPc else m.pc) else pc
          match framePc s r t f m pc with
          | .error e => .error e
          | .ok _ =>
            let moved := mode != 1 && pc != m.pc
            let again := !moved && !skip
            .error (.hold ((s.updTeam r.team (fun t => t.withdrawSigner f again)).updFibre r (fun f =>
              let f := { (((f.setReg 0 (v 5)).setReg 1 (v 6)).setReg 2 (v 7)).setReg 3 (v 8) with
                pred := predWord (BitVec.ofNat 32 ((v 3).toNat % 2 ^ 32))
                fmode := BitVec.ofNat 16 ((v 3).toNat / 2 ^ 32) &&& 0x00FB
                fflags := BitVec.ofNat 16 ((v 3).toNat / 2 ^ 48) &&& 0x001F
                lk := BitVec.ofNat 52 (v 4).toNat
                csp := BitVec.ofNat 52 (f.csp.toNat + 128)
                handler := none
                since := s.aclk
                pc := BitVec.ofNat 52 target
                clause := if moved then none else resumeClause m skip m.long }
              f.keepHeld again)))

end Sys2Proof.Machine
end

