-- ==== Sys2Proof/Machine/Operands.lean ====
section
/-! DEFINITION. The operand forms: effective addresses (15 R309), the resolution of an address in each space with the checks of its rule, type-dependent readings of a register, and the immediates. -/

namespace Sys2Proof.Machine

/-! ### Immediates and readings (15 R299, Table 15.10) -/

/-- ImmS of a field. -/
def immS {n : Nat} (x : BitVec n) : Int := signedOf n x.toNat

/-- The low `n` bits of a register, as an unsigned number. -/
def lowNat (n : Nat) (v : Dword) : Nat := v.toNat % 2 ^ n

/-- The low `n` bits of a register, read as signed or unsigned. -/
def lowInt (n : Nat) (signed : Bool) (v : Dword) : Int :=
  if signed then signedOf n (lowNat n v) else (lowNat n v : Int)

/-- A number of at most 64 bits as a register value. -/
def ofNat64 (v : Nat) : Dword := BitVec.ofNat 64 v

/-- Sat of an exact integer to `n` bits (13 R263). -/
def satInt (n : Nat) (signed : Bool) (x : Int) : Int :=
  if signed then max (-(2 ^ (n - 1))) (min x (2 ^ (n - 1) - 1)) else max 0 (min x (2 ^ n - 1))

/-- EffAddr of format M: base plus the signed offset scaled by `scale`, wrapping (15 R309). -/
def effAddr (base : Dword) (off : BitVec 6) (scale : Nat) : Nat :=
  (base + wrap64 (immS off * scale)).toNat

/-- Access size in bytes of a size code (15 R302). -/
def sizeBytes (z : Nat) : Nat := 2 ^ z

/-! ### Places (15 R309) -/

/-- Bytes of one L1 way (08 Table 8.1). -/
def wayBytes (mcore : Bool) : Nat := if mcore then 524288 else 131072

/-- The team's scratchpad allocation in bytes (08 R167). -/
def Team.allocBytes (t : Team) : Nat := t.alloc * wayBytes t.kernel.mcore

/-- Bytes of a near-core slot's scratchpad (10 R222). -/
def slotBytes : Nat := 4096

/-- Address fault that meets no page: a scratchpad or cluster access (04 R87), metadata, a range; neither permission nor unmapped (14 Table 14.2, log entry 10). -/
def Trap.extent (a : Nat) : Trap := (mkTrap 0x03 0 (a))

/-- The team that a cluster member index names for a team: itself in the cluster and not ended (04 R87, 06 R140). -/
def State.member? (s : State) (t : Team) (m : Nat) : Option Team :=
  match t.cluster with
  | some c => s.teams.find? (fun x => x.cluster == some c && x.member == m && x.state != TeamState.done && x.state != TeamState.terminated)
  | none => if m = t.member then some t else none

/-- A scratchpad place of `n` bytes (04 R87; on a near core the fibre's own slot, 10 R222). -/
def scratchPlace (t : Team) (f : Fibre) (a n : Nat) : Except Trap Loc :=
  match f.nearSlot with
  | some (k, c, i) => if a + n ≤ slotBytes then .ok (.near k c i a) else .error (.extent a)
  | none => if a + n ≤ t.allocBytes then .ok (.scr t.id a) else .error (.extent a)

/-- A cluster-scratchpad place: member in bits [27:24], offset in bits [23:0] (04 Table 4.1, R87). -/
def clusterPlace (s : State) (t : Team) (f : Fibre) (a n : Nat) : Except Trap Loc :=
  if f.nearSlot.isSome then .error (.extent a)
  else if 2 ^ 28 ≤ a then .error (.extent a)
  else
    match s.member? t (a / 2 ^ 24) with
    | some m => if a % 2 ^ 24 + n ≤ m.allocBytes then .ok (.scr m.id (a % 2 ^ 24)) else .error (.extent a)
    | none => .error (.extent a)

/-- How an access resolves: a place, a non-resident page, or a remote page met on a near core, which return-traps (04 Table 4.6). -/
inductive Acc where
  | ok (l : Loc)
  | nonres
  | away
  deriving DecidableEq, Repr

/-- A store of any kind, for the seal check (11 R238). -/
def AccKind.stores (k : AccKind) : Bool := k == .store || k == .atomic || k == .redf || k == .tagWrite || k == .take

/-- The address lies in a resident page of a remote class. -/
def remotePage (s : State) (ctx die a : Nat) : Bool :=
  decide (a < 2 ^ 52) && (match leafFor s ctx die a with | .leaf l => !l.nonres && decide (3 ≤ l.cls) | _ => false)

/-- Translation of a global or weight address to a place (04 Table 4.6: a near core's access of a remote class return-traps before the rows on permissions), and the seal check of stores (11 R238). -/
def globalPlace (s : State) (t : Team) (f : Fibre) (k : AccKind) (space a n : Nat) : Except Trap Acc :=
  if f.nearSlot.isSome && remotePage s t.ctx (dieOf t f) a then .ok .away
  else
    match translate s t.ctx (dieOf t f) space a k false with
    | .trap e => .error e
    | .nonres => .ok .nonres
    | .ok l => if k.stores && s.sealHit t.ctx a n then .error (mkTrap 0x14 0 (a)) else .ok (.ok (l.loc a))

/-- Access of 15 R309: alignment, then the checks of the space. -/
def access (s : State) (t : Team) (f : Fibre) (k : AccKind) (space a n align : Nat) : Except Trap Acc :=
  if a % align ≠ 0 then .error (.misaligned a)
  else if space = 1 then (scratchPlace t f a n).map .ok
  else if space = 2 then (clusterPlace s t f a n).map .ok
  else globalPlace s t f k space a n

/-- The place of an access that may not meet a non-resident page; a remote page met on a near core sends the fibre to a service slot. -/
def place (s : State) (r : FibreRef) (t : Team) (f : Fibre) (k : AccKind) (space a n align : Nat) : Except Stop Loc :=
  match access s t f k space a n align with
  | .error e => .error (.trap e)
  | .ok .nonres => .error (.trap (mkTrap 0x04 0 (a)))
  | .ok .away => .error (.hold (s.beginReturnTrap r (match f.nearSlot with | some (k, _, _) => k | none => 0)))
  | .ok (.ok l) => .ok l

/-- A place of class host or peer. -/
def Loc.isRemote : Loc → Bool
  | .remote _ _ _ => true
  | _ => false

/-- The memory word of a place is poisoned. -/
def State.poisonedAt (s : State) : Loc → Bool
  | .mem m => s.mem.poison.contains (wordOf m.pa)
  | .scr t o => (match s.team? t with | some t => t.scratchPoison.contains (o / 8) | none => false)
  | .near k c i o => (nearRead s k c i o 1).2
  | .remote _ _ _ => false

end Sys2Proof.Machine
end

