-- ==== Sys2Proof/Machine/Flags.lean ====
section
/-! DEFINITION. Conditions, predicate combination, and the sticky floating-point flags. -/

namespace Sys2Proof.Machine

/-- The integer conditions of 15 Table 15.5 on 64-bit operands. -/
def condHolds (n : Nat) (a b : Dword) : Bool :=
  match n with
  | 0 => a == b
  | 1 => a != b
  | 2 => a.slt b
  | 3 => !a.slt b
  | 4 => a.ult b
  | 5 => !a.ult b
  | 6 => !b.slt a
  | 7 => b.slt a
  | 8 => !b.ult a
  | 9 => b.ult a
  | 10 => (a &&& b) != 0
  | _ => (a &&& b) == 0

/-- Combine of 15 R300: set, and, or, xor. -/
def combine (c : BitVec 2) (old t : Bool) : Bool :=
  match c.toNat with
  | 0 => t
  | 1 => old && t
  | 2 => old || t
  | _ => old != t

/-- SetPred: the combined condition into a predicate (15 Table 15.10). -/
def Fibre.combinePred (f : Fibre) (p : BitVec 5) (c : BitVec 2) (t : Bool) : Fibre :=
  f.setPred p.toNat (combine c (f.predBit p.toNat) t)

/-- The floating-point exception flags of 07 Table 7.3: invalid, divzero, overflow, underflow, inexact. -/
structure FFlags where
  invalid : Bool := false
  divzero : Bool := false
  overflow : Bool := false
  underflow : Bool := false
  inexact : Bool := false
  deriving DecidableEq, Repr

def FFlags.or (a b : FFlags) : FFlags where
  invalid := a.invalid || b.invalid
  divzero := a.divzero || b.divzero
  overflow := a.overflow || b.overflow
  underflow := a.underflow || b.underflow
  inexact := a.inexact || b.inexact

/-- The flags as the bits of fflags (07 Table 7.3). -/
def FFlags.bits (a : FFlags) : BitVec 16 :=
  BitVec.ofNat 16 (bit a.invalid + 2 * bit a.divzero + 4 * bit a.overflow + 8 * bit a.underflow + 16 * bit a.inexact)

/-- A flag whose enable in fmode is set was raised (07 Table 7.2). -/
def FFlags.enabled (a : FFlags) (fmode : BitVec 16) : Bool :=
  ((a.bits &&& (fmode >>> 3)) &&& 0x1F) != 0

/-- The sticky flags after an operation. -/
def Fibre.raiseFlags (f : Fibre) (a : FFlags) : Fibre := { f with fflags := f.fflags ||| a.bits }

end Sys2Proof.Machine
end

