-- ==== Sys2Proof/Machine/Frames.lean ====
section
/-! DEFINITION. Frames of 64 KiB of physical memory as Oseus hands them out (03 R72), and the image slots of teams among them (06 R140, R141). -/

namespace Sys2Proof.Machine

/-- The first frame of the table memory that Oseus keeps at the top of the second tier: 65,536 tables, enough for every page of every pool (03 R72; log entry 6). -/
def tableBase : Nat := 0x11DF0000

/-- The frames of a class at a place: a stack of HBM, the second tier below the table memory, the weight store of a C-die (04 Table 4.5). -/
def framePool (cls place : Nat) : Nat × Nat :=
  match cls with
  | 0 => (place * 2 ^ 20, (place + 1) * 2 ^ 20)
  | 1 => (0x10000000, tableBase)
  | _ => (0x20000000 + place * 2 ^ 15, 0x20000000 + (place + 1) * 2 ^ 15)

/-- Frames `[f, f + n)` are not in use. -/
def framesFree (used : List (Nat × Nat)) (f n : Nat) : Bool := used.all (fun p => decide (p.1 + p.2 ≤ f ∨ f + n ≤ p.1))

/-- The least of some numbers. -/
def least : List Nat → Option Nat
  | [] => none
  | x :: xs => match least xs with | some y => some (min x y) | none => some x

/-- The greatest of some numbers. -/
def greatest : List Nat → Option Nat
  | [] => none
  | x :: xs => match greatest xs with | some y => some (max x y) | none => some x

/-- The lowest free run of `n` frames, aligned to `n`, in a pool. -/
def lowestFree (used : List (Nat × Nat)) (lo hi n : Nat) : Option Nat :=
  least ((lo :: used.map (fun p => (p.1 + p.2 + n - 1) / n * n)).filter (fun c =>
    decide (lo ≤ c ∧ c + n ≤ hi) && framesFree used c n))

/-- The highest free run of `n` frames of the second tier below a frame: Oseus keeps its tables there, in the table memory first, and the images of saved teams, below it (log entry 6). -/
def highestFree (used : List (Nat × Nat)) (top n : Nat) : Option Nat :=
  greatest ((top :: used.map (fun p => p.1)).filterMap (fun c =>
    if 0x10000000 + n ≤ c ∧ c ≤ top ∧ framesFree used (c - n) n then some (c - n) else none))

/-- Frames as memory: zero bytes, EMPTY tags, no poison, no copy of any line, directory entries at zero (03 R72, 08 R174). -/
def State.zeroFrames (s : State) (fs : List (Nat × Nat)) : State :=
  let inside := fun (pa : Nat) => fs.any (fun p => decide (p.1 * 65536 ≤ pa ∧ pa < (p.1 + p.2) * 65536))
  { s with
    mem := {
      cells := s.mem.cells.filter (fun c => !inside c.1)
      full := s.mem.full.filter (fun w => !inside (8 * w))
      poison := s.mem.poison.filter (fun w => !inside (8 * w)) }
    coh := { s.coh with
      l1 := s.coh.l1.filter (fun x => !inside (128 * x.line))
      regn := s.coh.regn.filter (fun p => !inside (8 * p.1))
      cuttings := s.coh.cuttings.filter (fun x => !inside (128 * x.line))
      regions := s.coh.regions.filter (fun r => !inside (512 * r.idx))
      probes := s.coh.probes.filter (fun p => !inside (128 * p.line))
      fills := s.coh.fills.filter (fun f => !inside (128 * f.line))
      slices := s.coh.slices.filter (fun h => !inside (128 * h.line)) }
    os := { s.os with fills := s.os.fills.filter (fun x => !inside x.m.pa) } }

/-- Frames are given out, zeroed. -/
def State.useFrames (s : State) (f n : Nat) : State :=
  (s.zeroFrames [(f, n)]).updOs (fun o => { o with used := (f, n) :: o.used })

/-- Frames are given back. -/
def State.freeFrames (s : State) (fs : List (Nat × Nat)) : State :=
  s.updOs (fun o => { o with used := o.used.filter (fun p => !fs.contains p) })

/-! ### Image slots (06 R140, Table 6.3) -/

/-- Bytes up to the next 4,096-byte boundary. -/
def roundPage (n : Nat) : Nat := (n + 4095) / 4096 * 4096

/-- The sizes of the eight sections of a team's saved image (06 Table 6.3). -/
def Kernel.imageSections (k : Kernel) : List Nat :=
  let n := k.fibresM1 + 1
  [128, 8 * 512, 16 * 1088 + 2048 * 48, 64 * n, n * k.windowRegs * 8, k.scratchWays * wayBytes k.mcore,
   k.accTiles * 24576, k.metaUnits * 4096]

/-- Frames that an image takes. -/
def Kernel.imageFrames (k : Kernel) : Nat := ((k.imageSections.map roundPage).foldl (· + ·) 0 + 65535) / 65536

/-- A slot for a team's image, in memory that no context maps; none when there is no room. -/
def State.takeImage (s : State) (k : Kernel) : Option ((Nat × Nat) × State) :=
  (highestFree s.os.used tableBase k.imageFrames).map (fun f =>
    ((f, k.imageFrames), s.updOs (fun o => { o with used := (f, k.imageFrames) :: o.used })))

end Sys2Proof.Machine
end

