-- ==== Sys2Proof/Machine/Teams.lean ====
section
/-! DEFINITION. Teams: launch state (06 Table 6.1), bins and the reorder unit (06 R130 to R133), fibres that end, the swap point, and the tests of dispatch (05 R101, R105, R106). -/

namespace Sys2Proof.Machine

/-! ### Fibres at launch (06 Table 6.1) -/

/-- A fibre with no registers set: what launch, SPAWN and REBIN start from. -/
def Fibre.fresh (idx window : Nat) (aclk : Nat) : Fibre where
  idx := idx
  status := .ready
  pc := 0
  regs := List.replicate window 0
  spoilt := []
  pred := 1
  lk := 0
  csp := 0
  cf := List.replicate 12 0
  fmode := 0
  fflags := 0
  srseed := 1
  clause := none
  ll := []
  sq := []
  seq := 0
  faults := []
  handler := none
  entering := none
  hostFail := []
  fences := []
  pfxs := []
  firstClause := true
  stopped := false
  away := none
  since := aclk
  held := none

/-- Grid position of a linear team index (06 R126). -/
def gridPos (k : Kernel) (linear : Nat) : Nat × Nat × Nat :=
  let (gx, gy, _) := k.grid
  (linear % gx, linear / gx % gy, linear / (gx * gy))

/-- A fibre as launch or restart starts it. -/
def launchFibre (t : Team) (pc idx aclk : Nat) : Fibre :=
  let (x, y, z) := gridPos t.kernel t.linear
  { ((((Fibre.fresh idx t.kernel.windowRegs aclk).setReg 0 (ofNat64 idx)).setReg 1 (ofNat64 t.linear)).setReg 2
      (ofNat64 (x + y * 2 ^ 16 + z * 2 ^ 32))).setReg 3 (ofNat64 t.kernel.param) with
    pc := BitVec.ofNat 52 pc
    srseed := seedOf t.linear idx }

/-- A fibre released from a bin or the reorder unit starts at its entry with its payload; fmode, fflags and srseed stand as its record holds them, and the asynchronous faults that have come to it since stay pending. -/
def Fibre.release (f : Fibre) (window aclk : Nat) (d : Deposit) : Fibre :=
  { ((((Fibre.fresh f.idx window aclk).setReg 0 (d.payload.getD 0 0)).setReg 1 (d.payload.getD 1 0)).setReg 2
      (d.payload.getD 2 0)).setReg 3 (d.payload.getD 3 0) with
    pc := BitVec.ofNat 52 d.entry
    fmode := f.fmode
    fflags := f.fflags
    srseed := f.srseed
    faults := f.faults }

/-- Idle convergence register (07 Table 7.5). -/
def Conv.idle : Conv where
  declared := none
  signers := []
  words := []
  vals := []
  at_ := 0
  since := 0

/-- A team as its dispatch or relaunch starts it: resources zeroed, every fibre at `pc` (06 R128, R129). -/
def Team.launch (t : Team) (c : CoreId) (pc aclk : Nat) : Team :=
  let t := { t with
    state := .running
    core := some c
    reserved := t.kernel.scratchWays
    alloc := t.kernel.scratchWays
    scratch := []
    scratchPoison := []
    acc := []
    accPoison := []
    metaMem := []
    metaPoison := []
    cv := List.replicate 8 Conv.idle
    bins := []
    reorder := []
    resSince := some aclk
    redirect := [] }
  { t with fibres := (List.range (t.kernel.fibresM1 + 1)).map (fun i => launchFibre t pc i aclk) }

/-! ### Bins and the reorder unit -/

/-- Deposited fibres become ready together. -/
def Team.releaseDeposits (t : Team) (ds : List Deposit) (aclk : Nat) : Team :=
  ds.foldl (fun t d => t.updFibre d.fibre (fun f => f.release t.kernel.windowRegs aclk d)) t

/-- A bin releases all its fibres (06 R132). -/
def Team.releaseBin (t : Team) (b : Bin) (aclk : Nat) : Team :=
  { t.releaseDeposits b.fibres aclk with bins := t.bins.filter (fun x => x != b) }

/-- The 16 bins of a core are divided among its teams at a dispatch there (06 R130). -/
def State.shareBins (s : State) (c : CoreId) : State :=
  let n := s.teams.countP (fun x => x.core == some c)
  { s with teams := s.teams.map (fun (x : Team) => if x.core == some c then { x with binQuota := 16 / max 1 n } else x) }

/-- An empty bin is the team's: it has not used its share, and the core's other teams leave one empty (06 R130). -/
def State.binFree (s : State) (t : Team) : Bool :=
  decide (t.bins.length < t.binQuota) &&
  decide (((s.teams.filter (fun x => x.core.isSome && x.core == t.core)).map (fun x => x.bins.length)).foldl (· + ·) 0 < 16)

/-- The group of a deposit in the reorder unit (06 R133). -/
def Team.group (t : Team) (d : Deposit) : List Deposit :=
  t.reorder.filter (fun x => x.entry == d.entry && x.key == d.key)

/-- A group is released (06 R133). -/
def Team.releaseGroup (t : Team) (d : Deposit) (aclk : Nat) : Team :=
  { t.releaseDeposits (t.group d) aclk with
    reorder := t.reorder.filter (fun x => !(x.entry == d.entry && x.key == d.key)) }

/-- Every group is released in ascending order of (key, entry): all its fibres become ready in one aclk, so the order shows in nothing but their ages. -/
def Team.releaseReorder (t : Team) (aclk : Nat) : Team :=
  { t.releaseDeposits t.reorder aclk with reorder := [] }

/-- The first bin whose timer has expired (06 R132). -/
def Team.binDue (t : Team) (aclk : Nat) : Option Bin :=
  t.bins.find? (fun b => decide (b.since + t.kernel.binTimerM1 + 1 ≤ t.residentTime aclk))

/-- The reorder timer has expired (06 R133). -/
def Team.reorderDue (t : Team) (aclk : Nat) : Bool :=
  !t.reorder.isEmpty && decide (t.reorderSince + t.kernel.binTimerM1 + 1 ≤ t.residentTime aclk)

/-- Bins and groups whose timers have expired are released before a SPAWN or REBIN of that aclk is placed (16 R337). -/
def Team.releaseDue (t : Team) (aclk : Nat) : Team :=
  let t := (t.bins.filter (fun b => decide (b.since + t.kernel.binTimerM1 + 1 ≤ t.residentTime aclk))).foldl (fun t b => t.releaseBin b aclk) t
  if t.reorderDue aclk then t.releaseReorder aclk else t

/-- With no fibre live outside bins and the reorder unit, both release everything (06 R132, R133). -/
def Team.releaseIdle (t : Team) (aclk : Nat) : Team :=
  if t.fibres.any (fun f => f.live && !f.parked) then t
  else (t.bins.foldl (fun t b => t.releaseBin b aclk) t).releaseReorder aclk

/-! ### Rendezvous and convergence, when a member goes away -/

/-- The rendezvous a fibre is blocked at names fibre `i` of its row. -/
def Fibre.rendezvousNames (f : Fibre) (i : Nat) : Bool :=
  rowOf f.idx == rowOf i && (match f.status with | .rendezvous _ m _ => m.getLsbD (i % 32) | _ => false)

/-- The arrival a fibre keeps while it is in a handler names fibre `i` of its row (06 R135). -/
def Fibre.heldNames (f : Fibre) (i : Nat) : Bool :=
  rowOf f.idx == rowOf i && (match f.held with | some (.arrived _ m _ _ _) => m.getLsbD (i % 32) | _ => false)

/-- A fibre blocked at a rendezvous is taken out of it. -/
def Fibre.unblock (f : Fibre) (aclk : Nat) : Fibre := { f with status := .ready, since := aclk }

/-- Fibres blocked at a rendezvous that names fibre `i` raise the absent-member trap; one that waits in a handler only loses its arrival (07 R155, 06 R135). -/
def State.memberGone (s : State) (team i : Nat) : State :=
  match s.team? team with
  | none => s
  | some t =>
    let hit := t.fibres.filter (fun f => f.idx != i && f.rendezvousNames i)
    let s := s.updTeam team (fun t => { t with fibres := t.fibres.map (fun (f : Fibre) =>
      if f.idx = i then f
      else
        let f := if f.heldNames i then { f with held := none } else f
        if f.rendezvousNames i then f.unblock s.aclk else f) })
    hit.foldl (fun s f => s.raiseAt ⟨team, f.idx⟩ (mkTrap 0x09 0 (0)) [⟨0, i, 2⟩] 0) s

/-- A declared register whose missing signatures can no longer all come: its signers raise the absent-member trap and the signer set is cleared (07 Table 7.5). -/
def State.convergenceGone (s : State) (team : Nat) : State :=
  match s.team? team with
  | none => s
  | some _ =>
    (List.range 8).foldl (fun s k =>
      match (s.team? team).map (fun t => (t, t.cv.getD k Conv.idle)) with
      | none => s
      | some (t, c) =>
        match c.declared with
        | none => s
        | some n =>
          let unsigned := t.fibres.countP (fun f => f.live && !c.signers.contains f.idx)
          if c.signers.isEmpty || decide (n - c.signers.length ≤ unsigned) then s
          else
            let blocked := c.signers.filter (fun i => (t.fibre? i).any (fun f => f.status == .signed k))
            let s := s.updTeam team (fun t => { t with
              cv := t.cv.set k { c with signers := [], words := [], vals := [] }
              fibres := t.fibres.map (fun (f : Fibre) =>
                if blocked.contains f.idx then f.unblock s.aclk
                else if f.held == some (.signed k) then { f with held := none } else f) })
            blocked.foldl (fun s i => s.raiseAt ⟨team, i⟩ (mkTrap 0x09 0 (0)) [] 0) s) s

/-! ### The end of fibres and teams -/

/-- A team whose last live fibre has ended is done: its core resources are zeroed and its job has one team less to wait for (06 Table 6.2). -/
def State.teamDone (s : State) (team : Nat) : State :=
  match s.team? team with
  | none => s
  | some t =>
    if t.fibres.any Fibre.live || t.discarded || t.state == .terminated then s
    else
      let gone := fun k => k == team
      let s := ((s.forgetFibres gone).breakChannels (fun _ => false)).freeImages gone
      let s := s.updTeam team (fun t => t.scrub .done s.aclk)
      { s with insts := s.insts.map (fun (x : Inst) =>
          if x.ctx == t.ctx then
            { x with runs := x.runs.map (fun (r : NodeRun) => if r.job == t.job then { r with left := r.left - 1 } else r) }
          else x) }

/-- Pending asynchronous faults of a fibre `f` that ends pass to the lowest-indexed live fibre of its team; with none the job is terminated with the first one's cause, at the instruction that ended the fibre (14 R275, R277). -/
def State.passFaults (s : State) (team : Nat) (f : Fibre) : State :=
  match f.faults, s.team? team with
  | [], _ => s
  | a :: _, some t =>
    (match t.fibres.find? Fibre.live with
     | some g => f.faults.foldl (fun (s : State) a => s.markFault ⟨team, g.idx⟩ t.ctx a) s
     | none => s.terminateJob t.job t.ctx 2 (some t) (some f)
        { kind := 3, cause := a.cause, detail := 0, engine := 0, inHandler := false, noHandler := false, terminated := true,
          pc := f.pc.toNat, issuePc := 0, addr := a.addr, words := recordWords s t f, list := [], more := 0 })
  | _ :: _, none => s

/-- A fibre ends: EXIT steps 4 and on (16 R334), or the end that REBIN makes with the index held (`parked`). -/
def State.endFibre (s : State) (r : FibreRef) (parked : Bool) : State :=
  match s.fibre? r with
  | none => s
  | some f =>
    let s := s.updFibre r (fun f => { f with
      status := if parked then .inReorder else .notLive
      clause := none
      handler := none
      entering := none
      held := none
      faults := []
      away := none
      since := s.aclk })
    let s := s.leaveSlot r
    let s := s.passFaults r.team f
    let s := s.memberGone r.team r.fibre
    let s := s.convergenceGone r.team
    let s := s.updTeam r.team (fun t => t.releaseIdle s.aclk)
    s.teamDone r.team

/-! ### The end of an instance (05 R120, R455) -/

/-- A job of an ending instance is terminated as 14 R284 sets out: a record of kind 3, the job's own fault word, the event (05 R455, log entry 8). -/
def State.terminateRun (s : State) (ctx cause addr : Nat) (g : Graph) (r : NodeRun) : State :=
  match (g.nodes.getD r.node ⟨.join 1, []⟩).kind with
  | .job k _ _ _ =>
    let t := (s.teams.find? (fun t => t.job == r.job && t.ctx == ctx)).map (fun (t : Team) => { t with linear := 0, core := none })
    let (q, _, s) := (s.stopJob r.job ctx).writeRecord ctx t none
      { kind := 3, cause := cause, detail := 0, engine := 0, inHandler := false, noHandler := false, terminated := true,
        pc := 0, issuePc := 0, addr := addr, words := [], list := [], more := 0 }
    (s.reportTermination ctx k.faultWord 2 cause q).count ctx 0x74 1
  | _ => s

/-- An instance ends with a fault of its graph, and no further node is reached: its jobs end, each with its own report when `each` is set (05 R455); then a record of kind 3 is written and the graph's fault word receives the kind and cause. -/
def State.endInstance (s : State) (inst ctx kind cause addr : Nat) (each : Bool) : State :=
  match s.insts.find? (fun i => i.id == inst) with
  | none => s
  | some x =>
    let g := (s.ctx? ctx).bind (fun c => c.graphs.find? (fun g => g.handle == x.graph))
    let s := x.runs.foldl (fun s r =>
      match g with
      | some g => if each then s.terminateRun ctx cause addr g r else s.stopJob r.job ctx
      | none => s.stopJob r.job ctx) s
    let s := { s with insts := s.insts.filter (fun i => i.id != inst) }
    let (q, _, s) := s.writeRecord ctx none none
      { kind := 3, cause := cause, detail := 0, engine := 0, inHandler := false, noHandler := false, terminated := true,
        pc := 0, issuePc := 0, addr := addr, words := [], list := [], more := 0 }
    s.reportTermination ctx (g.elim 0 (fun g => g.faultWord)) kind cause q

/-! ### Dispatch order and fit (05 R101, R105, R127) -/

/-- A team that stands before another in the dispatch order: class, absolute deadline, time of readiness, linear index (05 R105). -/
def Team.before (a b : Team) : Bool :=
  decide (a.cls < b.cls) || (a.cls == b.cls && (decide (a.deadline < b.deadline) || (a.deadline == b.deadline &&
    (decide (a.readyAt < b.readyAt) || (a.readyAt == b.readyAt && decide (a.linear < b.linear))))))

/-- Teams that hold a core. -/
def State.onCore (s : State) (c : CoreId) : List Team := s.teams.filter (fun t => t.core == some c)

/-- Columns and rows of a die's mesh (00 R7). -/
def meshCols (mcore : Bool) : Nat := if mcore then 4 else 5
def meshRows (mcore : Bool) : Nat := if mcore then 3 else 2

/-- The full cores of a kind, by die and then index (00 Table 0.3, R7). -/
def coresOf (mcore : Bool) : List CoreId :=
  (List.range 4).flatMap (fun d => (List.range (meshCols mcore * meshRows mcore)).map (fun i => ⟨(if mcore then 4 else 0) + d, i⟩))

/-- Ways of the L1, accumulator tiles and metadata units of a core kind (08 Table 8.1). -/
def tilesOf (mcore : Bool) : Nat := if mcore then 16 else 64
def metaUnitsOf (mcore : Bool) : Nat := if mcore then 16 else 64

/-- What a team needs of its core: window registers, ways, tiles, metadata units, fibres. The ways are those it has reserved once it has been launched (08 R167). -/
def Team.holds (t : Team) : Nat × Nat × Nat × Nat × Nat :=
  ((t.kernel.fibresM1 + 1) * t.kernel.windowRegs, if t.state = .waiting then t.kernel.scratchWays else t.reserved, t.kernel.accTiles, t.kernel.metaUnits, t.kernel.fibresM1 + 1)

/-- A core takes a team beside the teams `others` on it (05 R101, 07 R146). -/
def fitsBeside (others : List Team) (t : Team) : Bool :=
  let all := t :: others
  let sum := fun (f : Team → Nat) => (all.map f).foldl (· + ·) 0
  let m := t.kernel.mcore
  decide (others.length ≤ 3) &&
  (others.isEmpty || (decide (2 ≤ t.cls) && others.all (fun o => decide (2 ≤ o.cls)))) &&
  decide (sum (fun x => x.holds.1) ≤ 131072) &&
  decide (sum (fun x => x.holds.2.1) ≤ 16) &&
  decide (sum (fun x => x.holds.2.2.1) ≤ tilesOf m) &&
  decide (sum (fun x => x.holds.2.2.2.1) ≤ metaUnitsOf m) &&
  decide (sum (fun x => x.holds.2.2.2.2) ≤ 2048)

/-- The kernel's team count (05 R108). -/
def Kernel.teams (k : Kernel) : Nat := k.grid.1 * k.grid.2.1 * k.grid.2.2
def Kernel.clusterSize (k : Kernel) : Nat := k.clW * k.clH

/-- Nanoseconds of sys.time after which a job of an instance is late (05 R105). -/
def jobDeadline (fill relJob relGraph : Nat) : Nat := fill + (if relJob = 0 then relGraph else relJob)

/-- A team of a ready job that has not been dispatched (05 R126, R127). -/
def newTeam (id ctx cls deadline : Nat) (k : Kernel) (r : NodeRun) (linear : Nat) (cluster : Option Nat) : Team :=
  { id := id, ctx := ctx, job := r.job, jobTag := BitVec.ofNat 32 r.job, linear := linear, cluster := cluster
    member := linear % max 1 k.clusterSize, state := .waiting, core := none, slot := 0, kernel := k, reserved := 0, alloc := 0
    scratch := [], scratchPoison := [], acc := [], accPoison := [], metaMem := [], metaPoison := [], cv := [], bins := [], binQuota := 0
    reorder := [], reorderSince := 0, resAcc := 0, resSince := none, cls := cls, jobCls := cls, deadline := deadline, readyAt := r.readyAt
    slice := 1, budgetEnd := k.budget, budgetOut := none, preempt := none, budgetTrap := false, preemptTrap := false
    forced := false, keepSlice := false, image := (0, 0), redirect := [], redirected := 0, fibres := [] }

/-- The graph of an instance. -/
def State.graphOf (s : State) (x : Inst) : Option Graph :=
  (s.ctx? x.ctx).bind (fun c => c.graphs.find? (fun g => g.handle == x.graph))

/-- The next team of every ready job whose grid is not yet created, as the head of its cluster when it has one. -/
def State.nextTeams (s : State) : List (Inst × NodeRun × Team) :=
  s.insts.flatMap (fun x =>
    match s.graphOf x with
    | none => []
    | some g => x.runs.filterMap (fun r =>
        match (g.nodes.getD r.node ⟨.join 1, []⟩).kind with
        | .job k rel _ _ =>
          if r.ready ∧ r.nextTeam < k.teams then
            some (x, r, newTeam s.nextId x.ctx g.cls (jobDeadline x.fillTime rel g.relDeadline) k r r.nextTeam
              (if 1 < k.clusterSize then some s.nextId else none))
          else none
        | _ => none))

/-- The slices that wait for a core: saved and discarded teams, and the next team of every ready job (05 R105). -/
def State.candidates (s : State) : List Team :=
  (s.teams.filter (fun x => x.state == TeamState.waiting || x.state == TeamState.saved)) ++ s.nextTeams.map (fun p => p.2.2)

/-- Cores of a class and kind that a context reserves (03 R70). -/
def Context.reserves (c : Context) (cls : Nat) (mcore : Bool) : Nat :=
  match cls, mcore with
  | 0, false => c.critC
  | 0, true => c.critM
  | _, false => c.intC
  | _, true => c.intM

/-- The context's reservation for a class and kind of core lets `need` more cores be held, with the teams `on` each core; batch and background classes have none (03 R70, 05 R105). -/
def State.withinReservation (s : State) (on : CoreId → List Team) (ctx cls : Nat) (mcore : Bool) (need : Nat) : Bool :=
  decide (2 ≤ cls) ||
  (s.ctx? ctx).any (fun c =>
    decide ((coresOf mcore).countP (fun k => (on k).any (fun x => x.ctx == ctx && x.cls == cls)) + need ≤ c.reserves cls mcore))

def State.reservationLeft (s : State) (on : CoreId → List Team) (t : Team) (need : Nat) : Bool :=
  s.withinReservation on t.ctx t.cls t.kernel.mcore need

/-! ### The swap point (06 R136, 17 R363) -/

/-- Waiters of a team are withdrawn: the TAKE or WAITF is undone and executes anew after a restore (17 R363, 06 R139); the fibre stays blocked until then (06 Table 6.5). Fibres away on search dies go on (06 R137), and so do their waiters. -/
def State.withdrawTeam (s : State) (team : Nat) : State :=
  let s := s.leaveWord (fun w => w.who.team == team && (s.fibre? w.who).any (fun f => f.away.isNone))
  s.updTeam team (fun t => { t with fibres := t.fibres.map (fun (f : Fibre) =>
    if f.away.isSome then f
    else
    let ops := f.ll.filter (fun op => match op.kind with | .tagWait .. => true | _ => false)
    let f := ops.foldl (fun f op => f.countDown op.counter) f
    { f with ll := f.ll.filter (fun op => match op.kind with | .tagWait .. => false | _ => true) }) })

/-- The swap point of one team: its resident time, and with it its budget, stands still from here (06 R136, R140). -/
def State.swapTeam (s : State) (team : Nat) (discard forced keepSlice : Bool) : State :=
  let s := s.withdrawTeam team
  s.updTeam team (fun t => { t with
    state := if discard then .discarding else .saving
    forced := forced
    keepSlice := keepSlice
    resAcc := t.residentTime s.aclk
    resSince := none
    preempt := none
    preemptTrap := false
    budgetTrap := false })

/-- A swap point of one team of a cluster is a swap point of every other live team of it, which is saved and keeps its slice (06 R140). -/
def State.swapPoint (s : State) (team : Nat) (discard forced keepSlice : Bool) : State :=
  match s.team? team with
  | none => s
  | some t =>
    let mates := s.teams.filter (fun (x : Team) => t.cluster.isSome && x.cluster == t.cluster && (x.resident || x.state == .restoring) && x.id != team)
    let s := mates.foldl (fun s x => s.swapTeam x.id false false (x.state != .restoring || x.keepSlice)) s
    let s := s.swapTeam team discard forced keepSlice
    s.count t.ctx 0x30 (mates.length + if discard then 0 else 1)

/-- The next slice of a team: slice count (the fields that show it saturate at 65,535), fresh budget, and demotion when it begins slice nslices + 1 (05 R103, R104). -/
def Team.nextSlice (t : Team) (aclk : Nat) : Team :=
  let n := t.slice + 1
  { t with
    slice := n
    budgetEnd := t.residentTime aclk + t.kernel.budget
    budgetOut := none
    budgetTrap := false
    cls := if t.kernel.nslices < n ∧ t.cls < 2 then 2 else t.cls }

/-- Budget left in the slice (05 Table 5.1). -/
def Team.budgetLeft (t : Team) (aclk : Nat) : Nat := t.budgetEnd - t.residentTime aclk

/-! ### Rectangles of clusters (05 R106, 06 R127, R140) -/

/-- The cores of the rectangle of a cluster's shape at an origin of a die, by member index; none when it passes the mesh. -/
def rectangle (k : Kernel) (die origin : Nat) : Option (List CoreId) :=
  let cols := meshCols k.mcore
  let x := origin % cols
  let y := origin / cols
  if x + k.clW ≤ cols ∧ y + k.clH ≤ meshRows k.mcore then
    some ((List.range k.clusterSize).map (fun m => ⟨die, cols * (y + m / k.clW) + x + m % k.clW⟩))
  else none

/-- Every rectangle of a cluster's shape, by die and origin. -/
def rectangles (k : Kernel) : List (List CoreId) :=
  (coresOf k.mcore).filterMap (fun c => rectangle k c.die c.idx)

/-- The members of a cluster that wait for a place. -/
def State.waitingMembers (s : State) (t : Team) : List Team :=
  s.teams.filter (fun x => x.cluster == t.cluster && (x.state == TeamState.saved || x.state == TeamState.waiting))

/-- No member of the slice's cluster still holds a core. -/
def State.clusterWhole (s : State) (t : Team) : Bool :=
  t.cluster.isNone || s.teams.all (fun x => x.cluster != t.cluster || x.core.isNone)

/-- How many cores a waiting slice needs. -/
def State.clusterNeed (s : State) (t : Team) : Nat :=
  if t.cluster.isNone then 1 else if (s.team? t.id).isNone then t.kernel.clusterSize else (s.waitingMembers t).length

/-- A rectangle takes a cluster: each of its cores is free at a launch, and at a restore each that a saved member takes. -/
def State.clusterFits (s : State) (on : CoreId → List Team) (t : Team) (cs : List CoreId) : Bool :=
  if (s.team? t.id).isNone then cs.all (fun c => (on c).isEmpty)
  else (s.waitingMembers t).all (fun m => (cs[m.member]?).any (fun c => (on c).isEmpty))

/-- The number under which a slice claims cores. -/
def Team.claimUnit (t : Team) : Nat := t.linear / max 1 t.kernel.clusterSize

def Claim.isOf (c : Claim) (t : Team) : Bool := c.ctx == t.ctx && c.job == t.job && c.unit == t.claimUnit

/-- The kind of core a claim is for: M-cores lie on dies 4 to 7. -/
def Claim.mcore (c : Claim) : Bool := c.cores.any (fun k => decide (4 ≤ k.die))

/-- Cores that claims hold for a class of a context on a kind of core. -/
def claimedCores (cs : List Claim) (ctx cls : Nat) (mcore : Bool) : Nat :=
  ((cs.filter (fun c => c.ctx == ctx && c.cls == cls && c.mcore == mcore)).map (fun c => c.cores.length)).foldl (· + ·) 0

/-- The claims that stand, the oldest first: their job lives, their cores hold only teams of lower classes, and with those before them they lie within the context's reservation (05 R105, R106). -/
def State.claimsStanding (s : State) : List Claim :=
  s.claims.foldl (fun kept c =>
    if s.insts.any (fun x => x.ctx == c.ctx && x.runs.any (fun r => r.job == c.job)) &&
        c.cores.all (fun k => (s.onCore k).all (fun x => decide (c.cls < x.cls))) &&
        s.withinReservation s.onCore c.ctx c.cls c.mcore (claimedCores kept c.ctx c.cls c.mcore + c.cores.length)
    then kept ++ [c] else kept) []

def State.claimStands (s : State) (c : Claim) : Bool := s.claimsStanding.contains c

def State.claimOf (s : State) (t : Team) : Option Claim := s.claims.find? (fun c => c.isOf t && s.claimStands c)

/-- A core is kept for a slice of a higher class. -/
def State.keptFrom (s : State) (t : Team) (k : CoreId) : Bool :=
  s.claims.any (fun c => decide (c.cls < t.cls) && c.cores.contains k && s.claimStands c)

/-- A slice of the context may be dispatched: the context is not held for a load of its image (03 R76). -/
def State.mayDispatch (s : State) (t : Team) : Bool := (s.ctx? t.ctx).any (fun c => !c.held)

/-- Another ready slice takes the team's core at its slice end (05 R103, R105). -/
def State.coreWanted (s : State) (t : Team) : Bool :=
  match t.core with
  | none => false
  | some c =>
    let goes := fun (y : Team) => y.id == t.id || (t.cluster.isSome && y.cluster == t.cluster)
    let on := fun (k : CoreId) => (s.onCore k).filter (fun y => !goes y)
    s.candidates.any (fun x => x.kernel.mcore == t.kernel.mcore && x.before t && s.mayDispatch x && !s.keptFrom x c &&
      s.reservationLeft on x (s.clusterNeed x) &&
      (if x.cluster.isSome then
        s.clusterWhole x && (rectangles x.kernel).any (fun cs => cs.contains c && s.clusterFits on x cs)
       else fitsBeside (on c) x))

/-- The excursion of R104: a demoted team is counted (05 Table 5.7). -/
def State.demote (s : State) (team : Nat) : State :=
  match s.team? team with
  | none => s
  | some t => if t.cls < 2 then (s.updTeam team (fun t => { t with cls := 2 })).count t.ctx 0x25 1 else s

end Sys2Proof.Machine
end

