-- ==== Sys2Proof/Machine/Control.lean ====
section
/-! DEFINITION. Branches, calls, jumps and EXIT: opcodes 0x20 to 0x23 (16 R332 to R334). -/

namespace Sys2Proof.Machine

/-- The B-format condition: pb xor neg = 1, and pb = 0 with neg = 0 is always (15 R301). -/
def branchTaken (f : Fibre) (p : BitVec 5) (n : BitVec 1) : Bool := f.predBit p.toNat != (n == 1)

/-- Target(off): the clause header plus four times the signed offset (15 R301). -/
def branchTarget (f : Fibre) (o : BitVec 19) : Nat := wrapNat 52 ((f.clauseHead : Int) + 4 * immS o)

def execBra (p : BitVec 5) (n : BitVec 1) (o : BitVec 19) : State → Host.Outcome State Fault Refusal :=
  isa 1 { prd := [p.toNat] } (fun r _ f s =>
    if branchTaken f p n then .error (.hold (s.updFibre r (fun x => x.goto (branchTarget f o) s.aclk)))
    else .ok s)

def execCall (p : BitVec 5) (n : BitVec 1) (o : BitVec 19) : State → Host.Outcome State Fault Refusal :=
  isa 1 { prd := [p.toNat] } (fun r _ f s =>
    if branchTaken f p n then
      .error (.hold (s.updFibre r (fun x =>
        { x with lk := BitVec.ofNat 52 f.clauseAfter }.goto (branchTarget f o) s.aclk)))
    else .ok s)

/-- The checks of an indirect target: bits [63:52] first, then bits [1:0] (16 R333). -/
def jumpCheck (v : Dword) : Option Trap :=
  if 2 ^ 52 ≤ v.toNat then some (.unmapped v.toNat)
  else if v.toNat % 4 ≠ 0 then some (.misaligned v.toNat)
  else none

def execJmp (a : BitVec 7) : State → Host.Outcome State Fault Refusal :=
  isa 1 { rd := [a.toNat] } (fun r _ f s =>
    match jumpCheck (f.reg a.toNat) with
    | some t => .error (.trap t)
    | none => .error (.hold (s.updFibre r (fun x => x.goto (f.reg a.toNat).toNat s.aclk))))

def execCallr (a : BitVec 7) : State → Host.Outcome State Fault Refusal :=
  isa 1 { rd := [a.toNat] } (fun r _ f s =>
    match jumpCheck (f.reg a.toNat) with
    | some t => .error (.trap t)
    | none => .error (.hold (s.updFibre r (fun x =>
        { x with lk := BitVec.ofNat 52 f.clauseAfter }.goto (f.reg a.toNat).toNat s.aclk))))

def execRet : State → Host.Outcome State Fault Refusal :=
  isa 1 {} (fun r _ f s =>
    match jumpCheck (f.lk.setWidth 64) with
    | some t => .error (.trap t)
    | none => .error (.hold (s.updFibre r (fun x => x.goto f.lk.toNat s.aclk))))

/-- A host-class or peer write of the fibre is not acknowledged yet (03 R81, 09 Table 9.4). -/
def State.writesOut (s : State) (r : FibreRef) : Bool :=
  s.remote.any (fun o => match o.who with | .store x _ => x == r | _ => false)

/-- A host-class or peer write of some fibre of the fibre's context is not acknowledged yet: a release at system scope also covers the writes that happen before it by other fibres (09 R195). -/
def State.remotePending (s : State) (r : FibreRef) : Bool :=
  s.writesOut r || (s.team? r.team).any (fun t => s.remote.any (fun o => o.ctx == t.ctx && (match o.who with | .store _ _ => true | _ => false)))

/-- A host-class write of the fibre is not acknowledged yet (03 R81). -/
def State.hostWritesOut (s : State) (r : FibreRef) : Bool :=
  s.remote.any (fun o => o.host && (match o.who with | .store x _ => x == r | _ => false))

/-- What EXIT and REBIN do before the fibre ends: pending faults taken outside a handler, counters and store queue waited for, host-class stores acknowledged (16 R334 steps 1 to 3). -/
def beforeEnd (r : FibreRef) (f : Fibre) (s : State) : Act :=
  if f.handler.isNone ∧ !f.faults.isEmpty then .error (.hold (s.takeAsync r))
  else if !f.cfZero ∨ !f.sq.isEmpty ∨ f.ll.any (fun op => match op.kind with | .cmd _ _ => false | _ => true) then wait s
  else
    match f.hostFail with
    | pc :: _ => .error (.trap ⟨0x03, 0, 0, pc⟩)
    | [] => if s.hostWritesOut r then wait s else .ok s

/-- A failed host-class store is reported once, the oldest first; a further one at the next fence or EXIT (03 R81). -/
def State.reported (s : State) (r : FibreRef) : State := s.updFibre r (fun f => { f with hostFail := f.hostFail.drop 1 })

/-- The trap that reports a failed host-class store clears the report. -/
def reporting (r : FibreRef) (s : State) (a : Act) : Act :=
  match a with
  | .error (.trap t) => if t.issuePc = 0 then a else .error (.took t ((s.raiseAt r t [] 0).reported r))
  | _ => a

def execExitF : State → Host.Outcome State Fault Refusal :=
  isa 1 {} (fun r _ f s =>
    match reporting r s (beforeEnd r f s) with
    | .error e => .error e
    | .ok s => .error (.hold (s.endFibre r false)))

end Sys2Proof.Machine
end

