-- ==== Sys2Proof/Machine/System.lean ====
section
/-! DEFINITION. TRAP, system registers, fences and the EXT escape: opcodes 0x27 to 0x2B and 0x7F (16 R339 to R344, 15 R307). -/

namespace Sys2Proof.Machine

/-- The number in TRAP is read by the handler from the frame's words (16 R339). -/
def execTrap (_i : BitVec 11) : State → Host.Outcome State Fault Refusal :=
  isa 1 {} (fun _ _ _ _ => .error (.trap (mkTrap 0x17 0 0)))

/-! ### System registers (16 Table 16.4) -/

/-- Kind of core in sys.self: 0 C-core, 1 M-core, 2 near core, 3 service slot (16 Table 16.5). -/
def selfKind (t : Team) (f : Fibre) : Nat :=
  match f.away with
  | some (.near _ _ _) => 2
  | some (.service _ _ _) => 3
  | _ => if t.kernel.mcore then 1 else 0

/-- sys.self (16 Table 16.5). -/
def sysSelf (t : Team) (f : Fibre) : Dword :=
  let idx := match f.away with
    | some (.near _ c _) => c
    | some (.service _ _ _) => 0
    | _ => (match t.core with | some c => c.idx | none => 0)
  let die := match f.away with
    | some (.near k _ _) => 16 + k
    | some (.service k _ _) => 4 + k / 2
    | _ => t.die
  let slot := match f.away with | some (.service _ n _) => n | _ => 0
  ofNat64 (f.idx + idx * 2 ^ 11 + die * 2 ^ 15 + selfKind t f * 2 ^ 20 + t.ctx * 2 ^ 22 + t.jobCls * 2 ^ 28 +
    t.kernel.fibresM1 * 2 ^ 32 + t.kernel.window * 2 ^ 43 + t.alloc * 2 ^ 46 + t.member * 2 ^ 51 + slot * 2 ^ 55)

/-- sys.slice_left (05 Table 5.1). -/
def sysSliceLeft (t : Team) (aclk : Nat) : Dword := ofNat64 (t.budgetLeft aclk + min t.slice 65535 * 2 ^ 25)

/-- sys.ws_calendar of a C-die (08 Table 8.2); 0 on an M-core and on a near core. -/
def sysCalendar (s : State) (t : Team) (f : Fibre) : Dword :=
  if t.kernel.mcore ∨ f.nearSlot.isSome then 0
  else
    let phase := s.aclk % 115200
    let busy := decide (phase % 14400 < 3240)
    let group := if busy then phase / 14400 else (phase / 14400 + 1) % 8
    let kept := (List.range 8).foldl (fun a g => if s.coh.retainedGroups.contains (t.die, g) then a + 2 ^ g else a) 0
    ofNat64 (phase + group * 2 ^ 17 + bit busy * 2 ^ 20 + kept * 2 ^ 24)

/-- sys.link_state (02 Table 2.6). -/
def State.linkState (s : State) : Dword :=
  ofNat64 ((s.ports.map (fun p => (match p.state with | .down => 0 | .retrain => 1 | .up => 2 | .replay => 3) * 4 ^ p.idx)).foldl (· + ·) 0)

/-- The value of a system register, sampled at issue (16 R341, R342). -/
def sysValue (s : State) (t : Team) (f : Fibre) (sel : Nat) : Dword :=
  match sel with
  | 0x000 => 1
  | 0x001 => 0
  | 0x002 => ofNat64 s.now
  | 0x003 => sysSelf t f
  | 0x004 => ofNat64 t.linear
  | 0x005 => ofNat64 t.deadline
  | 0x006 => sysSliceLeft t s.aclk
  | 0x007 => sysCalendar s t f
  | 0x010 => s.thermal
  | 0x011 => s.dieStatus
  | 0x012 => ofNat64 (bit s.bootDone)
  | 0x013 => s.grid
  | 0x014 => s.linkState
  | _ => ofNat64 s.linkDiscard

def execSysrd (d : BitVec 7) (s : BitVec 11) : State → Host.Outcome State Fault Refusal :=
  isa 1 { wr := [d.toNat] } (fun r t f st =>
    .ok (st.updFibre r (fun x => x.setReg d.toNat (sysValue st t f s.toNat))))

/-- No base 1 register has a writable field: a write of an assigned selector changes nothing (16 R341). -/
def execSyswr (a : BitVec 7) (_s : BitVec 11) : State → Host.Outcome State Fault Refusal :=
  isa 1 { rd := [a.toNat] } (fun _ _ _ st => .ok st)

/-! ### Fences (09 R197 to R199, 16 R344) -/

/-- A long-latency operation that loads memory and is not performed yet. -/
def LongOp.loads (op : LongOp) : Bool :=
  match op.kind with
  | .load .. => true
  | .pair .. => true
  | .loadNr .. => true
  | .atomic _ _ _ _ old => old.isNone
  | .tagq .. => true
  | .tagWait .. => true
  | .tile .. => true
  | .metaLoad .. => true
  | _ => false

def Fibre.loadsPending (f : Fibre) : Bool := f.ll.any LongOp.loads

/-- REDF of a fibre that its stack has not performed (08 R180). -/
def State.redfOf (s : State) (r : FibreRef) : Bool := s.coh.redfs.any (fun p => p.who == r)

/-- Collapses or REDF of the fibre's context are under way: a release at device scope or wider waits for them, since it also covers the writes of other fibres that happen before it (09 Table 9.4, R195). -/
def State.homePending (s : State) (r : FibreRef) : Bool :=
  s.collapsesOf (.fibre r) || s.redfOf r ||
  (s.team? r.team).any (fun t => s.coh.probes.any (fun p => p.ctx == t.ctx) || s.coh.redfs.any (fun p => p.ctx == t.ctx))

/-- The store condition of 09 Table 9.4 at a scope, for the earlier stores of a fibre. -/
def storesDone (s : State) (r : FibreRef) (f : Fibre) (scope : Nat) : Bool :=
  scope == 0 ||
  (f.sq.isEmpty &&
   (decide (scope < 4) || !s.homePending r) &&
   (decide (scope < 5) || !s.remotePending r))

/-- An acquire at a scope: at cluster scope or wider the core's L1 lines are invalidated (09 R194). -/
def State.acquireAt (s : State) (t : Team) (f : Fibre) (scope : Nat) : State :=
  if 2 ≤ scope then (match coreOf t f with | some c => s.acquireL1 c none | none => s) else s

/-- A REDF of the fibre, queued or forwarded, is not performed in its stack. -/
def redfPending (s : State) (r : FibreRef) (f : Fibre) : Bool :=
  s.redfOf r || f.sq.any (fun op => match op.kind with | .redf .. => true | _ => false)

/-- A fibre's store to a remote window is still queued. -/
def remoteQueued (f : Fibre) : Bool := f.sq.any (fun op => op.kind.loc.isRemote)

/-- The release side of a fence that does not wait for the store queue: later stores wait for it (09 R197). -/
def State.postFence (s : State) (r : FibreRef) (f : Fibre) (scope : Nat) : State :=
  if !f.loadsPending && storesDone s r f scope then s
  else s.updFibre r (fun f => { f with fences := f.fences ++ [(f.seq, scope)] })

/-- A fence of a kind (1 acquire, 2 release, 3 acq_rel, 4 sc) at a scope. The acquire side waits for the earlier loads, and a fence of any kind for the REDF of its fibre (08 R180) and at system scope for host writes, whose failures it reports (03 R81). Only FENCE.sc, and a release at system scope, also hold the fibre until the earlier stores meet their condition; the other releases hold back later stores alone, so that store buffering stays (09 R197, Tables 9.6 and 9.7; log entry 89). -/
def fenceAt (scope kind : Nat) (r : FibreRef) (t : Team) (f : Fibre) (s : State) : Act :=
  if scope = 0 then .ok s
  else if kind ≠ 2 ∧ f.loadsPending then wait s
  else if redfPending s r f then wait s
  else if (kind = 4 ∨ (2 ≤ kind ∧ scope = 5)) ∧ (f.loadsPending || !storesDone s r f scope) then wait s
  else if scope = 5 ∧ (remoteQueued f || s.writesOut r) then wait s
  else if scope = 5 ∧ !f.hostFail.isEmpty then .error (.trap ⟨0x03, 0, 0, f.hostFail.headD 0⟩)
  else if kind = 4 ∧ 4 ≤ scope ∧ s.probesToward (dieOf t f) then wait s
  else
    let s := if kind = 2 ∨ kind = 3 then s.postFence r f scope else s
    .ok (if kind = 2 then s else s.acquireAt t f scope)

def execFence (c k : BitVec 3) : State → Host.Outcome State Fault Refusal :=
  isa 1 {} (fun r t f s => reporting r s (fenceAt c.toNat k.toNat r t f s))

/-- FENCE.light keeps program order, which this model's issue keeps (09 R199). -/
def execFenceLight : State → Host.Outcome State Fault Refusal :=
  isa 1 {} (fun _ _ _ s => .ok s)

/-- Every fibre of the named team, and of what is left of it where a YIELD.restart discarded it before, has drained its store queue with its collapses and REDF, and has no load outstanding but a TAKE or WAITF it is blocked at: the point p_f is where it stands, before such an instruction (09 R199, log entry 20). A team being restored is waited for. -/
def teamDrained (s : State) (job ctx linear : Nat) : Bool :=
  (s.teams.filter (fun t => t.job == job && t.ctx == ctx && t.linear == linear)).all (fun t =>
    t.state != .restoring &&
    !s.coh.probes.any (fun p => match p.writer with | .fibre r => r.team == t.id | _ => false) &&
    !s.coh.redfs.any (fun p => p.who.team == t.id) &&
    t.fibres.all (fun f => f.sq.isEmpty &&
      !f.ll.any (fun op => op.loads && (match op.kind with | .tagWait .. => false | _ => true))))

def execFenceHeavy (b : BitVec 7) : State → Host.Outcome State Fault Refusal :=
  isa 1 { rd := [b.toNat] } (fun r t f s =>
    match fenceAt 4 4 r t f s with
    | .error e => .error e
    | .ok s' => if teamDrained s t.job t.ctx (f.reg b.toNat).toNat then .ok s' else wait s)

/-! ### The EXT escape (15 R307) -/

/-- No extension is announced: numbers below 8 are illegal, the others enter the emulation handler; on a near core every EXT word return-traps. -/
def execExt (e : BitVec 7) (m : BitVec 2) (_p : BitVec 16) (_w1 _w2 _w3 : BitVec 32) : State → Host.Outcome State Fault Refusal :=
  isa (1 + m.toNat) { near := false } (fun _ _ _ _ =>
    if e.toNat < 8 then .error (.trap .illegal)
    else .error (.trap (mkTrap 0x02 0 0)))

end Sys2Proof.Machine
end

