-- ==== Sys2Proof/Machine/Memory.lean ====
section
/-! DEFINITION. Loads, stores, prefetch and page requests, and the cache forms: opcodes 0x30 to 0x37, 0x3C and 0x3D (17 R346 to R352, R357 to R360), with the drop point of an outstanding instruction. -/

namespace Sys2Proof.Machine

/-! ### Order within one fibre (09 R192) -/

/-- The place is homed on the die it is accessed from. -/
def localHome (t : Team) (f : Fibre) (l : Loc) : Bool :=
  match l with
  | .mem m => m.cls == 2 || homeDie (lineOf m.pa) == dieOf t f
  | .remote _ _ _ => false
  | _ => true

/-- `n` bytes from a place up, cut at the boundaries of memory words. -/
def wordParts (l : Loc) (n : Nat) : List (Loc × Nat) :=
  let a := l.key.2.2
  ((List.range (n / 8 + 2)).map (fun i =>
    let lo := max a (8 * (a / 8 + i))
    (l.plus (lo - a), min (a + n) (8 * (a / 8 + i + 1)) - lo))).filter (fun p => p.2 != 0)

/-- The places a part of a source reads. -/
def Piece.places : Piece → List (Loc × Strength)
  | .read l n => (wordParts l n).map (fun p => (p.1, plain))
  | .known _ => []

/-- The places an outstanding operation still reads. -/
def LongKind.reads (k : LongKind) : List (Loc × Strength) :=
  match k with
  | .load l n _ st => if n = 16 then [(l, st), (l.plus 8, st)] else [(l, st)]
  | .pair a b _ _ => [(a, plain), (b, plain)]
  | .loadNr (some l) n _ _ => if n = 16 then [(l, plain), (l.plus 8, plain)] else [(l, plain)]
  | .atomic _ _ l st none => [(l, st)]
  | .tagq l _ => [(l, ⟨true, 4, 0⟩)]
  | .tagWait l _ _ st => [(l, st)]
  | .tile ms => ms.flatMap (fun m => m.src.flatMap Piece.places)
  | .metaLoad _ ps => ps.flatMap Piece.places
  | _ => []

/-- The load would be performed at a home on another die now: neither its fibre's queue nor the core's L1 nor a cutting of the die serves it (09 Table 9.3). -/
def farServed (s : State) (t : Team) (f : Fibre) (seq : Nat) (l : Loc) (st : Strength) : Bool :=
  match l with
  | .mem m =>
    let line := lineOf m.pa
    !localHome t f l && !f.sq.any (fun op => decide (op.seq < seq) && op.kind.inWord l) &&
    !s.holdsLine (dieOf t f) line &&
    !((!st.strong || decide (st.scope < 2)) && (match coreOf t f with
      | some c => s.coh.l1.any (fun x => x.core == c && x.line == line)
      | none => false))
  | .remote _ _ _ => true
  | _ => false

/-- An earlier outstanding load holds back a later access of `l`: it is not one of exception 2 of 09 R192, or it reads the same memory word. -/
def LongOp.holdsBack (s : State) (t : Team) (f : Fibre) (op : LongOp) (l : Loc) : Bool :=
  (op.kind.reads).any (fun p => !farServed s t f op.seq p.1 p.2 || p.2.order == 1 || p.2.order == 3 || sameWord p.1 l)

/-- No earlier load of the fibre holds back an access of `l` at place `seq` of the program order. -/
def inOrder (s : State) (t : Team) (f : Fibre) (seq : Nat) (l : Loc) : Bool :=
  !f.ll.any (fun op => decide (op.seq < seq) && op.holdsBack s t f l)

/-- The release fences before place `seq` of the program order are met: a store there may be performed (09 R197). The earlier stores have left the queue. -/
def fencesMet (s : State) (r : FibreRef) (f : Fibre) (seq : Nat) : Bool :=
  f.fences.all (fun p => decide (seq < p.1) ||
    (!f.ll.any (fun op => decide (op.seq < p.1) && !op.kind.reads.isEmpty) &&
     (decide (p.2 < 4) || !s.homePending r)))

/-! ### Issue of loads -/

/-- A place lies in a line an engine command owns (08 R182). -/
def State.ownedAt (s : State) (l : Loc) : Bool :=
  match l with
  | .mem m => s.owned.any (fun p => p.1 == lineOf m.pa)
  | _ => false

/-- An acquire load at device or system scope is answered only after the collapses of its line, and not from the own store queue (09 Table 9.3). -/
def Strength.atHome (st : Strength) : Bool := st.strong && st.order == 1 && decide (4 ≤ st.scope)

/-- The fibre as an operation at place `seq` of the program order sees its store queue. -/
def Fibre.queueBefore (f : Fibre) (seq : Nat) : Fibre := { f with sq := f.sq.filter (fun op => op.seq < seq) }

/-- A load can be performed now. A group in refresh stalls the reads that the L1 does not serve (08 R171). -/
def loadReady (s : State) (t : Team) (f : Fibre) (seq : Nat) (l : Loc) (st : Strength) : Bool :=
  let q := (f.queueBefore seq).sq
  inOrder s t f seq l && !queueBlocks q l && !s.ownedAt l && (!weightBusy s l || s.inL1 (coreOf t f) l) &&
  (!st.atHome || (!q.any (fun op => op.kind.inWord l) &&
    (match l with | .mem m => !s.collapsesAt (lineOf m.pa) | _ => true)))

/-- What the fibre's store queue makes of the poison of a place's memory word: cleared by a store of the whole word or a FILL with a value, carried there by a store, or left as it is (08 R184). -/
def Fibre.queuedPoison (f : Fibre) (l : Loc) : Option Bool :=
  f.sq.foldl (fun a op =>
    match op.kind with
    | .write x bs => if sameWord x l ∧ bs.length = 8 ∧ bs.all (fun b => b.isSome) then some false else a
    | .fill x (some _) => if sameWord x l then some false else a
    | .poison x => if sameWord x l then some true else a
    | _ => a) none

/-- A queued store of the fibre clears the poison of a place's memory word. -/
def queuedWhole (f : Fibre) (l : Loc) : Bool := f.queuedPoison l == some false

/-- The word is poisoned where a load of the fibre would be served now: in its core's L1, in a cutting of its die, or at its home (09 Table 9.3, 08 R184). -/
def servedPoison (s : State) (t : Team) (f : Fibre) (l : Loc) (st : Strength) : Bool :=
  match l with
  | .mem m =>
    let line := lineOf m.pa
    let at_ := fun (d : LineData) => (d.getD (wordOf m.pa % 16) (0, false)).2
    let slices := match s.coh.cuttings.find? (fun x => x.die == dieOf t f && x.line == line && homeDie line != dieOf t f) with
      | some x => if m.cls = 2 then s.poisonedAt l else at_ x.data
      | none => s.poisonedAt l
    match coreOf t f with
    | none => s.poisonedAt l
    | some c =>
      if m.cls ≠ 2 ∧ st.strong ∧ 2 ≤ st.scope then (if st.order = 1 ∧ 4 ≤ st.scope then s.poisonedAt l else slices)
      else
        match s.coh.l1.find? (fun x => x.core == c && x.line == line) with
        | some x => at_ (s.ownWords c line x.data)
        | none => slices
  | l => s.poisonedAt l

/-- The load would meet poison now (08 R184). -/
def meetsPoison (s : State) (t : Team) (f : Fibre) (l : Loc) (n : Nat) (st : Strength) : Bool :=
  let met := fun (l : Loc) => (f.queuedPoison l).getD (servedPoison s t f l st)
  met l || (n == 16 && met (l.plus 8))

/-- The answer to part `k` of the fibre's present remote access. -/
def State.remoteAnswer (s : State) (r : FibreRef) (seq k : Nat) : Option RemoteOp :=
  s.remote.find? (fun o => o.who == .load r seq k)

/-- One part of a remote access: host or peer, window, offset, operation. -/
structure RemotePart where
  host : Bool
  window : Nat
  off : Nat
  kind : RemoteKind
  deriving DecidableEq, Repr

/-- The answers to the fibre's present remote access are taken. -/
def State.takeAnswers (s : State) (r : FibreRef) (seq : Nat) : State :=
  { s with remote := s.remote.filter (fun a => match a.who with | .load x q _ => !(x == r && q == seq) | _ => true) }

/-- Bytes that a remote operation answers with. -/
def RemoteKind.bytes : RemoteKind → Nat
  | .read n => n
  | .write _ => 0
  | .atomic _ _ _ => 8

/-- Bytes that nothing states. -/
def State.freeBytes (s : State) (n : Nat) : List Byte := (List.range n).map (fun i => BitVec.ofNat 8 (Config.free s.tick (1000 + i)))

/-- A remote access may leave: the earlier accesses that 09 R192 keeps before it are performed, its release side is met (R193), and one that also writes waits for the store queue. -/
def remoteReady (s : State) (r : FibreRef) (t : Team) (f : Fibre) (parts : List RemotePart) (st : Strength) : Bool :=
  let writes := parts.any (fun p => match p.kind with | .read _ => false | _ => true)
  parts.all (fun p => inOrder s t f f.seq (.remote p.host p.window p.off)) &&
  (if writes then f.sq.isEmpty && fencesMet s r f f.seq else !remoteQueued f) &&
  ((st.order != 2 && st.order != 3) || st.scope == 0 || (!f.loadsPending && storesDone s r f st.scope))

/-- A remote access that returns a value waits at its instruction: sent once, and passed with the bytes when every part is answered (log entry 13), its acquire made (09 R194). A failed one is the precise address fault (03 R81), or the fault of a peer's status; link down is asynchronous only, so the instruction passes with values that nothing states (14 Table 14.1). -/
def remoteAccess (r : FibreRef) (t : Team) (f : Fibre) (va : Nat) (parts : List RemotePart) (st : Strength) (s : State)
    (k : List (List Byte) → State → Act) : Act :=
  let idx := List.range parts.length
  let answers := idx.map (fun i => s.remoteAnswer r f.seq i)
  if answers.any (fun a => a.isNone) then
    if !remoteReady s r t f parts st then wait s
    else .error (.hold ((idx.zip parts).foldl (fun s p => s.send p.2.host t.ctx p.2.window p.2.off p.2.kind (.load r f.seq p.1)) s))
  else
    match (answers.filterMap id).find? (fun o => o.failed) with
    | some o =>
      let s := s.takeAnswers r f.seq
      if !o.host && o.status == 255 then
        k (parts.map (fun p => s.freeBytes p.kind.bytes)) (s.raiseAsync r 1 0x1A 0 10 f.pc.toNat va none)
      else
        let e := mkTrap (if o.host then 0x03 else peerCause o.status) 0 va
        .error (.took e (s.raiseAt r e [] 0))
    | none =>
      let bs := answers.map (fun a => a.bind (fun o => o.answer))
      if bs.any (fun b => b.isNone) then wait s
      else k (bs.map (fun b => b.getD [])) ((s.takeAnswers r f.seq).acquireFor r st)

/-- The reads of `n` bytes at a remote place. -/
def remoteReads (h : Bool) (w o n : Nat) : List RemotePart :=
  if n = 16 then [⟨h, w, o, .read 8⟩, ⟨h, w, o + 8, .read 8⟩] else [⟨h, w, o, .read n⟩]

/-- Destination registers of a load of `n` bytes. -/
def loadRegs (n d : Nat) : List Nat := if n = 16 then [d, d + 1] else [d]

/-- The register values of loaded bytes: zero-extended, or a pair (17 R346, R347). -/
def loadVals (n d : Nat) (bs : List (List Byte)) : List (Nat × Dword) :=
  (loadRegs n d).zip (bs.map (fun b => BitVec.ofNat 64 (natOfBytes b)))

/-- Issue of LD and LDS at a virtual address. -/
def loadAt (len : Nat) (space n d : Nat) (st : Strength) (va : Nat) (r : FibreRef) (t : Team) (f : Fibre) (s : State) : Act :=
  match place s r t f .load space va n n with
  | .error e => .error e
  | .ok (.remote h w o) =>
    remoteAccess r t f va (remoteReads h w o n) st s
      (fun bs s => issueLong r f len (.value (loadVals n d bs) none) (loadRegs n d) [] [] s)
  | .ok l =>
    if meetsPoison s t f l n st then .error (.trap (mkTrap 0x12 0 va))
    else issueLong r f len (.load l n d st) (loadRegs n d) [] [] s

def execLd (d b : BitVec 7) (o : BitVec 6) (sp : BitVec 2) (z : BitVec 3) : State → Host.Outcome State Fault Refusal :=
  let n := sizeBytes z.toNat
  isa 1 { rd := [b.toNat], wr := loadRegs n d.toNat, long := true } (fun r t f s =>
    loadAt 1 sp.toNat n d.toNat plain (effAddr (f.reg b.toNat) o n) r t f s)

def execLds (d b : BitVec 7) (c k : BitVec 3) (sp : BitVec 2) (z : BitVec 3) : State → Host.Outcome State Fault Refusal :=
  isa 1 { rd := [b.toNat], wr := [d.toNat], long := true } (fun r t f s =>
    loadAt 1 sp.toNat (sizeBytes z.toNat) d.toNat ⟨true, c.toNat, k.toNat⟩ (f.reg b.toNat).toNat r t f s)

/-- An element of a pair as it is taken when the other one is remote: from the answers, or read in place. -/
def pairPart (t : Team) (f : Fibre) (l : Loc) (n : Nat) (bs : List (List Byte)) (s : State) : List Byte × List (List Byte) × Bool × State :=
  match l with
  | .remote _ _ _ => (bs.headD [], bs.drop 1, false, s)
  | l =>
    let ((b, p), s) := s.loadPlace t f l n plain
    (b, bs, (f.queuedPoison l).getD p, s)

/-- LDP with an element on a remote page: the element in place is loaded as any load, once it can be (09 R190, R192, 08 R182). -/
def remotePair (r : FibreRef) (t : Team) (f : Fibre) (a n d : Nat) (l0 l1 : Loc) (s : State) : Act :=
  let part := fun (l : Loc) => match l with | .remote h w o => remoteReads h w o n | _ => []
  if [l0, l1].any (fun l => !l.isRemote && !loadReady s t f f.seq l plain) then wait s
  else remoteAccess r t f a (part l0 ++ part l1) plain s (fun bs s =>
    let (b0, bs, p0, s) := pairPart t f l0 n bs s
    let (b1, _, p1, s) := pairPart t f l1 n bs s
    if p0 then .error (.trap (mkTrap 0x12 0 a))
    else if p1 then .error (.trap (mkTrap 0x12 0 (a + n)))
    else issueLong r f 1 (.value (loadVals n d [b0] ++ loadVals n (d + 1) [b1]) none) [d, d + 1] [] [] s)

/-- LDP: both elements are translated before anything is loaded (17 R349). -/
def execLdp (d b : BitVec 7) (o : BitVec 6) (sp : BitVec 2) (z : BitVec 1) : State → Host.Outcome State Fault Refusal :=
  let n := if z = 0 then 4 else 8
  isa 1 { rd := [b.toNat], wr := [d.toNat, d.toNat + 1], long := true } (fun r t f s =>
    let a := effAddr (f.reg b.toNat) o n
    match place s r t f .load sp.toNat a n n, place s r t f .load sp.toNat (a + n) n n with
    | .error e, _ => .error e
    | _, .error e => .error e
    | .ok l0, .ok l1 =>
      if l0.isRemote ∨ l1.isRemote then remotePair r t f a n d.toNat l0 l1 s
      else if meetsPoison s t f l0 n plain then .error (.trap (mkTrap 0x12 0 a))
      else if meetsPoison s t f l1 n plain then .error (.trap (mkTrap 0x12 0 (a + n)))
      else issueLong r f 1 (.pair l0 l1 n d.toNat) [d.toNat, d.toNat + 1] [] [] s)

/-- LDNR: a non-resident page gives 0 and clears the predicate (17 R351). -/
def execLdnr (d b : BitVec 7) (p : BitVec 5) (sp : BitVec 2) (z : BitVec 3) : State → Host.Outcome State Fault Refusal :=
  let n := sizeBytes z.toNat
  isa 1 { rd := [b.toNat], wr := loadRegs n d.toNat, pwr := [p.toNat], long := true } (fun r t f s =>
    let a := (f.reg b.toNat).toNat
    let issue := fun (k : LongKind) (s : State) => issueLong r f 1 k (loadRegs n d.toNat) [p.toNat] [] s
    match access s t f .load sp.toNat a n n with
    | .error e => .error (.trap e)
    | .ok .nonres => issue (.loadNr none n d.toNat p.toNat) s
    | .ok .away => .error (.hold (s.beginReturnTrap r (f.stack?.getD 0)))
    | .ok (.ok (.remote h w o)) =>
      remoteAccess r t f a (remoteReads h w o n) plain s
        (fun bs s => issue (.value (loadVals n d.toNat bs) (some (p.toNat, true))) s)
    | .ok (.ok l) =>
      if meetsPoison s t f l n plain then .error (.trap (mkTrap 0x12 0 a))
      else issue (.loadNr (some l) n d.toNat p.toNat) s)

/-! ### Issue of stores -/

/-- The queue entries of a store of bytes at a place: one for each dword (09 R190). -/
def queueBytes (r : FibreRef) (l : Loc) (bs : List Byte) (st : Strength) (s : State) : State :=
  if bs.length = 16 then
    queueStore r (.write (l.plus 8) ((bs.drop 8).map some)) st (queueStore r (.write l ((bs.take 8).map some)) st s)
  else queueStore r (.write l (bs.map some)) st s

/-- The bytes a store of `n` bytes takes from register `d`, or from the pair (17 R347). -/
def storeBytes (f : Fibre) (n d : Nat) : List Byte :=
  if n = 16 then bytesOf (f.reg d) 8 ++ bytesOf (f.reg (d + 1)) 8 else bytesOf (f.reg d) n

/-- The memory word of a store takes the poison of a struck register whose value the store writes (08 R184). -/
def carryPoison (r : FibreRef) (f : Fibre) (d : Nat) (l : Loc) (s : State) : State :=
  if f.spoilt.contains d then queueStore r (.poison l) plain s else s

/-- A store cannot carry a struck register's poison to a remote page: no packet or flit has a field for it, and the poison is consumed there (log entry 92). -/
def carriesOff (f : Fibre) (l : Loc) (ds : List Nat) : Bool := l.isRemote && ds.any f.spoilt.contains

/-- A store at a virtual address: the checks, then the queue. -/
def storeAt (space n d : Nat) (st : Strength) (va : Nat) (r : FibreRef) (t : Team) (f : Fibre) (s : State) : Act :=
  match place s r t f .store space va n n with
  | .error e => .error e
  | .ok l =>
    if carriesOff f l (loadRegs n d) then .error (.trap (mkTrap 0x12 0 va))
    else
      let s := carryPoison r f d l (queueBytes r l (storeBytes f n d) st s)
      .ok (if n = 16 then carryPoison r f (d + 1) (l.plus 8) s else s)

/-- Registers that a store reads for their value alone, and not also for an address or a mask. -/
def dataOnly (ds others : List Nat) : List Nat := ds.filter (fun d => !others.contains d)

def execSt (d b : BitVec 7) (o : BitVec 6) (sp : BitVec 2) (z : BitVec 3) : State → Host.Outcome State Fault Refusal :=
  let n := sizeBytes z.toNat
  isa 1 { rd := b.toNat :: loadRegs n d.toNat, data := dataOnly (loadRegs n d.toNat) [b.toNat] } (fun r t f s =>
    storeAt sp.toNat n d.toNat plain (effAddr (f.reg b.toNat) o n) r t f s)

def execSts (d b : BitVec 7) (c k : BitVec 3) (sp : BitVec 2) (z : BitVec 3) : State → Host.Outcome State Fault Refusal :=
  isa 1 { rd := [b.toNat, d.toNat], data := dataOnly [d.toNat] [b.toNat] } (fun r t f s =>
    storeAt sp.toNat (sizeBytes z.toNat) d.toNat ⟨true, c.toNat, k.toNat⟩ (f.reg b.toNat).toNat r t f s)

def execStp (d b : BitVec 7) (o : BitVec 6) (sp : BitVec 2) (z : BitVec 1) : State → Host.Outcome State Fault Refusal :=
  let n := if z = 0 then 4 else 8
  isa 1 { rd := [b.toNat, d.toNat, d.toNat + 1], data := dataOnly [d.toNat, d.toNat + 1] [b.toNat] } (fun r t f s =>
    let a := effAddr (f.reg b.toNat) o n
    match place s r t f .store sp.toNat a n n, place s r t f .store sp.toNat (a + n) n n with
    | .error e, _ => .error e
    | _, .error e => .error e
    | .ok l0, .ok l1 =>
      if carriesOff f l0 [d.toNat] then .error (.trap (mkTrap 0x12 0 a))
      else if carriesOff f l1 [d.toNat + 1] then .error (.trap (mkTrap 0x12 0 (a + n)))
      else
        let s := carryPoison r f d.toNat l0 (queueBytes r l0 (bytesOf (f.reg d.toNat) n) plain s)
        .ok (carryPoison r f (d.toNat + 1) l1 (queueBytes r l1 (bytesOf (f.reg (d.toNat + 1)) n) plain s)))

/-- STN: the nibble address and its byte (17 R350). -/
def nibbleAddr (base : Dword) (o : BitVec 6) : Nat := (base + wrap64 (immS o)).toNat

def execStn (d b : BitVec 7) (o : BitVec 6) (sp : BitVec 2) : State → Host.Outcome State Fault Refusal :=
  isa 1 { rd := [b.toNat, d.toNat], data := dataOnly [d.toNat] [b.toNat] } (fun r t f s =>
    let n := nibbleAddr (f.reg b.toNat) o
    if 2 ^ 53 ≤ n then .error (.trap (.unmapped (n / 2)))
    else
      match place s r t f .store sp.toNat (n / 2) 1 1 with
      | .error e => .error e
      | .ok l =>
        if l.isRemote then .error (.trap (.denied (n / 2)))
        else .ok (carryPoison r f d.toNat l (queueStore r (.nibble l (n % 2 == 1) ((f.reg d.toNat).setWidth 4)) plain s)))

/-- The masked bytes of STM. -/
def maskedBytes (v : Dword) (m : Nat) : List (Option Byte) :=
  (List.range 8).map (fun i => if m.testBit i then some ((bytesOf v 8).getD i 0) else none)

def execStm (d b : BitVec 7) (o : BitVec 6) (sp : BitVec 2) : State → Host.Outcome State Fault Refusal :=
  isa 1 { rd := [b.toNat, d.toNat, d.toNat + 1], data := dataOnly [d.toNat] [b.toNat] } (fun r t f s =>
    let a := effAddr (f.reg b.toNat) o 8
    match place s r t f .store sp.toNat a 8 8 with
    | .error e => .error e
    | .ok l =>
      let m := lowNat 8 (f.reg (d.toNat + 1))
      if m = 0 then .ok s
      else if carriesOff f l [d.toNat] then .error (.trap (mkTrap 0x12 0 a))
      else .ok (carryPoison r f d.toNat l (queueStore r (.write l (maskedBytes (f.reg d.toNat) m)) plain s)))

/-! ### Prefetch and page requests (17 R352, 04 R96) -/

/-- PREF.l1 brings a line into the core's L1, PREF.sc into its home slice (08 R172); on a line that an engine owns, or where a check fails, it does nothing. -/
def execPref (b : BitVec 7) (o : BitVec 6) (sp : BitVec 2) (l : BitVec 1) : State → Host.Outcome State Fault Refusal :=
  isa 1 { rd := [b.toNat] } (fun _ t f s =>
    match access s t f .load sp.toNat (effAddr (f.reg b.toNat) o 8) 1 1, coreOf t f with
    | .ok (.ok (.mem m)), some c =>
      let line := lineOf m.pa
      if s.owned.any (fun p => p.1 == line) then .ok s
      else if l ≠ 0 then .ok (s.keepHome m line ((List.range 16).map (fun i => 16 * line + i)) false t.ctx)
      else if s.coh.l1.any (fun x => x.core == c && x.line == line) then .ok s
      else
        let (d, s) := if m.cls = 2 then (s.lineAt line, s) else s.readSlices c.die m t.ctx
        .ok (s.installL1 c line (s.ownWords c line d))
    | _, _ => .ok s)

/-- The place of one word of the pager mailbox (17 R352 item 4). -/
def mailboxWord (s : State) (ctx mb : Nat) : Except Trap MemLoc :=
  match translate s ctx 8 0 mb .tagWrite false with
  | .ok l => (match l.loc mb with | .mem m => .ok m | _ => .error (.denied mb))
  | .nonres => .error (.unmapped mb)
  | .trap t => .error { t with cause := 0x03, detail := if t.cause = 0x03 then t.detail else 1 }

/-- A page request posted in the mailbox that starts at `m` (04 R96). -/
def postRequest (s : State) (r : FibreRef) (ctx : Nat) (m : MemLoc) (page notify : Nat) (write : Bool) (core : Option CoreId) : State :=
  let at_ := fun (o : Nat) => { m with pa := m.pa + o, va := m.va + o }
  let put := fun (s : State) (o : Nat) (v : Dword) => s.modifyHome (at_ o) ((bytesOf v 8).map some) (.fibre r) ctx core
  let q := (s.wordAt (wordOf m.pa)).1
  let s := put s 0 (q + 1)
  let o := 16 * (2 + q.toNat % 254)
  if s.tagFull (wordOf (m.pa + o)) then put s 16 ((s.wordAt (wordOf (m.pa + 16))).1 + 1)
  else
    let s := put s (o + 8) (ofNat64 notify)
    let s := s.fillAt (at_ o) (some (ofNat64 (bit write + page * 2 ^ 16))) (.fibre r) ctx core
    s.fillAt (at_ 8) none (.fibre r) ctx core

/-- A line of the mailbox that starts at `m` is owned by an engine command: the accesses wait (08 R182). -/
def mailboxOwned (s : State) (m : MemLoc) : Bool :=
  s.owned.any (fun p => decide (lineOf m.pa ≤ p.1 ∧ p.1 < lineOf m.pa + 32))

def execPreq (d b : BitVec 7) (o : BitVec 6) (_sp : BitVec 2) (w : BitVec 1) : State → Host.Outcome State Fault Refusal :=
  isa 1 { rd := [b.toNat, d.toNat] } (fun r t f s =>
    let a := effAddr (f.reg b.toNat) o 8
    let n := f.reg d.toNat
    let mb := (s.ctx? t.ctx).elim 0 (fun c => c.pagerMbox)
    if 2 ^ 52 ≤ a ∨ leafFor s t.ctx (dieOf t f) a = .none then .error (.trap (.unmapped a))
    else if 2 ^ 52 ≤ n.toNat then .error (.trap (.unmapped n.toNat))
    else
      match mailboxWord s t.ctx mb with
      | .error e => .error (.trap e)
      | .ok m =>
        if f.loadsPending ∨ !storesDone s r f 4 ∨ mailboxOwned s m then wait s
        else .ok (postRequest s r t.ctx m (a / 2 ^ 16) n.toNat (w == 1) (coreOf t f)))

/-! ### Ranged acquire (17 R357, 09 R202) -/

/-- The line holds a global address of the range `[lo, hi)` under the context's tables. -/
def lineInRange (s : State) (ctx die lo hi line : Nat) : Bool :=
  (List.range ((hi - lo) / 65536 + 2)).any (fun k =>
    let va := lo / 65536 * 65536 + 65536 * k
    match leafFor s ctx die va with
    | .leaf l =>
      let base := l.place va
      decide (l.cls ≤ 2 ∧ base ≤ line * 128 + 127 ∧ line * 128 < base + 65536 ∧
        lo < va + (line * 128 + 128 - base) ∧ va + (line * 128 - base) < hi)
    | _ => false)

/-- An acquire of a range. -/
def State.acquireRange (s : State) (t : Team) (f : Fibre) (lo hi : Nat) : State :=
  match coreOf t f with
  | some c => s.acquireL1 c (some (lineInRange s t.ctx (dieOf t f) lo hi))
  | none => s

def execAcqr (a b : BitVec 7) (_c : BitVec 3) : State → Host.Outcome State Fault Refusal :=
  isa 1 { rd := [a.toNat, b.toNat] } (fun _ t f s =>
    let x := (f.reg a.toNat).toNat
    let n := (f.reg b.toNat).toNat
    let lo := x / 256 * 256
    let hi := (x + n + 255) / 256 * 256
    if n = 0 ∨ 2 ^ 24 < hi - lo ∨ 2 ^ 52 < hi then .error (.trap (.extent x))
    else if f.loadsPending then wait s
    else .ok (s.acquireRange t f lo hi))

/-! ### Cache forms (17 R358 to R360) -/

/-- The line of a global address that the fibre's core holds in its L1, for the forms that never fault. -/
def cachedLine (s : State) (t : Team) (f : Fibre) (a : Nat) : Option (CoreId × MemLoc) :=
  match access s t f .load 0 a 1 1, coreOf t f with
  | .ok (.ok (.mem m)), some c =>
    if m.cls ≤ 1 ∧ s.coh.l1.any (fun x => x.core == c && x.line == lineOf m.pa) then some (c, m) else none
  | _, _ => none

/-- CACHE forms 0 and 1: the words registered to the core go home; the line is dropped. -/
def cacheFlush (a : BitVec 7) (drop : Bool) : State → Host.Outcome State Fault Refusal :=
  isa 1 { rd := [a.toNat], near := false } (fun _ t f s =>
    match cachedLine s t f (f.reg a.toNat).toNat with
    | some (c, m) =>
      let line := lineOf m.pa
      let s := { s with coh := { s.coh with regn := s.coh.regn.filter (fun p => !(p.2 == c && p.1 / 16 == line)) } }
      .ok (if drop then s.dropLine c line else s)
    | none => .ok s)

def execCacheFlush (a : BitVec 7) : State → Host.Outcome State Fault Refusal := cacheFlush a false

def execCacheInval (a : BitVec 7) : State → Host.Outcome State Fault Refusal := cacheFlush a true

/-- CACHE forms 2 and 3: the replacement class, in its home slice, of a line that the L1 holds; a line that the home slice does not hold, as a bypass line, has none. -/
def cacheClass (a : BitVec 7) (keep : Bool) : State → Host.Outcome State Fault Refusal :=
  isa 1 { rd := [a.toNat], near := false } (fun _ t f s =>
    match cachedLine s t f (f.reg a.toNat).toNat with
    | some (_, m) =>
      .ok { s with coh := { s.coh with slices := s.coh.slices.map (fun (h : HomeLine) =>
        if h.line == lineOf m.pa then { h with cls := if keep then 2 else 1 } else h) } }
    | none => .ok s)

def execCacheRetain (a : BitVec 7) : State → Host.Outcome State Fault Refusal := cacheClass a true

def execCacheEvict (a : BitVec 7) : State → Host.Outcome State Fault Refusal := cacheClass a false

/-- RESIZE issues; its switch point is a device step (08 R167). -/
def resizeForm (d a : BitVec 7) (keep : Bool) : State → Host.Outcome State Fault Refusal :=
  isa 1 { rd := [a.toNat], wr := [d.toNat], near := false, long := true } (fun r _ f s =>
    issueLong r f 1 (.resize (f.reg a.toNat).toNat d.toNat keep) [d.toNat] [] [] s)

def execResize (d a : BitVec 7) : State → Host.Outcome State Fault Refusal := resizeForm d a true

def execResizeRel (d a : BitVec 7) : State → Host.Outcome State Fault Refusal := resizeForm d a false

/-- Ways that no resident team of the core reserves (08 R167). -/
def State.freeWays (s : State) (c : Option CoreId) : Nat :=
  16 - ((s.teams.filter (fun t => t.core.isSome && t.core == c)).map (fun t => t.reserved)).foldl (· + ·) 0

/-- cache.ways (17 Table 17.4). -/
def waysValue (s : State) (t : Team) : Dword :=
  ofNat64 (t.alloc + t.reserved * 2 ^ 5 + s.freeWays t.core * 2 ^ 10 + (t.reserved - t.alloc) * 2 ^ 15 + bit t.kernel.mcore * 2 ^ 20)

def execCacheWays (d : BitVec 7) : State → Host.Outcome State Fault Refusal :=
  isa 1 { wr := [d.toNat], near := false } (fun r t _ s =>
    .ok (s.updFibre r (fun x => x.setReg d.toNat (waysValue s t))))

/-- RQDEG (08 Table 8.6). -/
def regionValue (s : State) (m : MemLoc) : Dword :=
  let g := s.region (regionOf (lineOf m.pa))
  ofNat64 (degreeOf g.degree + bit m.pin0 * 2 ^ 3 + homeDie (lineOf m.pa) * 2 ^ 4 + g.holders.toNat * 2 ^ 8)

def execRqdeg (d a : BitVec 7) : State → Host.Outcome State Fault Refusal :=
  isa 1 { rd := [a.toNat], wr := [d.toNat], near := false } (fun r t f s =>
    match place s r t f .load 0 (f.reg a.toNat).toNat 1 1 with
    | .error e => .error e
    | .ok l =>
      let v := match l with
        | .mem m => if m.cls ≤ 1 then regionValue s m else 0
        | _ => 0
      .ok (s.updFibre r (fun x => x.setReg d.toNat v)))

/-! ### Drop points (15 Table 15.3) -/

/-- One performed load at place `seq`. -/
def performLoad (s : State) (t : Team) (f : Fibre) (seq : Nat) (l : Loc) (n : Nat) (st : Strength) : (List Byte × Bool) × State :=
  s.loadPlace t (f.queueBefore seq) l n st

/-- The outstanding operation is finished: its registers and predicate written, its counter dropped (15 R295). -/
def finishLong (r : FibreRef) (op : LongOp) (vals : List (Nat × Dword)) (pr : Option (Nat × Bool)) (s : State) : State :=
  s.updFibre r (fun f =>
    let f := vals.foldl (fun f p => f.setReg p.1 p.2) f
    let f := match pr with | some (p, b) => f.setPred p b | none => f
    { f.countDown op.counter with ll := f.ll.filter (fun o => o != op) })

/-- The aclk before time `x` at which the window of a refresh group is open (08 R171). -/
def openBefore (g x : Nat) : Nat := x / 115200 * 3240 + min (x % 115200 - 14400 * g) 3240

/-- The stall of some reads that were asked for at time `a` and are performed now, in the windows of their refresh groups (08 R171, R187). -/
def State.countRefresh (s : State) (ctx a : Nat) (ls : List Loc) : State :=
  let gs := (ls.filterMap (fun l => match l with | .mem m => if m.cls = 2 then some (bitsOf m.pa 28 3) else none | _ => none)).foldl setInsert []
  let n := (gs.map (fun g => openBefore g s.aclk - openBefore g a)).foldl (· + ·) 0
  if n = 0 then s else s.count ctx 0x44 n

/-- A load met poison between its issue and its performance: the fault is reported asynchronously and nothing is written (log entry 14). -/
def dropPoisoned (r : FibreRef) (op : LongOp) (s : State) : State :=
  (finishLong r op [] none s).raiseAsync r 1 0x12 0 0 op.pc 0 none

/-- The drop point of a load of memory: its parts performed, its registers written, its acquire made. -/
def dropLoad (r : FibreRef) (t : Team) (f : Fibre) (op : LongOp) (parts : List (Loc × Nat × Nat)) (st : Strength)
    (pr : Option (Nat × Bool)) (s : State) : State :=
  if parts.all (fun p => loadReady s t f op.seq p.1 st) then
    let step := fun (a : (List (Nat × Dword) × Bool) × State) (p : Loc × Nat × Nat) =>
      let ((bs, q), s) := performLoad a.2 t f op.seq p.1 p.2.1 st
      ((a.1.1 ++ [(p.2.2, BitVec.ofNat 64 (natOfBytes bs))], a.1.2 || ((f.queueBefore op.seq).queuedPoison p.1).getD q), s)
    let ((vals, bad), s) := parts.foldl step (([], false), s)
    if bad then dropPoisoned r op s
    else
      let s := finishLong r op vals pr s
      if st.strong then s.acquireFor r st else s
  else s

/-- The tag of a word as TAGQ reads it (17 R364). -/
def tagValue (s : State) (l : Loc) : Dword :=
  match l with
  | .mem m => if s.tagFull (wordOf m.pa) then 1 else 0
  | _ => 0

/-- Parts of a load of `n` bytes at `l` into register `d`. -/
def loadParts (l : Loc) (n d : Nat) : List (Loc × Nat × Nat) :=
  if n = 16 then [(l, 8, d), (l.plus 8, 8, d + 1)] else [(l, n, d)]

/-- The drop point of the outstanding memory loads and of values already known; nothing happens for the others. -/
def dropMemory (r : FibreRef) (t : Team) (f : Fibre) (op : LongOp) (s : State) : State :=
  match op.kind with
  | .load l n d st => dropLoad r t f op (loadParts l n d) st none s
  | .pair a b n d => dropLoad r t f op [(a, n, d), (b, n, d + 1)] plain none s
  | .loadNr (some l) n d p => dropLoad r t f op (loadParts l n d) plain (some (p, true)) s
  | .loadNr none n d p => finishLong r op ((loadRegs n d).map (fun x => (x, 0))) (some (p, false)) s
  | .tagq l d => if loadReady s t f op.seq l ⟨true, 4, 0⟩ then finishLong r op [(d, tagValue s l)] none s else s
  | .atomic _ d _ _ (some v) => finishLong r op [(d, v)] none s
  | .value vals pr => finishLong r op vals pr s
  | _ => s

end Sys2Proof.Machine
end

