-- ==== Sys2Proof/Machine/Atomics.lean ====
section
/-! DEFINITION. Atomics, compare-and-swap and reductions: opcodes 0x38 to 0x3B (17 R353 to R356), and the store queue's operations performed at their homes (09 R191, 08 R179). -/

namespace Sys2Proof.Machine

/-! ### Issue -/

/-- The remote operation an atomic of fn `f` on 64 bits becomes, where the class allows one (17 R354, R355): a host page only adds, a peer page takes every fn. -/
def remoteAtomic (host : Bool) (bytes fn : Nat) (v : Dword) : Option RemoteKind :=
  if bytes = 8 ∧ (!host ∨ fn = 0) then some (.atomic fn v 0) else none

/-- The operation sent for a compare-and-swap. -/
def remoteCas (bytes : Nat) (v expect : Dword) : Option RemoteKind :=
  if bytes = 8 then some (.atomic 10 v expect) else none

/-- The number in the low bytes of an operand register. -/
def operandOf (n : Nat) (v : Dword) : Dword := ofNat64 (lowNat (8 * n) v)

/-- Issue of an atomic that returns its old value to register `d`: queued, and outstanding until the value has come. -/
def atomicRet (r : FibreRef) (f : Fibre) (len d n : Nat) (op : AtomOp) (v : Dword) (st : Strength) (l : Loc) (s : State) : Act :=
  let (ticket, s) := s.fresh
  match issueLong r f len (.atomic ticket d l st none) [d] [] [] s with
  | .error (.hold _) => .error (.hold s)
  | .error e => .error e
  | .ok s => .ok (queueStore r (.atomic l op n v (some ticket)) st s)

/-- ATOM and CAS with return, at a virtual address: the checks, the restriction of remote pages, poison, then the issue. -/
def atomicAt (len d n space va : Nat) (op : AtomOp) (v : Dword) (rem : Bool → Option RemoteKind) (st : Strength)
    (r : FibreRef) (t : Team) (f : Fibre) (s : State) : Act :=
  match place s r t f .atomic space va n n with
  | .error e => .error e
  | .ok (.remote h w o) =>
    (match rem h with
     | none => .error (.trap (.denied va))
     | some k =>
       remoteAccess r t f va [⟨h, w, o, k⟩] st s (fun bs s =>
         issueLong r f len (.value (loadVals n d bs) none) [d] [] [] s))
  | .ok l =>
    if (f.queuedPoison l).getD (s.poisonedAt l) then .error (.trap (mkTrap 0x12 0 va))
    else atomicRet r f len d n op v st l s

/-- ATOM without return and RED: the checks, then the queue; on a remote page what `rem` says, which completes at the instruction (03 R81), without a fault where the word there is poisoned (17 R354). -/
def reduceAt (n space va : Nat) (op : AtomOp) (v : Dword) (rem : Bool → Option RemoteKind) (st : Strength)
    (r : FibreRef) (t : Team) (f : Fibre) (s : State) : Act :=
  match place s r t f .atomic space va n n with
  | .error e => .error e
  | .ok (.remote h w o) =>
    (match rem h with
     | none => .error (.trap (.denied va))
     | some k =>
       let passed := fun (s : State) => s.updFibre r (fun f => { f with seq := f.seq + 1 })
       if (s.remoteAnswer r f.seq 0).any (fun o => o.failed && !o.host && o.status == 3) then .ok (passed (s.takeAnswers r f.seq))
       else remoteAccess r t f va [⟨h, w, o, k⟩] st s (fun _ s => .ok (passed s)))
  | .ok l => .ok (queueStore r (.atomic l op n v none) st s)

/-- ATOM32 and ATOM64 with `n` bytes. -/
def atomForm (n : Nat) (d a b : BitVec 7) (f : BitVec 4) (c k : BitVec 3) (nr : BitVec 1) (sp : BitVec 2) :
    State → Host.Outcome State Fault Refusal :=
  let st : Strength := ⟨true, c.toNat, k.toNat⟩
  isa 2 { rd := [a.toNat, b.toNat], wr := if nr = 0 then [d.toNat] else [], long := nr == 0 } (fun r t x s =>
    let va := (x.reg a.toNat).toNat
    let v := operandOf n (x.reg b.toNat)
    if nr = 0 then atomicAt 2 d.toNat n sp.toNat va (atomOp f.toNat) v (fun h => remoteAtomic h n f.toNat v) st r t x s
    else reduceAt n sp.toNat va (atomOp f.toNat) v (fun h => remoteAtomic h n f.toNat v) st r t x s)

def execAtom32 (d a b : BitVec 7) (f : BitVec 4) (c k : BitVec 3) (nr : BitVec 1) (sp : BitVec 2) :
    State → Host.Outcome State Fault Refusal := atomForm 4 d a b f c k nr sp

def execAtom64 (d a b : BitVec 7) (f : BitVec 4) (c k : BitVec 3) (nr : BitVec 1) (sp : BitVec 2) :
    State → Host.Outcome State Fault Refusal := atomForm 8 d a b f c k nr sp

def execCas (d a b : BitVec 7) (w : BitVec 1) (c k : BitVec 3) (sp : BitVec 2) : State → Host.Outcome State Fault Refusal :=
  let n := if w = 0 then 8 else 4
  isa 2 { rd := [a.toNat, b.toNat, d.toNat], wr := [d.toNat], long := true } (fun r t x s =>
    let e := operandOf n (x.reg d.toNat)
    let v := operandOf n (x.reg b.toNat)
    atomicAt 2 d.toNat n sp.toNat (x.reg a.toNat).toNat (.cas e) v (fun _ => remoteCas n v e) ⟨true, c.toNat, k.toNat⟩ r t x s)

def execRed (a b : BitVec 7) (f : BitVec 4) (c k : BitVec 3) (sp : BitVec 2) (w : BitVec 1) : State → Host.Outcome State Fault Refusal :=
  let n := if w = 0 then 8 else 4
  isa 2 { rd := [a.toNat, b.toNat] } (fun r t x s =>
    reduceAt n sp.toNat (x.reg a.toNat).toNat (atomOp f.toNat) (operandOf n (x.reg b.toNat)) (fun _ => none)
      ⟨true, c.toNat, k.toNat⟩ r t x s)

/-- REDF: bytes of an element by ftype (17 R356). -/
def redfBytes (t : Nat) : Nat := if t = 2 then 2 else 4

def execRedf (a b : BitVec 7) (f : BitVec 4) (ft : BitVec 2) : State → Host.Outcome State Fault Refusal :=
  let n := redfBytes ft.toNat
  isa 2 { rd := [a.toNat, b.toNat] } (fun r t x s =>
    let va := (x.reg a.toNat).toNat
    match place s r t x .redf 0 va n n with
    | .error e => .error e
    | .ok l => .ok (queueStore r (.redf l ft.toNat f.toNat (operandOf n (x.reg b.toNat))) plain s))

/-! ### The store queue performs -/

/-- A write into a team's scratchpad: bytes, and the poison of words written whole. -/
def scratchWrite (s : State) (team off : Nat) (bs : List (Option Byte)) : State :=
  s.updTeam team (fun t => { t with
    scratch := sparseWrite t.scratch off bs
    scratchPoison := (wordsWhole off bs).foldl setErase t.scratchPoison })

/-- A write into a near-core slot's scratchpad. -/
def nearWrite (s : State) (k c i off : Nat) (bs : List (Option Byte)) : State :=
  { s with near := s.near.map (fun (x : NearSlot) =>
      if x.stack == k && x.core == c && x.slot == i then
        { x with
          scratch := sparseWrite x.scratch off bs
          poison := (wordsWhole off bs).foldl setErase x.poison }
      else x) }

/-- The memory word of a place is marked poisoned. -/
def State.poisonAt (s : State) (l : Loc) : State :=
  match l with
  | .mem m => { s with mem := { s.mem with poison := setInsert s.mem.poison (wordOf m.pa) } }
  | .scr t o => s.updTeam t (fun t => { t with scratchPoison := setInsert t.scratchPoison (o / 8) })
  | .near k c i o => { s with near := s.near.map (fun (x : NearSlot) =>
      if x.stack == k && x.core == c && x.slot == i then { x with poison := setInsert x.poison (o / 8) } else x) }
  | .remote _ _ _ => s

/-- The runs of bytes between the holes of a masked store: offset and bytes. -/
def runsOf (off : Nat) : List (Option Byte) → List (Nat × List Byte)
  | [] => []
  | none :: bs => runsOf (off + 1) bs
  | some b :: bs =>
    match runsOf (off + 1) bs with
    | (o, xs) :: rest => if o = off + 1 then (off, b :: xs) :: rest else (off, [b]) :: (o, xs) :: rest
    | [] => [(off, [b])]

/-- Bytes written at a place by a fibre's store. -/
def State.storeBytesAt (s : State) (r : FibreRef) (t : Team) (f : Fibre) (l : Loc) (bs : List (Option Byte)) (pc : Nat) : State :=
  match l with
  | .mem m => s.writeHome m bs (.fibre r) t.ctx ⟨coreOf t f, some (dieOf t f)⟩
  | .scr x o => scratchWrite s x o bs
  | .near k c i o => nearWrite s k c i o bs
  | .remote h w o => (runsOf 0 bs).foldl (fun s p => s.send h t.ctx w (o + p.1) (.write (p.2.map some)) (.store r pc)) s

/-- Bytes changed at a place from their old value, with registrations recalled and cuttings collapsed (08 R179, R181). -/
def State.modifyAt (s : State) (r : FibreRef) (t : Team) (f : Fibre) (l : Loc) (bs : List Byte) : State :=
  match l with
  | .mem m => s.modifyHome m (bs.map some) (.fibre r) t.ctx (coreOf t f)
  | .scr x o => scratchWrite s x o (bs.map some)
  | .near k c i o => nearWrite s k c i o (bs.map some)
  | .remote _ _ _ => s

/-- The bytes a place holds at its home. -/
def State.homeBytes (s : State) (l : Loc) (n : Nat) : List Byte :=
  match l with
  | .mem m => s.physBytes m.pa n
  | .scr t o => (scratchRead s t o n).1
  | .near k c i o => (nearRead s k c i o n).1
  | .remote _ _ _ => List.replicate n 0

/-- The old value of an atomic reaches the long-latency instruction that waits for it, and its acquire is made (09 R194). -/
def giveTicket (r : FibreRef) (ticket : Nat) (v : Dword) (st : Strength) (s : State) : State :=
  (s.updFibre r (fun f => { f with ll := f.ll.map (fun (op : LongOp) =>
    match op.kind with
    | .atomic k d l st none => if k = ticket then { op with kind := .atomic k d l st (some v) } else op
    | _ => op) })).acquireFor r st

/-- An atomic at its home. A poisoned word: without return nothing changes and the consumption is counted; with return the fault is reported (08 R184, log entry 14). -/
def performAtomic (r : FibreRef) (t : Team) (f : Fibre) (l : Loc) (op : AtomOp) (n : Nat) (v : Dword) (ticket : Option Nat) (st : Strength) (s : State) : State :=
  if s.poisonedAt l then
    match ticket with
    | none => s.poisonUsed (dieOf t f)
    | some k =>
      match f.ll.find? (fun (o : LongOp) => match o.kind with | .atomic x _ _ _ none => x == k | _ => false) with
      | some o => dropPoisoned r o s
      | none => s
  else
    let old := natOfBytes (s.homeBytes l n)
    let s := s.modifyAt r t f l (bytesOfNat n (op.apply (8 * n) old v.toNat))
    match ticket with
    | some k => giveTicket r k (ofNat64 old) st s
    | none => s

/-- REDF at the home: registrations recalled, cuttings collapsed, the operation forwarded to the stack (08 R180). -/
def forwardRedf (r : FibreRef) (t : Team) (l : Loc) (ft op : Nat) (v : Dword) (s : State) : State :=
  match l with
  | .mem m =>
    let line := lineOf m.pa
    let s := ((s.recallLine line).collapseNow line t.ctx).directoryWrite line (.fibre r) true t.ctx
    { s with coh := { s.coh with redfs := s.coh.redfs ++ [⟨m, ft, op, v, r, t.ctx⟩] } }
  | _ => s

/-- A nibble put into a byte (17 R350). -/
def withNibble (b : Byte) (high : Bool) (v : BitVec 4) : Byte :=
  if high then (b &&& 0x0F) ||| (v.setWidth 8 <<< 4) else (b &&& 0xF0) ||| v.setWidth 8

/-- One operation of the store queue performed at its home. -/
def performStore (r : FibreRef) (t : Team) (f : Fibre) (op : StoreOp) (s : State) : State :=
  match op.kind with
  | .write l bs => s.storeBytesAt r t f l bs op.pc
  | .nibble l high v => s.modifyAt r t f l ((s.homeBytes l 1).map (fun b => withNibble b high v))
  | .atomic l o n v ticket => performAtomic r t f l o n v ticket op.st s
  | .redf l ft o v => forwardRedf r t l ft o v s
  | .fill (.mem m) v => s.fillAt m v (.fibre r) t.ctx (coreOf t f)
  | .fillEmpty (.mem m) => s.setTag (wordOf m.pa) false
  | .cntdn (.mem m) n => s.countdownAt m n (.fibre r) t.ctx (dieOf t f) (coreOf t f)
  | .poison l => s.poisonAt l
  | _ => s

/-- The release side of a queued operation is met: its earlier accesses meet 09 Table 9.4. It stands at the head, so its earlier stores are performed. -/
def releaseMet (s : State) (r : FibreRef) (f : Fibre) (op : StoreOp) : Bool :=
  !(op.st.strong && (op.st.order == 2 || op.st.order == 3)) || op.st.scope == 0 ||
  (!f.ll.any (fun o => decide (o.seq < op.seq) && !o.kind.reads.isEmpty) &&
   (decide (op.st.scope < 4) || !s.homePending r) &&
   (decide (op.st.scope < 5) || !s.remotePending r))

/-- The part of an earlier instruction's reads that the operation at the head must wait for; its own ticket is not one. -/
def storeReady (s : State) (r : FibreRef) (t : Team) (f : Fibre) (op : StoreOp) : Bool :=
  let l := op.kind.loc
  let ticket := match op.kind with | .atomic _ _ _ _ (some k) => some k | _ => none
  let own := fun (o : LongOp) => match o.kind with | .atomic k _ _ _ _ => some k == ticket | _ => false
  let g := { f with ll := f.ll.filter (fun o => !own o) }
  inOrder s t g op.seq l && fencesMet s r g op.seq && releaseMet s r g op && !s.ownedAt l

/-- STORE_PERFORM: the head of a fibre's store queue leaves it and is performed (09 R191). -/
def execStorePerform (team fibre : Nat) (s : State) : Host.Outcome State Fault Refusal :=
  device (match s.team? team with
    | none => s
    | some t =>
      match t.fibre? fibre with
      | none => s
      | some f =>
        match f.sq with
        | [] => s
        | op :: rest =>
          let r : FibreRef := ⟨team, fibre⟩
          if storeReady s r t f op then
            performStore r t { f with sq := rest } op (s.updFibre r (fun f => { f with sq := rest, fences := f.fences.filter (fun p => op.seq < p.1) }))
          else s)

end Sys2Proof.Machine
end

