-- ==== Sys2Proof/Machine/Tags.lean ====
section
/-! DEFINITION. Tagged words: FILL, TAKE, WAITF, CNTDN and TAGQ, opcodes 0x40 to 0x44 (17 R361 to R364, 05 R113, R114). -/

namespace Sys2Proof.Machine

/-- The memory word of a tagged-word instruction; a page of a remote class has no tags (04 Table 4.6, log entry 10). -/
def tagPlace (s : State) (r : FibreRef) (t : Team) (f : Fibre) (k : AccKind) (va : Nat) : Except Stop MemLoc :=
  match place s r t f k 0 va 8 8 with
  | .error e => .error e
  | .ok (.mem m) => .ok m
  | .ok _ => .error (.trap (.denied va))

/-- FILL and CNTDN: the checks, then the store queue. -/
def tagStore (va : Nat) (k : Loc → StoreKind) (st : Strength) (r : FibreRef) (t : Team) (f : Fibre) (s : State) : Act :=
  match tagPlace s r t f .tagWrite va with
  | .error e => .error e
  | .ok m => .ok (queueStore r (k (.mem m)) st s)

def execFill (a : BitVec 7) (c k : BitVec 3) : State → Host.Outcome State Fault Refusal :=
  isa 2 { rd := [a.toNat] } (fun r t f s =>
    tagStore (f.reg a.toNat).toNat (fun l => .fill l none) ⟨true, c.toNat, k.toNat⟩ r t f s)

def execFillVal (a b : BitVec 7) (c k : BitVec 3) : State → Host.Outcome State Fault Refusal :=
  isa 2 { rd := [a.toNat, b.toNat] } (fun r t f s =>
    tagStore (f.reg a.toNat).toNat (fun l => .fill l (some (f.reg b.toNat))) ⟨true, c.toNat, k.toNat⟩ r t f s)

def execFillEmpty (a : BitVec 7) (c k : BitVec 3) : State → Host.Outcome State Fault Refusal :=
  isa 2 { rd := [a.toNat] } (fun r t f s =>
    tagStore (f.reg a.toNat).toNat (fun l => .fillEmpty l) ⟨true, c.toNat, k.toNat⟩ r t f s)

def execCntdn (d b : BitVec 7) (c k : BitVec 3) : State → Host.Outcome State Fault Refusal :=
  isa 1 { rd := [b.toNat, d.toNat] } (fun r t f s =>
    tagStore (f.reg b.toNat).toNat (fun l => .cntdn l (f.reg d.toNat)) ⟨true, c.toNat, k.toNat⟩ r t f s)

/-- TAKE and WAITF can reach the home now: earlier loads first, earlier stores to the word, and for TAKE, which also writes, every earlier store (09 R192); the release side met, the line not owned. -/
def takeReady (s : State) (r : FibreRef) (t : Team) (f : Fibre) (take : Bool) (m : MemLoc) (st : Strength) : Bool :=
  inOrder s t f f.seq (.mem m) && !s.ownedAt (.mem m) &&
  (if take then f.sq.isEmpty && fencesMet s r f f.seq else !f.sq.any (fun op => op.kind.inWord (.mem m))) &&
  ((st.order != 2 && st.order != 3) || st.scope == 0 || (!f.loadsPending && storesDone s r f st.scope))

/-- The fibre blocks at its instruction with a waiter at the word's home (17 R363). -/
def blockAtTag (r : FibreRef) (f : Fibre) (d : Nat) (take : Bool) (m : MemLoc) (st : Strength) (s : State) : Act :=
  match issueLong r f 1 (.tagWait (.mem m) d take st) [d] [] [] s with
  | .error e => .error e
  | .ok s =>
    let s := s.updFibre r (fun f => { f with status := .tagWait m.va })
    .error (.hold { s with coh := { s.coh with waiters := s.coh.waiters ++ [⟨r, m, take, st⟩] } })

/-- TAKE (`take`) and WAITF: a FULL word is served at once, but a TAKE not before one that waits there; an EMPTY one blocks the fibre (17 R362). -/
def tagLoad (take : Bool) (d b : BitVec 7) (c k : BitVec 3) : State → Host.Outcome State Fault Refusal :=
  let st : Strength := ⟨true, c.toNat, k.toNat⟩
  isa 1 { rd := [b.toNat], wr := [d.toNat], long := true } (fun r t f s =>
    let va := (f.reg b.toNat).toNat
    match tagPlace s r t f (if take then .take else .tagRead) va with
    | .error e => .error e
    | .ok m =>
      if f.counter.any (fun c => decide (15 ≤ f.cf.getD c 0)) ∨ !takeReady s r t f take m st then wait s
      else if s.tagFull (wordOf m.pa) ∧ !(take && s.coh.waiters.any (fun w => w.take && wordOf w.m.pa == wordOf m.pa)) then
        let (v, bad) := s.wordAt (wordOf m.pa)
        if bad then .error (.trap (mkTrap 0x12 0 va))
        else
          let s := if take then s.setTag (wordOf m.pa) false else s
          let s := match coreOf t f with | some c => s.refreshL1 c (lineOf m.pa) [wordOf m.pa] | none => s
          .ok ((s.updFibre r (fun f => f.setReg d.toNat v)).acquireFor r st)
      else blockAtTag r f d.toNat take m st s)

def execTake (d b : BitVec 7) (c k : BitVec 3) : State → Host.Outcome State Fault Refusal := tagLoad true d b c k

def execWaitf (d b : BitVec 7) (c k : BitVec 3) : State → Host.Outcome State Fault Refusal := tagLoad false d b c k

def execTagq (d b : BitVec 7) (o : BitVec 6) : State → Host.Outcome State Fault Refusal :=
  isa 1 { rd := [b.toNat], wr := [d.toNat], long := true } (fun r t f s =>
    match tagPlace s r t f .tagRead (effAddr (f.reg b.toNat) o 8) with
    | .error e => .error e
    | .ok m => issueLong r f 1 (.tagq (.mem m) d.toNat) [d.toNat] [] [] s)

end Sys2Proof.Machine
end

