-- ==== Sys2Proof/Machine/Barriers.lean ====
section
/-! DEFINITION. Barrier objects: their layout (07 Table 7.6), their transitions (07 Table 7.7), time-outs, and BINIT, ARRIVE and BWAIT, opcodes 0x45 to 0x47 (17 R365 to R367). -/

namespace Sys2Proof.Machine

/-! ### The object as a number of 256 bits -/

def barPhase (b : Nat) : Bool := bitsOf b 0 1 == 1
def barInit (b : Nat) : Bool := bitsOf b 1 1 == 1
def barKind (b : Nat) : Nat := bitsOf b 2 2
def barTimedOut (b : Nat) : Bool := bitsOf b 4 1 == 1
def barHasRange (b : Nat) : Bool := bitsOf b 5 1 == 1
def barRangeSpace (b : Nat) : Nat := bitsOf b 6 1
def barExpected (b : Nat) : Nat := bitsOf b 16 12
def barPendingArr (b : Nat) : Nat := bitsOf b 32 12
def barElapsed (b : Nat) : Nat := bitsOf b 44 20
def barPendingBytes (b : Nat) : Nat := bitsOf b 64 32
def barTimeout (b : Nat) : Nat := bitsOf b 96 20
def barRows (b : Nat) : Nat := bitsOf b 128 64
def barRangeBase (b : Nat) : Nat := bitsOf b 192 44
def barRangeLen (b : Nat) : Nat := bitsOf b 236 16

/-- A reserved field is nonzero. -/
def barReserved (b : Nat) : Bool := bitsOf b 7 9 != 0 || bitsOf b 28 4 != 0 || bitsOf b 116 12 != 0 || bitsOf b 252 4 != 0

/-- Replace `n` bits at `lo`. -/
def putBits (b lo n v : Nat) : Nat := b - bitsOf b lo n * 2 ^ lo + v % 2 ^ n * 2 ^ lo

/-- The object at a place of a scratchpad. -/
def State.barAt (s : State) (l : Loc) : Nat := natOfBytes (s.homeBytes l 32)

/-- Write an object's 32 bytes. -/
def State.putBar (s : State) (l : Loc) (b : Nat) : State :=
  match l with
  | .scr t o => scratchWrite s t o ((bytesOfNat 32 b).map some)
  | .near k c i o => nearWrite s k c i o ((bytesOfNat 32 b).map some)
  | _ => s

/-- What the device keeps of an object beside its bytes. -/
def State.barInfo (s : State) (l : Loc) : Bar :=
  (s.bars.find? (fun b => b.obj == l)).getD ⟨l, none, false, false, []⟩

def State.putBarInfo (s : State) (b : Bar) : State :=
  { s with bars := b :: s.bars.filter (fun x => x.obj != b.obj) }

/-- The team that holds an object. -/
def State.holder (s : State) (l : Loc) : Option Team :=
  match l with
  | .scr t _ => s.team? t
  | .near k c i _ => (s.near.find? (fun x => x.stack == k && x.core == c && x.slot == i)).bind (fun x => s.team? x.who.team)
  | _ => none

/-- Resident time of the holder, for timers. -/
def State.holderTime (s : State) (l : Loc) : Nat := match s.holder l with | some t => t.residentTime s.aclk | none => 0

/-! ### The acquire of a passing BWAIT (07 R162) -/

/-- The lines a passing fibre's acquire invalidates: all at cluster scope, and after a phase that counted an engine landing; with a range of addresses only those. -/
def State.barAcquire (s : State) (r : FibreRef) (b : Nat) (landed : Bool) : State :=
  match s.team? r.team with
  | none => s
  | some t =>
    match t.fibre? r.fibre with
    | none => s
    | some f =>
      if barKind b ≠ 2 ∧ !landed then s
      else if barHasRange b then
        (if barRangeSpace b = 1 then s
         else s.acquireRange t f (barRangeBase b * 256) ((barRangeBase b + barRangeLen b + 1) * 256))
      else match coreOf t f with | some c => s.acquireL1 c none | none => s

/-! ### Transitions (07 Table 7.7) -/

/-- Blocked at an object for the flip of `phase`, in BWAIT or CHAN.wait. -/
def Fibre.waitsAtBar (f : Fibre) (l : Loc) (phase : Bool) : Bool :=
  match f.status with
  | .bwait o p => o == l && p == phase
  | .chanWait o p _ _ => o == l && p == phase
  | _ => false

/-- An element put into a list in ascending order of a number, behind its equals. -/
def insertBy {α : Type} (key : α → Nat) (x : α) : List α → List α
  | [] => [x]
  | y :: ys => if key x < key y then x :: y :: ys else y :: insertBy key x ys

/-- A list in ascending order of a number. -/
def sortBy {α : Type} (key : α → Nat) (xs : List α) : List α := xs.foldl (fun a x => insertBy key x a) []

/-- Fibres blocked at an object for the flip of `phase`, in ascending fibre index. -/
def State.blockedAt (s : State) (l : Loc) (phase : Bool) : List FibreRef :=
  sortBy FibreRef.fibre (s.teams.flatMap (fun t => (t.fibres.filter (fun f => f.waitsAtBar l phase)).map (fun f => ⟨t.id, f.idx⟩)))

/-- The flip lets a blocked fibre pass its BWAIT, or its CHAN.wait with the slot's offset (07 R160, 12 R249). -/
def Fibre.passFlip (f : Fibre) (aclk : Nat) : Fibre :=
  match f.status with
  | .chanWait _ _ d v => { (f.setReg d (ofNat64 v)).pass 2 true aclk with status := .ready }
  | _ => { f.pass 1 false aclk with status := .ready }

/-- A blocked waiter passes at the flip when it is on its core or on a near core; one of a team that is saved re-checks when it is restored (06 R139). -/
def State.passesNow (s : State) (r : FibreRef) : Bool :=
  (s.team? r.team).any (fun t => t.resident || (t.fibre? r.fibre).any (fun f => f.stack?.isSome))

/-- The flip: phase inverted, arrivals expected anew, and the blocked waiters of the old phase pass (07 R159, R162). -/
def State.flipBar (s : State) (l : Loc) (b : Nat) : State :=
  let info := s.barInfo l
  let old := barPhase b
  let b' := putBits (putBits (putBits (putBits b 0 1 (bit !old)) 32 12 (barExpected b)) 44 20 0) 4 1 0
  let s := (s.putBar l b').putBarInfo { info with since := none, lastLanded := info.landed, landed := false, arrived := [] }
  (s.blockedAt l old).foldl (fun s r =>
    if !s.passesNow r then s else
    (s.updFibre r (fun f => f.passFlip s.aclk)).barAcquire r b info.landed) s

/-- Store the counts and flip when both are 0. -/
def State.settleBar (s : State) (l : Loc) (b : Nat) : State :=
  if barPendingArr b = 0 ∧ barPendingBytes b = 0 then s.flipBar l b else s.putBar l b

/-- The timer of the open phase starts at its first ARRIVE or BWAIT (07 R161). -/
def State.startBarTimer (s : State) (l : Loc) (b : Nat) : State :=
  let info := s.barInfo l
  if barTimeout b ≠ 0 ∧ info.since.isNone then s.putBarInfo { info with since := some (s.holderTime l) } else s

/-- An engine landing of `n` bytes at an object (07 Table 7.7). -/
def State.landAt (s : State) (l : Loc) (n : Nat) : State :=
  let b := s.barAt l
  let s := s.putBarInfo { s.barInfo l with landed := true }
  s.settleBar l (putBits b 64 32 (barPendingBytes b + (2 ^ 32 - n % 2 ^ 32)))

/-- An object no operation may use (07 Table 7.7, second row). -/
def barUnusable (b : Nat) : Bool := !barInit b || barReserved b || barExpected b == 0 || barKind b == 3

/-- A participant of an object (07 R159). -/
def participant (holder : Option Team) (t : Team) (fibre b : Nat) : Bool :=
  match holder with
  | none => false
  | some h =>
    match barKind b with
    | 0 => h.id == t.id
    | 1 => h.id == t.id && (barRows b).testBit (rowOf fibre)
    | _ => h.id == t.id || (h.cluster.isSome && h.cluster == t.cluster)

/-- Raise of barrier misuse (14 Table 14.1). -/
def barMisuse (va : Nat) : Act := .error (.trap (mkTrap 0x0C 0 va))

/-- The object that an A-format barrier instruction names (17 R365). -/
def barPlace (s : State) (t : Team) (f : Fibre) (cl : BitVec 1) (va : Nat) : Except Stop Loc :=
  if va % 32 ≠ 0 then .error (.trap (.misaligned va))
  else
    match (if cl = 1 then clusterPlace s t f va 32 else scratchPlace t f va 32) with
    | .error e => .error (.trap e)
    | .ok l => .ok l

/-- Every earlier access of the fibre is performed: what BINIT and ARRIVE, as releases at team or cluster scope, wait for; a release fence before them makes them wait for its own scope (09 R197). -/
def settled (f : Fibre) : Bool := f.sq.isEmpty && !f.loadsPending

/-! ### BINIT -/

/-- The range of an image lies in its space (17 R366). -/
def barRangeOk (b : Nat) : Bool :=
  decide ((barRangeBase b + barRangeLen b + 1) * 256 ≤ 2 ^ 52) &&
  (barRangeSpace b == 0 || (bitsOf b 208 28 == 0 && decide ((barRangeBase b + barRangeLen b + 1) * 256 ≤ 2 ^ 24)))

/-- An image BINIT may not take: read-only, reserved or init bits set, no arrivals, part_kind 3, or a range outside its space. -/
def barImageBad (b : Nat) : Bool :=
  barPhase b || barInit b || barTimedOut b || bitsOf b 32 64 != 0 || barReserved b || barExpected b == 0 || barKind b == 3 || !barRangeOk b

/-- BINIT of an image. -/
def binitWith (image va : Nat) (cl : BitVec 1) (r : FibreRef) (t : Team) (f : Fibre) (s : State) : Act :=
  match barPlace s t f cl va with
  | .error e => .error e
  | .ok l =>
    if barImageBad image ∨ !(s.blockedAt l false).isEmpty ∨ !(s.blockedAt l true).isEmpty then barMisuse va
    else if !settled f || !fencesMet s r f f.seq then wait s
    else .ok ((s.putBar l (putBits (putBits image 1 1 1) 32 12 (barExpected image))).putBarInfo ⟨l, none, false, false, []⟩)

def execBinit (a b : BitVec 7) (c : BitVec 1) : State → Host.Outcome State Fault Refusal :=
  isa 1 { rd := [a.toNat, b.toNat] } (fun r t f s =>
    binitWith (lowNat 12 (f.reg b.toNat) * 2 ^ 16) (f.reg a.toNat).toNat c r t f s)

/-- The 32-byte image in four registers, low dword first. -/
def image4 (f : Fibre) (b : Nat) : Nat :=
  (f.reg b).toNat + (f.reg (b + 1)).toNat * 2 ^ 64 + (f.reg (b + 2)).toNat * 2 ^ 128 + (f.reg (b + 3)).toNat * 2 ^ 192

def execBinitFull (a b : BitVec 7) (c : BitVec 1) : State → Host.Outcome State Fault Refusal :=
  isa 1 { rd := [a.toNat, b.toNat, b.toNat + 1, b.toNat + 2, b.toNat + 3] } (fun r t f s =>
    binitWith (image4 f b.toNat) (f.reg a.toNat).toNat c r t f s)

/-! ### ARRIVE -/

/-- ARRIVE with `n` announced bytes. -/
def arriveWith (n va : Nat) (cl : BitVec 1) (r : FibreRef) (t : Team) (f : Fibre) (s : State) : Act :=
  match barPlace s t f cl va with
  | .error e => .error e
  | .ok l =>
    let b := s.barAt l
    if barUnusable b ∨ 2 ^ 31 ≤ n ∨ !participant (s.holder l) t r.fibre b ∨ barPendingArr b = 0 then barMisuse va
    else if !settled f || !fencesMet s r f f.seq then wait s
    else
      let s := s.startBarTimer l b
      let info := s.barInfo l
      let s := s.putBarInfo { info with arrived := info.arrived ++ [r] }
      .ok (s.settleBar l (putBits (putBits b 32 12 (barPendingArr b - 1)) 64 32 (barPendingBytes b + n)))

def execArrive (a : BitVec 7) (c : BitVec 1) : State → Host.Outcome State Fault Refusal :=
  isa 1 { rd := [a.toNat] } (fun r t f s => arriveWith 0 (f.reg a.toNat).toNat c r t f s)

def execArriveExpect (a b : BitVec 7) (c : BitVec 1) : State → Host.Outcome State Fault Refusal :=
  isa 1 { rd := [a.toNat, b.toNat] } (fun r t f s => arriveWith (f.reg b.toNat).toNat (f.reg a.toNat).toNat c r t f s)

/-! ### BWAIT -/

def execBwait (a b : BitVec 7) (c : BitVec 1) : State → Host.Outcome State Fault Refusal :=
  isa 1 { rd := [a.toNat, b.toNat] } (fun r t f s =>
    let va := (f.reg a.toNat).toNat
    let phi := (f.reg b.toNat).toNat % 2 == 1
    match barPlace s t f c va with
    | .error e => .error e
    | .ok l =>
      let o := s.barAt l
      if barUnusable o then barMisuse va
      else if barPhase o ≠ phi then .ok (s.barAcquire r o (s.barInfo l).lastLanded)
      else if barTimedOut o then .error (.trap (mkTrap 0x0B 0 va))
      else .error (.hold ((s.startBarTimer l o).updFibre r (fun f => { f with status := .bwait l phi }))))

/-! ### Time-outs (07 R161, 14 R278) -/

/-- Units of 4,096 aclk elapsed in the open phase. -/
def State.barElapsedNow (s : State) (l : Loc) : Nat :=
  barElapsed (s.barAt l) + (match (s.barInfo l).since with | some b => (s.holderTime l - b) / 4096 | none => 0)

/-- The timer of an object has run out. -/
def State.barDue (s : State) (b : Bar) : Bool :=
  let o := s.barAt b.obj
  b.since.isSome && (s.holder b.obj).any (fun t => t.resident) && !barTimedOut o && barTimeout o != 0 &&
    decide (barTimeout o ≤ s.barElapsedNow b.obj)

/-- A list entry of a trap record for a fibre (14 Table 14.3): pc 0 when it is away. -/
def listEntryOf (f : Fibre) : ListEntry :=
  if f.away.isSome then ⟨0, f.idx, 1⟩ else if f.live then ⟨f.pc.toNat, f.idx, 0⟩ else ⟨0, f.idx, 2⟩

/-- Participants that are live and have not arrived in the open phase, in ascending fibre index. -/
def State.missingAt (s : State) (l : Loc) : List ListEntry :=
  let o := s.barAt l
  let arrived := (s.barInfo l).arrived
  sortBy ListEntry.fibre (s.teams.flatMap (fun t => (t.fibres.filter (fun f =>
    f.live && participant (s.holder l) t f.idx o && !arrived.contains ⟨t.id, f.idx⟩)).map listEntryOf))

/-- BARRIER_TIMEOUT of an object: timed_out is set and every blocked waiter raises the time-out trap, the lowest-indexed with the list. -/
def State.expireBar (s : State) (l : Loc) : State :=
  let o := s.barAt l
  let list := s.missingAt l
  let ws := s.blockedAt l (barPhase o)
  let s := s.putBar l (putBits o 4 1 1)
  let va := match l with | .scr _ a => a | .near _ _ _ a => a | _ => 0
  (ws.zip (List.range ws.length)).foldl (fun s p =>
    (s.updFibre p.1 (fun f => { f with status := .ready })).raiseAt p.1 (mkTrap 0x0B 0 va)
      (if p.2 = 0 then list.take 32 else []) (if p.2 = 0 then list.length - 32 else 0)) s

def execBarrierTimeout (s : State) : Host.Outcome State Fault Refusal :=
  device (match s.bars.find? (fun b => s.barDue b) with
    | some b => s.expireBar b.obj
    | none => s)

end Sys2Proof.Machine
end

