-- ==== Sys2Proof/Machine/Fp.lean ====
section
/-! DEFINITION. Floating-point arithmetic on exact values (13): decoding, Round with every rounding and overflow rule, stochastic rounding, sums and products, square root, conversion to integers, O4 blocks and block scales. -/

namespace Sys2Proof.Machine

/-! ### Formats (13 Table 13.1) -/

/-- What the top exponent of a format codes: infinity and NaN, one NaN (E4M3), or ordinary values (E2M1). -/
inductive FmtTop where
  | ieee
  | oneNan
  | plain
  deriving DecidableEq, Repr

/-- A floating-point format: exponent bits, mantissa bits, bias, what the top codes mean, and whether its NaNs can signal. -/
structure Fmt where
  e : Nat
  m : Nat
  bias : Nat
  top : FmtTop
  signals : Bool
  deriving DecidableEq, Repr

def fp32 : Fmt := ⟨8, 23, 127, .ieee, true⟩
def fp16 : Fmt := ⟨5, 10, 15, .ieee, true⟩
def bf16 : Fmt := ⟨8, 7, 127, .ieee, true⟩
def e5m2 : Fmt := ⟨5, 2, 15, .ieee, false⟩
def e4m3 : Fmt := ⟨4, 3, 7, .oneNan, false⟩
def e2m1 : Fmt := ⟨2, 1, 1, .plain, false⟩

/-- Width of a format's codes. -/
def Fmt.bits (f : Fmt) : Nat := 1 + f.e + f.m

/-- The magnitude code of infinity in a format that has one. -/
def Fmt.infCode (f : Fmt) : Nat := (2 ^ f.e - 1) * 2 ^ f.m

/-- The magnitude code of the largest finite value. -/
def Fmt.maxCode (f : Fmt) : Nat :=
  match f.top with
  | .ieee => f.infCode - 1
  | .oneNan => 2 ^ (f.e + f.m) - 2
  | .plain => 2 ^ (f.e + f.m) - 1

/-- The canonical NaN (13 R258); E2M1 has none and gives 0 (13 R264). -/
def Fmt.nanCode (f : Fmt) : Nat :=
  match f.top with
  | .ieee => f.infCode + 2 ^ (f.m - 1)
  | .oneNan => 2 ^ (f.e + f.m) - 1
  | .plain => 0

/-! ### Exact values -/

/-- An exact value: NaN (signalling, or one that an invalid operation made), an infinity, or a sign with a magnitude `mag × 2 ^ exp`. -/
inductive FVal where
  | nan (invalid : Bool)
  | inf (neg : Bool)
  | num (neg : Bool) (mag : Nat) (exp : Int)
  deriving DecidableEq, Repr

/-- Decode of 13 R257. -/
def Fmt.decode (f : Fmt) (code : Nat) : FVal :=
  let neg := bitsOf code (f.e + f.m) 1 == 1
  let mg := code % 2 ^ (f.e + f.m)
  let ex := mg / 2 ^ f.m
  let mt := mg % 2 ^ f.m
  if f.top = .ieee ∧ mg = f.infCode then .inf neg
  else if f.top = .ieee ∧ f.infCode < mg then .nan (f.signals && decide (mt < 2 ^ (f.m - 1)))
  else if f.top = .oneNan ∧ mg = 2 ^ (f.e + f.m) - 1 then .nan false
  else if ex = 0 then .num neg mt (1 - f.bias - f.m)
  else .num neg (2 ^ f.m + mt) ((ex : Int) - f.bias - f.m)

def FVal.isNan : FVal → Bool
  | .nan _ => true
  | _ => false

def FVal.isZero : FVal → Bool
  | .num _ m _ => m == 0
  | _ => false

/-- The operand was a signalling NaN, or the operation was invalid. -/
def FVal.invalid : FVal → Bool
  | .nan i => i
  | _ => false

def FVal.negate : FVal → FVal
  | .nan i => .nan i
  | .inf s => .inf (!s)
  | .num s m e => .num (!s) m e

/-- An integer as an exact value. -/
def FVal.ofInt (x : Int) : FVal := .num (decide (x < 0)) x.natAbs 0

/-- The exact product; ∞ × 0 is invalid (13 R267). -/
def FVal.mul (x y : FVal) : FVal :=
  match x, y with
  | .nan i, .nan j => .nan (i || j)
  | .nan i, _ => .nan i
  | _, .nan j => .nan j
  | .inf s, .inf t => .inf (s != t)
  | .inf s, .num t m _ => if m = 0 then .nan true else .inf (s != t)
  | .num s m _, .inf t => if m = 0 then .nan true else .inf (s != t)
  | .num s m e, .num t n g => .num (s != t) (m * n) (e + g)

/-- The value times 2 ^ n. -/
def FVal.scale (x : FVal) (n : Int) : FVal :=
  match x with
  | .num s m e => .num s m (e + n)
  | x => x

/-- The least exponent among the nonzero finite terms. -/
def leastExp : List FVal → Option Int
  | [] => none
  | .num _ m e :: xs =>
    (match leastExp xs with
     | some g => some (if m = 0 then g else min e g)
     | none => if m = 0 then none else some e)
  | _ :: xs => leastExp xs

/-- A finite term in units of 2 ^ g. -/
def FVal.units (g : Int) : FVal → Int
  | .num s m e => if m = 0 then 0 else (if s then -((m : Int) * 2 ^ (e - g).toNat) else (m : Int) * 2 ^ (e - g).toNat)
  | _ => 0

/-- The exact sum of terms (13 R267, 18 R370, R378): NaN, infinities, and the sign of a zero sum under rounding down. -/
def sumVals (down : Bool) (xs : List FVal) : FVal :=
  let pos := xs.any (fun x => x == .inf false)
  let neg := xs.any (fun x => x == .inf true)
  if xs.any FVal.isNan || (pos && neg) then .nan (xs.any FVal.invalid || (pos && neg))
  else if pos then .inf false
  else if neg then .inf true
  else
    match leastExp xs with
    | none =>
      let minus := xs.any (fun x => match x with | .num s _ _ => s | _ => false)
      let plus := xs.any (fun x => match x with | .num s _ _ => !s | _ => false)
      .num (if minus && plus then down else minus) 0 0
    | some g =>
      let t := (xs.map (FVal.units g)).foldl (· + ·) 0
      if t = 0 then .num down 0 0 else .num (decide (t < 0)) t.natAbs g

/-- Order of two finite values or infinities; `none` when a NaN is there. -/
def FVal.compare? (x y : FVal) : Option Ordering :=
  match x, y with
  | .nan _, _ => none
  | _, .nan _ => none
  | .inf s, .inf t => some (if s = t then .eq else if s then .lt else .gt)
  | .inf s, _ => some (if s then .lt else .gt)
  | _, .inf t => some (if t then .gt else .lt)
  | x, y =>
    (match leastExp [x, y] with
     | none => some .eq
     | some g => some (compare (x.units g) (y.units g)))

/-! ### Rounding (13 R264 to R266) -/

/-- Rounding modes. -/
inductive Rm where
  | rne | rz | ru | rd | sr
  deriving DecidableEq, Repr

/-- fmode.rm (07 Table 7.2). -/
def rmOf (fmode : BitVec 16) : Rm :=
  match fmode.toNat % 4 with
  | 0 => .rne | 1 => .rz | 2 => .ru | _ => .rd

/-- LfsrStep (13 R266). -/
def lfsrStep (s : BitVec 32) : BitVec 32 :=
  if s.getLsbD 0 then (s >>> 1) ^^^ 0x80200003 else s >>> 1

/-- A magnitude cut at `2 ^ sh`: the whole part, whether nothing was cut, the rest compared with a half, and the first 32 bits of the rest. -/
structure Cut where
  q : Nat
  exact : Bool
  half : Ordering
  frac : Nat
  deriving DecidableEq, Repr

/-- Number of bits of a magnitude. -/
def bitLen (n : Nat) : Nat := if n = 0 then 0 else n.log2 + 1

/-- Cut a magnitude at `2 ^ sh`; far above its length no power is formed. -/
def cutAt (mag sh : Nat) : Cut :=
  if bitLen mag + 40 < sh then ⟨0, mag == 0, .lt, 0⟩
  else
    let rest := mag % 2 ^ sh
    ⟨mag / 2 ^ sh, rest == 0, compare (2 * rest) (2 ^ sh), rest * 2 ^ 32 / 2 ^ sh⟩

/-- Whether a cut magnitude goes up by one; `r` is the generator's state under SR. -/
def Cut.up (c : Cut) (rm : Rm) (neg : Bool) (r : Nat) : Bool :=
  !c.exact &&
  (match rm with
   | .rne => c.half == .gt || (c.half == .eq && c.q % 2 == 1)
   | .rz => false
   | .ru => !neg
   | .rd => neg
   | .sr => decide (r < c.frac))

/-- A sign put before a magnitude code. -/
def Fmt.signed (f : Fmt) (neg : Bool) (code : Nat) : Nat := code + (if neg then 2 ^ (f.e + f.m) else 0)

/-- Overflow results (13 Table 13.4). -/
def Fmt.overflowCode (f : Fmt) (neg : Bool) (rm : Rm) (sat : Bool) : Nat :=
  let big := match f.top with | .ieee => f.infCode | .oneNan => f.nanCode | .plain => f.maxCode
  let away := match rm with | .rne => true | .sr => true | .rz => false | .ru => !neg | .rd => neg
  if sat || !away then f.signed neg f.maxCode
  else match f.top with
    | .oneNan => big
    | _ => f.signed neg big

/-- The magnitude code of a finite value of the format: `q` units of 2 ^ g, where g is the spacing at q. -/
def Fmt.codeOf (f : Fmt) (q : Nat) (g : Int) : Nat :=
  if q < 2 ^ f.m then q else ((g + f.bias + f.m).toNat) * 2 ^ f.m + (q - 2 ^ f.m)

/-- The exact magnitude of a code, as units of the format's smallest subnormal. -/
def Fmt.unitsOf (f : Fmt) (code : Nat) : Nat :=
  let ex := code / 2 ^ f.m
  if ex = 0 then code else (2 ^ f.m + code % 2 ^ f.m) * 2 ^ (ex - 1)

/-- Under SR above the largest finite value: whether the magnitude `mag × 2 ^ e` goes to 2 ^ (emax + 1) (13 R265). -/
def Fmt.srAbove (f : Fmt) (mag : Nat) (e : Int) (r : Nat) : Bool :=
  let sub : Int := 1 - f.bias - f.m
  let top := f.maxCode / 2 ^ f.m
  let hi := 2 ^ (f.m + top)
  let lo := f.unitsOf f.maxCode
  if sub ≤ e then decide (r < (mag * 2 ^ (e - sub).toNat - lo) * 2 ^ 32 / (hi - lo))
  else
    let sh := (sub - e).toNat
    decide (r < (mag - lo * 2 ^ sh) * 2 ^ 32 / ((hi - lo) * 2 ^ sh))

/-- Round of a finite nonzero magnitude: its code and flags. -/
def Fmt.roundNum (f : Fmt) (neg : Bool) (mag : Nat) (e : Int) (rm : Rm) (sat : Bool) (r : Nat) : Nat × FFlags :=
  let sub : Int := 1 - f.bias - f.m
  let g0 : Int := max ((bitLen mag : Int) + e - 1 - f.m) sub
  let emax : Int := (f.maxCode / 2 ^ f.m : Nat) - f.bias
  if emax < (bitLen mag : Int) + e - 1 then
    (f.overflowCode neg rm sat, { overflow := true, inexact := true })
  else
    let c : Cut := if g0 ≤ e then ⟨mag * 2 ^ (e - g0).toNat, true, .lt, 0⟩ else cutAt mag (g0 - e).toNat
    let beyond := rm = .sr ∧ (f.maxCode < f.codeOf c.q g0 ∨ (f.maxCode = f.codeOf c.q g0 ∧ !c.exact))
    if beyond ∧ !f.srAbove mag e r then (f.signed neg f.maxCode, { inexact := true })
    else
      let q := if beyond ∨ c.up rm neg r then c.q + 1 else c.q
      let (q, g) : Nat × Int := if q = 2 ^ (f.m + 1) then (2 ^ f.m, g0 + 1) else (q, g0)
      let code := f.codeOf q g
      if f.maxCode < code then (f.overflowCode neg rm sat, { overflow := true, inexact := true })
      else (f.signed neg code, { inexact := !c.exact, underflow := !c.exact && decide (code < 2 ^ f.m) })

/-- Round(x, fmt, rm, sat) with the generator's state `r` under SR (13 R264). -/
def Fmt.round (f : Fmt) (x : FVal) (rm : Rm) (sat : Bool) (r : Nat) : Nat × FFlags :=
  match x with
  | .nan i => (f.nanCode, { invalid := i || f.top == .plain })
  | .inf s => (if f.top = .ieee ∧ !sat then f.signed s f.infCode else f.signed s f.maxCode, {})
  | .num s m e => if m = 0 then (f.signed s 0, {}) else f.roundNum s m e rm sat r

/-- Round to nearest even without saturation: what the device's own arithmetic uses (13 R272). -/
def Fmt.nearest (f : Fmt) (x : FVal) : Nat := (f.round x .rne false 0).1

/-- A finite value rounded to an integer, and whether it changed. -/
def roundInt (neg : Bool) (mag : Nat) (e : Int) (rm : Rm) (r : Nat) : Int × Bool :=
  if 0 ≤ e then (let v : Int := (mag * 2 ^ e.toNat : Nat); (if neg then -v else v, false))
  else
    let c := cutAt mag (-e).toNat
    let v : Int := ((if c.up rm neg r then c.q + 1 else c.q : Nat) : Int)
    (if neg then -v else v, !c.exact)

/-- ToInt of 13 R268, to `n` bits. -/
def toInt (n : Nat) (signed : Bool) (x : FVal) (rm : Rm) (sat : Bool) (r : Nat) : Int × FFlags :=
  let lo : Int := if signed then -(2 ^ (n - 1)) else 0
  let hi : Int := if signed then 2 ^ (n - 1) - 1 else 2 ^ n - 1
  let bad : Int := if signed then lo else hi
  match x with
  | .nan _ => (if sat then 0 else bad, { invalid := true })
  | .inf s => (if sat then (if s then lo else hi) else bad, { invalid := true })
  | .num s m e =>
    let (v, ch) := roundInt s m e rm r
    if v < lo then (if sat then lo else bad, { invalid := true, inexact := ch })
    else if hi < v then (if sat then hi else bad, { invalid := true, inexact := ch })
    else (v, { inexact := ch })

/-! ### Roots and reciprocals, cut with a sticky bit -/

/-- The square root of a number rounded down, from `k` bits of root. -/
def isqrtBits (n : Nat) : Nat → Nat → Nat
  | 0, r => r
  | k + 1, r => if (r + 2 ^ k) * (r + 2 ^ k) ≤ n then isqrtBits n k (r + 2 ^ k) else isqrtBits n k r

/-- The integer square root. -/
def isqrt (n : Nat) : Nat := isqrtBits n (bitLen n / 2 + 1) 0

/-- A magnitude with one further bit that says whether something was cut off: every rounding of it is the rounding of the exact value. -/
def sticky (q : Nat) (exact : Bool) : Nat := 2 * q + (if exact then 0 else 1)

/-- √(mag × 2 ^ e). -/
def sqrtVal (mag : Nat) (e : Int) : FVal :=
  let odd := e % 2
  let n := mag * 2 ^ odd.toNat * 2 ^ 120
  let q := isqrt n
  .num false (sticky q (q * q == n)) ((e - odd) / 2 - 60 - 1)

/-- 1 ÷ (mag × 2 ^ e). -/
def recipVal (neg : Bool) (mag : Nat) (e : Int) : FVal :=
  let k := bitLen mag + 60
  let n := 2 ^ k
  .num neg (sticky (n / mag) (n % mag == 0)) (-e - k - 1)

/-- 1 ÷ √(mag × 2 ^ e). -/
def rsqrtVal (mag : Nat) (e : Int) : FVal :=
  let odd := e % 2
  let m := mag * 2 ^ odd.toNat
  let k := bitLen m + 60
  let n := 2 ^ (2 * k) / m
  let q := isqrt n
  .num false (sticky q (q * q * m == 2 ^ (2 * k))) (-(e - odd) / 2 - k - 1)

/-! ### Minimum and maximum (18 R371) -/

/-- The selection of FMINMAX on codes of a format. -/
def Fmt.minMax (f : Fmt) (max : Bool) (a b : Nat) : Nat :=
  let x := f.decode a
  let y := f.decode b
  match x.isNan, y.isNan with
  | true, true => f.nanCode
  | true, false => b
  | false, true => a
  | false, false =>
    let neg := fun (c : Nat) => bitsOf c (f.e + f.m) 1 == 1
    let less : Bool := match x.compare? y with
      | some .lt => true
      | some .eq => x.isZero && y.isZero && neg a && !neg b
      | _ => false
    let more : Bool := match x.compare? y with
      | some .gt => true
      | some .eq => x.isZero && y.isZero && !neg a && neg b
      | _ => false
    if max then (if less then b else a) else (if more then b else a)

/-! ### O4 blocks (13 R261) -/

/-- One decoded element of an O4 block: a plain code, an escape's E4M3 code, or a consumed slot. -/
inductive O4Elem where
  | plain (v : Int)
  | escape (code : Nat)
  | consumed
  deriving DecidableEq, Repr

/-- Decode the slots of a block from slot `i` on; `k` escapes have been met. -/
def o4Slots (tail : Nat) : Nat → List Nat → Option (List O4Elem)
  | _, [] => some []
  | _, [s] => if s = 8 then none else some [.plain (signedOf 4 s)]
  | k, s :: s' :: ss =>
    if s = 8 then
      if 2 ≤ k then none
      else (o4Slots tail (k + 1) ss).map (fun es => .escape (s' * 16 + bitsOf tail (4 * k) 4) :: .consumed :: es)
    else (o4Slots tail k (s' :: ss)).map (fun es => .plain (signedOf 4 s) :: es)

/-- O4Decode of an 18-byte block held as a number: 32 elements, or none when it is malformed. -/
def o4Decode (block : Nat) : Option (List O4Elem) :=
  o4Slots (bitsOf block 136 8) 0 ((List.range 32).map (fun i => bitsOf block (4 * i) 4))

def o4Scale (block : Nat) : Nat := bitsOf block 128 8

/-- The unscaled value of an O4 element. -/
def O4Elem.val : O4Elem → FVal
  | .plain v => FVal.ofInt v
  | .escape c => e4m3.decode c
  | .consumed => .num false 0 0

end Sys2Proof.Machine
end

