-- ==== Sys2Proof/Machine/Special.lean ====
section
/-! DEFINITION. The special functions of FSPEC (18 R376, R377): their real values to 320 bits behind the point, and the codes that lie within the bounds of Table 18.5 of such a value. -/

namespace Sys2Proof.Machine

/-! ### Real values as whole numbers of 2 ^ -320 -/

/-- One. -/
def fixOne : Nat := 2 ^ 320

def fixMul (a b : Nat) : Nat := a * b / fixOne

def fixDiv (a b : Nat) : Nat := a * fixOne / b

/-- `mag × 2 ^ e`. -/
def fixOf (mag : Nat) (e : Int) : Nat := if 0 ≤ e + 320 then mag * 2 ^ (e + 320).toNat else mag / 2 ^ (-(e + 320)).toNat

/-- The terms of e^r from `t` = r^n ÷ n! on. -/
def expTerms (r : Nat) : Nat → Nat → Nat → Nat
  | 0, _, _ => 0
  | k + 1, n, t => t + expTerms r k (n + 1) (fixMul t r / (n + 1))

/-- e^r for r below 1. -/
def fixExp (r : Nat) : Nat := expTerms r 100 0 fixOne

/-- The terms u^(n) ÷ n, n odd, from `t` = u^n on; `alt` alternates their signs. -/
def oddTerms (alt : Bool) (u2 : Nat) : Nat → Nat → Nat → Int
  | 0, _, _ => 0
  | k + 1, n, t =>
    let rest := oddTerms alt u2 k (n + 2) (fixMul t u2)
    (t / n : Nat) + (if alt then -rest else rest)

/-- ln z for 1 ≤ z < 2, as 2 artanh((z - 1) ÷ (z + 1)). -/
def fixLn (z : Nat) : Nat :=
  let u := fixDiv (z - fixOne) (z + fixOne)
  2 * (oddTerms false (fixMul u u) 110 1 u).toNat

/-- ln 2, as 2 artanh(1 ÷ 3). -/
def fixLn2 : Nat := 2 * (oddTerms false (fixOne / 9) 110 1 (fixOne / 3)).toNat

/-- π, as 16 arctan(1 ÷ 5) - 4 arctan(1 ÷ 239). -/
def fixPi : Nat :=
  (16 * oddTerms true (fixOne / 25) 80 1 (fixOne / 5) - 4 * oddTerms true (fixOne / 57121) 30 1 (fixOne / 239)).toNat

/-- The alternating terms of sine or cosine from `t` = r^n ÷ n! on. -/
def trigTerms (r2 : Nat) : Nat → Nat → Nat → Int
  | 0, _, _ => 0
  | k + 1, n, t => (t : Int) - trigTerms r2 k (n + 2) (fixMul t r2 / ((n + 1) * (n + 2)))

/-- The terms of e^(a²) times the integral of e^(-t²) from 0 to a, from `t` on. -/
def erfTerms (a2 : Nat) : Nat → Nat → Nat → Nat
  | 0, _, _ => 0
  | k + 1, n, t => t + erfTerms a2 k (n + 1) (2 * fixMul t a2 / (2 * n + 3))

/-- A whole number of 2 ^ -320 as an exact value. -/
def fixVal (neg : Bool) (v : Nat) : FVal := .num neg v (-320)

/-- 2^(q ÷ 2^320) for q ≥ 0 (`neg` false) or below 0, as a magnitude with its exponent. -/
def exp2Val (neg : Bool) (q : Nat) : Nat × Int :=
  let n := q / fixOne
  let f := q % fixOne
  if 4096 < n then (1, if neg then -4096 else 4096)
  else if neg then (if f = 0 then (1, -n) else (fixExp (fixMul (fixOne - f) fixLn2), -(n + 1 : Int) - 320))
  else (fixExp (fixMul f fixLn2), (n : Int) - 320)

/-- e^a for a below 64. -/
def fixExpBig (a : Nat) : Nat := fixExp (a % fixLn2) * 2 ^ (a / fixLn2)

/-- Functions 3 to 9 of Table 18.5 at a nonzero finite operand, to within 2 ^ -80 of the result's own size or of the smallest spacing of a format. -/
def specialVal (fn : Nat) (neg : Bool) (m : Nat) (e : Int) : FVal :=
  let a := fixOf m (min e 400)
  match fn with
  | 3 => (let (v, g) := exp2Val neg (if 14 ≤ e then fixOne * 8192 else a); .num false v g)
  | 4 =>
    let k : Int := e + (bitLen m - 1 : Nat)
    let l : Int := k * fixOne + (fixDiv (fixLn (fixOf m (-(bitLen m - 1 : Nat)))) fixLn2 : Nat)
    fixVal (decide (l < 0)) l.natAbs
  | 5 =>
    let r := a % (2 * fixPi)
    let v := if fixPi < r then -trigTerms (fixMul (2 * fixPi - r) (2 * fixPi - r)) 100 1 (2 * fixPi - r)
      else trigTerms (fixMul r r) 100 1 r
    fixVal (neg != decide (v < 0)) v.natAbs
  | 6 =>
    let r := a % (2 * fixPi)
    let r := if fixPi < r then 2 * fixPi - r else r
    let v := trigTerms (fixMul r r) 100 0 fixOne
    fixVal (decide (v < 0)) v.natAbs
  | 7 =>
    let x := fixExpBig (2 * min a (31 * fixOne))
    fixVal neg (if 31 * fixOne ≤ a then fixOne - 1 else fixDiv (x - fixOne) (x + fixOne))
  | 8 =>
    if 160 * fixOne ≤ a then fixVal false (if neg then 1 else fixOne - 1)
    else
      let x := fixExpBig a
      fixVal false (if neg then fixDiv fixOne (fixOne + x) else fixDiv x (fixOne + x))
  | _ =>
    if 8 * fixOne ≤ a then fixVal neg (fixOne - 1)
    else
      let a2 := fixMul a a
      fixVal neg (fixDiv (2 * fixDiv (erfTerms a2 600 0 a) (fixExpBig a2)) (isqrt (fixPi * fixOne)))

/-! ### Codes within a bound -/

/-- The value of a magnitude code, infinity taken as the power of two that follows the largest value. -/
def Fmt.placeOf (f : Fmt) (code : Nat) : FVal :=
  .num (decide (2 ^ (f.e + f.m) ≤ code)) (f.unitsOf (code % 2 ^ (f.e + f.m))) (1 - f.bias - f.m)

/-- The spacing of codes at a magnitude, as an exponent of two (18 R376). -/
def Fmt.ulpExp (f : Fmt) (mag : Nat) (e : Int) : Int := max ((bitLen mag : Int) + e - 1 - f.m) (1 - f.bias - f.m)

/-- Whether a code lies within `n` ulp of `(-1)^neg × mag × 2^e`, or for `wide` within 2^-24; a part in 2^20 is allowed over, for what the approximation leaves. -/
def Fmt.near (f : Fmt) (n : Nat) (wide neg : Bool) (mag : Nat) (e : Int) (code : Nat) : Bool :=
  match sumVals false [f.placeOf code, .num (!neg) mag e] with
  | .num _ d g =>
    let fits := fun (k : Nat) (x : Int) => (FVal.num false d g).compare? (.num false (k * (2 ^ 20 + 1)) (x - 20)) != some .gt
    decide (code % 2 ^ (f.e + f.m) ≤ f.infCode) && (fits n (f.ulpExp mag e) || (wide && fits 1 (-24)))
  | _ => false

/-- A result of a value under a bound of `n` ulp: the value itself where the format has it, otherwise the code that `pick` names if it lies within the bound, and the nearest one if it does not; beyond the format, infinity, which raises overflow and inexact (18 R377). -/
def Fmt.within (f : Fmt) (n : Nat) (wide : Bool) (x : FVal) (pick : Nat) : Nat × FFlags :=
  match x with
  | .num neg mag e =>
    let (c0, fl) := f.round x .rne false 0
    let c := if !fl.inexact then c0
      else if (f.infCode / 2 ^ f.m : Nat) - (f.bias : Int) ≤ (bitLen mag : Int) + e - 1 then f.signed neg f.infCode
      else if f.near n wide neg mag e (pick % 2 ^ f.bits) then pick % 2 ^ f.bits
      else c0
    let big := c % 2 ^ (f.e + f.m) == f.infCode
    (c, { overflow := big, inexact := big })
  | x => f.round x .rne false 0

end Sys2Proof.Machine
end

