-- ==== Sys2Proof/Machine/Vector.lean ====
section
/-! DEFINITION. Floating-point, conversion, special-function, dot-product, scaling and key-id instructions: opcodes 0x50 to 0x5A (18 R369 to R380). -/

namespace Sys2Proof.Machine

/-! ### Types and elements (18 Table 18.1, 13 R263) -/

/-- Format and number of elements of a type code. -/
def typeOf (t : Nat) : Fmt × Nat :=
  match t with
  | 0 => (fp32, 1) | 1 => (fp16, 1) | 2 => (bf16, 1) | 3 => (fp32, 2) | 4 => (fp16, 4) | _ => (bf16, 4)

/-- Element `i` of width `w` of a register. -/
def elemOf (v : Dword) (w i : Nat) : Nat := bitsOf v.toNat (w * i) w

/-- Elements packed from bit 0 up. -/
def packElems (w : Nat) : List Nat → Nat
  | [] => 0
  | c :: cs => c % 2 ^ w + 2 ^ w * packElems w cs

/-- The codes and flags of an operation on each element, flags gathered (18 R369). -/
def gather (rs : List (Nat × FFlags)) : List Nat × FFlags :=
  (rs.map (fun p => p.1), rs.foldl (fun a p => a.or p.2) {})

/-- The invalid operation that made a NaN result adds to the flags of Round. -/
def roundOp (f : Fmt) (x : FVal) (rm : Rm) : Nat × FFlags := f.round x rm false 0

/-- A result with its flags: the floating-point exception fault when an enabled flag is raised, else `write` and the sticky flags. -/
def withFlags (r : FibreRef) (f : Fibre) (fl : FFlags) (write : Fibre → Fibre) (s : State) : Act :=
  if fl.enabled f.fmode then .error (.trap (mkTrap 0x11 0 0))
  else .ok (s.updFibre r (fun x => (write x).raiseFlags fl))

/-- An instruction that makes each element from the elements of its operands. -/
def elementwise (t : Nat) (d : BitVec 7) (op : Fibre → Nat → FVal) : FibreRef → Team → Fibre → State → Act :=
  fun r _ f s =>
    let (fm, n) := typeOf t
    let (cs, fl) := gather ((List.range n).map (fun i => roundOp fm (op f i) (rmOf f.fmode)))
    withFlags r f fl (fun x => x.setReg d.toNat (ofNat64 (packElems fm.bits cs))) s

/-- Element `i` of register `g` as a value of type `t`. -/
def valOf (t : Nat) (f : Fibre) (g : BitVec 7) (i : Nat) : FVal :=
  (typeOf t).1.decode (elemOf (f.reg g.toNat) (typeOf t).1.bits i)

/-- The form is outside the near profile (10 Table 10.4). -/
def regsFp (d a b : BitVec 7) : Uses := { rd := [a.toNat, b.toNat], wr := [d.toNat], near := false }

/-- An exact sum's zero takes the sign of rounding down under rm 3 (18 R370). -/
def downOf (f : Fibre) : Bool := rmOf f.fmode == .rd

def execFadd (d a b : BitVec 7) (t : BitVec 3) : State → Host.Outcome State Fault Refusal :=
  isa 1 (regsFp d a b) (elementwise t.toNat d (fun f i => sumVals (downOf f) [valOf t.toNat f a i, valOf t.toNat f b i]))

def execFsub (d a b : BitVec 7) (t : BitVec 3) : State → Host.Outcome State Fault Refusal :=
  isa 1 (regsFp d a b) (elementwise t.toNat d (fun f i => sumVals (downOf f) [valOf t.toNat f a i, (valOf t.toNat f b i).negate]))

def execFmul (d a b : BitVec 7) (t : BitVec 3) : State → Host.Outcome State Fault Refusal :=
  isa 1 (regsFp d a b) (elementwise t.toNat d (fun f i => (valOf t.toNat f a i).mul (valOf t.toNat f b i)))

def execFfma (d a b : BitVec 7) (t : BitVec 3) : State → Host.Outcome State Fault Refusal :=
  isa 1 { rd := [a.toNat, b.toNat, d.toNat], wr := [d.toNat], near := false } (elementwise t.toNat d (fun f i =>
    sumVals (downOf f) [valOf t.toNat f d i, (valOf t.toNat f a i).mul (valOf t.toNat f b i)]))

def execFfms (d a b : BitVec 7) (t : BitVec 3) : State → Host.Outcome State Fault Refusal :=
  isa 1 { rd := [a.toNat, b.toNat, d.toNat], wr := [d.toNat], near := false } (elementwise t.toNat d (fun f i =>
    sumVals (downOf f) [valOf t.toNat f d i, ((valOf t.toNat f a i).mul (valOf t.toNat f b i)).negate]))

/-- FMINMAX: no rounding; a signalling NaN operand raises invalid (18 R371). -/
def minMaxForm (max : Bool) (d a b : BitVec 7) (t : BitVec 3) : State → Host.Outcome State Fault Refusal :=
  isa 1 (regsFp d a b) (fun r _ f s =>
    let (fm, n) := typeOf t.toNat
    let cs := (List.range n).map (fun i => fm.minMax max (elemOf (f.reg a.toNat) fm.bits i) (elemOf (f.reg b.toNat) fm.bits i))
    let bad := (List.range n).any (fun i => (valOf t.toNat f a i).invalid || (valOf t.toNat f b i).invalid)
    withFlags r f { invalid := bad } (fun x => x.setReg d.toNat (ofNat64 (packElems fm.bits cs))) s)

def execFmin (d a b : BitVec 7) (t : BitVec 3) : State → Host.Outcome State Fault Refusal := minMaxForm false d a b t

def execFmax (d a b : BitVec 7) (t : BitVec 3) : State → Host.Outcome State Fault Refusal := minMaxForm true d a b t

/-! ### Compare (18 Table 18.2) -/

/-- A relation of FCMP on two values. -/
def fcmpHolds (rel : Nat) (x y : FVal) : Bool :=
  match rel, x.compare? y with
  | 0, o => o == some .eq
  | 1, o => o != some .eq
  | 2, o => o == some .lt
  | 3, o => o == some .lt || o == some .eq
  | 4, o => o == some .gt
  | 5, o => o == some .gt || o == some .eq
  | 6, o => o.isNone
  | _, o => o.isSome

/-- FCMP raises invalid: on any NaN for the ordered relations, else on a signalling one. -/
def fcmpInvalid (rel : Nat) (x y : FVal) : Bool :=
  if 2 ≤ rel ∧ rel ≤ 5 then x.isNan || y.isNan else x.invalid || y.invalid

def execFcmp (p : BitVec 5) (c : BitVec 2) (a b : BitVec 7) (t : BitVec 1) (k : BitVec 3) : State → Host.Outcome State Fault Refusal :=
  isa 1 { rd := [a.toNat, b.toNat], prd := [p.toNat], pwr := [p.toNat], near := false } (fun r _ f s =>
    let ty := if t = 0 then 0 else 2
    let x := valOf ty f a 0
    let y := valOf ty f b 0
    withFlags r f { invalid := fcmpInvalid k.toNat x y }
      (fun g => g.combinePred p c (fcmpHolds k.toNat x y)) s)

/-! ### Conversions (18 Tables 18.3 and 18.4) -/

/-- The rounding of a code of 18 Table 18.3. -/
def codeRm (k : Nat) (f : Fibre) : Rm :=
  match k with
  | 0 => .rne | 1 => .rz | 2 => .ru | 3 => .rd | 4 => .sr | _ => rmOf f.fmode

/-- Source format, first source element, destination format, number of elements. -/
structure Conversion where
  src : Fmt
  first : Nat
  dst : Fmt
  n : Nat
  deriving DecidableEq, Repr

/-- The conversion of an FCVT code (18 Table 18.4). -/
def conversionOf (k : Nat) : Conversion :=
  match k with
  | 0x00 => ⟨fp32, 0, fp16, 1⟩ | 0x01 => ⟨fp32, 0, bf16, 1⟩ | 0x02 => ⟨fp16, 0, fp32, 1⟩ | 0x03 => ⟨bf16, 0, fp32, 1⟩
  | 0x04 => ⟨fp32, 0, e4m3, 1⟩ | 0x05 => ⟨fp32, 0, e5m2, 1⟩ | 0x06 => ⟨e4m3, 0, fp32, 1⟩ | 0x07 => ⟨e5m2, 0, fp32, 1⟩
  | 0x08 => ⟨fp32, 0, e2m1, 1⟩ | 0x09 => ⟨e2m1, 0, fp32, 1⟩ | 0x0A => ⟨fp16, 0, bf16, 1⟩ | 0x0B => ⟨bf16, 0, fp16, 1⟩
  | 0x10 => ⟨fp32, 0, bf16, 2⟩ | 0x11 => ⟨fp32, 0, fp16, 2⟩ | 0x12 => ⟨bf16, 0, e4m3, 4⟩ | 0x13 => ⟨fp32, 0, e4m3, 2⟩
  | 0x14 => ⟨e4m3, 0, bf16, 4⟩ | 0x15 => ⟨e4m3, 4, bf16, 4⟩ | 0x16 => ⟨bf16, 0, fp32, 2⟩ | _ => ⟨bf16, 2, fp32, 2⟩

/-- The generator's states for `n` elements, and its state after them (13 R265). -/
def lfsrRun (s : BitVec 32) : Nat → List Nat × BitVec 32
  | 0 => ([], s)
  | n + 1 =>
    let s' := lfsrStep s
    let (rs, e) := lfsrRun s' n
    (s'.toNat :: rs, e)

/-- Rounded elements under a mode: under SR the generator steps once for each. -/
def roundElems (dst : Fmt) (rm : Rm) (sat : Bool) (f : Fibre) (xs : List FVal) : (List Nat × FFlags) × BitVec 32 :=
  let (rs, seed) := if rm = .sr then lfsrRun f.srseed xs.length else (xs.map (fun _ => 0), f.srseed)
  (gather ((xs.zip rs).map (fun p => dst.round p.1 rm sat p.2)), seed)

def execFcvt (d a k : BitVec 7) (sat : BitVec 1) (c : BitVec 3) : State → Host.Outcome State Fault Refusal :=
  isa 1 { rd := [a.toNat], wr := [d.toNat], near := false } (fun r _ f s =>
    let v := conversionOf k.toNat
    let xs := (List.range v.n).map (fun i => v.src.decode (elemOf (f.reg a.toNat) v.src.bits (v.first + i)))
    let ((cs, fl), seed) := roundElems v.dst (codeRm c.toNat f) (sat == 1) f xs
    withFlags r f fl (fun x => { x.setReg d.toNat (ofNat64 (packElems v.dst.bits cs)) with srseed := seed }) s)

/-! ### Integers (18 R375) -/

/-- Width and signedness of an integer type code. -/
def intType (i : Nat) : Nat × Bool := (if i < 2 then 32 else 64, i % 2 == 0)

/-- One element under a rounding code, with the generator stepped under SR. -/
def withMode {α : Type} (c : Nat) (f : Fibre) (g : Rm → Nat → α) : α × BitVec 32 :=
  if codeRm c f = .sr then (g .sr (lfsrStep f.srseed).toNat, lfsrStep f.srseed) else (g (codeRm c f) 0, f.srseed)

/-- FRND: a value rounded to an integer in its own format. -/
def frndVal (fm : Fmt) (x : FVal) (rm : Rm) (r : Nat) : Nat × FFlags :=
  match x with
  | .num neg m e =>
    let (v, ch) := roundInt neg m e rm r
    ((fm.round (.num neg v.natAbs 0) .rne false 0).1, { inexact := ch })
  | x => fm.round x .rne false 0

def execFrnd (d a : BitVec 7) (t c : BitVec 3) : State → Host.Outcome State Fault Refusal :=
  isa 1 { rd := [a.toNat], wr := [d.toNat], near := false } (fun r _ f s =>
    let ((v, fl), seed) := withMode c.toNat f (frndVal (typeOf t.toNat).1 (valOf t.toNat f a 0))
    withFlags r f fl (fun x => { x.setReg d.toNat (ofNat64 v) with srseed := seed }) s)

def execFtoi (d a : BitVec 7) (t : BitVec 3) (i : BitVec 2) (sat : BitVec 1) (c : BitVec 3) : State → Host.Outcome State Fault Refusal :=
  isa 1 { rd := [a.toNat], wr := [d.toNat], near := false } (fun r _ f s =>
    let (n, sg) := intType i.toNat
    let ((v, fl), seed) := withMode c.toNat f (fun rm q => toInt n sg (valOf t.toNat f a 0) rm (sat == 1) q)
    withFlags r f fl (fun x => { x.setReg d.toNat (ofNat64 (wrapNat n v)) with srseed := seed }) s)

def execItof (d a : BitVec 7) (t : BitVec 3) (i : BitVec 2) (sat : BitVec 1) (c : BitVec 3) : State → Host.Outcome State Fault Refusal :=
  isa 1 { rd := [a.toNat], wr := [d.toNat], near := false } (fun r _ f s =>
    let (n, sg) := intType i.toNat
    let ((v, fl), seed) := withMode c.toNat f (fun rm q =>
      (typeOf t.toNat).1.round (FVal.ofInt (lowInt n sg (f.reg a.toNat))) rm (sat == 1) q)
    withFlags r f fl (fun x => { x.setReg d.toNat (ofNat64 v) with srseed := seed }) s)

/-! ### Special functions (18 R376, R377) -/

/-- One special function of one element: the special operands of 18 Table 18.6, the exactly representable results, and otherwise the code that the part chooses within the bounds of Table 18.5 (log entry 15). -/
def specialFn (fm : Fmt) (fn t code : Nat) (rm : Rm) : Nat × FFlags :=
  let pick := Config.special fn t code
  let ulps := if fm = fp32 then 2 else 1
  let exact := fun (x : FVal) => ((fm.round x .rne false 0).1, ({} : FFlags))
  let one := fun (neg : Bool) => exact (.num neg 1 0)
  let zero := fun (neg : Bool) => exact (.num neg 0 0)
  let trig := fun (k : Nat) (neg : Bool) (m : Nat) (e : Int) =>
    if (FVal.num false m e).compare? (.num false 65536 0) = some .gt then
      (fm.signed (2 ^ (fm.e + fm.m) ≤ pick % 2 ^ fm.bits) (min (pick % 2 ^ (fm.e + fm.m)) (one false).1), ({} : FFlags))
    else fm.within ulps (fm == fp32) (specialVal k neg m e) pick
  let bad : Nat × FFlags := (fm.nanCode, { invalid := true })
  match fm.decode code with
  | .nan i => (fm.nanCode, { invalid := i })
  | .inf neg =>
    (match fn with
     | 0 => zero neg
     | 1 => if neg then bad else zero false
     | 2 => if neg then bad else exact (.inf false)
     | 3 => if neg then zero false else exact (.inf false)
     | 4 => if neg then bad else exact (.inf false)
     | 5 => bad
     | 6 => bad
     | 8 => if neg then zero false else one false
     | _ => one neg)
  | .num neg 0 _ =>
    (match fn with
     | 0 => (fm.signed neg fm.infCode, { divzero := true })
     | 1 => (fm.signed neg fm.infCode, { divzero := true })
     | 2 => zero neg
     | 3 => one false
     | 4 => (fm.signed true fm.infCode, { divzero := true })
     | 6 => one false
     | 8 => exact (.num false 1 (-1))
     | _ => zero neg)
  | .num neg m e =>
    (match fn with
     | 0 => fm.within 1 false (recipVal neg m e) pick
     | 1 => if neg then bad else fm.within 1 false (rsqrtVal m e) pick
     | 2 => if neg then bad else
        (let (c, fl) := fm.round (sqrtVal m e) rm false 0; (c, { inexact := fl.inexact }))
     | 4 => if neg then bad else fm.within ulps false (specialVal 4 neg m e) pick
     | 5 => trig 5 neg m e
     | 6 => trig 6 neg m e
     | k => fm.within ulps false (specialVal k neg m e) pick)

def execFspec (d a : BitVec 7) (t : BitVec 3) (fn : BitVec 4) : State → Host.Outcome State Fault Refusal :=
  isa 1 { rd := [a.toNat], wr := [d.toNat], near := false } (fun r _ f s =>
    let (fm, n) := typeOf t.toNat
    let (cs, fl) := gather ((List.range n).map (fun i =>
      specialFn fm fn.toNat t.toNat (elemOf (f.reg a.toNat) fm.bits i) (rmOf f.fmode)))
    withFlags r f fl (fun x => x.setReg d.toNat (ofNat64 (packElems fm.bits cs))) s)

/-! ### Dot products and scaling (18 R378, R379) -/

/-- Operand format and number of elements of a float form of FDOT (18 Table 18.7). -/
def fdotType (f : Nat) : Fmt × Nat :=
  match f with
  | 0 => (bf16, 4) | 1 => (fp16, 4) | 2 => (e4m3, 8) | _ => (fp32, 2)

/-- The exact value of a float form: the accumulator and the products, as one sum. -/
def fdotVal (f : Nat) (down : Bool) (z a b : Dword) : FVal :=
  let (fm, n) := fdotType f
  sumVals down (fp32.decode (z.toNat % 2 ^ 32) ::
    (List.range n).map (fun i => (fm.decode (elemOf a fm.bits i)).mul (fm.decode (elemOf b fm.bits i))))

/-- The exact sum of an integer form. -/
def idotVal (z a b : Dword) : Int :=
  ((List.range 8).map (fun i => signedOf 8 (elemOf a 8 i) * signedOf 8 (elemOf b 8 i))).foldl (· + ·) (lowInt 32 true z)

def execFdot (d a b : BitVec 7) (fn : BitVec 4) : State → Host.Outcome State Fault Refusal :=
  isa 1 { rd := [a.toNat, b.toNat, d.toNat], wr := [d.toNat], near := false } (fun r _ f s =>
    if fn.toNat ≤ 3 then
      let (c, fl) := fp32.round (fdotVal fn.toNat (downOf f) (f.reg d.toNat) (f.reg a.toNat) (f.reg b.toNat)) (rmOf f.fmode) false 0
      withFlags r f fl (fun x => x.setReg d.toNat (ofNat64 c)) s
    else
      let v := idotVal (f.reg d.toNat) (f.reg a.toNat) (f.reg b.toNat)
      .ok (s.updFibre r (fun x => x.setReg d.toNat (ofNat64 (wrapNat 32 (if fn = 5 then satInt 32 true v else v))))))

def execFscale (d a b : BitVec 7) (t : BitVec 3) : State → Host.Outcome State Fault Refusal :=
  isa 1 (regsFp d a b) (elementwise t.toNat d (fun f i => (valOf t.toNat f a i).scale (lowInt 32 true (f.reg b.toNat))))

def execFscaleE8m0 (d a b : BitVec 7) (t : BitVec 3) : State → Host.Outcome State Fault Refusal :=
  isa 1 (regsFp d a b) (elementwise t.toNat d (fun f i =>
    let e := lowNat 8 (f.reg b.toNat)
    if e = 255 then .nan true else (valOf t.toNat f a i).scale ((e : Int) - 127)))

/-! ### Key-id pairs (18 R380) -/

/-- Order of keys of a type: every NaN after every number, all NaNs equal. -/
def keyCompare (k : Nat) (a b : Nat) : Ordering :=
  match k with
  | 0 =>
    (match (fp32.decode a).compare? (fp32.decode b) with
     | some o => o
     | none => compare (bit (fp32.decode a).isNan) (bit (fp32.decode b).isNan))
  | 1 => compare (signedOf 32 a) (signedOf 32 b)
  | _ => compare a b

/-- Order of pairs: key, then id unsigned. -/
def pairCompare (k : Nat) (ka : Nat) (ia : Dword) (kb : Nat) (ib : Dword) : Ordering :=
  match keyCompare k ka kb with
  | .eq => compare ia.toNat ib.toNat
  | o => o

/-- KVMIN and KVMAX: the smaller or larger pair, the pair of a when they are equal. -/
def kvForm (max : Bool) (d a b : BitVec 7) (k : BitVec 2) : State → Host.Outcome State Fault Refusal :=
  isa 1 { rd := [a.toNat, a.toNat + 1, b.toNat, b.toNat + 1], wr := [d.toNat, d.toNat + 1], near := false } (fun r _ f s =>
    let ka := lowNat 32 (f.reg a.toNat)
    let kb := lowNat 32 (f.reg b.toNat)
    let o := pairCompare k.toNat ka (f.reg (a.toNat + 1)) kb (f.reg (b.toNat + 1))
    let takeB := if max then o == .lt else o == .gt
    let (key, id) := if takeB then (kb, f.reg (b.toNat + 1)) else (ka, f.reg (a.toNat + 1))
    .ok (s.updFibre r (fun x => (x.setReg d.toNat (ofNat64 key)).setReg (d.toNat + 1) id)))

def execKvmin (d a b : BitVec 7) (k : BitVec 2) : State → Host.Outcome State Fault Refusal := kvForm false d a b k

def execKvmax (d a b : BitVec 7) (k : BitVec 2) : State → Host.Outcome State Fault Refusal := kvForm true d a b k

end Sys2Proof.Machine
end

