-- ==== Sys2Proof/Machine/Cross.lean ====
section
/-! DEFINITION. Rendezvous (07 R153 to R155, 06 R135) and the cross-fibre instructions: opcodes 0x60 to 0x66 (18 R381 to R388). -/

namespace Sys2Proof.Machine

/-! ### Arrival -/

/-- The arrival a fibre is blocked at, and the one it keeps while it is in a handler (06 R135): instruction address, member set, resident time. -/
def Fibre.blockedAt (f : Fibre) : Option (Nat × BitVec 32 × Nat) :=
  match f.status with
  | .rendezvous a m since => some (a, m, since)
  | _ => none

def Fibre.heldAt (f : Fibre) : Option (Nat × BitVec 32 × Nat) :=
  match f.held with
  | some (.arrived a m since _ _) => some (a, m, since)
  | _ => none

/-- Every arrival of a fibre that counts. -/
def Fibre.arrivals (f : Fibre) : List (Nat × BitVec 32 × Nat) := f.blockedAt.toList ++ f.heldAt.toList

/-- The key of an arrival (07 R153). -/
def keyOf (a : Nat × BitVec 32 × Nat) : Nat × BitVec 32 := (a.1, a.2.1)

/-- The fibre has arrived under a key. -/
def Fibre.arrivedAt (f : Fibre) (k : Nat × BitVec 32) : Bool := f.arrivals.any (fun a => keyOf a == k)

/-- A named fibre cannot arrive: no such fibre, not live, or in a bin or the reorder unit (07 Table 7.4). -/
def Team.absent (t : Team) (i : Nat) : Bool :=
  match t.fibre? i with
  | some f => !f.live || f.parked
  | none => true

/-- Fibre indices a member set names in a row. -/
def memberIdx (row : Nat) (m : BitVec 32) : List Nat :=
  ((List.range 32).filter (fun i => m.getLsbD i)).map (fun i => 32 * row + i)

/-- The first matching row of 07 Table 7.4. -/
inductive Arrival where
  | trap (cause : Nat) (list : List ListEntry)
  | complete
  | block
  deriving DecidableEq, Repr

/-- A list entry for a fibre that a team may not have. -/
def Team.entryFor (t : Team) (i : Nat) : ListEntry :=
  match t.fibre? i with
  | some f => listEntryOf f
  | none => ⟨0, i, 2⟩

/-- Arrival of fibre `f` at instruction address `pc` with member set `m`. A named fibre that has arrived under this key, in a handler or for one, is no mismatch whatever else it has arrived at. -/
def arrive (t : Team) (f : Fibre) (pc : Nat) (m : BitVec 32) : Arrival :=
  let ids := memberIdx (rowOf f.idx) m
  let others := ids.filter (fun i => i != f.idx)
  if !m.getLsbD (f.idx % 32) then .trap 0x08 []
  else if f.away.isSome ∧ !others.isEmpty then .trap 0x09 [listEntryOf f]
  else if others.any t.absent then .trap 0x09 ((others.filter t.absent).map t.entryFor)
  else if others.any (fun i => (t.fibre? i).any (fun g => !g.arrivedAt (pc, m) && g.arrivals.any (fun k =>
      k.2.1.getLsbD (f.idx % 32)))) then .trap 0x08 []
  else if others.all (fun i => (t.fibre? i).any (fun g => g.arrivedAt (pc, m))) then .complete
  else .block

/-- What a member brings: its lane, its registers as they stood at arrival, its fmode. -/
structure Member where
  lane : Nat
  regs : List Dword
  fmode : BitVec 16
  deriving DecidableEq, Repr

def Member.reg (m : Member) (n : BitVec 7) : Dword := m.regs.getD n.toNat 0

/-- What a fibre brings that has arrived under a key: its registers and mode, or those it held when it was taken into a handler. -/
def Fibre.brings (f : Fibre) (k : Nat × BitVec 32) : Member :=
  match f.held with
  | some (.arrived a m _ regs fmode) =>
    if (a, m) = k ∧ !f.blockedAt.any (fun x => keyOf x == k) then ⟨f.idx % 32, regs, fmode⟩ else ⟨f.idx % 32, f.regs, f.fmode⟩
  | _ => ⟨f.idx % 32, f.regs, f.fmode⟩

/-- The members of a set, in ascending lane, when fibre `arriving` completes it. -/
def Team.members (t : Team) (arriving pc : Nat) (m : BitVec 32) : List Member :=
  (memberIdx (rowOf arriving) m).filterMap (fun i =>
    (t.fibre? i).map (fun f => if i = arriving then ⟨f.idx % 32, f.regs, f.fmode⟩ else f.brings (pc, m)))

/-- A blocked member receives its result and passes on; one in a handler keeps it for its return (06 R135). -/
def Fibre.receive (f : Fibre) (k : Nat × BitVec 32) (d : BitVec 7) (v : Dword) (flags : FFlags) (aclk : Nat) : Fibre :=
  if f.blockedAt.any (fun x => keyOf x == k) then
    { ((f.setReg d.toNat v).raiseFlags flags).pass 1 false aclk with status := .ready }
  else { f with held := some (.result k.1 v flags.bits) }

/-- Every member of a completed rendezvous; the arriving one passes as any instruction does. -/
def deliver (r : FibreRef) (k : Nat × BitVec 32) (d : BitVec 7) (rs : List (Nat × Dword)) (flags : FFlags) (row : Nat) (s : State) : State :=
  rs.foldl (fun s p => s.updFibre ⟨r.team, 32 * row + p.1⟩ (fun f =>
    if f.idx = r.fibre then (f.setReg d.toNat p.2).raiseFlags flags else f.receive k d p.2 flags s.aclk)) s

/-- A cross-fibre instruction whose results are `op` of the members, as lane and value, with the flags raised (18 R381). -/
def cross (d a m : BitVec 7) (rdD : Bool) (op : List Member → List (Nat × Dword) × FFlags) : State → Host.Outcome State Fault Refusal :=
  isa 1 { rd := (if rdD then [d.toNat] else []) ++ [a.toNat, m.toNat], wr := [d.toNat], near := false } (fun r t f s =>
    let pc := f.pc.toNat
    let set : BitVec 32 := (f.reg m.toNat).setWidth 32
    let resume := f.handler.isNone && (match f.held with
      | some (.arrived at_ _ _ _ _) => at_ == pc
      | some (.result at_ _ _) => at_ == pc
      | _ => false)
    match f.held, resume with
    | some (.result _ v fl), true =>
      .ok (s.updFibre r (fun x => { x.setReg d.toNat v with fflags := x.fflags ||| fl, held := none }))
    | some (.arrived at_ k since _ _), true =>
      .error (.hold (s.updFibre r (fun x => { x with status := .rendezvous at_ k since, held := none })))
    | _, _ =>
      match arrive t f pc set with
      | .trap c list => .error (.took (mkTrap c 0 0) (s.raiseAt r (mkTrap c 0 0) (list.take 32) (list.length - 32)))
      | .block => .error (.hold (s.updFibre r (fun x => { x with status := .rendezvous pc set (t.residentTime s.aclk) })))
      | .complete =>
        let (rs, fl) := op (t.members f.idx pc set)
        .ok (deliver r (pc, set) d rs fl (rowOf f.idx) s))

/-! ### The operations -/

/-- Each member's result from a function of it. -/
def each (ms : List Member) (g : Member → Dword) : List (Nat × Dword) × FFlags := (ms.map (fun m => (m.lane, g m)), {})

/-- Every member receives one value. -/
def everyOne (ms : List Member) (v : Dword) : List (Nat × Dword) × FFlags := each ms (fun _ => v)

/-- The member at a lane. -/
def atLane (ms : List Member) (lane : Int) : Option Member := ms.find? (fun m => (m.lane : Int) == lane)

/-- Source lane of XSHF (18 R382). -/
def shuffleLane (k lane u : Nat) : Int :=
  match k with
  | 0 => u
  | 1 => (lane : Int) - u
  | 2 => (lane : Int) + u
  | _ => (lane ^^^ u : Nat)

def execXshf (d a m : BitVec 7) (k : BitVec 2) : State → Host.Outcome State Fault Refusal :=
  cross d a m true (fun ms => each ms (fun x =>
    ((atLane ms (shuffleLane k.toNat x.lane (lowNat 5 (x.reg d)))).getD x).reg a))

/-- The exact sum of f32 values, rounded once under the lowest-lane member's mode; it raises the flags (18 R383). -/
def sumF32 (rm : Rm) (vs : List Dword) : Dword × FFlags :=
  let (c, fl) := fp32.round (sumVals (rm == .rd) (vs.map (fun v => fp32.decode (lowNat 32 v)))) rm false 0
  (ofNat64 c, fl)

/-- Minimum or maximum of f32 values in ascending lane; a signalling NaN raises invalid (18 R383, log entry 16). -/
def minMaxF32 (max : Bool) (vs : List Dword) : Dword × FFlags :=
  match vs.map (lowNat 32) with
  | [] => (0, {})
  | c :: cs =>
    (ofNat64 (cs.foldl (fun a b => fp32.minMax max a b) (if (fp32.decode c).isNan ∧ cs.isEmpty then fp32.nanCode else c)),
     { invalid := (c :: cs).any (fun x => (fp32.decode x).invalid) })

/-- Fold of register values from the first one on. -/
def foldRegs (g : Dword → Dword → Dword) : List Dword → Dword
  | [] => 0
  | v :: vs => vs.foldl g v

/-- An operation of 18 Table 18.8 by its XRED code, on the values in ascending lane. -/
def reduceOp (f : Nat) (rm : Rm) (vs : List Dword) : Dword × FFlags :=
  match f with
  | 0 => (foldRegs (· + ·) vs, {})
  | 1 => sumF32 rm vs
  | 2 => (foldRegs (fun a b => if b.slt a then b else a) vs, {})
  | 3 => (foldRegs (fun a b => if a.slt b then b else a) vs, {})
  | 4 => (foldRegs (fun a b => if b.ult a then b else a) vs, {})
  | 5 => (foldRegs (fun a b => if a.ult b then b else a) vs, {})
  | 6 => (foldRegs (· &&& ·) vs, {})
  | 7 => (foldRegs (· ||| ·) vs, {})
  | 8 => (foldRegs (· ^^^ ·) vs, {})
  | 9 => minMaxF32 false vs
  | _ => minMaxF32 true vs

/-- The XRED code of an XSCAN operation code. -/
def scanCode (o : Nat) : Nat := if o ≤ 3 then o else o + 2

/-- The identity of an exclusive scan (18 Table 18.8). -/
def scanIdentity (o : Nat) : Dword :=
  match o with
  | 2 => ofNat64 (2 ^ 63 - 1)
  | 3 => ofNat64 (2 ^ 63)
  | 4 => -1
  | _ => 0

/-- The mode of the lowest-lane member (18 R381). -/
def modeOf (ms : List Member) : Rm := match ms with | m :: _ => rmOf m.fmode | [] => .rne

def execXred (d a m : BitVec 7) (f : BitVec 4) : State → Host.Outcome State Fault Refusal :=
  cross d a m false (fun ms =>
    let (v, fl) := reduceOp f.toNat (modeOf ms) (ms.map (fun x => x.reg a))
    (ms.map (fun x => (x.lane, v)), fl))

/-- The prefix of a scan at the k-th member. -/
def scanAt (excl : Bool) (o : Nat) (rm : Rm) (vs : List Dword) (k : Nat) : Dword × FFlags :=
  let n := if excl then k else k + 1
  if n = 0 then (scanIdentity o, {}) else reduceOp (scanCode o) rm (vs.take n)

def execXscan (d a m : BitVec 7) (e : BitVec 1) (o : BitVec 3) : State → Host.Outcome State Fault Refusal :=
  cross d a m false (fun ms =>
    let vs := ms.map (fun x => x.reg a)
    let rs := (List.range ms.length).map (fun k => scanAt (e == 1) o.toNat (modeOf ms) vs k)
    ((ms.zip rs).map (fun p => (p.1.lane, p.2.1)), rs.foldl (fun fl p => fl.or p.2) {}))

/-- A mask of lanes. -/
def laneMask (ls : List Nat) : Dword := ls.foldl (fun v l => v ||| BitVec.twoPow 64 l) 0

/-- XVOTE (18 R385). -/
def voteValue (f : Nat) (a : BitVec 7) (ms : List Member) : Dword :=
  let vs := ms.map (fun x => x.reg a)
  match f with
  | 0 => if vs.all (fun v => v != 0) then 1 else 0
  | 1 => if vs.any (fun v => v != 0) then 1 else 0
  | 2 => if vs.all (fun v => v == vs.headD 0) then 1 else 0
  | _ => laneMask ((ms.filter (fun x => x.reg a != 0)).map (fun x => x.lane))

def execXvote (d a m : BitVec 7) (f : BitVec 4) : State → Host.Outcome State Fault Refusal :=
  cross d a m false (fun ms => everyOne ms (voteValue f.toNat a ms))

def execXbcast (d a m : BitVec 7) : State → Host.Outcome State Fault Refusal :=
  cross d a m false (fun ms => everyOne ms ((ms.head?).elim 0 (fun x => x.reg a)))

def execXbcastLane (d a m : BitVec 7) : State → Host.Outcome State Fault Refusal :=
  cross d a m true (fun ms =>
    let u := (ms.head?).elim 0 (fun x => lowNat 5 (x.reg d))
    each ms (fun x => ((atLane ms u).getD x).reg a))

/-- The value XELECT gives a member, with the elected lane. -/
def electValue (won : Option Nat) (x : Member) : Dword :=
  match won with
  | none => ofNat64 (2 ^ 16)
  | some l => ofNat64 (bit (x.lane == l) + l * 2 ^ 8)

def execXelect (d m : BitVec 7) : State → Host.Outcome State Fault Refusal :=
  cross d m m false (fun ms => each ms (electValue ((ms.head?).map (fun x => x.lane))))

def execXelectIf (d a m : BitVec 7) : State → Host.Outcome State Fault Refusal :=
  cross d a m false (fun ms => each ms (electValue ((ms.find? (fun x => (x.reg a).getLsbD 0)).map (fun x => x.lane))))

/-- XMATCH (18 R388). -/
def matchValue (f : Nat) (a : BitVec 7) (ms : List Member) (x : Member) : Dword :=
  let key := fun (y : Member) => if f < 2 then (y.reg a).toNat else lowNat 32 (y.reg a)
  if f % 2 = 0 then laneMask ((ms.filter (fun y => key y == key x)).map (fun y => y.lane))
  else if ms.all (fun y => key y == key x) then laneMask (ms.map (fun y => y.lane)) else 0

def execXmatch (d a m : BitVec 7) (f : BitVec 4) : State → Host.Outcome State Fault Refusal :=
  cross d a m false (fun ms => each ms (matchValue f.toNat a ms))

/-! ### Time-out (07 R155) -/

/-- Resident time at which a rendezvous of a row began: its first arrival's. -/
def Team.rendezvousSince (t : Team) (k : Nat × BitVec 32) (row : Nat) : Nat :=
  ((t.fibres.filter (fun f => rowOf f.idx == row)).flatMap (fun f =>
    (f.arrivals.filter (fun a => keyOf a == k)).map (fun a => a.2.2))).foldl min (2 ^ 64)

/-- The row and key of a rendezvous of the team that has timed out, of its lowest-indexed member. -/
def Team.rendezvousDue (t : Team) (limit aclk : Nat) : Option (Nat × Nat × BitVec 32) :=
  if !t.resident then none
  else (t.fibres.flatMap (fun f => f.arrivals.map (fun a => (rowOf f.idx, keyOf a)))).find? (fun p =>
    decide (t.rendezvousSince p.2 p.1 + limit * 256 ≤ t.residentTime aclk))

/-- Every member still blocked raises the time-out trap; a member in a handler loses its arrival (06 R135). -/
def State.expireRendezvous (s : State) (t : Team) (row : Nat) (k : Nat × BitVec 32) : State :=
  let blocked := t.fibres.filter (fun x => rowOf x.idx == row && x.blockedAt.any (fun a => keyOf a == k))
  let missing := (memberIdx row k.2).filter (fun i => !(t.fibre? i).any (fun g => g.arrivedAt k))
  let list := missing.map t.entryFor
  let s := s.updTeam t.id (fun t => { t with fibres := t.fibres.map (fun (x : Fibre) =>
    if rowOf x.idx = row then
      let x := if x.heldAt.any (fun a => keyOf a == k) then { x with held := none } else x
      if x.blockedAt.any (fun a => keyOf a == k) then x.unblock s.aclk else x
    else x) })
  (blocked.zip (List.range blocked.length)).foldl (fun s p =>
    s.raiseAt ⟨t.id, p.1.idx⟩ (mkTrap 0x0A 0 0) (if p.2 = 0 then list.take 32 else []) 0) s

/-- The rendezvous time-out of a context (03 R68). -/
def State.rdvTimeout (s : State) (ctx : Nat) : Nat := (s.ctx? ctx).elim 1 (fun c => c.rdvTimeout)

/-- RENDEZVOUS_TIMEOUT of the first rendezvous that is due. -/
def execRendezvousTimeout (s : State) : Host.Outcome State Fault Refusal :=
  device (match s.teams.find? (fun t => (t.rendezvousDue (s.rdvTimeout t.ctx) s.aclk).isSome) with
    | some t => (match t.rendezvousDue (s.rdvTimeout t.ctx) s.aclk with | some p => s.expireRendezvous t p.1 p.2 | none => s)
    | none => s)

end Sys2Proof.Machine
end

