-- ==== Sys2Proof/Machine/Tensor.lean ====
section
/-! DEFINITION. Tensor entries: their fields and validity (19 R391 to R396), the placement field, members and slots (11 R230 to R233), demands (11 R234), and TDEF, opcode 0x70 (19 R397). -/

namespace Sys2Proof.Machine

/-! ### The 1,024 bits of an entry (19 Table 19.1) -/

/-- A tensor entry as one number of 1,024 bits. -/
abbrev Entry := Nat

def Entry.fmt (e : Entry) : Nat := bitsOf e 0 4
def Entry.rank (e : Entry) : Nat := bitsOf e 4 3
def Entry.space (e : Entry) : Nat := bitsOf e 7 2
def Entry.scaled (e : Entry) : Bool := bitsOf e 9 1 == 1
def Entry.base (e : Entry) : Nat := bitsOf e 64 52
def Entry.scaleBase (e : Entry) : Nat := bitsOf e 128 52
def Entry.dimM1 (e : Entry) (k : Nat) : Nat := bitsOf e (256 + 24 * k) 24
def Entry.stride (e : Entry) (k : Nat) : Nat := bitsOf e (384 + 32 * k) 32
def Entry.fill (e : Entry) : Nat := bitsOf e 544 64
def Entry.bound (e : Entry) (k : Nat) : Nat := bitsOf e (608 + 24 * k) 24
def Entry.generation (e : Entry) : Nat := bitsOf e 736 32
def Entry.meshId (e : Entry) : Nat := bitsOf e 768 16
def Entry.naxes (e : Entry) : Nat := bitsOf e 784 2
def Entry.state (e : Entry) : Nat := bitsOf e 786 2
def Entry.sealedMask (e : Entry) : Nat := bitsOf e 788 4
def Entry.sealTimeout (e : Entry) : Nat := bitsOf e 796 16

/-- The axis descriptor of axis `a` (11 Table 11.2). -/
def Entry.axis (e : Entry) (a : Nat) : Nat := bitsOf e (864 + 48 * a) 48

def axKind (x : Nat) : Nat := bitsOf x 0 2
def axGrid (x : Nat) : Nat := bitsOf x 2 2
def axDies (x : Nat) : Nat := bitsOf x 4 4
def axDkind (x : Nat) : Nat := bitsOf x 8 1
def axPlace (x : Nat) : Nat := bitsOf x 9 2
def axDim (x : Nat) : Nat := bitsOf x 11 3
def axOp (x : Nat) : Nat := bitsOf x 14 2
def axOrigin (x : Nat) : Nat := bitsOf x 16 16
def axExtent (x : Nat) : Nat := bitsOf x 32 16

/-- Element bits of a format code (19 Table 19.2). -/
def fmtBits (f : Nat) : Nat := [32, 16, 16, 8, 8, 4, 8, 4, 4, 32, 8].getD f 8

/-- Bytes that hold one element, or one block of o4; a 4-bit element counts as its byte. -/
def fmtBytes (f : Nat) : Nat := if f = 8 then 18 else max 1 (fmtBits f / 8)

/-- The floating-point format of a code, when it is one. -/
def fmtFloat (f : Nat) : Option Fmt :=
  match f with
  | 0 => some fp32 | 1 => some fp16 | 2 => some bf16 | 3 => some e4m3 | 4 => some e5m2 | 5 => some e2m1
  | _ => none

/-! ### Places of elements (19 R394) -/

/-- An index in the five dimensions. -/
abbrev Index := List Nat

/-- Element offset of an index. -/
def Entry.offset (e : Entry) (ix : Index) : Nat :=
  ((List.range 5).map (fun k => ix.getD k 0 * e.stride k)).foldl (· + ·) 0

/-- Byte offset from base of the byte, bytes or block that hold an element. -/
def Entry.byteOffset (e : Entry) (ix : Index) : Nat :=
  let o := e.offset ix
  if e.fmt = 8 then 18 * (o / 32) else if fmtBits e.fmt = 4 then o / 2 else o * fmtBytes e.fmt

/-- An index is in bounds (19 R396). -/
def Entry.inBounds (e : Entry) (ix : Index) : Bool :=
  (List.range e.rank).all (fun k => decide (ix.getD k 0 < e.bound k)) &&
  (List.range 5).all (fun k => decide (k < e.rank) || ix.getD k 0 == 0)

/-- Extent of the elements (19 R394). -/
def Entry.extent (e : Entry) : Nat :=
  e.byteOffset ((List.range 5).map e.dimM1) + fmtBytes e.fmt

/-- Lengths of the dense scale array; `n` is N of a sparse operand, 64 otherwise (19 R394, R405). -/
def Entry.scaleDims (e : Entry) (n : Nat) : List Nat :=
  (((e.dimM1 0 + 1) * 64 / n + 31) / 32) :: ((List.range e.rank).drop 1).map (fun k => e.dimM1 k + 1)

/-- Extent of the scale array. -/
def Entry.scaleExtent (e : Entry) (n : Nat) : Nat := (e.scaleDims n).foldl (· * ·) 1

/-- Offset of the scale byte at block index `b` of dimension 0 and the other indices; none outside the array (13 R262). -/
def Entry.scaleOffset (e : Entry) (n : Nat) (b : Nat) (ix : Index) : Option Nat :=
  let dims := e.scaleDims n
  let is := b :: (List.range (dims.length - 1)).map (fun k => ix.getD (k + 1) 0)
  if (dims.zip is).all (fun p => decide (p.2 < p.1)) then
    some (((dims.zip is).foldl (fun (a : Nat × Nat) p => (a.1 + a.2 * p.2, a.2 * p.1)) (0, 1)).1)
  else none

/-! ### Members and slots (11 R232, R233) -/

/-- Axes of an entry. -/
def Entry.axes (e : Entry) : List Nat := (List.range e.naxes).map e.axis

/-- Size of an axis. -/
def axSize (x : Nat) : Nat := if axKind x = 1 then (List.range 4).countP (fun j => (axDies x).testBit j) else axExtent x

/-- This device's coordinate on a grid axis (02 Table 2.8). -/
def gridCoord (grid : Dword) (g : Nat) : Nat := bitsOf grid.toNat (16 * g) 16

/-- Number of grid axes set. -/
def gridAxes (grid : Dword) : Nat := bitsOf grid.toNat 48 2

/-- The local members: the local index, and for each the coordinates in axis order. -/
def Entry.localMembers (e : Entry) (grid : Dword) : List (Nat × List Nat) :=
  let n := (e.axes.find? (fun x => axKind x == 1)).elim 1 axSize
  (List.range n).map (fun l => (l, e.axes.map (fun x => if axKind x = 1 then l else gridCoord grid (axGrid x) - axOrigin x)))

/-- Linear member index of coordinates. -/
def Entry.memberIndex (e : Entry) (cs : List Nat) : Nat :=
  ((e.axes.zip cs).foldl (fun (a : Nat × Nat) p => (a.1 + a.2 * p.2, a.2 * axSize p.1)) (0, 1)).1

/-- Number of members. -/
def Entry.memberCount (e : Entry) : Nat := (e.axes.map axSize).foldl (· * ·) 1

/-- A length rounded up to whole 64 KiB. -/
def up64k (n : Nat) : Nat := (n + 65535) / 65536 * 65536

/-- Base and scale base of local slot `l`. -/
def Entry.slotBase (e : Entry) (l : Nat) : Nat := e.base + l * up64k e.extent
def Entry.slotScale (e : Entry) (l : Nat) : Nat := e.scaleBase + l * up64k (e.scaleExtent 64)

/-- Whether the member with coordinate `c` on an axis holds an index (11 R233). -/
def axHolds (e : Entry) (x c : Nat) (ix : Index) : Bool :=
  if axPlace x = 2 then
    let d := e.dimM1 (axDim x) + 1
    let q := (d + axSize x - 1) / max 1 (axSize x)
    let i := ix.getD (axDim x) 0
    decide (c * q ≤ i ∧ i < (c + 1) * q)
  else true

/-- The local index of a die on the package axis of an entry. -/
def Entry.dieIndex (e : Entry) (die : Nat) : Option Nat :=
  match e.axes.find? (fun x => axKind x == 1) with
  | none => none
  | some x =>
    let j := die % 4
    if (die / 4 == axDkind x) ∧ (axDies x).testBit j then some ((List.range j).countP (fun i => (axDies x).testBit i)) else none

/-- The local slot an element is read from or written to by a core of a die, or none when another device holds it (11 Table 11.3). -/
def Entry.slotOf (e : Entry) (grid : Dword) (die : Nat) (ix : Index) : Option Nat :=
  let far := e.axes.any (fun x => axKind x == 2 && !axHolds e x (gridCoord grid (axGrid x) - axOrigin x) ix)
  if far then none
  else
    match e.axes.find? (fun x => axKind x == 1) with
    | none => some 0
    | some x =>
      if axPlace x = 2 then (List.range (axSize x)).find? (fun c => axHolds e x c ix)
      else some ((e.dieIndex die).getD 0)

/-! ### Validity (19 R393, 11 R231) -/

/-- An axis descriptor that breaks its own ranges. -/
def axBad (grid : Dword) (e : Entry) (x : Nat) : Bool :=
  !(axKind x == 1 || axKind x == 2) ||
  (axKind x == 1 && (axDies x == 0 || axGrid x != 0 || axOrigin x != 0 || axExtent x != 0)) ||
  (axKind x == 2 && (axDies x != 0 || axDkind x != 0 || axGrid x == 3 || axExtent x == 0 || decide (1024 < axExtent x) ||
    decide (65535 < axOrigin x + axExtent x - 1) || decide (gridAxes grid ≤ axGrid x) ||
    decide (gridCoord grid (axGrid x) < axOrigin x) || decide (axOrigin x + axExtent x ≤ gridCoord grid (axGrid x)))) ||
  (axPlace x != 2 && axDim x != 0) || (axPlace x == 2 && decide (e.rank ≤ axDim x)) ||
  (axPlace x != 3 && axOp x != 0) || (axPlace x == 3 && axOp x == 3) ||
  (axPlace x == 3 && !(e.fmt == 0 || e.fmt == 2 || e.fmt == 9)) ||
  (axPlace x == 2 && axDim x == 0 && (e.fmt == 8 || e.scaled) &&
    ((e.dimM1 0 + 1 + axSize x - 1) / max 1 (axSize x)) % 32 != 0)

/-- Some value stands twice in a list. -/
def dup (xs : List Nat) : Bool := decide (xs.eraseDups.length < xs.length)

/-- The placement field breaks 11 R231. -/
def Entry.placementBad (e : Entry) (grid : Dword) : Bool :=
  e.naxes != 0 &&
  (e.axes.any (axBad grid e) ||
   (List.range 3).any (fun a => decide (e.naxes ≤ a) && e.axis a != 0) ||
   decide (1 < e.axes.countP (fun x => axKind x == 1)) ||
   dup ((e.axes.filter (fun x => axKind x == 2)).map axGrid) ||
   dup ((e.axes.filter (fun x => axPlace x == 2)).map axDim) ||
   decide (1 < ((e.axes.filter (fun x => axPlace x == 3)).map axOp).eraseDups.length) ||
   decide (1024 < e.memberCount) || e.space != 0 || e.sealTimeout == 0 ||
   bitsOf e 792 4 != 0 || bitsOf e 812 52 != 0 || bitsOf e 1008 16 != 0)

/-- An invalid entry (19 R393). -/
def Entry.invalid (e : Entry) (grid : Dword) : Bool :=
  let ks := List.range 5
  decide (11 ≤ e.fmt) || e.rank == 0 || decide (6 ≤ e.rank) || e.stride 0 != 1 ||
  ks.any (fun k => decide (1 ≤ k ∧ k < e.rank) && fmtBits e.fmt == 4 && e.stride k % 2 == 1) ||
  (e.fmt == 8 && (ks.any (fun k => decide (1 ≤ k ∧ k < e.rank) && e.stride k % 32 != 0) || (e.dimM1 0 + 1) % 32 != 0 || e.bound 0 % 32 != 0)) ||
  ks.any (fun k => decide (2 ≤ k ∧ 65535 < e.dimM1 k)) ||
  ks.any (fun k => decide (k < e.rank ∧ e.dimM1 k + 1 < e.bound k)) ||
  ks.any (fun k => decide (e.rank ≤ k) && (e.dimM1 k != 0 || e.stride k != 0 || e.bound k != 0)) ||
  (e.scaled && !(e.fmt == 3 || e.fmt == 4 || e.fmt == 5)) || (!e.scaled && e.scaleBase != 0) ||
  bitsOf e 10 54 != 0 || bitsOf e 116 12 != 0 || bitsOf e 180 76 != 0 || bitsOf e 376 8 != 0 || bitsOf e 728 8 != 0 ||
  e.placementBad grid

/-- The invalid-record error of a record kind (14 R273). -/
def invalidRecord (detail addr : Nat) : Trap := mkTrap 0x18 detail addr

/-! ### Reading an entry (19 R391) -/

/-- Address of entry `n` of a context. -/
def State.entryAddr (s : State) (ctx n : Nat) : Nat := (s.ctx? ctx).elim 0 (fun c => c.tidTable) + 128 * n

/-- The place of an entry: outside the mapped table it is an illegal instruction (19 R401); otherwise the checks of a load. -/
def State.entryPlace (s : State) (ctx _pc n : Nat) (k : AccKind) : Except Trap MemLoc :=
  let a := s.entryAddr ctx n
  match translate s ctx 8 0 a k false with
  | .trap t => .error (if t = .unmapped a then .illegal else t)
  | .nonres => .error (mkTrap 0x04 0 a)
  | .ok l => match l.loc a with | .mem m => .ok m | _ => .error (.denied a)

/-- The entry as one unit: its number, or the poison-consumed fault. -/
def State.readEntry (s : State) (ctx pc n : Nat) : Except Trap (MemLoc × Entry) :=
  match s.entryPlace ctx pc n .load with
  | .error t => .error t
  | .ok m =>
    if (List.range 16).any (fun i => s.mem.poison.contains (wordOf m.pa + i)) then .error (mkTrap 0x12 0 (s.entryAddr ctx n))
    else .ok (m, natOfBytes (s.physBytes m.pa 128))

/-- A valid entry, or the invalid-record error. -/
def State.validEntry (s : State) (ctx pc n : Nat) : Except Trap (MemLoc × Entry) :=
  match s.readEntry ctx pc n with
  | .error t => .error t
  | .ok (m, e) => if e.invalid s.grid then .error (invalidRecord 1 (s.entryAddr ctx n)) else .ok (m, e)

/-- The two entries that an instruction uses, both valid; of two faults the one that comes first: an entry outside the mapped table before every other (14 R274, 19 R401). -/
def State.validPair (s : State) (ctx pc a b : Nat) : Except Trap ((MemLoc × Entry) × (MemLoc × Entry)) :=
  match s.validEntry ctx pc a, s.validEntry ctx pc b with
  | .ok x, .ok y => .ok (x, y)
  | .error e, .ok _ => .error e
  | .ok _, .error e => .error e
  | .error e, .error e' => .error (if causeRank e'.cause < causeRank e.cause then e' else e)

/-- No L1 of the package holds a line. -/
def State.dropCopies (s : State) (line : Nat) : State :=
  { s with coh := { s.coh with l1 := s.coh.l1.filter (fun x => x.line != line) } }

/-- The entry written at its home; every cached copy of it in the package is invalidated (19 R391). -/
def State.writeEntry (s : State) (m : MemLoc) (e : Entry) (w : Writer) (ctx : Nat) : State :=
  (s.modifyHome m ((bytesOfNat 128 e).map some) w ctx none).dropCopies (lineOf m.pa)

/-- An entry changed by its controller, found by its number. -/
def State.changeEntry (s : State) (ctx n : Nat) (g : Entry → Entry) : State :=
  match s.readEntry ctx 0 n with
  | .ok (m, e) => s.writeEntry m (g e) (.engine 0) ctx
  | .error _ => s

/-- Replace a field of an entry. -/
def Entry.put (e : Entry) (lo n v : Nat) : Entry := e - bitsOf e lo n * 2 ^ lo + v % 2 ^ n * 2 ^ lo

/-- The reset of placement by TDEF.define: state, sealed_mask and generation 0 (11 R230). -/
def Entry.resetPlacement (e : Entry) : Entry := ((e.put 786 2 0).put 788 4 0).put 736 32 0

/-! ### Demands (11 R234) -/

/-- Code and dimension of axis `a` in a demand. -/
def demandCode (d a : Nat) : Nat := bitsOf d (5 * a) 2
def demandDim (d a : Nat) : Nat := bitsOf d (5 * a + 2) 3

/-- An invalid demand. -/
def Entry.demandBad (e : Entry) (d : Nat) : Bool :=
  bitsOf d 15 1 != 0 || (List.range 3).any (fun a => demandCode d a == 3 || decide (e.rank ≤ demandDim d a))

/-- The stored placement of an axis meets the demand. -/
def axMeets (x d a : Nat) : Bool :=
  demandCode d a == 0 || axPlace x == 0 || (demandCode d a == 1 && axPlace x == 1) ||
  (demandCode d a == 2 && axPlace x == 2 && axDim x == demandDim d a)

/-- The demand is met by the stored placement. -/
def Entry.meets (e : Entry) (d : Nat) : Bool :=
  (List.range e.naxes).all (fun a => axMeets (e.axis a) d a)

/-- The demand asks for the tensor as stored on every axis. -/
def Entry.asStored (e : Entry) (d : Nat) : Bool := (List.range e.naxes).all (fun a => demandCode d a == 0)

/-- PLACE result (20 Table 20.4). -/
def Entry.placeResult (e : Entry) : Dword :=
  if e.naxes = 0 then 0 else ofNat64 (e.state + e.sealedMask * 4 + e.naxes * 64 + e.generation * 2 ^ 32)

/-! ### TDEF (19 R397) -/

/-- A 128-byte image at a global address, by plain loads of the fibre (form 0). -/
def imagePlace (s : State) (r : FibreRef) (t : Team) (f : Fibre) (va align : Nat) : Except Stop Loc :=
  place s r t f .load 0 va 8 align

/-- The places of `n` dwords from a virtual address up. -/
def recordPlaces (r : FibreRef) (t : Team) (f : Fibre) (va n : Nat) (s : State) : Except Stop (List Loc) :=
  (List.range n).mapM (fun i => imagePlace s r t f (va + 8 * i) 8)

/-- One dword of a record: from the answer to its READ on a remote page, or loaded in place. -/
def recordDword (r : FibreRef) (t : Team) (f : Fibre) (va part : Nat) (l : Loc) (s : State) : Except Trap (Nat × State) :=
  match l with
  | .remote _ _ _ => .ok (natOfBytes (((s.remoteAnswer r f.seq part).bind (fun o => o.answer)).getD []), s)
  | l =>
    let ((bs, p), s) := s.loadPlace t f l 8 plain
    if (f.queuedPoison l).getD p then .error (mkTrap 0x12 0 va) else .ok (natOfBytes bs, s)

/-- Link down is asynchronous only (14 Table 14.1): the reads of a record that it met come back with values that nothing states. -/
def State.settleLost (s : State) (r : FibreRef) (f : Fibre) (va : Nat) : State :=
  { s with remote := s.remote.map (fun (o : RemoteOp) =>
      match o.who with
      | .load x q _ => if x = r ∧ q = f.seq ∧ o.failed then { o with failed := false, answer := some (s.freeBytes o.kind.bytes) } else o
      | _ => o) }.raiseAsync r 1 0x1A 0 10 f.pc.toNat va none

/-- A read of a record has failed: the precise fault of a load there (03 R81, 14 R282). -/
def recordFailed (r : FibreRef) (f : Fibre) (va : Nat) (o : RemoteOp) (s : State) : Stop :=
  if !o.host && o.status == 255 then .hold (s.settleLost r f va)
  else
    let e := mkTrap (if o.host then 0x03 else peerCause o.status) 0 va
    .took e ((s.takeAnswers r f.seq).raiseAt r e [] 0)

/-- A record of `n` dwords at a global address, read by plain loads once the fibre's earlier loads are performed; its parts on remote pages are fetched first, in the order of 09 R192, as parts `base` and up of the instruction's remote access, whose answers stay until they are taken (03 R81). -/
def recordAt (r : FibreRef) (t : Team) (f : Fibre) (va n base : Nat) (s : State) : Except Stop (Nat × State) :=
  match recordPlaces r t f va n s with
  | .error e => .error e
  | .ok ls =>
    let ps := (List.range n).zip ls
    let far := ps.filter (fun p => p.2.isRemote)
    let missing := far.filter (fun p => (s.remoteAnswer r f.seq (base + p.1)).isNone)
    if !missing.isEmpty then
      (if remoteQueued f ∨ far.any (fun p => !inOrder s t f f.seq p.2) then .error (.hold s)
       else .error (.hold (missing.foldl (fun s p =>
         match p.2 with
         | .remote h w o => s.send h t.ctx w o (.read 8) (.load r f.seq (base + p.1))
         | _ => s) s)))
    else if let some o := (far.filterMap (fun p => s.remoteAnswer r f.seq (base + p.1))).find? (fun o => o.failed) then
      .error (recordFailed r f va o s)
    else if far.any (fun p => ((s.remoteAnswer r f.seq (base + p.1)).bind (fun o => o.answer)).isNone) ||
        ps.any (fun p => !p.2.isRemote && !loadReady s t f f.seq p.2 plain) then .error (.hold s)
    else
      (ps.foldl (fun (a : Except Trap (Nat × State)) p =>
        match a with
        | .error e => .error e
        | .ok (v, s) =>
          match recordDword r t f (va + 8 * p.1) (base + p.1) p.2 s with
          | .error e => .error e
          | .ok (x, s) => .ok (v + x * 2 ^ (64 * p.1), s)) (.ok (0, s))).mapError Stop.trap

/-- A record read whole, then the instruction that needs it. -/
def withRecord (r : FibreRef) (t : Team) (f : Fibre) (va n align : Nat) (s : State) (k : Nat → State → Act) : Act :=
  if va % align ≠ 0 then .error (.trap (.misaligned va))
  else
    match recordAt r t f va n 0 s with
    | .error e => .error e
    | .ok (v, s) => k v (s.takeAnswers r f.seq)

/-- The read of an entry is a load of its fibre: it waits as one (09 R192, 08 R182). -/
def entryReady (s : State) (t : Team) (f : Fibre) (m : MemLoc) : Bool := loadReady s t f f.seq (.mem m) plain

/-- The copies and counts of a load of the entry's line. A cached copy is never older than the home, since a change invalidates every one (19 R391). -/
def State.entryTouched (s : State) (t : Team) (f : Fibre) (m : MemLoc) : State :=
  (s.serveWord (coreOf t f) (dieOf t f) m t.ctx plain).2

/-- The entry that an instruction uses, read as one unit at its issue (19 R391). -/
def withEntry (n : Nat) (t : Team) (f : Fibre) (s : State) (k : MemLoc → Entry → State → Act) : Act :=
  match s.entryPlace t.ctx f.pc.toNat n .load with
  | .error e => .error (.trap e)
  | .ok m =>
    if !entryReady s t f m then wait s
    else
      match s.readEntry t.ctx f.pc.toNat n with
      | .error e => .error (.trap e)
      | .ok (_, e) => k m e (s.entryTouched t f m)

/-- An instruction that reads some entries at its issue: it waits while one cannot be read, and has read them when it has had its effect. -/
def reading (ns : List Nat) (t : Team) (f : Fibre) (s : State) (a : Act) : Act :=
  let place := fun (s : State) n => (s.entryPlace t.ctx f.pc.toNat n .load).toOption
  if ns.any (fun n => (place s n).any (fun m => !entryReady s t f m)) then wait s
  else a.map (fun s => ns.foldl (fun s n => match place s n with | some m => s.entryTouched t f m | none => s) s)

/-- A valid entry that an instruction uses. -/
def withValid (n : Nat) (t : Team) (f : Fibre) (s : State) (k : MemLoc → Entry → State → Act) : Act :=
  withEntry n t f s (fun m e s =>
    if e.invalid s.grid then .error (.trap (invalidRecord 1 (s.entryAddr t.ctx n))) else k m e s)

/-- A TDEF is performed like a store of the fibre: after its earlier accesses. -/
def changeEntryBy (n : Nat) (r : FibreRef) (t : Team) (f : Fibre) (s : State) (g : Entry → Except Trap Entry) : Act :=
  withEntry n t f s (fun m e s' =>
    if e.naxes ≠ 0 ∧ e.state ≠ 0 then .error (.trap (mkTrap 0x14 0 (s.entryAddr t.ctx n)))
    else
      match g e with
      | .error x => .error (.trap x)
      | .ok e' =>
        if e'.invalid s.grid then .error (.trap (invalidRecord 1 (s.entryAddr t.ctx n)))
        else if !settled f then wait s
        else .ok (s'.writeEntry m e' (.fibre r) t.ctx))

/-- TDEF.define. -/
def execTdef (a : BitVec 7) (n : BitVec 10) : State → Host.Outcome State Fault Refusal :=
  isa 2 { rd := [a.toNat], near := false } (fun r t f s =>
    withRecord r t f (f.reg a.toNat).toNat 16 128 s (fun image s' =>
      match s.entryPlace t.ctx f.pc.toNat n.toNat .load with
      | .error e => .error (.trap e)
      | .ok m =>
        if Entry.invalid image s.grid then .error (.trap (invalidRecord 1 (f.reg a.toNat).toNat))
        else if Entry.naxes (natOfBytes (s.physBytes m.pa 128)) ≠ 0 ∧ Entry.state (natOfBytes (s.physBytes m.pa 128)) = 2 then wait s
        else if !settled f ∨ s.ownedAt (.mem m) then wait s
        else
          let s := { s' with
            sealedRanges := s'.sealedRanges.filter (fun x => !(x.ctx == t.ctx && x.tid == n.toNat))
            sealing := s'.sealing.filter (fun x => !(x.ctx == t.ctx && x.tid == n.toNat)) }
          let s := s.closeCollectives (fun o => o.ctx == t.ctx && o.tid == n.toNat)
          .ok (s.writeEntry m (Entry.resetPlacement image) (.fibre r) t.ctx)))

def execTdefQuery (d : BitVec 7) (n : BitVec 10) (k : BitVec 4) : State → Host.Outcome State Fault Refusal :=
  isa 2 { wr := [d.toNat], near := false } (fun r t f s =>
    withEntry n.toNat t f s (fun _ e s => .ok (s.updFibre r (fun x => x.setReg d.toNat (ofNat64 (bitsOf e (64 * k.toNat) 64))))))

def execTdefBind (a b : BitVec 7) (n : BitVec 10) : State → Host.Outcome State Fault Refusal :=
  isa 2 { rd := [a.toNat, b.toNat], near := false } (fun r t f s =>
    let x := (f.reg a.toNat).toNat
    let y := (f.reg b.toNat).toNat
    changeEntryBy n.toNat r t f s (fun e =>
      if 2 ^ 52 ≤ x ∨ 4 ≤ y then .error (invalidRecord 1 (s.entryAddr t.ctx n.toNat))
      else .ok ((e.put 64 52 x).put 7 2 y)))

def execTdefFill (a : BitVec 7) (n : BitVec 10) : State → Host.Outcome State Fault Refusal :=
  isa 2 { rd := [a.toNat], near := false } (fun r t f s =>
    changeEntryBy n.toNat r t f s (fun e => .ok (e.put 544 64 (f.reg a.toNat).toNat)))

def execTdefBounds (a : BitVec 7) (n : BitVec 10) (k : BitVec 3) : State → Host.Outcome State Fault Refusal :=
  isa 2 { rd := [a.toNat], near := false } (fun r t f s =>
    let x := (f.reg a.toNat).toNat
    changeEntryBy n.toNat r t f s (fun e =>
      if 2 ^ 24 ≤ x ∨ e.rank ≤ k.toNat ∨ e.dimM1 k.toNat + 1 < x then .error (invalidRecord 1 (s.entryAddr t.ctx n.toNat))
      else .ok (e.put (608 + 24 * k.toNat) 24 x)))

end Sys2Proof.Machine
end

