-- ==== Sys2Proof/Machine/Demands.lean ====
section
/-! DEFINITION. Ownership of lines by engine commands (08 R182), the units of a conversion (11 R233, R235), and demands on a placed tensor (11 R234, R237, R239, R240): when one passes, waits, or begins a conversion; shared by TLD.dem, PLACE.convert and the SEAL nodes. -/

namespace Sys2Proof.Machine

/-- A range cut at the boundaries of 64 KiB pages; a scratchpad has none. -/
def pageParts (space a n : Nat) : List (Nat × Nat) :=
  if space = 1 ∨ space = 2 ∨ a % 65536 + n ≤ 65536 then [(a, n)]
  else [(a, 65536 - a % 65536), (a / 65536 * 65536 + 65536, n - (65536 - a % 65536))]

/-! ### Ownership (08 R182) -/

/-- The lines that `n` bytes from a place up touch. -/
def MemLoc.lines (m : MemLoc) (n : Nat) : List Nat := (List.range ((m.pa % 128 + n + 127) / 128)).map (fun i => lineOf m.pa + i)

/-- The command that owns a line: the first that asked for it (20 R418). -/
def State.ownerOf (s : State) (line : Nat) : Option Nat := (s.owned.find? (fun p => p.1 == line)).map (fun p => p.2)

/-- A command asks for the ownership of lines: each is recalled, its cuttings collapsed, and no L1 keeps a copy, since a fibre access waits for the release and then sees what landed (09 R203). -/
def State.own (s : State) (cmd ctx : Nat) (lines : List Nat) : State :=
  lines.foldl (fun s l =>
    let s := ((s.recallLine l).collapseNow l ctx).dropCopies l
    { s with owned := s.owned ++ [(l, cmd)] }) s

/-- A command keeps only the lines it has still to write. -/
def State.releaseLines (s : State) (cmd : Nat) (keep : List Nat) : State :=
  { s with owned := s.owned.filter (fun p => p.2 != cmd || keep.contains p.1) }

/-! ### What a conversion moves (11 R233, R235) -/

/-- What a conversion moves as one: an element, a 4-bit element of a byte, an o4 block, or a scale byte; its offset in its slot, and the first index it holds or governs. -/
structure ConvUnit where
  off : Nat
  len : Nat
  half : Option Bool
  scale : Bool
  ix : Index
  deriving DecidableEq, Repr

/-- Every index below some bounds, dimension 0 innermost. -/
def indexesBelow : List Nat → List Index
  | [] => [[]]
  | d :: ds => (indexesBelow ds).flatMap (fun ix => (List.range d).map (fun i => i :: ix))

/-- The units of the elements inside the tensor's bounds. -/
def Entry.elemUnits (e : Entry) : List ConvUnit :=
  let ixs := indexesBelow ((List.range e.rank).map e.bound)
  (ixs.filter (fun ix => e.fmt != 8 || ix.headD 0 % 32 == 0)).map (fun ix =>
    { off := e.byteOffset ix
      len := fmtBytes e.fmt
      half := if e.fmt ≠ 8 ∧ fmtBits e.fmt = 4 then some (e.offset ix % 2 == 1) else none
      scale := false
      ix := ix })

/-- The scale bytes of the elements inside the bounds. -/
def Entry.scaleUnits (e : Entry) : List ConvUnit :=
  if !e.scaled then []
  else
    ((indexesBelow (((e.bound 0 + 31) / 32) :: (((List.range e.rank).map e.bound).drop 1))).filterMap (fun ix =>
      (e.scaleOffset 64 (ix.headD 0) ix).map (fun o =>
        { off := o, len := 1, half := none, scale := true, ix := (32 * ix.headD 0) :: ix.drop 1 })))

def Entry.convUnits (e : Entry) : List ConvUnit := e.elemUnits ++ e.scaleUnits

/-- The address of a unit in local slot `l`. -/
def ConvUnit.at_ (u : ConvUnit) (e : Entry) (l : Nat) : Nat := (if u.scale then e.slotScale l else e.slotBase l) + u.off

/-- What the step of an axis does. -/
inductive StepKind where
  | none
  | gather
  | reduce
  deriving DecidableEq, Repr

/-- The step of axis `a` toward a demand (11 Table 11.4); a replicated axis that is sliced moves no data. -/
def Entry.stepKind (e : Entry) (d a : Nat) : StepKind :=
  let x := e.axis a
  if axMeets x d a || axPlace x == 1 then .none
  else if axPlace x = 2 then .gather
  else .reduce

/-- A member's share of a unit is written at the end: some step changed it, and on every reduced axis that ends sharded the member holds it. -/
def convWrites (c : ConvRun) (e : Entry) (u : ConvUnit) (cs : List Nat) : Bool :=
  (List.range e.naxes).any (fun a => e.stepKind c.demand a != .none) &&
  (List.range e.naxes).all (fun a =>
    let x := e.axis a
    e.stepKind c.demand a != .reduce || demandCode c.demand a != 2 ||
      axHolds e (x - bitsOf x 9 5 * 2 ^ 9 + 2 * 2 ^ 9 + demandDim c.demand a * 2 ^ 11) (cs.getD a 0) u.ix)

/-! ### Waiting demands -/

/-- The conversion under way on a tensor. -/
def State.convOf (s : State) (ctx tid : Nat) : Option ConvRun :=
  s.convs.find? (fun c => c.ctx == ctx && c.tid == tid)

/-- The entry of a tensor as the device sees it. -/
def State.entryOf (s : State) (ctx tid : Nat) : Entry :=
  match s.readEntry ctx 0 tid with
  | .ok (_, e) => e
  | .error _ => 0

/-- A conversion begins: the entry's state becomes converting (11 Table 11.5). -/
def State.beginConversion (s : State) (ctx tid demand : Nat) : State :=
  let s := s.changeEntry ctx tid (fun e => e.put 786 2 2)
  { s with convs := s.convs ++ [{
      ctx := ctx
      tid := tid
      demand := demand
      axis := 0
      sent := false
      inputs := []
      parts := []
      since := s.aclk }] }

/-- A wait at a tensor, if this asker has one. -/
def State.demandOf (s : State) (who : Asker) : Option Demand := s.demands.find? (fun d => d.who == who)

def State.dropDemand (s : State) (who : Asker) : State := { s with demands := s.demands.filter (fun d => d.who != who) }

/-- The asker waits, its timer running from now on; one that waits already goes on waiting. -/
def State.addDemand (s : State) (d : Demand) : State :=
  if (s.demandOf d.who).isSome then s else { s with demands := s.demands ++ [d] }

/-- The asker waits for a placement; the others wait for a conversion's end. -/
def Asker.demands : Asker → Bool
  | .tld _ => true
  | .convert _ => true
  | _ => false

/-- The lines that a conversion writes on this device. -/
def convLines (s : State) (c : ConvRun) : List Nat :=
  let e := s.entryOf c.ctx c.tid
  ((e.localMembers s.grid).flatMap (fun p => (e.convUnits.filter (fun u => convWrites c e u p.2)).flatMap (fun u =>
    (pageParts 0 (u.at_ e p.1) u.len).flatMap (fun q =>
      match translate s c.ctx 8 0 q.1 .store true with
      | .ok l => (match l.loc q.1 with | .mem m => m.lines q.2 | _ => [])
      | _ => [])))).foldl setInsert []

/-- The PLACE.convert commands that wait at a tensor. -/
def State.convertsAt (s : State) (ctx tid : Nat) : List Nat :=
  s.demands.filterMap (fun d => match d.who with
    | .convert id => if d.ctx == ctx && d.tid == tid then some id else none
    | _ => none)

/-- The PLACE.convert commands whose demand the conversion under way meets own the lines it writes, from now to its end (09 R203, 20 R418; log entry 90). -/
def State.ownSlots (s : State) (ctx tid : Nat) : State :=
  match s.convOf ctx tid with
  | none => s
  | some c =>
    let ids := (s.convertsAt ctx tid).filter (fun id =>
      s.demands.any (fun d => d.who == .convert id && d.demand == c.demand) && !s.owned.any (fun p => p.2 == id))
    ids.foldl (fun s id => s.own id ctx (convLines s c)) s

/-- The lines of a conversion that ends are released. -/
def State.releaseSlots (s : State) (ctx tid : Nat) : State :=
  { s with owned := s.owned.filter (fun p => !(s.convertsAt ctx tid).contains p.2) }

/-- A demand that was found met is still to be taken up: by its command, or by its fibre, whose team is on a core. -/
def State.takenUp (s : State) (d : Demand) : Bool :=
  d.granted && (match d.who with
    | .convert _ => true
    | .tld r => (s.team? r.team).any (fun t => t.core.isSome)
    | _ => false)

/-- The entry's controller looks at the waiting demands of a tensor again (11 R239): those that its sealed placement meets pass; once they have been taken up, the oldest of the others begins its conversion; a SEAL node that waited for a conversion finds the tensor sealed. -/
def State.serveDemands (s : State) (ctx tid : Nat) : State :=
  let e := s.entryOf ctx tid
  let here := fun (d : Demand) => d.ctx == ctx && d.tid == tid
  let s := { s with demands := (s.demands.filter (fun d =>
      !(here d && e.state != 2 && (match d.who with | .node _ _ => true | _ => false)))).map (fun (d : Demand) =>
        if here d && d.who.demands && e.state == 1 && e.meets d.demand then { d with granted := true } else d) }
  let s := match s.demands.find? (fun d => here d && d.who.demands && !d.granted) with
    | some d =>
      if e.state = 1 ∧ (s.convOf ctx tid).isNone ∧ !s.demands.any (fun x => here x && s.takenUp x) then s.beginConversion ctx tid d.demand
      else s
    | none => s
  s.ownSlots ctx tid

/-- How a demand comes out when it is examined (11 R237, R239). -/
inductive Met where
  | passes
  | waits (s : State)
  deriving DecidableEq, Repr

/-- A demand that is examined again after the placement it was found met by is gone has to wait again. -/
def State.ungrant (s : State) (who : Asker) : State :=
  { s with demands := s.demands.map (fun (x : Demand) => if x.who == who then { x with granted := false } else x) }

/-- A demand is examined: a TLD for the tensor as it is stored never waits; an open or converting tensor makes the others wait, but for one that a conversion has met since it came; a sealed one meets it, or begins the conversion it needs when the earlier demands have been served. -/
def State.examine (s : State) (e : Entry) (d : Demand) : Met :=
  let plain_ := match d.who with | .tld _ => e.asStored d.demand | _ => false
  let granted := (s.demandOf d.who).any (fun x => x.granted)
  if plain_ then .passes
  else if (e.state = 1 ∧ e.meets d.demand) ∨ (e.state = 0 ∧ granted) then .passes
  else .waits (((s.ungrant d.who).addDemand d).serveDemands d.ctx d.tid)

/-- Base and length in bytes of every local slot (11 R232). -/
def Entry.slotRanges (e : Entry) (grid : Dword) : List (Nat × Nat) :=
  (e.localMembers grid).flatMap (fun p =>
    (e.slotBase p.1, up64k e.extent) :: (if e.scaled then [(e.slotScale p.1, up64k (e.scaleExtent 64))] else []))

/-- The acquire of a tensor's local slots (11 R241). -/
def State.acquireSlots (s : State) (t : Team) (f : Fibre) (e : Entry) : State :=
  (e.slotRanges s.grid).foldl (fun s p => s.acquireRange t f p.1 (p.1 + p.2)) s

end Sys2Proof.Machine
end

