-- ==== Sys2Proof/Machine/Tiles.lean ====
section
/-! DEFINITION. Tile moves and accumulators: TLD and TST, opcodes 0x71 and 0x72 (19 R398 to R401), ACC, opcode 0x74 (R408 to R410), META.ld and META.rd (R411), with the drop points of their loads. -/

namespace Sys2Proof.Machine

/-! ### Places of elements -/

/-- One part of a tensor's bytes as a place, with the checks of its space. -/
def tensorPlace (s : State) (t : Team) (f : Fibre) (k : AccKind) (space a n : Nat) : Except Trap Loc :=
  if space = 1 then scratchPlace t f a n
  else if space = 2 then clusterPlace s t f a n
  else
    match translate s t.ctx (dieOf t f) space a k false with
    | .trap e => .error e
    | .nonres => .error (mkTrap 0x04 0 a)
    | .ok l => .ok (l.loc a)

/-- The places of `n` bytes of a tensor. -/
def tensorPlaces (s : State) (t : Team) (f : Fibre) (k : AccKind) (space a n : Nat) : Except Trap (List (Loc × Nat)) :=
  (pageParts space a n).mapM (fun p => (tensorPlace s t f k space p.1 p.2).map (fun l => (l, p.2)))

/-- The address of an element in the slot a core of a die uses; none when it is out of bounds or held only by another device (19 R396, 11 Table 11.3). -/
def Entry.elemAt (e : Entry) (grid : Dword) (die : Nat) (ix : Index) : Option Nat :=
  if e.inBounds ix then (e.slotOf grid die ix).map (fun l => e.slotBase l + e.byteOffset ix) else none

/-- The bytes an out-of-bounds element reads as (19 R396): the fill code, in both nibbles for a 4-bit format; an o4 block reads as 0. -/
def Entry.fillBytes (e : Entry) : List Byte :=
  if e.fmt = 8 then bytesOfNat 18 0
  else if fmtBits e.fmt = 4 then bytesOfNat 1 (e.fill % 16 * 17)
  else bytesOfNat (fmtBytes e.fmt) (e.fill % 2 ^ fmtBits e.fmt)

/-- The lowest address touched in each page, pages rising. -/
def addPage : List (Nat × Nat) → Nat → List (Nat × Nat)
  | [], a => [(a / 65536, a)]
  | (p, b) :: m, a =>
    if a / 65536 < p then (a / 65536, a) :: (p, b) :: m
    else if a / 65536 = p then (p, min a b) :: m
    else (p, b) :: addPage m a

/-- The first page fault of some accesses, in ascending address (19 R401). -/
def pagesFault (s : State) (t : Team) (f : Fibre) (k : AccKind) (space : Nat) (as : List (Nat × Nat)) : Option Trap :=
  if space = 1 ∨ space = 2 then none
  else
    let pages := (as.flatMap (fun p => (pageParts space p.1 p.2).map (fun q => q.1))).foldl addPage []
    pages.findSome? (fun p => match tensorPlace s t f k space p.2 1 with | .error e => some e | .ok _ => none)

/-- The first store that a seal forbids (11 R238). -/
def sealFault (s : State) (ctx space : Nat) (as : List (Nat × Nat)) : Option Trap :=
  if space = 1 ∨ space = 2 then none
  else (as.find? (fun p => s.sealHit ctx p.1 p.2)).map (fun p => mkTrap 0x14 0 p.1)

/-- The scratchpad extent check (19 R395); `n` is N of a sparse operand, 64 otherwise. -/
def extentFault (s : State) (t : Team) (f : Fibre) (n : Nat) (e : Entry) : Option Trap :=
  let fits := fun (a len : Nat) =>
    match (if e.space = 1 then scratchPlace t f a len else clusterPlace s t f a len) with | .ok _ => true | .error _ => false
  if e.space ≠ 1 ∧ e.space ≠ 2 then none
  else if !fits e.base e.extent then some (mkTrap 0x06 0 e.base)
  else if e.scaled ∧ !fits e.scaleBase (e.scaleExtent n) then some (mkTrap 0x06 0 e.scaleBase)
  else none

/-! ### Reading and writing pieces -/

/-- Bytes from a place up, as a load of the fibre at a place of its program order. -/
def loadSpan (s : State) (t : Team) (f : Fibre) (seq : Nat) (l : Loc) (n : Nat) (st : Strength) : (List Byte × Bool) × State :=
  (wordParts l n).foldl (fun (a : (List Byte × Bool) × State) p =>
    let ((bs, q), s) := performLoad a.2 t f seq p.1 p.2 st
    ((a.1.1 ++ bs, a.1.2 || q && !queuedWhole (f.queueBefore seq) p.1), s)) (([], false), s)

/-- The bytes of a source, its parts in order, and whether a part was poisoned. -/
def readPieces (s : State) (t : Team) (f : Fibre) (seq : Nat) (ps : List Piece) : (List Byte × Bool) × State :=
  ps.foldl (fun (a : (List Byte × Bool) × State) p =>
    match p with
    | .known bs => ((a.1.1 ++ bs, a.1.2), a.2)
    | .read l n =>
      let ((bs, q), s) := loadSpan a.2 t f seq l n plain
      ((a.1.1 ++ bs, a.1.2 || q), s)) (([], false), s)

/-- Every part of some sources can be read now. -/
def piecesReady (s : State) (t : Team) (f : Fibre) (seq : Nat) (ps : List Piece) : Bool :=
  ps.all (fun p => p.places.all (fun q => loadReady s t f seq q.1 plain))

/-- The nibble of a byte. -/
def nibbleOf (b : Byte) (high : Bool) : BitVec 4 := if high then (b >>> 4).setWidth 4 else b.setWidth 4

/-- An element written where it stands: its bytes over the places, or one nibble; poison goes with it (08 R184). -/
def State.landMove (s : State) (r : FibreRef) (t : Team) (f : Fibre) (m : Move) (bs : List Byte) (poison : Bool) : State :=
  let s := (m.dst.foldl (fun (a : State × List Byte) p =>
    let here := a.2.take p.2
    let here := match m.half with
      | some h => (a.1.homeBytes p.1 1).map (fun b => withNibble b h (nibbleOf (here.headD 0) h))
      | none => here
    (a.1.modifyAt r t f p.1 here, a.2.drop p.2)) (s, bs)).1
  if poison then (m.dst.flatMap (fun p => wordParts p.1 p.2)).foldl (fun s p => s.poisonAt p.1) s else s

/-- The byte made of the low 4-bit element of one byte and the high one of another. -/
def pairByte (low high : Byte) : Byte := withNibble low true (nibbleOf high true)

/-- The entries of the store queue that write an element; a pair of 4-bit elements of a remote page is one byte. -/
def queueMove (r : FibreRef) (m : Move) (bs : List Byte) (poison : Bool) (s : State) : State :=
  let s := (m.dst.foldl (fun (a : State × List Byte) p =>
    let here := a.2.take p.2
    let k := match m.half, p.1 with
      | some _, .remote _ _ _ => StoreKind.write p.1 [some (pairByte (a.2.headD 0) (a.2.getD 1 0))]
      | some h, _ => .nibble p.1 h (nibbleOf (here.headD 0) h)
      | none, _ => .write p.1 (here.map some)
    (queueStore r k plain a.1, a.2.drop p.2)) (s, bs)).1
  if poison then (m.dst.flatMap (fun p => wordParts p.1 p.2)).foldl (fun s p => queueStore r (.poison p.1) plain s) s else s

/-- A 4-bit element toward a remote page. -/
def Move.farHalf (m : Move) : Bool := m.half.isSome && m.dst.all (fun p => p.1.isRemote)

/-- A 4-bit element that goes to a remote page alone takes with it what stands beside it there. -/
def Move.padded (m : Move) : Move :=
  if !m.farHalf then m
  else
    let there := m.dst.map (fun p => Piece.read p.1 1)
    { m with src := if m.half = some true then there ++ m.src else m.src ++ there }

/-- Stores with their poison: 4-bit elements toward a remote page, which has no read-modify-write of a nibble (17 R350), go as whole bytes, an element with the one beside it, or with what stands there (log entry 100). -/
def pairRemote : List (Move × Bool) → List (Move × Bool)
  | [] => []
  | [p] => [(p.1.padded, p.2)]
  | p :: q :: rest =>
    if p.1.farHalf ∧ p.1.half = some false ∧ q.1.half = some true ∧ p.1.dst = q.1.dst then
      ({ p.1 with src := p.1.src ++ q.1.src }, p.2 || q.2) :: pairRemote rest
    else (p.1.padded, p.2) :: pairRemote (q :: rest)

/-- The remote parts of some sources, in order. -/
def remoteParts (ps : List Piece) : List RemotePart :=
  ps.flatMap (fun p =>
    match p with
    | .read l n => (wordParts l n).flatMap (fun q =>
        match q.1 with | .remote h w o => [⟨h, w, o, .read q.2⟩] | _ => [])
    | .known _ => [])

/-- The sources with the answers to their remote parts put in. -/
def fillPieces : List Piece → List (List Byte) → List Piece × List (List Byte)
  | [], bs => ([], bs)
  | .read (.remote h w o) n :: ps, bs =>
    let k := (wordParts (.remote h w o) n).length
    let (qs, rest) := fillPieces ps (bs.drop k)
    (.known (bs.take k).flatten :: qs, rest)
  | p :: ps, bs =>
    let (qs, rest) := fillPieces ps bs
    (p :: qs, rest)

def fillMoves : List Move → List (List Byte) → List Move
  | [], _ => []
  | m :: ms, bs =>
    let (ps, rest) := fillPieces m.src bs
    { m with src := ps } :: fillMoves ms rest

/-- Moves whose remote sources are fetched first, at the instruction (log entry 13). -/
def withMoves (r : FibreRef) (t : Team) (f : Fibre) (va : Nat) (ms : List Move) (s : State) (k : List Move → State → Act) : Act :=
  let parts := remoteParts (ms.flatMap (fun m => m.src))
  if parts.isEmpty then k ms s
  else remoteAccess r t f va parts plain s (fun bs s => k (fillMoves ms bs) s)

/-! ### TLD and TST -/

/-- Origins and shape of a tile (19 Table 19.4). -/
structure TileShape where
  i : Index
  j0 : Nat
  j1 : Nat
  rows : Nat
  cols : Nat
  deriving DecidableEq, Repr

/-- The registers of a tile operand: memory side, shape, scratch side. -/
def tileShape (a b d : Dword) : TileShape where
  i := [bitsOf a.toNat 0 24, bitsOf a.toNat 24 24, bitsOf b.toNat 0 16, bitsOf b.toNat 16 16, bitsOf b.toNat 32 16]
  j0 := bitsOf d.toNat 0 24
  j1 := bitsOf d.toNat 24 24
  rows := bitsOf b.toNat 56 8 + 1
  cols := bitsOf b.toNat 48 8 + 1

/-- The shape breaks the rule of 4-bit formats and of o4 (19 R398). -/
def TileShape.bad (x : TileShape) (fmt : Nat) : Bool :=
  let by_ := fun (n : Nat) => x.i.headD 0 % n != 0 || x.j0 % n != 0 || x.cols % n != 0
  if fmt = 8 then by_ 32 else fmtBits fmt == 4 && by_ 2

/-- The units a tile moves in: its elements, or its o4 blocks, as row and column. -/
def TileShape.units (x : TileShape) (fmt : Nat) : List (Nat × Nat) :=
  let w := if fmt = 8 then 32 else 1
  (List.range x.rows).flatMap (fun r => (List.range (x.cols / w)).map (fun c => (r, w * c)))

/-- S and D indices of a unit. -/
def TileShape.sIx (x : TileShape) (p : Nat × Nat) : Index :=
  (x.i.getD 0 0 + p.2) :: (x.i.getD 1 0 + p.1) :: x.i.drop 2
def TileShape.dIx (x : TileShape) (p : Nat × Nat) : Index := [x.j0 + p.2, x.j1 + p.1, 0, 0, 0]

/-- The nibble a unit of a 4-bit format stands in; an o4 block is moved whole. -/
def unitHalf (fmt : Nat) (p : Nat × Nat) : Option Bool := if fmt ≠ 8 ∧ fmtBits fmt = 4 then some (p.2 % 2 == 1) else none

/-- The places of an element's bytes, or none when nothing is there to read or write. -/
def elemPlaces (s : State) (t : Team) (f : Fibre) (k : AccKind) (e : Entry) (ix : Index) : Except Trap (Option (List (Loc × Nat))) :=
  match e.elemAt s.grid (dieOf t f) ix with
  | none => .ok none
  | some a => (tensorPlaces s t f k e.space a (fmtBytes e.fmt)).map some

/-- A source that reads places, or the fill code. -/
def piecesOf (e : Entry) : Option (List (Loc × Nat)) → List Piece
  | some ls => ls.map (fun p => .read p.1 p.2)
  | none => [.known e.fillBytes]

/-- The move of one unit; an element that has nowhere to go makes none. -/
def unitMove (s : State) (t : Team) (f : Fibre) (e e' : Entry) (half : Option Bool) (ix ix' : Index) : Except Trap (Option Move) :=
  match elemPlaces s t f .load e ix with
  | .error x => .error x
  | .ok src => (elemPlaces s t f .store e' ix').map (fun p => p.map (fun dst => Move.mk (piecesOf e src) dst half))

/-- The moves of a tile from one tensor to another. -/
def tileMoves (s : State) (t : Team) (f : Fibre) (e e' : Entry) (half : (Nat × Nat) → Option Bool)
    (units : List (Nat × Nat)) (ix ix' : Nat × Nat → Index) : Except Trap (List Move) :=
  (units.mapM (fun p => unitMove s t f e e' (half p) (ix p) (ix' p))).map (fun ms => ms.filterMap id)

/-- The addresses a tile touches in its memory-side tensor. -/
def touched (s : State) (t : Team) (f : Fibre) (e : Entry) (ixs : List Index) : List (Nat × Nat) :=
  ixs.filterMap (fun ix => (e.elemAt s.grid (dieOf t f) ix).map (fun a => (a, fmtBytes e.fmt)))

/-- Checks 1 to 4 of 19 R401 for TLD and TST: entries, formats, spaces, extents; answers the two entries. -/
def tileEntries (s : State) (t : Team) (f : Fibre) (ts td : Nat) (store : Bool) (x : TileShape) : Except Trap (Entry × Entry) :=
  let pc := f.pc.toNat
  match s.validPair t.ctx pc ts td with
  | .error e => .error e
  | .ok ((_, es), (_, ed)) =>
    let bad := .error (invalidRecord 1 (s.entryAddr t.ctx ts))
    if es.fmt ≠ ed.fmt ∨ x.bad es.fmt then bad
    else if ed.space ≠ 1 ∧ ed.space ≠ 2 then .error (invalidRecord 1 (s.entryAddr t.ctx td))
    else if store ∧ es.space = 3 then bad
    else
      match extentFault s t f 64 ed, extentFault s t f 64 es with
      | some e, _ => .error e
      | _, some e => .error e
      | none, none => .ok (es, ed)

/-- TLD after its checks and its demand. -/
def tileLoad (r : FibreRef) (t : Team) (f : Fibre) (es ed : Entry) (x : TileShape) (s : State) : Act :=
  let us := x.units es.fmt
  match pagesFault s t f .load es.space (touched s t f es (us.map x.sIx)) with
  | some e => .error (.trap e)
  | none =>
    match tileMoves s t f es ed (unitHalf es.fmt) us x.sIx x.dIx with
    | .error e => .error (.trap e)
    | .ok ms => withMoves r t f es.base ms s (fun ms s => issueLong r f 2 (.tile ms) [] [] [] s)

def execTld (d a b : BitVec 7) (ts td : BitVec 10) : State → Host.Outcome State Fault Refusal :=
  isa 2 { rd := [a.toNat, b.toNat, d.toNat], near := false, long := true } (fun r t f s =>
    let x := tileShape (f.reg a.toNat) (f.reg b.toNat) (f.reg d.toNat)
    reading [ts.toNat, td.toNat] t f s <|
    match tileEntries s t f ts.toNat td.toNat false x with
    | .error e => .error (.trap e)
    | .ok (es, ed) => tileLoad r t f es ed x s)

/-- TLD.dem: the demand is ignored for a local tensor; otherwise it waits and converts first (19 R399). -/
def execTldDem (d a b : BitVec 7) (ts td : BitVec 10) : State → Host.Outcome State Fault Refusal :=
  isa 2 { rd := [a.toNat, b.toNat, d.toNat], near := false, long := true } (fun r t f s =>
    let x := tileShape (f.reg a.toNat) (f.reg b.toNat) (f.reg d.toNat)
    let dem := bitsOf (f.reg a.toNat).toNat 48 16
    reading [ts.toNat, td.toNat] t f s <|
    match tileEntries s t f ts.toNat td.toNat false x with
    | .error e => .error (.trap e)
    | .ok (es, ed) =>
      if es.naxes = 0 then tileLoad r t f es ed x s
      else if es.demandBad dem then .error (.trap .illegal)
      else
        match s.examine es ⟨.tld r, t.ctx, ts.toNat, dem, t.residentTime s.aclk, false⟩ with
        | .waits s => .error (.hold s)
        | .passes =>
          let s := if (s.demandOf (.tld r)).isSome then (s.dropDemand (.tld r)).acquireSlots t f es else s
          tileLoad r t f es ed x s)

/-- The moves of a store: read at the instruction, queued as one store (19 R400). -/
def storeMoves (r : FibreRef) (t : Team) (f : Fibre) (len va : Nat) (ms : List Move) (s : State) : Act :=
  if !piecesReady s t f f.seq (ms.flatMap (fun m => m.src)) then wait s
  else withMoves r t f va ((pairRemote (ms.map (fun m => (m, false)))).map (fun p => p.1)) s (fun ms s =>
    let (vs, s) := ms.foldl (fun (a : List (Move × List Byte × Bool) × State) m =>
      let (v, s) := readPieces a.2 t f f.seq m.src
      (a.1 ++ [(m, v)], s)) ([], s)
    match issueLong r f len (.value [] none) [] [] [] s with
    | .error e => .error e
    | .ok s => .ok (vs.foldl (fun s p => queueMove r p.1 p.2.1 p.2.2 s) s))

def execTst (d a b : BitVec 7) (ts td : BitVec 10) : State → Host.Outcome State Fault Refusal :=
  isa 2 { rd := [a.toNat, b.toNat, d.toNat], near := false, long := true } (fun r t f s =>
    let x := tileShape (f.reg a.toNat) (f.reg b.toNat) (f.reg d.toNat)
    reading [ts.toNat, td.toNat] t f s <|
    match tileEntries s t f ts.toNat td.toNat true x with
    | .error e => .error (.trap e)
    | .ok (es, ed) =>
      let us := x.units es.fmt
      let at_ := touched s t f es (us.map x.sIx)
      match pagesFault s t f .store es.space at_, sealFault s t.ctx es.space at_ with
      | some e, _ => .error (.trap e)
      | none, some e => .error (.trap e)
      | none, none =>
        match tileMoves s t f ed es (unitHalf es.fmt) us x.dIx x.sIx with
        | .error e => .error (.trap e)
        | .ok ms => storeMoves r t f 2 es.base ms s)

/-- The drop point of TLD: every element read and written (19 R400), after the fibre's earlier stores (09 R192). -/
def dropTile (r : FibreRef) (t : Team) (f : Fibre) (op : LongOp) (ms : List Move) (s : State) : State :=
  if !piecesReady s t f op.seq (ms.flatMap (fun m => m.src)) ∨ !(f.queueBefore op.seq).sq.isEmpty then s
  else
    let s := ms.foldl (fun s m =>
      let ((bs, q), s) := readPieces s t f op.seq m.src
      s.landMove r t f m bs q) s
    finishLong r op [] none s

/-! ### Metadata memory -/

/-- Bytes of a team's metadata memory (08 Table 8.1). -/
def Team.metaBytes (t : Team) : Nat := t.kernel.metaUnits * 4096

def Team.metaDword (t : Team) (off : Nat) : Dword := sparseDword t.metaMem off

/-- Bytes written into metadata memory, with the poison they carry. -/
def Team.metaWrite (t : Team) (off : Nat) (bs : List Byte) (poison : Bool) : Team :=
  { t with
    metaMem := sparseWrite t.metaMem off (bs.map some)
    metaPoison := setPut t.metaPoison (off / 8) poison }

/-- META.ld: `n` dwords of the source into metadata memory at its drop point (19 R411). -/
def execMetaLd (a b : BitVec 7) (off : BitVec 12) (sp : BitVec 1) : State → Host.Outcome State Fault Refusal :=
  isa 2 { rd := [a.toNat, b.toNat], near := false, long := true } (fun r t f s =>
    let va := (f.reg a.toNat).toNat
    let n := (f.reg b.toNat).toNat
    if va % 64 ≠ 0 then .error (.trap (.misaligned va))
    else if n % 64 ≠ 0 ∨ n = 0 ∨ 65536 < n then .error (.trap (invalidRecord 1 va))
    else if t.metaBytes < 64 * off.toNat + n then .error (.trap (.extent (64 * off.toNat)))
    else if sp = 1 ∧ t.allocBytes < va + n then .error (.trap (.extent va))
    else
      match (pageParts sp.toNat va n).mapM (fun p => (place s r t f .load sp.toNat p.1 1 1).map (fun l => (l, p.2))) with
      | .error e => .error e
      | .ok ls =>
        withMoves r t f va [⟨ls.map (fun p => .read p.1 p.2), [], none⟩] s (fun ms s =>
          issueLong r f 2 (.metaLoad (64 * off.toNat) (ms.flatMap (fun m => m.src))) [] [] [] s))

/-- The drop point of META.ld. -/
def dropMeta (r : FibreRef) (t : Team) (f : Fibre) (op : LongOp) (off : Nat) (ps : List Piece) (s : State) : State :=
  if !piecesReady s t f op.seq ps then s
  else
    let parts := ps.flatMap (fun p => match p with
      | .read l n => (wordParts l n).map (fun q => Piece.read q.1 q.2)
      | .known bs => (List.range (bs.length / 8)).map (fun i => .known ((bs.drop (8 * i)).take 8)))
    let (_, s) := parts.foldl (fun (a : Nat × State) p =>
      let ((bs, q), s) := readPieces a.2 t f op.seq [p]
      (a.1 + bs.length, s.updTeam t.id (fun t => t.metaWrite a.1 bs q))) (off, s)
    finishLong r op [] none s

def execMetaRd (d a : BitVec 7) : State → Host.Outcome State Fault Refusal :=
  isa 2 { rd := [a.toNat], wr := [d.toNat], near := false } (fun r t f s =>
    let o := (f.reg a.toNat).toNat
    if o % 8 ≠ 0 then .error (.trap (.misaligned o))
    else if t.metaBytes ≤ o then .error (.trap (.extent o))
    else if t.metaPoison.contains (o / 8) then .error (.trap (mkTrap 0x12 0 o))
    else .ok (s.updFibre r (fun x => x.setReg d.toNat (t.metaDword o))))

/-! ### Accumulator tiles (19 R408) -/

/-- Elements of a tile in a row and in all, and its number of rows. -/
def tileCols : Nat := 96
def tileRows : Nat := 64
def tileElems : Nat := 6144

/-- Element `e` of a tile, and whether its pair is poisoned. -/
def Team.accAt (t : Team) (tile e : Nat) : Word32 := sparseGet 0 t.acc (tile * tileElems + e)
def Team.accBad (t : Team) (tile e : Nat) : Bool := t.accPoison.contains ((tile * tileElems + e) / 2)

/-- A tile written whole: its elements in order, and which of them carry poison. -/
def Team.putTile (t : Team) (tile : Nat) (vs : List (Word32 × Bool)) : Team :=
  let lo := tile * tileElems
  let idx := List.range vs.length
  let keep := fun (k : Nat) => k < lo || lo + tileElems ≤ k
  let t := { t with
    acc := t.acc.filter (fun p => keep p.1)
    accPoison := t.accPoison.filter (fun p => keep (2 * p)) }
  (idx.zip vs).foldr (fun (p : Nat × Word32 × Bool) (t : Team) => { t with
    acc := sparsePut 0 t.acc (lo + p.1) p.2.1
    accPoison := if p.2.2 then setInsert t.accPoison ((lo + p.1) / 2) else t.accPoison }) t

/-- An issued MMA of the team has still to write the tile (19 R410). -/
def State.tileBusy (s : State) (t : Team) (tile : Nat) : Bool := s.mmas.any (fun m => m.team == t.id && m.tile == tile)

def execAccZero (k : BitVec 6) : State → Host.Outcome State Fault Refusal :=
  isa 2 { tiles := [k.toNat], tileOf := some k.toNat, near := false } (fun _ t _ s =>
    if s.tileBusy t k.toNat then wait s
    else .ok (s.updTeam t.id (fun t => t.putTile k.toNat [])))

/-- The tensor index of a tile element for an ACC origin register. -/
def accIx (o : Dword) (e : Nat) : Index := [bitsOf o.toNat 0 24 + e % tileCols, bitsOf o.toNat 24 24 + e / tileCols, 0, 0, 0]

/-- The tensor of acc.ld and acc.st with the checks they share: entry, format, space, extent. -/
def accEntry (s : State) (t : Team) (f : Fibre) (n : Nat) (ok : Entry → Bool) : Except Trap Entry :=
  match s.validEntry t.ctx f.pc.toNat n with
  | .error e => .error e
  | .ok (_, e) =>
    if !ok e ∨ e.space = 3 then .error (invalidRecord 1 (s.entryAddr t.ctx n))
    else
      match extentFault s t f 64 e with
      | some x => .error x
      | none => .ok e

/-- A tensor element widened to the accumulator (19 Table 19.7). -/
def widen (fmt v : Nat) : Word32 :=
  match fmt with
  | 1 => BitVec.ofNat 32 (fp32.nearest (fp16.decode v))
  | 2 => BitVec.ofNat 32 (fp32.nearest (bf16.decode v))
  | _ => BitVec.ofNat 32 v

def execAccLd (a : BitVec 7) (k : BitVec 6) (n : BitVec 10) : State → Host.Outcome State Fault Refusal :=
  isa 2 { rd := [a.toNat], tiles := [k.toNat], tileOf := some k.toNat, near := false } (fun r t f s =>
    let o := f.reg a.toNat
    reading [n.toNat] t f s <|
    match accEntry s t f n.toNat (fun e => e.fmt == 0 || e.fmt == 1 || e.fmt == 2 || e.fmt == 9) with
    | .error e => .error (.trap e)
    | .ok e =>
      let ixs := (List.range tileElems).map (accIx o)
      match pagesFault s t f .load e.space (touched s t f e ixs) with
      | some x => .error (.trap x)
      | none =>
        match ixs.mapM (fun ix => (elemPlaces s t f .load e ix).map (fun p => Move.mk (piecesOf e p) [] none)) with
        | .error x => .error (.trap x)
        | .ok ms => withMoves r t f e.base ms s (fun ms s =>
          if s.tileBusy t k.toNat ∨ !piecesReady s t f f.seq (ms.flatMap (fun m => m.src)) then wait s
          else
            let (vs, s) := ms.foldl (fun (a : List (Word32 × Bool) × State) m =>
              let ((bs, q), s) := readPieces a.2 t f f.seq m.src
              (a.1 ++ [(widen e.fmt (natOfBytes bs), q)], s)) ([], s)
            .ok (s.updTeam t.id (fun t => t.putTile k.toNat vs))))

def execAccRd (d a : BitVec 7) (k : BitVec 6) : State → Host.Outcome State Fault Refusal :=
  isa 2 { rd := [a.toNat], wr := [d.toNat], tiles := [k.toNat], tileOf := some k.toNat, near := false, long := true } (fun r t f s =>
    let v := (f.reg a.toNat).toNat
    let c := bitsOf v 8 6
    let e := bitsOf v 0 6 * tileCols + 2 * c
    if 48 ≤ c then .error (.trap (.extent v))
    else if s.tileBusy t k.toNat then wait s
    else if t.accBad k.toNat e then .error (.trap (mkTrap 0x12 0 v))
    else issueLong r f 2 (.value [(d.toNat, ofNat64 ((t.accAt k.toNat e).toNat + (t.accAt k.toNat (e + 1)).toNat * 2 ^ 32))] none) [d.toNat] [] [] s)

/-! ### acc.st (19 R409) -/

/-- The least k with m ≤ L × 2^k for a positive magnitude m and the largest finite value L of a format. -/
def ceilLog (m l : FVal) : Int :=
  let top := fun (x : FVal) => match x with | .num _ g e => (bitLen g : Int) + e | _ => 0
  let k0 : Int := top m - top l - 1
  let ok := fun (k : Int) => match m.compare? (l.scale k) with | some .gt => false | _ => true
  if ok k0 then k0 else if ok (k0 + 1) then k0 + 1 else k0 + 2

/-- The block scale for scaled magnitudes of a block (19 R409). -/
def blockScale (f : Fmt) (vs : List FVal) : Nat :=
  let l := f.decode f.maxCode
  let ms := (vs.filter (fun v => !v.isNan)).map (fun v => match v with | .num _ g e => FVal.num false g e | .inf _ => .inf false | v => v)
  let big := ms.foldl (fun a b => match a.compare? b with | some .lt => b | _ => a) (FVal.num false 0 0)
  match big with
  | .inf _ => 254
  | .num _ g _ => if g = 0 then 127 else (max 0 (min 254 (127 + ceilLog big l))).toNat
  | .nan _ => 127

/-- acc.st accepts the combination of tile type, format and rounding code. -/
def accStOk (e : Entry) (rm it : Nat) : Bool :=
  if it = 1 then (e.fmt == 9 || e.fmt == 6) && rm == 0 else (fmtFloat e.fmt).isSome

/-- An element that acc.st writes: its number in the tile, its bytes, flags raised. -/
structure AccOut where
  elem : Nat
  code : Nat
  flags : FFlags
  deriving DecidableEq, Repr

/-- The codes of a float tile: scale, round, step the generator (13 R265). -/
def accFloat (fm : Fmt) (rm : Rm) (sat : Bool) (exps : Nat → Nat) (vals : Nat → FVal) : List Nat → BitVec 32 → List AccOut × BitVec 32
  | [], r => ([], r)
  | e :: es, r =>
    let r' := if rm = .sr then lfsrStep r else r
    let (c, fl) := fm.round ((vals e).scale (127 - (exps e : Int))) rm sat r'.toNat
    let (os, q) := accFloat fm rm sat exps vals es r'
    (⟨e, c, fl⟩ :: os, q)

/-- The code of an integer tile element. -/
def accInt (fmt : Nat) (sat : Bool) (v : Word32) : Nat :=
  let n := fmtBits fmt
  wrapNat n (if sat then satInt n true v.toInt else v.toInt)

/-- The moves acc.st makes: the elements' codes, and for a scaled tensor the scale bytes. -/
def accMoves (s : State) (t : Team) (f : Fibre) (e : Entry) (o : Dword) (outs : List AccOut) (scales : List (Nat × Nat)) : Except Trap (List (Move × Bool)) :=
  match outs.mapM (fun x => (elemPlaces s t f .store e (accIx o x.elem)).map (fun p =>
      let h := if fmtBits e.fmt = 4 then some (e.offset (accIx o x.elem) % 2 == 1) else none
      let bs := if fmtBits e.fmt = 4 then bytesOfNat 1 (x.code % 16 * 17) else bytesOfNat (fmtBytes e.fmt) x.code
      (p.map (fun ls => (Move.mk [.known bs] ls h, x.elem))))) with
  | .error x => .error x
  | .ok ms =>
    match scales.mapM (fun p => (tensorPlaces s t f .store e.space p.1 1).map (fun ls => (Move.mk [.known (bytesOfNat 1 p.2)] ls none, false))) with
    | .error x => .error x
    | .ok ss => .ok ((ms.filterMap id).map (fun (p : Move × Nat) => (p.1, false)) ++ ss)

/-- Addresses of the scale bytes of the 32-column blocks that hold an element acc.st writes, with the block's elements. -/
def accBlocks (s : State) (t : Team) (f : Fibre) (e : Entry) (o : Dword) (elems : List Nat) : List (Nat × List Nat) :=
  if !e.scaled then []
  else
    (List.range (tileRows * 3)).filterMap (fun b =>
      let es := elems.filter (fun x => x / 32 == b)
      match es with
      | [] => none
      | x :: _ =>
        let ix := accIx o x
        match e.scaleOffset 64 (ix.getD 0 0 / 32) ix, e.slotOf s.grid (dieOf t f) ix with
        | some k, some l => some (e.slotScale l + k, es)
        | _, _ => none)

def execAccSt (a b : BitVec 7) (k : BitVec 6) (n : BitVec 10) (rm : BitVec 3) (sat it : BitVec 1) : State → Host.Outcome State Fault Refusal :=
  isa 2 { rd := [a.toNat, b.toNat], tiles := [k.toNat], tileOf := some k.toNat, near := false, long := true } (fun r t f s =>
    let o := f.reg a.toNat
    reading [n.toNat] t f s <|
    match accEntry s t f n.toNat (fun e => accStOk e rm.toNat it.toNat && (!e.scaled || bitsOf o.toNat 0 24 % 32 == 0)) with
    | .error e => .error (.trap e)
    | .ok e =>
      let elems := (List.range tileElems).filter (fun x => (e.elemAt s.grid (dieOf t f) (accIx o x)).isSome)
      let scale := fp32.decode (lowNat 32 (f.reg b.toNat))
      let vals := fun x => (fp32.decode (t.accAt k.toNat x).toNat).mul scale
      let fm := (fmtFloat e.fmt).getD fp32
      let blocks := (accBlocks s t f e o elems).map (fun (p : Nat × List Nat) => (p.1, p.2, blockScale fm (p.2.map vals)))
      let exps := fun x => ((blocks.find? (fun p => p.2.1.contains x)).elim 127 (fun p => p.2.2))
      let (outs, seed) := if it = 1 then (elems.map (fun x => ⟨x, accInt e.fmt (sat == 1) (t.accAt k.toNat x), {}⟩), f.srseed)
        else accFloat fm (codeRm rm.toNat f) (sat == 1) exps vals elems f.srseed
      let at_ := touched s t f e (elems.map (accIx o)) ++ blocks.map (fun p => (p.1, 1))
      match pagesFault s t f .store e.space at_, sealFault s t.ctx e.space at_ with
      | some x, _ => .error (.trap x)
      | none, some x => .error (.trap x)
      | none, none =>
        match accMoves s t f e o outs (blocks.map (fun p => (p.1, p.2.2))) with
        | .error x => .error (.trap x)
        | .ok ms =>
          if s.tileBusy t k.toNat then wait s
          else
            let bad := outs.map (fun x => t.accBad k.toNat x.elem)
            let qs := pairRemote ((ms.zip (bad ++ List.replicate blocks.length false)).map (fun p => (p.1.1, p.2)))
            withMoves r t f e.base (qs.map (fun p => p.1)) s (fun ms s =>
            match issueLong r f 2 (.value [] none) [] [] [] s with
            | .error x => .error x
            | .ok s =>
              let s := (ms.zip (qs.map (fun p => p.2))).foldl (fun s p =>
                queueMove r p.1 (p.1.src.flatMap (fun q => match q with | .known bs => bs | .read _ _ => [])) p.2 s) s
              .ok (s.updFibre r (fun x => { x.raiseFlags (outs.foldl (fun a y => a.or y.flags) {}) with srseed := seed }))))

end Sys2Proof.Machine
end

