-- ==== Sys2Proof/Machine/Matrix.lean ====
section
/-! DEFINITION. Matrix multiplication and its operands: convergence registers (07 Table 7.5; 19 R414), MMA, opcode 0x73 (19 R402 to R407), its completion (13 R269 to R271, 08 R185), and sparsity preparation (19 R411 to R413). -/

namespace Sys2Proof.Machine

/-! ### Convergence registers (19 R414) -/

def Team.conv (t : Team) (k : Nat) : Conv := t.cv.getD k Conv.idle

def Team.putConv (t : Team) (k : Nat) (c : Conv) : Team := { t with cv := t.cv.set k c }

def execCvdecl (c : BitVec 3) (a : BitVec 7) : State → Host.Outcome State Fault Refusal :=
  isa 1 { rd := [a.toNat], near := false } (fun _ t f s =>
    let n := (f.reg a.toNat).toNat
    if n = 0 ∨ t.kernel.fibresM1 + 1 < n ∨ (t.conv c.toNat).declared.isSome then .error (.trap (mkTrap 0x08 0 0))
    else .ok (s.updTeam t.id (fun t => t.putConv c.toNat { Conv.idle with declared := some n })))

/-- 19 Table 19.8. -/
def Conv.status (c : Conv) : Dword :=
  ofNat64 (bit c.declared.isSome + c.declared.getD 0 * 2 ^ 4 + c.signers.length * 2 ^ 16)

def execCvstat (d : BitVec 7) (c : BitVec 3) : State → Host.Outcome State Fault Refusal :=
  isa 1 { wr := [d.toNat], near := false } (fun r t _ s =>
    .ok (s.updFibre r (fun x => x.setReg d.toNat (t.conv c.toNat).status)))

def execCvclear (c : BitVec 3) : State → Host.Outcome State Fault Refusal :=
  isa 1 { near := false } (fun _ t _ s =>
    if !(t.conv c.toNat).signers.isEmpty then .error (.trap (mkTrap 0x08 0 0))
    else .ok (s.updTeam t.id (fun t => t.putConv c.toNat Conv.idle)))

/-! ### Operands of an MMA -/

/-- Kept elements of a 64-group by code (19 R402). -/
def keptOf (n : Nat) : Nat := [16, 32, 48].getD n 48

/-- Formats of integer operands, and of 4-bit ones. -/
def intFmt (f : Nat) : Bool := f == 6 || f == 7
def smallFmt (f : Nat) : Bool := f == 5 || f == 7 || f == 8

/-- Elements of a chunk (13 R269). -/
def chunkSize (f : Nat) : Nat := if fmtBits f = 4 then 32 else if fmtBits f = 8 then 16 else 8

/-- An operand pair of 19 Table 19.5. -/
def pairOk (a b : Nat) : Bool :=
  ((a == 3 || a == 4) && (b == 3 || b == 4)) || ((a == 5 || a == 8) && (b == 5 || b == 8)) ||
  (a == 1 && b == 1) || (a == 2 && b == 2) || (a == 6 && b == 6) || (a == 7 && (b == 7 || b == 8))

/-- The entries break 19 R403 or R405: pair, sat, kind, spaces, ranks, origins, depth. -/
def MmaOp.bad (m : MmaOp) : Bool :=
  let a : Entry := m.entryA
  let b : Entry := m.entryB
  !pairOk a.fmt b.fmt || (m.sat && !intFmt a.fmt) || ((a.fmt == 8 || b.fmt == 8) != (m.kind == 2)) ||
  (m.kind == 1 && smallFmt b.fmt) || (a.space != 1 && a.space != 2) || b.space == 0 ||
  decide (a.rank < 2) || decide (b.rank < 2) || bitsOf m.ra 0 24 % 32 != 0 || bitsOf m.rb 0 24 % 32 != 0 ||
  (m.kind == 1 && (bitsOf m.rb 0 24 % m.n != 0 || m.depth % 64 != 0))

/-- The offset in metadata memory of the mask of a column and a 64-group (19 R405). -/
def maskOffset (r g j : Nat) : Nat := 64 * bitsOf r 48 12 + 8 * (96 * g + j)

/-- Groups of 64 along K. -/
def groups (depth : Nat) : Nat := depth / 64

/-- The masks at a register's metadata offset, groups rising, columns within. -/
def Team.masks (t : Team) (r depth : Nat) : List Nat :=
  (List.range (96 * groups depth)).map (fun i => (t.metaDword (maskOffset r 0 i)).toNat)

def popcount (v : Nat) : Nat := (List.range 64).countP (fun i => v.testBit i)

/-- Malformed sparsity metadata: the first mask without exactly `n` bits set; addr is its metadata byte offset (19 R407, R413; 22 R438). -/
def badMask (r n : Nat) (masks : List Nat) : Option Trap :=
  ((List.range masks.length).find? (fun i => popcount (masks.getD i 0) != n)).map (fun i => mkTrap 0x0F 0 (maskOffset r 0 i))

/-- The metadata range passes the team's allocation (19 R407). -/
def maskFault (t : Team) (r depth : Nat) : Option Trap :=
  if t.metaBytes < maskOffset r (groups depth) 0 then some (.extent (maskOffset r 0 0)) else none

/-- Addresses of the elements of B, by B's own indices. -/
def MmaOp.columns (m : MmaOp) : List Index :=
  let len := if m.kind = 1 then groups m.depth * m.n else m.depth
  (List.range 96).flatMap (fun j => (List.range len).map (fun k => [bitsOf m.rb 0 24 + k, bitsOf m.rb 24 24 + j, 0, 0, 0]))

/-- Addresses of the scale bytes of B that an operation reads. -/
def MmaOp.scaleAddrs (m : MmaOp) : List Nat :=
  let e : Entry := m.entryB
  let n := if m.kind = 1 then m.n else 64
  let k0 := bitsOf m.rb 0 24
  let u0 := if m.kind = 1 then k0 / m.n * 64 else k0
  if !e.scaled then []
  else (List.range 96).flatMap (fun j => (List.range (m.depth / 32)).filterMap (fun b =>
    (e.scaleOffset n ((u0 + 32 * b) / 32) [0, bitsOf m.rb 24 24 + j, 0, 0, 0]).map (fun o => e.scaleBase + o)))

/-- The checks of the completing signature, in their order (19 R407). -/
def mmaFault (s : State) (t : Team) (f : Fibre) (ta : Nat) (m : MmaOp) : Option Trap :=
  let n := if m.kind = 1 then m.n else 64
  if m.bad then some (invalidRecord 1 (s.entryAddr t.ctx ta))
  else
    (extentFault s t f 64 m.entryA).orElse fun _ =>
    (extentFault s t f n m.entryB).orElse fun _ =>
    (if m.kind = 1 then maskFault t m.rb m.depth else none).orElse fun _ =>
    (if Entry.space m.entryB = 3 then pagesFault s t f .load 3 (touched s t f m.entryB m.columns ++ m.scaleAddrs.map (fun a => (a, 1))) else none).orElse fun _ =>
    (if m.kind = 1 then badMask m.rb m.n m.masks else none)

/-! ### Signing (07 R156, Table 7.5) -/

/-- A register's signer set is cleared and every signer that is blocked at it raises a trap; one in a handler only loses its signature (19 R407, 06 R135). -/
def State.failSigners (s : State) (team k : Nat) (tr : Trap) : State :=
  match s.team? team with
  | none => s
  | some t =>
    let c := t.conv k
    let blocked := c.signers.filter (fun i => (t.fibre? i).any (fun f => f.status == .signed k))
    let s := s.updTeam team (fun t => { t.putConv k { Conv.idle with declared := c.declared } with
      fibres := t.fibres.map (fun (f : Fibre) =>
        if blocked.contains f.idx then f.unblock s.aclk
        else if f.held == some (.signed k) then { f with held := none } else f) })
    blocked.foldl (fun s i => s.trapAt ⟨team, i⟩ tr [] 0) s

/-- A signer passes at the issue: the counter that its own signature names counts the MMA once; one taken into a handler passes when it comes back (06 R135). -/
def Fibre.signedPass (f : Fibre) (k id tile aclk : Nat) : Fibre :=
  let at_ := match f.handler with
    | some h => if f.held == some (Held.signed k) then (h.clause, h.pc) else (f.clause, f.pc.toNat)
    | none => (f.clause, f.pc.toNat)
  let c := at_.1.bind Clause.counter
  let f : Fibre := { f.countUp c with
    ll := f.ll ++ [⟨.mma id, c, [], [], [tile], f.seq, at_.2, 2, aclk⟩]
    seq := f.seq + 1 }
  if f.status = .signed k then { f.pass 2 true aclk with status := .ready }
  else if f.held = some (.signed k) then { f with held := some (.passed at_.2) }
  else f

/-- The issue of an MMA: the operation joins its core's queue, every signer's counter counts it, the register is idle again (19 R404). -/
def State.issueMma (s : State) (t : Team) (k : Nat) (m : MmaOp) : State :=
  let s := { s with mmas := s.mmas ++ [m] }
  s.updTeam t.id (fun t =>
    let t := m.signers.foldl (fun (t : Team) i => t.updFibre i (fun f => f.signedPass k m.id m.tile s.aclk)) t
    t.putConv k Conv.idle)

/-- The operation that the completing signature issues, from the first signer's operands. -/
def mmaOp (t : Team) (f : Fibre) (c : Conv) (signers : List Nat) (ra rb : Nat) (tile acc sat kind depth n : Nat)
    (ea eb : Entry) (id aclk : Nat) : MmaOp where
  id := id
  core := t.core.getD ⟨0, 0⟩
  die := dieOf t f
  team := t.id
  pc := if c.signers.isEmpty then f.pc.toNat else c.at_
  tile := tile
  acc := acc == 1
  sat := sat == 1
  kind := kind
  n := keptOf n
  depth := depth
  entryA := ea
  entryB := eb
  ra := ra
  rb := rb
  masks := if kind = 1 then t.masks rb depth else []
  signers := signers
  at_ := aclk

/-- A signature that completes the count: the checks, then the issue; it waits while the matrix unit holds 8 operations (19 R406). -/
def completeSignature (r : FibreRef) (t : Team) (f : Fibre) (k : Nat) (c : Conv) (tile a b acc sat kind ta tb depth n : Nat) (s : State) : Act :=
  let vals := if c.signers.isEmpty then [f.reg a, f.reg b] else c.vals
  let ra := (vals.getD 0 0).toNat
  let rb := (vals.getD 1 0).toNat
  let fail := fun (e : Trap) => .error (.took e ((s.failSigners t.id k e).raiseAt r e [] 0))
  if s.mmas.countP (fun m => t.core == some m.core) ≥ 8 then wait s
  else
    reading [ta, tb] t f s <|
    match s.validPair t.ctx f.pc.toNat ta tb with
    | .error e => fail e
    | .ok ((_, ea), (_, eb)) =>
      let (id, s) := s.fresh
      let m := mmaOp t f c (c.signers ++ [f.idx]) ra rb tile acc sat kind depth n ea eb id s.aclk
      match mmaFault s t f ta m with
      | some e => fail e
      | none => .ok (s.issueMma t k m)

/-- A signature of the current fibre, or its return to one already made (07 Table 7.5, 06 R135). -/
def execMma (tile : BitVec 6) (a b : BitVec 7) (acc sat : BitVec 1) (kind : BitVec 2) (ta tb : BitVec 10) (cv : BitVec 3)
    (k : BitVec 7) (n : BitVec 2) : State → Host.Outcome State Fault Refusal :=
  isa 2 { rd := [a.toNat, b.toNat], tiles := [tile.toNat], tileOf := some tile.toNat, near := false, long := true } (fun r t f s =>
    let c := t.conv cv.toNat
    let words := (instrWords s t.ctx (dieOf t f) f.pc.toNat).map (BitVec.ofNat 32)
    match f.handler, f.held with
    | none, some (.passed _) => .ok (s.updFibre r (fun x => { x with held := none }))
    | none, some (.signed j) => .error (.hold (s.updFibre r (fun x => { x with status := .signed j, held := none })))
    | _, _ =>
      match c.declared with
      | none => .error (.trap (mkTrap 0x08 0 0))
      | some need =>
        if c.signers.contains f.idx ∨ (!c.signers.isEmpty ∧ c.words ≠ words) then .error (.trap (mkTrap 0x08 0 0))
        else if f.counter.any (fun q => decide (15 ≤ f.cf.getD q 0)) then wait s
        else if need ≤ c.signers.length + 1 then
          completeSignature r t f cv.toNat c tile.toNat a.toNat b.toNat acc.toNat sat.toNat kind.toNat ta.toNat tb.toNat (32 * (k.toNat + 1)) n.toNat s
        else
          let c' := if c.signers.isEmpty then
              { c with signers := [f.idx], words := words, vals := [f.reg a.toNat, f.reg b.toNat], at_ := f.pc.toNat, since := t.residentTime s.aclk }
            else { c with signers := c.signers ++ [f.idx] }
          let s := s.updTeam t.id (fun t => t.putConv cv.toNat c')
          .error (.hold ((s.updFibre r (fun x => { x with status := .signed cv.toNat })).convergenceGone t.id)))

/-- A register of a resident team whose first signature has been blocked for the rendezvous time-out, in units of 256 resident aclk. -/
def Team.convDue (t : Team) (limit aclk : Nat) : Option Nat :=
  if !t.resident then none
  else (List.range 8).find? (fun k => !(t.conv k).signers.isEmpty && decide ((t.conv k).since + limit * 256 ≤ t.residentTime aclk))

/-- CONVERGENCE_TIMEOUT of the first register that is due (07 Table 7.5). -/
def execConvergenceTimeout (s : State) : Host.Outcome State Fault Refusal :=
  device (match s.teams.findSome? (fun t => (t.convDue (s.rdvTimeout t.ctx) s.aclk).map (fun k => (t.id, k))) with
    | some (t, k) => s.failSigners t k (mkTrap 0x0A 0 0)
    | none => s)

/-! ### Reading the operands -/

/-- Bytes of an operand in place, and whether they are poisoned. -/
def operandBytes (s : State) (t : Team) (die space a n : Nat) : List Byte × Bool :=
  let bad := fun (m : List Nat) (o : Nat) => (List.range (n / 8 + 2)).any (fun i => decide (8 * (o / 8 + i) < o + n) && m.contains (o / 8 + i))
  if space = 1 then (sparseBytes t.scratch a n, bad t.scratchPoison a)
  else if space = 2 then
    (match s.member? t (a / 2 ^ 24) with
     | some x => (sparseBytes x.scratch (a % 2 ^ 24) n, bad x.scratchPoison (a % 2 ^ 24))
     | none => (List.replicate n 0, false))
  else
    (match translate s t.ctx die 3 a .load false with
     | .ok l => (s.physBytes (l.place a) n, bad s.mem.poison (l.place a))
     | _ => (List.replicate n 0, false))

/-- One row of A or column of B: its unscaled element values along K, the scale exponent of each 32-block (none for a NaN scale), and what is wrong with it. -/
structure OperandLine where
  vals : List FVal
  scales : List (Option Int)
  malformed : Bool
  poison : Bool
  deriving DecidableEq, Repr

/-- The exponent a scale byte stands for. -/
def scaleExp (b : Nat) : Option Int := if b = 255 then none else some ((b : Int) - 127)

/-- The unscaled value of a code. -/
def codeVal (fmt v : Nat) : FVal :=
  match fmtFloat fmt with
  | some f => f.decode v
  | none => FVal.ofInt (signedOf (fmtBits fmt) v)

/-- The code of an element read in place; out of bounds the fill code. -/
def elemCode (s : State) (t : Team) (die : Nat) (e : Entry) (ix : Index) : Nat × Bool :=
  if !e.inBounds ix then (e.fill % 2 ^ fmtBits e.fmt, false)
  else
    let (bs, p) := operandBytes s t die e.space (e.base + e.byteOffset ix) (fmtBytes e.fmt)
    let v := natOfBytes bs
    (if fmtBits e.fmt = 4 then bitsOf v (4 * (e.offset ix % 2)) 4 else v, p)

/-- The scale of a 32-block at block index `b` of dimension 0 (13 R262). -/
def blockExp (s : State) (t : Team) (die : Nat) (e : Entry) (n b : Nat) (ix : Index) : Option Int × Bool :=
  if !e.scaled then (some 0, false)
  else
    match e.scaleOffset n b ix with
    | none => (some 0, false)
    | some o =>
      let (bs, p) := operandBytes s t die e.space (e.scaleBase + o) 1
      (scaleExp (natOfBytes bs), p)

/-- The o4 blocks of a line. -/
def o4Line (s : State) (t : Team) (die : Nat) (e : Entry) (ints : Bool) (k0 row depth : Nat) : OperandLine :=
  (List.range (depth / 32)).foldl (fun (a : OperandLine) b =>
    let ix := [k0 + 32 * b, row, 0, 0, 0]
    if !e.inBounds ix then { a with vals := a.vals ++ List.replicate 32 (.num false 0 0), scales := a.scales ++ [some 0] }
    else
      let (bs, p) := operandBytes s t die e.space (e.base + e.byteOffset ix) 18
      let v := natOfBytes bs
      match o4Decode v with
      | none => { a with vals := a.vals ++ List.replicate 32 (.num false 0 0), scales := a.scales ++ [some 0], malformed := true, poison := a.poison || p }
      | some es =>
        let esc := es.any (fun x => match x with | .escape _ => true | _ => false)
        { vals := a.vals ++ es.map O4Elem.val
          scales := a.scales ++ [scaleExp (o4Scale v)]
          malformed := a.malformed || (ints && (esc || o4Scale v != 127))
          poison := a.poison || p }) ⟨[], [], false, false⟩

/-- A dense line of an operand. -/
def denseLine (s : State) (t : Team) (die : Nat) (e : Entry) (ints : Bool) (k0 row depth : Nat) : OperandLine :=
  if e.fmt = 8 then o4Line s t die e ints k0 row depth
  else
    let cs := (List.range depth).map (fun k => elemCode s t die e [k0 + k, row, 0, 0, 0])
    let ss := (List.range (depth / 32)).map (fun b => blockExp s t die e 64 ((k0 + 32 * b) / 32) [k0 + 32 * b, row, 0, 0, 0])
    { vals := cs.map (fun c => codeVal e.fmt c.1)
      scales := ss.map (fun x => x.1)
      malformed := false
      poison := cs.any (fun c => c.2) || ss.any (fun x => x.2) }

/-- The kept elements of a 64-group spread to their K indices; dropped ones are 0 (19 R405). -/
def spread (mask : Nat) (kept : List FVal) : List FVal :=
  ((List.range 64).foldl (fun (a : List FVal × List FVal) i =>
    if mask.testBit i then (a.1 ++ [a.2.headD (.num false 0 0)], a.2.drop 1) else (a.1 ++ [.num false 0 0], a.2)) ([], kept)).1

/-- A column of a sparse B. -/
def sparseLine (s : State) (t : Team) (die : Nat) (m : MmaOp) (j : Nat) : OperandLine :=
  let e : Entry := m.entryB
  let k0 := bitsOf m.rb 0 24
  let row := bitsOf m.rb 24 24 + j
  let cs := (List.range (groups m.depth)).map (fun g =>
    (List.range m.n).map (fun q => elemCode s t die e [k0 + g * m.n + q, row, 0, 0, 0]))
  let ss := (List.range (m.depth / 32)).map (fun b => blockExp s t die e m.n ((k0 / m.n * 64 + 32 * b) / 32) [0, row, 0, 0, 0])
  { vals := ((List.range (groups m.depth)).zip cs).flatMap (fun p => spread (m.masks.getD (96 * p.1 + j) 0) (p.2.map (fun c => codeVal e.fmt c.1)))
    scales := ss.map (fun x => x.1)
    malformed := false
    poison := cs.any (fun l => l.any (fun c => c.2)) || ss.any (fun x => x.2) }

/-! ### The arithmetic (13 R269, R270) -/

/-- The exact sum of a chunk's products: NaN, an infinity, or a finite value whose zero is +0. -/
def chunkSum (as bs : List FVal) : FVal :=
  match sumVals false ((as.zip bs).map (fun p => p.1.mul p.2)) with
  | .num n m e => if m = 0 then .num false 0 0 else .num n m e
  | x => x

/-- The accumulator after one chunk of float operands. -/
def floatChunk (acc : Nat) (as bs : List FVal) (ea eb : Option Int) : Nat :=
  match ea, eb with
  | some x, some y => fp32.nearest (sumVals false [fp32.decode acc, (chunkSum as bs).scale (x + y)])
  | _, _ => fp32.nanCode

/-- A finite integer value. -/
def FVal.toIntExact : FVal → Int
  | .num n m e => if n then -((m : Int) * 2 ^ e.toNat) else (m : Int) * 2 ^ e.toNat
  | _ => 0

/-- The accumulator after one chunk of integer operands. -/
def intChunk (sat : Bool) (acc : Nat) (as bs : List FVal) : Nat :=
  let v := signedOf 32 acc + (chunkSum as bs).toIntExact
  wrapNat 32 (if sat then satInt 32 true v else v)

/-- MmaElement: the chunks in ascending K; `c` counts them. -/
def mmaElement (kc : Nat) (ints sat : Bool) (sa sb : List (Option Int)) : Nat → Nat → List FVal → List FVal → Nat → Nat
  | 0, _, _, _, acc => acc
  | left + 1, c, as, bs, acc =>
    let xs := as.take kc
    let ys := bs.take kc
    let b := c * kc / 32
    let acc := if ints then intChunk sat acc xs ys else floatChunk acc xs ys (sa.getD b (some 0)) (sb.getD b (some 0))
    mmaElement kc ints sat sa sb left (c + 1) (as.drop kc) (bs.drop kc) acc

/-- The rows of A and the columns of B of an operation. -/
def mmaRows (s : State) (t : Team) (m : MmaOp) : List OperandLine :=
  (List.range tileRows).map (fun i => denseLine s t m.die m.entryA (intFmt (Entry.fmt m.entryA)) (bitsOf m.ra 0 24) (bitsOf m.ra 24 24 + i) m.depth)
def mmaColumns (s : State) (t : Team) (m : MmaOp) : List OperandLine :=
  (List.range tileCols).map (fun j =>
    if m.kind = 1 then sparseLine s t m.die m j
    else denseLine s t m.die m.entryB (intFmt (Entry.fmt m.entryA)) (bitsOf m.rb 0 24) (bitsOf m.rb 24 24 + j) m.depth)

/-- The new tile. -/
def mmaTile (t : Team) (m : MmaOp) (rows cols : List OperandLine) : List Word32 :=
  let a : Entry := m.entryA
  let kc := chunkSize a.fmt
  ((List.range tileRows).zip rows).flatMap (fun r => ((List.range tileCols).zip cols).map (fun c =>
    let start := if m.acc then (t.accAt m.tile (r.1 * tileCols + c.1)).toNat else 0
    BitVec.ofNat 32 (mmaElement kc (intFmt a.fmt) m.sat r.2.scales c.2.scales (m.depth / kc) 0 r.2.vals c.2.vals start)))

/-! ### The residue check (13 R271) -/

/-- The nonzero products of a chunk: the two signed integer significands, and the exponent t of their product. -/
def chunkTerms (as bs : List FVal) : List (Int × Int × Int) :=
  (as.zip bs).filterMap (fun p =>
    match p with
    | (.num n m e, .num n' m' e') =>
      if m = 0 ∨ m' = 0 then none else some (if n then -(m : Int) else m, if n' then -(m' : Int) else m', e + e')
    | _ => none)

/-- t₀: the least exponent of the nonzero products. -/
def leastTerm (ts : List (Int × Int × Int)) : Int :=
  match ts with
  | [] => 0
  | t :: us => us.foldl (fun a u => min a u.2.2) t.2.2

/-- N: the exact sum of a chunk, aligned to t₀. -/
def alignedSum (as bs : List FVal) : Int :=
  let ts := chunkTerms as bs
  ((ts.map (fun t => t.1 * t.2.1 * 2 ^ (t.2.2 - leastTerm ts).toNat)).foldl (· + ·) 0)

/-- ResidueOk: the array's aligned sum `n` of a chunk agrees with the residue multipliers. -/
def residueOk (n : Int) (as bs : List FVal) : Bool :=
  let ts := chunkTerms as bs
  n % 65535 == ((ts.map (fun t => t.1 % 65535 * (t.2.1 % 65535) * 2 ^ ((t.2.2 - leastTerm ts) % 16).toNat)).foldl (· + ·) 0) % 65535

/-- The check of some chunk of an operation fails when the array's sums are `off` by a unit: a chunk whose special result is NaN or an infinity is not checked. -/
def residueFails (m : MmaOp) (rows cols : List OperandLine) (off : Int) : Bool :=
  let kc := chunkSize (Entry.fmt m.entryA)
  rows.any (fun r => cols.any (fun c => (List.range (m.depth / kc)).any (fun i =>
    let xs := (r.vals.drop (i * kc)).take kc
    let ys := (c.vals.drop (i * kc)).take kc
    (r.scales.getD (i * kc / 32) (some 0)).isSome && (c.scales.getD (i * kc / 32) (some 0)).isSome &&
    (match chunkSum xs ys with | .num _ _ _ => true | _ => false) && !residueOk (alignedSum xs ys + off) xs ys)))

/-! ### Completion (19 R404, 08 R185) -/

/-- What a completed operation reports, if anything: poison in an operand or in the starting tile, or a malformed o4 block. -/
def mmaCause (t : Team) (m : MmaOp) (rows cols : List OperandLine) : Option Nat :=
  let startBad := m.acc && (List.range (tileElems / 2)).any (fun p => t.accBad m.tile (2 * p))
  let maskBad := m.kind == 1 && (List.range m.masks.length).any (fun i => t.metaPoison.contains (maskOffset m.rb 0 i / 8))
  if startBad || maskBad || (rows ++ cols).any (fun l => l.poison) then some 0x12
  else if (rows ++ cols).any (fun l => l.malformed) then some 0x10
  else none

/-- Every signer's counter drops. -/
def State.dropSigners (s : State) (m : MmaOp) : State :=
  m.signers.foldl (fun s i => s.updFibre ⟨m.team, i⟩ (fun f =>
    match f.ll.find? (fun op => op.kind == .mma m.id) with
    | some op => { f.countDown op.counter with ll := f.ll.filter (fun o => o != op) }
    | none => f)) s

/-- A fault of the operation, one event, in every signer, naming the MMA. -/
def State.raiseSigners (s : State) (m : MmaOp) (cause : Nat) : State :=
  m.signers.foldl (fun s i => s.deliverAsync ⟨m.team, i⟩ 1 cause 0 11 m.pc 0 none) (s.countCause cause m.core.die)

/-- The fibre that takes a signer's fault: the signer, or with it gone the lowest-indexed live fibre of the team (14 R275). -/
def Team.faultTaker (t : Team) (i : Nat) : Option Fibre := (t.fibres.find? (fun f => f.idx == i && f.live)).or (t.fibres.find? Fibre.live)

/-- A datapath machine check, raised in every signer with one record (14 R275, 08 R185). -/
def State.raiseCheck (s : State) (m : MmaOp) : State :=
  match s.team? m.team with
  | none => s
  | some t =>
    let s := s.countCause 0x13 m.core.die
    match m.signers.filterMap t.faultTaker with
    | [] => s.deliverAsync ⟨m.team, m.signers.headD 0⟩ 2 0x13 0 11 m.pc 0 none
    | g :: gs =>
      let info : RecordInfo := { kind := 2, cause := 0x13, detail := 0, engine := 11, inHandler := false, noHandler := false, terminated := false, pc := m.pc, issuePc := m.pc, addr := 0, words := issuedWords s t (some g) m.pc, list := [], more := 0 }
      let (_, a, s) := s.writeRecord t.ctx (some t) (some g) info
      (g :: gs).foldl (fun (s : State) h => s.markFault ⟨t.id, h.idx⟩ t.ctx ⟨0x13, a, 0, false, none⟩) s

/-- The places of the weight store that an operation reads: B's elements and scale bytes in space 3. -/
def mmaReads (s : State) (t : Team) (m : MmaOp) : List Loc :=
  let b : Entry := m.entryB
  if b.space ≠ 3 then []
  else
    ((m.columns.filterMap (fun ix => if b.inBounds ix then some (b.base + b.byteOffset ix) else none)) ++ m.scaleAddrs).filterMap (fun a =>
      match translate s t.ctx m.die 3 a .load false with | .ok l => some (l.loc a) | _ => none)

/-- A read of B's pages waits on a refresh window (08 R171). -/
def mmaStalled (s : State) (t : Team) (m : MmaOp) : Bool := (mmaReads s t m).any (weightBusy s)

/-- MMA_COMPLETE of the oldest issued operation; `resid` says what the array's sums were: right, off in a way that the retry cleared, or off again; the residue check tells it where a chunk is checked (13 R271, 08 R185). -/
def completeMma (m : MmaOp) (t : Team) (resid : Nat) (s : State) : State :=
  let s := ({ s with mmas := s.mmas.filter (fun x => x.id != m.id) } : State).countRefresh t.ctx m.at_ (mmaReads s t m)
  let rows := mmaRows s t m
  let cols := mmaColumns s t m
  let resid := if resid = 0 ∨ !residueFails m rows cols 1 then 0 else resid
  let s := if resid = 0 then s else s.lifeCount 1 (8 * m.core.die) 1
  match mmaCause t m rows cols with
  | some c => (s.dropSigners m).raiseSigners m c
  | none =>
    let bad := decide (2 ≤ resid)
    let s := if resid = 1 then s.lifeCount 2 (8 * m.core.die) 1 else s
    let s := (s.updTeam t.id (fun t => t.putTile m.tile ((mmaTile t m rows cols).map (fun v => (v, bad))))).dropSigners m
    if bad then s.raiseCheck m else s

def execMmaComplete (resid : BitVec 2) (s : State) : Host.Outcome State Fault Refusal :=
  device (match s.mmas with
    | [] => s
    | m :: _ =>
      match s.team? m.team with
      | none => { s with mmas := s.mmas.filter (fun x => x.id != m.id) }
      | some t => if mmaStalled s t m then s else completeMma m t resid.toNat s)

/-! ### Sparsity preparation (19 R411 to R413) -/

/-- The shared checks of META.compress and META.expand: entries and their formats, K, extents, the metadata range; answers the entries. -/
def metaEntries (s : State) (t : Team) (f : Fibre) (ts td depth r : Nat) : Except Trap (Entry × Entry) :=
  match s.validPair t.ctx f.pc.toNat ts td with
  | .error e => .error e
  | .ok ((_, es), (_, ed)) =>
    let ok := fun (e : Entry) => (e.space == 1 || e.space == 2) && decide (2 ≤ e.rank) && (fmtBits e.fmt == 8 || fmtBits e.fmt == 16)
    if !ok es ∨ !ok ed ∨ es.fmt ≠ ed.fmt ∨ depth % 64 ≠ 0 then .error (invalidRecord 1 (s.entryAddr t.ctx ts))
    else
      match extentFault s t f 64 es, extentFault s t f 64 ed, maskFault t r depth with
      | some e, _, _ => .error e
      | _, some e, _ => .error e
      | _, _, some e => .error e
      | none, none, none => .ok (es, ed)

/-- An element's rank key: NaN above all, then infinities, then magnitude (19 R412). -/
inductive Rank where
  | nan
  | inf
  | mag (x : FVal)
  deriving DecidableEq, Repr

def rankOf (fmt v : Nat) : Rank :=
  if fmt = 10 then .mag (.num false v 0)
  else
    match codeVal fmt v with
    | .nan _ => .nan
    | .inf _ => .inf
    | .num _ m e => .mag (.num false m e)

/-- Rank `a` stands strictly above `b`. -/
def Rank.above (a b : Rank) : Bool :=
  match a, b with
  | .nan, .nan => false
  | .nan, _ => true
  | _, .nan => false
  | .inf, .inf => false
  | .inf, _ => true
  | _, .inf => false
  | .mag x, .mag y => x.compare? y == some .gt

/-- The mask that keeps the first `n` of 64 codes: an element is kept when fewer than `n` stand before it. -/
def keepMask (fmt n : Nat) (cs : List Nat) : Nat :=
  let rs := (List.range 64).zip (cs.map (rankOf fmt))
  (rs.filter (fun p => decide (rs.countP (fun q => q.2.above p.2 || (!p.2.above q.2 && decide (q.1 < p.1))) < n))).foldl
    (fun m p => m + 2 ^ p.1) 0

/-- An element written into a scratch-side tensor, with its poison; out of bounds it is suppressed. -/
def State.putElem (s : State) (r : FibreRef) (t : Team) (f : Fibre) (e : Entry) (ix : Index) (v : Nat) (poison : Bool) : State :=
  match elemPlaces s t f .store e ix with
  | .ok (some ls) => s.landMove r t f ⟨[], ls, none⟩ (bytesOfNat (fmtBytes e.fmt) v) poison
  | _ => s

/-- One group of META.compress: the mask, and the kept elements in ascending K. -/
def compressGroup (r : FibreRef) (t : Team) (f : Fibre) (es ed : Entry) (ra rb n g j : Nat) (s : State) : State :=
  let cs := (List.range 64).map (fun i => elemCode s t (dieOf t f) es [bitsOf ra 0 24 + 64 * g + i, bitsOf ra 24 24 + j, 0, 0, 0])
  let mask := keepMask es.fmt n (cs.map (fun c => c.1))
  let kept := ((List.range 64).zip cs).filter (fun p => mask.testBit p.1)
  let s := ((List.range n).zip kept).foldl (fun s p =>
    s.putElem r t f ed [bitsOf rb 0 24 + g * n + p.1, bitsOf rb 24 24 + j, 0, 0, 0] p.2.2.1 p.2.2.2) s
  s.updTeam t.id (fun t => t.metaWrite (maskOffset rb g j) (bytesOfNat 8 mask) false)

/-- One group of META.expand. -/
def expandGroup (r : FibreRef) (t : Team) (f : Fibre) (es ed : Entry) (ra rb n g j : Nat) (s : State) : State :=
  let mask := (t.metaDword (maskOffset ra g j)).toNat
  let mbad := t.metaPoison.contains (maskOffset ra g j / 8)
  let cs := (List.range n).map (fun q => elemCode s t (dieOf t f) es [bitsOf ra 0 24 + g * n + q, bitsOf ra 24 24 + j, 0, 0, 0])
  ((List.range 64).foldl (fun (a : State × List (Nat × Bool)) i =>
    let ix := [bitsOf rb 0 24 + 64 * g + i, bitsOf rb 24 24 + j, 0, 0, 0]
    if mask.testBit i then (a.1.putElem r t f ed ix (a.2.headD (0, false)).1 ((a.2.headD (0, false)).2 || mbad), a.2.drop 1)
    else (a.1.putElem r t f ed ix 0 mbad, a.2)) (s, cs)).1

/-- Both preparation forms, over every group and column, once the fibre's earlier accesses are performed; they act on the team as it stands. -/
def metaForm (ts td depth n : Nat) (r : Dword) (expand : Bool) (g : Entry → Entry → Team → Nat → Nat → State → State) :
    FibreRef → Team → Fibre → State → Act := fun _ t f s =>
  reading [ts, td] t f s <|
  match metaEntries s t f ts td depth r.toNat with
  | .error e => .error (.trap e)
  | .ok (es, ed) =>
    match (if expand then badMask r.toNat n (t.masks r.toNat depth) else none) with
    | some e => .error (.trap e)
    | none =>
      if !settled f then wait s
      else .ok ((List.range (groups depth)).foldl (fun s k => (List.range 96).foldl (fun s j => g es ed t k j s) s) s)

def execMetaCompress (a b : BitVec 7) (ts td : BitVec 10) (k : BitVec 7) (n : BitVec 2) : State → Host.Outcome State Fault Refusal :=
  isa 2 { rd := [a.toNat, b.toNat], near := false } (fun r t f s =>
    let ra := (f.reg a.toNat).toNat
    let rb := (f.reg b.toNat).toNat
    metaForm ts.toNat td.toNat (32 * (k.toNat + 1)) (keptOf n.toNat) (f.reg b.toNat) false
      (fun es ed t g j s => compressGroup r t f es ed ra rb (keptOf n.toNat) g j s) r t f s)

def execMetaExpand (a b : BitVec 7) (ts td : BitVec 10) (k : BitVec 7) (n : BitVec 2) : State → Host.Outcome State Fault Refusal :=
  isa 2 { rd := [a.toNat, b.toNat], near := false } (fun r t f s =>
    let ra := (f.reg a.toNat).toNat
    let rb := (f.reg b.toNat).toNat
    metaForm ts.toNat td.toNat (32 * (k.toNat + 1)) (keptOf n.toNat) (f.reg a.toNat) true
      (fun es ed t g j s => expandGroup r t f es ed ra rb (keptOf n.toNat) g j s) r t f s)

end Sys2Proof.Machine
end

