-- ==== Sys2Proof/Machine/Reduce.lean ====
section
/-! DEFINITION. The arithmetic of reductions at memory (08 Table 8.4), and REDF_PERFORM: a stack's unit performs a forwarded REDF (08 R180). -/

namespace Sys2Proof.Machine

/-- One reduction step on codes: element type 0 i32, 1 f32, 2 bf16; operation 0 add, 1 max, 2 min. -/
def reduceApply (ft op old v : Nat) : Nat :=
  let fm := if ft = 1 then fp32 else bf16
  if ft = 0 then
    (match op with
     | 0 => (old + v) % 2 ^ 32
     | 1 => if signedOf 32 old < signedOf 32 v then v else old
     | _ => if signedOf 32 v < signedOf 32 old then v else old)
  else if op = 0 then fm.nearest (sumVals false [fm.decode old, fm.decode v])
  else fm.minMax (op == 1) old v

/-- A reduction into `n` bytes at their home: a poisoned word is left alone and counted (08 R184). -/
def State.combineAt (s : State) (m : MemLoc) (ft op v : Nat) (w : Writer) (ctx : Nat) : State :=
  let n := if ft = 2 then 2 else 4
  if s.mem.poison.contains (wordOf m.pa) then s.poisonUsed (homeDie (lineOf m.pa))
  else s.modifyHome m ((bytesOfNat n (reduceApply ft op (natOfBytes (s.physBytes m.pa n)) v)).map some) w ctx none

/-- REDF_PERFORM of the oldest forwarded reduction whose line no engine owns. -/
def execRedfPerform (s : State) : Host.Outcome State Fault Refusal :=
  device (match s.coh.redfs.find? (fun p => !s.owned.any (fun o => o.1 == lineOf p.m.pa)) with
    | none => s
    | some p =>
      { s with coh := { s.coh with redfs := s.coh.redfs.erase p } }.combineAt p.m p.ftype p.op p.v.toNat .stack p.ctx)

end Sys2Proof.Machine
end

