-- ==== Sys2Proof/Machine/Engines.lean ====
section
/-! DEFINITION. Engine commands: completion targets (20 R417), issue, ownership and landing (R418, 08 R182, 09 R203), TCOPY and CHAIN, opcode 0x78 (R419, R420), and the device steps ENGINE_LANDING and ENGINE_COMPLETION_WORD. -/

namespace Sys2Proof.Machine

/-! ### Completion targets -/

/-- The completion target a register holds, with the checks of 20 R417. -/
def targetOf (s : State) (r : FibreRef) (t : Team) (f : Fibre) (v : Dword) : Except Stop Target :=
  let kind := bitsOf v.toNat 62 2
  let a := bitsOf v.toNat 0 52
  if kind ≤ 1 ∧ a % 32 ≠ 0 ∨ 2 ≤ kind ∧ a % 8 ≠ 0 then .error (.trap (.misaligned a))
  else if bitsOf v.toNat 52 10 ≠ 0 ∨ (kind = 0 ∧ bitsOf v.toNat 24 28 ≠ 0) ∨ (kind = 1 ∧ bitsOf v.toNat 28 24 ≠ 0) then
    .error (.trap (.extent a))
  else if kind = 0 then (scratchPlace t f a 32).map Target.bar |>.mapError Stop.trap
  else if kind = 1 then (clusterPlace s t f a 32).map Target.bar |>.mapError Stop.trap
  else
    match place s r t f .tagWrite 0 a 8 8 with
    | .error e => .error e
    | .ok (.mem m) => .ok (if kind = 2 then .fill m else .countdown m)
    | .ok _ => .error (.trap (.denied a))

/-! ### Bytes that arrive at a team (06 R139) -/

/-- A completion or return that targets a discarded team is dropped and counted (06 R138). -/
def State.dropCompletion (s : State) (t : Team) : State := s.count t.ctx 0x34 1

/-- It completes something at its team, and does not only bring the data of what completes later (06 R144). -/
def Completion.counts : Completion → Bool
  | .landing _ _ => true
  | .arrival _ _ => true
  | .fibreBack _ => true
  | .write _ _ _ alone => alone
  | .nibble _ _ _ _ alone => alone
  | .combine _ _ _ _ _ alone => alone

/-- The low nibbles of a byte string's bytes replace those of the old ones, or the high ones. -/
def mixNibble (old new : List Byte) (high : Bool) : List Byte :=
  (old.zip new).map (fun (p : Byte × Byte) => withNibble p.1 high (nibbleOf p.2 high))

/-- Poison marks of the memory words that some bytes of a place lie in. -/
def State.poisonBytes (s : State) (l : Loc) (offs : List Nat) : State := offs.foldl (fun s i => s.poisonAt (l.plus i)) s

/-- A combination in scratchpad (08 Table 8.4); a poisoned word is left alone and the poison counted, a poisoned operand poisons the word (R184). -/
def State.combineScratch (s : State) (l : Loc) (die ft op : Nat) (v : Dword) (poison : Bool) (put : State → List (Option Byte) → State) : State :=
  let n := if ft = 2 then 2 else 4
  if s.poisonedAt l then s.poisonUsed die
  else
    let s := put s ((bytesOfNat n (reduceApply ft op (natOfBytes (s.homeBytes l n)) v.toNat)).map some)
    if poison then s.poisonAt l else s

/-- A message's arrival at its slot barrier: one arrival that expects its bytes, and their landing, in one step; the phase flips (12 R247, Table 12.2). -/
def State.arriveAt (s : State) (l : Loc) : State :=
  let b := s.barAt l
  let s := s.putBarInfo { s.barInfo l with landed := true }
  s.settleBar l (putBits b 32 12 (barPendingArr b - 1))

/-- A completion as it acts on a team's scratchpad, on its core or in its image. A fibre that comes back has read past its core's L1 (09 R190). -/
def State.applyCompletion (s : State) (team : Nat) (c : Completion) : State :=
  match c with
  | .landing o n => s.landAt (.scr team o) n
  | .arrival o _ => s.arriveAt (.scr team o)
  | .write o bs q _ => (scratchWrite s team o bs).poisonBytes (.scr team o) q
  | .nibble o h v q _ =>
    let s := scratchWrite s team o ((s.homeBytes (.scr team o) 1).map (fun b => some (withNibble b h v)))
    if q then s.poisonAt (.scr team o) else s
  | .combine o ft op v q _ =>
    s.combineScratch (.scr team o) ((s.team? team).elim 0 Team.die) ft op v q (fun s bs => scratchWrite s team o bs)
  | .fibreBack i =>
    let s := match (s.team? team).bind (fun t => t.core) with | some c => s.acquireL1 c none | none => s
    (s.updFibre ⟨team, i⟩ (fun f => { f with away := none, status := .ready, since := s.aclk })).tryEnter ⟨team, i⟩

/-- A completion reaches a team: applied on its core, sent to its redirect entry while it is saved, saving or restoring, dropped and counted with a discarded team (06 R138, R139), and so a channel's message toward a terminated team (12 R254). An ended team's job has ended, or goes on without it: the completion finds nothing. -/
def State.completeAt (s : State) (team : Nat) (c : Completion) : State :=
  match s.team? team with
  | none => s
  | some t =>
    match t.state with
    | .running => s.applyCompletion team c
    | .preemptPending => s.applyCompletion team c
    | .saving => s.updTeam team (fun t => { t with redirect := t.redirect ++ [c] })
    | .saved => s.updTeam team (fun t => { t with redirect := t.redirect ++ [c] })
    | .restoring => s.updTeam team (fun t => { t with redirect := t.redirect ++ [c] })
    | .discarding => if c.counts then s.dropCompletion t else s
    | .terminated => (match c with | .arrival _ _ => s.dropCompletion t | _ => s)
    | _ => s

/-- Bytes landed at a barrier. -/
def State.landTarget (s : State) (l : Loc) (n : Nat) : State :=
  match l with
  | .scr t o => s.completeAt t (.landing o n)
  | l => s.landAt l n

/-- A write of a command into a team's scratchpad completes something on its own: no landing or arrival at that team counts it (06 R139, R144). -/
def Cmd.aloneAt (c : Cmd) (l : Loc) : Bool :=
  match c.target, c.kind, l with
  | .bar (.scr t _), _, .scr u _ => t != u
  | _, .chan _ _ _ _ (.scr t _) _, .scr u _ => t != u
  | _, _, _ => true

/-- Bytes of an engine into a scratchpad. -/
def State.engineScratch (s : State) (l : Loc) (bs : List (Option Byte)) (poison : List Nat) (alone : Bool) : State :=
  match l with
  | .scr t o => s.completeAt t (.write o bs poison alone)
  | .near k c i o => (nearWrite s k c i o bs).poisonBytes l poison
  | _ => s

/-- A nibble of an engine into a scratchpad. -/
def State.engineNibble (s : State) (l : Loc) (high : Bool) (v : BitVec 4) (poison alone : Bool) : State :=
  match l with
  | .scr t o => s.completeAt t (.nibble o high v poison alone)
  | .near k c i o =>
    let s := nearWrite s k c i o ((s.homeBytes l 1).map (fun b => some (withNibble b high v)))
    if poison then s.poisonAt l else s
  | _ => s

/-- An operand of an engine combined into a scratchpad. -/
def State.engineCombine (s : State) (l : Loc) (die ft op : Nat) (v : Dword) (poison alone : Bool) : State :=
  match l with
  | .scr t o => s.completeAt t (.combine o ft op v poison alone)
  | .near k c i o => s.combineScratch l die ft op v poison (fun s bs => nearWrite s k c i o bs)
  | _ => s

/-! ### Ownership (08 R182) -/

/-- Lines of memory a chunk writes. -/
def PieceOut.lines (o : PieceOut) (n : Nat) : List Nat :=
  let of := fun (l : Loc) (n : Nat) => match l with
    | .mem m => m.lines n
    | _ => []
  match o with
  | .skip => []
  | .write l => of l n
  | .nibble l _ => of l 1
  | .combine l ft _ => of l (if ft = 2 then 2 else 4)
  | .peer _ _ => []
  | .peerPair _ _ _ => []

/-- Bytes of a source. -/
def Piece.size : Piece → Nat
  | .read _ n => n
  | .known bs => bs.length

def Chunk.size (c : Chunk) : Nat := (c.src.map Piece.size).foldl (· + ·) 0

def Chunk.lines (c : Chunk) : List Nat := c.out.lines c.size

def Stage.lines (g : Stage) : List Nat := (g.chunks.flatMap Chunk.lines).foldl setInsert []

def Cmd.lines (c : Cmd) : List Nat := (c.stages.flatMap Stage.lines).foldl setInsert []

/-! ### Issue -/

/-- The release at device scope that comes before an engine command's issue (09 R203). -/
def releasedForIssue (s : State) (r : FibreRef) (f : Fibre) : Bool := !f.loadsPending && storesDone s r f 4

/-- A core's 256 commands are all taken (20 R418). -/
def State.enginesFull (s : State) (t : Team) : Bool :=
  match t.core with
  | some c => decide (256 ≤ s.cmds.countP (fun x => x.core == some c))
  | none => false

/-- A command of a fibre before its kind, target and data are put in. -/
def Cmd.blank (id grp : Nat) (r : FibreRef) (t : Team) (f : Fibre) (engine : Nat) : Cmd where
  id := id
  grp := grp
  who := r
  ctx := t.ctx
  die := dieOf t f
  core := t.core
  pc := f.pc.toNat
  engine := engine
  kind := .copy
  target := .none
  total := 0
  landed := 0
  stages := []
  fault := none
  ended := false
  lost := []

/-- An instruction that cannot issue yet waits in the state before it read anything. -/
def waitIn (s0 : State) (a : Act) : Act :=
  match a with
  | .error (.hold _) => wait s0
  | x => x

/-- Issue of the commands of one instruction: their destination lines asked for in order, the instruction outstanding until their sources are read. While it cannot issue, it waits in the state `s0` before its reads of this step, so that what came for them is kept. -/
def issueCmds (r : FibreRef) (t : Team) (f : Fibre) (len : Nat) (vals : List (Nat × Dword)) (mk : Nat → List Cmd) (s0 s : State) : Act :=
  if s.enginesFull t ∨ !releasedForIssue s r f then wait s0
  else
    let cs := mk s.nextId
    let s := { s with nextId := s.nextId + cs.length + 1 }
    match waitIn s0 (issueLong r f len (.cmd ((cs.map (fun c => c.grp)).headD 0) vals) (vals.map (fun p => p.1)) [] [] s) with
    | .error e => .error e
    | .ok s => .ok (cs.foldl (fun s c => ({ s with cmds := s.cmds ++ [c] }).own c.id c.ctx c.lines) s)

/-! ### Building chunks -/

/-- The translation of a range for an engine, page by page (04 R95). -/
def enginePlaces (s : State) (t : Team) (f : Fibre) (k : AccKind) (space a n : Nat) : Except Trap (List (Loc × Nat)) :=
  (pageParts space a n).mapM (fun p =>
    if space = 1 then (scratchPlace t f p.1 p.2).map (fun l => (l, p.2))
    else if space = 2 then (clusterPlace s t f p.1 p.2).map (fun l => (l, p.2))
    else
      match translate s t.ctx (dieOf t f) space p.1 k true with
      | .trap e => .error e
      | .nonres => .error (mkTrap 0x04 0 p.1)
      | .ok l => .ok (l.loc p.1, p.2))

/-- The kinds of element a TCOPY combines: the element type of 08 Table 8.4. -/
def combineType (fmt : Nat) : Option Nat :=
  match fmt with | 9 => some 0 | 0 => some 1 | 2 => some 2 | _ => none

/-- The chunks that write one element, its source split with its destination where that crosses a page. -/
def elemChunks (src : List Piece) (dst : List (Loc × Nat)) (half : Option Bool) (comb : Option (Nat × Nat)) (lands : Nat) : List Chunk :=
  match dst, comb, half with
  | [(l, _)], some (ft, op), _ => [⟨src, [], .combine l ft op, lands, false⟩]
  | [(l, _)], none, some h => [⟨src, [], .nibble l h, lands, false⟩]
  | [(l, _)], none, none => [⟨src, [], .write l, lands, false⟩]
  | (l, n) :: (l', n') :: _, none, none =>
    [⟨src.map (fun p => match p with | .read a _ => .read a n | .known bs => .known (bs.take n)), [], .write l, 0, false⟩,
     ⟨src.map (fun p => match p with | .read a k => .read (a.plus n) (k - n) | .known bs => .known ((bs.drop n).take n')), [], .write l', lands, false⟩]
  | _, _, _ => [⟨src, [], .skip, lands, false⟩]

/-! ### TCOPY (20 R419) -/

/-- The extension of a shape record (11 Table 11.6). -/
structure ShapeExt where
  coord : Nat
  mode : Nat
  op : Nat
  mask : Nat
  deriving DecidableEq, Repr

def shapeExt (v : Nat) : ShapeExt where
  coord := bitsOf v 0 48
  mode := bitsOf v 48 1
  op := bitsOf v 49 3
  mask := bitsOf v 64 64

/-- The extension breaks 11 R243. -/
def ShapeExt.bad (x : ShapeExt) (v : Nat) (e : Entry) : Bool :=
  bitsOf v 52 12 != 0 || bitsOf v 128 128 != 0 || (x.mode == 1 && x.mask == 0) ||
  (x.mask != 0 && decide (e.memberCount ≤ x.mask.log2)) || decide (4 ≤ x.op) ||
  (x.op != 0 && (combineType e.fmt).isNone)

/-- A target of a copy: a local slot, or a slot on another device of the grid. -/
inductive CopyTarget where
  | here (slot : Nat)
  | there (coord slot : Nat)
  deriving DecidableEq, Repr

/-- The coordinates of a linear member index (11 R232). -/
def memberCoords (e : Entry) (m : Nat) : List Nat :=
  (e.axes.foldl (fun (a : List Nat × Nat) x => (a.1 ++ [a.2 % max 1 (axSize x)], a.2 / max 1 (axSize x))) ([], m)).1

/-- Where member `m` keeps its slot. -/
def Entry.memberPlace (e : Entry) (grid : Dword) (m : Nat) : CopyTarget :=
  let cs := e.axes.zip (memberCoords e m)
  let slot := (cs.find? (fun p => axKind p.1 == 1)).elim 0 (fun p => p.2)
  let far := cs.any (fun p => axKind p.1 == 2 && axOrigin p.1 + p.2 != gridCoord grid (axGrid p.1))
  if !far then .here slot
  else
    let coord := (List.range 3).map (fun g =>
      match cs.find? (fun p => axKind p.1 == 2 && axGrid p.1 == g) with
      | some p => axOrigin p.1 + p.2
      | none => gridCoord grid g)
    .there (coord.getD 0 0 + coord.getD 1 0 * 2 ^ 16 + coord.getD 2 0 * 2 ^ 32) slot

/-- The targets a shape record names. -/
def copyTargets (grid : Dword) (e : Entry) (x : ShapeExt) : List CopyTarget :=
  if x.mode = 0 then
    (if gridAxes grid ≠ 0 ∧ x.coord = bitsOf grid.toNat 0 48 then [.here 0] else [.there x.coord 0])
  else ((List.range 64).filter (fun i => x.mask.testBit i)).map (e.memberPlace grid)

/-- Bytes a tile moves: an o4 block counts 18, a pair of 4-bit elements one. -/
def tileBytes (x : TileShape) (fmt : Nat) : Nat :=
  if fmt = 8 then x.rows * (x.cols / 32) * 18 else x.rows * x.cols * fmtBits fmt / 8

/-- What a unit counts when it has landed. -/
def unitLands (fmt : Nat) (p : Nat × Nat) : Nat :=
  if fmt = 8 then 18 else if fmtBits fmt = 4 then p.2 % 2 else fmtBytes fmt

/-- The source of a unit for an engine. -/
def engineSrc (s : State) (t : Team) (f : Fibre) (e : Entry) (ix : Index) : Except Trap (List Piece) :=
  match e.elemAt s.grid (dieOf t f) ix with
  | none => .ok [.known e.fillBytes]
  | some a => (enginePlaces s t f .load e.space a (fmtBytes e.fmt)).map (fun ls => ls.map (fun p => .read p.1 p.2))

/-- A pair of 4-bit elements toward another device goes as its byte, with the first of them: the second one from its own source; where that is out of bounds at the destination, what stands there stays. -/
def copyPair (s : State) (t : Team) (f : Fibre) (es ed : Entry) (x : TileShape) (c va : Nat) (src : List Piece) (p : Nat × Nat) : Except Trap (List Chunk) :=
  let q := (p.1, p.2 + 1)
  if !ed.inBounds (x.dIx q) then .ok [⟨src, [], .peerPair c va false, 1, false⟩]
  else (engineSrc s t f es (x.sIx q)).map (fun high => [⟨src ++ high, [], .peerPair c va true, 1, false⟩])

/-- A pair of 4-bit elements toward a remote page of this device's tables, likewise: its chunk has a byte for each element. -/
def copyByte (s : State) (t : Team) (f : Fibre) (es ed : Entry) (x : TileShape) (h : Bool) (w o : Nat) (src : List Piece) (p : Nat × Nat) : Except Trap (List Chunk) :=
  let q := (p.1, p.2 + 1)
  if !ed.inBounds (x.dIx q) then .ok [⟨src ++ [.read (.remote h w o) 1], [], .nibble (.remote h w o) false, 0, false⟩]
  else (engineSrc s t f es (x.sIx q)).map (fun high => [⟨src ++ high, [], .nibble (.remote h w o) false, 1, false⟩])

/-- The chunks of one unit at one target. -/
def copyUnit (s : State) (t : Team) (f : Fibre) (es ed : Entry) (x : TileShape) (op : Nat) (g : CopyTarget) (p : Nat × Nat) : Except Trap (List Chunk) :=
  let half := unitHalf es.fmt p
  let comb := if op = 0 then none else (combineType ed.fmt).map (fun ft => (ft, op - 1))
  let lands := unitLands es.fmt p
  let ix := x.dIx p
  match engineSrc s t f es (x.sIx p), g, half with
  | .error e, _, _ => .error e
  | .ok _, .there _ _, some true => if ed.inBounds (x.dIx (p.1, p.2 - 1)) then .ok [] else .ok [⟨[], [], .skip, lands, false⟩]
  | .ok src, .there c slot, h =>
    if !ed.inBounds ix then .ok [⟨src, [], .skip, lands, false⟩]
    else
      let va := ed.slotBase slot + ed.byteOffset ix
      if h.isSome then copyPair s t f es ed x c va src p else .ok [⟨src, [], .peer c va, lands, false⟩]
  | .ok src, .here slot, _ =>
    if !ed.inBounds ix then .ok [⟨src, [], .skip, lands, false⟩]
    else
      let a := ed.slotBase slot + ed.byteOffset ix
      let k := if op = 0 then AccKind.store else .atomic
      match enginePlaces s t f k ed.space a (fmtBytes ed.fmt) with
      | .error e => .error e
      | .ok ls =>
        if ed.space = 0 ∧ s.sealHit t.ctx a (fmtBytes ed.fmt) then .error (mkTrap 0x14 0 a)
        else
          match ls, half with
          | (.remote h w o, _) :: _, some false => copyByte s t f es ed x h w o src p
          | (.remote _ _ _, _) :: _, some true => .ok []
          | _, _ => .ok (elemChunks src ls half comb lands)

/-- The chunks of one target, or the fault for which nothing of it is written. -/
def copyTarget (s : State) (t : Team) (f : Fibre) (es ed : Entry) (x : TileShape) (op : Nat) (g : CopyTarget) : Except Trap (List Chunk) :=
  ((x.units es.fmt).mapM (copyUnit s t f es ed x op g)).map List.flatten

/-- The data of all the targets, and the first target's fault. -/
def copyData (s : State) (t : Team) (f : Fibre) (es ed : Entry) (x : TileShape) (op : Nat) (gs : List CopyTarget) : List Chunk × Option (Nat × Nat × Nat) :=
  gs.foldl (fun (a : List Chunk × Option (Nat × Nat × Nat)) g =>
    match copyTarget s t f es ed x op g with
    | .ok cs => (a.1 ++ cs, a.2)
    | .error e => (a.1, a.2.or (some (e.cause, e.detail, e.addr)))) ([], none)

def execTcopy (d a b : BitVec 7) (ts : BitVec 10) (rr j c : BitVec 7) : State → Host.Outcome State Fault Refusal :=
  isa 2 { rd := [a.toNat, b.toNat, rr.toNat, j.toNat, c.toNat], wr := [d.toNat], near := false, long := true } (fun r t f s0 =>
    match targetOf s0 r t f (f.reg c.toNat) with
    | .error e => .error e
    | .ok target =>
      let va := (f.reg rr.toNat).toNat
      withRecord r t f va 20 32 s0 (fun rec s =>
        let ed : Entry := bitsOf rec 0 1024
        let ext := bitsOf rec 1024 256
        let x := tileShape (f.reg a.toNat) (f.reg b.toNat) (f.reg j.toNat)
        reading [ts.toNat] t f s0 (match s.validEntry t.ctx f.pc.toNat ts.toNat with
        | .error e => .error (.trap e)
        | .ok (_, es) =>
          let sx := shapeExt ext
          let gs := copyTargets s.grid ed sx
          let far := gs.any (fun g => match g with | .there _ _ => true | .here _ => false)
          if ed.invalid s.grid ∨ x.bad es.fmt ∨ sx.bad ext ed ∨ ed.fmt ≠ es.fmt ∨ ed.space = 3 ∨ (sx.op ≠ 0 ∧ far) then
            .error (.trap (invalidRecord 2 va))
          else
            match extentFault s t f 64 es, extentFault s t f 64 ed with
            | some e, _ => .error (.trap e)
            | _, some e => .error (.trap e)
            | none, none =>
              let total := tileBytes x es.fmt * gs.length
              let (cs, fault) := copyData s t f es ed x sx.op gs
              issueCmds r t f 2 [(d.toNat, ofNat64 total)] (fun id =>
                [{ Cmd.blank id id r t f 1 with target := target, total := total, stages := [⟨cs, false⟩], fault := fault }]) s0 s)))

/-! ### CHAIN (20 R420) -/

/-- A link of a chain (20 Table 20.3). -/
structure Link where
  src : Nat
  dst : Nat
  scratch : Bool
  len : Nat
  next : Nat
  zeros : Bool
  deriving DecidableEq, Repr

def linkOf (v : Nat) : Link where
  src := bitsOf v 0 52
  dst := bitsOf v 64 52
  scratch := bitsOf v 116 1 == 1
  len := bitsOf v 128 24 + 1
  next := bitsOf v 160 52
  zeros := bitsOf v 224 2 == 1

/-- A link that makes its chain invalid. -/
def linkBad (t : Team) (f : Fibre) (v : Nat) : Bool :=
  let l := linkOf v
  bitsOf v 52 12 != 0 || bitsOf v 117 11 != 0 || bitsOf v 152 8 != 0 || bitsOf v 212 12 != 0 || bitsOf v 226 286 != 0 ||
  decide (2 ≤ bitsOf v 224 2) || l.len % 8 != 0 || (!l.zeros && l.src % 8 != 0) || (!l.scratch && l.dst % 8 != 0) ||
  (l.scratch && (bitsOf v 88 28 != 0 || (match scratchPlace t f l.dst l.len with | .ok _ => false | .error _ => true)))

/-- The links of a chain from an address on, at most 64. -/
def readLinks (r : FibreRef) (t : Team) (f : Fibre) : Nat → Nat → Nat → State → Except Stop (List Link × State)
  | 0, _, va, _ => .error (.trap (invalidRecord 3 va))
  | fuel + 1, k, va, s =>
    if va % 64 ≠ 0 then .error (.trap (invalidRecord 3 va))
    else
      match recordAt r t f va 8 (8 * k) s with
      | .error e => .error e
      | .ok (v, s) =>
        if linkBad t f v then .error (.trap (invalidRecord 3 va))
        else
          let l := linkOf v
          if l.next = 0 then .ok ([l], s)
          else
            match readLinks r t f fuel (k + 1) l.next s with
            | .error e => .error e
            | .ok (ls, s) => .ok (l :: ls, s)

/-- A range cut at every multiple of `k`: offset and length of each part. -/
def cutRange (k a n : Nat) : List (Nat × Nat) :=
  (List.range (n / k + 2)).filterMap (fun i =>
    let lo := max a (a / k * k + k * i)
    let hi := min (a + n) (a / k * k + k * (i + 1))
    if lo < hi then some (lo - a, hi - lo) else none)

/-- The first address of a chain's global destinations that lies in a sealed slot, if there is one (11 R238). -/
def chainSealed (s : State) (ctx : Nat) (ls : List Link) : Option Trap :=
  ls.findSome? (fun l => if l.scratch then none
    else (cutRange 8 l.dst l.len).findSome? (fun p => if s.sealHit ctx (l.dst + p.1) p.2 then some (mkTrap 0x14 0 (l.dst + p.1)) else none))

/-- One part of a link: what it writes of one memory word. -/
def linkChunk (s : State) (t : Team) (f : Fibre) (l : Link) (p : Nat × Nat) : Except Trap Chunk :=
  let src : Except Trap (List Piece) :=
    if l.zeros then .ok [.known (List.replicate p.2 0)]
    else (enginePlaces s t f .load 0 (l.src + p.1) p.2).map (fun ls => ls.map (fun q => .read q.1 q.2))
  match src with
  | .error e => .error e
  | .ok src =>
    match enginePlaces s t f .store (if l.scratch then 1 else 0) (l.dst + p.1) p.2 with
    | .error e => .error e
    | .ok [(d, _)] => .ok ⟨src, [], .write d, p.2, false⟩
    | .ok _ => .error (.unmapped l.dst)

/-- The stages of a chain up to the first link whose translation fails, and that fault. -/
def linkStages (s : State) (t : Team) (f : Fibre) : List Link → List Stage × Option (Nat × Nat × Nat)
  | [] => ([], none)
  | l :: ls =>
    match (cutRange 8 l.dst l.len).mapM (linkChunk s t f l) with
    | .error e => ([], some (e.cause, e.detail, e.addr))
    | .ok cs =>
      let (gs, fault) := linkStages s t f ls
      (⟨cs, false⟩ :: gs, fault)

/-- The stages of a chain and its fault: none move where a destination is sealed (11 R238), those before the first link whose translation fails otherwise (20 R420). -/
def chainStages (s : State) (t : Team) (f : Fibre) (ls : List Link) : List Stage × Option (Nat × Nat × Nat) :=
  let (gs, fault) := linkStages s t f ls
  match chainSealed s t.ctx ls with
  | none => (gs, fault)
  | some e => ([], if (chainSealed s t.ctx (ls.take gs.length)).isSome ∨ fault.isNone then some (e.cause, e.detail, e.addr) else fault)

def execChain (d a c : BitVec 7) : State → Host.Outcome State Fault Refusal :=
  isa 2 { rd := [a.toNat, c.toNat], wr := [d.toNat], near := false, long := true } (fun r t f s0 =>
    match targetOf s0 r t f (f.reg c.toNat) with
    | .error e => .error e
    | .ok target =>
      match readLinks r t f 64 0 (f.reg a.toNat).toNat s0 with
      | .error e => .error e
      | .ok (ls, s) =>
        let s := s.takeAnswers r f.seq
        let total := (ls.map (fun l => l.len)).foldl (· + ·) 0
        let (gs, fault) := chainStages s t f ls
        issueCmds r t f 2 [(d.toNat, ofNat64 total)] (fun id =>
          [{ Cmd.blank id id r t f 2 with target := target, total := total, stages := gs, fault := fault }]) s0 s)

/-! ### Progress of a command -/

def State.cmd? (s : State) (id : Nat) : Option Cmd := s.cmds.find? (fun c => c.id == id)

def State.updCmd (s : State) (id : Nat) (g : Cmd → Cmd) : State :=
  { s with cmds := s.cmds.map (fun (c : Cmd) => if c.id == id then g c else c) }

/-- The command is gone, with what it owned and asked for. -/
def State.removeCmd (s : State) (id : Nat) : State :=
  { s with
    cmds := s.cmds.filter (fun c => c.id != id)
    owned := s.owned.filter (fun p => p.2 != id) }

/-- Bytes are counted at the target when it is a barrier. -/
def State.landCmd (s : State) (c : Cmd) (n : Nat) : State :=
  let s := s.updCmd c.id (fun (x : Cmd) => { x with landed := x.landed + n })
  match c.target with
  | .bar l => s.landTarget l n
  | _ => s

/-- The fault of a command is reported (14 R275). -/
def State.raiseCmd (s : State) (c : Cmd) : State :=
  match c.fault with
  | some (cause, detail, addr) =>
    let s := if cause = 0x14 then s.count c.ctx 0x52 1 else s
    s.raiseAsync c.who 1 cause detail c.engine c.pc addr
      (match c.target with | .bar l => some l | .fill m => some (.mem m) | .countdown m => some (.mem m) | .none => none)
  | none => s

/-- The command's data is all where it goes: with a barrier its fault is reported, what has not landed is counted, and it is gone; a completion word waits for its own step. -/
def State.endCmd (s : State) (c : Cmd) : State :=
  match c.target with
  | .fill _ => s.updCmd c.id (fun (x : Cmd) => { x with ended := true })
  | .countdown _ => s.updCmd c.id (fun (x : Cmd) => { x with ended := true })
  | _ =>
    let left := c.total - c.landed
    let s := if c.fault.isSome then s.raiseCmd c else s
    let s := if left ≠ 0 ∨ c.total = 0 then s.landCmd c left else s
    s.removeCmd c.id

/-- A place may be read by a command: no other one owns its line (20 R418), and its weight-store group is not in refresh. -/
def sourceReady (s : State) (cmd : Nat) (p : Piece) : Bool :=
  match p with
  | .known _ => true
  | .read l n => (wordParts l n).all (fun q =>
      match q.1 with
      | .mem m => (match s.ownerOf (lineOf m.pa) with | some o => o == cmd | none => true) && !weightBusy s q.1
      | _ => true)

/-- One word part read as a relaxed device-scope load of an engine, by the slices of its die (09 R203, Table 9.3). -/
def engineRead (s : State) (c : Cmd) (l : Loc) (n : Nat) : (List Byte × Bool) × State :=
  match l with
  | .mem m =>
    let (d, s) := if m.cls = 2 then (s.lineAt (lineOf m.pa), s) else s.readSlices c.die m c.ctx
    let v := d.getD (wordOf m.pa % 16) (0, false)
    ((wordBytes v.1 (m.pa % 8) n, v.2), s)
  | _ => s.readPlace none c.die c.ctx l n ⟨true, 4, 0⟩

/-- A source read: its bytes, and the places among them that came from a poisoned memory word. -/
def enginePieces (s : State) (c : Cmd) (ps : List Piece) : (List Byte × List Nat) × State :=
  ps.foldl (fun (a : (List Byte × List Nat) × State) p =>
    match p with
    | .known bs => ((a.1.1 ++ bs, a.1.2), a.2)
    | .read l n => (wordParts l n).foldl (fun (a : (List Byte × List Nat) × State) q =>
        let ((bs, b), s) := engineRead a.2 c q.1 q.2
        ((a.1.1 ++ bs, a.1.2 ++ (if b then (List.range bs.length).map (fun i => a.1.1.length + i) else [])), s)) a) (([], []), s)

/-- A memory word that a command reads on another device or at the host: a window and an aligned offset; or the byte at an address of a device named by its coordinate. -/
structure FarRead where
  coord : Option Nat
  host : Bool
  window : Nat
  off : Nat
  deriving DecidableEq, Repr

/-- The remote words of a chunk's sources, and the byte that a pair of 4-bit elements replaces in part. -/
def Chunk.farReads (k : Chunk) : List FarRead :=
  (k.src.flatMap (fun p => match p with
    | .read (.remote h w o) n => (List.range ((o % 8 + n + 7) / 8)).map (fun i => ⟨none, h, w, o / 8 * 8 + 8 * i⟩)
    | _ => [])) ++
  (match k.out with
   | .peerPair c va false => [⟨some c, false, 0, va⟩]
   | _ => [])

/-- A command's read of a remote word. -/
def RemoteOp.reads (o : RemoteOp) (cmd : Nat) (x : FarRead) : Bool :=
  (match o.who with | .engine c w => c == cmd && w == x.window | _ => false) && o.coord == x.coord && o.host == x.host && o.off == x.off

/-- The answer to a command's remote read. -/
def State.cmdAnswer (s : State) (cmd : Nat) (x : FarRead) : Option RemoteOp := s.remote.find? (fun o => o.reads cmd x)

def State.takeCmdAnswers (s : State) (cmd : Nat) : State :=
  { s with remote := s.remote.filter (fun o => match o.who, o.kind with | .engine c _, .read _ => c != cmd | _, _ => true) }

/-- A command's remote read goes out. -/
def State.sendRead (s : State) (c : Cmd) (x : FarRead) : State :=
  match x.coord with
  | none => s.send x.host c.ctx x.window x.off (.read 8) (.engine c.id x.window)
  | some _ =>
    { s with
      remote := s.remote ++ [⟨s.nextId, false, x.coord, c.ctx, none, x.off, .read 1, .engine c.id x.window, none, false, s.aclk, 0, none, 0, 0⟩]
      nextId := s.nextId + 1 }

/-- A remote source with the words that came for it. -/
def farPiece (s : State) (cmd : Nat) (p : Piece) : Piece :=
  match p with
  | .read (.remote h w o) n =>
    .known (((((List.range ((o % 8 + n + 7) / 8)).flatMap (fun i =>
      ((s.cmdAnswer cmd ⟨none, h, w, o / 8 * 8 + 8 * i⟩).bind (fun a => a.answer)).getD [])).drop (o % 8)).take n))
  | p => p

/-- A chunk with what came for it: a pair's byte at the destination stands behind its source. -/
def Chunk.fetched (s : State) (cmd : Nat) (k : Chunk) : Chunk :=
  { k with src := k.src.map (farPiece s cmd) ++ (match k.out with
      | .peerPair c va false => [.known (((s.cmdAnswer cmd ⟨some c, false, 0, va⟩).bind (fun a => a.answer)).getD [])]
      | _ => []) }

/-- Remote sources of a stage are fetched first, each memory word once (09 R203). -/
def fetchRemote (s : State) (c : Cmd) (g : Stage) : Except State (Stage × State) :=
  let xs := (g.chunks.flatMap Chunk.farReads).foldl (fun a x => if a.contains x then a else a ++ [x]) []
  if xs.isEmpty then .ok (g, s)
  else
    let missing := xs.filter (fun x => (s.cmdAnswer c.id x).isNone)
    if !missing.isEmpty then .error (missing.foldl (fun s x => s.sendRead c x) s)
    else
      let as := xs.filterMap (s.cmdAnswer c.id)
      match as.find? (fun o => o.failed) with
      | some o =>
        .error ((s.takeCmdAnswers c.id).updCmd c.id (fun (x : Cmd) =>
          { x with stages := [], fault := x.fault.or (some (if o.host then 0x03 else asyncCause o.status, 0, o.off)) }))
      | none =>
      if as.any (fun o => o.answer.isNone) then .error s
      else .ok ({ g with chunks := g.chunks.map (Chunk.fetched s c.id) }, s.takeCmdAnswers c.id)

/-- A pair of 4-bit elements as the byte it is sent as. -/
def Chunk.joined (k : Chunk) (bs : List Byte) : Chunk :=
  match k.out with
  | .peerPair c va _ => { k with src := [.known [pairByte (bs.headD 0) (bs.getD 1 0)]], out := .peer c va }
  | .nibble (.remote h w o) _ => { k with src := [.known [pairByte (bs.headD 0) (bs.getD 1 0)]], out := .write (.remote h w o) }
  | _ => { k with src := [.known bs] }

/-- The sources of a stage are read, each memory word once. -/
def readStage (s : State) (c : Cmd) (g : Stage) (rest : List Stage) : State :=
  match fetchRemote s c g with
  | .error s => s
  | .ok (g, s) =>
    if !g.chunks.all (fun k => k.src.all (sourceReady s c.id)) then s
    else
      let (ks, s) := g.chunks.foldl (fun (a : List Chunk × State) k =>
        let ((bs, q), s) := enginePieces a.2 c k.src
        (a.1 ++ [{ k.joined bs with poison := k.poison ++ q }], s)) ([], s)
      s.updCmd c.id (fun (x : Cmd) => { x with stages := ⟨ks, true⟩ :: rest })

/-- The bytes of a chunk that has been read. -/
def Chunk.bytes (k : Chunk) : List Byte := k.src.flatMap (fun p => match p with | .known bs => bs | .read _ _ => [])

/-- A chunk may be performed now: the command owns every line it writes. -/
def chunkReady (s : State) (c : Cmd) (k : Chunk) : Bool := !k.sent && k.lines.all (fun l => s.ownerOf l == some c.id)

/-- A chunk's bytes go to their destination at this device, and with them its poison (08 R184); its write marks each memory word that receives a poisoned byte. -/
def performChunk (s : State) (c : Cmd) (k : Chunk) : State :=
  let bs := k.bytes
  let bad := !k.poison.isEmpty
  let v := BitVec.ofNat 64 (natOfBytes bs)
  match k.out with
  | .write (.mem m) => (s.modifyHome m (bs.map some) (.engine c.id) c.ctx none).poisonBytes (.mem m) k.poison
  | .write (.remote h w o) => s.send h c.ctx w o (.write (bs.map some)) (.engine c.id 0)
  | .write l => s.engineScratch l (bs.map some) k.poison (c.aloneAt l)
  | .nibble (.mem m) h =>
    let s := s.modifyHome m ((mixNibble (s.physBytes m.pa 1) bs h).map some) (.engine c.id) c.ctx none
    if bad then s.poisonAt (.mem m) else s
  | .nibble l h => s.engineNibble l h (nibbleOf (bs.headD 0) h) bad (c.aloneAt l)
  | .combine (.mem m) ft op =>
    let s := s.combineAt m ft op v.toNat (.engine c.id) c.ctx
    if bad then s.poisonAt (.mem m) else s
  | .combine l ft op => s.engineCombine l c.die ft op v bad (c.aloneAt l)
  | .skip => s
  | .peer _ _ => s
  | .peerPair _ _ _ => s

/-- A chunk that goes out as a remote write: its transaction's number ties it to the answer. -/
def sendChunk (s : State) (c : Cmd) (coord va : Nat) (bs : List Byte) : State :=
  { s with
    remote := s.remote ++ [⟨s.nextId, false, some coord, c.ctx, none, va, .write (bs.map some), .engine c.id 0, none, false, s.aclk, 0, none, 0, 0⟩]
    nextId := s.nextId + 1 }

/-- A chunk is remote: it lands when its write is acknowledged. -/
def Chunk.remote (k : Chunk) : Bool :=
  match k.out with
  | .write (.remote _ _ _) => true
  | .peer _ _ => true
  | _ => false

/-- The next chunk of a stage that can be performed is performed and counted, or sent; its lines are released once the command has nothing more to write there (08 R182). -/
def advanceStage (s : State) (c : Cmd) (g : Stage) (rest : List Stage) : State :=
  match g.chunks.find? (chunkReady s c) with
  | none => s
  | some k =>
    let put := fun (s : State) (ks : List Chunk) => s.updCmd c.id (fun (x : Cmd) => { x with stages := { g with chunks := ks } :: rest })
    if k.remote then
      let s := match k.out with
        | .peer coord va => sendChunk s c coord va k.bytes
        | _ => performChunk s c k
      put s (g.chunks.map (fun x => if x == k then { x with sent := true } else x))
    else
      let ks := g.chunks.erase k
      let s := put (performChunk s c k) ks
      let s := s.releaseLines c.id ((⟨ks, true⟩ :: rest).flatMap Stage.lines)
      s.landCmd c k.lands

/-- One step of a copying command: the unread stage is read, the next chunk lands, and with nothing left the command ends. -/
def advanceCopy (s : State) (c : Cmd) : State :=
  match c.stages with
  | [] => if c.ended then s else s.endCmd c
  | g :: rest =>
    if g.chunks.isEmpty then
      (if rest.isEmpty then { c with stages := [] } |> fun x => (s.updCmd c.id (fun _ => x)).endCmd x
       else s.updCmd c.id (fun (x : Cmd) => { x with stages := rest }))
    else if !g.read then readStage s c g rest
    else advanceStage s c g rest

/-- The address a remote chunk writes. -/
def Chunk.farAddr (k : Chunk) : Nat :=
  match k.out with
  | .write (.remote _ _ o) => o
  | .peer _ va => va
  | _ => 0

/-- A remote write of a command is answered: it lands, or its command has the fault (20 R419). -/
def State.answerChunk (s : State) (cmd off : Nat) (bs : List (Option Byte)) (failed : Option Nat) : State :=
  match s.cmd? cmd with
  | none => s
  | some c =>
    match c.stages with
    | g :: rest =>
      (match g.chunks.find? (fun k => k.sent && k.farAddr == off && k.bytes.map some == bs) with
       | none => s
       | some k =>
         let s := s.updCmd cmd (fun (x : Cmd) => { x with stages := { g with chunks := g.chunks.erase k } :: rest })
         match failed with
         | none => s.landCmd c k.lands
         | some cause => s.updCmd cmd (fun (x : Cmd) => { x with fault := x.fault.or (some (cause, 0, k.farAddr)) }))
    | [] => s

/-! ### Device steps -/

/-- The demand of a PLACE.convert has passed: the command ends (11 R241, 20 R421). -/
def State.endConvert (s : State) (c : Cmd) : State :=
  if c.ended then s
  else if c.fault.isSome then s.endCmd c
  else if s.demands.any (fun d => d.who == Asker.convert c.id && d.granted) then
    ({ s with demands := s.demands.filter (fun d => d.who != Asker.convert c.id) } : State).endCmd c
  else s

/-- ENGINE_LANDING of a command: the next part of its work whose bytes land; of PLACE.convert, its end. -/
def execEngineLanding (cmd : Nat) (s : State) : Host.Outcome State Fault Refusal :=
  device (match s.cmd? cmd with
    | none => s
    | some c =>
      (match c.kind with
       | .copy => advanceCopy s c
       | .convert _ => s.endConvert c
       | _ => s))

/-- ENGINE_COMPLETION_WORD: the word of a command whose last byte is performed is filled or counted down, as a release at system scope (20 R417). -/
def execEngineCompletionWord (cmd : Nat) (s : State) : Host.Outcome State Fault Refusal :=
  device (match s.cmd? cmd with
    | none => s
    | some c =>
      if !c.ended ∨ s.collapsesOf (.engine cmd) then s
      else
        let s := if c.fault.isSome then s.raiseCmd c else s
        let s := match c.target with
          | .fill m => s.fillAt m (some (ofNat64 c.total)) (.engine cmd) c.ctx none
          | .countdown m => s.countdownAt m 1 (.engine cmd) c.ctx c.die none
          | _ => s
        s.removeCmd cmd)

/-- The drop point of an engine command's instruction: every source byte of its commands is read (15 Table 15.3). -/
def dropCmd (r : FibreRef) (op : LongOp) (grp : Nat) (vals : List (Nat × Dword)) (s : State) : State :=
  match s.cmds.find? (fun c => c.grp == grp && c.stages.any (fun g => !g.read)) with
  | none => finishLong r op vals none s
  | some c =>
    match c.stages with
    | g :: rest => if g.read then s else readStage s c g rest
    | [] => s

end Sys2Proof.Machine
end

