-- ==== Sys2Proof/Machine/Image.lean ====
section
/-! DEFINITION. The image of a saved team in memory that no context maps: its sections, header and fibre records (06 R141, R142, Tables 6.3 to 6.5). -/

namespace Sys2Proof.Machine

/-- Where section `i` of an image begins: each begins on a 4,096-byte boundary (06 R141). -/
def Kernel.sectionAt (k : Kernel) (i : Nat) : Nat := ((k.imageSections.take i).map roundPage).foldl (· + ·) 0

/-- The header (06 Table 6.4), as one number. -/
def Team.imageHeader (t : Team) (aclk : Nat) : Nat :=
  1 + t.ctx * 2 ^ 16 + bit t.kernel.mcore * 2 ^ 22 + bit t.forced * 2 ^ 23 + t.member * 2 ^ 24 + t.jobTag.toNat * 2 ^ 32 +
  t.linear * 2 ^ 64 + t.kernel.fibresM1 * 2 ^ 128 + t.kernel.window * 2 ^ 139 + t.kernel.scratchWays * 2 ^ 142 +
  t.kernel.accTiles * 2 ^ 147 + t.kernel.metaUnits * 2 ^ 154 + t.budgetLeft aclk * 2 ^ 176 + min t.slice 65535 * 2 ^ 201 +
  t.fibres.countP Fibre.live * 2 ^ 217 + t.deadline * 2 ^ 256 + t.redirected % 2 ^ 32 * 2 ^ 320

/-- The status of a fibre record, and the address its block names (06 Table 6.5; log entry 91). -/
def Fibre.imageStatus (t : Team) (f : Fibre) : Nat × Nat :=
  match f.status with
  | .notLive => (9, 0)
  | .inBin => (7, 0)
  | .inReorder => (8, 0)
  | .bwait l _ => (1, l.key.2.2)
  | .chanWait l _ _ _ => (1, l.key.2.2)
  | .tagWait va => (2, va)
  | .rendezvous a _ _ => (3, a)
  | .signed c => (4, (t.cv.getD c Conv.idle).at_)
  | .poisoned va => (2, va)
  | .ready => (if f.away.isSome then 6 else if f.handler.isSome then 5 else 0, 0)

/-- A fibre record (06 Table 6.5), as one number; its pc is the header of the clause the fibre stands in. -/
def Fibre.imageRecord (t : Team) (f : Fibre) : Nat :=
  let (st, a) := f.imageStatus t
  let pc := match f.clause with | some c => c.head | none => f.pc.toNat
  pc + st * 2 ^ 52 + f.pred.toNat * 2 ^ 64 + f.srseed.toNat * 2 ^ 96 + f.lk.toNat * 2 ^ 128 + f.csp.toNat * 2 ^ 192 +
  ((List.range 12).map (fun i => f.cf.getD i 0 * 2 ^ (256 + 4 * i))).foldl (· + ·) 0 + f.fmode.toNat * 2 ^ 304 +
  f.fflags.toNat * 2 ^ 320 + a % 2 ^ 52 * 2 ^ 352

/-- Bytes from an offset on, with their places. -/
def cellsAt (off : Nat) (bs : List Byte) : List Host.Cell := (List.range bs.length).zip bs |>.map (fun p => (off + p.1, p.2))

/-- The bytes of an image, by offset. Sections 2 and 3 have a size and no layout (06 R141). -/
def Team.imageCells (t : Team) (aclk : Nat) : List Host.Cell :=
  let k := t.kernel
  let fs := (List.range (k.fibresM1 + 1)).map (fun i => (i, t.fibre? i))
  cellsAt 0 (bytesOfNat 128 (t.imageHeader aclk)) ++
  fs.flatMap (fun p => cellsAt (k.sectionAt 3 + 64 * p.1) (bytesOfNat 64 (match p.2 with | some f => f.imageRecord t | none => 9 * 2 ^ 52))) ++
  fs.flatMap (fun p => cellsAt (k.sectionAt 4 + 8 * k.windowRegs * p.1) ((p.2.elim [] (fun f => f.regs)).flatMap (fun v => bytesOf v 8))) ++
  t.scratch.map (fun c => (k.sectionAt 5 + c.1, c.2)) ++
  t.acc.flatMap (fun c => cellsAt (k.sectionAt 6 + 4 * c.1) (bytesOfNat 4 c.2.toNat)) ++
  t.metaMem.map (fun c => (k.sectionAt 7 + c.1, c.2))

/-- The memory words of an image that are poisoned. -/
def Team.imagePoison (t : Team) : List Nat :=
  let k := t.kernel
  t.scratchPoison.map (fun w => k.sectionAt 5 / 8 + w) ++ t.accPoison.map (fun w => k.sectionAt 6 / 8 + w) ++
  t.metaPoison.map (fun w => k.sectionAt 7 / 8 + w)

/-- The image of a team is written to its slot. -/
def State.writeImage (s : State) (team : Nat) : State :=
  match s.team? team with
  | none => s
  | some t =>
    let lo := t.image.1 * 65536
    let out := fun (a : Nat) => decide (a < lo ∨ lo + t.image.2 * 65536 ≤ a)
    if t.image.2 = 0 then s
    else
      { s with mem := { s.mem with
          cells := (t.imageCells s.aclk).foldl (fun m c => sparsePut 0 m (lo + c.1) c.2) (s.mem.cells.filter (fun c => out c.1))
          poison := t.imagePoison.foldl (fun m w => setInsert m (lo / 8 + w)) (s.mem.poison.filter (fun w => out (8 * w))) } }

end Sys2Proof.Machine
end

