-- ==== Sys2Proof/Machine/Placement.lean ====
section
/-! DEFINITION. PLACE, opcode 0x79 (20 R421): conversions (11 R235, R236, R240, R241), seals (R237, R238), and the device steps SEAL_COMPLETE, SEAL_TIMEOUT, CONVERSION_INPUT and CONVERSION_COMPLETE. -/

namespace Sys2Proof.Machine

/-! ### Seals (11 R238) -/

/-- The ranges of virtual addresses of local slot `l`. -/
def Entry.slotOfMember (e : Entry) (l : Nat) : List (Nat × Nat) :=
  (e.slotBase l, e.slotBase l + up64k e.extent) ::
  (if e.scaled then [(e.slotScale l, e.slotScale l + up64k (e.scaleExtent 64))] else [])

/-- A seal of the member is under way. -/
def State.sealsMember (s : State) (ctx tid member : Nat) : Bool :=
  s.sealing.any (fun x => x.ctx == ctx && x.tid == tid && x.member == member)

/-- A seal starts: from now on every store aimed at the slot is checked. -/
def State.startSeal (s : State) (e : Entry) (x : Sealing) : State :=
  { s with
    sealedRanges := s.sealedRanges ++ (e.slotOfMember x.member).map (fun p => ⟨x.ctx, x.tid, x.member, p.1, p.2⟩)
    sealing := s.sealing ++ [x] }

/-- Some of `n` bytes from a place up lie in a slot. -/
def inSlot (rs : List (Nat × Nat)) (l : Loc) (n : Nat) : Bool :=
  match l with
  | .mem m => rs.any (fun p => decide (p.1 < m.va + n ∧ m.va < p.2))
  | _ => false

/-- A store of the context that passed the check of a slot is still to be performed. -/
def State.slotBusy (s : State) (ctx : Nat) (rs : List (Nat × Nat)) : Bool :=
  s.teams.any (fun t => t.ctx == ctx && t.fibres.any (fun f => f.sq.any (fun op => inSlot rs op.kind.loc op.kind.size))) ||
  s.coh.redfs.any (fun p => p.ctx == ctx && inSlot rs (.mem p.m) 4) ||
  s.cmds.any (fun c => c.ctx == ctx && c.stages.any (fun g => g.chunks.any (fun k =>
    match k.out with
    | .write l => inSlot rs l k.size
    | .nibble l _ => inSlot rs l 1
    | .combine l _ _ => inSlot rs l 4
    | _ => false)))

/-- The seal is complete: the stores it waits for are performed, and the release of its fibre is met. -/
def State.sealReady (s : State) (x : Sealing) : Bool :=
  !s.slotBusy x.ctx ((s.entryOf x.ctx x.tid).slotOfMember x.member) &&
  (match x.who with
   | none => true
   | some r => match s.fibre? r with
     | none => true
     | some f => !f.loadsPending && storesDone s r f 5)

/-- A member's seal is complete: its bit is set; with the last one the generation closes (11 Table 11.5). -/
def State.finishSeal (s : State) (x : Sealing) : State :=
  let s := { s with sealing := s.sealing.erase x }
  let s := s.changeEntry x.ctx x.tid (fun e =>
    let mask := e.sealedMask ||| 2 ^ x.member
    let e := e.put 788 4 mask
    if e.state = 0 ∧ (e.localMembers s.grid).all (fun p => mask.testBit p.1) then (e.put 786 2 1).put 736 32 (e.generation + 1) else e)
  s.serveDemands x.ctx x.tid

def execSealComplete (s : State) : Host.Outcome State Fault Refusal :=
  device (match s.sealing.find? s.sealReady with
    | some x => s.finishSeal x
    | none => s)

/-! ### The forms of PLACE -/

/-- A PLACE form on a valid entry; forms 0 to 2 take no local tensor. -/
def placed (d : BitVec 7) (tid : BitVec 10) (body : FibreRef → Team → Fibre → MemLoc → Entry → State → Act) :
    State → Host.Outcome State Fault Refusal :=
  isa 2 { wr := [d.toNat], near := false, long := true } (fun r t f s =>
    reading [tid.toNat] t f s (match s.validEntry t.ctx f.pc.toNat tid.toNat with
    | .error e => .error (.trap e)
    | .ok (m, e) => if e.naxes = 0 then .error (.trap (invalidRecord 1 (s.entryAddr t.ctx tid.toNat))) else body r t f m e s))

/-- The fibre's PLACE form waits while its tensor converts, its seal timer running (11 R240). -/
def placeWaits (who : Asker) (t : Team) (tid : Nat) (s : State) : Act :=
  .error (.hold (s.addDemand ⟨who, t.ctx, tid, 0, t.residentTime s.aclk, false⟩))

/-- An outstanding PLACE form that is done: its result waits for the drop point. -/
def placeDone (r : FibreRef) (f : Fibre) (d : Nat) (e : Entry) (s : State) : Act :=
  issueLong r f 2 (.value [(d, e.placeResult)] none) [d] [] [] s

/-- The first page of the local slots that an engine may not read and write (04 R95). -/
def slotFault (s : State) (t : Team) (f : Fibre) (e : Entry) : Option Trap :=
  (e.slotRanges s.grid).findSome? (fun p =>
    match enginePlaces s t f .load 0 p.1 p.2, enginePlaces s t f .store 0 p.1 p.2 with
    | .error x, _ => some x
    | _, .error x => some x
    | .ok _, .ok _ => none)

/-- The command of a PLACE.convert; one whose conversion would move data on pages that fail their translation moves none and has the fault. -/
def convertCmd (s : State) (r : FibreRef) (t : Team) (f : Fibre) (e : Entry) (tid dem : Nat) (target : Target) (id : Nat) : Cmd :=
  let bad := if e.asStored dem ∨ (e.state = 1 ∧ e.meets dem) then none else slotFault s t f e
  { Cmd.blank id id r t f 3 with
    kind := .convert tid
    target := target
    total := 64
    fault := bad.map (fun x => (x.cause, x.detail, x.addr)) }

def execPlaceConvert (d c : BitVec 7) (tid : BitVec 10) (dem : BitVec 16) : State → Host.Outcome State Fault Refusal :=
  isa 2 { rd := [c.toNat], wr := [d.toNat], near := false, long := true } (fun r t f s =>
    reading [tid.toNat] t f s (match targetOf s r t f (f.reg c.toNat), s.validEntry t.ctx f.pc.toNat tid.toNat with
    | .error e, _ => .error e
    | _, .error e => .error (.trap e)
    | .ok target, .ok (_, e) =>
      if e.naxes = 0 then .error (.trap (invalidRecord 1 (s.entryAddr t.ctx tid.toNat)))
      else if e.demandBad dem.toNat then .error (.trap .illegal)
      else
        let id := s.nextId
        let ask : Demand := ⟨.convert id, t.ctx, tid.toNat, dem.toNat, t.residentTime s.aclk, false⟩
        let cmd := convertCmd s r t f e tid.toNat dem.toNat target
        match issueCmds r t f 2 [(d.toNat, 64)] (fun id => [cmd id]) s s with
        | .error x => .error x
        | .ok s =>
          if (cmd id).fault.isSome then .ok s
          else
            match s.examine e ask with
            | .passes => .ok (s.addDemand { ask with granted := true })
            | .waits s => .ok s))

def execPlaceSeal (d : BitVec 7) (tid : BitVec 10) (m : BitVec 2) : State → Host.Outcome State Fault Refusal :=
  placed d tid (fun r t f _ e s =>
    if (e.localMembers s.grid).length ≤ m.toNat then .error (.trap (invalidRecord 1 (s.entryAddr t.ctx tid.toNat)))
    else if e.state = 2 then placeWaits (.seal r) t tid.toNat s
    else
      match issueLong r f 2 (.seal t.ctx tid.toNat m.toNat d.toNat) [d.toNat] [] [] (s.dropDemand (.seal r)) with
      | .error e => .error e
      | .ok s =>
        if e.state = 1 ∨ e.sealedMask.testBit m.toNat ∨ s.sealsMember t.ctx tid.toNat m.toNat then .ok s
        else .ok (s.startSeal e ⟨t.ctx, tid.toNat, m.toNat, some r, none⟩))

/-- PLACE.unseal of a sealed tensor: open again, no member sealed, the slots writable. -/
def Entry.unsealed (e : Entry) : Entry := (e.put 786 2 0).put 788 4 0

def execPlaceUnseal (d : BitVec 7) (tid : BitVec 10) : State → Host.Outcome State Fault Refusal :=
  placed d tid (fun r t f m e s =>
    if e.state = 2 then placeWaits (.unseal r) t tid.toNat s
    else
      let s := s.dropDemand (.unseal r)
      if e.state = 0 then placeDone r f d.toNat e s
      else
        match placeDone r f d.toNat e.unsealed s with
        | .error x => .error x
        | .ok s =>
          let s := { s with sealedRanges := s.sealedRanges.filter (fun x => !(x.ctx == t.ctx && x.tid == tid.toNat)) }
          .ok (s.writeEntry m e.unsealed (.engine 0) t.ctx))

def execPlaceQuery (d : BitVec 7) (tid : BitVec 10) : State → Host.Outcome State Fault Refusal :=
  isa 2 { wr := [d.toNat], near := false, long := true } (fun r t f s =>
    reading [tid.toNat] t f s (match s.validEntry t.ctx f.pc.toNat tid.toNat with
    | .error e => .error (.trap e)
    | .ok (_, e) => placeDone r f d.toNat e s))

/-- The fibre as it was at a place of its program order: the later operations left out. -/
def Fibre.upTo (f : Fibre) (seq : Nat) : Fibre := { f.queueBefore seq with ll := f.ll.filter (fun o => decide (o.seq < seq)) }

/-- The drop point of PLACE.seal: the completion of the seal, and the release at system scope that the instruction is, also on a member already sealed or being sealed by another fibre (09 R206). -/
def dropSeal (r : FibreRef) (op : LongOp) (ctx tid member d : Nat) (s : State) : State :=
  let released := match s.fibre? r with
    | some f => !(f.upTo op.seq).loadsPending && storesDone s r (f.upTo op.seq) 5
    | none => true
  if s.sealsMember ctx tid member || !released then s
  else finishLong r op [(d, (s.entryOf ctx tid).placeResult)] none s

/-! ### What a conversion moves (11 R233, R235) -/

/-- The local slot of a tuple of coordinates. -/
def Entry.slotOfCoords (e : Entry) (cs : List Nat) : Nat :=
  match (e.axes.zip cs).find? (fun p => axKind p.1 == 1) with
  | some p => p.2
  | none => 0

/-- This device's coordinate on an axis of kind 2. -/
def ownCoord (grid : Dword) (x : Nat) : Nat := gridCoord grid (axGrid x) - axOrigin x

/-- The member of an axis that holds an index. -/
def holderOn (e : Entry) (x : Nat) (ix : Index) : Nat :=
  ((List.range (axSize x)).find? (fun c => axHolds e x c ix)).getD 0

/-- A part of a slot inside one page: its bytes and whether a word of it is poisoned. -/
def convPart (s : State) (ctx : Nat) (p : Nat × Nat) : Option (List Byte × Bool) :=
  match translate s ctx 8 0 p.1 .load true with
  | .ok l =>
    (match l.loc p.1 with
     | .mem m => some (s.physBytes m.pa p.2, (wordParts (.mem m) p.2).any (fun q => s.poisonedAt q.1))
     | _ => none)
  | _ => none

/-- Bytes of a slot as a conversion reads them; none while a page cannot be read. -/
def convRead (s : State) (ctx a n : Nat) : Option (List Byte × Bool) :=
  ((pageParts 0 a n).mapM (convPart s ctx)).map (fun ps => (ps.flatMap (fun p => p.1), ps.any (fun p => p.2)))

/-- Bytes of an input by virtual address. -/
def inputBytes (cells : List Host.Cell) (a n : Nat) : Option (List Byte) :=
  (List.range n).mapM (fun i => (cells.find? (fun c => c.1 == a + i)).map (fun c => c.2))

/-- Values combined in ascending coordinate (11 R236); bf16 sums are kept in f32 and rounded once, and a NaN is the canonical one also where there is nothing to combine it with (13 R258). -/
def combineCodes (fmt op : Nat) (vs : List Nat) : Nat :=
  match vs with
  | [] => 0
  | v :: rest =>
    if fmt = 2 ∧ op = 0 then
      bf16.nearest (fp32.decode (rest.foldl (fun a x => reduceApply 1 0 a (x * 2 ^ 16)) (v * 2 ^ 16)))
    else
      let ft := if fmt = 9 then 0 else if fmt = 0 then 1 else 2
      let fm := if ft = 1 then fp32 else bf16
      rest.foldl (fun a x => reduceApply ft op a x) (if ft = 0 then v else fm.nearest (fm.decode v))

/-- The index of a unit in the vector of a reduction round: the local members in order, dimension 0 innermost. -/
def Entry.vectorIndex (e : Entry) (grid : Dword) (u : ConvUnit) (cs : List Nat) : Nat :=
  (e.localMembers grid).findIdx (fun p => p.2 == cs) * e.elemUnits.length + e.elemUnits.findIdx (fun x => x == u)

/-- Where element `i` of a round's vector stands: `i` elements after the range that the device's open names (02 R57 item 4). -/
def Entry.resultAt (e : Entry) (i n : Nat) : Nat := e.slotBase 0 + i * n

/-- The bytes of a unit at a member after the steps of the first axes, and whether they carry poison of this device's slots; none while an input or a page is missing. A scale byte is never combined. -/
def convValue (s : State) (c : ConvRun) (e : Entry) (u : ConvUnit) : Nat → List Nat → Option (List Byte × Bool)
  | 0, cs => convRead s c.ctx (u.at_ e (e.slotOfCoords cs)) u.len
  | a + 1, cs =>
    let x := e.axis a
    let input := fun (place : Entry → Nat) (k : Nat) => (c.inputs.find? (fun i => i.axis == a && i.coord == k)).bind (fun i =>
      (inputBytes i.cells (place e) u.len).map (fun (b : List Byte) => (b, false)))
    match e.stepKind c.demand a with
    | .none => convValue s c e u a cs
    | .gather =>
      let h := holderOn e x u.ix
      if axKind x = 1 then convValue s c e u a (cs.set a h)
      else if h = ownCoord s.grid x then convValue s c e u a cs
      else input (fun i => u.at_ i (e.slotOfCoords cs)) h
    | .reduce =>
      if u.scale then convValue s c e u a cs
      else if axKind x = 1 then
        ((List.range (axSize x)).mapM (fun k => convValue s c e u a (cs.set a k))).map (fun vs =>
          (bytesOfNat u.len (combineCodes e.fmt (axOp x) (vs.map (fun v => natOfBytes v.1))), vs.any (fun v => v.2)))
      else
        (convValue s c e u a cs).bind (fun own =>
          (input (fun _ => e.resultAt (e.vectorIndex s.grid u cs) u.len) 0).map (fun v => (v.1, own.2)))

/-! ### Progress of a conversion -/

/-- The writes of a conversion: address, bytes, nibble, poison; none while something is missing. -/
def convPlan (s : State) (c : ConvRun) (e : Entry) : Option (List (Nat × List Byte × Option Bool × Bool)) :=
  (((e.localMembers s.grid).flatMap (fun p => (e.convUnits.filter (fun u => convWrites c e u p.2)).map (fun u => (p, u)))).mapM (fun (q : (Nat × List Nat) × ConvUnit) =>
    ((convValue s c e q.2 e.naxes q.1.2).map (fun (v : List Byte × Bool) => (q.2.at_ e q.1.1, v.1, q.2.half, v.2)))))

/-- One write of a conversion, exempt from the seals (11 R238). -/
def convWrite (s : State) (ctx : Nat) (w : Nat × List Byte × Option Bool × Bool) : State :=
  ((pageParts 0 w.1 w.2.1.length).foldl (fun (a : State × List Byte) p =>
    match translate a.1 ctx 8 0 p.1 .store true with
    | .ok l =>
      (match l.loc p.1 with
       | .mem m =>
         let old := a.1.physBytes m.pa p.2
         let new := match w.2.2.1 with
           | some h => (old.zip a.2).map (fun (q : Byte × Byte) => withNibble q.1 h (nibbleOf q.2 h))
           | none => a.2.take p.2
         let s := a.1.modifyHome m (new.map some) (.engine 0) ctx none
         (if w.2.2.2 then s.poisonBytes (.mem m) (List.range p.2) else s, a.2.drop p.2)
       | _ => (a.1, a.2.drop p.2))
    | _ => (a.1, a.2.drop p.2)) (s, w.2.1)).1

/-- Every slot a conversion writes can be written: no other command owns a line of it. -/
def convWritable (s : State) (ctx tid : Nat) (ws : List (Nat × List Byte × Option Bool × Bool)) : Bool :=
  ws.all (fun w => (pageParts 0 w.1 w.2.1.length).all (fun p =>
    match translate s ctx 8 0 p.1 .store true with
    | .ok l => (match l.loc p.1 with
      | .mem m => (m.lines p.2).all (fun line => (s.ownerOf line).all (fun o => (s.convertsAt ctx tid).contains o))
      | _ => false)
    | _ => false))

/-- The placement fields after a conversion: an axis that a step changed has the demanded placement. -/
def Entry.demanded (e : Entry) (d : Nat) : Entry :=
  (List.range e.naxes).foldl (fun (e : Entry) a =>
    let x := e.axis a
    if axMeets x d a then e
    else
      let lo := 864 + 48 * a
      let e := (e.put (lo + 14) 2 0).put (lo + 9) 2 (demandCode d a)
      e.put (lo + 11) 3 (if demandCode d a = 2 then demandDim d a else 0)) e

/-- The completion word that the record of an open names, if it names one (02 Table 2.12): filled with the round, or counted down by 1 for each part (05 R122), now that the parts' elements are performed. -/
def State.collectiveWord (s : State) (record : Nat) (rounds : List Nat) : State :=
  let ctx := bitsOf record 176 6
  let va := bitsOf record 320 52
  match bitsOf record 372 2, translate s ctx 8 0 va .store false with
  | kind, .ok l =>
    (match l.loc va with
     | .mem m =>
       if va = 0 ∨ !l.tagged then s
       else if kind = 1 then rounds.head?.elim s (fun n => s.fillAt m (some (BitVec.ofNat 64 n)) .other ctx none)
       else if kind = 2 then rounds.foldl (fun s _ => s.countdownAt m 1 .other ctx (homeDie (lineOf m.pa)) none) s
       else s
     | _ => s)
  | _, _ => s

/-- The completion words of a conversion's collectives. -/
def State.collectiveWords (s : State) (c : ConvRun) : State :=
  (s.opened.filter (fun o => o.ctx == c.ctx && o.tid == c.tid && !c.parts.isEmpty)).foldl (fun s o =>
    s.collectiveWord (natOfBytes o.record) c.parts) s

/-- The conversion is complete (11 R241): the elements of every part performed at their places in the slots, the words of its collectives acted on (02 R57 item 4), generation + 1, the demanded placement, sealed again. -/
def State.finishConversion (s : State) (c : ConvRun) (e : Entry) (ws : List (Nat × List Byte × Option Bool × Bool)) : State :=
  let s := (ws.foldl (fun s w => convWrite s c.ctx w) s).collectiveWords c
  let s := { s.releaseSlots c.ctx c.tid with convs := s.convs.filter (fun x => !(x.ctx == c.ctx && x.tid == c.tid)) }
  let s := s.changeEntry c.ctx c.tid (fun _ => ((e.demanded c.demand).put 786 2 1).put 736 32 (e.generation + 1))
  (s.count c.ctx 0x50 1).serveDemands c.ctx c.tid

/-- A conversion is abandoned: no slot changed, the tensor sealed as it was (11 Table 11.5). -/
def State.abandonConversion (s : State) (ctx tid : Nat) : State :=
  let s := { s.releaseSlots ctx tid with
    convs := s.convs.filter (fun x => !(x.ctx == ctx && x.tid == tid))
    remote := s.remote.filter (fun o => o.who != RemoteWho.conv ctx tid)
    contribs := s.contribs.filter (fun o => !(o.ctx == ctx && o.tid == tid)) }
  s.changeEntry ctx tid (fun e => e.put 786 2 1)

/-- The fault of one asker whose demand fails (11 R240): a TLD, seal or unseal traps at its instruction, PLACE.convert completes with the fault. -/
def State.failAsker (s : State) (d : Demand) (cause : Nat) : State :=
  let a := s.entryAddr d.ctx d.tid
  let s := s.dropDemand d.who
  match d.who with
  | .tld r => (s.count d.ctx 0x51 1).raiseAt r (mkTrap 0x15 0 a) [] 0
  | .seal r => (s.count d.ctx 0x51 1).raiseAt r (mkTrap 0x15 0 a) [] 0
  | .unseal r => (s.count d.ctx 0x51 1).raiseAt r (mkTrap 0x15 0 a) [] 0
  | .convert id =>
    let s := if cause = 0x15 then s.count d.ctx 0x51 1 else s
    (match s.cmd? id with
     | some c => s.updCmd id (fun x => { x with fault := some (cause, 0, a) }) |> fun s => s.endCmd { c with fault := some (cause, 0, a) }
     | none => s)
  | .node _ _ => s

/-- A conversion fails: every demand it was to meet fails with it, and the others are looked at again. -/
def State.failConversion (s : State) (ctx tid cause : Nat) : State :=
  match s.convOf ctx tid with
  | none => s
  | some c =>
    let hit := s.demands.filter (fun d => d.ctx == ctx && d.tid == tid && d.who.demands && d.demand == c.demand)
    let s := s.abandonConversion ctx tid
    (hit.foldl (fun s d => s.failAsker d cause) s).serveDemands ctx tid

/-- The grid coordinate of the member at coordinate `k` of an axis. -/
def gridOf (grid : Dword) (x k : Nat) : Nat :=
  let g := axGrid x
  grid.toNat % 2 ^ 48 - gridCoord grid g * 2 ^ (16 * g) + (axOrigin x + k) * 2 ^ (16 * g)

/-- The writes of a gather toward the other members of an axis: what this device holds, in every local slot. -/
def gatherSends (s : State) (c : ConvRun) (e : Entry) (a : Nat) : Option (List (Nat × Nat × List Byte)) :=
  let x := e.axis a
  let own := ownCoord s.grid x
  let mine := (e.localMembers s.grid).flatMap (fun p => (e.convUnits.filter (fun u => holderOn e x u.ix == own)).map (fun u => (p, u)))
  (mine.mapM (fun (q : (Nat × List Nat) × ConvUnit) => (convValue s c e q.2 a q.1.2).map (fun (v : List Byte × Bool) => (q.2.at_ e q.1.1, v.1)))).map (fun ws =>
    ((List.range (axSize x)).filter (fun k => k != own)).flatMap (fun k => ws.map (fun w => (gridOf s.grid x k, w.1, w.2))))

/-- Elements of a round of a reduction step: the local members in order, dimension 0 innermost. -/
def reduceVector (s : State) (c : ConvRun) (e : Entry) (a : Nat) : Option (List Nat) :=
  ((e.localMembers s.grid).flatMap (fun p => e.elemUnits.map (fun u => (p, u)))).mapM (fun q =>
    (convValue s c e q.2 a q.1.2).map (fun v => natOfBytes v.1))

/-- Pieces of a vector with the index of each piece's first element. -/
def vectorChunks (per : Nat) (vs : List Nat) : List (Nat × List Nat) :=
  (List.range ((vs.length + per - 1) / per)).map (fun i => (i * per, (vs.drop (i * per)).take per))

/-- The open record of a step's collective (02 Table 2.12): the result comes back to this device, for the step that waits; a completion word is not needed for it (log entry 90). -/
def openRecord (ncontrib op fmt tc count coord ctx range : Nat) : List Byte :=
  bytesOfNat 64 (ncontrib + op * 2 ^ 16 + fmt * 2 ^ 20 + tc * 2 ^ 24 + count * 2 ^ 32 + coord * 2 ^ 128 + ctx * 2 ^ 176 +
    range * 2 ^ 192 + count * 2 ^ 288)

/-- Element format code of a contribution (02 Table 2.9). -/
def contribFmt (fmt : Nat) : Nat := if fmt = 0 then 0 else if fmt = 2 then 1 else 2

/-- The team whose residence an asker's timer runs in. -/
def State.askerTeam (s : State) (a : Asker) : Option Team :=
  match a with
  | .tld r => s.team? r.team
  | .seal r => s.team? r.team
  | .unseal r => s.team? r.team
  | .convert id => (s.cmd? id).bind (fun c => s.team? c.who.team)
  | .node _ _ => none

/-- The traffic class of a conversion's transactions: the class of the slice whose TLD or PLACE.convert it serves (02 R45). -/
def State.convClass (s : State) (c : ConvRun) : Nat :=
  match s.demands.find? (fun d => d.ctx == c.ctx && d.tid == c.tid && d.demand == c.demand && d.who.demands) with
  | some d => (s.askerTeam d.who).elim 3 (fun t => t.cls)
  | none => 3

/-- This device's own data of a step on an axis of kind 2 goes out (11 R235); with no reducer for the mesh a reduction fails. -/
def sendStep (s : State) (c : ConvRun) (e : Entry) (a : Nat) : State :=
  let sent := fun (s : State) => { s with convs := s.convs.map (fun (x : ConvRun) =>
    if x.ctx == c.ctx && x.tid == c.tid then { x with sent := true } else x) }
  let x := e.axis a
  match e.stepKind c.demand a with
  | .none => s
  | .gather =>
    (match gatherSends s c e a with
     | none => s
     | some ws => sent (ws.foldl (fun s w =>
         { s with
           remote := s.remote ++ [⟨s.nextId, false, some w.1, c.ctx, none, w.2.1, .write (w.2.2.map some), .conv c.ctx c.tid, none, false, s.aclk, 0, none, 0, 0⟩]
           nextId := s.nextId + 1 }) s))
  | .reduce =>
    (match reduceVector s c e a, s.reducers.find? (fun p => p.1 == e.meshId) with
     | _, none => s.failConversion c.ctx c.tid 0x1B
     | none, _ => s
     | some vs, some (_, dst) =>
       let coll := e.meshId * 65536 + c.tid
       let per := if e.fmt = 2 then 2048 else 1024
       let fmt := contribFmt e.fmt
       let new := (vectorChunks per vs).map (fun p =>
         (⟨coll, (e.generation + 1) % 2 ^ 32, ownCoord s.grid x, axExtent x, axOp x, fmt, p.1, p.2, c.ctx, c.tid, dst, false, s.aclk, 0⟩ : Contribution))
       let s := if s.opened.any (fun o => o.coll == coll && !o.closing) then s else { s with opened := s.opened ++ [{
         coll := coll, contrib := ownCoord s.grid x, ctx := c.ctx, tid := c.tid, dst := dst
         record := openRecord (axExtent x) (axOp x) fmt (s.convClass c) vs.length (bitsOf s.grid.toNat 0 48) c.ctx (e.resultAt 0 0)
         acked := false, closing := false, inFlight := false, since := s.aclk, sends := 0 }] }
       sent { s with contribs := s.contribs ++ new })

/-- The step of an axis has every input it needs. -/
def stepReady (s : State) (c : ConvRun) (e : Entry) (a : Nat) : Bool :=
  ((e.localMembers s.grid).flatMap (fun p => e.convUnits.map (fun u => (p, u)))).all (fun q =>
    (convValue s c e q.2 (a + 1) q.1.2).isSome)

/-- One step forward of a conversion: the next axis, this device's data of an axis of kind 2, or the writes and the end. -/
def advanceConversion (s : State) (c : ConvRun) : State :=
  let e := s.entryOf c.ctx c.tid
  if e.naxes ≤ c.axis then
    match convPlan s c e with
    | none => s
    | some ws => if convWritable s c.ctx c.tid ws then s.finishConversion c e ws else s
  else if axKind (e.axis c.axis) = 2 ∧ e.stepKind c.demand c.axis ≠ .none ∧ !c.sent then sendStep s c e c.axis
  else if stepReady s c e c.axis ∧ !s.remote.any (fun o => o.who == RemoteWho.conv c.ctx c.tid) then
    { s with convs := s.convs.map (fun (x : ConvRun) =>
      if x == c then { x with axis := x.axis + 1, sent := false, since := s.aclk } else x) }
  else s

/-- CONVERSION_COMPLETE of the conversion on a tensor: it goes on by one step, and the last one completes it; with none under way the tensor's controller serves the demands that wait (11 R239). -/
def execConversionComplete (ctx tid : Nat) (s : State) : Host.Outcome State Fault Refusal :=
  device (match s.convOf ctx tid with
    | some c => advanceConversion s c
    | none => s.serveDemands ctx tid)

/-- CONVERSION_INPUT: what the member at a coordinate of an axis wrote, or the result of the axis's reduction (coordinate 0), by virtual address; without a conversion that awaits it, it is discarded. -/
def State.convInput (s : State) (ctx tid axis coord : Nat) (cells : List (Nat × BitVec 8)) : State :=
  { s with convs := s.convs.map (fun (c : ConvRun) =>
    if c.ctx == ctx && c.tid == tid && decide (c.axis ≤ axis) then
      (match c.inputs.find? (fun i => i.axis == axis && i.coord == coord) with
       | some i => { c with inputs := { i with cells := i.cells ++ cells } :: c.inputs.erase i }
       | none => { c with inputs := c.inputs ++ [⟨axis, coord, cells⟩] })
    else c) }

def execConversionInput (ctx tid axis coord : Nat) (cells : List (Nat × BitVec 8)) (s : State) : Host.Outcome State Fault Refusal :=
  device (s.convInput ctx tid axis coord cells)

/-! ### The seal time-out (11 R240) -/

/-- An asker's timer has run out. -/
def State.askerDue (s : State) (d : Demand) : Bool :=
  let limit := (s.entryOf d.ctx d.tid).sealTimeout * 4096
  !d.granted && (match d.who with
    | .node _ _ => decide (d.since + limit ≤ s.aclk)
    | a => (s.askerTeam a).any (fun t => t.resident && decide (d.since + limit ≤ t.residentTime s.aclk)))

/-- A step of a conversion on an axis of kind 2 has waited too long, since it began, for its last peer data or result. -/
def State.stepDue (s : State) (c : ConvRun) : Bool :=
  let e := s.entryOf c.ctx c.tid
  decide (c.axis < e.naxes) && axKind (e.axis c.axis) == 2 && e.stepKind c.demand c.axis != .none &&
    decide (c.since + e.sealTimeout * 4096 ≤ s.aclk) && !stepReady s c e c.axis

/-- A node's seals end with its instance (05 R120). -/
def State.failNode (s : State) (inst node ctx cause : Nat) : State :=
  let s := { s with
    sealing := s.sealing.filter (fun x => x.node != some (inst, node))
    demands := s.demands.filter (fun d => d.who != Asker.node inst node) }
  s.endInstance inst ctx 2 cause 0 false

/-- SEAL_TIMEOUT of the first timer that has run out. -/
def execSealTimeout (s : State) : Host.Outcome State Fault Refusal :=
  device (match s.demands.find? s.askerDue with
    | some d =>
      (match d.who with
       | .node i n => (s.count d.ctx 0x51 1).failNode i n d.ctx 0x15
       | _ =>
         let serves := d.who.demands && (s.convOf d.ctx d.tid).any (fun c => c.demand == d.demand)
         let s := s.failAsker d 0x15
         if serves then (s.abandonConversion d.ctx d.tid).serveDemands d.ctx d.tid else s)
    | none =>
      match s.convs.find? s.stepDue with
      | some c => s.failConversion c.ctx c.tid 0x15
      | none => s)

end Sys2Proof.Machine
end

