-- ==== Sys2Proof/Machine/Search.lean ====
section
/-! DEFINITION. SRCH, IXCOMMIT and IXVER, opcode 0x7A (20 R422 to R426): index descriptors and distances (10 R207 to R211), scans and their device steps (R214 to R219), walks (R221), heap lists (20 R425). -/

namespace Sys2Proof.Machine

/-! ### Index descriptors and records (10 R209, R210) -/


def ixVersion (d : Nat) : Nat := bitsOf d 0 32
def ixMetric (d : Nat) : Nat := bitsOf d 32 2
def ixFmt (d : Nat) : Nat := bitsOf d 36 3
def ixDim (d : Nat) : Nat := bitsOf d 40 13
def ixBase (d k : Nat) : Nat := bitsOf d (128 * k + 128) 52
def ixNrec (d k : Nat) : Nat := bitsOf d (128 * k + 192) 32

/-- The dimension is one that Table 10.1 allows for the format. -/
def ixDimOk (fmt d : Nat) : Bool :=
  match fmt with
  | 2 => d % 2 == 0 && decide (2 ≤ d ∧ d ≤ 4096)
  | 3 => d % 32 == 0 && decide (32 ≤ d ∧ d ≤ 4096)
  | 5 => d % 8 == 0 && decide (8 ≤ d ∧ d ≤ 4096)
  | _ => decide (1 ≤ d ∧ d ≤ 4096)

/-- A descriptor that breaks 10 R209: a reserved field, a pair of metric and format, the dimension, or the alignment of a shard's first record. -/
def ixBad (d : Nat) : Bool :=
  bitsOf d 34 2 != 0 || bitsOf d 39 1 != 0 || bitsOf d 53 75 != 0 || bitsOf d 1152 896 != 0 ||
  (List.range 8).any (fun k => bitsOf d (128 * k + 180) 12 != 0 || bitsOf d (128 * k + 224) 32 != 0 || ixBase d k % 32 != 0) ||
  decide (5 < ixFmt d) || (ixFmt d == 5 && ixMetric d != 2) || (ixFmt d != 5 && decide (1 < ixMetric d)) ||
  !ixDimOk (ixFmt d) (ixDim d)

/-- Bytes of a vector (10 Table 10.1). -/
def vectorBytes (fmt d : Nat) : Nat :=
  match fmt with
  | 2 => d / 2
  | 3 => 18 * d / 32
  | 4 => 2 * d
  | 5 => d / 8
  | _ => d

/-- Bytes from one record to the next (10 R210). -/
def recordStride (x : Nat) : Nat := (16 + vectorBytes (ixFmt x) (ixDim x) + 31) / 32 * 32

/-! ### Distances (10 R208) -/

/-- The elements of an O4 vector, block by block; none when a block is malformed. -/
def o4Vector (bs : List Byte) (blocks : Nat) : Option (List FVal) :=
  ((List.range blocks).mapM (fun b =>
    let v := natOfBytes ((bs.drop (18 * b)).take 18)
    (o4Decode v).map (fun es =>
      match scaleExp (o4Scale v) with
      | some g => es.map (fun e => e.val.scale g)
      | none => List.replicate 32 (FVal.nan false)))).map List.flatten

/-- The elements of a vector of an index format. -/
def vectorVals (fmt d : Nat) (bs : List Byte) : Option (List FVal) :=
  let at_ := fun (i n : Nat) => natOfBytes ((bs.drop i).take n)
  match fmt with
  | 0 => some ((List.range d).map (fun i => e4m3.decode (at_ i 1)))
  | 1 => some ((List.range d).map (fun i => FVal.ofInt (signedOf 8 (at_ i 1))))
  | 2 => some ((List.range d).map (fun i => FVal.ofInt (signedOf 4 (at_ (i / 2) 1 / 2 ^ (4 * (i % 2)) % 16))))
  | 3 => o4Vector bs (d / 32)
  | 4 => some ((List.range d).map (fun i => bf16.decode (at_ (2 * i) 2)))
  | _ => some ((List.range d).map (fun i => FVal.ofInt (at_ (i / 8) 1 / 2 ^ (i % 8) % 2)))

/-- The terms whose sum is the distance. -/
def distanceTerms (metric : Nat) (qs xs : List FVal) : List FVal :=
  (qs.zip xs).map (fun p =>
    let diff := sumVals false [p.1, p.2.negate]
    if metric = 1 then (p.1.mul p.2).negate else diff.mul diff)

/-- The distance as an f32 code; a zero distance is +0; none when a vector is malformed. -/
def distance (fmt metric d : Nat) (q x : List Byte) : Option Nat :=
  match vectorVals fmt d q, vectorVals fmt d x with
  | some qs, some xs =>
    (match sumVals false (distanceTerms metric qs xs) with
     | .nan _ => some 0x7FC00000
     | .num _ 0 _ => some 0
     | v => some (fp32.nearest v))
  | _, _ => none

/-! ### The order of candidates (10 R216) -/

/-- A pair stands before another: by distance, NaN after every number and −0 equal to +0, then by id. -/
def Pair.before (a b : Pair) : Bool :=
  let x := fp32.decode a.dist
  let y := fp32.decode b.dist
  if x.isNan && y.isNan then decide (a.id < b.id)
  else if x.isNan then false
  else if y.isNan then true
  else
    match x.compare? y with
    | some .lt => true
    | some .gt => false
    | _ => decide (a.id < b.id)

/-- Insert a pair in order. -/
def insertPair (p : Pair) : List Pair → List Pair
  | [] => [p]
  | q :: qs => if p.before q then p :: q :: qs else q :: insertPair p qs

/-- Every id kept once, at its first position. -/
def dedupe : List Pair → List Nat → List Pair
  | [], _ => []
  | p :: ps, seen => if seen.contains p.id then dedupe ps seen else p :: dedupe ps (p.id :: seen)

/-- The best `k` of some pairs. -/
def bestPairs (k : Nat) (ps : List Pair) : List Pair :=
  (dedupe (ps.foldl (fun a p => insertPair p a) []) []).take k

/-- The padding entry of a list. -/
def noPair : Pair := ⟨0x7FC00000, 2 ^ 64 - 1⟩

/-- A list of `k` entries of 16 bytes (02 R49). -/
def pairBytes (k : Nat) (ps : List Pair) : List Byte :=
  ((ps ++ List.replicate (k - ps.length) noPair).take k).flatMap (fun p => bytesOfNat 8 p.dist ++ bytesOfNat 8 p.id)

/-! ### Reading records -/

/-- The places of a record, all of class HBM on a stack (any stack with none); none when it breaks 10 R210. -/
def recordLocs (s : State) (ctx die va n : Nat) (stack : Option Nat) : Option (List (Loc × Nat)) :=
  (pageParts 0 va n).mapM (fun p =>
    match translate s ctx die 0 p.1 .load true with
    | .ok l =>
      if l.cls = 0 ∧ stack.all (fun k => stackOf (l.place p.1) == k) then some (l.loc p.1, p.2) else none
    | _ => none)

/-- The lines of memory that some places lie in, each once, in order. -/
def linesAt (ls : List (Loc × Nat)) : List Nat :=
  (ls.flatMap (fun p => (wordParts p.1 p.2).filterMap (fun q =>
    match q.1 with | .mem m => some (lineOf m.pa) | _ => none))).foldl setInsert []

/-- A search die is about to read some places from its banks: every registration of their lines is recalled, and their dirty sectors are written back (10 R215). -/
def State.recallSpan (s : State) (ls : List (Loc × Nat)) : State := (linesAt ls).foldl State.settleLine s

/-- An engine command owns a line of the places. -/
def State.spanOwned (s : State) (ls : List (Loc × Nat)) : Bool := (linesAt ls).any (fun l => s.owned.any (fun p => p.1 == l))

/-- Bytes at places at home, and whether a 32-byte sector of them is poisoned. -/
def homeSpan (s : State) (ls : List (Loc × Nat)) : List Byte × Bool :=
  (ls.flatMap (fun p => s.homeBytes p.1 p.2), ls.any (fun p => (wordParts p.1 p.2).any (fun q => s.poisonedAt q.1)))

/-- How one record comes out in a scan with a snapshot. -/
inductive Candidate where
  | hidden
  | pair (p : Pair)
  /-- Excluded, with the cause it reports. -/
  | bad (cause : Nat)
  deriving DecidableEq, Repr

/-- One record of a scan (10 R208, R211, R217): a poisoned sector is reported whether or not the record is visible; a page that a shoot-down has taken from the scan is not read (04 R99). -/
def candidate (s : State) (c : Cmd) (desc snap va stack : Nat) (query : Option (List Byte)) : Candidate :=
  match recordLocs s c.ctx c.die va (recordStride desc) (some stack), meetsPages c.lost va (recordStride desc) with
  | none, _ => .bad 0x03
  | _, true => .bad 0x03
  | some ls, false =>
    let (bs, bad) := homeSpan s ls
    let ins := natOfBytes ((bs.drop 8).take 4)
    let del := natOfBytes ((bs.drop 12).take 4)
    if bad then .bad 0x12
    else if snap < ins ∨ del ≤ snap then .hidden
    else
      match query with
      | none => .hidden
      | some q =>
        match distance (ixFmt desc) (ixMetric desc) (ixDim desc) q (bs.drop 16) with
        | some x => .pair ⟨x, natOfBytes (bs.take 8)⟩
        | none => .bad 0x10

/-! ### SRCH.scan (20 R422) -/

/-- The two lines of a descriptor. -/
def descSpan (m : MemLoc) : List (Loc × Nat) := [(.mem m, 256)]

/-- The descriptor's place: 256-byte aligned, of class HBM or second tier. -/
def descPlace (s : State) (r : FibreRef) (t : Team) (f : Fibre) (k : AccKind) (va : Nat) : Except Stop MemLoc :=
  match place s r t f k 0 va 8 256 with
  | .error e => .error e
  | .ok (.mem m) => if m.cls ≤ 1 then .ok m else .error (.trap (.denied va))
  | .ok _ => .error (.trap (.denied va))

/-- The descriptor's bits at its home, and whether a word of them is poisoned. -/
def readDesc (s : State) (m : MemLoc) : Nat × Bool :=
  (natOfBytes (s.physBytes m.pa 256), (List.range 32).any (fun i => s.mem.poison.contains (wordOf m.pa + i)))

/-- Named stacks of a mask, and those with a shard. -/
def maskStacks (mask : Nat) : List Nat := (List.range 8).filter (fun k => mask.testBit k)

/-- Commands in the queue of a stack. -/
def State.scanQueue (s : State) (stack : Nat) : Nat :=
  s.cmds.countP (fun c => match c.kind with
    | .scan _ _ _ _ _ _ ps => ps.any (fun p => p.stack == stack && p.phase == .queued)
    | _ => false)

/-- Bytes of the query, its sectors all clean; past the allocation there are none. -/
def readQuery (s : State) (t : Team) (f : Fibre) (off n : Nat) : Except Trap (List Byte × Bool) :=
  match scratchPlace t f off n with
  | .error e => .error e
  | .ok l => .ok (homeSpan s [(l, n)])

/-- A register that holds a scratchpad offset: bits 63 to 24 are 0. -/
def scratchOffset (v : Dword) : Except Trap Nat :=
  if 2 ^ 24 ≤ v.toNat then .error (.extent (v.toNat % 2 ^ 52)) else .ok v.toNat

/-- The first page of the named shards that fails its translation (04 R95) or is not of class HBM on its stack (10 R210), as a fault. -/
def shardFault (s : State) (ctx die desc : Nat) (ks : List Nat) : Option Trap :=
  ks.findSome? (fun k =>
    let base := ixBase desc k
    let len := ixNrec desc k * recordStride desc
    (List.range (len / 65536 + 2)).findSome? (fun i =>
      let va := max base (base / 65536 * 65536 + 65536 * i)
      if va < base + len then
        (match recordLocs s ctx die va 1 (some k), translate s ctx die 0 va .load true with
         | some _, _ => none
         | none, .trap t => some t
         | none, .nonres => some (mkTrap 0x04 0 va)
         | none, .ok _ => some (.denied va))
      else none))

/-- The command of a scan. -/
def scanCmd (s : State) (r : FibreRef) (t : Team) (f : Fibre) (m : MemLoc) (va mask k off res : Nat) (target : Target) (id : Nat) : Cmd :=
  let (d, bad) := readDesc s m
  let c := { Cmd.blank id id r t f 4 with target := target }
  if bad then { c with total := 16 * k * (maskStacks mask).length, fault := some (0x12, 0, va) }
  else if ixBad d then { c with total := 16 * k * (maskStacks mask).length, fault := some (0x18, 4, va) }
  else
    let named := (maskStacks mask).filter (fun x => ixNrec d x != 0)
    let c := { c with total := 16 * k * named.length }
    match readQuery s t f off (vectorBytes (ixFmt d) (ixDim d)), scratchPlace t f res (16 * k * named.length) with
    | .error _, _ => { c with fault := some (0x03, 0, off) }
    | _, .error _ => { c with fault := some (0x03, 0, res) }
    | .ok (q, bad), .ok l =>
      match shardFault s t.ctx (dieOf t f) d named with
      | some x => { c with fault := some (x.cause, x.detail, x.addr) }
      | none => { c with
        kind := if named.isEmpty then c.kind else .scan d m (if bad then none else some q) k l none
          ((named.zip (List.range named.length)).map (fun p => ⟨p.1, p.2, .queued, []⟩))
        fault := if bad then some (0x12, 0, off) else none }

def execSrchScan (d a b : BitVec 7) (mask : BitVec 8) (k : BitVec 10) (rr c : BitVec 7) : State → Host.Outcome State Fault Refusal :=
  isa 2 { rd := [a.toNat, b.toNat, rr.toNat, c.toNat], wr := [d.toNat], long := true } (fun r t f s =>
    let va := (f.reg a.toNat).toNat
    let res := (f.reg rr.toNat).toNat
    match targetOf s r t f (f.reg c.toNat) with
    | .error e => .error e
    | .ok target =>
      if va % 256 ≠ 0 then .error (.trap (.misaligned (va % 2 ^ 52)))
      else if res % 32 ≠ 0 then .error (.trap (.misaligned (res % 2 ^ 52)))
      else
        match scratchOffset (f.reg b.toNat), descPlace s r t f .load va with
        | .error e, _ => .error (.trap e)
        | _, .error e => .error e
        | .ok off, .ok m =>
          if (maskStacks mask.toNat).any (fun x => decide (64 ≤ s.scanQueue x)) ∨ s.spanOwned (descSpan m) then wait s
          else
            let cmd := scanCmd s r t f m va mask.toNat (k.toNat + 1) off res target
            issueCmds r t f 2 [(d.toNat, ofNat64 (cmd 0).total)] (fun id => [cmd id]) s (s.recallSpan (descSpan m)))

/-! ### The device steps of a scan -/

/-- Replace the part of a command on a stack. -/
def ScanPart.on (ps : List ScanPart) (stack : Nat) (g : ScanPart → ScanPart) : List ScanPart :=
  ps.map (fun p => if p.stack == stack then g p else p)

/-- Query heaps of a stack in use. -/
def State.scansOn (s : State) (stack : Nat) : Nat :=
  s.cmds.countP (fun c => match c.kind with
    | .scan _ _ _ _ _ _ ps => ps.any (fun p => p.stack == stack && (p.phase == .running || p.phase == .paused))
    | _ => false)

/-- The oldest command that waits in a stack's queue. -/
def State.scanNext (s : State) (stack : Nat) : Option Cmd :=
  s.cmds.find? (fun c => match c.kind with
    | .scan _ _ _ _ _ _ ps => ps.any (fun p => p.stack == stack && p.phase == .queued)
    | _ => false)

/-- The command reports a fault unless it has one already. -/
def Cmd.fails (c : Cmd) (cause detail addr : Nat) : Cmd := { c with fault := c.fault.or (some (cause, detail, addr)) }

/-- The banks of a stack pause to perform the refreshes they owe (10 R218). -/
def State.pausedOn (s : State) (stack : Nat) : Bool :=
  s.cmds.any (fun c => match c.kind with
    | .scan _ _ _ _ _ _ ps => ps.any (fun p => p.stack == stack && p.phase == .paused)
    | _ => false)

/-- A stack whose scans have all ended owes no refresh: those left over are performed before the next command starts (10 R218). -/
def State.settleRefreshes (s : State) (stack : Nat) : State :=
  if s.scansOn stack = 0 then { s with scanOwed := sparsePut 0 s.scanOwed stack 0 } else s

/-- SCAN_START on a stack: the next queued scan starts when a heap is free and the banks do not pause, the refreshes that an ended or dropped scan left owed performed first (10 R218); the first start of a command takes its snapshot, an acquire at device scope: it waits while a command owns the descriptor or a collapse of its line is under way, and reads after the recall of R215. -/
def execScanStart (stack : Nat) (s : State) : Host.Outcome State Fault Refusal :=
  device (match s.scanNext stack with
    | none => s
    | some c =>
      if 4 ≤ s.scansOn stack ∨ s.pausedOn stack then s
      else
        let s := s.settleRefreshes stack
        match c.kind with
        | .scan d m q k res snap ps =>
          let start := fun (s : State) (v : Nat) => s.updCmd c.id (fun (x : Cmd) =>
            { x with kind := .scan d m q k res (some v) (ScanPart.on ps stack (fun p => { p with phase := .running })) })
          (match snap with
           | some v => start s v
           | none =>
             if s.ownedAt (.mem m) ∨ s.collapsesAt (lineOf m.pa) then s
             else if s.poisonedAt (.mem m) then s.endCmd (c.fails 0x12 0 m.va)
             else start (s.settleLine (lineOf m.pa)) (natOfBytes (s.physBytes m.pa 4)))
        | _ => s)

/-- The list of one stack, and the first fault a record gives. -/
def scanList (s : State) (c : Cmd) (d snap k stack : Nat) (q : Option (List Byte)) : List Pair × Option (Nat × Nat) :=
  let cs := (List.range (ixNrec d stack)).map (fun i =>
    let va := ixBase d stack + i * recordStride d
    (va, candidate s c d snap va stack q))
  (bestPairs k (cs.filterMap (fun x => match x.2 with | .pair p => some p | _ => none)),
   cs.findSome? (fun x => match x.2 with | .bad e => some (e, x.1) | _ => none))

/-- Counting at the target, and the end of the command when it was its last part. -/
def State.landScan (s : State) (c : Cmd) (n : Nat) (last : Bool) : State :=
  let s := s.landCmd c n
  if last then s.endCmd { c with landed := c.landed + n } else s

/-- The list of a stack is found: what is to be written of it, sector by sector, and the fault of the first record that has one. -/
def State.listScan (s : State) (c : Cmd) (d : Nat) (m : MemLoc) (q : Option (List Byte)) (k : Nat) (res : Loc) (snap : Nat)
    (ps : List ScanPart) (p : ScanPart) : State :=
  let spans := (List.range (ixNrec d p.stack)).flatMap (fun i =>
    (recordLocs s c.ctx c.die (ixBase d p.stack + i * recordStride d) (recordStride d) (some p.stack)).getD [])
  let (best, fault) := scanList s c d snap k p.stack q
  let c := match fault with | some (e, va) => c.fails e (if e = 0x03 then 2 else 0) va | none => c
  let bs := pairBytes k best
  let off := p.rank * 16 * k
  let out := (cutRange 32 (res.key.2.2 + off) bs.length).map (fun x => (off + x.1, (bs.drop x.1).take x.2))
  ((s.recallSpan spans).updCmd c.id (fun _ =>
    { c with kind := .scan d m q k res (some snap) (ScanPart.on ps p.stack (fun p => { p with phase := .writing, out := out })) })).settleRefreshes p.stack

/-- The sector of a list that is written next: the spec orders them in no way (10 R220). -/
def State.nextSector (s : State) (out : List (Nat × List Byte)) : Option (Nat × List Byte) :=
  match out with
  | [x] => some x
  | xs => xs[Config.free s.tick 60 % xs.length]?

/-- One sector of a list is written as a unit; with the last one the list lands (10 R217, R220). -/
def State.writeScan (s : State) (c : Cmd) (d : Nat) (m : MemLoc) (q : Option (List Byte)) (k : Nat) (res : Loc) (snap : Option Nat)
    (ps : List ScanPart) (p : ScanPart) : State :=
  match s.nextSector p.out with
  | none => s
  | some x =>
    let left := p.out.erase x
    let ps := ScanPart.on ps p.stack (fun p => { p with out := left, phase := if left.isEmpty then .done else .writing })
    let c := { c with kind := .scan d m q k res snap ps }
    let s := (s.updCmd c.id (fun _ => c)).engineScratch (res.plus x.1) (x.2.map some) [] (c.aloneAt (res.plus x.1))
    if left.isEmpty then s.landScan c (16 * k) (ps.all (fun p => p.phase == .done)) else s

/-- SCAN_COMPLETE of a command on a stack: its list is found, then written to scratchpad one sector at a time, and lands. -/
def execScanComplete (cmd stack : Nat) (s : State) : Host.Outcome State Fault Refusal :=
  device (match s.cmd? cmd with
    | none => s
    | some c =>
      match c.kind with
      | .scan d m q k res (some snap) ps =>
        (match ps.find? (fun p => p.stack == stack) with
         | none => s
         | some p =>
           (match p.phase with
            | .running => s.listScan c d m q k res snap ps p
            | .writing => s.writeScan c d m q k res (some snap) ps p
            | _ => s))
      | _ => s)

/-- The scans on a stack go from one phase to another. -/
def State.onScans (s : State) (stack : Nat) (g : ScanPart → ScanPart) : State :=
  { s with cmds := s.cmds.map (fun (c : Cmd) =>
    match c.kind with
    | .scan d m q k res snap ps => { c with kind := .scan d m q k res snap (ScanPart.on ps stack g) }
    | _ => c) }

/-- SCAN_REFRESH_PAUSE: a refresh falls due on the banks of a stack on which a scan runs: postponed while fewer than eight are owed, else the stack's scans pause (10 R218). With no scan running it is performed at once. -/
def execScanRefreshPause (stack : Nat) (s : State) : Host.Outcome State Fault Refusal :=
  device (if s.scansOn stack = 0 then s
    else
      let n := sparseGet 0 s.scanOwed stack
      if n < 8 then { s with scanOwed := sparsePut 0 s.scanOwed stack (n + 1) }
      else s.onScans stack (fun p => if p.phase == .running then { p with phase := .paused } else p))

/-- SCAN_RESUME: the owed refreshes are done and the stack's scans go on where they paused (10 R218). -/
def execScanResume (stack : Nat) (s : State) : Host.Outcome State Fault Refusal :=
  device (({ s with scanOwed := sparsePut 0 s.scanOwed stack 0 } : State).onScans stack (fun (p : ScanPart) => if p.phase == .paused then { p with phase := .running } else p))

/-! ### SRCH.dist (20 R423) -/

/-- The result of SRCH.dist. -/
def distResult (fmt metric d snap : Nat) (q rec : List Byte) : Dword :=
  let ins := natOfBytes ((rec.drop 8).take 4)
  let del := natOfBytes ((rec.drop 12).take 4)
  let vis := bit (decide (ins ≤ snap ∧ snap < del))
  match distance fmt metric d q (rec.drop 16) with
  | some x => ofNat64 (x + vis * 2 ^ 32)
  | none => ofNat64 (0x7FC00000 + vis * 2 ^ 32 + 2 ^ 33)

/-- The places of the record of a SRCH.dist: all of class HBM. -/
def distRecord (s : State) (t : Team) (f : Fibre) (va n : Nat) : Except Trap (List (Loc × Nat)) :=
  match enginePlaces s t f .load 0 va n with
  | .error e => .error e
  | .ok _ =>
    match recordLocs s t.ctx (dieOf t f) va n none with
    | none => .error (.denied va)
    | some ls => .ok ls

/-- A form of SRCH that reads or writes memory waits for the release at device scope that precedes it, and for the lines it is about to use (09 R203, 08 R182). -/
def searchReady (s : State) (r : FibreRef) (f : Fibre) (ls : List (Loc × Nat)) : Bool :=
  settled f && releasedForIssue s r f && !s.spanOwned ls

def execSrchDist (d a b e sn : BitVec 7) : State → Host.Outcome State Fault Refusal :=
  isa 2 { rd := [a.toNat, b.toNat, e.toNat, sn.toNat], wr := [d.toNat], long := true } (fun r t f s =>
    let va := (f.reg a.toNat).toNat
    let rec_ := (f.reg e.toNat).toNat
    if va % 256 ≠ 0 then .error (.trap (.misaligned (va % 2 ^ 52)))
    else if rec_ % 32 ≠ 0 then .error (.trap (.misaligned (rec_ % 2 ^ 52)))
    else
      match scratchOffset (f.reg b.toNat), descPlace s r t f .load va with
      | .error x, _ => .error (.trap x)
      | _, .error x => .error x
      | .ok off, .ok m =>
        if !searchReady s r f (descSpan m) then wait s
        else
          let (desc, bad) := readDesc s m
          if bad then
            (match readQuery s t f off 1, distRecord s t f rec_ 32 with
             | .error x, _ => .error (.trap x)
             | _, .error x => .error (.trap x)
             | _, _ => .error (.trap (mkTrap 0x12 0 va)))
          else if ixBad desc then .error (.trap (invalidRecord 4 va))
          else
            match readQuery s t f off (vectorBytes (ixFmt desc) (ixDim desc)), distRecord s t f rec_ (recordStride desc) with
            | .error x, _ => .error (.trap x)
            | _, .error x => .error (.trap x)
            | .ok (q, qbad), .ok ls =>
              if s.spanOwned ls then wait s
              else
                let (bs, rbad) := homeSpan s ls
                if qbad then .error (.trap (mkTrap 0x12 0 off))
                else if rbad then .error (.trap (mkTrap 0x12 0 rec_))
                else issueLong r f 2 (.value [(d.toNat, distResult (ixFmt desc) (ixMetric desc) (ixDim desc) (lowNat 32 (f.reg sn.toNat)) q bs)] none)
                  [d.toNat] [] [] (s.recallSpan (descSpan m ++ ls)))

/-! ### Walks (10 R221, 20 R424) -/

/-- Issue of a walk; one with an operand outside its limits takes no step. -/
def walkForm (d a b : BitVec 7) (rr c : BitVec 7) (mk : Fibre → WalkKind × Nat) (bad : Fibre → Bool) :
    State → Host.Outcome State Fault Refusal :=
  isa 3 { rd := [a.toNat, b.toNat, rr.toNat, c.toNat], wr := [d.toNat], long := true } (fun r t f s =>
    let res := (f.reg rr.toNat).toNat
    match targetOf s r t f (f.reg c.toNat) with
    | .error e => .error e
    | .ok target =>
      if res % 16 ≠ 0 then .error (.trap (.misaligned (res % 2 ^ 52)))
      else
        match scratchPlace t f res 16 with
        | .error e => .error (.trap e)
        | .ok l =>
          let (k, start) := mk f
          issueCmds r t f 3 [(d.toNat, 16)] (fun id =>
            [{ Cmd.blank id id r t f 5 with
               target := target
               total := 16
               kind := .walk k start 0 l
               fault := if bad f then some (0x18, 5, start % 2 ^ 52) else none }]) s s)

def execSrchWalkList (d a b : BitVec 7) (ko no : BitVec 9) (rr c : BitVec 7) (n : BitVec 16) : State → Host.Outcome State Fault Refusal :=
  walkForm d a b rr c
    (fun f => (.list (f.reg b.toNat).toNat (8 * ko.toNat) (8 * no.toNat) n.toNat, (f.reg a.toNat).toNat)) (fun _ => n == 0)

def execSrchWalkHash (d a b : BitVec 7) (lb sb : BitVec 5) (rr c : BitVec 7) : State → Host.Outcome State Fault Refusal :=
  walkForm d a b rr c
    (fun f => (.hash (f.reg a.toNat).toNat (f.reg b.toNat).toNat lb.toNat (8 * (sb.toNat + 1)) 0, (f.reg a.toNat).toNat))
    (fun f => lb == 0 || decide (24 < lb.toNat) || sb == 0 || f.reg b.toNat == BitVec.allOnes 64)

def execSrchWalkKv (d a b : BitVec 7) (lb : BitVec 5) (tb : BitVec 16) (lv : BitVec 1) (rr c : BitVec 7) : State → Host.Outcome State Fault Refusal :=
  walkForm d a b rr c
    (fun f => (.kv (f.reg a.toNat).toNat (f.reg b.toNat).toNat lb.toNat (tb.toNat + 1) (lv.toNat + 1) false, (f.reg a.toNat).toNat))
    (fun _ => decide (16 < lb.toNat))

/-- How a walk goes on. -/
inductive WalkNext where
  /-- It reads the dword at an address next. -/
  | read (va : Nat)
  /-- It ends: address, status 0 found, 1 not found, 2 limit. -/
  | done (a status : Nat)
  deriving DecidableEq, Repr

/-- Slot number `i` of a hash walk (10 Table 10.3). -/
def hashSlot (key b i : Nat) : Nat := (key * 0x9E3779B97F4A7C15 % 2 ^ 64 / 2 ^ (64 - b) + i) % 2 ^ b

/-- What a walk does before its next read; the steps of a list alternate between a node's key and its next address. -/
def walkNext (k : WalkKind) (a steps : Nat) : WalkNext :=
  match k with
  | .list _ ko no n =>
    if a = 0 then .done 0 1
    else if n ≤ steps then .done 0 2
    else .read ((a + (if steps % 2 = 0 then ko else no)) % 2 ^ 64)
  | .hash base key b slot i => if 2 ^ b ≤ i then .done 0 1 else .read ((base + slot * hashSlot key b i) % 2 ^ 64)
  | .kv base p b _ lv second =>
    if second then .read ((a + 8 * (p / 2 ^ b % 8192)) % 2 ^ 64)
    else if lv = 2 then .read ((base + 8 * (p / 2 ^ (b + 13))) % 2 ^ 64)
    else .read ((base + 8 * (p / 2 ^ b)) % 2 ^ 64)

/-- What a walk makes of the dword it read: where it stands, or how it ends. -/
def walkRead (k : WalkKind) (a steps v : Nat) : (WalkKind × Nat) ⊕ (Nat × Nat) :=
  match k with
  | .list key _ _ _ => if steps % 2 = 0 then (if v = key then .inr (a, 0) else .inl (k, a)) else .inl (k, v)
  | .hash base key b slot i =>
    if v = key then .inr ((base + slot * hashSlot key b i) % 2 ^ 64, 0)
    else if v = 2 ^ 64 - 1 then .inr (0, 1)
    else .inl (.hash base key b slot (i + 1), a)
  | .kv base p b t lv second =>
    if v = 0 then .inr (0, 1)
    else if lv = 2 ∧ !second then .inl (.kv base p b t lv true, v)
    else .inr ((v + p % 2 ^ b * t) % 2 ^ 64, 0)

/-- The result of a walk is written and lands; the command ends. -/
def State.endWalk (s : State) (c : Cmd) (res : Loc) (a steps status : Nat) : State :=
  let s := s.engineScratch res ((bytesOfNat 16 (a + steps % 2 ^ 16 * 2 ^ 64 + status * 2 ^ 80)).map some) [] (c.aloneAt res)
  (s.updCmd c.id (fun _ => c)).landScan c 16 true

/-- The place of a walk's dword: aligned, of class HBM or second tier; or the fault that ends the walk (10 R221; log entry 40). -/
def walkPlace (s : State) (c : Cmd) (va : Nat) : Except Trap MemLoc :=
  if va % 8 ≠ 0 then .error (mkTrap 0x03 0 (va % 2 ^ 52))
  else
    match translate s c.ctx c.die 0 va .load true with
    | .trap e => .error e
    | .nonres => .error (mkTrap 0x04 0 (va % 2 ^ 52))
    | .ok l => (match l.loc va with | .mem m => if m.cls ≤ 1 then .ok m else .error (.denied va) | _ => .error (.denied va))

/-- The dword of a walk, a relaxed load at device scope: from the stack at its home when it lies in HBM (10 R215), else by the slices of the walk's die. -/
def walkDword (s : State) (c : Cmd) (m : MemLoc) : (Dword × Bool) × State :=
  if m.cls = 0 then (s.wordAt (wordOf m.pa), s.settleLine (lineOf m.pa))
  else
    let (d, s) := s.readSlices c.die m c.ctx
    (d.getD (wordOf m.pa % 16) (0, false), s)

/-- WALK_STEP of a command. -/
def walkStep (s : State) (c : Cmd) (k : WalkKind) (a steps : Nat) (res : Loc) : State :=
  if c.ended then s
  else if c.fault.isSome then s.endWalk c res 0 steps 3
  else
    match walkNext k a steps with
    | .done x st => s.endWalk c res x steps st
    | .read va =>
      match walkPlace s c va with
      | .error e => s.endWalk (c.fails e.cause e.detail e.addr) res 0 (steps + 1) 3
      | .ok m =>
        if !sourceReady s c.id (.read (.mem m) 8) then s
        else
          let ((v, bad), s) := walkDword s c m
          if bad then s.endWalk (c.fails 0x12 0 va) res 0 (steps + 1) 3
          else
            match walkRead k a steps v.toNat with
            | .inl (k', a') => s.updCmd c.id (fun (x : Cmd) => { x with kind := .walk k' a' (steps + 1) res })
            | .inr (x, st) => s.endWalk c res x (steps + 1) st

def execWalkStep (cmd : Nat) (s : State) : Host.Outcome State Fault Refusal :=
  device (match s.cmd? cmd with
    | none => s
    | some c => (match c.kind with | .walk k a n res => walkStep s c k a n res | _ => s))

/-! ### Heap lists (20 R425) -/

/-- A heap list at its home: k, count, its entries, and the places of its bytes. -/
structure HeapList where
  k : Nat
  pairs : List Pair
  locs : List (Loc × Nat)
  deriving DecidableEq, Repr

/-- Bytes at some places, as far as they are memory a heap list may lie in. -/
def heapLocs (s : State) (t : Team) (f : Fibre) (va n : Nat) : Except Trap (List (Loc × Nat)) :=
  match enginePlaces s t f .atomic 0 va n with
  | .error e => .error e
  | .ok ls => if ls.all (fun p => match p.1 with | .mem m => decide (m.cls ≤ 1) | _ => false) then .ok ls else .error (.denied va)

/-- The list at an address, with every check of 20 R425. -/
def readHeap (s : State) (t : Team) (f : Fibre) (va : Nat) : Except Trap HeapList :=
  if va % 32 ≠ 0 then .error (.misaligned (va % 2 ^ 52))
  else
    match heapLocs s t f va 32 with
    | .error e => .error e
    | .ok hs =>
      let (h, bad) := homeSpan s hs
      let v := natOfBytes h
      let k := bitsOf v 0 16
      let n := bitsOf v 16 16
      if bad then .error (mkTrap 0x12 0 va)
      else if k = 0 ∨ 64 < k ∨ k < n ∨ v / 2 ^ 32 ≠ 0 then .error (invalidRecord 7 va)
      else
        match heapLocs s t f va (32 + 16 * k) with
        | .error e => .error e
        | .ok ls =>
          let (bs, bad) := homeSpan s ls
          if bad then .error (mkTrap 0x12 0 va)
          else if (List.range n).any (fun i => natOfBytes ((bs.drop (36 + 16 * i)).take 4) != 0) then .error (invalidRecord 7 va)
          else .ok ⟨k, (List.range n).map (fun i => ⟨natOfBytes ((bs.drop (32 + 16 * i)).take 4), natOfBytes ((bs.drop (40 + 16 * i)).take 8)⟩), ls⟩

/-- Bytes written over some places, in one step at their homes. -/
def State.writeSpan (s : State) (ls : List (Loc × Nat)) (bs : List Byte) (w : Writer) (ctx : Nat) (core : Option CoreId) : State :=
  (ls.foldl (fun (a : State × List Byte) p =>
    match p.1 with
    | .mem m => ((linesOf (wordsTouched m.pa ((a.2.take p.2).map some))).foldl (fun (s : State) l =>
        let lo := max m.pa (128 * l)
        let hi := min (m.pa + p.2) (128 * l + 128)
        s.modifyHome { m with pa := lo, va := m.va + (lo - m.pa) } (((a.2.drop (lo - m.pa)).take (hi - lo)).map some) w ctx core) a.1, a.2.drop p.2)
    | _ => (a.1, a.2.drop p.2)) (s, bs)).1

/-- The list with other entries; entries past the count keep their bytes. -/
def State.writeHeap (s : State) (r : FibreRef) (t : Team) (f : Fibre) (h : HeapList) (ps : List Pair) : State :=
  let old := (homeSpan s h.locs).1
  let new := bytesOfNat 32 (h.k + ps.length * 2 ^ 16) ++ ps.flatMap (fun p => bytesOfNat 8 p.dist ++ bytesOfNat 8 p.id)
  s.writeSpan h.locs (new ++ old.drop new.length) (.fibre r) t.ctx (coreOf t f)

/-- A heap form on the list its register names, once the release that precedes it is made and no engine owns a line of it. -/
def withHeap (a : BitVec 7) (r : FibreRef) (t : Team) (f : Fibre) (s : State) (body : HeapList → Act) : Act :=
  match readHeap s t f (f.reg a.toNat).toNat with
  | .error e => .error (.trap e)
  | .ok h => if searchReady s r f h.locs then body h else wait s

/-- The list after a push, and whether the pair is kept. -/
def pushPair (k : Nat) (ps : List Pair) (p : Pair) : List Pair × Bool :=
  match ps.find? (fun q => q.id == p.id) with
  | some q => if p.before q then (insertPair p (ps.erase q), true) else (ps, false)
  | none =>
    if ps.length < k then (insertPair p ps, true)
    else if p.before (ps.getD (k - 1) noPair) then ((insertPair p ps).take k, true)
    else (ps, false)

def execSrchPush (d a b : BitVec 7) : State → Host.Outcome State Fault Refusal :=
  isa 1 { rd := [a.toNat, b.toNat, b.toNat + 1], wr := [d.toNat], long := true } (fun r t f s =>
    withHeap a r t f s (fun h =>
      let p : Pair := ⟨lowNat 32 (f.reg b.toNat), (f.reg (b.toNat + 1)).toNat⟩
      let (ps, kept) := pushPair h.k h.pairs p
      let v := if kept then ofNat64 (ps.findIdx (fun q => q.id == p.id)) else BitVec.allOnes 64
      issueLong r f 1 (.value [(d.toNat, v)] none) [d.toNat] [] [] (if kept then s.writeHeap r t f h ps else s)))

def execSrchPop (d a : BitVec 7) : State → Host.Outcome State Fault Refusal :=
  isa 1 { rd := [a.toNat], wr := [d.toNat, d.toNat + 1], long := true } (fun r t f s =>
    withHeap a r t f s (fun h =>
      let (p, s) := match h.pairs with
        | [] => (noPair, s)
        | p :: ps => (p, s.writeHeap r t f h ps)
      issueLong r f 1 (.value [(d.toNat, ofNat64 p.dist), (d.toNat + 1, ofNat64 p.id)] none) [d.toNat, d.toNat + 1] [] [] s))

/-- The parts of a drained list toward its destination, or the fault for which nothing is written. -/
def drainChunks (s : State) (t : Team) (f : Fibre) (scratch : Bool) (dst : Nat) (bs : List Byte) : Except Trap (List Chunk) :=
  (cutRange 8 dst bs.length).mapM (fun (p : Nat × Nat) =>
    let a := dst + p.1
    match enginePlaces s t f .store (if scratch then 1 else 0) a p.2 with
    | .error e => .error e
    | .ok ((l, _) :: _) =>
      if !scratch ∧ s.sealHit t.ctx a p.2 then .error (mkTrap 0x14 0 a)
      else .ok ⟨[.known ((bs.drop p.1).take p.2)], [], .write l, p.2, false⟩
    | .ok [] => .error (.unmapped a))

/-- SRCH.drain: the list is emptied at issue, also when a page of its destination fails and no data moves (DESIGN CHOICE, log entry 99: 04 R95 and 20 R425 do not say). -/
def execSrchDrain (d a b c : BitVec 7) (sp : BitVec 1) : State → Host.Outcome State Fault Refusal :=
  isa 2 { rd := [a.toNat, b.toNat, c.toNat], wr := [d.toNat], long := true } (fun r t f s =>
    match targetOf s r t f (f.reg c.toNat) with
    | .error e => .error e
    | .ok target =>
      withHeap a r t f s (fun h =>
        let total := 16 * h.k
        let (cs, fault) := match drainChunks s t f (sp == 0) (f.reg b.toNat).toNat (pairBytes h.k h.pairs) with
          | .ok cs => (cs, none)
          | .error e => ([], some (e.cause, e.detail, e.addr))
        match issueCmds r t f 2 [(d.toNat, ofNat64 total)] (fun id =>
          [{ Cmd.blank id id r t f 4 with target := target, total := total, stages := [⟨cs, true⟩], fault := fault }]) s s with
        | .error e => .error e
        | .ok s => .ok (s.writeHeap r t f h [])))

/-! ### IXCOMMIT and IXVER (10 R212, 20 R426) -/

/-- IXCOMMIT: a release at device scope of every store that happens before it, of whatever fibre: no collapse of the context's writes is under way. -/
def execIxcommit (d a b : BitVec 7) : State → Host.Outcome State Fault Refusal :=
  isa 1 { rd := [a.toNat, b.toNat], wr := [d.toNat], long := true } (fun r t f s =>
    let va := (f.reg a.toNat).toNat
    match descPlace s r t f .atomic va with
    | .error e => .error e
    | .ok m =>
      let v := natOfBytes (s.physBytes m.pa 4)
      let same := v == lowNat 32 (f.reg b.toNat)
      if s.poisonedAt (.mem m) then .error (.trap (mkTrap 0x12 0 va))
      else if f.loadsPending ∨ !storesDone s r f 4 ∨ s.ownedAt (.mem m) ∨ s.coh.probes.any (fun p => p.ctx == t.ctx) then wait s
      else if same ∧ v = 0xFFFFFFFE then .error (.trap (mkTrap 0x19 0 va))
      else
        let s := if same then s.modifyHome m ((bytesOfNat 4 (v + 1)).map some) (.fibre r) t.ctx (coreOf t f) else s
        issueLong r f 1 (.value [(d.toNat, ofNat64 v)] none) [d.toNat] [] [] s)

def execIxver (d a : BitVec 7) (c k : BitVec 3) : State → Host.Outcome State Fault Refusal :=
  isa 2 { rd := [a.toNat], wr := [d.toNat], long := true } (fun r t f s =>
    let va := (f.reg a.toNat).toNat
    let st : Strength := ⟨true, c.toNat, k.toNat⟩
    match descPlace s r t f .load va with
    | .error e => .error e
    | .ok m =>
      if s.poisonedAt (.mem m) then .error (.trap (mkTrap 0x12 0 va))
      else if !loadReady s t f f.seq (.mem m) st ∨ !settled f then wait s
      else
        match issueLong r f 2 (.value [(d.toNat, ofNat64 (natOfBytes (s.physBytes m.pa 4)))] none) [d.toNat] [] [] s with
        | .error e => .error e
        | .ok s => .ok (s.acquireFor r st))

end Sys2Proof.Machine
end

