-- ==== Sys2Proof/Machine/Hop.lean ====
section
/-! DEFINITION. HOP, opcode 0x7B (20 R427), and the travel of fibres: escape buffers and near-core slots (10 R222, R226, R227), return traps and service slots (R224), and the device steps of both. -/

namespace Sys2Proof.Machine

/-- Near cores of a stack, fibre slots of a near core, service slots of an M-die (00 R7, 10 R222, R224). -/
def nearCores : Nat := 16
def slotsPerCore : Nat := 64
def serviceSlots : Nat := 64

/-- Escape-buffer entries of a stack that hops from full cores hold (10 R227). -/
def State.coreEntries (s : State) (stack : Nat) : Nat :=
  (s.teams.flatMap (fun t => t.fibres)).countP (fun f =>
    match f.away with
    | some (.transit k c) => k == stack && c
    | some (.escape k c) => k == stack && c
    | _ => false)

/-- Everything the fibre has issued is performed and counted (10 R226). -/
def hopReady (f : Fibre) : Bool := f.cfZero && f.ll.isEmpty && settled f

/-- The fibre passes its HOP and leaves for another place. -/
def depart (r : FibreRef) (dest : Away) (s : State) : Act :=
  .error (.hold ((s.leaveSlot r).updFibre r (fun f => { f.pass 1 false s.aclk with away := some dest })))

def execHop (a : BitVec 7) : State → Host.Outcome State Fault Refusal :=
  isa 1 { rd := [a.toNat] } (fun r t f s =>
    let va := (f.reg a.toNat).toNat
    if f.handler.isSome then .error (.trap .illegal)
    else
      match translate s t.ctx (dieOf t f) 0 va .load false with
      | .trap e => .error (.trap e)
      | .nonres => .error (.trap (mkTrap 0x04 0 va))
      | .ok l =>
        if l.cls ≠ 0 then .error (.trap (.denied va))
        else if !hopReady f then wait s
        else
          let k := stackOf (l.place va)
          if f.stack? = some k then .ok s
          else if f.stack?.isSome then depart r (.transit k false) s
          else if 1024 ≤ s.coreEntries k then wait s
          else depart r (.transit k true) s)

def execHopHome : State → Host.Outcome State Fault Refusal :=
  isa 1 {} (fun r _ f s =>
    if f.handler.isSome then .error (.trap .illegal)
    else if f.stack?.isNone then .ok s
    else if !hopReady f then wait s
    else depart r .homeward s)

/-! ### Device steps -/

/-- HOP_LAND: the transit record of a fibre lands in its stack's escape buffer. -/
def execHopLand (team fibre : Nat) (s : State) : Host.Outcome State Fault Refusal :=
  let r : FibreRef := ⟨team, fibre⟩
  device (match (s.fibre? r).bind (fun f => f.away) with
    | some (.transit k c) =>
      { s.updFibre r (fun f => { f with away := some (.escape k c) }) with arrivals := s.arrivals.filter (fun x => x != r) ++ [r] }
    | _ => s)

/-- The stack in whose escape buffer a fibre is. -/
def State.escapeOf (s : State) (r : FibreRef) : Option Nat :=
  match (s.fibre? r).bind (fun f => f.away) with
  | some (.escape k _) => some k
  | _ => none

/-- A free slot of a stack: near core and slot. -/
def State.freeSlot (s : State) (stack : Nat) : Option (Nat × Nat) :=
  ((List.range nearCores).flatMap (fun c => (List.range slotsPerCore).map (fun i => (c, i)))).find? (fun p =>
    !s.near.any (fun x => x.stack == stack && x.core == p.1 && x.slot == p.2) &&
    !s.teams.any (fun t => t.fibres.any (fun f => f.away == some (.shipping stack p.1 p.2))))

/-- NEAR_SLOT_ENTRY on a stack: the first arrival of its escape buffer enters a free slot, zeroed (10 R222, R227). -/
def execNearSlotEntry (stack : Nat) (s : State) : Host.Outcome State Fault Refusal :=
  device (match s.arrivals.find? (fun r => s.escapeOf r == some stack), s.freeSlot stack with
    | some r, some (c, i) =>
      { s.updFibre r (fun f => { f with away := some (.near stack c i), status := .ready, since := s.aclk }) with
        arrivals := s.arrivals.filter (fun x => x != r)
        near := s.near ++ [⟨stack, c, i, r, [], []⟩] }
    | _, _ => s)

/-- A completion of a fibre's return waits in its team's redirect entry. -/
def Team.returning (t : Team) (fibre : Nat) : Bool := t.redirect.contains (.fibreBack fibre)

/-- HOP_HOME_ARRIVAL: the originating core, or the image, takes the fibre back as ready (10 R226, 06 R139), once the collapses under way toward the core's die are applied there (09 R190, R198). The return to a discarded team is dropped (06 R138). -/
def execHopHomeArrival (team fibre : Nat) (s : State) : Host.Outcome State Fault Refusal :=
  device (match s.team? team, (s.fibre? ⟨team, fibre⟩).bind (fun f => f.away) with
    | some t, some .homeward =>
      if t.state = .discarding then
        (s.dropCompletion t).updTeam team (fun t => { t with fibres := t.fibres.filter (fun f => f.idx != fibre) })
      else if t.returning fibre ∨ (t.resident ∧ s.probesToward t.die) then s
      else s.completeAt team (.fibreBack fibre)
    | _, _ => s)

/-- A free service slot of the M-die of a stack. -/
def State.freeService (s : State) (stack : Nat) : Option Nat :=
  let used := (s.teams.flatMap (fun t => t.fibres)).filterMap (fun f =>
    match f.away with
    | some (.service k n _) => if k / 2 = stack / 2 then some n else none
    | _ => none)
  (List.range serviceSlots).find? (fun n => !used.contains n)

/-- RETURN_TRAP: the counters of the trapped fibre are 0, and its transit record ships to a service slot; its near-core slot is zeroed (10 R224 steps 1 and 2). -/
def execReturnTrap (team fibre : Nat) (s : State) : Host.Outcome State Fault Refusal :=
  let r : FibreRef := ⟨team, fibre⟩
  device (match s.fibre? r with
    | none => s
    | some f =>
      match f.away with
      | some (.shipping k _ _) =>
        (match s.freeService k with
         | some n =>
           if hopReady f then
             (s.leaveSlot r).updFibre r (fun f => { f with away := some (.service k n f.pc.toNat), since := s.aclk })
           else s
         | none => s)
      | _ => s)

/-- RETURN_TRAP_RESUME: the trapped instruction has executed and its counters are complete; the fibre goes back to a slot of its stack (10 R224 step 4). -/
def execReturnTrapResume (team fibre : Nat) (s : State) : Host.Outcome State Fault Refusal :=
  let r : FibreRef := ⟨team, fibre⟩
  device (match s.fibre? r with
    | none => s
    | some f =>
      match f.away with
      | some (.service k _ pc) =>
        if f.pc.toNat ≠ pc ∧ hopReady f ∧ f.status = .ready ∧ f.entering.isNone ∧ f.handler.isNone then
          s.updFibre r (fun f => { f with away := some (.transit k false) })
        else s
      | _ => s)

end Sys2Proof.Machine
end

