-- ==== Sys2Proof/Machine/Channels.lean ====
section
/-! DEFINITION. Exchange channels: CHAN, opcode 0x7C (20 R428, 12 R245 to R255), and the device steps SLOT_LANDING, PERMIT_RETURN and PERMIT_TIMEOUT. -/

namespace Sys2Proof.Machine

/-! ### Records (12 Table 12.1) -/

def chNumber (v : Nat) : Nat := bitsOf v 0 6
def chFf (v : Nat) : Bool := bitsOf v 6 1 == 1
def chLane (v : Nat) : Nat := bitsOf v 7 2
def chNf (v : Nat) : Nat := bitsOf v 9 2 + 1
def chDepth (v : Nat) : Nat := bitsOf v 11 3 + 1
def chInflight (v : Nat) : Nat := bitsOf v 14 3 + 1
def chSlotKib (v : Nat) : Nat := bitsOf v 32 9
def chRxOff (v : Nat) : Nat := bitsOf v 64 24
def chRxBar (v : Nat) : Nat := bitsOf v 96 24
def chTimeout (v : Nat) : Nat := bitsOf v 128 20

/-- Receive slots of an endpoint (12 R245). -/
def slotCount (ff : Bool) (nf depth : Nat) : Nat := if ff then depth else nf * depth

/-- A record that CHAN.config answers with status 1 (12 R246). -/
def chBad (t : Team) (v : Nat) : Bool :=
  let n := slotCount (chFf v) (chNf v) (chDepth v)
  let rx := (chRxOff v, chRxOff v + n * (chSlotKib v * 1024))
  let bars := (chRxBar v, chRxBar v + 32 * n)
  bitsOf v 17 15 != 0 || bitsOf v 41 23 != 0 || bitsOf v 88 8 != 0 || bitsOf v 120 8 != 0 || bitsOf v 148 108 != 0 ||
  (chFf v && decide (chNf v ≤ chLane v)) || (!chFf v && chLane v != 0) || chDepth v == 1 ||
  chSlotKib v == 0 || decide (256 < chSlotKib v) || chRxOff v % 128 != 0 || chRxBar v % 32 != 0 ||
  (chFf v == t.kernel.mcore) || decide (t.allocBytes < rx.2) || decide (t.allocBytes < bars.2) ||
  decide (rx.1 < bars.2 ∧ bars.1 < rx.2)

/-- The image of a slot's barrier (12 R246). -/
def slotBarImage (off bytes timeout : Nat) : Nat :=
  2 ^ 1 + 2 ^ 5 + 2 ^ 6 + 1 * 2 ^ 16 + 1 * 2 ^ 32 + timeout * 2 ^ 96 + off / 256 * 2 ^ 192 +
    ((off + bytes - 1) / 256 - off / 256) * 2 ^ 236

/-! ### Channels and endpoints -/

def State.chan? (s : State) (ctx ch : Nat) : Option Chan := (s.ctx? ctx).bind (fun c => c.chans.find? (fun h => h.idx == ch))

def State.putChan (s : State) (ctx : Nat) (h : Chan) : State :=
  s.updCtx ctx (fun c => { c with chans := h :: c.chans.filter (fun x => x.idx != h.idx) })

def State.updEnd (s : State) (ctx ch team : Nat) (g : Endpoint → Endpoint) : State :=
  s.updCtx ctx (fun c => { c with chans := c.chans.map (fun (h : Chan) =>
    if h.idx == ch then { h with ends := h.ends.map (fun (e : Endpoint) => if e.team == team then g e else e) } else h) })

/-- A team that has not ended. -/
def State.teamLive (s : State) (team : Nat) : Bool :=
  (s.team? team).any (fun t => t.state != .done && t.state != .terminated && !t.discarded)

/-- Put a number at a place of a list of counts. -/
def putAt (xs : List Nat) (i v : Nat) : List Nat := (List.range (max xs.length (i + 1))).map (fun k => if k = i then v else xs.getD k 0)

/-- The counts of an endpoint are kept by lane: its own lane is entry 0 of a feed-forward endpoint. -/
def Endpoint.entry (e : Endpoint) (lane : Nat) : Nat := if e.ff then 0 else lane

/-- Two jobs of one graph instance: the endpoints of a channel are teams of both core kinds, so they are jobs of several nodes (12 R245, log entry 65). -/
def State.sameInstance (s : State) (ctx a b : Nat) : Bool :=
  a == b || s.insts.any (fun x => x.ctx == ctx && x.runs.any (fun r => r.job == a) && x.runs.any (fun r => r.job == b))

/-- The status of CHAN.config (12 R246). -/
def chStatus (s : State) (t : Team) (v : Nat) : Nat :=
  let others : Chan × List Endpoint := match s.chan? t.ctx (chNumber v) with
    | some h => (h, h.ends.filter (fun e => e.team != t.id && s.teamLive e.team))
    | none => (⟨0, 0, 0, 0, 0, [], []⟩, [])
  if chBad t v then 1
  else if chDepth v < chInflight v then 2
  else if others.2.any (fun e => !e.lost && s.teamLive e.team) ∧
      (others.1.nf ≠ chNf v ∨ others.1.depth ≠ chDepth v ∨ others.1.inflight ≠ chInflight v ∨ others.1.slotKib ≠ chSlotKib v) then 3
  else if others.2.any (fun e => (s.team? e.team).any (fun o => !s.sameInstance t.ctx o.job t.job) || (e.ff == chFf v && e.lane == chLane v)) then 4
  else 0

/-- The slot barriers of an endpoint are initialised. -/
def initSlots (s : State) (t : Team) (v : Nat) : State :=
  let bytes := chSlotKib v * 1024
  (List.range (slotCount (chFf v) (chNf v) (chDepth v))).foldl (fun s i =>
    let l : Loc := .scr t.id (chRxBar v + 32 * i)
    (s.putBar l (slotBarImage (chRxOff v + i * bytes) bytes (chTimeout v))).putBarInfo ⟨l, none, false, false, []⟩) s

/-- Lanes a send of an endpoint writes. -/
def sendLanes (h : Chan) (e : Endpoint) : List Nat := if e.ff then [e.lane] else List.range h.nf

/-- Waits for permits of an endpoint that stand before one fibre's, or all of them where it has none: sends of one endpoint are taken in issue order (12 R247). -/
def State.waitsBefore (s : State) (team ch : Nat) (r : FibreRef) : Nat :=
  ((s.permitWaits.filter (fun w => w.who.team == team && w.chan == ch)).takeWhile (fun w => w.who != r)).length

/-- Every lane of an endpoint's send has a permit left over for it when `n` earlier sends have taken theirs. -/
def permitsLeft (h : Chan) (e : Endpoint) (n : Nat) : Bool :=
  (sendLanes h e).all (fun l => decide (n < e.permit.getD (e.entry l) 0))

/-- The permits that a blocked send wants are there. -/
def State.permitsFor (s : State) (w : PermitWait) : Bool :=
  (s.chan? w.ctx w.chan).any (fun h => (h.ends.find? (fun e => e.team == w.who.team)).any (fun e =>
    permitsLeft h e (s.waitsBefore w.who.team w.chan w.who)))

/-- Each blocked send whose permits have come back is no longer blocked for want of them (12 R256). -/
def State.notePermits (s : State) : State :=
  { s with permitWaits := s.permitWaits.map (fun (w : PermitWait) =>
      if w.until_.isNone && s.permitsFor w then { w with until_ := (s.team? w.who.team).map (fun t => t.residentTime s.aclk) } else w) }

/-- The team becomes the endpoint; what an earlier holder of its place still had on its way back is void; permits toward it, and its own toward the endpoints that have configured, become depth (12 R247). -/
def configure (s : State) (t : Team) (v : Nat) : State :=
  let old := (s.chan? t.ctx (chNumber v)).elim [] (fun h => h.ends.filter (fun e => e.team != t.id && s.teamLive e.team))
  let depth := chDepth v
  let up := fun (ff : Bool) (lane : Nat) => old.any (fun e => !e.lost && e.ff == ff && (!ff || e.lane == lane))
  let mine : List Nat :=
    if chFf v then [if up false 0 then depth else 0]
    else (List.range (chNf v)).map (fun l => if up true l then depth else 0)
  let e : Endpoint := {
    team := t.id
    ff := chFf v
    lane := chLane v
    rxOff := chRxOff v
    rxBar := chRxBar v
    timeout := chTimeout v
    send := 0
    release := List.replicate 4 0
    permit := mine
    landed := List.replicate 4 0
    lost := false }
  let gain := fun (x : Endpoint) =>
    if x.lost || x.ff == e.ff then x
    else if e.ff then { x with permit := putAt x.permit e.lane depth }
    else { x with permit := [depth] }
  let s := s.putChan t.ctx {
    idx := chNumber v
    nf := chNf v
    depth := depth
    inflight := chInflight v
    slotKib := chSlotKib v
    ends := old.map gain ++ [e]
    returning := (s.chan? t.ctx (chNumber v)).elim [] (fun h => h.returning.filter (fun p => chFf v && p.2 != chLane v)) }
  (initSlots s t v).notePermits

def execChanConfig (d a : BitVec 7) : State → Host.Outcome State Fault Refusal :=
  isa 1 { rd := [a.toNat], wr := [d.toNat], near := false, long := true } (fun r t f s =>
    withRecord r t f (f.reg a.toNat).toNat 4 32 s (fun v s' =>
      let st := chStatus s' t v
      if st = 0 ∧ !settled f then wait s
      else
        waitIn s (issueLong r f 1 (.value [(d.toNat, ofNat64 st)] none) [d.toNat] [] [] (if st = 0 then configure s' t v else s'))))

/-! ### Faults (12 R255) -/

/-- The channel protocol error with a detail. -/
def chanError (r : FibreRef) (t : Team) (detail : Nat) (s : State) : Act :=
  .error (.took (mkTrap 0x16 detail 0) (((s.endPermitWaits (fun x => x == r)).count t.ctx 0x62 1).raiseAt r (mkTrap 0x16 detail 0) [] 0))

/-- The endpoint a fibre's team is of a channel, or its error: 1 it is none, 5 another endpoint was lost. -/
def endpointOf (s : State) (t : Team) (ch : Nat) : Except Nat (Chan × Endpoint) :=
  match s.chan? t.ctx ch with
  | none => .error 1
  | some h =>
    match h.ends.find? (fun e => e.team == t.id) with
    | none => .error 1
    | some e => if e.lost then .error 5 else .ok (h, e)

/-! ### CHAN.send (12 R247, R248) -/

/-- The receiver of a lane. -/
def receiverOf (h : Chan) (e : Endpoint) (lane : Nat) : Option Endpoint :=
  h.ends.find? (fun x => x.ff != e.ff && (e.ff || x.lane == lane))

/-- The index of the slot of message `n` at its receiver. -/
def slotIndex (h : Chan) (rx : Endpoint) (lane n : Nat) : Nat := (if rx.ff then 0 else lane * h.depth) + n % h.depth

/-- One message to one lane. -/
def sendCmd (r : FibreRef) (t : Team) (f : Fibre) (h : Chan) (e rx : Endpoint) (lane n b id grp : Nat) (src : List Piece) (read : Bool) (poison : List Nat) : Cmd :=
  let i := slotIndex h rx lane n
  { Cmd.blank id grp r t f 6 with
    total := b
    kind := .chan h.idx (!e.ff) lane n (.scr rx.team (rx.rxBar + 32 * i)) rx.team
    stages := [⟨[⟨src, poison, .write (.scr rx.team (rx.rxOff + i * (h.slotKib * 1024))), b, false⟩], read⟩] }

/-- A send of `b` bytes of a source; `ok` says whether the length fits the source. -/
def sendWith (d b ch : Nat) (r : FibreRef) (t : Team) (f : Fibre) (s : State) (ok : Bool)
    (src : Except Trap (List Piece × Bool × List Nat)) : Act :=
  match src, endpointOf s t ch with
  | .error x, _ => .error (.trap x)
  | .ok _, .error e => chanError r t e s
  | .ok (ps, read, poison), .ok (h, e) =>
    if b = 0 ∨ h.slotKib * 1024 < b ∨ !ok then chanError r t 2 s
    else
        let lanes := sendLanes h e
        let rxs := lanes.filterMap (fun l => (receiverOf h e l).map (fun x => (l, x)))
        if s.waitsBefore t.id ch r ≠ 0 ∨ !permitsLeft h e 0 then
          (if s.permitWaits.any (fun w => w.who == r) then wait s
           else
             let w : PermitWait := { who := r, ctx := t.ctx, chan := ch, pc := f.pc.toNat, since := t.residentTime s.aclk, until_ := none }
             wait ({ s with permitWaits := s.permitWaits ++ [w] }.notePermits))
        else
          match issueCmds r t f 2 [(d, ofNat64 e.send)] (fun id =>
            (rxs.zip (List.range rxs.length)).map (fun p => sendCmd r t f h e p.1.2 p.1.1 e.send b (id + p.2) id ps read poison)) s s with
          | .error x => .error x
          | .ok s =>
            let s := s.endPermitWaits (fun x => x == r)
            let s := s.updEnd t.ctx ch t.id (fun e =>
              { e with
                send := (e.send + 1) % 2 ^ 32
                permit := lanes.foldl (fun p l => putAt p (e.entry l) (p.getD (e.entry l) 0 - 1)) e.permit })
            .ok (s.count t.ctx 0x60 lanes.length)

def execChanSend (d a b : BitVec 7) (ch : BitVec 6) : State → Host.Outcome State Fault Refusal :=
  isa 2 { rd := [a.toNat, b.toNat], wr := [d.toNat], near := false, long := true } (fun r t f s =>
    let n := (f.reg b.toNat).toNat
    let src : Except Trap (List Piece × Bool × List Nat) :=
      match scratchOffset (f.reg a.toNat) with
      | .error x => .error x
      | .ok off => (scratchPlace t f off n).map (fun l => ([.read l n], false, []))
    sendWith d.toNat n ch.toNat r t f s true src)

/-- The bytes of a tile in row order, FP32 or BF16, and the places among the first `b` that come from a poisoned element. -/
def tileSource (t : Team) (tile b : Nat) (half : Bool) : List Piece × Bool × List Nat :=
  let w := if half then 2 else 4
  let es := List.range (b / w)
  ([.known (es.flatMap (fun e =>
      let v := (t.accAt tile e).toNat
      bytesOfNat w (if half then bf16.nearest (fp32.decode v) else v)))], true, (es.filter (fun e => t.accBad tile e)).flatMap (fun e => (List.range w).map (fun i => w * e + i)))

/-- A send from an accumulator tile (12 R248, 20 R428). -/
def sendAcc (d b : BitVec 7) (ch : BitVec 6) (tile : BitVec 6) (half : Bool) : State → Host.Outcome State Fault Refusal :=
  isa 2 { rd := [b.toNat], wr := [d.toNat], tiles := [tile.toNat], tileOf := some tile.toNat, near := false, long := true } (fun r t f s =>
    let n := (f.reg b.toNat).toNat
    let w := if half then 2 else 4
    if s.tileBusy t tile.toNat then wait s
    else sendWith d.toNat n ch.toNat r t f s (n % w == 0 && decide (n ≤ w * tileElems)) (.ok (tileSource t tile.toNat n half)))

def execChanSendAcc (d b : BitVec 7) (ch tile : BitVec 6) : State → Host.Outcome State Fault Refusal := sendAcc d b ch tile false

def execChanSendAccBf16 (d b : BitVec 7) (ch tile : BitVec 6) : State → Host.Outcome State Fault Refusal := sendAcc d b ch tile true

/-! ### CHAN.wait and CHAN.release (12 R249, R250) -/

/-- Message `n` stands before count `c`, compared modulo 2^32. -/
def countBefore (n c : Nat) : Bool := decide (2 ^ 31 ≤ (n + 2 ^ 32 - c % 2 ^ 32) % 2 ^ 32)

/-- The endpoint and the lane of the direction it receives: its own lane for a feed-forward endpoint, any lane of the channel otherwise. -/
def receiving (s : State) (t : Team) (ch lane : Nat) : Except Nat (Chan × Endpoint) :=
  match endpointOf s t ch with
  | .error e => .error e
  | .ok (h, e) => if (e.ff && lane != e.lane) || (!e.ff && decide (h.nf ≤ lane)) then .error 1 else .ok (h, e)

def execChanWait (d b : BitVec 7) (ch : BitVec 6) (ln : BitVec 2) : State → Host.Outcome State Fault Refusal :=
  isa 2 { rd := [b.toNat], wr := [d.toNat], near := false, long := true } (fun r t f s =>
    let n := lowNat 32 (f.reg b.toNat)
    match receiving s t ch.toNat ln.toNat with
    | .error e => chanError r t e s
    | .ok (h, e) =>
      if countBefore n (e.release.getD (e.entry ln.toNat) 0) then chanError r t 3 s
      else
        let i := slotIndex h e ln.toNat n
        let l : Loc := .scr t.id (e.rxBar + 32 * i)
        let o := s.barAt l
        if barPhase o ≠ (n / h.depth % 2 == 1) then
          waitIn s (issueLong r f 2 (.value [(d.toNat, ofNat64 (e.rxOff + i * (h.slotKib * 1024)))] none) [d.toNat] [] []
            (s.barAcquire r o (s.barInfo l).lastLanded))
        else if barTimedOut o then .error (.trap (mkTrap 0x0B 0 (e.rxBar + 32 * i)))
        else if f.counter.any (fun c => decide (15 ≤ f.cf.getD c 0)) then wait s
        else .error (.hold ((s.startBarTimer l o).updFibre r (fun f =>
          { f with status := .chanWait l (n / h.depth % 2 == 1) d.toNat (e.rxOff + i * (h.slotKib * 1024)) }))))

def execChanRelease (b : BitVec 7) (ch : BitVec 6) (ln : BitVec 2) : State → Host.Outcome State Fault Refusal :=
  isa 2 { rd := [b.toNat], near := false, long := true } (fun r t f s =>
    let n := lowNat 32 (f.reg b.toNat)
    match receiving s t ch.toNat ln.toNat with
    | .error e => chanError r t e s
    | .ok (_, e) =>
      let i := e.entry ln.toNat
      let c := e.release.getD i 0
      if n ≠ c ∨ !countBefore n (e.landed.getD i 0) then chanError r t 3 s
      else if f.loadsPending then wait s
      else
        match issueLong r f 2 (.value [] none) [] [] [] s with
        | .error x => .error x
        | .ok s =>
          let s := s.updEnd t.ctx ch.toNat t.id (fun e => { e with release := putAt e.release i ((c + 1) % 2 ^ 32) })
          .ok (s.updCtx t.ctx (fun x => { x with chans := x.chans.map (fun (h : Chan) =>
            if h.idx == ch.toNat then { h with returning := h.returning ++ [(e.ff, ln.toNat)] } else h) })))

/-! ### Device steps -/

/-- The command is the oldest message of its direction and lane. -/
def State.firstMessage (s : State) (c : Cmd) (ch : Nat) (fwd : Bool) (lane : Nat) : Bool :=
  (s.cmds.find? (fun x => x.ctx == c.ctx && (match x.kind with
    | .chan k w l _ _ _ => k == ch && w == fwd && l == lane
    | _ => false))).any (fun x => x.id == c.id)

/-- SLOT_LANDING of a message: its bytes are in the receive slot, and the slot's barrier counts one arrival and the bytes in one step (12 R247, R251). -/
def execSlotLanding (cmd : Nat) (s : State) : Host.Outcome State Fault Refusal :=
  device (match s.cmd? cmd with
    | none => s
    | some c =>
      match c.kind, c.stages with
      | .chan ch fwd lane n bar peer, g :: rest =>
        if !s.firstMessage c ch fwd lane then s
        else if !g.read then readStage s c g rest
        else
          let s := g.chunks.foldl (fun s k => performChunk s c k) s
          let off := match bar with | .scr _ o => o | _ => 0
          let s := s.completeAt peer (.arrival off c.total)
          let s := s.updEnd c.ctx ch peer (fun e => { e with landed := putAt e.landed (e.entry lane) ((n + 1) % 2 ^ 32) })
          s.removeCmd cmd
      | _, _ => s)

/-- PERMIT_RETURN on a channel: the first permit on its way reaches its sender (12 Table 12.2). -/
def execPermitReturn (ctx ch : Nat) (s : State) : Host.Outcome State Fault Refusal :=
  device (match s.chan? ctx ch with
    | none => s
    | some h =>
      match h.returning with
      | [] => s
      | (fwd, lane) :: rest =>
        let s := s.putChan ctx { h with returning := rest }
        (match h.ends.find? (fun e => e.ff != fwd && (fwd || e.lane == lane)) with
         | some e => (s.updEnd ctx ch e.team (fun e => { e with permit := putAt e.permit (e.entry lane) (e.permit.getD (e.entry lane) 0 + 1) })).notePermits
         | none => s))

/-- A fibre has been blocked for want of a permit for longer than its endpoint's time-out (12 R250). -/
def State.permitDue (s : State) (w : PermitWait) : Bool :=
  match s.team? w.who.team, s.chan? w.ctx w.chan with
  | some t, some h =>
    t.resident && !s.permitsFor w && (h.ends.find? (fun e => e.team == t.id)).any (fun e =>
      e.timeout != 0 && decide (e.timeout * 4096 < t.residentTime s.aclk - w.since))
  | _, _ => false

/-- PERMIT_TIMEOUT of the first wait that is due: the channel protocol error with detail 4 at the blocked send (12 R250). -/
def execPermitTimeout (s : State) : Host.Outcome State Fault Refusal :=
  device (match s.permitWaits.find? s.permitDue with
    | none => s
    | some w =>
      match s.team? w.who.team, s.fibre? w.who with
      | some _, some f =>
        let s := s.dropPermitWait w
        if f.pc.toNat = w.pc ∧ f.handler.isNone ∧ f.entering.isNone then
          (s.count w.ctx 0x62 1).raiseAt w.who (mkTrap 0x16 4 0) [] 0
        else s
      | _, _ => { s with permitWaits := s.permitWaits.filter (fun x => x != w) })

end Sys2Proof.Machine
end

