-- ==== Sys2Proof/Machine/Wdq.lean ====
section
/-! DEFINITION. Work distributors: WDQ, opcode 0x7D (20 R429, 05 R123, R124), and the device step WDQ_ANSWER. -/

namespace Sys2Proof.Machine

/-- A distributor record that WDQ.init refuses (05 R123). -/
def wdqBad (v : Nat) : Bool :=
  bitsOf v 0 16 == 0 || bitsOf v 16 16 == 0 || bitsOf v 32 2 == 3 || bitsOf v 34 30 != 0 || bitsOf v 96 160 != 0

/-- The coordinates that a Morton code interleaves: bit i of x at bit 2i, bit i of y at bit 2i + 1. -/
def mortonCell (code : Nat) : Nat × Nat :=
  (List.range 16).foldl (fun (p : Nat × Nat) i => (p.1 + bitsOf code (2 * i) 1 * 2 ^ i, p.2 + bitsOf code (2 * i + 1) 1 * 2 ^ i)) (0, 0)

/-- The tile with a sequence number (05 R124). -/
def tileOfSeq (w h order q : Nat) : Nat × Nat :=
  match order with
  | 0 => (q % w, q / w)
  | 1 => (q / h, q % h)
  | _ =>
    let n := max (bitLen (w - 1)) (bitLen (h - 1))
    (((List.range (4 ^ n)).map mortonCell).filter (fun c => decide (c.1 < w ∧ c.2 < h))).getD q (0, 0)

def State.wdq? (s : State) (ctx q : Nat) : Option Distributor := (s.ctx? ctx).bind (fun c => c.wdq.find? (fun d => d.idx == q))

/-- The distributor becomes another one, or unloaded. -/
def State.putWdq (s : State) (ctx q : Nat) (d : Option Distributor) : State :=
  s.updCtx ctx (fun c => { c with wdq := d.toList ++ c.wdq.filter (fun x => x.idx != q) })

/-- The 8-byte answer of a distributor, and the distributor after it. -/
def wdqAnswerOf (d : Option Distributor) : Nat × Option Distributor :=
  match d with
  | none => (0xFFFFFFFF, none)
  | some x =>
    if x.width * x.height ≤ x.next then (0xFFFFFFFF + x.width * x.height * 2 ^ 32, some x)
    else
      let c := tileOfSeq x.width x.height x.order x.next
      (c.1 + c.2 * 2 ^ 16 + x.next * 2 ^ 32, some { x with next := x.next + 1 })

/-- One request is served: its answer lands as 8 bytes (05 R124). -/
def serveWdq (s : State) (c : Cmd) (q : Nat) (dst : Loc) : State :=
  let (v, d) := wdqAnswerOf (s.wdq? c.ctx q)
  let s := s.putWdq c.ctx q d
  let s := s.engineScratch dst ((bytesOfNat 8 v).map some) [] (c.aloneAt dst)
  s.landScan c 8 true

/-- Every request that has arrived is served from the present state, before an init or a reset. -/
def State.serveAllWdq (s : State) (ctx q : Nat) : State :=
  (s.cmds.filter (fun c => c.ctx == ctx)).foldl (fun s c =>
    match c.kind with
    | .wdq k dst => if k = q ∧ !c.ended then serveWdq s c q dst else s
    | _ => s) s

def execWdqAnswer (ctx q : Nat) (s : State) : Host.Outcome State Fault Refusal :=
  device (match s.cmds.find? (fun c => c.ctx == ctx && !c.ended && (match c.kind with | .wdq k _ => k == q | _ => false)) with
    | none => s
    | some c => (match c.kind with | .wdq _ dst => serveWdq s c q dst | _ => s))

def execWdqInit (a : BitVec 7) (q : BitVec 4) : State → Host.Outcome State Fault Refusal :=
  isa 2 { rd := [a.toNat], near := false, long := true } (fun r t f s0 =>
    let va := (f.reg a.toNat).toNat
    withRecord r t f va 4 32 s0 (fun v s =>
      if wdqBad v then .error (.trap (invalidRecord 6 va))
      else
        let s := (s.serveAllWdq t.ctx q.toNat).putWdq t.ctx q.toNat
          (some ⟨q.toNat, bitsOf v 0 16, bitsOf v 16 16, bitsOf v 32 2, bitsOf v 64 32⟩)
        waitIn s0 (issueLong r f 2 (.value [] none) [] [] [] s)))

def execWdqNext (d a : BitVec 7) (q : BitVec 4) (c : BitVec 7) : State → Host.Outcome State Fault Refusal :=
  isa 2 { rd := [a.toNat, c.toNat], wr := [d.toNat], near := false, long := true } (fun r t f s =>
    let off := (f.reg a.toNat).toNat
    match targetOf s r t f (f.reg c.toNat) with
    | .error e => .error e
    | .ok target =>
      if off % 8 ≠ 0 then .error (.trap (.misaligned (off % 2 ^ 52)))
      else
        match scratchPlace t f off 8 with
        | .error e => .error (.trap e)
        | .ok l =>
          if s.enginesFull t then wait s
          else
          match issueLong r f 2 (.cmd s.nextId [(d.toNat, 8)]) [d.toNat] [] [] s with
          | .error e => .error e
          | .ok s =>
            .ok { s with
              nextId := s.nextId + 1
              cmds := s.cmds ++ [{ Cmd.blank s.nextId s.nextId r t f 7 with target := target, total := 8, kind := .wdq q.toNat l }] })

def execWdqReset (q : BitVec 4) : State → Host.Outcome State Fault Refusal :=
  isa 2 { near := false, long := true } (fun r t f s =>
    waitIn s (issueLong r f 2 (.value [] none) [] [] [] ((s.serveAllWdq t.ctx q.toNat).putWdq t.ctx q.toNat none)))

end Sys2Proof.Machine
end

