-- ==== Sys2Proof/Machine/Jobs.lean ====
section
/-! DEFINITION. The deadline scheduler: topiary graphs, admission (05 R107, R108), nodes and instances (R114 to R121), dispatch and pre-emption (R105, R106, R126, R127), budgets (R102 to R104), saves and restores (06 R134 to R140), and their device steps. -/

namespace Sys2Proof.Machine

/-! ### Graphs -/

def Graph.node (g : Graph) (n : Nat) : Node := g.nodes.getD n ⟨.join 1, []⟩

/-- Successors that are named. -/
def Node.succs (n : Node) : List Nat := n.succ.filter (fun x => x != 0xFFFF)

/-- Nodes reached from some nodes along successors, never through `avoid`; `fuel` bounds the rounds. -/
def Graph.closure (g : Graph) (avoid : Nat) : Nat → List Nat → List Nat
  | 0, xs => xs
  | fuel + 1, xs =>
    g.closure avoid fuel ((xs.flatMap (fun x => (g.node x).succs)).foldl (fun a y => if y == avoid || a.contains y then a else a ++ [y]) xs)

/-- The body of a WHILE node: the nodes on cycles through its succ0. -/
def Graph.bodyOf (g : Graph) (w : Nat) : List Nat :=
  let start := (g.node w).succ.getD 0 0xFFFF
  if start = 0xFFFF ∨ start = w then []
  else (g.closure w g.nodes.length [start]).filter (fun x => (g.closure g.nodes.length g.nodes.length [x]).any (fun y => (g.node y).succs.contains w))

/-! ### Admission (05 R108) -/

/-- The blocking term of a JOB node. -/
def blockingTerm (hops : Nat) : Nat := 151200 + (9216 * hops + 999) / 1000

/-- The span of a node. -/
def Node.span (n : Node) : Nat :=
  match n.kind with
  | .job k _ hops _ => k.nslices * (k.budget + blockingTerm hops) + 3600
  | .seal _ _ => 39600
  | _ => 3600

/-- The larger of two lengths of walks, where there are any. -/
def maxWalk (a b : Option Nat) : Option Nat :=
  match a, b with
  | some x, some y => some (max x y)
  | some x, none => some x
  | none, b => b

/-- The largest sum of spans over the walks from a node to a target, or to a node with no successor, that pass no blocked node: a WHILE node's body is gone round at most guard times, and may be left in the last round. -/
def Graph.longest (g : Graph) : Nat → Option Nat → List Nat → Nat → Option Nat
  | 0, target, _, x => if target = some x then some 0 else none
  | fuel + 1, target, blk, x =>
    if target = some x then some 0
    else if blk.contains x then none
    else
      let n := g.node x
      match n.kind with
      | .while_ guard _ =>
        let body := n.succ.getD 0 0xFFFF
        let exit := n.succ.getD 1 0xFFFF
        let cyc := if body = 0xFFFF then none else g.longest fuel (some x) (x :: blk) body
        let trips := fun (k : Nat) => match cyc with | some c => k * (c + 3600) | none => 0
        let out := if exit = 0xFFFF then none else (g.longest fuel target (x :: blk) exit).map (fun o => 3600 + trips guard + o)
        let leave := if body = 0xFFFF then none else (g.longest fuel target (x :: blk) body).map (fun l => 3600 + trips (guard - 1) + l)
        maxWalk out leave
      | _ =>
        if n.succs.isEmpty then (if target.isNone then some n.span else none)
        else ((n.succs.map (g.longest fuel target (x :: blk))).foldl maxWalk none).map (fun l => n.span + l)

/-- L of an instance. -/
def Graph.pathLength (g : Graph) : Nat := (g.longest (g.nodes.length + 1) none [] g.entry).getD 0

/-- How often a node counts: the guards of the WHILE bodies it lies in. -/
def Graph.times (g : Graph) (x : Nat) : Nat :=
  ((List.range g.nodes.length).map (fun w =>
    match (g.node w).kind with
    | .while_ guard _ => if (g.bodyOf w).contains x then guard else 1
    | _ => 1)).foldl (· * ·) 1

/-- D of a core kind. -/
def Graph.demand (g : Graph) (mcore : Bool) : Nat :=
  ((List.range g.nodes.length).map (fun x =>
    match (g.node x).kind with
    | .job k _ _ _ => if k.mcore == mcore then g.times x * (k.teams * k.nslices * k.budget) else 0
    | _ => 0)).foldl (· + ·) 0

/-- σ of a core kind in units of 2^-16 cores, rounded up; T in aclk is rel_deadline × 18 / 5. -/
def Graph.share (g : Graph) (mcore : Bool) : Nat :=
  let d := g.demand mcore
  let n := (if g.demand false = 0 then 0 else 1) + (if g.demand true = 0 then 0 else 1)
  let room := 18 * g.relDeadline - 5 * g.pathLength
  if d = 0 then 0 else (n * d * 5 * 2 ^ 16 + room - 1) / max 1 room

/-- Shares that the live admitted instances of a class hold. -/
def State.sharesHeld (s : State) (cls : Nat) (mcore : Bool) : Nat :=
  ((s.insts.filter (fun x => x.admitted && (s.graphOf x).any (fun g => g.cls == cls))).map (fun x => if mcore then x.shareM else x.shareC)).foldl (· + ·) 0

/-- The admission test of one kind. -/
def State.admitsKind (s : State) (g : Graph) (mcore : Bool) : Bool :=
  let n := (s.ctxs.map (fun c => c.reserves g.cls mcore)).foldl (· + ·) 0
  g.demand mcore == 0 ||
  (if g.cls = 0 then decide (s.sharesHeld 0 mcore + g.share mcore ≤ n * 2 ^ 16)
   else decide (16 * (s.sharesHeld 1 mcore + g.share mcore) ≤ n * 15 * 2 ^ 16))

/-- The admission test (05 R107, R108). -/
def State.admits (s : State) (g : Graph) : Bool :=
  decide (5 * g.pathLength < 18 * g.relDeadline) && s.admitsKind g false && s.admitsKind g true

/-! ### Reaching nodes (05 R120) -/

def State.updInst (s : State) (id : Nat) (f : Inst → Inst) : State :=
  { s with insts := s.insts.map (fun (x : Inst) => if x.id == id then f x else x) }

/-- A dependence word stands FULL now. -/
def State.depFull (s : State) (ctx va : Nat) : Bool := (s.watched ctx va).any s.tagFull

/-- A node is reached from another (none: from the start): it is reached and incomplete until its action is done. A JOB node latches its words from now on, and one that names a word no longer watched ends the instance (05 R455); a WHILE node reached from outside its body starts its count anew; a JOIN node counts its reaches. A node that is reached while it is reached and incomplete stays reached once: the two reaches are one run, and a WHILE node's count starts anew when the second comes from outside (log entry 97). -/
def State.reach (s : State) (inst node : Nat) (src : Option Nat) : State :=
  match s.insts.find? (fun x => x.id == inst) with
  | none => s
  | some x =>
    match s.graphOf x with
    | none => s
    | some g =>
      let old := sparseGet 0 x.counts node
      let count := match (g.node node).kind with
        | .while_ _ _ => if src.any (fun p => (g.bodyOf node).contains p) then old else 0
        | .join _ => old + 1
        | _ => 0
      let deps := match (g.node node).kind with | .job _ _ _ ds => ds | _ => []
      let run : NodeRun := { node := node, latched := deps.map (fun a => s.depFull x.ctx a), ready := false, job := s.nextId, nextTeam := 0, left := 0, readyAt := 0, since := s.aclk }
      let s := { s.updInst inst (fun x => { x with
          counts := sparsePut 0 x.counts node count
          runs := if x.runs.any (fun r => r.node == node) then x.runs else x.runs ++ [run] }) with
        nextId := s.nextId + 1 }
      match deps.find? (fun a => (s.watched x.ctx a).isNone) with
      | some a => s.endInstance inst x.ctx 2 0x03 a true
      | none => s

/-- A node is complete: it reaches some successors (05 R120); with nothing reached and incomplete the instance completes (R121). -/
def State.completeNode (s : State) (inst node : Nat) (succs : List Nat) : State :=
  let s := s.updInst inst (fun x => { x with runs := x.runs.filter (fun r => r.node != node) })
  (succs.foldl (fun s n => s.reach inst n (some node)) s).closeInstances

/-- The condition word of a COND or WHILE node, read at its home. -/
def State.condWord (s : State) (ctx va : Nat) : Except Nat Nat :=
  match translate s ctx 8 0 va .load false with
  | .ok l =>
    (match l.loc va with
     | .mem m => if s.poisonedAt (.mem m) then .error 0x12 else .ok (natOfBytes (s.physBytes m.pa 8))
     | _ => .error 0x03)
  | _ => .error 0x03

/-- The word of a SIGNAL node is filled or counted down; a host-class word goes out as a WRITE or a fetch-and-add (03 R82). -/
def State.signal (s : State) (ctx va : Nat) (down : Bool) (v : Dword) : Option State :=
  match translate s ctx 8 0 va (if down then .atomic else .store) false with
  | .ok l =>
    (match l.loc va with
     | .mem m =>
       if !l.tagged then none
       else some (if down then s.countdownAt m v .other ctx (homeDie (lineOf m.pa)) none else s.fillAt m (some v) .other ctx none)
     | .remote true w o =>
       some (s.send true ctx w o (if down then .atomic 0 (-v) 0 else .write ((bytesOf v 8).map some)) .device)
     | .remote false _ _ => none
     | _ => none)
  | _ => none

/-- Every host-class write of the context's jobs is acknowledged (03 R82). -/
def State.hostWritesDone (s : State) (ctx : Nat) : Bool :=
  !s.remote.any (fun o => o.host && o.ctx == ctx && o.answer.isNone && !o.failed && (match o.kind with | .write _ => true | _ => false))

/-- A seal of a SEAL node's members starts, or waits for a conversion, its timer running from the node's reach (05 R120, 11 R240). An entry that cannot be read ends the instance with the cause of the read (log entry 97). -/
def sealNode (s : State) (inst node ctx tid mask since : Nat) : State :=
  match s.validEntry ctx 0 tid with
  | .error t => s.failNode inst node ctx t.cause
  | .ok (_, e) =>
    if e.naxes = 0 ∨ (List.range 4).any (fun l => mask.testBit l && decide ((e.localMembers s.grid).length ≤ l)) then
      s.failNode inst node ctx 0x18
    else if e.state = 2 then s.addDemand ⟨.node inst node, ctx, tid, 0, since, false⟩
    else if e.state = 1 then s
    else ((List.range 4).filter (fun l => mask.testBit l && !e.sealedMask.testBit l)).foldl (fun s l =>
      s.startSeal e ⟨ctx, tid, l, none, some (inst, node)⟩) s

/-- The action of a reached node other than a JOB node, and the readiness of a JOB node whose words have all been observed FULL. -/
def actNode (s : State) (x : Inst) (g : Graph) (r : NodeRun) : State :=
  let n := g.node r.node
  let setReady := fun (s : State) (left : Nat) => s.updInst x.id (fun y => { y with
    runs := y.runs.map (fun (q : NodeRun) => if q.node == r.node then { q with ready := true, readyAt := s.now, left := left } else q) })
  match n.kind with
  | .job k _ _ deps => if !r.ready ∧ (List.range deps.length).all (fun i => r.latched.getD i false) then setReady s k.teams else s
  | .cond word =>
    (match s.condWord x.ctx word with
     | .error c => (s.countCause c 8).endInstance x.id x.ctx 2 c word true
     | .ok v =>
       let ss := n.succs
       s.completeNode x.id r.node (if v < ss.length then [ss.getD v 0] else ss.getLast?.toList))
  | .while_ guard word =>
    (match s.condWord x.ctx word with
     | .error c => (s.countCause c 8).endInstance x.id x.ctx 2 c word true
     | .ok v =>
       let c := sparseGet 0 x.counts r.node
       let body := n.succ.getD 0 0xFFFF
       let exit := n.succ.getD 1 0xFFFF
       if v ≠ 0 ∧ c < guard then
         (s.updInst x.id (fun y => { y with counts := sparsePut 0 y.counts r.node (c + 1) })).completeNode x.id r.node ([body].filter (fun a => a != 0xFFFF))
       else
         let s := if v ≠ 0 then s.count x.ctx 0x26 1 else s
         s.completeNode x.id r.node ([exit].filter (fun a => a != 0xFFFF)))
  | .join count =>
    let c := sparseGet 0 x.counts r.node
    if c < count then s
    else
      let s := s.updInst x.id (fun y => { y with counts := sparsePut 0 y.counts r.node (c - count) })
      if c = count then s.completeNode x.id r.node n.succs
      else n.succs.foldl (fun (s : State) k => s.reach x.id k (some r.node)) s
  | .signal down word v =>
    (match s.signal x.ctx word down v with
     | none => s.endInstance x.id x.ctx 2 0x03 word true
     | some s' => if s.hostWritesDone x.ctx then s'.completeNode x.id r.node n.succs else s)
  | .seal tid mask => if r.ready then s else sealNode (setReady s 0) x.id r.node x.ctx tid mask r.since

/-- JOB_READY of a node: a reached JOB node becomes ready, and a reached node of another kind acts (log entry 30). -/
def execJobReady (inst node : Nat) (s : State) : Host.Outcome State Fault Refusal :=
  device (match s.insts.find? (fun x => x.id == inst) with
    | none => s
    | some x =>
      match s.graphOf x, x.runs.find? (fun r => r.node == node) with
      | some g, some r => actNode s x g r
      | _, _ => s)

/-- SEAL_NODE_COMPLETE: every named member's seal is complete (05 R120). -/
def execSealNodeComplete (inst node : Nat) (s : State) : Host.Outcome State Fault Refusal :=
  device (match s.insts.find? (fun x => x.id == inst) with
    | none => s
    | some x =>
      match s.graphOf x, x.runs.find? (fun r => r.node == node) with
      | some g, some r =>
        (match (g.node node).kind with
         | .seal _ _ =>
           if r.ready ∧ !s.sealing.any (fun y => y.node == some (inst, node)) ∧ (s.demandOf (.node inst node)).isNone then
             s.completeNode inst node (g.node node).succs
           else s
         | _ => s)
      | _, _ => s)

/-- Every access of a job is performed at system scope: its commands have ended, its REDF operations and the collapses of its stores are done, and no remote write of it, or of a fibre of the context that has ended, is unanswered (05 R120, 09 R196). -/
def State.jobSettled (s : State) (ctx job : Nat) : Bool :=
  let of := fun (k : Nat) => (s.team? k).any (fun t => t.job == job && t.ctx == ctx)
  !s.cmds.any (fun c => of c.who.team) &&
  !s.coh.redfs.any (fun p => of p.who.team) &&
  !s.coh.probes.any (fun p => match p.writer with | .fibre r => of r.team | _ => false) &&
  !s.remote.any (fun o => o.ctx == ctx && o.answer.isNone && !o.failed &&
    (match o.kind with | .write _ => true | _ => false) &&
    (match o.who with | .store r _ => of r.team | .device => true | _ => false))

/-- JOB_COMPLETE: the last team of the grid has ended, all the job's accesses are performed and the host has acknowledged its writes, as a release at system scope (05 R120). -/
def execJobComplete (inst node : Nat) (s : State) : Host.Outcome State Fault Refusal :=
  device (match s.insts.find? (fun x => x.id == inst) with
    | none => s
    | some x =>
      match s.graphOf x, x.runs.find? (fun r => r.node == node) with
      | some g, some r =>
        (match (g.node node).kind with
         | .job k _ _ _ =>
           if r.ready ∧ r.nextTeam = k.teams ∧ r.left = 0 ∧ s.jobSettled x.ctx r.job ∧ s.hostWritesDone x.ctx then s.completeNode inst node (g.node node).succs else s
         | _ => s)
      | _, _ => s)

/-! ### Starting an instance (05 R107, R119) -/

/-- A graph whose start word is FULL and that has room for an instance: context, graph, the time the word became FULL; the word is taken. -/
def State.takeStart (s : State) : Option (Nat × Graph × Nat × State) :=
  (s.ctxs.flatMap (fun c => c.graphs.map (fun g => (c.id, g)))).findSome? (fun p =>
    if p.2.startLost ∨ p.2.maxLive ≤ s.liveOf p.1 p.2.handle then none
    else
      match s.watched p.1 p.2.startWord with
      | some w => if s.tagFull w then some (p.1, p.2, p.2.filledAt.getD s.now, s.setTag w false) else none
      | none => none)

/-- An instance of a graph is admitted and reaches its entry node, or is refused with kind 1. -/
def State.startInstance (s : State) (ctx : Nat) (g : Graph) (fill : Nat) : State :=
  let tested := g.cls ≤ 1
  if tested ∧ !s.admits g then
    (s.reportTermination ctx g.faultWord 1 0 0).count ctx 0x21 1
  else
    let id := s.nextId
    let x : Inst := { id := id, ctx := ctx, graph := g.handle, fillTime := fill, shareC := if tested then g.share false else 0, shareM := if tested then g.share true else 0, admitted := decide tested, runs := [], counts := [], excursion := s.thermal.getLsbD 0, missed := false }
    let s := { s with insts := s.insts ++ [x], nextId := id + 1 }
    (if tested then s.count ctx 0x20 1 else s).reach id g.entry none

/-- INSTANCE_START: the oldest start taken at a FULL transition, or a start word that stands FULL. -/
def execInstanceStart (s : State) : Host.Outcome State Fault Refusal :=
  device (match s.starts with
    | (ctx, h, fill) :: rest =>
      (match (s.ctx? ctx).bind (fun c => c.graphs.find? (fun g => g.handle == h)) with
       | some g => { s with starts := rest }.startInstance ctx g fill
       | none => { s with starts := rest })
    | [] =>
      match s.takeStart with
      | some (ctx, g, fill, s) => s.startInstance ctx g fill
      | none => s)

/-- DEADLINE_MISS: the first admitted instance that is late has kind 4 written to its graph's fault word (05 R110). -/
def execDeadlineMiss (s : State) : Host.Outcome State Fault Refusal :=
  device (match s.insts.find? (fun x => x.admitted && !x.missed && (s.graphOf x).any (fun g => decide (x.fillTime + g.relDeadline < s.now))) with
    | none => s
    | some x =>
      match s.graphOf x with
      | none => s
      | some g =>
        let s := s.updInst x.id (fun y => { y with missed := true })
        (s.report x.ctx g.faultWord (faultWordOf 4 0 x.ctx x.excursion 0) false).count x.ctx 0x22 1)

/-! ### Dispatch (05 R105, R106, 06 R126, R127) -/

/-- Insert a team in the dispatch order. -/
def insertTeam (t : Team) : List Team → List Team
  | [] => [t]
  | u :: us => if t.before u then t :: u :: us else u :: insertTeam t us

/-- The core on which a single team is placed. -/
def State.coreFor (s : State) (t : Team) : Option CoreId :=
  let fit := (coresOf t.kernel.mcore).filter (fun c => fitsBeside (s.onCore c) t && !s.keptFrom t c)
  if !s.reservationLeft s.onCore t 1 then none
  else
    match fit.find? (fun c => (s.onCore c).any (fun x => x.job == t.job && x.ctx == t.ctx)) with
    | some c => some c
    | none => fit.head?

/-- The rectangle a cluster is placed on: the one it claimed, else the first that is free for it (05 R106, 06 R127, R140). -/
def State.rectangleFor (s : State) (t : Team) : Option (List CoreId) :=
  let rs := match s.claimOf t with
    | some c => [c.cores]
    | none => rectangles t.kernel
  if s.clusterWhole t && s.reservationLeft s.onCore t (s.clusterNeed t) then
    rs.find? (fun cs => s.clusterFits s.onCore t cs && cs.all (fun c => !s.keptFrom t c))
  else none

/-- L1 ways become scratchpad: the lines that lay in them are written back and deregistered (08 R167). Which lines those are is free; a core with no way left keeps none. -/
def State.takeWays (s : State) (c : CoreId) : State :=
  let lines := (s.coh.l1.filter (fun x => x.core == c)).map (fun x => x.line)
  let gone := if s.freeWays (some c) = 0 then lines
    else ((List.range lines.length).zip lines).filterMap (fun p => if s.freeBit (200 + p.1) then some p.2 else none)
  gone.foldl (fun s l => s.evictL1 c l) s

/-- A core takes a team: an acquire at system scope (05 R115); a core that held no team of the context first drops its lines (06 R143). -/
def State.prepareCore (s : State) (t : Team) (c : CoreId) : State :=
  if (s.onCore c).any (fun x => x.ctx == t.ctx) then s.acquireL1 c none
  else { s with coh := { s.coh with
    l1 := s.coh.l1.filter (fun x => x.core != c)
    regn := s.coh.regn.filter (fun p => p.2 != c) } }

/-- The core's ways and bins after a team has come to it (08 R167, 06 R130). -/
def State.settleCore (s : State) (c : CoreId) : State := (s.takeWays c).shareBins c

/-- The lowest core slot that no team on a core has (07 R150). -/
def State.slotOn (s : State) (c : CoreId) : Nat :=
  let taken := (s.teams.filter (fun t => t.core == some c)).map (fun t => t.slot)
  ((List.range (taken.length + 1)).find? (fun k => !taken.contains k)).getD 0

/-- A saved team brings its nonempty bins back, also where the core's teams then hold more than 16 nonempty bins between them; it and its new core-mates deposit in an empty bin only while that is so no longer (06 R130; log entry 96). A saved team begins its restore; a discarded one is launched anew at its restart entry (06 Table 6.2). -/
def State.resume (s : State) (t : Team) (c : CoreId) : State :=
  let s := s.prepareCore t c
  (if t.state = .saved then
    { s with teams := s.teams.map (fun (x : Team) => if x.id == t.id then { x with state := .restoring, core := some c, slot := s.slotOn c } else x) }
  else s.updTeam t.id (fun x => { x with slot := s.slotOn c : Team }.launch c x.kernel.restartPc s.aclk)).settleCore c

/-- The first team, or the first cluster, of what is left of a job's grid is created and launched, each with its image slot; none while there is no room for one (06 R140). -/
def State.launchNew (s : State) (x : Inst) (r : NodeRun) (t : Team) (cs : List CoreId) : Option State :=
  let n := cs.length
  let put := fun (s : State) (m : Nat) =>
    let c := cs.getD m ⟨0, 0⟩
    (s.takeImage t.kernel).map (fun p =>
      let s := p.2.prepareCore t c
      ({ s with teams := s.teams ++ [({ t with id := t.id + m, linear := t.linear + m, member := m, image := p.1, slot := s.slotOn c } : Team).launch c t.kernel.entryPc s.aclk] } : State).settleCore c)
  ((List.range n).foldl (fun (a : Option State) m => a.bind (fun s => put s m)) (some s)).map (fun s =>
    { s.updInst x.id (fun y => { y with
        runs := y.runs.map (fun (q : NodeRun) => if q.node == r.node then { q with nextTeam := q.nextTeam + n } else q) }) with
      nextId := s.nextId + n })

/-- The run a new team belongs to. -/
def State.runOfNew (s : State) (t : Team) : Option (Inst × NodeRun) :=
  (s.nextTeams.find? (fun p => p.2.2 == t)).map (fun p => (p.1, p.2.1))

/-- A waiting slice gets its place, if there is one; a saved cluster is restored whole (06 R140). -/
def State.place (s : State) (t : Team) : Option State :=
  let isNew := (s.team? t.id).isNone
  let start := fun (cs : List CoreId) =>
    if isNew then (s.runOfNew t).bind (fun p => s.launchNew p.1 p.2 t cs)
    else if t.cluster.isSome then
      some ((s.waitingMembers t).foldl (fun s m => match cs[m.member]? with | some c => s.resume m c | none => s) s)
    else (cs.head?).map (fun c => s.resume t c)
  let s' := if t.cluster.isSome then (s.rectangleFor t).bind start else (s.coreFor t).bind (fun c => start [c])
  s'.map (fun s' => { s' with claims := s'.claims.filter (fun c => !c.isOf t) })

/-- A pre-emption request reaches a team (06 Table 6.2). -/
def State.requestPreempt (s : State) (team : Nat) : State :=
  match s.team? team with
  | none => s
  | some t =>
    if t.state != .running then s
    else if (s.ctx? t.ctx).all (fun c => c.preemptHandler == 0) then s.swapPoint team false false true
    else s.updTeam team (fun t => { t with state := .preemptPending, preempt := some s.aclk, preemptTrap := true })

/-- Highest class (as the least number) and latest deadline of some teams. -/
def topClass (ts : List Team) : Nat := (ts.map (fun t => t.cls)).foldl min 3
def lastDeadline (ts : List Team) : Nat := (ts.map (fun t => t.deadline)).foldl max 0

/-- The candidates for a slice: single cores by index, or the rectangles of its cluster by die and origin; the later, the better among equals (05 R106). Single cores of one index on several dies go by die, a choice of the model (log entry 93). -/
def victimGroups (k : Kernel) (cluster : Bool) : List (List CoreId) :=
  if cluster then rectangles k
  else
    let cs := coresOf k.mcore
    (List.range (meshCols k.mcore * meshRows k.mcore)).flatMap (fun i => (cs.filter (fun c => c.idx == i)).map (fun c => [c]))

/-- The best of some groups of cores that hold only lower classes: lowest class, then latest deadline, then the last in order. -/
def State.victimCores (s : State) (cls : Nat) (groups : List (List CoreId)) : Option (List CoreId) :=
  let held := fun (cs : List CoreId) => cs.flatMap (fun c => s.onCore c)
  let ok := groups.filter (fun cs => (held cs).all (fun t => decide (cls < t.cls)) && !(held cs).isEmpty)
  ok.foldl (fun (best : Option (List CoreId)) cs =>
    match best with
    | none => some cs
    | some b =>
      let kb := (topClass (held b), lastDeadline (held b))
      let kc := (topClass (held cs), lastDeadline (held cs))
      if kb.1 < kc.1 ∨ (kb.1 = kc.1 ∧ kb.2 ≤ kc.2) then some cs else some b) none

/-- The teams on some cores that still run are asked to leave for a slice; none when there is none. -/
def State.askToLeave (s : State) (cs : List CoreId) : Option State :=
  let vs := (cs.flatMap (fun c => s.onCore c)).filter (fun x => x.state == .running)
  if vs.isEmpty then none else some (vs.foldl (fun s x => s.requestPreempt x.id) s)

/-- A slice of a higher class that finds no place sends pre-emption requests to the teams of the core or the rectangle it chooses, which is kept for it; with the cores kept for other slices of its class it stays within the context's reservation (05 R105, R106). -/
def State.preemptFor (s : State) (t : Team) : Option State :=
  if !s.clusterWhole t then none
  else
    match s.claimOf t with
    | some c => s.askToLeave c.cores
    | none =>
      let standing := s.claimsStanding
      let groups := victimGroups t.kernel t.cluster.isSome
      let taken := fun (k : CoreId) => standing.any (fun c => c.cores.contains k)
      if !s.reservationLeft s.onCore t (claimedCores standing t.ctx t.cls t.kernel.mcore + s.clusterNeed t) then none
      else
        match s.victimCores t.cls (groups.filter (fun cs => !cs.any taken)) with
        | none => none
        | some cs => (s.askToLeave cs).map (fun s => { s with claims := standing ++ [⟨t.ctx, t.job, t.claimUnit, t.cls, cs⟩] })

/-- DISPATCH: the first waiting slice, in the dispatch order, that gets a place or sends a pre-emption request. -/
def execDispatch (s : State) : Host.Outcome State Fault Refusal :=
  device (
    let ts := ((s.candidates.filter s.mayDispatch).foldl (fun a t => insertTeam t a) [])
    (ts.findSome? (fun t => match s.place t with | some s' => some s' | none => s.preemptFor t)).getD s)

/-! ### Budgets and grace windows -/

/-- A forced save, counted, with its demotion when the budget has run out (05 R102, R104). -/
def State.forceSave (s : State) (t : Team) (demote keep : Bool) : State :=
  let s := (s.swapPoint t.id false true keep).count t.ctx 0x24 1
  if demote then s.demote t.id else s

/-- BUDGET_EXHAUSTED of the first resident team whose budget has run out: the trap waits for a fibre; with no trap handler a running team is saved by force at once (05 R102). In preempt_pending 06 Table 6.2 lists no budget event: the team's state stays, and the pre-emption's own grace window ends it (log entry 96). -/
def execBudgetExhausted (s : State) : Host.Outcome State Fault Refusal :=
  device (match s.teams.find? (fun t => t.resident && t.budgetOut.isNone && decide (t.budgetLeft s.aclk = 0)) with
    | none => s
    | some t =>
      let none_ := (s.ctx? t.ctx).all (fun c => c.trapHandler == 0)
      let s := s.updTeam t.id (fun t => { t with budgetOut := some s.aclk, budgetTrap := !none_ })
      if none_ && t.state == .running then s.forceSave t true false else s)

/-- BUDGET_GRACE_EXPIRY of the first running team that did not yield within 36,000 aclk (06 Table 6.2, log entry 96). -/
def execBudgetGraceExpiry (s : State) : Host.Outcome State Fault Refusal :=
  device (match s.teams.find? (fun t => t.state == .running && t.budgetOut.any (fun b => decide (b + 36000 ≤ s.aclk))) with
    | none => s
    | some t => s.forceSave t true false)

/-- PREEMPTION_GRACE_EXPIRY of the first team that did not yield within 36,000 aclk of its request. -/
def execPreemptionGraceExpiry (s : State) : Host.Outcome State Fault Refusal :=
  device (match s.teams.find? (fun t => t.state == .preemptPending && t.preempt.any (fun b => decide (b + 36000 ≤ s.aclk))) with
    | none => s
    | some t => s.forceSave t false true)

/-! ### Saves, discards and restores (06 R136 to R140) -/

/-- A bounded long-latency operation, which a save waits for (06 R136, R137). -/
def LongOp.bounded (op : LongOp) : Bool :=
  match op.kind with
  | .cmd _ _ => false
  | .seal _ _ _ _ => false
  | _ => true

/-- A fibre still has to complete its atomic clause; one stopped at an instruction of it that waits has not (06 R136, 15 R294). -/
def Fibre.inAtomic (f : Fibre) : Bool :=
  f.live && f.status == .ready && f.entering.isNone && !f.stopped && (match f.clause with | some c => hdrAtomic c.hdr | none => false)

/-- The team is drained: its atomic clauses are complete, its bounded operations done, its stores performed. -/
def State.drained (s : State) (t : Team) : Bool :=
  !s.mmas.any (fun m => m.team == t.id) &&
  t.fibres.all (fun f => f.away.isSome || (f.sq.isEmpty && !f.ll.any LongOp.bounded && !s.collapsesOf (.fibre ⟨t.id, f.idx⟩) && !f.inAtomic))

/-- The elapsed units of a team's open barrier phases are written into the objects; what is left of a unit runs on (07 R161). -/
def State.saveBars (s : State) (t : Team) : State :=
  (s.bars.filter (fun b => match b.obj with | .scr k _ => k == t.id | _ => false)).foldl (fun (s : State) b =>
    match b.since with
    | none => s
    | some a =>
      let o := s.barAt b.obj
      let k := (s.holderTime b.obj - a) / 4096
      (s.putBar b.obj (putBits o 44 20 (min (barElapsed o + k) (2 ^ 20 - 1)))).putBarInfo { b with since := some (a + 4096 * k) }) s

/-- SAVE_COMPLETE of the first saving team that is drained: its image is complete and its core free. -/
def execSaveComplete (s : State) : Host.Outcome State Fault Refusal :=
  device (match s.teams.find? (fun t => t.state == .saving && s.drained t) with
    | none => s
    | some t => ((s.saveBars t).updTeam t.id (fun t => { t with state := .saved, core := none })).writeImage t.id)

/-- A command's unread sources in the scratchpad of a team are read now, before the scratchpad is zeroed. -/
def Chunk.readAhead (s : State) (team : Nat) (k : Chunk) : Chunk :=
  let bad := fun (o : Nat) => (s.team? team).any (fun t => t.scratchPoison.contains (o / 8))
  let (ps, q, _) := k.src.foldl (fun (a : List Piece × List Nat × Nat) p =>
    match p with
    | .read (.scr t o) n =>
      if t = team then
        (a.1 ++ [.known (s.homeBytes (.scr t o) n)], a.2.1 ++ ((List.range n).filter (fun i => bad (o + i))).map (fun i => a.2.2 + i), a.2.2 + n)
      else (a.1 ++ [p], a.2.1, a.2.2 + n)
    | p => (a.1 ++ [p], a.2.1, a.2.2 + p.size)) ([], [], 0)
  { k with src := ps, poison := k.poison ++ q }

/-- The commands of a team that is discarded keep their effects in memory: what they have not read of its scratchpad is read (06 R138). -/
def State.readAhead (s : State) (team : Nat) : State :=
  { s with cmds := s.cmds.map (fun (c : Cmd) =>
      if c.who.team = team then
        { c with stages := c.stages.map (fun (g : Stage) => { g with chunks := g.chunks.map (Chunk.readAhead s team) }) }
      else c) }

/-- The near-core slots of a discarded team are freed: the completions that its SRCH commands would bring there are dropped and counted (06 R138, 10 R222). -/
def State.leaveSlots (s : State) (t : Team) : State :=
  (s.near.filter (fun n => n.who.team == t.id)).foldl (fun (s : State) n => (s.count t.ctx 0x34 (s.slotCommands n.who).length).leaveSlot n.who) s

/-- DISCARD_COMPLETE of the first discarding team that is drained: its state is zeroed, its channels break, and it waits as a new slice with its image slot; what still targets it finds it gone, and its fibres on their way home with it (06 R138, 10 R228). -/
def execDiscardComplete (s : State) : Host.Outcome State Fault Refusal :=
  device (match s.teams.find? (fun t => t.state == .discarding && t.core.isSome && s.drained t) with
    | none => s
    | some t =>
      let gone := fun k => k == t.id
      let fresh := { (t.scrub .waiting s.aclk).nextSlice s.aclk with id := s.nextId }
      let s := ((((s.readAhead t.id).leaveSlots t).forgetFibres gone).breakChannels gone)
      let s := s.updTeam t.id (fun t => { t.scrub .discarding s.aclk with
        cluster := none
        image := (0, 0)
        fibres := t.fibres.filter (fun f => f.away == some .homeward) })
      let s := { s with teams := s.teams ++ [fresh], nextId := s.nextId + 1 }.count t.ctx 0x31 1
      if fresh.cls ≠ t.cls then s.count t.ctx 0x25 1 else s)

/-- REDIRECT_ENTRY_COMPLETION of a saved team: the first completion its redirect entry holds is applied to the image (06 R139). -/
def execRedirectEntryCompletion (team : Nat) (s : State) : Host.Outcome State Fault Refusal :=
  device (match s.team? team with
    | none => s
    | some t =>
      match t.state, t.redirect with
      | .saved, c :: rest =>
        (((s.updTeam team (fun t => { t with redirect := rest, redirected := t.redirected + bit c.counts })).applyCompletion team c).writeImage team).count t.ctx 0x33 (bit c.counts)
      | _, _ => s)

/-- A fibre that was blocked on the core checks its condition anew (06 R139), and one stopped inside an atomic clause executes its instruction (R136); one away on a search die has gone on (R137). -/
def Fibre.recheck (f : Fibre) : Fibre :=
  if f.away.isSome then f
  else
  let f := { f with stopped := false }
  match f.status with
  | .bwait _ _ => { f with status := .ready }
  | .chanWait _ _ _ _ => { f with status := .ready }
  | .tagWait _ => { f with status := .ready }
  | _ => f

/-- RESTORE_COMPLETE of a restoring team, once the collapses under way toward its die are applied there (09 R190): the core's lines are read anew, held completions are applied on it, blocked fibres check again, and a save that ended a slice, or left no budget, begins a new one (06 R140). -/
def execRestoreComplete (team : Nat) (s : State) : Host.Outcome State Fault Refusal :=
  device (match s.team? team with
    | none => s
    | some t =>
      if t.state != .restoring ∨ t.core.any (fun c => s.probesToward c.die) then s
      else
        let fresh := !t.keepSlice || t.budgetLeft s.aclk == 0
        let s := s.updTeam team (fun t =>
          let t := { t with state := .running, resSince := some s.aclk, redirect := [], redirected := t.redirected + t.redirect.countP Completion.counts, fibres := t.fibres.map Fibre.recheck }
          if fresh then t.nextSlice s.aclk else t)
        let s := match t.core with | some c => s.acquireL1 c none | none => s
        let s := t.redirect.foldl (fun s c => s.applyCompletion team c) s
        let s := (s.count t.ctx 0x33 (t.redirect.countP Completion.counts)).count t.ctx 0x32 1
        if fresh ∧ t.cls < 2 ∧ t.kernel.nslices ≤ t.slice then s.count t.ctx 0x25 1 else s)

/-! ### Bin and reorder timers (06 R132, R133) -/

/-- BIN_TIMER_EXPIRY of the first bin whose timer has expired. -/
def execBinTimerExpiry (s : State) : Host.Outcome State Fault Refusal :=
  device (
    match s.teams.find? (fun t => t.resident && (t.binDue s.aclk).isSome) with
    | none => s
    | some t => match t.binDue s.aclk with | some b => s.updTeam t.id (fun t => t.releaseBin b s.aclk) | none => s)

/-- REORDER_TIMER_EXPIRY of the first team whose reorder timer has expired. -/
def execReorderTimerExpiry (s : State) : Host.Outcome State Fault Refusal :=
  device (match s.teams.find? (fun t => t.resident && t.reorderDue s.aclk) with
    | none => s
    | some t => s.updTeam t.id (fun t => t.releaseReorder s.aclk))

end Sys2Proof.Machine
end

