-- ==== Sys2Proof/Machine/Cuttings.lean ====
section
/-! DEFINITION. Steps of the memories: collapse probes, their answers and cutting fills (08 R175 to R178), the directory's windows (08 R176), errors of the arrays (08 R183), refresh of the weight store (08 R171), retention (08 R168), and the drop points of outstanding long-latency instructions (15 R295; 08 R167). -/

namespace Sys2Proof.Machine

/-! ### Collapse probes and cutting fills -/

/-- COLLAPSE_PROBE: the holder die invalidates the line if it holds it, and answers; an answer for a line it does not hold is a filtered probe. -/
def execCollapseProbe (line die : Nat) (s : State) : Host.Outcome State Fault Refusal :=
  device (match s.coh.probes.find? (fun p => p.line == line && p.die == die && !p.answered) with
    | none => s
    | some p =>
      let held := s.coh.cuttings.any (fun c => c.die == die && c.line == line)
      let s := (if held then s else s.count p.ctx 0x42 1).dropCutting die line
      let clear := !s.holdsRegion die (regionOf line)
      let ps := s.coh.probes.erase p
      { s with coh := { s.coh with probes := ps ++ [{ p with answered := true, clear := clear }] } })

/-- Tags that incoming writes of a queue pair make FULL are set once the collapses of its writes are complete (03 R80). -/
def State.releaseFills (s : State) : State :=
  let ready := s.os.fills.filter (fun x => !s.collapsesOf (.qp x.qp))
  ready.foldl (fun (s : State) x => s.fillAt x.m none (.qp x.qp) x.ctx none)
    (s.updOs (fun o => { o with fills := o.fills.filter (fun x => !ready.contains x) }))

/-- COLLAPSE_ANSWER: the collapse of the line on that die is complete; an answer that the die holds no line of the region clears its holder bit, unless a fill has gone out to it since and no probe after that. -/
def execCollapseAnswer (line die : Nat) (s : State) : Host.Outcome State Fault Refusal :=
  device (match s.coh.probes.find? (fun p => p.line == line && p.die == die && p.answered) with
    | none => s
    | some p =>
      let g := regionOf line
      let s := { s with coh := { s.coh with probes := s.coh.probes.erase p } }
      let s := if p.clear && !s.holdsRegion die g then
          let r := s.region g
          s.putRegion { r with holders := r.holders &&& ~~~ BitVec.twoPow 8 die }
        else s
      s.releaseFills)

/-- CUTTING_FILL: the line is installed as a cutting in the reading leaf's partition, unless a probe for it went out after the fill; a holder that has become one too many is collapsed. -/
def execCuttingFill (line die : Nat) (s : State) : Host.Outcome State Fault Refusal :=
  device (match s.coh.fills.find? (fun f => f.line == line && f.die == die) with
    | none => s
    | some f =>
      let s := { s with coh := { s.coh with fills := s.coh.fills.erase f } }
      let s := if f.stale then s
        else
          let s := s.dropCutting die line
          let (way, gone) := s.roomFor die line f.part f.policy f.ctx
          let c := s.coh.without die gone
          { s with coh := { c with cuttings := ⟨die, line, f.data, f.part, way, f.policy⟩ :: c.cuttings } }
      s.collapseExcess (regionOf line) .other (s.region (regionOf line)).ctx)

/-- The length of a directory window in fclk. -/
def windowFclk : Nat := 65536

/-- A region at the end of its window: the degree steps up when the window saw reads of two other dies or more and no write; the window's counts are cleared. -/
def Region.endWindow (r : Region) : Region :=
  let up := !r.pinned && r.writes == 0 && decide (2 ≤ maskCount r.readers) && decide (16 ≤ r.reads) && decide (r.degree < 4)
  { r with
    degree := if up then r.degree + 1 else r.degree
    reads := 0
    readers := 0
    writes := 0 }

/-- REGION_WINDOW_END: the windows of every home end together, at a multiple of 65,536 fclk. -/
def execRegionWindowEnd (s : State) : Host.Outcome State Fault Refusal :=
  device (
    let now := fclkOf s.aclk
    if now < s.coh.windowEnd + windowFclk then s
    else
      let rs := s.coh.regions.map (fun r => (r, r.endWindow))
      let s := rs.foldl (fun s p => if p.1.degree = p.2.degree then s else s.count p.2.ctx 0x43 1) s
      { s with coh := { s.coh with
          regions := rs.map (fun p => p.2)
          windowEnd := now / windowFclk * windowFclk } })

/-! ### Errors of the arrays (08 R183, Table 8.5) -/

/-- Poison bits that came into being on a die, counted for each word, sector or pair that was not poisoned before (01 Table 1.7; log entry 92). -/
def State.poisonMade (s : State) (die : Nat) (before : Bool) : State := if before then s else s.lifeCount 4 (8 * die) 1

/-- Words of a list that an error poisons. -/
def spoil (poison : List Nat) (ws : List Nat) : List Nat := ws.foldl setInsert poison

/-- The words of memory that an error of the array at a physical address takes: a 32-byte sector of a stack or of the second tier, a memory word of the weight store. -/
def arrayWords (pa : Nat) : List Nat :=
  if 0x200000000000 ≤ pa then [wordOf pa] else (List.range 4).map (fun i => pa / 32 * 4 + i)

/-- Words of memory are poisoned at their home. -/
def State.spoilHome (s : State) (pa : Nat) (ws : List Nat) : State :=
  let s := s.poisonMade (homeDie (lineOf pa)) (ws.all s.mem.poison.contains)
  { s with mem := { s.mem with poison := spoil s.mem.poison ws } }

/-- A word of a line copy is poisoned. -/
def spoilData (d : LineData) (i : Nat) : LineData := d.set i ((d.getD i (0, false)).1, true)

/-- An error of an L1: the copy's word, and the home's where the word is registered to the core, whose bytes are then the only ones (08 R173, log entry 11). -/
def State.spoilL1 (s : State) (c : CoreId) (pa : Nat) : State :=
  match s.coh.l1.find? (fun x => x.core == c && x.line == lineOf pa) with
  | none => s
  | some x =>
    if s.registrant (wordOf pa) = some c then (s.spoilHome pa [wordOf pa])
    else
      let s := s.poisonMade c.die (x.data.getD (wordOf pa % 16) (0, false)).2
      { s with coh := { s.coh with l1 := s.coh.l1.map (fun y =>
          if y == x then { y with data := spoilData y.data (wordOf pa % 16) } else y) } }

/-- An error of a die's copy of a line homed elsewhere. -/
def State.spoilCutting (s : State) (die pa : Nat) : State :=
  match s.coh.cuttings.find? (fun x => x.die == die && x.line == lineOf pa) with
  | none => s
  | some x =>
    let s := s.poisonMade die (x.data.getD (wordOf pa % 16) (0, false)).2
    { s with coh := { s.coh with cuttings := s.coh.cuttings.map (fun y =>
        if y == x then { y with data := spoilData y.data (wordOf pa % 16) } else y) } }

/-- An error of a team's unit: what is poisoned in it, and how the team keeps that. -/
def State.spoilTeam (s : State) (team n : Nat) (get : Team → List Nat) (put : Team → List Nat → Team) : State :=
  match s.team? team with
  | none => s
  | some t => (s.poisonMade t.die ((get t).contains n)).updTeam team (fun t => put t (setInsert (get t) n))

/-- An error of a register of a fibre. -/
def State.spoilReg (s : State) (r : FibreRef) (n : Nat) : State :=
  match s.team? r.team with
  | none => s
  | some t =>
    match t.fibre? r.fibre with
    | none => s
    | some f =>
      if f.regs.length ≤ n then s
      else (s.poisonMade (dieOf t f) (f.spoilt.contains n)).updFibre r (fun f => { f with spoilt := setInsert f.spoilt n })

/-- An error of a memory word of a near-core slot's scratchpad. -/
def State.spoilNear (s : State) (k c i o : Nat) : State :=
  match s.near.find? (fun x => x.stack == k && x.core == c && x.slot == i) with
  | none => s
  | some x => (s.poisonMade (16 + k) (x.poison.contains (o / 8))).poisonAt (.near k c i (o / 8 * 8))

/-- An uncorrectable error in device state that no context maps ends the job whose state it touches, with a machine check counted on its die (14 Table 14.1 cause 0x1D, R284, R286). -/
def State.stateLost (s : State) (ctx job die : Nat) : State :=
  if s.insts.any (fun x => x.ctx == ctx && x.runs.any (fun r => r.job == job)) then
    (s.countCause 0x1D die).terminateJob job ctx 2 ((s.teams.find? (fun t => t.job == job && t.ctx == ctx)).map (fun (t : Team) => { t with linear := 0, core := none })) none
      { kind := 3, cause := 0x1D, detail := 0, engine := 0, inHandler := false, noHandler := false, terminated := true,
        pc := 0, issuePc := 0, addr := 0, words := [], list := [], more := 0 }
  else s

/-- An error of an array: one its code corrects changes nothing and is counted, one it does not poisons what it struck. -/
def State.upset (s : State) (u : Outside) : State :=
  match u with
  | .corrected cls die => s.lifeCount 0 (8 * die + cls) 1
  | .memory pa => s.spoilHome pa (arrayWords pa)
  | .cache pa =>
    if s.coh.slices.any (fun h => h.line == lineOf pa && h.valid.getLsbD (pa % 128 / 32)) then s.spoilHome pa [wordOf pa] else s
  | .l1 c pa => s.spoilL1 c pa
  | .cutting die pa => s.spoilCutting die pa
  | .reg r n => s.spoilReg r n
  | .scratch k o => s.spoilTeam k (o / 8) Team.scratchPoison (fun t p => { t with scratchPoison := p })
  | .metaWord k o => s.spoilTeam k (o / 8) Team.metaPoison (fun t p => { t with metaPoison := p })
  | .near k c i o => s.spoilNear k c i o
  | .deviceState c j d => s.stateLost c j d
  | .acc k p => s.spoilTeam k p Team.accPoison (fun t p => { t with accPoison := p })
  | .wire _ _ _ => s
  | .rnr _ => s

/-! ### The weight store -/

/-- The refresh group whose window is open at an aclk (08 R171). -/
def refreshGroup (aclk : Nat) : Option Nat :=
  if aclk % 14400 < 3240 then some (aclk % 115200 / 14400) else none

/-- WEIGHT_STORE_REFRESH_START: the window of a group opens. -/
def execWeightStoreRefreshStart (s : State) : Host.Outcome State Fault Refusal :=
  device (match refreshGroup s.aclk with
    | some g =>
      if s.coh.refreshing.any (fun p => p.1 == g) then s
      else { s with coh := { s.coh with refreshing := s.coh.refreshing ++ [(g, s.aclk / 14400 * 14400)] } }
    | none => s)

/-- WEIGHT_STORE_REFRESH_END: an open window that is over closes, and the reads that waited proceed; their stall is counted as they are performed. -/
def execWeightStoreRefreshEnd (s : State) : Host.Outcome State Fault Refusal :=
  device (match s.coh.refreshing.find? (fun p => decide (p.2 + 3240 ≤ s.aclk)) with
    | none => s
    | some (g, start) =>
      { s with coh := { s.coh with refreshing := s.coh.refreshing.filter (fun p => p != (g, start)) } })

/-! ### Retention -/

/-- The weight-store group of a place of class W: C-die and group. -/
def weightGroup (pa : Nat) : Nat × Nat := (weightDie pa, bitsOf pa 28 3)

/-- Distinct entry numbers of a table of `n` entries that have a byte other than 0. -/
def tableIndexes (mem : List Host.Cell) (base n : Nat) : List Nat :=
  ((mem.filter (fun p => decide (base ≤ p.1 ∧ p.1 < base + 8 * n))).map (fun p => (p.1 - base) / 8)).foldl setInsert []

/-- The valid entries of a table: number and entry. -/
def tableEntries (mem : List Host.Cell) (base n : Nat) : List (Nat × Nat) :=
  ((tableIndexes mem base n).map (fun i => (i, (sparseDword mem (base + 8 * i)).toNat))).filter (fun p => bitsOf p.2 0 1 == 1)

/-- The mapped pages below a root: virtual address, 1 for a 512 MiB page, leaf entry. -/
def mappedPages (mem : List Host.Cell) (root : Nat) : List (Nat × Nat × Nat) :=
  (tableEntries mem root 1024).flatMap (fun p =>
    (tableEntries mem (bitsOf p.2 16 34 * 2 ^ 16) 8192).flatMap (fun q =>
      let va := p.1 * 2 ^ 42 + q.1 * 2 ^ 29
      if bitsOf q.2 1 1 = 1 then [(va, 1, q.2)]
      else (tableEntries mem (bitsOf q.2 16 34 * 2 ^ 16) 8192).map (fun e => (va + e.1 * 2 ^ 16, 0, e.2))))

/-- The weight-store groups that live contexts map. -/
def State.mappedGroups (s : State) : List (Nat × Nat) :=
  s.ctxs.flatMap (fun c => (mappedPages s.mem.cells c.root).flatMap (fun p =>
    let l := leafOf p.2.2 (p.2.1 == 1)
    if l.cls = 2 ∧ !l.nonres then (if l.big then [weightGroup l.base, weightGroup (l.base + 2 ^ 28)] else [weightGroup l.base])
    else []))

/-- The shared-cache ways that the masks of live contexts include. -/
def State.usedWays (s : State) : List Nat :=
  (List.range 16).filter (fun w => s.ctxs.any (fun c => c.partMask.any (fun m => m.testBit w)))

/-- RETENTION_ENTRY: every idle weight-store group and shared-cache way enters retention, the lines of such a way written back and invalidated first; no stored bit changes (08 R168, R169). -/
def execRetentionEntry (s : State) : Host.Outcome State Fault Refusal :=
  device (
    let mapped := s.mappedGroups
    let used := s.usedWays
    let groups := (List.range 4).flatMap (fun d => (List.range 8).map (fun g => (d, g)))
    let ways := (List.range 8).flatMap (fun d => (List.range 16).map (fun w => (d, w)))
    { s with coh := { s.coh with
        cuttings := s.coh.cuttings.filter (fun c => used.contains c.way)
        slices := s.coh.slices.filter (fun h => used.contains h.way)
        retainedGroups := groups.filter (fun p => !mapped.contains p)
        retainedWays := ways.filter (fun p => !used.contains p.2) } })

/-! ### The switch point of RESIZE (08 R167) -/

/-- Scratchpad bytes below a bound. -/
def cutScratch (m : List Host.Cell) (bytes : Nat) : List Host.Cell := m.filter (fun p => p.1 < bytes)

/-- An asynchronous operation outstanding for the team aims at a scratchpad byte at or above `lo`. -/
def asyncTargets (s : State) (t : Team) (lo : Nat) : Bool :=
  let hit := fun (l : Loc) (n : Nat) => match l with | .scr k o => k == t.id && decide (lo < o + n) | _ => false
  let out := fun (k : Chunk) =>
    let n := (k.src.map (fun p => match p with | .read _ n => n | .known bs => bs.length)).foldl (· + ·) 0
    match k.out with
    | .write l => hit l n
    | .nibble l _ => hit l 1
    | .combine l _ _ => hit l 4
    | _ => false
  s.cmds.any (fun c =>
    (match c.target with | .bar l => hit l 32 | _ => false) ||
    c.stages.any (fun g => g.chunks.any out) ||
    (match c.kind with
     | .scan _ _ _ k l _ ps => hit l (16 * k * ps.length)
     | .walk _ _ _ l => hit l 16
     | .wdq _ l => hit l 8
     | .chan _ _ _ _ l _ => hit l 32
     | _ => false))

/-- RESIZE changes nothing (08 R167 step 1). -/
def resizeRefused (s : State) (t : Team) (n : Nat) : Bool :=
  decide (t.kernel.scratchWays < n) ||
  (decide (t.reserved < n) && decide (s.freeWays t.core < n - t.reserved)) ||
  (decide (n < t.alloc) && asyncTargets s t (n * wayBytes t.kernel.mcore))

/-- The switch of a team's allocation (08 R167 steps 2 to 4). -/
def Team.resized (t : Team) (n : Nat) (keep : Bool) : Team :=
  { t with
    alloc := n
    reserved := if n < t.alloc then (if keep then t.reserved else n) else max t.reserved n
    scratch := cutScratch t.scratch (min n t.alloc * wayBytes t.kernel.mcore)
    scratchPoison := t.scratchPoison.filter (fun w => 8 * w < min n t.alloc * wayBytes t.kernel.mcore) }

/-- An issued access has still to be performed at a scratchpad byte of the team at or above `lo`, and uses the old allocation: a store, a load or a tile access of a fibre, an engine's source, an MMA's operand. -/
def issuedAbove (s : State) (t : Team) (lo : Nat) : Bool :=
  let hit := fun (l : Loc) (n : Nat) => match l with | .scr k o => k == t.id && decide (lo < o + n) | _ => false
  s.teams.any (fun x => x.fibres.any (fun f =>
    f.sq.any (fun op => hit op.kind.loc 16) ||
    f.ll.any (fun op => op.kind.reads.any (fun p => hit p.1 16) ||
      (match op.kind with | .tile ms => ms.any (fun m => m.dst.any (fun p => hit p.1 p.2)) | _ => false)))) ||
  s.cmds.any (fun c => c.stages.any (fun g => g.chunks.any (fun k => k.src.any (fun p => match p with | .read l n => hit l n | .known _ => false)))) ||
  s.mmas.any (fun m => m.team == t.id || Entry.space m.entryA == 2 || Entry.space m.entryB == 2)

/-- RESIZE_SWITCH_POINT of an outstanding RESIZE: refused, or switched once the accesses issued before it are performed; retained ways pay their exit, ways taken from the cache give up their lines (08 R167, R169). -/
def switchResize (r : FibreRef) (t : Team) (op : LongOp) (n d : Nat) (keep : Bool) (s : State) : State :=
  if resizeRefused s t n then finishLong r op [(d, ofNat64 t.alloc)] none s
  else if n < t.alloc ∧ issuedAbove s t (n * wayBytes t.kernel.mcore) then s
  else
    let s := s.count t.ctx 0x45 (min n t.reserved - t.alloc)
    let s := s.updTeam t.id (fun t => t.resized n keep)
    let s := match t.core with | some c => if t.reserved < n then s.takeWays c else s | none => s
    finishLong r op [(d, ofNat64 n)] none s

/-! ### Drop points -/

/-- The outstanding instruction at a place of a fibre's list. -/
def State.longOp (s : State) (r : FibreRef) (n : Nat) : Option (Team × Fibre × LongOp) :=
  match s.team? r.team with
  | none => none
  | some t =>
    match t.fibre? r.fibre with
    | none => none
    | some f => (f.ll[n]?).map (fun op => (t, f, op))

/-- What reaches its drop point, by the kind of instruction. -/
def dropOp (r : FibreRef) (t : Team) (f : Fibre) (op : LongOp) (s : State) : State :=
  match op.kind with
  | .tile ms => dropTile r t f op ms s
  | .metaLoad off ps => dropMeta r t f op off ps s
  | .cmd g vals => dropCmd r op g vals s
  | .seal c tid m d => dropSeal r op c tid m d s
  | _ => dropMemory r t f op s

/-- An instruction that has dropped counts the stall of the reads that its core's L1 did not serve (08 R171, R187). -/
def State.countStall (s : State) (r : FibreRef) (t : Team) (f : Fibre) (op : LongOp) : State :=
  if (s.fibre? r).any (fun g => g.ll.contains op) then s
  else s.countRefresh t.ctx op.at_ ((op.kind.reads.map (fun p => p.1)).filter (fun l => !s.inL1 (coreOf t f) l))

/-- LONG_LATENCY_DROP of one outstanding instruction of a fibre, if it can drop now; a handler entry that waited for the counters follows (14 R280). -/
def execLongLatencyDrop (team fibre slot : Nat) (s : State) : Host.Outcome State Fault Refusal :=
  device (match s.longOp ⟨team, fibre⟩ slot with
    | none => s
    | some (t, f, op) => ((dropOp ⟨team, fibre⟩ t f op s).countStall ⟨team, fibre⟩ t f op).tryEnter ⟨team, fibre⟩)

/-- RESIZE_SWITCH_POINT of one outstanding RESIZE. -/
def execResizeSwitchPoint (team fibre slot : Nat) (s : State) : Host.Outcome State Fault Refusal :=
  device (match s.longOp ⟨team, fibre⟩ slot with
    | none => s
    | some (t, _, op) =>
      match op.kind with
      | .resize n d keep => (switchResize ⟨team, fibre⟩ t op n d keep s).tryEnter ⟨team, fibre⟩
      | _ => s)

end Sys2Proof.Machine
end

