-- ==== Sys2Proof/Machine/Board.lean ====
section
/-! DEFINITION. The module as a board: power-good, boot and module reset (01 R28, R29), the stop at 110 °C and the thermal guard (01 R25, R27), the coolant sensors, the lifetime records (01 R31, R32), events to the host (03 R61) and retrains of the host link. -/

namespace Sys2Proof.Machine

/-! ### Lifetime records in flash (01 R32) -/

/-- The copy that Oseus loads at boot: the whole one with the higher sequence number. -/
def Oseus.bestCopy (o : Oseus) : Option LifeCopy :=
  (o.copies.filter (fun c => c.whole)).foldl (fun b c =>
    match b with
    | some x => if x.seq < c.seq then some c else b
    | none => some c) none

/-- The copy that a write goes to is replaced: the one that is not the best; a copy list holds at most two. -/
def Oseus.replaceOlder (o : Oseus) (c : LifeCopy) : Oseus :=
  { o with copies := match o.bestCopy with
    | some b => [b, c]
    | none => [c] }

/-- The accumulated counters, with the milliseconds short of a second (01 R31), are written to the older copy with the next sequence number. -/
def State.writeLife (s : State) : State :=
  let seq := match s.os.bestCopy with | some b => b.seq + 1 | none => 1
  s.updOs (fun o => { o.replaceOlder ⟨seq, s.life, o.carry, true⟩ with lifeAt := s.aclk })

/-! ### Boot (01 Table 1.6) -/

/-- The state that module reset leaves: only the flash, the fuses and the model's own counters are kept. -/
def State.cleared (s : State) : State :=
  { State.reset with
    tick := s.tick
    nextId := s.nextId
    os := { Oseus.reset with
      banks := s.os.banks
      preferred := s.os.preferred
      fusedMin := s.os.fusedMin
      flash := s.os.flash
      copies := s.os.copies
      host := { HostPort.reset with nextMac := s.os.host.nextMac, nextGid := s.os.host.nextGid } } }

/-- Boot step 2: the bank's image has a good signature and a security version that is not below the fused minimum. -/
def Oseus.bankGood (o : Oseus) (b : Nat) : Bool :=
  match o.banks[b]? with
  | some k => k.valid && Config.imageSigned k.image && decide (o.fusedMin ≤ Config.securityOf k.image)
  | none => false

/-- Boot steps 2 and 3: the preferred bank, or else the other one. -/
def Oseus.bootBank (o : Oseus) : Option Nat :=
  if o.bankGood o.preferred then some o.preferred
  else if o.bankGood (1 - o.preferred) then some (1 - o.preferred)
  else none

/-- The IPv6 link-local GID formed from a MAC address by the EUI-64 rule (03 R65). -/
def linkLocal (mac : Nat) : Nat :=
  0xFE80 * 2 ^ 112 + (mac / 2 ^ 24 ^^^ 0x020000) * 2 ^ 40 + 0xFFFE * 2 ^ 24 + mac % 2 ^ 24

/-- Boot step 4: the measurements. -/
def Oseus.measure (o : Oseus) (b : Nat) : Oseus :=
  let img := match o.banks[b]? with | some k => k.image | none => []
  { o with
    booted := some b
    digest := padTo 64 (Config.shake256 img)
    security := Config.securityOf img }

/-- The bits of sys.die_status that name a die (00 Table 0.3). -/
def dieMask : Nat := 0xFF03FF

/-- The lifetime records of the best copy in flash (01 R32). -/
def State.loadRecords (s : State) : State :=
  { s with
    life := match s.os.bestCopy with | some c => c.counters | none => []
    os := { s.os with carry := match s.os.bestCopy with | some c => c.carry | none => [] } }

/-- The boot sequence from a cleared state: `dead` names the dies that fail memory training, `ports` the Pyryta ports that fail link training, `host` says whether the host port trains. A failed host port halts boot there: the Pyryta ports stay down, no record is loaded, and the status light shows the fault. With no good bank step 5 names no failing die, and step 6 trains the links and loads the records as in any boot, so that queue pair 1 opens in recovery mode. A boot that ends in recovery mode is counted in both outcomes; one that halts, in none (the model's choices: log entry 81). -/
def State.boot (s : State) (dead ports : Nat) (host : Bool) : State :=
  let bank := s.os.bootBank
  let dead := if bank.isSome then dead &&& dieMask else 0
  let recovery := bank.isNone || decide (dead % 256 ≠ 0)
  let mac := if s.os.host.nextMac = 0 then Config.fusedMac else s.os.host.nextMac
  let gid := if s.os.host.nextGid = 0 then linkLocal mac else s.os.host.nextGid
  let o := match bank with | some b => s.os.measure b | none => s.os
  let s := { s with
    dieStatus := BitVec.ofNat 64 dead
    os := { o with powered := true, recovery := recovery, light := !host, host := { o.host with up := host, mac := mac, gid := gid } } }
  if !host then s
  else
    let s := { s with
      ports := s.ports.map (fun (p : Port) => { p with state := if ports.testBit p.idx then .down else .up })
      bootDone := !recovery }
    let s := s.loadRecords.lifeCount 11 0 1
    if recovery then s.lifeCount 11 1 1 else s

/-- POWER_GOOD of a module that has no power: boot from what flash and fuses hold. -/
def execPowerGood (dead ports : Nat) (host : Bool) (s : State) : Host.Outcome State Fault Refusal :=
  device (if s.os.powered then s else s.cleared.boot dead ports host)

/-- MODULE_RESET, 1 ms after the reply to a reset message: the counters are written to flash, and the module boots (03 R85, 01 R32). -/
def execModuleReset (dead ports : Nat) (host : Bool) (s : State) : Host.Outcome State Fault Refusal :=
  device (match s.os.resetAt with
    | some a => if a ≤ s.aclk then s.writeLife.cleared.boot dead ports host else s
    | none => s)

/-- POWER_LOSS: what is not in flash is lost; a flash write, when one is under way, spoils the older copy only. -/
def execPowerLoss (s : State) : Host.Outcome State Fault Refusal :=
  device (
    let s := if s.freeBit 21 then s.updOs (fun o => o.replaceOlder ⟨0, [], [], false⟩) else s
    s.cleared)

/-! ### Thermal guard (01 R25 to R27) -/

/-- The full cores in the order in which a guard evaluation names their gap ratios. -/
def allCores : List CoreId := coresOf false ++ coresOf true

/-- The stage of the guard that acts on a core: by the highest class that runs there; none for a core with no slice. -/
def State.guardStage (s : State) (c : CoreId) : Option Nat :=
  let ts := (s.onCore c).filter Team.resident
  if ts.isEmpty then none
  else if ts.any (fun t => t.cls == 0) then some 3
  else if ts.any (fun t => t.cls == 1) then some 2
  else some 1

/-- The rated coolant condition, by the sensors as last read (01 R24). -/
def Oseus.rated (o : Oseus) : Bool := decide (o.coolant.1 ≤ 40 ∧ 18 ≤ o.coolant.2)

/-- Gap ratios keep the order and ranges of Table 1.4; an excursion stands only outside the rated coolant condition, so that within it no core of a critical slice has a gap (01 R26, R27). -/
def State.guardOk (s : State) (gaps : List Nat) (excursion : Bool) : Bool :=
  let of := fun (k : Nat) => ((allCores.zip gaps).filter (fun p => s.guardStage p.1 == some k)).map (fun p => p.2)
  let full1 := (of 1).all (fun g => g == 15)
  let full2 := (of 2).all (fun g => decide (1 ≤ g))
  gaps.all (fun g => decide (g ≤ 15)) && !(excursion && s.os.rated) &&
  (if excursion then full1 && full2
   else (of 2).all (fun g => decide (g ≤ 1)) && (of 3).all (fun g => g == 0) && ((of 2).all (fun g => g == 0) || full1))

/-- sys.thermal_state (01 Table 1.5). -/
def thermalWord (excursion stage1 stage2 : Bool) (temp : Nat) : Dword :=
  BitVec.ofNat 64 (bit excursion + bit stage1 * 2 + bit stage2 * 4 + temp % 256 * 2 ^ 8)

/-- Begin or end of an excursion: an event, and the mark of every live instance at the begin (01 R27, 05 R110). -/
def State.excursionChange (s : State) (before now : Bool) : State :=
  if now && !before then { s with insts := s.insts.map (fun (x : Inst) => { x with excursion := true }) }.pushEvent 1 0 0
  else if before && !now then s.pushEvent 2 0 0
  else s

/-- Oseus keeps records: the module has power and its boot has loaded them. -/
def Oseus.records (o : Oseus) : Bool := o.powered && o.host.up

/-- Each whole µs since the last evaluation counts for what was active in it: stage 1, stage 2, an excursion (01 R27, Table 1.7). -/
def State.throttled (s : State) : State :=
  let us := s.aclk / 3600 - s.os.guardAt / 3600
  let was := fun (i : Nat) => us * bit (s.thermal.getLsbD i)
  ((s.lifeCount 7 0 (was 1)).lifeCount 7 1 (was 2)).lifeCount 7 2 (was 0)

/-- The stop at 110 °C: every core stops and is scrubbed, what was active ends and is counted, the stop is recorded, and the module is held in reset (01 R27). After a boot that halted before it loaded the records, they are loaded first (01 R32). -/
def State.junctionStop (s : State) : State :=
  let s := if s.os.records then s else s.loadRecords
  let s := (((s.throttled.excursionChange (s.thermal.getLsbD 0) false).lifeCount 11 2 1).writeLife).pushEvent 5 0 0
  let c := s.cleared
  { c with
    aclk := s.aclk
    events := s.events
    eventsLost := s.eventsLost
    eventSeq := s.eventSeq
    life := s.life
    os := { c.os with
      powered := true
      held := true
      mgmt := s.os.mgmt
      host := s.os.host
      lifeAt := s.os.lifeAt
      carry := s.os.carry
      sampleAt := s.os.sampleAt
      issued := s.os.issued
      guardAt := s.os.guardAt
      pollAt := s.os.pollAt
      coolant := s.os.coolant } }

/-- JUNCTION_STOP at 110 °C or above. -/
def execJunctionStop (temp : Nat) (s : State) : Host.Outcome State Fault Refusal :=
  device (if temp < 110 ∨ !s.os.powered then s else s.junctionStop)

/-- THERMAL_GUARD_EVALUATION every 3,600 aclk: the gap ratios that the guard sets for the 88 cores, the highest junction temperature, and whether the flux limit can be held; the module's own values, which the manual does not derive. One that finds 110 °C or more stops the module. -/
def execThermalGuardEvaluation (gaps : List Nat) (temp : Nat) (excursion : Bool) (s : State) : Host.Outcome State Fault Refusal :=
  device (
    if s.aclk < s.os.guardAt + 3600 ∨ !s.guardOk gaps excursion then s
    else
      let on := fun (k : Nat) => (allCores.zip gaps).any (fun p => s.guardStage p.1 == some k && decide (0 < p.2))
      let s1 := s.throttled.excursionChange (s.thermal.getLsbD 0) excursion
      let s1 := { s1 with
        thermal := thermalWord excursion (on 1) (on 2) temp
        os := { s1.os with guardAt := s.aclk, gaps := (allCores.zip gaps).filter (fun p => p.2 != 0) } }
      if 110 ≤ temp ∧ s.os.powered then s1.junctionStop else s1)

/-- COOLANT_SENSOR_POLL every 1 ms: what the sensors show is free. -/
def execCoolantSensorPoll (s : State) : Host.Outcome State Fault Refusal :=
  device (if s.aclk < s.os.pollAt + 3600000 then s
    else s.updOs (fun o => { o with coolant := (Config.free s.tick 22, Config.free s.tick 23), pollAt := s.aclk }))

/-! ### Samples (01 R31) -/

/-- Bin of a junction temperature. -/
def tempBin (t : Nat) : Nat := if t < 40 then 0 else min (1 + (t - 40) / 5) 15

/-- One more millisecond in a bin; a whole second is counted. -/
def State.addMs (s : State) (entry inst : Nat) : State :=
  let k := entry * 65536 + inst
  let n := sparseGet 0 s.os.carry k + 1
  if n = 1000 then (s.updOs (fun o => { o with carry := sparsePut 0 o.carry k 0 })).lifeCount entry inst 1
  else s.updOs (fun o => { o with carry := sparsePut 0 o.carry k n })

/-- Utilisation bin of the issues counted in a window of 1 ms: sixteenths of 352 quadrants × 3,600,000 aclk. -/
def utilBin (issued : Nat) : Nat := min (16 * issued / (352 * 3600000)) 15

/-- LIFETIME_SAMPLE every 1 ms of powered time: temperature, utilisation and power-on time. -/
def execLifetimeSample (s : State) : Host.Outcome State Fault Refusal :=
  device (
    if s.aclk < s.os.sampleAt + 3600000 ∨ !s.os.records then s
    else
      let t := bitsOf s.thermal.toNat 8 8
      (((s.addMs 8 (tempBin t)).addMs 9 (utilBin s.os.issued)).addMs 10 0).updOs (fun o => { o with
        sampleAt := o.sampleAt + 3600000
        issued := 0 }))

/-- LIFETIME_FLASH_WRITE every 60 s. -/
def execLifetimeFlashWrite (s : State) : Host.Outcome State Fault Refusal :=
  device (if s.aclk < s.os.lifeAt + 216000000000 ∨ !s.os.records then s else s.writeLife)

/-! ### The host port -/

/-- A message of the device on queue pair 1: the 16 bytes of the header, version 1, then the body (03 R58, Table 3.1). -/
def messageBytes (type req ctx status detail : Nat) (body : List Byte) : List Byte :=
  bytesOfNat 16 (type + 2 ^ 8 + body.length * 2 ^ 16 + req % 2 ^ 32 * 2 ^ 32 + ctx * 2 ^ 64 + status * 2 ^ 72 + detail * 2 ^ 80) ++ body

/-- An event as a message of type 0x80 with its 24-byte body (03 R61). -/
def EventMsg.bytes (e : EventMsg) : List Byte :=
  messageBytes 0x80 e.num 0 0 0
    (bytesOfNat 24 (e.code + e.ctx * 2 ^ 8 + e.lost * 2 ^ 16 + e.time % 2 ^ 64 * 2 ^ 64 + e.word.toNat * 2 ^ 128))

/-- EVENT_RNR_RETRY: the oldest unsent event is offered to the host again; if the host takes it, it leaves the queue and carries the count of the events lost before it (03 R61). -/
def execEventRnrRetry (s : State) : Host.Outcome State Fault Refusal :=
  device (match s.events with
    | [] => s
    | e :: rest =>
      if s.freeBit 24 && s.os.mgmt then
        { s with
          events := rest
          eventsLost := 0
          os := { s.os with out := some (.message { e with lost := min s.eventsLost 65535 : EventMsg }.bytes) } }
      else s)

/-- HOST_LINK_RETRAIN: counted in link_retrain, instance 0 (03 R84). -/
def execHostLinkRetrain (s : State) : Host.Outcome State Fault Refusal := device (s.lifeCount 5 0 1)

end Sys2Proof.Machine
end

