-- ==== Sys2Proof/Machine/Remote.lean ====
section
/-! DEFINITION. What remote transactions share: the answer to one the device sent (03 R81, 02 R42), and the accesses that arrive from outside, translated with the tables of the named context (04 R95, 03 R73, R74). -/

namespace Sys2Proof.Machine

/-! ### Answers to the device's own transactions -/

/-- A transaction is answered with its bytes, or failed with a status: a load or an engine's read holds the answer, a write ends. -/
def State.remoteDone (s : State) (o : RemoteOp) (res : Except Nat (List Byte)) : State :=
  let ended := { s with remote := s.remote.filter (fun x => x.id != o.id) }
  let held := { s with remote := s.remote.map (fun (x : RemoteOp) =>
    if x.id == o.id then
      (match res with
       | .ok bs => { x with answer := some bs }
       | .error st => { x with failed := true, status := st })
    else x) }
  match o.who with
  | .load _ _ _ => held
  | .fetch _ => held
  | .engine cmd _ =>
    (match o.kind with
     | .write bs =>
       ended.answerChunk cmd o.off bs (match res with
         | .ok _ => none
         | .error st => some (if o.host then 0x03 else asyncCause st))
     | _ => held)
  | .store r pc =>
    (match res with
     | .ok _ => ended
     | .error st =>
       if o.host then ended.updFibre r (fun f => { f with hostFail := f.hostFail ++ [pc] })
       else ended.raiseAsync r 1 (asyncCause st) 0 10 pc o.off none)
  | .conv c t =>
    (match res with
     | .ok _ => ended
     | .error _ => ended.failConversion c t 0x1A)
  | .device => ended

/-! ### Accesses from outside -/

/-- The pages of an incoming access as places, with their leaves: resident, of class HBM or second tier, with the permissions it needs; a write touches no executable page (03 R73). -/
def incoming (s : State) (ctx va n : Nat) (k : AccKind) : Option (List (MemLoc × Nat × Leaf)) :=
  if 2 ^ 52 < va + n then none
  else (pageParts 0 va n).mapM (fun p =>
    match translate s ctx 8 0 p.1 k false with
    | .ok l =>
      (match l.loc p.1 with
       | .mem m => if l.cls ≤ 1 ∧ !(l.exec && k != .load) then some (m, p.2, l) else none
       | _ => none)
    | _ => none)

/-- The bytes of some places, and whether a memory word of them is poisoned; registrations of the lines are recalled (08 R173). -/
def incomingRead (s : State) (ps : List (MemLoc × Nat × Leaf)) : List Byte × Bool × State :=
  let words := ps.flatMap (fun p => (List.range (p.2.1 / 8 + 2)).filterMap (fun i =>
    if 8 * (wordOf p.1.pa + i) < p.1.pa + p.2.1 then some (wordOf p.1.pa + i) else none))
  (ps.flatMap (fun p => s.physBytes p.1.pa p.2.1), words.any (fun w => s.mem.poison.contains w), (linesOf words).foldl State.recallLine s)

/-- A line of the places belongs to an engine command: the access waits at the home (08 R182). -/
def incomingOwned (s : State) (ps : List (MemLoc × Nat × Leaf)) : Bool :=
  ps.any (fun p => s.owned.any (fun q => decide (lineOf p.1.pa ≤ q.1 ∧ q.1 ≤ lineOf (p.1.pa + p.2.1 - 1))))

/-- Bytes written at the places as one write of each memory word (03 R74). -/
def incomingWrite (s : State) (ps : List (MemLoc × Nat × Leaf)) (bs : List Byte) (w : Writer) (ctx : Nat) : State :=
  (ps.foldl (fun (a : State × List Byte) p =>
    (a.1.writeHome p.1 ((a.2.take p.2.1).map some) w ctx .outside, a.2.drop p.2.1)) (s, bs)).1

/-- The fill-on-write words that a write covers whole (03 R78). -/
def fowWords (ps : List (MemLoc × Nat × Leaf)) : List MemLoc :=
  ps.flatMap (fun p =>
    if p.2.2.tagged && p.2.2.fow then
      (List.range (p.2.1 / 8 + 2)).filterMap (fun i =>
        let a := 8 * (wordOf p.1.pa + i)
        if p.1.pa ≤ a ∧ a + 8 ≤ p.1.pa + p.2.1 then some { p.1 with pa := a, va := p.1.va + (a - p.1.pa) } else none)
    else [])

end Sys2Proof.Machine
end

