-- ==== Sys2Proof/Machine/Rdma.lean ====
section
/-! DEFINITION. The host port's queue pairs: RDMA operations that arrive (02 R34 to R38, 03 R73 to R80), congestion and flow control (02 R34, 03 R65), and the host's answers to the device's own operations (03 R81, R82). -/

namespace Sys2Proof.Machine

/-! ### Queue pairs -/

/-- Line rate of the host port in Mb/s (01 Table 1.2). -/
def lineRate : Nat := 800000

def State.qp? (s : State) (q : Nat) : Option Qp := s.os.qps.find? (fun x => x.idx == q)

def State.updQp (s : State) (q : Nat) (f : Qp → Qp) : State :=
  s.updOs (fun o => { o with qps := o.qps.map (fun x => if x.idx == q then f x else x) })

/-- The device sends a packet or message on the host port. What queue pair 1 sends (replies, events, NAKs) and the congestion notifications leave so, whatever priority is paused: 02 R34 gives them no priority (the model's choice, log entry 52). -/
def State.say (s : State) (m : HostOut) : State := s.updOs (fun o => { o with out := some m })

/-- Flow control has paused the priority of a queue pair (02 R34). -/
def State.pausedQp (s : State) (q : Nat) : Bool := (s.qp? q).any (fun x => s.os.host.paused.contains x.prio)

/-- A queue pair sends a packet: at once, or behind its earlier ones while its priority is paused. -/
def State.sayQp (s : State) (q : Nat) (m : HostOut) : State :=
  if s.pausedQp q || s.os.waiting.any (fun p => p.1 == q) then s.updOs (fun o => { o with waiting := o.waiting ++ [(q, m)] })
  else s.say m

/-- The oldest waiting packet whose priority is not paused leaves. -/
def State.sendWaiting (s : State) : State :=
  match s.os.waiting.find? (fun p => !s.pausedQp p.1) with
  | some p => (s.updOs (fun o => { o with waiting := o.waiting.erase p })).say p.2
  | none => s

/-- The queue pair of a device-issued host transaction. -/
def State.opQp (s : State) (o : RemoteOp) : Option Qp :=
  if o.host then o.window.bind (fun w => s.qp? w.qp) else none

/-- The request that a host transaction is: its address is the mapping's host address and the offset in the mapping, presented with the mapping's key (03 R81). -/
def RemoteOp.request (o : RemoteOp) : Option HostOut :=
  o.window.map (fun w =>
    let addr := (w.remote + (o.off - w.va)) % 2 ^ 64
    match o.kind with
    | .read n => .read w.qp addr w.rkey n
    | .write bs => .write w.qp addr w.rkey bs
    | .atomic f v cmp => .atomic w.qp addr w.rkey f v cmp)

/-- A host transaction leaves, for the first time or again. -/
def State.sayOp (s : State) (o : RemoteOp) : State := o.request.elim s s.say

/-- A READ or an ATOMIC, of which 16 may be outstanding (02 R37). -/
def RemoteKind.fetches : RemoteKind → Bool
  | .write _ => false
  | _ => true

/-- The host transactions of a queue pair that are still open, oldest first. -/
def State.qpOps (s : State) (q : Nat) : List RemoteOp :=
  s.remote.filter (fun o => o.host && o.answer.isNone && !o.failed && (s.opQp o).any (fun x => x.idx == q))

/-- The transactions of a queue pair that go out now: in order, unless its priority is paused or 16 fetching ones are outstanding. -/
def State.sendable (s : State) (q : Qp) : List Nat :=
  if s.os.host.paused.contains q.prio then []
  else
    let step := fun (a : Nat × List Nat × Bool) (o : RemoteOp) =>
      if a.2.2 then a
      else if o.tries ≠ 0 then (a.1 + bit o.kind.fetches, a.2.1, false)
      else if o.kind.fetches && decide (16 ≤ a.1) then (a.1, a.2.1, true)
      else (a.1 + bit o.kind.fetches, a.2.1 ++ [o.id], false)
    ((s.qpOps q.idx).foldl step (0, [], false)).2.1

/-- Every queue pair sends what it can, and what was issued on one in the error state fails; `now` is given when they could not have been sent at their issue. -/
def State.pump (s : State) (now : Option Nat) : State :=
  let dead := s.remote.filter (fun o => o.host && o.answer.isNone && !o.failed && (s.opQp o).all (fun q => q.error))
  let s := dead.foldl (fun s o => s.remoteDone o (.error 0)) s
  let ids := (s.os.qps.filter (fun q => !q.error)).flatMap s.sendable
  let s := (s.remote.filter (fun o => ids.contains o.id)).foldl State.sayOp s
  { s with remote := s.remote.map (fun (o : RemoteOp) =>
      if ids.contains o.id then { o with tries := 1, since := now.getD o.since } else o) }

/-- A queue pair enters the error state: its open transactions fail, and what has arrived and is not performed is dropped. -/
def State.errorQp (s : State) (q : Nat) : State :=
  let ops := s.qpOps q
  ops.foldl (fun s o => s.remoteDone o (.error 0)) (s.updQp q (fun x => { x with error := true, pending := [] }))

/-- A NAK, with the queue pair in the error state. -/
def State.nakError (s : State) (q : Nat) (k : Nak) : State := (s.errorQp q).sayQp q (.nak q k)

/-! ### The management queue pair, congestion, flow control -/

/-- CM_CONNECT_REQUEST for the management service, the only one that is answered; the host may connect it anew (02 R35, R36). -/
def execCmConnectRequest (s : State) : Host.Outcome State Fault Refusal :=
  device (if s.os.powered && s.os.host.up then
      { s with os := { s.os with mgmt := true, out := some .connected } }
    else s)

/-- CONGESTION_NOTIFICATION_RECEIVED: rate × (1 − cut ÷ 65,536), not below min_mbps (03 Table 3.14). -/
def execCongestionNotificationReceived (qp : Nat) (s : State) : Host.Outcome State Fault Refusal :=
  device (s.updQp qp (fun q => { q with
    rate := max (q.rate * (65536 - s.os.host.cut) / 65536) (min q.rate s.os.host.minMbps) }))

/-- RATE_INCREASE_PERIOD, period_us after the last one: the rate of every throttled queue pair rises by step_mbps, up to the line rate (log entry 52). -/
def execRateIncreasePeriod (s : State) : Host.Outcome State Fault Refusal :=
  device (if s.aclk < s.os.host.rateAt + 3600 * s.os.host.periodUs then s
    else s.updOs (fun o => { o with
      qps := o.qps.map (fun (q : Qp) => { q with rate := min lineRate (q.rate + o.host.stepMbps) })
      host := { o.host with rateAt := s.aclk } }))

/-- ECN_MARKED_PACKET_RECEIVED: a congestion notification goes to the sender. -/
def execEcnMarkedPacketReceived (qp : Nat) (s : State) : Host.Outcome State Fault Refusal :=
  device (s.say (.congestion qp))

/-- PFC_PAUSE_FRAME on flow-control priority 0 or 1: what could go out before has gone out; sending pauses or resumes. -/
def execPfcPauseFrame (prio : Nat) (pause : Bool) (s : State) : Host.Outcome State Fault Refusal :=
  device (
    let s := s.pump none
    let rest := s.os.host.paused.filter (fun p => p != prio)
    let s := s.updOs (fun o => { o with host := { o.host with paused := if pause then prio :: rest else rest } })
    if pause then s else s.pump (some s.aclk))

/-! ### Incoming operations (02 R36 to R38) -/

/-- The queue pair takes an incoming operation: the management one answers NAK Invalid Request and must be connected anew, an unknown one takes nothing, and one in the error state answers NAK Remote Access Error. -/
def withQp (q : Nat) (s : State) (k : Qp → State) : State :=
  if !(s.os.powered && s.os.host.up) then s
  else if q = 1 then ({ s with os := { s.os with mgmt := false, inbox := [] } }).say (.nak 1 .invalidRequest)
  else
    match s.qp? q with
    | none => s
    | some x => if x.error then s.sayQp q (.nak q .remoteAccess) else k x

/-- Tags set FULL by a queue pair, as a release at system scope: at once, or when its collapses are complete (03 R80). -/
def State.qpFills (s : State) (q : Qp) (ms : List MemLoc) : State :=
  (s.updOs (fun o => { o with fills := o.fills ++ ms.map (fun m => ⟨q.idx, q.ctx, m⟩) })).releaseFills

/-- The packets that carry the bytes of a WRITE, of the path's MTU each: addresses and lengths. -/
def Qp.packets (q : Qp) (va n : Nat) : List (Nat × Nat) :=
  let mtu := 256 * 2 ^ q.mtu
  (List.range ((n + mtu - 1) / mtu)).map (fun i => (va + mtu * i, min mtu (n - mtu * i)))

/-- The packets of a WRITE one after another, each translated by itself (04 R95), up to the first one that is refused; none then. -/
def writePackets (q : Qp) : List (Nat × Nat) → List Byte → State → Bool × State
  | [], _, s => (true, s)
  | p :: ps, bs, s =>
    match incoming s q.ctx p.1 p.2 .store with
    | none => (false, s)
    | some ls =>
      if s.sealHit q.ctx p.1 p.2 then (false, s)
      else writePackets q ps (bs.drop p.2) (incomingWrite s ls (bs.take p.2) (.qp q.idx) q.ctx)

/-- An RDMA WRITE is performed (03 R73, R74, R78); none while an engine command owns a line of it. -/
def hostWrite (q : Qp) (va : Nat) (bytes : List Byte) (s : State) : Option State :=
  let ps := q.packets va bytes.length
  if ps.any (fun p => (incoming s q.ctx p.1 p.2 .store).any (incomingOwned s)) then none
  else
    match writePackets q ps bytes s, incoming s q.ctx va bytes.length .store with
    | (true, t), some ls => some ((t.qpFills q (fowWords ls)).sayQp q.idx (.ack q.idx))
    | (_, t), _ => some (t.nakError q.idx .remoteAccess)

/-- An RDMA READ is performed: the data reflects every earlier operation of the queue pair; poison is answered with NAK Remote Operational Error. -/
def hostRead (q : Qp) (va len : Nat) (s : State) : Option State :=
  match incoming s q.ctx va len .load with
  | none => some (s.nakError q.idx .remoteAccess)
  | some ps =>
    if incomingOwned s ps then none
    else
      let (bs, bad, s) := incomingRead s ps
      some (if bad then (s.poisonUsed 8).sayQp q.idx (.nak q.idx .remoteOperational) else s.sayQp q.idx (.readResponse q.idx bs))

/-- An incoming atomic on one memory word is performed: the new value from the old one; the tag of a tagged word may turn FULL (03 R75, R79). -/
def hostAtomic (q : Qp) (va : Nat) (f : Nat → Nat) (fills : Nat → Bool) (s : State) : Option State :=
  match incoming s q.ctx va 8 .atomic with
  | some [(m, _, l)] =>
    if s.sealHit q.ctx va 8 then some (s.nakError q.idx .remoteAccess)
    else if incomingOwned s [(m, 8, l)] then none
    else if s.mem.poison.contains (wordOf m.pa) then some ((s.poisonUsed 8).sayQp q.idx (.nak q.idx .remoteOperational))
    else
      let old := (s.wordAt (wordOf m.pa)).1
      let new := f old.toNat
      let s := s.modifyHome m ((bytesOfNat 8 new).map some) (.qp q.idx) q.ctx none
      let s := if l.tagged && fills new then s.qpFills q [m] else s
      some (s.sayQp q.idx (.atomicResponse q.idx old))
  | _ => some (s.nakError q.idx .remoteAccess)

/-- R_Key, address and length of an operation pass (02 R36, R37, 03 R73), or the NAK that refuses it. -/
def HostOp.refused (q : Qp) : HostOp → Option Nak
  | .write key va bytes =>
    if 2 ^ 31 < bytes.length then some .invalidRequest
    else if key ≠ q.key ∨ 2 ^ 52 ≤ va then some .remoteAccess else none
  | .read key va len =>
    if 2 ^ 31 < len then some .invalidRequest
    else if key ≠ q.key ∨ 2 ^ 52 ≤ va then some .remoteAccess else none
  | .fetchAdd key va _ => if va % 8 ≠ 0 then some .invalidRequest else if key ≠ q.key then some .remoteAccess else none
  | .compareSwap key va _ _ => if va % 8 ≠ 0 then some .invalidRequest else if key ≠ q.key then some .remoteAccess else none
  | .invalid => some .invalidRequest

/-- One operation of a queue pair is performed or refused; none while it must wait. -/
def performHost (q : Qp) (op : HostOp) (s : State) : Option State :=
  match op.refused q with
  | some k => some (s.nakError q.idx k)
  | none =>
    match op with
    | .write _ va bytes => hostWrite q va bytes s
    | .read _ va len => hostRead q va len s
    | .fetchAdd _ va v => hostAtomic q va (fun x => (x + v.toNat) % 2 ^ 64) (fun n => n == 0) s
    | .compareSwap _ va cmp swap => hostAtomic q va (fun x => if x = cmp.toNat then swap.toNat else x) (fun _ => false) s
    | .invalid => some s

/-- A READ or an atomic, of which 16 may be outstanding on a queue pair (02 R37). -/
def HostOp.fetches : HostOp → Bool
  | .write .. => false
  | .invalid => false
  | _ => true

/-- Incoming READs and atomics of a queue pair that are not answered. -/
def State.fetchesOut (s : State) (q : Qp) : Nat :=
  q.pending.countP HostOp.fetches +
    s.os.waiting.countP (fun p => p.1 == q.idx && (match p.2 with | .readResponse .. => true | .atomicResponse .. => true | _ => false))

/-- An operation arrives on a queue pair: performed at once when every earlier one is and no engine command owns a line of it, else kept in order (02 R38); a 17th outstanding READ or atomic is answered NAK Invalid Request (R37). -/
def arriveHost (q : Qp) (op : HostOp) (s : State) : State :=
  let keep := s.updQp q.idx (fun x => { x with pending := x.pending ++ [op] })
  if op.fetches && decide (16 ≤ s.fetchesOut q) then s.nakError q.idx .invalidRequest
  else if q.pending.isEmpty then (performHost q op s).getD keep
  else keep

/-- The oldest operation that waits on a queue pair is performed, if it can be. -/
def State.runQp (s : State) (i : Nat) : State :=
  match s.qp? i with
  | none => s
  | some q =>
    match q.pending with
    | [] => s
    | op :: rest => (performHost { q with pending := rest } op (s.updQp i (fun x => { x with pending := rest }))).getD s

/-- RDMA_WRITE_RECEIVED: key, address and bytes (03 R73, R74, R78). -/
def execRdmaWriteReceived (qp key va : Nat) (bytes : List (BitVec 8)) (s : State) : Host.Outcome State Fault Refusal :=
  device (withQp qp s (fun q => arriveHost q (.write key va bytes) s))

/-- RDMA_READ_RECEIVED. -/
def execRdmaReadReceived (qp key va len : Nat) (s : State) : Host.Outcome State Fault Refusal :=
  device (withQp qp s (fun q => arriveHost q (.read key va len) s))

/-- RDMA_FETCH_ADD_RECEIVED: modulo 2^64; the tag of a tagged word turns FULL when the new value is 0 (03 R79). -/
def execRdmaFetchAddReceived (qp key va : Nat) (v : BitVec 64) (s : State) : Host.Outcome State Fault Refusal :=
  device (withQp qp s (fun q => arriveHost q (.fetchAdd key va v) s))

/-- RDMA_COMPARE_SWAP_RECEIVED: it never changes a tag (03 R79). -/
def execRdmaCompareSwapReceived (qp key va : Nat) (cmp swap : BitVec 64) (s : State) : Host.Outcome State Fault Refusal :=
  device (withQp qp s (fun q => arriveHost q (.compareSwap key va cmp swap) s))

/-- RDMA_INVALID_REQUEST: NAK, and the queue pair enters the error state; on queue pair 1 the host must connect anew (02 R36). -/
def execRdmaInvalidRequest (qp : Nat) (s : State) : Host.Outcome State Fault Refusal :=
  device (withQp qp s (fun q => arriveHost q .invalid s))

/-! ### Answers of the host -/

/-- The oldest open transaction of its queue pair is the one answered, and it has been sent. -/
def State.answerable (s : State) (id : Nat) (fetches : Bool) : Option RemoteOp :=
  match s.remote.find? (fun o => o.id == id) with
  | none => none
  | some o =>
    match s.opQp o with
    | none => none
    | some q =>
      if o.kind.fetches == fetches && decide (0 < o.tries) && ((s.qpOps q.idx).head?.any (fun x => x.id == id)) then some o else none

/-- HOST_RDMA_RESPONSE to a READ or an ATOMIC of the device: its bytes, or a failure. -/
def execHostRdmaResponse (op : Nat) (ok : Bool) (bytes : List (BitVec 8)) (s : State) : Host.Outcome State Fault Refusal :=
  device (
    let s := s.pump none
    match s.answerable op true with
    | none => s
    | some o =>
      if ok && bytes.length != o.kind.bytes then s
      else (s.remoteDone o (if ok then .ok bytes else .error 0)).pump (some s.aclk))

/-- HOST_WRITE_ACK of a WRITE of the device. -/
def execHostWriteAck (op : Nat) (ok : Bool) (s : State) : Host.Outcome State Fault Refusal :=
  device (
    let s := s.pump none
    match s.answerable op false with
    | none => s
    | some o => s.remoteDone o (if ok then .ok [] else .error 0))

/-- An RNR NAK of the host for the oldest transaction of its queue pair: it is sent again, as often as rnr_retry allows (7: without limit), then it fails (03 Table 3.10). -/
def State.hostNotReady (s : State) (op : Nat) : State :=
  let s := s.pump none
  match (s.answerable op true).or (s.answerable op false) with
  | none => s
  | some o =>
    match s.opQp o with
    | none => s
    | some q =>
      if q.rnrRetry = 7 ∨ o.rnrs < q.rnrRetry then
        let s := s.sayOp o
        { s with remote := s.remote.map (fun (x : RemoteOp) => if x.id == o.id then { x with rnrs := x.rnrs + 1, since := s.aclk } else x) }
      else s.remoteDone o (.error 0)

/-- The ACK time-out in aclk: 4.096 µs × 2^code at 3.6 GHz. -/
def ackAclk (code : Nat) : Nat := 147456 * 2 ^ code / 10

/-- QP_ACK_TIMEOUT of a queue pair's oldest transaction (what was issued on a queue pair in the error state fails here too): it is sent again, or fails when its retries are used up. -/
def execQpAckTimeout (qp : Nat) (s : State) : Host.Outcome State Fault Refusal :=
  device (
    let s := s.pump none
    match s.qp? qp, (s.qpOps qp).head? with
    | some q, some o =>
      if q.ackTimeout = 0 ∨ o.tries = 0 ∨ s.aclk < o.since + ackAclk q.ackTimeout then s
      else if q.retry < o.tries then s.remoteDone o (.error 0)
      else
        let s := s.sayOp o
        { s with remote := s.remote.map (fun (x : RemoteOp) => if x.id == o.id then { x with tries := x.tries + 1, since := s.aclk } else x) }
    | _, _ => s)

end Sys2Proof.Machine
end

