-- ==== Sys2Proof/Machine/Pages.lean ====
section
/-! DEFINITION. Physical memory and translation tables as Oseus keeps them: frames, table pages, leaf entries (04 R89, R90, 03 R72), remote windows (04 R92), and shoot-downs (04 R98 to R100, 05 R455). -/

namespace Sys2Proof.Machine

/-- A table page of zeros: its physical address. -/
def State.newTable (s : State) : Option (Nat × State) :=
  (highestFree s.os.used 0x11E00000 1).map (fun f => (f * 65536, s.useFrames f 1))

/-! ### Table entries -/

def State.tableEntry (s : State) (pa : Nat) : Nat := (sparseDword s.mem.cells pa).toNat

def State.setEntry (s : State) (pa e : Nat) : State := { s with mem := s.mem.write pa ((bytesOfNat 8 e).map some) }

/-- Where a table entry points. -/
def entryPa (e : Nat) : Nat := bitsOf e 16 34 * 2 ^ 16

/-- The table an entry points to, built when it is not there. -/
def State.tableAt (s : State) (pa : Nat) : Option (Nat × State) :=
  let e := s.tableEntry pa
  if bitsOf e 0 1 = 1 ∧ bitsOf e 1 1 = 0 then some (entryPa e, s)
  else s.newTable.map (fun p => (p.1, p.2.setEntry pa (p.1 + 1)))

/-- A page is mapped: the leaf entry is written, with the tables above it. A 512 MiB page takes the place of a table with no valid entry. -/
def State.mapPage (s : State) (root va : Nat) (big : Bool) (leaf : Nat) : Option State :=
  match s.tableAt (root + 8 * bitsOf va 42 10) with
  | none => none
  | some (t2, s) =>
    let at2 := t2 + 8 * bitsOf va 29 13
    if big then
      let e := s.tableEntry at2
      let s := if bitsOf e 0 1 = 1 ∧ bitsOf e 1 1 = 0 then s.freeFrames [(entryPa e / 65536, 1)] else s
      some (s.setEntry at2 leaf)
    else (s.tableAt at2).map (fun p => p.2.setEntry (p.1 + 8 * bitsOf va 16 13) leaf)

/-- The leaf entry of a mapped page is removed. -/
def State.unmapPage (s : State) (root va : Nat) (big : Bool) : State :=
  let at2 := entryPa (s.tableEntry (root + 8 * bitsOf va 42 10)) + 8 * bitsOf va 29 13
  if big then s.setEntry at2 0
  else s.setEntry (entryPa (s.tableEntry at2) + 8 * bitsOf va 16 13) 0

/-- The frames of the tables below a root, and of the root. -/
def tableFrames (mem : List Host.Cell) (root : Nat) : List (Nat × Nat) :=
  let l1 := (tableEntries mem root 1024).map (fun p => entryPa p.2)
  let l2 := l1.flatMap (fun t => ((tableEntries mem t 8192).filter (fun p => bitsOf p.2 1 1 == 0)).map (fun p => entryPa p.2))
  ((root :: l1) ++ l2).map (fun t => (t / 65536, 1))

/-- The mapped pages of a context that meet a range. -/
def State.pagesIn (s : State) (root va len : Nat) : List (Nat × Nat × Nat) :=
  (mappedPages s.mem.cells root).filter (fun p => decide (p.1 < va + len ∧ va < p.1 + pageBytes (p.2.1 == 1)))

/-! ### Shoot-downs -/

/-- The dies that answer a sweep (00 Table 0.3). -/
def sweptDies : List Nat := List.range 10 ++ (List.range 8).map (fun k => 16 + k)

/-- A graph's instances whose reached JOB nodes have a dependence word in a removed page end (05 R455). -/
def State.loseWords (s : State) (ctx : Nat) (ps : List (Nat × Nat × Nat)) : State :=
  let s := s.updCtx ctx (fun c => { c with graphs := c.graphs.map (fun (g : Graph) =>
    if inPages ps g.startWord then { g with startLost := true } else g) })
  let hit := fun (x : Inst) => match s.graphOf x with
    | none => none
    | some g => x.runs.findSome? (fun r => match (g.node r.node).kind with
        | .job _ _ _ deps => deps.find? (inPages ps)
        | _ => none)
  (s.insts.filter (fun x => x.ctx == ctx)).foldl (fun s x =>
    match hit x with
    | some w => s.endInstance x.id ctx 2 0x03 w true
    | none => s) s

/-- The window of a page of class peer or host: the one that its leaf names; that of a non-resident page, whose leaf names none, is the last one made with such pages at its address. -/
def windowOfPage (ws : List Window) (p : Nat × Nat × Nat) : Option Nat :=
  let l := leafOf p.2.2 (p.2.1 == 1)
  if l.cls ≤ 2 then none
  else if !l.nonres then some (bitsOf l.base 16 12)
  else ((ws.filter (fun w => w.nonres && w.host == (l.cls == 4) && decide (w.va ≤ p.1 ∧ p.1 < w.va + w.span))).getLast?).map (fun w => w.idx)

/-- Remote windows lose some pages, resident or not; one with no page left is free (04 R92). -/
def State.shrinkWindows (s : State) (ctx : Nat) (ps : List (Nat × Nat × Nat)) : State :=
  s.updCtx ctx (fun c =>
    let gone := ps.filterMap (windowOfPage c.windows)
    { c with windows := (c.windows.map (fun (w : Window) => { w with pages := w.pages - gone.count w.idx })).filter (fun w => w.pages != 0) })

/-- The frames that removed pages held. -/
def removedFrames (ps : List (Nat × Nat × Nat)) : List (Nat × Nat) :=
  ps.filterMap (fun p =>
    let l := leafOf p.2.2 (p.2.1 == 1)
    if l.cls ≤ 2 ∧ !l.nonres then some (l.base / 65536, if l.big then 8192 else 1) else none)

/-- Steps 1 and 2: entries removed, the sweep started (04 R98). -/
def State.startShoot (s : State) (c : Context) (ps : List (Nat × Nat × Nat)) (msg req : Nat) : State :=
  let s := ps.foldl (fun s p => s.unmapPage c.root p.1 (p.2.1 == 1)) s
  let s := (s.shrinkWindows c.id ps).loseWords c.id ps
  { s with shoot := some { ctx := c.id, removed := ps, dies := sweptDies, frames := removedFrames ps, msg := msg, req := req, since := s.aclk } }

/-- A place that was translated by a removed entry. -/
def Loc.swept (ps : List (Nat × Nat × Nat)) : Loc → Bool
  | .mem m => inPages ps m.va
  | .remote _ _ va => inPages ps va
  | _ => false

/-- A fibre still has an access to perform that a removed entry translated; a blocked TAKE or WAITF is not waited for. -/
def Fibre.sweptPending (f : Fibre) (ps : List (Nat × Nat × Nat)) : Bool :=
  f.sq.any (fun op => op.kind.loc.swept ps) ||
  f.ll.any (fun op => match op.kind with
    | .tagWait .. => false
    | k => k.reads.any (fun p => p.1.swept ps) ||
        (match k with | .tile ms => ms.any (fun m => m.dst.any (fun d => d.1.swept ps)) | _ => false))

/-- The waiters of a die at words of removed pages are withdrawn: the instruction executes anew (17 R363). -/
def State.withdrawSwept (s : State) (sh : ShootDown) (die : Nat) : State :=
  let hit := fun (w : Waiter) => inPages sh.removed w.m.va && (match s.team? w.who.team with
    | some t => t.ctx == sh.ctx && (match t.fibre? w.who.fibre with | some f => dieOf t f == die | none => false)
    | none => false)
  let ws := s.coh.waiters.filter hit
  let s := { s with coh := { s.coh with waiters := s.coh.waiters.filter (fun w => !hit w) } }
  ws.foldl (fun (s : State) w => s.updFibre w.who (fun f =>
    let ops := f.ll.filter (fun op => match op.kind with | .tagWait .. => true | _ => false)
    let f := ops.foldl (fun f op => f.countDown op.counter) f
    { f with
      status := .ready
      ll := f.ll.filter (fun op => match op.kind with | .tagWait .. => false | _ => true) })) s

/-- A chunk of a command touches a removed page: it is still to be read there, or written there. -/
def Chunk.swept (ps : List (Nat × Nat × Nat)) (k : Chunk) : Bool :=
  k.src.any (fun p => match p with | .read l _ => l.swept ps | .known _ => false) ||
  (match k.out with
   | .write l => l.swept ps
   | .nibble l _ => l.swept ps
   | .combine l _ _ => l.swept ps
   | _ => false)

/-- A scan that has not found its lists reads removed pages: its descriptor before the snapshot, or records of a shard. -/
def scanSwept (ps : List (Nat × Nat × Nat)) (c : Cmd) : Bool :=
  match c.kind with
  | .scan d m _ _ _ snap parts =>
    (snap.isNone && inPages ps m.va) ||
    parts.any (fun p => (p.phase == .queued || p.phase == .running || p.phase == .paused) &&
      meetsPages ps (ixBase d p.stack) (ixNrec d p.stack * recordStride d))
  | _ => false

/-- The completion word of a command lies in a removed page. -/
def Target.swept (ps : List (Nat × Nat × Nat)) : Target → Bool
  | .fill m => inPages ps m.va
  | .countdown m => inPages ps m.va
  | _ => false

/-- A PLACE.convert command whose tensor has slots in removed pages stops with the asynchronous address fault; the conversion that it alone waits for is abandoned. One that has been served keeps what it has. -/
def State.sweepConvert (s : State) (sh : ShootDown) (c : Cmd) : State :=
  match c.kind with
  | .convert tid =>
    (match s.demandOf (.convert c.id) with
     | none => s
     | some d =>
       if d.granted ∨ !((s.entryOf c.ctx tid).slotRanges s.grid).any (fun p => meetsPages sh.removed p.1 p.2) then s
       else
         let c := c.fails 0x03 2 ((sh.removed.map (fun p => p.1)).headD 0)
         let s := ((s.releaseLines c.id []).dropDemand (.convert c.id)).updCmd c.id (fun _ => c)
         let s := s.endCmd c
         let wanted := s.demands.any (fun x => x.ctx == c.ctx && x.tid == tid && x.who.demands && x.demand == d.demand)
         if (s.convOf c.ctx tid).any (fun v => v.demand == d.demand) ∧ !wanted then (s.abandonConversion c.ctx tid).serveDemands c.ctx tid
         else s)
  | _ => s

/-- An engine command of the context stops at removed pages, with the asynchronous address fault; its other ranges run on (04 R99). -/
def State.sweepCmd (s : State) (sh : ShootDown) (c : Cmd) : State :=
  let hit := (c.stages.flatMap (fun g => g.chunks)).any (Chunk.swept sh.removed)
  let noWord := c.target.swept sh.removed
  let scan := scanSwept sh.removed c
  if !(hit || noWord || scan) then s
  else
    let va := (sh.removed.map (fun p => p.1)).headD 0
    let gs := c.stages.map (fun (g : Stage) => { g with chunks := g.chunks.filter (fun k => !k.swept sh.removed) })
    let c := { c.fails 0x03 2 va with
      stages := gs
      target := if noWord then .none else c.target
      lost := if scan then c.lost ++ sh.removed else c.lost }
    let s := (s.updCmd c.id (fun _ => c)).releaseLines c.id (gs.flatMap Stage.lines)
    let unread := match c.kind with | .scan _ m _ _ _ none _ => inPages sh.removed m.va | _ => false
    if unread || (noWord && c.ended) then s.endCmd c else s

/-- A transaction translated by a removed entry has not been sent yet; one that is on its way is not waited for (04 R99). -/
def RemoteOp.unsentSwept (o : RemoteOp) (sh : ShootDown) : Bool :=
  o.ctx == sh.ctx && o.coord.isNone && o.tries == 0 && o.answer.isNone && !o.failed && inPages sh.removed o.off

/-- A die can answer the sweep: the accesses of its fibres that removed entries translated are performed or sent, with the REDF operations homed there and the tags that arrived writes still set there (03 R80), and no matrix operation of the context is under way on it. -/
def State.sweepDone (s : State) (sh : ShootDown) (die : Nat) : Bool :=
  s.teams.all (fun t => t.ctx != sh.ctx || t.fibres.all (fun f => dieOf t f != die || !f.sweptPending sh.removed)) &&
  !s.mmas.any (fun m => m.die == die && (s.team? m.team).any (fun t => t.ctx == sh.ctx)) &&
  !s.coh.redfs.any (fun p => p.ctx == sh.ctx && inPages sh.removed p.m.va && homeDie (lineOf p.m.pa) == die) &&
  !s.os.fills.any (fun x => x.ctx == sh.ctx && inPages sh.removed x.m.va && homeDie (lineOf x.m.pa) == die) &&
  !s.remote.any (fun o => o.unsentSwept sh)

/-- A reply on queue pair 1, with the request's type, req_id and ctx (03 R59; log entry 49). -/
def State.reply (s : State) (type req ctx status detail : Nat) (body : List Byte) : State :=
  s.say (.message (messageBytes type req ctx status detail body))

/-- Every die has answered: the freed pages are zeroed, the time is recorded, and the message that waited is answered; a destroyed context is gone (04 R98, R99; 03 R71). -/
def State.finishShoot (s : State) (sh : ShootDown) : State :=
  let s := { s with shoot := none }
  let s := (s.zeroFrames sh.frames).freeFrames sh.frames
  let s := s.lifeCount 6 (min 15 ((s.aclk - sh.since) / 450)) 1
  let s := if sh.msg = 0x02 then
      match s.ctx? sh.ctx with
      | some c =>
        let ts := tableFrames s.mem.cells c.root
        { (s.zeroFrames ts).freeFrames ts with ctxs := s.ctxs.filter (fun x => x.id != sh.ctx) }
      | none => s
    else s
  s.reply sh.msg sh.req sh.ctx 0 0 []

/-- DIE_SWEEP_ANSWER of a die; the last one completes the shoot-down. -/
def execDieSweepAnswer (die : Nat) (s : State) : Host.Outcome State Fault Refusal :=
  device (match s.shoot with
    | none => s
    | some sh =>
      if !sh.dies.contains die then s
      else
        let s := (s.pump none).withdrawSwept sh die
        let s := (s.cmds.filter (fun c => c.ctx == sh.ctx && c.die == die)).foldl (fun (s : State) c => let s := s.sweepCmd sh c; (s.cmd? c.id).elim s (s.sweepConvert sh)) s
        if !s.sweepDone sh die then s
        else
          let sh := { sh with dies := sh.dies.erase die }
          let s := { s with shoot := some sh }
          if sh.dies.isEmpty then s.finishShoot sh else s)

end Sys2Proof.Machine
end

