-- ==== Sys2Proof/Machine/Mgmt.lean ====
section
/-! DEFINITION. Management messages on queue pair 1 (03 R58 to R73, R76, R84, R85): the header's checks, contexts, reservations, mappings, queue pairs, images, counters and records, attestation, firmware, reset. -/

namespace Sys2Proof.Machine

/-! ### Headers and replies -/

def msgType (m : Message) : Nat := bitsOf m.hdr.toNat 0 8
def msgReq (m : Message) : Nat := bitsOf m.hdr.toNat 32 32
def msgCtx (m : Message) : Nat := bitsOf m.hdr.toNat 64 6

/-- The body as one number, its first byte lowest (03 R58). -/
def msgNum (m : Message) : Nat := natOfBytes m.body

/-- The header is as a request's must be: version 1, the body's length, reserved fields and status 0 (03 Table 3.1, R62). -/
def msgHeadOk (m : Message) : Bool :=
  let h := m.hdr.toNat
  bitsOf h 8 8 == 1 && bitsOf h 16 16 == m.body.length && bitsOf h 70 26 == 0 && bitsOf h 96 32 == 0

/-- How a message comes out: refused with a status and a detail, done with a reply body, or answered later. -/
inductive Served where
  | refuse (status detail : Nat)
  | done (s : State) (body : List Byte)
  | later (s : State)

/-- Oseus can begin a message: none of the earlier ones is under way (03 R59). -/
def State.idle (s : State) : Bool := s.shoot.isNone && s.os.image.isNone

/-- The management service takes messages: queue pair 1 is connected, and the module is not held after a stop at 110 °C (01 R27, 02 R35). -/
def State.mgmtUp (s : State) : Bool := s.os.powered && s.os.host.up && s.os.mgmt && !s.os.held

/-- A message that arrives is begun at once. -/
def State.serving (s : State) : Bool := s.mgmtUp && s.idle && s.os.inbox.isEmpty

/-- One message: its header checked, then its meaning; in recovery mode only the types of Table 3.2 are served. -/
def serve (type : Nat) (lenOk : Nat → Bool) (named recovery : Bool) (m : Message) (s : State) (k : State → Served) : State :=
  let r := if s.os.recovery && !recovery then Served.refuse 6 0
    else if !msgHeadOk m || !lenOk m.body.length || (!named && (msgCtx m) != 0) then .refuse 1 0
    else k s
  match r with
  | .refuse st d => s.reply type (msgReq m) (msgCtx m) st d []
  | .done s' body => s'.reply type (msgReq m) (msgCtx m) 0 0 body
  | .later s' => s'

/-- A message arrives on queue pair 1: it is handled, or waits in a receive buffer behind the earlier ones; with all 64 taken it meets an RNR NAK, and one longer than a buffer is an invalid request (02 R36, Table 2.1, 03 R58, R59; log entry 49). -/
def takeMessage (h : Message → State → State) (m : Message) (s : State) : State :=
  if !s.mgmtUp then s
  else if 4080 < m.body.length then ({ s with os := { s.os with mgmt := false, inbox := [] } }).say (.nak 1 .invalidRequest)
  else if s.serving then h m s
  else if s.os.inbox.length < 64 then s.updOs (fun o => { o with inbox := o.inbox ++ [m] })
  else s.say (.nak 1 .receiverNotReady)

/-- The arrival of a message of one type. -/
def onMessage (type : Nat) (h : Message → State → State) (m : Message) (s : State) : Host.Outcome State Fault Refusal :=
  device (if msgType m = type then takeMessage h m s else s)

/-- The byte offset of the first field of the body that is not as it must be (03 R62). -/
def firstBad (fs : List (Bool × Nat)) : Option Nat := (fs.find? (fun p => !p.1)).map (fun p => p.2)

/-- The checks of a body in the order of its fields, then the rest. -/
def checked (fs : List (Bool × Nat)) (k : Served) : Served :=
  match firstBad fs with
  | some d => .refuse 1 d
  | none => k

/-- Bits `[hi:lo]` are 0, at byte `lo / 8`. -/
def zeroAt (b lo n : Nat) : Bool × Nat := (bitsOf b lo n == 0, lo / 8)

/-- The context a message names (03 Table 3.3, status 3). -/
def withCtx (m : Message) (s : State) (k : Context → Served) : Served :=
  match s.ctx? (msgCtx m) with
  | some c => k c
  | none => .refuse 3 0

/-! ### Contexts (03 R68 to R71) -/

/-- The least identifier below `n` that is free. -/
def freeId (n : Nat) (taken : Nat → Bool) : Option Nat := (List.range n).find? (fun i => !taken i)

/-- CREATE_CONTEXT (03 R68, Table 3.4). -/
def serveCreateContext (m : Message) (s : State) : State :=
  let b := msgNum m
  serve 0x01 (fun n => n == 64) false false m s (fun s =>
    checked [(bitsOf b 0 52 % 4 == 0, 0), zeroAt b 52 12, (bitsOf b 64 52 % 4 == 0, 8), zeroAt b 116 12,
        (bitsOf b 128 52 % 4 == 0, 16), zeroAt b 180 12, (bitsOf b 192 52 % 65536 == 0, 24), zeroAt b 244 12,
        (bitsOf b 256 52 % 65536 == 0, 32), (decide (bitsOf b 308 4 ≤ 8), 38), zeroAt b 312 8,
        (bitsOf b 320 52 % 4096 == 0, 40), zeroAt b 372 12, (bitsOf b 384 32 != 0, 48), zeroAt b 417 95]
      (match freeId 64 (fun i => (s.ctx? i).isSome), s.newTable with
       | some id, some (root, s) =>
         .done { s with ctxs := s.ctxs ++ [{
           id := id, trapHandler := bitsOf b 0 52, emulHandler := bitsOf b 64 52, preemptHandler := bitsOf b 128 52
           tidTable := bitsOf b 192 52, trapRing := bitsOf b 256 52, ringOrder := bitsOf b 308 4, pagerMbox := bitsOf b 320 52
           rdvTimeout := bitsOf b 384 32, notifyTerm := bitsOf b 416 1 == 1, root := root
           critC := 0, critM := 0, intC := 0, intM := 0, partMask := List.replicate 8 0xFFFF, peer := false
           windows := [], graphs := [], images := [], wdq := [], chans := [], recSeq := 0, counters := [], held := false }] }
           (bytesOfNat 1 id)
       | _, _ => .refuse 2 0))

/-- CREATE_CONTEXT arrives on queue pair 1. -/
def execCreateContext (m : Message) (s : State) : Host.Outcome State Fault Refusal :=
  onMessage 0x01 serveCreateContext m s

/-- Steps 1 to 3 of a destroy: queue pairs in error, teams stopped and scrubbed, everything of the context released; nothing is reported (03 R71, 05 R121). A queue pair stays in the error state, bound to no context, until its index is given out anew (log entry 52). -/
def State.dismantle (s : State) (ctx : Nat) : State :=
  let s := s.updOs (fun o => { o with
    qps := o.qps.map (fun (q : Qp) => if q.ctx == ctx then { q with ctx := 64, error := true, pending := [] } else q)
    fills := o.fills.filter (fun x => x.ctx != ctx) })
  let gone := fun (k : Nat) => s.teams.any (fun t => t.id == k && t.ctx == ctx)
  let s := ((s.freeImages gone).forgetFibres gone).dropCommands gone
  let s := s.closeCollectives (fun o => o.ctx == ctx)
  { s.updCtx ctx (fun c => { c with graphs := [], images := [], wdq := [], chans := [], critC := 0, critM := 0, intC := 0, intM := 0, peer := false }) with
    teams := s.teams.filter (fun t => t.ctx != ctx)
    insts := s.insts.filter (fun x => x.ctx != ctx)
    starts := s.starts.filter (fun p => p.1 != ctx)
    claims := s.claims.filter (fun c => c.ctx != ctx)
    reports := s.reports.filter (fun p => p.ctx != ctx)
    demands := s.demands.filter (fun d => d.ctx != ctx)
    convs := s.convs.filter (fun c => c.ctx != ctx)
    sealing := s.sealing.filter (fun x => x.ctx != ctx)
    sealedRanges := s.sealedRanges.filter (fun x => x.ctx != ctx)
    contribs := s.contribs.filter (fun o => o.ctx != ctx)
    remote := s.remote.filter (fun o => o.ctx != ctx)
    coh := { s.coh with redfs := s.coh.redfs.filter (fun p => p.ctx != ctx) } }

/-- DESTROY_CONTEXT: the reply comes with the end of its shoot-down. -/
def serveDestroyContext (m : Message) (s : State) : State :=
  serve 0x02 (fun n => n == 0) true false m s (fun s =>
    withCtx m s (fun c =>
      let s := s.dismantle c.id
      .later (s.startShoot c (mappedPages s.mem.cells c.root) 0x02 (msgReq m))))

/-- DESTROY_CONTEXT arrives on queue pair 1. -/
def execDestroyContext (m : Message) (s : State) : Host.Outcome State Fault Refusal :=
  onMessage 0x02 serveDestroyContext m s

/-- The cores of a kind that contexts reserve for a class, with one context's share given. -/
def State.reservedCores (s : State) (ctx own : Nat) (f : Context → Nat) : Nat :=
  own + ((s.ctxs.filter (fun c => c.id != ctx)).map f).foldl (· + ·) 0

/-- An admitted instance of a context and class is live. -/
def State.admittedLive (s : State) (ctx cls : Nat) : Bool :=
  s.insts.any (fun x => x.ctx == ctx && x.admitted && (s.graphOf x).any (fun g => g.cls == cls))

/-- SET_RESERVATIONS (03 R70, Table 3.5); retained ways that a new mask includes leave retention (08 R169). -/
def serveSetReservations (m : Message) (s : State) : State :=
  let b := msgNum m
  let masks := (List.range 8).map (fun p => bitsOf b (64 + 16 * p) 16)
  serve 0x03 (fun n => n == 24) true false m s (fun s =>
    withCtx m s (fun c =>
      checked (zeroAt b 32 32 :: (List.range 8).map (fun p => (masks.getD p 0 != 0, 8 + 2 * p))) (
        let cc := bitsOf b 0 8
        let cm := bitsOf b 8 8
        let ic := bitsOf b 16 8
        let im := bitsOf b 24 8
        let tcc := s.reservedCores c.id cc (fun c => c.critC)
        let tcm := s.reservedCores c.id cm (fun c => c.critM)
        if 32 < tcc ∨ 24 < tcm ∨ 40 < tcc + s.reservedCores c.id ic (fun c => c.intC) ∨
            48 < tcm + s.reservedCores c.id im (fun c => c.intM) then .refuse 5 0
        else if ((cc < c.critC ∨ cm < c.critM) ∧ s.admittedLive c.id 0) ∨ ((ic < c.intC ∨ im < c.intM) ∧ s.admittedLive c.id 1) then .refuse 4 0
        else
          let back := s.coh.retainedWays.filter (fun p => masks.any (fun k => k.testBit p.2))
          let s := (s.updCtx c.id (fun c => { c with critC := cc, critM := cm, intC := ic, intM := im, partMask := masks })).count c.id 0x45 back.length
          .done { s with coh := { s.coh with retainedWays := s.coh.retainedWays.filter (fun p => !back.contains p) } } [])))

/-- SET_RESERVATIONS arrives on queue pair 1. -/
def execSetReservations (m : Message) (s : State) : Host.Outcome State Fault Refusal :=
  onMessage 0x03 serveSetReservations m s

/-! ### Mapping (03 R72, Table 3.6) -/

/-- What a map-memory message asks for. -/
structure MapAsk where
  va : Nat
  len : Nat
  cls : Nat
  big : Bool
  read : Nat
  write : Nat
  exec : Nat
  tagged : Nat
  fow : Nat
  pin0 : Nat
  policy : Nat
  part : Nat
  nonres : Bool
  place : Nat
  remote : Nat
  qp : Nat
  rkey : Nat
  deriving DecidableEq, Repr

def mapAsk (b : Nat) : MapAsk where
  va := bitsOf b 0 52
  len := bitsOf b 64 52
  cls := bitsOf b 128 3
  big := bitsOf b 131 1 == 1
  read := bitsOf b 132 1
  write := bitsOf b 133 1
  exec := bitsOf b 134 1
  tagged := bitsOf b 135 1
  fow := bitsOf b 136 1
  pin0 := bitsOf b 137 1
  policy := bitsOf b 138 2
  part := bitsOf b 140 3
  nonres := bitsOf b 143 1 == 1
  place := bitsOf b 144 4
  remote := bitsOf b 160 64
  qp := bitsOf b 224 11
  rkey := bitsOf b 256 32

/-- The checks of the body, in the order of its fields; a range that ends above 2^52 is refused at its length (log entry 48). -/
def MapAsk.fields (a : MapAsk) (b : Nat) (qpOk : Bool) : List (Bool × Nat) :=
  let page := pageBytes a.big
  [(a.va % page == 0, 0), zeroAt b 52 12, (a.len != 0 && a.len % page == 0 && decide (a.va + a.len ≤ 2 ^ 52), 8), zeroAt b 116 12,
   (decide (a.cls ≤ 4), 16), (!(a.write == 1 && a.cls == 2), 16), (!(a.write == 1 && a.exec == 1), 16),
   (a.tagged == 0 || decide (a.cls ≤ 1), 16), (a.fow == 0 || a.tagged == 1, 17),
   ((match a.cls with | 0 => decide (a.place ≤ 8) | 2 => decide (a.place ≤ 3) | _ => a.place == 0), 18), zeroAt b 148 12,
   ((match a.cls with | 4 => true | 3 => a.remote / 2 ^ 54 == 0 | _ => a.remote == 0), 20),
   ((if a.cls = 4 then qpOk else a.qp == 0), 28), zeroAt b 235 21,
   (a.cls == 4 || a.rkey == 0, 32), zeroAt b 288 32]

/-- The leaf entry of a page, without its pa field (04 Table 4.4). -/
def MapAsk.leaf (a : MapAsk) : Nat :=
  3 + bit a.nonres * 2 ^ 2 + a.read * 2 ^ 3 + a.write * 2 ^ 4 + a.exec * 2 ^ 5 + a.tagged * 2 ^ 6 + a.fow * 2 ^ 7 +
    a.cls * 2 ^ 8 + a.policy * 2 ^ 11 + a.part * 2 ^ 13 + a.pin0 * 2 ^ 50

/-- The frames of page `k`: of its stack, interleaved over all of them page by page whatever the page size (log entry 48), of the second tier, of its C-die. -/
def MapAsk.frame (a : MapAsk) (used : List (Nat × Nat)) (k : Nat) : Option Nat :=
  let place := if a.cls = 0 ∧ a.place = 8 then k % 8 else a.place
  let p := framePool a.cls place
  lowestFree used p.1 p.2 (if a.big then 8192 else 1)

/-- One page of the range is mapped: memory given out and zeroed, the leaf written; a resident leaf of class peer or host names its window and the page within it (04 Table 4.4). -/
def State.mapOne (s : State) (root : Nat) (a : MapAsk) (window k : Nat) : Option State :=
  let va := a.va + k * pageBytes a.big
  if a.nonres then s.mapPage root va a.big a.leaf
  else if 2 < a.cls then s.mapPage root va a.big (a.leaf + window * 2 ^ 16 + k % 2 ^ 22 * 2 ^ 28)
  else
    match a.frame s.os.used k with
    | none => none
    | some f => (s.useFrames f (if a.big then 8192 else 1)).mapPage root va a.big (a.leaf + f * 2 ^ 16)

/-- The pages of a range, one after the other. -/
def State.mapMany (s : State) (root : Nat) (a : MapAsk) (window : Nat) : List Nat → Option State
  | [] => some s
  | k :: ks => (s.mapOne root a window k).bind (fun s => s.mapMany root a window ks)

/-- The weight-store groups of a mapped range leave retention (08 R169). -/
def State.wakeGroups (s : State) (ctx : Nat) (a : MapAsk) : State :=
  if a.cls = 2 ∧ !a.nonres then
    let now := s.mappedGroups
    let back := s.coh.retainedGroups.filter (fun p => now.contains p)
    let s := s.count ctx 0x45 back.length
    { s with coh := { s.coh with retainedGroups := s.coh.retainedGroups.filter (fun p => !back.contains p) } }
  else s

/-- MAP_MEMORY: only non-resident pages of the same size may stand in the range, and they become resident. -/
def serveMapMemory (m : Message) (s : State) : State :=
  let b := msgNum m
  let a := mapAsk b
  serve 0x04 (fun n => n == 40) true false m s (fun s =>
    let qpOk := (s.qp? a.qp).any (fun q => q.ctx == (msgCtx m))
    withCtx m s (fun c => checked (a.fields b qpOk) (
      let lying := s.pagesIn c.root a.va a.len
      let ok := fun (p : Nat × Nat × Nat) => !a.nonres && bitsOf p.2.2 2 1 == 1 && (p.2.1 == 1) == a.big
      if !lying.all ok then .refuse 4 0
      else
        match (if 2 < a.cls then freeId 4096 (fun i => c.windows.any (fun w => w.idx == i)) else some 0) with
        | none => .refuse 2 0
        | some w =>
          let n := a.len / pageBytes a.big
          match s.mapMany c.root a w (List.range n) with
          | none => .refuse 2 0
          | some s =>
            let s := s.shrinkWindows c.id lying
            let s := if 2 < a.cls then s.updCtx c.id (fun c => { c with
                windows := c.windows ++ [⟨w, a.cls == 4, a.remote, a.qp, a.rkey, a.va, a.len, a.nonres, n⟩] }) else s
            .done (s.wakeGroups c.id a) [])))

/-- MAP_MEMORY arrives on queue pair 1. -/
def execMapMemory (m : Message) (s : State) : Host.Outcome State Fault Refusal :=
  onMessage 0x04 serveMapMemory m s

/-- UNMAP_MEMORY: with a mapped page in the range the reply comes with the end of the shoot-down. -/
def serveUnmapMemory (m : Message) (s : State) : State :=
  let b := msgNum m
  let va := bitsOf b 0 52
  let len := bitsOf b 64 52
  serve 0x05 (fun n => n == 16) true false m s (fun s =>
    withCtx m s (fun c => checked [(va % 65536 == 0, 0), zeroAt b 52 12, (len != 0 && len % 65536 == 0, 8), zeroAt b 116 12] (
      let ps := s.pagesIn c.root va len
      if ps.any (fun p => decide (p.1 < va ∨ va + len < p.1 + pageBytes (p.2.1 == 1))) then .refuse 1 8
      else if ps.isEmpty then .done s []
      else .later (s.startShoot c ps 0x05 (msgReq m)))))

/-- UNMAP_MEMORY arrives on queue pair 1. -/
def execUnmapMemory (m : Message) (s : State) : Host.Outcome State Fault Refusal :=
  onMessage 0x05 serveUnmapMemory m s

/-! ### Queue pairs and peer access -/

/-- CREATE_QUEUE_PAIR (03 R63, R73); its send rate starts at the line rate (log entry 52). -/
def serveCreateQueuePair (m : Message) (s : State) : State :=
  let b := msgNum m
  serve 0x09 (fun n => n == 32) true false m s (fun s =>
    withCtx m s (fun c => checked [(decide (bitsOf b 56 3 ≤ 4), 7), zeroAt b 63 1, zeroAt b 120 8] (
      match (List.range 1023).find? (fun i => (s.qp? (i + 2)).all (fun q => q.ctx == 64)) with
      | none => .refuse 2 0
      | some i =>
        .done (s.updOs (fun o => { o with qps := o.qps.filter (fun q => q.idx != i + 2) ++ [{
          idx := i + 2, ctx := c.id, key := bitsOf b 0 32, remoteQpn := bitsOf b 32 24, mtu := bitsOf b 56 3
          prio := bitsOf b 59 1, retry := bitsOf b 60 3, ackTimeout := bitsOf b 64 5, rnrRetry := bitsOf b 69 3
          sqPsn := bitsOf b 72 24, rqPsn := bitsOf b 96 24, gid := bitsOf b 128 128, error := false
          rate := lineRate, pending := [] }] })) (bytesOfNat 2 (i + 2)))))

/-- CREATE_QUEUE_PAIR arrives on queue pair 1. -/
def execCreateQueuePair (m : Message) (s : State) : Host.Outcome State Fault Refusal :=
  onMessage 0x09 serveCreateQueuePair m s

/-- DESTROY_QUEUE_PAIR: refused while a host-class mapping names it; otherwise it enters the error state and its index is free. -/
def serveDestroyQueuePair (m : Message) (s : State) : State :=
  let b := msgNum m
  let i := bitsOf b 0 11
  serve 0x0A (fun n => n == 2) true false m s (fun s =>
    withCtx m s (fun c => checked [(decide (2 ≤ i ∧ i ≤ 1024), 0), zeroAt b 11 5] (
      if !(s.qp? i).any (fun q => q.ctx == c.id) then .refuse 3 0
      else if c.windows.any (fun w => w.host && w.pages != 0 && w.qp == i) then .refuse 4 0
      else .done ((s.errorQp i).updOs (fun o => { o with qps := o.qps.filter (fun q => q.idx != i) })) [])))

/-- DESTROY_QUEUE_PAIR arrives on queue pair 1. -/
def execDestroyQueuePair (m : Message) (s : State) : Host.Outcome State Fault Refusal :=
  onMessage 0x0A serveDestroyQueuePair m s

/-- GRANT_PEER_ACCESS. -/
def serveGrantPeerAccess (m : Message) (s : State) : State :=
  let b := msgNum m
  serve 0x0B (fun n => n == 1) true false m s (fun s =>
    withCtx m s (fun c => checked [zeroAt b 1 7] (
      .done (s.updCtx c.id (fun c => { c with peer := bitsOf b 0 1 == 1 })) [])))

/-- GRANT_PEER_ACCESS arrives on queue pair 1. -/
def execGrantPeerAccess (m : Message) (s : State) : Host.Outcome State Fault Refusal :=
  onMessage 0x0B serveGrantPeerAccess m s

/-! ### Images (03 R76) -/

/-- Pages of a range, as far as its end. -/
def rangePages (va len : Nat) : List Nat :=
  (List.range ((va + len - 1) / 65536 + 1 - va / 65536)).map (fun i => max va ((va / 65536 + i) * 65536))

/-- The destination of an image is mapped, resident, not writable, and of class W or executable memory; an executable page of class peer or host is refused too, of which 03 R76 says nothing (the model's choice, log entry 49). -/
def imageDest (s : State) (ctx dst len : Nat) : Bool :=
  decide (dst + len ≤ 2 ^ 52) && (rangePages dst len).all (fun va =>
    match leafFor s ctx 8 va with
    | .leaf l => !l.nonres && decide (l.cls ≤ 2) && !l.write && (l.exec || l.cls == 2)
    | _ => false)

/-- A source in context memory is mapped and of class HBM or second tier; that it must be readable is the model's choice, since 03 R76 names no permission (log entry 49). -/
def imageSource (s : State) (ctx src len : Nat) : Bool :=
  decide (src + len ≤ 2 ^ 52) && (rangePages src len).all (fun va =>
    match leafFor s ctx 8 va with
    | .leaf l => !l.nonres && decide (l.cls ≤ 1) && l.read
    | _ => false)

/-- Bytes of a virtual range at home. -/
def virtualBytes (s : State) (ctx va len : Nat) : List Byte :=
  (List.range len).map (fun i => match leafFor s ctx 8 (va + i) with
    | .leaf l => sparseGet 0 s.mem.cells (l.place (va + i))
    | _ => 0)

/-- The index an image gets: that of the image it replaces, or the lowest free one of 16. -/
def Context.imageIndex (c : Context) (dst len : Nat) : Option Nat :=
  match c.images.find? (fun i => i.dst == dst && i.len == len) with
  | some i => some i.idx
  | none => freeId 16 (fun k => c.images.any (fun i => i.idx == k))

/-- Bytes of flash for stored images (01 R18). -/
def flashBytes : Nat := 256 * 2 ^ 20

/-- Flash has room for an image in a slot. -/
def Oseus.flashRoom (o : Oseus) (slot len : Nat) : Bool :=
  decide (((o.flash.filter (fun p => p.1 != slot)).map (fun p => p.2.length)).foldl (· + ·) 0 + len ≤ flashBytes)

/-- LOAD_IMAGE: the checks; then dispatch of the context's slices is held. A flash slot with no image is answered status 3, an image shorter than the length asked for status 1 (log entry 49). -/
def serveLoadImage (m : Message) (s : State) : State :=
  let b := msgNum m
  let dst := bitsOf b 0 52
  let src := bitsOf b 64 52
  let kind := bitsOf b 128 2
  let store := bitsOf b 130 1
  let len := bitsOf b 132 28
  let slot := bitsOf b 160 8
  serve 0x06 (fun n => n == 24) true false m s (fun s =>
    withCtx m s (fun c => checked [zeroAt b 52 12, (kind != 1 || decide (src ≤ 63), 8), zeroAt b 116 12, (decide (kind ≤ 1), 16), zeroAt b 131 1,
        (decide (1 ≤ len ∧ len ≤ 2 ^ 26), 16), (if store = 1 then decide (slot ≤ 63) else slot == 0, 20), zeroAt b 168 24] (
        if !imageDest s c.id dst len then .refuse 1 0
        else if kind = 0 ∧ !imageSource s c.id src len then .refuse 1 8
        else if kind = 1 ∧ !s.os.flash.any (fun p => p.1 == src) then .refuse 3 8
        else if kind = 1 ∧ s.os.flash.any (fun p => p.1 == src && decide (p.2.length < len)) then .refuse 1 16
        else if (c.imageIndex dst len).isNone ∨ (store = 1 ∧ !s.os.flashRoom slot len) then .refuse 2 0
        else
          let s := s.updCtx c.id (fun c => { c with held := true })
          .later (s.updOs (fun o => { o with image := some {
            req := (msgReq m), ctx := c.id, dst := dst, src := src, flash := kind == 1, len := len
            store := if store = 1 then some slot else none
            copied := none } })))))

/-- LOAD_IMAGE arrives on queue pair 1. -/
def execLoadImage (m : Message) (s : State) : Host.Outcome State Fault Refusal :=
  onMessage 0x06 serveLoadImage m s

/-- The bytes of a loaded image, written page by page at their homes; copies of the range in L1s and instruction caches go (03 R76, 08 R170). -/
def State.copyImage (s : State) (ctx dst : Nat) (bs : List Byte) : State :=
  ((rangePages dst bs.length).foldl (fun (a : State × List Byte) va =>
    let n := 65536 - va % 65536
    match leafFor a.1 ctx 8 va with
    | .leaf l =>
      let pa := l.place va
      let part := a.2.take n
      let s := a.1.writeHome ⟨pa, va, l.cls, l.policy, l.part, l.pin0⟩ (part.map some) .oseus ctx .outside
      ({ s with coh := { s.coh with l1 := s.coh.l1.filter (fun x => decide (128 * x.line + 128 ≤ pa ∨ pa + part.length ≤ 128 * x.line)) } }, a.2.drop n)
    | _ => (a.1, a.2.drop n)) (s, bs)).1

/-- The image is copied and digested, and kept in flash when the message says so. -/
def State.takeImageIn (s : State) (q : ImageLoad) (c : Context) : State :=
  let bs := if q.flash then ((s.os.flash.find? (fun p => p.1 == q.src)).elim [] (fun p => p.2.take q.len))
    else virtualBytes s q.ctx q.src q.len
  let idx := (c.imageIndex q.dst q.len).getD 0
  let digest := padTo 64 (Config.shake256 bs)
  let s := (s.copyImage q.ctx q.dst bs).updCtx q.ctx (fun c => { c with
    images := ⟨idx, q.dst, q.len, digest⟩ :: c.images.filter (fun i => i.idx != idx) })
  s.updOs (fun o => { o with
    image := some { q with copied := some (idx, digest) }
    flash := match q.store with
      | some k => (k, bs) :: o.flash.filter (fun p => p.1 != k)
      | none => o.flash })

/-- The image is in place everywhere once the collapses of its copy are complete: dispatch goes on, and the reply gives the index and the digest (03 R59, R76). -/
def State.answerImage (s : State) (q : ImageLoad) : State :=
  match q.copied with
  | some (idx, digest) =>
    if s.collapsesOf .oseus then s
    else ((s.updCtx q.ctx (fun c => { c with held := false })).updOs (fun o => { o with image := none })).reply 0x06 q.req q.ctx 0 0
      (bytesOfNat 1 idx ++ digest)
  | none => s

/-- LOAD_IMAGE_QUIESCED: no team of the context is on a core. -/
def execLoadImageQuiesced (s : State) : Host.Outcome State Fault Refusal :=
  device (match s.os.image with
    | none => s
    | some q =>
      match s.ctx? q.ctx with
      | none => s
      | some c =>
        if q.copied.isSome then s.answerImage q
        else if s.teams.any (fun t => t.ctx == q.ctx && t.core.isSome) then s
        else
          let t := s.takeImageIn q c
          (match t.os.image with | some q => t.answerImage q | none => t))

/-! ### Grid, ports, link parameters -/

/-- Field of an axis of a coordinate. -/
def axisOf (c i : Nat) : Nat := bitsOf c (16 * i) 16

/-- A coordinate lies in a port's ranges. -/
def inReach (r : Nat × Nat) (dst : Nat) : Bool :=
  (List.range 3).all (fun i => decide (axisOf r.1 i ≤ axisOf dst i ∧ axisOf dst i ≤ axisOf r.2 i))

/-- Lowest and highest coordinate of a port-map entry (03 Table 3.12). -/
def portRange (e : Nat) : Nat × Nat :=
  (bitsOf e 0 16 + bitsOf e 32 16 * 2 ^ 16 + bitsOf e 64 16 * 2 ^ 32,
   bitsOf e 16 16 + bitsOf e 48 16 * 2 ^ 16 + bitsOf e 80 16 * 2 ^ 32)

/-- A port-map entry keeps the rules of 03 R64. -/
def portEntryOk (e axes own : Nat) : Bool :=
  let r := portRange e
  (List.range 3).all (fun i => decide (axisOf r.1 i ≤ axisOf r.2 i) && (decide (i < axes) || axisOf r.2 i == 0)) &&
  !(bitsOf e 96 1 == 1 && inReach r own)

/-- SET_LINK_PARAMETERS (03 R65, Table 3.14). -/
def serveSetLinkParameters (m : Message) (s : State) : State :=
  let b := msgNum m
  serve 0x0E (fun n => n == 40) false false m s (fun s =>
    checked [zeroAt b 51 1, (bitsOf b 48 3 != bitsOf b 52 3, 6), zeroAt b 55 1, zeroAt b 62 2, (bitsOf b 208 16 != 0, 26), zeroAt b 288 32]
      (.done (s.updOs (fun o => { o with host := { o.host with
        nextMac := if bitsOf b 0 48 = 0 then o.host.nextMac else bitsOf b 0 48
        nextGid := if bitsOf b 64 128 = 0 then o.host.nextGid else bitsOf b 64 128
        prioA := bitsOf b 48 3, prioB := bitsOf b 52 3, dscp := bitsOf b 56 6, cut := bitsOf b 192 16
        periodUs := bitsOf b 208 16, stepMbps := bitsOf b 224 32, minMbps := bitsOf b 256 32 } })) []))

/-- SET_LINK_PARAMETERS arrives on queue pair 1. -/
def execSetLinkParameters (m : Message) (s : State) : Host.Outcome State Fault Refusal :=
  onMessage 0x0E serveSetLinkParameters m s

/-! ### Counters and records (03 R84, R85) -/

/-- The items of a request body: entry and instance; none when the count or a reserved field is wrong. -/
def countItems (b : Nat) : List (Nat × Nat) :=
  (List.range (bitsOf b 0 8)).map (fun i => (bitsOf b (32 + 32 * i) 8, bitsOf b (48 + 32 * i) 16))

/-- The checks of a request for counters. -/
def countChecks (b : Nat) : List (Bool × Nat) :=
  [(decide (1 ≤ bitsOf b 0 8 ∧ bitsOf b 0 8 ≤ 254), 0), zeroAt b 8 24] ++
    (List.range (bitsOf b 0 8)).map (fun i => zeroAt b (40 + 32 * i) 8)

/-- A reply item (03 Table 3.7). -/
def countItem (p : Nat × Nat) (v : Option Nat) : List Byte :=
  bytesOfNat 16 (p.1 + bit v.isSome * 2 ^ 8 + p.2 * 2 ^ 16 + v.getD 0 * 2 ^ 64)

/-- The reply body: the snapshot's sys.time, then the items. -/
def countReply (s : State) (b : Nat) (value : Nat × Nat → Option Nat) : List Byte :=
  bytesOfNat 8 s.now ++ (countItems b).flatMap (fun p => countItem p (value p))

/-- A die identifier that names a die (00 Table 0.3), and what arrays it has. -/
def dieExists (d : Nat) : Bool := decide (d < 10 ∨ (16 ≤ d ∧ d < 24))

/-- A lifetime entry and instance exist (03 R84). -/
def recordExists (p : Nat × Nat) : Bool :=
  let d := p.2 / 8
  let sub := p.2 % 8
  match p.1 with
  | 0 => dieExists d && decide (sub ≤ 4)
  | 1 => decide (d < 8) && sub == 0
  | 2 => decide (d < 8) && sub == 0
  | 3 => dieExists d && sub == 0
  | 4 => dieExists d && decide (sub ≤ 1)
  | 5 => decide (p.2 ≤ 16)
  | 6 => decide (p.2 < 16)
  | 7 => decide (p.2 ≤ 2)
  | 8 => decide (p.2 < 16)
  | 9 => decide (p.2 < 16)
  | 10 => p.2 == 0
  | 11 => decide (p.2 ≤ 2)
  | _ => false

/-- READ_RECORDS: one consistent snapshot of lifetime counters. -/
def serveReadRecords (m : Message) (s : State) : State :=
  let b := msgNum m
  serve 0x10 (fun n => n == 4 + 4 * bitsOf b 0 8) false true m s (fun s =>
    checked (countChecks b) (.done s (countReply s b (fun p =>
      if recordExists p then some (sparseGet 0 s.life (p.1 * 65536 + p.2)) else none))))

/-- READ_RECORDS arrives on queue pair 1. -/
def execReadRecords (m : Message) (s : State) : Host.Outcome State Fault Refusal :=
  onMessage 0x10 serveReadRecords m s

/-- The per-context counters (05 Table 5.7, 06 Table 6.6, 08 Table 8.7, 11 Table 11.7, 12 Table 12.3, 14 Table 14.6). -/
def counterExists (e : Nat) : Bool :=
  decide ((0x20 ≤ e ∧ e ≤ 0x26) ∨ (0x30 ≤ e ∧ e ≤ 0x35) ∨ (0x40 ≤ e ∧ e ≤ 0x45) ∨ (0x50 ≤ e ∧ e ≤ 0x52) ∨
    (0x60 ≤ e ∧ e ≤ 0x62) ∨ (0x70 ≤ e ∧ e ≤ 0x74))

/-- READ_COUNTERS: the instance of an item is its context. -/
def serveReadCounters (m : Message) (s : State) : State :=
  let b := msgNum m
  serve 0x0F (fun n => n == 4 + 4 * bitsOf b 0 8) false false m s (fun s =>
    checked (countChecks b) (.done s (countReply s b (fun p =>
      if counterExists p.1 then (s.ctx? p.2).map (fun c => sparseGet 0 c.counters p.1) else none))))

/-- READ_COUNTERS arrives on queue pair 1. -/
def execReadCounters (m : Message) (s : State) : Host.Outcome State Fault Refusal :=
  onMessage 0x0F serveReadCounters m s

/-! ### Attestation, firmware, reset -/

/-- The items of an attest body: context and image index (03 Table 3.15). -/
def attestItems (b n : Nat) : List (Nat × Nat) :=
  (List.range n).map (fun j => (bitsOf b (272 + 16 * j) 6, bitsOf b (280 + 16 * j) 4))

/-- The digest of an image of a context. -/
def State.imageDigest (s : State) (p : Nat × Nat) : Option (List Byte) :=
  ((s.ctx? p.1).bind (fun c => c.images.find? (fun i => i.idx == p.2))).map (fun i => i.digest)

/-- The report before its signature (03 Table 3.16). -/
def reportBytes (o : Oseus) (nonce : List Byte) (digests : List (List Byte)) : List Byte :=
  padTo 32 nonce ++ bytesOfNat 4 Config.romVersion ++ bytesOfNat 1 (o.booted.getD 0) ++ bytesOfNat 3 0 ++
    bytesOfNat 4 o.security ++ bytesOfNat 4 0 ++ padTo 64 o.digest ++ bytesOfNat 16 Config.serial ++
    bytesOfNat 1 digests.length ++ bytesOfNat 7 0 ++ digests.flatMap (padTo 64) ++ bytesOfNat 2 1280 ++ bytesOfNat 6 0

/-- ATTEST: a report over the nonce, the measurements and the digests asked for, signed over its digest (03 R66, 01 R30). -/
def serveAttest (m : Message) (s : State) : State :=
  let b := msgNum m
  let n := bitsOf b 256 8
  serve 0x11 (fun k => k == 34 + 2 * n) false false m s (fun s =>
    checked ([(decide (n ≤ 16), 32), zeroAt b 264 8] ++
        (List.range n).flatMap (fun j => [zeroAt b (278 + 16 * j) 2, zeroAt b (284 + 16 * j) 4]))
      (match (attestItems b n).mapM s.imageDigest with
       | none => .refuse 3 0
       | some ds =>
         let r := reportBytes s.os (m.body.take 32) ds
         .done s (r ++ padTo 1280 (Config.sign (Config.shake256 r)))))

/-- ATTEST arrives on queue pair 1. -/
def execAttest (m : Message) (s : State) : Host.Outcome State Fault Refusal :=
  onMessage 0x11 serveAttest m s

/-- The bank after its last part: verified as in boot step 2, against the minimum as it stands now, though the boot that it applies to is the next one (03 R67; the model's choice, log entry 81). -/
def State.verifyBank (s : State) (l : BankLoad) : State × Bool :=
  let ok := Config.imageSigned l.data && decide (s.os.fusedMin ≤ Config.securityOf l.data)
  (s.updOs (fun o => { o with
    loading := none
    banks := o.banks.set l.bank ⟨l.data, ok⟩
    preferred := if ok then l.bank else o.preferred }), ok)

/-- FIRMWARE_LOAD of one part (03 R67, Table 3.17). -/
def serveFirmwareLoad (m : Message) (s : State) : State :=
  let b := natOfBytes (m.body.take 16)
  let offset := bitsOf b 0 32
  let total := bitsOf b 32 32
  let bank := bitsOf b 64 1
  let last := bitsOf b 65 1 == 1
  let data := m.body.drop 16
  serve 0x12 (fun n => decide (17 ≤ n ∧ n ≤ 4080)) false true m s (fun s =>
    checked [(decide (1 ≤ total ∧ total ≤ 100663296), 4), zeroAt b 66 62]
      (let before := if offset = 0 then some [] else
          match s.os.loading with
          | some l => if l.bank = bank ∧ l.total = total ∧ l.data.length = offset then some l.data else none
          | none => none
       match before with
       | none => .refuse 1 0
       | some bs =>
         if !s.os.recovery && s.os.booted == some bank then .refuse 4 8
         else if total < offset + data.length ∨ (last && offset + data.length != total) then .refuse 1 8
         else
           let l : BankLoad := ⟨bank, total, bs ++ data⟩
           let s := s.updOs (fun o => { o with
             loading := some l
             banks := if offset = 0 then o.banks.set bank ⟨[], false⟩ else o.banks })
           if last then
             (match s.verifyBank l with
              | (s, true) => .done s []
              | (s, false) => .later (s.reply 0x12 (msgReq m) (msgCtx m) 7 0 []))
           else .done s []))

/-- FIRMWARE_LOAD arrives on queue pair 1. -/
def execFirmwareLoad (m : Message) (s : State) : Host.Outcome State Fault Refusal :=
  onMessage 0x12 serveFirmwareLoad m s

/-- RAISE_SECURITY_MINIMUM: the fuses are written; it applies from the next boot. -/
def serveRaiseSecurityMinimum (m : Message) (s : State) : State :=
  let v := bitsOf (msgNum m) 0 32
  serve 0x13 (fun n => n == 4) false false m s (fun s =>
    if v < s.os.fusedMin then .refuse 1 0
    else if s.os.security < v then .refuse 4 0
    else .done (s.updOs (fun o => { o with fusedMin := v })) [])

/-- RAISE_SECURITY_MINIMUM arrives on queue pair 1. -/
def execRaiseSecurityMinimum (m : Message) (s : State) : Host.Outcome State Fault Refusal :=
  onMessage 0x13 serveRaiseSecurityMinimum m s

/-- RESET: answered, and the module reset follows 1 ms later (03 R85). -/
def serveResetMsg (m : Message) (s : State) : State :=
  serve 0x14 (fun n => n == 0) false true m s (fun s =>
    .done (s.updOs (fun o => { o with resetAt := some (s.aclk + 3600000) })) [])

/-- A reset message is also taken in the hold after a stop at 110 °C, in which no other message is (01 R27); the hold ends with the module reset that it brings (01 R28). -/
def execResetMsg (m : Message) (s : State) : Host.Outcome State Fault Refusal :=
  if s.os.held then
    device (
      let free := s.updOs (fun o => { o with held := false })
      if msgType m = 0x14 ∧ free.mgmtUp then (serveResetMsg m free).updOs (fun o => { o with held := true }) else s)
  else onMessage 0x14 serveResetMsg m s

/-- The types of Table 3.2 that the host may send. -/
def assignedType (t : Nat) : Bool := decide (1 ≤ t ∧ t ≤ 0x14)

/-- A message of an unassigned type: status 8, or in recovery mode status 6 (03 R59). -/
def serveUnassigned (m : Message) (s : State) : State :=
  serve (msgType m) (fun _ => true) true true m s (fun s => .refuse (if s.os.recovery then 6 else 8) 0)

/-- UNASSIGNED_MESSAGE_TYPE. -/
def execUnassignedMessageType (m : Message) (s : State) : Host.Outcome State Fault Refusal :=
  device (if assignedType (msgType m) then s else takeMessage serveUnassigned m s)

end Sys2Proof.Machine
end

