-- ==== Sys2Proof/Machine/Links.lean ====
section
/-! DEFINITION. Pyryta ports (02 R39 to R48, R55): flits and their CRCs, sequence numbers, replay, credits, retraining, the choice of a port, and the messages that set the grid and bring a port up (03 R64). -/

namespace Sys2Proof.Machine

/-! ### Fields of a flit that arrives (02 Table 2.3) -/

def flitKind (f : WireFlit) : Nat := bitsOf f.hdr.toNat 0 4
def flitTc (f : WireFlit) : Nat := bitsOf f.hdr.toNat 4 2
def flitFirst (f : WireFlit) : Bool := bitsOf f.hdr.toNat 6 1 == 1
def flitLast (f : WireFlit) : Bool := bitsOf f.hdr.toNat 7 1 == 1
def flitSeq (f : WireFlit) : Nat := bitsOf f.hdr.toNat 8 12
def flitAck (f : WireFlit) : Nat := bitsOf f.hdr.toNat 20 12
def flitDst (f : WireFlit) : Nat := bitsOf f.hdr.toNat 32 48
def flitSrc (f : WireFlit) : Nat := bitsOf f.hdr.toNat 80 48

/-! ### Flits as 256 bytes (02 Tables 2.2 and 2.3) -/

/-- One bit of a CRC-64 with the ECMA-182 polynomial, most significant bit first (log entry 94). -/
def crcShift (c : Nat) : Nat := if c.testBit 63 then (2 * c) % 2 ^ 64 ^^^ 0x42F0E1EBA9EA3693 else 2 * c

/-- The CRC-64 of some bytes: from all ones, ended by an exclusive or with all ones (02 R40). -/
def crc64 (bs : List Byte) : Nat :=
  bs.foldl (fun c b => (List.range 8).foldl (fun c _ => crcShift c) (c ^^^ b.toNat * 2 ^ 56)) (2 ^ 64 - 1) ^^^ (2 ^ 64 - 1)

/-- The 8-byte chunks of a flit's first 240 bytes that have an even number (`odd` = 0), or an odd one. -/
def chunksOf (bs : List Byte) (odd : Nat) : List Byte := (List.range 15).flatMap (fun i => (bs.drop (16 * i + 8 * odd)).take 8)

/-- crc_even and crc_odd. -/
def trailer (bs : List Byte) : List Byte := bytesOfNat 8 (crc64 (chunksOf bs 0)) ++ bytesOfNat 8 (crc64 (chunksOf bs 1))

/-- A flit on the wire. -/
def Flit.bytes (g : Flit) : List Byte :=
  let bs := bytesOfNat 16 (g.kind + g.tc * 2 ^ 4 + bit g.first * 2 ^ 6 + bit g.last * 2 ^ 7 + g.seq * 2 ^ 8 + g.ack * 2 ^ 20 +
    g.dst * 2 ^ 32 + g.src * 2 ^ 80) ++ padTo 224 g.payload
  bs ++ trailer bs

/-- What arrived is a good flit: no uncorrectable codeword, and both CRCs match (02 R40). -/
def goodFlit (bytes : List Byte) (fec : Bool) : Option WireFlit :=
  if fec ∧ bytes.length = 256 ∧ bytes.drop 240 = trailer (bytes.take 240) then
    some ⟨BitVec.ofNat 128 (natOfBytes (bytes.take 16)), (bytes.drop 16).take 224⟩
  else none

/-- The payload as one number, its first byte lowest. -/
def flitNum (f : WireFlit) : Nat := natOfBytes f.payload

/-- The device's own grid coordinate, and how many axes it has; 0 until set-grid (02 R47). -/
def State.here (s : State) : Nat := bitsOf s.grid.toNat 0 48
def State.gridAxes (s : State) : Nat := bitsOf s.grid.toNat 48 2

/-! ### Ports -/

def State.port? (s : State) (i : Nat) : Option Port := s.ports.find? (fun p => p.idx == i)

def State.updPort (s : State) (i : Nat) (f : Port → Port) : State :=
  { s with ports := s.ports.map (fun p => if p.idx == i then f p else p) }

/-- The port's lanes carry flits. -/
def Port.live (p : Port) : Bool := p.state == .up || p.state == .replay

/-- One more, or so many more, at a position of a list of four counts. -/
def addAt (xs : List Nat) (i n : Nat) : List Nat := xs.set i (xs.getD i 0 + n)

/-- A discarded flit is counted (02 Table 2.7). -/
def State.discardFlit (s : State) : State := { s with linkDiscard := min (s.linkDiscard + 1) (2 ^ 48 - 1) }

/-- The payload of a link-control flit (02 Table 2.10). -/
def controlPayload (p : Port) (nak : Bool) : List Byte :=
  bytesOfNat 224 ((if nak then p.expected + 2 ^ 12 else 0) +
    ((List.range 4).map (fun c => p.freed.getD c 0 % 256 * 2 ^ (16 + 8 * c))).foldl (· + ·) 0)

/-- A link-control flit goes out; it returns ack_seq. -/
def Port.sendControl (p : Port) (nak : Bool) (aclk : Nat) : Port :=
  { p with
    out := { kind := 1, tc := 0, first := false, last := false, seq := 0, ack := p.expected, dst := 0, src := 0, payload := controlPayload p nak, ctx := 0, txn := none : Flit }.bytes
    unacked := 0
    ackAt := aclk }

/-- NAK(expected) is sent once, until the expected flit comes (02 Table 2.5). -/
def Port.nak (p : Port) (aclk : Nat) : Port :=
  if p.nakOut then p else { p.sendControl true aclk with nakOut := true }

/-- A replay begins `n` flits before the end of the buffer: the replay counter rises, and at 8 the port retrains (02 Table 2.5). -/
def Port.startReplay (p : Port) (n : Nat) : Port :=
  if p.replays + 1 < 8 then { p with state := if n = 0 then .up else .replay, resend := n, replays := p.replays + 1 }
  else { p with state := .retrain, resend := 0, replays := 0 }

/-- ack_seq of an arriving flit frees the flits before it; the replay counter returns to 0. -/
def Port.acked (p : Port) (ack aclk : Nat) : Port :=
  match p.buffer with
  | [] => p
  | g :: _ =>
    let n := (ack + 4096 - g.seq) % 4096
    if n = 0 ∨ p.buffer.length < n then p
    else
      let b := p.buffer.drop n
      let left := min p.resend b.length
      { p with
        buffer := b
        resend := left
        replays := 0
        progress := aclk
        state := if p.state = .replay ∧ left = 0 then .up else p.state }

/-- NAK(n): the flits from n on are sent again; the sender's time-out goes on counting from the last progress (02 R44). -/
def Port.nakked (p : Port) (n : Nat) : Port :=
  match p.buffer with
  | [] => p.startReplay 0
  | g :: _ =>
    let k := (n + 4096 - g.seq) % 4096
    if p.buffer.length < k then p else p.startReplay (p.buffer.length - k)

/-- What a received sequence number is: the expected one, one after it, one before it. -/
inductive SeqCase where
  | expected
  | ahead
  | behind
  deriving DecidableEq, Repr

def seqCase (p : Port) (f : WireFlit) : SeqCase :=
  let d := (flitSeq f + 4096 - p.expected) % 4096
  if d = 0 then .expected else if d < 2048 then .ahead else .behind

/-- The receiver's side of a good sequenced flit (02 Table 2.5): its buffer is freed, and it counts toward the next ack_seq. -/
def Port.received (p : Port) (f : WireFlit) (aclk : Nat) : Port :=
  let p := { p with freed := addAt p.freed (flitTc f) 1, unacked := p.unacked + 1 }
  match seqCase p f with
  | .expected => { p with expected := (p.expected + 1) % 4096, nakOut := false }
  | .ahead => p.nak aclk
  | .behind => p

/-! ### Taking sequenced flits -/

/-- Two flits belong to one transaction: same kind, class and source. -/
def sameTxn (a b : WireFlit) : Bool := flitKind a == flitKind b && flitTc a == flitTc b && flitSrc a == flitSrc b

/-- A good sequenced flit of a kind (or of a reserved one) is taken from a port: link rules, then R43, then its place in its transaction. With the last flit the whole transaction acts, `act` getting its first flit and the bytes of all its payloads. -/
def takeFlit (kind port : Nat) (f : WireFlit) (firstOk : Nat → Bool) (act : WireFlit → List Byte → State → State) (s : State) : State :=
  match s.port? port with
  | none => s
  | some p =>
    if !p.live ∨ (flitKind f ≠ kind ∧ flitKind f < 12) then s
    else
      let took := fun (s : State) (parts : List WireFlit) => s.updPort port (fun q =>
        { (q.acked (flitAck f) s.aclk).received f s.aclk with parts := parts })
      if seqCase p f ≠ .expected then took s p.parts
      else if 12 ≤ flitKind f ∨ s.gridAxes = 0 ∨ flitDst f ≠ s.here ∨ (flitFirst f && !firstOk (flitNum f)) then (took s p.parts).discardFlit
      else
        let mine := p.parts.filter (sameTxn f)
        let others := p.parts.filter (fun g => !sameTxn f g)
        let now := if flitFirst f then [f] else mine ++ [f]
        if !flitLast f then took s (if flitFirst f ∨ !mine.isEmpty then others ++ now else p.parts)
        else
          match now with
          | [] => s
          | g :: _ =>
            if flitFirst g then act g (now.flatMap (fun x => x.payload)) (took s others) else took s others

/-- BAD_FLIT_RECEIVED: discarded, with one NAK; the class of the buffer it freed is not known (02 R44, R55). -/
def execBadFlitReceived (port : Nat) (s : State) : Host.Outcome State Fault Refusal :=
  device (s.updPort port (fun p =>
    if p.live then
      { p with
        freed := if Config.free s.tick 0 % 5 < 4 then addAt p.freed (Config.free s.tick 0 % 5) 1 else p.freed
        unacked := p.unacked + 1 }.nak s.aclk
    else p))

/-- IDLE_FLIT_RECEIVED: its ack_seq is taken. -/
def execIdleFlitReceived (port : Nat) (f : WireFlit) (s : State) : Host.Outcome State Fault Refusal :=
  device (s.updPort port (fun p => if p.live ∧ flitKind f = 0 then p.acked (flitAck f) s.aclk else p))

/-- Credits returned by a class: the difference of the totals, modulo 256. -/
def creditDiff (p : Port) (b c : Nat) : Nat := (bitsOf b (16 + 8 * c) 8 + 256 - p.credited.getD c 0) % 256

/-- LINK_CONTROL_FLIT: credits and ack_seq, and a NAK that starts a replay; one with a reserved bit or more than 32 credits of a class is discarded (02 R55). -/
def execLinkControlFlit (port : Nat) (f : WireFlit) (s : State) : Host.Outcome State Fault Refusal :=
  device (match s.port? port with
    | none => s
    | some p =>
      let b := flitNum f
      if !p.live ∨ flitKind f ≠ 1 then s
      else if bitsOf b 13 3 ≠ 0 ∨ b / 2 ^ 48 ≠ 0 ∨ (List.range 4).any (fun c => decide (32 < creditDiff p b c)) then s.discardFlit
      else s.updPort port (fun p =>
        let q := { p with
          credits := (List.range 4).map (fun c => p.credits.getD c 0 + creditDiff p b c)
          credited := (List.range 4).map (fun c => bitsOf b (16 + 8 * c) 8) }.acked (flitAck f) s.aclk
        if bitsOf b 12 1 = 1 then q.nakked (bitsOf b 0 12) else q))

/-- ACK_RETURN_TIMER: after 64 received flits or 360 aclk a link-control flit returns ack_seq. -/
def execAckReturnTimer (port : Nat) (s : State) : Host.Outcome State Fault Refusal :=
  device (s.updPort port (fun p =>
    if p.live ∧ (64 ≤ p.unacked ∨ p.ackAt + 360 ≤ s.aclk) then p.sendControl false s.aclk else p))

/-- REPLAY_TIMEOUT: 7,200 aclk without progress while flits are unacknowledged. -/
def execReplayTimeout (port : Nat) (s : State) : Host.Outcome State Fault Refusal :=
  device (s.updPort port (fun p =>
    if p.live ∧ p.buffer ≠ [] ∧ p.progress + 7200 ≤ s.aclk then { p.startReplay p.buffer.length with progress := s.aclk } else p))

/-! ### Choosing a port, and forming flits (02 R42, R48) -/

/-- The ports that can reach a destination. -/
def State.eligible (s : State) (dst : Nat) : List Port :=
  s.ports.filter (fun p => p.state != .down && p.reach.any (fun r => inReach r dst))

/-- The port of a destination, class and context. -/
def State.portFor (s : State) (dst tc ctx : Nat) : Option Nat :=
  let ps := s.eligible dst
  if s.gridAxes = 0 then none else (ps[Config.portHash dst tc ctx % ps.length]?).map (fun p => p.idx)

/-- Bytes cut into payloads of 224 bytes. -/
def payloads (bs : List Byte) : List (List Byte) :=
  (List.range (max 1 ((bs.length + 223) / 224))).map (fun i => padTo 224 ((bs.drop (224 * i)).take 224))

/-- The flits of a transaction: descriptor and data. -/
def flitsOf (kind tc dst src ctx : Nat) (bs : List Byte) (txn : Option Nat) : List Flit :=
  let ps := payloads bs
  (ps.zip (List.range ps.length)).map (fun (p : List Byte × Nat) =>
    { kind := kind, tc := tc, first := p.2 == 0, last := p.2 + 1 == ps.length, seq := 0, ack := 0, dst := dst, src := src, payload := p.1, ctx := ctx, txn := txn })

/-- A transaction waits at a port to be sent; none when no port reaches its destination. -/
def State.enqueue (s : State) (kind tc dst ctx : Nat) (bs : List Byte) (txn : Option Nat) : Option (Nat × State) :=
  (s.portFor dst tc ctx).map (fun i =>
    (i, s.updPort i (fun p => { p with queue := p.queue ++ flitsOf kind tc dst s.here ctx bs txn })))

/-- A transaction that nobody waits for at this device: an answer, a contribution, a control word. -/
def State.enqueueD (s : State) (kind tc dst ctx : Nat) (bs : List Byte) : State :=
  match s.enqueue kind tc dst ctx bs none with
  | some (_, s) => s
  | none => s

/-- The descriptor of Table 2.4. -/
def descriptor (tag ctx op len status va : Nat) : List Byte :=
  bytesOfNat 16 (tag % 2 ^ 16 + ctx * 2 ^ 16 + op * 2 ^ 24 + len * 2 ^ 32 + status * 2 ^ 48 + va % 2 ^ 52 * 2 ^ 64)

/-- The traffic class of a device-issued transaction: that of the slice that issued it, for a conversion's the slice whose demand it serves; background where none did (02 R45). -/
def State.classOf (s : State) (w : RemoteWho) : Nat :=
  let team := fun (k : Nat) => ((s.team? k).map (fun t => t.cls)).getD 3
  match w with
  | .load r _ _ => team r.team
  | .store r _ => team r.team
  | .engine c _ => ((s.cmd? c).map (fun c => team c.who.team)).getD 3
  | .conv ctx tid => ((s.convOf ctx tid).map s.convClass).getD 3
  | .fetch r => team r.team
  | .device => 3

/-- Destination, target context and address of a peer transaction. -/
def RemoteOp.peerTarget (o : RemoteOp) : Nat × Nat × Nat :=
  match o.coord with
  | some c => (c, o.ctx, o.off)
  | none =>
    match o.window with
    | some w => (bitsOf w.remote 0 48, bitsOf w.remote 48 6, o.off)
    | none => (0, 0, o.off)

/-- Kind of flit and bytes of a peer transaction. -/
def peerBytes (o : RemoteOp) (ctx va : Nat) : Nat × List Byte :=
  match o.kind with
  | .read n => (2, descriptor o.id ctx 0 (n - 1) 0 va)
  | .write bs => (4, descriptor o.id ctx 0 (bs.length - 1) 0 va ++ bs.map (fun b => b.getD 0))
  | .atomic f v cmp =>
    (6, descriptor o.id ctx (if f = 10 then 0xFF else f) 7 0 va ++ bytesOf v 8 ++ (if f = 10 then bytesOf cmp 8 else []))

/-- Every peer transaction that has no port yet gets one, in issue order, or completes with "link down" (02 R47, R48). -/
def State.route (s : State) : State :=
  (s.remote.filter (fun o => !o.host && o.tries == 0 && o.answer.isNone && !o.failed)).foldl (fun s o =>
    let (dst, ctx, va) := o.peerTarget
    let tc := s.classOf o.who
    let (kind, bs) := peerBytes o ctx va
    match s.enqueue kind tc dst o.ctx bs (some o.id) with
    | none => s.remoteDone o (.error 255)
    | some (i, s) => { s with remote := s.remote.map (fun (x : RemoteOp) =>
        if x.id == o.id then { x with port := some i, tries := 1, since := s.aclk } else x) }) s

/-! ### Sending (02 R44, R45, R55) -/

/-- A flit leaves: it spends a credit, carries ack_seq. -/
def Port.emit (p : Port) (g : Flit) (aclk : Nat) : Port :=
  { p with
    credits := p.credits.set g.tc (p.credits.getD g.tc 0 - 1)
    out := { g with ack := p.expected : Flit }.bytes
    unacked := 0
    ackAt := aclk }

/-- The class whose flit is sent next: the highest that has one and holds a credit. -/
def Port.nextClass (p : Port) : Option Nat :=
  (List.range 4).find? (fun c => p.queue.any (fun g => g.tc == c) && decide (0 < p.credits.getD c 0))

/-- One sequenced flit leaves a port that the port map gives destinations (03 R64): a replayed one in order, or the first flit of the highest class that may go, while the replay buffer holds fewer than 512. -/
def Port.sendOne (p : Port) (aclk : Nat) : Port :=
  if !p.live ∨ p.reach.isNone then p
  else if p.resend ≠ 0 then
    match p.buffer[p.buffer.length - p.resend]? with
    | none => { p with resend := 0, state := .up }
    | some g =>
      if p.credits.getD g.tc 0 = 0 then p
      else { p.emit g aclk with resend := p.resend - 1, state := if p.resend = 1 then .up else .replay }
  else if 512 ≤ p.buffer.length then p
  else
    match p.nextClass with
    | none => p
    | some c =>
      match p.queue.find? (fun g => g.tc == c) with
      | none => p
      | some g =>
        let h := { g with seq := p.seq, ack := p.expected }
        { p.emit h aclk with
          queue := p.queue.erase g
          buffer := p.buffer ++ [h]
          seq := (p.seq + 1) % 4096
          progress := if p.buffer.isEmpty then aclk else p.progress }

/-! ### Losing a port (02 R44, R48) -/

/-- The flits of a queue by transaction. -/
def byTxn (fs : List Flit) : List (List Flit) :=
  fs.foldl (fun (a : List (List Flit)) g =>
    if g.first then a ++ [[g]] else match a.getLast? with | some x => a.dropLast ++ [x ++ [g]] | none => a) []

/-- A transaction of which no flit has been sent moves to another port; with none it is lost with the port. -/
def State.moveFlits (s : State) (fs : List Flit) : State :=
  match fs with
  | [] => s
  | g :: _ =>
    match s.portFor g.dst g.tc g.ctx with
    | some i => s.updPort i (fun p => { p with queue := p.queue ++ fs })
    | none => s

/-- The device's transactions on a port that is lost complete with "link down"; those of which no flit has been sent move to other ports, with the answers to peers, the contributions and the words of collectives. Sent flits stay in the replay buffer. -/
def State.losePort (s : State) (p : Port) : State :=
  let unsent := fun (o : RemoteOp) => p.queue.any (fun f => f.txn == some o.id && f.first)
  let mine := s.remote.filter (fun o => !o.host && o.port == some p.idx && o.answer.isNone && !o.failed)
  let s := { s with remote := s.remote.map (fun (o : RemoteOp) =>
    if mine.contains o && unsent o then { o with port := none, tries := 0 } else o) }
  let s := s.updPort p.idx (fun q => { q with queue := [] })
  let others := (byTxn p.queue).filter (fun fs => fs.any (fun g => g.first && g.txn.isNone))
  let s := others.foldl State.moveFlits s
  (mine.filter (fun o => !unsent o)).foldl (fun (s : State) o => s.remoteDone o (.error 255)) s

/-- LINK_RETRAIN_DONE: counted; on success everything unacknowledged is sent again with fresh credits, and the third failure in a row takes the port down, with its sequence numbers and its buffer kept (02 R44, R48, R55). -/
def execLinkRetrainDone (port : Nat) (ok : Bool) (s : State) : Host.Outcome State Fault Refusal :=
  device (match s.port? port with
    | none => s
    | some p =>
      if p.state ≠ .retrain then s
      else
        let s := s.lifeCount 5 (1 + port) 1
        if ok then s.updPort port (fun p => { p with
          state := if p.buffer.isEmpty then .up else .replay
          resend := p.buffer.length
          replays := 0
          fails := 0
          credits := [32, 32, 32, 32]
          credited := [0, 0, 0, 0]
          freed := [0, 0, 0, 0]
          progress := s.aclk
          ackAt := s.aclk })
        else if p.fails + 1 < 3 then s.updPort port (fun p => { p with fails := p.fails + 1 })
        else ((s.updPort port (fun p => { p with state := .down, fails := 0, replays := 0 })).losePort p).pushEvent 4 0 0)

/-! ### The messages of ports (03 R64) -/

/-- SET_GRID (03 R64, Tables 3.11 to 3.13); a port that loses its entry loses its transactions. -/
def serveSetGrid (m : Message) (s : State) : State :=
  let b := msgNum m
  let own := bitsOf b 0 48
  let axes := bitsOf b 48 2
  let entry := fun (i : Nat) => bitsOf b (64 + 128 * i) 128
  let nred := bitsOf b 2112 7
  let reds := (List.range nred).map (fun k => (bitsOf b (2176 + 64 * k) 16, bitsOf b (2192 + 64 * k) 48))
  serve 0x0C (fun n => n == 272 + 8 * nred) false false m s (fun s =>
    checked ([(axes != 0 && (List.range 3).all (fun i => decide (i < axes) || axisOf own i == 0), 0), zeroAt b 50 14] ++
        (List.range 16).flatMap (fun i => [(portEntryOk (entry i) axes own, 8 + 16 * i), (bitsOf (entry i) 97 31 == 0, 20 + 16 * i)]) ++
        [(decide (nred ≤ 64), 264), zeroAt b 2119 57] ++
        (List.range nred).map (fun k => (!((reds.take k).any (fun p => p.1 == (reds.getD k (0, 0)).1)), 272 + 8 * k)))
      (let grid := bitsOf b 0 50
       if grid ≠ s.grid.toNat ∧ s.ctxs.any (fun c => c.windows.any (fun w => !w.host && w.pages != 0)) then .refuse 4 0
       else
         let reach := fun (i : Nat) => if bitsOf (entry i) 96 1 = 1 then some (portRange (entry i)) else none
         let lost := s.ports.filter (fun p => (reach p.idx).isNone)
         let s := { s with
           grid := BitVec.ofNat 64 grid
           reducers := reds
           ports := s.ports.map (fun (p : Port) => { p with reach := reach p.idx }) }
         .done (lost.foldl (fun s p => s.losePort p) s) []))

/-- SET_GRID arrives on queue pair 1. -/
def execSetGrid (m : Message) (s : State) : Host.Outcome State Fault Refusal :=
  onMessage 0x0C serveSetGrid m s

/-- PORT_UP: a port that is down retrains. -/
def servePortUp (m : Message) (s : State) : State :=
  let b := msgNum m
  let i := bitsOf b 0 4
  serve 0x0D (fun n => n == 1) false false m s (fun s =>
    checked [zeroAt b 4 4]
      (if s.ports.any (fun p => p.idx == i && p.state == .down) then
        .done { s with ports := s.ports.map (fun (p : Port) => if p.idx == i then { p with state := .retrain, fails := 0 } else p) } []
       else .refuse 4 0))

/-- PORT_UP arrives on queue pair 1. -/
def execPortUp (m : Message) (s : State) : Host.Outcome State Fault Refusal :=
  onMessage 0x0D servePortUp m s

/-! ### What arrives on the wire -/

/-- The step that the bytes of a flit on a port are: a bad flit, or a good one by its kind; of the kinds that come in several, a later flit goes with its first. -/
def flitStep (port : Nat) (bytes : List Byte) (fec : Bool) : Instr :=
  match goodFlit bytes fec with
  | none => .badFlitReceived port
  | some f =>
    match flitKind f with
    | 0 => .idleFlitReceived port f
    | 1 => .linkControlFlit port f
    | 3 => .peerReadResponse port f
    | 4 => .peerWriteRequest port f
    | 5 => .peerWriteAck port f
    | 6 => .peerAtomicRequest port f
    | 7 => .peerAtomicResponse port f
    | 8 => .reductionContribution port f
    | 9 => .topKContribution port f
    | 10 => .contributionAck port f
    | 11 =>
      if !flitFirst f then .collectiveResult port f
      else
        (match bitsOf (flitNum f) 0 4 with
         | 0 => .collectiveOpen port f
         | 1 => .collectiveOpenAck port f
         | 3 => .collectiveClose port f
         | 4 => .collectiveCloseAck port f
         | _ => .collectiveResult port f)
    | _ => .peerReadRequest port f

end Sys2Proof.Machine
end

