-- ==== Sys2Proof/Machine/Peers.lean ====
section
/-! DEFINITION. Peer transactions that arrive (02 R42, R43): requests, performed at their homes and answered, and answers to the device's own transactions. -/

namespace Sys2Proof.Machine

/-! ### The transaction descriptor (02 Table 2.4) -/

def descTag (b : Nat) : Nat := bitsOf b 0 16
def descCtx (b : Nat) : Nat := bitsOf b 16 6
def descOp (b : Nat) : Nat := bitsOf b 24 8
def descLen (b : Nat) : Nat := bitsOf b 32 12 + 1
def descStatus (b : Nat) : Nat := bitsOf b 48 8
def descVa (b : Nat) : Nat := bitsOf b 64 52

/-- Reserved fields are 0. -/
def descOk (b : Nat) : Bool := bitsOf b 22 2 == 0 && bitsOf b 44 4 == 0 && bitsOf b 56 8 == 0 && bitsOf b 116 12 == 0

/-- A request's descriptor: status 0, and an operation in an atomic only. -/
def requestOk (atomic : Bool) (b : Nat) : Bool :=
  descOk b && descStatus b == 0 && (if atomic then descLen b == 8 && (decide (descOp b ≤ 9) || descOp b == 0xFF) else descOp b == 0)

/-- The statuses of an answer. -/
def answerOk (b : Nat) : Bool := descOk b && decide (descStatus b ≤ 5)

/-! ### Requests -/

/-- The places of a peer access, or the status that refuses it: the context has not granted peer access, a page fails its checks. -/
def peerPlaces (s : State) (ctx va n : Nat) (k : AccKind) : Except Nat (List (MemLoc × Nat × Leaf)) :=
  if !(s.ctx? ctx).any (fun c => c.peer) then .error 2
  else
    match incoming s ctx va n k with
    | some ps => .ok ps
    | none =>
      if (pageParts 0 va n).any (fun p => match leafFor s ctx 8 p.1 with | .invalid => true | _ => false) then .error 5 else .error 1

/-- An answer goes back to the source of a request, in its class. -/
def State.answerPeer (s : State) (kind : Nat) (f : WireFlit) (b status : Nat) (data : List Byte) : State :=
  s.enqueueD kind (flitTc f) (flitSrc f) (descCtx b)
    (descriptor (descTag b) (descCtx b) (if kind = 7 then descOp b else 0) (descLen b - 1) status (descVa b) ++ data)

/-- A peer's read, translated in the named context, performed at the home and answered; none while an engine command owns a line of it. -/
def State.peerRead (g : WireFlit) (bs : List Byte) (s : State) : Option State :=
  let b := natOfBytes (bs.take 16)
  match peerPlaces s (descCtx b) (descVa b) (descLen b) .load with
  | .error st => some (s.answerPeer 3 g b st [])
  | .ok ps =>
    if incomingOwned s ps then none
    else
      let (data, bad, s) := incomingRead s ps
      some (if bad then (s.poisonUsed 8).answerPeer 3 g b 3 [] else s.answerPeer 3 g b 0 data)

/-- Byte cells of a string from an address up. -/
def cellsFrom (va : Nat) (bs : List Byte) : List (Nat × BitVec 8) := (List.range bs.length).zip bs |>.map (fun p => (va + p.1, p.2))

/-- A write to a sealed slot that is a conversion's gather from another member: tensor, axis, coordinate (11 R235, R238). -/
def gatherInput (s : State) (ctx va n src : Nat) : Option (Nat × Nat × Nat) :=
  (s.sealedRanges.find? (fun r => r.ctx == ctx && decide (r.lo < va + n ∧ va < r.hi))).bind (fun r =>
    (s.convOf ctx r.tid).bind (fun c =>
      let e := s.entryOf ctx r.tid
      (List.range e.naxes).findSome? (fun a =>
        let x := e.axis a
        if c.axis ≤ a ∧ axKind x = 2 ∧ e.stepKind c.demand a = .gather then
          ((List.range (axSize x)).find? (fun k => k != ownCoord s.grid x && gridOf s.grid x k == src)).map (fun k => (r.tid, a, k))
        else none)))

/-- The parts of a write as its flits carry them: the first 208 bytes beside the descriptor, then 224 in each; addresses and lengths. -/
def flitParts (va n : Nat) : List (Nat × Nat) :=
  if n ≤ 208 then [(va, n)]
  else (va, 208) :: (List.range ((n - 208 + 223) / 224)).map (fun i => (va + 208 + 224 * i, min 224 (n - 208 - 224 * i)))

/-- The parts of a peer's write one after another, each translated by itself (04 R95), as a host write is performed (03 R74); the first one that is refused, by its status, ends it. -/
def State.writeParts (s : State) (ctx : Nat) : List (Nat × Nat) → List Byte → Nat × State
  | [], _ => (0, s)
  | p :: ps, bs =>
    match peerPlaces s ctx p.1 p.2 .store with
    | .error st => (st, s)
    | .ok ls =>
      if s.sealHit ctx p.1 p.2 then (2, s)
      else (incomingWrite s ls (bs.take p.2) .peer ctx).writeParts ctx ps (bs.drop p.2)

/-- A part of an access lies on a line that an engine command owns. -/
def peerOwned (s : State) (ctx : Nat) (ps : List (Nat × Nat)) (k : AccKind) : Bool :=
  ps.any (fun p => match peerPlaces s ctx p.1 p.2 k with | .ok ls => incomingOwned s ls | .error _ => false)

/-- A peer's write is performed and acknowledged: what a conversion gathers is kept for it, and a sealed slot takes nothing else. -/
def State.peerWrite (g : WireFlit) (bs : List Byte) (s : State) : Option State :=
  let b := natOfBytes (bs.take 16)
  let n := descLen b
  let data := (bs.drop 16).take n
  if data.length < n then some s
  else
    match gatherInput s (descCtx b) (descVa b) n (flitSrc g), peerPlaces s (descCtx b) (descVa b) n .store with
    | some (tid, a, k), .ok _ => some ((s.convInput (descCtx b) tid a k (cellsFrom (descVa b) data)).answerPeer 5 g b 0 [])
    | _, _ =>
      if peerOwned s (descCtx b) (flitParts (descVa b) n) .store then none
      else
        let (st, s) := s.writeParts (descCtx b) (flitParts (descVa b) n) data
        some (s.answerPeer 5 g b st [])

/-- A peer's atomic is performed at the word's home, its old value returned (03 R75); it changes no tag. -/
def State.peerAtomic (g : WireFlit) (bs : List Byte) (s : State) : Option State :=
  let b := natOfBytes (bs.take 16)
  let v := natOfBytes ((bs.drop 16).take 8)
  let cmp := natOfBytes ((bs.drop 24).take 8)
  if !(s.ctx? (descCtx b)).any (fun c => c.peer) then some (s.answerPeer 7 g b 2 [])
  else if descVa b % 8 ≠ 0 then some (s.answerPeer 7 g b 4 [])
  else
    match peerPlaces s (descCtx b) (descVa b) 8 .atomic with
    | .ok [(m, n, l)] =>
      if s.sealHit (descCtx b) (descVa b) 8 then some (s.answerPeer 7 g b 2 [])
      else if incomingOwned s [(m, n, l)] then none
      else if s.mem.poison.contains (wordOf m.pa) then some ((s.poisonUsed 8).answerPeer 7 g b 3 [])
      else
        let old := (s.wordAt (wordOf m.pa)).1.toNat
        let op := if descOp b = 0xFF then AtomOp.cas (BitVec.ofNat 64 cmp) else atomOp (descOp b)
        let s := s.modifyHome m ((bytesOfNat 8 (op.apply 64 old v)).map some) .peer (descCtx b) none
        some (s.answerPeer 7 g b 0 (bytesOfNat 8 old))
    | .ok _ => some (s.answerPeer 7 g b 1 [])
    | .error st => some (s.answerPeer 7 g b st [])

/-- A peer's request of a kind of flit is performed; none while it must wait. -/
def State.peerRequest (kind : Nat) (g : WireFlit) (bs : List Byte) (s : State) : Option State :=
  match kind with
  | 4 => s.peerWrite g bs
  | 6 => s.peerAtomic g bs
  | _ => s.peerRead g bs

/-- A waiting request of the same device in the same context, which a later one does not pass. -/
def PeerRequest.before (p : PeerRequest) (g : WireFlit) (bs : List Byte) : Bool :=
  flitSrc p.first == flitSrc g && descCtx (natOfBytes (p.bytes.take 16)) == descCtx (natOfBytes (bs.take 16))

/-- A request arrives: performed at once, or kept behind an engine command's line and behind the requests that wait there (08 R182). -/
def State.arrivePeer (kind : Nat) (g : WireFlit) (bs : List Byte) (s : State) : State :=
  let keep := { s with peerWaits := s.peerWaits ++ [⟨kind, g, bs⟩] }
  if s.peerWaits.any (fun p => p.before g bs) then keep else (s.peerRequest kind g bs).getD keep

/-- The first waiting requests of each device and context, those that no earlier one holds back. -/
def firstWaits : List PeerRequest → List PeerRequest
  | [] => []
  | p :: ps => p :: (firstWaits ps).filter (fun q => !p.before q.first q.bytes)

/-- The oldest peer request that waits and can be performed is. -/
def State.runPeer (s : State) : State :=
  ((firstWaits s.peerWaits).findSome? (fun p =>
    ({ s with peerWaits := s.peerWaits.erase p }).peerRequest p.kind p.first p.bytes)).getD s

/-- PEER_READ_REQUEST. -/
def execPeerReadRequest (port : Nat) (f : WireFlit) (s : State) : Host.Outcome State Fault Refusal :=
  device (takeFlit 2 port f (requestOk false) (State.arrivePeer 2) s)

/-- PEER_WRITE_REQUEST. -/
def execPeerWriteRequest (port : Nat) (f : WireFlit) (s : State) : Host.Outcome State Fault Refusal :=
  device (takeFlit 4 port f (requestOk false) (State.arrivePeer 4) s)

/-- PEER_ATOMIC_REQUEST. -/
def execPeerAtomicRequest (port : Nat) (f : WireFlit) (s : State) : Host.Outcome State Fault Refusal :=
  device (takeFlit 6 port f (requestOk true) (State.arrivePeer 6) s)

/-! ### Answers -/

/-- The device's own transaction that an answer names: by tag, kind and the device asked. -/
def State.peerOp (s : State) (tag src : Nat) (isKind : RemoteKind → Bool) : Option RemoteOp :=
  s.remote.find? (fun o => !o.host && decide (0 < o.tries) && o.answer.isNone && !o.failed && o.id % 65536 == tag && isKind o.kind && (o.peerTarget).1 == src)

/-- An answer ends the transaction it names. -/
def answered (g : WireFlit) (bs : List Byte) (isKind : RemoteKind → Bool) (data : RemoteOp → List Byte → List Byte) (s : State) : State :=
  let b := natOfBytes (bs.take 16)
  match s.peerOp (descTag b) (flitSrc g) isKind with
  | none => s
  | some o => s.remoteDone o (if descStatus b = 0 then .ok (data o (bs.drop 16)) else .error (descStatus b))

/-- PEER_READ_RESPONSE. -/
def execPeerReadResponse (port : Nat) (f : WireFlit) (s : State) : Host.Outcome State Fault Refusal :=
  device (takeFlit 3 port f answerOk (fun g bs s =>
    answered g bs (fun k => match k with | .read _ => true | _ => false)
      (fun o d => d.take (match o.kind with | .read n => n | _ => 0)) s) s)

/-- PEER_WRITE_ACK. -/
def execPeerWriteAck (port : Nat) (f : WireFlit) (s : State) : Host.Outcome State Fault Refusal :=
  device (takeFlit 5 port f answerOk (fun g bs s =>
    answered g bs (fun k => match k with | .write _ => true | _ => false) (fun _ _ => []) s) s)

/-- PEER_ATOMIC_RESPONSE. -/
def execPeerAtomicResponse (port : Nat) (f : WireFlit) (s : State) : Host.Outcome State Fault Refusal :=
  device (takeFlit 7 port f answerOk (fun g bs s =>
    answered g bs (fun k => match k with | .atomic _ _ _ => true | _ => false) (fun _ d => d.take 8) s) s)

end Sys2Proof.Machine
end

