-- ==== Sys2Proof/Machine/Collectives.lean ====
section
/-! DEFINITION. Collectives (02 R49 to R53, R56, R57): the reducer's rows, combination and delivery; opens, contributions and closes of this device with their acknowledgements and timers; results. FLIT_SEND stands at the end, since it sends what waits. -/

namespace Sys2Proof.Machine

/-! ### Descriptors -/

/-- A contribution descriptor (02 Table 2.9). -/
structure ContribDesc where
  coll : Nat
  round : Nat
  contrib : Nat
  ncontrib : Nat
  op : Nat
  fmt : Nat
  status : Nat
  offset : Nat
  count : Nat
  k : Nat
  deriving DecidableEq, Repr

def contribDesc (b : Nat) : ContribDesc where
  coll := bitsOf b 0 32
  round := bitsOf b 32 32
  contrib := bitsOf b 64 16
  ncontrib := bitsOf b 80 16
  op := bitsOf b 96 4
  fmt := bitsOf b 100 4
  status := bitsOf b 104 8
  offset := bitsOf b 128 32
  count := bitsOf b 160 16
  k := bitsOf b 176 16

def ContribDesc.bytes (d : ContribDesc) : List Byte :=
  bytesOfNat 32 (d.coll + d.round * 2 ^ 32 + d.contrib * 2 ^ 64 + d.ncontrib * 2 ^ 80 + d.op * 2 ^ 96 + d.fmt * 2 ^ 100 +
    d.status * 2 ^ 104 + d.offset * 2 ^ 128 + d.count * 2 ^ 160 + d.k * 2 ^ 176)

/-- Reserved fields of the descriptor are 0. -/
def contribDescOk (b : Nat) : Bool := bitsOf b 112 16 == 0 && bitsOf b 192 64 == 0

/-- Bytes of an element by format: f32, bf16, i32, distance and id. -/
def elemBytes (fmt : Nat) : Nat := match fmt with | 1 => 2 | 3 => 16 | _ => 4

/-- Element codes of a byte string. -/
def elemsOf (fmt count : Nat) (bs : List Byte) : List Nat :=
  (List.range count).map (fun i => natOfBytes ((bs.drop (i * elemBytes fmt)).take (elemBytes fmt)))

def elemsBytes (fmt : Nat) (vs : List Nat) : List Byte := vs.flatMap (fun v => bytesOfNat (elemBytes fmt) v)

/-- The control word (02 Table 2.11). -/
def controlWord (cc status coll contrib : Nat) : List Byte :=
  bytesOfNat 8 (cc + status * 2 ^ 4 + coll * 2 ^ 8 + contrib * 2 ^ 40)

def wordCc (b : Nat) : Nat := bitsOf b 0 4
def wordStatus (b : Nat) : Nat := bitsOf b 4 4
def wordColl (b : Nat) : Nat := bitsOf b 8 32
def wordContrib (b : Nat) : Nat := bitsOf b 40 16

/-- A first flit of kind 11 keeps the rules of 02 R56. -/
def controlOk (b : Nat) : Bool :=
  bitsOf b 56 8 == 0 &&
  (match wordCc b with
   | 0 => bitsOf b (64 + 26) 6 == 0 && bitsOf b (64 + 80) 48 == 0 && bitsOf b (64 + 182) 10 == 0 && bitsOf b (64 + 244) 12 == 0 && bitsOf b (64 + 374) 138 == 0
   | 2 => contribDescOk (bitsOf b 64 256)
   | 1 => true
   | 3 => true
   | 4 => true
   | _ => false)

/-! ### Combination (02 R52) -/

/-- A distance and id of a top-k element. -/
def pairOf (v : Nat) : Pair := ⟨bitsOf v 0 32, bitsOf v 64 64⟩
def pairCode (p : Pair) : Nat := p.dist + p.id * 2 ^ 64

/-- The combination of the contributions of a chunk, in ascending contributor index. -/
def combineParts (c : Coll) (parts : List (List Nat)) (count : Nat) : List Nat :=
  if c.op = 3 then
    let ps := bestPairs c.k ((parts.flatMap id).map pairOf)
    (ps ++ List.replicate (c.k - ps.length) noPair).map pairCode
  else
    let fmt := match c.fmt with | 0 => 0 | 1 => 2 | _ => 9
    (List.range count).map (fun i => combineCodes fmt c.op (parts.map (fun p => p.getD i 0)))

/-- A contribution put among the others by index. -/
def insertPart (p : Nat × List Nat) : List (Nat × List Nat) → List (Nat × List Nat)
  | [] => [p]
  | q :: qs => if p.1 < q.1 then p :: q :: qs else q :: insertPart p qs

/-! ### Results at this device (02 R53, R57 item 4) -/

/-- The cells of a part: element i at range_va + (i − doffset) × element bytes (02 R57 item 4). -/
def partCells (record : Nat) (d : ContribDesc) (vs : List Nat) : List Host.Cell :=
  ((List.range vs.length).zip vs).flatMap (fun p =>
    cellsFrom (bitsOf record 192 52 + (d.offset + p.1 - bitsOf record 256 32) * elemBytes d.fmt) (bytesOfNat (elemBytes d.fmt) p.2))

/-- The conversion has the cells of a part already. -/
def ConvRun.holds (c : ConvRun) (cells : List Host.Cell) : Bool :=
  c.inputs.any (fun i => i.axis == c.axis && i.coord == 0 && cells.all (fun p => i.cells.any (fun q => q.1 == p.1)))

/-- A part of a result is applied while a conversion awaits its round and offset, and discarded otherwise; its elements are kept in memory that no context maps until the conversion, with the inputs of all its steps, writes them and acts on the completion word (11 R240; log entry 90). -/
def State.applyResult (s : State) (d : ContribDesc) (vs : List Nat) : State :=
  match s.opened.find? (fun o => o.coll == d.coll) with
  | none => s
  | some o =>
    match s.convOf o.ctx o.tid with
    | none => s
    | some c =>
      let e := s.entryOf o.ctx o.tid
      let cells := partCells (natOfBytes o.record) d vs
      if e.stepKind c.demand c.axis ≠ .reduce ∨ axKind (e.axis c.axis) ≠ 2 ∨ !c.sent ∨ (e.generation + 1) % 2 ^ 32 ≠ d.round ∨ c.holds cells then s
      else
        let s := s.convInput o.ctx o.tid c.axis 0 cells
        { s with convs := s.convs.map (fun (x : ConvRun) =>
          if x.ctx == o.ctx && x.tid == o.tid then { x with parts := x.parts ++ [d.round] } else x) }

/-- A top-k element has a nonzero reserved bit (02 R43, R49). -/
def reservedBits (d : ContribDesc) (vs : List Nat) : Bool := d.fmt == 3 && vs.any (fun v => bitsOf v 32 32 != 0)

/-- COLLECTIVE_RESULT. -/
def execCollectiveResult (port : Nat) (f : WireFlit) (s : State) : Host.Outcome State Fault Refusal :=
  device (takeFlit 11 port f (fun b => controlOk b && wordCc b == 2) (fun _ bs s =>
    let d := contribDesc (natOfBytes ((bs.drop 8).take 32))
    if (bs.drop 40).length < d.count * elemBytes d.fmt then s
    else
      let vs := elemsOf d.fmt d.count (bs.drop 40)
      if reservedBits d vs then s.discardFlit else s.applyResult d vs) s)

/-! ### The reducer (02 R50) -/

def State.coll? (s : State) (i : Nat) : Option Coll := s.colls.find? (fun c => c.id == i)

def State.updColl (s : State) (i : Nat) (f : Coll → Coll) : State :=
  { s with colls := s.colls.map (fun c => if c.id == i then f c else c) }

/-- The part of a chunk's result in a destination's range is sent to it, or applied here. -/
def State.deliver (s : State) (c : Coll) (k : CollChunk) (d : CollDest) : State :=
  let vs := k.result.getD []
  let lo := max k.offset d.off
  let hi := min (k.offset + vs.length) (d.off + d.count)
  if hi ≤ lo then s
  else
    let part := (vs.drop (lo - k.offset)).take (hi - lo)
    let h : ContribDesc := ⟨c.id, k.round, 0, c.ncontrib, c.op, c.fmt, 0, lo, hi - lo, c.k⟩
    if s.gridAxes ≠ 0 ∧ d.coord = s.here then s.applyResult h part
    else s.enqueueD 11 c.tc d.coord d.ctx (controlWord 2 0 c.id 0 ++ h.bytes ++ elemsBytes c.fmt part)

/-- The distance of a round from the oldest incomplete one, modulo 2^32. -/
def roundAfter (n r : Nat) : Nat := (r + 2 ^ 32 - n) % 2 ^ 32

/-- Every element of a round has been released. -/
def Coll.complete (c : Coll) (r : Nat) : Bool :=
  decide (c.count ≤ ((c.chunks.filter (fun k => k.round == r && k.result.isSome)).map (fun k => k.count)).foldl (· + ·) 0)

/-- The oldest round advances while it is complete; rounds before n − 1 are dropped. -/
def Coll.advance : Nat → Coll → Coll
  | 0, c => c
  | fuel + 1, c =>
    match c.n with
    | none => c
    | some n =>
      if c.complete n then
        let m := (n + 1) % 2 ^ 32
        Coll.advance fuel { c with n := some m, chunks := c.chunks.filter (fun k => decide (roundAfter n k.round ≤ 2)) }
      else c

/-- A contribution is accepted into its chunk; a full bitmap delivers the chunk. -/
def State.acceptPart (s : State) (c : Coll) (d : ContribDesc) (vs : List Nat) : State :=
  let k : CollChunk := (c.chunks.find? (fun k => k.round == d.round && k.offset == d.offset)).getD ⟨d.round, d.offset, d.count, [], none⟩
  let parts := insertPart (d.contrib, vs) k.parts
  let full := decide (c.ncontrib ≤ parts.length)
  let k := { k with parts := parts, result := if full then some (combineParts c (parts.map (fun p => p.2)) d.count) else none }
  let put := fun (c : Coll) => { c with
    n := c.n.or (some d.round)
    chunks := k :: c.chunks.filter (fun x => !(x.round == d.round && x.offset == d.offset)) }
  let s := s.updColl c.id put
  if full then (c.dests.foldl (fun s x => s.deliver c k x) s).updColl c.id (Coll.advance 3) else s

/-- The first matching row of 02 R50: status, and what the reducer does; `whole` says that the elements came in full. -/
def State.reduceRow (s : State) (d : ContribDesc) (topK whole : Bool) (vs : List Nat) : Nat × State :=
  match s.coll? d.coll with
  | none => (3, s)
  | some c =>
    if !c.dests.any (fun x => x.contrib == d.contrib) then (3, s)
    else
      let s := s.updColl c.id (fun c => { c with last := s.aclk })
      let old := c.chunks.find? (fun k => k.round == d.round && k.offset == d.offset)
      let n := c.n.getD d.round
      let after := roundAfter n d.round
      if !whole ∨ d.status ≠ 0 ∨ d.ncontrib ≠ c.ncontrib ∨ d.op ≠ c.op ∨ d.fmt ≠ c.fmt ∨ (topK != (c.op == 3)) ∨ (c.op = 3 ∧ d.k ≠ c.k) ∨
          d.count = 0 ∨ c.count < d.offset + d.count ∨ 4096 < d.count * elemBytes d.fmt ∨ old.any (fun k => k.count != d.count) then (4, s)
      else if after = 2 ^ 32 - 1 then
        (1, match old with
          | some k => (c.dests.filter (fun x => x.contrib == d.contrib)).foldl (fun s x => s.deliver c k x) s
          | none => s)
      else if 2 ^ 31 ≤ after then (6, s)
      else if 1 < after then (2, s)
      else if old.any (fun k => k.parts.any (fun p => p.1 == d.contrib)) then (1, s)
      else if old.isNone ∧ s.freeBit 40 then (5, s)
      else (0, s.acceptPart c d vs)

/-- A contribution arrives and is acknowledged, whatever its row; one with a reserved bit set is discarded (02 R43). -/
def contributed (topK : Bool) (g : WireFlit) (bs : List Byte) (s : State) : State :=
  let d := contribDesc (natOfBytes (bs.take 32))
  let whole := decide (d.count * elemBytes d.fmt ≤ (bs.drop 32).length)
  let vs := elemsOf d.fmt d.count (bs.drop 32)
  if topK && reservedBits d vs then s.discardFlit
  else
    let (st, s) := s.reduceRow d topK whole vs
    s.enqueueD 10 (flitTc g) (flitSrc g) 0 { d with status := st }.bytes

/-- REDUCTION_CONTRIBUTION. -/
def execReductionContribution (port : Nat) (f : WireFlit) (s : State) : Host.Outcome State Fault Refusal :=
  device (takeFlit 8 port f contribDescOk (contributed false) s)

/-- TOP_K_CONTRIBUTION. -/
def execTopKContribution (port : Nat) (f : WireFlit) (s : State) : Host.Outcome State Fault Refusal :=
  device (takeFlit 9 port f contribDescOk (contributed true) s)

/-! ### Opens and closes at the reducer (02 R57) -/

/-- A collective with the fields of an open record (02 Table 2.12), and its destination. -/
def collOf (coll r aclk : Nat) : Coll :=
  { id := coll, ncontrib := bitsOf r 0 16, op := bitsOf r 16 4, fmt := bitsOf r 20 4, tc := bitsOf r 24 2, count := bitsOf r 32 32
    k := bitsOf r 64 16, dests := [], closed := [], n := none, chunks := [], last := aclk }

def destOf (contrib r : Nat) : CollDest :=
  { contrib := contrib, coord := bitsOf r 128 48, ctx := bitsOf r 176 6, range := bitsOf r 192 52, off := bitsOf r 256 32
    count := bitsOf r 288 32, word := bitsOf r 320 52, wordKind := bitsOf r 372 2 }

/-- The record's fields lie in their ranges. -/
def recordOk (contrib r : Nat) : Bool :=
  decide (1 ≤ bitsOf r 0 16 ∧ bitsOf r 0 16 ≤ 1024 ∧ contrib < bitsOf r 0 16) && decide (bitsOf r 16 4 ≤ 3) &&
  (if bitsOf r 16 4 = 3 then bitsOf r 20 4 == 3 && decide (1 ≤ bitsOf r 64 16 ∧ bitsOf r 64 16 ≤ 1024)
   else decide (bitsOf r 20 4 ≤ 2) && bitsOf r 64 16 == 0) && bitsOf r 372 2 != 3

/-- The reducer takes an open: created, joined, refused on mismatch or for room. -/
def State.openAt (s : State) (coll contrib r : Nat) : Nat × State :=
  let new := collOf coll r s.aclk
  let join := fun (c : Coll) => { c with
    dests := c.dests.filter (fun d => d.contrib != contrib) ++ [destOf contrib r]
    closed := c.closed.filter (fun k => k != contrib)
    last := s.aclk }
  match s.coll? coll with
  | none => if s.freeBit 41 then (2, s) else (0, { s with colls := s.colls ++ [join new] })
  | some c =>
    if c.ncontrib ≠ new.ncontrib ∨ c.op ≠ new.op ∨ c.fmt ≠ new.fmt ∨ c.tc ≠ new.tc ∨ c.count ≠ new.count ∨ c.k ≠ new.k then
      (1, s.updColl coll (fun c => { c with last := s.aclk }))
    else (0, s.updColl coll join)

/-- The reducer takes a close; with the last opener's it frees the collective. -/
def State.closeAt (s : State) (coll contrib : Nat) : Nat × State :=
  match s.coll? coll with
  | none => (3, s)
  | some c =>
    let closed := c.closed.filter (fun k => k != contrib) ++ [contrib]
    if c.dests.all (fun d => closed.contains d.contrib) then (0, { s with colls := s.colls.filter (fun c => c.id != coll) })
    else (0, s.updColl coll (fun c => { c with closed := closed, last := s.aclk }))

/-- COLLECTIVE_OPEN: answered with an open ack; a record out of range is never answered. -/
def execCollectiveOpen (port : Nat) (f : WireFlit) (s : State) : Host.Outcome State Fault Refusal :=
  device (takeFlit 11 port f (fun b => controlOk b && wordCc b == 0) (fun g bs s =>
    let b := natOfBytes bs
    let r := natOfBytes ((bs.drop 8).take 64)
    if !recordOk (wordContrib b) r then s
    else
      let (st, s) := s.openAt (wordColl b) (wordContrib b) r
      s.enqueueD 11 (flitTc g) (flitSrc g) 0 (controlWord 1 st (wordColl b) (wordContrib b))) s)

/-- COLLECTIVE_CLOSE: answered with a close ack. -/
def execCollectiveClose (port : Nat) (f : WireFlit) (s : State) : Host.Outcome State Fault Refusal :=
  device (takeFlit 11 port f (fun b => controlOk b && wordCc b == 3) (fun g bs s =>
    let b := natOfBytes bs
    let (st, s) := s.closeAt (wordColl b) (wordContrib b)
    s.enqueueD 11 (flitTc g) (flitSrc g) 0 (controlWord 4 st (wordColl b) (wordContrib b))) s)

/-- COLLECTIVE_IDLE_TIMEOUT: the first collective with no open, contribution or close for 2,400,000,000 fclk is freed. -/
def execCollectiveIdleTimeout (s : State) : Host.Outcome State Fault Refusal :=
  device (match s.colls.find? (fun c => decide (fclkOf c.last + 2400000000 ≤ fclkOf s.aclk)) with
    | none => s
    | some c => { s with colls := s.colls.filter (fun x => x.id != c.id) })

/-! ### This device as a contributor (02 R51, R57) -/

/-- An open's answer: contributions may begin, the conversion fails on a mismatch, the open is sent again for want of room. -/
def State.openAcked (s : State) (coll contrib status : Nat) : State :=
  match s.opened.find? (fun o => o.coll == coll && o.contrib == contrib && !o.closing && !o.acked) with
  | none => s
  | some o =>
    let put := fun (f : Opened → Opened) => { s with opened := s.opened.map (fun x => if x == o then f x else x) }
    if status = 0 then put (fun x => { x with acked := true, inFlight := false, sends := 0 })
    else if status = 2 then put (fun x => { x with inFlight := false, since := s.aclk + 3600, sends := 0 })
    else ({ s with opened := s.opened.erase o }).failConversion o.ctx o.tid 0x1B

/-- A close's answer ends the device's part. -/
def State.closeAcked (s : State) (coll contrib : Nat) : State :=
  { s with opened := s.opened.filter (fun o => !(o.coll == coll && o.contrib == contrib && o.closing)) }

/-- COLLECTIVE_OPEN_ACK. -/
def execCollectiveOpenAck (port : Nat) (f : WireFlit) (s : State) : Host.Outcome State Fault Refusal :=
  device (takeFlit 11 port f (fun b => controlOk b && wordCc b == 1) (fun _ bs s =>
    let b := natOfBytes bs
    s.openAcked (wordColl b) (wordContrib b) (wordStatus b)) s)

/-- COLLECTIVE_CLOSE_ACK. -/
def execCollectiveCloseAck (port : Nat) (f : WireFlit) (s : State) : Host.Outcome State Fault Refusal :=
  device (takeFlit 11 port f (fun b => controlOk b && wordCc b == 4) (fun _ bs s =>
    let b := natOfBytes bs
    s.closeAcked (wordColl b) (wordContrib b)) s)

/-- The answer to a contribution: 0 and 1 end it, 2 and 5 send it again after 3,600 aclk, the others end it with a fault. -/
def State.contribAcked (s : State) (d : ContribDesc) : State :=
  match s.contribs.find? (fun c => c.coll == d.coll && c.round == d.round && c.contrib == d.contrib && c.offset == d.offset && c.inFlight) with
  | none => s
  | some c =>
    if d.status ≤ 1 then { s with contribs := s.contribs.erase c }
    else if d.status = 2 ∨ d.status = 5 then
      { s with contribs := s.contribs.map (fun (x : Contribution) => if x == c then { x with inFlight := false, since := s.aclk + 3600, sends := 0 } else x) }
    else ({ s with contribs := s.contribs.erase c }).failConversion c.ctx c.tid 0x1B

/-- CONTRIBUTION_ACK. -/
def execContributionAck (port : Nat) (f : WireFlit) (s : State) : Host.Outcome State Fault Refusal :=
  device (takeFlit 10 port f contribDescOk (fun _ bs s => s.contribAcked (contribDesc (natOfBytes (bs.take 32)))) s)

/-- Traffic class of a collective this device opened. -/
def Opened.tc (o : Opened) : Nat := bitsOf (natOfBytes o.record) 24 2

/-- An open or close that is due goes to its reducer, which may be this device. -/
def State.sendOpened (s : State) (o : Opened) : State :=
  let s := { s with opened := s.opened.map (fun (x : Opened) => if x == o then { x with inFlight := true, since := s.aclk, sends := x.sends + 1 } else x) }
  if s.gridAxes ≠ 0 ∧ o.dst = s.here then
    if o.closing then ((s.closeAt o.coll o.contrib).2).closeAcked o.coll o.contrib
    else
      let (st, s) := s.openAt o.coll o.contrib (natOfBytes o.record)
      s.openAcked o.coll o.contrib st
  else s.enqueueD 11 o.tc o.dst o.ctx (if o.closing then controlWord 3 0 o.coll o.contrib else controlWord 0 0 o.coll o.contrib ++ o.record)

/-- A contribution that is due goes to its reducer. -/
def State.sendContribution (s : State) (tc : Nat) (c : Contribution) : State :=
  let s := { s with contribs := s.contribs.map (fun (x : Contribution) => if x == c then { x with inFlight := true, since := s.aclk, sends := x.sends + 1 } else x) }
  let d : ContribDesc := ⟨c.coll, c.round, c.contrib, c.ncontrib, c.op, c.fmt, 0, c.offset, c.elems.length, 0⟩
  if s.gridAxes ≠ 0 ∧ c.dst = s.here then
    let (st, s) := s.reduceRow d false true c.elems
    s.contribAcked { d with status := st }
  else s.enqueueD 8 tc c.dst c.ctx (d.bytes ++ elemsBytes c.fmt c.elems)

/-- Everything due is sent: opens and closes, then the contributions of open collectives. -/
def State.sendDue (s : State) : State :=
  let s := (s.opened.filter (fun o => !o.inFlight && (o.closing || !o.acked) && decide (o.since ≤ s.aclk))).foldl (fun s o => s.sendOpened o) s
  (s.contribs.filter (fun c => !c.inFlight && decide (c.since ≤ s.aclk))).foldl (fun s c =>
    match s.opened.find? (fun o => o.coll == c.coll && o.acked && !o.closing) with
    | some o => s.sendContribution o.tc c
    | none => s) s

/-- CONTRIBUTION_RETRY_TIMER: what was refused with status 2 or 5 is sent again when its time has come. -/
def execContributionRetryTimer (s : State) : Host.Outcome State Fault Refusal := device s.sendDue

/-- An open, close or contribution without an answer for 72,000 aclk. -/
def Opened.late (o : Opened) (aclk : Nat) : Bool := o.inFlight && decide (o.since + 72000 ≤ aclk)
def Contribution.late (c : Contribution) (aclk : Nat) : Bool := c.inFlight && decide (c.since + 72000 ≤ aclk)

/-- CONTRIBUTION_ACK_TIMEOUT: sent again; after eight sends without an answer it ends with the contribution-failed fault. -/
def execContributionAckTimeout (s : State) : Host.Outcome State Fault Refusal :=
  device (match s.contribs.find? (fun c => c.late s.aclk) with
    | some c =>
      if 8 ≤ c.sends then ({ s with contribs := s.contribs.erase c }).failConversion c.ctx c.tid 0x1B
      else { s with contribs := s.contribs.map (fun (x : Contribution) => if x == c then { x with inFlight := false, since := s.aclk } else x) }.sendDue
    | none =>
      match s.opened.find? (fun o => o.late s.aclk) with
      | some o =>
        if 8 ≤ o.sends then
          let t := { s with opened := s.opened.erase o }
          if o.closing then t else t.failConversion o.ctx o.tid 0x1B
        else { s with opened := s.opened.map (fun (x : Opened) => if x == o then { x with inFlight := false, since := s.aclk } else x) }.sendDue
      | none => s)

/-- FLIT_SEND of a port: what waits gets its port, and the port sends one sequenced flit if it may (02 R45). -/
def execFlitSend (port : Nat) (s : State) : Host.Outcome State Fault Refusal :=
  device (s.sendDue.route.updPort port (fun p => p.sendOne s.aclk))

end Sys2Proof.Machine
end

