-- ==== Sys2Proof/Machine/Fibres.lean ====
section
/-! DEFINITION. Creating, regrouping and yielding: SPAWN, REBIN and YIELD (16 R335 to R338). -/

namespace Sys2Proof.Machine

/-- The registers of a payload. -/
def payloadRegs (b : BitVec 7) (n : BitVec 4) : List Nat := (List.range n.toNat).map (fun k => b.toNat + k)

/-- Payload values; those not supplied read 0. -/
def payloadOf (f : Fibre) (b : BitVec 7) (n : BitVec 4) : List Dword :=
  (List.range 4).map (fun k => if k < n.toNat then f.reg (b.toNat + k) else 0)

/-- The checks of an entry address (16 R335). -/
def entryCheck (v : Dword) : Option Trap :=
  if 2 ^ 52 ≤ v.toNat then some (.unmapped v.toNat)
  else if v.toNat % 4 ≠ 0 then some (.misaligned v.toNat)
  else none

/-- The lowest fibre index that no live fibre holds; one freed in this aclk is not free yet (06 R131, 16 R337). -/
def Team.freeIndex (t : Team) (aclk : Nat) : Option Nat :=
  (t.fibres.find? (fun f => !f.live && decide (f.since < aclk))).map (fun f => f.idx)

/-- A deposit finds a bin: an empty one of the team (`empty`), or one the team holds. -/
def Team.binFor (t : Team) (empty : Bool) : Bool :=
  empty || !t.bins.isEmpty

/-- Place a deposit in a bin: one with its entry and key, else an empty one, else the bin nonempty longest, released first (06 R131); a bin that then holds 32 fibres is released (06 R132). -/
def Team.binDeposit (t : Team) (empty : Bool) (d : Deposit) (aclk : Nat) : Team :=
  let put := fun (t : Team) (old : Option Bin) =>
    match old with
    | some b =>
      let b' := { b with fibres := b.fibres ++ [d] }
      let t := { t with bins := t.bins.map (fun x => if x == b then b' else x) }
      if 32 ≤ b'.fibres.length then t.releaseBin b' aclk else t
    | none => { t with bins := t.bins ++ [⟨d.entry, d.key, t.residentTime aclk, [d]⟩] }
  match t.bins.find? (fun b => b.entry == d.entry && b.key == d.key) with
  | some b => put t (some b)
  | none =>
    if empty then put t none
    else
      match t.bins with
      | [] => put t none
      | b :: bs =>
        let oldest := bs.foldl (fun o x => if x.since < o.since then x else o) b
        put (t.releaseBin oldest aclk) none

/-- The fibre's earlier accesses come before every access of a fibre that it deposits: its loads and queued stores are performed, as for a release at team scope (16 R335). -/
def depositReady (s : State) (r : FibreRef) (f : Fibre) : Bool := settled f && fencesMet s r f f.seq

/-- SPAWN. With every bin of the core held by other teams it waits for one (log entry 88). -/
def execSpawn (d a b : BitVec 7) (n : BitVec 4) (key : BitVec 16) : State → Host.Outcome State Fault Refusal :=
  isa 2 { rd := [a.toNat], payload := payloadRegs b n, wr := [d.toNat] } (fun r t f s =>
    match entryCheck (f.reg a.toNat) with
    | some e => .error (.trap e)
    | none =>
      match t.freeIndex s.aclk with
      | none => .ok ((s.updFibre r (fun x => x.setReg d.toNat (-1))).count t.ctx 0x35 1)
      | some i =>
        let s := s.updTeam r.team (fun t => t.releaseDue s.aclk)
        let t := (s.team? r.team).getD t
        if !t.binFor (s.binFree t) || !depositReady s r f then wait s
        else
        let dep : Deposit := ⟨i, (f.reg a.toNat).toNat, key, payloadOf f b n⟩
        let child : Fibre := { Fibre.fresh i t.kernel.windowRegs s.aclk with status := .inBin, fmode := f.fmode, srseed := seedOf t.linear i }
        let s := s.updTeam r.team (fun t => (t.updFibre i (fun _ => child)).binDeposit (s.binFree t) dep s.aclk)
        .ok (s.updFibre r (fun x => x.setReg d.toNat (ofNat64 i))))

def execRebin (d a b : BitVec 7) (n : BitVec 4) (key : BitVec 16) : State → Host.Outcome State Fault Refusal :=
  isa 2 { rd := [d.toNat, a.toNat], payload := payloadRegs b n } (fun r _ f s =>
    match entryCheck (f.reg a.toNat) with
    | some e => .error (.trap e)
    | none =>
      match reporting r s (beforeEnd r f s) with
      | .error e => .error e
      | .ok s =>
        if !depositReady s r f then wait s
        else
        let dep : Deposit := ⟨r.fibre, (f.reg a.toNat).toNat, (f.reg d.toNat).setWidth 16 &&& key, payloadOf f b n⟩
        let s := s.updTeam r.team (fun t => t.releaseDue s.aclk)
        let s := s.updTeam r.team (fun t => { t with
          reorderSince := if t.reorder.isEmpty then t.residentTime s.aclk else t.reorderSince
          reorder := t.reorder ++ [dep] })
        let s := s.endFibre r true
        .error (.hold (s.updTeam r.team (fun t =>
          if 32 ≤ (t.group dep).length then t.releaseGroup dep s.aclk else t))))

/-- The yielding fibre passes its YIELD before the swap point (16 R338). -/
def passYield (r : FibreRef) (s : State) : State := s.updFibre r (fun f => f.pass 1 false s.aclk)

/-- The new slice of a team that keeps its core; a demotion is counted (05 R103, R104). -/
def State.beginSlice (s : State) (t : Team) : State :=
  let s' := s.updTeam t.id (fun t => t.nextSlice s.aclk)
  if t.cls < 2 ∧ t.kernel.nslices ≤ t.slice then s'.count t.ctx 0x25 1 else s'

/-- The YIELD answers a pending pre-emption: the team is in preempt_pending and the fibre is not in the budget handler (16 R338, 06 R135). -/
def answersPreempt (t : Team) (f : Fibre) : Bool :=
  t.state == .preemptPending && !(match f.handler with | some h => h.cause == 0x0D | none => false)

/-- A YIELD that leads to a save. -/
def yieldSave (r : FibreRef) (t : Team) (f : Fibre) (s : State) : State :=
  (passYield r s).swapPoint t.id false false (answersPreempt t f)

def execYield : State → Host.Outcome State Fault Refusal :=
  isa 1 { near := false } (fun r t f s =>
    if !t.resident then .ok s
    else if answersPreempt t f ∨ t.state = .preemptPending ∨ s.coreWanted t ∨ (s.ctx? t.ctx).any (fun c => c.held) then .error (.hold (yieldSave r t f s))
    else .ok (s.beginSlice t))

def execYieldSave : State → Host.Outcome State Fault Refusal :=
  isa 1 { near := false } (fun r t f s =>
    if !t.resident then .ok s else .error (.hold (yieldSave r t f s)))

def execYieldRestart : State → Host.Outcome State Fault Refusal :=
  isa 1 { near := false } (fun r t f s =>
    if !t.resident then .ok s
    else if t.kernel.restartPc = 0 then .error (.hold (yieldSave r t f s))
    else .error (.hold ((passYield r s).swapPoint t.id true false false)))

end Sys2Proof.Machine
end

