-- ==== Sys2Proof/Machine/Graphs.lean ====
section
/-! DEFINITION. Loading topiary graphs (03 R77, 05 R116 to R118): the checks of the node array, and LOAD_GRAPH and UNLOAD_GRAPH. -/

namespace Sys2Proof.Machine

/-! ### Checks of words that nodes name -/

/-- A memory word in a tagged, resident page. -/
def taggedWord (s : State) (ctx va : Nat) : Bool :=
  va % 8 == 0 &&
  (match leafFor s ctx 8 va with
   | .leaf l => !l.nonres && l.tagged && decide (l.cls ≤ 1)
   | _ => false)

/-- A memory word in a tagged page or in a page of class host. -/
def reportWord (s : State) (ctx va : Nat) : Bool :=
  taggedWord s ctx va ||
  (va % 8 == 0 && (match leafFor s ctx 8 va with | .leaf l => !l.nonres && l.cls == 4 | _ => false))

/-- 128 bytes are mapped, readable, resident and not poisoned; a page of class W, peer or host counts as not readable, of which 03 R77 says nothing (the model's choice, log entry 49). -/
def nodeReadable (s : State) (ctx va : Nat) : Bool :=
  imageSource s ctx va 128 &&
  (List.range 17).all (fun i =>
    let a := if i < 16 then va + 8 * i else va + 127
    match leafFor s ctx 8 a with
    | .leaf l => !s.mem.poison.contains (wordOf (l.place a))
    | _ => false)

/-! ### Node formats (05 Tables 5.3 to 5.5) -/

/-- The bits from `lo` up to `hi`, `hi` left out, are 0. -/
def zeros (b lo hi : Nat) : Bool := bitsOf b lo (hi - lo) == 0

/-- A header node of a graph of `n` nodes. -/
def headerNodeOk (s : State) (ctx n b : Nat) : Bool :=
  bitsOf b 0 4 == 0 && zeros b 6 8 && decide (1 ≤ bitsOf b 8 16 ∧ bitsOf b 8 16 < n) && bitsOf b 24 4 != 0 && zeros b 28 128 &&
  bitsOf b 128 32 != 0 && zeros b 160 192 && reportWord s ctx (bitsOf b 192 52) && zeros b 244 1024

/-- A cluster dimension of a JOB node; a node that leaves it 0 launches single teams (log entry 87). -/
def clusterDim (v : Nat) : Nat := if v = 0 then 1 else v

/-- The launch needs of a JOB node (05 Table 5.4). -/
def kernelOf (b : Nat) : Kernel where
  mcore := bitsOf b 4 1 == 1
  window := bitsOf b 8 3
  scratchWays := bitsOf b 11 5
  accTiles := bitsOf b 16 7
  metaUnits := bitsOf b 24 7
  clW := clusterDim (bitsOf b 32 3)
  clH := clusterDim (bitsOf b 35 2)
  fibresM1 := bitsOf b 40 11
  entryPc := bitsOf b 128 52
  restartPc := bitsOf b 192 52
  binTimerM1 := bitsOf b 304 16
  budget := bitsOf b 320 24 + 1
  nslices := bitsOf b 352 16
  param := bitsOf b 448 52
  faultWord := bitsOf b 512 52
  grid := (bitsOf b 256 16, bitsOf b 272 16, bitsOf b 288 16)

/-- The fields of a JOB node lie in their ranges; its single team keeps the register bound (07 R146). -/
def Kernel.ok (k : Kernel) : Bool :=
  decide (k.scratchWays ≤ 16) && decide (k.accTiles ≤ (if k.mcore then 16 else 64)) && decide (k.metaUnits ≤ (if k.mcore then 16 else 64)) &&
  decide (1 ≤ k.clW ∧ k.clW ≤ meshCols k.mcore) && decide (1 ≤ k.clH ∧ k.clH ≤ meshRows k.mcore) &&
  k.entryPc % 4 == 0 && k.restartPc % 4 == 0 && decide (1 ≤ k.grid.1 ∧ 1 ≤ k.grid.2.1 ∧ 1 ≤ k.grid.2.2) &&
  decide (63 ≤ k.binTimerM1) && k.nslices != 0 && decide ((k.fibresM1 + 1) * k.windowRegs ≤ 131072) && k.teams % k.clusterSize == 0

/-- The dependence words a JOB node uses. -/
def depsOf (b : Nat) : List Nat := (List.range (bitsOf b 52 4)).map (fun i => bitsOf b (576 + 52 * i) 52)

def jobOk (s : State) (ctx b : Nat) : Bool :=
  zeros b 5 8 && zeros b 23 24 && zeros b 31 32 && zeros b 37 40 && zeros b 51 52 && decide (bitsOf b 52 4 ≤ 8) && zeros b 180 192 &&
  zeros b 244 256 && zeros b 344 352 && zeros b 368 384 && zeros b 416 448 && zeros b 500 512 && zeros b 564 576 && zeros b 992 1024 &&
  (kernelOf b).ok && reportWord s ctx (bitsOf b 512 52) && (depsOf b).all (taggedWord s ctx)

/-- COND, WHILE, JOIN, SIGNAL and SEAL nodes (05 Table 5.5): what a kind does not use is reserved. -/
def otherOk (s : State) (ctx b : Nat) : Bool :=
  let kind := bitsOf b 0 4
  zeros b 5 8 && zeros b 180 192 && zeros b 256 1024 &&
  (kind == 5 || (zeros b 4 5 && zeros b 192 256)) &&
  (if kind = 4 then bitsOf b 8 8 != 0 else zeros b 8 16) &&
  (match kind with
   | 3 => bitsOf b 16 16 != 0
   | 6 => bitsOf b 26 4 != 0 && zeros b 30 32
   | _ => zeros b 16 32) &&
  zeros b 32 64 &&
  (match kind with
   | 2 => taggedWord s ctx (bitsOf b 128 52)
   | 3 => taggedWord s ctx (bitsOf b 128 52)
   | 5 => reportWord s ctx (bitsOf b 128 52)
   | _ => zeros b 128 180)

/-- The successor indices of a node. -/
def succsOf (b : Nat) : List Nat := (List.range 4).map (fun i => bitsOf b (64 + 16 * i) 16)

/-- The checks of one node: its bytes, its format, its successors, the words it names. -/
def nodeOk (s : State) (ctx n i b : Nat) : Bool :=
  let kind := bitsOf b 0 4
  if i = 0 then headerNodeOk s ctx n b
  else
    (succsOf b).all (fun x => x == 0xFFFF || decide (1 ≤ x ∧ x < n)) &&
    (if kind = 1 then jobOk s ctx b else decide (2 ≤ kind ∧ kind ≤ 6) && otherOk s ctx b)

/-- The node that 128 checked bytes are. -/
def nodeOf (b : Nat) : Node where
  kind := match bitsOf b 0 4 with
    | 1 => .job (kernelOf b) (bitsOf b 384 32) (bitsOf b 56 8) (depsOf b)
    | 2 => .cond (bitsOf b 128 52)
    | 3 => .while_ (bitsOf b 16 16) (bitsOf b 128 52)
    | 4 => .join (bitsOf b 8 8)
    | 5 => .signal (bitsOf b 4 1 == 1) (bitsOf b 128 52) (BitVec.ofNat 64 (bitsOf b 192 64))
    | 6 => .seal (bitsOf b 16 10) (bitsOf b 26 4)
    | _ => .join 1
  succ := if bitsOf b 0 4 = 0 then [] else succsOf b

/-- The graph of a checked node array. -/
def graphFrom (bs : List Nat) (handle start : Nat) (filledAt : Option Nat) : Graph :=
  let h := bs.headD 0
  { handle := handle, cls := bitsOf h 4 2, entry := bitsOf h 8 16, maxLive := bitsOf h 24 4, relDeadline := bitsOf h 128 32
    faultWord := bitsOf h 192 52, startWord := start, startLost := false, filledAt := filledAt, nodes := bs.map nodeOf }

/-! ### The shape of a graph (05 R118) -/

def Node.isWhile (n : Node) : Bool := match n.kind with | .while_ _ _ => true | _ => false
def Node.isJoin (n : Node) : Bool := match n.kind with | .join _ => true | _ => false

/-- The graph without the edges from WHILE nodes to their bodies. -/
def Graph.unlooped (g : Graph) : Graph :=
  { g with nodes := g.nodes.map (fun (n : Node) => if n.isWhile then { n with succ := n.succ.set 0 0xFFFF } else n) }

/-- Node `x` has a place in the graph that 05 R118 allows. -/
def Graph.nodeShape (g : Graph) (reached : List Nat) (x : Nat) : Bool :=
  let n := g.node x
  let named := g.nodes.countP (fun m => m.succs.contains x)
  let u := g.unlooped
  (decide (named ≤ 1) || n.isJoin || n.isWhile) &&
  !(u.closure g.nodes.length g.nodes.length (u.node x).succs).contains x &&
  (!n.isWhile || n.succ.getD 1 0xFFFF != 0xFFFF) &&
  reached.contains x

/-- The first node that has no such place. -/
def Graph.badShape (g : Graph) : Option Nat :=
  let reached := g.closure g.nodes.length g.nodes.length [g.entry]
  (List.range g.nodes.length).find? (fun x => decide (0 < x) && !g.nodeShape reached x)

/-! ### The messages -/

/-- A graph is kept; a start word that is FULL already is taken at once, and its instance starts with the reply's time (05 R119). -/
def State.keepGraph (s : State) (ctx : Nat) (g : Graph) : State :=
  let s := s.updCtx ctx (fun c => { c with graphs := c.graphs ++ [g] })
  match s.watched ctx g.startWord with
  | some w => if s.tagFull w then { s.setTag w false with starts := s.starts ++ [(ctx, g.handle, s.now)] } else s
  | none => s

/-- LOAD_GRAPH: the body, then the nodes in ascending index; the graph is kept under a handle. -/
def serveLoadGraph (m : Message) (s : State) : State :=
  let b := msgNum m
  let va := bitsOf b 0 52
  let n := bitsOf b 64 16
  let start := bitsOf b 96 52
  serve 0x07 (fun k => k == 24) true false m s (fun s =>
    withCtx m s (fun c => checked [zeroAt b 52 12, (n != 0, 8), zeroAt b 80 16] (
      if !taggedWord s c.id start then .refuse 1 12
      else
        checked [zeroAt b 148 44] (
          let num := fun (i : Nat) => natOfBytes (virtualBytes s c.id (va + 128 * i) 128)
          match (List.range n).find? (fun i => !(nodeReadable s c.id (va + 128 * i) && nodeOk s c.id n i (num i))) with
          | some i => .refuse 1 i
          | none =>
            match freeId 256 (fun i => c.graphs.any (fun g => g.handle == i)) with
            | none => .refuse 2 0
            | some h =>
              let g := graphFrom ((List.range n).map num) h start none
              match g.badShape with
              | some i => .refuse 1 i
              | none =>
                if 1048576 < (c.graphs.map (fun g => g.nodes.length)).foldl (· + ·) 0 + n then .refuse 2 0
                else .done (s.keepGraph c.id g) (bytesOfNat 1 h)))))

/-- LOAD_GRAPH arrives on queue pair 1. -/
def execLoadGraph (m : Message) (s : State) : Host.Outcome State Fault Refusal :=
  onMessage 0x07 serveLoadGraph m s

/-- UNLOAD_GRAPH: refused while an instance of the graph is live. -/
def serveUnloadGraph (m : Message) (s : State) : State :=
  let h := bitsOf (msgNum m) 0 8
  serve 0x08 (fun k => k == 1) true false m s (fun s =>
    withCtx m s (fun c =>
      if !c.graphs.any (fun g => g.handle == h) then .refuse 3 0
      else if s.liveOf c.id h ≠ 0 then .refuse 4 0
      else .done (s.updCtx c.id (fun c => { c with graphs := c.graphs.filter (fun g => g.handle != h) })) []))

/-- UNLOAD_GRAPH arrives on queue pair 1. -/
def execUnloadGraph (m : Message) (s : State) : Host.Outcome State Fault Refusal :=
  onMessage 0x08 serveUnloadGraph m s

/-! ### The next message (03 R59) -/

/-- A message by its type (03 Table 3.2). -/
def serveAny (m : Message) : State → State :=
  match msgType m with
  | 0x01 => serveCreateContext m
  | 0x02 => serveDestroyContext m
  | 0x03 => serveSetReservations m
  | 0x04 => serveMapMemory m
  | 0x05 => serveUnmapMemory m
  | 0x06 => serveLoadImage m
  | 0x07 => serveLoadGraph m
  | 0x08 => serveUnloadGraph m
  | 0x09 => serveCreateQueuePair m
  | 0x0A => serveDestroyQueuePair m
  | 0x0B => serveGrantPeerAccess m
  | 0x0C => serveSetGrid m
  | 0x0D => servePortUp m
  | 0x0E => serveSetLinkParameters m
  | 0x0F => serveReadCounters m
  | 0x10 => serveReadRecords m
  | 0x11 => serveAttest m
  | 0x12 => serveFirmwareLoad m
  | 0x13 => serveRaiseSecurityMinimum m
  | 0x14 => serveResetMsg m
  | _ => serveUnassigned m

/-- Oseus handles the oldest message that waits, once the one before it is done. -/
def State.nextMessage (s : State) : State :=
  match s.os.inbox with
  | [] => s
  | m :: rest => if s.mgmtUp && s.idle then serveAny m (s.updOs (fun o => { o with inbox := rest })) else s

end Sys2Proof.Machine
end

