-- ==== Sys2Proof/Machine/Integer.lean ====
section
/-! DEFINITION. Integer, logic, shift, bit-field, move, address and predicate instructions: opcodes 0x01 to 0x1B (16 R317 to R331). -/

namespace Sys2Proof.Machine

/-- Operands and destination of a three-register form. -/
def regs3 (d a b : BitVec 7) : Uses := { rd := [a.toNat, b.toNat], wr := [d.toNat] }

/-- Operand and destination of a two-register form. -/
def regs2 (d a : BitVec 7) : Uses := { rd := [a.toNat], wr := [d.toNat] }

/-- Width of fn of ADD, SUB and MAD (16 Table 16.1). -/
def addWidth (f : Nat) : Nat := if f % 2 = 0 then 64 else 32

/-- Signedness of fn of ADD, SUB and MAD: the last two forms are unsigned. -/
def addSigned (f : Nat) : Bool := decide (f < 4)

/-- Wrap or saturation of an exact sum by fn (16 Table 16.1). -/
def addResult (f : Nat) (x : Int) : Dword :=
  ofNat64 (wrapNat (addWidth f) (if 2 ≤ f then satInt (addWidth f) (addSigned f) x else x))

def execAdd (d a b : BitVec 7) (f : BitVec 4) : State → Host.Outcome State Fault Refusal :=
  let rd := fun (x : Fibre) (r : BitVec 7) => lowInt (addWidth f.toNat) (addSigned f.toNat) (x.reg r.toNat)
  isa 1 (regs3 d a b) (onFibre fun x => x.setReg d.toNat (addResult f.toNat (rd x a + rd x b)))

def execSub (d a b : BitVec 7) (f : BitVec 4) : State → Host.Outcome State Fault Refusal :=
  let rd := fun (x : Fibre) (r : BitVec 7) => lowInt (addWidth f.toNat) (addSigned f.toNat) (x.reg r.toNat)
  isa 1 (regs3 d a b) (onFibre fun x => x.setReg d.toNat (addResult f.toNat (rd x a - rd x b)))

def execMad (d a b : BitVec 7) (f : BitVec 4) : State → Host.Outcome State Fault Refusal :=
  let rd := fun (x : Fibre) (r : BitVec 7) => lowInt (addWidth f.toNat) (addSigned f.toNat) (x.reg r.toNat)
  isa 1 { rd := [a.toNat, b.toNat, d.toNat], wr := [d.toNat] }
    (onFibre fun x => x.setReg d.toNat (addResult f.toNat (rd x d + rd x a * rd x b)))

def execAddi (d a : BitVec 7) (i : BitVec 11) : State → Host.Outcome State Fault Refusal :=
  isa 1 (regs2 d a) (onFibre fun x => x.setReg d.toNat (x.reg a.toNat + wrap64 (immS i)))

/-- MUL (16 R319): fn bit 0 width, bit 1 half, bit 2 unsigned. -/
def mulResult (f : Nat) (a b : Dword) : Dword :=
  let n := if f % 2 = 0 then 64 else 32
  let signed := decide (f < 4)
  let p := lowInt n signed a * lowInt n signed b
  ofNat64 (wrapNat n (if bitsOf f 1 1 = 0 then p else p / 2 ^ n))

def execMul (d a b : BitVec 7) (f : BitVec 4) : State → Host.Outcome State Fault Refusal :=
  isa 1 (regs3 d a b) (onFibre fun x => x.setReg d.toNat (mulResult f.toNat (x.reg a.toNat) (x.reg b.toNat)))

/-- The quotient of `n`-bit operands rounded toward zero, with the cases of 16 Table 16.2. -/
def divResult (n : Nat) (signed : Bool) (a b : Dword) : Dword :=
  let x := lowInt n signed a
  let y := lowInt n signed b
  ofNat64 (wrapNat n (if y = 0 then -1 else x.tdiv y))

/-- The remainder with the sign of the dividend, with the cases of 16 Table 16.2. -/
def remResult (n : Nat) (signed : Bool) (a b : Dword) : Dword :=
  let x := lowInt n signed a
  let y := lowInt n signed b
  ofNat64 (wrapNat n (if y = 0 then x else x.tmod y))

/-- Operand width of a width bit: 0 for 64, 1 for 32. -/
def widthOf (w : BitVec 1) : Nat := if w = 0 then 64 else 32

def execDiv (d a b : BitVec 7) (s w : BitVec 1) : State → Host.Outcome State Fault Refusal :=
  isa 1 (regs3 d a b) (onFibre fun x =>
    x.setReg d.toNat (divResult (widthOf w) (s == 0) (x.reg a.toNat) (x.reg b.toNat)))

def execRem (d a b : BitVec 7) (s w : BitVec 1) : State → Host.Outcome State Fault Refusal :=
  isa 1 (regs3 d a b) (onFibre fun x =>
    x.setReg d.toNat (remResult (widthOf w) (s == 0) (x.reg a.toNat) (x.reg b.toNat)))

/-- MINMAX (16 R321): equal operands give A. -/
def minmaxResult (n : Nat) (signed max : Bool) (a b : Dword) : Dword :=
  let x := lowInt n signed a
  let y := lowInt n signed b
  ofNat64 (lowNat n (if max then (if x < y then b else a) else (if y < x then b else a)))

def execMinmax (d a b : BitVec 7) (c m w : BitVec 1) : State → Host.Outcome State Fault Refusal :=
  isa 1 (regs3 d a b) (onFibre fun x =>
    x.setReg d.toNat (minmaxResult (widthOf w) (c == 0) (m == 1) (x.reg a.toNat) (x.reg b.toNat)))

def execAndR (d a b : BitVec 7) : State → Host.Outcome State Fault Refusal :=
  isa 1 (regs3 d a b) (onFibre fun x => x.setReg d.toNat (x.reg a.toNat &&& x.reg b.toNat))

def execOrR (d a b : BitVec 7) : State → Host.Outcome State Fault Refusal :=
  isa 1 (regs3 d a b) (onFibre fun x => x.setReg d.toNat (x.reg a.toNat ||| x.reg b.toNat))

def execXorR (d a b : BitVec 7) : State → Host.Outcome State Fault Refusal :=
  isa 1 (regs3 d a b) (onFibre fun x => x.setReg d.toNat (x.reg a.toNat ^^^ x.reg b.toNat))

def execAndn (d a b : BitVec 7) : State → Host.Outcome State Fault Refusal :=
  isa 1 (regs3 d a b) (onFibre fun x => x.setReg d.toNat (x.reg a.toNat &&& ~~~ x.reg b.toNat))

def execAndi (d a : BitVec 7) (i : BitVec 11) : State → Host.Outcome State Fault Refusal :=
  isa 1 (regs2 d a) (onFibre fun x => x.setReg d.toNat (x.reg a.toNat &&& wrap64 (immS i)))

def execOri (d a : BitVec 7) (i : BitVec 11) : State → Host.Outcome State Fault Refusal :=
  isa 1 (regs2 d a) (onFibre fun x => x.setReg d.toNat (x.reg a.toNat ||| wrap64 (immS i)))

def execXori (d a : BitVec 7) (i : BitVec 11) : State → Host.Outcome State Fault Refusal :=
  isa 1 (regs2 d a) (onFibre fun x => x.setReg d.toNat (x.reg a.toNat ^^^ wrap64 (immS i)))

/-- A shift of the low `n` bits by a count below `n`: 0 left, 1 logical right, 2 arithmetic right, 3 rotate right (16 R323). -/
def shiftResult (n kind count : Nat) (a : Dword) : Dword :=
  let x := lowNat n a
  ofNat64 (match kind with
    | 0 => x * 2 ^ count % 2 ^ n
    | 1 => x / 2 ^ count
    | 2 => wrapNat n (lowInt n true a / 2 ^ count)
    | _ => (x / 2 ^ count + x * 2 ^ (n - count)) % 2 ^ n)

def execShift (d a b : BitVec 7) (w : BitVec 1) (k : BitVec 2) : State → Host.Outcome State Fault Refusal :=
  isa 1 (regs3 d a b) (onFibre fun x =>
    x.setReg d.toNat (shiftResult (widthOf w) k.toNat ((x.reg b.toNat).toNat % widthOf w) (x.reg a.toNat)))

def execShifti (d a : BitVec 7) (w : BitVec 1) (k : BitVec 2) (c : BitVec 6) : State → Host.Outcome State Fault Refusal :=
  isa 1 (regs2 d a) (onFibre fun x =>
    x.setReg d.toNat (shiftResult (widthOf w) k.toNat c.toNat (x.reg a.toNat)))

def execBfx (d a : BitVec 7) (l : BitVec 5) (p : BitVec 6) : State → Host.Outcome State Fault Refusal :=
  isa 1 (regs2 d a) (onFibre fun x =>
    x.setReg d.toNat (ofNat64 (bitsOf (x.reg a.toNat).toNat p.toNat (l.toNat + 1))))

/-- BFI (16 R324): `len` bits at `pos` replaced; field bits above 63 are dropped. -/
def bfiResult (pos len : Nat) (d a : Dword) : Dword :=
  let mask : Dword := ofNat64 ((2 ^ len - 1) * 2 ^ pos)
  (d &&& ~~~ mask) ||| (ofNat64 (lowNat len a * 2 ^ pos) &&& mask)

def execBfi (d a : BitVec 7) (l : BitVec 5) (p : BitVec 6) : State → Host.Outcome State Fault Refusal :=
  isa 1 { rd := [a.toNat, d.toNat], wr := [d.toNat] } (onFibre fun x =>
    x.setReg d.toNat (bfiResult p.toNat (l.toNat + 1) (x.reg d.toNat) (x.reg a.toNat)))

/-- The bits of a number of `n` bits, bit 0 first. -/
def bitList (n v : Nat) : List Bool := (List.range n).map (fun i => v.testBit i)

/-- The number of a bit list, bit 0 first. -/
def natOfBits : List Bool → Nat
  | [] => 0
  | b :: bs => bit b + 2 * natOfBits bs

/-- BITOP (16 R325): fn bit 0 is the width, the rest names the operation. -/
def bitopResult (f : Nat) (a : Dword) : Dword :=
  let n := if f % 2 = 0 then 64 else 32
  let x := lowNat n a
  let bs := bitList n x
  ofNat64 (match f / 2 with
    | 0 => (bs.reverse.takeWhile (fun b => !b)).length
    | 1 => (bs.takeWhile (fun b => !b)).length
    | 2 => bs.countP (fun b => b)
    | 3 => natOfBits bs.reverse
    | _ => natOfBytes (bytesOfNat (n / 8) x).reverse)

def execBitop (d a : BitVec 7) (f : BitVec 4) : State → Host.Outcome State Fault Refusal :=
  isa 1 (regs2 d a) (onFibre fun x => x.setReg d.toNat (bitopResult f.toNat (x.reg a.toNat)))

/-- MOV forms 0 to 6 (16 Table 16.3). -/
def movResult (f : Nat) (a : Dword) : Dword :=
  match f with
  | 0 => a
  | 1 => wrap64 (lowInt 8 true a)
  | 2 => wrap64 (lowInt 16 true a)
  | 3 => wrap64 (lowInt 32 true a)
  | 4 => ofNat64 (lowNat 8 a)
  | 5 => ofNat64 (lowNat 16 a)
  | _ => ofNat64 (lowNat 32 a)

def execMov (d a : BitVec 7) (f : BitVec 4) : State → Host.Outcome State Fault Refusal :=
  isa 1 (regs2 d a) (onFibre fun x => x.setReg d.toNat (movResult f.toNat (x.reg a.toNat)))

/-- Predicates 0 to 31: the whole predicate word is read or written. -/
def allPreds : List Nat := List.range 32

def execMovRdp (d : BitVec 7) : State → Host.Outcome State Fault Refusal :=
  isa 1 { wr := [d.toNat], prd := allPreds } (onFibre fun x =>
    x.setReg d.toNat ((predWord x.pred).setWidth 64))

def execMovWrp (a : BitVec 7) : State → Host.Outcome State Fault Refusal :=
  isa 1 { rd := [a.toNat], pwr := allPreds } (onFibre fun x =>
    { x with pred := predWord ((x.reg a.toNat).setWidth 32) })

/-- The special register of a code, zero-extended (16 R326). -/
def specialReg (x : Fibre) (c : Nat) : Dword :=
  match c with
  | 0 => x.lk.setWidth 64
  | 1 => x.csp.setWidth 64
  | 2 => x.fmode.setWidth 64
  | 3 => x.fflags.setWidth 64
  | _ => x.srseed.setWidth 64

/-- A write of the special register of a code: bits [63:52] of lk and csp are ignored, reserved bits of fmode and fflags too, and srseed is never 0 (07 R147). -/
def setSpecial (x : Fibre) (c : Nat) (v : Dword) : Fibre :=
  match c with
  | 0 => { x with lk := v.setWidth 52 }
  | 1 => { x with csp := v.setWidth 52 }
  | 2 => { x with fmode := v.setWidth 16 &&& 0x00FB }
  | 3 => { x with fflags := v.setWidth 16 &&& 0x001F }
  | _ => { x with srseed := if v.setWidth 32 = 0 then 1 else v.setWidth 32 }

def execMovFromSpecial (d c : BitVec 7) : State → Host.Outcome State Fault Refusal :=
  isa 1 { wr := [d.toNat] } (onFibre fun x => x.setReg d.toNat (specialReg x c.toNat))

def execMovToSpecial (c a : BitVec 7) : State → Host.Outcome State Fault Refusal :=
  isa 1 { rd := [a.toNat] } (onFibre fun x => setSpecial x c.toNat (x.reg a.toNat))

def execMovi (d : BitVec 7) (i : BitVec 11) : State → Host.Outcome State Fault Refusal :=
  isa 1 { wr := [d.toNat] } (onFibre fun x => x.setReg d.toNat (wrap64 (immS i)))

def execMovl (d : BitVec 7) (l : BitVec 32) : State → Host.Outcome State Fault Refusal :=
  isa 2 { wr := [d.toNat] } (onFibre fun x => x.setReg d.toNat (l.setWidth 64))

def execMovlS (d : BitVec 7) (l : BitVec 32) : State → Host.Outcome State Fault Refusal :=
  isa 2 { wr := [d.toNat] } (onFibre fun x => x.setReg d.toNat (l.signExtend 64))

def execMovlHi (d : BitVec 7) (l : BitVec 32) : State → Host.Outcome State Fault Refusal :=
  isa 2 { rd := [d.toNat], wr := [d.toNat] } (onFibre fun x =>
    x.setReg d.toNat (ofNat64 (l.toNat * 2 ^ 32 + lowNat 32 (x.reg d.toNat))))

def execLea (d a b : BitVec 7) (x : BitVec 1) (s : BitVec 3) : State → Host.Outcome State Fault Refusal :=
  isa 1 (regs3 d a b) (onFibre fun f =>
    let v := if x = 1 then wrap64 (lowInt 32 true (f.reg b.toNat)) else f.reg b.toNat
    f.setReg d.toNat (f.reg a.toNat + (v <<< s.toNat)))

/-- Predicates a compare reads and writes: the old value counts unless combine is "set". -/
def cmpPreds (p : BitVec 5) : List Nat := [p.toNat]

def execCmp (p : BitVec 5) (c : BitVec 2) (a b : BitVec 7) (n : BitVec 4) : State → Host.Outcome State Fault Refusal :=
  isa 1 { rd := [a.toNat, b.toNat], pwr := cmpPreds p } (onFibre fun x =>
    x.combinePred p c (condHolds n.toNat (x.reg a.toNat) (x.reg b.toNat)))

def execCmpi (p : BitVec 5) (c : BitVec 2) (a i : BitVec 7) (n : BitVec 4) : State → Host.Outcome State Fault Refusal :=
  isa 1 { rd := [a.toNat], pwr := cmpPreds p } (onFibre fun x =>
    x.combinePred p c (condHolds n.toNat (x.reg a.toNat) (wrap64 (immS i))))

def execPlog (p : BitVec 5) (c : BitVec 2) (x y : BitVec 5) (t : BitVec 4) : State → Host.Outcome State Fault Refusal :=
  isa 1 { prd := [x.toNat, y.toNat], pwr := cmpPreds p } (onFibre fun f =>
    f.combinePred p c (t.getLsbD (2 * bit (f.predBit x.toNat) + bit (f.predBit y.toNat))))

/-- PRED (16 R331, 15 R303): its predicate is read now, and the next span + 1 instructions of the clause execute when it agrees. -/
def execPred (p : BitVec 5) (n : BitVec 1) (s : BitVec 3) : State → Host.Outcome State Fault Refusal :=
  isa 1 { prd := [p.toNat] } (fun r _ f st =>
    let w := BitVec.ofNat 32 (pack25_20_19_16 0x1B p.toNat n.toNat s.toNat)
    .ok (st.updFibre r (fun x => { x with
      clause := x.clause.map (fun c => { c with
        span := s.toNat + 2
        spanOn := f.predBit p.toNat != (n == 1)
        pfx := some w }) })))

end Sys2Proof.Machine
end

