-- ==== Sys2Proof/Machine/Return.lean ====
section
/-! DEFINITION. RFT, opcode 0x28 (16 R340, 14 R282, R283): the loads of the handler frame, and the return. -/

namespace Sys2Proof.Machine

/-- The sixteen dwords of a frame, from the number they form. -/
def frameWords (v : Nat) : List Dword := (List.range 16).map (fun k => ofNat64 (bitsOf v (64 * k) 64))

/-- RFT: the frame at csp is read by plain loads, which may wait or fault as any load, then the fibre returns (14 R282). -/
def rft (mode : Nat) (r : FibreRef) (t : Team) (f : Fibre) (s : State) : Act :=
  if f.handler.isNone then .error (.trap .illegal)
  else
    match recordAt r t f f.csp.toNat 16 0 s with
    | .error e => .error e
    | .ok (v, s) => returnFromTrap mode (frameWords v) r t f (s.takeAnswers r f.seq)

def execRftResume : State → Host.Outcome State Fault Refusal := isa 1 {} (rft 0)

def execRftSkip : State → Host.Outcome State Fault Refusal := isa 1 {} (rft 1)

def execRftKill : State → Host.Outcome State Fault Refusal := isa 1 {} (rft 2)

end Sys2Proof.Machine
end

