-- ==== Sys2Proof/Machine/Turn.lean ====
section
/-! DEFINITION. One turn of a fibre: the start of a clause (15 R290, R291), pending traps at a clause boundary (14 R274, R275; 06 R135), fetching and decoding the next instruction, and predicated-off instructions (15 R303). -/

namespace Sys2Proof.Machine

/-- Eligible for a team interrupt (05 R102). -/
def Fibre.eligible (f : Fibre) : Bool :=
  f.live && !f.parked && f.away.isNone && f.handler.isNone && f.entering.isNone

/-- A handler entry of a team interrupt is open (06 R135). -/
def Team.irqOpen (t : Team) : Bool :=
  t.fibres.any (fun f =>
    (match f.handler with | some h => h.cause == 0x0D || h.cause == 0x0E | none => false) ||
    (match f.entering with | some e => e.cause == 0x0D || e.cause == 0x0E | none => false))

/-- The interrupt that waits to be taken, and the fibre it goes to: budget before pre-emption (14 R274), fibre 0 when eligible, else the lowest-indexed eligible one (05 R102, 06 R135). -/
def Team.interruptDue (t : Team) : Option (Nat × Nat) :=
  if t.irqOpen then none
  else
    match t.fibres.find? Fibre.eligible with
    | none => none
    | some f =>
      if t.budgetTrap then some (f.idx, 0x0D)
      else if t.preemptTrap then some (f.idx, 0x0E)
      else none

/-- Taken out of a block to enter a handler: an arrival or a signature stays recorded, a waiter is withdrawn (06 R135, 17 R363). -/
def State.leaveBlock (s : State) (r : FibreRef) (f : Fibre) : State :=
  match f.status with
  | .rendezvous a m since => s.updFibre r (fun x => { x with status := .ready, held := some (.arrived a m since f.regs f.fmode) })
  | .signed c => s.updFibre r (fun x => { x with status := .ready, held := some (.signed c) })
  | .tagWait _ =>
    let s := { s with coh := { s.coh with waiters := s.coh.waiters.filter (fun w => w.who != r) } }
    s.updFibre r (fun x =>
      let ops := x.ll.filter (fun op => match op.kind with | .tagWait .. => true | _ => false)
      let x := ops.foldl (fun x op => x.countDown op.counter) x
      { x with
        status := .ready
        ll := x.ll.filter (fun op => match op.kind with | .tagWait .. => false | _ => true) })
  | _ => s.updFibre r (fun x => { x with status := .ready })

/-- Blocked at BWAIT, CHAN.wait, TAKE or WAITF, a rendezvous or a signed MMA (07 R149). -/
def Fibre.blocked (f : Fibre) : Bool :=
  match f.status with
  | .bwait _ _ => true
  | .chanWait _ _ _ _ => true
  | .tagWait _ => true
  | .rendezvous _ _ _ => true
  | .signed _ => true
  | _ => false

/-- The fibre is blocked in BWAIT, CHAN.wait, WAITF or TAKE on a completion's barrier or word (14 R275). -/
def State.blockedOn (s : State) (r : FibreRef) (f : Fibre) (l : Loc) : Bool :=
  match f.status with
  | .bwait o _ => o == l
  | .chanWait o _ _ _ => o == l
  | .tagWait _ => s.coh.waiters.any (fun w => w.who == r && (match l with | .mem m => wordOf m.pa == wordOf w.m.pa | _ => false))
  | _ => false

/-- The team interrupt that is due to a fibre is taken (05 R102, 06 R135). -/
def State.takeDue (s : State) (r : FibreRef) (t : Team) (f : Fibre) : Option State :=
  match t.interruptDue with
  | some (i, cause) =>
    if i = r.fibre then
      let s := (s.leaveBlock r f).takeInterrupt r cause
      some (if cause = 0x0D then s.count t.ctx 0x23 1 else s)
    else none
  | none => none

/-- The pending trap a fibre takes where it stands: its asynchronous faults, then the team interrupt that is due to it (14 R274); a fibre in a handler takes none, and a blocked one only the faults of the completion it is blocked on (R275). -/
def State.takePending (s : State) (r : FibreRef) (t : Team) (f : Fibre) : Option State :=
  if f.handler.isSome then none
  else if !f.faults.isEmpty && (!f.blocked || f.faults.any (fun a => a.on.any (s.blockedOn r f))) then some ((s.leaveBlock r f).takeAsync r)
  else s.takeDue r t f

/-- The fibre has an instruction word on its way or at hand (04 R94). -/
def State.hasFetched (s : State) (r : FibreRef) : Bool := s.remote.any (fun o => o.who == RemoteWho.fetch r)

/-- A fetch does not come out: the fault of the fetch; or the word, of a page of class peer or host, is read, once, by a fibre of a full core, and brings one of a near core to the return trap (04 Table 4.6). -/
def State.fetchStops (s : State) (r : FibreRef) (t : Team) (f : Fibre) (e : Trap) : State :=
  if e.cause ≠ 0 then s.raiseAt r e [] 0
  else
    match f.nearSlot with
    | some (k, _, _) => s.beginReturnTrap r k
    | none => s.askWord r t f e.addr

/-- Words that a fibre has read for its turn are used once: they go when the turn has changed the state, unless it reads another one. -/
def State.dropFetched (s before : State) (r : FibreRef) : State :=
  if s = before ∨ s.remote.any (fun o => o.who == RemoteWho.fetch r && o.answer.isNone && !o.failed) then s
  else { s with remote := s.remote.filter (fun o => o.who != RemoteWho.fetch r) }

/-- CLAUSE_START: pending traps are taken, the clause is checked whole, and it starts once its wait mask is zero (15 R290, R291). The first clause after a launch or a release takes no interrupt (23 R442). -/
def startClause (r : FibreRef) (t : Team) (f : Fibre) (s : State) : State :=
  let pending := if f.firstClause ∧ f.faults.isEmpty then none else s.takePending r t f
  match pending with
  | some s => s
  | none =>
    let h := f.pc.toNat
    match clauseAt s t.ctx (dieOf t f) h with
    | .error e => s.fetchStops r t f e
    | .ok none => s.raiseAt r .illegal [] 0
    | .ok (some hdr) =>
      let mask := bitsOf hdr 7 12
      if (List.range 12).any (fun c => mask.testBit c && f.cf.getD c 0 != 0) then s
      else s.updFibre r (fun f => { f with
        pc := BitVec.ofNat 52 (h + 4)
        clause := some ⟨h, BitVec.ofNat 32 hdr, 0, 0, true, none⟩
        firstClause := false
        since := s.aclk })

def execClauseStart (s : State) : Host.Outcome State Fault Refusal :=
  match s.current with
  | none => .fault .noFibre
  | some (r, t, f) =>
    match f.clause, f.entering with
    | none, none => .next (startClause r t f s)
    | _, _ => .next s

/-- The next instruction of a fibre inside a clause: its words fetched and decoded. -/
inductive Fetched where
  | trap (t : Trap)
  | instr (i : Instr) (len : Nat)
  deriving DecidableEq, Repr

/-- Fetch and decode at `pc`: a failed fetch is that fault, a word that is no instruction is the illegal-instruction fault. -/
def fetchInstr (s : State) (ctx die pc : Nat) : Fetched :=
  match fetchWord s ctx die pc with
  | .error t => .trap t
  | .ok w0 =>
    let n := lengthOf w0
    match (List.range (n - 1)).mapM (fun k => fetchWord s ctx die (pc + 4 + 4 * k)) with
    | .error t => .trap t
    | .ok ws =>
      match decode w0 (ws.getD 0 0) (ws.getD 1 0) (ws.getD 2 0) with
      | .ok i => .instr i n
      | .error _ => .trap .illegal

/-- The team is being swapped out, on its core still (06 R136, R138). -/
def Team.leaving (t : Team) : Bool := (t.state == .saving || t.state == .discarding) && t.core.isSome

/-- A fibre may execute: it is live and on its core or in a near-core or service slot, it enters no handler, and its team issues; at a swap point a fibre inside an atomic clause first completes it, unless it has been stopped there (06 R136, R137). On a service slot it executes the instruction it came for, and an emulation handler of it (10 R224). -/
def mayIssue (t : Team) (f : Fibre) : Bool :=
  f.live && !f.parked && !f.stopped && f.entering.isNone &&
  (match f.away with
   | none => t.resident || (t.leaving && (match f.clause with | some c => hdrAtomic c.hdr | none => false))
   | some (.near _ _ _) => true
   | some (.service _ _ pc) => f.pc.toNat == pc || f.handler.isSome
   | some _ => false)

/-- The instructions of an atomic clause that can wait on a condition outside the fibre (15 R294): engine commands, SRCH.scan, FENCE.heavy, TDEF form 0, TLD.dem, PLACE.seal, PLACE.unseal, a FENCE at system scope, EXIT. -/
def waitsOutside (i : Instr) : Bool :=
  match i with
  | .tcopy .. => true
  | .srchWalkList .. => true
  | .srchWalkHash .. => true
  | .srchWalkKv .. => true
  | .srchDrain .. => true
  | .chain .. => true
  | .placeConvert .. => true
  | .srchScan .. => true
  | .fenceHeavy .. => true
  | .tdef .. => true
  | .tldDem .. => true
  | .placeSeal .. => true
  | .placeUnseal .. => true
  | .fence c _ => c == 5
  | .exitF => true
  | _ => false

/-- An instruction that is illegal whatever the state, and so also when it is predicated off: an EXT word of a number below 8 (15 R303, R307). -/
def neverLegal (i : Instr) : Bool :=
  match i with
  | .ext e .. => decide (e.toNat < 8)
  | _ => false

/-- A demand that a waiting instruction of a fibre carried is withdrawn. -/
def State.withdrawDemand (s : State) (r : FibreRef) : State :=
  { s with demands := s.demands.filter (fun d => !(d.who == .tld r || d.who == .seal r || d.who == .unseal r)) }

/-- A fibre waits inside an atomic clause at an instruction that can wait without bound: at a swap point of its team it is saved at that instruction, otherwise it takes the team interrupt that is due to it; the instruction has had no effect (15 R294, 06 R136). -/
def State.waitInside (s : State) (r : FibreRef) (t : Team) (f : Fibre) : State :=
  if t.leaving && f.away.isNone then (s.withdrawDemand r).updFibre r (fun f => { f with stopped := true })
  else if f.handler.isSome then s
  else ((s.withdrawDemand r).takeDue r t f).getD s

/-- One turn of fibre `r`, with the meaning of instructions given by `run`, and the words it has read. -/
def fetchedTurn (run : Instr → State → Host.Outcome State Fault Refusal) (r : FibreRef) (s : State) :
    Host.Outcome State Fault Refusal :=
  let s := { s with cur := some r }
  match s.current with
  | none => .next s
  | some (_, t, f) =>
    if f.entering.isSome then .next (s.tryEnter r)
    else if let .poisoned va := f.status then .next (if t.resident || f.away.isSome then s.raiseAt r (mkTrap 0x12 0 va) [] 0 else s)
    else if !mayIssue t f then .next s
    else if f.blocked then
      .next ((s.takePending r t f).getD s)
    else
      match f.clause with
      | none => run .clauseStart s
      | some c =>
        let s := s.updFibre r Fibre.notePrefix
        match fetchInstr s t.ctx (dieOf t f) f.pc.toNat with
        | .trap e => .next (s.fetchStops r t f e)
        | .instr i len =>
          if c.span ≠ 0 ∧ !c.spanOn then
            (if windowOf t f ≤ topReg i ∨ neverLegal i then .next (s.raiseAt r .illegal [] 0)
             else .next (s.updFibre r (fun f => f.pass len (isLong i) s.aclk)))
          else
            match run i s with
            | .next s' =>
              if s' = s ∧ hdrAtomic c.hdr ∧ waitsOutside i then .next (s.waitInside r t f)
              else .next s'
            | o => o

/-- One turn of fibre `r`. -/
def fibreTurn (run : Instr → State → Host.Outcome State Fault Refusal) (r : FibreRef) (s : State) :
    Host.Outcome State Fault Refusal :=
  if !s.hasFetched r then fetchedTurn run r s
  else
    match fetchedTurn run r s with
    | .next t => .next (t.dropFetched { s with cur := some r } r)
    | o => o

end Sys2Proof.Machine
end

