-- ==== Sys2Proof/Machine/Dispatch.lean ====
section
/-! DEFINITION. The meaning of every step of the table: one arm per constructor of Instr, each one call of its meaning. -/

namespace Sys2Proof.Machine

/-- What one step of the table does to the machine. -/
def exec (i : Instr) (s : State) : Host.Outcome State Fault Refusal :=
  match i with
  | .powerGood dead ports host => Sys2Proof.Machine.execPowerGood dead ports host s
  | .moduleReset dead ports host => Sys2Proof.Machine.execModuleReset dead ports host s
  | .junctionStop temp => Sys2Proof.Machine.execJunctionStop temp s
  | .thermalGuardEvaluation gaps temp excursion => Sys2Proof.Machine.execThermalGuardEvaluation gaps temp excursion s
  | .createContext m => Sys2Proof.Machine.execCreateContext m s
  | .destroyContext m => Sys2Proof.Machine.execDestroyContext m s
  | .setReservations m => Sys2Proof.Machine.execSetReservations m s
  | .mapMemory m => Sys2Proof.Machine.execMapMemory m s
  | .unmapMemory m => Sys2Proof.Machine.execUnmapMemory m s
  | .dieSweepAnswer die => Sys2Proof.Machine.execDieSweepAnswer die s
  | .loadImage m => Sys2Proof.Machine.execLoadImage m s
  | .loadGraph m => Sys2Proof.Machine.execLoadGraph m s
  | .unloadGraph m => Sys2Proof.Machine.execUnloadGraph m s
  | .createQueuePair m => Sys2Proof.Machine.execCreateQueuePair m s
  | .destroyQueuePair m => Sys2Proof.Machine.execDestroyQueuePair m s
  | .grantPeerAccess m => Sys2Proof.Machine.execGrantPeerAccess m s
  | .setGrid m => Sys2Proof.Machine.execSetGrid m s
  | .portUp m => Sys2Proof.Machine.execPortUp m s
  | .setLinkParameters m => Sys2Proof.Machine.execSetLinkParameters m s
  | .readCounters m => Sys2Proof.Machine.execReadCounters m s
  | .readRecords m => Sys2Proof.Machine.execReadRecords m s
  | .attest m => Sys2Proof.Machine.execAttest m s
  | .firmwareLoad m => Sys2Proof.Machine.execFirmwareLoad m s
  | .raiseSecurityMinimum m => Sys2Proof.Machine.execRaiseSecurityMinimum m s
  | .resetMsg m => Sys2Proof.Machine.execResetMsg m s
  | .unassignedMessageType m => Sys2Proof.Machine.execUnassignedMessageType m s
  | .rdmaWriteReceived qp key va bytes => Sys2Proof.Machine.execRdmaWriteReceived qp key va bytes s
  | .rdmaReadReceived qp key va len => Sys2Proof.Machine.execRdmaReadReceived qp key va len s
  | .rdmaFetchAddReceived qp key va v => Sys2Proof.Machine.execRdmaFetchAddReceived qp key va v s
  | .rdmaCompareSwapReceived qp key va cmp swap => Sys2Proof.Machine.execRdmaCompareSwapReceived qp key va cmp swap s
  | .rdmaInvalidRequest qp => Sys2Proof.Machine.execRdmaInvalidRequest qp s
  | .congestionNotificationReceived qp => Sys2Proof.Machine.execCongestionNotificationReceived qp s
  | .ecnMarkedPacketReceived qp => Sys2Proof.Machine.execEcnMarkedPacketReceived qp s
  | .pfcPauseFrame prio pause => Sys2Proof.Machine.execPfcPauseFrame prio pause s
  | .hostRdmaResponse op ok bytes => Sys2Proof.Machine.execHostRdmaResponse op ok bytes s
  | .hostWriteAck op ok => Sys2Proof.Machine.execHostWriteAck op ok s
  | .qpAckTimeout qp => Sys2Proof.Machine.execQpAckTimeout qp s
  | .flitSend port => Sys2Proof.Machine.execFlitSend port s
  | .badFlitReceived port => Sys2Proof.Machine.execBadFlitReceived port s
  | .linkControlFlit port f => Sys2Proof.Machine.execLinkControlFlit port f s
  | .ackReturnTimer port => Sys2Proof.Machine.execAckReturnTimer port s
  | .replayTimeout port => Sys2Proof.Machine.execReplayTimeout port s
  | .linkRetrainDone port ok => Sys2Proof.Machine.execLinkRetrainDone port ok s
  | .peerReadRequest port f => Sys2Proof.Machine.execPeerReadRequest port f s
  | .peerWriteRequest port f => Sys2Proof.Machine.execPeerWriteRequest port f s
  | .peerAtomicRequest port f => Sys2Proof.Machine.execPeerAtomicRequest port f s
  | .peerReadResponse port f => Sys2Proof.Machine.execPeerReadResponse port f s
  | .peerWriteAck port f => Sys2Proof.Machine.execPeerWriteAck port f s
  | .peerAtomicResponse port f => Sys2Proof.Machine.execPeerAtomicResponse port f s
  | .reductionContribution port f => Sys2Proof.Machine.execReductionContribution port f s
  | .topKContribution port f => Sys2Proof.Machine.execTopKContribution port f s
  | .contributionAck port f => Sys2Proof.Machine.execContributionAck port f s
  | .collectiveOpen port f => Sys2Proof.Machine.execCollectiveOpen port f s
  | .collectiveOpenAck port f => Sys2Proof.Machine.execCollectiveOpenAck port f s
  | .collectiveResult port f => Sys2Proof.Machine.execCollectiveResult port f s
  | .collectiveClose port f => Sys2Proof.Machine.execCollectiveClose port f s
  | .collectiveCloseAck port f => Sys2Proof.Machine.execCollectiveCloseAck port f s
  | .jobReady inst node => Sys2Proof.Machine.execJobReady inst node s
  | .jobComplete inst node => Sys2Proof.Machine.execJobComplete inst node s
  | .sealNodeComplete inst node => Sys2Proof.Machine.execSealNodeComplete inst node s
  | .restoreComplete team => Sys2Proof.Machine.execRestoreComplete team s
  | .redirectEntryCompletion team => Sys2Proof.Machine.execRedirectEntryCompletion team s
  | .longLatencyDrop team fibre slot => Sys2Proof.Machine.execLongLatencyDrop team fibre slot s
  | .storePerform team fibre => Sys2Proof.Machine.execStorePerform team fibre s
  | .collapseProbe line die => Sys2Proof.Machine.execCollapseProbe line die s
  | .cuttingFill line die => Sys2Proof.Machine.execCuttingFill line die s
  | .resizeSwitchPoint team fibre slot => Sys2Proof.Machine.execResizeSwitchPoint team fibre slot s
  | .engineLanding cmd => Sys2Proof.Machine.execEngineLanding cmd s
  | .engineCompletionWord cmd => Sys2Proof.Machine.execEngineCompletionWord cmd s
  | .mmaComplete resid => Sys2Proof.Machine.execMmaComplete resid s
  | .scanStart stack => Sys2Proof.Machine.execScanStart stack s
  | .scanComplete cmd stack => Sys2Proof.Machine.execScanComplete cmd stack s
  | .scanRefreshPause stack => Sys2Proof.Machine.execScanRefreshPause stack s
  | .scanResume stack => Sys2Proof.Machine.execScanResume stack s
  | .walkStep cmd => Sys2Proof.Machine.execWalkStep cmd s
  | .hopLand team fibre => Sys2Proof.Machine.execHopLand team fibre s
  | .nearSlotEntry stack => Sys2Proof.Machine.execNearSlotEntry stack s
  | .hopHomeArrival team fibre => Sys2Proof.Machine.execHopHomeArrival team fibre s
  | .returnTrap team fibre => Sys2Proof.Machine.execReturnTrap team fibre s
  | .returnTrapResume team fibre => Sys2Proof.Machine.execReturnTrapResume team fibre s
  | .slotLanding cmd => Sys2Proof.Machine.execSlotLanding cmd s
  | .permitReturn ctx ch => Sys2Proof.Machine.execPermitReturn ctx ch s
  | .conversionInput ctx tid axis coord cells => Sys2Proof.Machine.execConversionInput ctx tid axis coord cells s
  | .conversionComplete ctx tid => Sys2Proof.Machine.execConversionComplete ctx tid s
  | .add d a b f => Sys2Proof.Machine.execAdd d a b f s
  | .sub d a b f => Sys2Proof.Machine.execSub d a b f s
  | .addi d a im => Sys2Proof.Machine.execAddi d a im s
  | .mul d a b f => Sys2Proof.Machine.execMul d a b f s
  | .mad d a b f => Sys2Proof.Machine.execMad d a b f s
  | .div d a b sp w => Sys2Proof.Machine.execDiv d a b sp w s
  | .rem d a b sp w => Sys2Proof.Machine.execRem d a b sp w s
  | .minmax d a b c m w => Sys2Proof.Machine.execMinmax d a b c m w s
  | .andR d a b => Sys2Proof.Machine.execAndR d a b s
  | .orR d a b => Sys2Proof.Machine.execOrR d a b s
  | .xorR d a b => Sys2Proof.Machine.execXorR d a b s
  | .andn d a b => Sys2Proof.Machine.execAndn d a b s
  | .andi d a im => Sys2Proof.Machine.execAndi d a im s
  | .ori d a im => Sys2Proof.Machine.execOri d a im s
  | .xori d a im => Sys2Proof.Machine.execXori d a im s
  | .shift d a b w k => Sys2Proof.Machine.execShift d a b w k s
  | .shifti d a w k c => Sys2Proof.Machine.execShifti d a w k c s
  | .bfx d a l p => Sys2Proof.Machine.execBfx d a l p s
  | .bfi d a l p => Sys2Proof.Machine.execBfi d a l p s
  | .bitop d a f => Sys2Proof.Machine.execBitop d a f s
  | .mov d a f => Sys2Proof.Machine.execMov d a f s
  | .movRdp d => Sys2Proof.Machine.execMovRdp d s
  | .movWrp a => Sys2Proof.Machine.execMovWrp a s
  | .movFromSpecial d c => Sys2Proof.Machine.execMovFromSpecial d c s
  | .movToSpecial c a => Sys2Proof.Machine.execMovToSpecial c a s
  | .movi d im => Sys2Proof.Machine.execMovi d im s
  | .movl d l => Sys2Proof.Machine.execMovl d l s
  | .movlS d l => Sys2Proof.Machine.execMovlS d l s
  | .movlHi d l => Sys2Proof.Machine.execMovlHi d l s
  | .lea d a b x sp => Sys2Proof.Machine.execLea d a b x sp s
  | .cmp p c a b n => Sys2Proof.Machine.execCmp p c a b n s
  | .cmpi p c a im n => Sys2Proof.Machine.execCmpi p c a im n s
  | .plog p c x y t => Sys2Proof.Machine.execPlog p c x y t s
  | .pred p n sp => Sys2Proof.Machine.execPred p n sp s
  | .bra p n o => Sys2Proof.Machine.execBra p n o s
  | .call p n o => Sys2Proof.Machine.execCall p n o s
  | .jmp a => Sys2Proof.Machine.execJmp a s
  | .callr a => Sys2Proof.Machine.execCallr a s
  | .spawn d a b n key => Sys2Proof.Machine.execSpawn d a b n key s
  | .rebin d a b n key => Sys2Proof.Machine.execRebin d a b n key s
  | .trap im => Sys2Proof.Machine.execTrap im s
  | .sysrd d sp => Sys2Proof.Machine.execSysrd d sp s
  | .syswr a sp => Sys2Proof.Machine.execSyswr a sp s
  | .fence c k => Sys2Proof.Machine.execFence c k s
  | .fenceHeavy b => Sys2Proof.Machine.execFenceHeavy b s
  | .ld d b o sp z => Sys2Proof.Machine.execLd d b o sp z s
  | .st d b o sp z => Sys2Proof.Machine.execSt d b o sp z s
  | .lds d b c k sp z => Sys2Proof.Machine.execLds d b c k sp z s
  | .sts d b c k sp z => Sys2Proof.Machine.execSts d b c k sp z s
  | .ldp d b o sp z => Sys2Proof.Machine.execLdp d b o sp z s
  | .stp d b o sp z => Sys2Proof.Machine.execStp d b o sp z s
  | .stn d b o sp => Sys2Proof.Machine.execStn d b o sp s
  | .stm d b o sp => Sys2Proof.Machine.execStm d b o sp s
  | .ldnr d b p sp z => Sys2Proof.Machine.execLdnr d b p sp z s
  | .pref b o sp l => Sys2Proof.Machine.execPref b o sp l s
  | .preq d b o sp w => Sys2Proof.Machine.execPreq d b o sp w s
  | .atom32 d a b f c k r sp => Sys2Proof.Machine.execAtom32 d a b f c k r sp s
  | .atom64 d a b f c k r sp => Sys2Proof.Machine.execAtom64 d a b f c k r sp s
  | .cas d a b w c k sp => Sys2Proof.Machine.execCas d a b w c k sp s
  | .red a b f c k sp w => Sys2Proof.Machine.execRed a b f c k sp w s
  | .redf a b f t => Sys2Proof.Machine.execRedf a b f t s
  | .acqr a b sp => Sys2Proof.Machine.execAcqr a b sp s
  | .cacheFlush a => Sys2Proof.Machine.execCacheFlush a s
  | .cacheInval a => Sys2Proof.Machine.execCacheInval a s
  | .cacheRetain a => Sys2Proof.Machine.execCacheRetain a s
  | .cacheEvict a => Sys2Proof.Machine.execCacheEvict a s
  | .resize d a => Sys2Proof.Machine.execResize d a s
  | .resizeRel d a => Sys2Proof.Machine.execResizeRel d a s
  | .cacheWays d => Sys2Proof.Machine.execCacheWays d s
  | .rqdeg d a => Sys2Proof.Machine.execRqdeg d a s
  | .fill a c k => Sys2Proof.Machine.execFill a c k s
  | .fillVal a b c k => Sys2Proof.Machine.execFillVal a b c k s
  | .fillEmpty a c k => Sys2Proof.Machine.execFillEmpty a c k s
  | .take d b c k => Sys2Proof.Machine.execTake d b c k s
  | .waitf d b c k => Sys2Proof.Machine.execWaitf d b c k s
  | .cntdn d b c k => Sys2Proof.Machine.execCntdn d b c k s
  | .tagq d b o => Sys2Proof.Machine.execTagq d b o s
  | .binit a b c => Sys2Proof.Machine.execBinit a b c s
  | .binitFull a b c => Sys2Proof.Machine.execBinitFull a b c s
  | .arrive a c => Sys2Proof.Machine.execArrive a c s
  | .arriveExpect a b c => Sys2Proof.Machine.execArriveExpect a b c s
  | .bwait a b c => Sys2Proof.Machine.execBwait a b c s
  | .fadd d a b t => Sys2Proof.Machine.execFadd d a b t s
  | .fsub d a b t => Sys2Proof.Machine.execFsub d a b t s
  | .fmul d a b t => Sys2Proof.Machine.execFmul d a b t s
  | .ffma d a b t => Sys2Proof.Machine.execFfma d a b t s
  | .ffms d a b t => Sys2Proof.Machine.execFfms d a b t s
  | .fmin d a b t => Sys2Proof.Machine.execFmin d a b t s
  | .fmax d a b t => Sys2Proof.Machine.execFmax d a b t s
  | .fcmp p c a b t r => Sys2Proof.Machine.execFcmp p c a b t r s
  | .fcvt d a k sp r => Sys2Proof.Machine.execFcvt d a k sp r s
  | .frnd d a t r => Sys2Proof.Machine.execFrnd d a t r s
  | .ftoi d a t im sp r => Sys2Proof.Machine.execFtoi d a t im sp r s
  | .itof d a t im sp r => Sys2Proof.Machine.execItof d a t im sp r s
  | .fspec d a t f => Sys2Proof.Machine.execFspec d a t f s
  | .fdot d a b f => Sys2Proof.Machine.execFdot d a b f s
  | .fscale d a b t => Sys2Proof.Machine.execFscale d a b t s
  | .fscaleE8m0 d a b t => Sys2Proof.Machine.execFscaleE8m0 d a b t s
  | .kvmin d a b k => Sys2Proof.Machine.execKvmin d a b k s
  | .kvmax d a b k => Sys2Proof.Machine.execKvmax d a b k s
  | .xshf d a m k => Sys2Proof.Machine.execXshf d a m k s
  | .xred d a m f => Sys2Proof.Machine.execXred d a m f s
  | .xscan d a m e o => Sys2Proof.Machine.execXscan d a m e o s
  | .xvote d a m f => Sys2Proof.Machine.execXvote d a m f s
  | .xbcast d a m => Sys2Proof.Machine.execXbcast d a m s
  | .xbcastLane d a m => Sys2Proof.Machine.execXbcastLane d a m s
  | .xelect d m => Sys2Proof.Machine.execXelect d m s
  | .xelectIf d a m => Sys2Proof.Machine.execXelectIf d a m s
  | .xmatch d a m f => Sys2Proof.Machine.execXmatch d a m f s
  | .tdef a t => Sys2Proof.Machine.execTdef a t s
  | .tdefQuery d t sp => Sys2Proof.Machine.execTdefQuery d t sp s
  | .tdefBind a b t => Sys2Proof.Machine.execTdefBind a b t s
  | .tdefFill a t => Sys2Proof.Machine.execTdefFill a t s
  | .tdefBounds a t sp => Sys2Proof.Machine.execTdefBounds a t sp s
  | .tld d a b ts td => Sys2Proof.Machine.execTld d a b ts td s
  | .tldDem d a b ts td => Sys2Proof.Machine.execTldDem d a b ts td s
  | .tst d a b ts td => Sys2Proof.Machine.execTst d a b ts td s
  | .mma tile a b acc sat kind ta tb cv k n => Sys2Proof.Machine.execMma tile a b acc sat kind ta tb cv k n s
  | .accZero tile => Sys2Proof.Machine.execAccZero tile s
  | .accLd a tile t => Sys2Proof.Machine.execAccLd a tile t s
  | .accSt a b tile t r sat it => Sys2Proof.Machine.execAccSt a b tile t r sat it s
  | .accRd d a tile => Sys2Proof.Machine.execAccRd d a tile s
  | .metaLd a b off sp => Sys2Proof.Machine.execMetaLd a b off sp s
  | .metaCompress a b ts td k n => Sys2Proof.Machine.execMetaCompress a b ts td k n s
  | .metaExpand a b ts td k n => Sys2Proof.Machine.execMetaExpand a b ts td k n s
  | .metaRd d a => Sys2Proof.Machine.execMetaRd d a s
  | .cvdecl c a => Sys2Proof.Machine.execCvdecl c a s
  | .cvstat d c => Sys2Proof.Machine.execCvstat d c s
  | .cvclear c => Sys2Proof.Machine.execCvclear c s
  | .tcopy d a b t r j c => Sys2Proof.Machine.execTcopy d a b t r j c s
  | .chain d a c => Sys2Proof.Machine.execChain d a c s
  | .placeConvert d c t dem => Sys2Proof.Machine.execPlaceConvert d c t dem s
  | .placeSeal d t m => Sys2Proof.Machine.execPlaceSeal d t m s
  | .placeUnseal d t => Sys2Proof.Machine.execPlaceUnseal d t s
  | .placeQuery d t => Sys2Proof.Machine.execPlaceQuery d t s
  | .srchScan d a b mask k r c => Sys2Proof.Machine.execSrchScan d a b mask k r c s
  | .srchDist d a b e sp => Sys2Proof.Machine.execSrchDist d a b e sp s
  | .srchWalkList d a b ko no r c n => Sys2Proof.Machine.execSrchWalkList d a b ko no r c n s
  | .srchWalkHash d a b lb sb r c => Sys2Proof.Machine.execSrchWalkHash d a b lb sb r c s
  | .srchWalkKv d a b lb t lv r c => Sys2Proof.Machine.execSrchWalkKv d a b lb t lv r c s
  | .srchPush d a b => Sys2Proof.Machine.execSrchPush d a b s
  | .srchPop d a => Sys2Proof.Machine.execSrchPop d a s
  | .srchDrain d a b c sp => Sys2Proof.Machine.execSrchDrain d a b c sp s
  | .ixcommit d a b => Sys2Proof.Machine.execIxcommit d a b s
  | .ixver d a c k => Sys2Proof.Machine.execIxver d a c k s
  | .hop a => Sys2Proof.Machine.execHop a s
  | .chanConfig d a => Sys2Proof.Machine.execChanConfig d a s
  | .chanSend d a b ch => Sys2Proof.Machine.execChanSend d a b ch s
  | .chanSendAcc d b ch tile => Sys2Proof.Machine.execChanSendAcc d b ch tile s
  | .chanSendAccBf16 d b ch tile => Sys2Proof.Machine.execChanSendAccBf16 d b ch tile s
  | .chanWait d b ch ln => Sys2Proof.Machine.execChanWait d b ch ln s
  | .chanRelease b ch ln => Sys2Proof.Machine.execChanRelease b ch ln s
  | .wdqInit a q => Sys2Proof.Machine.execWdqInit a q s
  | .wdqNext d a q c => Sys2Proof.Machine.execWdqNext d a q c s
  | .wdqAnswer ctx q => Sys2Proof.Machine.execWdqAnswer ctx q s
  | .wdqReset q => Sys2Proof.Machine.execWdqReset q s
  | .ext e m p w1 w2 w3 => Sys2Proof.Machine.execExt e m p w1 w2 w3 s
  | .idleFlitReceived port f => Sys2Proof.Machine.execIdleFlitReceived port f s
  | .collapseAnswer line die => Sys2Proof.Machine.execCollapseAnswer line die s
  | .eventRnrRetry => Sys2Proof.Machine.execEventRnrRetry s
  | .coolantSensorPoll => Sys2Proof.Machine.execCoolantSensorPoll s
  | .lifetimeSample => Sys2Proof.Machine.execLifetimeSample s
  | .lifetimeFlashWrite => Sys2Proof.Machine.execLifetimeFlashWrite s
  | .loadImageQuiesced => Sys2Proof.Machine.execLoadImageQuiesced s
  | .cmConnectRequest => Sys2Proof.Machine.execCmConnectRequest s
  | .rateIncreasePeriod => Sys2Proof.Machine.execRateIncreasePeriod s
  | .contributionRetryTimer => Sys2Proof.Machine.execContributionRetryTimer s
  | .contributionAckTimeout => Sys2Proof.Machine.execContributionAckTimeout s
  | .collectiveIdleTimeout => Sys2Proof.Machine.execCollectiveIdleTimeout s
  | .instanceStart => Sys2Proof.Machine.execInstanceStart s
  | .dispatch => Sys2Proof.Machine.execDispatch s
  | .deadlineMiss => Sys2Proof.Machine.execDeadlineMiss s
  | .budgetExhausted => Sys2Proof.Machine.execBudgetExhausted s
  | .budgetGraceExpiry => Sys2Proof.Machine.execBudgetGraceExpiry s
  | .preemptionGraceExpiry => Sys2Proof.Machine.execPreemptionGraceExpiry s
  | .saveComplete => Sys2Proof.Machine.execSaveComplete s
  | .discardComplete => Sys2Proof.Machine.execDiscardComplete s
  | .binTimerExpiry => Sys2Proof.Machine.execBinTimerExpiry s
  | .reorderTimerExpiry => Sys2Proof.Machine.execReorderTimerExpiry s
  | .rendezvousTimeout => Sys2Proof.Machine.execRendezvousTimeout s
  | .convergenceTimeout => Sys2Proof.Machine.execConvergenceTimeout s
  | .barrierTimeout => Sys2Proof.Machine.execBarrierTimeout s
  | .sealTimeout => Sys2Proof.Machine.execSealTimeout s
  | .permitTimeout => Sys2Proof.Machine.execPermitTimeout s
  | .clauseStart => Sys2Proof.Machine.execClauseStart s
  | .regionWindowEnd => Sys2Proof.Machine.execRegionWindowEnd s
  | .redfPerform => Sys2Proof.Machine.execRedfPerform s
  | .weightStoreRefreshStart => Sys2Proof.Machine.execWeightStoreRefreshStart s
  | .weightStoreRefreshEnd => Sys2Proof.Machine.execWeightStoreRefreshEnd s
  | .retentionEntry => Sys2Proof.Machine.execRetentionEntry s
  | .sealComplete => Sys2Proof.Machine.execSealComplete s
  | .ret => Sys2Proof.Machine.execRet s
  | .exitF => Sys2Proof.Machine.execExitF s
  | .yield => Sys2Proof.Machine.execYield s
  | .yieldSave => Sys2Proof.Machine.execYieldSave s
  | .yieldRestart => Sys2Proof.Machine.execYieldRestart s
  | .rftResume => Sys2Proof.Machine.execRftResume s
  | .rftSkip => Sys2Proof.Machine.execRftSkip s
  | .rftKill => Sys2Proof.Machine.execRftKill s
  | .fenceLight => Sys2Proof.Machine.execFenceLight s
  | .hopHome => Sys2Proof.Machine.execHopHome s
  | .powerLoss => Sys2Proof.Machine.execPowerLoss s
  | .hostLinkRetrain => Sys2Proof.Machine.execHostLinkRetrain s

end Sys2Proof.Machine
end

