-- ==== Sys2Proof/Machine/Sched.lean ====
section
/-! DEFINITION. Issue: quadrants, their round-robin over teams and their group-instructions (07 R148 to R152); which turns are enabled when the agenda names none, the choice among them, and the state that stands at one given instruction. -/

namespace Sys2Proof.Machine

/-! ### Issue quadrants (07 R148, R150) -/

/-- The quadrant that issues a fibre: row r of a full core by quadrant r mod 4; a near core and a service slot have one of their own, the slot under a core index that no core has. -/
def quadOf (t : Team) (f : Fibre) : Option QuadId :=
  match f.away with
  | none => t.core.map (fun c => ⟨c, rowOf f.idx % 4⟩)
  | some (.near k c _) => some ⟨⟨16 + k, c⟩, 0⟩
  | some (.service k n _) => some ⟨⟨4 + k / 2, 1024 + 64 * k + n⟩, 0⟩
  | some _ => none

/-- The turn of a fibre would change something: an instruction that still waits leaves the state as it is. -/
def State.moves (s : State) (r : FibreRef) : Bool :=
  match fibreTurn exec r { s with cur := some r } with
  | .next t => t != { s with cur := some r }
  | _ => true

/-- The fibre is ready: it may issue, is not blocked, and does not wait for a wait mask, a counter, or whatever else its instruction waits for (07 R149). -/
def State.readyFibre (s : State) (t : Team) (f : Fibre) : Bool := mayIssue t f && !f.blocked && s.moves ⟨t.id, f.idx⟩

/-- The ready fibres of a quadrant, with their teams. -/
def State.readyOn (s : State) (q : QuadId) : List (Team × Fibre) :=
  s.teams.flatMap (fun t => (t.fibres.filter (fun f => quadOf t f == some q && s.readyFibre t f)).map (fun f => (t, f)))

/-- The quadrants at which live fibres stand. -/
def State.quadIds (s : State) : List QuadId :=
  (s.teams.flatMap (fun t => t.fibres.filterMap (quadOf t))).foldl (fun qs q => if qs.contains q then qs else qs ++ [q]) []

/-- A quadrant's record; one that has not issued yet. -/
def State.quad (s : State) (q : QuadId) : Quad := (s.quads.find? (fun x => x.id == q)).getD ⟨q, 0, [], 0, 0⟩

/-- Where a team stands in a quadrant's turns: its core slot; on a near core and in a service slot, where the slots of teams of several cores meet, its number (07 R150; log entry 93). -/
def QuadId.turnOf (i : QuadId) (t : Team) : Nat := if i.core.die < 16 ∧ i.core.idx < 1024 then t.slot else t.id

/-- The next of some places in turn after the last one, in ascending order. -/
def nextInTurn (last : Nat) (ks : List Nat) : Option Nat := (least (ks.filter (fun k => decide (last < k)))).or (least ks)

/-- Put a fibre among others, the older first, the lower index among equals. -/
def insertByAge (f : Fibre) : List Fibre → List Fibre
  | [] => [f]
  | g :: gs => if f.since < g.since ∨ (f.since = g.since ∧ f.idx < g.idx) then f :: g :: gs else g :: insertByAge f gs

/-- Put a fibre among others by index. -/
def insertByIdx (f : Fibre) : List Fibre → List Fibre
  | [] => [f]
  | g :: gs => if f.idx < g.idx then f :: g :: gs else g :: insertByIdx f gs

/-- The thermal guard takes the present aclk of every 16 from a core: with gap ratio g the last g of them (01 R25; which ones, log entry 93). -/
def State.gapped (s : State) (i : QuadId) : Bool :=
  decide (16 ≤ s.aclk % 16 + ((s.os.gaps.find? (fun p => p.1 == i.core)).map (fun p => p.2)).getD 0)

/-- A new group-instruction of a quadrant (07 R150): the next team in turn, the PC of its oldest ready fibre, and up to 32 ready fibres at that PC, the oldest first; they execute in ascending index. -/
def State.newGroup (s : State) (q : Quad) : Option Quad :=
  let rs := s.readyOn q.id
  match nextInTurn q.last (rs.map (fun p => q.id.turnOf p.1)) with
  | none => none
  | some k =>
    match rs.find? (fun p => q.id.turnOf p.1 == k) with
    | none => none
    | some (t, _) =>
      match ((rs.filter (fun p => p.1.id == t.id)).map (fun p => p.2)).foldl (fun a f => insertByAge f a) [] with
      | [] => none
      | f :: fs =>
        let g := (((f :: fs).filter (fun x => x.pc == f.pc)).take 32).foldl (fun a x => insertByIdx x a) []
        some { q with last := k, group := g.map (fun x => ⟨t.id, x.idx⟩), pc := f.pc.toNat, at_ := s.aclk }

/-- What is left of the group-instruction under way: the members that are still ready at its PC. -/
def State.restOfGroup (s : State) (q : Quad) : List FibreRef :=
  q.group.filter (fun r =>
    match s.team? r.team with
    | none => false
    | some t => (t.fibre? r.fibre).any (fun f => f.pc.toNat == q.pc && quadOf t f == some q.id && s.readyFibre t f))

/-- The quadrant's record with the group whose first member executes next: the one under way, or a new one when the quadrant has not acted in this cycle and the guard leaves it the aclk. -/
def State.issuing (s : State) (i : QuadId) : Option Quad :=
  let q := s.quad i
  match s.restOfGroup q with
  | r :: rs => some { q with group := r :: rs }
  | [] => if s.acted.contains i || s.gapped i then none else s.newGroup { q with group := [] }

/-- Of the instructions that one core issues in an aclk, events of a convergence register come before signatures (19 R414), and the YIELDs last, since a swap point ends the issue of their team, restart before save and save before yield (16 R338). -/
def turnRank (i : Fetched) : Nat :=
  match i with
  | .instr (.cvdecl _ _) _ => 0
  | .instr (.cvclear _) _ => 0
  | .instr .yieldRestart _ => 2
  | .instr .yieldSave _ => 3
  | .instr .yield _ => 4
  | _ => 1

/-- The rank of a fibre's next instruction. -/
def State.turnRank (s : State) (r : FibreRef) : Nat :=
  match s.team? r.team, s.fibre? r with
  | some t, some f => if f.clause.isNone then 1 else Sys2Proof.Machine.turnRank (fetchInstr s t.ctx (dieOf t f) f.pc.toNat)
  | _, _ => 1

/-- One turn comes before another in an aclk of their core: by rank, then by ascending fibre index (07 R154, 16 R337). -/
def turnBefore (a b : Nat × FibreRef) : Bool :=
  decide (a.1 < b.1) || (a.1 == b.1 && decide (a.2.fibre < b.2.fibre ∨ (a.2.fibre = b.2.fibre ∧ a.2.team ≤ b.2.team)))

/-- The fibres that execute next: of the quadrants of a core, which act in one aclk, the first. -/
def State.issueTurns (s : State) : List (FibreRef × Quad) :=
  let all := s.quadIds.filterMap (fun i => (s.issuing i).bind (fun q => q.group.head?.map (fun r => (r, q, s.turnRank r))))
  (all.filter (fun p => all.all (fun x => x.2.1.id.core != p.2.1.id.core || turnBefore (p.2.2, p.1) (x.2.2, x.1)))).map (fun p => (p.1, p.2.1))

/-- Some fibres are ready on a quadrant that the guard keeps from issuing. -/
def State.keptBack (s : State) : Bool := s.quadIds.any (fun i => s.gapped i && !(s.readyOn i).isEmpty)

/-- The age of a fibre that is not ready has not begun (07 R150). -/
def State.ageFibres (s : State) : State :=
  { s with teams := s.teams.map (fun (t : Team) => { t with fibres := t.fibres.map (fun (f : Fibre) =>
      if s.readyFibre t f then f else { f with since := s.aclk }) }) }

/-- Members that are ready no more leave their groups. A new issue cycle begins when every quadrant that has ready fibres has acted, or is kept from it by the guard: at least one aclk later (07 R150). -/
def State.cycle (s : State) : State :=
  let s := { s.ageFibres with quads := s.quads.map (fun (q : Quad) => { q with group := s.restOfGroup q }) }
  if s.issueTurns.isEmpty && (!s.acted.isEmpty || s.keptBack) then { s with acted := [], aclk := s.aclk + 1 } else s

/-- The quadrant's record after its member's turn; a group that begins is one issue of the quadrant, which Oseus counts for a full core (01 R31). -/
def State.noteIssue (s : State) (q : Quad) : State :=
  let begins := !s.acted.contains q.id
  { s with
    quads := { q with group := q.group.drop 1 } :: s.quads.filter (fun x => x.id != q.id)
    acted := if begins then s.acted ++ [q.id] else s.acted
    os := { s.os with issued := if begins && decide (q.id.core.die < 10 ∧ q.id.core.idx < 1024) then s.os.issued + 1 else s.os.issued } }

/-- A turn is chosen: a quadrant's next member is noted as such. -/
def State.noteTurn (s : State) (t : Turn) : State :=
  match t with
  | .fibre r => (match s.issueTurns.find? (fun p => p.1 == r) with | some p => s.noteIssue p.2 | none => s)
  | _ => s

/-! ### Turns -/

/-- Fibres that have something to take without issuing: a handler entry that can be completed, a pending trap of a blocked fibre. -/
def otherFibreTurns (s : State) : List Turn :=
  s.teams.flatMap (fun t => (t.fibres.filter (fun f => (f.entering.isSome || (mayIssue t f && f.blocked)) && s.moves ⟨t.id, f.idx⟩)).map (fun f =>
    .fibre ⟨t.id, f.idx⟩))

/-- A device step that would change the state now: the ones whose condition is not met leave it as it is. -/
def State.due (s : State) (i : Instr) : Bool :=
  match exec i s with
  | .next s' => s' != s
  | _ => false

/-- The device's steps on behalf of its fibres. -/
def fibreSteps (s : State) : List Instr :=
  s.teams.flatMap (fun t => t.fibres.flatMap (fun f =>
    (List.range f.ll.length).flatMap (fun n => [Instr.longLatencyDrop t.id f.idx n, .resizeSwitchPoint t.id f.idx n]) ++
    [.storePerform t.id f.idx, .hopLand t.id f.idx, .hopHomeArrival t.id f.idx, .returnTrap t.id f.idx, .returnTrapResume t.id f.idx]))

/-- The device's steps on its commands, scans, walks, channels and distributors. -/
def commandSteps (s : State) : List Instr :=
  s.cmds.flatMap (fun c =>
    [Instr.engineLanding c.id, .engineCompletionWord c.id, .walkStep c.id, .slotLanding c.id] ++
    (match c.kind with | .wdq q _ => [Instr.wdqAnswer c.ctx q] | _ => []) ++
    (List.range 8).map (fun k => .scanComplete c.id k)) ++
  (List.range 8).flatMap (fun k => [Instr.scanStart k, .scanRefreshPause k, .scanResume k, .nearSlotEntry k]) ++
  s.ctxs.flatMap (fun c => c.chans.map (fun h => Instr.permitReturn c.id h.idx)) ++
  s.convs.map (fun c => .conversionComplete c.ctx c.tid) ++
  s.demands.map (fun d => .conversionComplete d.ctx d.tid)

/-- The device's steps on copies of lines. -/
def coherenceSteps (s : State) : List Instr :=
  s.coh.probes.map (fun p => if p.answered then Instr.collapseAnswer p.line p.die else .collapseProbe p.line p.die) ++
  s.coh.fills.map (fun f => .cuttingFill f.line f.die)

/-- The device's steps on graphs, jobs and teams. -/
def schedulerSteps (s : State) : List Instr :=
  s.insts.flatMap (fun x => x.runs.flatMap (fun r => [Instr.jobReady x.id r.node, .jobComplete x.id r.node, .sealNodeComplete x.id r.node])) ++
  s.teams.flatMap (fun t => [.restoreComplete t.id, .redirectEntryCompletion t.id])

/-- The device's steps on ports and queue pairs; whether a retrain succeeds is open. -/
def linkSteps (s : State) : List Instr :=
  s.ports.flatMap (fun p => [Instr.flitSend p.idx, .ackReturnTimer p.idx, .replayTimeout p.idx] ++
    (if p.state == .retrain then [.linkRetrainDone p.idx (s.freeBit 50)] else [])) ++
  s.os.qps.map (fun q => .qpAckTimeout q.idx)

/-- The device's steps that name nothing, of Oseus, the links and the job scheduler. -/
def scheduleSteps : List Instr :=
  [Instr.eventRnrRetry, Instr.coolantSensorPoll, Instr.lifetimeSample, Instr.lifetimeFlashWrite, Instr.loadImageQuiesced,
   Instr.rateIncreasePeriod, Instr.contributionRetryTimer, Instr.contributionAckTimeout, Instr.collectiveIdleTimeout,
   Instr.instanceStart, Instr.dispatch, Instr.deadlineMiss]

/-- The device's steps that name nothing, of teams and their time limits. -/
def timerSteps : List Instr :=
  [Instr.budgetExhausted, Instr.budgetGraceExpiry, Instr.preemptionGraceExpiry, Instr.saveComplete, Instr.discardComplete,
   Instr.binTimerExpiry, Instr.reorderTimerExpiry, Instr.rendezvousTimeout, Instr.convergenceTimeout, Instr.barrierTimeout,
   Instr.sealTimeout, Instr.permitTimeout]

/-- The device's steps that name nothing, of memory, and the dies' answers to a shoot-down; what an MMA's residue check met is open. -/
def memorySteps (s : State) : List Instr :=
  [Instr.regionWindowEnd, Instr.redfPerform, Instr.weightStoreRefreshStart, Instr.weightStoreRefreshEnd, Instr.retentionEntry,
   Instr.sealComplete, Instr.mmaComplete (BitVec.ofNat 2 (Config.free s.tick 51 % 3))] ++
  (match s.shoot with | some h => h.dies.map (fun d => Instr.dieSweepAnswer d) | none => [])

/-- The device's steps that name no fibre, command or port. -/
def plainSteps (s : State) : List Instr := scheduleSteps ++ timerSteps ++ memorySteps s

/-- A turn of the device or of what is outside, which is no fibre's. -/
def deviceTurn (t : Turn) (s : State) : Host.Outcome State Fault Refusal :=
  match t with
  | .event i => exec i s
  | .fibre _ => .next s
  | .outside (.wire port bytes fec) => exec (flitStep port bytes fec) s
  | .outside (.rnr op) => .next (s.hostNotReady op)
  | .outside u => .next (s.upset u)
  | .mgmt => .next s.nextMessage
  | .report => .next s.settleReport
  | .qp q => .next (s.runQp q)
  | .hostSend => .next s.sendWaiting
  | .fills => .next s.releaseFills
  | .peer => .next s.runPeer

/-- The turns of Oseus, of the ports, of reports and of tags that would change something. -/
def serviceTurns (s : State) : List Turn :=
  ([Turn.mgmt, .report, .hostSend, .fills, .peer] ++ s.os.qps.map (fun q => Turn.qp q.idx)).filter (fun t =>
    match deviceTurn t s with | .next s' => s' != s | _ => false)

/-- The turns that may run next: the quadrants' next members, fibres that take a trap without issuing, and every step of the device's own that is due. What comes from outside comes through the agenda. -/
def enabledTurns (s : State) : List Turn :=
  s.issueTurns.map (fun p => .fibre p.1) ++ otherFibreTurns s ++ serviceTurns s ++ ((fibreSteps s ++ commandSteps s ++ coherenceSteps s ++ schedulerSteps s ++ linkSteps s ++ plainSteps s).filter s.due).map Turn.event

/-- The next turn when the agenda is empty: the only enabled one, or the one the device's choice names. A quadrant that has acted does not stand among them until every other one with ready fibres has. -/
def chosenTurn (s : State) : Option Turn :=
  match enabledTurns s with
  | [] => none
  | [t] => some t
  | ts => ts[Config.arbiter s.tick % ts.length]?

/-! ### A machine that stands at one instruction (log entry 5) -/

/-- The kernel of that machine's job: one fibre, a window of 128 registers. -/
def probeKernel : Kernel where
  mcore := false
  window := 7
  scratchWays := 1
  accTiles := 4
  metaUnits := 1
  clW := 1
  clH := 1
  fibresM1 := 0
  entryPc := 0
  restartPc := 0
  binTimerM1 := 63
  budget := 2 ^ 24
  nslices := 65535
  param := 0
  faultWord := 0
  grid := (1, 1, 1)

/-- A context whose root table stands at `root`. -/
def Context.blank (id root : Nat) : Context where
  id := id
  trapHandler := 0
  emulHandler := 0
  preemptHandler := 0
  tidTable := 0
  trapRing := 0
  ringOrder := 0
  pagerMbox := 0
  rdvTimeout := 1
  notifyTerm := false
  root := root
  critC := 0
  critM := 0
  intC := 0
  intM := 0
  partMask := List.replicate 8 0xFFFF
  peer := false
  windows := []
  graphs := []
  images := []
  wdq := []
  chans := []
  recSeq := 0
  counters := []
  held := false

/-- The header of a clause that holds one instruction of `n` words: class 6, no wait, set_a 0, set_b none. -/
def probeHeader (n : Nat) : Word32 := BitVec.ofNat 32 (n + 6 * 2 ^ 4 + 15 * 2 ^ 23 + 0xA * 2 ^ 28)

/-- The team of that machine, its fibre inside the clause at virtual address 0, at the instruction at 4. -/
def probeTeam (len aclk : Nat) : Team :=
  let t : Team := { id := 0, ctx := 0, job := 0, jobTag := 0, linear := 0, cluster := none, member := 0, state := .waiting, core := none, slot := 0, kernel := probeKernel, reserved := 1, alloc := 1, scratch := [], scratchPoison := [], acc := [], accPoison := [], metaMem := [], metaPoison := [], cv := [], bins := [], binQuota := 16, reorder := [], reorderSince := 0, resAcc := 0, resSince := none, cls := 2, jobCls := 2, deadline := 0, readyAt := 0, slice := 1, budgetEnd := 2 ^ 24, budgetOut := none, preempt := none, budgetTrap := false, preemptTrap := false, forced := false, keepSlice := false, image := (0, 0), redirect := [], redirected := 0, fibres := [] }
  let t := t.launch ⟨0, 0⟩ 0 aclk
  t.updFibre 0 (fun f => { f with
    pc := 4
    clause := some ⟨0, probeHeader len, 0, 0, true, none⟩
    firstClause := false })

/-- The state with a booted module, context 0 mapping virtual page 0 onto physical page 0x10000, the instruction's bytes at virtual address 4, and one fibre that stands there. -/
def State.atWord (s : State) (bytes : List Byte) : State :=
  let len := lengthOf ((wordsOfBytes bytes).headD 0)
  let m := s.mem
  let m := m.write 0x20000 ((bytesOf (ofNat64 (0x30000 + 1)) 8).map some)
  let m := m.write 0x30000 ((bytesOf (ofNat64 (0x40000 + 1)) 8).map some)
  let m := m.write 0x40000 ((bytesOf (ofNat64 (0x10000 + 0x3B)) 8).map some)
  let m := m.write 0x10000 ((bytesOf (ofNat64 (probeHeader len).toNat) 4).map some)
  let m := m.write 0x10004 (bytes.map some)
  { s with
    cur := some ⟨0, 0⟩
    agenda := [.fibre ⟨0, 0⟩]
    nextId := s.nextId + 1
    teams := [probeTeam len s.aclk]
    mem := m
    ctxs := [Context.blank 0 0x20000]
    bootDone := true }

end Sys2Proof.Machine
end

