-- ==== Sys2Proof/Machine/Step.lean ====
section
/-! DEFINITION. One step of the machine: the next turn of the agenda, or with an empty agenda an enabled turn, run; and a state that stands at one given instruction. -/

namespace Sys2Proof.Machine

/-- Run one turn. -/
def runTurn (t : Turn) (s : State) : Host.Outcome State Fault Refusal :=
  match t with
  | .fibre r => fibreTurn exec r s
  | t => deviceTurn t s

/-- The step is counted, and time passes, but not inside a group-instruction. -/
def State.after (s : State) : State :=
  { s with
    tick := s.tick + 1
    aclk := if s.quads.any (fun q => !q.group.isEmpty) then s.aclk else s.aclk + Config.elapsed s.tick }

/-- What a turn answers, a step later. -/
def afterTurn (o : Host.Outcome State Fault Refusal) : Host.Outcome State Fault Refusal :=
  match o with
  | .next s => .next s.after
  | .fault e => .fault e
  | .refused e => .refused e

/-- One step: the first turn of the agenda, or with none a turn that is enabled. -/
def step (s : State) : Host.Outcome State Fault Refusal :=
  match s.agenda with
  | t :: rest => afterTurn (runTurn t { s with agenda := rest })
  | [] =>
    match chosenTurn s.cycle with
    | none => .next s.cycle.after
    | some t => afterTurn (runTurn t (s.cycle.noteTurn t))

/-- A state whose very next step fetches and runs the instruction of a table word. -/
def State.withFetchWord (s : State) (nbits w : Nat) : State := s.atWord (tableBytes nbits w)

end Sys2Proof.Machine
end

