-- ==== Sys2Proof/Safety.lean ====
section
/-! DEFINITION. What a safe run is, in the terms the claims use: every step has a next state, the memory keeps its canonical form; and what it means that a fibre may execute an instruction, and that an instruction has passed. -/

namespace Sys2Proof.Machine

/-- The state a step leads to. -/
def stepsTo (s s' : State) : Prop := step s = .next s'

/-- The states a run can reach from `s`. -/
inductive Reaches (s : State) : State → Prop
  | refl : Reaches s s
  | step {a b : State} : Reaches s a → stepsTo a b → Reaches s b

/-- The machine does not stop at `s`. -/
def Runs (s : State) : Prop := ∃ s', stepsTo s s'

/-- No outstanding long-latency instruction of the fibre writes one of these registers, predicates or tiles (15 R297). -/
def Fibre.quiet (f : Fibre) (regs preds tiles : List Nat) : Prop :=
  ∀ op ∈ f.ll, (∀ n ∈ op.regs, n ∉ regs) ∧ (∀ p ∈ op.preds, p ∉ preds) ∧ (∀ k ∈ op.tiles, k ∉ tiles)

/-- Fibre `f` of team `t` is the one that acts, every register the instruction reads (`rd`) or writes (`wr`) lies in its window (15 R298, 10 R223), nothing it names is outstanding (15 R297), and no register it reads is poisoned (08 R183, R184). -/
structure Ready (s : State) (r : FibreRef) (t : Team) (f : Fibre) (rd wr preds tiles : List Nat) : Prop where
  current : s.current = some (r, t, f)
  window : ∀ n ∈ rd ++ wr, n < windowOf t f
  quiet : f.quiet (rd ++ wr) preds tiles
  clean : ∀ n ∈ rd, n ∉ f.spoilt

/-- `s` after fibre `r` has changed its own registers by `g` and passed an instruction of `len` words that is not long-latency: nothing but that fibre differs. -/
def State.passed (s : State) (r : FibreRef) (len : Nat) (g : Fibre → Fibre) : State :=
  s.updFibre r (fun x => (g x).pass len false s.aclk)

/-- `s'` after fibre `r` has passed an instruction of `len` words with class `long`, at time `aclk`. -/
def State.past (s' : State) (r : FibreRef) (len : Nat) (long : Bool) (aclk : Nat) : State :=
  s'.updFibre r (fun x => x.pass len long aclk)

/-- `s` after fibre `r` has issued a long-latency instruction of `len` words: it stands outstanding with its destinations and with completion counter `c`, which is one higher, and is passed (15 R295). -/
def State.issued (s : State) (r : FibreRef) (len c : Nat) (k : LongKind) (regs preds tiles : List Nat) : State :=
  s.updFibre r (fun x => ({ x with
    cf := x.cf.set c (x.cf.getD c 0 + 1)
    ll := x.ll ++ [(⟨k, some c, regs, preds, tiles, x.seq, x.pc.toNat, len, s.aclk⟩ : LongOp)]
    seq := x.seq + 1 } : Fibre).pass len true s.aclk)

/-- The operation put last in a fibre's store queue, with its place in program order (09 R191). -/
def Fibre.enqueue (x : Fibre) (k : StoreKind) (st : Strength) : Fibre :=
  { x with sq := x.sq ++ [⟨k, st, x.seq, x.pc.toNat⟩], seq := x.seq + 1 }

/-- `s` after fibre `r` has put one operation in its store queue and passed an instruction of `len` words. -/
def State.queued (s : State) (r : FibreRef) (len : Nat) (k : StoreKind) (st : Strength) : State :=
  s.passed r len fun x => x.enqueue k st

/-- A counter governs the fibre's next long-latency instruction and is below 15, so that it can issue (15 R295). -/
def Fibre.canIssue (f : Fibre) (c : Nat) : Prop := f.counter = some c ∧ f.cf.getD c 0 < 15

/-- A place that is no remote window. -/
def Loc.isLocal (l : Loc) : Prop := l.isRemote = false

/-- From `s` to `t` nothing but teams changes, no team but in its fibres, and no fibre but `r`: every byte of memory, every tag, every scratchpad, accumulator and special structure is as before. -/
def OnlyFibre (s t : State) (r : FibreRef) : Prop :=
  t = { s with teams := t.teams } ∧
  (∀ k, (t.team? k).map (fun u => { u with fibres := [] }) = (s.team? k).map (fun u => { u with fibres := [] })) ∧
  ∀ q, q ≠ r → t.fibre? q = s.fibre? q

/-- Fibre `x` is `f` but for the registers in `ds`, and for its position: the predicates, the flags, the special registers, the counters, the queues and the trap state are those of `f`, and a register outside `ds` keeps its value and its poison. -/
def Fibre.onlyRegs (f x : Fibre) (ds : List Nat) : Prop :=
  x = { f with regs := x.regs, spoilt := x.spoilt, pc := x.pc, clause := x.clause, since := x.since } ∧
  x.regs.length = f.regs.length ∧ ∀ n, n ∉ ds → x.reg n = f.reg n ∧ (n ∈ x.spoilt ↔ n ∈ f.spoilt)

/-- `s'` is `s` but for the caches of the package and the counters of its contexts: what a served load may change. -/
def SameButCaches (s s' : State) : Prop := s' = { s with coh := s'.coh, ctxs := s'.ctxs }

/-- Every tensor entry of a list that is mapped can be read by the fibre's instruction now (19 R391, 09 R192). -/
def EntriesReadable (s : State) (t : Team) (f : Fibre) (ns : List Nat) : Prop :=
  ∀ n ∈ ns, ∀ m, s.entryPlace t.ctx f.pc.toNat n .load = .ok m → entryReady s t f m = true

/-- Every memory byte, tag and poison bit of `s'` is that of `s`. -/
def SameMemory (s s' : State) : Prop := s'.mem = s.mem

end Sys2Proof.Machine
end

