-- ==== Sys2Proof/Certificates/Slice0/Obligations.lean ====
section
/-! DEFINITION. The statements about the model, for the provers: each def is one proposition. -/

open Sys2Proof Sys2Proof.Machine

/-! ### What a value is, in the spec's words -/

namespace Sys2Proof.Claims

/-- An integer limited to a range (13 R263). -/
def clamp (lo hi x : Int) : Int := max lo (min x hi)

/-- The low 32 bits of a register. -/
def low32 (v : Dword) : BitVec 32 := v.setWidth 32

/-- 16 Table 16.1: the result of an exact sum `x`, which is given the reading of the operands. -/
def table161 (x : (Dword → Int) → Int) : Nat → Dword
  | 0 => BitVec.ofInt 64 (x BitVec.toInt)
  | 1 => (BitVec.ofInt 32 (x fun v => (low32 v).toInt)).setWidth 64
  | 2 => BitVec.ofInt 64 (clamp (-2 ^ 63) (2 ^ 63 - 1) (x BitVec.toInt))
  | 3 => (BitVec.ofInt 32 (clamp (-2 ^ 31) (2 ^ 31 - 1) (x fun v => (low32 v).toInt))).setWidth 64
  | 4 => BitVec.ofInt 64 (clamp 0 (2 ^ 64 - 1) (x fun v => (v.toNat : Int)))
  | _ => (BitVec.ofInt 32 (clamp 0 (2 ^ 32 - 1) (x fun v => ((low32 v).toNat : Int)))).setWidth 64

/-- 16 R319: lo and hi halves of the exact product. -/
def product (a b : Dword) : Nat → Dword
  | 0 => a * b
  | 1 => (low32 a * low32 b).setWidth 64
  | 2 => ((a.signExtend 128 * b.signExtend 128) >>> 64).setWidth 64
  | 3 => ((((low32 a).signExtend 64 * (low32 b).signExtend 64) >>> 32).setWidth 32).setWidth 64
  | 6 => ((a.setWidth 128 * b.setWidth 128) >>> 64).setWidth 64
  | _ => (((low32 a).setWidth 64 * (low32 b).setWidth 64) >>> 32)

/-- 16 R320, Table 16.2: the quotient. -/
def quotient {n : Nat} (signed : Bool) (a b : BitVec n) : BitVec n :=
  if b = 0 then BitVec.allOnes n else if signed then a.sdiv b else a / b

/-- 16 R320, Table 16.2: the remainder, with the sign of the dividend. -/
def remainder {n : Nat} (signed : Bool) (a b : BitVec n) : BitVec n :=
  if b = 0 then a else if signed then a.srem b else a % b

/-- 16 R321: the smaller or the larger; equal operands give the first. -/
def select {n : Nat} (signed larger : Bool) (a b : BitVec n) : BitVec n :=
  let less := fun (x y : BitVec n) => if signed then x.slt y else x.ult y
  if larger then (if less a b then b else a) else (if less b a then b else a)

/-- 16 R323: shift left, right, right with the sign, rotate right. -/
def shifted {n : Nat} (kind : Nat) (a : BitVec n) (count : Nat) : BitVec n :=
  match kind with
  | 0 => a <<< count
  | 1 => a >>> count
  | 2 => a.sshiftRight count
  | _ => a.rotateRight count

/-- 16 R325: what the result `v` of a bit operation on `x` is. -/
def BitopSpec {n : Nat} (op : Nat) (x : BitVec n) (v : Dword) : Prop :=
  match op with
  | 0 => v.toNat ≤ n ∧ (∀ i, i < v.toNat → x.getLsbD (n - 1 - i) = false) ∧ (v.toNat < n → x.getLsbD (n - 1 - v.toNat) = true)
  | 1 => v.toNat ≤ n ∧ (∀ i, i < v.toNat → x.getLsbD i = false) ∧ (v.toNat < n → x.getLsbD v.toNat = true)
  | 2 => v.toNat = ((List.range n).filter (fun i => x.getLsbD i)).length
  | 3 => ∀ i, v.getLsbD i = (decide (i < n) && x.getLsbD (n - 1 - i))
  | _ => ∀ i, v.getLsbD i = (decide (i < n) && x.getLsbD (8 * (n / 8 - 1 - i / 8) + i % 8))

/-- 15 Table 15.5: the integer conditions. -/
def condition (n : Nat) (a b : Dword) : Prop :=
  match n with
  | 0 => a = b
  | 1 => a ≠ b
  | 2 => a.toInt < b.toInt
  | 3 => b.toInt ≤ a.toInt
  | 4 => a.toNat < b.toNat
  | 5 => b.toNat ≤ a.toNat
  | 6 => a.toInt ≤ b.toInt
  | 7 => b.toInt < a.toInt
  | 8 => a.toNat ≤ b.toNat
  | 9 => b.toNat < a.toNat
  | 10 => a &&& b ≠ 0
  | _ => a &&& b = 0

/-- 15 R298, format A: opcode, d, a, b, fn. -/
def formatA (op d a b fn : Nat) : Nat := op * 2 ^ 25 + d * 2 ^ 18 + a * 2 ^ 11 + b * 2 ^ 4 + fn

/-- 15 R298, formats I and S: opcode, d, a, 11 further bits. -/
def formatI (op d a im : Nat) : Nat := op * 2 ^ 25 + d * 2 ^ 18 + a * 2 ^ 11 + im

/-- The word, with `lit` after it, is no instruction. -/
def illegalWord (w lit : Nat) : Prop := ∃ e, decode w lit 0 0 = .error e

/-- 15 R300: combine 0 sets, 1 ands, 2 ors, 3 xors; p0 stays 1. `x'` is `x` with predicate `p` combined with `t`. -/
def CombinedInto (x x' : Fibre) (p c : Nat) (t : Prop) : Prop :=
  (∀ i, i < 32 → i ≠ p → x'.predBit i = x.predBit i) ∧ x'.predBit 0 = true ∧
  (p ≠ 0 → (x'.predBit p = true ↔
    match c with
    | 0 => t
    | 1 => x.predBit p = true ∧ t
    | 2 => x.predBit p = true ∨ t
    | _ => ¬ (x.predBit p = true ↔ t)))

end Sys2Proof.Claims

/-- 16 R318: ADD, SUB, MAD and ADDI. -/
def Obligations.AddSubMadResult : Prop :=
  ∀ (s : State) (r : FibreRef) (t : Team) (f : Fibre) (d a b : BitVec 7) (fn : BitVec 4) (im : BitVec 11),
    (if fn.toNat ≤ 5 then
        decode (Claims.formatA 0x01 d.toNat a.toNat b.toNat fn.toNat) 0 0 0 = .ok (.add d a b fn) ∧
        decode (Claims.formatA 0x02 d.toNat a.toNat b.toNat fn.toNat) 0 0 0 = .ok (.sub d a b fn) ∧
        decode (Claims.formatA 0x05 d.toNat a.toNat b.toNat fn.toNat) 0 0 0 = .ok (.mad d a b fn)
      else
        Claims.illegalWord (Claims.formatA 0x01 d.toNat a.toNat b.toNat fn.toNat) 0 ∧
        Claims.illegalWord (Claims.formatA 0x02 d.toNat a.toNat b.toNat fn.toNat) 0 ∧
        Claims.illegalWord (Claims.formatA 0x05 d.toNat a.toNat b.toNat fn.toNat) 0) ∧
    decode (Claims.formatI 0x03 d.toNat a.toNat im.toNat) 0 0 0 = .ok (.addi d a im) ∧
    (Ready s r t f [a.toNat, b.toNat] [d.toNat] [] [] → fn.toNat ≤ 5 →
    exec (.add d a b fn) s = .next (s.passed r 1 fun x =>
      x.setReg d.toNat (Claims.table161 (fun rd => rd (x.reg a.toNat) + rd (x.reg b.toNat)) fn.toNat)) ∧
    exec (.sub d a b fn) s = .next (s.passed r 1 fun x =>
      x.setReg d.toNat (Claims.table161 (fun rd => rd (x.reg a.toNat) - rd (x.reg b.toNat)) fn.toNat)) ∧
    (d.toNat ∉ f.spoilt → exec (.mad d a b fn) s = .next (s.passed r 1 fun x =>
      x.setReg d.toNat (Claims.table161 (fun rd => rd (x.reg d.toNat) + rd (x.reg a.toNat) * rd (x.reg b.toNat)) fn.toNat))) ∧
    exec (.addi d a im) s = .next (s.passed r 1 fun x => x.setReg d.toNat (x.reg a.toNat + im.signExtend 64)))

/-- 16 R319 to R321: MUL, DIV, REM, MINMAX. -/
def Obligations.MulDivMinmaxResult : Prop :=
  ∀ (s : State) (r : FibreRef) (t : Team) (f : Fibre) (d a b : BitVec 7) (fn : BitVec 4) (sg larger w : BitVec 1),
    let word := fun (op : Nat) => Claims.formatA op d.toNat a.toNat b.toNat fn.toNat
    (if fn.toNat ≤ 3 ∨ fn.toNat = 6 ∨ fn.toNat = 7 then decode (word 0x04) 0 0 0 = .ok (.mul d a b fn)
      else Claims.illegalWord (word 0x04) 0) ∧
    (fn.toNat = sg.toNat * 4 + w.toNat → decode (word 0x06) 0 0 0 = .ok (.div d a b sg w)) ∧
    (fn.toNat = sg.toNat * 4 + 2 + w.toNat → decode (word 0x06) 0 0 0 = .ok (.rem d a b sg w)) ∧
    (fn.toNat = sg.toNat * 4 + larger.toNat * 2 + w.toNat → decode (word 0x07) 0 0 0 = .ok (.minmax d a b sg larger w)) ∧
    (8 ≤ fn.toNat → Claims.illegalWord (word 0x06) 0 ∧ Claims.illegalWord (word 0x07) 0) ∧
    (Ready s r t f [a.toNat, b.toNat] [d.toNat] [] [] →
    (fn.toNat ≤ 3 ∨ fn.toNat = 6 ∨ fn.toNat = 7 →
      exec (.mul d a b fn) s = .next (s.passed r 1 fun x =>
        x.setReg d.toNat (Claims.product (x.reg a.toNat) (x.reg b.toNat) fn.toNat))) ∧
    exec (.div d a b sg w) s = .next (s.passed r 1 fun x => x.setReg d.toNat
      (if w = 0 then Claims.quotient (sg == 0) (x.reg a.toNat) (x.reg b.toNat)
       else (Claims.quotient (sg == 0) (Claims.low32 (x.reg a.toNat)) (Claims.low32 (x.reg b.toNat))).setWidth 64)) ∧
    exec (.rem d a b sg w) s = .next (s.passed r 1 fun x => x.setReg d.toNat
      (if w = 0 then Claims.remainder (sg == 0) (x.reg a.toNat) (x.reg b.toNat)
       else (Claims.remainder (sg == 0) (Claims.low32 (x.reg a.toNat)) (Claims.low32 (x.reg b.toNat))).setWidth 64)) ∧
    exec (.minmax d a b sg larger w) s = .next (s.passed r 1 fun x => x.setReg d.toNat
      (if w = 0 then Claims.select (sg == 0) (larger == 1) (x.reg a.toNat) (x.reg b.toNat)
       else (Claims.select (sg == 0) (larger == 1) (Claims.low32 (x.reg a.toNat)) (Claims.low32 (x.reg b.toNat))).setWidth 64)))

/-- 16 R322 to R325: logic, shifts, bit fields and bit operations. -/
def Obligations.LogicShiftResult : Prop :=
  ∀ (s : State) (r : FibreRef) (t : Team) (f : Fibre) (d a b : BitVec 7) (im : BitVec 11) (w : BitVec 1) (k : BitVec 2)
    (c p : BitVec 6) (l : BitVec 5) (fn : BitVec 4),
    let word := fun (op b fn : Nat) => Claims.formatA op d.toNat a.toNat b fn
    let imm := fun (op im : Nat) => Claims.formatI op d.toNat a.toNat im
    (decode (word 0x08 b.toNat 0) 0 0 0 = .ok (.andR d a b) ∧ decode (word 0x09 b.toNat 0) 0 0 0 = .ok (.orR d a b) ∧
      decode (word 0x0A b.toNat 0) 0 0 0 = .ok (.xorR d a b) ∧ decode (word 0x0B b.toNat 0) 0 0 0 = .ok (.andn d a b) ∧
      (∀ op, 0x08 ≤ op → op ≤ 0x0B → fn ≠ 0 → Claims.illegalWord (word op b.toNat fn.toNat) 0) ∧
      decode (imm 0x0C im.toNat) 0 0 0 = .ok (.andi d a im) ∧ decode (imm 0x0D im.toNat) 0 0 0 = .ok (.ori d a im) ∧
      decode (imm 0x0E im.toNat) 0 0 0 = .ok (.xori d a im)) ∧
    (decode (word 0x0F b.toNat (w.toNat * 4 + k.toNat)) 0 0 0 = .ok (.shift d a b w k) ∧
      (8 ≤ fn.toNat → Claims.illegalWord (word 0x0F b.toNat fn.toNat) 0) ∧
      (if w = 0 ∨ c.toNat < 32 then decode (imm 0x10 (w.toNat * 2 ^ 8 + k.toNat * 2 ^ 6 + c.toNat)) 0 0 0 = .ok (.shifti d a w k c)
        else Claims.illegalWord (imm 0x10 (w.toNat * 2 ^ 8 + k.toNat * 2 ^ 6 + c.toNat)) 0) ∧
      (2 ^ 9 ≤ im.toNat → Claims.illegalWord (imm 0x10 im.toNat) 0)) ∧
    (decode (imm 0x11 (l.toNat * 2 ^ 6 + p.toNat)) 0 0 0 = .ok (.bfx d a l p) ∧
      decode (imm 0x12 (l.toNat * 2 ^ 6 + p.toNat)) 0 0 0 = .ok (.bfi d a l p)) ∧
    (if fn.toNat ≤ 9 ∧ b = 0 then decode (word 0x13 b.toNat fn.toNat) 0 0 0 = .ok (.bitop d a fn)
      else Claims.illegalWord (word 0x13 b.toNat fn.toNat) 0) ∧
    (Ready s r t f [a.toNat, b.toNat] [d.toNat] [] [] →
    exec (.andR d a b) s = .next (s.passed r 1 fun x => x.setReg d.toNat (x.reg a.toNat &&& x.reg b.toNat)) ∧
    exec (.orR d a b) s = .next (s.passed r 1 fun x => x.setReg d.toNat (x.reg a.toNat ||| x.reg b.toNat)) ∧
    exec (.xorR d a b) s = .next (s.passed r 1 fun x => x.setReg d.toNat (x.reg a.toNat ^^^ x.reg b.toNat)) ∧
    exec (.andn d a b) s = .next (s.passed r 1 fun x => x.setReg d.toNat (x.reg a.toNat &&& ~~~ x.reg b.toNat)) ∧
    exec (.andi d a im) s = .next (s.passed r 1 fun x => x.setReg d.toNat (x.reg a.toNat &&& im.signExtend 64)) ∧
    exec (.ori d a im) s = .next (s.passed r 1 fun x => x.setReg d.toNat (x.reg a.toNat ||| im.signExtend 64)) ∧
    exec (.xori d a im) s = .next (s.passed r 1 fun x => x.setReg d.toNat (x.reg a.toNat ^^^ im.signExtend 64)) ∧
    exec (.shift d a b w k) s = .next (s.passed r 1 fun x => x.setReg d.toNat
      (if w = 0 then Claims.shifted k.toNat (x.reg a.toNat) ((x.reg b.toNat).toNat % 64)
       else (Claims.shifted k.toNat (Claims.low32 (x.reg a.toNat)) ((x.reg b.toNat).toNat % 32)).setWidth 64)) ∧
    (w = 0 ∨ c.toNat < 32 → exec (.shifti d a w k c) s = .next (s.passed r 1 fun x => x.setReg d.toNat
      (if w = 0 then Claims.shifted k.toNat (x.reg a.toNat) c.toNat
       else (Claims.shifted k.toNat (Claims.low32 (x.reg a.toNat)) c.toNat).setWidth 64))) ∧
    (∃ v : Dword, exec (.bfx d a l p) s = .next (s.passed r 1 fun x => x.setReg d.toNat (v &&& x.reg a.toNat >>> p.toNat)) ∧
      ∀ i, v.getLsbD i = decide (i < l.toNat + 1)) ∧
    (d.toNat ∉ f.spoilt → ∃ v : Dword → Dword → Dword, exec (.bfi d a l p) s = .next (s.passed r 1 fun x => x.setReg d.toNat (v (x.reg d.toNat) (x.reg a.toNat))) ∧
      ∀ x y i, i < 64 → (v x y).getLsbD i =
        if p.toNat ≤ i ∧ i < p.toNat + (l.toNat + 1) then y.getLsbD (i - p.toNat) else x.getLsbD i) ∧
    (fn.toNat ≤ 9 → ∃ v : Dword → Dword, exec (.bitop d a fn) s = .next (s.passed r 1 fun x => x.setReg d.toNat (v (x.reg a.toNat))) ∧
      ∀ x, if fn.toNat % 2 = 0 then Claims.BitopSpec (fn.toNat / 2) x (v x) else Claims.BitopSpec (fn.toNat / 2) (Claims.low32 x) (v x)))

/-- 16 R326, R327 and 07 R147: moves, the predicate word, the special registers, the literals. -/
def Obligations.MoveResult : Prop :=
  ∀ (s : State) (r : FibreRef) (t : Team) (f : Fibre) (d a : BitVec 7) (fn : BitVec 4) (im : BitVec 11) (l : BitVec 32),
    (decode (Claims.formatI 0x15 d.toNat 0 im.toNat) 0 0 0 = .ok (.movi d im) ∧
      (a ≠ 0 → Claims.illegalWord (Claims.formatI 0x15 d.toNat a.toNat im.toNat) 0) ∧
      decode (Claims.formatA 0x16 d.toNat 0 0 0) l.toNat 0 0 = .ok (.movl d l) ∧
      decode (Claims.formatA 0x16 d.toNat 0 0 1) l.toNat 0 0 = .ok (.movlS d l) ∧
      decode (Claims.formatA 0x16 d.toNat 0 0 2) l.toNat 0 0 = .ok (.movlHi d l) ∧
      (3 ≤ fn.toNat → Claims.illegalWord (Claims.formatA 0x16 d.toNat 0 0 fn.toNat) l.toNat) ∧
      (a ≠ 0 → Claims.illegalWord (Claims.formatA 0x16 d.toNat a.toNat 0 fn.toNat) l.toNat ∧
        Claims.illegalWord (Claims.formatA 0x16 d.toNat 0 a.toNat fn.toNat) l.toNat)) ∧
    (Ready s r t f [a.toNat] [d.toNat] (List.range 32) [] →
    (fn.toNat ≤ 6 → exec (.mov d a fn) s = .next (s.passed r 1 fun x => x.setReg d.toNat
      (match fn.toNat with
       | 0 => x.reg a.toNat
       | 1 => ((x.reg a.toNat).setWidth 8).signExtend 64
       | 2 => ((x.reg a.toNat).setWidth 16).signExtend 64
       | 3 => ((x.reg a.toNat).setWidth 32).signExtend 64
       | 4 => ((x.reg a.toNat).setWidth 8).setWidth 64
       | 5 => ((x.reg a.toNat).setWidth 16).setWidth 64
       | _ => ((x.reg a.toNat).setWidth 32).setWidth 64))) ∧
    (∃ v : Fibre → Dword, exec (.movRdp d) s = .next (s.passed r 1 fun x => x.setReg d.toNat (v x)) ∧
      ∀ x i, (v x).getLsbD i = (decide (i < 32) && x.predBit i)) ∧
    (∃ g : Fibre → Fibre, exec (.movWrp a) s = .next (s.passed r 1 g) ∧
      ∀ x, g x = { x with pred := (g x).pred } ∧ (g x).predBit 0 = true ∧
        ∀ i, 1 ≤ i → i < 32 → (g x).predBit i = (x.reg a.toNat).getLsbD i) ∧
    exec (.movFromSpecial d 0) s = .next (s.passed r 1 fun x => x.setReg d.toNat (x.lk.setWidth 64)) ∧
    exec (.movFromSpecial d 1) s = .next (s.passed r 1 fun x => x.setReg d.toNat (x.csp.setWidth 64)) ∧
    exec (.movFromSpecial d 2) s = .next (s.passed r 1 fun x => x.setReg d.toNat (x.fmode.setWidth 64)) ∧
    exec (.movFromSpecial d 3) s = .next (s.passed r 1 fun x => x.setReg d.toNat (x.fflags.setWidth 64)) ∧
    exec (.movFromSpecial d 4) s = .next (s.passed r 1 fun x => x.setReg d.toNat (x.srseed.setWidth 64)) ∧
    exec (.movToSpecial 0 a) s = .next (s.passed r 1 fun x => { x with lk := (x.reg a.toNat).setWidth 52 }) ∧
    exec (.movToSpecial 1 a) s = .next (s.passed r 1 fun x => { x with csp := (x.reg a.toNat).setWidth 52 }) ∧
    (∃ g : Fibre → BitVec 16, exec (.movToSpecial 2 a) s = .next (s.passed r 1 fun x => { x with fmode := g x }) ∧
      ∀ x i, (g x).getLsbD i = ((decide (i < 2) || decide (3 ≤ i ∧ i < 8)) && (x.reg a.toNat).getLsbD i)) ∧
    (∃ g : Fibre → BitVec 16, exec (.movToSpecial 3 a) s = .next (s.passed r 1 fun x => { x with fflags := g x }) ∧
      ∀ x i, (g x).getLsbD i = (decide (i < 5) && (x.reg a.toNat).getLsbD i)) ∧
    exec (.movToSpecial 4 a) s = .next (s.passed r 1 fun x => { x with
      srseed := if (x.reg a.toNat).setWidth 32 = 0 then 1 else (x.reg a.toNat).setWidth 32 }) ∧
    exec (.movi d im) s = .next (s.passed r 1 fun x => x.setReg d.toNat (im.signExtend 64)) ∧
    exec (.movl d l) s = .next (s.passed r 2 fun x => x.setReg d.toNat (l.setWidth 64)) ∧
    exec (.movlS d l) s = .next (s.passed r 2 fun x => x.setReg d.toNat (l.signExtend 64)) ∧
    (d.toNat ∉ f.spoilt → exec (.movlHi d l) s = .next (s.passed r 2 fun x => x.setReg d.toNat (l.setWidth 64 <<< 32 ||| (Claims.low32 (x.reg d.toNat)).setWidth 64))))

/-- 16 R328: LEA. -/
def Obligations.LeaResult : Prop :=
  ∀ (s : State) (r : FibreRef) (t : Team) (f : Fibre) (d a b : BitVec 7) (x3 : BitVec 1) (sh : BitVec 3),
    decode (Claims.formatA 0x17 d.toNat a.toNat b.toNat (x3.toNat * 2 ^ 3 + sh.toNat)) 0 0 0 = .ok (.lea d a b x3 sh) ∧
    (Ready s r t f [a.toNat, b.toNat] [d.toNat] [] [] →
      exec (.lea d a b x3 sh) s = .next (s.passed r 1 fun x => x.setReg d.toNat
        (x.reg a.toNat + (if x3 = 0 then x.reg b.toNat else (Claims.low32 (x.reg b.toNat)).signExtend 64) <<< sh.toNat)))

/-- 16 R329 to R331, 15 R300: predicates. -/
def Obligations.PredicateResult : Prop :=
  ∀ (s : State) (r : FibreRef) (t : Team) (f : Fibre) (p x y : BitVec 5) (c : BitVec 2) (a b im : BitVec 7) (n tt : BitVec 4)
    (ng : BitVec 1) (sp : BitVec 3),
    Ready s r t f [a.toNat, b.toNat] [] [p.toNat, x.toNat, y.toNat] [] →
    (n.toNat ≤ 11 → ∃ g : Fibre → Fibre, exec (.cmp p c a b n) s = .next (s.passed r 1 g) ∧
      ∀ z, g z = { z with pred := (g z).pred } ∧
        Claims.CombinedInto z (g z) p.toNat c.toNat (Claims.condition n.toNat (z.reg a.toNat) (z.reg b.toNat))) ∧
    (n.toNat ≤ 11 → ∃ g : Fibre → Fibre, exec (.cmpi p c a im n) s = .next (s.passed r 1 g) ∧
      ∀ z, g z = { z with pred := (g z).pred } ∧
        Claims.CombinedInto z (g z) p.toNat c.toNat (Claims.condition n.toNat (z.reg a.toNat) (im.signExtend 64))) ∧
    (∃ g : Fibre → Fibre, exec (.plog p c x y tt) s = .next (s.passed r 1 g) ∧
      ∀ z, g z = { z with pred := (g z).pred } ∧
        Claims.CombinedInto z (g z) p.toNat c.toNat
          (tt.getLsbD ((if z.predBit x.toNat then 2 else 0) + (if z.predBit y.toNat then 1 else 0)) = true)) ∧
    (∀ q, f.clause = some q → ∃ t', exec (.pred p ng sp) s = .next t' ∧ OnlyFibre s t' r ∧
      ∃ z, t'.fibre? r = some z ∧ z.regs = f.regs ∧ z.pred = f.pred ∧ z.fflags = f.fflags ∧
        z.pc = BitVec.ofNat 52 (f.pc.toNat + 4) ∧
        (q.after > f.pc.toNat + 4 → ∃ q', z.clause = some q' ∧ q'.span = sp.toNat + 1 ∧
          q'.spanOn = (f.predBit p.toNat != (ng == 1))))

/-- 16 R317: the frame of the integer forms that write one general register. -/
def Obligations.IntegerFrame : Prop :=
  ∀ (s : State) (r : FibreRef) (t : Team) (f : Fibre) (d a b : BitVec 7) (fn : BitVec 4) (im : BitVec 11) (w m k1 : BitVec 1)
    (k : BitVec 2) (c p : BitVec 6) (l : BitVec 5) (lit : BitVec 32) (sh : BitVec 3) (i : Instr),
    Ready s r t f [d.toNat, a.toNat, b.toNat] [] (List.range 32) [] →
    i ∈ [Instr.add d a b fn, .sub d a b fn, .mad d a b fn, .addi d a im, .mul d a b fn, .div d a b k1 w, .rem d a b k1 w,
      .minmax d a b k1 m w, .andR d a b, .orR d a b, .xorR d a b, .andn d a b] ++
      [.andi d a im, .ori d a im, .xori d a im, .shift d a b w k, .shifti d a w k c, .bfx d a l p, .bfi d a l p, .bitop d a fn,
       .mov d a fn, .movRdp d, .movFromSpecial d a, .movi d im, .movl d lit, .movlS d lit, .movlHi d lit, .lea d a b w sh] →
    ∃ s' x, exec i s = .next s' ∧ OnlyFibre s s' r ∧ s'.fibre? r = some x ∧ f.onlyRegs x [d.toNat]

/-! ### Control flow, traps and system registers -/

/-- 15 R301, 16 R332 and R333. -/
def Obligations.BranchResult : Prop :=
  ∀ (s : State) (r : FibreRef) (t : Team) (f : Fibre) (q : Clause) (p : BitVec 5) (n : BitVec 1) (o : BitVec 19) (a : BitVec 7),
    let off := fun (op : Nat) => op * 2 ^ 25 + p.toNat * 2 ^ 20 + n.toNat * 2 ^ 19 + o.toNat
    decode (off 0x20) 0 0 0 = .ok (.bra p n o) ∧ decode (off 0x21) 0 0 0 = .ok (.call p n o) ∧
    (Ready s r t f [a.toNat] [] [p.toNat] [] → f.clause = some q →
    let target := BitVec.ofInt 52 ((q.head : Int) + 4 * o.toInt)
    let next := BitVec.ofNat 52 (q.head + 4 * (hdrCount q.hdr + 1))
    let holds := (p = 0 ∨ f.pred.getLsbD p.toNat = true) ↔ n = 0
    (holds → exec (.bra p n o) s = .next (s.updFibre r fun x => { x with pc := target, clause := none, since := s.aclk })) ∧
    (¬ holds → exec (.bra p n o) s = .next (s.passed r 1 id)) ∧
    (holds → exec (.call p n o) s = .next (s.updFibre r fun x => { x with lk := next, pc := target, clause := none, since := s.aclk })) ∧
    (¬ holds → exec (.call p n o) s = .next (s.passed r 1 id)) ∧
    ((f.reg a.toNat).toNat < 2 ^ 52 → (f.reg a.toNat).toNat % 4 = 0 →
      exec (.jmp a) s = .next (s.updFibre r fun x => { x with pc := (f.reg a.toNat).setWidth 52, clause := none, since := s.aclk }) ∧
      exec (.callr a) s = .next (s.updFibre r fun x =>
        { x with lk := next, pc := (f.reg a.toNat).setWidth 52, clause := none, since := s.aclk })) ∧
    (f.lk.toNat % 4 = 0 →
      exec .ret s = .next (s.updFibre r fun x => { x with pc := f.lk, clause := none, since := s.aclk })))

/-- 16 R333: the checks of an indirect target. -/
def Obligations.JumpFaults : Prop :=
  ∀ (s : State) (r : FibreRef) (t : Team) (f : Fibre) (a : BitVec 7), Ready s r t f [a.toNat] [] [] [] →
    (2 ^ 52 ≤ (f.reg a.toNat).toNat →
      exec (.jmp a) s = .next (s.raiseAt r ⟨0x03, 2, (f.reg a.toNat).toNat, 0⟩ [] 0) ∧
      exec (.callr a) s = .next (s.raiseAt r ⟨0x03, 2, (f.reg a.toNat).toNat, 0⟩ [] 0)) ∧
    ((f.reg a.toNat).toNat < 2 ^ 52 → (f.reg a.toNat).toNat % 4 ≠ 0 →
      exec (.jmp a) s = .next (s.raiseAt r ⟨0x05, 0, (f.reg a.toNat).toNat, 0⟩ [] 0) ∧
      exec (.callr a) s = .next (s.raiseAt r ⟨0x05, 0, (f.reg a.toNat).toNat, 0⟩ [] 0)) ∧
    (f.lk.toNat % 4 ≠ 0 → exec .ret s = .next (s.raiseAt r ⟨0x05, 0, f.lk.toNat, 0⟩ [] 0))

/-- 16 R334 to R336. -/
def Obligations.FibreLifeResult : Prop :=
  ∀ (s : State) (r : FibreRef) (t : Team) (f : Fibre) (d a b : BitVec 7) (n : BitVec 4) (key : BitVec 16),
    Ready s r t f (a.toNat :: (List.range n.toNat).map (fun k => b.toNat + k)) [d.toNat] [] [] → n.toNat ≤ 4 →
    let entry := (f.reg a.toNat).toNat
    let pay := (List.range 4).map (fun k => if k < n.toNat then f.reg (b.toNat + k) else 0)
    let s0 := s.updTeam r.team (fun u => u.releaseDue s.aclk)
    (f.handler.isSome ∨ f.faults = [] → (∀ c ∈ f.cf, c = 0) → f.sq = [] → f.ll = [] → f.hostFail = [] →
      (∀ o ∈ s.remote, o.host = true → ∀ pc, o.who ≠ .store r pc) →
      exec .exitF s = .next (s.endFibre r false) ∧
      (d.toNat ∉ f.spoilt → entry < 2 ^ 52 → entry % 4 = 0 → depositReady s r f = true →
        let dep : Deposit := ⟨r.fibre, entry, (f.reg d.toNat).setWidth 16 &&& key, pay⟩
        exec (.rebin d a b n key) s = .next (((s0.updTeam r.team fun u => { u with
            reorderSince := if u.reorder.isEmpty then u.residentTime s.aclk else u.reorderSince
            reorder := u.reorder ++ [dep] }).endFibre r true).updTeam r.team
          (fun u => if 32 ≤ (u.group dep).length then u.releaseGroup dep s.aclk else u)))) ∧
    (entry < 2 ^ 52 → entry % 4 = 0 →
      ((∀ x ∈ t.fibres, x.live = true ∨ s.aclk ≤ x.since) →
        exec (.spawn d a b n key) s = .next (((s.updFibre r fun x => x.setReg d.toNat (BitVec.allOnes 64)).count t.ctx 0x35 1).past r 2 false s.aclk)) ∧
      (∀ x u, t.fibres.find? (fun x => !x.live && decide (x.since < s.aclk)) = some x → s0.team? r.team = some u →
        if (s0.binFree u || !u.bins.isEmpty) && depositReady s0 r f then
          exec (.spawn d a b n key) s = .next (((s0.updTeam r.team fun v =>
            (v.updFibre x.idx fun _ => { Fibre.fresh x.idx u.kernel.windowRegs s.aclk with
              status := .inBin, fmode := f.fmode, srseed := seedOf u.linear x.idx }).binDeposit (s0.binFree v)
              ⟨x.idx, entry, key, pay⟩ s.aclk).updFibre r fun y => y.setReg d.toNat (BitVec.ofNat 64 x.idx)).past r 2 false s.aclk)
        else exec (.spawn d a b n key) s = .next s0))

/-- 16 R338. -/
def Obligations.YieldResult : Prop :=
  ∀ (s : State) (r : FibreRef) (t : Team) (f : Fibre), Ready s r t f [] [] [] [] → f.nearSlot = none →
    (t.state = .running → s.coreWanted t = false → (∀ c, s.ctx? t.ctx = some c → c.held = false) →
      exec .yield s = .next ((s.beginSlice t).past r 1 false s.aclk) ∧
      ∀ u, s.team? t.id = some u → ∃ u', (s.beginSlice t).team? t.id = some u' ∧ u'.slice = u.slice + 1 ∧
        u'.budgetEnd = u.residentTime s.aclk + u.kernel.budget) ∧
    (t.state = .running → s.coreWanted t = true →
      exec .yield s = .next ((s.updFibre r fun x => x.pass 1 false s.aclk).swapPoint t.id false false false)) ∧
    (t.state = .running →
      exec .yieldSave s = .next ((s.updFibre r fun x => x.pass 1 false s.aclk).swapPoint t.id false false false) ∧
      (t.kernel.restartPc = 0 →
        exec .yieldRestart s = .next ((s.updFibre r fun x => x.pass 1 false s.aclk).swapPoint t.id false false false))) ∧
    (t.state = .preemptPending → f.handler = none →
      exec .yield s = .next ((s.updFibre r fun x => x.pass 1 false s.aclk).swapPoint t.id false false true) ∧
      exec .yieldSave s = .next ((s.updFibre r fun x => x.pass 1 false s.aclk).swapPoint t.id false false true)) ∧
    (t.state = .running ∨ t.state = .preemptPending → t.kernel.restartPc ≠ 0 →
      exec .yieldRestart s = .next ((s.updFibre r fun x => x.pass 1 false s.aclk).swapPoint t.id true false false))

/-- 16 R339, 14 R277 to R281: the software trap. -/
def Obligations.TrapResult : Prop :=
  ∀ (s : State) (r : FibreRef) (t : Team) (f : Fibre) (q : Clause) (c : Context) (im : BitVec 11) (w : Nat),
    Ready s r t f [] [] [] [] → f.clause = some q → f.away = none → t.resident = true → s.ctx? t.ctx = some c →
    fetchWord s t.ctx (dieOf t f) f.pc.toNat = .ok w → lengthOf w = 1 →
    (f.handler = none → c.trapHandler ≠ 0 →
      ∃ (s1 : State) (e : TrapEntry), exec (.trap im) s = .next (s1.beginEntry r e) ∧ s1.teams = s.teams ∧
        (∀ c' : Context, s1.ctx? t.ctx = some c' → c'.recSeq = c.recSeq + 1) ∧
        e.cause = 0x17 ∧ e.addr = 0 ∧ e.pc = f.pc.toNat ∧ e.skipPc = f.pc.toNat + 4 ∧ e.clausePc = q.head ∧ e.clause = some q ∧
        e.recAddr = c.trapRing + 1024 * ((c.recSeq + 1) % 2 ^ (c.ringOrder + 4))) ∧
    (f.handler.isSome ∨ c.trapHandler = 0 →
      ∃ info : RecordInfo, exec (.trap im) s = .next (s.terminateJob t.job t.ctx 2 (some t) (some f) info) ∧ info.cause = 0x17 ∧
        info.kind = 0 ∧ info.pc = f.pc.toNat ∧ info.inHandler = true)

/-- 14 R280 steps 2 to 5. -/
def Obligations.HandlerEntry : Prop :=
  ∀ (s : State) (r : FibreRef) (t : Team) (f : Fibre) (c : Context) (e : TrapEntry) (ls : List Loc),
    s.team? r.team = some t → t.fibre? r.fibre = some f → s.ctx? t.ctx = some c → f.entering = some e →
    4 ≤ f.regs.length → f.csp.toNat % 8 = 0 → c.handlerOf e.cause ≠ 0 →
    (∀ n, n < 4 → n ∉ f.spoilt) → handlerUsable s t.ctx (dieOf t f) (c.handlerOf e.cause) = none →
    framePlaces s t.ctx (dieOf t f) ((f.csp.toNat + 2 ^ 52 - 128) % 2 ^ 52) 16 = .ok ls →
    ∃ x, (s.enterHandler r).fibre? r = some x ∧
      x.pc = BitVec.ofNat 52 (c.handlerOf e.cause) ∧ x.csp = f.csp - 128 ∧
      x.reg 0 = (f.csp - 128).setWidth 64 ∧ x.reg 1 = BitVec.ofNat 64 e.cause ∧ x.reg 2 = BitVec.ofNat 64 e.recAddr ∧
      x.reg 3 = BitVec.ofNat 64 e.addr ∧ (∀ n, 4 ≤ n → x.reg n = f.reg n) ∧
      x.pred = 1 ∧ x.fmode = 0 ∧ x.clause = none ∧ x.entering = none ∧
      x.handler = some ⟨e.cause, e.pc, e.skipPc, e.clause, longWords e.words⟩ ∧ x.lk = f.lk ∧ x.fflags = f.fflags ∧ x.srseed = f.srseed ∧
      x.sq.length = f.sq.length + min ls.length 16 ∧ (s.enterHandler r).mem = s.mem

/-- 14 R282, R283; 16 R340. -/
def Obligations.ReturnResult : Prop :=
  ∀ (s : State) (r : FibreRef) (t : Team) (f : Fibre), Ready s r t f [] [] [] [] →
    (f.handler = none →
      exec .rftResume s = .next (s.raiseAt r ⟨0x01, 0, 0, 0⟩ [] 0) ∧
      exec .rftSkip s = .next (s.raiseAt r ⟨0x01, 0, 0, 0⟩ [] 0) ∧
      exec .rftKill s = .next (s.raiseAt r ⟨0x01, 0, 0, 0⟩ [] 0)) ∧
    ∀ (m : HandlerMark) (v : Nat) (s1 : State), f.handler = some m → recordAt r t f f.csp.toNat 16 0 s = .ok (v, s1) →
      let s2 := s1.takeAnswers r f.seq
      let w : Nat → Dword := fun k => BitVec.ofNat 64 (v / 2 ^ (64 * k))
      let clean := (∀ k, k ≤ 2 ∨ k = 4 → (w k).toNat < 2 ^ 52) ∧ (w 11).toNat < 2 ^ 8 ∧ ∀ k, 12 ≤ k → k < 16 → w k = 0
      let pc := (w 0).toNat
      (¬ clean →
        exec .rftResume s = .next (s.raiseAt r ⟨0x18, 0, f.csp.toNat, 0⟩ [] 0) ∧
        exec .rftSkip s = .next (s.raiseAt r ⟨0x18, 0, f.csp.toNat, 0⟩ [] 0) ∧
        exec .rftKill s = .next (s.raiseAt r ⟨0x18, 0, f.csp.toNat, 0⟩ [] 0)) ∧
      (clean → pc ≠ m.pc → pc % 4 ≠ 0 →
        exec .rftResume s = .next (s.raiseAt r ⟨0x01, 0, 0, 0⟩ [] 0) ∧ exec .rftSkip s = .next (s.raiseAt r ⟨0x01, 0, 0, 0⟩ [] 0)) ∧
      (clean → ∃ info : RecordInfo, exec .rftKill s = .next (s2.terminateJob t.job t.ctx 3 (some t) (some f) info) ∧
        info.cause = (w 11).toNat ∧ info.kind = 3) ∧
      (clean → pc = m.pc → ∃ g : Fibre → Fibre,
        exec .rftSkip s = .next ((s2.updTeam r.team fun u => u.withdrawSigner f false).updFibre r g) ∧ ∀ x, (g x).pc = BitVec.ofNat 52 m.skipPc ∧ (g x).handler = none ∧
        (g x).csp = x.csp + 128 ∧ (g x).lk = (w 4).setWidth 52 ∧
        (4 ≤ x.regs.length → (g x).reg 0 = w 5 ∧ (g x).reg 1 = w 6 ∧ (g x).reg 2 = w 7 ∧ (g x).reg 3 = w 8) ∧
        (∀ n, 4 ≤ n → (g x).reg n = x.reg n)) ∧
      (clean → pc = m.pc → resumesAsSkip m.cause = false →
        ∃ g : Fibre → Fibre, exec .rftResume s = .next (s2.updFibre r g) ∧ ∀ x, (g x).pc = BitVec.ofNat 52 m.pc ∧ (g x).clause = m.clause ∧
          (g x).handler = none ∧ (g x).csp = x.csp + 128 ∧ (g x).lk = (w 4).setWidth 52 ∧
          (g x).predBit 0 = true ∧ (∀ i, 1 ≤ i → i < 32 → (g x).predBit i = (w 3).getLsbD i) ∧
          (∀ i, (g x).fmode.getLsbD i = ((decide (i < 2) || decide (3 ≤ i ∧ i < 8)) && (w 3).getLsbD (32 + i))) ∧
          (∀ i, (g x).fflags.getLsbD i = (decide (i < 5) && (w 3).getLsbD (48 + i))))

/-- 16 R341 to R343. -/
def Obligations.SystemRegisterResult : Prop :=
  ∀ (s : State) (r : FibreRef) (t : Team) (f : Fibre) (d : BitVec 7) (sel : BitVec 11), Ready s r t f [] [d.toNat] [] [] →
    exec (.sysrd d 0x000) s = .next (s.passed r 1 fun x => x.setReg d.toNat 1) ∧
    exec (.sysrd d 0x001) s = .next (s.passed r 1 fun x => x.setReg d.toNat 0) ∧
    exec (.sysrd d 0x002) s = .next (s.passed r 1 fun x => x.setReg d.toNat (BitVec.ofNat 64 (s.aclk * 10 / 36))) ∧
    exec (.sysrd d 0x004) s = .next (s.passed r 1 fun x => x.setReg d.toNat (BitVec.ofNat 64 t.linear)) ∧
    exec (.sysrd d 0x005) s = .next (s.passed r 1 fun x => x.setReg d.toNat (BitVec.ofNat 64 t.deadline)) ∧
    exec (.sysrd d 0x010) s = .next (s.passed r 1 fun x => x.setReg d.toNat s.thermal) ∧
    exec (.sysrd d 0x011) s = .next (s.passed r 1 fun x => x.setReg d.toNat s.dieStatus) ∧
    exec (.sysrd d 0x012) s = .next (s.passed r 1 fun x => x.setReg d.toNat (if s.bootDone then 1 else 0)) ∧
    exec (.sysrd d 0x013) s = .next (s.passed r 1 fun x => x.setReg d.toNat s.grid) ∧
    exec (.sysrd d 0x015) s = .next (s.passed r 1 fun x => x.setReg d.toNat (BitVec.ofNat 64 s.linkDiscard)) ∧
    (f.idx < 2 ^ 11 → t.ctx < 2 ^ 6 → f.away = none → t.die < 2 ^ 5 → (∀ c, t.core = some c → c.idx < 2 ^ 4) → t.jobCls < 4 →
      ∃ v : Dword, exec (.sysrd d 0x003) s = .next (s.passed r 1 fun x => x.setReg d.toNat v) ∧
        v.toNat % 2 ^ 11 = f.idx ∧ v.toNat / 2 ^ 22 % 2 ^ 6 = t.ctx ∧ v.toNat / 2 ^ 15 % 2 ^ 5 = t.die ∧ v.toNat / 2 ^ 28 % 4 = t.jobCls) ∧
    exec (.syswr d sel) s = .next (s.passed r 1 id)

/-- 09 R197 to R199, 17 R352 and R357, 04 R96, 15 R307. -/
def Obligations.FenceExtResult : Prop :=
  ∀ (s : State) (r : FibreRef) (t : Team) (f : Fibre) (c k : BitVec 3) (b e : BitVec 7) (m : BitVec 2) (pl : BitVec 16) (w1 w2 w3 : BitVec 32),
    Ready s r t f [b.toNat] [] [] [] →
    exec .fenceLight s = .next (s.passed r 1 id) ∧
    (f.loadsPending = false → storesDone s r f 5 = true → f.hostFail = [] → s.probesToward (dieOf t f) = false →
      (k = 2 → exec (.fence c k) s = .next (s.passed r 1 id)) ∧
      (k ≠ 2 → 2 ≤ c.toNat → exec (.fence c k) s = .next ((s.acquireAt t f c.toNat).past r 1 false s.aclk)) ∧
      (k ≠ 2 → c.toNat < 2 → exec (.fence c k) s = .next (s.passed r 1 id)) ∧
      (teamDrained s t.job t.ctx (f.reg b.toNat).toNat = true →
        exec (.fenceHeavy b) s = .next ((s.acquireAt t f 4).past r 1 false s.aclk))) ∧
    (1 ≤ c.toNat → c.toNat ≤ 4 → redfPending s r f = false → (f.loadsPending || !storesDone s r f c.toNat) = true →
      exec (.fence c 2) s = .next ((s.updFibre r fun x => { x with fences := x.fences ++ [(f.seq, c.toNat)] }).past r 1 false s.aclk)) ∧
    (f.nearSlot = none → e.toNat < 8 →
      exec (.ext e m pl w1 w2 w3) s = .next (s.raiseAt r ⟨0x01, 0, 0, 0⟩ [] 0)) ∧
    (f.nearSlot = none → 8 ≤ e.toNat →
      exec (.ext e m pl w1 w2 w3) s = .next (s.raiseAt r ⟨0x02, 0, 0, 0⟩ [] 0)) ∧
    (∀ (o : BitVec 6) (sp : BitVec 2) (ln : BitVec 1),
      let va := (f.reg b.toNat + BitVec.ofInt 64 (o.toInt * 8)).toNat
      (∃ s1 : State, exec (.pref b o sp ln) s = .next (s1.past r 1 false s.aclk) ∧ s1.mem = s.mem ∧ s1.teams = s.teams) ∧
      (∀ x, access s t f .load sp.toNat va 1 1 = .error x → exec (.pref b o sp ln) s = .next (s.passed r 1 id))) ∧
    (∀ (d : BitVec 7) (sc : BitVec 3), Ready s r t f [b.toNat, d.toNat] [] [] [] →
      let x := (f.reg b.toNat).toNat
      let n := (f.reg d.toNat).toNat
      let lo := x / 256 * 256
      let hi := (x + n + 255) / 256 * 256
      (0 < n → hi - lo ≤ 2 ^ 24 → hi ≤ 2 ^ 52 → f.loadsPending = false →
        exec (.acqr b d sc) s = .next ((s.acquireRange t f lo hi).past r 1 false s.aclk)) ∧
      (n = 0 ∨ 2 ^ 24 < hi - lo ∨ 2 ^ 52 < hi → exec (.acqr b d sc) s = .next (s.raiseAt r ⟨0x03, 0, x, 0⟩ [] 0))) ∧
    (∀ (d : BitVec 7) (o : BitVec 6) (sp : BitVec 2) (w : BitVec 1) (mb : MemLoc), Ready s r t f [b.toNat, d.toNat] [] [] [] →
      let va := (f.reg b.toNat + BitVec.ofInt 64 (o.toInt * 8)).toNat
      leafFor s t.ctx (dieOf t f) va ≠ .none → va < 2 ^ 52 → (f.reg d.toNat).toNat < 2 ^ 52 →
      mailboxWord s t.ctx ((s.ctx? t.ctx).elim 0 fun y => y.pagerMbox) = .ok mb → mailboxOwned s mb = false →
      f.loadsPending = false → storesDone s r f 4 = true →
      exec (.preq d b o sp w) s = .next ((postRequest s r t.ctx mb (va / 2 ^ 16) (f.reg d.toNat).toNat (w == 1) (coreOf t f)).past r 1 false s.aclk))

/-! ### Loads, stores and the cache forms -/

/-- 17 R346, R347, R349, R351, R364. -/
def Obligations.LoadIssue : Prop :=
  ∀ (s : State) (r : FibreRef) (t : Team) (f : Fibre) (c : Nat) (d b : BitVec 7) (o : BitVec 6) (sp : BitVec 2) (z sc k : BitVec 3)
    (z1 : BitVec 1) (p : BitVec 5) (l l1 : Loc),
    z.toNat ≤ 4 → f.canIssue c → l.isLocal → l1.isLocal →
    let n : Nat := 2 ^ z.toNat
    let m : Nat := if z1 = 0 then 4 else 8
    let va := (f.reg b.toNat + BitVec.ofInt 64 (o.toInt * n)).toNat
    let vp := (f.reg b.toNat + BitVec.ofInt 64 (o.toInt * m)).toNat
    let vt := (f.reg b.toNat + BitVec.ofInt 64 (o.toInt * 8)).toNat
    let base := (f.reg b.toNat).toNat
    let pl : Strength := ⟨false, 0, 0⟩
    let dst := if n = 16 then [d.toNat, d.toNat + 1] else [d.toNat]
    (Ready s r t f [b.toNat] dst [] [] → access s t f .load sp.toNat va n n = .ok (.ok l) → meetsPoison s t f l n pl = false →
      exec (.ld d b o sp z) s = .next (s.issued r 1 c (.load l n d.toNat ⟨false, 0, 0⟩) dst [] [])) ∧
    (z.toNat ≤ 3 → Ready s r t f [b.toNat] [d.toNat] [] [] → access s t f .load sp.toNat base n n = .ok (.ok l) →
      meetsPoison s t f l n ⟨true, sc.toNat, k.toNat⟩ = false →
      exec (.lds d b sc k sp z) s = .next (s.issued r 1 c (.load l n d.toNat ⟨true, sc.toNat, k.toNat⟩) dst [] [])) ∧
    (Ready s r t f [b.toNat] [d.toNat, d.toNat + 1] [] [] →
      access s t f .load sp.toNat vp m m = .ok (.ok l) → access s t f .load sp.toNat (vp + m) m m = .ok (.ok l1) →
      meetsPoison s t f l m pl = false → meetsPoison s t f l1 m pl = false →
      exec (.ldp d b o sp z1) s = .next (s.issued r 1 c (.pair l l1 m d.toNat) [d.toNat, d.toNat + 1] [] [])) ∧
    (Ready s r t f [b.toNat] dst [p.toNat] [] → access s t f .load sp.toNat base n n = .ok (.ok l) → meetsPoison s t f l n pl = false →
      exec (.ldnr d b p sp z) s = .next (s.issued r 1 c (.loadNr (some l) n d.toNat p.toNat) dst [p.toNat] [])) ∧
    (Ready s r t f [b.toNat] dst [p.toNat] [] → access s t f .load sp.toNat base n n = .ok .nonres →
      exec (.ldnr d b p sp z) s = .next (s.issued r 1 c (.loadNr none n d.toNat p.toNat) dst [p.toNat] [])) ∧
    (∀ q, Ready s r t f [b.toNat] [d.toNat] [] [] → access s t f .tagRead 0 vt 8 8 = .ok (.ok (.mem q)) →
      exec (.tagq d b o) s = .next (s.issued r 1 c (.tagq (.mem q) d.toNat) [d.toNat] [] []))

/-- 15 R309: alignment is checked first. -/
def Obligations.MisalignedAccess : Prop :=
  ∀ (s : State) (r : FibreRef) (t : Team) (f : Fibre) (d b : BitVec 7) (o : BitVec 6) (sp : BitVec 2) (z sc k : BitVec 3),
    z.toNat ≤ 4 →
    let n : Nat := 2 ^ z.toNat
    let va := (f.reg b.toNat + BitVec.ofInt 64 (o.toInt * n)).toNat
    let base := (f.reg b.toNat).toNat
    let ds := if n = 16 then [d.toNat, d.toNat + 1] else [d.toNat]
    (va % n ≠ 0 →
      (Ready s r t f [b.toNat] ds [] [] → exec (.ld d b o sp z) s = .next (s.raiseAt r ⟨0x05, 0, va, 0⟩ [] 0)) ∧
      (Ready s r t f (b.toNat :: ds) [] [] [] → exec (.st d b o sp z) s = .next (s.raiseAt r ⟨0x05, 0, va, 0⟩ [] 0))) ∧
    (z.toNat ≤ 3 → base % n ≠ 0 →
      (Ready s r t f [b.toNat] [d.toNat] [] [] → exec (.lds d b sc k sp z) s = .next (s.raiseAt r ⟨0x05, 0, base, 0⟩ [] 0)) ∧
      (Ready s r t f [b.toNat, d.toNat] [] [] [] → exec (.sts d b sc k sp z) s = .next (s.raiseAt r ⟨0x05, 0, base, 0⟩ [] 0)))

/-- 15 R295 with 17 R346, R351, R364: LONG_LATENCY_DROP. -/
def Obligations.LoadDrop : Prop :=
  ∀ (s : State) (r : FibreRef) (t : Team) (f : Fibre) (i c n d p : Nat) (op : LongOp) (l : Loc) (q : MemLoc),
    s.team? r.team = some t → t.fibre? r.fibre = some f → f.ll[i]? = some op → op.counter = some c → f.entering = none → n ≤ 8 →
    let fin := fun (s1 : State) (v : Dword) => s1.updFibre r fun x => { x.setReg d v with
      cf := x.cf.set c (x.cf.getD c 0 - 1), ll := x.ll.filter (fun o => o != op) }
    (∀ bs s1, op.kind = .load l n d ⟨false, 0, 0⟩ → loadReady s t f op.seq l ⟨false, 0, 0⟩ = true → f.sq = [] →
      s.readPlace (coreOf t f) (dieOf t f) t.ctx l n ⟨false, 0, 0⟩ = ((bs, false), s1) → bs.length = n →
      ∃ s2, exec (.longLatencyDrop r.team r.fibre i) s = .next s2 ∧
        s2 = { fin s1 (BitVec.ofNat 64 (natOfBytes bs)) with ctxs := s2.ctxs } ∧
        ((∀ w, l = .mem w → w.cls ≠ 2) → s2 = fin s1 (BitVec.ofNat 64 (natOfBytes bs)))) ∧
    (∀ v, op.kind = .value [(d, v)] none → exec (.longLatencyDrop r.team r.fibre i) s = .next (fin s v)) ∧
    (op.kind = .loadNr none n d p → p ≠ 0 →
      exec (.longLatencyDrop r.team r.fibre i) s = .next (s.updFibre r fun x => { (x.setReg d 0).setPred p false with
        cf := x.cf.set c (x.cf.getD c 0 - 1), ll := x.ll.filter (fun o => o != op) })) ∧
    (op.kind = .tagq (.mem q) d → q.cls ≠ 2 → loadReady s t f op.seq (.mem q) ⟨true, 4, 0⟩ = true →
      exec (.longLatencyDrop r.team r.fibre i) s = .next (fin s (if s.mem.full.contains (q.pa / 8) then 1 else 0)))

/-- 17 R346 to R350. -/
def Obligations.StoreQueue : Prop :=
  ∀ (s : State) (r : FibreRef) (t : Team) (f : Fibre) (d b : BitVec 7) (o : BitVec 6) (sp : BitVec 2) (z sc k : BitVec 3)
    (z1 : BitVec 1) (l l1 : Loc),
    z.toNat ≤ 4 →
    let n : Nat := 2 ^ z.toNat
    let m : Nat := if z1 = 0 then 4 else 8
    let va := (f.reg b.toNat + BitVec.ofInt 64 (o.toInt * n)).toNat
    let vp := (f.reg b.toNat + BitVec.ofInt 64 (o.toInt * m)).toNat
    let vm := (f.reg b.toNat + BitVec.ofInt 64 (o.toInt * 8)).toNat
    let vn := (f.reg b.toNat + BitVec.ofInt 64 o.toInt).toNat
    let base := (f.reg b.toNat).toNat
    let bytes := fun (v : Dword) (n : Nat) => (List.range n).map (fun i => some (BitVec.ofNat 8 (v.toNat / 2 ^ (8 * i))))
    let pl : Strength := ⟨false, 0, 0⟩
    let one := Ready s r t f [b.toNat, d.toNat] [] [] []
    let two := Ready s r t f [b.toNat, d.toNat, d.toNat + 1] [] [] []
    (z.toNat ≤ 3 → one → access s t f .store sp.toNat va n n = .ok (.ok l) →
      exec (.st d b o sp z) s = .next (s.queued r 1 (.write l (bytes (f.reg d.toNat) n)) pl)) ∧
    (z.toNat = 4 → two → access s t f .store sp.toNat va n n = .ok (.ok l) →
      exec (.st d b o sp z) s = .next (s.passed r 1 fun x =>
        (x.enqueue (.write l (bytes (f.reg d.toNat) 8)) pl).enqueue (.write (l.plus 8) (bytes (f.reg (d.toNat + 1)) 8)) pl)) ∧
    (z.toNat ≤ 3 → one → access s t f .store sp.toNat base n n = .ok (.ok l) →
      exec (.sts d b sc k sp z) s = .next (s.queued r 1 (.write l (bytes (f.reg d.toNat) n)) ⟨true, sc.toNat, k.toNat⟩)) ∧
    (two → access s t f .store sp.toNat vp m m = .ok (.ok l) → access s t f .store sp.toNat (vp + m) m m = .ok (.ok l1) →
      exec (.stp d b o sp z1) s = .next (s.passed r 1 fun x =>
        (x.enqueue (.write l (bytes (f.reg d.toNat) m)) pl).enqueue (.write l1 (bytes (f.reg (d.toNat + 1)) m)) pl)) ∧
    (one → vn < 2 ^ 53 → access s t f .store sp.toNat (vn / 2) 1 1 = .ok (.ok l) → l.isLocal →
      exec (.stn d b o sp) s = .next (s.queued r 1 (.nibble l (vn % 2 == 1) ((f.reg d.toNat).setWidth 4)) pl)) ∧
    (two → access s t f .store sp.toNat vm 8 8 = .ok (.ok l) → (f.reg (d.toNat + 1)).toNat % 256 ≠ 0 →
      exec (.stm d b o sp) s = .next (s.queued r 1 (.write l ((List.range 8).map fun i =>
        if (f.reg (d.toNat + 1)).getLsbD i then some (BitVec.ofNat 8 ((f.reg d.toNat).toNat / 2 ^ (8 * i))) else none)) pl)) ∧
    (two → access s t f .store sp.toNat vm 8 8 = .ok (.ok l) → (f.reg (d.toNat + 1)).toNat % 256 = 0 →
      exec (.stm d b o sp) s = .next (s.passed r 1 id))

/-- The frame of issue and queueing. -/
def Obligations.AccessIssueFrame : Prop :=
  ∀ (s : State) (r : FibreRef) (t : Team) (f : Fibre) (len c : Nat) (k : LongKind) (regs preds tiles : List Nat) (w : StoreKind) (st : Strength),
    s.current = some (r, t, f) →
    (OnlyFibre s (s.issued r len c k regs preds tiles) r ∧ (s.issued r len c k regs preds tiles).mem = s.mem ∧
      ∃ x, (s.issued r len c k regs preds tiles).fibre? r = some x ∧
        x = { f with pc := x.pc, clause := x.clause, since := x.since, cf := x.cf, ll := x.ll, seq := x.seq } ∧
        (∀ n, n ≠ c → x.cf.getD n 0 = f.cf.getD n 0)) ∧
    (OnlyFibre s (s.queued r len w st) r ∧ (s.queued r len w st).mem = s.mem ∧
      ∃ x, (s.queued r len w st).fibre? r = some x ∧
        x = { f with pc := x.pc, clause := x.clause, since := x.since, sq := x.sq, seq := x.seq })

/-- 09 R191: STORE_PERFORM of a plain or masked store. -/
def Obligations.StorePerformed : Prop :=
  ∀ (s : State) (r : FibreRef) (t : Team) (f : Fibre) (op : StoreOp) (rest : List StoreOp) (m : MemLoc) (off : Nat)
    (bs : List (Option Byte)) (high : Bool) (v : BitVec 4),
    s.team? r.team = some t → t.fibre? r.fibre = some f → f.sq = op :: rest → storeReady s r t f op = true → s.mem.wf = true →
    (op.kind = .write (.mem m) bs → ∃ s', exec (.storePerform r.team r.fibre) s = .next s' ∧
      (∃ x, s'.fibre? r = some x ∧ x.sq = rest) ∧ s'.mem.full = s.mem.full ∧
      (∀ i, i < bs.length → sparseGet 0 s'.mem.cells (m.pa + i) = (bs.getD i none).getD (sparseGet 0 s.mem.cells (m.pa + i))) ∧
      (∀ a, a < m.pa ∨ m.pa + bs.length ≤ a → sparseGet 0 s'.mem.cells a = sparseGet 0 s.mem.cells a)) ∧
    (op.kind = .write (.scr t.id off) bs → sparseWf 0 t.scratch = true → ∃ s' t', exec (.storePerform r.team r.fibre) s = .next s' ∧
      s'.mem = s.mem ∧ s'.team? r.team = some t' ∧
      (∀ i, i < bs.length → sparseGet 0 t'.scratch (off + i) = (bs.getD i none).getD (sparseGet 0 t.scratch (off + i))) ∧
      (∀ a, a < off ∨ off + bs.length ≤ a → sparseGet 0 t'.scratch a = sparseGet 0 t.scratch a)) ∧
    (op.kind = .nibble (.mem m) high v → ∃ s', exec (.storePerform r.team r.fibre) s = .next s' ∧
      sparseGet 0 s'.mem.cells m.pa = (if high then (sparseGet 0 s.mem.cells m.pa &&& 0x0F) ||| (v.setWidth 8 <<< 4)
        else (sparseGet 0 s.mem.cells m.pa &&& 0xF0) ||| v.setWidth 8) ∧
      (∀ a, a ≠ m.pa → sparseGet 0 s'.mem.cells a = sparseGet 0 s.mem.cells a) ∧ s'.mem.full = s.mem.full)

/-- 17 R358 to R360 and 08 Table 8.6: the cache forms have their next state for every fibre on a core. -/
def Obligations.CacheFormResult : Prop :=
  ∀ (s : State) (r : FibreRef) (t : Team) (f : Fibre) (a d : BitVec 7),
    f.nearSlot = none →
    let x := (f.reg a.toNat).toNat
    let plainPass := Host.Outcome.next (s.passed r 1 id)
    let returned := fun (core : CoreId) (m : MemLoc) =>
      { s with coh := { s.coh with regn := s.coh.regn.filter (fun p => !(p.2 == core && p.1 / 16 == m.pa / 128)) } }
    let classed := fun (m : MemLoc) (cls : Nat) =>
      { s with coh := { s.coh with slices := s.coh.slices.map (fun (h : HomeLine) => if h.line == m.pa / 128 then { h with cls := cls } else h) } }
    (Ready s r t f [a.toNat] [] [] [] →
      (cachedLine s t f x = none →
        exec (.cacheFlush a) s = plainPass ∧ exec (.cacheInval a) s = plainPass ∧
        exec (.cacheRetain a) s = plainPass ∧ exec (.cacheEvict a) s = plainPass) ∧
      (coreOf t f = none → cachedLine s t f x = none) ∧
      (∀ m core, cachedLine s t f x = some (core, m) →
        exec (.cacheFlush a) s = .next ((returned core m).past r 1 false s.aclk) ∧
        exec (.cacheInval a) s = .next (((returned core m).dropLine core (m.pa / 128)).past r 1 false s.aclk) ∧
        exec (.cacheRetain a) s = .next ((classed m 2).past r 1 false s.aclk) ∧
        exec (.cacheEvict a) s = .next ((classed m 1).past r 1 false s.aclk))) ∧
    (Ready s r t f [] [d.toNat] [] [] →
      ∃ v : Dword, exec (.cacheWays d) s = .next (s.passed r 1 fun y => y.setReg d.toNat v) ∧
        (t.alloc ≤ t.reserved → t.reserved ≤ 16 → v.toNat % 32 = t.alloc ∧ v.toNat / 32 % 32 = t.reserved ∧
          v.toNat / 2 ^ 10 % 32 = s.freeWays t.core ∧ v.toNat / 2 ^ 15 % 32 = t.reserved - t.alloc)) ∧
    (Ready s r t f [a.toNat] [d.toNat] [] [] →
      ∀ l, access s t f .load 0 x 1 1 = .ok (.ok l) →
        ∃ v : Dword, exec (.rqdeg d a) s = .next (s.passed r 1 fun y => y.setReg d.toNat v) ∧
          (∀ m, l = .mem m → m.cls ≤ 1 → homeDie (m.pa / 128) < 16 →
            v.toNat / 16 % 16 = homeDie (m.pa / 128) ∧ v.toNat / 2 ^ 8 % 2 ^ 8 = (s.region (regionOf (m.pa / 128))).holders.toNat) ∧
          ((∀ m, l = .mem m → 1 < m.cls) → v = 0))

/-- 17 R360 and 08 R167: the issue of RESIZE, and RESIZE_SWITCH_POINT. -/
def Obligations.ResizeSwitch : Prop :=
  (∀ (s : State) (r : FibreRef) (t : Team) (f : Fibre) (c : Nat) (d a : BitVec 7),
    Ready s r t f [a.toNat] [d.toNat] [] [] → f.nearSlot = none → f.canIssue c →
      exec (.resize d a) s = .next (s.issued r 1 c (.resize (f.reg a.toNat).toNat d.toNat true) [d.toNat] [] []) ∧
      exec (.resizeRel d a) s = .next (s.issued r 1 c (.resize (f.reg a.toNat).toNat d.toNat false) [d.toNat] [] [])) ∧
  ∀ (s : State) (r : FibreRef) (t : Team) (f : Fibre) (i c n d : Nat) (keep : Bool) (op : LongOp),
    s.team? r.team = some t → t.fibre? r.fibre = some f → f.ll[i]? = some op → op.kind = .resize n d keep → op.counter = some c →
    f.entering = none → d < f.regs.length → n < 2 ^ 64 →
    (resizeRefused s t n = true → t.alloc < 2 ^ 64 → ∃ s' t' x, exec (.resizeSwitchPoint r.team r.fibre i) s = .next s' ∧
      s'.team? r.team = some t' ∧ t'.alloc = t.alloc ∧ t'.scratch = t.scratch ∧ s'.fibre? r = some x ∧ (x.reg d).toNat = t.alloc) ∧
    (resizeRefused s t n = false → (n < t.alloc → issuedAbove s t (n * wayBytes t.kernel.mcore) = false) →
      ∃ s' t' x, exec (.resizeSwitchPoint r.team r.fibre i) s = .next s' ∧ s'.team? r.team = some t' ∧ t'.alloc = n ∧
        s'.fibre? r = some x ∧ (x.reg d).toNat = n ∧ s'.mem = s.mem ∧
        ∀ a, sparseGet 0 t'.scratch a = if a < min n t.alloc * wayBytes t.kernel.mcore then sparseGet 0 t.scratch a else 0)

/-! ### Atomics, tagged words and barriers -/

namespace Sys2Proof.Claims

/-- 17 Table 17.2: the new value of an atomic by fn, on operands of `w` bits. -/
def atomic {w : Nat} (fn : Nat) (old b : BitVec w) : BitVec w :=
  match fn with
  | 0 => old + b
  | 1 => old - b
  | 2 => old &&& b
  | 3 => old ||| b
  | 4 => old ^^^ b
  | 5 => if b.slt old then b else old
  | 6 => if old.slt b then b else old
  | 7 => if b.ult old then b else old
  | 8 => if old.ult b then b else old
  | _ => b

/-- The number at a physical address: `n` bytes, the lowest first. -/
def valueAt (s : State) (pa n : Nat) : Nat := natOfBytes (sparseBytes s.mem.cells pa n)

end Sys2Proof.Claims

/-- 17 R353 to R356. -/
def Obligations.AtomicIssue : Prop :=
  ∀ (s : State) (r : FibreRef) (t : Team) (f : Fibre) (c : Nat) (d a b : BitVec 7) (fn : BitVec 4) (sc k : BitVec 3) (sp ft : BitVec 2)
    (w : BitVec 1) (l : Loc),
    f.canIssue c → l.isLocal →
    let two := Ready s r t f [a.toNat, b.toNat] [] [] []
    let ret := Ready s r t f [a.toNat, b.toNat] [d.toNat] [] []
    let va := (f.reg a.toNat).toNat
    let st : Strength := ⟨true, sc.toNat, k.toNat⟩
    let low := fun (n : Nat) (v : Dword) => BitVec.ofNat 64 (v.toNat % 2 ^ (8 * n))
    let m : Nat := if w = 0 then 8 else 4
    let e : Nat := if ft = 2 then 2 else 4
    let out := fun (op : AtomOp) (n : Nat) => ({ s with nextId := s.nextId + 1 } : State).updFibre r fun x => ({ x with
      cf := x.cf.set c (x.cf.getD c 0 + 1)
      ll := x.ll ++ [(⟨.atomic s.nextId d.toNat l st none, some c, [d.toNat], [], [], x.seq, x.pc.toNat, 2, s.aclk⟩ : LongOp)]
      sq := x.sq ++ [(⟨.atomic l op n (low n (f.reg b.toNat)) (some s.nextId), st, x.seq + 1, x.pc.toNat⟩ : StoreOp)]
      seq := x.seq + 2 } : Fibre).pass 2 true s.aclk
    (access s t f .atomic sp.toNat va 4 4 = .ok (.ok l) →
      (two → exec (.atom32 d a b fn sc k 1 sp) s = .next (s.queued r 2 (.atomic l (atomOp fn.toNat) 4 (low 4 (f.reg b.toNat)) none) st)) ∧
      (ret → (f.queuedPoison l).getD (s.poisonedAt l) = false → exec (.atom32 d a b fn sc k 0 sp) s = .next (out (atomOp fn.toNat) 4))) ∧
    (access s t f .atomic sp.toNat va 8 8 = .ok (.ok l) →
      (two → exec (.atom64 d a b fn sc k 1 sp) s = .next (s.queued r 2 (.atomic l (atomOp fn.toNat) 8 (f.reg b.toNat) none) st)) ∧
      (ret → (f.queuedPoison l).getD (s.poisonedAt l) = false → exec (.atom64 d a b fn sc k 0 sp) s = .next (out (atomOp fn.toNat) 8))) ∧
    (access s t f .atomic sp.toNat va m m = .ok (.ok l) →
      (two → exec (.red a b fn sc k sp w) s = .next (s.queued r 2 (.atomic l (atomOp fn.toNat) m (low m (f.reg b.toNat)) none) st)) ∧
      (Ready s r t f [a.toNat, b.toNat, d.toNat] [d.toNat] [] [] → (f.queuedPoison l).getD (s.poisonedAt l) = false → exec (.cas d a b w sc k sp) s = .next (out (.cas (low m (f.reg d.toNat))) m))) ∧
    (two → access s t f .redf 0 va e e = .ok (.ok l) →
      exec (.redf a b fn ft) s = .next (s.queued r 2 (.redf l ft.toNat fn.toNat (low e (f.reg b.toNat))) ⟨false, 0, 0⟩))

/-- 17 Table 17.2, 08 R179. -/
def Obligations.AtomicPerformed : Prop :=
  ∀ (s : State) (r : FibreRef) (t : Team) (f : Fibre) (op : StoreOp) (rest : List StoreOp) (m : MemLoc) (fn d : Nat) (v e : Dword)
    (ticket : Option Nat) (n : Nat),
    s.team? r.team = some t → t.fibre? r.fibre = some f → f.sq = op :: rest → storeReady s r t f op = true → s.mem.wf = true →
    s.mem.poison.contains (m.pa / 8) = false → n = 4 ∨ n = 8 → fn ≤ 9 → v.toNat < 2 ^ (8 * n) → e.toNat < 2 ^ (8 * n) →
    let old := Claims.valueAt s m.pa n
    let kept := fun (s' : State) => s'.mem.full = s.mem.full ∧
      ∀ a, a < m.pa ∨ m.pa + n ≤ a → sparseGet 0 s'.mem.cells a = sparseGet 0 s.mem.cells a
    (op.kind = .atomic (.mem m) (atomOp fn) n v ticket → ∃ s', exec (.storePerform r.team r.fibre) s = .next s' ∧
      Claims.valueAt s' m.pa n = (Claims.atomic fn (BitVec.ofNat (8 * n) old) (BitVec.ofNat (8 * n) v.toNat)).toNat ∧ kept s') ∧
    (op.kind = .atomic (.mem m) (.cas e) n v ticket → ∃ s', exec (.storePerform r.team r.fibre) s = .next s' ∧
      Claims.valueAt s' m.pa n = (if old = e.toNat then v.toNat else old) ∧ kept s') ∧
    (∀ o k l st, op.kind = .atomic (.mem m) o n v (some k) → (∃ x ∈ f.ll, x.kind = .atomic k d l st none) →
      ∃ s' x, exec (.storePerform r.team r.fibre) s = .next s' ∧ s'.fibre? r = some x ∧
        ∃ y ∈ x.ll, y.kind = .atomic k d l st (some (BitVec.ofNat 64 old)))

/-- 17 R361 to R363, 05 R113 and R114. -/
def Obligations.TaggedWordResult : Prop :=
  ∀ (s : State) (r : FibreRef) (t : Team) (f : Fibre) (c : Nat) (d a b : BitVec 7) (sc k : BitVec 3) (m : MemLoc),
    let va := (f.reg a.toNat).toNat
    let st : Strength := ⟨true, sc.toNat, k.toNat⟩
    let w := m.pa / 8
    let word := BitVec.ofNat 64 (Claims.valueAt s (8 * w) 8)
    let renewed := fun (x : State) => (coreOf t f).elim x fun c => x.refreshL1 c (m.pa / 128) [w]
    (access s t f .tagWrite 0 va 8 8 = .ok (.ok (.mem m)) →
      (Ready s r t f [a.toNat] [] [] [] →
        exec (.fill a sc k) s = .next (s.queued r 2 (.fill (.mem m) none) st) ∧
        exec (.fillEmpty a sc k) s = .next (s.queued r 2 (.fillEmpty (.mem m)) st)) ∧
      (Ready s r t f [a.toNat, b.toNat] [] [] [] →
        exec (.fillVal a b sc k) s = .next (s.queued r 2 (.fill (.mem m) (some (f.reg b.toNat))) st) ∧
        exec (.cntdn b a sc k) s = .next (s.queued r 1 (.cntdn (.mem m) (f.reg b.toNat)) st))) ∧
    (Ready s r t f [a.toNat] [d.toNat] [] [] → f.canIssue c →
      (s.mem.full.contains w = true → s.mem.poison.contains w = false →
        (access s t f .take 0 va 8 8 = .ok (.ok (.mem m)) → takeReady s r t f true m st = true →
          (∀ y ∈ s.coh.waiters, y.take = true → y.m.pa / 8 ≠ w) → exec (.take d a sc k) s =
          .next ((((renewed (s.setTag w false)).updFibre r fun x => x.setReg d.toNat word).acquireFor r st).past r 1 true s.aclk)) ∧
        (access s t f .tagRead 0 va 8 8 = .ok (.ok (.mem m)) → takeReady s r t f false m st = true → exec (.waitf d a sc k) s =
          .next ((((renewed s).updFibre r fun x => x.setReg d.toNat word).acquireFor r st).past r 1 true s.aclk))) ∧
      (s.mem.full.contains w = false ∨ (∃ y ∈ s.coh.waiters, y.take = true ∧ y.m.pa / 8 = w) →
        access s t f .take 0 va 8 8 = .ok (.ok (.mem m)) → takeReady s r t f true m st = true →
          ∃ s' x, exec (.take d a sc k) s = .next s' ∧ s'.mem = s.mem ∧
            s'.coh.waiters = s.coh.waiters ++ [⟨r, m, true, st⟩] ∧ s'.fibre? r = some x ∧ x.status = .tagWait m.va ∧ x.pc = f.pc) ∧
      (s.mem.full.contains w = false →
        (access s t f .tagRead 0 va 8 8 = .ok (.ok (.mem m)) → takeReady s r t f false m st = true →
          ∃ s' x, exec (.waitf d a sc k) s = .next s' ∧ s'.mem = s.mem ∧
            s'.coh.waiters = s.coh.waiters ++ [⟨r, m, false, st⟩] ∧ s'.fibre? r = some x ∧ x.status = .tagWait m.va ∧ x.pc = f.pc))) ∧
    (∀ op rest v, s.team? r.team = some t → t.fibre? r.fibre = some f → f.sq = op :: rest → storeReady s r t f op = true →
      s.mem.wf = true → m.pa % 8 = 0 → s.mem.poison.contains w = false → (∀ y ∈ s.coh.waiters, y.m.pa / 8 ≠ w) → (∀ y ∈ s.ctxs, y.graphs = []) →
      (op.kind = .fill (.mem m) (some v) → ∃ s', exec (.storePerform r.team r.fibre) s = .next s' ∧
        s'.mem.full.contains w = true ∧ Claims.valueAt s' m.pa 8 = v.toNat) ∧
      (op.kind = .fillEmpty (.mem m) → ∃ s', exec (.storePerform r.team r.fibre) s = .next s' ∧
        s'.mem.full.contains w = false ∧ s'.mem.cells = s.mem.cells) ∧
      (op.kind = .cntdn (.mem m) v → ∃ s', exec (.storePerform r.team r.fibre) s = .next s' ∧
        Claims.valueAt s' m.pa 8 = (word - v).toNat ∧
        (s'.mem.full.contains w = true ↔ s.mem.full.contains w = true ∨ word = v)))

/-- 17 R365 to R367, 07 Table 7.7. -/
def Obligations.BarrierResult : Prop :=
  ∀ (s : State) (r : FibreRef) (t : Team) (f : Fibre) (a b : BitVec 7) (o : Nat),
    let two := Ready s r t f [a.toNat, b.toNat] [] [] []
    f.nearSlot = none → s.team? t.id = some t →
    o = (f.reg a.toNat).toNat → o % 32 = 0 → o + 32 ≤ t.allocBytes → sparseWf 0 t.scratch = true →
    let l : Loc := .scr t.id o
    let x := s.barAt l
    (f.sq = [] → f.loadsPending = false → fencesMet s r f f.seq = true → s.blockedAt l false = [] → s.blockedAt l true = [] →
      (∀ n, two → (f.reg b.toNat).toNat % 2 ^ 12 = n → n ≠ 0 → ∃ s', exec (.binit a b 0) s = .next s' ∧
        s'.barAt l = 2 + n * 2 ^ 16 + n * 2 ^ 32 ∧ s'.mem = s.mem) ∧
      (Ready s r t f [a.toNat, b.toNat, b.toNat + 1, b.toNat + 2, b.toNat + 3] [] [] [] → barImageBad (image4 f b.toNat) = false → ∃ s', exec (.binitFull a b 0) s = .next s' ∧
        s'.barAt l = putBits (putBits (image4 f b.toNat) 1 1 1) 32 12 (barExpected (image4 f b.toNat)) ∧ s'.mem = s.mem)) ∧
    (f.sq = [] → f.loadsPending = false → fencesMet s r f f.seq = true → barUnusable x = false → participant (some t) t r.fibre x = true → barPendingArr x ≠ 0 →
      (Ready s r t f [a.toNat] [] [] [] → 2 ≤ barPendingArr x → ∃ s', exec (.arrive a 0) s = .next s' ∧
        s'.barAt l = putBits (putBits x 32 12 (barPendingArr x - 1)) 64 32 (barPendingBytes x) ∧ s'.mem = s.mem) ∧
      (Ready s r t f [a.toNat] [] [] [] → barPendingArr x = 1 → barPendingBytes x = 0 → ∃ s', exec (.arrive a 0) s = .next s' ∧
        barPhase (s'.barAt l) = !barPhase x ∧ barPendingArr (s'.barAt l) = barExpected x) ∧
      (∀ n, two → (f.reg b.toNat).toNat = n → n < 2 ^ 31 → 2 ≤ barPendingArr x → ∃ s', exec (.arriveExpect a b 0) s = .next s' ∧
        s'.barAt l = putBits (putBits x 32 12 (barPendingArr x - 1)) 64 32 (barPendingBytes x + n))) ∧
    (two → barUnusable x = false →
      (barPhase x ≠ ((f.reg b.toNat).toNat % 2 == 1) →
        exec (.bwait a b 0) s = .next ((s.barAcquire r x (s.barInfo l).lastLanded).past r 1 false s.aclk)) ∧
      (barPhase x = ((f.reg b.toNat).toNat % 2 == 1) → barTimedOut x = false → ∃ s' y, exec (.bwait a b 0) s = .next s' ∧
        s'.fibre? r = some y ∧ y.status = .bwait l (barPhase x) ∧ y.pc = f.pc ∧ s'.mem = s.mem))

/-! ### Floating point and key-id pairs -/

namespace Sys2Proof.Claims

/-- 18 R369, 07 Table 7.2: with a raised flag whose enable is set the instruction traps with nothing written; else it writes, and the flags become sticky. -/
def FpOutcome (s : State) (r : FibreRef) (f : Fibre) (i : Instr) (fl : FFlags) (g : Fibre → Fibre) : Prop :=
  (fl.enabled f.fmode = true → exec i s = .next (s.raiseAt r ⟨0x11, 0, 0, 0⟩ [] 0)) ∧
  (fl.enabled f.fmode = false → exec i s = .next (s.passed r 1 fun x => (g x).raiseFlags fl))

/-- The elements of an elementwise form: each exact value rounded by fmode, codes packed from bit 0 up, flags gathered. -/
def FpElements (s : State) (r : FibreRef) (f : Fibre) (i : Instr) (d : Nat) (fm : Fmt) (n : Nat) (x : Nat → FVal) : Prop :=
  let rs := (List.range n).map fun k => fm.round (x k) (rmOf f.fmode) false 0
  FpOutcome s r f i (rs.foldl (fun a p => a.or p.2) {})
    (fun y => y.setReg d (BitVec.ofNat 64 (packElems fm.bits (rs.map fun p => p.1))))

/-- 18 Table 18.2: a relation of FCMP on two values, of which `none` is unordered. -/
def relation (k : Nat) (o : Option Ordering) : Prop :=
  match k with
  | 0 => o = some .eq
  | 1 => o ≠ some .eq
  | 2 => o = some .lt
  | 3 => o = some .lt ∨ o = some .eq
  | 4 => o = some .gt
  | 5 => o = some .gt ∨ o = some .eq
  | 6 => o = none
  | _ => o ≠ none

end Sys2Proof.Claims

/-- 18 R369, R370, R379. -/
def Obligations.FpArithmeticResult : Prop :=
  ∀ (s : State) (r : FibreRef) (t : Team) (f : Fibre) (d a b : BitVec 7) (ty : BitVec 3),
    f.nearSlot = none →
    let two := Ready s r t f [a.toNat, b.toNat] [d.toNat] [] []
    let three := Ready s r t f [a.toNat, b.toNat, d.toNat] [d.toNat] [] []
    let fm := (typeOf ty.toNat).1
    let n := (typeOf ty.toNat).2
    let x := fun (g : BitVec 7) (i : Nat) => fm.decode ((f.reg g.toNat).toNat / 2 ^ (fm.bits * i) % 2 ^ fm.bits)
    let down := rmOf f.fmode == .rd
    (two → Claims.FpElements s r f (.fadd d a b ty) d.toNat fm n (fun i => sumVals down [x a i, x b i])) ∧
    (two → Claims.FpElements s r f (.fsub d a b ty) d.toNat fm n (fun i => sumVals down [x a i, (x b i).negate])) ∧
    (two → Claims.FpElements s r f (.fmul d a b ty) d.toNat fm n (fun i => (x a i).mul (x b i))) ∧
    (three → Claims.FpElements s r f (.ffma d a b ty) d.toNat fm n (fun i => sumVals down [x d i, (x a i).mul (x b i)])) ∧
    (three → Claims.FpElements s r f (.ffms d a b ty) d.toNat fm n (fun i => sumVals down [x d i, ((x a i).mul (x b i)).negate])) ∧
    (two → Claims.FpElements s r f (.fscale d a b ty) d.toNat fm n (fun i => (x a i).scale (Claims.low32 (f.reg b.toNat)).toInt)) ∧
    (two → Claims.FpElements s r f (.fscaleE8m0 d a b ty) d.toNat fm n (fun i =>
      if (f.reg b.toNat).toNat % 256 = 255 then .nan true else (x a i).scale ((f.reg b.toNat).toNat % 256 - 127 : Int)))

/-- 18 R371, R372, R378, R380. -/
def Obligations.FpSelectResult : Prop :=
  ∀ (s : State) (r : FibreRef) (t : Team) (f : Fibre) (d a b : BitVec 7) (ty k : BitVec 3) (p : BitVec 5) (c : BitVec 2)
    (t1 : BitVec 1) (kk : BitVec 2) (fn : BitVec 4),
    f.nearSlot = none →
    let two := Ready s r t f [a.toNat, b.toNat] [d.toNat] [] []
    let pairs := Ready s r t f [a.toNat, a.toNat + 1, b.toNat, b.toNat + 1] [d.toNat, d.toNat + 1] [] []
    let three := Ready s r t f [a.toNat, b.toNat, d.toNat] [d.toNat] [] []
    let fm := (typeOf ty.toNat).1
    let n := (typeOf ty.toNat).2
    let code := fun (fm : Fmt) (g : BitVec 7) (i : Nat) => (f.reg g.toNat).toNat / 2 ^ (fm.bits * i) % 2 ^ fm.bits
    let bad := (List.range n).any fun i => (fm.decode (code fm a i)).invalid || (fm.decode (code fm b i)).invalid
    let fc := if t1 = 0 then fp32 else bf16
    let x := fc.decode (code fc a 0)
    let y := fc.decode (code fc b 0)
    (two → ∃ g : Fibre → Fibre, Claims.FpOutcome s r f (.fmin d a b ty) { invalid := bad } g ∧ ∀ z, g z =
      z.setReg d.toNat (BitVec.ofNat 64 (packElems fm.bits ((List.range n).map fun i => fm.minMax false (code fm a i) (code fm b i))))) ∧
    (two → ∃ g : Fibre → Fibre, Claims.FpOutcome s r f (.fmax d a b ty) { invalid := bad } g ∧ ∀ z, g z =
      z.setReg d.toNat (BitVec.ofNat 64 (packElems fm.bits ((List.range n).map fun i => fm.minMax true (code fm a i) (code fm b i))))) ∧
    (Ready s r t f [a.toNat, b.toNat] [] [p.toNat] [] → ∃ g : Fibre → Fibre, Claims.FpOutcome s r f (.fcmp p c a b t1 k)
        { invalid := if 2 ≤ k.toNat ∧ k.toNat ≤ 5 then x.isNan || y.isNan else x.invalid || y.invalid } g ∧
      ∀ z, g z = { z with pred := (g z).pred } ∧
        Claims.CombinedInto z (g z) p.toNat c.toNat (Claims.relation k.toNat (x.compare? y))) ∧
    (pairs → exec (.kvmin d a b kk) s = .next (s.passed r 1 fun z =>
        if pairCompare kk.toNat ((f.reg a.toNat).toNat % 2 ^ 32) (f.reg (a.toNat + 1)) ((f.reg b.toNat).toNat % 2 ^ 32) (f.reg (b.toNat + 1)) = .gt
        then (z.setReg d.toNat ((Claims.low32 (f.reg b.toNat)).setWidth 64)).setReg (d.toNat + 1) (f.reg (b.toNat + 1))
        else (z.setReg d.toNat ((Claims.low32 (f.reg a.toNat)).setWidth 64)).setReg (d.toNat + 1) (f.reg (a.toNat + 1)))) ∧
    (pairs → exec (.kvmax d a b kk) s = .next (s.passed r 1 fun z =>
        if pairCompare kk.toNat ((f.reg a.toNat).toNat % 2 ^ 32) (f.reg (a.toNat + 1)) ((f.reg b.toNat).toNat % 2 ^ 32) (f.reg (b.toNat + 1)) = .lt
        then (z.setReg d.toNat ((Claims.low32 (f.reg b.toNat)).setWidth 64)).setReg (d.toNat + 1) (f.reg (b.toNat + 1))
        else (z.setReg d.toNat ((Claims.low32 (f.reg a.toNat)).setWidth 64)).setReg (d.toNat + 1) (f.reg (a.toNat + 1)))) ∧
    (three → fn.toNat ≤ 3 → Claims.FpElements s r f (.fdot d a b fn) d.toNat fp32 1 fun _ =>
      fdotVal fn.toNat (rmOf f.fmode == .rd) (f.reg d.toNat) (f.reg a.toNat) (f.reg b.toNat)) ∧
    (three → fn.toNat = 4 → exec (.fdot d a b fn) s = .next (s.passed r 1 fun z =>
      z.setReg d.toNat ((BitVec.ofInt 32 (idotVal (f.reg d.toNat) (f.reg a.toNat) (f.reg b.toNat))).setWidth 64))) ∧
    (three → fn.toNat = 5 → exec (.fdot d a b fn) s = .next (s.passed r 1 fun z => z.setReg d.toNat
      ((BitVec.ofInt 32 (Claims.clamp (-2 ^ 31) (2 ^ 31 - 1) (idotVal (f.reg d.toNat) (f.reg a.toNat) (f.reg b.toNat)))).setWidth 64)))

/-- 18 R373 to R376. -/
def Obligations.FpConvertResult : Prop :=
  ∀ (s : State) (r : FibreRef) (t : Team) (f : Fibre) (d a k : BitVec 7) (ty c : BitVec 3) (i : BitVec 2) (sat : BitVec 1) (fn : BitVec 4),
    Ready s r t f [a.toNat] [d.toNat] [] [] → f.nearSlot = none →
    let fm := (typeOf ty.toNat).1
    let x := fm.decode ((f.reg a.toNat).toNat % 2 ^ fm.bits)
    let v := conversionOf k.toNat
    let elem := fun (j : Nat) => v.src.decode ((f.reg a.toNat).toNat / 2 ^ (v.src.bits * (v.first + j)) % 2 ^ v.src.bits)
    let rm := codeRm c.toNat f
    let n : Nat := if i.toNat < 2 then 32 else 64
    let signed := i.toNat % 2 == 0
    let int : Int := if i = 0 then (Claims.low32 (f.reg a.toNat)).toInt else if i = 1 then (Claims.low32 (f.reg a.toNat)).toNat
      else if i = 2 then (f.reg a.toNat).toInt else (f.reg a.toNat).toNat
    (rm ≠ .sr →
      (let rs := (List.range v.n).map fun j => v.dst.round (elem j) rm (sat == 1) 0
       Claims.FpOutcome s r f (.fcvt d a k sat c) (rs.foldl (fun a p => a.or p.2) {})
         (fun y => y.setReg d.toNat (BitVec.ofNat 64 (packElems v.dst.bits (rs.map fun p => p.1))))) ∧
      (let q := toInt n signed x rm (sat == 1) 0
       Claims.FpOutcome s r f (.ftoi d a ty i sat c) q.2
         (fun y => y.setReg d.toNat (BitVec.ofNat 64 (q.1 % 2 ^ n).toNat))) ∧
      (let q := fm.round (FVal.ofInt int) rm (sat == 1) 0
       Claims.FpOutcome s r f (.itof d a ty i sat c) q.2 (fun y => y.setReg d.toNat (BitVec.ofNat 64 q.1))) ∧
      (let q := frndVal fm x rm 0
       Claims.FpOutcome s r f (.frnd d a ty c) q.2 (fun y => y.setReg d.toNat (BitVec.ofNat 64 q.1)))) ∧
    (c.toNat = 4 →
      let q := fm.round (FVal.ofInt int) .sr (sat == 1) (lfsrStep f.srseed).toNat
      Claims.FpOutcome s r f (.itof d a ty i sat c) q.2
        (fun y => { y.setReg d.toNat (BitVec.ofNat 64 q.1) with srseed := lfsrStep f.srseed })) ∧
    (∃ (fl : FFlags) (w : Dword), Claims.FpOutcome s r f (.fspec d a ty fn) fl (fun y => y.setReg d.toNat w) ∧
      (ty = 0 → fn = 0 → (f.reg a.toNat).toNat % 2 ^ 32 = 0x40000000 → w = 0x3F000000) ∧
      (ty = 0 → fn = 2 → (f.reg a.toNat).toNat % 2 ^ 32 = 0x40800000 → w = 0x40000000))

/-! ### Cross-fibre instructions -/

namespace Sys2Proof.Claims

/-- 18 Table 18.8: `v` is the reduction of the values by XRED code `fn` (the f32 operations left out). -/
def reduces (fn : Nat) (vs : List Dword) (v : Dword) : Prop :=
  match fn with
  | 0 => v = vs.foldr (· + ·) 0
  | 2 => v ∈ vs ∧ ∀ w ∈ vs, v.toInt ≤ w.toInt
  | 3 => v ∈ vs ∧ ∀ w ∈ vs, w.toInt ≤ v.toInt
  | 4 => v ∈ vs ∧ ∀ w ∈ vs, v.toNat ≤ w.toNat
  | 5 => v ∈ vs ∧ ∀ w ∈ vs, w.toNat ≤ v.toNat
  | 6 => ∀ j, j < 64 → v.getLsbD j = vs.all (fun w => w.getLsbD j)
  | 7 => ∀ j, j < 64 → v.getLsbD j = vs.any (fun w => w.getLsbD j)
  | 8 => v = vs.foldr (· ^^^ ·) 0
  | _ => True

/-- 18 Table 18.8: what an exclusive scan gives the lowest lane, by XSCAN code. -/
def scanStart (o : Nat) : Dword :=
  match o with
  | 2 => BitVec.ofNat 64 (2 ^ 63 - 1)
  | 3 => BitVec.ofNat 64 (2 ^ 63)
  | 4 => BitVec.allOnes 64
  | _ => 0

/-- A mask of the lanes below 32 for which `p` holds. -/
def maskIs (v : Dword) (p : Nat → Prop) : Prop := ∀ j, j < 64 → (v.getLsbD j = true ↔ j < 32 ∧ p j)

/-- The lanes of a member set, ascending. -/
def lanes (set : BitVec 32) : List Nat := (List.range 32).filter (fun i => set.getLsbD i)

/-- Fibre `r`, at lane `f.idx % 32`, is the last to arrive at its instruction with the member set in register `m`: every other member, given by lane, stands blocked there with the same set (07 Table 7.4). -/
structure LastArrival (r : FibreRef) (t : Team) (f : Fibre) (set : BitVec 32) (g : Nat → Fibre) : Prop where
  ready : f.status = .ready
  home : f.away = none
  fresh : f.held = none
  own : set.getLsbD (f.idx % 32) = true
  index : r.fibre = f.idx
  member : ∀ i, set.getLsbD i = true → t.fibre? (32 * (f.idx / 32) + i) = some (g i) ∧ (g i).held = none ∧ (g i).pc = f.pc
  arrived : ∀ i, set.getLsbD i = true → i ≠ f.idx % 32 → ∃ since, (g i).status = .rendezvous f.pc.toNat set since

/-- The instruction completes for every member: no memory changes, and each member's `d` holds a value that `value` allows it, its other registers stand, and it goes on after the instruction. -/
def Completes (i : Instr) (s : State) (r : FibreRef) (f : Fibre) (set : BitVec 32) (g : Nat → Fibre) (d : Nat) (value : Nat → Dword → Prop) : Prop :=
  ∃ s', exec i s = .next s' ∧ s'.mem = s.mem ∧
    ∀ k, set.getLsbD k = true → ∃ x, s'.fibre? ⟨r.team, 32 * (f.idx / 32) + k⟩ = some x ∧ value k (x.reg d) ∧
      (∀ n, n ≠ d → x.reg n = (g k).reg n) ∧ x.pc = BitVec.ofNat 52 (f.pc.toNat + 4) ∧ (k ≠ f.idx % 32 → x.status = .ready)

end Sys2Proof.Claims

/-- 18 R381 to R388 on the integer operations; the f32 reductions complete with some value. -/
def Obligations.CrossFibreResult : Prop :=
  ∀ (s : State) (r : FibreRef) (t : Team) (f : Fibre) (d a m : BitVec 7) (set : BitVec 32) (g : Nat → Fibre)
    (k : BitVec 2) (fn : BitVec 4) (e : BitVec 1) (o : BitVec 3),
    f.nearSlot = none → set = (f.reg m.toNat).setWidth 32 →
    Claims.LastArrival r t f set g → (∀ i, set.getLsbD i = true → d.toNat < (g i).regs.length) →
    let val := fun (i : Nat) => (g i).reg a.toNat
    let ls := Claims.lanes set
    let low := ls.headD 0
    let does := fun (rd : List Nat) (i : Instr) (v : Nat → Dword → Prop) =>
      Ready s r t f rd [d.toNat] [] [] → Claims.Completes i s r f set g d.toNat v
    let dam := [d.toNat, a.toNat, m.toNat]
    let am := [a.toNat, m.toNat]
    does dam (.xshf d a m k) (fun i v =>
      let u := ((g i).reg d.toNat).toNat % 32
      let src : Int := if k = 0 then u else if k = 1 then (i : Int) - u else if k = 2 then (i : Int) + u else (i ^^^ u : Nat)
      (0 ≤ src ∧ set.getLsbD src.toNat = true → v = val src.toNat) ∧ (¬ (0 ≤ src ∧ set.getLsbD src.toNat = true) → v = val i)) ∧
    does am (.xred d a m fn) (fun _ v => Claims.reduces fn.toNat (ls.map val) v) ∧
    does am (.xscan d a m e o) (fun i v =>
      let before := ls.filter (fun j => if e = 1 then decide (j < i) else decide (j ≤ i))
      if before = [] then v = Claims.scanStart o.toNat
      else Claims.reduces (if o.toNat ≤ 3 then o.toNat else o.toNat + 2) (before.map val) v) ∧
    does am (.xvote d a m fn) (fun _ v =>
      (fn = 0 → v = if ∀ j ∈ ls, val j ≠ 0 then 1 else 0) ∧ (fn = 1 → v = if ∃ j ∈ ls, val j ≠ 0 then 1 else 0) ∧
      (fn = 2 → v = if ∀ j ∈ ls, val j = val low then 1 else 0) ∧ (fn = 3 → Claims.maskIs v (fun j => j ∈ ls ∧ val j ≠ 0))) ∧
    does am (.xbcast d a m) (fun _ v => v = val low) ∧
    does dam (.xbcastLane d a m) (fun i v =>
      let u := ((g low).reg d.toNat).toNat % 32
      v = if set.getLsbD u then val u else val i) ∧
    does [m.toNat] (.xelect d m) (fun i v => v.toNat = (if i = low then 1 else 0) + 2 ^ 8 * low) ∧
    does am (.xelectIf d a m) (fun i v =>
      match ls.find? (fun j => (val j).getLsbD 0) with
      | some w => v.toNat = (if i = w then 1 else 0) + 2 ^ 8 * w
      | none => v = BitVec.ofNat 64 (2 ^ 16)) ∧
    does am (.xmatch d a m fn) (fun i v =>
      let same := fun (j : Nat) => if fn.toNat < 2 then val j = val i else (val j).toNat % 2 ^ 32 = (val i).toNat % 2 ^ 32
      (fn = 0 ∨ fn = 2 → Claims.maskIs v (fun j => j ∈ ls ∧ same j)) ∧
      (fn = 1 ∨ fn = 3 → (if ∀ j ∈ ls, same j then Claims.maskIs v (fun j => j ∈ ls) else v = 0)))

/-- 07 Table 7.4, on the reduction. -/
def Obligations.RendezvousArrival : Prop :=
  ∀ (s : State) (r : FibreRef) (t : Team) (f : Fibre) (d a m : BitVec 7) (fn : BitVec 4) (set : BitVec 32),
    Ready s r t f [a.toNat, m.toNat] [d.toNat] [] [] → f.nearSlot = none → f.held = none → f.away = none →
    set = (f.reg m.toNat).setWidth 32 →
    let others := ((Claims.lanes set).map (fun i => 32 * (f.idx / 32) + i)).filter (fun i => i != f.idx)
    (set.getLsbD (f.idx % 32) = false → exec (.xred d a m fn) s = .next (s.raiseAt r ⟨0x08, 0, 0, 0⟩ [] 0)) ∧
    (set.getLsbD (f.idx % 32) = true →
      ((∃ i ∈ others, ∀ x, t.fibre? i = some x → x.status = .notLive) → ∃ list more, list ≠ [] ∧
        exec (.xred d a m fn) s = .next (s.raiseAt r ⟨0x09, 0, 0, 0⟩ list more)) ∧
      (others ≠ [] → (∀ i ∈ others, ∃ x, t.fibre? i = some x ∧ x.status = .ready ∧ x.held = none) →
        exec (.xred d a m fn) s = .next (s.updFibre r fun x => { x with
          status := .rendezvous f.pc.toNat set (t.residentTime s.aclk) })))

/-! ### Tensors, accumulators and matrix products -/

namespace Sys2Proof.Claims

/-- `e'` is `e` with the `n` bits from bit `lo` up replaced by those of `v`. -/
def FieldSet (e e' lo n v : Nat) : Prop :=
  e' < 2 ^ 1024 ∧ ∀ i, i < 1024 → e'.testBit i = if lo ≤ i ∧ i < lo + n then v.testBit (i - lo) else e.testBit i

/-- The 128 bytes at a physical address hold the entry, and every other byte, every tag is as in `s`. -/
def EntryStored (s s' : State) (pa e : Nat) : Prop :=
  valueAt s' pa 128 = e ∧ s'.mem.full = s.mem.full ∧
    ∀ a, a < pa ∨ pa + 128 ≤ a → sparseGet 0 s'.mem.cells a = sparseGet 0 s.mem.cells a

/-- A signed number of `n` bits. -/
def signed (n v : Nat) : Int := if v < 2 ^ (n - 1) then (v : Int) else (v : Int) - 2 ^ n

/-- Bit `i` of a 64-bit number, counted. -/
def ones (v : Nat) : Nat := ((List.range 64).filter (fun i => v.testBit i)).length

end Sys2Proof.Claims

/-- 19 R397. -/
def Obligations.TdefResult : Prop :=
  ∀ (s : State) (r : FibreRef) (t : Team) (f : Fibre) (a b d : BitVec 7) (n : BitVec 10) (k : BitVec 4) (q : BitVec 3) (m : MemLoc) (e : Nat),
    f.nearSlot = none → s.mem.wf = true → m.pa % 128 = 0 →
    f.sq = [] → f.loadsPending = false →
    let va := (f.reg a.toNat).toNat
    let x := (f.reg a.toNat).toNat
    let y := (f.reg b.toNat).toNat
    let at_ := s.entryAddr t.ctx n.toNat
    (∀ image s1, Ready s r t f [a.toNat] [] [] [] → va % 128 = 0 → recordAt r t f va 16 0 s = .ok (image, s1) →
      s.entryPlace t.ctx f.pc.toNat n.toNat .load = .ok m → s.ownedAt (.mem m) = false → Entry.invalid image s.grid = false → image < 2 ^ 1024 →
      Entry.state (Claims.valueAt s m.pa 128) ≠ 2 →
      ∃ s' image', exec (.tdef a n) s = .next s' ∧ Claims.EntryStored s s' m.pa image' ∧
        ∀ i, i < 1024 → image'.testBit i =
          (if (736 ≤ i ∧ i < 768) ∨ (786 ≤ i ∧ i < 792) then false else image.testBit i)) ∧
    (s.readEntry t.ctx f.pc.toNat n.toNat = .ok (m, e) → entryReady s t f m = true →
      let two := Ready s r t f [a.toNat, b.toNat] [] [] []
      let one := Ready s r t f [a.toNat] [] [] []
      (Ready s r t f [] [d.toNat] [] [] → exec (.tdefQuery d n k) s = .next (((s.entryTouched t f m).updFibre r fun z =>
        z.setReg d.toNat (BitVec.ofNat 64 (e / 2 ^ (64 * k.toNat)))).past r 2 false s.aclk)) ∧
      (Entry.naxes e = 0 ∨ Entry.state e = 0 →
        (two → x < 2 ^ 52 → y < 4 → (∀ e' : Nat, (∃ e1, Claims.FieldSet e e1 64 52 x ∧ Claims.FieldSet e1 e' 7 2 y) → Entry.invalid e' s.grid = false) →
          ∃ s' e1 e2, exec (.tdefBind a b n) s = .next s' ∧ Claims.FieldSet e e1 64 52 x ∧ Claims.FieldSet e1 e2 7 2 y ∧
            Claims.EntryStored s s' m.pa e2) ∧
        (two → 2 ^ 52 ≤ x ∨ 4 ≤ y → exec (.tdefBind a b n) s = .next (s.raiseAt r ⟨0x18, 1, at_, 0⟩ [] 0)) ∧
        (one → (∀ e' : Nat, Claims.FieldSet e e' 544 64 x → Entry.invalid e' s.grid = false) →
          ∃ s' e', exec (.tdefFill a n) s = .next s' ∧ Claims.FieldSet e e' 544 64 x ∧ Claims.EntryStored s s' m.pa e') ∧
        (one → x ≤ Entry.dimM1 e q.toNat + 1 → x < 2 ^ 24 → q.toNat < Entry.rank e →
          (∀ e' : Nat, Claims.FieldSet e e' (608 + 24 * q.toNat) 24 x → Entry.invalid e' s.grid = false) →
          ∃ s' e', exec (.tdefBounds a n q) s = .next s' ∧ Claims.FieldSet e e' (608 + 24 * q.toNat) 24 x ∧
            Claims.EntryStored s s' m.pa e') ∧
        (one → Entry.dimM1 e q.toNat + 1 < x → exec (.tdefBounds a n q) s = .next (s.raiseAt r ⟨0x18, 1, at_, 0⟩ [] 0))) ∧
      (Entry.naxes e ≠ 0 → Entry.state e ≠ 0 →
        (two → exec (.tdefBind a b n) s = .next (s.raiseAt r ⟨0x14, 0, at_, 0⟩ [] 0)) ∧
        (one → exec (.tdefFill a n) s = .next (s.raiseAt r ⟨0x14, 0, at_, 0⟩ [] 0) ∧
          exec (.tdefBounds a n q) s = .next (s.raiseAt r ⟨0x14, 0, at_, 0⟩ [] 0))))

/-- 19 R398 to R401. -/
def Obligations.TileMoveResult : Prop :=
  ∀ (s : State) (r : FibreRef) (t : Team) (f : Fibre) (c : Nat) (d a b : BitVec 7) (ts td : BitVec 10) (es ed : Nat) (ms : List Move) (dem : Nat),
    let x := tileShape (f.reg a.toNat) (f.reg b.toNat) (f.reg d.toNat)
    let units := x.units (Entry.fmt es)
    (Ready s r t f [a.toNat, b.toNat, d.toNat] [] [] [] → f.nearSlot = none → f.canIssue c → EntriesReadable s t f [ts.toNat, td.toNat] →
      tileEntries s t f ts.toNat td.toNat false x = .ok (es, ed) →
      pagesFault s t f .load (Entry.space es) (touched s t f es (units.map x.sIx)) = none →
      tileMoves s t f es ed (unitHalf (Entry.fmt es)) units x.sIx x.dIx = .ok ms → remoteParts (ms.flatMap (fun m => m.src)) = [] →
      let issues := fun (i : Instr) => ∃ s', exec i s = .next s' ∧ SameButCaches (s.issued r 2 c (.tile ms) [] [] []) s'
      issues (.tld d a b ts td) ∧
      (Entry.naxes es = 0 → issues (.tldDem d a b ts td)) ∧
      (Entry.naxes es ≠ 0 → dem = bitsOf (f.reg a.toNat).toNat 48 16 → Entry.demandBad es dem = false →
        Entry.state es = 1 → Entry.meets es dem = true → s.demands = [] →
        issues (.tldDem d a b ts td))) ∧
    (∀ (i o o' n : Nat) (op : LongOp), s.team? r.team = some t → t.fibre? r.fibre = some f → f.ll[i]? = some op → op.counter = some c →
      f.entering = none → sparseWf 0 t.scratch = true → n ≤ 8 - o % 8 →
      op.kind = .tile [⟨[.read (.scr t.id o) n], [(.scr t.id o', n)], none⟩] →
      piecesReady s t f op.seq [.read (.scr t.id o) n] = true → f.sq = [] → t.scratchPoison.contains (o / 8) = false →
      ∃ s' t' y, exec (.longLatencyDrop r.team r.fibre i) s = .next s' ∧ s'.team? r.team = some t' ∧ s'.mem = s.mem ∧
        (∀ k, k < n → sparseGet 0 t'.scratch (o' + k) = sparseGet 0 t.scratch (o + k)) ∧
        (∀ k, k < o' ∨ o' + n ≤ k → sparseGet 0 t'.scratch k = sparseGet 0 t.scratch k) ∧
        s'.fibre? r = some y ∧ y.regs = f.regs ∧ (c < f.cf.length → y.cf.getD c 0 = f.cf.getD c 0 - 1)) ∧
    (∀ xs : List (Nat × Loc × Nat), Ready s r t f [a.toNat, b.toNat, d.toNat] [] [] [] → f.nearSlot = none → f.canIssue c →
      EntriesReadable s t f [ts.toNat, td.toNat] →
      s.team? t.id = some t → tileEntries s t f ts.toNat td.toNat true x = .ok (es, ed) →
      pagesFault s t f .store (Entry.space es) (touched s t f es (units.map x.sIx)) = none →
      sealFault s t.ctx (Entry.space es) (touched s t f es (units.map x.sIx)) = none →
      tileMoves s t f ed es (unitHalf (Entry.fmt es)) units x.dIx x.sIx = .ok ms →
      ms = xs.map (fun p => ⟨[.read (.scr t.id p.1) p.2.2], [(p.2.1, p.2.2)], none⟩) →
      piecesReady s t f f.seq (ms.flatMap (fun m => m.src)) = true → f.sq = [] → t.scratchPoison = [] →
      ∃ s' y, exec (.tst d a b ts td) s = .next s' ∧ s'.mem = s.mem ∧ s'.fibre? r = some y ∧ y.regs = f.regs ∧
        y.sq.map (fun op => op.kind) = xs.map (fun p => StoreKind.write p.2.1 ((sparseBytes t.scratch p.1 p.2.2).map some)))

/-- 19 R408 to R411. -/
def Obligations.AccumulatorResult : Prop :=
  ∀ (s : State) (r : FibreRef) (t : Team) (f : Fibre) (c : Nat) (a b d : BitVec 7) (k : BitVec 6) (n : BitVec 10) (off : BitVec 12)
    (sp sat : BitVec 1) (e : Nat),
    f.nearSlot = none → s.team? t.id = some t → k.toNat < t.kernel.accTiles →
    (s.mmas.all (fun m => !(m.team == t.id && m.tile == k.toNat)) = true →
      (Ready s r t f [] [] [] [k.toNat] → ∃ s' t', exec (.accZero k) s = .next s' ∧ s'.team? t.id = some t' ∧ s'.mem = s.mem ∧
        (∀ i, i < 6144 → t'.accAt k.toNat i = 0 ∧ t'.accBad k.toNat i = false) ∧
        ∀ j i, j ≠ k.toNat → i < 6144 → t'.accAt j i = t.accAt j i) ∧
      (∀ (v row q : Nat), Ready s r t f [a.toNat] [d.toNat] [] [k.toNat] → f.canIssue c → v = (f.reg a.toNat).toNat → row = v % 64 → q = v / 2 ^ 8 % 64 →
        (q < 48 → t.accBad k.toNat (96 * row + 2 * q) = false →
          exec (.accRd d a k) s = .next (s.issued r 2 c (.value [(d.toNat, BitVec.ofNat 64
            ((t.accAt k.toNat (96 * row + 2 * q)).toNat + 2 ^ 32 * (t.accAt k.toNat (96 * row + 2 * q + 1)).toNat))] none) [d.toNat] [] [])) ∧
        (48 ≤ q → exec (.accRd d a k) s = .next (s.raiseAt r ⟨0x03, 0, v, 0⟩ [] 0))) ∧
      (∀ src : Nat → Nat, Ready s r t f [a.toNat] [] [] [k.toNat] → EntriesReadable s t f [n.toNat] → accEntry s t f n.toNat (fun e => e.fmt == 0 || e.fmt == 1 || e.fmt == 2 || e.fmt == 9) = .ok e →
        Entry.fmt e = 0 ∨ Entry.fmt e = 9 → Entry.space e = 1 → f.sq = [] → t.scratchPoison = [] → sparseWf 0 t.acc = true →
        (∀ i, i < 6144 → elemPlaces s t f .load e (accIx (f.reg a.toNat) i) = .ok (some [(.scr t.id (src i), 4)]) ∧ src i % 4 = 0) →
        piecesReady s t f f.seq ((List.range 6144).map (fun i => .read (.scr t.id (src i)) 4)) = true →
        ∃ s' t', exec (.accLd a k n) s = .next s' ∧ s'.team? t.id = some t' ∧ s'.mem = s.mem ∧
          ∀ i, i < 6144 → (t'.accAt k.toNat i).toNat = natOfBytes (sparseBytes t.scratch (src i) 4)) ∧
      (∀ dst : Nat → Nat, Ready s r t f [a.toNat, b.toNat] [] [] [k.toNat] → EntriesReadable s t f [n.toNat] → f.canIssue c →
        accEntry s t f n.toNat (fun e => accStOk e 0 1 && (!e.scaled || bitsOf (f.reg a.toNat).toNat 0 24 % 32 == 0)) = .ok e →
        Entry.fmt e = 9 → Entry.scaled e = false → Entry.space e = 1 →
        (∀ i, t.accBad k.toNat i = false) →
        let inside := (List.range 6144).filter (fun i => (Entry.elemAt e s.grid (dieOf t f) (accIx (f.reg a.toNat) i)).isSome)
        (∀ i ∈ inside, elemPlaces s t f .store e (accIx (f.reg a.toNat) i) = .ok (some [(.scr t.id (dst i), 4)])) →
        ∃ s' y, exec (.accSt a b k n 0 sat 1) s = .next s' ∧ s'.fibre? r = some y ∧ s'.mem = s.mem ∧ y.regs = f.regs ∧
          y.sq.map (fun op => op.kind) = f.sq.map (fun op => op.kind) ++ inside.map (fun i =>
            StoreKind.write (.scr t.id (dst i)) ((List.range 4).map fun j => some (BitVec.ofNat 8 ((t.accAt k.toNat i).toNat / 2 ^ (8 * j))))))) ∧
    (∀ (va len : Nat) (l : Loc), Ready s r t f [a.toNat, b.toNat] [] [] [] → va = (f.reg a.toNat).toNat → len = (f.reg b.toNat).toNat → f.canIssue c → l.isLocal →
      va % 64 = 0 → 0 < len → len % 64 = 0 → len ≤ 65536 → 64 * off.toNat + len ≤ 4096 * t.kernel.metaUnits →
      (sp = 1 → va + len ≤ t.allocBytes) → (sp = 0 → va % 65536 + len ≤ 65536) → access s t f .load sp.toNat va 1 1 = .ok (.ok l) →
      exec (.metaLd a b off sp) s = .next (s.issued r 2 c (.metaLoad (64 * off.toNat) [.read l len]) [] [] [])) ∧
    (∀ o : Nat, Ready s r t f [a.toNat] [d.toNat] [] [] → o = (f.reg a.toNat).toNat →
      (o % 8 = 0 → o < 4096 * t.kernel.metaUnits → t.metaPoison.contains (o / 8) = false →
        exec (.metaRd d a) s = .next (s.passed r 2 fun x => x.setReg d.toNat (BitVec.ofNat 64 (natOfBytes (sparseBytes t.metaMem o 8))))) ∧
      (o % 8 = 0 → 4096 * t.kernel.metaUnits ≤ o → exec (.metaRd d a) s = .next (s.raiseAt r ⟨0x03, 0, o, 0⟩ [] 0)))

/-- 19 R404, R412 to R414; 07 Table 7.5. -/
def Obligations.MmaSignResult : Prop :=
  ∀ (s : State) (r : FibreRef) (t : Team) (f : Fibre) (c : Nat) (a b d : BitVec 7) (cv : BitVec 3) (tile : BitVec 6)
    (acc sat : BitVec 1) (kind n : BitVec 2) (ta tb : BitVec 10) (k : BitVec 7) (ea eb : Nat),
    f.nearSlot = none → f.handler = none → f.held = none → f.status = .ready →
    s.team? t.id = some t → t.cv.length = 8 →
    let v := (f.reg a.toNat).toNat
    let old := t.conv cv.toNat
    let one := Ready s r t f [a.toNat] [] [] []
    let none_ := Ready s r t f [] [] [] []
    let words := (instrWords s t.ctx (dieOf t f) f.pc.toNat).map (BitVec.ofNat 32)
    let idle := fun (s' : State) => ∃ t', s'.team? t.id = some t' ∧ (t'.conv cv.toNat).signers = [] ∧ (t'.conv cv.toNat).declared = none ∧
      ∀ j, j ≠ cv.toNat → t'.conv j = t.conv j
    (one → 0 < v → v ≤ t.kernel.fibresM1 + 1 → old.declared = none → ∃ s' t', exec (.cvdecl cv a) s = .next s' ∧ s'.mem = s.mem ∧
      s'.team? t.id = some t' ∧ (t'.conv cv.toNat).declared = some v ∧ (t'.conv cv.toNat).signers = []) ∧
    (one → v = 0 ∨ t.kernel.fibresM1 + 1 < v ∨ old.declared.isSome → exec (.cvdecl cv a) s = .next (s.raiseAt r ⟨0x08, 0, 0, 0⟩ [] 0)) ∧
    (Ready s r t f [] [d.toNat] [] [] → exec (.cvstat d cv) s = .next (s.passed r 1 fun x => x.setReg d.toNat (BitVec.ofNat 64
      ((if old.declared.isSome then 1 else 0) + 2 ^ 4 * old.declared.getD 0 + 2 ^ 16 * old.signers.length)))) ∧
    (none_ → old.signers = [] → ∃ s', exec (.cvclear cv) s = .next s' ∧ s'.mem = s.mem ∧ idle s') ∧
    (none_ → old.signers ≠ [] → exec (.cvclear cv) s = .next (s.raiseAt r ⟨0x08, 0, 0, 0⟩ [] 0)) ∧
    (∀ need, Ready s r t f [a.toNat, b.toNat] [] [] [tile.toNat] → old.declared = some need → tile.toNat < t.kernel.accTiles → f.canIssue c →
      (old.signers = [] → 2 ≤ need → exec (.mma tile a b acc sat kind ta tb cv k n) s = .next
        (((s.updTeam t.id fun u => u.putConv cv.toNat { old with
            signers := [f.idx], words := words, vals := [f.reg a.toNat, f.reg b.toNat], at_ := f.pc.toNat, since := t.residentTime s.aclk }).updFibre r
          fun x => { x with status := .signed cv.toNat }).convergenceGone t.id)) ∧
      (old.signers = [] → need = 1 → s.mmas.countP (fun m => t.core == some m.core) < 8 → EntriesReadable s t f [ta.toNat, tb.toNat] →
        (∃ m1, s.validEntry t.ctx f.pc.toNat ta.toNat = .ok (m1, ea)) → (∃ m2, s.validEntry t.ctx f.pc.toNat tb.toNat = .ok (m2, eb)) →
        (∀ m : MmaOp, m.entryA = ea → m.entryB = eb → m.depth = 32 * (k.toNat + 1) → m.ra = v → m.rb = (f.reg b.toNat).toNat → m.kind = kind.toNat →
          m.sat = (sat == 1) → m.n = keptOf n.toNat → m.masks = (if kind.toNat = 1 then t.masks m.rb m.depth else []) →
          mmaFault { s with nextId := s.nextId + 1 } t f ta.toNat m = none) →
        ∃ s' m x, exec (.mma tile a b acc sat kind ta tb cv k n) s = .next s' ∧ s'.mmas = s.mmas ++ [m] ∧ s'.mem = s.mem ∧ idle s' ∧
          m.team = t.id ∧ m.tile = tile.toNat ∧ m.acc = (acc == 1) ∧ m.depth = 32 * (k.toNat + 1) ∧ m.entryA = ea ∧ m.entryB = eb ∧
          m.ra = v ∧ m.rb = (f.reg b.toNat).toNat ∧ m.signers = [f.idx] ∧
          s'.fibre? r = some x ∧ x.regs = f.regs ∧ x.pc = BitVec.ofNat 52 (f.pc.toNat + 8) ∧
          (c < f.cf.length → x.cf.getD c 0 = f.cf.getD c 0 + 1))) ∧
    (∀ es ed : Nat, Ready s r t f [a.toNat, b.toNat] [] [] [] → EntriesReadable s t f [ta.toNat, tb.toNat] → f.sq = [] → f.loadsPending = false →
      (metaEntries s t f ta.toNat tb.toNat (32 * (k.toNat + 1)) (f.reg b.toNat).toNat = .ok (es, ed) → sparseWf 0 t.metaMem = true →
        ∃ s' t', exec (.metaCompress a b ta tb k n) s = .next s' ∧ s'.team? t.id = some t' ∧
          ∀ g j, g < (32 * (k.toNat + 1)) / 64 → j < 96 → Claims.ones (t'.metaDword (maskOffset (f.reg b.toNat).toNat g j)).toNat = keptOf n.toNat) ∧
      (metaEntries s t f ta.toNat tb.toNat (32 * (k.toNat + 1)) v = .ok (es, ed) →
        (∀ g j, g < (32 * (k.toNat + 1)) / 64 → j < 96 → Claims.ones (t.metaDword (maskOffset v g j)).toNat = keptOf n.toNat) →
        ∃ s', exec (.metaExpand a b ta tb k n) s = .next s' ∧ s'.mem = s.mem))

/-- 13 R269 and R270 on i8 operands, where chunk sums are exact. -/
def Obligations.MmaIntegerResult : Prop :=
  ∀ (s : State) (t : Team) (m : MmaOp) (rest : List MmaOp),
    s.mmas = m :: rest → (∀ x ∈ rest, x.id ≠ m.id) → s.team? m.team = some t → t.id = m.team → mmaStalled s t m = false →
    Entry.fmt m.entryA = 6 → Entry.fmt m.entryB = 6 → m.kind = 0 → m.sat = false → m.depth % 32 = 0 →
    Entry.scaled m.entryA = false → Entry.scaled m.entryB = false → mmaCause t m (mmaRows s t m) (mmaColumns s t m) = none → sparseWf 0 t.acc = true →
    let av := fun (i k : Nat) => Claims.signed 8 (elemCode s t m.die m.entryA [bitsOf m.ra 0 24 + k, bitsOf m.ra 24 24 + i, 0, 0, 0]).1
    let bv := fun (j k : Nat) => Claims.signed 8 (elemCode s t m.die m.entryB [bitsOf m.rb 0 24 + k, bitsOf m.rb 24 24 + j, 0, 0, 0]).1
    ∃ s' t', exec (.mmaComplete 0) s = .next s' ∧ s'.mem = s.mem ∧ s'.mmas = rest ∧ s'.team? m.team = some t' ∧
      (∀ i j, i < 64 → j < 96 → t'.accBad m.tile (96 * i + j) = false ∧ t'.accAt m.tile (96 * i + j) = BitVec.ofInt 32
        ((if m.acc then (t.accAt m.tile (96 * i + j)).toInt else 0) + ((List.range m.depth).map (fun k => av i k * bv j k)).sum)) ∧
      ∀ u e, u ≠ m.tile → e < 6144 → t'.accAt u e = t.accAt u e

/-! ### Engine commands, placement, search, hops and channels -/

namespace Sys2Proof.Claims

/-- From `s` to `s'` fibre `r` has issued one engine command of an instruction of `len` words: the command stands last in the list, the instruction is outstanding under counter `c` with the command's byte count for `d`, the fibre has passed it, and no memory has changed (20 R418). -/
structure CommandIssued (s s' : State) (r : FibreRef) (t : Team) (f : Fibre) (len c d : Nat) (target : Target) (cmd : Cmd) : Prop where
  cmds : s'.cmds = s.cmds ++ [cmd]
  mem : s'.mem = s.mem
  origin : cmd.who = r ∧ cmd.ctx = t.ctx ∧ cmd.die = dieOf t f ∧ cmd.pc = f.pc.toNat ∧ cmd.target = target ∧ cmd.landed = 0 ∧ cmd.ended = false
  fibre : ∃ x, s'.fibre? r = some x ∧ x.regs = f.regs ∧ x.pc = BitVec.ofNat 52 (f.pc.toNat + 4 * len) ∧
    (c < f.cf.length → x.cf.getD c 0 = f.cf.getD c 0 + 1) ∧
    ∃ op ∈ x.ll, op.kind = .cmd cmd.grp [(d, BitVec.ofNat 64 cmd.total)] ∧ op.counter = some c ∧ op.regs = [d]

/-- An engine command can be issued: the core has a free place, and the release that comes before it is met (20 R418, 09 R203). -/
def MayIssue (s : State) (r : FibreRef) (t : Team) (f : Fibre) : Prop := s.enginesFull t = false ∧ releasedForIssue s r f = true

/-- 20 R419: the bytes of `rows` by `cols` elements of a format, 18 for each block of 32 in format o4. -/
def tileSize (fmt rows cols : Nat) : Nat := if fmt = 8 then rows * (cols / 32) * 18 else rows * cols * fmtBits fmt / 8

/-- 20 Table 20.4: the result of the PLACE forms. -/
def placeWord (e : Nat) : Dword :=
  if Entry.naxes e = 0 then 0
  else BitVec.ofNat 64 (Entry.state e + 2 ^ 2 * Entry.sealedMask e + 2 ^ 6 * Entry.naxes e + 2 ^ 32 * Entry.generation e)

end Sys2Proof.Claims

/-- Completion and effect of `tcopy`, `chain`, `srchScan`, `srchWalkList`, `srchWalkHash`, `srchWalkKv`, `srchDrain`, `placeConvert`, `wdqNext`, `wdqInit`, `wdqReset`: 20 R417 to R425, R429. -/
def Obligations.EngineIssueResult : Prop :=
  ∀ (s : State) (r : FibreRef) (t : Team) (f : Fibre) (c : Nat) (d a b rr j cc : BitVec 7) (ts : BitVec 10) (mask : BitVec 8) (k tid : BitVec 10)
    (ko no : BitVec 9) (n tb dem : BitVec 16) (lb sb : BitVec 5) (lv sp : BitVec 1) (q : BitVec 4) (target : Target),
    f.nearSlot = none → f.canIssue c →
    let ra := (f.reg a.toNat).toNat
    let rb := (f.reg b.toNat).toNat
    let res := (f.reg rr.toNat).toNat
    let x := tileShape (f.reg a.toNat) (f.reg b.toNat) (f.reg j.toNat)
    let scans := Ready s r t f [a.toNat, b.toNat, rr.toNat, cc.toNat] [d.toNat] [] []
    (targetOf s r t f (f.reg cc.toNat) = .ok target →
    (∀ rec s1 m es, Ready s r t f [a.toNat, b.toNat, rr.toNat, j.toNat, cc.toNat] [d.toNat] [] [] → EntriesReadable s t f [ts.toNat] → res % 32 = 0 → recordAt r t f res 20 0 s = .ok (rec, s1) →
      let s2 := s1.takeAnswers r f.seq
      let ed : Entry := bitsOf rec 0 1024
      let sx := shapeExt (bitsOf rec 1024 256)
      Claims.MayIssue s2 r t f → s2.validEntry t.ctx f.pc.toNat ts.toNat = .ok (m, es) → ed.invalid s2.grid = false → x.bad (Entry.fmt es) = false →
      sx.bad (bitsOf rec 1024 256) ed = false → ed.fmt = Entry.fmt es → ed.space ≠ 3 →
      (sx.op = 0 ∨ ∀ g ∈ copyTargets s2.grid ed sx, ∃ slot, g = .here slot) →
      extentFault s2 t f 64 es = none → extentFault s2 t f 64 ed = none →
      ∃ s' cmd, exec (.tcopy d a b ts rr j cc) s = .next s' ∧ Claims.CommandIssued s2 s' r t f 2 c d.toNat target cmd ∧ cmd.kind = .copy ∧
        cmd.total = Claims.tileSize ed.fmt (rb / 2 ^ 56 % 2 ^ 8 + 1) (rb / 2 ^ 48 % 2 ^ 8 + 1) * (copyTargets s2.grid ed sx).length) ∧
    (∀ ls s1, Ready s r t f [a.toNat, cc.toNat] [d.toNat] [] [] → readLinks r t f 64 0 ra s = .ok (ls, s1) → Claims.MayIssue (s1.takeAnswers r f.seq) r t f →
      ∃ s' cmd, exec (.chain d a cc) s = .next s' ∧ Claims.CommandIssued (s1.takeAnswers r f.seq) s' r t f 2 c d.toNat target cmd ∧
        cmd.kind = .copy ∧ cmd.total = (ls.map (fun l => l.len)).sum) ∧
    (Claims.MayIssue s r t f →
      (∀ m, scans → descPlace s r t f .load ra = .ok m → s.spanOwned (descSpan m) = false → rb < 2 ^ 24 → res % 32 = 0 →
        (∀ y, mask.getLsbD y = true → s.scanQueue y < 64) →
        let bad := (readDesc s m).2 || ixBad (readDesc s m).1
        ∃ s' cmd, exec (.srchScan d a b mask k rr cc) s = .next s' ∧ Claims.CommandIssued s s' r t f 2 c d.toNat target cmd ∧
          cmd.total = 16 * (k.toNat + 1) * ((List.range 8).filter (fun y => mask.getLsbD y && (bad || ixNrec (readDesc s m).1 y != 0))).length ∧
          ((readDesc s m).2 = true → cmd.fault = some (0x12, 0, ra)) ∧
          ((readDesc s m).2 = false → ixBad (readDesc s m).1 = true → cmd.fault = some (0x18, 4, ra))) ∧
      (∀ l, scans → res % 16 = 0 → scratchPlace t f res 16 = .ok l →
        (∃ s' cmd, exec (.srchWalkList d a b ko no rr cc n) s = .next s' ∧ Claims.CommandIssued s s' r t f 3 c d.toNat target cmd ∧ cmd.total = 16 ∧
          cmd.kind = .walk (.list rb (8 * ko.toNat) (8 * no.toNat) n.toNat) ra 0 l ∧ (cmd.fault = none ↔ n ≠ 0)) ∧
        (∃ s' cmd, exec (.srchWalkHash d a b lb sb rr cc) s = .next s' ∧ Claims.CommandIssued s s' r t f 3 c d.toNat target cmd ∧ cmd.total = 16 ∧
          cmd.kind = .walk (.hash ra rb lb.toNat (8 * (sb.toNat + 1)) 0) ra 0 l ∧
          (cmd.fault = none ↔ 1 ≤ lb.toNat ∧ lb.toNat ≤ 24 ∧ 1 ≤ sb.toNat ∧ rb ≠ 2 ^ 64 - 1)) ∧
        (∃ s' cmd, exec (.srchWalkKv d a b lb tb lv rr cc) s = .next s' ∧ Claims.CommandIssued s s' r t f 3 c d.toNat target cmd ∧ cmd.total = 16 ∧
          cmd.kind = .walk (.kv ra rb lb.toNat (tb.toNat + 1) (lv.toNat + 1) false) ra 0 l ∧ (cmd.fault = none ↔ lb.toNat ≤ 16))) ∧
      (∀ h, Ready s r t f [a.toNat, b.toNat, cc.toNat] [d.toNat] [] [] → readHeap s t f ra = .ok h → searchReady s r f h.locs = true →
        ∃ s' cmd, exec (.srchDrain d a b cc sp) s = .next s' ∧ s'.cmds = s.cmds ++ [cmd] ∧ cmd.kind = .copy ∧ cmd.target = target ∧ cmd.total = 16 * h.k ∧
          (∀ cs, drainChunks s t f (sp == 0) rb (pairBytes h.k h.pairs) = .ok cs → cmd.fault = none) ∧
          (∀ m, h.locs = [(.mem m, 32 + 16 * h.k)] → s.mem.wf = true → Claims.valueAt s' m.pa 32 = h.k)) ∧
      (∀ m e, Ready s r t f [cc.toNat] [d.toNat] [] [] → EntriesReadable s t f [tid.toNat] →
        s.validEntry t.ctx f.pc.toNat tid.toNat = .ok (m, e) → Entry.naxes e ≠ 0 → Entry.demandBad e dem.toNat = false →
        ∃ s' cmd, exec (.placeConvert d cc tid dem) s = .next s' ∧ Claims.CommandIssued s s' r t f 2 c d.toNat target cmd ∧ cmd.total = 64 ∧
          cmd.kind = .convert tid.toNat ∧ (Entry.state e = 1 → Entry.meets e dem.toNat = true → s.demands = [] →
            ∃ y ∈ s'.demands, y.who = .convert cmd.id ∧ y.granted = true))) ∧
    (∀ l, Ready s r t f [a.toNat, cc.toNat] [d.toNat] [] [] → s.enginesFull t = false → ra % 8 = 0 → scratchPlace t f ra 8 = .ok l →
      ∃ s' cmd, exec (.wdqNext d a q cc) s = .next s' ∧ Claims.CommandIssued s s' r t f 2 c d.toNat target cmd ∧ cmd.total = 8 ∧ cmd.kind = .wdq q.toNat l)) ∧
    (∀ y, s.ctx? t.ctx = some y → (∀ z ∈ s.cmds, z.ctx = t.ctx → ∀ l, z.kind ≠ .wdq q.toNat l) →
      (Ready s r t f [] [] [] [] → ∃ s' y', exec (.wdqReset q) s = .next s' ∧ s'.mem = s.mem ∧ s'.ctx? t.ctx = some y' ∧ ∀ z ∈ y'.wdq, z.idx ≠ q.toNat) ∧
      ∀ v s1, Ready s r t f [a.toNat] [] [] [] → ra % 32 = 0 → recordAt r t f ra 4 0 s = .ok (v, s1) → wdqBad v = false →
        ∃ s' y' z, exec (.wdqInit a q) s = .next s' ∧ s'.mem = s1.mem ∧ s'.ctx? t.ctx = some y' ∧ z ∈ y'.wdq ∧ z.idx = q.toNat ∧
          z.width = v % 2 ^ 16 ∧ z.height = v / 2 ^ 16 % 2 ^ 16 ∧ z.order = v / 2 ^ 32 % 2 ^ 2 ∧ z.next = v / 2 ^ 64 % 2 ^ 32)

/-- Completion and effect of `placeSeal`, `placeUnseal`, `placeQuery`, `srchDist`, `srchPush`, `srchPop`, `ixcommit`, `ixver`: 20 R421, R423, R425, R426. -/
def Obligations.PlaceIndexResult : Prop :=
  ∀ (s : State) (r : FibreRef) (t : Team) (f : Fibre) (c : Nat) (d a b e sn : BitVec 7) (tid : BitVec 10) (mb : BitVec 2) (sc k : BitVec 3) (m : MemLoc) (en : Nat),
    f.nearSlot = none → f.canIssue c → s.mem.wf = true →
    let ra := (f.reg a.toNat).toNat
    let value := fun (s : State) (len : Nat) (v : Dword) => s.issued r len c (.value [(d.toNat, v)] none) [d.toNat] [] []
    let answers := fun (i : Instr) (s1 : State) => ∃ s', exec i s = .next s' ∧ SameButCaches s1 s'
    (Ready s r t f [] [d.toNat] [] [] → EntriesReadable s t f [tid.toNat] → s.validEntry t.ctx f.pc.toNat tid.toNat = .ok (m, en) → s.demands = [] →
      answers (.placeQuery d tid) (value s 2 (Claims.placeWord en)) ∧
      (Entry.naxes en ≠ 0 →
        (mb.toNat < (Entry.localMembers en s.grid).length →
          (Entry.state en = 1 → answers (.placeSeal d tid mb) (s.issued r 2 c (.seal t.ctx tid.toNat mb.toNat d.toNat) [d.toNat] [] [])) ∧
          (Entry.state en = 0 → (Entry.sealedMask en).testBit mb.toNat = false → s.sealing = [] →
            ∃ s', exec (.placeSeal d tid mb) s = .next s' ∧ s'.mem = s.mem ∧ s'.sealing = [⟨t.ctx, tid.toNat, mb.toNat, some r, none⟩] ∧
              ⟨t.ctx, tid.toNat, mb.toNat, Entry.slotBase en mb.toNat, Entry.slotBase en mb.toNat + up64k (Entry.extent en)⟩ ∈ s'.sealedRanges)) ∧
        (Entry.state en = 0 → answers (.placeUnseal d tid) (value s 2 (Claims.placeWord en))) ∧
        (Entry.state en = 1 → ∃ s' e' x, exec (.placeUnseal d tid) s = .next s' ∧ Claims.EntryStored s s' m.pa e' ∧
          (∀ i, i < 1024 → e'.testBit i = if 786 ≤ i ∧ i < 792 then false else en.testBit i) ∧
          (∀ y ∈ s'.sealedRanges, y.ctx = t.ctx → y.tid ≠ tid.toNat) ∧
          s'.fibre? r = some x ∧ ∃ op ∈ x.ll, op.kind = .value [(d.toNat, Claims.placeWord e')] none))) ∧
    (∀ off desc qb rec ls, Ready s r t f [a.toNat, b.toNat, e.toNat, sn.toNat] [d.toNat] [] [] →
      scratchOffset (f.reg b.toNat) = .ok off → (f.reg e.toNat).toNat % 32 = 0 → descPlace s r t f .load ra = .ok m → readDesc s m = (desc, false) → ixBad desc = false →
      readQuery s t f off (vectorBytes (ixFmt desc) (ixDim desc)) = .ok (qb, false) →
      distRecord s t f (f.reg e.toNat).toNat (recordStride desc) = .ok ls → homeSpan s ls = (rec, false) →
      searchReady s r f (descSpan m) = true → s.spanOwned ls = false →
      ∃ v : Dword, exec (.srchDist d a b e sn) s = .next (value (s.recallSpan (descSpan m ++ ls)) 2 v) ∧
        (v.getLsbD 32 = true ↔ natOfBytes ((rec.drop 8).take 4) ≤ (f.reg sn.toNat).toNat % 2 ^ 32 ∧
          (f.reg sn.toNat).toNat % 2 ^ 32 < natOfBytes ((rec.drop 12).take 4))) ∧
    (∀ h : HeapList, readHeap s t f ra = .ok h → searchReady s r f h.locs = true →
      (Ready s r t f [a.toNat, b.toNat, b.toNat + 1] [d.toNat] [] [] → ∀ (p : Pair) (front back : List Pair), p = ⟨(f.reg b.toNat).toNat % 2 ^ 32, (f.reg (b.toNat + 1)).toNat⟩ → h.pairs = front ++ back →
        (∀ x ∈ h.pairs, x.id ≠ p.id) → (∀ x ∈ front, p.before x = false) → (∀ x ∈ back, p.before x = true) →
        (h.pairs.length < h.k → exec (.srchPush d a b) s = .next (value (s.writeHeap r t f h (front ++ p :: back)) 1 (BitVec.ofNat 64 front.length))) ∧
        (h.pairs.length = h.k → 0 < h.k → back ≠ [] → exec (.srchPush d a b) s =
          .next (value (s.writeHeap r t f h ((front ++ p :: back).take h.k)) 1 (BitVec.ofNat 64 front.length))) ∧
        (h.pairs.length = h.k → 0 < h.k → back = [] → exec (.srchPush d a b) s = .next (value s 1 (BitVec.allOnes 64)))) ∧
      (Ready s r t f [a.toNat, b.toNat, b.toNat + 1] [d.toNat] [] [] → ∀ (p old : Pair) (front back : List Pair), p = ⟨(f.reg b.toNat).toNat % 2 ^ 32, (f.reg (b.toNat + 1)).toNat⟩ →
        h.pairs.find? (fun x => x.id == p.id) = some old →
        (p.before old = false → exec (.srchPush d a b) s = .next (value s 1 (BitVec.allOnes 64))) ∧
        (p.before old = true → h.pairs.erase old = front ++ back → (∀ x ∈ front, p.before x = false ∧ x.id ≠ p.id) → (∀ x ∈ back, p.before x = true) →
          exec (.srchPush d a b) s = .next (value (s.writeHeap r t f h (front ++ p :: back)) 1 (BitVec.ofNat 64 front.length)))) ∧
      (Ready s r t f [a.toNat] [d.toNat, d.toNat + 1] [] [] → ∀ p ps, h.pairs = p :: ps → exec (.srchPop d a) s = .next ((s.writeHeap r t f h ps).issued r 1 c
        (.value [(d.toNat, BitVec.ofNat 64 p.dist), (d.toNat + 1, BitVec.ofNat 64 p.id)] none) [d.toNat, d.toNat + 1] [] [])) ∧
      (Ready s r t f [a.toNat] [d.toNat, d.toNat + 1] [] [] → h.pairs = [] → exec (.srchPop d a) s = .next (s.issued r 1 c
        (.value [(d.toNat, 0x7FC00000), (d.toNat + 1, BitVec.allOnes 64)] none) [d.toNat, d.toNat + 1] [] []))) ∧
    (∀ v : Nat, v = Claims.valueAt s m.pa 4 → s.poisonedAt (.mem m) = false →
      (Ready s r t f [a.toNat, b.toNat] [d.toNat] [] [] → descPlace s r t f .atomic ra = .ok m → f.loadsPending = false →
        storesDone s r f 4 = true → s.ownedAt (.mem m) = false → s.coh.probes.any (fun p => p.ctx == t.ctx) = false →
        ((f.reg b.toNat).toNat % 2 ^ 32 = v → v ≠ 0xFFFFFFFE → ∃ s' x, exec (.ixcommit d a b) s = .next s' ∧
          Claims.valueAt s' m.pa 4 = (v + 1) % 2 ^ 32 ∧ (∀ z, z < m.pa ∨ m.pa + 4 ≤ z → sparseGet 0 s'.mem.cells z = sparseGet 0 s.mem.cells z) ∧
          s'.fibre? r = some x ∧ ∃ op ∈ x.ll, op.kind = .value [(d.toNat, BitVec.ofNat 64 v)] none) ∧
        ((f.reg b.toNat).toNat % 2 ^ 32 ≠ v → exec (.ixcommit d a b) s = .next (value s 1 (BitVec.ofNat 64 v))) ∧
        ((f.reg b.toNat).toNat % 2 ^ 32 = v → v = 0xFFFFFFFE → exec (.ixcommit d a b) s = .next (s.raiseAt r ⟨0x19, 0, ra, 0⟩ [] 0))) ∧
      (Ready s r t f [a.toNat] [d.toNat] [] [] → descPlace s r t f .load ra = .ok m →
        loadReady s t f f.seq (.mem m) ⟨true, sc.toNat, k.toNat⟩ = true → f.sq = [] → f.loadsPending = false →
        answers (.ixver d a sc k) (value s 2 (BitVec.ofNat 64 v)) ∧ (k = 0 → exec (.ixver d a sc k) s = .next (value s 2 (BitVec.ofNat 64 v)))))

/-- Completion and effect of `engineLanding`, `engineCompletionWord`, `walkStep`, `wdqAnswer`, `scanStart`, `scanRefreshPause`, `scanResume`, `scanComplete`: 20 R417, R418; 10 R214 to R221; 05 R124. -/
def Obligations.EngineEventResult : Prop :=
  ∀ (s : State) (c : Cmd) (id stack : Nat), s.cmd? id = some c → s.mem.wf = true →
    (∀ (g : Stage) (rest : List Stage) (ck : Chunk) (bs : List Byte) (m q : MemLoc), c.kind = .copy → c.stages = g :: rest → g.read = true →
      g.chunks.find? (chunkReady s c) = some ck → ck = ⟨[.known bs], [], .write (.mem m), ck.lands, false⟩ → c.target = .fill q →
      ∃ s' c', exec (.engineLanding id) s = .next s' ∧ s'.cmd? id = some c' ∧ c'.landed = c.landed + ck.lands ∧
        c'.stages = { g with chunks := g.chunks.erase ck } :: rest ∧ s'.mem.full = s.mem.full ∧
        (∀ i, i < bs.length → sparseGet 0 s'.mem.cells (m.pa + i) = bs.getD i 0) ∧
        (∀ z, z < m.pa ∨ m.pa + bs.length ≤ z → sparseGet 0 s'.mem.cells z = sparseGet 0 s.mem.cells z)) ∧
    (∀ q, c.kind = .copy → c.stages = [] → c.target = .fill q ∨ c.target = .countdown q →
      ∃ s' c', exec (.engineLanding id) s = .next s' ∧ s'.mem = s.mem ∧ s'.cmd? id = some c' ∧ c' = { c with ended := true }) ∧
    (∀ (tid : Nat) (q : MemLoc) (d : Demand), c.kind = .convert tid → c.ended = false → c.fault = none → c.target = .fill q ∨ c.target = .countdown q → d ∈ s.demands → d.who = .convert id → d.granted = true →
      ∃ s' c', exec (.engineLanding id) s = .next s' ∧ s'.mem = s.mem ∧ s'.cmd? id = some c' ∧ c' = { c with ended := true } ∧ ∀ y ∈ s'.demands, y.who ≠ .convert id) ∧
    (c.ended = true → s.collapsesOf (.engine id) = false → ∃ s', exec (.engineCompletionWord id) s = .next s' ∧ ∀ y ∈ s'.cmds, y.id ≠ id) ∧
    (∀ q : MemLoc, c.ended = true → s.collapsesOf (.engine id) = false → c.fault = none → q.pa % 8 = 0 → s.mem.poison.contains (q.pa / 8) = false →
      (∀ y ∈ s.coh.waiters, y.m.pa / 8 ≠ q.pa / 8) → (∀ y ∈ s.ctxs, y.graphs = []) →
      (c.target = .fill q → ∃ s', exec (.engineCompletionWord id) s = .next s' ∧ (∀ y ∈ s'.cmds, y.id ≠ id) ∧
        Claims.valueAt s' q.pa 8 = c.total % 2 ^ 64 ∧ s'.mem.full.contains (q.pa / 8) = true) ∧
      (c.target = .countdown q → ∃ s', exec (.engineCompletionWord id) s = .next s' ∧ (∀ y ∈ s'.cmds, y.id ≠ id) ∧
        Claims.valueAt s' q.pa 8 = (BitVec.ofNat 64 (Claims.valueAt s q.pa 8) - 1).toNat)) ∧
    (∀ (key ko no lim at_ n : Nat) (res : Loc) (m : MemLoc) (v : Dword) (s1 : State), c.kind = .walk (.list key ko no lim) at_ n res → c.ended = false → c.fault = none →
      at_ ≠ 0 → n < lim → n % 2 = 0 → walkPlace s c ((at_ + ko) % 2 ^ 64) = .ok m → sourceReady s id (.read (.mem m) 8) = true →
      walkDword s c m = ((v, false), s1) → v.toNat ≠ key →
      ∃ s' c', exec (.walkStep id) s = .next s' ∧ s'.mem = s.mem ∧ s'.cmd? id = some c' ∧ c' = { c with kind := .walk (.list key ko no lim) at_ (n + 1) res }) ∧
    (∀ (key ko no lim n off tm : Nat) (t : Team) (q : MemLoc), c.kind = .walk (.list key ko no lim) 0 n (.scr tm off) → c.ended = false → c.fault = none →
      s.team? tm = some t → t.state = .running → sparseWf 0 t.scratch = true → c.target = .fill q → n < 2 ^ 16 →
      ∃ s' t', exec (.walkStep id) s = .next s' ∧ s'.mem = s.mem ∧ s'.team? tm = some t' ∧
        natOfBytes (sparseBytes t'.scratch off 16) = 2 ^ 64 * n + 2 ^ 80) ∧
    (∀ (q ctx off tm : Nat) (t : Team) (w : MemLoc) (x : Context) (y : Distributor), c.kind = .wdq q (.scr tm off) → c.ctx = ctx →
      s.cmds.find? (fun z => z.ctx == ctx && !z.ended && (match z.kind with | .wdq k _ => k == q | _ => false)) = some c →
      s.team? tm = some t → t.state = .running → sparseWf 0 t.scratch = true → c.target = .fill w →
      s.ctx? ctx = some x → x.wdq.find? (fun z => z.idx == q) = some y → y.order = 0 → y.width < 2 ^ 16 → y.height < 2 ^ 16 → y.next < 2 ^ 32 →
      ∃ s' t', exec (.wdqAnswer ctx q) s = .next s' ∧ s'.mem = s.mem ∧ s'.team? tm = some t' ∧
        (y.next < y.width * y.height → natOfBytes (sparseBytes t'.scratch off 8) = y.next % y.width + 2 ^ 16 * (y.next / y.width) + 2 ^ 32 * y.next) ∧
        (y.width * y.height ≤ y.next → natOfBytes (sparseBytes t'.scratch off 8) = 2 ^ 32 - 1 + 2 ^ 32 * (y.width * y.height))) ∧
    (∀ (d : Nat) (m : MemLoc) (qb : Option (List Byte)) (k : Nat) (res : Loc) (ps : List ScanPart), c.kind = .scan d m qb k res none ps →
      s.scanNext stack = some c → s.scansOn stack < 4 → s.pausedOn stack = false → s.ownedAt (.mem m) = false → s.collapsesAt (lineOf m.pa) = false →
      s.poisonedAt (.mem m) = false →
      ∃ s' c', exec (.scanStart stack) s = .next s' ∧ s'.mem = s.mem ∧ s'.cmd? id = some c' ∧ c'.kind = .scan d m qb k res (some (Claims.valueAt s m.pa 4))
        (ps.map fun p => if p.stack == stack then { p with phase := .running } else p)) ∧
    (∀ (d : Nat) (m : MemLoc) (qb : Option (List Byte)) (k v : Nat) (res : Loc) (ps : List ScanPart), c.kind = .scan d m qb k res (some v) ps →
      (s.scanNext stack = some c → s.scansOn stack < 4 → s.pausedOn stack = false → ∃ s' c', exec (.scanStart stack) s = .next s' ∧ s'.mem = s.mem ∧ s'.cmd? id = some c' ∧
        c'.kind = .scan d m qb k res (some v) (ps.map fun p => if p.stack == stack then { p with phase := .running } else p)) ∧
      (s.scansOn stack = 0 → exec (.scanRefreshPause stack) s = .next s) ∧
      (0 < s.scansOn stack →
        let owed := sparseGet 0 s.scanOwed stack
        (owed < 8 → exec (.scanRefreshPause stack) s = .next { s with scanOwed := sparsePut 0 s.scanOwed stack (owed + 1) }) ∧
        (8 ≤ owed → ∃ s' c', exec (.scanRefreshPause stack) s = .next s' ∧ s'.mem = s.mem ∧ s'.cmd? id = some c' ∧
          c'.kind = .scan d m qb k res (some v) (ps.map fun p => if p.stack = stack ∧ p.phase = .running then { p with phase := .paused } else p))) ∧
      (∃ s' c', exec (.scanResume stack) s = .next s' ∧ s'.mem = s.mem ∧ s'.scanOwed = sparsePut 0 s.scanOwed stack 0 ∧ s'.cmd? id = some c' ∧
        c'.kind = .scan d m qb k res (some v) (ps.map fun p => if p.stack = stack ∧ p.phase = .paused then { p with phase := .running } else p)) ∧
      (∀ p : ScanPart, ps.find? (fun p => p.stack == stack) = some p → p.phase = .running →
        ∃ s' c' best out, exec (.scanComplete id stack) s = .next s' ∧ s'.mem = s.mem ∧ s'.cmd? id = some c' ∧ c'.landed = c.landed ∧
          c'.kind = .scan d m qb k res (some v) (ps.map fun p => if p.stack == stack then { p with phase := .writing, out := out } else p) ∧
          best = (scanList s c d v k stack qb).1 ∧ best.length ≤ k ∧ (best.map (fun z => z.id)).Nodup ∧ out.flatMap (fun x => x.2) = pairBytes k best) ∧
      (∀ (p : ScanPart) (tm off o : Nat) (bs : List Byte) (t : Team) (q : MemLoc), ps.find? (fun p => p.stack == stack) = some p → p.phase = .writing →
        p.out = [(o, bs)] → (∃ x ∈ ps, x.stack ≠ stack ∧ x.phase ≠ .done) →
        res = .scr tm off → s.team? tm = some t → t.state = .running → sparseWf 0 t.scratch = true → c.target = .fill q →
        ∃ s' c' t', exec (.scanComplete id stack) s = .next s' ∧ s'.mem = s.mem ∧ s'.cmd? id = some c' ∧ c'.landed = c.landed + 16 * k ∧
          c'.kind = .scan d m qb k res (some v) (ps.map fun p => if p.stack == stack then { p with out := [], phase := .done } else p) ∧
          s'.team? tm = some t' ∧ ∀ i, i < bs.length → sparseGet 0 t'.scratch (off + o + i) = bs.getD i 0))

/-- 11 R235 to R241. -/
def Obligations.PlacementEventResult : Prop :=
  ∀ (s : State) (ctx tid axis coord : Nat) (cells : List (Nat × BitVec 8)) (m : MemLoc) (e : Nat), s.mem.wf = true →
    (∀ cv : ConvRun, s.convOf ctx tid = some cv → cv.axis ≤ axis → (∀ i ∈ cv.inputs, i.axis = axis → i.coord ≠ coord) →
      ∃ s', exec (.conversionInput ctx tid axis coord cells) s = .next s' ∧ s'.mem = s.mem ∧
        s'.convOf ctx tid = some { cv with inputs := cv.inputs ++ [⟨axis, coord, cells⟩] }) ∧
    (∀ cv : ConvRun, s.convOf ctx tid = some cv → s.readEntry ctx 0 tid = .ok (m, e) →
      (cv.axis < Entry.naxes e → axKind (Entry.axis e cv.axis) = 1 → stepReady s cv e cv.axis = true → (∀ o ∈ s.remote, o.who ≠ .conv ctx tid) →
        ∃ s', exec (.conversionComplete ctx tid) s = .next s' ∧ s'.mem = s.mem ∧
          s'.convOf ctx tid = some { cv with axis := cv.axis + 1, sent := false, since := s.aclk }) ∧
      (Entry.naxes e ≤ cv.axis → convPlan s cv e = some [] → cv.parts = [] → s.demands = [] →
        ∃ s' e', exec (.conversionComplete ctx tid) s = .next s' ∧ s'.convOf ctx tid = none ∧ Claims.EntryStored s s' m.pa e' ∧
          Entry.state e' = 1 ∧ Entry.generation e' = (Entry.generation e + 1) % 2 ^ 32)) ∧
    (∀ x : Sealing, s.sealing.find? s.sealReady = some x → s.readEntry x.ctx 0 x.tid = .ok (m, e) → x.member < 4 → s.demands = [] →
      ∃ s' e', exec .sealComplete s = .next s' ∧ s'.sealing = s.sealing.erase x ∧ Claims.EntryStored s s' m.pa e' ∧
        (∀ k, k < 4 → (Entry.sealedMask e').testBit k = ((Entry.sealedMask e).testBit k || decide (k = x.member))) ∧
        (Entry.state e = 0 → (∀ p ∈ Entry.localMembers e s.grid, p.1 = x.member ∨ (Entry.sealedMask e).testBit p.1 = true) →
          Entry.state e' = 1 ∧ Entry.generation e' = (Entry.generation e + 1) % 2 ^ 32) ∧
        (Entry.state e = 0 → (∃ p ∈ Entry.localMembers e s.grid, p.1 ≠ x.member ∧ (Entry.sealedMask e).testBit p.1 = false) →
          Entry.state e' = 0 ∧ Entry.generation e' = Entry.generation e)) ∧
    (∀ (d : Demand) (r : FibreRef), s.demands.find? s.askerDue = some d → d.who = .tld r → s.convs = [] →
      exec .sealTimeout s = .next ((({ s with demands := s.demands.filter (fun y => y.who != d.who) }).count d.ctx 0x51 1).raiseAt r
        ⟨0x15, 0, s.entryAddr d.ctx d.tid, 0⟩ [] 0))

/-- 20 R427; 10 R222 to R227. -/
def Obligations.HopResult : Prop :=
  ∀ (s : State) (r : FibreRef) (t : Team) (f : Fibre) (a : BitVec 7) (l : Leaf) (k : Nat),
    (Ready s r t f [a.toNat] [] [] [] →
      (f.handler.isSome → exec (.hop a) s = .next (s.raiseAt r ⟨0x01, 0, 0, 0⟩ [] 0) ∧
        exec .hopHome s = .next (s.raiseAt r ⟨0x01, 0, 0, 0⟩ [] 0)) ∧
      (f.handler = none → f.away = none → exec .hopHome s = .next (s.passed r 1 id)) ∧
      (f.handler = none → f.stack? = some k → hopReady f = true → exec .hopHome s = .next ((s.leaveSlot r).updFibre r fun x =>
        { x.pass 1 false s.aclk with away := some .homeward })) ∧
      (f.handler = none → translate s t.ctx (dieOf t f) 0 (f.reg a.toNat).toNat .load false = .ok l → l.cls = 0 → hopReady f = true →
        k = stackOf (l.place (f.reg a.toNat).toNat) →
        (f.away = none → s.coreEntries k < 1024 → exec (.hop a) s = .next ((s.leaveSlot r).updFibre r fun x =>
          { x.pass 1 false s.aclk with away := some (.transit k true) })) ∧
        (f.stack? = some k → exec (.hop a) s = .next (s.passed r 1 id)) ∧
        (∀ j, f.stack? = some j → j ≠ k → exec (.hop a) s = .next ((s.leaveSlot r).updFibre r fun x =>
          { x.pass 1 false s.aclk with away := some (.transit k false) })))) ∧
    (s.team? r.team = some t → t.fibre? r.fibre = some f →
      (∀ b, f.away = some (.transit k b) → ∃ s', exec (.hopLand r.team r.fibre) s = .next s' ∧ s'.mem = s.mem ∧
        s'.fibre? r = some { f with away := some (.escape k b) } ∧ ∃ before, s'.arrivals = before ++ [r]) ∧
      (∀ b c i, f.away = some (.escape k b) → s.arrivals.find? (fun q => s.escapeOf q == some k) = some r → s.freeSlot k = some (c, i) →
        ∃ s', exec (.nearSlotEntry k) s = .next s' ∧ s'.mem = s.mem ∧
          s'.fibre? r = some { f with away := some (.near k c i), status := .ready, since := s.aclk } ∧
          s'.near = s.near ++ [⟨k, c, i, r, [], []⟩] ∧ r ∉ s'.arrivals) ∧
      (f.away = some .homeward → t.state = .running → f.entering = none → t.redirect = [] → s.probesToward t.die = false →
        exec (.hopHomeArrival r.team r.fibre) s = .next ((t.core.elim s fun c => s.acquireL1 c none).updFibre r fun x => { x with away := none, status := .ready, since := s.aclk })) ∧
      (∀ c i n, f.away = some (.shipping k c i) → s.freeService k = some n → hopReady f = true →
        ∃ s', exec (.returnTrap r.team r.fibre) s = .next s' ∧ s'.mem = s.mem ∧
          s'.fibre? r = some { f with away := some (.service k n f.pc.toNat), since := s.aclk } ∧ ∀ x ∈ s'.near, x.who ≠ r) ∧
      (∀ n pc, f.away = some (.service k n pc) → f.pc.toNat ≠ pc → hopReady f = true → f.status = .ready → f.entering = none → f.handler = none →
        exec (.returnTrapResume r.team r.fibre) s = .next (s.updFibre r fun x => { x with away := some (.transit k false) })))

/-- 20 R428; 12 R246 to R255. -/
def Obligations.ChannelResult : Prop :=
  ∀ (s : State) (r : FibreRef) (t : Team) (f : Fibre) (c : Nat) (d a b : BitVec 7) (ch tile : BitVec 6) (ln : BitVec 2) (h : Chan) (e : Endpoint) (y : Context),
    let n := (f.reg b.toNat).toNat
    let err := fun (detail : Nat) => (s.count t.ctx 0x62 1).raiseAt r ⟨0x16, detail, 0, 0⟩ [] 0
    let readyA := Ready s r t f [a.toNat, b.toNat] [d.toNat] [] []
    let readyT := Ready s r t f [b.toNat] [d.toNat] [] [tile.toNat]
    let readyW := Ready s r t f [b.toNat] [d.toNat] [] []
    let readyR := Ready s r t f [b.toNat] [] [] []
    (f.nearSlot = none → f.canIssue c → tile.toNat < t.kernel.accTiles → s.ctx? t.ctx = some y →
      (∀ v s1, Ready s r t f [a.toNat] [d.toNat] [] [] → (f.reg a.toNat).toNat % 32 = 0 → recordAt r t f (f.reg a.toNat).toNat 4 0 s = .ok (v, s1) →
        let s2 := s1.takeAnswers r f.seq
        (chStatus s2 t v ≠ 0 → exec (.chanConfig d a) s = .next (s2.issued r 1 c (.value [(d.toNat, BitVec.ofNat 64 (chStatus s2 t v))] none) [d.toNat] [] [])) ∧
        (chStatus s2 t v = 0 → f.sq = [] → f.loadsPending = false → ∃ s' h' e', exec (.chanConfig d a) s = .next s' ∧ s'.mem = s2.mem ∧
          s'.chan? t.ctx (v % 2 ^ 6) = some h' ∧ h'.depth = v / 2 ^ 11 % 2 ^ 3 + 1 ∧ e' ∈ h'.ends ∧ e'.team = t.id ∧ e'.send = 0 ∧ e'.rxOff = v / 2 ^ 64 % 2 ^ 24)) ∧
      (s.chan? t.ctx ch.toNat = none → s.permitWaits = [] →
        (readyA → (f.reg a.toNat).toNat < 2 ^ 24 → (f.reg a.toNat).toNat + n ≤ t.allocBytes → exec (.chanSend d a b ch) s = .next (err 1)) ∧
        (readyT → s.tileBusy t tile.toNat = false →
          exec (.chanSendAcc d b ch tile) s = .next (err 1) ∧ exec (.chanSendAccBf16 d b ch tile) s = .next (err 1)) ∧
        (readyW → exec (.chanWait d b ch ln) s = .next (err 1)) ∧ (readyR → exec (.chanRelease b ch ln) s = .next (err 1))) ∧
      (s.chan? t.ctx ch.toNat = some h → h.ends.find? (fun x => x.team == t.id) = some e → e.lost = false →
        (Claims.MayIssue s r t f → s.permitWaits = [] → 0 < n → n ≤ 1024 * h.slotKib →
          (∀ l ∈ sendLanes h e, 0 < e.permit.getD (e.entry l) 0 ∧ (receiverOf h e l).isSome) → sendLanes h e ≠ [] →
          let sent := fun (i : Instr) => ∃ s' cs h' e' x, exec i s = .next s' ∧ s'.mem = s.mem ∧ s'.cmds = s.cmds ++ cs ∧ cs.length = (sendLanes h e).length ∧
            (∀ z ∈ cs, z.total = n ∧ z.who = r ∧ ∃ l ∈ sendLanes h e, ∃ bar peer, z.kind = .chan h.idx (!e.ff) l e.send bar peer) ∧
            s'.chan? t.ctx ch.toNat = some h' ∧ h'.ends.find? (fun x => x.team == t.id) = some e' ∧ e'.send = (e.send + 1) % 2 ^ 32 ∧
            (∀ l ∈ sendLanes h e, e'.permit.getD (e.entry l) 0 = e.permit.getD (e.entry l) 0 - 1) ∧
            s'.fibre? r = some x ∧ ∃ op ∈ x.ll, ∃ g, op.kind = .cmd g [(d.toNat, BitVec.ofNat 64 e.send)]
          (readyA → (f.reg a.toNat).toNat < 2 ^ 24 → (f.reg a.toNat).toNat + n ≤ t.allocBytes → sent (.chanSend d a b ch)) ∧
          (readyT → s.tileBusy t tile.toNat = false → n % 4 = 0 → n ≤ 4 * 6144 → sent (.chanSendAcc d b ch tile)) ∧
          (readyT → s.tileBusy t tile.toNat = false → n % 2 = 0 → n ≤ 2 * 6144 → sent (.chanSendAccBf16 d b ch tile))) ∧
        (∀ g, g = n % 2 ^ 32 → (e.ff = true → ln.toNat = e.lane) → (e.ff = false → ln.toNat < h.nf) →
          (readyW → countBefore g (e.release.getD (e.entry ln.toNat) 0) = false →
            let slot := slotIndex h e ln.toNat g
            let bar : Loc := .scr t.id (e.rxBar + 32 * slot)
            let off := e.rxOff + slot * (h.slotKib * 1024)
            (barPhase (s.barAt bar) ≠ (g / h.depth % 2 == 1) →
              ∃ s' x, exec (.chanWait d b ch ln) s = .next s' ∧ s'.mem = s.mem ∧ s'.fibre? r = some x ∧ ∃ op ∈ x.ll,
                op.kind = .value [(d.toNat, BitVec.ofNat 64 off)] none) ∧
            (barPhase (s.barAt bar) = (g / h.depth % 2 == 1) → barTimedOut (s.barAt bar) = false →
              ∃ s' x, exec (.chanWait d b ch ln) s = .next s' ∧ s'.mem = s.mem ∧ s'.fibre? r = some x ∧
                x.status = .chanWait bar (barPhase (s.barAt bar)) d.toNat off ∧ x.pc = f.pc)) ∧
          (readyR → g = e.release.getD (e.entry ln.toNat) 0 → countBefore g (e.landed.getD (e.entry ln.toNat) 0) = true → f.loadsPending = false →
            ∃ s' h' e', exec (.chanRelease b ch ln) s = .next s' ∧ s'.mem = s.mem ∧ s'.chan? t.ctx ch.toNat = some h' ∧
              h'.returning = h.returning ++ [(e.ff, ln.toNat)] ∧ h'.ends.find? (fun x => x.team == t.id) = some e' ∧
              e'.release.getD (e.entry ln.toNat) 0 = (g + 1) % 2 ^ 32)))) ∧
    (∀ ctx i fwd lane rest x, s.chan? ctx i = some h → h.returning = (fwd, lane) :: rest → h.ends.find? (fun z => z.ff != fwd && (fwd || z.lane == lane)) = some x →
      (∀ z ∈ h.ends, z.team = x.team → z = x) → ∃ s' h' x', exec (.permitReturn ctx i) s = .next s' ∧ s'.mem = s.mem ∧ s'.chan? ctx i = some h' ∧ h'.returning = rest ∧
        x' ∈ h'.ends ∧ x'.team = x.team ∧ x'.permit.getD (x.entry lane) 0 = x.permit.getD (x.entry lane) 0 + 1) ∧
    (∀ w tw fw, s.permitWaits.find? s.permitDue = some w → s.team? w.who.team = some tw → s.fibre? w.who = some fw → fw.pc.toNat = w.pc →
      fw.handler = none → fw.entering = none → exec .permitTimeout s = .next (((s.dropPermitWait w).count w.ctx 0x62 1).raiseAt w.who ⟨0x16, 4, 0, 0⟩ [] 0)) ∧
    (∀ (id i lane m off lo peer : Nat) (fwd : Bool) (cmd : Cmd) (bs : List Byte) (p : Team), s.cmd? id = some cmd → cmd.kind = .chan i fwd lane m (.scr peer off) peer →
      s.firstMessage cmd i fwd lane = true → cmd.stages = [⟨[⟨[.known bs], [], .write (.scr peer lo), cmd.total, false⟩], true⟩] →
      s.team? peer = some p → p.state = .running → sparseWf 0 p.scratch = true → lo + bs.length ≤ off ∨ off + 32 ≤ lo →
      ∃ s' p', exec (.slotLanding id) s = .next s' ∧ s'.mem = s.mem ∧ (∀ z ∈ s'.cmds, z.id ≠ id) ∧ s'.team? peer = some p' ∧
        ∀ k, k < bs.length → sparseGet 0 p'.scratch (lo + k) = bs.getD k 0)

/-! ### The board and the host port's services -/

namespace Sys2Proof.Claims

/-- `t` is what a boot makes of `s`: everything is lost but flash and fuses, the boot bank and the trained dies and ports decide what comes up, a host port that does not train halts the boot with the light on (01 Table 1.6). -/
structure Booted (s t : State) (dead ports : Nat) (host : Bool) : Prop where
  lost : t.teams = [] ∧ t.ctxs = [] ∧ t.insts = [] ∧ t.cmds = [] ∧ t.remote = [] ∧ t.mem = Memory.reset ∧ t.coh = Coherence.reset ∧ t.aclk = 0 ∧ t.os.held = false
  kept : t.os.banks = s.os.banks ∧ t.os.preferred = s.os.preferred ∧ t.os.flash = s.os.flash ∧ t.os.fusedMin = s.os.fusedMin
  up : t.os.powered = true ∧ t.os.host.up = host ∧ t.os.light = !host ∧
    (t.os.booted.isSome = true → t.dieStatus = BitVec.ofNat 64 (dead &&& dieMask)) ∧ (t.os.booted = none → t.dieStatus = 0) ∧
    t.bootDone = (host && !t.os.recovery) ∧ t.os.recovery = (t.os.booted.isNone || decide ((dead &&& dieMask) % 256 ≠ 0))
  ports : t.ports.length = 16 ∧ ∀ p ∈ t.ports, p.state = (if host = false ∨ ports.testBit p.idx = true then PortState.down else .up)
  bank : ∀ b k, s.os.banks[b]? = some k → k.valid = true → Config.imageSigned k.image = true → s.os.fusedMin ≤ Config.securityOf k.image →
    (b = s.os.preferred → t.os.booted = some b ∧ t.os.digest = padTo 64 (Config.shake256 k.image) ∧ t.os.security = Config.securityOf k.image) ∧
    (b = 1 - s.os.preferred → t.os.booted.isSome = true)

/-- A lifetime counter of `t` is `n` above its value in `cs`, up to its largest value (01 R31). -/
def More (cs : List (Nat × Nat)) (t : State) (entry inst n : Nat) : Prop :=
  sparseGet 0 t.life (entry * 65536 + inst) = min (sparseGet 0 cs (entry * 65536 + inst) + n) (2 ^ 64 - 1)

/-- The lifetime counters Oseus holds, or those of the best copy in flash before a boot has loaded them (01 R32). -/
def recordsOf (s : State) : List (Nat × Nat) :=
  if s.os.powered = true ∧ s.os.host.up = true then s.life else match s.os.bestCopy with | some c => c.counters | none => []

/-- A lifetime counter of `t` is one above its value in `cs`, up to its largest value (01 R31). -/
def OneMore (cs : List (Nat × Nat)) (t : State) (entry inst : Nat) : Prop := More cs t entry inst 1

end Sys2Proof.Claims

/-- 01 R24 to R32; 03 R61, R84, R85; 02 R34, R35. -/
def Obligations.BoardResult : Prop :=
  ∀ (s : State) (dead ports temp : Nat) (host ex : Bool) (gaps : List Nat),
    ((s.os.powered = true → exec (.powerGood dead ports host) s = .next s) ∧
     (s.os.powered = false → ∃ t, exec (.powerGood dead ports host) s = .next t ∧ Claims.Booted s t dead ports host ∧
       ∀ c, host = true → s.os.bestCopy = some c → Claims.OneMore c.counters t 11 0)) ∧
    (∀ a, s.os.resetAt = some a →
      (s.aclk < a → exec (.moduleReset dead ports host) s = .next s) ∧
      (a ≤ s.aclk → ∃ t, exec (.moduleReset dead ports host) s = .next t ∧ Claims.Booted s t dead ports host ∧ (host = true → Claims.OneMore s.life t 11 0))) ∧
    (s.os.resetAt = none → exec (.moduleReset dead ports host) s = .next s) ∧
    (∃ t, exec .powerLoss s = .next t ∧ t.os.powered = false ∧ t.teams = [] ∧ t.ctxs = [] ∧ t.mem = Memory.reset ∧ t.bootDone = false ∧
      t.os.banks = s.os.banks ∧ t.os.flash = s.os.flash ∧ t.os.fusedMin = s.os.fusedMin ∧ ∀ b, s.os.bestCopy = some b → t.os.bestCopy = some b) ∧
    ((temp < 110 ∨ s.os.powered = false → exec (.junctionStop temp) s = .next s) ∧
     (110 ≤ temp → s.os.powered = true → ∃ t c, exec (.junctionStop temp) s = .next t ∧ t.teams = [] ∧ t.ctxs = [] ∧ t.mem = Memory.reset ∧
       t.os.held = true ∧ t.os.powered = true ∧ t.os.bestCopy = some c ∧ c.counters = t.life ∧
       (sparseWf 0 (Claims.recordsOf s) = true → Claims.OneMore (Claims.recordsOf s) t 11 2 ∧
         ∀ k i, (k, i) ∈ [(0, 1), (1, 2), (2, 0)] → Claims.More (Claims.recordsOf s) t 7 k (if s.thermal.getLsbD i then s.aclk / 3600 - s.os.guardAt / 3600 else 0)) ∧
       (s.thermal.getLsbD 0 = true → ∃ e ∈ t.events, e.code = 2) ∧ ∃ e, t.events.getLast? = some e ∧ e.code = 5)) ∧
    ((s.aclk < s.os.guardAt + 3600 ∨ s.guardOk gaps ex = false → exec (.thermalGuardEvaluation gaps temp ex) s = .next s) ∧
     (s.os.guardAt + 3600 ≤ s.aclk → s.guardOk gaps ex = true → 110 ≤ temp → s.os.powered = true → ∃ t, exec (.thermalGuardEvaluation gaps temp ex) s = .next t ∧
       t.teams = [] ∧ t.mem = Memory.reset ∧ t.os.held = true ∧ ∃ e, t.events.getLast? = some e ∧ e.code = 5) ∧
     (s.os.guardAt + 3600 ≤ s.aclk → s.guardOk gaps ex = true → temp < 110 ∨ s.os.powered = false → ∃ t, exec (.thermalGuardEvaluation gaps temp ex) s = .next t ∧ t.os.guardAt = s.aclk ∧
       t.mem = s.mem ∧ t.teams = s.teams ∧ (ex = true → s.os.rated = false) ∧
       (sparseWf 0 s.life = true → ∀ k i, (k, i) ∈ [(0, 1), (1, 2), (2, 0)] → Claims.More s.life t 7 k (if s.thermal.getLsbD i then s.aclk / 3600 - s.os.guardAt / 3600 else 0)) ∧ t.thermal.getLsbD 0 = ex ∧ (temp < 256 → bitsOf t.thermal.toNat 8 8 = temp) ∧
       (∀ k, k = 1 ∨ k = 2 → t.thermal.getLsbD k = (allCores.zip gaps).any (fun p => s.guardStage p.1 == some k && decide (0 < p.2))) ∧
       (s.thermal.getLsbD 0 = ex → t.insts = s.insts ∧ t.events = s.events) ∧
       (s.thermal.getLsbD 0 = false → ex = true → (∀ x ∈ t.insts, x.excursion = true) ∧ ∃ e, t.events.getLast? = some e ∧ e.code = 1) ∧
       (s.thermal.getLsbD 0 = true → ex = false → t.insts = s.insts ∧ ∃ e, t.events.getLast? = some e ∧ e.code = 2))) ∧
    ((s.aclk < s.os.pollAt + 3600000 → exec .coolantSensorPoll s = .next s) ∧
     (s.os.pollAt + 3600000 ≤ s.aclk → ∃ c, exec .coolantSensorPoll s = .next { s with os := { s.os with coolant := c, pollAt := s.aclk } })) ∧
    ((s.aclk < s.os.sampleAt + 3600000 ∨ s.os.records = false → exec .lifetimeSample s = .next s) ∧
     (s.os.sampleAt + 3600000 ≤ s.aclk → s.os.records = true → sparseWf 0 s.os.carry = true →
       let n := sparseGet 0 s.os.carry (10 * 65536)
       ∃ t, exec .lifetimeSample s = .next t ∧ t.mem = s.mem ∧ t.teams = s.teams ∧ t.os.sampleAt = s.os.sampleAt + 3600000 ∧
         (n = 999 → sparseGet 0 t.os.carry (10 * 65536) = 0 ∧ Claims.OneMore s.life t 10 0) ∧
         (n < 999 → sparseGet 0 t.os.carry (10 * 65536) = n + 1 ∧ sparseGet 0 t.life (10 * 65536) = sparseGet 0 s.life (10 * 65536)))) ∧
    ((s.aclk < s.os.lifeAt + 216000000000 ∨ s.os.records = false → exec .lifetimeFlashWrite s = .next s) ∧
     (s.os.lifeAt + 216000000000 ≤ s.aclk → s.os.records = true → ∃ t c, exec .lifetimeFlashWrite s = .next t ∧ t.life = s.life ∧ t.mem = s.mem ∧
       t.os.lifeAt = s.aclk ∧ t.os.bestCopy = some c ∧ c.counters = s.life ∧ c.carry = s.os.carry ∧ (∀ b, s.os.bestCopy = some b → c.seq = b.seq + 1 ∧ b ∈ t.os.copies))) ∧
    ((s.events = [] ∨ s.os.mgmt = false → exec .eventRnrRetry s = .next s) ∧
     ∀ e rest, s.events = e :: rest → exec .eventRnrRetry s = .next s ∨ exec .eventRnrRetry s = .next { s with
       events := rest, eventsLost := 0, os := { s.os with out := some (.message ({ e with lost := min s.eventsLost 65535 } : EventMsg).bytes) } }) ∧
    (∃ t, exec .hostLinkRetrain s = .next t ∧ Claims.OneMore s.life t 5 0 ∧ t = { s with life := t.life }) ∧
    (exec .cmConnectRequest s = .next (if s.os.powered ∧ s.os.host.up then { s with os := { s.os with mgmt := true, out := some .connected } } else s)) ∧
    ((s.aclk < s.os.host.rateAt + 3600 * s.os.host.periodUs → exec .rateIncreasePeriod s = .next s) ∧
     (s.os.host.rateAt + 3600 * s.os.host.periodUs ≤ s.aclk → ∃ t, exec .rateIncreasePeriod s = .next t ∧ t.mem = s.mem ∧ t.remote = s.remote ∧ t.os.host.rateAt = s.aclk ∧
      ∀ i q, s.qp? i = some q → ∃ x, t.qp? i = some x ∧ x = { q with rate := min 800000 (q.rate + s.os.host.stepMbps) }))

/-! ### Management messages -/

namespace Sys2Proof.Claims

/-- Message `m` of a type, with `len` bytes of body and a good header, comes to an Oseus that serves it (03 R58, R59). -/
structure Asked (s : State) (m : Message) (type len : Nat) : Prop where
  serving : s.serving = true
  normal : s.os.recovery = false
  kind : msgType m = type
  head : msgHeadOk m = true
  length : m.body.length = len

/-- The last thing `t` sent on the host port is the reply to `m` with this status, detail and body (03 Table 3.1). -/
def Replied (t : State) (m : Message) (status detail : Nat) (body : List Byte) : Prop :=
  t.os.out = some (.message (messageBytes (msgType m) (msgReq m) (msgCtx m) status detail body))

/-- Byte address `a` lies in a frame that is in use. -/
def InUse (s : State) (a : Nat) : Prop := ∃ p ∈ s.os.used, p.1 * 65536 ≤ a ∧ a < (p.1 + p.2) * 65536

/-- The address of the leaf entry of a 64 KiB page below a root, where both tables above it stand (04 Tables 4.2 to 4.4). -/
def leafEntryAt (s : State) (root va e : Nat) : Prop :=
  let at1 := root + 8 * bitsOf va 42 10
  let at2 := entryPa (s.tableEntry at1) + 8 * bitsOf va 29 13
  s.tableEntry at1 % 4 = 1 ∧ s.tableEntry at2 % 4 = 1 ∧ e = entryPa (s.tableEntry at2) + 8 * bitsOf va 16 13 ∧
  (∀ i, i < 8 → InUse s (at1 + i) ∧ InUse s (at2 + i) ∧ InUse s (e + i))

end Sys2Proof.Claims

/-- 03 R68 to R73; 04 R89, R98, R99. -/
def Obligations.ContextMessageResult : Prop :=
  ∀ (s : State) (m : Message) (c : Context),
    let b := msgNum m
    let cx := msgCtx m
    (Claims.Asked s m 0x01 64 → cx = 0 → bitsOf b 0 52 % 4 = 0 → bitsOf b 64 52 % 4 = 0 → bitsOf b 128 52 % 4 = 0 → bitsOf b 192 52 % 65536 = 0 →
      bitsOf b 256 52 % 65536 = 0 → bitsOf b 308 4 ≤ 8 → bitsOf b 320 52 % 4096 = 0 → bitsOf b 384 32 ≠ 0 →
      (∀ p ∈ [(52, 12), (116, 12), (180, 12), (244, 12), (312, 8), (372, 12), (417, 95)], bitsOf b p.1 p.2 = 0) →
      ((∀ i, i < 64 → s.ctx? i ≠ none) → ∃ t, exec (.createContext m) s = .next t ∧ Claims.Replied t m 2 0 [] ∧ t.ctxs = s.ctxs) ∧
      ∀ id, id < 64 → s.ctx? id = none → (∀ j, j < id → s.ctx? j ≠ none) → (highestFree s.os.used 0x11E00000 1).isSome = true →
        ∃ t y, exec (.createContext m) s = .next t ∧ Claims.Replied t m 0 0 [BitVec.ofNat 8 id] ∧ t.ctx? id = some y ∧ (∀ j, j ≠ id → t.ctx? j = s.ctx? j) ∧
          y.trapHandler = bitsOf b 0 52 ∧ y.emulHandler = bitsOf b 64 52 ∧ y.preemptHandler = bitsOf b 128 52 ∧ y.tidTable = bitsOf b 192 52 ∧
          y.trapRing = bitsOf b 256 52 ∧ y.ringOrder = bitsOf b 308 4 ∧ y.pagerMbox = bitsOf b 320 52 ∧ y.rdvTimeout = bitsOf b 384 32 ∧
          y.notifyTerm = (bitsOf b 416 1 == 1) ∧ y.peer = false ∧ y.windows = [] ∧ y.graphs = [] ∧ y.partMask = List.replicate 8 0xFFFF ∧
          (∀ a, y.root ≤ a → a < y.root + 65536 → sparseGet 0 t.mem.cells a = 0) ∧ Claims.InUse t y.root) ∧
    (s.ctx? cx = none → Claims.Asked s m 0x02 0 → ∃ t, exec (.destroyContext m) s = .next t ∧ Claims.Replied t m 3 0 [] ∧ t.teams = s.teams) ∧
    (s.ctx? cx = some c →
      (Claims.Asked s m 0x02 0 → ∃ t y sh, exec (.destroyContext m) s = .next t ∧ t.os.out = s.os.out ∧ t.shoot = some sh ∧ sh.ctx = cx ∧ sh.dies = sweptDies ∧ sh.msg = 2 ∧
        (∀ x ∈ t.teams, x.ctx ≠ cx) ∧ (∀ x ∈ t.insts, x.ctx ≠ cx) ∧ (∀ q ∈ t.os.qps, q.ctx ≠ cx) ∧ (∀ q ∈ s.os.qps, q.ctx = cx → ∃ x ∈ t.os.qps, x.idx = q.idx ∧ x.ctx = 64 ∧ x.error = true ∧ x.pending = []) ∧
        t.ctx? cx = some y ∧ y.peer = false ∧ y.graphs = [] ∧ y.images = [] ∧ y.chans = [] ∧ y.wdq = []) ∧
      (Claims.Asked s m 0x03 24 → bitsOf b 32 32 = 0 → (∀ p, p < 8 → bitsOf b (64 + 16 * p) 16 ≠ 0) →
        let cc := bitsOf b 0 8
        let cm := bitsOf b 8 8
        let ic := bitsOf b 16 8
        let im := bitsOf b 24 8
        let others := fun (f : Context → Nat) => ((s.ctxs.filter (fun x => x.id != c.id)).map f).foldl (· + ·) 0
        let beyond := 32 < cc + others (·.critC) ∨ 24 < cm + others (·.critM) ∨ 40 < cc + others (·.critC) + (ic + others (·.intC)) ∨
          48 < cm + others (·.critM) + (im + others (·.intM))
        (beyond → ∃ t, exec (.setReservations m) s = .next t ∧ Claims.Replied t m 5 0 [] ∧ t.ctxs = s.ctxs) ∧
        (¬ beyond → s.admittedLive c.id 0 = false → s.admittedLive c.id 1 = false → ∃ t y, exec (.setReservations m) s = .next t ∧ Claims.Replied t m 0 0 [] ∧
          t.mem = s.mem ∧ t.ctx? cx = some y ∧ y.critC = cc ∧ y.critM = cm ∧ y.intC = ic ∧ y.intM = im ∧
          (∀ p, p < 8 → y.partMask.getD p 0 = bitsOf b (64 + 16 * p) 16) ∧
          ∀ w ∈ t.coh.retainedWays, ∀ p, p < 8 → (bitsOf b (64 + 16 * p) 16).testBit w.2 = false)) ∧
      (∀ e, Claims.Asked s m 0x04 40 → firstBad ((mapAsk b).fields b true) = none → (mapAsk b).cls ≤ 2 → (mapAsk b).big = false → (mapAsk b).nonres = false →
        (mapAsk b).len = 65536 → s.pagesIn c.root (mapAsk b).va 65536 = [] → Claims.leafEntryAt s c.root (mapAsk b).va e → s.mem.wf = true →
        ((mapAsk b).frame s.os.used 0).isSome = true → ∃ t f, exec (.mapMemory m) s = .next t ∧ Claims.Replied t m 0 0 [] ∧
          let pool := framePool (mapAsk b).cls (if (mapAsk b).cls = 0 ∧ (mapAsk b).place = 8 then 0 else (mapAsk b).place)
          pool.1 ≤ f ∧ f < pool.2 ∧ framesFree s.os.used f 1 = true ∧ Claims.InUse t (f * 65536) ∧
          t.tableEntry e = (mapAsk b).leaf + f * 2 ^ 16 ∧ (∀ a, f * 65536 ≤ a → a < (f + 1) * 65536 → sparseGet 0 t.mem.cells a = 0) ∧
          ∀ a, (a < f * 65536 ∨ (f + 1) * 65536 ≤ a) → (a < e ∨ e + 8 ≤ a) → sparseGet 0 t.mem.cells a = sparseGet 0 s.mem.cells a) ∧
      (Claims.Asked s m 0x05 16 → bitsOf b 0 52 % 65536 = 0 → bitsOf b 52 12 = 0 → bitsOf b 64 52 ≠ 0 → bitsOf b 64 52 % 65536 = 0 → bitsOf b 116 12 = 0 →
        let ps := s.pagesIn c.root (bitsOf b 0 52) (bitsOf b 64 52)
        (ps = [] → exec (.unmapMemory m) s = .next (s.reply 5 (msgReq m) cx 0 0 [])) ∧
        (ps ≠ [] → (∀ p ∈ ps, bitsOf b 0 52 ≤ p.1 ∧ p.1 + pageBytes (p.2.1 == 1) ≤ bitsOf b 0 52 + bitsOf b 64 52) →
          ∃ t sh, exec (.unmapMemory m) s = .next t ∧ t.shoot = some sh ∧ sh.ctx = cx ∧ sh.removed = ps ∧ sh.dies = sweptDies ∧ sweptDies.length = 18 ∧
            sh.msg = 5 ∧ sh.req = msgReq m ∧ sh.since = s.aclk)) ∧
      (Claims.Asked s m 0x09 32 → bitsOf b 56 3 ≤ 4 → bitsOf b 63 1 = 0 → bitsOf b 120 8 = 0 → ∀ i, 2 ≤ i → i ≤ 1024 → (∀ q, s.qp? i = some q → q.ctx = 64) → (∀ j, 2 ≤ j → j < i → ∃ q, s.qp? j = some q ∧ q.ctx ≠ 64) →
        ∃ t q, exec (.createQueuePair m) s = .next t ∧ Claims.Replied t m 0 0 (bytesOfNat 2 i) ∧ t.qp? i = some q ∧ (∀ j, j ≠ i → t.qp? j = s.qp? j) ∧
          q.ctx = cx ∧ q.key = bitsOf b 0 32 ∧ q.remoteQpn = bitsOf b 32 24 ∧ q.mtu = bitsOf b 56 3 ∧ q.prio = bitsOf b 59 1 ∧ q.retry = bitsOf b 60 3 ∧
          q.ackTimeout = bitsOf b 64 5 ∧ q.rnrRetry = bitsOf b 69 3 ∧ q.sqPsn = bitsOf b 72 24 ∧ q.rqPsn = bitsOf b 96 24 ∧ q.gid = bitsOf b 128 128 ∧ q.error = false ∧ q.pending = []) ∧
      (∀ i q, Claims.Asked s m 0x0A 2 → i = bitsOf b 0 11 → 2 ≤ i → i ≤ 1024 → bitsOf b 11 5 = 0 → s.qp? i = some q →
        (q.ctx ≠ cx → exec (.destroyQueuePair m) s = .next (s.reply 0x0A (msgReq m) cx 3 0 [])) ∧
        (q.ctx = cx → (∃ w ∈ c.windows, w.host = true ∧ w.pages ≠ 0 ∧ w.qp = i) → exec (.destroyQueuePair m) s = .next (s.reply 0x0A (msgReq m) cx 4 0 [])) ∧
        (q.ctx = cx → (∀ w ∈ c.windows, w.host = true → w.pages ≠ 0 → w.qp ≠ i) → ∃ t, exec (.destroyQueuePair m) s = .next t ∧ Claims.Replied t m 0 0 [] ∧ t.qp? i = none)) ∧
      (Claims.Asked s m 0x0B 1 → bitsOf b 1 7 = 0 → ∃ t, exec (.grantPeerAccess m) s = .next t ∧ Claims.Replied t m 0 0 [] ∧
        t.ctx? cx = some { c with peer := bitsOf b 0 1 == 1 } ∧ ∀ j, j ≠ cx → t.ctx? j = s.ctx? j)) ∧
    (∀ sh die, s.shoot = some sh →
      (die ∉ sh.dies → exec (.dieSweepAnswer die) s = .next s) ∧
      (die ∈ sh.dies → s.cmds = [] → s.coh.waiters = [] → s.remote = [] →
        (s.sweepDone sh die = false → exec (.dieSweepAnswer die) s = .next s) ∧
        (s.sweepDone sh die = true → sh.dies ≠ [die] → exec (.dieSweepAnswer die) s = .next { s with shoot := some { sh with dies := sh.dies.erase die } }) ∧
        (s.sweepDone sh die = true → sh.dies = [die] → ∃ t, exec (.dieSweepAnswer die) s = .next t ∧ t.shoot = none ∧
          t.os.out = some (.message (messageBytes sh.msg sh.req sh.ctx 0 0 [])) ∧ (sh.msg = 2 → t.ctx? sh.ctx = none) ∧
          ∀ p ∈ sh.frames, ∀ a, p.1 * 65536 ≤ a → a < (p.1 + p.2) * 65536 → sparseGet 0 t.mem.cells a = 0)))

/-- 03 R58 to R67, R76, R77, R84, R85. -/
def Obligations.ServiceMessageResult : Prop :=
  ∀ (s : State) (m : Message) (c : Context),
    let b := msgNum m
    let cx := msgCtx m
    let req := msgReq m
    (∀ p ∈ [(Instr.createContext m, 0x01, false), (.destroyContext m, 0x02, false), (.setReservations m, 0x03, false), (.mapMemory m, 0x04, false),
        (.unmapMemory m, 0x05, false), (.loadImage m, 0x06, false), (.loadGraph m, 0x07, false), (.unloadGraph m, 0x08, false), (.createQueuePair m, 0x09, false),
        (.destroyQueuePair m, 0x0A, false), (.grantPeerAccess m, 0x0B, false), (.setGrid m, 0x0C, false), (.portUp m, 0x0D, false), (.setLinkParameters m, 0x0E, false),
        (.readCounters m, 0x0F, false), (.readRecords m, 0x10, true), (.attest m, 0x11, false), (.firmwareLoad m, 0x12, true), (.raiseSecurityMinimum m, 0x13, false)],
      (msgType m ≠ p.2.1 ∨ s.mgmtUp = false → exec p.1 s = .next s) ∧
      (msgType m = p.2.1 → s.mgmtUp = true →
        (4080 < m.body.length → exec p.1 s = .next (({ s with os := { s.os with mgmt := false, inbox := [] } } : State).say (.nak 1 .invalidRequest))) ∧
        (m.body.length ≤ 4080 →
          (s.serving = false → s.os.inbox.length < 64 → exec p.1 s = .next { s with os := { s.os with inbox := s.os.inbox ++ [m] } }) ∧
          (s.serving = false → 64 ≤ s.os.inbox.length → exec p.1 s = .next (s.say (.nak 1 .receiverNotReady))) ∧
          (s.serving = true → s.os.recovery = true → p.2.2 = false → exec p.1 s = .next (s.reply p.2.1 req cx 6 0 [])) ∧
          (s.serving = true → (s.os.recovery = false ∨ p.2.2 = true) → msgHeadOk m = false → exec p.1 s = .next (s.reply p.2.1 req cx 1 0 []))))) ∧
    (s.ctx? cx = some c →
      (∀ i : ImageLoad, Claims.Asked s m 0x06 24 → i = ⟨req, cx, bitsOf b 0 52, bitsOf b 64 52, bitsOf b 128 2 == 1, bitsOf b 132 28, if bitsOf b 130 1 = 1 then some (bitsOf b 160 8) else none, none⟩ →
        (∀ p ∈ [(52, 12), (116, 12), (131, 1), (168, 24)], bitsOf b p.1 p.2 = 0) → bitsOf b 128 2 = 0 → 1 ≤ i.len → i.len ≤ 2 ^ 26 →
        (if bitsOf b 130 1 = 1 then bitsOf b 160 8 ≤ 63 else bitsOf b 160 8 = 0) → imageDest s cx i.dst i.len = true → imageSource s cx i.src i.len = true →
        (c.imageIndex i.dst i.len).isSome = true → (bitsOf b 130 1 = 1 → s.os.flashRoom (bitsOf b 160 8) i.len = true) →
        ∃ t, exec (.loadImage m) s = .next t ∧ t.os = { s.os with image := some i } ∧ t.ctx? cx = some { c with held := true } ∧ t.mem = s.mem) ∧
      (Claims.Asked s m 0x07 24 → bitsOf b 52 12 = 0 → bitsOf b 64 16 ≠ 0 → bitsOf b 80 16 = 0 → bitsOf b 148 44 = 0 → taggedWord s cx (bitsOf b 96 52) = true →
        let n := bitsOf b 64 16
        let node := fun (i : Nat) => natOfBytes (virtualBytes s cx (bitsOf b 0 52 + 128 * i) 128)
        let good := fun (i : Nat) => nodeReadable s cx (bitsOf b 0 52 + 128 * i) = true ∧ nodeOk s cx n i (node i) = true
        (∀ i, i < n → ¬ good i → (∀ j, j < i → good j) → ∃ t, exec (.loadGraph m) s = .next t ∧ Claims.Replied t m 1 i [] ∧ t.ctxs = s.ctxs) ∧
        (∀ h g, (∀ j, j < n → good j) → h < 256 → (∀ x ∈ c.graphs, x.handle ≠ h) → (∀ k, k < h → ∃ x ∈ c.graphs, x.handle = k) →
          g = graphFrom ((List.range n).map node) h (bitsOf b 96 52) none → g.badShape = none →
          (c.graphs.map (fun g => g.nodes.length)).foldl (· + ·) 0 + n ≤ 1048576 →
          ∃ t y, exec (.loadGraph m) s = .next t ∧ Claims.Replied t m 0 0 [BitVec.ofNat 8 h] ∧ t.ctx? cx = some y ∧ y.graphs = c.graphs ++ [g] ∧
            g.nodes.length = n ∧ g.cls = bitsOf (node 0) 4 2 ∧ g.entry = bitsOf (node 0) 8 16 ∧
            ((s.watched cx g.startWord).all (fun w => !s.tagFull w) = true → t.mem = s.mem ∧ t.starts = s.starts) ∧
            ∀ w, s.watched cx g.startWord = some w → s.tagFull w = true → t.mem = { s.mem with full := setPut s.mem.full w false } ∧ t.starts = s.starts ++ [(cx, h, s.now)])) ∧
      (Claims.Asked s m 0x08 1 →
        ((∀ g ∈ c.graphs, g.handle ≠ bitsOf b 0 8) → exec (.unloadGraph m) s = .next (s.reply 8 req cx 3 0 [])) ∧
        ((∃ g ∈ c.graphs, g.handle = bitsOf b 0 8) → s.liveOf cx (bitsOf b 0 8) ≠ 0 → exec (.unloadGraph m) s = .next (s.reply 8 req cx 4 0 [])) ∧
        ((∃ g ∈ c.graphs, g.handle = bitsOf b 0 8) → s.liveOf cx (bitsOf b 0 8) = 0 → ∃ t y, exec (.unloadGraph m) s = .next t ∧ Claims.Replied t m 0 0 [] ∧
          t.ctx? cx = some y ∧ (∀ g, g ∈ y.graphs ↔ g ∈ c.graphs ∧ g.handle ≠ bitsOf b 0 8)))) ∧
    (∀ q y, s.os.image = some q → s.ctx? q.ctx = some y →
      (q.copied = none → (∃ x ∈ s.teams, x.ctx = q.ctx ∧ x.core.isSome = true) → exec .loadImageQuiesced s = .next s) ∧
      (∀ p, q.copied = some p → (s.collapsesOf .oseus = true → exec .loadImageQuiesced s = .next s) ∧
        (s.collapsesOf .oseus = false → ∃ t, exec .loadImageQuiesced s = .next t ∧ t.os.image = none ∧ t.mem = s.mem ∧ t.ctx? q.ctx = some { y with held := false } ∧
          t.os.out = some (.message (messageBytes 6 q.req q.ctx 0 0 (bytesOfNat 1 p.1 ++ p.2))))) ∧
      (∀ l bs idx, q.copied = none → (∀ x ∈ s.teams, x.ctx = q.ctx → x.core = none) → s.mem.wf = true → q.flash = false → bs = virtualBytes s q.ctx q.src q.len → 0 < q.len →
        q.dst % 65536 + q.len ≤ 65536 → leafFor s q.ctx 8 q.dst = .leaf l → y.imageIndex q.dst q.len = some idx →
        ∃ t z, exec .loadImageQuiesced s = .next t ∧ t.ctx? q.ctx = some z ∧ ⟨idx, q.dst, q.len, padTo 64 (Config.shake256 bs)⟩ ∈ z.images ∧
          (s.coh.regions = [] → s.coh.probes = [] → t.os.image = none ∧ z.held = false ∧
            t.os.out = some (.message (messageBytes 6 q.req q.ctx 0 0 (bytesOfNat 1 idx ++ padTo 64 (Config.shake256 bs))))) ∧
          (t.collapsesOf .oseus = true → t.os.out = s.os.out ∧ z.held = y.held ∧ t.os.image = some { q with copied := some (idx, padTo 64 (Config.shake256 bs)) }) ∧
          (∀ k, q.store = some k → (k, bs) ∈ t.os.flash) ∧ ∀ i, i < q.len → sparseGet 0 t.mem.cells (l.place q.dst + i) = bs.getD i 0)) ∧
    (Claims.Asked s m 0x0C (272 + 8 * bitsOf b 2112 7) → cx = 0 → s.remote = [] → (∀ y ∈ s.ctxs, ∀ w ∈ y.windows, w.host = true ∨ w.pages = 0) →
      bitsOf b 48 2 ≠ 0 → (∀ i, bitsOf b 48 2 ≤ i → i < 3 → axisOf (bitsOf b 0 48) i = 0) → bitsOf b 50 14 = 0 →
      (∀ i, i < 16 → portEntryOk (bitsOf b (64 + 128 * i) 128) (bitsOf b 48 2) (bitsOf b 0 48) = true ∧ bitsOf b (161 + 128 * i) 31 = 0) →
      bitsOf b 2112 7 ≤ 64 → bitsOf b 2119 57 = 0 → (∀ j k, j < k → k < bitsOf b 2112 7 → bitsOf b (2176 + 64 * j) 16 ≠ bitsOf b (2176 + 64 * k) 16) →
      ∃ t, exec (.setGrid m) s = .next t ∧ Claims.Replied t m 0 0 [] ∧ t.grid = BitVec.ofNat 64 (bitsOf b 0 50) ∧
        t.reducers = (List.range (bitsOf b 2112 7)).map (fun k => (bitsOf b (2176 + 64 * k) 16, bitsOf b (2192 + 64 * k) 48)) ∧
        ∀ p ∈ t.ports, p.idx < 16 → p.reach = (if bitsOf b (160 + 128 * p.idx) 1 = 1 then some (portRange (bitsOf b (64 + 128 * p.idx) 128)) else none)) ∧
    (∀ p : Port, Claims.Asked s m 0x0D 1 → cx = 0 → bitsOf b 4 4 = 0 → s.port? (bitsOf b 0 4) = some p →
      (p.state = .down → ∃ t, exec (.portUp m) s = .next t ∧ Claims.Replied t m 0 0 [] ∧ t.port? (bitsOf b 0 4) = some { p with state := .retrain, fails := 0 }) ∧
      ((∀ x ∈ s.ports, x.idx = bitsOf b 0 4 → x.state ≠ .down) → exec (.portUp m) s = .next (s.reply 0x0D req cx 4 0 []))) ∧
    (Claims.Asked s m 0x0E 40 → cx = 0 → bitsOf b 51 1 = 0 → bitsOf b 48 3 ≠ bitsOf b 52 3 → bitsOf b 55 1 = 0 → bitsOf b 62 2 = 0 → bitsOf b 208 16 ≠ 0 → bitsOf b 288 32 = 0 →
      ∃ t, exec (.setLinkParameters m) s = .next t ∧ Claims.Replied t m 0 0 [] ∧ t.os.host = { s.os.host with
        nextMac := if bitsOf b 0 48 = 0 then s.os.host.nextMac else bitsOf b 0 48, nextGid := if bitsOf b 64 128 = 0 then s.os.host.nextGid else bitsOf b 64 128,
        prioA := bitsOf b 48 3, prioB := bitsOf b 52 3, dscp := bitsOf b 56 6, cut := bitsOf b 192 16, periodUs := bitsOf b 208 16,
        stepMbps := bitsOf b 224 32, minMbps := bitsOf b 256 32 }) ∧
    (∀ n, n = bitsOf b 0 8 → 1 ≤ n → n ≤ 254 → bitsOf b 8 24 = 0 → (∀ i, i < n → bitsOf b (40 + 32 * i) 8 = 0) → cx = 0 →
      let item := fun (body : List Byte) (i : Nat) => natOfBytes ((body.drop (8 + 16 * i)).take 16)
      let name := fun (i : Nat) => (bitsOf b (32 + 32 * i) 8, bitsOf b (48 + 32 * i) 16)
      (Claims.Asked s m 0x10 (4 + 4 * n) → ∃ body, exec (.readRecords m) s = .next (s.reply 0x10 req cx 0 0 body) ∧ body.length = 8 + 16 * n ∧ natOfBytes (body.take 8) = s.now ∧
        ∀ i, i < n → item body i = (name i).1 + bit (recordExists (name i)) * 2 ^ 8 + (name i).2 * 2 ^ 16 +
          (if recordExists (name i) then sparseGet 0 s.life ((name i).1 * 65536 + (name i).2) % 2 ^ 64 else 0) * 2 ^ 64) ∧
      (Claims.Asked s m 0x0F (4 + 4 * n) → ∃ body, exec (.readCounters m) s = .next (s.reply 0x0F req cx 0 0 body) ∧ body.length = 8 + 16 * n ∧ natOfBytes (body.take 8) = s.now ∧
        ∀ i y, i < n → counterExists (name i).1 = true → s.ctx? (name i).2 = some y →
          item body i = (name i).1 + 2 ^ 8 + (name i).2 * 2 ^ 16 + sparseGet 0 y.counters (name i).1 % 2 ^ 64 * 2 ^ 64)) ∧
    (∀ n, n = bitsOf b 256 8 → n ≤ 16 → bitsOf b 264 8 = 0 → (∀ j, j < n → bitsOf b (278 + 16 * j) 2 = 0 ∧ bitsOf b (284 + 16 * j) 4 = 0) → cx = 0 → Claims.Asked s m 0x11 (34 + 2 * n) →
      ((∃ j, j < n ∧ s.imageDigest (bitsOf b (272 + 16 * j) 6, bitsOf b (280 + 16 * j) 4) = none) → exec (.attest m) s = .next (s.reply 0x11 req cx 3 0 [])) ∧
      (∀ ds : List (List Byte), ds.length = n → (∀ j, j < n → s.imageDigest (bitsOf b (272 + 16 * j) 6, bitsOf b (280 + 16 * j) 4) = some (ds.getD j [])) →
        ∃ body, exec (.attest m) s = .next (s.reply 0x11 req cx 0 0 body) ∧ body.length = 1424 + 64 * n ∧ body.take 32 = m.body.take 32 ∧
          (body.drop 48).take 64 = padTo 64 s.os.digest ∧ (∀ j, j < n → (body.drop (136 + 64 * j)).take 64 = padTo 64 (ds.getD j [])) ∧
          body.drop (144 + 64 * n) = padTo 1280 (Config.sign (Config.shake256 (body.take (144 + 64 * n)))))) ∧
    (∀ (offset total bank : Nat) (data : List Byte), Claims.Asked s m 0x12 (16 + data.length) → cx = 0 → 1 ≤ data.length → data.length ≤ 4064 → data = m.body.drop 16 →
      offset = bitsOf b 0 32 → total = bitsOf b 32 32 → bank = bitsOf b 64 1 → bitsOf b 66 62 = 0 → 1 ≤ total → total ≤ 100663296 → s.os.banks.length = 2 →
      (offset = 0 → s.os.booted = some bank → exec (.firmwareLoad m) s = .next (s.reply 0x12 req cx 4 8 [])) ∧
      (s.os.booted ≠ some bank →
        (offset = 0 → bitsOf b 65 1 = 0 → data.length ≤ total → ∃ t, exec (.firmwareLoad m) s = .next t ∧ Claims.Replied t m 0 0 [] ∧
          t.os.loading = some ⟨bank, total, data⟩ ∧ t.os.banks[bank]? = some ⟨[], false⟩) ∧
        (∀ l : BankLoad, 0 < offset → s.os.loading = some l → l.bank = bank → l.total = total → l.data.length = offset → bitsOf b 65 1 = 1 → offset + data.length = total →
          ∃ t ok, exec (.firmwareLoad m) s = .next t ∧ t.os.loading = none ∧ t.os.banks[bank]? = some ⟨l.data ++ data, ok⟩ ∧
            (ok = true ↔ Config.imageSigned (l.data ++ data) = true ∧ s.os.fusedMin ≤ Config.securityOf (l.data ++ data)) ∧
            (ok = true → t.os.preferred = bank ∧ Claims.Replied t m 0 0 []) ∧ (ok = false → t.os.preferred = s.os.preferred ∧ Claims.Replied t m 7 0 [])))) ∧
    (∀ v, v = bitsOf b 0 32 → Claims.Asked s m 0x13 4 → cx = 0 →
      (v < s.os.fusedMin → exec (.raiseSecurityMinimum m) s = .next (s.reply 0x13 req cx 1 0 [])) ∧
      (s.os.fusedMin ≤ v → s.os.security < v → exec (.raiseSecurityMinimum m) s = .next (s.reply 0x13 req cx 4 0 [])) ∧
      (s.os.fusedMin ≤ v → v ≤ s.os.security → ∃ t, exec (.raiseSecurityMinimum m) s = .next t ∧ Claims.Replied t m 0 0 [] ∧ t.os.fusedMin = v)) ∧
    (({ s with os := { s.os with held := false } } : State).serving = true → msgType m = 0x14 → msgHeadOk m = true → m.body = [] → cx = 0 →
      ∃ t, exec (.resetMsg m) s = .next t ∧ Claims.Replied t m 0 0 [] ∧ t.os.resetAt = some (s.aclk + 3600000) ∧ t.os.held = s.os.held ∧ t.mem = s.mem) ∧
    (msgType m ≠ 0x14 → exec (.resetMsg m) s = .next s) ∧
    ((1 ≤ msgType m ∧ msgType m ≤ 0x14 → exec (.unassignedMessageType m) s = .next s) ∧
     (msgType m = 0 ∨ 0x14 < msgType m → s.serving = true → m.body.length ≤ 4080 → msgHeadOk m = true →
       exec (.unassignedMessageType m) s = .next (s.reply (msgType m) req cx (if s.os.recovery then 6 else 8) 0 [])))

/-! ### The host port -/

namespace Sys2Proof.Claims

/-- No open transaction of the device stands on a queue pair in the error state. -/
def PairsGood (s : State) : Prop :=
  ∀ o ∈ s.remote, o.host = true → o.answer = none → o.failed = false → ∃ q, s.opQp o = some q ∧ q.error = false

/-- A packet of queue pair `q` was the last thing sent, or waits behind the pair's earlier ones while flow control has paused its priority (02 R34). -/
def Sends (s t : State) (q : Nat) (m : HostOut) : Prop :=
  if s.pausedQp q || s.os.waiting.any (fun p => p.1 == q) then t.os.waiting = s.os.waiting ++ [(q, m)] ∧ t.os.out = s.os.out
  else t.os.out = some m ∧ t.os.waiting = s.os.waiting

/-- No byte of `[pa, pa + n)` takes part in a translation of the context: with other bytes there every WRITE resolves as in `s`. -/
def NoTable (s : State) (ctx pa n : Nat) : Prop :=
  ∀ mem' : Memory, (∀ a, a < pa ∨ pa + n ≤ a → sparseGet 0 mem'.cells a = sparseGet 0 s.mem.cells a) →
    ∀ va len, incoming { s with mem := mem' } ctx va len .store = incoming s ctx va len .store

/-- From `s` to `t` the queue pairs' state and what was sent last may differ, and memory bytes only in `[pa, pa + n)`. -/
def OnlyBytes (s t : State) (pa n : Nat) : Prop :=
  (∀ a, a < pa ∨ pa + n ≤ a → sparseGet 0 t.mem.cells a = sparseGet 0 s.mem.cells a) ∧ t.teams = s.teams ∧ t.remote = s.remote ∧ t.cmds = s.cmds

end Sys2Proof.Claims

/-- 02 R34 to R38; 03 R73 to R81. -/
def Obligations.HostPortResult : Prop :=
  ∀ (s : State) (q key va len : Nat) (x : Qp) (bytes : List (BitVec 8)) (v cmp : BitVec 64) (pm : MemLoc) (l : Leaf),
    let arriving := [(Instr.rdmaWriteReceived q key va bytes, HostOp.write key va bytes), (.rdmaReadReceived q key va len, .read key va len),
      (.rdmaFetchAddReceived q key va v, .fetchAdd key va v), (.rdmaCompareSwapReceived q key va cmp v, .compareSwap key va cmp v), (.rdmaInvalidRequest q, .invalid)]
    let up := s.os.powered = true ∧ s.os.host.up = true
    let refused := fun (i : Instr) (k : Nak) => exec i s = .next ((s.updQp q (fun y => { y with error := true, pending := [] })).sayQp q (.nak q k))
    (∀ i ∈ arriving,
      (¬ up → exec i.1 s = .next s) ∧
      (up → q = 1 → exec i.1 s = .next (({ s with os := { s.os with mgmt := false, inbox := [] } } : State).say (.nak 1 .invalidRequest))) ∧
      (up → q ≠ 1 → s.qp? q = none → exec i.1 s = .next s) ∧
      (up → q ≠ 1 → s.qp? q = some x → x.error = true → exec i.1 s = .next (s.sayQp q (.nak q .remoteAccess))) ∧
      (up → q ≠ 1 → s.qp? q = some x → x.error = false →
        (i.2.fetches = true → 16 ≤ s.fetchesOut x → s.qpOps q = [] → refused i.1 .invalidRequest) ∧
        (x.pending ≠ [] → i.2.fetches = false ∨ s.fetchesOut x < 16 → exec i.1 s = .next (s.updQp q (fun y => { y with pending := y.pending ++ [i.2] }))))) ∧
    (up → q ≠ 1 → s.qp? q = some x → x.error = false → x.pending = [] → s.fetchesOut x < 16 →
      (s.qpOps q = [] →
        refused (.rdmaInvalidRequest q) .invalidRequest ∧
        (2 ^ 31 < bytes.length → refused (.rdmaWriteReceived q key va bytes) .invalidRequest) ∧ (2 ^ 31 < len → refused (.rdmaReadReceived q key va len) .invalidRequest) ∧
        (va % 8 ≠ 0 → refused (.rdmaFetchAddReceived q key va v) .invalidRequest ∧ refused (.rdmaCompareSwapReceived q key va cmp v) .invalidRequest) ∧
        (bytes.length ≤ 2 ^ 31 → key ≠ x.key ∨ 2 ^ 52 ≤ va ∨
          (0 < bytes.length ∧ incoming s x.ctx va (min (256 * 2 ^ x.mtu) bytes.length) .store = none ∧
            ∀ p ∈ x.packets va bytes.length, ∀ ls, incoming s x.ctx p.1 p.2 .store = some ls → incomingOwned s ls = false) →
          refused (.rdmaWriteReceived q key va bytes) .remoteAccess) ∧
        (len ≤ 2 ^ 31 → key ≠ x.key ∨ 2 ^ 52 ≤ va ∨ incoming s x.ctx va len .load = none → refused (.rdmaReadReceived q key va len) .remoteAccess) ∧
        (va % 8 = 0 → key ≠ x.key ∨ incoming s x.ctx va 8 .atomic = none →
          refused (.rdmaFetchAddReceived q key va v) .remoteAccess ∧ refused (.rdmaCompareSwapReceived q key va cmp v) .remoteAccess)) ∧
      (key = x.key → va < 2 ^ 52 → s.mem.wf = true →
        (0 < bytes.length → bytes.length ≤ 65536 → incoming s x.ctx va bytes.length .store = some [(pm, bytes.length, l)] →
          incomingOwned s [(pm, bytes.length, l)] = false → s.sealHit x.ctx va bytes.length = false → s.os.fills = [] →
          bytes.length ≤ 256 * 2 ^ x.mtu ∨ Claims.NoTable s x.ctx pm.pa bytes.length →
          let words := fowWords [(pm, bytes.length, l)]
          ∃ t, exec (.rdmaWriteReceived q key va bytes) s = .next t ∧ Claims.Sends s t q (.ack q) ∧ (∀ i, i < bytes.length → sparseGet 0 t.mem.cells (pm.pa + i) = bytes.getD i 0) ∧
            (words = [] → t.mem.full = s.mem.full ∧ Claims.OnlyBytes s t pm.pa bytes.length) ∧
            (s.collapsesOf (.qp q) = true → t.mem.full = s.mem.full ∧ Claims.OnlyBytes s t pm.pa bytes.length ∧ t.os.fills = words.map (fun m => ⟨q, x.ctx, m⟩)) ∧
            (s.coh.regions = [] → s.coh.probes = [] → s.coh.waiters = [] → (∀ c ∈ s.ctxs, c.graphs = []) → Claims.OnlyBytes s t pm.pa bytes.length ∧
              ∀ w, w ∈ t.mem.full ↔ w ∈ s.mem.full ∨ ∃ y ∈ words, w = wordOf y.pa)) ∧
        (0 < len → len ≤ 65536 → incoming s x.ctx va len .load = some [(pm, len, l)] → incomingOwned s [(pm, len, l)] = false →
          let poisoned := ∃ a, pm.pa ≤ a ∧ a < pm.pa + len ∧ wordOf a ∈ s.mem.poison
          ∃ t, exec (.rdmaReadReceived q key va len) s = .next t ∧ t.mem = s.mem ∧ t.teams = s.teams ∧ t.os.qps = s.os.qps ∧
            (¬ poisoned → Claims.Sends s t q (.readResponse q (sparseBytes s.mem.cells pm.pa len))) ∧
            (poisoned → Claims.Sends s t q (.nak q .remoteOperational) ∧ Claims.OneMore s.life t 4 65)) ∧
        (va % 8 = 0 → incoming s x.ctx va 8 .atomic = some [(pm, 8, l)] → pm.pa % 8 = 0 → s.sealHit x.ctx va 8 = false → incomingOwned s [(pm, 8, l)] = false →
          let old := Claims.valueAt s pm.pa 8
          (wordOf pm.pa ∈ s.mem.poison → exec (.rdmaFetchAddReceived q key va v) s = .next ((s.lifeCount 4 65 1).sayQp q (.nak q .remoteOperational)) ∧
            exec (.rdmaCompareSwapReceived q key va cmp v) s = .next ((s.lifeCount 4 65 1).sayQp q (.nak q .remoteOperational))) ∧
          (wordOf pm.pa ∉ s.mem.poison →
            (∃ t, exec (.rdmaFetchAddReceived q key va v) s = .next t ∧ Claims.Sends s t q (.atomicResponse q (BitVec.ofNat 64 old)) ∧
              ((l.tagged = false ∨ (old + v.toNat) % 2 ^ 64 ≠ 0) → Claims.valueAt t pm.pa 8 = (old + v.toNat) % 2 ^ 64 ∧ t.mem.full = s.mem.full ∧ Claims.OnlyBytes s t pm.pa 8) ∧
              (l.tagged = true → (old + v.toNat) % 2 ^ 64 = 0 → s.os.fills = [] → s.coh.probes = [] → s.coh.waiters = [] → (∀ c ∈ s.ctxs, c.graphs = []) → s.coh.regions = [] →
                Claims.valueAt t pm.pa 8 = 0 ∧ wordOf pm.pa ∈ t.mem.full)) ∧
            (∃ t, exec (.rdmaCompareSwapReceived q key va cmp v) s = .next t ∧ Claims.Sends s t q (.atomicResponse q (BitVec.ofNat 64 old)) ∧
              Claims.valueAt t pm.pa 8 = (if old = cmp.toNat then v.toNat else old) ∧ t.mem.full = s.mem.full ∧ Claims.OnlyBytes s t pm.pa 8))))) ∧
    (s.qp? q = some x → ∃ t, exec (.congestionNotificationReceived q) s = .next t ∧ t.mem = s.mem ∧ (∀ j, j ≠ q → t.qp? j = s.qp? j) ∧
      t.qp? q = some { x with rate := max (x.rate * (65536 - s.os.host.cut) / 65536) (min x.rate s.os.host.minMbps) }) ∧
    exec (.ecnMarkedPacketReceived q) s = .next { s with os := { s.os with out := some (.congestion q) } } ∧
    (Claims.PairsGood s →
      (∀ (p : Nat) (pause : Bool), ∃ t, exec (.pfcPauseFrame p pause) s = .next t ∧ t.mem = s.mem ∧ t.teams = s.teams ∧
        (p ∈ t.os.host.paused ↔ pause = true) ∧ ∀ j, j ≠ p → (j ∈ t.os.host.paused ↔ j ∈ s.os.host.paused)) ∧
      (∀ o : RemoteOp, s.remote.find? (fun y => y.id == o.id) = some o → (∀ y ∈ s.remote, y.id = o.id → y = o) → o.host = true → o.answer = none → o.failed = false →
        s.opQp o = some x → (s.qpOps x.idx).head? = some o → 0 < o.tries →
        (∀ r n part, o.who = .load r n part → o.kind.fetches = true →
          (bytes.length = o.kind.bytes → ∃ t y, exec (.hostRdmaResponse o.id true bytes) s = .next t ∧ t.mem = s.mem ∧ t.teams = s.teams ∧
            y ∈ t.remote ∧ y.id = o.id ∧ y.answer = some bytes ∧ y.who = o.who) ∧
          (∃ t y, exec (.hostRdmaResponse o.id false bytes) s = .next t ∧ t.mem = s.mem ∧ t.teams = s.teams ∧ y ∈ t.remote ∧ y.id = o.id ∧ y.failed = true)) ∧
        (∀ r pc, o.who = .store r pc → o.kind.fetches = false →
          (∃ t, exec (.hostWriteAck o.id true) s = .next t ∧ t.mem = s.mem ∧ t.teams = s.teams ∧ ∀ y ∈ t.remote, y.id ≠ o.id) ∧
          (∀ f, s.fibre? r = some f → ∃ t, exec (.hostWriteAck o.id false) s = .next t ∧ t.mem = s.mem ∧ (∀ y ∈ t.remote, y.id ≠ o.id) ∧
            t.fibre? r = some { f with hostFail := f.hostFail ++ [pc] })) ∧
        (s.qp? q = some x → x.idx = q → x.ackTimeout ≠ 0 → o.since + ackAclk x.ackTimeout ≤ s.aclk →
          (o.tries ≤ x.retry → ∃ t y, exec (.qpAckTimeout q) s = .next t ∧ t.mem = s.mem ∧ t.teams = s.teams ∧ y ∈ t.remote ∧ y = { o with tries := o.tries + 1, since := s.aclk }) ∧
          (∀ r n part, o.who = .load r n part → x.retry < o.tries → ∃ t y, exec (.qpAckTimeout q) s = .next t ∧ t.mem = s.mem ∧ y ∈ t.remote ∧ y.id = o.id ∧ y.failed = true))))

/-! ### Pyryta -/

namespace Sys2Proof.Claims

/-- The device has nothing of its own to form flits of: no peer transaction without a port, no open, close or contribution. -/
def NothingDue (s : State) : Prop :=
  s.opened = [] ∧ s.contribs = [] ∧ ∀ o ∈ s.remote, o.host = true ∨ o.tries ≠ 0 ∨ o.answer.isSome = true ∨ o.failed = true

end Sys2Proof.Claims

/-- 02 R44, R45, R47, R48, R55. -/
def Obligations.LinkResult : Prop :=
  ∀ (s : State) (i : Nat) (p : Port) (f : WireFlit), s.port? i = some p →
    let ends := fun (instr : Instr) (q : Port) => ∃ t, exec instr s = .next t ∧ t.mem = s.mem ∧ t.teams = s.teams ∧ t.port? i = some q ∧ ∀ j, j ≠ i → t.port? j = s.port? j
    (Claims.NothingDue s →
      (p.live = false ∨ p.reach = none → ends (.flitSend i) p) ∧
      (p.live = true → p.reach ≠ none →
        (∀ g, p.resend ≠ 0 → p.buffer[p.buffer.length - p.resend]? = some g → 0 < p.credits.getD g.tc 0 →
          ends (.flitSend i) { p with
            out := ({ g with ack := p.expected } : Flit).bytes, credits := p.credits.set g.tc (p.credits.getD g.tc 0 - 1), unacked := 0, ackAt := s.aclk
            resend := p.resend - 1, state := if p.resend = 1 then .up else .replay }) ∧
        (p.resend = 0 → 512 ≤ p.buffer.length → ends (.flitSend i) p) ∧
        (p.resend = 0 → (∀ g ∈ p.queue, g.tc < 4 → p.credits.getD g.tc 0 = 0) → ends (.flitSend i) p) ∧
        (∀ c g front back, p.resend = 0 → p.buffer.length < 512 → c < 4 → p.queue = front ++ g :: back → g.tc = c → (∀ x ∈ front, x.tc ≠ c) → 0 < p.credits.getD c 0 →
          (∀ x ∈ p.queue, x.tc < c → p.credits.getD x.tc 0 = 0) →
          ends (.flitSend i) { p with
            out := ({ g with seq := p.seq, ack := p.expected } : Flit).bytes, credits := p.credits.set c (p.credits.getD c 0 - 1), unacked := 0, ackAt := s.aclk
            queue := front ++ back, buffer := p.buffer ++ [{ g with seq := p.seq, ack := p.expected }], seq := (p.seq + 1) % 4096
            progress := if p.buffer = [] then s.aclk else p.progress }))) ∧
    (∀ o : RemoteOp, s.opened = [] → s.contribs = [] → s.remote = [o] → o.host = false → o.tries = 0 → o.answer = none → o.failed = false →
      let peer := o.peerTarget
      (∀ r n part, o.who = .load r n part → s.portFor peer.1 (s.classOf o.who) o.ctx = none → p.live = false →
        ∃ t y, exec (.flitSend i) s = .next t ∧ t.mem = s.mem ∧ t.remote = [y] ∧ y = { o with failed := true, status := 255 }) ∧
      (s.portFor peer.1 (s.classOf o.who) o.ctx = some i → p.live = false →
        ∃ t y q, exec (.flitSend i) s = .next t ∧ t.remote = [y] ∧ y.port = some i ∧ y.tries = 1 ∧ y.failed = false ∧ t.port? i = some q ∧
          q.queue = p.queue ++ flitsOf (peerBytes o peer.2.1 peer.2.2).1 (s.classOf o.who) peer.1 s.here o.ctx (peerBytes o peer.2.1 peer.2.2).2 (some o.id))) ∧
    (p.live = false → ends (.badFlitReceived i) p ∧ ends (.idleFlitReceived i f) p ∧ ends (.linkControlFlit i f) p ∧ ends (.ackReturnTimer i) p ∧ ends (.replayTimeout i) p) ∧
    (p.live = true →
      (∃ t q, exec (.badFlitReceived i) s = .next t ∧ t.port? i = some q ∧ q.nakOut = true ∧ q.expected = p.expected ∧ q.queue = p.queue ∧ q.buffer = p.buffer ∧ t.mem = s.mem ∧
        (p.nakOut = true → q.out = p.out) ∧ (p.nakOut = false → ∃ g : Flit, q.out = g.bytes ∧ g.kind = 1 ∧ g.ack = p.expected ∧ (p.expected < 4096 → natOfBytes (g.payload.take 2) = p.expected + 4096))) ∧
      (∀ g rest n, p.buffer = g :: rest → n = (flitAck f + 4096 - g.seq) % 4096 → flitKind f = 0 →
        (n = 0 ∨ p.buffer.length < n → ends (.idleFlitReceived i f) p) ∧
        (0 < n → n ≤ p.buffer.length → p.resend = 0 → p.state = .up →
          ends (.idleFlitReceived i f) { p with buffer := p.buffer.drop n, replays := 0, progress := s.aclk })) ∧
      (flitKind f = 1 →
        let b := flitNum f
        (bitsOf b 13 3 ≠ 0 ∨ b / 2 ^ 48 ≠ 0 ∨ (∃ c, c < 4 ∧ 32 < creditDiff p b c) →
          exec (.linkControlFlit i f) s = .next { s with linkDiscard := min (s.linkDiscard + 1) (2 ^ 48 - 1) }) ∧
        (bitsOf b 13 3 = 0 → b / 2 ^ 48 = 0 → (∀ c, c < 4 → creditDiff p b c ≤ 32) →
          let q := { p with
            credits := (List.range 4).map (fun c => p.credits.getD c 0 + creditDiff p b c)
            credited := (List.range 4).map (fun c => bitsOf b (16 + 8 * c) 8) }
          (bitsOf b 12 1 = 0 → p.buffer = [] → ends (.linkControlFlit i f) q) ∧
          (bitsOf b 12 1 = 1 → p.buffer = [] → p.replays + 1 < 8 → ends (.linkControlFlit i f) { q with state := .up, resend := 0, replays := p.replays + 1 }) ∧
          (∀ g rest k, bitsOf b 12 1 = 1 → p.buffer = g :: rest → flitAck f = g.seq → g.seq < 4096 → k = (bitsOf b 0 12 + 4096 - g.seq) % 4096 → k ≤ p.buffer.length →
            p.replays + 1 < 8 → ends (.linkControlFlit i f) { q with
              resend := p.buffer.length - k, state := if p.buffer.length - k = 0 then .up else .replay, replays := p.replays + 1 }))) ∧
      ((p.unacked < 64 → s.aclk < p.ackAt + 360 → ends (.ackReturnTimer i) p) ∧
       (64 ≤ p.unacked ∨ p.ackAt + 360 ≤ s.aclk → ∃ g : Flit, g.kind = 1 ∧ g.ack = p.expected ∧
         ends (.ackReturnTimer i) { p with out := g.bytes, unacked := 0, ackAt := s.aclk })) ∧
      ((p.buffer = [] ∨ s.aclk < p.progress + 7200 → ends (.replayTimeout i) p) ∧
       (p.buffer ≠ [] → p.progress + 7200 ≤ s.aclk →
         (p.replays + 1 < 8 → ends (.replayTimeout i) { p with state := .replay, resend := p.buffer.length, replays := p.replays + 1, progress := s.aclk }) ∧
         (p.replays + 1 = 8 → ends (.replayTimeout i) { p with state := .retrain, resend := 0, replays := 0, progress := s.aclk })))) ∧
    (∀ ok, p.state ≠ .retrain → exec (.linkRetrainDone i ok) s = .next s) ∧
    (p.state = .retrain →
      ends (.linkRetrainDone i true) { p with
        state := (if p.buffer.isEmpty then .up else .replay), resend := p.buffer.length, replays := 0, fails := 0, credits := [32, 32, 32, 32]
        credited := [0, 0, 0, 0], freed := [0, 0, 0, 0], progress := s.aclk, ackAt := s.aclk } ∧
      (p.fails + 1 < 3 → ends (.linkRetrainDone i false) { p with fails := p.fails + 1 }) ∧
      (2 ≤ p.fails → s.remote = [] → (p.queue = [] → ends (.linkRetrainDone i false) { p with state := .down, fails := 0, replays := 0 }) ∧
        ∃ t e q, exec (.linkRetrainDone i false) s = .next t ∧ t.events.getLast? = some e ∧ e.code = 4 ∧ t.port? i = some q ∧ q.state = .down ∧
          q.queue = [] ∧ q.buffer = p.buffer ∧ q.seq = p.seq) ∧
      ∀ ok, ∃ t, exec (.linkRetrainDone i ok) s = .next t ∧ (s.remote = [] → Claims.OneMore s.life t 5 (1 + i)))

namespace Sys2Proof.Claims

/-- Flit `f` of a kind, alone in its transaction, is the next good one of live port `i` and is addressed to this device (02 R43, Table 2.5). -/
structure Arrives (s : State) (i : Nat) (p : Port) (f : WireFlit) (kind : Nat) : Prop where
  port : s.port? i = some p
  live : p.live = true
  kind : flitKind f = kind
  next : flitSeq f = p.expected
  range : p.expected < 4096
  here : s.gridAxes ≠ 0 ∧ flitDst f = s.here
  whole : flitFirst f = true ∧ flitLast f = true
  alone : p.parts = []

/-- `s` after its port has taken the flit: the flit is counted and acknowledged, nothing waits for the rest of a transaction. -/
def tookFlit (s : State) (i : Nat) (f : WireFlit) : State :=
  s.updPort i (fun q => { (q.acked (flitAck f) s.aclk).received f s.aclk with parts := [] })

end Sys2Proof.Claims

/-- 02 R42 to R44; 03 R74, R75; 04 R95. -/
def Obligations.PeerResult : Prop :=
  ∀ (s : State) (i : Nat) (p : Port) (f : WireFlit) (pm : MemLoc) (l : Leaf),
    let kinds := [(Instr.peerReadRequest i f, 2), (.peerReadResponse i f, 3), (.peerWriteRequest i f, 4), (.peerWriteAck i f, 5), (.peerAtomicRequest i f, 6),
      (.peerAtomicResponse i f, 7), (.reductionContribution i f, 8), (.topKContribution i f, 9), (.contributionAck i f, 10), (.collectiveOpen i f, 11),
      (.collectiveResult i f, 11), (.collectiveClose i f, 11), (.collectiveOpenAck i f, 11), (.collectiveCloseAck i f, 11)]
    (∀ k ∈ kinds, s.port? i = some p →
      (p.live = false → exec k.1 s = .next s) ∧
      (p.live = true → flitKind f = k.2 → p.expected < 4096 → flitSeq f ≠ p.expected → ∃ t q, exec k.1 s = .next t ∧ t.mem = s.mem ∧ t.remote = s.remote ∧
        t.linkDiscard = s.linkDiscard ∧ t.port? i = some q ∧ q.expected = p.expected ∧ q.parts = p.parts) ∧
      (p.live = true → flitKind f = k.2 → p.expected < 4096 → flitSeq f = p.expected → s.gridAxes = 0 ∨ flitDst f ≠ s.here →
        ∃ t q, exec k.1 s = .next t ∧ t.mem = s.mem ∧ t.remote = s.remote ∧ t.linkDiscard = min (s.linkDiscard + 1) (2 ^ 48 - 1) ∧
          t.port? i = some q ∧ q.expected = (p.expected + 1) % 4096 ∧ q.nakOut = false)) ∧
    (let b := natOfBytes (f.payload.take 16)
     let n := descLen b
     let t := Claims.tookFlit s i f
     let granted := ∃ c, s.ctx? (descCtx b) = some c ∧ c.peer = true
     let first := flitNum f
     let held := ∃ w ∈ s.peerWaits, w.before f f.payload = true
     let waits := fun (k : Instr) (kind : Nat) => exec k s = .next { t with peerWaits := s.peerWaits ++ [⟨kind, f, f.payload⟩] }
     (held →
       (Claims.Arrives s i p f 2 → requestOk false first = true → waits (.peerReadRequest i f) 2) ∧
       (Claims.Arrives s i p f 4 → requestOk false first = true → waits (.peerWriteRequest i f) 4) ∧
       (Claims.Arrives s i p f 6 → requestOk true first = true → waits (.peerAtomicRequest i f) 6)) ∧
     (∀ kind status data j q, t.portFor (flitSrc f) (flitTc f) (descCtx b) = some j → t.port? j = some q → ∃ x, (t.answerPeer kind f b status data).port? j = some x ∧
       x.queue = q.queue ++ flitsOf kind (flitTc f) (flitSrc f) t.here (descCtx b) (descriptor (descTag b) (descCtx b) (if kind = 7 then descOp b else 0) (n - 1) status (descVa b) ++ data) none) ∧
     (Claims.Arrives s i p f 2 → requestOk false first = true → ¬ held →
       (¬ granted → exec (.peerReadRequest i f) s = .next (t.answerPeer 3 f b 2 [])) ∧
       (granted → incoming t (descCtx b) (descVa b) n .load = none →
         (leafFor t (descCtx b) 8 (descVa b) = .invalid → exec (.peerReadRequest i f) s = .next (t.answerPeer 3 f b 5 [])) ∧
         ((∀ k ∈ pageParts 0 (descVa b) n, leafFor t (descCtx b) 8 k.1 ≠ .invalid) → exec (.peerReadRequest i f) s = .next (t.answerPeer 3 f b 1 []))) ∧
       (granted → incoming t (descCtx b) (descVa b) n .load = some [(pm, n, l)] →
         (incomingOwned t [(pm, n, l)] = true → waits (.peerReadRequest i f) 2) ∧
         (incomingOwned t [(pm, n, l)] = false →
           ((∀ a, pm.pa ≤ a → a < pm.pa + n → wordOf a ∉ s.mem.poison) → ∃ u : State, exec (.peerReadRequest i f) s = .next (u.answerPeer 3 f b 0 (sparseBytes s.mem.cells pm.pa n)) ∧
             u.mem = s.mem ∧ u.ports = t.ports ∧ u.teams = s.teams) ∧
           ((∃ a, pm.pa ≤ a ∧ a < pm.pa + n ∧ wordOf a ∈ s.mem.poison) → ∃ u : State, exec (.peerReadRequest i f) s = .next (u.answerPeer 3 f b 3 []) ∧
             u.mem = s.mem ∧ u.ports = t.ports ∧ Claims.OneMore s.life u 4 65)))) ∧
     (Claims.Arrives s i p f 4 → requestOk false first = true → ¬ held → n ≤ 208 → n + 16 ≤ f.payload.length →
       let data := (f.payload.drop 16).take n
       (¬ granted → exec (.peerWriteRequest i f) s = .next (t.answerPeer 5 f b 2 [])) ∧
       (granted → incoming t (descCtx b) (descVa b) n .store = some [(pm, n, l)] → incomingOwned t [(pm, n, l)] = true →
         gatherInput t (descCtx b) (descVa b) n (flitSrc f) = none → waits (.peerWriteRequest i f) 4) ∧
       (granted → incoming t (descCtx b) (descVa b) n .store = some [(pm, n, l)] → incomingOwned t [(pm, n, l)] = false →
         (s.sealHit (descCtx b) (descVa b) n = true → gatherInput t (descCtx b) (descVa b) n (flitSrc f) = none → exec (.peerWriteRequest i f) s = .next (t.answerPeer 5 f b 2 [])) ∧
         (s.sealHit (descCtx b) (descVa b) n = false → s.mem.wf = true → ∃ u : State, exec (.peerWriteRequest i f) s = .next (u.answerPeer 5 f b 0 []) ∧ u.ports = t.ports ∧
           u.mem.full = s.mem.full ∧ (∀ k, k < n → sparseGet 0 u.mem.cells (pm.pa + k) = data.getD k 0) ∧ Claims.OnlyBytes s u pm.pa n))) ∧
     (Claims.Arrives s i p f 6 → requestOk true first = true → ¬ held →
       let v := natOfBytes ((f.payload.drop 16).take 8)
       let cmp := natOfBytes ((f.payload.drop 24).take 8)
       (¬ granted → exec (.peerAtomicRequest i f) s = .next (t.answerPeer 7 f b 2 [])) ∧
       (granted → descVa b % 8 ≠ 0 → exec (.peerAtomicRequest i f) s = .next (t.answerPeer 7 f b 4 [])) ∧
       (granted → descVa b % 8 = 0 → incoming t (descCtx b) (descVa b) 8 .atomic = some [(pm, 8, l)] → pm.pa % 8 = 0 → incomingOwned t [(pm, 8, l)] = false →
         (s.sealHit (descCtx b) (descVa b) 8 = true → exec (.peerAtomicRequest i f) s = .next (t.answerPeer 7 f b 2 [])) ∧
         (s.sealHit (descCtx b) (descVa b) 8 = false → wordOf pm.pa ∈ s.mem.poison → exec (.peerAtomicRequest i f) s = .next ((t.lifeCount 4 65 1).answerPeer 7 f b 3 [])) ∧
         (s.sealHit (descCtx b) (descVa b) 8 = false → wordOf pm.pa ∉ s.mem.poison → s.mem.wf = true →
           let old := Claims.valueAt s pm.pa 8
           ∃ u : State, exec (.peerAtomicRequest i f) s = .next (u.answerPeer 7 f b 0 (bytesOfNat 8 old)) ∧ u.ports = t.ports ∧ u.mem.full = s.mem.full ∧ Claims.OnlyBytes s u pm.pa 8 ∧
             (descOp b = 0 → Claims.valueAt u pm.pa 8 = (old + v) % 2 ^ 64) ∧ (descOp b = 0xFF → Claims.valueAt u pm.pa 8 = if old = cmp then v else old)))) ∧
     (∀ o : RemoteOp, (∀ y ∈ s.remote, y.id = o.id → y = o) → o ∈ s.remote → o.host = false → answerOk first = true →
       let named := fun (g : RemoteKind → Bool) => t.peerOp (descTag b) (flitSrc f) g = some o
       let ends := fun (k : Instr) (data : List Byte) =>
         (∀ r m part, o.who = .load r m part →
           (descStatus b = 0 → ∃ (u : State) (y : RemoteOp), exec k s = .next u ∧ u.mem = s.mem ∧ u.teams = s.teams ∧ y ∈ u.remote ∧ y = { o with answer := some data }) ∧
           (descStatus b ≠ 0 → ∃ (u : State) (y : RemoteOp), exec k s = .next u ∧ u.mem = s.mem ∧ u.teams = s.teams ∧ y ∈ u.remote ∧ y = { o with failed := true, status := descStatus b }))
       (∀ m, o.kind = .read m → Claims.Arrives s i p f 3 → named (fun k => match k with | .read _ => true | _ => false) → ends (.peerReadResponse i f) ((f.payload.drop 16).take m)) ∧
       (∀ g v cmp, o.kind = .atomic g v cmp → Claims.Arrives s i p f 7 → named (fun k => match k with | .atomic _ _ _ => true | _ => false) → ends (.peerAtomicResponse i f) ((f.payload.drop 16).take 8)) ∧
       (∀ bs r pc, o.kind = .write bs → o.who = .store r pc → descStatus b = 0 → Claims.Arrives s i p f 5 → named (fun k => match k with | .write _ => true | _ => false) →
         ∃ u : State, exec (.peerWriteAck i f) s = .next u ∧ u.mem = s.mem ∧ u.teams = s.teams ∧ ∀ y ∈ u.remote, y.id ≠ o.id)))

/-! ### Collectives -/

namespace Sys2Proof.Claims

/-- The contribution descriptor and elements of a whole transaction (02 Table 2.9). -/
def contribOf (f : WireFlit) : ContribDesc := contribDesc (natOfBytes (f.payload.take 32))
def contribElems (f : WireFlit) : List Nat := elemsOf (contribOf f).fmt (contribOf f).count (f.payload.drop 32)

/-- The descriptor names an open contributor of `c` and fits the collective's open record and its chunk (02 R50). -/
structure Fits (s : State) (f : WireFlit) (d : ContribDesc) (c : Coll) (topK : Bool) : Prop where
  coll : s.coll? d.coll = some c
  opener : ∃ x ∈ c.dests, x.contrib = d.contrib
  whole : d.count * elemBytes d.fmt ≤ (f.payload.drop 32).length
  fields : d.status = 0 ∧ d.ncontrib = c.ncontrib ∧ d.op = c.op ∧ d.fmt = c.fmt ∧ (topK = true ↔ c.op = 3) ∧ (c.op = 3 → d.k = c.k)
  range : d.count ≠ 0 ∧ d.offset + d.count ≤ c.count ∧ d.count * elemBytes d.fmt ≤ 4096
  small : ∀ n, c.n = some n → n < 2 ^ 32
  chunk : ∀ k ∈ c.chunks, k.round = d.round → k.offset = d.offset → k.count = d.count

/-- What a chunk of the reducer holds so far of the contributions to it. -/
def partsSoFar (c : Coll) (d : ContribDesc) : List (Nat × List Nat) :=
  match c.chunks.find? (fun k => k.round == d.round && k.offset == d.offset) with
  | some k => k.parts
  | none => []

end Sys2Proof.Claims

/-- 02 R49 to R53, R56, R57. -/
def Obligations.ReducerResult : Prop :=
  (∀ (c : Coll) (parts : List (List Nat)) (count : Nat),
    (c.op = 0 → c.fmt = 2 → parts ≠ [] → (∀ p ∈ parts, ∀ v ∈ p, v < 2 ^ 32) →
      (combineParts c parts count).length = count ∧ ∀ i, i < count → (combineParts c parts count).getD i 0 = (parts.map (fun p => p.getD i 0)).sum % 2 ^ 32) ∧
    (c.op = 3 → (combineParts c parts count).length = c.k ∧
      ∀ v ∈ combineParts c parts count, v = pairCode noPair ∨ ∃ p ∈ parts, ∃ w ∈ p, v = pairCode (pairOf w))) ∧
  ∀ (s : State) (i : Nat) (p : Port) (f : WireFlit),
    let t := Claims.tookFlit s i f
    let d := Claims.contribOf f
    let vs := Claims.contribElems f
    (∀ r ∈ [(Instr.reductionContribution i f, 8, false), (.topKContribution i f, 9, true)], Claims.Arrives s i p f r.2.1 → contribDescOk (flitNum f) = true →
      (r.2.2 = true → reservedBits d vs = true → exec r.1 s = .next { t with linkDiscard := min (t.linkDiscard + 1) (2 ^ 48 - 1) }) ∧
      (r.2.2 = false ∨ reservedBits d vs = false →
      let acked := fun (u : State) (st : Nat) => exec r.1 s = .next (u.enqueueD 10 (flitTc f) (flitSrc f) 0 ({ d with status := st } : ContribDesc).bytes)
      (s.coll? d.coll = none → acked t 3) ∧
      (∀ c, s.coll? d.coll = some c → (∀ x ∈ c.dests, x.contrib ≠ d.contrib) → acked t 3) ∧
      (∀ c, s.coll? d.coll = some c → (∃ x ∈ c.dests, x.contrib = d.contrib) →
        (d.status ≠ 0 ∨ d.ncontrib ≠ c.ncontrib ∨ d.op ≠ c.op ∨ d.fmt ≠ c.fmt ∨ (r.2.2 = true ∧ c.op ≠ 3) ∨ (r.2.2 = false ∧ c.op = 3) ∨ (c.op = 3 ∧ d.k ≠ c.k) ∨
          d.count = 0 ∨ c.count < d.offset + d.count ∨ 4096 < d.count * elemBytes d.fmt) → acked (t.updColl c.id (fun c => { c with last := s.aclk })) 4) ∧
      (∀ c, Claims.Fits s f d c r.2.2 →
        let u := t.updColl c.id (fun c => { c with last := s.aclk })
        let after := roundAfter (c.n.getD d.round) d.round
        let parts := Claims.partsSoFar c d
        let now := insertPart (d.contrib, vs) parts
        (2 ^ 31 ≤ after → after < 2 ^ 32 - 1 → acked u 6) ∧ (1 < after → after < 2 ^ 31 → acked u 2) ∧
        (after ≤ 1 → (∃ q ∈ parts, q.1 = d.contrib) → acked u 1) ∧
        (after ≤ 1 → (∀ k ∈ c.chunks, ¬ (k.round = d.round ∧ k.offset = d.offset)) → s.freeBit 40 = true → acked u 5) ∧
        (after ≤ 1 → (∀ q ∈ parts, q.1 ≠ d.contrib) → ((∃ k ∈ c.chunks, k.round = d.round ∧ k.offset = d.offset) ∨ s.freeBit 40 = false) →
          (now.length < c.ncontrib → ∃ w c', acked w 0 ∧ w.mem = s.mem ∧ w.coll? d.coll = some c' ∧ c'.n = c.n.or (some d.round) ∧
            ⟨d.round, d.offset, d.count, now, none⟩ ∈ c'.chunks) ∧
          (c.ncontrib ≤ now.length → (∀ k ∈ c.chunks, k.result = none) → d.count < c.count ∨ after = 0 →
            let res := combineParts c (now.map (fun q => q.2)) d.count
            ((∀ x ∈ c.dests, x.count = 0) → ∃ w c', acked w 0 ∧ w.mem = s.mem ∧ w.coll? d.coll = some c' ∧ ⟨d.round, d.offset, d.count, now, some res⟩ ∈ c'.chunks ∧
              (d.count < c.count → c'.n = c.n.or (some d.round)) ∧ (d.count = c.count → c'.n = some ((d.round + 1) % 2 ^ 32))) ∧
            (∀ x j q, c.op ≠ 3 → c.dests = [x] → x.coord ≠ s.here → x.off ≤ d.offset → d.offset + d.count ≤ x.off + x.count →
              t.portFor x.coord c.tc x.ctx = some j → t.port? j = some q → ∃ w y, exec r.1 s = .next w ∧ w.port? j = some y ∧
                ∀ g ∈ flitsOf 11 c.tc x.coord s.here x.ctx (controlWord 2 0 c.id 0 ++
                  (⟨c.id, d.round, 0, c.ncontrib, c.op, c.fmt, 0, d.offset, d.count, c.k⟩ : ContribDesc).bytes ++ elemsBytes c.fmt res) none, g ∈ y.queue)))))) ∧
    (Claims.Arrives s i p f 11 → controlOk (flitNum f) = true →
      let b := natOfBytes f.payload
      let r := natOfBytes ((f.payload.drop 8).take 64)
      let coll := wordColl b
      let contrib := wordContrib b
      let answered := fun (instr : Instr) (cc st : Nat) (u : State) => exec instr s = .next (u.enqueueD 11 (flitTc f) (flitSrc f) 0 (controlWord cc st coll contrib))
      let new := collOf coll r s.aclk
      (wordCc b = 0 →
        (recordOk contrib r = false → exec (.collectiveOpen i f) s = .next t) ∧
        (recordOk contrib r = true →
          (s.coll? coll = none → (s.freeBit 41 = true → answered (.collectiveOpen i f) 1 2 t) ∧
            (s.freeBit 41 = false → answered (.collectiveOpen i f) 1 0 { t with colls := t.colls ++ [{ new with dests := [destOf contrib r] }] })) ∧
          (∀ c, s.coll? coll = some c →
            let same := c.ncontrib = new.ncontrib ∧ c.op = new.op ∧ c.fmt = new.fmt ∧ c.tc = new.tc ∧ c.count = new.count ∧ c.k = new.k
            (¬ same → ∃ u, answered (.collectiveOpen i f) 1 1 u ∧ u.coll? coll = some { c with last := s.aclk }) ∧
            (same → ∃ u c', answered (.collectiveOpen i f) 1 0 u ∧ u.coll? coll = some c' ∧ destOf contrib r ∈ c'.dests ∧ contrib ∉ c'.closed ∧ c'.chunks = c.chunks ∧ c'.n = c.n)))) ∧
      (wordCc b = 3 →
        (s.coll? coll = none → answered (.collectiveClose i f) 4 3 t) ∧
        (∀ c, s.coll? coll = some c →
          ((∀ x ∈ c.dests, x.contrib = contrib ∨ x.contrib ∈ c.closed) → ∃ u, answered (.collectiveClose i f) 4 0 u ∧ u.coll? coll = none) ∧
          ((∃ x ∈ c.dests, x.contrib ≠ contrib ∧ x.contrib ∉ c.closed) → ∃ u c', answered (.collectiveClose i f) 4 0 u ∧ u.coll? coll = some c' ∧ contrib ∈ c'.closed ∧ c'.dests = c.dests)))) ∧
    (∀ c front back, s.colls = front ++ c :: back → fclkOf c.last + 2400000000 ≤ fclkOf s.aclk → (∀ x ∈ front, fclkOf s.aclk < fclkOf x.last + 2400000000) →
      exec .collectiveIdleTimeout s = .next { s with colls := s.colls.filter (fun x => x.id != c.id) })

/-- 02 R51, R53, R57. -/
def Obligations.ContributorResult : Prop :=
  ∀ (s : State) (i : Nat) (p : Port) (f : WireFlit),
    let t := Claims.tookFlit s i f
    let d := Claims.contribOf f
    let b := natOfBytes f.payload
    (∀ c front back, Claims.Arrives s i p f 10 → contribDescOk (flitNum f) = true → s.convs = [] → s.contribs = front ++ c :: back →
      let hit := fun (x : Contribution) => x.coll = d.coll ∧ x.round = d.round ∧ x.contrib = d.contrib ∧ x.offset = d.offset ∧ x.inFlight = true
      hit c → (∀ x ∈ front, ¬ hit x) → c ∉ back →
      (d.status ≠ 2 → d.status ≠ 5 → exec (.contributionAck i f) s = .next { t with contribs := front ++ back }) ∧
      (d.status = 2 ∨ d.status = 5 → exec (.contributionAck i f) s = .next { t with contribs := front ++ { c with inFlight := false, since := s.aclk + 3600, sends := 0 } :: back })) ∧
    (Claims.Arrives s i p f 11 → controlOk (flitNum f) = true →
      (∀ o front back, s.convs = [] → s.opened = front ++ o :: back → o ∉ back → o.coll = wordColl b → o.contrib = wordContrib b →
        (wordCc b = 1 → o.closing = false → o.acked = false → (∀ x ∈ front, x.coll = o.coll → x.contrib = o.contrib → x.closing = true ∨ x.acked = true) →
          (wordStatus b = 0 → exec (.collectiveOpenAck i f) s = .next { t with opened := front ++ { o with acked := true, inFlight := false, sends := 0 } :: back }) ∧
          (wordStatus b = 2 → exec (.collectiveOpenAck i f) s = .next { t with opened := front ++ { o with inFlight := false, since := s.aclk + 3600, sends := 0 } :: back }) ∧
          (wordStatus b ≠ 0 → wordStatus b ≠ 2 → exec (.collectiveOpenAck i f) s = .next { t with opened := front ++ back })) ∧
        (wordCc b = 4 → o.closing = true → ∃ u, exec (.collectiveCloseAck i f) s = .next u ∧ u.mem = s.mem ∧ o ∉ u.opened ∧ ∀ x, x.coll ≠ o.coll → (x ∈ u.opened ↔ x ∈ s.opened))) ∧
      (wordCc b = 2 →
        let r := contribDesc (natOfBytes ((f.payload.drop 8).take 32))
        r.count * elemBytes r.fmt ≤ (f.payload.drop 40).length →
        let vs := elemsOf r.fmt r.count (f.payload.drop 40)
        (reservedBits r vs = true → exec (.collectiveResult i f) s = .next { t with linkDiscard := min (t.linkDiscard + 1) (2 ^ 48 - 1) }) ∧
        (reservedBits r vs = false → (∀ o ∈ s.opened, o.coll ≠ r.coll) → exec (.collectiveResult i f) s = .next t) ∧
        (∀ o c, reservedBits r vs = false → s.opened = [o] → o.coll = r.coll → s.convs = [c] → c.ctx = o.ctx → c.tid = o.tid →
          let e := s.entryOf o.ctx o.tid
          e.stepKind c.demand c.axis = .reduce → axKind (e.axis c.axis) = 2 → c.sent = true → (e.generation + 1) % 2 ^ 32 = r.round →
          (∀ y ∈ c.inputs, y.axis ≠ c.axis) →
          ∃ u y, exec (.collectiveResult i f) s = .next u ∧ u.mem = s.mem ∧ u.convs = [{ c with inputs := c.inputs ++ [y], parts := c.parts ++ [r.round] }] ∧ y.axis = c.axis ∧ y.coord = 0 ∧
            ∀ k, k < r.count → ∀ z, z < elemBytes r.fmt →
              (bitsOf (natOfBytes o.record) 192 52 + (r.offset + k - bitsOf (natOfBytes o.record) 256 32) * elemBytes r.fmt + z,
                (bytesOfNat (elemBytes r.fmt) (vs.getD k 0)).getD z 0) ∈ y.cells))) ∧
    (∀ (o : Opened) (c : Contribution), s.opened = [o] → o.acked = true → o.closing = false → o.coll = c.coll → s.contribs = [c] → c.inFlight = false → c.dst ≠ s.here →
      (s.aclk < c.since → exec .contributionRetryTimer s = .next s) ∧
      (c.since ≤ s.aclk → ∃ u, exec .contributionRetryTimer s = .next u ∧ u.mem = s.mem ∧ u.contribs = [{ c with inFlight := true, since := s.aclk, sends := c.sends + 1 }] ∧
        ∀ j q, s.portFor c.dst o.tc c.ctx = some j → s.port? j = some q → ∃ y, u.port? j = some y ∧ y.queue = q.queue ++ flitsOf 8 o.tc c.dst s.here c.ctx
          ((⟨c.coll, c.round, c.contrib, c.ncontrib, c.op, c.fmt, 0, c.offset, c.elems.length, 0⟩ : ContribDesc).bytes ++ elemsBytes c.fmt c.elems) none)) ∧
    (∀ (o : Opened) (c : Contribution), s.opened = [o] → s.convs = [] →
      (s.contribs = [c] → c.inFlight = true → c.since + 72000 ≤ s.aclk →
        (8 ≤ c.sends → exec .contributionAckTimeout s = .next { s with contribs := [] }) ∧
        (c.sends < 8 → o.acked = true → o.closing = false → o.coll = c.coll → c.dst ≠ s.here → ∃ u, exec .contributionAckTimeout s = .next u ∧ u.mem = s.mem ∧
          u.contribs = [{ c with inFlight := true, since := s.aclk, sends := c.sends + 1 }])) ∧
      (s.contribs = [] → o.inFlight = true → o.since + 72000 ≤ s.aclk →
        (8 ≤ o.sends → exec .contributionAckTimeout s = .next { s with opened := [] }) ∧
        (o.sends < 8 → o.acked = false ∨ o.closing = true → o.dst ≠ s.here → ∃ u, exec .contributionAckTimeout s = .next u ∧ u.mem = s.mem ∧
          u.opened = [{ o with inFlight := true, since := s.aclk, sends := o.sends + 1 }])) ∧
      (s.contribs = [] → o.inFlight = false → exec .contributionAckTimeout s = .next s))

/-! ### The scheduler -/

namespace Sys2Proof.Claims

/-- The dependence words of the JOB nodes among some nodes of a graph of context `ctx` are all watched in `t` (05 R455). -/
def WordsWatched (t : State) (ctx : Nat) (g : Graph) (nodes : List Nat) : Prop :=
  ∀ n ∈ nodes, ∀ k rel hops deps, (g.node n).kind = .job k rel hops deps → ∀ a ∈ deps, (t.watched ctx a).isSome = true

/-- From `s` to `t` node `node` of instance `x` has completed: unless a JOB node that follows has lost a word, the successors are reached, the node is not, unless it follows itself; an instance with nothing reached is gone (05 R120, R121). -/
def NodePassed (s t : State) (x : Inst) (g : Graph) (node : Nat) (succs : List Nat) : Prop :=
  WordsWatched t x.ctx g succs →
  (∀ n ∈ succs, ∃ y ∈ t.insts, y.id = x.id ∧ ∃ q ∈ y.runs, q.node = n) ∧
  (∀ y ∈ t.insts, y.id = x.id → y.runs ≠ [] ∧ ∀ q ∈ y.runs, q.node = node → node ∈ succs) ∧
  (succs = [] → (∀ q ∈ x.runs, q.node = node) → ∀ y ∈ t.insts, y.id ≠ x.id) ∧ t.teams.length = s.teams.length

/-- A counter of a context has risen by `n` (14 R287). -/
def Counted (s t : State) (ctx entry n : Nat) : Prop :=
  ∀ c, s.ctx? ctx = some c → ∃ y, t.ctx? ctx = some y ∧ sparseGet 0 y.counters entry = min (sparseGet 0 c.counters entry + n) (2 ^ 64 - 1)

/-- A team but for the share of its core's bins, which changes with the teams there (06 R130). -/
def sansBins (y : Team) : Team := { y with binQuota := 0 }

/-- The waiting slices of contexts that are not held, in the dispatch order (05 R105). -/
def dispatchOrder (s : State) : List Team :=
  (s.candidates.filter (fun t => (s.ctx? t.ctx).any (fun c => !c.held))).foldl (fun a t => insertTeam t a) []

end Sys2Proof.Claims

/-- 05 R105 to R121; 06 R126 to R128, R140. -/
def Obligations.SchedulerResult : Prop :=
  ∀ (s : State) (x : Inst) (g : Graph) (r : NodeRun) (node : Nat),
    (x ∈ s.insts → (∀ y ∈ s.insts, y.id = x.id → y = x) → s.graphOf x = some g → x.runs.find? (fun q => q.node == node) = some r →
      let n := g.node node
      let ready := fun (t : State) (left : Nat) => ∃ y ∈ t.insts, y.id = x.id ∧ ∃ q ∈ y.runs, q.node = node ∧ q.ready = true ∧ q.readyAt = s.now ∧ q.left = left
      let step := Instr.jobReady x.id node
      (∀ k rel hops deps, n.kind = .job k rel hops deps → r.ready = false →
        ((∀ i, i < deps.length → r.latched.getD i false = true) → ∃ t, exec step s = .next t ∧ t.mem = s.mem ∧ t.teams = s.teams ∧ ready t k.teams) ∧
        ((∃ i, i < deps.length ∧ r.latched.getD i false = false) → exec step s = .next s)) ∧
      (∀ word, n.kind = .cond word →
        (∀ v, s.condWord x.ctx word = .ok v → ∃ t, exec step s = .next t ∧ t.mem = s.mem ∧
          Claims.NodePassed s t x g node (if n.succs = [] then [] else [n.succs.getD (min v (n.succs.length - 1)) 0])) ∧
        (∀ c, s.condWord x.ctx word = .error c → ∃ t, exec step s = .next t ∧ ∀ y ∈ t.insts, y.id ≠ x.id)) ∧
      (∀ guard word, n.kind = .while_ guard word →
        let body := (n.succ.getD 0 0xFFFF)
        let out := (n.succ.getD 1 0xFFFF)
        let reach := fun (a : Nat) => if a = 0xFFFF then [] else [a]
        let c := sparseGet 0 x.counts node
        (∀ v, s.condWord x.ctx word = .ok v →
          (v ≠ 0 → c < guard → ∃ t, exec step s = .next t ∧ t.mem = s.mem ∧ Claims.NodePassed s t x g node (reach body) ∧
            (body ≠ node → ∀ y ∈ t.insts, y.id = x.id → sparseGet 0 y.counts node = c + 1)) ∧
          (v = 0 ∨ guard ≤ c → ∃ t, exec step s = .next t ∧ t.mem = s.mem ∧ Claims.NodePassed s t x g node (reach out) ∧ (v ≠ 0 → Claims.Counted s t x.ctx 0x26 1))) ∧
        (∀ c, s.condWord x.ctx word = .error c → ∃ t, exec step s = .next t ∧ ∀ y ∈ t.insts, y.id ≠ x.id)) ∧
      (∀ count, n.kind = .join count →
        (sparseGet 0 x.counts node < count → exec step s = .next s) ∧
        (sparseGet 0 x.counts node = count → ∃ t, exec step s = .next t ∧ t.mem = s.mem ∧ Claims.NodePassed s t x g node n.succs) ∧
        (count < sparseGet 0 x.counts node → ∃ t, exec step s = .next t ∧ t.mem = s.mem ∧ (Claims.WordsWatched t x.ctx g n.succs →
          ∀ k, k ∈ node :: n.succs → ∃ y ∈ t.insts, y.id = x.id ∧ ∃ q ∈ y.runs, q.node = k))) ∧
      (∀ down word v l m, n.kind = .signal down word v → translate s x.ctx 8 0 word (if down then .atomic else .store) false = .ok l → l.loc word = .mem m →
        (l.tagged = false → ∃ t, exec step s = .next t ∧ ∀ y ∈ t.insts, y.id ≠ x.id) ∧
        (l.tagged = true → s.hostWritesDone x.ctx = false → exec step s = .next s) ∧
        (l.tagged = true → s.hostWritesDone x.ctx = true → s.mem.wf = true → m.pa % 8 = 0 → wordOf m.pa ∉ s.mem.poison → ∃ t, exec step s = .next t ∧ Claims.NodePassed s t x g node n.succs ∧
          Claims.valueAt t m.pa 8 = if down then (Claims.valueAt s m.pa 8 + 2 ^ 64 - v.toNat) % 2 ^ 64 else v.toNat)) ∧
      (∀ tid mask, n.kind = .seal tid mask → r.ready = false →
        (∀ e, s.validEntry x.ctx 0 tid = .error e → ∃ t, exec step s = .next t ∧ ∀ y ∈ t.insts, y.id ≠ x.id) ∧
        (∀ m e, s.validEntry x.ctx 0 tid = .ok (m, e) → Entry.naxes e ≠ 0 → (∀ k, k < 4 → mask.testBit k = true → k < (Entry.localMembers e s.grid).length) →
          (Entry.state e = 1 → ∃ t, exec step s = .next t ∧ t.mem = s.mem ∧ ready t 0 ∧ t.sealing = s.sealing) ∧
          (Entry.state e = 0 → ∃ t, exec step s = .next t ∧ t.mem = s.mem ∧ ready t 0 ∧
            ∀ k, k < 4 → mask.testBit k = true → (Entry.sealedMask e).testBit k = false → ⟨x.ctx, tid, k, none, some (x.id, node)⟩ ∈ t.sealing))) ∧
      (∀ tid mask, n.kind = .seal tid mask →
        (r.ready = true → (∀ y ∈ s.sealing, y.node ≠ some (x.id, node)) → s.demandOf (.node x.id node) = none →
          ∃ t, exec (.sealNodeComplete x.id node) s = .next t ∧ t.mem = s.mem ∧ Claims.NodePassed s t x g node n.succs) ∧
        (r.ready = false ∨ (∃ y ∈ s.sealing, y.node = some (x.id, node)) → exec (.sealNodeComplete x.id node) s = .next s)) ∧
      (∀ k rel hops deps, n.kind = .job k rel hops deps →
        (r.ready = true → r.nextTeam = k.teams → r.left = 0 → s.jobSettled x.ctx r.job = true → s.hostWritesDone x.ctx = true →
          ∃ t, exec (.jobComplete x.id node) s = .next t ∧ t.mem = s.mem ∧ Claims.NodePassed s t x g node n.succs) ∧
        (r.ready = false ∨ r.nextTeam ≠ k.teams ∨ r.left ≠ 0 ∨ s.jobSettled x.ctx r.job = false ∨ s.hostWritesDone x.ctx = false → exec (.jobComplete x.id node) s = .next s))) ∧
    (∀ ctx fill rest c, s.starts = (ctx, g.handle, fill) :: rest → s.ctx? ctx = some c → c.graphs.find? (fun y => y.handle == g.handle) = some g → (∀ y ∈ s.insts, y.id < s.nextId) →
      let started := fun (adm : Bool) => ∃ t y, exec .instanceStart s = .next t ∧ t.mem = s.mem ∧ t.starts = rest ∧ y ∈ t.insts ∧ y.id = s.nextId ∧ y.ctx = ctx ∧
        y.graph = g.handle ∧ y.fillTime = fill ∧ y.admitted = adm ∧ (adm = true → y.shareC = g.share false ∧ y.shareM = g.share true ∧ Claims.Counted s t ctx 0x20 1) ∧
        ∃ q ∈ y.runs, q.node = g.entry
      (Claims.WordsWatched s ctx g [g.entry] → (2 ≤ g.cls → started false) ∧ (g.cls ≤ 1 → s.admits g = true → started true)) ∧
      (g.cls ≤ 1 → s.admits g = false → ∃ t, exec .instanceStart s = .next t ∧ Claims.Counted s t ctx 0x21 1 ∧
        (∀ y ∈ t.insts, ∃ z ∈ s.insts, y.id = z.id) ∧ (c.notifyTerm = true → s.coh.probes = [] → s.remote = [] → s.coh.redfs = [] → ∃ e, t.events.getLast? = some e ∧ e.code = 3 ∧ e.word = faultWordOf 1 0 ctx false 0))) ∧
    (let late := fun (y : Inst) => y.admitted = true ∧ y.missed = false ∧ ∃ h, s.graphOf y = some h ∧ y.fillTime + h.relDeadline < s.now
     ((∀ y ∈ s.insts, ¬ late y) → exec .deadlineMiss s = .next s) ∧
     (∀ front back, s.insts = front ++ x :: back → late x → (∀ y ∈ front, ¬ late y) → ∃ t, exec .deadlineMiss s = .next t ∧ Claims.Counted s t x.ctx 0x22 1 ∧
       ∀ y ∈ t.insts, y.id = x.id → y.missed = true)) ∧
    (∀ q u, s.newGroup q = some u → u.group.length ≤ 32 ∧ u.group ≠ [] ∧ nextInTurn q.last ((s.readyOn q.id).map (fun p => q.id.turnOf p.1)) = some u.last ∧
      ∃ o ∈ s.readyOn q.id, q.id.turnOf o.1 = u.last ∧
        (∀ z ∈ u.group, z.team = o.1.id ∧ ∃ p ∈ s.readyOn q.id, p.1.id = z.team ∧ p.2.idx = z.fibre ∧ p.2.pc.toNat = u.pc) ∧
        ∃ p ∈ s.readyOn q.id, p.1.id = o.1.id ∧ p.2.pc.toNat = u.pc ∧ ∀ y ∈ s.readyOn q.id, y.1.id = o.1.id → p.2.since ≤ y.2.since) ∧
    (∀ i, i ∈ s.acted ∨ s.gapped i = true → s.restOfGroup (s.quad i) = [] → ∀ p ∈ s.issueTurns, p.2.id ≠ i) ∧
    ((Claims.dispatchOrder s).Pairwise (fun a b => b.before a = false)) ∧
    (Claims.dispatchOrder s = [] → exec .dispatch s = .next s) ∧
    (∀ tm front back c, Claims.dispatchOrder s = front ++ tm :: back → (∀ y ∈ front, s.place y = none ∧ s.preemptFor y = none) → tm.cluster = none → s.coreFor tm = some c →
      fitsBeside (s.onCore c) tm = true ∧ c ∈ coresOf tm.kernel.mcore ∧ s.reservationLeft s.onCore tm 1 = true ∧
      (∀ slot u0, s.team? tm.id = none → s.takeImage tm.kernel = some (slot, u0) → ∃ t us u, exec .dispatch s = .next t ∧ t.mem = s.mem ∧ t.teams = us ++ [u] ∧
        us.map Claims.sansBins = s.teams.map Claims.sansBins ∧ u.image = slot ∧ u.id = tm.id ∧ u.job = tm.job ∧ u.linear = tm.linear ∧
        u.state = .running ∧ u.core = some c ∧ u.scratch = [] ∧ u.acc = [] ∧ u.metaMem = [] ∧ u.fibres.length = tm.kernel.fibresM1 + 1 ∧
        ∀ i, i < u.fibres.length → ∃ h, u.fibre? i = some h ∧ h.pc = BitVec.ofNat 52 tm.kernel.entryPc ∧ h.status = .ready ∧ h.pred = 1 ∧ h.regs.length = tm.kernel.windowRegs ∧
          h.reg 0 = BitVec.ofNat 64 i ∧ h.reg 1 = BitVec.ofNat 64 tm.linear ∧ h.reg 3 = BitVec.ofNat 64 tm.kernel.param ∧
          h.reg 2 = BitVec.ofNat 64 (tm.linear % tm.kernel.grid.1 + tm.linear / tm.kernel.grid.1 % tm.kernel.grid.2.1 * 2 ^ 16 +
            tm.linear / (tm.kernel.grid.1 * tm.kernel.grid.2.1) * 2 ^ 32) ∧ ∀ k, 4 ≤ k → h.reg k = 0) ∧
      (s.team? tm.id = some tm → tm.state = .saved → ∃ t, exec .dispatch s = .next t ∧ t.mem = s.mem ∧ (t.team? tm.id).map Claims.sansBins = some (Claims.sansBins { tm with state := .restoring, core := some c, slot := s.slotOn c }) ∧
        ∀ k, k ≠ tm.id → (t.team? k).map Claims.sansBins = (s.team? k).map Claims.sansBins))

/-! ### Clauses, budgets, saves and timers -/

namespace Sys2Proof.Claims

/-- `tm` is the first team of `s` with a property, and the only one with its number. -/
def FirstTeam (s : State) (tm : Team) (p : Team → Prop) : Prop :=
  p tm ∧ (∀ y ∈ s.teams, y.id = tm.id → y = tm) ∧ ∃ front back, s.teams = front ++ tm :: back ∧ ∀ y ∈ front, ¬ p y

/-- Memory outside the image slot of a team, which takes its image, is as it was (06 R140, R141). -/
def OutsideImage (s t : State) (tm : Team) : Prop :=
  (∀ c ∈ tm.imageCells s.aclk, c.1 < tm.image.2 * 65536) → ∀ a, a < tm.image.1 * 65536 ∨ (tm.image.1 + tm.image.2) * 65536 ≤ a → sparseGet 0 t.mem.cells a = sparseGet 0 s.mem.cells a

/-- The team has been forced into a save (05 R102, R104; 06 R137). -/
structure Forced (s t : State) (tm y : Team) : Prop where
  at_ : t.team? tm.id = some y
  state : y.state = .saving ∧ y.forced = true ∧ y.budgetTrap = false ∧ y.preemptTrap = false
  kept : y.fibres.length = tm.fibres.length ∧ y.core = tm.core ∧ y.scratch = tm.scratch ∧ y.slice = tm.slice
  mem : t.mem = s.mem

end Sys2Proof.Claims

/-- 15 R290, R291; 05 R102 to R104; 06 R132 to R140; 07 R155, R161. -/
def Obligations.TeamEventResult : Prop :=
  ∀ (s : State) (r : FibreRef) (tm : Team) (f : Fibre),
    (s.current = some (r, tm, f) →
      (f.clause.isSome ∨ f.entering.isSome → exec .clauseStart s = .next s) ∧
      (f.clause = none → f.entering = none → f.faults = [] → (f.handler.isSome = true ∨ f.firstClause = true ∨ tm.interruptDue = none) →
        (∀ e, clauseAt s tm.ctx (dieOf tm f) f.pc.toNat = .error e → (e.cause ≠ 0 → exec .clauseStart s = .next (s.raiseAt r e [] 0)) ∧
          (e.cause = 0 → f.nearSlot = none → exec .clauseStart s = .next (s.askWord r tm f e.addr)) ∧
          (∀ k c i, e.cause = 0 → f.nearSlot = some (k, c, i) → exec .clauseStart s = .next (s.beginReturnTrap r k))) ∧
        (clauseAt s tm.ctx (dieOf tm f) f.pc.toNat = .ok none → exec .clauseStart s = .next (s.raiseAt r ⟨0x01, 0, 0, 0⟩ [] 0)) ∧
        (∀ h, clauseAt s tm.ctx (dieOf tm f) f.pc.toNat = .ok (some h) →
          ((∃ c, c < 12 ∧ (bitsOf h 7 12).testBit c = true ∧ f.cf.getD c 0 ≠ 0) → exec .clauseStart s = .next s) ∧
          ((∀ c, c < 12 → (bitsOf h 7 12).testBit c = true → f.cf.getD c 0 = 0) → exec .clauseStart s = .next (s.updFibre r fun x => { x with
            pc := BitVec.ofNat 52 (f.pc.toNat + 4), clause := some ⟨f.pc.toNat, BitVec.ofNat 32 h, 0, 0, true, none⟩, firstClause := false, since := s.aclk }))))) ∧
    (let out := fun (y : Team) => y.resident = true ∧ y.budgetOut = none ∧ y.budgetLeft s.aclk = 0
     ((∀ y ∈ s.teams, ¬ out y) → exec .budgetExhausted s = .next s) ∧
     (∀ c, Claims.FirstTeam s tm out → s.ctx? tm.ctx = some c →
       (c.trapHandler ≠ 0 → ∃ t, exec .budgetExhausted s = .next t ∧ t.mem = s.mem ∧ t.team? tm.id = some { tm with budgetOut := some s.aclk, budgetTrap := true }) ∧
       (c.trapHandler = 0 → tm.state = .preemptPending → ∃ t, exec .budgetExhausted s = .next t ∧ t.mem = s.mem ∧ t.team? tm.id = some { tm with budgetOut := some s.aclk, budgetTrap := false }) ∧
       (c.trapHandler = 0 → tm.state = .running → tm.cluster = none → ∃ t y, exec .budgetExhausted s = .next t ∧ Claims.Forced s t tm y ∧ y.keepSlice = false ∧ y.cls = max tm.cls 2 ∧ Claims.Counted s t tm.ctx 0x24 1))) ∧
    (let late := fun (y : Team) => y.state = .running ∧ ∃ a, y.budgetOut = some a ∧ a + 36000 ≤ s.aclk
     ((∀ y ∈ s.teams, ¬ late y) → exec .budgetGraceExpiry s = .next s) ∧
     (Claims.FirstTeam s tm late → tm.cluster = none → ∃ t y, exec .budgetGraceExpiry s = .next t ∧ Claims.Forced s t tm y ∧ y.keepSlice = false ∧ y.cls = max tm.cls 2 ∧
       Claims.Counted s t tm.ctx 0x24 1)) ∧
    (let late := fun (y : Team) => y.state = .preemptPending ∧ ∃ a, y.preempt = some a ∧ a + 36000 ≤ s.aclk
     ((∀ y ∈ s.teams, ¬ late y) → exec .preemptionGraceExpiry s = .next s) ∧
     (Claims.FirstTeam s tm late → tm.cluster = none → ∃ t y, exec .preemptionGraceExpiry s = .next t ∧ Claims.Forced s t tm y ∧ y.keepSlice = true ∧ y.cls = tm.cls ∧
       Claims.Counted s t tm.ctx 0x24 1)) ∧
    (let done := fun (y : Team) => y.state = .saving ∧ s.drained y = true
     ((∀ y ∈ s.teams, ¬ done y) → exec .saveComplete s = .next s) ∧
     (Claims.FirstTeam s tm done → s.mem.wf = true → ∃ t y, exec .saveComplete s = .next t ∧ t.team? tm.id = some y ∧ Claims.OutsideImage s t y ∧
       y = { tm with state := .saved, core := none, scratch := y.scratch, scratchPoison := y.scratchPoison } ∧
       ((∀ b ∈ s.bars, ∀ off, b.obj ≠ .scr tm.id off) → y.scratch = tm.scratch ∧ y.scratchPoison = tm.scratchPoison) ∧
       (0 < tm.image.2 → Claims.valueAt t (tm.image.1 * 65536) 128 = y.imageHeader s.aclk % 2 ^ 1024))) ∧
    (let done := fun (y : Team) => y.state = .discarding ∧ y.core.isSome = true ∧ s.drained y = true
     ((∀ y ∈ s.teams, ¬ done y) → exec .discardComplete s = .next s) ∧
     (Claims.FirstTeam s tm done → (∀ y ∈ s.teams, y.id < s.nextId) → ∃ t y z, exec .discardComplete s = .next t ∧ t.mem = s.mem ∧ Claims.Counted s t tm.ctx 0x31 1 ∧
       t.team? tm.id = some y ∧ y.state = .discarding ∧ y.core = none ∧ y.scratch = [] ∧ y.acc = [] ∧
       (∀ g ∈ y.fibres, g.away = some .homeward) ∧
       t.team? s.nextId = some z ∧ z.state = .waiting ∧ z.job = tm.job ∧ z.linear = tm.linear ∧ z.image = tm.image ∧ z.scratch = [] ∧ z.acc = [] ∧ z.fibres = [] ∧
       z.slice = tm.slice + 1 ∧ z.cls = (if tm.kernel.nslices < tm.slice + 1 ∧ tm.cls < 2 then 2 else tm.cls))) ∧
    (s.team? tm.id = some tm →
      (tm.state ≠ .restoring ∨ (∃ c, tm.core = some c ∧ s.probesToward c.die = true) → exec (.restoreComplete tm.id) s = .next s) ∧
      (tm.state = .restoring → (∀ c, tm.core = some c → s.probesToward c.die = false) → tm.redirect = [] →
        let fresh := tm.keepSlice = false ∨ tm.budgetLeft s.aclk = 0
        ∃ t y, exec (.restoreComplete tm.id) s = .next t ∧ t.mem = s.mem ∧ Claims.Counted s t tm.ctx 0x32 1 ∧ t.team? tm.id = some y ∧ y.state = .running ∧
          y.resSince = some s.aclk ∧ y.core = tm.core ∧ y.scratch = tm.scratch ∧ y.acc = tm.acc ∧
          (∀ g ∈ y.fibres, g.away = none → g.stopped = false ∧ (∀ va, g.status ≠ .tagWait va) ∧ (∀ l b, g.status ≠ .bwait l b) ∧ ∀ l b d v, g.status ≠ .chanWait l b d v) ∧ y.fibres.map (fun g => (g.idx, g.regs, g.pc)) = tm.fibres.map (fun g => (g.idx, g.regs, g.pc)) ∧
          (¬ fresh → y.slice = tm.slice ∧ y.budgetEnd = tm.budgetEnd ∧ y.cls = tm.cls) ∧
          (fresh → y.slice = tm.slice + 1 ∧ y.budgetEnd = tm.resAcc + tm.kernel.budget ∧ y.budgetOut = none ∧ y.cls = (if tm.kernel.nslices < tm.slice + 1 ∧ tm.cls < 2 then 2 else tm.cls))) ∧
      (tm.state ≠ .saved ∨ tm.redirect = [] → exec (.redirectEntryCompletion tm.id) s = .next s) ∧
      (∀ (off : Nat) (bs : List Byte) (alone : Bool) (rest : List Completion), tm.state = .saved → tm.redirect = .write off (bs.map some) [] alone :: rest → sparseWf 0 tm.scratch = true →
        ∃ t y, exec (.redirectEntryCompletion tm.id) s = .next t ∧ t.team? tm.id = some y ∧ Claims.OutsideImage s t y ∧ Claims.Counted s t tm.ctx 0x33 (bit alone) ∧ y.state = .saved ∧
          y.redirect = rest ∧ y.redirected = tm.redirected + bit alone ∧ (∀ i, i < bs.length → sparseGet 0 y.scratch (off + i) = bs.getD i 0) ∧
          ∀ a, a < off ∨ off + bs.length ≤ a → sparseGet 0 y.scratch a = sparseGet 0 tm.scratch a)) ∧
    (let started := fun (y : Team) (ds : List Deposit) => ∀ d ∈ ds, (∀ e ∈ ds, e.fibre = d.fibre → e = d) → ∀ h, tm.fibre? d.fibre = some h → ∃ g, y.fibre? d.fibre = some g ∧
       g.status = .ready ∧ g.pc = BitVec.ofNat 52 d.entry ∧ (∀ k, k < 4 → 4 ≤ tm.kernel.windowRegs → g.reg k = d.payload.getD k 0) ∧ g.fmode = h.fmode ∧ g.srseed = h.srseed
     let binDue := fun (y : Team) (b : Bin) => b.since + y.kernel.binTimerM1 + 1 ≤ y.residentTime s.aclk
     let binTeam := fun (y : Team) => y.resident = true ∧ ∃ b ∈ y.bins, binDue y b
     let reorderTeam := fun (y : Team) => y.resident = true ∧ y.reorder ≠ [] ∧ y.reorderSince + y.kernel.binTimerM1 + 1 ≤ y.residentTime s.aclk
     ((∀ y ∈ s.teams, ¬ binTeam y) → exec .binTimerExpiry s = .next s) ∧
     (∀ b front back, Claims.FirstTeam s tm binTeam → tm.bins = front ++ b :: back → binDue tm b → (∀ x ∈ front, ¬ binDue tm x) →
       ∃ t y, exec .binTimerExpiry s = .next t ∧ t.mem = s.mem ∧ t.team? tm.id = some y ∧ b ∉ y.bins ∧ started y b.fibres) ∧
     ((∀ y ∈ s.teams, ¬ reorderTeam y) → exec .reorderTimerExpiry s = .next s) ∧
     (Claims.FirstTeam s tm reorderTeam → ∃ t y, exec .reorderTimerExpiry s = .next t ∧ t.mem = s.mem ∧ t.team? tm.id = some y ∧ y.reorder = [] ∧ started y tm.reorder)) ∧
    (let rdv := fun (y : Team) => (y.rendezvousDue (s.rdvTimeout y.ctx) s.aclk).isSome = true
     ((∀ y ∈ s.teams, ¬ rdv y) → exec .rendezvousTimeout s = .next s) ∧
     (∀ row k, Claims.FirstTeam s tm rdv → tm.rendezvousDue (s.rdvTimeout tm.ctx) s.aclk = some (row, k) → tm.fibre? f.idx = some f → tm.fibres.countP (fun y => y.idx == f.idx) = 1 →
       tm.fibres.filter (fun y => rowOf y.idx == row && y.blockedAt.any (fun a => keyOf a == k)) = [f] → (∀ y ∈ tm.fibres, rowOf y.idx = row → ∀ a, y.heldAt = some a → keyOf a ≠ k) →
       exec .rendezvousTimeout s = .next ((s.updFibre ⟨tm.id, f.idx⟩ (fun x => { x with status := .ready, since := s.aclk })).raiseAt ⟨tm.id, f.idx⟩ ⟨0x0A, 0, 0, 0⟩
         ((((memberIdx row k.2).filter (fun i => !(tm.fibre? i).any (fun g => g.arrivedAt k))).map tm.entryFor).take 32) 0))) ∧
    (let conv := fun (y : Team) => (y.convDue (s.rdvTimeout y.ctx) s.aclk).isSome = true
     ((∀ y ∈ s.teams, ¬ conv y) → exec .convergenceTimeout s = .next s) ∧
     (∀ k, Claims.FirstTeam s tm conv → tm.convDue (s.rdvTimeout tm.ctx) s.aclk = some k → (tm.conv k).signers = [f.idx] → tm.fibre? f.idx = some f → f.status = .signed k → f.held = none →
       (∀ y ∈ tm.fibres, y ≠ f → y.held ≠ some (.signed k) ∧ y.idx ≠ f.idx) →
       exec .convergenceTimeout s = .next (((s.updTeam tm.id (fun t => t.putConv k { Conv.idle with declared := (tm.conv k).declared })).updFibre ⟨tm.id, f.idx⟩
         (fun x => { x with status := .ready, since := s.aclk })).raiseAt ⟨tm.id, f.idx⟩ ⟨0x0A, 0, 0, 0⟩ [] 0))) ∧
    (((∀ b ∈ s.bars, s.barDue b = false) → exec .barrierTimeout s = .next s) ∧
     (∀ b off, s.bars.find? (fun b => s.barDue b) = some b → b.obj = .scr tm.id off →
       let o := s.barAt b.obj
       let list := s.missingAt b.obj
       let marked := s.putBar b.obj (putBits o 4 1 1)
       (s.blockedAt b.obj (barPhase o) = [] → exec .barrierTimeout s = .next marked) ∧
       (s.blockedAt b.obj (barPhase o) = [r] → exec .barrierTimeout s =
         .next ((marked.updFibre r (fun x => { x with status := .ready })).raiseAt r ⟨0x0B, 0, off, 0⟩ (list.take 32) (list.length - 32)))))

/-! ### Coherence and the memories' own steps -/

/-- 08 R168, R171, R175 to R180, R184. -/
def Obligations.CoherenceResult : Prop :=
  ∀ (s : State) (line die : Nat),
    ((∀ p ∈ s.coh.probes, ¬ (p.line = line ∧ p.die = die ∧ p.answered = false)) → exec (.collapseProbe line die) s = .next s) ∧
    (∀ p front back, s.coh.probes = front ++ p :: back → p.line = line → p.die = die → p.answered = false →
      (∀ x ∈ front, ¬ (x.line = line ∧ x.die = die ∧ x.answered = false)) → ∃ t q, exec (.collapseProbe line die) s = .next t ∧ t.mem = s.mem ∧ t.teams = s.teams ∧
        (∀ c, c ∈ t.coh.cuttings ↔ c ∈ s.coh.cuttings ∧ ¬ (c.die = die ∧ c.line = line)) ∧ t.coh.probes = front ++ back ++ [q] ∧
        q.line = line ∧ q.die = die ∧ q.answered = true ∧ q.writer = p.writer ∧ (q.clear = true ↔ (∀ c ∈ t.coh.cuttings, c.die = die → regionOf c.line ≠ regionOf line) ∧
          ∀ x ∈ s.coh.fills, x.die = die → regionOf x.line = regionOf line → x.stale = true) ∧
        ((∀ c ∈ s.coh.cuttings, ¬ (c.die = die ∧ c.line = line)) → Claims.Counted s t p.ctx 0x42 1)) ∧
    ((∀ p ∈ s.coh.probes, ¬ (p.line = line ∧ p.die = die ∧ p.answered = true)) → exec (.collapseAnswer line die) s = .next s) ∧
    (∀ p front back, s.coh.probes = front ++ p :: back → p.line = line → p.die = die → p.answered = true → die < 8 → s.os.fills = [] →
      (∀ x ∈ front, ¬ (x.line = line ∧ x.die = die ∧ x.answered = true)) → ∃ t, exec (.collapseAnswer line die) s = .next t ∧ t.mem = s.mem ∧
        t.coh.probes = front ++ back ∧ t.coh.cuttings = s.coh.cuttings ∧
        let gone := p.clear = true ∧ s.holdsRegion die (regionOf line) = false
        (gone → (t.region (regionOf line)).holders.getLsbD die = false ∧ ∀ k, k < 8 → k ≠ die → (t.region (regionOf line)).holders.getLsbD k = (s.region (regionOf line)).holders.getLsbD k) ∧
        (¬ gone → t.coh.regions = s.coh.regions)) ∧
    (∀ f front back, s.coh.fills = front ++ f :: back → f.line = line → f.die = die → (∀ x ∈ front, ¬ (x.line = line ∧ x.die = die)) →
      ∃ t, exec (.cuttingFill line die) s = .next t ∧ t.mem = s.mem ∧ t.coh.fills = front ++ back ∧
        (excessHolders (s.region (regionOf line)) = [] → t.coh.probes = s.coh.probes) ∧ (∀ p ∈ s.coh.probes, p ∈ t.coh.probes) ∧
        (f.stale = true → t.coh.cuttings = s.coh.cuttings) ∧
        (f.stale = false → (∃ w, ⟨die, line, f.data, f.part, w, f.policy⟩ ∈ t.coh.cuttings) ∧ ∀ c ∈ t.coh.cuttings, c.die = die → c.line = line → c.data = f.data)) ∧
    ((∀ f ∈ s.coh.fills, ¬ (f.line = line ∧ f.die = die)) → exec (.cuttingFill line die) s = .next s) ∧
    ((fclkOf s.aclk < s.coh.windowEnd + 65536 → exec .regionWindowEnd s = .next s) ∧
     (s.coh.windowEnd + 65536 ≤ fclkOf s.aclk → ∃ t, exec .regionWindowEnd s = .next t ∧ t.mem = s.mem ∧ t.coh.windowEnd % 65536 = 0 ∧
       t.coh.windowEnd ≤ fclkOf s.aclk ∧ fclkOf s.aclk < t.coh.windowEnd + 65536 ∧ t.coh.regions = s.coh.regions.map Region.endWindow)) ∧
    (∀ g : Region, g.endWindow.reads = 0 ∧ g.endWindow.writes = 0 ∧ g.endWindow.readers = 0 ∧ g.endWindow.holders = g.holders ∧
      (g.pinned = false → g.writes = 0 → 2 ≤ maskCount g.readers → 16 ≤ g.reads → g.degree < 4 → g.endWindow.degree = g.degree + 1) ∧
      (g.pinned = true ∨ g.writes ≠ 0 ∨ maskCount g.readers < 2 ∨ g.reads < 16 ∨ 4 ≤ g.degree → g.endWindow.degree = g.degree)) ∧
    ((∀ p ∈ s.coh.redfs, ∃ o ∈ s.owned, o.1 = lineOf p.m.pa) → exec .redfPerform s = .next s) ∧
    (∀ p front back, s.coh.redfs = front ++ p :: back → (∀ x ∈ front, ∃ o ∈ s.owned, o.1 = lineOf x.m.pa) → (∀ o ∈ s.owned, o.1 ≠ lineOf p.m.pa) →
      (wordOf p.m.pa ∈ s.mem.poison → ∃ t, exec .redfPerform s = .next t ∧ t.mem = s.mem ∧ t.coh.redfs = front ++ back ∧ Claims.OneMore s.life t 4 (8 * homeDie (lineOf p.m.pa) + 1)) ∧
      (wordOf p.m.pa ∉ s.mem.poison → p.ftype = 0 → p.op = 0 → s.mem.wf = true → ∃ t, exec .redfPerform s = .next t ∧ t.coh.redfs = front ++ back ∧
        Claims.valueAt t p.m.pa 4 = (Claims.valueAt s p.m.pa 4 + p.v.toNat) % 2 ^ 32 ∧ t.mem.full = s.mem.full ∧
        ∀ a, a < p.m.pa ∨ p.m.pa + 4 ≤ a → sparseGet 0 t.mem.cells a = sparseGet 0 s.mem.cells a)) ∧
    (∀ g, s.aclk % 14400 < 3240 → g = s.aclk % 115200 / 14400 →
      ((∃ p ∈ s.coh.refreshing, p.1 = g) → exec .weightStoreRefreshStart s = .next s) ∧
      ((∀ p ∈ s.coh.refreshing, p.1 ≠ g) → exec .weightStoreRefreshStart s =
        .next { s with coh := { s.coh with refreshing := s.coh.refreshing ++ [(g, s.aclk / 14400 * 14400)] } })) ∧
    (3240 ≤ s.aclk % 14400 → exec .weightStoreRefreshStart s = .next s) ∧
    ((∀ p ∈ s.coh.refreshing, s.aclk < p.2 + 3240) → exec .weightStoreRefreshEnd s = .next s) ∧
    (∀ p front back, s.coh.refreshing = front ++ p :: back → (∀ x ∈ front, s.aclk < x.2 + 3240) → p.2 + 3240 ≤ s.aclk → ∃ t, exec .weightStoreRefreshEnd s = .next t ∧
      t.mem = s.mem ∧ t.teams = s.teams ∧ (∀ x, x ∈ t.coh.refreshing ↔ x ∈ s.coh.refreshing ∧ x ≠ p)) ∧
    (∃ t, exec .retentionEntry s = .next t ∧ t.mem = s.mem ∧ t.teams = s.teams ∧
      (∀ c, c ∈ t.coh.cuttings ↔ c ∈ s.coh.cuttings ∧ c.way ∈ s.usedWays) ∧ (∀ h, h ∈ t.coh.slices ↔ h ∈ s.coh.slices ∧ h.way ∈ s.usedWays) ∧
      (∀ d g, (d, g) ∈ t.coh.retainedGroups ↔ d < 4 ∧ g < 8 ∧ (d, g) ∉ s.mappedGroups) ∧
      ∀ d w, (d, w) ∈ t.coh.retainedWays ↔ d < 8 ∧ w < 16 ∧ ∀ c ∈ s.ctxs, ∀ m ∈ c.partMask, m.testBit w = false)

/-! ### Decoding, the step, reset, the memory's form -/

/-- Worked encodings of chapters 16 to 20 and of the programs of 21 to 26. -/
def Obligations.DecodeSamples : Prop :=
  decodeWords [0x081C2057] = .ok (.mul 7 4 5 7, []) ∧
  decodeWords [0x061837FF] = .ok (.addi 6 6 0x7FF, []) ∧
  decodeWords [0x4017FFFE] = .ok (.bra 1 0 0x7FFFE, []) ∧
  decodeWords [0x30204065] = .ok (.cmp 2 0 8 6 5, []) ∧
  decodeWords [0x56000480] = .ok (.fence 4 4, []) ∧
  decodeWords [0xA4081840] = .ok (.ffma 2 3 4 0, []) ∧
  decodeWords [0x60142003] = .ok (.ld 5 4 0 0 3, []) ∧
  decodeWords [0x36200000] = .ok (.pred 2 0 0, []) ∧
  decodeWords [0x720C4090, 0x00000004] = .ok (.atom64 3 8 9 0 4 0 0 0, []) ∧
  decodeWords [0x80002051, 0x00000015] = .ok (.fillVal 4 5 5 2, []) ∧
  decodeWords [0x8E00A150] = .ok (.bwait 20 21 0, []) ∧
  decodeWords [0xC0143093] = .ok (.xshf 5 6 9 3, []) ∧
  decodeWords [0xF01450B0, 0x162A500C] = .ok (.tcopy 5 10 11 12 20 21 22, []) ∧
  decodeWords [0xF6006000] = .ok (.hop 12, [])

/-- 15 R298 to R304: no bit of an encoding is dropped. -/
def Obligations.DecodeEncode : Prop :=
  ∀ (i : Instr) (rest : List Nat), i.wf = true → encode i ≠ [] → decodeWords (encode i ++ rest) = .ok (i, rest)

namespace Sys2Proof.Claims

/-- A team but for the ages of its fibres, which the quadrants' choice reads (07 R150). -/
def sansAge (t : Team) : Team := { t with fibres := t.fibres.map fun (f : Fibre) => { f with since := 0 } }

end Sys2Proof.Claims

/-- What one step is, in terms of exec. -/
def Obligations.StepRunsDecoded : Prop :=
  ∀ (s : State),
    (∀ (rest : List Turn) (r : FibreRef) (t : Team) (f : Fibre), s.agenda = .fibre r :: rest →
      let s0 := { s with
        agenda := rest
        cur := some r }
      s0.current = some (r, t, f) → f.entering = none → mayIssue t f = true → f.blocked = false → (∀ va, f.status ≠ .poisoned va) → s0.hasFetched r = false →
      (f.clause = none → ∀ s1, exec .clauseStart s0 = .next s1 → step s = .next s1.after) ∧
      ∀ c : Clause, f.clause = some c →
        let sp := s0.updFibre r Fibre.notePrefix
        let word := fun (k : Nat) => fetchWord sp t.ctx (dieOf t f) (f.pc.toNat + 4 * k)
        (∀ k e, word k = .error e → (∀ j, j < k → ∃ x, word j = .ok x) → (0 < k → ∃ w, word 0 = .ok w ∧ k < lengthOf w) →
          (e.cause ≠ 0 → step s = .next (sp.raiseAt r e [] 0).after) ∧
          (e.cause = 0 → f.nearSlot = none → step s = .next (sp.askWord r t f e.addr).after) ∧
          (∀ m n i, e.cause = 0 → f.nearSlot = some (m, n, i) → step s = .next (sp.beginReturnTrap r m).after)) ∧
        ∀ (w : Nat) (ws : List Nat), lengthOf w = ws.length + 1 → (∀ k, k < ws.length + 1 → word k = .ok ((w :: ws).getD k 0)) →
          (∀ e, decodeWords (w :: ws) = .error e → step s = .next (sp.raiseAt r ⟨0x01, 0, 0, 0⟩ [] 0).after) ∧
          ∀ i : Instr, decodeWords (w :: ws) = .ok (i, []) →
            (c.span = 0 ∨ c.spanOn = true →
              (∀ s1, exec i sp = .next s1 → s1 ≠ sp ∨ hdrAtomic c.hdr = false ∨ waitsOutside i = false → step s = .next s1.after) ∧
              (exec i sp = .next sp → hdrAtomic c.hdr = true → waitsOutside i = true → step s = .next (sp.waitInside r t f).after) ∧
              (∀ e, exec i sp = .fault e → step s = .fault e) ∧ (∀ e, exec i sp = .refused e → step s = .refused e)) ∧
            (c.span ≠ 0 → c.spanOn = false →
              (topReg i < windowOf t f → neverLegal i = false → step s = .next (sp.updFibre r fun x => x.pass (ws.length + 1) (isLong i) sp.aclk).after) ∧
              (windowOf t f ≤ topReg i ∨ neverLegal i = true → step s = .next (sp.raiseAt r ⟨0x01, 0, 0, 0⟩ [] 0).after))) ∧
    (∀ (rest : List Turn) (i : Instr) (turn : Turn), s.agenda = turn :: rest → turn = .event i ∨ (∃ port bytes fec, turn = .outside (.wire port bytes fec) ∧ i = flitStep port bytes fec) →
      let s0 := { s with agenda := rest }
      (∀ s1, exec i s0 = .next s1 → step s = .next s1.after) ∧
      (∀ e, exec i s0 = .fault e → step s = .fault e) ∧ (∀ e, exec i s0 = .refused e → step s = .refused e)) ∧
    (s.agenda = [] →
      (chosenTurn s.cycle = none → step s = .next s.cycle.after) ∧
      (∀ turn, chosenTurn s.cycle = some turn → step s = step { s.cycle.noteTurn turn with agenda := [turn] })) ∧
    s.cycle = { s with
      teams := s.cycle.teams
      quads := s.cycle.quads
      acted := s.cycle.acted
      aclk := s.cycle.aclk } ∧ s.cycle.teams.map Claims.sansAge = s.teams.map Claims.sansAge ∧ s.aclk ≤ s.cycle.aclk ∧
    s.after = { s with
      tick := s.after.tick
      aclk := s.after.aclk } ∧ s.after.tick = s.tick + 1 ∧ s.aclk ≤ s.after.aclk ∧ ((∃ q ∈ s.quads, q.group ≠ []) → s.after.aclk = s.aclk)

/-- Reset: the values the spec gives, and the memory of log entry 3. -/
def Obligations.ResetState : Prop :=
  State.reset.ctxs = [] ∧ State.reset.teams = [] ∧ State.reset.insts = [] ∧ State.reset.cmds = [] ∧ State.reset.near = [] ∧
  State.reset.aclk = 0 ∧ State.reset.bootDone = false ∧ State.reset.thermal = 0 ∧ State.reset.dieStatus = 0 ∧
  State.reset.grid = 0 ∧ State.reset.linkDiscard = 0 ∧
  (∀ p ∈ State.reset.ports, p.state = .down ∧ p.credits = [32, 32, 32, 32]) ∧
  (∀ k, k < 16 → ∃ p, p ∈ State.reset.ports ∧ p.idx = k) ∧
  State.reset.coh.l1 = [] ∧ State.reset.coh.cuttings = [] ∧ State.reset.coh.regn = [] ∧
  State.reset.mem.wf = true ∧ ∀ a, sparseGet 0 State.reset.mem.cells a = 0

/-- The memory's form is an invariant of the step. -/
def Obligations.StepKeepsMemoryForm : Prop :=
  ∀ s s' : State, s.mem.wf = true → step s = .next s' → s'.mem.wf = true
end

