-- ==== Sys2Proof/Laws/Home.lean ====
section
/-! SUPPORT. What the operations on the lines of the shared-cache slices can change: the slices themselves, and never a byte, a tag or a mark of poison. -/

namespace Sys2Proof.Machine

/-- An access at a line's home changes nothing but the slices: their own lines, and cuttings that give way. -/
theorem State.keepHome_slices (s : State) (m : MemLoc) (line : Nat) (ws : List Nat) (write : Bool) (ctx : Nat) :
    ∃ cs hs, (∀ c ∈ cs, c ∈ s.coh.cuttings) ∧
      s.keepHome m line ws write ctx = { s with coh := { s.coh with cuttings := cs, slices := hs } } := by
  unfold State.keepHome
  by_cases weights : m.cls = 2
  · exact ⟨s.coh.cuttings, s.coh.slices, fun _ h => h, by simp [weights]⟩
  · by_cases bypass : m.policy = 3
    · exact ⟨s.coh.cuttings, _, fun _ h => h, by simp only [weights, bypass, if_true, if_false]; rfl⟩
    · refine ⟨_, _, ?_, by simp only [weights, bypass, if_false]; rfl⟩
      exact fun c h => (List.mem_filter.mp h).1

@[simp] theorem State.keepHome_mem (s : State) (m : MemLoc) (line : Nat) (ws : List Nat) (write : Bool) (ctx : Nat) :
    (s.keepHome m line ws write ctx).mem = s.mem := by
  obtain ⟨_, _, -, eq⟩ := s.keepHome_slices m line ws write ctx
  rw [eq]

@[simp] theorem State.settleLine_mem (s : State) (line : Nat) : (s.settleLine line).mem = s.mem := rfl

/-- What a search die reads is not changed by bringing it up to date. -/
@[simp] theorem State.recallSpan_mem (s : State) (ls : List (Loc × Nat)) : (s.recallSpan ls).mem = s.mem := by
  unfold State.recallSpan
  generalize linesAt ls = lines
  induction lines generalizing s with
  | nil => rfl
  | cons l _ ih => rw [List.foldl_cons, ih]; rfl

end Sys2Proof.Machine
end

