-- ==== Sys2Proof/Laws/Memory.lean ====
section
/-! SUPPORT. The laws of the sparse maps, of sets of numbers and of physical memory: reading what was written, reading elsewhere, and the canonical form, which every memory operation keeps. -/

namespace Sys2Proof.Machine

/-! ### Sparse maps -/

section Sparse

variable {α : Type} [DecidableEq α] {z v : α} {m : List (Nat × α)} {a k : Nat}

theorem sparseWf_cons {b : Nat} {w : α} :
    sparseWf z ((b, w) :: m) = true ↔ w ≠ z ∧ keysAbove b m = true ∧ sparseWf z m = true := by
  simp [sparseWf, and_assoc]

omit [DecidableEq α] in
theorem keysAbove_mono (h : k ≤ a) (hm : keysAbove a m = true) : keysAbove k m = true := by
  cases m with
  | nil => rfl
  | cons p m => simp [keysAbove] at *; omega

theorem keysAbove_put (hw : sparseWf z m = true) (hk : k < a) (h : keysAbove k m = true) :
    keysAbove k (sparsePut z m a v) = true := by
  cases m with
  | nil => by_cases hv : v = z <;> simp [sparsePut, keysAbove, hv, hk]
  | cons p m =>
    obtain ⟨b, w⟩ := p
    obtain ⟨-, hb, -⟩ := sparseWf_cons.mp hw
    have hkb : k < b := by simpa [keysAbove] using h
    unfold sparsePut
    split
    · split <;> simp [keysAbove, hk, hkb]
    · split
      · split
        · exact keysAbove_mono (Nat.le_of_lt hkb) hb
        · simp [keysAbove, hkb]
      · simp [keysAbove, hkb]

/-- Putting a value keeps the canonical form. -/
theorem sparsePut_wf (hw : sparseWf z m = true) : sparseWf z (sparsePut z m a v) = true := by
  induction m with
  | nil => by_cases hv : v = z <;> simp [sparsePut, sparseWf, keysAbove, hv]
  | cons p m ih =>
    obtain ⟨b, w⟩ := p
    obtain ⟨hwz, hb, hm⟩ := sparseWf_cons.mp hw
    unfold sparsePut
    split
    · rename_i hab
      split
      · exact hw
      · rename_i hv
        exact sparseWf_cons.mpr ⟨hv, by simp [keysAbove, hab], hw⟩
    · rename_i hab
      split
      · split
        · exact hm
        · rename_i hv
          exact sparseWf_cons.mpr ⟨hv, hb, hm⟩
      · exact sparseWf_cons.mpr ⟨hwz, keysAbove_put hm (by omega) hb, ih hm⟩

omit [DecidableEq α] in
/-- Below its keys a map reads as the unlisted value. -/
theorem sparseGet_above (h : keysAbove a m = true) (hm : ∀ p ∈ m, a < p.1) : sparseGet z m a = z := by
  clear h
  induction m with
  | nil => rfl
  | cons p m ih =>
    obtain ⟨b, w⟩ := p
    have := hm (b, w) (by simp)
    rw [sparseGet, if_neg (by simp at this; omega), ih (fun p hp => hm p (by simp [hp]))]

theorem keys_above (hw : sparseWf z m = true) (h : keysAbove a m = true) : ∀ p ∈ m, a < p.1 := by
  induction m generalizing a with
  | nil => simp
  | cons p m ih =>
    obtain ⟨b, w⟩ := p
    obtain ⟨-, hb, hm⟩ := sparseWf_cons.mp hw
    have hab : a < b := by simpa [keysAbove] using h
    intro q hq
    rcases List.mem_cons.mp hq with rfl | hq
    · exact hab
    · exact Nat.lt_trans hab (ih hm hb q hq)

/-- The key that was put reads as the value put. -/
theorem sparseGet_put_same (hw : sparseWf z m = true) : sparseGet z (sparsePut z m a v) a = v := by
  induction m with
  | nil => by_cases hv : v = z <;> simp [sparsePut, sparseGet, hv]
  | cons p m ih =>
    obtain ⟨b, w⟩ := p
    obtain ⟨-, hb, hm⟩ := sparseWf_cons.mp hw
    unfold sparsePut
    split
    · rename_i hab
      split
      · rename_i hv
        rw [sparseGet, if_neg (by omega), hv]
        exact sparseGet_above (keysAbove_mono (Nat.le_of_lt hab) hb) (fun p hp => Nat.lt_trans hab (keys_above hm hb p hp))
      · simp [sparseGet]
    · split
      · rename_i hab
        subst hab
        split
        · rename_i hv
          rw [hv]; exact sparseGet_above hb (keys_above hm hb)
        · simp [sparseGet]
      · rename_i hab
        rw [sparseGet, if_neg hab]; exact ih hm

/-- Every other key reads as before. -/
theorem sparseGet_put_other {b : Nat} (h : b ≠ a) : sparseGet z (sparsePut z m a v) b = sparseGet z m b := by
  induction m with
  | nil => by_cases hv : v = z <;> simp [sparsePut, sparseGet, hv, h]
  | cons p m ih =>
    obtain ⟨c, w⟩ := p
    unfold sparsePut
    split
    · split
      · rfl
      · rw [sparseGet, if_neg h]
    · split
      · rename_i hac
        subst hac
        split
        · rw [sparseGet, if_neg h]
        · rw [sparseGet, sparseGet, if_neg h, if_neg h]
      · rw [sparseGet, sparseGet, ih]

end Sparse

/-! ### Sets of numbers -/

theorem setWf_cons {b : Nat} {m : List Nat} : setWf (b :: m) = true ↔ setAbove b m = true ∧ setWf m = true := by
  simp [setWf]

theorem setAbove_mono {k a : Nat} {m : List Nat} (h : k ≤ a) (hm : setAbove a m = true) : setAbove k m = true := by
  cases m with
  | nil => rfl
  | cons p m => simp [setAbove] at *; omega

theorem setAbove_insert {k a : Nat} {m : List Nat} (hk : k < a) (h : setAbove k m = true) :
    setAbove k (setInsert m a) = true := by
  cases m with
  | nil => simp [setInsert, setAbove, hk]
  | cons b m =>
    have hkb : k < b := by simpa [setAbove] using h
    unfold setInsert
    split
    · simp [setAbove, hk]
    · split <;> simp [setAbove, hkb]

/-- Inserting keeps the canonical form of a set. -/
theorem setInsert_wf {m : List Nat} {a : Nat} (h : setWf m = true) : setWf (setInsert m a) = true := by
  induction m with
  | nil => rfl
  | cons b m ih =>
    obtain ⟨hb, hm⟩ := setWf_cons.mp h
    unfold setInsert
    split
    · rename_i hab
      exact setWf_cons.mpr ⟨by simp [setAbove, hab], h⟩
    · split
      · exact h
      · exact setWf_cons.mpr ⟨setAbove_insert (by omega) hb, ih hm⟩

theorem setAbove_erase {k a : Nat} {m : List Nat} (hw : setWf m = true) (h : setAbove k m = true) :
    setAbove k (setErase m a) = true := by
  cases m with
  | nil => rfl
  | cons b m =>
    have hkb : k < b := by simpa [setAbove] using h
    unfold setErase
    split
    · exact setAbove_mono (Nat.le_of_lt hkb) (setWf_cons.mp hw).1
    · simp [setAbove, hkb]

/-- Erasing keeps the canonical form of a set. -/
theorem setErase_wf {m : List Nat} {a : Nat} (h : setWf m = true) : setWf (setErase m a) = true := by
  induction m with
  | nil => rfl
  | cons b m ih =>
    obtain ⟨hb, hm⟩ := setWf_cons.mp h
    unfold setErase
    split
    · exact hm
    · exact setWf_cons.mpr ⟨setAbove_erase hm hb, ih hm⟩

theorem setPut_wf {m : List Nat} {a : Nat} {b : Bool} (h : setWf m = true) : setWf (setPut m a b) = true := by
  unfold setPut
  split
  · exact setInsert_wf h
  · exact setErase_wf h

theorem setFilter_wf {m : List Nat} (p : Nat → Bool) (h : setWf m = true) : setWf (m.filter p) = true := by
  have above : ∀ (m : List Nat) (k : Nat), setWf m = true → setAbove k m = true → setAbove k (m.filter p) = true := by
    intro m
    induction m with
    | nil => simp
    | cons b m ih =>
      intro k hw hk
      have hkb : k < b := by simpa [setAbove] using hk
      obtain ⟨hb, hm⟩ := setWf_cons.mp hw
      rw [List.filter_cons]
      split
      · simp [setAbove, hkb]
      · exact ih k hm (setAbove_mono (Nat.le_of_lt hkb) hb)
  induction m with
  | nil => rfl
  | cons b m ih =>
    obtain ⟨hb, hm⟩ := setWf_cons.mp h
    rw [List.filter_cons]
    split
    · exact setWf_cons.mpr ⟨above m b hm hb, ih hm⟩
    · exact ih hm

theorem sparseFilter_wf {α : Type} [DecidableEq α] {z : α} {m : List (Nat × α)} (p : Nat × α → Bool)
    (h : sparseWf z m = true) : sparseWf z (m.filter p) = true := by
  have above : ∀ (m : List (Nat × α)) (k : Nat), sparseWf z m = true → keysAbove k m = true →
      keysAbove k (m.filter p) = true := by
    intro m
    induction m with
    | nil => simp
    | cons q m ih =>
      obtain ⟨b, w⟩ := q
      intro k hw hk
      have hkb : k < b := by simpa [keysAbove] using hk
      obtain ⟨-, hb, hm⟩ := sparseWf_cons.mp hw
      rw [List.filter_cons]
      split
      · simp [keysAbove, hkb]
      · exact ih k hm (keysAbove_mono (Nat.le_of_lt hkb) hb)
  induction m with
  | nil => rfl
  | cons q m ih =>
    obtain ⟨b, w⟩ := q
    obtain ⟨hv, hb, hm⟩ := sparseWf_cons.mp h
    rw [List.filter_cons]
    split
    · exact sparseWf_cons.mpr ⟨hv, above m b hm hb, ih hm⟩
    · exact ih hm

/-- Membership after an insertion. -/
theorem setInsert_contains {m : List Nat} {a b : Nat} : (setInsert m a).contains b = (m.contains b || b == a) := by
  induction m with
  | nil => by_cases h : b = a <;> simp [setInsert, h]
  | cons c m ih =>
    unfold setInsert
    split
    · simp only [List.contains_cons]
      cases (b == a) <;> simp
    · split
      · rename_i h
        subst h
        simp only [List.contains_cons]
        cases (b == a) <;> simp
      · simp only [List.contains_cons, ih, Bool.or_assoc]

theorem setWf_not_mem {m : List Nat} {a : Nat} (hw : setWf m = true) (h : setAbove a m = true) : m.contains a = false := by
  induction m with
  | nil => rfl
  | cons b m ih =>
    obtain ⟨hb, hm⟩ := setWf_cons.mp hw
    have hab : a < b := by simpa [setAbove] using h
    have : (a == b) = false := by simp; omega
    rw [List.contains_cons, this, ih hm (setAbove_mono (Nat.le_of_lt hab) hb)]; rfl

/-- Membership after an erasure. -/
theorem setErase_contains {m : List Nat} {a b : Nat} (hw : setWf m = true) :
    (setErase m a).contains b = (m.contains b && b != a) := by
  induction m with
  | nil => rfl
  | cons c m ih =>
    obtain ⟨hc, hm⟩ := setWf_cons.mp hw
    unfold setErase
    split
    · rename_i h
      subst h
      by_cases hb : b = a
      · subst hb; rw [setWf_not_mem hm hc]; simp
      · simp [List.contains_cons, hb]
    · rename_i h
      rw [List.contains_cons, List.contains_cons, ih hm]
      by_cases hb : b = c
      · subst hb
        have : (b != a) = true := by simp; omega
        simp [this]
      · have : (b == c) = false := by simpa using hb
        simp [this]

theorem setPut_contains {m : List Nat} {a b : Nat} {v : Bool} (hw : setWf m = true) :
    (setPut m a v).contains b = if b = a then v else m.contains b := by
  unfold setPut
  split
  · rename_i h
    rw [setInsert_contains, h]; by_cases hb : b = a <;> simp [hb]
  · rename_i h
    rw [setErase_contains hw]; by_cases hb : b = a <;> simp_all

/-! ### Byte strings -/

theorem sparseWrite_wf {m : List Host.Cell} {a : Nat} {bs : List (Option Byte)} (h : sparseWf 0 m = true) :
    sparseWf 0 (sparseWrite m a bs) = true := by
  induction bs generalizing m a with
  | nil => exact h
  | cons b bs ih =>
    cases b with
    | none => exact ih h
    | some b => exact ih (sparsePut_wf h)

/-- A byte outside the written range reads as before. -/
theorem sparseGet_write_other {m : List Host.Cell} {a b : Nat} {bs : List (Option Byte)}
    (h : b < a ∨ a + bs.length ≤ b) : sparseGet 0 (sparseWrite m a bs) b = sparseGet 0 m b := by
  induction bs generalizing m a with
  | nil => rfl
  | cons x bs ih =>
    simp only [List.length_cons] at h
    have h' : b < a + 1 ∨ a + 1 + bs.length ≤ b := by omega
    cases x with
    | none => exact ih h'
    | some x =>
      refine (ih h').trans (sparseGet_put_other ?_)
      omega

/-- A byte inside the written range reads as the byte written, or as before where there is a hole. -/
theorem sparseGet_write_inside {m : List Host.Cell} {a i : Nat} {bs : List (Option Byte)} (hw : sparseWf 0 m = true)
    (h : i < bs.length) : sparseGet 0 (sparseWrite m a bs) (a + i) = (bs[i]).getD (sparseGet 0 m (a + i)) := by
  induction bs generalizing m a i with
  | nil => simp at h
  | cons x bs ih =>
    cases i with
    | zero =>
      cases x with
      | none => exact sparseGet_write_other (m := m) (a := a + 1) (bs := bs) (b := a) (by omega)
      | some x =>
        refine (sparseGet_write_other (m := sparsePut 0 m a x) (a := a + 1) (bs := bs) (b := a) (by omega)).trans ?_
        exact sparseGet_put_same hw
    | succ i =>
      have e : a + (i + 1) = a + 1 + i := by omega
      have hi : i < bs.length := by simpa using h
      rw [e]
      cases x with
      | none => simpa [sparseWrite] using ih (m := m) (a := a + 1) hw hi
      | some x =>
        refine (ih (m := sparsePut 0 m a x) (a := a + 1) (sparsePut_wf hw) hi).trans ?_
        rw [sparseGet_put_other (by omega)]
        simp

theorem natOfBytes_bytesOfNat (n v : Nat) : natOfBytes (bytesOfNat n v) = v % 2 ^ (8 * n) := by
  induction n generalizing v with
  | zero => simp [bytesOfNat, natOfBytes, Nat.mod_one]
  | succ n ih =>
    rw [bytesOfNat, natOfBytes, ih, BitVec.toNat_ofNat, show 8 * (n + 1) = 8 + 8 * n by omega, Nat.pow_add,
      Nat.mod_mul]

/-- A dword is its eight bytes. -/
theorem natOfBytes_bytesOf (v : Dword) : natOfBytes (bytesOf v 8) = v.toNat := by
  rw [bytesOf, natOfBytes_bytesOfNat]
  exact Nat.mod_eq_of_lt v.isLt

/-! ### Physical memory -/

theorem Memory.wf_iff {m : Memory} :
    m.wf = true ↔ sparseWf 0 m.cells = true ∧ setWf m.full = true ∧ setWf m.poison = true := by
  simp [Memory.wf, and_assoc]

theorem Memory.reset_wf : Memory.reset.wf = true := rfl

theorem foldl_setErase_wf {ws m : List Nat} (h : setWf m = true) : setWf (ws.foldl setErase m) = true := by
  induction ws generalizing m with
  | nil => exact h
  | cons w ws ih => exact ih (setErase_wf h)

/-- A write of bytes keeps the canonical form of memory. -/
theorem Memory.write_wf {m : Memory} {pa : Nat} {bs : List (Option Byte)} (h : m.wf = true) : (m.write pa bs).wf = true := by
  obtain ⟨hc, hf, hp⟩ := Memory.wf_iff.mp h
  exact Memory.wf_iff.mpr ⟨sparseWrite_wf hc, hf, foldl_setErase_wf hp⟩

/-- A change of a tag keeps the canonical form of memory. -/
theorem Memory.tag_wf {m : Memory} {w : Nat} {b : Bool} (h : m.wf = true) :
    ({ m with full := setPut m.full w b } : Memory).wf = true := by
  obtain ⟨hc, hf, hp⟩ := Memory.wf_iff.mp h
  exact Memory.wf_iff.mpr ⟨hc, setPut_wf hf, hp⟩

/-- Poisoning a memory word keeps the canonical form of memory. -/
theorem Memory.poison_wf {m : Memory} {w : Nat} (h : m.wf = true) :
    ({ m with poison := setInsert m.poison w } : Memory).wf = true := by
  obtain ⟨hc, hf, hp⟩ := Memory.wf_iff.mp h
  exact Memory.wf_iff.mpr ⟨hc, hf, setInsert_wf hp⟩

theorem foldl_setInsert_wf {α : Type} {g : α → Nat} {ws : List α} {m : List Nat} (h : setWf m = true) :
    setWf (ws.foldl (fun m w => setInsert m (g w)) m) = true := by
  induction ws generalizing m with
  | nil => exact h
  | cons w ws ih => exact ih (setInsert_wf h)

theorem foldl_sparsePut_wf {α β : Type} [DecidableEq β] {z : β} {k : α → Nat} {v : α → β} {cs : List α} {m : List (Nat × β)}
    (h : sparseWf z m = true) : sparseWf z (cs.foldl (fun m c => sparsePut z m (k c) (v c)) m) = true := by
  induction cs generalizing m with
  | nil => exact h
  | cons c cs ih => exact ih (sparsePut_wf h)

/-- Words that an error of the array takes keep the canonical form of memory (08 R183). -/
theorem State.spoilHome_wf {s : State} {pa : Nat} {ws : List Nat} (h : s.mem.wf = true) : (s.spoilHome pa ws).mem.wf = true := by
  obtain ⟨hc, hf, hp⟩ := Memory.wf_iff.mp h
  unfold State.spoilHome State.poisonMade
  split <;> exact Memory.wf_iff.mpr ⟨hc, hf, foldl_setInsert_wf (g := id) hp⟩

/-- Frames zeroed keep the canonical form of memory (03 R72). -/
theorem State.zeroFrames_wf {s : State} {fs : List (Nat × Nat)} (h : s.mem.wf = true) : (s.zeroFrames fs).mem.wf = true := by
  obtain ⟨hc, hf, hp⟩ := Memory.wf_iff.mp h
  exact Memory.wf_iff.mpr ⟨sparseFilter_wf _ hc, setFilter_wf _ hf, setFilter_wf _ hp⟩

/-- The image of a team in its slot keeps the canonical form of memory (06 R141). -/
theorem State.writeImage_wf {s : State} {team : Nat} (h : s.mem.wf = true) : (s.writeImage team).mem.wf = true := by
  obtain ⟨hc, hf, hp⟩ := Memory.wf_iff.mp h
  unfold State.writeImage
  cases s.team? team with
  | none => exact h
  | some t =>
    simp only
    split
    · exact h
    · generalize t.imageCells s.aclk = cs
      generalize t.imagePoison = ws
      rw [Memory.wf_iff]
      refine ⟨?_, hf, ?_⟩
      · exact foldl_sparsePut_wf (k := fun (c : Host.Cell) => t.image.1 * 65536 + c.1) (v := fun (c : Host.Cell) => c.2) (sparseFilter_wf _ hc)
      · exact foldl_setInsert_wf (g := fun w => t.image.1 * 65536 / 8 + w) (setFilter_wf _ hp)

theorem State.setTag_wf {s : State} {w : Nat} {b : Bool} (h : s.mem.wf = true) : (s.setTag w b).mem.wf = true :=
  Memory.tag_wf h

end Sys2Proof.Machine
end

