-- ==== Sys2Proof/Laws/State.lean ====
section
/-! SUPPORT. What each update of the state, of a team and of a fibre leaves in every field: one lemma per field per update, true by definition. -/

namespace Sys2Proof.Machine

@[simp] theorem State.updTeam_cur (s : State) (t : Nat) (g : Team → Team) : (s.updTeam t g).cur = s.cur := rfl
@[simp] theorem State.updTeam_agenda (s : State) (t : Nat) (g : Team → Team) : (s.updTeam t g).agenda = s.agenda := rfl
@[simp] theorem State.updTeam_tick (s : State) (t : Nat) (g : Team → Team) : (s.updTeam t g).tick = s.tick := rfl
@[simp] theorem State.updTeam_nextId (s : State) (t : Nat) (g : Team → Team) : (s.updTeam t g).nextId = s.nextId := rfl
@[simp] theorem State.updTeam_aclk (s : State) (t : Nat) (g : Team → Team) : (s.updTeam t g).aclk = s.aclk := rfl
@[simp] theorem State.updTeam_quads (s : State) (t : Nat) (g : Team → Team) : (s.updTeam t g).quads = s.quads := rfl
@[simp] theorem State.updTeam_acted (s : State) (t : Nat) (g : Team → Team) : (s.updTeam t g).acted = s.acted := rfl
@[simp] theorem State.updTeam_teams (s : State) (t : Nat) (g : Team → Team) : (s.updTeam t g).teams = s.teams.map (fun x => if x.id == t then g x else x) := rfl
@[simp] theorem State.updTeam_mem (s : State) (t : Nat) (g : Team → Team) : (s.updTeam t g).mem = s.mem := rfl
@[simp] theorem State.updTeam_coh (s : State) (t : Nat) (g : Team → Team) : (s.updTeam t g).coh = s.coh := rfl
@[simp] theorem State.updTeam_bars (s : State) (t : Nat) (g : Team → Team) : (s.updTeam t g).bars = s.bars := rfl
@[simp] theorem State.updTeam_owned (s : State) (t : Nat) (g : Team → Team) : (s.updTeam t g).owned = s.owned := rfl
@[simp] theorem State.updTeam_cmds (s : State) (t : Nat) (g : Team → Team) : (s.updTeam t g).cmds = s.cmds := rfl
@[simp] theorem State.updTeam_mmas (s : State) (t : Nat) (g : Team → Team) : (s.updTeam t g).mmas = s.mmas := rfl
@[simp] theorem State.updTeam_demands (s : State) (t : Nat) (g : Team → Team) : (s.updTeam t g).demands = s.demands := rfl
@[simp] theorem State.updTeam_convs (s : State) (t : Nat) (g : Team → Team) : (s.updTeam t g).convs = s.convs := rfl
@[simp] theorem State.updTeam_sealing (s : State) (t : Nat) (g : Team → Team) : (s.updTeam t g).sealing = s.sealing := rfl
@[simp] theorem State.updTeam_permitWaits (s : State) (t : Nat) (g : Team → Team) : (s.updTeam t g).permitWaits = s.permitWaits := rfl
@[simp] theorem State.updTeam_reports (s : State) (t : Nat) (g : Team → Team) : (s.updTeam t g).reports = s.reports := rfl
@[simp] theorem State.updTeam_shoot (s : State) (t : Nat) (g : Team → Team) : (s.updTeam t g).shoot = s.shoot := rfl
@[simp] theorem State.updTeam_ctxs (s : State) (t : Nat) (g : Team → Team) : (s.updTeam t g).ctxs = s.ctxs := rfl
@[simp] theorem State.updTeam_insts (s : State) (t : Nat) (g : Team → Team) : (s.updTeam t g).insts = s.insts := rfl
@[simp] theorem State.updTeam_starts (s : State) (t : Nat) (g : Team → Team) : (s.updTeam t g).starts = s.starts := rfl
@[simp] theorem State.updTeam_claims (s : State) (t : Nat) (g : Team → Team) : (s.updTeam t g).claims = s.claims := rfl
@[simp] theorem State.updTeam_near (s : State) (t : Nat) (g : Team → Team) : (s.updTeam t g).near = s.near := rfl
@[simp] theorem State.updTeam_arrivals (s : State) (t : Nat) (g : Team → Team) : (s.updTeam t g).arrivals = s.arrivals := rfl
@[simp] theorem State.updTeam_scanOwed (s : State) (t : Nat) (g : Team → Team) : (s.updTeam t g).scanOwed = s.scanOwed := rfl
@[simp] theorem State.updTeam_sealedRanges (s : State) (t : Nat) (g : Team → Team) : (s.updTeam t g).sealedRanges = s.sealedRanges := rfl
@[simp] theorem State.updTeam_remote (s : State) (t : Nat) (g : Team → Team) : (s.updTeam t g).remote = s.remote := rfl
@[simp] theorem State.updTeam_events (s : State) (t : Nat) (g : Team → Team) : (s.updTeam t g).events = s.events := rfl
@[simp] theorem State.updTeam_eventsLost (s : State) (t : Nat) (g : Team → Team) : (s.updTeam t g).eventsLost = s.eventsLost := rfl
@[simp] theorem State.updTeam_eventSeq (s : State) (t : Nat) (g : Team → Team) : (s.updTeam t g).eventSeq = s.eventSeq := rfl
@[simp] theorem State.updTeam_life (s : State) (t : Nat) (g : Team → Team) : (s.updTeam t g).life = s.life := rfl
@[simp] theorem State.updTeam_thermal (s : State) (t : Nat) (g : Team → Team) : (s.updTeam t g).thermal = s.thermal := rfl
@[simp] theorem State.updTeam_dieStatus (s : State) (t : Nat) (g : Team → Team) : (s.updTeam t g).dieStatus = s.dieStatus := rfl
@[simp] theorem State.updTeam_bootDone (s : State) (t : Nat) (g : Team → Team) : (s.updTeam t g).bootDone = s.bootDone := rfl
@[simp] theorem State.updTeam_grid (s : State) (t : Nat) (g : Team → Team) : (s.updTeam t g).grid = s.grid := rfl
@[simp] theorem State.updTeam_linkDiscard (s : State) (t : Nat) (g : Team → Team) : (s.updTeam t g).linkDiscard = s.linkDiscard := rfl
@[simp] theorem State.updTeam_ports (s : State) (t : Nat) (g : Team → Team) : (s.updTeam t g).ports = s.ports := rfl
@[simp] theorem State.updTeam_reducers (s : State) (t : Nat) (g : Team → Team) : (s.updTeam t g).reducers = s.reducers := rfl
@[simp] theorem State.updTeam_peerWaits (s : State) (t : Nat) (g : Team → Team) : (s.updTeam t g).peerWaits = s.peerWaits := rfl
@[simp] theorem State.updTeam_contribs (s : State) (t : Nat) (g : Team → Team) : (s.updTeam t g).contribs = s.contribs := rfl
@[simp] theorem State.updTeam_opened (s : State) (t : Nat) (g : Team → Team) : (s.updTeam t g).opened = s.opened := rfl
@[simp] theorem State.updTeam_colls (s : State) (t : Nat) (g : Team → Team) : (s.updTeam t g).colls = s.colls := rfl
@[simp] theorem State.updTeam_os (s : State) (t : Nat) (g : Team → Team) : (s.updTeam t g).os = s.os := rfl

@[simp] theorem State.updFibre_cur (s : State) (r : FibreRef) (g : Fibre → Fibre) : (s.updFibre r g).cur = s.cur := rfl
@[simp] theorem State.updFibre_agenda (s : State) (r : FibreRef) (g : Fibre → Fibre) : (s.updFibre r g).agenda = s.agenda := rfl
@[simp] theorem State.updFibre_tick (s : State) (r : FibreRef) (g : Fibre → Fibre) : (s.updFibre r g).tick = s.tick := rfl
@[simp] theorem State.updFibre_nextId (s : State) (r : FibreRef) (g : Fibre → Fibre) : (s.updFibre r g).nextId = s.nextId := rfl
@[simp] theorem State.updFibre_aclk (s : State) (r : FibreRef) (g : Fibre → Fibre) : (s.updFibre r g).aclk = s.aclk := rfl
@[simp] theorem State.updFibre_quads (s : State) (r : FibreRef) (g : Fibre → Fibre) : (s.updFibre r g).quads = s.quads := rfl
@[simp] theorem State.updFibre_acted (s : State) (r : FibreRef) (g : Fibre → Fibre) : (s.updFibre r g).acted = s.acted := rfl
@[simp] theorem State.updFibre_teams (s : State) (r : FibreRef) (g : Fibre → Fibre) : (s.updFibre r g).teams = (s.updTeam r.team (fun t => t.updFibre r.fibre g)).teams := rfl
@[simp] theorem State.updFibre_mem (s : State) (r : FibreRef) (g : Fibre → Fibre) : (s.updFibre r g).mem = s.mem := rfl
@[simp] theorem State.updFibre_coh (s : State) (r : FibreRef) (g : Fibre → Fibre) : (s.updFibre r g).coh = s.coh := rfl
@[simp] theorem State.updFibre_bars (s : State) (r : FibreRef) (g : Fibre → Fibre) : (s.updFibre r g).bars = s.bars := rfl
@[simp] theorem State.updFibre_owned (s : State) (r : FibreRef) (g : Fibre → Fibre) : (s.updFibre r g).owned = s.owned := rfl
@[simp] theorem State.updFibre_cmds (s : State) (r : FibreRef) (g : Fibre → Fibre) : (s.updFibre r g).cmds = s.cmds := rfl
@[simp] theorem State.updFibre_mmas (s : State) (r : FibreRef) (g : Fibre → Fibre) : (s.updFibre r g).mmas = s.mmas := rfl
@[simp] theorem State.updFibre_demands (s : State) (r : FibreRef) (g : Fibre → Fibre) : (s.updFibre r g).demands = s.demands := rfl
@[simp] theorem State.updFibre_convs (s : State) (r : FibreRef) (g : Fibre → Fibre) : (s.updFibre r g).convs = s.convs := rfl
@[simp] theorem State.updFibre_sealing (s : State) (r : FibreRef) (g : Fibre → Fibre) : (s.updFibre r g).sealing = s.sealing := rfl
@[simp] theorem State.updFibre_permitWaits (s : State) (r : FibreRef) (g : Fibre → Fibre) : (s.updFibre r g).permitWaits = s.permitWaits := rfl
@[simp] theorem State.updFibre_reports (s : State) (r : FibreRef) (g : Fibre → Fibre) : (s.updFibre r g).reports = s.reports := rfl
@[simp] theorem State.updFibre_shoot (s : State) (r : FibreRef) (g : Fibre → Fibre) : (s.updFibre r g).shoot = s.shoot := rfl
@[simp] theorem State.updFibre_ctxs (s : State) (r : FibreRef) (g : Fibre → Fibre) : (s.updFibre r g).ctxs = s.ctxs := rfl
@[simp] theorem State.updFibre_insts (s : State) (r : FibreRef) (g : Fibre → Fibre) : (s.updFibre r g).insts = s.insts := rfl
@[simp] theorem State.updFibre_starts (s : State) (r : FibreRef) (g : Fibre → Fibre) : (s.updFibre r g).starts = s.starts := rfl
@[simp] theorem State.updFibre_claims (s : State) (r : FibreRef) (g : Fibre → Fibre) : (s.updFibre r g).claims = s.claims := rfl
@[simp] theorem State.updFibre_near (s : State) (r : FibreRef) (g : Fibre → Fibre) : (s.updFibre r g).near = s.near := rfl
@[simp] theorem State.updFibre_arrivals (s : State) (r : FibreRef) (g : Fibre → Fibre) : (s.updFibre r g).arrivals = s.arrivals := rfl
@[simp] theorem State.updFibre_scanOwed (s : State) (r : FibreRef) (g : Fibre → Fibre) : (s.updFibre r g).scanOwed = s.scanOwed := rfl
@[simp] theorem State.updFibre_sealedRanges (s : State) (r : FibreRef) (g : Fibre → Fibre) : (s.updFibre r g).sealedRanges = s.sealedRanges := rfl
@[simp] theorem State.updFibre_remote (s : State) (r : FibreRef) (g : Fibre → Fibre) : (s.updFibre r g).remote = s.remote := rfl
@[simp] theorem State.updFibre_events (s : State) (r : FibreRef) (g : Fibre → Fibre) : (s.updFibre r g).events = s.events := rfl
@[simp] theorem State.updFibre_eventsLost (s : State) (r : FibreRef) (g : Fibre → Fibre) : (s.updFibre r g).eventsLost = s.eventsLost := rfl
@[simp] theorem State.updFibre_eventSeq (s : State) (r : FibreRef) (g : Fibre → Fibre) : (s.updFibre r g).eventSeq = s.eventSeq := rfl
@[simp] theorem State.updFibre_life (s : State) (r : FibreRef) (g : Fibre → Fibre) : (s.updFibre r g).life = s.life := rfl
@[simp] theorem State.updFibre_thermal (s : State) (r : FibreRef) (g : Fibre → Fibre) : (s.updFibre r g).thermal = s.thermal := rfl
@[simp] theorem State.updFibre_dieStatus (s : State) (r : FibreRef) (g : Fibre → Fibre) : (s.updFibre r g).dieStatus = s.dieStatus := rfl
@[simp] theorem State.updFibre_bootDone (s : State) (r : FibreRef) (g : Fibre → Fibre) : (s.updFibre r g).bootDone = s.bootDone := rfl
@[simp] theorem State.updFibre_grid (s : State) (r : FibreRef) (g : Fibre → Fibre) : (s.updFibre r g).grid = s.grid := rfl
@[simp] theorem State.updFibre_linkDiscard (s : State) (r : FibreRef) (g : Fibre → Fibre) : (s.updFibre r g).linkDiscard = s.linkDiscard := rfl
@[simp] theorem State.updFibre_ports (s : State) (r : FibreRef) (g : Fibre → Fibre) : (s.updFibre r g).ports = s.ports := rfl
@[simp] theorem State.updFibre_reducers (s : State) (r : FibreRef) (g : Fibre → Fibre) : (s.updFibre r g).reducers = s.reducers := rfl
@[simp] theorem State.updFibre_peerWaits (s : State) (r : FibreRef) (g : Fibre → Fibre) : (s.updFibre r g).peerWaits = s.peerWaits := rfl
@[simp] theorem State.updFibre_contribs (s : State) (r : FibreRef) (g : Fibre → Fibre) : (s.updFibre r g).contribs = s.contribs := rfl
@[simp] theorem State.updFibre_opened (s : State) (r : FibreRef) (g : Fibre → Fibre) : (s.updFibre r g).opened = s.opened := rfl
@[simp] theorem State.updFibre_colls (s : State) (r : FibreRef) (g : Fibre → Fibre) : (s.updFibre r g).colls = s.colls := rfl
@[simp] theorem State.updFibre_os (s : State) (r : FibreRef) (g : Fibre → Fibre) : (s.updFibre r g).os = s.os := rfl

@[simp] theorem State.updCtx_cur (s : State) (c : Nat) (g : Context → Context) : (s.updCtx c g).cur = s.cur := rfl
@[simp] theorem State.updCtx_agenda (s : State) (c : Nat) (g : Context → Context) : (s.updCtx c g).agenda = s.agenda := rfl
@[simp] theorem State.updCtx_tick (s : State) (c : Nat) (g : Context → Context) : (s.updCtx c g).tick = s.tick := rfl
@[simp] theorem State.updCtx_nextId (s : State) (c : Nat) (g : Context → Context) : (s.updCtx c g).nextId = s.nextId := rfl
@[simp] theorem State.updCtx_aclk (s : State) (c : Nat) (g : Context → Context) : (s.updCtx c g).aclk = s.aclk := rfl
@[simp] theorem State.updCtx_quads (s : State) (c : Nat) (g : Context → Context) : (s.updCtx c g).quads = s.quads := rfl
@[simp] theorem State.updCtx_acted (s : State) (c : Nat) (g : Context → Context) : (s.updCtx c g).acted = s.acted := rfl
@[simp] theorem State.updCtx_teams (s : State) (c : Nat) (g : Context → Context) : (s.updCtx c g).teams = s.teams := rfl
@[simp] theorem State.updCtx_mem (s : State) (c : Nat) (g : Context → Context) : (s.updCtx c g).mem = s.mem := rfl
@[simp] theorem State.updCtx_coh (s : State) (c : Nat) (g : Context → Context) : (s.updCtx c g).coh = s.coh := rfl
@[simp] theorem State.updCtx_bars (s : State) (c : Nat) (g : Context → Context) : (s.updCtx c g).bars = s.bars := rfl
@[simp] theorem State.updCtx_owned (s : State) (c : Nat) (g : Context → Context) : (s.updCtx c g).owned = s.owned := rfl
@[simp] theorem State.updCtx_cmds (s : State) (c : Nat) (g : Context → Context) : (s.updCtx c g).cmds = s.cmds := rfl
@[simp] theorem State.updCtx_mmas (s : State) (c : Nat) (g : Context → Context) : (s.updCtx c g).mmas = s.mmas := rfl
@[simp] theorem State.updCtx_demands (s : State) (c : Nat) (g : Context → Context) : (s.updCtx c g).demands = s.demands := rfl
@[simp] theorem State.updCtx_convs (s : State) (c : Nat) (g : Context → Context) : (s.updCtx c g).convs = s.convs := rfl
@[simp] theorem State.updCtx_sealing (s : State) (c : Nat) (g : Context → Context) : (s.updCtx c g).sealing = s.sealing := rfl
@[simp] theorem State.updCtx_permitWaits (s : State) (c : Nat) (g : Context → Context) : (s.updCtx c g).permitWaits = s.permitWaits := rfl
@[simp] theorem State.updCtx_reports (s : State) (c : Nat) (g : Context → Context) : (s.updCtx c g).reports = s.reports := rfl
@[simp] theorem State.updCtx_shoot (s : State) (c : Nat) (g : Context → Context) : (s.updCtx c g).shoot = s.shoot := rfl
@[simp] theorem State.updCtx_ctxs (s : State) (c : Nat) (g : Context → Context) : (s.updCtx c g).ctxs = s.ctxs.map (fun x => if x.id == c then g x else x) := rfl
@[simp] theorem State.updCtx_insts (s : State) (c : Nat) (g : Context → Context) : (s.updCtx c g).insts = s.insts := rfl
@[simp] theorem State.updCtx_starts (s : State) (c : Nat) (g : Context → Context) : (s.updCtx c g).starts = s.starts := rfl
@[simp] theorem State.updCtx_claims (s : State) (c : Nat) (g : Context → Context) : (s.updCtx c g).claims = s.claims := rfl
@[simp] theorem State.updCtx_near (s : State) (c : Nat) (g : Context → Context) : (s.updCtx c g).near = s.near := rfl
@[simp] theorem State.updCtx_arrivals (s : State) (c : Nat) (g : Context → Context) : (s.updCtx c g).arrivals = s.arrivals := rfl
@[simp] theorem State.updCtx_scanOwed (s : State) (c : Nat) (g : Context → Context) : (s.updCtx c g).scanOwed = s.scanOwed := rfl
@[simp] theorem State.updCtx_sealedRanges (s : State) (c : Nat) (g : Context → Context) : (s.updCtx c g).sealedRanges = s.sealedRanges := rfl
@[simp] theorem State.updCtx_remote (s : State) (c : Nat) (g : Context → Context) : (s.updCtx c g).remote = s.remote := rfl
@[simp] theorem State.updCtx_events (s : State) (c : Nat) (g : Context → Context) : (s.updCtx c g).events = s.events := rfl
@[simp] theorem State.updCtx_eventsLost (s : State) (c : Nat) (g : Context → Context) : (s.updCtx c g).eventsLost = s.eventsLost := rfl
@[simp] theorem State.updCtx_eventSeq (s : State) (c : Nat) (g : Context → Context) : (s.updCtx c g).eventSeq = s.eventSeq := rfl
@[simp] theorem State.updCtx_life (s : State) (c : Nat) (g : Context → Context) : (s.updCtx c g).life = s.life := rfl
@[simp] theorem State.updCtx_thermal (s : State) (c : Nat) (g : Context → Context) : (s.updCtx c g).thermal = s.thermal := rfl
@[simp] theorem State.updCtx_dieStatus (s : State) (c : Nat) (g : Context → Context) : (s.updCtx c g).dieStatus = s.dieStatus := rfl
@[simp] theorem State.updCtx_bootDone (s : State) (c : Nat) (g : Context → Context) : (s.updCtx c g).bootDone = s.bootDone := rfl
@[simp] theorem State.updCtx_grid (s : State) (c : Nat) (g : Context → Context) : (s.updCtx c g).grid = s.grid := rfl
@[simp] theorem State.updCtx_linkDiscard (s : State) (c : Nat) (g : Context → Context) : (s.updCtx c g).linkDiscard = s.linkDiscard := rfl
@[simp] theorem State.updCtx_ports (s : State) (c : Nat) (g : Context → Context) : (s.updCtx c g).ports = s.ports := rfl
@[simp] theorem State.updCtx_reducers (s : State) (c : Nat) (g : Context → Context) : (s.updCtx c g).reducers = s.reducers := rfl
@[simp] theorem State.updCtx_peerWaits (s : State) (c : Nat) (g : Context → Context) : (s.updCtx c g).peerWaits = s.peerWaits := rfl
@[simp] theorem State.updCtx_contribs (s : State) (c : Nat) (g : Context → Context) : (s.updCtx c g).contribs = s.contribs := rfl
@[simp] theorem State.updCtx_opened (s : State) (c : Nat) (g : Context → Context) : (s.updCtx c g).opened = s.opened := rfl
@[simp] theorem State.updCtx_colls (s : State) (c : Nat) (g : Context → Context) : (s.updCtx c g).colls = s.colls := rfl
@[simp] theorem State.updCtx_os (s : State) (c : Nat) (g : Context → Context) : (s.updCtx c g).os = s.os := rfl

@[simp] theorem State.count_cur (s : State) (c e n : Nat) : (s.count c e n).cur = s.cur := rfl
@[simp] theorem State.count_agenda (s : State) (c e n : Nat) : (s.count c e n).agenda = s.agenda := rfl
@[simp] theorem State.count_tick (s : State) (c e n : Nat) : (s.count c e n).tick = s.tick := rfl
@[simp] theorem State.count_nextId (s : State) (c e n : Nat) : (s.count c e n).nextId = s.nextId := rfl
@[simp] theorem State.count_aclk (s : State) (c e n : Nat) : (s.count c e n).aclk = s.aclk := rfl
@[simp] theorem State.count_quads (s : State) (c e n : Nat) : (s.count c e n).quads = s.quads := rfl
@[simp] theorem State.count_acted (s : State) (c e n : Nat) : (s.count c e n).acted = s.acted := rfl
@[simp] theorem State.count_teams (s : State) (c e n : Nat) : (s.count c e n).teams = s.teams := rfl
@[simp] theorem State.count_mem (s : State) (c e n : Nat) : (s.count c e n).mem = s.mem := rfl
@[simp] theorem State.count_coh (s : State) (c e n : Nat) : (s.count c e n).coh = s.coh := rfl
@[simp] theorem State.count_bars (s : State) (c e n : Nat) : (s.count c e n).bars = s.bars := rfl
@[simp] theorem State.count_owned (s : State) (c e n : Nat) : (s.count c e n).owned = s.owned := rfl
@[simp] theorem State.count_cmds (s : State) (c e n : Nat) : (s.count c e n).cmds = s.cmds := rfl
@[simp] theorem State.count_mmas (s : State) (c e n : Nat) : (s.count c e n).mmas = s.mmas := rfl
@[simp] theorem State.count_demands (s : State) (c e n : Nat) : (s.count c e n).demands = s.demands := rfl
@[simp] theorem State.count_convs (s : State) (c e n : Nat) : (s.count c e n).convs = s.convs := rfl
@[simp] theorem State.count_sealing (s : State) (c e n : Nat) : (s.count c e n).sealing = s.sealing := rfl
@[simp] theorem State.count_permitWaits (s : State) (c e n : Nat) : (s.count c e n).permitWaits = s.permitWaits := rfl
@[simp] theorem State.count_reports (s : State) (c e n : Nat) : (s.count c e n).reports = s.reports := rfl
@[simp] theorem State.count_shoot (s : State) (c e n : Nat) : (s.count c e n).shoot = s.shoot := rfl
@[simp] theorem State.count_insts (s : State) (c e n : Nat) : (s.count c e n).insts = s.insts := rfl
@[simp] theorem State.count_starts (s : State) (c e n : Nat) : (s.count c e n).starts = s.starts := rfl
@[simp] theorem State.count_claims (s : State) (c e n : Nat) : (s.count c e n).claims = s.claims := rfl
@[simp] theorem State.count_near (s : State) (c e n : Nat) : (s.count c e n).near = s.near := rfl
@[simp] theorem State.count_arrivals (s : State) (c e n : Nat) : (s.count c e n).arrivals = s.arrivals := rfl
@[simp] theorem State.count_scanOwed (s : State) (c e n : Nat) : (s.count c e n).scanOwed = s.scanOwed := rfl
@[simp] theorem State.count_sealedRanges (s : State) (c e n : Nat) : (s.count c e n).sealedRanges = s.sealedRanges := rfl
@[simp] theorem State.count_remote (s : State) (c e n : Nat) : (s.count c e n).remote = s.remote := rfl
@[simp] theorem State.count_events (s : State) (c e n : Nat) : (s.count c e n).events = s.events := rfl
@[simp] theorem State.count_eventsLost (s : State) (c e n : Nat) : (s.count c e n).eventsLost = s.eventsLost := rfl
@[simp] theorem State.count_eventSeq (s : State) (c e n : Nat) : (s.count c e n).eventSeq = s.eventSeq := rfl
@[simp] theorem State.count_life (s : State) (c e n : Nat) : (s.count c e n).life = s.life := rfl
@[simp] theorem State.count_thermal (s : State) (c e n : Nat) : (s.count c e n).thermal = s.thermal := rfl
@[simp] theorem State.count_dieStatus (s : State) (c e n : Nat) : (s.count c e n).dieStatus = s.dieStatus := rfl
@[simp] theorem State.count_bootDone (s : State) (c e n : Nat) : (s.count c e n).bootDone = s.bootDone := rfl
@[simp] theorem State.count_grid (s : State) (c e n : Nat) : (s.count c e n).grid = s.grid := rfl
@[simp] theorem State.count_linkDiscard (s : State) (c e n : Nat) : (s.count c e n).linkDiscard = s.linkDiscard := rfl
@[simp] theorem State.count_ports (s : State) (c e n : Nat) : (s.count c e n).ports = s.ports := rfl
@[simp] theorem State.count_reducers (s : State) (c e n : Nat) : (s.count c e n).reducers = s.reducers := rfl
@[simp] theorem State.count_peerWaits (s : State) (c e n : Nat) : (s.count c e n).peerWaits = s.peerWaits := rfl
@[simp] theorem State.count_contribs (s : State) (c e n : Nat) : (s.count c e n).contribs = s.contribs := rfl
@[simp] theorem State.count_opened (s : State) (c e n : Nat) : (s.count c e n).opened = s.opened := rfl
@[simp] theorem State.count_colls (s : State) (c e n : Nat) : (s.count c e n).colls = s.colls := rfl
@[simp] theorem State.count_os (s : State) (c e n : Nat) : (s.count c e n).os = s.os := rfl

@[simp] theorem State.lifeCount_cur (s : State) (e i n : Nat) : (s.lifeCount e i n).cur = s.cur := rfl
@[simp] theorem State.lifeCount_agenda (s : State) (e i n : Nat) : (s.lifeCount e i n).agenda = s.agenda := rfl
@[simp] theorem State.lifeCount_tick (s : State) (e i n : Nat) : (s.lifeCount e i n).tick = s.tick := rfl
@[simp] theorem State.lifeCount_nextId (s : State) (e i n : Nat) : (s.lifeCount e i n).nextId = s.nextId := rfl
@[simp] theorem State.lifeCount_aclk (s : State) (e i n : Nat) : (s.lifeCount e i n).aclk = s.aclk := rfl
@[simp] theorem State.lifeCount_quads (s : State) (e i n : Nat) : (s.lifeCount e i n).quads = s.quads := rfl
@[simp] theorem State.lifeCount_acted (s : State) (e i n : Nat) : (s.lifeCount e i n).acted = s.acted := rfl
@[simp] theorem State.lifeCount_teams (s : State) (e i n : Nat) : (s.lifeCount e i n).teams = s.teams := rfl
@[simp] theorem State.lifeCount_mem (s : State) (e i n : Nat) : (s.lifeCount e i n).mem = s.mem := rfl
@[simp] theorem State.lifeCount_coh (s : State) (e i n : Nat) : (s.lifeCount e i n).coh = s.coh := rfl
@[simp] theorem State.lifeCount_bars (s : State) (e i n : Nat) : (s.lifeCount e i n).bars = s.bars := rfl
@[simp] theorem State.lifeCount_owned (s : State) (e i n : Nat) : (s.lifeCount e i n).owned = s.owned := rfl
@[simp] theorem State.lifeCount_cmds (s : State) (e i n : Nat) : (s.lifeCount e i n).cmds = s.cmds := rfl
@[simp] theorem State.lifeCount_mmas (s : State) (e i n : Nat) : (s.lifeCount e i n).mmas = s.mmas := rfl
@[simp] theorem State.lifeCount_demands (s : State) (e i n : Nat) : (s.lifeCount e i n).demands = s.demands := rfl
@[simp] theorem State.lifeCount_convs (s : State) (e i n : Nat) : (s.lifeCount e i n).convs = s.convs := rfl
@[simp] theorem State.lifeCount_sealing (s : State) (e i n : Nat) : (s.lifeCount e i n).sealing = s.sealing := rfl
@[simp] theorem State.lifeCount_permitWaits (s : State) (e i n : Nat) : (s.lifeCount e i n).permitWaits = s.permitWaits := rfl
@[simp] theorem State.lifeCount_reports (s : State) (e i n : Nat) : (s.lifeCount e i n).reports = s.reports := rfl
@[simp] theorem State.lifeCount_shoot (s : State) (e i n : Nat) : (s.lifeCount e i n).shoot = s.shoot := rfl
@[simp] theorem State.lifeCount_ctxs (s : State) (e i n : Nat) : (s.lifeCount e i n).ctxs = s.ctxs := rfl
@[simp] theorem State.lifeCount_insts (s : State) (e i n : Nat) : (s.lifeCount e i n).insts = s.insts := rfl
@[simp] theorem State.lifeCount_starts (s : State) (e i n : Nat) : (s.lifeCount e i n).starts = s.starts := rfl
@[simp] theorem State.lifeCount_claims (s : State) (e i n : Nat) : (s.lifeCount e i n).claims = s.claims := rfl
@[simp] theorem State.lifeCount_near (s : State) (e i n : Nat) : (s.lifeCount e i n).near = s.near := rfl
@[simp] theorem State.lifeCount_arrivals (s : State) (e i n : Nat) : (s.lifeCount e i n).arrivals = s.arrivals := rfl
@[simp] theorem State.lifeCount_scanOwed (s : State) (e i n : Nat) : (s.lifeCount e i n).scanOwed = s.scanOwed := rfl
@[simp] theorem State.lifeCount_sealedRanges (s : State) (e i n : Nat) : (s.lifeCount e i n).sealedRanges = s.sealedRanges := rfl
@[simp] theorem State.lifeCount_remote (s : State) (e i n : Nat) : (s.lifeCount e i n).remote = s.remote := rfl
@[simp] theorem State.lifeCount_events (s : State) (e i n : Nat) : (s.lifeCount e i n).events = s.events := rfl
@[simp] theorem State.lifeCount_eventsLost (s : State) (e i n : Nat) : (s.lifeCount e i n).eventsLost = s.eventsLost := rfl
@[simp] theorem State.lifeCount_eventSeq (s : State) (e i n : Nat) : (s.lifeCount e i n).eventSeq = s.eventSeq := rfl
@[simp] theorem State.lifeCount_thermal (s : State) (e i n : Nat) : (s.lifeCount e i n).thermal = s.thermal := rfl
@[simp] theorem State.lifeCount_dieStatus (s : State) (e i n : Nat) : (s.lifeCount e i n).dieStatus = s.dieStatus := rfl
@[simp] theorem State.lifeCount_bootDone (s : State) (e i n : Nat) : (s.lifeCount e i n).bootDone = s.bootDone := rfl
@[simp] theorem State.lifeCount_grid (s : State) (e i n : Nat) : (s.lifeCount e i n).grid = s.grid := rfl
@[simp] theorem State.lifeCount_linkDiscard (s : State) (e i n : Nat) : (s.lifeCount e i n).linkDiscard = s.linkDiscard := rfl
@[simp] theorem State.lifeCount_ports (s : State) (e i n : Nat) : (s.lifeCount e i n).ports = s.ports := rfl
@[simp] theorem State.lifeCount_reducers (s : State) (e i n : Nat) : (s.lifeCount e i n).reducers = s.reducers := rfl
@[simp] theorem State.lifeCount_peerWaits (s : State) (e i n : Nat) : (s.lifeCount e i n).peerWaits = s.peerWaits := rfl
@[simp] theorem State.lifeCount_contribs (s : State) (e i n : Nat) : (s.lifeCount e i n).contribs = s.contribs := rfl
@[simp] theorem State.lifeCount_opened (s : State) (e i n : Nat) : (s.lifeCount e i n).opened = s.opened := rfl
@[simp] theorem State.lifeCount_colls (s : State) (e i n : Nat) : (s.lifeCount e i n).colls = s.colls := rfl
@[simp] theorem State.lifeCount_os (s : State) (e i n : Nat) : (s.lifeCount e i n).os = s.os := rfl

@[simp] theorem State.setTag_cur (s : State) (w : Nat) (full : Bool) : (s.setTag w full).cur = s.cur := rfl
@[simp] theorem State.setTag_agenda (s : State) (w : Nat) (full : Bool) : (s.setTag w full).agenda = s.agenda := rfl
@[simp] theorem State.setTag_tick (s : State) (w : Nat) (full : Bool) : (s.setTag w full).tick = s.tick := rfl
@[simp] theorem State.setTag_nextId (s : State) (w : Nat) (full : Bool) : (s.setTag w full).nextId = s.nextId := rfl
@[simp] theorem State.setTag_aclk (s : State) (w : Nat) (full : Bool) : (s.setTag w full).aclk = s.aclk := rfl
@[simp] theorem State.setTag_quads (s : State) (w : Nat) (full : Bool) : (s.setTag w full).quads = s.quads := rfl
@[simp] theorem State.setTag_acted (s : State) (w : Nat) (full : Bool) : (s.setTag w full).acted = s.acted := rfl
@[simp] theorem State.setTag_teams (s : State) (w : Nat) (full : Bool) : (s.setTag w full).teams = s.teams := rfl
@[simp] theorem State.setTag_mem (s : State) (w : Nat) (full : Bool) : (s.setTag w full).mem = { s.mem with full := setPut s.mem.full w full } := rfl
@[simp] theorem State.setTag_coh (s : State) (w : Nat) (full : Bool) : (s.setTag w full).coh = s.coh := rfl
@[simp] theorem State.setTag_bars (s : State) (w : Nat) (full : Bool) : (s.setTag w full).bars = s.bars := rfl
@[simp] theorem State.setTag_owned (s : State) (w : Nat) (full : Bool) : (s.setTag w full).owned = s.owned := rfl
@[simp] theorem State.setTag_cmds (s : State) (w : Nat) (full : Bool) : (s.setTag w full).cmds = s.cmds := rfl
@[simp] theorem State.setTag_mmas (s : State) (w : Nat) (full : Bool) : (s.setTag w full).mmas = s.mmas := rfl
@[simp] theorem State.setTag_demands (s : State) (w : Nat) (full : Bool) : (s.setTag w full).demands = s.demands := rfl
@[simp] theorem State.setTag_convs (s : State) (w : Nat) (full : Bool) : (s.setTag w full).convs = s.convs := rfl
@[simp] theorem State.setTag_sealing (s : State) (w : Nat) (full : Bool) : (s.setTag w full).sealing = s.sealing := rfl
@[simp] theorem State.setTag_permitWaits (s : State) (w : Nat) (full : Bool) : (s.setTag w full).permitWaits = s.permitWaits := rfl
@[simp] theorem State.setTag_reports (s : State) (w : Nat) (full : Bool) : (s.setTag w full).reports = s.reports := rfl
@[simp] theorem State.setTag_shoot (s : State) (w : Nat) (full : Bool) : (s.setTag w full).shoot = s.shoot := rfl
@[simp] theorem State.setTag_ctxs (s : State) (w : Nat) (full : Bool) : (s.setTag w full).ctxs = s.ctxs := rfl
@[simp] theorem State.setTag_insts (s : State) (w : Nat) (full : Bool) : (s.setTag w full).insts = s.insts := rfl
@[simp] theorem State.setTag_starts (s : State) (w : Nat) (full : Bool) : (s.setTag w full).starts = s.starts := rfl
@[simp] theorem State.setTag_claims (s : State) (w : Nat) (full : Bool) : (s.setTag w full).claims = s.claims := rfl
@[simp] theorem State.setTag_near (s : State) (w : Nat) (full : Bool) : (s.setTag w full).near = s.near := rfl
@[simp] theorem State.setTag_arrivals (s : State) (w : Nat) (full : Bool) : (s.setTag w full).arrivals = s.arrivals := rfl
@[simp] theorem State.setTag_scanOwed (s : State) (w : Nat) (full : Bool) : (s.setTag w full).scanOwed = s.scanOwed := rfl
@[simp] theorem State.setTag_sealedRanges (s : State) (w : Nat) (full : Bool) : (s.setTag w full).sealedRanges = s.sealedRanges := rfl
@[simp] theorem State.setTag_remote (s : State) (w : Nat) (full : Bool) : (s.setTag w full).remote = s.remote := rfl
@[simp] theorem State.setTag_events (s : State) (w : Nat) (full : Bool) : (s.setTag w full).events = s.events := rfl
@[simp] theorem State.setTag_eventsLost (s : State) (w : Nat) (full : Bool) : (s.setTag w full).eventsLost = s.eventsLost := rfl
@[simp] theorem State.setTag_eventSeq (s : State) (w : Nat) (full : Bool) : (s.setTag w full).eventSeq = s.eventSeq := rfl
@[simp] theorem State.setTag_life (s : State) (w : Nat) (full : Bool) : (s.setTag w full).life = s.life := rfl
@[simp] theorem State.setTag_thermal (s : State) (w : Nat) (full : Bool) : (s.setTag w full).thermal = s.thermal := rfl
@[simp] theorem State.setTag_dieStatus (s : State) (w : Nat) (full : Bool) : (s.setTag w full).dieStatus = s.dieStatus := rfl
@[simp] theorem State.setTag_bootDone (s : State) (w : Nat) (full : Bool) : (s.setTag w full).bootDone = s.bootDone := rfl
@[simp] theorem State.setTag_grid (s : State) (w : Nat) (full : Bool) : (s.setTag w full).grid = s.grid := rfl
@[simp] theorem State.setTag_linkDiscard (s : State) (w : Nat) (full : Bool) : (s.setTag w full).linkDiscard = s.linkDiscard := rfl
@[simp] theorem State.setTag_ports (s : State) (w : Nat) (full : Bool) : (s.setTag w full).ports = s.ports := rfl
@[simp] theorem State.setTag_reducers (s : State) (w : Nat) (full : Bool) : (s.setTag w full).reducers = s.reducers := rfl
@[simp] theorem State.setTag_peerWaits (s : State) (w : Nat) (full : Bool) : (s.setTag w full).peerWaits = s.peerWaits := rfl
@[simp] theorem State.setTag_contribs (s : State) (w : Nat) (full : Bool) : (s.setTag w full).contribs = s.contribs := rfl
@[simp] theorem State.setTag_opened (s : State) (w : Nat) (full : Bool) : (s.setTag w full).opened = s.opened := rfl
@[simp] theorem State.setTag_colls (s : State) (w : Nat) (full : Bool) : (s.setTag w full).colls = s.colls := rfl
@[simp] theorem State.setTag_os (s : State) (w : Nat) (full : Bool) : (s.setTag w full).os = s.os := rfl

@[simp] theorem State.after_cur (s : State) : (s.after).cur = s.cur := rfl
@[simp] theorem State.after_agenda (s : State) : (s.after).agenda = s.agenda := rfl
@[simp] theorem State.after_tick (s : State) : (s.after).tick = s.tick + 1 := rfl
@[simp] theorem State.after_nextId (s : State) : (s.after).nextId = s.nextId := rfl
@[simp] theorem State.after_aclk (s : State) : (s.after).aclk = if s.quads.any (fun q => !q.group.isEmpty) then s.aclk else s.aclk + Config.elapsed s.tick := rfl
@[simp] theorem State.after_quads (s : State) : (s.after).quads = s.quads := rfl
@[simp] theorem State.after_acted (s : State) : (s.after).acted = s.acted := rfl
@[simp] theorem State.after_teams (s : State) : (s.after).teams = s.teams := rfl
@[simp] theorem State.after_mem (s : State) : (s.after).mem = s.mem := rfl
@[simp] theorem State.after_coh (s : State) : (s.after).coh = s.coh := rfl
@[simp] theorem State.after_bars (s : State) : (s.after).bars = s.bars := rfl
@[simp] theorem State.after_owned (s : State) : (s.after).owned = s.owned := rfl
@[simp] theorem State.after_cmds (s : State) : (s.after).cmds = s.cmds := rfl
@[simp] theorem State.after_mmas (s : State) : (s.after).mmas = s.mmas := rfl
@[simp] theorem State.after_demands (s : State) : (s.after).demands = s.demands := rfl
@[simp] theorem State.after_convs (s : State) : (s.after).convs = s.convs := rfl
@[simp] theorem State.after_sealing (s : State) : (s.after).sealing = s.sealing := rfl
@[simp] theorem State.after_permitWaits (s : State) : (s.after).permitWaits = s.permitWaits := rfl
@[simp] theorem State.after_reports (s : State) : (s.after).reports = s.reports := rfl
@[simp] theorem State.after_shoot (s : State) : (s.after).shoot = s.shoot := rfl
@[simp] theorem State.after_ctxs (s : State) : (s.after).ctxs = s.ctxs := rfl
@[simp] theorem State.after_insts (s : State) : (s.after).insts = s.insts := rfl
@[simp] theorem State.after_starts (s : State) : (s.after).starts = s.starts := rfl
@[simp] theorem State.after_claims (s : State) : (s.after).claims = s.claims := rfl
@[simp] theorem State.after_near (s : State) : (s.after).near = s.near := rfl
@[simp] theorem State.after_arrivals (s : State) : (s.after).arrivals = s.arrivals := rfl
@[simp] theorem State.after_scanOwed (s : State) : (s.after).scanOwed = s.scanOwed := rfl
@[simp] theorem State.after_sealedRanges (s : State) : (s.after).sealedRanges = s.sealedRanges := rfl
@[simp] theorem State.after_remote (s : State) : (s.after).remote = s.remote := rfl
@[simp] theorem State.after_events (s : State) : (s.after).events = s.events := rfl
@[simp] theorem State.after_eventsLost (s : State) : (s.after).eventsLost = s.eventsLost := rfl
@[simp] theorem State.after_eventSeq (s : State) : (s.after).eventSeq = s.eventSeq := rfl
@[simp] theorem State.after_life (s : State) : (s.after).life = s.life := rfl
@[simp] theorem State.after_thermal (s : State) : (s.after).thermal = s.thermal := rfl
@[simp] theorem State.after_dieStatus (s : State) : (s.after).dieStatus = s.dieStatus := rfl
@[simp] theorem State.after_bootDone (s : State) : (s.after).bootDone = s.bootDone := rfl
@[simp] theorem State.after_grid (s : State) : (s.after).grid = s.grid := rfl
@[simp] theorem State.after_linkDiscard (s : State) : (s.after).linkDiscard = s.linkDiscard := rfl
@[simp] theorem State.after_ports (s : State) : (s.after).ports = s.ports := rfl
@[simp] theorem State.after_reducers (s : State) : (s.after).reducers = s.reducers := rfl
@[simp] theorem State.after_peerWaits (s : State) : (s.after).peerWaits = s.peerWaits := rfl
@[simp] theorem State.after_contribs (s : State) : (s.after).contribs = s.contribs := rfl
@[simp] theorem State.after_opened (s : State) : (s.after).opened = s.opened := rfl
@[simp] theorem State.after_colls (s : State) : (s.after).colls = s.colls := rfl
@[simp] theorem State.after_os (s : State) : (s.after).os = s.os := rfl

@[simp] theorem State.withFetchWord_cur (s : State) (nbits w : Nat) : (s.withFetchWord nbits w).cur = some ⟨0, 0⟩ := rfl
@[simp] theorem State.withFetchWord_agenda (s : State) (nbits w : Nat) : (s.withFetchWord nbits w).agenda = [.fibre ⟨0, 0⟩] := rfl
@[simp] theorem State.withFetchWord_tick (s : State) (nbits w : Nat) : (s.withFetchWord nbits w).tick = s.tick := rfl
@[simp] theorem State.withFetchWord_nextId (s : State) (nbits w : Nat) : (s.withFetchWord nbits w).nextId = s.nextId + 1 := rfl
@[simp] theorem State.withFetchWord_aclk (s : State) (nbits w : Nat) : (s.withFetchWord nbits w).aclk = s.aclk := rfl
@[simp] theorem State.withFetchWord_quads (s : State) (nbits w : Nat) : (s.withFetchWord nbits w).quads = s.quads := rfl
@[simp] theorem State.withFetchWord_acted (s : State) (nbits w : Nat) : (s.withFetchWord nbits w).acted = s.acted := rfl
@[simp] theorem State.withFetchWord_teams (s : State) (nbits w : Nat) : (s.withFetchWord nbits w).teams = [probeTeam (lengthOf ((wordsOfBytes (tableBytes nbits w)).headD 0)) s.aclk] := rfl
@[simp] theorem State.withFetchWord_coh (s : State) (nbits w : Nat) : (s.withFetchWord nbits w).coh = s.coh := rfl
@[simp] theorem State.withFetchWord_bars (s : State) (nbits w : Nat) : (s.withFetchWord nbits w).bars = s.bars := rfl
@[simp] theorem State.withFetchWord_owned (s : State) (nbits w : Nat) : (s.withFetchWord nbits w).owned = s.owned := rfl
@[simp] theorem State.withFetchWord_cmds (s : State) (nbits w : Nat) : (s.withFetchWord nbits w).cmds = s.cmds := rfl
@[simp] theorem State.withFetchWord_mmas (s : State) (nbits w : Nat) : (s.withFetchWord nbits w).mmas = s.mmas := rfl
@[simp] theorem State.withFetchWord_demands (s : State) (nbits w : Nat) : (s.withFetchWord nbits w).demands = s.demands := rfl
@[simp] theorem State.withFetchWord_convs (s : State) (nbits w : Nat) : (s.withFetchWord nbits w).convs = s.convs := rfl
@[simp] theorem State.withFetchWord_sealing (s : State) (nbits w : Nat) : (s.withFetchWord nbits w).sealing = s.sealing := rfl
@[simp] theorem State.withFetchWord_permitWaits (s : State) (nbits w : Nat) : (s.withFetchWord nbits w).permitWaits = s.permitWaits := rfl
@[simp] theorem State.withFetchWord_reports (s : State) (nbits w : Nat) : (s.withFetchWord nbits w).reports = s.reports := rfl
@[simp] theorem State.withFetchWord_shoot (s : State) (nbits w : Nat) : (s.withFetchWord nbits w).shoot = s.shoot := rfl
@[simp] theorem State.withFetchWord_ctxs (s : State) (nbits w : Nat) : (s.withFetchWord nbits w).ctxs = [Context.blank 0 0x20000] := rfl
@[simp] theorem State.withFetchWord_insts (s : State) (nbits w : Nat) : (s.withFetchWord nbits w).insts = s.insts := rfl
@[simp] theorem State.withFetchWord_starts (s : State) (nbits w : Nat) : (s.withFetchWord nbits w).starts = s.starts := rfl
@[simp] theorem State.withFetchWord_claims (s : State) (nbits w : Nat) : (s.withFetchWord nbits w).claims = s.claims := rfl
@[simp] theorem State.withFetchWord_near (s : State) (nbits w : Nat) : (s.withFetchWord nbits w).near = s.near := rfl
@[simp] theorem State.withFetchWord_arrivals (s : State) (nbits w : Nat) : (s.withFetchWord nbits w).arrivals = s.arrivals := rfl
@[simp] theorem State.withFetchWord_scanOwed (s : State) (nbits w : Nat) : (s.withFetchWord nbits w).scanOwed = s.scanOwed := rfl
@[simp] theorem State.withFetchWord_sealedRanges (s : State) (nbits w : Nat) : (s.withFetchWord nbits w).sealedRanges = s.sealedRanges := rfl
@[simp] theorem State.withFetchWord_remote (s : State) (nbits w : Nat) : (s.withFetchWord nbits w).remote = s.remote := rfl
@[simp] theorem State.withFetchWord_events (s : State) (nbits w : Nat) : (s.withFetchWord nbits w).events = s.events := rfl
@[simp] theorem State.withFetchWord_eventsLost (s : State) (nbits w : Nat) : (s.withFetchWord nbits w).eventsLost = s.eventsLost := rfl
@[simp] theorem State.withFetchWord_eventSeq (s : State) (nbits w : Nat) : (s.withFetchWord nbits w).eventSeq = s.eventSeq := rfl
@[simp] theorem State.withFetchWord_life (s : State) (nbits w : Nat) : (s.withFetchWord nbits w).life = s.life := rfl
@[simp] theorem State.withFetchWord_thermal (s : State) (nbits w : Nat) : (s.withFetchWord nbits w).thermal = s.thermal := rfl
@[simp] theorem State.withFetchWord_dieStatus (s : State) (nbits w : Nat) : (s.withFetchWord nbits w).dieStatus = s.dieStatus := rfl
@[simp] theorem State.withFetchWord_bootDone (s : State) (nbits w : Nat) : (s.withFetchWord nbits w).bootDone = true := rfl
@[simp] theorem State.withFetchWord_grid (s : State) (nbits w : Nat) : (s.withFetchWord nbits w).grid = s.grid := rfl
@[simp] theorem State.withFetchWord_linkDiscard (s : State) (nbits w : Nat) : (s.withFetchWord nbits w).linkDiscard = s.linkDiscard := rfl
@[simp] theorem State.withFetchWord_ports (s : State) (nbits w : Nat) : (s.withFetchWord nbits w).ports = s.ports := rfl
@[simp] theorem State.withFetchWord_reducers (s : State) (nbits w : Nat) : (s.withFetchWord nbits w).reducers = s.reducers := rfl
@[simp] theorem State.withFetchWord_peerWaits (s : State) (nbits w : Nat) : (s.withFetchWord nbits w).peerWaits = s.peerWaits := rfl
@[simp] theorem State.withFetchWord_contribs (s : State) (nbits w : Nat) : (s.withFetchWord nbits w).contribs = s.contribs := rfl
@[simp] theorem State.withFetchWord_opened (s : State) (nbits w : Nat) : (s.withFetchWord nbits w).opened = s.opened := rfl
@[simp] theorem State.withFetchWord_colls (s : State) (nbits w : Nat) : (s.withFetchWord nbits w).colls = s.colls := rfl
@[simp] theorem State.withFetchWord_os (s : State) (nbits w : Nat) : (s.withFetchWord nbits w).os = s.os := rfl

@[simp] theorem Team.updFibre_id (t : Team) (i : Nat) (g : Fibre → Fibre) : (t.updFibre i g).id = t.id := rfl
@[simp] theorem Team.updFibre_ctx (t : Team) (i : Nat) (g : Fibre → Fibre) : (t.updFibre i g).ctx = t.ctx := rfl
@[simp] theorem Team.updFibre_job (t : Team) (i : Nat) (g : Fibre → Fibre) : (t.updFibre i g).job = t.job := rfl
@[simp] theorem Team.updFibre_jobTag (t : Team) (i : Nat) (g : Fibre → Fibre) : (t.updFibre i g).jobTag = t.jobTag := rfl
@[simp] theorem Team.updFibre_linear (t : Team) (i : Nat) (g : Fibre → Fibre) : (t.updFibre i g).linear = t.linear := rfl
@[simp] theorem Team.updFibre_cluster (t : Team) (i : Nat) (g : Fibre → Fibre) : (t.updFibre i g).cluster = t.cluster := rfl
@[simp] theorem Team.updFibre_member (t : Team) (i : Nat) (g : Fibre → Fibre) : (t.updFibre i g).member = t.member := rfl
@[simp] theorem Team.updFibre_state (t : Team) (i : Nat) (g : Fibre → Fibre) : (t.updFibre i g).state = t.state := rfl
@[simp] theorem Team.updFibre_core (t : Team) (i : Nat) (g : Fibre → Fibre) : (t.updFibre i g).core = t.core := rfl
@[simp] theorem Team.updFibre_slot (t : Team) (i : Nat) (g : Fibre → Fibre) : (t.updFibre i g).slot = t.slot := rfl
@[simp] theorem Team.updFibre_kernel (t : Team) (i : Nat) (g : Fibre → Fibre) : (t.updFibre i g).kernel = t.kernel := rfl
@[simp] theorem Team.updFibre_reserved (t : Team) (i : Nat) (g : Fibre → Fibre) : (t.updFibre i g).reserved = t.reserved := rfl
@[simp] theorem Team.updFibre_alloc (t : Team) (i : Nat) (g : Fibre → Fibre) : (t.updFibre i g).alloc = t.alloc := rfl
@[simp] theorem Team.updFibre_scratch (t : Team) (i : Nat) (g : Fibre → Fibre) : (t.updFibre i g).scratch = t.scratch := rfl
@[simp] theorem Team.updFibre_scratchPoison (t : Team) (i : Nat) (g : Fibre → Fibre) : (t.updFibre i g).scratchPoison = t.scratchPoison := rfl
@[simp] theorem Team.updFibre_acc (t : Team) (i : Nat) (g : Fibre → Fibre) : (t.updFibre i g).acc = t.acc := rfl
@[simp] theorem Team.updFibre_accPoison (t : Team) (i : Nat) (g : Fibre → Fibre) : (t.updFibre i g).accPoison = t.accPoison := rfl
@[simp] theorem Team.updFibre_metaMem (t : Team) (i : Nat) (g : Fibre → Fibre) : (t.updFibre i g).metaMem = t.metaMem := rfl
@[simp] theorem Team.updFibre_metaPoison (t : Team) (i : Nat) (g : Fibre → Fibre) : (t.updFibre i g).metaPoison = t.metaPoison := rfl
@[simp] theorem Team.updFibre_cv (t : Team) (i : Nat) (g : Fibre → Fibre) : (t.updFibre i g).cv = t.cv := rfl
@[simp] theorem Team.updFibre_bins (t : Team) (i : Nat) (g : Fibre → Fibre) : (t.updFibre i g).bins = t.bins := rfl
@[simp] theorem Team.updFibre_binQuota (t : Team) (i : Nat) (g : Fibre → Fibre) : (t.updFibre i g).binQuota = t.binQuota := rfl
@[simp] theorem Team.updFibre_reorder (t : Team) (i : Nat) (g : Fibre → Fibre) : (t.updFibre i g).reorder = t.reorder := rfl
@[simp] theorem Team.updFibre_reorderSince (t : Team) (i : Nat) (g : Fibre → Fibre) : (t.updFibre i g).reorderSince = t.reorderSince := rfl
@[simp] theorem Team.updFibre_resAcc (t : Team) (i : Nat) (g : Fibre → Fibre) : (t.updFibre i g).resAcc = t.resAcc := rfl
@[simp] theorem Team.updFibre_resSince (t : Team) (i : Nat) (g : Fibre → Fibre) : (t.updFibre i g).resSince = t.resSince := rfl
@[simp] theorem Team.updFibre_cls (t : Team) (i : Nat) (g : Fibre → Fibre) : (t.updFibre i g).cls = t.cls := rfl
@[simp] theorem Team.updFibre_jobCls (t : Team) (i : Nat) (g : Fibre → Fibre) : (t.updFibre i g).jobCls = t.jobCls := rfl
@[simp] theorem Team.updFibre_deadline (t : Team) (i : Nat) (g : Fibre → Fibre) : (t.updFibre i g).deadline = t.deadline := rfl
@[simp] theorem Team.updFibre_readyAt (t : Team) (i : Nat) (g : Fibre → Fibre) : (t.updFibre i g).readyAt = t.readyAt := rfl
@[simp] theorem Team.updFibre_slice (t : Team) (i : Nat) (g : Fibre → Fibre) : (t.updFibre i g).slice = t.slice := rfl
@[simp] theorem Team.updFibre_budgetEnd (t : Team) (i : Nat) (g : Fibre → Fibre) : (t.updFibre i g).budgetEnd = t.budgetEnd := rfl
@[simp] theorem Team.updFibre_budgetOut (t : Team) (i : Nat) (g : Fibre → Fibre) : (t.updFibre i g).budgetOut = t.budgetOut := rfl
@[simp] theorem Team.updFibre_preempt (t : Team) (i : Nat) (g : Fibre → Fibre) : (t.updFibre i g).preempt = t.preempt := rfl
@[simp] theorem Team.updFibre_budgetTrap (t : Team) (i : Nat) (g : Fibre → Fibre) : (t.updFibre i g).budgetTrap = t.budgetTrap := rfl
@[simp] theorem Team.updFibre_preemptTrap (t : Team) (i : Nat) (g : Fibre → Fibre) : (t.updFibre i g).preemptTrap = t.preemptTrap := rfl
@[simp] theorem Team.updFibre_forced (t : Team) (i : Nat) (g : Fibre → Fibre) : (t.updFibre i g).forced = t.forced := rfl
@[simp] theorem Team.updFibre_keepSlice (t : Team) (i : Nat) (g : Fibre → Fibre) : (t.updFibre i g).keepSlice = t.keepSlice := rfl
@[simp] theorem Team.updFibre_image (t : Team) (i : Nat) (g : Fibre → Fibre) : (t.updFibre i g).image = t.image := rfl
@[simp] theorem Team.updFibre_redirect (t : Team) (i : Nat) (g : Fibre → Fibre) : (t.updFibre i g).redirect = t.redirect := rfl
@[simp] theorem Team.updFibre_redirected (t : Team) (i : Nat) (g : Fibre → Fibre) : (t.updFibre i g).redirected = t.redirected := rfl
@[simp] theorem Team.updFibre_fibres (t : Team) (i : Nat) (g : Fibre → Fibre) : (t.updFibre i g).fibres = t.fibres.map (fun x => if x.idx == i then g x else x) := rfl

@[simp] theorem Fibre.setReg_idx (f : Fibre) (n : Nat) (v : Dword) : (f.setReg n v).idx = f.idx := rfl
@[simp] theorem Fibre.setReg_status (f : Fibre) (n : Nat) (v : Dword) : (f.setReg n v).status = f.status := rfl
@[simp] theorem Fibre.setReg_pc (f : Fibre) (n : Nat) (v : Dword) : (f.setReg n v).pc = f.pc := rfl
@[simp] theorem Fibre.setReg_regs (f : Fibre) (n : Nat) (v : Dword) : (f.setReg n v).regs = f.regs.set n v := rfl
@[simp] theorem Fibre.setReg_spoilt (f : Fibre) (n : Nat) (v : Dword) : (f.setReg n v).spoilt = setErase f.spoilt n := rfl
@[simp] theorem Fibre.setReg_pred (f : Fibre) (n : Nat) (v : Dword) : (f.setReg n v).pred = f.pred := rfl
@[simp] theorem Fibre.setReg_lk (f : Fibre) (n : Nat) (v : Dword) : (f.setReg n v).lk = f.lk := rfl
@[simp] theorem Fibre.setReg_csp (f : Fibre) (n : Nat) (v : Dword) : (f.setReg n v).csp = f.csp := rfl
@[simp] theorem Fibre.setReg_cf (f : Fibre) (n : Nat) (v : Dword) : (f.setReg n v).cf = f.cf := rfl
@[simp] theorem Fibre.setReg_fmode (f : Fibre) (n : Nat) (v : Dword) : (f.setReg n v).fmode = f.fmode := rfl
@[simp] theorem Fibre.setReg_fflags (f : Fibre) (n : Nat) (v : Dword) : (f.setReg n v).fflags = f.fflags := rfl
@[simp] theorem Fibre.setReg_srseed (f : Fibre) (n : Nat) (v : Dword) : (f.setReg n v).srseed = f.srseed := rfl
@[simp] theorem Fibre.setReg_clause (f : Fibre) (n : Nat) (v : Dword) : (f.setReg n v).clause = f.clause := rfl
@[simp] theorem Fibre.setReg_ll (f : Fibre) (n : Nat) (v : Dword) : (f.setReg n v).ll = f.ll := rfl
@[simp] theorem Fibre.setReg_sq (f : Fibre) (n : Nat) (v : Dword) : (f.setReg n v).sq = f.sq := rfl
@[simp] theorem Fibre.setReg_seq (f : Fibre) (n : Nat) (v : Dword) : (f.setReg n v).seq = f.seq := rfl
@[simp] theorem Fibre.setReg_faults (f : Fibre) (n : Nat) (v : Dword) : (f.setReg n v).faults = f.faults := rfl
@[simp] theorem Fibre.setReg_handler (f : Fibre) (n : Nat) (v : Dword) : (f.setReg n v).handler = f.handler := rfl
@[simp] theorem Fibre.setReg_entering (f : Fibre) (n : Nat) (v : Dword) : (f.setReg n v).entering = f.entering := rfl
@[simp] theorem Fibre.setReg_hostFail (f : Fibre) (n : Nat) (v : Dword) : (f.setReg n v).hostFail = f.hostFail := rfl
@[simp] theorem Fibre.setReg_fences (f : Fibre) (n : Nat) (v : Dword) : (f.setReg n v).fences = f.fences := rfl
@[simp] theorem Fibre.setReg_pfxs (f : Fibre) (n : Nat) (v : Dword) : (f.setReg n v).pfxs = f.pfxs := rfl
@[simp] theorem Fibre.setReg_firstClause (f : Fibre) (n : Nat) (v : Dword) : (f.setReg n v).firstClause = f.firstClause := rfl
@[simp] theorem Fibre.setReg_stopped (f : Fibre) (n : Nat) (v : Dword) : (f.setReg n v).stopped = f.stopped := rfl
@[simp] theorem Fibre.setReg_away (f : Fibre) (n : Nat) (v : Dword) : (f.setReg n v).away = f.away := rfl
@[simp] theorem Fibre.setReg_since (f : Fibre) (n : Nat) (v : Dword) : (f.setReg n v).since = f.since := rfl
@[simp] theorem Fibre.setReg_held (f : Fibre) (n : Nat) (v : Dword) : (f.setReg n v).held = f.held := rfl

@[simp] theorem Fibre.pass_idx (f : Fibre) (len : Nat) (long : Bool) (aclk : Nat) : (f.pass len long aclk).idx = f.idx := rfl
@[simp] theorem Fibre.pass_status (f : Fibre) (len : Nat) (long : Bool) (aclk : Nat) : (f.pass len long aclk).status = f.status := rfl
@[simp] theorem Fibre.pass_pc (f : Fibre) (len : Nat) (long : Bool) (aclk : Nat) : (f.pass len long aclk).pc = BitVec.ofNat 52 (f.pc.toNat + 4 * len) := rfl
@[simp] theorem Fibre.pass_regs (f : Fibre) (len : Nat) (long : Bool) (aclk : Nat) : (f.pass len long aclk).regs = f.regs := rfl
@[simp] theorem Fibre.pass_spoilt (f : Fibre) (len : Nat) (long : Bool) (aclk : Nat) : (f.pass len long aclk).spoilt = f.spoilt := rfl
@[simp] theorem Fibre.pass_pred (f : Fibre) (len : Nat) (long : Bool) (aclk : Nat) : (f.pass len long aclk).pred = f.pred := rfl
@[simp] theorem Fibre.pass_lk (f : Fibre) (len : Nat) (long : Bool) (aclk : Nat) : (f.pass len long aclk).lk = f.lk := rfl
@[simp] theorem Fibre.pass_csp (f : Fibre) (len : Nat) (long : Bool) (aclk : Nat) : (f.pass len long aclk).csp = f.csp := rfl
@[simp] theorem Fibre.pass_cf (f : Fibre) (len : Nat) (long : Bool) (aclk : Nat) : (f.pass len long aclk).cf = f.cf := rfl
@[simp] theorem Fibre.pass_fmode (f : Fibre) (len : Nat) (long : Bool) (aclk : Nat) : (f.pass len long aclk).fmode = f.fmode := rfl
@[simp] theorem Fibre.pass_fflags (f : Fibre) (len : Nat) (long : Bool) (aclk : Nat) : (f.pass len long aclk).fflags = f.fflags := rfl
@[simp] theorem Fibre.pass_srseed (f : Fibre) (len : Nat) (long : Bool) (aclk : Nat) : (f.pass len long aclk).srseed = f.srseed := rfl
@[simp] theorem Fibre.pass_clause (f : Fibre) (len : Nat) (long : Bool) (aclk : Nat) : (f.pass len long aclk).clause = f.clause.bind (fun c => if c.after ≤ f.pc.toNat + 4 * len then none else some (c.past long)) := rfl
@[simp] theorem Fibre.pass_ll (f : Fibre) (len : Nat) (long : Bool) (aclk : Nat) : (f.pass len long aclk).ll = f.ll := rfl
@[simp] theorem Fibre.pass_sq (f : Fibre) (len : Nat) (long : Bool) (aclk : Nat) : (f.pass len long aclk).sq = f.sq := rfl
@[simp] theorem Fibre.pass_seq (f : Fibre) (len : Nat) (long : Bool) (aclk : Nat) : (f.pass len long aclk).seq = f.seq := rfl
@[simp] theorem Fibre.pass_faults (f : Fibre) (len : Nat) (long : Bool) (aclk : Nat) : (f.pass len long aclk).faults = f.faults := rfl
@[simp] theorem Fibre.pass_handler (f : Fibre) (len : Nat) (long : Bool) (aclk : Nat) : (f.pass len long aclk).handler = f.handler := rfl
@[simp] theorem Fibre.pass_entering (f : Fibre) (len : Nat) (long : Bool) (aclk : Nat) : (f.pass len long aclk).entering = f.entering := rfl
@[simp] theorem Fibre.pass_hostFail (f : Fibre) (len : Nat) (long : Bool) (aclk : Nat) : (f.pass len long aclk).hostFail = f.hostFail := rfl
@[simp] theorem Fibre.pass_fences (f : Fibre) (len : Nat) (long : Bool) (aclk : Nat) : (f.pass len long aclk).fences = f.fences := rfl
@[simp] theorem Fibre.pass_pfxs (f : Fibre) (len : Nat) (long : Bool) (aclk : Nat) : (f.pass len long aclk).pfxs = f.pfxs := rfl
@[simp] theorem Fibre.pass_firstClause (f : Fibre) (len : Nat) (long : Bool) (aclk : Nat) : (f.pass len long aclk).firstClause = f.firstClause := rfl
@[simp] theorem Fibre.pass_stopped (f : Fibre) (len : Nat) (long : Bool) (aclk : Nat) : (f.pass len long aclk).stopped = f.stopped := rfl
@[simp] theorem Fibre.pass_away (f : Fibre) (len : Nat) (long : Bool) (aclk : Nat) : (f.pass len long aclk).away = f.away := rfl
@[simp] theorem Fibre.pass_since (f : Fibre) (len : Nat) (long : Bool) (aclk : Nat) : (f.pass len long aclk).since = aclk := rfl
@[simp] theorem Fibre.pass_held (f : Fibre) (len : Nat) (long : Bool) (aclk : Nat) : (f.pass len long aclk).held = f.held := rfl

@[simp] theorem Fibre.goto_idx (f : Fibre) (target aclk : Nat) : (f.goto target aclk).idx = f.idx := rfl
@[simp] theorem Fibre.goto_status (f : Fibre) (target aclk : Nat) : (f.goto target aclk).status = f.status := rfl
@[simp] theorem Fibre.goto_pc (f : Fibre) (target aclk : Nat) : (f.goto target aclk).pc = BitVec.ofNat 52 target := rfl
@[simp] theorem Fibre.goto_regs (f : Fibre) (target aclk : Nat) : (f.goto target aclk).regs = f.regs := rfl
@[simp] theorem Fibre.goto_spoilt (f : Fibre) (target aclk : Nat) : (f.goto target aclk).spoilt = f.spoilt := rfl
@[simp] theorem Fibre.goto_pred (f : Fibre) (target aclk : Nat) : (f.goto target aclk).pred = f.pred := rfl
@[simp] theorem Fibre.goto_lk (f : Fibre) (target aclk : Nat) : (f.goto target aclk).lk = f.lk := rfl
@[simp] theorem Fibre.goto_csp (f : Fibre) (target aclk : Nat) : (f.goto target aclk).csp = f.csp := rfl
@[simp] theorem Fibre.goto_cf (f : Fibre) (target aclk : Nat) : (f.goto target aclk).cf = f.cf := rfl
@[simp] theorem Fibre.goto_fmode (f : Fibre) (target aclk : Nat) : (f.goto target aclk).fmode = f.fmode := rfl
@[simp] theorem Fibre.goto_fflags (f : Fibre) (target aclk : Nat) : (f.goto target aclk).fflags = f.fflags := rfl
@[simp] theorem Fibre.goto_srseed (f : Fibre) (target aclk : Nat) : (f.goto target aclk).srseed = f.srseed := rfl
@[simp] theorem Fibre.goto_clause (f : Fibre) (target aclk : Nat) : (f.goto target aclk).clause = none := rfl
@[simp] theorem Fibre.goto_ll (f : Fibre) (target aclk : Nat) : (f.goto target aclk).ll = f.ll := rfl
@[simp] theorem Fibre.goto_sq (f : Fibre) (target aclk : Nat) : (f.goto target aclk).sq = f.sq := rfl
@[simp] theorem Fibre.goto_seq (f : Fibre) (target aclk : Nat) : (f.goto target aclk).seq = f.seq := rfl
@[simp] theorem Fibre.goto_faults (f : Fibre) (target aclk : Nat) : (f.goto target aclk).faults = f.faults := rfl
@[simp] theorem Fibre.goto_handler (f : Fibre) (target aclk : Nat) : (f.goto target aclk).handler = f.handler := rfl
@[simp] theorem Fibre.goto_entering (f : Fibre) (target aclk : Nat) : (f.goto target aclk).entering = f.entering := rfl
@[simp] theorem Fibre.goto_hostFail (f : Fibre) (target aclk : Nat) : (f.goto target aclk).hostFail = f.hostFail := rfl
@[simp] theorem Fibre.goto_fences (f : Fibre) (target aclk : Nat) : (f.goto target aclk).fences = f.fences := rfl
@[simp] theorem Fibre.goto_pfxs (f : Fibre) (target aclk : Nat) : (f.goto target aclk).pfxs = f.pfxs := rfl
@[simp] theorem Fibre.goto_firstClause (f : Fibre) (target aclk : Nat) : (f.goto target aclk).firstClause = f.firstClause := rfl
@[simp] theorem Fibre.goto_stopped (f : Fibre) (target aclk : Nat) : (f.goto target aclk).stopped = f.stopped := rfl
@[simp] theorem Fibre.goto_away (f : Fibre) (target aclk : Nat) : (f.goto target aclk).away = f.away := rfl
@[simp] theorem Fibre.goto_since (f : Fibre) (target aclk : Nat) : (f.goto target aclk).since = aclk := rfl
@[simp] theorem Fibre.goto_held (f : Fibre) (target aclk : Nat) : (f.goto target aclk).held = f.held := rfl

@[simp] theorem Fibre.raiseFlags_idx (f : Fibre) (a : FFlags) : (f.raiseFlags a).idx = f.idx := rfl
@[simp] theorem Fibre.raiseFlags_status (f : Fibre) (a : FFlags) : (f.raiseFlags a).status = f.status := rfl
@[simp] theorem Fibre.raiseFlags_pc (f : Fibre) (a : FFlags) : (f.raiseFlags a).pc = f.pc := rfl
@[simp] theorem Fibre.raiseFlags_regs (f : Fibre) (a : FFlags) : (f.raiseFlags a).regs = f.regs := rfl
@[simp] theorem Fibre.raiseFlags_spoilt (f : Fibre) (a : FFlags) : (f.raiseFlags a).spoilt = f.spoilt := rfl
@[simp] theorem Fibre.raiseFlags_pred (f : Fibre) (a : FFlags) : (f.raiseFlags a).pred = f.pred := rfl
@[simp] theorem Fibre.raiseFlags_lk (f : Fibre) (a : FFlags) : (f.raiseFlags a).lk = f.lk := rfl
@[simp] theorem Fibre.raiseFlags_csp (f : Fibre) (a : FFlags) : (f.raiseFlags a).csp = f.csp := rfl
@[simp] theorem Fibre.raiseFlags_cf (f : Fibre) (a : FFlags) : (f.raiseFlags a).cf = f.cf := rfl
@[simp] theorem Fibre.raiseFlags_fmode (f : Fibre) (a : FFlags) : (f.raiseFlags a).fmode = f.fmode := rfl
@[simp] theorem Fibre.raiseFlags_fflags (f : Fibre) (a : FFlags) : (f.raiseFlags a).fflags = f.fflags ||| a.bits := rfl
@[simp] theorem Fibre.raiseFlags_srseed (f : Fibre) (a : FFlags) : (f.raiseFlags a).srseed = f.srseed := rfl
@[simp] theorem Fibre.raiseFlags_clause (f : Fibre) (a : FFlags) : (f.raiseFlags a).clause = f.clause := rfl
@[simp] theorem Fibre.raiseFlags_ll (f : Fibre) (a : FFlags) : (f.raiseFlags a).ll = f.ll := rfl
@[simp] theorem Fibre.raiseFlags_sq (f : Fibre) (a : FFlags) : (f.raiseFlags a).sq = f.sq := rfl
@[simp] theorem Fibre.raiseFlags_seq (f : Fibre) (a : FFlags) : (f.raiseFlags a).seq = f.seq := rfl
@[simp] theorem Fibre.raiseFlags_faults (f : Fibre) (a : FFlags) : (f.raiseFlags a).faults = f.faults := rfl
@[simp] theorem Fibre.raiseFlags_handler (f : Fibre) (a : FFlags) : (f.raiseFlags a).handler = f.handler := rfl
@[simp] theorem Fibre.raiseFlags_entering (f : Fibre) (a : FFlags) : (f.raiseFlags a).entering = f.entering := rfl
@[simp] theorem Fibre.raiseFlags_hostFail (f : Fibre) (a : FFlags) : (f.raiseFlags a).hostFail = f.hostFail := rfl
@[simp] theorem Fibre.raiseFlags_fences (f : Fibre) (a : FFlags) : (f.raiseFlags a).fences = f.fences := rfl
@[simp] theorem Fibre.raiseFlags_pfxs (f : Fibre) (a : FFlags) : (f.raiseFlags a).pfxs = f.pfxs := rfl
@[simp] theorem Fibre.raiseFlags_firstClause (f : Fibre) (a : FFlags) : (f.raiseFlags a).firstClause = f.firstClause := rfl
@[simp] theorem Fibre.raiseFlags_stopped (f : Fibre) (a : FFlags) : (f.raiseFlags a).stopped = f.stopped := rfl
@[simp] theorem Fibre.raiseFlags_away (f : Fibre) (a : FFlags) : (f.raiseFlags a).away = f.away := rfl
@[simp] theorem Fibre.raiseFlags_since (f : Fibre) (a : FFlags) : (f.raiseFlags a).since = f.since := rfl
@[simp] theorem Fibre.raiseFlags_held (f : Fibre) (a : FFlags) : (f.raiseFlags a).held = f.held := rfl

end Sys2Proof.Machine
end

