-- ==== Sys2Proof/Laws/Ops.lean ====
section
/-! SUPPORT. What the shared operations can do: updates of one fibre, the frame in which every instruction form runs, issuing long-latency instructions, and queueing stores. -/

namespace Sys2Proof.Machine

/-! ### Updates of one fibre -/

@[simp] theorem Team.updFibre_updFibre (t : Team) (i : Nat) (g h : Fibre → Fibre) (hg : ∀ x, (g x).idx = x.idx) :
    (t.updFibre i g).updFibre i h = t.updFibre i (fun x => h (g x)) := by
  simp only [Team.updFibre, List.map_map]
  congr 1
  apply List.map_congr_left
  intro x _
  simp only [Function.comp]
  by_cases hx : (x.idx == i) = true
  · simp only [hx, if_true, hg]
  · simp [hx]

theorem State.updTeam_updTeam (s : State) (i : Nat) (g h : Team → Team) (hg : ∀ x, (g x).id = x.id) :
    (s.updTeam i g).updTeam i h = s.updTeam i (fun x => h (g x)) := by
  simp only [State.updTeam, List.map_map]
  congr 1
  apply List.map_congr_left
  intro x _
  simp only [Function.comp]
  by_cases hx : (x.id == i) = true
  · simp only [hx, if_true, hg]
  · simp [hx]

/-- Two updates of one fibre are one. -/
theorem State.updFibre_updFibre (s : State) (r : FibreRef) (g h : Fibre → Fibre) (hg : ∀ x, (g x).idx = x.idx) :
    (s.updFibre r g).updFibre r h = s.updFibre r (fun x => h (g x)) := by
  unfold State.updFibre
  rw [State.updTeam_updTeam _ _ (fun t => t.updFibre r.fibre g) _ (fun _ => rfl)]
  simp only [Team.updFibre_updFibre _ _ _ _ hg]

theorem find?_map_upd {α : Type} (p : α → Bool) (g : α → α) (l : List α) (hg : ∀ x, p (g x) = p x) :
    (l.map (fun x => if p x then g x else x)).find? p = (l.find? p).map g := by
  induction l with
  | nil => rfl
  | cons x l ih =>
    rw [List.map_cons, List.find?_cons, List.find?_cons]
    by_cases hx : p x = true
    · simp [hx, hg]
    · simp [hx, ih]

/-- The fibre that was updated is the updated one. -/
theorem Team.fibre?_updFibre (t : Team) (i : Nat) (g : Fibre → Fibre) (hg : ∀ x, (g x).idx = x.idx) :
    (t.updFibre i g).fibre? i = (t.fibre? i).map g := by
  have := find?_map_upd (fun x : Fibre => x.idx == i) g t.fibres (fun x => by simp only [hg])
  simpa [Team.updFibre, Team.fibre?] using this

theorem State.team?_updTeam (s : State) (i : Nat) (g : Team → Team) (hg : ∀ x, (g x).id = x.id) :
    (s.updTeam i g).team? i = (s.team? i).map g := by
  have := find?_map_upd (fun x : Team => x.id == i) g s.teams (fun x => by simp only [hg])
  simpa [State.updTeam, State.team?] using this

theorem State.fibre?_updFibre (s : State) (r : FibreRef) (g : Fibre → Fibre) (hg : ∀ x, (g x).idx = x.idx) :
    (s.updFibre r g).fibre? r = (s.fibre? r).map g := by
  unfold State.fibre? State.updFibre
  rw [State.team?_updTeam _ _ (fun t => t.updFibre r.fibre g) (fun _ => rfl)]
  cases s.team? r.team with
  | none => rfl
  | some t => exact Team.fibre?_updFibre t r.fibre g hg

/-- After an update of the current fibre it is current, and is the updated one. -/
theorem State.current_updFibre {s : State} {r : FibreRef} {t : Team} {f : Fibre} (g : Fibre → Fibre)
    (hg : ∀ x, (g x).idx = x.idx) (h : s.current = some (r, t, f)) :
    (s.updFibre r g).current = some (r, t.updFibre r.fibre g, g f) := by
  have key : ∀ q, s.cur = some q → (match s.team? q.team with
      | none => (none : Option (FibreRef × Team × Fibre))
      | some t => match t.fibre? q.fibre with | none => none | some f => some (q, t, f)) = some (r, t, f) →
      q = r ∧ s.team? r.team = some t ∧ t.fibre? r.fibre = some f := by
    intro q _ hq
    cases ht : s.team? q.team with
    | none => simp [ht] at hq
    | some u =>
      cases hf : u.fibre? q.fibre with
      | none => simp [ht, hf] at hq
      | some x =>
        simp [ht, hf] at hq
        obtain ⟨rfl, rfl, rfl⟩ := hq
        exact ⟨rfl, ht, hf⟩
  unfold State.current at h ⊢
  cases hc : s.cur with
  | none => simp [hc] at h
  | some q =>
    rw [hc] at h
    obtain ⟨rfl, ht, hf⟩ := key q hc h
    have ht' : (s.updFibre q g).team? q.team = some (t.updFibre q.fibre g) := by
      unfold State.updFibre; rw [State.team?_updTeam _ _ (fun t => t.updFibre q.fibre g) (fun _ => rfl), ht]; rfl
    have hf' : (t.updFibre q.fibre g).fibre? q.fibre = some (g f) := by rw [Team.fibre?_updFibre _ _ _ hg, hf]; rfl
    simp only [State.updFibre_cur, hc, ht', hf']

/-! ### The frame of every instruction form -/

/-- The hazard test is the negation of `Fibre.quiet`. -/
theorem Fibre.hazard_eq_false {f : Fibre} {u : Uses} (h : f.quiet (u.reads ++ u.wr) (u.prd ++ u.pwr) u.tiles) :
    f.hazard u = false := by
  simp only [Fibre.hazard, List.any_eq_false]
  intro op hop
  obtain ⟨hr, hp, ht⟩ := h op hop
  simp only [Bool.or_eq_true, List.any_eq_true, List.contains_iff_mem, not_or, not_exists, not_and]
  refine ⟨⟨?_, ?_⟩, ?_⟩
  · intro n hn
    have := hr n hn
    simpa using this
  · intro p hq
    have := hp p hq
    simpa using this
  · intro k hk hc
    exact ht k hk hc

/-- A counter below 15 is not full (15 R295). -/
theorem counterFull_of_canIssue {u : Uses} {f : Fibre} {c : Nat} (h : f.canIssue c) : counterFull u f = false := by
  simpa [counterFull, h.1] using fun _ _ => h.2

/-- What an instruction form does when the fibre may execute it: its meaning, and nothing before it. -/
theorem isa_of_ready {s : State} {r : FibreRef} {t : Team} {f : Fibre} {len : Nat} {u : Uses}
    {body : FibreRef → Team → Fibre → State → Act}
    (h : Ready s r t f u.reads u.wr (u.prd ++ u.pwr) u.tiles) (hn : u.near = true ∨ f.nearSlot = none)
    (ht : ∀ k, u.tileOf = some k → k < t.kernel.accTiles) (hc : counterFull u f = false) :
    isa len u body s = match body r t f s with
      | .ok s' => .next (s'.updFibre r (fun f => f.pass len u.long s.aclk))
      | .error (.trap t) => .next (s.raiseAt r t [] 0)
      | .error (.took _ s') => .next s'
      | .error (.hold s') => .next s'
      | .error (.stuck e) => .fault e := by
  unfold isa
  rw [h.current]
  have hw : ((u.rd ++ u.wr).any fun n => decide (windowOf t f ≤ n)) = false := by
    rw [List.any_eq_false]
    intro n hm
    simpa [Nat.not_le] using h.window n (by simp only [Uses.reads, List.mem_append] at hm ⊢; tauto)
  have hp : (u.payload.any fun n => decide (windowOf t f ≤ n)) = false := by
    rw [List.any_eq_false]
    intro n hm
    simpa [Nat.not_le] using h.window n (by simp only [Uses.reads, List.mem_append]; tauto)
  have hk : (u.tileOf.any fun k => decide (t.kernel.accTiles ≤ k)) = false := by
    cases hu : u.tileOf with
    | none => rfl
    | some k => simpa [Nat.not_le] using ht k hu
  have hz := Fibre.hazard_eq_false h.quiet
  have hs : (u.reads.any fun n => f.spoilt.contains n && !u.data.contains n) = false := by
    rw [List.any_eq_false]
    intro n hm
    have := h.clean n hm
    simp [this]
  simp only [hw, hp, hk, Bool.or_self, Bool.false_eq_true, if_false, hz, Bool.false_and, hs, hc]
  rcases hn with hn | hn
  · rw [hn]; try (cases f.nearSlot <;> (simp only; try (cases body r t f s with | ok _ => rfl | error x => cases x <;> rfl)))
  · rw [hn]; try (cases u.near <;> (simp only; try (cases body r t f s with | ok _ => rfl | error x => cases x <;> rfl)))

/-- An instruction form that only changes the fibre's own registers. -/
theorem isa_onFibre {s : State} {r : FibreRef} {t : Team} {f : Fibre} {len : Nat} {u : Uses} {g : Fibre → Fibre}
    (hg : ∀ x, (g x).idx = x.idx) (hl : u.long = false) (hn : u.near = true) (ht : u.tileOf = none)
    (h : Ready s r t f u.reads u.wr (u.prd ++ u.pwr) u.tiles) :
    isa len u (onFibre g) s = .next (s.passed r len g) := by
  rw [isa_of_ready h (.inl hn) (by simp [ht]) (by simp [counterFull, hl])]
  simp only [onFibre, hl, State.passed]
  rw [State.updFibre_updFibre _ _ _ _ hg]

/-- With no current fibre an instruction form stops the model. -/
theorem isa_no_fibre {s : State} {len : Nat} {u : Uses} {body : FibreRef → Team → Fibre → State → Act}
    (h : s.current = none) : isa len u body s = .fault .noFibre := by
  unfold isa; rw [h]

/-- A register outside the window is an illegal instruction (15 R298). -/
theorem isa_window {s : State} {r : FibreRef} {t : Team} {f : Fibre} {len : Nat} {u : Uses}
    {body : FibreRef → Team → Fibre → State → Act} (h : s.current = some (r, t, f)) {n : Nat}
    (hn : n ∈ u.rd ++ u.wr) (hw : windowOf t f ≤ n) :
    isa len u body s = .next (s.raiseAt r .illegal [] 0) := by
  unfold isa; rw [h]
  have : ((u.rd ++ u.wr).any fun n => decide (windowOf t f ≤ n)) = true :=
    List.any_eq_true.mpr ⟨n, hn, by simpa using hw⟩
  simp only [this, Bool.true_or, if_true]

/-! ### Issue -/

/-- A long-latency instruction whose counter is below 15 counts up and stands outstanding (15 R295). -/
theorem issueLong_ok {r : FibreRef} {f : Fibre} {len c : Nat} {k : LongKind} {regs preds tiles : List Nat} {s : State}
    (hc : f.counter = some c) (h : f.cf.getD c 0 < 15) :
    issueLong r f len k regs preds tiles s = .ok (s.updFibre r (fun f =>
      { f.countUp (some c) with
        ll := f.ll ++ [⟨k, some c, regs, preds, tiles, f.seq, f.pc.toNat, len, s.aclk⟩]
        seq := f.seq + 1 })) := by
  unfold issueLong; rw [hc]; simp only; rw [if_neg (by omega)]

/-- A store stands last in the queue, and nothing else of the machine changes. -/
theorem queueStore_mem (r : FibreRef) (k : StoreKind) (st : Strength) (s : State) : (queueStore r k st s).mem = s.mem := rfl

end Sys2Proof.Machine
end

