-- ==== Sys2Proof/Laws/PerInstr.lean ====
section
/-! SUPPORT. One lemma per constructor: the words of a well-formed instruction decode to that instruction, whatever words follow. -/

namespace Sys2Proof.Laws.RoundTrip

open Sys2Proof

/-- The words that `encode` gives a well-formed instruction decode to it and leave the rest; device steps have no words. -/
def Statement (i : Instr) : Prop :=
  i.wf = true → encode i ≠ [] → ∀ rest : List Nat, decodeWords (encode i ++ rest) = .ok (i, rest)

/-- A first word whose length fits, and whose decoded form is well-formed. -/
theorem decodeWords_of {i : Instr} {w0 : Nat} {ws rest : List Nat} (hw : i.wf = true)
    (hl : lengthOf w0 = ws.length + 1)
    (hd : decodeForm w0 ((ws ++ rest).getD 0 0) ((ws ++ rest).getD 1 0) ((ws ++ rest).getD 2 0) = .ok i) :
    decodeWords (w0 :: ws ++ rest) = .ok (i, rest) := by
  have hn : ¬ (ws ++ rest).length + 1 < lengthOf w0 := by simp [hl]
  simp only [List.cons_append, decodeWords]
  rw [if_neg hn]
  simp only [decode, hd, checked]
  simp [hw, hl]

theorem statement_nil {i : Instr} (h : encode i = []) : Statement i := fun _ hn => absurd h hn

theorem form_01 {w0 : Nat} (h : w0 / 2 ^ 25 = 0x01) (w1 w2 w3 : Nat) : decodeForm w0 w1 w2 w3 = decode01 w0 := by
  unfold decodeForm; rw [h]; rfl

theorem form_02 {w0 : Nat} (h : w0 / 2 ^ 25 = 0x02) (w1 w2 w3 : Nat) : decodeForm w0 w1 w2 w3 = decode02 w0 := by
  unfold decodeForm; rw [h]; rfl

theorem form_03 {w0 : Nat} (h : w0 / 2 ^ 25 = 0x03) (w1 w2 w3 : Nat) : decodeForm w0 w1 w2 w3 = decode03 w0 := by
  unfold decodeForm; rw [h]; rfl

theorem form_04 {w0 : Nat} (h : w0 / 2 ^ 25 = 0x04) (w1 w2 w3 : Nat) : decodeForm w0 w1 w2 w3 = decode04 w0 := by
  unfold decodeForm; rw [h]; rfl

theorem form_05 {w0 : Nat} (h : w0 / 2 ^ 25 = 0x05) (w1 w2 w3 : Nat) : decodeForm w0 w1 w2 w3 = decode05 w0 := by
  unfold decodeForm; rw [h]; rfl

theorem form_06 {w0 : Nat} (h : w0 / 2 ^ 25 = 0x06) (w1 w2 w3 : Nat) : decodeForm w0 w1 w2 w3 = decode06 w0 := by
  unfold decodeForm; rw [h]; rfl

theorem form_07 {w0 : Nat} (h : w0 / 2 ^ 25 = 0x07) (w1 w2 w3 : Nat) : decodeForm w0 w1 w2 w3 = decode07 w0 := by
  unfold decodeForm; rw [h]; rfl

theorem form_08 {w0 : Nat} (h : w0 / 2 ^ 25 = 0x08) (w1 w2 w3 : Nat) : decodeForm w0 w1 w2 w3 = decode08 w0 := by
  unfold decodeForm; rw [h]; rfl

theorem form_09 {w0 : Nat} (h : w0 / 2 ^ 25 = 0x09) (w1 w2 w3 : Nat) : decodeForm w0 w1 w2 w3 = decode09 w0 := by
  unfold decodeForm; rw [h]; rfl

theorem form_0A {w0 : Nat} (h : w0 / 2 ^ 25 = 0x0A) (w1 w2 w3 : Nat) : decodeForm w0 w1 w2 w3 = decode0A w0 := by
  unfold decodeForm; rw [h]; rfl

theorem form_0B {w0 : Nat} (h : w0 / 2 ^ 25 = 0x0B) (w1 w2 w3 : Nat) : decodeForm w0 w1 w2 w3 = decode0B w0 := by
  unfold decodeForm; rw [h]; rfl

theorem form_0C {w0 : Nat} (h : w0 / 2 ^ 25 = 0x0C) (w1 w2 w3 : Nat) : decodeForm w0 w1 w2 w3 = decode0C w0 := by
  unfold decodeForm; rw [h]; rfl

theorem form_0D {w0 : Nat} (h : w0 / 2 ^ 25 = 0x0D) (w1 w2 w3 : Nat) : decodeForm w0 w1 w2 w3 = decode0D w0 := by
  unfold decodeForm; rw [h]; rfl

theorem form_0E {w0 : Nat} (h : w0 / 2 ^ 25 = 0x0E) (w1 w2 w3 : Nat) : decodeForm w0 w1 w2 w3 = decode0E w0 := by
  unfold decodeForm; rw [h]; rfl

theorem form_0F {w0 : Nat} (h : w0 / 2 ^ 25 = 0x0F) (w1 w2 w3 : Nat) : decodeForm w0 w1 w2 w3 = decode0F w0 := by
  unfold decodeForm; rw [h]; rfl

theorem form_10 {w0 : Nat} (h : w0 / 2 ^ 25 = 0x10) (w1 w2 w3 : Nat) : decodeForm w0 w1 w2 w3 = decode10 w0 := by
  unfold decodeForm; rw [h]; rfl

theorem form_11 {w0 : Nat} (h : w0 / 2 ^ 25 = 0x11) (w1 w2 w3 : Nat) : decodeForm w0 w1 w2 w3 = decode11 w0 := by
  unfold decodeForm; rw [h]; rfl

theorem form_12 {w0 : Nat} (h : w0 / 2 ^ 25 = 0x12) (w1 w2 w3 : Nat) : decodeForm w0 w1 w2 w3 = decode12 w0 := by
  unfold decodeForm; rw [h]; rfl

theorem form_13 {w0 : Nat} (h : w0 / 2 ^ 25 = 0x13) (w1 w2 w3 : Nat) : decodeForm w0 w1 w2 w3 = decode13 w0 := by
  unfold decodeForm; rw [h]; rfl

theorem form_14 {w0 : Nat} (h : w0 / 2 ^ 25 = 0x14) (w1 w2 w3 : Nat) : decodeForm w0 w1 w2 w3 = decode14 w0 := by
  unfold decodeForm; rw [h]; rfl

theorem form_15 {w0 : Nat} (h : w0 / 2 ^ 25 = 0x15) (w1 w2 w3 : Nat) : decodeForm w0 w1 w2 w3 = decode15 w0 := by
  unfold decodeForm; rw [h]; rfl

theorem form_16 {w0 : Nat} (h : w0 / 2 ^ 25 = 0x16) (w1 w2 w3 : Nat) : decodeForm w0 w1 w2 w3 = decode16 w0 w1 := by
  unfold decodeForm; rw [h]; rfl

theorem form_17 {w0 : Nat} (h : w0 / 2 ^ 25 = 0x17) (w1 w2 w3 : Nat) : decodeForm w0 w1 w2 w3 = decode17 w0 := by
  unfold decodeForm; rw [h]; rfl

theorem form_18 {w0 : Nat} (h : w0 / 2 ^ 25 = 0x18) (w1 w2 w3 : Nat) : decodeForm w0 w1 w2 w3 = decode18 w0 := by
  unfold decodeForm; rw [h]; rfl

theorem form_19 {w0 : Nat} (h : w0 / 2 ^ 25 = 0x19) (w1 w2 w3 : Nat) : decodeForm w0 w1 w2 w3 = decode19 w0 := by
  unfold decodeForm; rw [h]; rfl

theorem form_1A {w0 : Nat} (h : w0 / 2 ^ 25 = 0x1A) (w1 w2 w3 : Nat) : decodeForm w0 w1 w2 w3 = decode1A w0 := by
  unfold decodeForm; rw [h]; rfl

theorem form_1B {w0 : Nat} (h : w0 / 2 ^ 25 = 0x1B) (w1 w2 w3 : Nat) : decodeForm w0 w1 w2 w3 = decode1B w0 := by
  unfold decodeForm; rw [h]; rfl

theorem form_20 {w0 : Nat} (h : w0 / 2 ^ 25 = 0x20) (w1 w2 w3 : Nat) : decodeForm w0 w1 w2 w3 = decode20 w0 := by
  unfold decodeForm; rw [h]; rfl

theorem form_21 {w0 : Nat} (h : w0 / 2 ^ 25 = 0x21) (w1 w2 w3 : Nat) : decodeForm w0 w1 w2 w3 = decode21 w0 := by
  unfold decodeForm; rw [h]; rfl

theorem form_22 {w0 : Nat} (h : w0 / 2 ^ 25 = 0x22) (w1 w2 w3 : Nat) : decodeForm w0 w1 w2 w3 = decode22 w0 := by
  unfold decodeForm; rw [h]; rfl

theorem form_23 {w0 : Nat} (h : w0 / 2 ^ 25 = 0x23) (w1 w2 w3 : Nat) : decodeForm w0 w1 w2 w3 = decode23 w0 := by
  unfold decodeForm; rw [h]; rfl

theorem form_24 {w0 : Nat} (h : w0 / 2 ^ 25 = 0x24) (w1 w2 w3 : Nat) : decodeForm w0 w1 w2 w3 = decode24 w0 w1 := by
  unfold decodeForm; rw [h]; rfl

theorem form_25 {w0 : Nat} (h : w0 / 2 ^ 25 = 0x25) (w1 w2 w3 : Nat) : decodeForm w0 w1 w2 w3 = decode25 w0 w1 := by
  unfold decodeForm; rw [h]; rfl

theorem form_26 {w0 : Nat} (h : w0 / 2 ^ 25 = 0x26) (w1 w2 w3 : Nat) : decodeForm w0 w1 w2 w3 = decode26 w0 := by
  unfold decodeForm; rw [h]; rfl

theorem form_27 {w0 : Nat} (h : w0 / 2 ^ 25 = 0x27) (w1 w2 w3 : Nat) : decodeForm w0 w1 w2 w3 = decode27 w0 := by
  unfold decodeForm; rw [h]; rfl

theorem form_28 {w0 : Nat} (h : w0 / 2 ^ 25 = 0x28) (w1 w2 w3 : Nat) : decodeForm w0 w1 w2 w3 = decode28 w0 := by
  unfold decodeForm; rw [h]; rfl

theorem form_29 {w0 : Nat} (h : w0 / 2 ^ 25 = 0x29) (w1 w2 w3 : Nat) : decodeForm w0 w1 w2 w3 = decode29 w0 := by
  unfold decodeForm; rw [h]; rfl

theorem form_2A {w0 : Nat} (h : w0 / 2 ^ 25 = 0x2A) (w1 w2 w3 : Nat) : decodeForm w0 w1 w2 w3 = decode2A w0 := by
  unfold decodeForm; rw [h]; rfl

theorem form_2B {w0 : Nat} (h : w0 / 2 ^ 25 = 0x2B) (w1 w2 w3 : Nat) : decodeForm w0 w1 w2 w3 = decode2B w0 := by
  unfold decodeForm; rw [h]; rfl

theorem form_30 {w0 : Nat} (h : w0 / 2 ^ 25 = 0x30) (w1 w2 w3 : Nat) : decodeForm w0 w1 w2 w3 = decode30 w0 := by
  unfold decodeForm; rw [h]; rfl

theorem form_31 {w0 : Nat} (h : w0 / 2 ^ 25 = 0x31) (w1 w2 w3 : Nat) : decodeForm w0 w1 w2 w3 = decode31 w0 := by
  unfold decodeForm; rw [h]; rfl

theorem form_32 {w0 : Nat} (h : w0 / 2 ^ 25 = 0x32) (w1 w2 w3 : Nat) : decodeForm w0 w1 w2 w3 = decode32 w0 := by
  unfold decodeForm; rw [h]; rfl

theorem form_33 {w0 : Nat} (h : w0 / 2 ^ 25 = 0x33) (w1 w2 w3 : Nat) : decodeForm w0 w1 w2 w3 = decode33 w0 := by
  unfold decodeForm; rw [h]; rfl

theorem form_34 {w0 : Nat} (h : w0 / 2 ^ 25 = 0x34) (w1 w2 w3 : Nat) : decodeForm w0 w1 w2 w3 = decode34 w0 := by
  unfold decodeForm; rw [h]; rfl

theorem form_35 {w0 : Nat} (h : w0 / 2 ^ 25 = 0x35) (w1 w2 w3 : Nat) : decodeForm w0 w1 w2 w3 = decode35 w0 := by
  unfold decodeForm; rw [h]; rfl

theorem form_36 {w0 : Nat} (h : w0 / 2 ^ 25 = 0x36) (w1 w2 w3 : Nat) : decodeForm w0 w1 w2 w3 = decode36 w0 := by
  unfold decodeForm; rw [h]; rfl

theorem form_37 {w0 : Nat} (h : w0 / 2 ^ 25 = 0x37) (w1 w2 w3 : Nat) : decodeForm w0 w1 w2 w3 = decode37 w0 := by
  unfold decodeForm; rw [h]; rfl

theorem form_38 {w0 : Nat} (h : w0 / 2 ^ 25 = 0x38) (w1 w2 w3 : Nat) : decodeForm w0 w1 w2 w3 = decode38 w0 w1 := by
  unfold decodeForm; rw [h]; rfl

theorem form_39 {w0 : Nat} (h : w0 / 2 ^ 25 = 0x39) (w1 w2 w3 : Nat) : decodeForm w0 w1 w2 w3 = decode39 w0 w1 := by
  unfold decodeForm; rw [h]; rfl

theorem form_3A {w0 : Nat} (h : w0 / 2 ^ 25 = 0x3A) (w1 w2 w3 : Nat) : decodeForm w0 w1 w2 w3 = decode3A w0 w1 := by
  unfold decodeForm; rw [h]; rfl

theorem form_3B {w0 : Nat} (h : w0 / 2 ^ 25 = 0x3B) (w1 w2 w3 : Nat) : decodeForm w0 w1 w2 w3 = decode3B w0 w1 := by
  unfold decodeForm; rw [h]; rfl

theorem form_3C {w0 : Nat} (h : w0 / 2 ^ 25 = 0x3C) (w1 w2 w3 : Nat) : decodeForm w0 w1 w2 w3 = decode3C w0 := by
  unfold decodeForm; rw [h]; rfl

theorem form_3D {w0 : Nat} (h : w0 / 2 ^ 25 = 0x3D) (w1 w2 w3 : Nat) : decodeForm w0 w1 w2 w3 = decode3D w0 := by
  unfold decodeForm; rw [h]; rfl

theorem form_40 {w0 : Nat} (h : w0 / 2 ^ 25 = 0x40) (w1 w2 w3 : Nat) : decodeForm w0 w1 w2 w3 = decode40 w0 w1 := by
  unfold decodeForm; rw [h]; rfl

theorem form_41 {w0 : Nat} (h : w0 / 2 ^ 25 = 0x41) (w1 w2 w3 : Nat) : decodeForm w0 w1 w2 w3 = decode41 w0 := by
  unfold decodeForm; rw [h]; rfl

theorem form_42 {w0 : Nat} (h : w0 / 2 ^ 25 = 0x42) (w1 w2 w3 : Nat) : decodeForm w0 w1 w2 w3 = decode42 w0 := by
  unfold decodeForm; rw [h]; rfl

theorem form_43 {w0 : Nat} (h : w0 / 2 ^ 25 = 0x43) (w1 w2 w3 : Nat) : decodeForm w0 w1 w2 w3 = decode43 w0 := by
  unfold decodeForm; rw [h]; rfl

theorem form_44 {w0 : Nat} (h : w0 / 2 ^ 25 = 0x44) (w1 w2 w3 : Nat) : decodeForm w0 w1 w2 w3 = decode44 w0 := by
  unfold decodeForm; rw [h]; rfl

theorem form_45 {w0 : Nat} (h : w0 / 2 ^ 25 = 0x45) (w1 w2 w3 : Nat) : decodeForm w0 w1 w2 w3 = decode45 w0 := by
  unfold decodeForm; rw [h]; rfl

theorem form_46 {w0 : Nat} (h : w0 / 2 ^ 25 = 0x46) (w1 w2 w3 : Nat) : decodeForm w0 w1 w2 w3 = decode46 w0 := by
  unfold decodeForm; rw [h]; rfl

theorem form_47 {w0 : Nat} (h : w0 / 2 ^ 25 = 0x47) (w1 w2 w3 : Nat) : decodeForm w0 w1 w2 w3 = decode47 w0 := by
  unfold decodeForm; rw [h]; rfl

theorem form_50 {w0 : Nat} (h : w0 / 2 ^ 25 = 0x50) (w1 w2 w3 : Nat) : decodeForm w0 w1 w2 w3 = decode50 w0 := by
  unfold decodeForm; rw [h]; rfl

theorem form_51 {w0 : Nat} (h : w0 / 2 ^ 25 = 0x51) (w1 w2 w3 : Nat) : decodeForm w0 w1 w2 w3 = decode51 w0 := by
  unfold decodeForm; rw [h]; rfl

theorem form_52 {w0 : Nat} (h : w0 / 2 ^ 25 = 0x52) (w1 w2 w3 : Nat) : decodeForm w0 w1 w2 w3 = decode52 w0 := by
  unfold decodeForm; rw [h]; rfl

theorem form_53 {w0 : Nat} (h : w0 / 2 ^ 25 = 0x53) (w1 w2 w3 : Nat) : decodeForm w0 w1 w2 w3 = decode53 w0 := by
  unfold decodeForm; rw [h]; rfl

theorem form_54 {w0 : Nat} (h : w0 / 2 ^ 25 = 0x54) (w1 w2 w3 : Nat) : decodeForm w0 w1 w2 w3 = decode54 w0 := by
  unfold decodeForm; rw [h]; rfl

theorem form_55 {w0 : Nat} (h : w0 / 2 ^ 25 = 0x55) (w1 w2 w3 : Nat) : decodeForm w0 w1 w2 w3 = decode55 w0 := by
  unfold decodeForm; rw [h]; rfl

theorem form_56 {w0 : Nat} (h : w0 / 2 ^ 25 = 0x56) (w1 w2 w3 : Nat) : decodeForm w0 w1 w2 w3 = decode56 w0 := by
  unfold decodeForm; rw [h]; rfl

theorem form_57 {w0 : Nat} (h : w0 / 2 ^ 25 = 0x57) (w1 w2 w3 : Nat) : decodeForm w0 w1 w2 w3 = decode57 w0 := by
  unfold decodeForm; rw [h]; rfl

theorem form_58 {w0 : Nat} (h : w0 / 2 ^ 25 = 0x58) (w1 w2 w3 : Nat) : decodeForm w0 w1 w2 w3 = decode58 w0 := by
  unfold decodeForm; rw [h]; rfl

theorem form_59 {w0 : Nat} (h : w0 / 2 ^ 25 = 0x59) (w1 w2 w3 : Nat) : decodeForm w0 w1 w2 w3 = decode59 w0 := by
  unfold decodeForm; rw [h]; rfl

theorem form_5A {w0 : Nat} (h : w0 / 2 ^ 25 = 0x5A) (w1 w2 w3 : Nat) : decodeForm w0 w1 w2 w3 = decode5A w0 := by
  unfold decodeForm; rw [h]; rfl

theorem form_60 {w0 : Nat} (h : w0 / 2 ^ 25 = 0x60) (w1 w2 w3 : Nat) : decodeForm w0 w1 w2 w3 = decode60 w0 := by
  unfold decodeForm; rw [h]; rfl

theorem form_61 {w0 : Nat} (h : w0 / 2 ^ 25 = 0x61) (w1 w2 w3 : Nat) : decodeForm w0 w1 w2 w3 = decode61 w0 := by
  unfold decodeForm; rw [h]; rfl

theorem form_62 {w0 : Nat} (h : w0 / 2 ^ 25 = 0x62) (w1 w2 w3 : Nat) : decodeForm w0 w1 w2 w3 = decode62 w0 := by
  unfold decodeForm; rw [h]; rfl

theorem form_63 {w0 : Nat} (h : w0 / 2 ^ 25 = 0x63) (w1 w2 w3 : Nat) : decodeForm w0 w1 w2 w3 = decode63 w0 := by
  unfold decodeForm; rw [h]; rfl

theorem form_64 {w0 : Nat} (h : w0 / 2 ^ 25 = 0x64) (w1 w2 w3 : Nat) : decodeForm w0 w1 w2 w3 = decode64 w0 := by
  unfold decodeForm; rw [h]; rfl

theorem form_65 {w0 : Nat} (h : w0 / 2 ^ 25 = 0x65) (w1 w2 w3 : Nat) : decodeForm w0 w1 w2 w3 = decode65 w0 := by
  unfold decodeForm; rw [h]; rfl

theorem form_66 {w0 : Nat} (h : w0 / 2 ^ 25 = 0x66) (w1 w2 w3 : Nat) : decodeForm w0 w1 w2 w3 = decode66 w0 := by
  unfold decodeForm; rw [h]; rfl

theorem form_70 {w0 : Nat} (h : w0 / 2 ^ 25 = 0x70) (w1 w2 w3 : Nat) : decodeForm w0 w1 w2 w3 = decode70 w0 w1 := by
  unfold decodeForm; rw [h]; rfl

theorem form_71 {w0 : Nat} (h : w0 / 2 ^ 25 = 0x71) (w1 w2 w3 : Nat) : decodeForm w0 w1 w2 w3 = decode71 w0 w1 := by
  unfold decodeForm; rw [h]; rfl

theorem form_72 {w0 : Nat} (h : w0 / 2 ^ 25 = 0x72) (w1 w2 w3 : Nat) : decodeForm w0 w1 w2 w3 = decode72 w0 w1 := by
  unfold decodeForm; rw [h]; rfl

theorem form_73 {w0 : Nat} (h : w0 / 2 ^ 25 = 0x73) (w1 w2 w3 : Nat) : decodeForm w0 w1 w2 w3 = decode73 w0 w1 := by
  unfold decodeForm; rw [h]; rfl

theorem form_74 {w0 : Nat} (h : w0 / 2 ^ 25 = 0x74) (w1 w2 w3 : Nat) : decodeForm w0 w1 w2 w3 = decode74 w0 w1 := by
  unfold decodeForm; rw [h]; rfl

theorem form_75 {w0 : Nat} (h : w0 / 2 ^ 25 = 0x75) (w1 w2 w3 : Nat) : decodeForm w0 w1 w2 w3 = decode75 w0 w1 := by
  unfold decodeForm; rw [h]; rfl

theorem form_76 {w0 : Nat} (h : w0 / 2 ^ 25 = 0x76) (w1 w2 w3 : Nat) : decodeForm w0 w1 w2 w3 = decode76 w0 := by
  unfold decodeForm; rw [h]; rfl

theorem form_78 {w0 : Nat} (h : w0 / 2 ^ 25 = 0x78) (w1 w2 w3 : Nat) : decodeForm w0 w1 w2 w3 = decode78 w0 w1 := by
  unfold decodeForm; rw [h]; rfl

theorem form_79 {w0 : Nat} (h : w0 / 2 ^ 25 = 0x79) (w1 w2 w3 : Nat) : decodeForm w0 w1 w2 w3 = decode79 w0 w1 := by
  unfold decodeForm; rw [h]; rfl

theorem form_7A {w0 : Nat} (h : w0 / 2 ^ 25 = 0x7A) (w1 w2 w3 : Nat) : decodeForm w0 w1 w2 w3 = decode7A w0 w1 w2 := by
  unfold decodeForm; rw [h]; rfl

theorem form_7B {w0 : Nat} (h : w0 / 2 ^ 25 = 0x7B) (w1 w2 w3 : Nat) : decodeForm w0 w1 w2 w3 = decode7B w0 := by
  unfold decodeForm; rw [h]; rfl

theorem form_7C {w0 : Nat} (h : w0 / 2 ^ 25 = 0x7C) (w1 w2 w3 : Nat) : decodeForm w0 w1 w2 w3 = decode7C w0 w1 := by
  unfold decodeForm; rw [h]; rfl

theorem form_7D {w0 : Nat} (h : w0 / 2 ^ 25 = 0x7D) (w1 w2 w3 : Nat) : decodeForm w0 w1 w2 w3 = decode7D w0 w1 := by
  unfold decodeForm; rw [h]; rfl

theorem form_7F {w0 : Nat} (h : w0 / 2 ^ 25 = 0x7F) (w1 w2 w3 : Nat) : decodeForm w0 w1 w2 w3 = decode7F w0 w1 w2 w3 := by
  unfold decodeForm; rw [h]; rfl

theorem powerGood (dead : Nat) (ports : Nat) (host : Bool) : Statement (.powerGood dead ports host) := statement_nil rfl

theorem moduleReset (dead : Nat) (ports : Nat) (host : Bool) : Statement (.moduleReset dead ports host) := statement_nil rfl

theorem junctionStop (temp : Nat) : Statement (.junctionStop temp) := statement_nil rfl

theorem thermalGuardEvaluation (gaps : List Nat) (temp : Nat) (excursion : Bool) : Statement (.thermalGuardEvaluation gaps temp excursion) := statement_nil rfl

theorem createContext (m : Message) : Statement (.createContext m) := statement_nil rfl

theorem destroyContext (m : Message) : Statement (.destroyContext m) := statement_nil rfl

theorem setReservations (m : Message) : Statement (.setReservations m) := statement_nil rfl

theorem mapMemory (m : Message) : Statement (.mapMemory m) := statement_nil rfl

theorem unmapMemory (m : Message) : Statement (.unmapMemory m) := statement_nil rfl

theorem dieSweepAnswer (die : Nat) : Statement (.dieSweepAnswer die) := statement_nil rfl

theorem loadImage (m : Message) : Statement (.loadImage m) := statement_nil rfl

theorem loadGraph (m : Message) : Statement (.loadGraph m) := statement_nil rfl

theorem unloadGraph (m : Message) : Statement (.unloadGraph m) := statement_nil rfl

theorem createQueuePair (m : Message) : Statement (.createQueuePair m) := statement_nil rfl

theorem destroyQueuePair (m : Message) : Statement (.destroyQueuePair m) := statement_nil rfl

theorem grantPeerAccess (m : Message) : Statement (.grantPeerAccess m) := statement_nil rfl

theorem setGrid (m : Message) : Statement (.setGrid m) := statement_nil rfl

theorem portUp (m : Message) : Statement (.portUp m) := statement_nil rfl

theorem setLinkParameters (m : Message) : Statement (.setLinkParameters m) := statement_nil rfl

theorem readCounters (m : Message) : Statement (.readCounters m) := statement_nil rfl

theorem readRecords (m : Message) : Statement (.readRecords m) := statement_nil rfl

theorem attest (m : Message) : Statement (.attest m) := statement_nil rfl

theorem firmwareLoad (m : Message) : Statement (.firmwareLoad m) := statement_nil rfl

theorem raiseSecurityMinimum (m : Message) : Statement (.raiseSecurityMinimum m) := statement_nil rfl

theorem resetMsg (m : Message) : Statement (.resetMsg m) := statement_nil rfl

theorem unassignedMessageType (m : Message) : Statement (.unassignedMessageType m) := statement_nil rfl

theorem rdmaWriteReceived (qp : Nat) (key : Nat) (va : Nat) (bytes : List (BitVec 8)) : Statement (.rdmaWriteReceived qp key va bytes) := statement_nil rfl

theorem rdmaReadReceived (qp : Nat) (key : Nat) (va : Nat) (len : Nat) : Statement (.rdmaReadReceived qp key va len) := statement_nil rfl

theorem rdmaFetchAddReceived (qp : Nat) (key : Nat) (va : Nat) (v : BitVec 64) : Statement (.rdmaFetchAddReceived qp key va v) := statement_nil rfl

theorem rdmaCompareSwapReceived (qp : Nat) (key : Nat) (va : Nat) (cmp : BitVec 64) (swap : BitVec 64) : Statement (.rdmaCompareSwapReceived qp key va cmp swap) := statement_nil rfl

theorem rdmaInvalidRequest (qp : Nat) : Statement (.rdmaInvalidRequest qp) := statement_nil rfl

theorem congestionNotificationReceived (qp : Nat) : Statement (.congestionNotificationReceived qp) := statement_nil rfl

theorem ecnMarkedPacketReceived (qp : Nat) : Statement (.ecnMarkedPacketReceived qp) := statement_nil rfl

theorem pfcPauseFrame (prio : Nat) (pause : Bool) : Statement (.pfcPauseFrame prio pause) := statement_nil rfl

theorem hostRdmaResponse (op : Nat) (ok : Bool) (bytes : List (BitVec 8)) : Statement (.hostRdmaResponse op ok bytes) := statement_nil rfl

theorem hostWriteAck (op : Nat) (ok : Bool) : Statement (.hostWriteAck op ok) := statement_nil rfl

theorem qpAckTimeout (qp : Nat) : Statement (.qpAckTimeout qp) := statement_nil rfl

theorem flitSend (port : Nat) : Statement (.flitSend port) := statement_nil rfl

theorem badFlitReceived (port : Nat) : Statement (.badFlitReceived port) := statement_nil rfl

theorem linkControlFlit (port : Nat) (f : WireFlit) : Statement (.linkControlFlit port f) := statement_nil rfl

theorem ackReturnTimer (port : Nat) : Statement (.ackReturnTimer port) := statement_nil rfl

theorem replayTimeout (port : Nat) : Statement (.replayTimeout port) := statement_nil rfl

theorem linkRetrainDone (port : Nat) (ok : Bool) : Statement (.linkRetrainDone port ok) := statement_nil rfl

theorem peerReadRequest (port : Nat) (f : WireFlit) : Statement (.peerReadRequest port f) := statement_nil rfl

theorem peerWriteRequest (port : Nat) (f : WireFlit) : Statement (.peerWriteRequest port f) := statement_nil rfl

theorem peerAtomicRequest (port : Nat) (f : WireFlit) : Statement (.peerAtomicRequest port f) := statement_nil rfl

theorem peerReadResponse (port : Nat) (f : WireFlit) : Statement (.peerReadResponse port f) := statement_nil rfl

theorem peerWriteAck (port : Nat) (f : WireFlit) : Statement (.peerWriteAck port f) := statement_nil rfl

theorem peerAtomicResponse (port : Nat) (f : WireFlit) : Statement (.peerAtomicResponse port f) := statement_nil rfl

theorem reductionContribution (port : Nat) (f : WireFlit) : Statement (.reductionContribution port f) := statement_nil rfl

theorem topKContribution (port : Nat) (f : WireFlit) : Statement (.topKContribution port f) := statement_nil rfl

theorem contributionAck (port : Nat) (f : WireFlit) : Statement (.contributionAck port f) := statement_nil rfl

theorem collectiveOpen (port : Nat) (f : WireFlit) : Statement (.collectiveOpen port f) := statement_nil rfl

theorem collectiveOpenAck (port : Nat) (f : WireFlit) : Statement (.collectiveOpenAck port f) := statement_nil rfl

theorem collectiveResult (port : Nat) (f : WireFlit) : Statement (.collectiveResult port f) := statement_nil rfl

theorem collectiveClose (port : Nat) (f : WireFlit) : Statement (.collectiveClose port f) := statement_nil rfl

theorem collectiveCloseAck (port : Nat) (f : WireFlit) : Statement (.collectiveCloseAck port f) := statement_nil rfl

theorem jobReady (inst : Nat) (node : Nat) : Statement (.jobReady inst node) := statement_nil rfl

theorem jobComplete (inst : Nat) (node : Nat) : Statement (.jobComplete inst node) := statement_nil rfl

theorem sealNodeComplete (inst : Nat) (node : Nat) : Statement (.sealNodeComplete inst node) := statement_nil rfl

theorem restoreComplete (team : Nat) : Statement (.restoreComplete team) := statement_nil rfl

theorem redirectEntryCompletion (team : Nat) : Statement (.redirectEntryCompletion team) := statement_nil rfl

theorem longLatencyDrop (team : Nat) (fibre : Nat) (slot : Nat) : Statement (.longLatencyDrop team fibre slot) := statement_nil rfl

theorem storePerform (team : Nat) (fibre : Nat) : Statement (.storePerform team fibre) := statement_nil rfl

theorem collapseProbe (line : Nat) (die : Nat) : Statement (.collapseProbe line die) := statement_nil rfl

theorem cuttingFill (line : Nat) (die : Nat) : Statement (.cuttingFill line die) := statement_nil rfl

theorem resizeSwitchPoint (team : Nat) (fibre : Nat) (slot : Nat) : Statement (.resizeSwitchPoint team fibre slot) := statement_nil rfl

theorem engineLanding (cmd : Nat) : Statement (.engineLanding cmd) := statement_nil rfl

theorem engineCompletionWord (cmd : Nat) : Statement (.engineCompletionWord cmd) := statement_nil rfl

theorem mmaComplete (resid : BitVec 2) : Statement (.mmaComplete resid) := statement_nil rfl

theorem scanStart (stack : Nat) : Statement (.scanStart stack) := statement_nil rfl

theorem scanComplete (cmd : Nat) (stack : Nat) : Statement (.scanComplete cmd stack) := statement_nil rfl

theorem scanRefreshPause (stack : Nat) : Statement (.scanRefreshPause stack) := statement_nil rfl

theorem scanResume (stack : Nat) : Statement (.scanResume stack) := statement_nil rfl

theorem walkStep (cmd : Nat) : Statement (.walkStep cmd) := statement_nil rfl

theorem hopLand (team : Nat) (fibre : Nat) : Statement (.hopLand team fibre) := statement_nil rfl

theorem nearSlotEntry (stack : Nat) : Statement (.nearSlotEntry stack) := statement_nil rfl

theorem hopHomeArrival (team : Nat) (fibre : Nat) : Statement (.hopHomeArrival team fibre) := statement_nil rfl

theorem returnTrap (team : Nat) (fibre : Nat) : Statement (.returnTrap team fibre) := statement_nil rfl

theorem returnTrapResume (team : Nat) (fibre : Nat) : Statement (.returnTrapResume team fibre) := statement_nil rfl

theorem slotLanding (cmd : Nat) : Statement (.slotLanding cmd) := statement_nil rfl

theorem permitReturn (ctx : Nat) (ch : Nat) : Statement (.permitReturn ctx ch) := statement_nil rfl

theorem conversionInput (ctx : Nat) (tid : Nat) (axis : Nat) (coord : Nat) (cells : List (Nat × BitVec 8)) : Statement (.conversionInput ctx tid axis coord cells) := statement_nil rfl

theorem conversionComplete (ctx : Nat) (tid : Nat) : Statement (.conversionComplete ctx tid) := statement_nil rfl

theorem add (d : BitVec 7) (a : BitVec 7) (b : BitVec 7) (f : BitVec 4) : Statement (.add d a b f) := by
  intro hwf _ rest
  have hd := d.isLt; have ha := a.isLt; have hb := b.isLt; have hf := f.isLt
  have hop : (pack25_18_11_4_0 0x01 d.toNat a.toNat b.toNat f.toNat) / 2 ^ 25 = 0x01 := by simp only [pack25_18_11_4_0]; omega
  refine decodeWords_of hwf ?_ ?_
  · simp only [lengthOf]; rw [hop]; rfl
  · rw [form_01 hop]
    simp only [decode01]
    congr 2 <;> (apply BitVec.eq_of_toNat_eq; simp only [fieldOf, BitVec.toNat_ofNat, pack25_18_11_4_0]; omega)

theorem sub (d : BitVec 7) (a : BitVec 7) (b : BitVec 7) (f : BitVec 4) : Statement (.sub d a b f) := by
  intro hwf _ rest
  have hd := d.isLt; have ha := a.isLt; have hb := b.isLt; have hf := f.isLt
  have hop : (pack25_18_11_4_0 0x02 d.toNat a.toNat b.toNat f.toNat) / 2 ^ 25 = 0x02 := by simp only [pack25_18_11_4_0]; omega
  refine decodeWords_of hwf ?_ ?_
  · simp only [lengthOf]; rw [hop]; rfl
  · rw [form_02 hop]
    simp only [decode02]
    congr 2 <;> (apply BitVec.eq_of_toNat_eq; simp only [fieldOf, BitVec.toNat_ofNat, pack25_18_11_4_0]; omega)

theorem addi (d : BitVec 7) (a : BitVec 7) (i : BitVec 11) : Statement (.addi d a i) := by
  intro hwf _ rest
  have hd := d.isLt; have ha := a.isLt; have hi := i.isLt
  have hop : (pack25_18_11_0 0x03 d.toNat a.toNat i.toNat) / 2 ^ 25 = 0x03 := by simp only [pack25_18_11_0]; omega
  refine decodeWords_of hwf ?_ ?_
  · simp only [lengthOf]; rw [hop]; rfl
  · rw [form_03 hop]
    simp only [decode03]
    congr 2 <;> (apply BitVec.eq_of_toNat_eq; simp only [fieldOf, BitVec.toNat_ofNat, pack25_18_11_0]; omega)

theorem mul (d : BitVec 7) (a : BitVec 7) (b : BitVec 7) (f : BitVec 4) : Statement (.mul d a b f) := by
  intro hwf _ rest
  have hd := d.isLt; have ha := a.isLt; have hb := b.isLt; have hf := f.isLt
  have hop : (pack25_18_11_4_0 0x04 d.toNat a.toNat b.toNat f.toNat) / 2 ^ 25 = 0x04 := by simp only [pack25_18_11_4_0]; omega
  refine decodeWords_of hwf ?_ ?_
  · simp only [lengthOf]; rw [hop]; rfl
  · rw [form_04 hop]
    simp only [decode04]
    congr 2 <;> (apply BitVec.eq_of_toNat_eq; simp only [fieldOf, BitVec.toNat_ofNat, pack25_18_11_4_0]; omega)

theorem mad (d : BitVec 7) (a : BitVec 7) (b : BitVec 7) (f : BitVec 4) : Statement (.mad d a b f) := by
  intro hwf _ rest
  have hd := d.isLt; have ha := a.isLt; have hb := b.isLt; have hf := f.isLt
  have hop : (pack25_18_11_4_0 0x05 d.toNat a.toNat b.toNat f.toNat) / 2 ^ 25 = 0x05 := by simp only [pack25_18_11_4_0]; omega
  refine decodeWords_of hwf ?_ ?_
  · simp only [lengthOf]; rw [hop]; rfl
  · rw [form_05 hop]
    simp only [decode05]
    congr 2 <;> (apply BitVec.eq_of_toNat_eq; simp only [fieldOf, BitVec.toNat_ofNat, pack25_18_11_4_0]; omega)

theorem div (d : BitVec 7) (a : BitVec 7) (b : BitVec 7) (s : BitVec 1) (w : BitVec 1) : Statement (.div d a b s w) := by
  intro hwf _ rest
  have hd := d.isLt; have ha := a.isLt; have hb := b.isLt; have hs := s.isLt; have hw := w.isLt
  have hop : (pack25_18_11_4_2_0 0x06 d.toNat a.toNat b.toNat s.toNat w.toNat) / 2 ^ 25 = 0x06 := by simp only [pack25_18_11_4_2_0]; omega
  refine decodeWords_of hwf ?_ ?_
  · simp only [lengthOf]; rw [hop]; rfl
  · rw [form_06 hop]
    simp only [decode06]
    rw [if_pos (by simp only [bitsOf, pack25_18_11_4_2_0]; omega)]
    congr 2 <;> (apply BitVec.eq_of_toNat_eq; simp only [fieldOf, BitVec.toNat_ofNat, pack25_18_11_4_2_0]; omega)

theorem rem (d : BitVec 7) (a : BitVec 7) (b : BitVec 7) (s : BitVec 1) (w : BitVec 1) : Statement (.rem d a b s w) := by
  intro hwf _ rest
  have hd := d.isLt; have ha := a.isLt; have hb := b.isLt; have hs := s.isLt; have hw := w.isLt
  have hop : (pack25_18_11_4_2_1_0 0x06 d.toNat a.toNat b.toNat s.toNat 1 w.toNat) / 2 ^ 25 = 0x06 := by simp only [pack25_18_11_4_2_1_0]; omega
  refine decodeWords_of hwf ?_ ?_
  · simp only [lengthOf]; rw [hop]; rfl
  · rw [form_06 hop]
    simp only [decode06]
    rw [if_neg (by simp only [bitsOf, pack25_18_11_4_2_1_0]; omega)]
    rw [if_pos (by simp only [bitsOf, pack25_18_11_4_2_1_0]; omega)]
    congr 2 <;> (apply BitVec.eq_of_toNat_eq; simp only [fieldOf, BitVec.toNat_ofNat, pack25_18_11_4_2_1_0]; omega)

theorem minmax (d : BitVec 7) (a : BitVec 7) (b : BitVec 7) (c : BitVec 1) (m : BitVec 1) (w : BitVec 1) : Statement (.minmax d a b c m w) := by
  intro hwf _ rest
  have hd := d.isLt; have ha := a.isLt; have hb := b.isLt; have hc := c.isLt; have hm := m.isLt; have hw := w.isLt
  have hop : (pack25_18_11_4_2_1_0 0x07 d.toNat a.toNat b.toNat c.toNat m.toNat w.toNat) / 2 ^ 25 = 0x07 := by simp only [pack25_18_11_4_2_1_0]; omega
  refine decodeWords_of hwf ?_ ?_
  · simp only [lengthOf]; rw [hop]; rfl
  · rw [form_07 hop]
    simp only [decode07]
    rw [if_pos (by simp only [bitsOf, pack25_18_11_4_2_1_0]; omega)]
    congr 2 <;> (apply BitVec.eq_of_toNat_eq; simp only [fieldOf, BitVec.toNat_ofNat, pack25_18_11_4_2_1_0]; omega)

theorem andR (d : BitVec 7) (a : BitVec 7) (b : BitVec 7) : Statement (.andR d a b) := by
  intro hwf _ rest
  have hd := d.isLt; have ha := a.isLt; have hb := b.isLt
  have hop : (pack25_18_11_4 0x08 d.toNat a.toNat b.toNat) / 2 ^ 25 = 0x08 := by simp only [pack25_18_11_4]; omega
  refine decodeWords_of hwf ?_ ?_
  · simp only [lengthOf]; rw [hop]; rfl
  · rw [form_08 hop]
    simp only [decode08]
    rw [if_pos (by simp only [bitsOf, pack25_18_11_4]; omega)]
    congr 2 <;> (apply BitVec.eq_of_toNat_eq; simp only [fieldOf, BitVec.toNat_ofNat, pack25_18_11_4]; omega)

theorem orR (d : BitVec 7) (a : BitVec 7) (b : BitVec 7) : Statement (.orR d a b) := by
  intro hwf _ rest
  have hd := d.isLt; have ha := a.isLt; have hb := b.isLt
  have hop : (pack25_18_11_4 0x09 d.toNat a.toNat b.toNat) / 2 ^ 25 = 0x09 := by simp only [pack25_18_11_4]; omega
  refine decodeWords_of hwf ?_ ?_
  · simp only [lengthOf]; rw [hop]; rfl
  · rw [form_09 hop]
    simp only [decode09]
    rw [if_pos (by simp only [bitsOf, pack25_18_11_4]; omega)]
    congr 2 <;> (apply BitVec.eq_of_toNat_eq; simp only [fieldOf, BitVec.toNat_ofNat, pack25_18_11_4]; omega)

theorem xorR (d : BitVec 7) (a : BitVec 7) (b : BitVec 7) : Statement (.xorR d a b) := by
  intro hwf _ rest
  have hd := d.isLt; have ha := a.isLt; have hb := b.isLt
  have hop : (pack25_18_11_4 0x0A d.toNat a.toNat b.toNat) / 2 ^ 25 = 0x0A := by simp only [pack25_18_11_4]; omega
  refine decodeWords_of hwf ?_ ?_
  · simp only [lengthOf]; rw [hop]; rfl
  · rw [form_0A hop]
    simp only [decode0A]
    rw [if_pos (by simp only [bitsOf, pack25_18_11_4]; omega)]
    congr 2 <;> (apply BitVec.eq_of_toNat_eq; simp only [fieldOf, BitVec.toNat_ofNat, pack25_18_11_4]; omega)

theorem andn (d : BitVec 7) (a : BitVec 7) (b : BitVec 7) : Statement (.andn d a b) := by
  intro hwf _ rest
  have hd := d.isLt; have ha := a.isLt; have hb := b.isLt
  have hop : (pack25_18_11_4 0x0B d.toNat a.toNat b.toNat) / 2 ^ 25 = 0x0B := by simp only [pack25_18_11_4]; omega
  refine decodeWords_of hwf ?_ ?_
  · simp only [lengthOf]; rw [hop]; rfl
  · rw [form_0B hop]
    simp only [decode0B]
    rw [if_pos (by simp only [bitsOf, pack25_18_11_4]; omega)]
    congr 2 <;> (apply BitVec.eq_of_toNat_eq; simp only [fieldOf, BitVec.toNat_ofNat, pack25_18_11_4]; omega)

theorem andi (d : BitVec 7) (a : BitVec 7) (i : BitVec 11) : Statement (.andi d a i) := by
  intro hwf _ rest
  have hd := d.isLt; have ha := a.isLt; have hi := i.isLt
  have hop : (pack25_18_11_0 0x0C d.toNat a.toNat i.toNat) / 2 ^ 25 = 0x0C := by simp only [pack25_18_11_0]; omega
  refine decodeWords_of hwf ?_ ?_
  · simp only [lengthOf]; rw [hop]; rfl
  · rw [form_0C hop]
    simp only [decode0C]
    congr 2 <;> (apply BitVec.eq_of_toNat_eq; simp only [fieldOf, BitVec.toNat_ofNat, pack25_18_11_0]; omega)

theorem ori (d : BitVec 7) (a : BitVec 7) (i : BitVec 11) : Statement (.ori d a i) := by
  intro hwf _ rest
  have hd := d.isLt; have ha := a.isLt; have hi := i.isLt
  have hop : (pack25_18_11_0 0x0D d.toNat a.toNat i.toNat) / 2 ^ 25 = 0x0D := by simp only [pack25_18_11_0]; omega
  refine decodeWords_of hwf ?_ ?_
  · simp only [lengthOf]; rw [hop]; rfl
  · rw [form_0D hop]
    simp only [decode0D]
    congr 2 <;> (apply BitVec.eq_of_toNat_eq; simp only [fieldOf, BitVec.toNat_ofNat, pack25_18_11_0]; omega)

theorem xori (d : BitVec 7) (a : BitVec 7) (i : BitVec 11) : Statement (.xori d a i) := by
  intro hwf _ rest
  have hd := d.isLt; have ha := a.isLt; have hi := i.isLt
  have hop : (pack25_18_11_0 0x0E d.toNat a.toNat i.toNat) / 2 ^ 25 = 0x0E := by simp only [pack25_18_11_0]; omega
  refine decodeWords_of hwf ?_ ?_
  · simp only [lengthOf]; rw [hop]; rfl
  · rw [form_0E hop]
    simp only [decode0E]
    congr 2 <;> (apply BitVec.eq_of_toNat_eq; simp only [fieldOf, BitVec.toNat_ofNat, pack25_18_11_0]; omega)

theorem shift (d : BitVec 7) (a : BitVec 7) (b : BitVec 7) (w : BitVec 1) (k : BitVec 2) : Statement (.shift d a b w k) := by
  intro hwf _ rest
  have hd := d.isLt; have ha := a.isLt; have hb := b.isLt; have hw := w.isLt; have hk := k.isLt
  have hop : (pack25_18_11_4_2_0 0x0F d.toNat a.toNat b.toNat w.toNat k.toNat) / 2 ^ 25 = 0x0F := by simp only [pack25_18_11_4_2_0]; omega
  refine decodeWords_of hwf ?_ ?_
  · simp only [lengthOf]; rw [hop]; rfl
  · rw [form_0F hop]
    simp only [decode0F]
    rw [if_pos (by simp only [bitsOf, pack25_18_11_4_2_0]; omega)]
    congr 2 <;> (apply BitVec.eq_of_toNat_eq; simp only [fieldOf, BitVec.toNat_ofNat, pack25_18_11_4_2_0]; omega)

theorem shifti (d : BitVec 7) (a : BitVec 7) (w : BitVec 1) (k : BitVec 2) (c : BitVec 6) : Statement (.shifti d a w k c) := by
  intro hwf _ rest
  have hd := d.isLt; have ha := a.isLt; have hw := w.isLt; have hk := k.isLt; have hc := c.isLt
  have hop : (pack25_18_11_8_6_0 0x10 d.toNat a.toNat w.toNat k.toNat c.toNat) / 2 ^ 25 = 0x10 := by simp only [pack25_18_11_8_6_0]; omega
  refine decodeWords_of hwf ?_ ?_
  · simp only [lengthOf]; rw [hop]; rfl
  · rw [form_10 hop]
    simp only [decode10]
    rw [if_pos (by simp only [bitsOf, pack25_18_11_8_6_0]; omega)]
    congr 2 <;> (apply BitVec.eq_of_toNat_eq; simp only [fieldOf, BitVec.toNat_ofNat, pack25_18_11_8_6_0]; omega)

theorem bfx (d : BitVec 7) (a : BitVec 7) (l : BitVec 5) (p : BitVec 6) : Statement (.bfx d a l p) := by
  intro hwf _ rest
  have hd := d.isLt; have ha := a.isLt; have hl := l.isLt; have hp := p.isLt
  have hop : (pack25_18_11_6_0 0x11 d.toNat a.toNat l.toNat p.toNat) / 2 ^ 25 = 0x11 := by simp only [pack25_18_11_6_0]; omega
  refine decodeWords_of hwf ?_ ?_
  · simp only [lengthOf]; rw [hop]; rfl
  · rw [form_11 hop]
    simp only [decode11]
    congr 2 <;> (apply BitVec.eq_of_toNat_eq; simp only [fieldOf, BitVec.toNat_ofNat, pack25_18_11_6_0]; omega)

theorem bfi (d : BitVec 7) (a : BitVec 7) (l : BitVec 5) (p : BitVec 6) : Statement (.bfi d a l p) := by
  intro hwf _ rest
  have hd := d.isLt; have ha := a.isLt; have hl := l.isLt; have hp := p.isLt
  have hop : (pack25_18_11_6_0 0x12 d.toNat a.toNat l.toNat p.toNat) / 2 ^ 25 = 0x12 := by simp only [pack25_18_11_6_0]; omega
  refine decodeWords_of hwf ?_ ?_
  · simp only [lengthOf]; rw [hop]; rfl
  · rw [form_12 hop]
    simp only [decode12]
    congr 2 <;> (apply BitVec.eq_of_toNat_eq; simp only [fieldOf, BitVec.toNat_ofNat, pack25_18_11_6_0]; omega)

theorem bitop (d : BitVec 7) (a : BitVec 7) (f : BitVec 4) : Statement (.bitop d a f) := by
  intro hwf _ rest
  have hd := d.isLt; have ha := a.isLt; have hf := f.isLt
  have hop : (pack25_18_11_0 0x13 d.toNat a.toNat f.toNat) / 2 ^ 25 = 0x13 := by simp only [pack25_18_11_0]; omega
  refine decodeWords_of hwf ?_ ?_
  · simp only [lengthOf]; rw [hop]; rfl
  · rw [form_13 hop]
    simp only [decode13]
    rw [if_pos (by simp only [bitsOf, pack25_18_11_0]; omega)]
    congr 2 <;> (apply BitVec.eq_of_toNat_eq; simp only [fieldOf, BitVec.toNat_ofNat, pack25_18_11_0]; omega)

theorem mov (d : BitVec 7) (a : BitVec 7) (f : BitVec 4) : Statement (.mov d a f) := by
  intro hwf _ rest
  have hd := d.isLt; have ha := a.isLt; have hf := f.isLt
  have hv := hwf
  simp [Instr.wf] at hv
  have hop : (pack25_18_11_0 0x14 d.toNat a.toNat f.toNat) / 2 ^ 25 = 0x14 := by simp only [pack25_18_11_0]; omega
  refine decodeWords_of hwf ?_ ?_
  · simp only [lengthOf]; rw [hop]; rfl
  · rw [form_14 hop]
    simp only [decode14]
    rw [if_neg (by simp only [bitsOf, pack25_18_11_0]; omega)]
    rw [if_neg (by simp only [bitsOf, pack25_18_11_0]; omega)]
    rw [if_neg (by simp only [bitsOf, pack25_18_11_0]; omega)]
    rw [if_neg (by simp only [bitsOf, pack25_18_11_0]; omega)]
    rw [if_pos (by simp only [bitsOf, pack25_18_11_0]; omega)]
    congr 2 <;> (apply BitVec.eq_of_toNat_eq; simp only [fieldOf, BitVec.toNat_ofNat, pack25_18_11_0]; omega)

theorem movRdp (d : BitVec 7) : Statement (.movRdp d) := by
  intro hwf _ rest
  have hd := d.isLt
  have hop : (pack25_18_0 0x14 d.toNat 7) / 2 ^ 25 = 0x14 := by simp only [pack25_18_0]; omega
  refine decodeWords_of hwf ?_ ?_
  · simp only [lengthOf]; rw [hop]; rfl
  · rw [form_14 hop]
    simp only [decode14]
    rw [if_pos (by simp only [bitsOf, pack25_18_0]; omega)]
    congr 2 <;> (apply BitVec.eq_of_toNat_eq; simp only [fieldOf, BitVec.toNat_ofNat, pack25_18_0]; omega)

theorem movWrp (a : BitVec 7) : Statement (.movWrp a) := by
  intro hwf _ rest
  have ha := a.isLt
  have hop : (pack25_11_0 0x14 a.toNat 8) / 2 ^ 25 = 0x14 := by simp only [pack25_11_0]; omega
  refine decodeWords_of hwf ?_ ?_
  · simp only [lengthOf]; rw [hop]; rfl
  · rw [form_14 hop]
    simp only [decode14]
    rw [if_neg (by simp only [bitsOf, pack25_11_0]; omega)]
    rw [if_pos (by simp only [bitsOf, pack25_11_0]; omega)]
    congr 2 <;> (apply BitVec.eq_of_toNat_eq; simp only [fieldOf, BitVec.toNat_ofNat, pack25_11_0]; omega)

theorem movFromSpecial (d : BitVec 7) (c : BitVec 7) : Statement (.movFromSpecial d c) := by
  intro hwf _ rest
  have hd := d.isLt; have hc := c.isLt
  have hop : (pack25_18_11_0 0x14 d.toNat c.toNat 9) / 2 ^ 25 = 0x14 := by simp only [pack25_18_11_0]; omega
  refine decodeWords_of hwf ?_ ?_
  · simp only [lengthOf]; rw [hop]; rfl
  · rw [form_14 hop]
    simp only [decode14]
    rw [if_neg (by simp only [bitsOf, pack25_18_11_0]; omega)]
    rw [if_neg (by simp only [bitsOf, pack25_18_11_0]; omega)]
    rw [if_pos (by simp only [bitsOf, pack25_18_11_0]; omega)]
    congr 2 <;> (apply BitVec.eq_of_toNat_eq; simp only [fieldOf, BitVec.toNat_ofNat, pack25_18_11_0]; omega)

theorem movToSpecial (c : BitVec 7) (a : BitVec 7) : Statement (.movToSpecial c a) := by
  intro hwf _ rest
  have hc := c.isLt; have ha := a.isLt
  have hop : (pack25_18_11_0 0x14 c.toNat a.toNat 10) / 2 ^ 25 = 0x14 := by simp only [pack25_18_11_0]; omega
  refine decodeWords_of hwf ?_ ?_
  · simp only [lengthOf]; rw [hop]; rfl
  · rw [form_14 hop]
    simp only [decode14]
    rw [if_neg (by simp only [bitsOf, pack25_18_11_0]; omega)]
    rw [if_neg (by simp only [bitsOf, pack25_18_11_0]; omega)]
    rw [if_neg (by simp only [bitsOf, pack25_18_11_0]; omega)]
    rw [if_pos (by simp only [bitsOf, pack25_18_11_0]; omega)]
    congr 2 <;> (apply BitVec.eq_of_toNat_eq; simp only [fieldOf, BitVec.toNat_ofNat, pack25_18_11_0]; omega)

theorem movi (d : BitVec 7) (i : BitVec 11) : Statement (.movi d i) := by
  intro hwf _ rest
  have hd := d.isLt; have hi := i.isLt
  have hop : (pack25_18_0 0x15 d.toNat i.toNat) / 2 ^ 25 = 0x15 := by simp only [pack25_18_0]; omega
  refine decodeWords_of hwf ?_ ?_
  · simp only [lengthOf]; rw [hop]; rfl
  · rw [form_15 hop]
    simp only [decode15]
    rw [if_pos (by simp only [bitsOf, pack25_18_0]; omega)]
    congr 2 <;> (apply BitVec.eq_of_toNat_eq; simp only [fieldOf, BitVec.toNat_ofNat, pack25_18_0]; omega)

theorem movl (d : BitVec 7) (l : BitVec 32) : Statement (.movl d l) := by
  intro hwf _ rest
  have hd := d.isLt; have hl := l.isLt
  have hop : (pack25_18 0x16 d.toNat) / 2 ^ 25 = 0x16 := by simp only [pack25_18]; omega
  refine decodeWords_of hwf ?_ ?_
  · simp only [lengthOf]; rw [hop]; rfl
  · rw [form_16 hop]
    simp only [decode16, List.cons_append, List.nil_append, List.getD_cons_zero, List.getD_cons_succ]
    rw [if_pos (by simp only [bitsOf, pack0, pack25_18]; omega)]
    congr 2 <;> (apply BitVec.eq_of_toNat_eq; simp only [fieldOf, BitVec.toNat_ofNat, pack0, pack25_18]; omega)

theorem movlS (d : BitVec 7) (l : BitVec 32) : Statement (.movlS d l) := by
  intro hwf _ rest
  have hd := d.isLt; have hl := l.isLt
  have hop : (pack25_18_0 0x16 d.toNat 1) / 2 ^ 25 = 0x16 := by simp only [pack25_18_0]; omega
  refine decodeWords_of hwf ?_ ?_
  · simp only [lengthOf]; rw [hop]; rfl
  · rw [form_16 hop]
    simp only [decode16, List.cons_append, List.nil_append, List.getD_cons_zero, List.getD_cons_succ]
    rw [if_neg (by simp only [bitsOf, pack0, pack25_18_0]; omega)]
    rw [if_pos (by simp only [bitsOf, pack0, pack25_18_0]; omega)]
    congr 2 <;> (apply BitVec.eq_of_toNat_eq; simp only [fieldOf, BitVec.toNat_ofNat, pack0, pack25_18_0]; omega)

theorem movlHi (d : BitVec 7) (l : BitVec 32) : Statement (.movlHi d l) := by
  intro hwf _ rest
  have hd := d.isLt; have hl := l.isLt
  have hop : (pack25_18_0 0x16 d.toNat 2) / 2 ^ 25 = 0x16 := by simp only [pack25_18_0]; omega
  refine decodeWords_of hwf ?_ ?_
  · simp only [lengthOf]; rw [hop]; rfl
  · rw [form_16 hop]
    simp only [decode16, List.cons_append, List.nil_append, List.getD_cons_zero, List.getD_cons_succ]
    rw [if_neg (by simp only [bitsOf, pack0, pack25_18_0]; omega)]
    rw [if_neg (by simp only [bitsOf, pack0, pack25_18_0]; omega)]
    rw [if_pos (by simp only [bitsOf, pack0, pack25_18_0]; omega)]
    congr 2 <;> (apply BitVec.eq_of_toNat_eq; simp only [fieldOf, BitVec.toNat_ofNat, pack0, pack25_18_0]; omega)

theorem lea (d : BitVec 7) (a : BitVec 7) (b : BitVec 7) (x : BitVec 1) (s : BitVec 3) : Statement (.lea d a b x s) := by
  intro hwf _ rest
  have hd := d.isLt; have ha := a.isLt; have hb := b.isLt; have hx := x.isLt; have hs := s.isLt
  have hop : (pack25_18_11_4_3_0 0x17 d.toNat a.toNat b.toNat x.toNat s.toNat) / 2 ^ 25 = 0x17 := by simp only [pack25_18_11_4_3_0]; omega
  refine decodeWords_of hwf ?_ ?_
  · simp only [lengthOf]; rw [hop]; rfl
  · rw [form_17 hop]
    simp only [decode17]
    congr 2 <;> (apply BitVec.eq_of_toNat_eq; simp only [fieldOf, BitVec.toNat_ofNat, pack25_18_11_4_3_0]; omega)

theorem cmp (p : BitVec 5) (c : BitVec 2) (a : BitVec 7) (b : BitVec 7) (n : BitVec 4) : Statement (.cmp p c a b n) := by
  intro hwf _ rest
  have hp := p.isLt; have hc := c.isLt; have ha := a.isLt; have hb := b.isLt; have hn := n.isLt
  have hop : (pack25_20_18_11_4_0 0x18 p.toNat c.toNat a.toNat b.toNat n.toNat) / 2 ^ 25 = 0x18 := by simp only [pack25_20_18_11_4_0]; omega
  refine decodeWords_of hwf ?_ ?_
  · simp only [lengthOf]; rw [hop]; rfl
  · rw [form_18 hop]
    simp only [decode18]
    congr 2 <;> (apply BitVec.eq_of_toNat_eq; simp only [fieldOf, BitVec.toNat_ofNat, pack25_20_18_11_4_0]; omega)

theorem cmpi (p : BitVec 5) (c : BitVec 2) (a : BitVec 7) (i : BitVec 7) (n : BitVec 4) : Statement (.cmpi p c a i n) := by
  intro hwf _ rest
  have hp := p.isLt; have hc := c.isLt; have ha := a.isLt; have hi := i.isLt; have hn := n.isLt
  have hop : (pack25_20_18_11_4_0 0x19 p.toNat c.toNat a.toNat i.toNat n.toNat) / 2 ^ 25 = 0x19 := by simp only [pack25_20_18_11_4_0]; omega
  refine decodeWords_of hwf ?_ ?_
  · simp only [lengthOf]; rw [hop]; rfl
  · rw [form_19 hop]
    simp only [decode19]
    congr 2 <;> (apply BitVec.eq_of_toNat_eq; simp only [fieldOf, BitVec.toNat_ofNat, pack25_20_18_11_4_0]; omega)

theorem plog (p : BitVec 5) (c : BitVec 2) (x : BitVec 5) (y : BitVec 5) (t : BitVec 4) : Statement (.plog p c x y t) := by
  intro hwf _ rest
  have hp := p.isLt; have hc := c.isLt; have hx := x.isLt; have hy := y.isLt; have ht := t.isLt
  have hop : (pack25_20_18_11_4_0 0x1A p.toNat c.toNat x.toNat y.toNat t.toNat) / 2 ^ 25 = 0x1A := by simp only [pack25_20_18_11_4_0]; omega
  refine decodeWords_of hwf ?_ ?_
  · simp only [lengthOf]; rw [hop]; rfl
  · rw [form_1A hop]
    simp only [decode1A]
    rw [if_pos (by simp only [bitsOf, pack25_20_18_11_4_0]; omega)]
    congr 2 <;> (apply BitVec.eq_of_toNat_eq; simp only [fieldOf, BitVec.toNat_ofNat, pack25_20_18_11_4_0]; omega)

theorem pred (p : BitVec 5) (n : BitVec 1) (s : BitVec 3) : Statement (.pred p n s) := by
  intro hwf _ rest
  have hp := p.isLt; have hn := n.isLt; have hs := s.isLt
  have hop : (pack25_20_19_16 0x1B p.toNat n.toNat s.toNat) / 2 ^ 25 = 0x1B := by simp only [pack25_20_19_16]; omega
  refine decodeWords_of hwf ?_ ?_
  · simp only [lengthOf]; rw [hop]; rfl
  · rw [form_1B hop]
    simp only [decode1B]
    rw [if_pos (by simp only [bitsOf, pack25_20_19_16]; omega)]
    congr 2 <;> (apply BitVec.eq_of_toNat_eq; simp only [fieldOf, BitVec.toNat_ofNat, pack25_20_19_16]; omega)

theorem bra (p : BitVec 5) (n : BitVec 1) (o : BitVec 19) : Statement (.bra p n o) := by
  intro hwf _ rest
  have hp := p.isLt; have hn := n.isLt; have ho := o.isLt
  have hop : (pack25_20_19_0 0x20 p.toNat n.toNat o.toNat) / 2 ^ 25 = 0x20 := by simp only [pack25_20_19_0]; omega
  refine decodeWords_of hwf ?_ ?_
  · simp only [lengthOf]; rw [hop]; rfl
  · rw [form_20 hop]
    simp only [decode20]
    congr 2 <;> (apply BitVec.eq_of_toNat_eq; simp only [fieldOf, BitVec.toNat_ofNat, pack25_20_19_0]; omega)

theorem call (p : BitVec 5) (n : BitVec 1) (o : BitVec 19) : Statement (.call p n o) := by
  intro hwf _ rest
  have hp := p.isLt; have hn := n.isLt; have ho := o.isLt
  have hop : (pack25_20_19_0 0x21 p.toNat n.toNat o.toNat) / 2 ^ 25 = 0x21 := by simp only [pack25_20_19_0]; omega
  refine decodeWords_of hwf ?_ ?_
  · simp only [lengthOf]; rw [hop]; rfl
  · rw [form_21 hop]
    simp only [decode21]
    congr 2 <;> (apply BitVec.eq_of_toNat_eq; simp only [fieldOf, BitVec.toNat_ofNat, pack25_20_19_0]; omega)

theorem jmp (a : BitVec 7) : Statement (.jmp a) := by
  intro hwf _ rest
  have ha := a.isLt
  have hop : (pack25_11 0x22 a.toNat) / 2 ^ 25 = 0x22 := by simp only [pack25_11]; omega
  refine decodeWords_of hwf ?_ ?_
  · simp only [lengthOf]; rw [hop]; rfl
  · rw [form_22 hop]
    simp only [decode22]
    rw [if_neg (by simp only [bitsOf, pack25_11]; omega)]
    rw [if_pos (by simp only [bitsOf, pack25_11]; omega)]
    congr 2 <;> (apply BitVec.eq_of_toNat_eq; simp only [fieldOf, BitVec.toNat_ofNat, pack25_11]; omega)

theorem callr (a : BitVec 7) : Statement (.callr a) := by
  intro hwf _ rest
  have ha := a.isLt
  have hop : (pack25_11_0 0x22 a.toNat 1) / 2 ^ 25 = 0x22 := by simp only [pack25_11_0]; omega
  refine decodeWords_of hwf ?_ ?_
  · simp only [lengthOf]; rw [hop]; rfl
  · rw [form_22 hop]
    simp only [decode22]
    rw [if_neg (by simp only [bitsOf, pack25_11_0]; omega)]
    rw [if_neg (by simp only [bitsOf, pack25_11_0]; omega)]
    rw [if_pos (by simp only [bitsOf, pack25_11_0]; omega)]
    congr 2 <;> (apply BitVec.eq_of_toNat_eq; simp only [fieldOf, BitVec.toNat_ofNat, pack25_11_0]; omega)

theorem spawn (d : BitVec 7) (a : BitVec 7) (b : BitVec 7) (n : BitVec 4) (key : BitVec 16) : Statement (.spawn d a b n key) := by
  intro hwf _ rest
  have hd := d.isLt; have ha := a.isLt; have hb := b.isLt; have hn := n.isLt; have hkey := key.isLt
  have hop : (pack25_18_11_4_0 0x24 d.toNat a.toNat b.toNat n.toNat) / 2 ^ 25 = 0x24 := by simp only [pack25_18_11_4_0]; omega
  refine decodeWords_of hwf ?_ ?_
  · simp only [lengthOf]; rw [hop]; rfl
  · rw [form_24 hop]
    simp only [decode24, List.cons_append, List.nil_append, List.getD_cons_zero, List.getD_cons_succ]
    rw [if_pos (by simp only [bitsOf, pack0, pack25_18_11_4_0]; omega)]
    congr 2 <;> (apply BitVec.eq_of_toNat_eq; simp only [fieldOf, BitVec.toNat_ofNat, pack0, pack25_18_11_4_0]; omega)

theorem rebin (d : BitVec 7) (a : BitVec 7) (b : BitVec 7) (n : BitVec 4) (key : BitVec 16) : Statement (.rebin d a b n key) := by
  intro hwf _ rest
  have hd := d.isLt; have ha := a.isLt; have hb := b.isLt; have hn := n.isLt; have hkey := key.isLt
  have hop : (pack25_18_11_4_0 0x25 d.toNat a.toNat b.toNat n.toNat) / 2 ^ 25 = 0x25 := by simp only [pack25_18_11_4_0]; omega
  refine decodeWords_of hwf ?_ ?_
  · simp only [lengthOf]; rw [hop]; rfl
  · rw [form_25 hop]
    simp only [decode25, List.cons_append, List.nil_append, List.getD_cons_zero, List.getD_cons_succ]
    rw [if_pos (by simp only [bitsOf, pack0, pack25_18_11_4_0]; omega)]
    congr 2 <;> (apply BitVec.eq_of_toNat_eq; simp only [fieldOf, BitVec.toNat_ofNat, pack0, pack25_18_11_4_0]; omega)

theorem trap (i : BitVec 11) : Statement (.trap i) := by
  intro hwf _ rest
  have hi := i.isLt
  have hop : (pack25_0 0x27 i.toNat) / 2 ^ 25 = 0x27 := by simp only [pack25_0]; omega
  refine decodeWords_of hwf ?_ ?_
  · simp only [lengthOf]; rw [hop]; rfl
  · rw [form_27 hop]
    simp only [decode27]
    rw [if_pos (by simp only [bitsOf, pack25_0]; omega)]
    congr 2 <;> (apply BitVec.eq_of_toNat_eq; simp only [fieldOf, BitVec.toNat_ofNat, pack25_0]; omega)

theorem sysrd (d : BitVec 7) (s : BitVec 11) : Statement (.sysrd d s) := by
  intro hwf _ rest
  have hd := d.isLt; have hs := s.isLt
  have hop : (pack25_18_0 0x29 d.toNat s.toNat) / 2 ^ 25 = 0x29 := by simp only [pack25_18_0]; omega
  refine decodeWords_of hwf ?_ ?_
  · simp only [lengthOf]; rw [hop]; rfl
  · rw [form_29 hop]
    simp only [decode29]
    rw [if_pos (by simp only [bitsOf, pack25_18_0]; omega)]
    congr 2 <;> (apply BitVec.eq_of_toNat_eq; simp only [fieldOf, BitVec.toNat_ofNat, pack25_18_0]; omega)

theorem syswr (a : BitVec 7) (s : BitVec 11) : Statement (.syswr a s) := by
  intro hwf _ rest
  have ha := a.isLt; have hs := s.isLt
  have hop : (pack25_11_0 0x2A a.toNat s.toNat) / 2 ^ 25 = 0x2A := by simp only [pack25_11_0]; omega
  refine decodeWords_of hwf ?_ ?_
  · simp only [lengthOf]; rw [hop]; rfl
  · rw [form_2A hop]
    simp only [decode2A]
    rw [if_pos (by simp only [bitsOf, pack25_11_0]; omega)]
    congr 2 <;> (apply BitVec.eq_of_toNat_eq; simp only [fieldOf, BitVec.toNat_ofNat, pack25_11_0]; omega)

theorem fence (c : BitVec 3) (k : BitVec 3) : Statement (.fence c k) := by
  intro hwf _ rest
  have hc := c.isLt; have hk := k.isLt
  have hop : (pack25_8_5 0x2B c.toNat k.toNat) / 2 ^ 25 = 0x2B := by simp only [pack25_8_5]; omega
  refine decodeWords_of hwf ?_ ?_
  · simp only [lengthOf]; rw [hop]; rfl
  · rw [form_2B hop]
    simp only [decode2B]
    rw [if_neg (by simp only [bitsOf, pack25_8_5]; omega)]
    rw [if_pos (by simp only [bitsOf, pack25_8_5]; omega)]
    congr 2 <;> (apply BitVec.eq_of_toNat_eq; simp only [fieldOf, BitVec.toNat_ofNat, pack25_8_5]; omega)

theorem fenceHeavy (b : BitVec 7) : Statement (.fenceHeavy b) := by
  intro hwf _ rest
  have hb := b.isLt
  have hop : (pack25_11_0 0x2B b.toNat 16) / 2 ^ 25 = 0x2B := by simp only [pack25_11_0]; omega
  refine decodeWords_of hwf ?_ ?_
  · simp only [lengthOf]; rw [hop]; rfl
  · rw [form_2B hop]
    simp only [decode2B]
    rw [if_neg (by simp only [bitsOf, pack25_11_0]; omega)]
    rw [if_neg (by simp only [bitsOf, pack25_11_0]; omega)]
    rw [if_pos (by simp only [bitsOf, pack25_11_0]; omega)]
    congr 2 <;> (apply BitVec.eq_of_toNat_eq; simp only [fieldOf, BitVec.toNat_ofNat, pack25_11_0]; omega)

theorem ld (d : BitVec 7) (b : BitVec 7) (o : BitVec 6) (s : BitVec 2) (z : BitVec 3) : Statement (.ld d b o s z) := by
  intro hwf _ rest
  have hd := d.isLt; have hb := b.isLt; have ho := o.isLt; have hs := s.isLt; have hz := z.isLt
  have hop : (pack25_18_11_5_3_0 0x30 d.toNat b.toNat o.toNat s.toNat z.toNat) / 2 ^ 25 = 0x30 := by simp only [pack25_18_11_5_3_0]; omega
  refine decodeWords_of hwf ?_ ?_
  · simp only [lengthOf]; rw [hop]; rfl
  · rw [form_30 hop]
    simp only [decode30]
    congr 2 <;> (apply BitVec.eq_of_toNat_eq; simp only [fieldOf, BitVec.toNat_ofNat, pack25_18_11_5_3_0]; omega)

theorem st (d : BitVec 7) (b : BitVec 7) (o : BitVec 6) (s : BitVec 2) (z : BitVec 3) : Statement (.st d b o s z) := by
  intro hwf _ rest
  have hd := d.isLt; have hb := b.isLt; have ho := o.isLt; have hs := s.isLt; have hz := z.isLt
  have hop : (pack25_18_11_5_3_0 0x31 d.toNat b.toNat o.toNat s.toNat z.toNat) / 2 ^ 25 = 0x31 := by simp only [pack25_18_11_5_3_0]; omega
  refine decodeWords_of hwf ?_ ?_
  · simp only [lengthOf]; rw [hop]; rfl
  · rw [form_31 hop]
    simp only [decode31]
    congr 2 <;> (apply BitVec.eq_of_toNat_eq; simp only [fieldOf, BitVec.toNat_ofNat, pack25_18_11_5_3_0]; omega)

theorem lds (d : BitVec 7) (b : BitVec 7) (c : BitVec 3) (k : BitVec 3) (s : BitVec 2) (z : BitVec 3) : Statement (.lds d b c k s z) := by
  intro hwf _ rest
  have hd := d.isLt; have hb := b.isLt; have hc := c.isLt; have hk := k.isLt; have hs := s.isLt; have hz := z.isLt
  have hop : (pack25_18_11_8_5_3_0 0x32 d.toNat b.toNat c.toNat k.toNat s.toNat z.toNat) / 2 ^ 25 = 0x32 := by simp only [pack25_18_11_8_5_3_0]; omega
  refine decodeWords_of hwf ?_ ?_
  · simp only [lengthOf]; rw [hop]; rfl
  · rw [form_32 hop]
    simp only [decode32]
    congr 2 <;> (apply BitVec.eq_of_toNat_eq; simp only [fieldOf, BitVec.toNat_ofNat, pack25_18_11_8_5_3_0]; omega)

theorem sts (d : BitVec 7) (b : BitVec 7) (c : BitVec 3) (k : BitVec 3) (s : BitVec 2) (z : BitVec 3) : Statement (.sts d b c k s z) := by
  intro hwf _ rest
  have hd := d.isLt; have hb := b.isLt; have hc := c.isLt; have hk := k.isLt; have hs := s.isLt; have hz := z.isLt
  have hop : (pack25_18_11_8_5_3_0 0x33 d.toNat b.toNat c.toNat k.toNat s.toNat z.toNat) / 2 ^ 25 = 0x33 := by simp only [pack25_18_11_8_5_3_0]; omega
  refine decodeWords_of hwf ?_ ?_
  · simp only [lengthOf]; rw [hop]; rfl
  · rw [form_33 hop]
    simp only [decode33]
    congr 2 <;> (apply BitVec.eq_of_toNat_eq; simp only [fieldOf, BitVec.toNat_ofNat, pack25_18_11_8_5_3_0]; omega)

theorem ldp (d : BitVec 7) (b : BitVec 7) (o : BitVec 6) (s : BitVec 2) (z : BitVec 1) : Statement (.ldp d b o s z) := by
  intro hwf _ rest
  have hd := d.isLt; have hb := b.isLt; have ho := o.isLt; have hs := s.isLt; have hz := z.isLt
  have hop : (pack25_18_11_5_3_1_0 0x34 d.toNat b.toNat o.toNat s.toNat 1 z.toNat) / 2 ^ 25 = 0x34 := by simp only [pack25_18_11_5_3_1_0]; omega
  refine decodeWords_of hwf ?_ ?_
  · simp only [lengthOf]; rw [hop]; rfl
  · rw [form_34 hop]
    simp only [decode34]
    rw [if_pos (by simp only [bitsOf, pack25_18_11_5_3_1_0]; omega)]
    congr 2 <;> (apply BitVec.eq_of_toNat_eq; simp only [fieldOf, BitVec.toNat_ofNat, pack25_18_11_5_3_1_0]; omega)

theorem stp (d : BitVec 7) (b : BitVec 7) (o : BitVec 6) (s : BitVec 2) (z : BitVec 1) : Statement (.stp d b o s z) := by
  intro hwf _ rest
  have hd := d.isLt; have hb := b.isLt; have ho := o.isLt; have hs := s.isLt; have hz := z.isLt
  have hop : (pack25_18_11_5_3_1_0 0x34 d.toNat b.toNat o.toNat s.toNat 3 z.toNat) / 2 ^ 25 = 0x34 := by simp only [pack25_18_11_5_3_1_0]; omega
  refine decodeWords_of hwf ?_ ?_
  · simp only [lengthOf]; rw [hop]; rfl
  · rw [form_34 hop]
    simp only [decode34]
    rw [if_neg (by simp only [bitsOf, pack25_18_11_5_3_1_0]; omega)]
    rw [if_pos (by simp only [bitsOf, pack25_18_11_5_3_1_0]; omega)]
    congr 2 <;> (apply BitVec.eq_of_toNat_eq; simp only [fieldOf, BitVec.toNat_ofNat, pack25_18_11_5_3_1_0]; omega)

theorem stn (d : BitVec 7) (b : BitVec 7) (o : BitVec 6) (s : BitVec 2) : Statement (.stn d b o s) := by
  intro hwf _ rest
  have hd := d.isLt; have hb := b.isLt; have ho := o.isLt; have hs := s.isLt
  have hop : (pack25_18_11_5_3 0x35 d.toNat b.toNat o.toNat s.toNat) / 2 ^ 25 = 0x35 := by simp only [pack25_18_11_5_3]; omega
  refine decodeWords_of hwf ?_ ?_
  · simp only [lengthOf]; rw [hop]; rfl
  · rw [form_35 hop]
    simp only [decode35]
    rw [if_pos (by simp only [bitsOf, pack25_18_11_5_3]; omega)]
    congr 2 <;> (apply BitVec.eq_of_toNat_eq; simp only [fieldOf, BitVec.toNat_ofNat, pack25_18_11_5_3]; omega)

theorem stm (d : BitVec 7) (b : BitVec 7) (o : BitVec 6) (s : BitVec 2) : Statement (.stm d b o s) := by
  intro hwf _ rest
  have hd := d.isLt; have hb := b.isLt; have ho := o.isLt; have hs := s.isLt
  have hop : (pack25_18_11_5_3_0 0x35 d.toNat b.toNat o.toNat s.toNat 3) / 2 ^ 25 = 0x35 := by simp only [pack25_18_11_5_3_0]; omega
  refine decodeWords_of hwf ?_ ?_
  · simp only [lengthOf]; rw [hop]; rfl
  · rw [form_35 hop]
    simp only [decode35]
    rw [if_neg (by simp only [bitsOf, pack25_18_11_5_3_0]; omega)]
    rw [if_pos (by simp only [bitsOf, pack25_18_11_5_3_0]; omega)]
    congr 2 <;> (apply BitVec.eq_of_toNat_eq; simp only [fieldOf, BitVec.toNat_ofNat, pack25_18_11_5_3_0]; omega)

theorem ldnr (d : BitVec 7) (b : BitVec 7) (p : BitVec 5) (s : BitVec 2) (z : BitVec 3) : Statement (.ldnr d b p s z) := by
  intro hwf _ rest
  have hd := d.isLt; have hb := b.isLt; have hp := p.isLt; have hs := s.isLt; have hz := z.isLt
  have hop : (pack25_18_11_6_3_0 0x36 d.toNat b.toNat p.toNat s.toNat z.toNat) / 2 ^ 25 = 0x36 := by simp only [pack25_18_11_6_3_0]; omega
  refine decodeWords_of hwf ?_ ?_
  · simp only [lengthOf]; rw [hop]; rfl
  · rw [form_36 hop]
    simp only [decode36]
    rw [if_pos (by simp only [bitsOf, pack25_18_11_6_3_0]; omega)]
    congr 2 <;> (apply BitVec.eq_of_toNat_eq; simp only [fieldOf, BitVec.toNat_ofNat, pack25_18_11_6_3_0]; omega)

theorem pref (b : BitVec 7) (o : BitVec 6) (s : BitVec 2) (l : BitVec 1) : Statement (.pref b o s l) := by
  intro hwf _ rest
  have hb := b.isLt; have ho := o.isLt; have hs := s.isLt; have hl := l.isLt
  have hop : (pack25_11_5_3_0 0x37 b.toNat o.toNat s.toNat l.toNat) / 2 ^ 25 = 0x37 := by simp only [pack25_11_5_3_0]; omega
  refine decodeWords_of hwf ?_ ?_
  · simp only [lengthOf]; rw [hop]; rfl
  · rw [form_37 hop]
    simp only [decode37]
    rw [if_pos (by simp only [bitsOf, pack25_11_5_3_0]; omega)]
    congr 2 <;> (apply BitVec.eq_of_toNat_eq; simp only [fieldOf, BitVec.toNat_ofNat, pack25_11_5_3_0]; omega)

theorem preq (d : BitVec 7) (b : BitVec 7) (o : BitVec 6) (s : BitVec 2) (w : BitVec 1) : Statement (.preq d b o s w) := by
  intro hwf _ rest
  have hd := d.isLt; have hb := b.isLt; have ho := o.isLt; have hs := s.isLt; have hw := w.isLt
  have hop : (pack25_18_11_5_3_1_0 0x37 d.toNat b.toNat o.toNat s.toNat 1 w.toNat) / 2 ^ 25 = 0x37 := by simp only [pack25_18_11_5_3_1_0]; omega
  refine decodeWords_of hwf ?_ ?_
  · simp only [lengthOf]; rw [hop]; rfl
  · rw [form_37 hop]
    simp only [decode37]
    rw [if_neg (by simp only [bitsOf, pack25_18_11_5_3_1_0]; omega)]
    rw [if_pos (by simp only [bitsOf, pack25_18_11_5_3_1_0]; omega)]
    congr 2 <;> (apply BitVec.eq_of_toNat_eq; simp only [fieldOf, BitVec.toNat_ofNat, pack25_18_11_5_3_1_0]; omega)

theorem atom32 (d : BitVec 7) (a : BitVec 7) (b : BitVec 7) (f : BitVec 4) (c : BitVec 3) (k : BitVec 3) (r : BitVec 1) (s : BitVec 2) : Statement (.atom32 d a b f c k r s) := by
  intro hwf _ rest
  have hd := d.isLt; have ha := a.isLt; have hb := b.isLt; have hf := f.isLt; have hc := c.isLt; have hk := k.isLt; have hr := r.isLt; have hs := s.isLt
  have hop : (pack25_18_11_4_0 0x38 d.toNat a.toNat b.toNat f.toNat) / 2 ^ 25 = 0x38 := by simp only [pack25_18_11_4_0]; omega
  refine decodeWords_of hwf ?_ ?_
  · simp only [lengthOf]; rw [hop]; rfl
  · rw [form_38 hop]
    simp only [decode38, List.cons_append, List.nil_append, List.getD_cons_zero, List.getD_cons_succ]
    rw [if_pos (by simp only [bitsOf, pack25_18_11_4_0, pack7_6_3_0]; omega)]
    congr 2 <;> (apply BitVec.eq_of_toNat_eq; simp only [fieldOf, BitVec.toNat_ofNat, pack25_18_11_4_0, pack7_6_3_0]; omega)

theorem atom64 (d : BitVec 7) (a : BitVec 7) (b : BitVec 7) (f : BitVec 4) (c : BitVec 3) (k : BitVec 3) (r : BitVec 1) (s : BitVec 2) : Statement (.atom64 d a b f c k r s) := by
  intro hwf _ rest
  have hd := d.isLt; have ha := a.isLt; have hb := b.isLt; have hf := f.isLt; have hc := c.isLt; have hk := k.isLt; have hr := r.isLt; have hs := s.isLt
  have hop : (pack25_18_11_4_0 0x39 d.toNat a.toNat b.toNat f.toNat) / 2 ^ 25 = 0x39 := by simp only [pack25_18_11_4_0]; omega
  refine decodeWords_of hwf ?_ ?_
  · simp only [lengthOf]; rw [hop]; rfl
  · rw [form_39 hop]
    simp only [decode39, List.cons_append, List.nil_append, List.getD_cons_zero, List.getD_cons_succ]
    rw [if_pos (by simp only [bitsOf, pack25_18_11_4_0, pack7_6_3_0]; omega)]
    congr 2 <;> (apply BitVec.eq_of_toNat_eq; simp only [fieldOf, BitVec.toNat_ofNat, pack25_18_11_4_0, pack7_6_3_0]; omega)

theorem cas (d : BitVec 7) (a : BitVec 7) (b : BitVec 7) (w : BitVec 1) (c : BitVec 3) (k : BitVec 3) (s : BitVec 2) : Statement (.cas d a b w c k s) := by
  intro hwf _ rest
  have hd := d.isLt; have ha := a.isLt; have hb := b.isLt; have hw := w.isLt; have hc := c.isLt; have hk := k.isLt; have hs := s.isLt
  have hop : (pack25_18_11_4_0 0x3A d.toNat a.toNat b.toNat w.toNat) / 2 ^ 25 = 0x3A := by simp only [pack25_18_11_4_0]; omega
  refine decodeWords_of hwf ?_ ?_
  · simp only [lengthOf]; rw [hop]; rfl
  · rw [form_3A hop]
    simp only [decode3A, List.cons_append, List.nil_append, List.getD_cons_zero, List.getD_cons_succ]
    rw [if_pos (by simp only [bitsOf, pack25_18_11_4_0, pack7_3_0]; omega)]
    congr 2 <;> (apply BitVec.eq_of_toNat_eq; simp only [fieldOf, BitVec.toNat_ofNat, pack25_18_11_4_0, pack7_3_0]; omega)

theorem red (a : BitVec 7) (b : BitVec 7) (f : BitVec 4) (c : BitVec 3) (k : BitVec 3) (s : BitVec 2) (w : BitVec 1) : Statement (.red a b f c k s w) := by
  intro hwf _ rest
  have ha := a.isLt; have hb := b.isLt; have hf := f.isLt; have hc := c.isLt; have hk := k.isLt; have hs := s.isLt; have hw := w.isLt
  have hop : (pack25_11_4_0 0x3B a.toNat b.toNat f.toNat) / 2 ^ 25 = 0x3B := by simp only [pack25_11_4_0]; omega
  refine decodeWords_of hwf ?_ ?_
  · simp only [lengthOf]; rw [hop]; rfl
  · rw [form_3B hop]
    simp only [decode3B, List.cons_append, List.nil_append, List.getD_cons_zero, List.getD_cons_succ]
    rw [if_neg (by simp only [bitsOf, pack10_7_3_0, pack25_11_4_0]; omega)]
    rw [if_pos (by simp only [bitsOf, pack10_7_3_0, pack25_11_4_0]; omega)]
    congr 2 <;> (apply BitVec.eq_of_toNat_eq; simp only [fieldOf, BitVec.toNat_ofNat, pack10_7_3_0, pack25_11_4_0]; omega)

theorem redf (a : BitVec 7) (b : BitVec 7) (f : BitVec 4) (t : BitVec 2) : Statement (.redf a b f t) := by
  intro hwf _ rest
  have ha := a.isLt; have hb := b.isLt; have hf := f.isLt; have ht := t.isLt
  have hop : (pack25_11_4_0 0x3B a.toNat b.toNat f.toNat) / 2 ^ 25 = 0x3B := by simp only [pack25_11_4_0]; omega
  refine decodeWords_of hwf ?_ ?_
  · simp only [lengthOf]; rw [hop]; rfl
  · rw [form_3B hop]
    simp only [decode3B, List.cons_append, List.nil_append, List.getD_cons_zero, List.getD_cons_succ]
    rw [if_pos (by simp only [bitsOf, pack11_0, pack25_11_4_0]; omega)]
    congr 2 <;> (apply BitVec.eq_of_toNat_eq; simp only [fieldOf, BitVec.toNat_ofNat, pack11_0, pack25_11_4_0]; omega)

theorem acqr (a : BitVec 7) (b : BitVec 7) (s : BitVec 3) : Statement (.acqr a b s) := by
  intro hwf _ rest
  have ha := a.isLt; have hb := b.isLt; have hs := s.isLt
  have hop : (pack25_11_4_0 0x3C a.toNat b.toNat s.toNat) / 2 ^ 25 = 0x3C := by simp only [pack25_11_4_0]; omega
  refine decodeWords_of hwf ?_ ?_
  · simp only [lengthOf]; rw [hop]; rfl
  · rw [form_3C hop]
    simp only [decode3C]
    rw [if_pos (by simp only [bitsOf, pack25_11_4_0]; omega)]
    congr 2 <;> (apply BitVec.eq_of_toNat_eq; simp only [fieldOf, BitVec.toNat_ofNat, pack25_11_4_0]; omega)

theorem cacheFlush (a : BitVec 7) : Statement (.cacheFlush a) := by
  intro hwf _ rest
  have ha := a.isLt
  have hop : (pack25_11 0x3D a.toNat) / 2 ^ 25 = 0x3D := by simp only [pack25_11]; omega
  refine decodeWords_of hwf ?_ ?_
  · simp only [lengthOf]; rw [hop]; rfl
  · rw [form_3D hop]
    simp only [decode3D]
    rw [if_pos (by simp only [bitsOf, pack25_11]; omega)]
    congr 2 <;> (apply BitVec.eq_of_toNat_eq; simp only [fieldOf, BitVec.toNat_ofNat, pack25_11]; omega)

theorem cacheInval (a : BitVec 7) : Statement (.cacheInval a) := by
  intro hwf _ rest
  have ha := a.isLt
  have hop : (pack25_11_0 0x3D a.toNat 1) / 2 ^ 25 = 0x3D := by simp only [pack25_11_0]; omega
  refine decodeWords_of hwf ?_ ?_
  · simp only [lengthOf]; rw [hop]; rfl
  · rw [form_3D hop]
    simp only [decode3D]
    rw [if_neg (by simp only [bitsOf, pack25_11_0]; omega)]
    rw [if_pos (by simp only [bitsOf, pack25_11_0]; omega)]
    congr 2 <;> (apply BitVec.eq_of_toNat_eq; simp only [fieldOf, BitVec.toNat_ofNat, pack25_11_0]; omega)

theorem cacheRetain (a : BitVec 7) : Statement (.cacheRetain a) := by
  intro hwf _ rest
  have ha := a.isLt
  have hop : (pack25_11_0 0x3D a.toNat 2) / 2 ^ 25 = 0x3D := by simp only [pack25_11_0]; omega
  refine decodeWords_of hwf ?_ ?_
  · simp only [lengthOf]; rw [hop]; rfl
  · rw [form_3D hop]
    simp only [decode3D]
    rw [if_neg (by simp only [bitsOf, pack25_11_0]; omega)]
    rw [if_neg (by simp only [bitsOf, pack25_11_0]; omega)]
    rw [if_pos (by simp only [bitsOf, pack25_11_0]; omega)]
    congr 2 <;> (apply BitVec.eq_of_toNat_eq; simp only [fieldOf, BitVec.toNat_ofNat, pack25_11_0]; omega)

theorem cacheEvict (a : BitVec 7) : Statement (.cacheEvict a) := by
  intro hwf _ rest
  have ha := a.isLt
  have hop : (pack25_11_0 0x3D a.toNat 3) / 2 ^ 25 = 0x3D := by simp only [pack25_11_0]; omega
  refine decodeWords_of hwf ?_ ?_
  · simp only [lengthOf]; rw [hop]; rfl
  · rw [form_3D hop]
    simp only [decode3D]
    rw [if_neg (by simp only [bitsOf, pack25_11_0]; omega)]
    rw [if_neg (by simp only [bitsOf, pack25_11_0]; omega)]
    rw [if_neg (by simp only [bitsOf, pack25_11_0]; omega)]
    rw [if_pos (by simp only [bitsOf, pack25_11_0]; omega)]
    congr 2 <;> (apply BitVec.eq_of_toNat_eq; simp only [fieldOf, BitVec.toNat_ofNat, pack25_11_0]; omega)

theorem resize (d : BitVec 7) (a : BitVec 7) : Statement (.resize d a) := by
  intro hwf _ rest
  have hd := d.isLt; have ha := a.isLt
  have hop : (pack25_18_11_0 0x3D d.toNat a.toNat 4) / 2 ^ 25 = 0x3D := by simp only [pack25_18_11_0]; omega
  refine decodeWords_of hwf ?_ ?_
  · simp only [lengthOf]; rw [hop]; rfl
  · rw [form_3D hop]
    simp only [decode3D]
    rw [if_neg (by simp only [bitsOf, pack25_18_11_0]; omega)]
    rw [if_neg (by simp only [bitsOf, pack25_18_11_0]; omega)]
    rw [if_neg (by simp only [bitsOf, pack25_18_11_0]; omega)]
    rw [if_neg (by simp only [bitsOf, pack25_18_11_0]; omega)]
    rw [if_neg (by simp only [bitsOf, pack25_18_11_0]; omega)]
    rw [if_pos (by simp only [bitsOf, pack25_18_11_0]; omega)]
    congr 2 <;> (apply BitVec.eq_of_toNat_eq; simp only [fieldOf, BitVec.toNat_ofNat, pack25_18_11_0]; omega)

theorem resizeRel (d : BitVec 7) (a : BitVec 7) : Statement (.resizeRel d a) := by
  intro hwf _ rest
  have hd := d.isLt; have ha := a.isLt
  have hop : (pack25_18_11_0 0x3D d.toNat a.toNat 5) / 2 ^ 25 = 0x3D := by simp only [pack25_18_11_0]; omega
  refine decodeWords_of hwf ?_ ?_
  · simp only [lengthOf]; rw [hop]; rfl
  · rw [form_3D hop]
    simp only [decode3D]
    rw [if_neg (by simp only [bitsOf, pack25_18_11_0]; omega)]
    rw [if_neg (by simp only [bitsOf, pack25_18_11_0]; omega)]
    rw [if_neg (by simp only [bitsOf, pack25_18_11_0]; omega)]
    rw [if_neg (by simp only [bitsOf, pack25_18_11_0]; omega)]
    rw [if_neg (by simp only [bitsOf, pack25_18_11_0]; omega)]
    rw [if_neg (by simp only [bitsOf, pack25_18_11_0]; omega)]
    rw [if_pos (by simp only [bitsOf, pack25_18_11_0]; omega)]
    congr 2 <;> (apply BitVec.eq_of_toNat_eq; simp only [fieldOf, BitVec.toNat_ofNat, pack25_18_11_0]; omega)

theorem cacheWays (d : BitVec 7) : Statement (.cacheWays d) := by
  intro hwf _ rest
  have hd := d.isLt
  have hop : (pack25_18_0 0x3D d.toNat 6) / 2 ^ 25 = 0x3D := by simp only [pack25_18_0]; omega
  refine decodeWords_of hwf ?_ ?_
  · simp only [lengthOf]; rw [hop]; rfl
  · rw [form_3D hop]
    simp only [decode3D]
    rw [if_neg (by simp only [bitsOf, pack25_18_0]; omega)]
    rw [if_neg (by simp only [bitsOf, pack25_18_0]; omega)]
    rw [if_neg (by simp only [bitsOf, pack25_18_0]; omega)]
    rw [if_neg (by simp only [bitsOf, pack25_18_0]; omega)]
    rw [if_pos (by simp only [bitsOf, pack25_18_0]; omega)]
    congr 2 <;> (apply BitVec.eq_of_toNat_eq; simp only [fieldOf, BitVec.toNat_ofNat, pack25_18_0]; omega)

theorem rqdeg (d : BitVec 7) (a : BitVec 7) : Statement (.rqdeg d a) := by
  intro hwf _ rest
  have hd := d.isLt; have ha := a.isLt
  have hop : (pack25_18_11_0 0x3D d.toNat a.toNat 7) / 2 ^ 25 = 0x3D := by simp only [pack25_18_11_0]; omega
  refine decodeWords_of hwf ?_ ?_
  · simp only [lengthOf]; rw [hop]; rfl
  · rw [form_3D hop]
    simp only [decode3D]
    rw [if_neg (by simp only [bitsOf, pack25_18_11_0]; omega)]
    rw [if_neg (by simp only [bitsOf, pack25_18_11_0]; omega)]
    rw [if_neg (by simp only [bitsOf, pack25_18_11_0]; omega)]
    rw [if_neg (by simp only [bitsOf, pack25_18_11_0]; omega)]
    rw [if_neg (by simp only [bitsOf, pack25_18_11_0]; omega)]
    rw [if_neg (by simp only [bitsOf, pack25_18_11_0]; omega)]
    rw [if_neg (by simp only [bitsOf, pack25_18_11_0]; omega)]
    rw [if_pos (by simp only [bitsOf, pack25_18_11_0]; omega)]
    congr 2 <;> (apply BitVec.eq_of_toNat_eq; simp only [fieldOf, BitVec.toNat_ofNat, pack25_18_11_0]; omega)

theorem fill (a : BitVec 7) (c : BitVec 3) (k : BitVec 3) : Statement (.fill a c k) := by
  intro hwf _ rest
  have ha := a.isLt; have hc := c.isLt; have hk := k.isLt
  have hop : (pack25_11 0x40 a.toNat) / 2 ^ 25 = 0x40 := by simp only [pack25_11]; omega
  refine decodeWords_of hwf ?_ ?_
  · simp only [lengthOf]; rw [hop]; rfl
  · rw [form_40 hop]
    simp only [decode40, List.cons_append, List.nil_append, List.getD_cons_zero, List.getD_cons_succ]
    rw [if_pos (by simp only [bitsOf, pack25_11, pack3_0]; omega)]
    congr 2 <;> (apply BitVec.eq_of_toNat_eq; simp only [fieldOf, BitVec.toNat_ofNat, pack25_11, pack3_0]; omega)

theorem fillVal (a : BitVec 7) (b : BitVec 7) (c : BitVec 3) (k : BitVec 3) : Statement (.fillVal a b c k) := by
  intro hwf _ rest
  have ha := a.isLt; have hb := b.isLt; have hc := c.isLt; have hk := k.isLt
  have hop : (pack25_11_4_0 0x40 a.toNat b.toNat 1) / 2 ^ 25 = 0x40 := by simp only [pack25_11_4_0]; omega
  refine decodeWords_of hwf ?_ ?_
  · simp only [lengthOf]; rw [hop]; rfl
  · rw [form_40 hop]
    simp only [decode40, List.cons_append, List.nil_append, List.getD_cons_zero, List.getD_cons_succ]
    rw [if_neg (by simp only [bitsOf, pack25_11_4_0, pack3_0]; omega)]
    rw [if_neg (by simp only [bitsOf, pack25_11_4_0, pack3_0]; omega)]
    rw [if_pos (by simp only [bitsOf, pack25_11_4_0, pack3_0]; omega)]
    congr 2 <;> (apply BitVec.eq_of_toNat_eq; simp only [fieldOf, BitVec.toNat_ofNat, pack25_11_4_0, pack3_0]; omega)

theorem fillEmpty (a : BitVec 7) (c : BitVec 3) (k : BitVec 3) : Statement (.fillEmpty a c k) := by
  intro hwf _ rest
  have ha := a.isLt; have hc := c.isLt; have hk := k.isLt
  have hop : (pack25_11_0 0x40 a.toNat 2) / 2 ^ 25 = 0x40 := by simp only [pack25_11_0]; omega
  refine decodeWords_of hwf ?_ ?_
  · simp only [lengthOf]; rw [hop]; rfl
  · rw [form_40 hop]
    simp only [decode40, List.cons_append, List.nil_append, List.getD_cons_zero, List.getD_cons_succ]
    rw [if_neg (by simp only [bitsOf, pack25_11_0, pack3_0]; omega)]
    rw [if_pos (by simp only [bitsOf, pack25_11_0, pack3_0]; omega)]
    congr 2 <;> (apply BitVec.eq_of_toNat_eq; simp only [fieldOf, BitVec.toNat_ofNat, pack25_11_0, pack3_0]; omega)

theorem take (d : BitVec 7) (b : BitVec 7) (c : BitVec 3) (k : BitVec 3) : Statement (.take d b c k) := by
  intro hwf _ rest
  have hd := d.isLt; have hb := b.isLt; have hc := c.isLt; have hk := k.isLt
  have hop : (pack25_18_11_8_5_0 0x41 d.toNat b.toNat c.toNat k.toNat 3) / 2 ^ 25 = 0x41 := by simp only [pack25_18_11_8_5_0]; omega
  refine decodeWords_of hwf ?_ ?_
  · simp only [lengthOf]; rw [hop]; rfl
  · rw [form_41 hop]
    simp only [decode41]
    rw [if_pos (by simp only [bitsOf, pack25_18_11_8_5_0]; omega)]
    congr 2 <;> (apply BitVec.eq_of_toNat_eq; simp only [fieldOf, BitVec.toNat_ofNat, pack25_18_11_8_5_0]; omega)

theorem waitf (d : BitVec 7) (b : BitVec 7) (c : BitVec 3) (k : BitVec 3) : Statement (.waitf d b c k) := by
  intro hwf _ rest
  have hd := d.isLt; have hb := b.isLt; have hc := c.isLt; have hk := k.isLt
  have hop : (pack25_18_11_8_5_0 0x42 d.toNat b.toNat c.toNat k.toNat 3) / 2 ^ 25 = 0x42 := by simp only [pack25_18_11_8_5_0]; omega
  refine decodeWords_of hwf ?_ ?_
  · simp only [lengthOf]; rw [hop]; rfl
  · rw [form_42 hop]
    simp only [decode42]
    rw [if_pos (by simp only [bitsOf, pack25_18_11_8_5_0]; omega)]
    congr 2 <;> (apply BitVec.eq_of_toNat_eq; simp only [fieldOf, BitVec.toNat_ofNat, pack25_18_11_8_5_0]; omega)

theorem cntdn (d : BitVec 7) (b : BitVec 7) (c : BitVec 3) (k : BitVec 3) : Statement (.cntdn d b c k) := by
  intro hwf _ rest
  have hd := d.isLt; have hb := b.isLt; have hc := c.isLt; have hk := k.isLt
  have hop : (pack25_18_11_8_5_0 0x43 d.toNat b.toNat c.toNat k.toNat 3) / 2 ^ 25 = 0x43 := by simp only [pack25_18_11_8_5_0]; omega
  refine decodeWords_of hwf ?_ ?_
  · simp only [lengthOf]; rw [hop]; rfl
  · rw [form_43 hop]
    simp only [decode43]
    rw [if_pos (by simp only [bitsOf, pack25_18_11_8_5_0]; omega)]
    congr 2 <;> (apply BitVec.eq_of_toNat_eq; simp only [fieldOf, BitVec.toNat_ofNat, pack25_18_11_8_5_0]; omega)

theorem tagq (d : BitVec 7) (b : BitVec 7) (o : BitVec 6) : Statement (.tagq d b o) := by
  intro hwf _ rest
  have hd := d.isLt; have hb := b.isLt; have ho := o.isLt
  have hop : (pack25_18_11_5_0 0x44 d.toNat b.toNat o.toNat 3) / 2 ^ 25 = 0x44 := by simp only [pack25_18_11_5_0]; omega
  refine decodeWords_of hwf ?_ ?_
  · simp only [lengthOf]; rw [hop]; rfl
  · rw [form_44 hop]
    simp only [decode44]
    rw [if_pos (by simp only [bitsOf, pack25_18_11_5_0]; omega)]
    congr 2 <;> (apply BitVec.eq_of_toNat_eq; simp only [fieldOf, BitVec.toNat_ofNat, pack25_18_11_5_0]; omega)

theorem binit (a : BitVec 7) (b : BitVec 7) (c : BitVec 1) : Statement (.binit a b c) := by
  intro hwf _ rest
  have ha := a.isLt; have hb := b.isLt; have hc := c.isLt
  have hop : (pack25_11_4_3 0x45 a.toNat b.toNat c.toNat) / 2 ^ 25 = 0x45 := by simp only [pack25_11_4_3]; omega
  refine decodeWords_of hwf ?_ ?_
  · simp only [lengthOf]; rw [hop]; rfl
  · rw [form_45 hop]
    simp only [decode45]
    rw [if_pos (by simp only [bitsOf, pack25_11_4_3]; omega)]
    congr 2 <;> (apply BitVec.eq_of_toNat_eq; simp only [fieldOf, BitVec.toNat_ofNat, pack25_11_4_3]; omega)

theorem binitFull (a : BitVec 7) (b : BitVec 7) (c : BitVec 1) : Statement (.binitFull a b c) := by
  intro hwf _ rest
  have ha := a.isLt; have hb := b.isLt; have hc := c.isLt
  have hop : (pack25_11_4_3_0 0x45 a.toNat b.toNat c.toNat 1) / 2 ^ 25 = 0x45 := by simp only [pack25_11_4_3_0]; omega
  refine decodeWords_of hwf ?_ ?_
  · simp only [lengthOf]; rw [hop]; rfl
  · rw [form_45 hop]
    simp only [decode45]
    rw [if_neg (by simp only [bitsOf, pack25_11_4_3_0]; omega)]
    rw [if_pos (by simp only [bitsOf, pack25_11_4_3_0]; omega)]
    congr 2 <;> (apply BitVec.eq_of_toNat_eq; simp only [fieldOf, BitVec.toNat_ofNat, pack25_11_4_3_0]; omega)

theorem arrive (a : BitVec 7) (c : BitVec 1) : Statement (.arrive a c) := by
  intro hwf _ rest
  have ha := a.isLt; have hc := c.isLt
  have hop : (pack25_11_3 0x46 a.toNat c.toNat) / 2 ^ 25 = 0x46 := by simp only [pack25_11_3]; omega
  refine decodeWords_of hwf ?_ ?_
  · simp only [lengthOf]; rw [hop]; rfl
  · rw [form_46 hop]
    simp only [decode46]
    rw [if_pos (by simp only [bitsOf, pack25_11_3]; omega)]
    congr 2 <;> (apply BitVec.eq_of_toNat_eq; simp only [fieldOf, BitVec.toNat_ofNat, pack25_11_3]; omega)

theorem arriveExpect (a : BitVec 7) (b : BitVec 7) (c : BitVec 1) : Statement (.arriveExpect a b c) := by
  intro hwf _ rest
  have ha := a.isLt; have hb := b.isLt; have hc := c.isLt
  have hop : (pack25_11_4_3_0 0x46 a.toNat b.toNat c.toNat 1) / 2 ^ 25 = 0x46 := by simp only [pack25_11_4_3_0]; omega
  refine decodeWords_of hwf ?_ ?_
  · simp only [lengthOf]; rw [hop]; rfl
  · rw [form_46 hop]
    simp only [decode46]
    rw [if_neg (by simp only [bitsOf, pack25_11_4_3_0]; omega)]
    rw [if_pos (by simp only [bitsOf, pack25_11_4_3_0]; omega)]
    congr 2 <;> (apply BitVec.eq_of_toNat_eq; simp only [fieldOf, BitVec.toNat_ofNat, pack25_11_4_3_0]; omega)

theorem bwait (a : BitVec 7) (b : BitVec 7) (c : BitVec 1) : Statement (.bwait a b c) := by
  intro hwf _ rest
  have ha := a.isLt; have hb := b.isLt; have hc := c.isLt
  have hop : (pack25_11_4_3 0x47 a.toNat b.toNat c.toNat) / 2 ^ 25 = 0x47 := by simp only [pack25_11_4_3]; omega
  refine decodeWords_of hwf ?_ ?_
  · simp only [lengthOf]; rw [hop]; rfl
  · rw [form_47 hop]
    simp only [decode47]
    rw [if_pos (by simp only [bitsOf, pack25_11_4_3]; omega)]
    congr 2 <;> (apply BitVec.eq_of_toNat_eq; simp only [fieldOf, BitVec.toNat_ofNat, pack25_11_4_3]; omega)

theorem fadd (d : BitVec 7) (a : BitVec 7) (b : BitVec 7) (t : BitVec 3) : Statement (.fadd d a b t) := by
  intro hwf _ rest
  have hd := d.isLt; have ha := a.isLt; have hb := b.isLt; have ht := t.isLt
  have hop : (pack25_18_11_4_0 0x50 d.toNat a.toNat b.toNat t.toNat) / 2 ^ 25 = 0x50 := by simp only [pack25_18_11_4_0]; omega
  refine decodeWords_of hwf ?_ ?_
  · simp only [lengthOf]; rw [hop]; rfl
  · rw [form_50 hop]
    simp only [decode50]
    rw [if_pos (by simp only [bitsOf, pack25_18_11_4_0]; omega)]
    congr 2 <;> (apply BitVec.eq_of_toNat_eq; simp only [fieldOf, BitVec.toNat_ofNat, pack25_18_11_4_0]; omega)

theorem fsub (d : BitVec 7) (a : BitVec 7) (b : BitVec 7) (t : BitVec 3) : Statement (.fsub d a b t) := by
  intro hwf _ rest
  have hd := d.isLt; have ha := a.isLt; have hb := b.isLt; have ht := t.isLt
  have hop : (pack25_18_11_4_3_0 0x50 d.toNat a.toNat b.toNat 1 t.toNat) / 2 ^ 25 = 0x50 := by simp only [pack25_18_11_4_3_0]; omega
  refine decodeWords_of hwf ?_ ?_
  · simp only [lengthOf]; rw [hop]; rfl
  · rw [form_50 hop]
    simp only [decode50]
    rw [if_neg (by simp only [bitsOf, pack25_18_11_4_3_0]; omega)]
    rw [if_pos (by simp only [bitsOf, pack25_18_11_4_3_0]; omega)]
    congr 2 <;> (apply BitVec.eq_of_toNat_eq; simp only [fieldOf, BitVec.toNat_ofNat, pack25_18_11_4_3_0]; omega)

theorem fmul (d : BitVec 7) (a : BitVec 7) (b : BitVec 7) (t : BitVec 3) : Statement (.fmul d a b t) := by
  intro hwf _ rest
  have hd := d.isLt; have ha := a.isLt; have hb := b.isLt; have ht := t.isLt
  have hop : (pack25_18_11_4_0 0x51 d.toNat a.toNat b.toNat t.toNat) / 2 ^ 25 = 0x51 := by simp only [pack25_18_11_4_0]; omega
  refine decodeWords_of hwf ?_ ?_
  · simp only [lengthOf]; rw [hop]; rfl
  · rw [form_51 hop]
    simp only [decode51]
    rw [if_pos (by simp only [bitsOf, pack25_18_11_4_0]; omega)]
    congr 2 <;> (apply BitVec.eq_of_toNat_eq; simp only [fieldOf, BitVec.toNat_ofNat, pack25_18_11_4_0]; omega)

theorem ffma (d : BitVec 7) (a : BitVec 7) (b : BitVec 7) (t : BitVec 3) : Statement (.ffma d a b t) := by
  intro hwf _ rest
  have hd := d.isLt; have ha := a.isLt; have hb := b.isLt; have ht := t.isLt
  have hop : (pack25_18_11_4_0 0x52 d.toNat a.toNat b.toNat t.toNat) / 2 ^ 25 = 0x52 := by simp only [pack25_18_11_4_0]; omega
  refine decodeWords_of hwf ?_ ?_
  · simp only [lengthOf]; rw [hop]; rfl
  · rw [form_52 hop]
    simp only [decode52]
    rw [if_pos (by simp only [bitsOf, pack25_18_11_4_0]; omega)]
    congr 2 <;> (apply BitVec.eq_of_toNat_eq; simp only [fieldOf, BitVec.toNat_ofNat, pack25_18_11_4_0]; omega)

theorem ffms (d : BitVec 7) (a : BitVec 7) (b : BitVec 7) (t : BitVec 3) : Statement (.ffms d a b t) := by
  intro hwf _ rest
  have hd := d.isLt; have ha := a.isLt; have hb := b.isLt; have ht := t.isLt
  have hop : (pack25_18_11_4_3_0 0x52 d.toNat a.toNat b.toNat 1 t.toNat) / 2 ^ 25 = 0x52 := by simp only [pack25_18_11_4_3_0]; omega
  refine decodeWords_of hwf ?_ ?_
  · simp only [lengthOf]; rw [hop]; rfl
  · rw [form_52 hop]
    simp only [decode52]
    rw [if_neg (by simp only [bitsOf, pack25_18_11_4_3_0]; omega)]
    rw [if_pos (by simp only [bitsOf, pack25_18_11_4_3_0]; omega)]
    congr 2 <;> (apply BitVec.eq_of_toNat_eq; simp only [fieldOf, BitVec.toNat_ofNat, pack25_18_11_4_3_0]; omega)

theorem fmin (d : BitVec 7) (a : BitVec 7) (b : BitVec 7) (t : BitVec 3) : Statement (.fmin d a b t) := by
  intro hwf _ rest
  have hd := d.isLt; have ha := a.isLt; have hb := b.isLt; have ht := t.isLt
  have hop : (pack25_18_11_4_0 0x53 d.toNat a.toNat b.toNat t.toNat) / 2 ^ 25 = 0x53 := by simp only [pack25_18_11_4_0]; omega
  refine decodeWords_of hwf ?_ ?_
  · simp only [lengthOf]; rw [hop]; rfl
  · rw [form_53 hop]
    simp only [decode53]
    rw [if_pos (by simp only [bitsOf, pack25_18_11_4_0]; omega)]
    congr 2 <;> (apply BitVec.eq_of_toNat_eq; simp only [fieldOf, BitVec.toNat_ofNat, pack25_18_11_4_0]; omega)

theorem fmax (d : BitVec 7) (a : BitVec 7) (b : BitVec 7) (t : BitVec 3) : Statement (.fmax d a b t) := by
  intro hwf _ rest
  have hd := d.isLt; have ha := a.isLt; have hb := b.isLt; have ht := t.isLt
  have hop : (pack25_18_11_4_3_0 0x53 d.toNat a.toNat b.toNat 1 t.toNat) / 2 ^ 25 = 0x53 := by simp only [pack25_18_11_4_3_0]; omega
  refine decodeWords_of hwf ?_ ?_
  · simp only [lengthOf]; rw [hop]; rfl
  · rw [form_53 hop]
    simp only [decode53]
    rw [if_neg (by simp only [bitsOf, pack25_18_11_4_3_0]; omega)]
    rw [if_pos (by simp only [bitsOf, pack25_18_11_4_3_0]; omega)]
    congr 2 <;> (apply BitVec.eq_of_toNat_eq; simp only [fieldOf, BitVec.toNat_ofNat, pack25_18_11_4_3_0]; omega)

theorem fcmp (p : BitVec 5) (c : BitVec 2) (a : BitVec 7) (b : BitVec 7) (t : BitVec 1) (r : BitVec 3) : Statement (.fcmp p c a b t r) := by
  intro hwf _ rest
  have hp := p.isLt; have hc := c.isLt; have ha := a.isLt; have hb := b.isLt; have ht := t.isLt; have hr := r.isLt
  have hop : (pack25_20_18_11_4_3_0 0x54 p.toNat c.toNat a.toNat b.toNat t.toNat r.toNat) / 2 ^ 25 = 0x54 := by simp only [pack25_20_18_11_4_3_0]; omega
  refine decodeWords_of hwf ?_ ?_
  · simp only [lengthOf]; rw [hop]; rfl
  · rw [form_54 hop]
    simp only [decode54]
    congr 2 <;> (apply BitVec.eq_of_toNat_eq; simp only [fieldOf, BitVec.toNat_ofNat, pack25_20_18_11_4_3_0]; omega)

theorem fcvt (d : BitVec 7) (a : BitVec 7) (k : BitVec 7) (s : BitVec 1) (r : BitVec 3) : Statement (.fcvt d a k s r) := by
  intro hwf _ rest
  have hd := d.isLt; have ha := a.isLt; have hk := k.isLt; have hs := s.isLt; have hr := r.isLt
  have hop : (pack25_18_11_4_3_0 0x55 d.toNat a.toNat k.toNat s.toNat r.toNat) / 2 ^ 25 = 0x55 := by simp only [pack25_18_11_4_3_0]; omega
  refine decodeWords_of hwf ?_ ?_
  · simp only [lengthOf]; rw [hop]; rfl
  · rw [form_55 hop]
    simp only [decode55]
    congr 2 <;> (apply BitVec.eq_of_toNat_eq; simp only [fieldOf, BitVec.toNat_ofNat, pack25_18_11_4_3_0]; omega)

theorem frnd (d : BitVec 7) (a : BitVec 7) (t : BitVec 3) (r : BitVec 3) : Statement (.frnd d a t r) := by
  intro hwf _ rest
  have hd := d.isLt; have ha := a.isLt; have ht := t.isLt; have hr := r.isLt
  have hop : (pack25_18_11_6_0 0x56 d.toNat a.toNat t.toNat r.toNat) / 2 ^ 25 = 0x56 := by simp only [pack25_18_11_6_0]; omega
  refine decodeWords_of hwf ?_ ?_
  · simp only [lengthOf]; rw [hop]; rfl
  · rw [form_56 hop]
    simp only [decode56]
    rw [if_pos (by simp only [bitsOf, pack25_18_11_6_0]; omega)]
    congr 2 <;> (apply BitVec.eq_of_toNat_eq; simp only [fieldOf, BitVec.toNat_ofNat, pack25_18_11_6_0]; omega)

theorem ftoi (d : BitVec 7) (a : BitVec 7) (t : BitVec 3) (i : BitVec 2) (s : BitVec 1) (r : BitVec 3) : Statement (.ftoi d a t i s r) := by
  intro hwf _ rest
  have hd := d.isLt; have ha := a.isLt; have ht := t.isLt; have hi := i.isLt; have hs := s.isLt; have hr := r.isLt
  have hop : (pack25_18_11_9_6_4_3_0 0x56 d.toNat a.toNat 1 t.toNat i.toNat s.toNat r.toNat) / 2 ^ 25 = 0x56 := by simp only [pack25_18_11_9_6_4_3_0]; omega
  refine decodeWords_of hwf ?_ ?_
  · simp only [lengthOf]; rw [hop]; rfl
  · rw [form_56 hop]
    simp only [decode56]
    rw [if_neg (by simp only [bitsOf, pack25_18_11_9_6_4_3_0]; omega)]
    rw [if_pos (by simp only [bitsOf, pack25_18_11_9_6_4_3_0]; omega)]
    congr 2 <;> (apply BitVec.eq_of_toNat_eq; simp only [fieldOf, BitVec.toNat_ofNat, pack25_18_11_9_6_4_3_0]; omega)

theorem itof (d : BitVec 7) (a : BitVec 7) (t : BitVec 3) (i : BitVec 2) (s : BitVec 1) (r : BitVec 3) : Statement (.itof d a t i s r) := by
  intro hwf _ rest
  have hd := d.isLt; have ha := a.isLt; have ht := t.isLt; have hi := i.isLt; have hs := s.isLt; have hr := r.isLt
  have hop : (pack25_18_11_9_6_4_3_0 0x56 d.toNat a.toNat 2 t.toNat i.toNat s.toNat r.toNat) / 2 ^ 25 = 0x56 := by simp only [pack25_18_11_9_6_4_3_0]; omega
  refine decodeWords_of hwf ?_ ?_
  · simp only [lengthOf]; rw [hop]; rfl
  · rw [form_56 hop]
    simp only [decode56]
    rw [if_neg (by simp only [bitsOf, pack25_18_11_9_6_4_3_0]; omega)]
    rw [if_neg (by simp only [bitsOf, pack25_18_11_9_6_4_3_0]; omega)]
    rw [if_pos (by simp only [bitsOf, pack25_18_11_9_6_4_3_0]; omega)]
    congr 2 <;> (apply BitVec.eq_of_toNat_eq; simp only [fieldOf, BitVec.toNat_ofNat, pack25_18_11_9_6_4_3_0]; omega)

theorem fspec (d : BitVec 7) (a : BitVec 7) (t : BitVec 3) (f : BitVec 4) : Statement (.fspec d a t f) := by
  intro hwf _ rest
  have hd := d.isLt; have ha := a.isLt; have ht := t.isLt; have hf := f.isLt
  have hop : (pack25_18_11_4_0 0x57 d.toNat a.toNat t.toNat f.toNat) / 2 ^ 25 = 0x57 := by simp only [pack25_18_11_4_0]; omega
  refine decodeWords_of hwf ?_ ?_
  · simp only [lengthOf]; rw [hop]; rfl
  · rw [form_57 hop]
    simp only [decode57]
    rw [if_pos (by simp only [bitsOf, pack25_18_11_4_0]; omega)]
    congr 2 <;> (apply BitVec.eq_of_toNat_eq; simp only [fieldOf, BitVec.toNat_ofNat, pack25_18_11_4_0]; omega)

theorem fdot (d : BitVec 7) (a : BitVec 7) (b : BitVec 7) (f : BitVec 4) : Statement (.fdot d a b f) := by
  intro hwf _ rest
  have hd := d.isLt; have ha := a.isLt; have hb := b.isLt; have hf := f.isLt
  have hop : (pack25_18_11_4_0 0x58 d.toNat a.toNat b.toNat f.toNat) / 2 ^ 25 = 0x58 := by simp only [pack25_18_11_4_0]; omega
  refine decodeWords_of hwf ?_ ?_
  · simp only [lengthOf]; rw [hop]; rfl
  · rw [form_58 hop]
    simp only [decode58]
    congr 2 <;> (apply BitVec.eq_of_toNat_eq; simp only [fieldOf, BitVec.toNat_ofNat, pack25_18_11_4_0]; omega)

theorem fscale (d : BitVec 7) (a : BitVec 7) (b : BitVec 7) (t : BitVec 3) : Statement (.fscale d a b t) := by
  intro hwf _ rest
  have hd := d.isLt; have ha := a.isLt; have hb := b.isLt; have ht := t.isLt
  have hop : (pack25_18_11_4_0 0x59 d.toNat a.toNat b.toNat t.toNat) / 2 ^ 25 = 0x59 := by simp only [pack25_18_11_4_0]; omega
  refine decodeWords_of hwf ?_ ?_
  · simp only [lengthOf]; rw [hop]; rfl
  · rw [form_59 hop]
    simp only [decode59]
    rw [if_pos (by simp only [bitsOf, pack25_18_11_4_0]; omega)]
    congr 2 <;> (apply BitVec.eq_of_toNat_eq; simp only [fieldOf, BitVec.toNat_ofNat, pack25_18_11_4_0]; omega)

theorem fscaleE8m0 (d : BitVec 7) (a : BitVec 7) (b : BitVec 7) (t : BitVec 3) : Statement (.fscaleE8m0 d a b t) := by
  intro hwf _ rest
  have hd := d.isLt; have ha := a.isLt; have hb := b.isLt; have ht := t.isLt
  have hop : (pack25_18_11_4_3_0 0x59 d.toNat a.toNat b.toNat 1 t.toNat) / 2 ^ 25 = 0x59 := by simp only [pack25_18_11_4_3_0]; omega
  refine decodeWords_of hwf ?_ ?_
  · simp only [lengthOf]; rw [hop]; rfl
  · rw [form_59 hop]
    simp only [decode59]
    rw [if_neg (by simp only [bitsOf, pack25_18_11_4_3_0]; omega)]
    rw [if_pos (by simp only [bitsOf, pack25_18_11_4_3_0]; omega)]
    congr 2 <;> (apply BitVec.eq_of_toNat_eq; simp only [fieldOf, BitVec.toNat_ofNat, pack25_18_11_4_3_0]; omega)

theorem kvmin (d : BitVec 7) (a : BitVec 7) (b : BitVec 7) (k : BitVec 2) : Statement (.kvmin d a b k) := by
  intro hwf _ rest
  have hd := d.isLt; have ha := a.isLt; have hb := b.isLt; have hk := k.isLt
  have hop : (pack25_18_11_4_0 0x5A d.toNat a.toNat b.toNat k.toNat) / 2 ^ 25 = 0x5A := by simp only [pack25_18_11_4_0]; omega
  refine decodeWords_of hwf ?_ ?_
  · simp only [lengthOf]; rw [hop]; rfl
  · rw [form_5A hop]
    simp only [decode5A]
    rw [if_pos (by simp only [bitsOf, pack25_18_11_4_0]; omega)]
    congr 2 <;> (apply BitVec.eq_of_toNat_eq; simp only [fieldOf, BitVec.toNat_ofNat, pack25_18_11_4_0]; omega)

theorem kvmax (d : BitVec 7) (a : BitVec 7) (b : BitVec 7) (k : BitVec 2) : Statement (.kvmax d a b k) := by
  intro hwf _ rest
  have hd := d.isLt; have ha := a.isLt; have hb := b.isLt; have hk := k.isLt
  have hop : (pack25_18_11_4_2_0 0x5A d.toNat a.toNat b.toNat 1 k.toNat) / 2 ^ 25 = 0x5A := by simp only [pack25_18_11_4_2_0]; omega
  refine decodeWords_of hwf ?_ ?_
  · simp only [lengthOf]; rw [hop]; rfl
  · rw [form_5A hop]
    simp only [decode5A]
    rw [if_neg (by simp only [bitsOf, pack25_18_11_4_2_0]; omega)]
    rw [if_pos (by simp only [bitsOf, pack25_18_11_4_2_0]; omega)]
    congr 2 <;> (apply BitVec.eq_of_toNat_eq; simp only [fieldOf, BitVec.toNat_ofNat, pack25_18_11_4_2_0]; omega)

theorem xshf (d : BitVec 7) (a : BitVec 7) (m : BitVec 7) (k : BitVec 2) : Statement (.xshf d a m k) := by
  intro hwf _ rest
  have hd := d.isLt; have ha := a.isLt; have hm := m.isLt; have hk := k.isLt
  have hop : (pack25_18_11_4_0 0x60 d.toNat a.toNat m.toNat k.toNat) / 2 ^ 25 = 0x60 := by simp only [pack25_18_11_4_0]; omega
  refine decodeWords_of hwf ?_ ?_
  · simp only [lengthOf]; rw [hop]; rfl
  · rw [form_60 hop]
    simp only [decode60]
    rw [if_pos (by simp only [bitsOf, pack25_18_11_4_0]; omega)]
    congr 2 <;> (apply BitVec.eq_of_toNat_eq; simp only [fieldOf, BitVec.toNat_ofNat, pack25_18_11_4_0]; omega)

theorem xred (d : BitVec 7) (a : BitVec 7) (m : BitVec 7) (f : BitVec 4) : Statement (.xred d a m f) := by
  intro hwf _ rest
  have hd := d.isLt; have ha := a.isLt; have hm := m.isLt; have hf := f.isLt
  have hop : (pack25_18_11_4_0 0x61 d.toNat a.toNat m.toNat f.toNat) / 2 ^ 25 = 0x61 := by simp only [pack25_18_11_4_0]; omega
  refine decodeWords_of hwf ?_ ?_
  · simp only [lengthOf]; rw [hop]; rfl
  · rw [form_61 hop]
    simp only [decode61]
    congr 2 <;> (apply BitVec.eq_of_toNat_eq; simp only [fieldOf, BitVec.toNat_ofNat, pack25_18_11_4_0]; omega)

theorem xscan (d : BitVec 7) (a : BitVec 7) (m : BitVec 7) (e : BitVec 1) (o : BitVec 3) : Statement (.xscan d a m e o) := by
  intro hwf _ rest
  have hd := d.isLt; have ha := a.isLt; have hm := m.isLt; have he := e.isLt; have ho := o.isLt
  have hop : (pack25_18_11_4_3_0 0x62 d.toNat a.toNat m.toNat e.toNat o.toNat) / 2 ^ 25 = 0x62 := by simp only [pack25_18_11_4_3_0]; omega
  refine decodeWords_of hwf ?_ ?_
  · simp only [lengthOf]; rw [hop]; rfl
  · rw [form_62 hop]
    simp only [decode62]
    congr 2 <;> (apply BitVec.eq_of_toNat_eq; simp only [fieldOf, BitVec.toNat_ofNat, pack25_18_11_4_3_0]; omega)

theorem xvote (d : BitVec 7) (a : BitVec 7) (m : BitVec 7) (f : BitVec 4) : Statement (.xvote d a m f) := by
  intro hwf _ rest
  have hd := d.isLt; have ha := a.isLt; have hm := m.isLt; have hf := f.isLt
  have hop : (pack25_18_11_4_0 0x63 d.toNat a.toNat m.toNat f.toNat) / 2 ^ 25 = 0x63 := by simp only [pack25_18_11_4_0]; omega
  refine decodeWords_of hwf ?_ ?_
  · simp only [lengthOf]; rw [hop]; rfl
  · rw [form_63 hop]
    simp only [decode63]
    congr 2 <;> (apply BitVec.eq_of_toNat_eq; simp only [fieldOf, BitVec.toNat_ofNat, pack25_18_11_4_0]; omega)

theorem xbcast (d : BitVec 7) (a : BitVec 7) (m : BitVec 7) : Statement (.xbcast d a m) := by
  intro hwf _ rest
  have hd := d.isLt; have ha := a.isLt; have hm := m.isLt
  have hop : (pack25_18_11_4 0x64 d.toNat a.toNat m.toNat) / 2 ^ 25 = 0x64 := by simp only [pack25_18_11_4]; omega
  refine decodeWords_of hwf ?_ ?_
  · simp only [lengthOf]; rw [hop]; rfl
  · rw [form_64 hop]
    simp only [decode64]
    rw [if_pos (by simp only [bitsOf, pack25_18_11_4]; omega)]
    congr 2 <;> (apply BitVec.eq_of_toNat_eq; simp only [fieldOf, BitVec.toNat_ofNat, pack25_18_11_4]; omega)

theorem xbcastLane (d : BitVec 7) (a : BitVec 7) (m : BitVec 7) : Statement (.xbcastLane d a m) := by
  intro hwf _ rest
  have hd := d.isLt; have ha := a.isLt; have hm := m.isLt
  have hop : (pack25_18_11_4_0 0x64 d.toNat a.toNat m.toNat 1) / 2 ^ 25 = 0x64 := by simp only [pack25_18_11_4_0]; omega
  refine decodeWords_of hwf ?_ ?_
  · simp only [lengthOf]; rw [hop]; rfl
  · rw [form_64 hop]
    simp only [decode64]
    rw [if_neg (by simp only [bitsOf, pack25_18_11_4_0]; omega)]
    rw [if_pos (by simp only [bitsOf, pack25_18_11_4_0]; omega)]
    congr 2 <;> (apply BitVec.eq_of_toNat_eq; simp only [fieldOf, BitVec.toNat_ofNat, pack25_18_11_4_0]; omega)

theorem xelect (d : BitVec 7) (m : BitVec 7) : Statement (.xelect d m) := by
  intro hwf _ rest
  have hd := d.isLt; have hm := m.isLt
  have hop : (pack25_18_4 0x65 d.toNat m.toNat) / 2 ^ 25 = 0x65 := by simp only [pack25_18_4]; omega
  refine decodeWords_of hwf ?_ ?_
  · simp only [lengthOf]; rw [hop]; rfl
  · rw [form_65 hop]
    simp only [decode65]
    rw [if_pos (by simp only [bitsOf, pack25_18_4]; omega)]
    congr 2 <;> (apply BitVec.eq_of_toNat_eq; simp only [fieldOf, BitVec.toNat_ofNat, pack25_18_4]; omega)

theorem xelectIf (d : BitVec 7) (a : BitVec 7) (m : BitVec 7) : Statement (.xelectIf d a m) := by
  intro hwf _ rest
  have hd := d.isLt; have ha := a.isLt; have hm := m.isLt
  have hop : (pack25_18_11_4_0 0x65 d.toNat a.toNat m.toNat 1) / 2 ^ 25 = 0x65 := by simp only [pack25_18_11_4_0]; omega
  refine decodeWords_of hwf ?_ ?_
  · simp only [lengthOf]; rw [hop]; rfl
  · rw [form_65 hop]
    simp only [decode65]
    rw [if_neg (by simp only [bitsOf, pack25_18_11_4_0]; omega)]
    rw [if_pos (by simp only [bitsOf, pack25_18_11_4_0]; omega)]
    congr 2 <;> (apply BitVec.eq_of_toNat_eq; simp only [fieldOf, BitVec.toNat_ofNat, pack25_18_11_4_0]; omega)

theorem xmatch (d : BitVec 7) (a : BitVec 7) (m : BitVec 7) (f : BitVec 4) : Statement (.xmatch d a m f) := by
  intro hwf _ rest
  have hd := d.isLt; have ha := a.isLt; have hm := m.isLt; have hf := f.isLt
  have hop : (pack25_18_11_4_0 0x66 d.toNat a.toNat m.toNat f.toNat) / 2 ^ 25 = 0x66 := by simp only [pack25_18_11_4_0]; omega
  refine decodeWords_of hwf ?_ ?_
  · simp only [lengthOf]; rw [hop]; rfl
  · rw [form_66 hop]
    simp only [decode66]
    congr 2 <;> (apply BitVec.eq_of_toNat_eq; simp only [fieldOf, BitVec.toNat_ofNat, pack25_18_11_4_0]; omega)

theorem tdef (a : BitVec 7) (t : BitVec 10) : Statement (.tdef a t) := by
  intro hwf _ rest
  have ha := a.isLt; have ht := t.isLt
  have hop : (pack25_11 0x70 a.toNat) / 2 ^ 25 = 0x70 := by simp only [pack25_11]; omega
  refine decodeWords_of hwf ?_ ?_
  · simp only [lengthOf]; rw [hop]; rfl
  · rw [form_70 hop]
    simp only [decode70, List.cons_append, List.nil_append, List.getD_cons_zero, List.getD_cons_succ]
    rw [if_pos (by simp only [bitsOf, pack0, pack25_11]; omega)]
    congr 2 <;> (apply BitVec.eq_of_toNat_eq; simp only [fieldOf, BitVec.toNat_ofNat, pack0, pack25_11]; omega)

theorem tdefQuery (d : BitVec 7) (t : BitVec 10) (s : BitVec 4) : Statement (.tdefQuery d t s) := by
  intro hwf _ rest
  have hd := d.isLt; have ht := t.isLt; have hs := s.isLt
  have hop : (pack25_18_0 0x70 d.toNat 1) / 2 ^ 25 = 0x70 := by simp only [pack25_18_0]; omega
  refine decodeWords_of hwf ?_ ?_
  · simp only [lengthOf]; rw [hop]; rfl
  · rw [form_70 hop]
    simp only [decode70, List.cons_append, List.nil_append, List.getD_cons_zero, List.getD_cons_succ]
    rw [if_neg (by simp only [bitsOf, pack10_0, pack25_18_0]; omega)]
    rw [if_neg (by simp only [bitsOf, pack10_0, pack25_18_0]; omega)]
    rw [if_neg (by simp only [bitsOf, pack10_0, pack25_18_0]; omega)]
    rw [if_pos (by simp only [bitsOf, pack10_0, pack25_18_0]; omega)]
    congr 2 <;> (apply BitVec.eq_of_toNat_eq; simp only [fieldOf, BitVec.toNat_ofNat, pack10_0, pack25_18_0]; omega)

theorem tdefBind (a : BitVec 7) (b : BitVec 7) (t : BitVec 10) : Statement (.tdefBind a b t) := by
  intro hwf _ rest
  have ha := a.isLt; have hb := b.isLt; have ht := t.isLt
  have hop : (pack25_11_4_0 0x70 a.toNat b.toNat 2) / 2 ^ 25 = 0x70 := by simp only [pack25_11_4_0]; omega
  refine decodeWords_of hwf ?_ ?_
  · simp only [lengthOf]; rw [hop]; rfl
  · rw [form_70 hop]
    simp only [decode70, List.cons_append, List.nil_append, List.getD_cons_zero, List.getD_cons_succ]
    rw [if_neg (by simp only [bitsOf, pack0, pack25_11_4_0]; omega)]
    rw [if_neg (by simp only [bitsOf, pack0, pack25_11_4_0]; omega)]
    rw [if_neg (by simp only [bitsOf, pack0, pack25_11_4_0]; omega)]
    rw [if_neg (by simp only [bitsOf, pack0, pack25_11_4_0]; omega)]
    rw [if_pos (by simp only [bitsOf, pack0, pack25_11_4_0]; omega)]
    congr 2 <;> (apply BitVec.eq_of_toNat_eq; simp only [fieldOf, BitVec.toNat_ofNat, pack0, pack25_11_4_0]; omega)

theorem tdefFill (a : BitVec 7) (t : BitVec 10) : Statement (.tdefFill a t) := by
  intro hwf _ rest
  have ha := a.isLt; have ht := t.isLt
  have hop : (pack25_11_0 0x70 a.toNat 3) / 2 ^ 25 = 0x70 := by simp only [pack25_11_0]; omega
  refine decodeWords_of hwf ?_ ?_
  · simp only [lengthOf]; rw [hop]; rfl
  · rw [form_70 hop]
    simp only [decode70, List.cons_append, List.nil_append, List.getD_cons_zero, List.getD_cons_succ]
    rw [if_neg (by simp only [bitsOf, pack0, pack25_11_0]; omega)]
    rw [if_pos (by simp only [bitsOf, pack0, pack25_11_0]; omega)]
    congr 2 <;> (apply BitVec.eq_of_toNat_eq; simp only [fieldOf, BitVec.toNat_ofNat, pack0, pack25_11_0]; omega)

theorem tdefBounds (a : BitVec 7) (t : BitVec 10) (s : BitVec 3) : Statement (.tdefBounds a t s) := by
  intro hwf _ rest
  have ha := a.isLt; have ht := t.isLt; have hs := s.isLt
  have hop : (pack25_11_0 0x70 a.toNat 4) / 2 ^ 25 = 0x70 := by simp only [pack25_11_0]; omega
  refine decodeWords_of hwf ?_ ?_
  · simp only [lengthOf]; rw [hop]; rfl
  · rw [form_70 hop]
    simp only [decode70, List.cons_append, List.nil_append, List.getD_cons_zero, List.getD_cons_succ]
    rw [if_neg (by simp only [bitsOf, pack10_0, pack25_11_0]; omega)]
    rw [if_neg (by simp only [bitsOf, pack10_0, pack25_11_0]; omega)]
    rw [if_pos (by simp only [bitsOf, pack10_0, pack25_11_0]; omega)]
    congr 2 <;> (apply BitVec.eq_of_toNat_eq; simp only [fieldOf, BitVec.toNat_ofNat, pack10_0, pack25_11_0]; omega)

theorem tld (d : BitVec 7) (a : BitVec 7) (b : BitVec 7) (ts : BitVec 10) (td : BitVec 10) : Statement (.tld d a b ts td) := by
  intro hwf _ rest
  have hd := d.isLt; have ha := a.isLt; have hb := b.isLt; have hts := ts.isLt; have htd := td.isLt
  have hop : (pack25_18_11_4 0x71 d.toNat a.toNat b.toNat) / 2 ^ 25 = 0x71 := by simp only [pack25_18_11_4]; omega
  refine decodeWords_of hwf ?_ ?_
  · simp only [lengthOf]; rw [hop]; rfl
  · rw [form_71 hop]
    simp only [decode71, List.cons_append, List.nil_append, List.getD_cons_zero, List.getD_cons_succ]
    rw [if_pos (by simp only [bitsOf, pack10_0, pack25_18_11_4]; omega)]
    congr 2 <;> (apply BitVec.eq_of_toNat_eq; simp only [fieldOf, BitVec.toNat_ofNat, pack10_0, pack25_18_11_4]; omega)

theorem tldDem (d : BitVec 7) (a : BitVec 7) (b : BitVec 7) (ts : BitVec 10) (td : BitVec 10) : Statement (.tldDem d a b ts td) := by
  intro hwf _ rest
  have hd := d.isLt; have ha := a.isLt; have hb := b.isLt; have hts := ts.isLt; have htd := td.isLt
  have hop : (pack25_18_11_4_0 0x71 d.toNat a.toNat b.toNat 1) / 2 ^ 25 = 0x71 := by simp only [pack25_18_11_4_0]; omega
  refine decodeWords_of hwf ?_ ?_
  · simp only [lengthOf]; rw [hop]; rfl
  · rw [form_71 hop]
    simp only [decode71, List.cons_append, List.nil_append, List.getD_cons_zero, List.getD_cons_succ]
    rw [if_neg (by simp only [bitsOf, pack10_0, pack25_18_11_4_0]; omega)]
    rw [if_pos (by simp only [bitsOf, pack10_0, pack25_18_11_4_0]; omega)]
    congr 2 <;> (apply BitVec.eq_of_toNat_eq; simp only [fieldOf, BitVec.toNat_ofNat, pack10_0, pack25_18_11_4_0]; omega)

theorem tst (d : BitVec 7) (a : BitVec 7) (b : BitVec 7) (ts : BitVec 10) (td : BitVec 10) : Statement (.tst d a b ts td) := by
  intro hwf _ rest
  have hd := d.isLt; have ha := a.isLt; have hb := b.isLt; have hts := ts.isLt; have htd := td.isLt
  have hop : (pack25_18_11_4 0x72 d.toNat a.toNat b.toNat) / 2 ^ 25 = 0x72 := by simp only [pack25_18_11_4]; omega
  refine decodeWords_of hwf ?_ ?_
  · simp only [lengthOf]; rw [hop]; rfl
  · rw [form_72 hop]
    simp only [decode72, List.cons_append, List.nil_append, List.getD_cons_zero, List.getD_cons_succ]
    rw [if_pos (by simp only [bitsOf, pack10_0, pack25_18_11_4]; omega)]
    congr 2 <;> (apply BitVec.eq_of_toNat_eq; simp only [fieldOf, BitVec.toNat_ofNat, pack10_0, pack25_18_11_4]; omega)

theorem mma (tile : BitVec 6) (a : BitVec 7) (b : BitVec 7) (acc : BitVec 1) (sat : BitVec 1) (kind : BitVec 2) (ta : BitVec 10) (tb : BitVec 10) (cv : BitVec 3) (k : BitVec 7) (n : BitVec 2) : Statement (.mma tile a b acc sat kind ta tb cv k n) := by
  intro hwf _ rest
  have htile := tile.isLt; have ha := a.isLt; have hb := b.isLt; have hacc := acc.isLt; have hsat := sat.isLt; have hkind := kind.isLt; have hta := ta.isLt; have htb := tb.isLt; have hcv := cv.isLt; have hk := k.isLt; have hn := n.isLt
  have hop : (pack25_18_11_4_2_1_0 0x73 tile.toNat a.toNat b.toNat kind.toNat sat.toNat acc.toNat) / 2 ^ 25 = 0x73 := by simp only [pack25_18_11_4_2_1_0]; omega
  refine decodeWords_of hwf ?_ ?_
  · simp only [lengthOf]; rw [hop]; rfl
  · rw [form_73 hop]
    simp only [decode73, List.cons_append, List.nil_append, List.getD_cons_zero, List.getD_cons_succ]
    rw [if_pos (by simp only [bitsOf, pack25_18_11_4_2_1_0, pack30_23_20_10_0]; omega)]
    congr 2 <;> (apply BitVec.eq_of_toNat_eq; simp only [fieldOf, BitVec.toNat_ofNat, pack25_18_11_4_2_1_0, pack30_23_20_10_0]; omega)

theorem accZero (tile : BitVec 6) : Statement (.accZero tile) := by
  intro hwf _ rest
  have htile := tile.isLt
  have hop : (pack25 0x74) / 2 ^ 25 = 0x74 := by decide
  refine decodeWords_of hwf ?_ ?_
  · simp only [lengthOf]; rw [hop]; rfl
  · rw [form_74 hop]
    simp only [decode74, List.cons_append, List.nil_append, List.getD_cons_zero, List.getD_cons_succ]
    rw [if_pos (by refine ⟨?_, ?_⟩ <;> first | decide | (simp only [bitsOf, pack0, pack25]; omega))]
    congr 2 <;> (apply BitVec.eq_of_toNat_eq; simp only [fieldOf, BitVec.toNat_ofNat, pack0, pack25]; omega)

theorem accLd (a : BitVec 7) (tile : BitVec 6) (t : BitVec 10) : Statement (.accLd a tile t) := by
  intro hwf _ rest
  have ha := a.isLt; have htile := tile.isLt; have ht := t.isLt
  have hop : (pack25_11_0 0x74 a.toNat 1) / 2 ^ 25 = 0x74 := by simp only [pack25_11_0]; omega
  refine decodeWords_of hwf ?_ ?_
  · simp only [lengthOf]; rw [hop]; rfl
  · rw [form_74 hop]
    simp only [decode74, List.cons_append, List.nil_append, List.getD_cons_zero, List.getD_cons_succ]
    rw [if_neg (by simp only [bitsOf, pack25_11_0, pack6_0]; omega)]
    rw [if_neg (by simp only [bitsOf, pack25_11_0, pack6_0]; omega)]
    rw [if_pos (by simp only [bitsOf, pack25_11_0, pack6_0]; omega)]
    congr 2 <;> (apply BitVec.eq_of_toNat_eq; simp only [fieldOf, BitVec.toNat_ofNat, pack25_11_0, pack6_0]; omega)

theorem accSt (a : BitVec 7) (b : BitVec 7) (tile : BitVec 6) (t : BitVec 10) (r : BitVec 3) (sat : BitVec 1) (it : BitVec 1) : Statement (.accSt a b tile t r sat it) := by
  intro hwf _ rest
  have ha := a.isLt; have hb := b.isLt; have htile := tile.isLt; have ht := t.isLt; have hr := r.isLt; have hsat := sat.isLt; have hit := it.isLt
  have hop : (pack25_11_4_0 0x74 a.toNat b.toNat 2) / 2 ^ 25 = 0x74 := by simp only [pack25_11_4_0]; omega
  refine decodeWords_of hwf ?_ ?_
  · simp only [lengthOf]; rw [hop]; rfl
  · rw [form_74 hop]
    simp only [decode74, List.cons_append, List.nil_append, List.getD_cons_zero, List.getD_cons_succ]
    rw [if_neg (by simp only [bitsOf, pack20_19_16_6_0, pack25_11_4_0]; omega)]
    rw [if_neg (by simp only [bitsOf, pack20_19_16_6_0, pack25_11_4_0]; omega)]
    rw [if_neg (by simp only [bitsOf, pack20_19_16_6_0, pack25_11_4_0]; omega)]
    rw [if_pos (by simp only [bitsOf, pack20_19_16_6_0, pack25_11_4_0]; omega)]
    congr 2 <;> (apply BitVec.eq_of_toNat_eq; simp only [fieldOf, BitVec.toNat_ofNat, pack20_19_16_6_0, pack25_11_4_0]; omega)

theorem accRd (d : BitVec 7) (a : BitVec 7) (tile : BitVec 6) : Statement (.accRd d a tile) := by
  intro hwf _ rest
  have hd := d.isLt; have ha := a.isLt; have htile := tile.isLt
  have hop : (pack25_18_11_0 0x74 d.toNat a.toNat 3) / 2 ^ 25 = 0x74 := by simp only [pack25_18_11_0]; omega
  refine decodeWords_of hwf ?_ ?_
  · simp only [lengthOf]; rw [hop]; rfl
  · rw [form_74 hop]
    simp only [decode74, List.cons_append, List.nil_append, List.getD_cons_zero, List.getD_cons_succ]
    rw [if_neg (by simp only [bitsOf, pack0, pack25_18_11_0]; omega)]
    rw [if_pos (by simp only [bitsOf, pack0, pack25_18_11_0]; omega)]
    congr 2 <;> (apply BitVec.eq_of_toNat_eq; simp only [fieldOf, BitVec.toNat_ofNat, pack0, pack25_18_11_0]; omega)

theorem metaLd (a : BitVec 7) (b : BitVec 7) (off : BitVec 12) (s : BitVec 1) : Statement (.metaLd a b off s) := by
  intro hwf _ rest
  have ha := a.isLt; have hb := b.isLt; have hoff := off.isLt; have hs := s.isLt
  have hop : (pack25_11_4 0x75 a.toNat b.toNat) / 2 ^ 25 = 0x75 := by simp only [pack25_11_4]; omega
  refine decodeWords_of hwf ?_ ?_
  · simp only [lengthOf]; rw [hop]; rfl
  · rw [form_75 hop]
    simp only [decode75, List.cons_append, List.nil_append, List.getD_cons_zero, List.getD_cons_succ]
    rw [if_neg (by simp only [bitsOf, pack12_0, pack25_11_4]; omega)]
    rw [if_pos (by simp only [bitsOf, pack12_0, pack25_11_4]; omega)]
    congr 2 <;> (apply BitVec.eq_of_toNat_eq; simp only [fieldOf, BitVec.toNat_ofNat, pack12_0, pack25_11_4]; omega)

theorem metaCompress (a : BitVec 7) (b : BitVec 7) (ts : BitVec 10) (td : BitVec 10) (k : BitVec 7) (n : BitVec 2) : Statement (.metaCompress a b ts td k n) := by
  intro hwf _ rest
  have ha := a.isLt; have hb := b.isLt; have hts := ts.isLt; have htd := td.isLt; have hk := k.isLt; have hn := n.isLt
  have hop : (pack25_11_4_0 0x75 a.toNat b.toNat 1) / 2 ^ 25 = 0x75 := by simp only [pack25_11_4_0]; omega
  refine decodeWords_of hwf ?_ ?_
  · simp only [lengthOf]; rw [hop]; rfl
  · rw [form_75 hop]
    simp only [decode75, List.cons_append, List.nil_append, List.getD_cons_zero, List.getD_cons_succ]
    rw [if_neg (by simp only [bitsOf, pack25_11_4_0, pack30_23_10_0]; omega)]
    rw [if_neg (by simp only [bitsOf, pack25_11_4_0, pack30_23_10_0]; omega)]
    rw [if_pos (by simp only [bitsOf, pack25_11_4_0, pack30_23_10_0]; omega)]
    congr 2 <;> (apply BitVec.eq_of_toNat_eq; simp only [fieldOf, BitVec.toNat_ofNat, pack25_11_4_0, pack30_23_10_0]; omega)

theorem metaExpand (a : BitVec 7) (b : BitVec 7) (ts : BitVec 10) (td : BitVec 10) (k : BitVec 7) (n : BitVec 2) : Statement (.metaExpand a b ts td k n) := by
  intro hwf _ rest
  have ha := a.isLt; have hb := b.isLt; have hts := ts.isLt; have htd := td.isLt; have hk := k.isLt; have hn := n.isLt
  have hop : (pack25_11_4_0 0x75 a.toNat b.toNat 2) / 2 ^ 25 = 0x75 := by simp only [pack25_11_4_0]; omega
  refine decodeWords_of hwf ?_ ?_
  · simp only [lengthOf]; rw [hop]; rfl
  · rw [form_75 hop]
    simp only [decode75, List.cons_append, List.nil_append, List.getD_cons_zero, List.getD_cons_succ]
    rw [if_neg (by simp only [bitsOf, pack25_11_4_0, pack30_23_10_0]; omega)]
    rw [if_neg (by simp only [bitsOf, pack25_11_4_0, pack30_23_10_0]; omega)]
    rw [if_neg (by simp only [bitsOf, pack25_11_4_0, pack30_23_10_0]; omega)]
    rw [if_pos (by simp only [bitsOf, pack25_11_4_0, pack30_23_10_0]; omega)]
    congr 2 <;> (apply BitVec.eq_of_toNat_eq; simp only [fieldOf, BitVec.toNat_ofNat, pack25_11_4_0, pack30_23_10_0]; omega)

theorem metaRd (d : BitVec 7) (a : BitVec 7) : Statement (.metaRd d a) := by
  intro hwf _ rest
  have hd := d.isLt; have ha := a.isLt
  have hop : (pack25_18_11_0 0x75 d.toNat a.toNat 3) / 2 ^ 25 = 0x75 := by simp only [pack25_18_11_0]; omega
  refine decodeWords_of hwf ?_ ?_
  · simp only [lengthOf]; rw [hop]; rfl
  · rw [form_75 hop]
    simp only [decode75, List.cons_append, List.nil_append, List.getD_cons_zero, List.getD_cons_succ]
    rw [if_pos (by refine ⟨?_, ?_⟩ <;> first | decide | (simp only [bitsOf, pack25_18_11_0]; omega))]
    congr 2 <;> (apply BitVec.eq_of_toNat_eq; simp only [fieldOf, BitVec.toNat_ofNat, pack25_18_11_0]; omega)

theorem cvdecl (c : BitVec 3) (a : BitVec 7) : Statement (.cvdecl c a) := by
  intro hwf _ rest
  have hc := c.isLt; have ha := a.isLt
  have hop : (pack25_18_11 0x76 c.toNat a.toNat) / 2 ^ 25 = 0x76 := by simp only [pack25_18_11]; omega
  refine decodeWords_of hwf ?_ ?_
  · simp only [lengthOf]; rw [hop]; rfl
  · rw [form_76 hop]
    simp only [decode76]
    rw [if_neg (by simp only [bitsOf, pack25_18_11]; omega)]
    rw [if_pos (by simp only [bitsOf, pack25_18_11]; omega)]
    congr 2 <;> (apply BitVec.eq_of_toNat_eq; simp only [fieldOf, BitVec.toNat_ofNat, pack25_18_11]; omega)

theorem cvstat (d : BitVec 7) (c : BitVec 3) : Statement (.cvstat d c) := by
  intro hwf _ rest
  have hd := d.isLt; have hc := c.isLt
  have hop : (pack25_18_11_0 0x76 d.toNat c.toNat 1) / 2 ^ 25 = 0x76 := by simp only [pack25_18_11_0]; omega
  refine decodeWords_of hwf ?_ ?_
  · simp only [lengthOf]; rw [hop]; rfl
  · rw [form_76 hop]
    simp only [decode76]
    rw [if_neg (by simp only [bitsOf, pack25_18_11_0]; omega)]
    rw [if_neg (by simp only [bitsOf, pack25_18_11_0]; omega)]
    rw [if_pos (by simp only [bitsOf, pack25_18_11_0]; omega)]
    congr 2 <;> (apply BitVec.eq_of_toNat_eq; simp only [fieldOf, BitVec.toNat_ofNat, pack25_18_11_0]; omega)

theorem cvclear (c : BitVec 3) : Statement (.cvclear c) := by
  intro hwf _ rest
  have hc := c.isLt
  have hop : (pack25_18_0 0x76 c.toNat 2) / 2 ^ 25 = 0x76 := by simp only [pack25_18_0]; omega
  refine decodeWords_of hwf ?_ ?_
  · simp only [lengthOf]; rw [hop]; rfl
  · rw [form_76 hop]
    simp only [decode76]
    rw [if_pos (by simp only [bitsOf, pack25_18_0]; omega)]
    congr 2 <;> (apply BitVec.eq_of_toNat_eq; simp only [fieldOf, BitVec.toNat_ofNat, pack25_18_0]; omega)

theorem tcopy (d : BitVec 7) (a : BitVec 7) (b : BitVec 7) (t : BitVec 10) (r : BitVec 7) (j : BitVec 7) (c : BitVec 7) : Statement (.tcopy d a b t r j c) := by
  intro hwf _ rest
  have hd := d.isLt; have ha := a.isLt; have hb := b.isLt; have ht := t.isLt; have hr := r.isLt; have hj := j.isLt; have hc := c.isLt
  have hop : (pack25_18_11_4 0x78 d.toNat a.toNat b.toNat) / 2 ^ 25 = 0x78 := by simp only [pack25_18_11_4]; omega
  refine decodeWords_of hwf ?_ ?_
  · have hf : bitsOf (pack25_18_11_4 0x78 d.toNat a.toNat b.toNat) 0 4 = 0 := by simp only [bitsOf, pack25_18_11_4]; omega
    simp only [lengthOf]; rw [hop]; simp [hf]
  · rw [form_78 hop]
    simp only [decode78, List.cons_append, List.nil_append, List.getD_cons_zero, List.getD_cons_succ]
    rw [if_neg (by simp only [bitsOf, pack24_17_10_0, pack25_18_11_4]; omega)]
    rw [if_pos (by simp only [bitsOf, pack24_17_10_0, pack25_18_11_4]; omega)]
    congr 2 <;> (apply BitVec.eq_of_toNat_eq; simp only [fieldOf, BitVec.toNat_ofNat, pack24_17_10_0, pack25_18_11_4]; omega)

theorem chain (d : BitVec 7) (a : BitVec 7) (c : BitVec 7) : Statement (.chain d a c) := by
  intro hwf _ rest
  have hd := d.isLt; have ha := a.isLt; have hc := c.isLt
  have hop : (pack25_18_11_0 0x78 d.toNat a.toNat 1) / 2 ^ 25 = 0x78 := by simp only [pack25_18_11_0]; omega
  refine decodeWords_of hwf ?_ ?_
  · have hf : bitsOf (pack25_18_11_0 0x78 d.toNat a.toNat 1) 0 4 = 1 := by simp only [bitsOf, pack25_18_11_0]; omega
    simp only [lengthOf]; rw [hop]; simp [hf]
  · rw [form_78 hop]
    simp only [decode78, List.cons_append, List.nil_append, List.getD_cons_zero, List.getD_cons_succ]
    rw [if_pos (by simp only [bitsOf, pack0, pack25_18_11_0]; omega)]
    congr 2 <;> (apply BitVec.eq_of_toNat_eq; simp only [fieldOf, BitVec.toNat_ofNat, pack0, pack25_18_11_0]; omega)

theorem placeConvert (d : BitVec 7) (c : BitVec 7) (t : BitVec 10) (dem : BitVec 16) : Statement (.placeConvert d c t dem) := by
  intro hwf _ rest
  have hd := d.isLt; have hc := c.isLt; have ht := t.isLt; have hdem := dem.isLt
  have hop : (pack25_18_11 0x79 d.toNat c.toNat) / 2 ^ 25 = 0x79 := by simp only [pack25_18_11]; omega
  refine decodeWords_of hwf ?_ ?_
  · have hf : bitsOf (pack25_18_11 0x79 d.toNat c.toNat) 0 4 = 0 := by simp only [bitsOf, pack25_18_11]; omega
    simp only [lengthOf]; rw [hop]; simp [hf]
  · rw [form_79 hop]
    simp only [decode79, List.cons_append, List.nil_append, List.getD_cons_zero, List.getD_cons_succ]
    rw [if_neg (by simp only [bitsOf, pack10_0, pack25_18_11]; omega)]
    rw [if_neg (by simp only [bitsOf, pack10_0, pack25_18_11]; omega)]
    rw [if_neg (by simp only [bitsOf, pack10_0, pack25_18_11]; omega)]
    rw [if_pos (by simp only [bitsOf, pack10_0, pack25_18_11]; omega)]
    congr 2 <;> (apply BitVec.eq_of_toNat_eq; simp only [fieldOf, BitVec.toNat_ofNat, pack10_0, pack25_18_11]; omega)

theorem placeSeal (d : BitVec 7) (t : BitVec 10) (m : BitVec 2) : Statement (.placeSeal d t m) := by
  intro hwf _ rest
  have hd := d.isLt; have ht := t.isLt; have hm := m.isLt
  have hop : (pack25_18_0 0x79 d.toNat 1) / 2 ^ 25 = 0x79 := by simp only [pack25_18_0]; omega
  refine decodeWords_of hwf ?_ ?_
  · have hf : bitsOf (pack25_18_0 0x79 d.toNat 1) 0 4 = 1 := by simp only [bitsOf, pack25_18_0]; omega
    simp only [lengthOf]; rw [hop]; simp [hf]
  · rw [form_79 hop]
    simp only [decode79, List.cons_append, List.nil_append, List.getD_cons_zero, List.getD_cons_succ]
    rw [if_neg (by simp only [bitsOf, pack10_0, pack25_18_0]; omega)]
    rw [if_neg (by simp only [bitsOf, pack10_0, pack25_18_0]; omega)]
    rw [if_pos (by simp only [bitsOf, pack10_0, pack25_18_0]; omega)]
    congr 2 <;> (apply BitVec.eq_of_toNat_eq; simp only [fieldOf, BitVec.toNat_ofNat, pack10_0, pack25_18_0]; omega)

theorem placeUnseal (d : BitVec 7) (t : BitVec 10) : Statement (.placeUnseal d t) := by
  intro hwf _ rest
  have hd := d.isLt; have ht := t.isLt
  have hop : (pack25_18_0 0x79 d.toNat 2) / 2 ^ 25 = 0x79 := by simp only [pack25_18_0]; omega
  refine decodeWords_of hwf ?_ ?_
  · have hf : bitsOf (pack25_18_0 0x79 d.toNat 2) 0 4 = 2 := by simp only [bitsOf, pack25_18_0]; omega
    simp only [lengthOf]; rw [hop]; simp [hf]
  · rw [form_79 hop]
    simp only [decode79, List.cons_append, List.nil_append, List.getD_cons_zero, List.getD_cons_succ]
    rw [if_pos (by simp only [bitsOf, pack0, pack25_18_0]; omega)]
    congr 2 <;> (apply BitVec.eq_of_toNat_eq; simp only [fieldOf, BitVec.toNat_ofNat, pack0, pack25_18_0]; omega)

theorem placeQuery (d : BitVec 7) (t : BitVec 10) : Statement (.placeQuery d t) := by
  intro hwf _ rest
  have hd := d.isLt; have ht := t.isLt
  have hop : (pack25_18_0 0x79 d.toNat 3) / 2 ^ 25 = 0x79 := by simp only [pack25_18_0]; omega
  refine decodeWords_of hwf ?_ ?_
  · have hf : bitsOf (pack25_18_0 0x79 d.toNat 3) 0 4 = 3 := by simp only [bitsOf, pack25_18_0]; omega
    simp only [lengthOf]; rw [hop]; simp [hf]
  · rw [form_79 hop]
    simp only [decode79, List.cons_append, List.nil_append, List.getD_cons_zero, List.getD_cons_succ]
    rw [if_neg (by simp only [bitsOf, pack0, pack25_18_0]; omega)]
    rw [if_pos (by simp only [bitsOf, pack0, pack25_18_0]; omega)]
    congr 2 <;> (apply BitVec.eq_of_toNat_eq; simp only [fieldOf, BitVec.toNat_ofNat, pack0, pack25_18_0]; omega)

theorem srchScan (d : BitVec 7) (a : BitVec 7) (b : BitVec 7) (mask : BitVec 8) (k : BitVec 10) (r : BitVec 7) (c : BitVec 7) : Statement (.srchScan d a b mask k r c) := by
  intro hwf _ rest
  have hd := d.isLt; have ha := a.isLt; have hb := b.isLt; have hmask := mask.isLt; have hk := k.isLt; have hr := r.isLt; have hc := c.isLt
  have hop : (pack25_18_11_4 0x7A d.toNat a.toNat b.toNat) / 2 ^ 25 = 0x7A := by simp only [pack25_18_11_4]; omega
  refine decodeWords_of hwf ?_ ?_
  · have hf : bitsOf (pack25_18_11_4 0x7A d.toNat a.toNat b.toNat) 0 4 = 0 := by simp only [bitsOf, pack25_18_11_4]; omega
    simp only [lengthOf]; rw [hop]; simp [hf]
  · rw [form_7A hop]
    simp only [decode7A, List.cons_append, List.nil_append, List.getD_cons_zero, List.getD_cons_succ]
    rw [if_neg (by simp only [bitsOf, pack25_18_11_4, pack25_18_8_0]; omega)]
    rw [if_neg (by simp only [bitsOf, pack25_18_11_4, pack25_18_8_0]; omega)]
    rw [if_neg (by simp only [bitsOf, pack25_18_11_4, pack25_18_8_0]; omega)]
    rw [if_neg (by simp only [bitsOf, pack25_18_11_4, pack25_18_8_0]; omega)]
    rw [if_neg (by simp only [bitsOf, pack25_18_11_4, pack25_18_8_0]; omega)]
    rw [if_neg (by simp only [bitsOf, pack25_18_11_4, pack25_18_8_0]; omega)]
    rw [if_neg (by simp only [bitsOf, pack25_18_11_4, pack25_18_8_0]; omega)]
    rw [if_pos (by simp only [bitsOf, pack25_18_11_4, pack25_18_8_0]; omega)]
    congr 2 <;> (apply BitVec.eq_of_toNat_eq; simp only [fieldOf, BitVec.toNat_ofNat, pack25_18_11_4, pack25_18_8_0]; omega)

theorem srchDist (d : BitVec 7) (a : BitVec 7) (b : BitVec 7) (e : BitVec 7) (s : BitVec 7) : Statement (.srchDist d a b e s) := by
  intro hwf _ rest
  have hd := d.isLt; have ha := a.isLt; have hb := b.isLt; have he := e.isLt; have hs := s.isLt
  have hop : (pack25_18_11_4_0 0x7A d.toNat a.toNat b.toNat 1) / 2 ^ 25 = 0x7A := by simp only [pack25_18_11_4_0]; omega
  refine decodeWords_of hwf ?_ ?_
  · have hf : bitsOf (pack25_18_11_4_0 0x7A d.toNat a.toNat b.toNat 1) 0 4 = 1 := by simp only [bitsOf, pack25_18_11_4_0]; omega
    simp only [lengthOf]; rw [hop]; simp [hf]
  · rw [form_7A hop]
    simp only [decode7A, List.cons_append, List.nil_append, List.getD_cons_zero, List.getD_cons_succ]
    rw [if_neg (by simp only [bitsOf, pack25_18_11_4_0, pack7_0]; omega)]
    rw [if_neg (by simp only [bitsOf, pack25_18_11_4_0, pack7_0]; omega)]
    rw [if_neg (by simp only [bitsOf, pack25_18_11_4_0, pack7_0]; omega)]
    rw [if_neg (by simp only [bitsOf, pack25_18_11_4_0, pack7_0]; omega)]
    rw [if_pos (by simp only [bitsOf, pack25_18_11_4_0, pack7_0]; omega)]
    congr 2 <;> (apply BitVec.eq_of_toNat_eq; simp only [fieldOf, BitVec.toNat_ofNat, pack25_18_11_4_0, pack7_0]; omega)

theorem srchWalkList (d : BitVec 7) (a : BitVec 7) (b : BitVec 7) (ko : BitVec 9) (no : BitVec 9) (r : BitVec 7) (c : BitVec 7) (n : BitVec 16) : Statement (.srchWalkList d a b ko no r c n) := by
  intro hwf _ rest
  have hd := d.isLt; have ha := a.isLt; have hb := b.isLt; have hko := ko.isLt; have hno := no.isLt; have hr := r.isLt; have hc := c.isLt; have hn := n.isLt
  have hop : (pack25_18_11_4_0 0x7A d.toNat a.toNat b.toNat 2) / 2 ^ 25 = 0x7A := by simp only [pack25_18_11_4_0]; omega
  refine decodeWords_of hwf ?_ ?_
  · have hf : bitsOf (pack25_18_11_4_0 0x7A d.toNat a.toNat b.toNat 2) 0 4 = 2 := by simp only [bitsOf, pack25_18_11_4_0]; omega
    simp only [lengthOf]; rw [hop]; simp [hf]
  · rw [form_7A hop]
    simp only [decode7A, List.cons_append, List.nil_append, List.getD_cons_zero, List.getD_cons_succ]
    rw [if_neg (by simp only [bitsOf, pack14_7_0, pack25_18_11_4_0, pack9_0]; omega)]
    rw [if_neg (by simp only [bitsOf, pack14_7_0, pack25_18_11_4_0, pack9_0]; omega)]
    rw [if_neg (by simp only [bitsOf, pack14_7_0, pack25_18_11_4_0, pack9_0]; omega)]
    rw [if_neg (by simp only [bitsOf, pack14_7_0, pack25_18_11_4_0, pack9_0]; omega)]
    rw [if_neg (by simp only [bitsOf, pack14_7_0, pack25_18_11_4_0, pack9_0]; omega)]
    rw [if_pos (by simp only [bitsOf, pack14_7_0, pack25_18_11_4_0, pack9_0]; omega)]
    congr 2 <;> (apply BitVec.eq_of_toNat_eq; simp only [fieldOf, BitVec.toNat_ofNat, pack14_7_0, pack25_18_11_4_0, pack9_0]; omega)

theorem srchWalkHash (d : BitVec 7) (a : BitVec 7) (b : BitVec 7) (lb : BitVec 5) (sb : BitVec 5) (r : BitVec 7) (c : BitVec 7) : Statement (.srchWalkHash d a b lb sb r c) := by
  intro hwf _ rest
  have hd := d.isLt; have ha := a.isLt; have hb := b.isLt; have hlb := lb.isLt; have hsb := sb.isLt; have hr := r.isLt; have hc := c.isLt
  have hop : (pack25_18_11_4_0 0x7A d.toNat a.toNat b.toNat 3) / 2 ^ 25 = 0x7A := by simp only [pack25_18_11_4_0]; omega
  refine decodeWords_of hwf ?_ ?_
  · have hf : bitsOf (pack25_18_11_4_0 0x7A d.toNat a.toNat b.toNat 3) 0 4 = 3 := by simp only [bitsOf, pack25_18_11_4_0]; omega
    simp only [lengthOf]; rw [hop]; simp [hf]
  · rw [form_7A hop]
    simp only [decode7A, List.cons_append, List.nil_append, List.getD_cons_zero, List.getD_cons_succ]
    rw [if_pos (by simp only [bitsOf, pack25_18_11_4_0, pack5_0, pack7_0]; omega)]
    congr 2 <;> (apply BitVec.eq_of_toNat_eq; simp only [fieldOf, BitVec.toNat_ofNat, pack25_18_11_4_0, pack5_0, pack7_0]; omega)

theorem srchWalkKv (d : BitVec 7) (a : BitVec 7) (b : BitVec 7) (lb : BitVec 5) (t : BitVec 16) (lv : BitVec 1) (r : BitVec 7) (c : BitVec 7) : Statement (.srchWalkKv d a b lb t lv r c) := by
  intro hwf _ rest
  have hd := d.isLt; have ha := a.isLt; have hb := b.isLt; have hlb := lb.isLt; have ht := t.isLt; have hlv := lv.isLt; have hr := r.isLt; have hc := c.isLt
  have hop : (pack25_18_11_4_0 0x7A d.toNat a.toNat b.toNat 4) / 2 ^ 25 = 0x7A := by simp only [pack25_18_11_4_0]; omega
  refine decodeWords_of hwf ?_ ?_
  · have hf : bitsOf (pack25_18_11_4_0 0x7A d.toNat a.toNat b.toNat 4) 0 4 = 4 := by simp only [bitsOf, pack25_18_11_4_0]; omega
    simp only [lengthOf]; rw [hop]; simp [hf]
  · rw [form_7A hop]
    simp only [decode7A, List.cons_append, List.nil_append, List.getD_cons_zero, List.getD_cons_succ]
    rw [if_neg (by simp only [bitsOf, pack21_5_0, pack25_18_11_4_0, pack7_0]; omega)]
    rw [if_neg (by simp only [bitsOf, pack21_5_0, pack25_18_11_4_0, pack7_0]; omega)]
    rw [if_pos (by simp only [bitsOf, pack21_5_0, pack25_18_11_4_0, pack7_0]; omega)]
    congr 2 <;> (apply BitVec.eq_of_toNat_eq; simp only [fieldOf, BitVec.toNat_ofNat, pack21_5_0, pack25_18_11_4_0, pack7_0]; omega)

theorem srchPush (d : BitVec 7) (a : BitVec 7) (b : BitVec 7) : Statement (.srchPush d a b) := by
  intro hwf _ rest
  have hd := d.isLt; have ha := a.isLt; have hb := b.isLt
  have hop : (pack25_18_11_4_0 0x7A d.toNat a.toNat b.toNat 5) / 2 ^ 25 = 0x7A := by simp only [pack25_18_11_4_0]; omega
  refine decodeWords_of hwf ?_ ?_
  · have hf : bitsOf (pack25_18_11_4_0 0x7A d.toNat a.toNat b.toNat 5) 0 4 = 5 := by simp only [bitsOf, pack25_18_11_4_0]; omega
    simp only [lengthOf]; rw [hop]; simp [hf]
  · rw [form_7A hop]
    simp only [decode7A, List.cons_append, List.nil_append, List.getD_cons_zero, List.getD_cons_succ]
    rw [if_neg (by simp only [bitsOf, pack25_18_11_4_0]; omega)]
    rw [if_neg (by simp only [bitsOf, pack25_18_11_4_0]; omega)]
    rw [if_neg (by simp only [bitsOf, pack25_18_11_4_0]; omega)]
    rw [if_neg (by simp only [bitsOf, pack25_18_11_4_0]; omega)]
    rw [if_neg (by simp only [bitsOf, pack25_18_11_4_0]; omega)]
    rw [if_neg (by simp only [bitsOf, pack25_18_11_4_0]; omega)]
    rw [if_neg (by simp only [bitsOf, pack25_18_11_4_0]; omega)]
    rw [if_neg (by simp only [bitsOf, pack25_18_11_4_0]; omega)]
    rw [if_pos (by simp only [bitsOf, pack25_18_11_4_0]; omega)]
    congr 2 <;> (apply BitVec.eq_of_toNat_eq; simp only [fieldOf, BitVec.toNat_ofNat, pack25_18_11_4_0]; omega)

theorem srchPop (d : BitVec 7) (a : BitVec 7) : Statement (.srchPop d a) := by
  intro hwf _ rest
  have hd := d.isLt; have ha := a.isLt
  have hop : (pack25_18_11_0 0x7A d.toNat a.toNat 6) / 2 ^ 25 = 0x7A := by simp only [pack25_18_11_0]; omega
  refine decodeWords_of hwf ?_ ?_
  · have hf : bitsOf (pack25_18_11_0 0x7A d.toNat a.toNat 6) 0 4 = 6 := by simp only [bitsOf, pack25_18_11_0]; omega
    simp only [lengthOf]; rw [hop]; simp [hf]
  · rw [form_7A hop]
    simp only [decode7A, List.cons_append, List.nil_append, List.getD_cons_zero, List.getD_cons_succ]
    rw [if_neg (by simp only [bitsOf, pack25_18_11_0]; omega)]
    rw [if_neg (by simp only [bitsOf, pack25_18_11_0]; omega)]
    rw [if_neg (by simp only [bitsOf, pack25_18_11_0]; omega)]
    rw [if_neg (by simp only [bitsOf, pack25_18_11_0]; omega)]
    rw [if_neg (by simp only [bitsOf, pack25_18_11_0]; omega)]
    rw [if_neg (by simp only [bitsOf, pack25_18_11_0]; omega)]
    rw [if_pos (by simp only [bitsOf, pack25_18_11_0]; omega)]
    congr 2 <;> (apply BitVec.eq_of_toNat_eq; simp only [fieldOf, BitVec.toNat_ofNat, pack25_18_11_0]; omega)

theorem srchDrain (d : BitVec 7) (a : BitVec 7) (b : BitVec 7) (c : BitVec 7) (s : BitVec 1) : Statement (.srchDrain d a b c s) := by
  intro hwf _ rest
  have hd := d.isLt; have ha := a.isLt; have hb := b.isLt; have hc := c.isLt; have hs := s.isLt
  have hop : (pack25_18_11_4_0 0x7A d.toNat a.toNat b.toNat 7) / 2 ^ 25 = 0x7A := by simp only [pack25_18_11_4_0]; omega
  refine decodeWords_of hwf ?_ ?_
  · have hf : bitsOf (pack25_18_11_4_0 0x7A d.toNat a.toNat b.toNat 7) 0 4 = 7 := by simp only [bitsOf, pack25_18_11_4_0]; omega
    simp only [lengthOf]; rw [hop]; simp [hf]
  · rw [form_7A hop]
    simp only [decode7A, List.cons_append, List.nil_append, List.getD_cons_zero, List.getD_cons_succ]
    rw [if_neg (by simp only [bitsOf, pack25_18_11_4_0, pack7_0]; omega)]
    rw [if_neg (by simp only [bitsOf, pack25_18_11_4_0, pack7_0]; omega)]
    rw [if_neg (by simp only [bitsOf, pack25_18_11_4_0, pack7_0]; omega)]
    rw [if_pos (by simp only [bitsOf, pack25_18_11_4_0, pack7_0]; omega)]
    congr 2 <;> (apply BitVec.eq_of_toNat_eq; simp only [fieldOf, BitVec.toNat_ofNat, pack25_18_11_4_0, pack7_0]; omega)

theorem ixcommit (d : BitVec 7) (a : BitVec 7) (b : BitVec 7) : Statement (.ixcommit d a b) := by
  intro hwf _ rest
  have hd := d.isLt; have ha := a.isLt; have hb := b.isLt
  have hop : (pack25_18_11_4_0 0x7A d.toNat a.toNat b.toNat 8) / 2 ^ 25 = 0x7A := by simp only [pack25_18_11_4_0]; omega
  refine decodeWords_of hwf ?_ ?_
  · have hf : bitsOf (pack25_18_11_4_0 0x7A d.toNat a.toNat b.toNat 8) 0 4 = 8 := by simp only [bitsOf, pack25_18_11_4_0]; omega
    simp only [lengthOf]; rw [hop]; simp [hf]
  · rw [form_7A hop]
    simp only [decode7A, List.cons_append, List.nil_append, List.getD_cons_zero, List.getD_cons_succ]
    rw [if_neg (by simp only [bitsOf, pack25_18_11_4_0]; omega)]
    rw [if_neg (by simp only [bitsOf, pack25_18_11_4_0]; omega)]
    rw [if_neg (by simp only [bitsOf, pack25_18_11_4_0]; omega)]
    rw [if_neg (by simp only [bitsOf, pack25_18_11_4_0]; omega)]
    rw [if_neg (by simp only [bitsOf, pack25_18_11_4_0]; omega)]
    rw [if_neg (by simp only [bitsOf, pack25_18_11_4_0]; omega)]
    rw [if_neg (by simp only [bitsOf, pack25_18_11_4_0]; omega)]
    rw [if_neg (by simp only [bitsOf, pack25_18_11_4_0]; omega)]
    rw [if_neg (by simp only [bitsOf, pack25_18_11_4_0]; omega)]
    rw [if_pos (by simp only [bitsOf, pack25_18_11_4_0]; omega)]
    congr 2 <;> (apply BitVec.eq_of_toNat_eq; simp only [fieldOf, BitVec.toNat_ofNat, pack25_18_11_4_0]; omega)

theorem ixver (d : BitVec 7) (a : BitVec 7) (c : BitVec 3) (k : BitVec 3) : Statement (.ixver d a c k) := by
  intro hwf _ rest
  have hd := d.isLt; have ha := a.isLt; have hc := c.isLt; have hk := k.isLt
  have hop : (pack25_18_11_0 0x7A d.toNat a.toNat 9) / 2 ^ 25 = 0x7A := by simp only [pack25_18_11_0]; omega
  refine decodeWords_of hwf ?_ ?_
  · have hf : bitsOf (pack25_18_11_0 0x7A d.toNat a.toNat 9) 0 4 = 9 := by simp only [bitsOf, pack25_18_11_0]; omega
    simp only [lengthOf]; rw [hop]; simp [hf]
  · rw [form_7A hop]
    simp only [decode7A, List.cons_append, List.nil_append, List.getD_cons_zero, List.getD_cons_succ]
    rw [if_neg (by simp only [bitsOf, pack25_18_11_0, pack3_0]; omega)]
    rw [if_pos (by simp only [bitsOf, pack25_18_11_0, pack3_0]; omega)]
    congr 2 <;> (apply BitVec.eq_of_toNat_eq; simp only [fieldOf, BitVec.toNat_ofNat, pack25_18_11_0, pack3_0]; omega)

theorem hop (a : BitVec 7) : Statement (.hop a) := by
  intro hwf _ rest
  have ha := a.isLt
  have hop : (pack25_11 0x7B a.toNat) / 2 ^ 25 = 0x7B := by simp only [pack25_11]; omega
  refine decodeWords_of hwf ?_ ?_
  · simp only [lengthOf]; rw [hop]; rfl
  · rw [form_7B hop]
    simp only [decode7B]
    rw [if_neg (by simp only [bitsOf, pack25_11]; omega)]
    rw [if_pos (by simp only [bitsOf, pack25_11]; omega)]
    congr 2 <;> (apply BitVec.eq_of_toNat_eq; simp only [fieldOf, BitVec.toNat_ofNat, pack25_11]; omega)

theorem chanConfig (d : BitVec 7) (a : BitVec 7) : Statement (.chanConfig d a) := by
  intro hwf _ rest
  have hd := d.isLt; have ha := a.isLt
  have hop : (pack25_18_11 0x7C d.toNat a.toNat) / 2 ^ 25 = 0x7C := by simp only [pack25_18_11]; omega
  refine decodeWords_of hwf ?_ ?_
  · have hf : bitsOf (pack25_18_11 0x7C d.toNat a.toNat) 0 4 = 0 := by simp only [bitsOf, pack25_18_11]; omega
    simp only [lengthOf]; rw [hop]; simp [hf]
  · rw [form_7C hop]
    simp only [decode7C, List.cons_append, List.nil_append, List.getD_cons_zero, List.getD_cons_succ]
    rw [if_neg (by simp only [bitsOf, pack25_18_11]; omega)]
    rw [if_neg (by simp only [bitsOf, pack25_18_11]; omega)]
    rw [if_neg (by simp only [bitsOf, pack25_18_11]; omega)]
    rw [if_neg (by simp only [bitsOf, pack25_18_11]; omega)]
    rw [if_neg (by simp only [bitsOf, pack25_18_11]; omega)]
    rw [if_pos (by simp only [bitsOf, pack25_18_11]; omega)]
    congr 2 <;> (apply BitVec.eq_of_toNat_eq; simp only [fieldOf, BitVec.toNat_ofNat, pack25_18_11]; omega)

theorem chanSend (d : BitVec 7) (a : BitVec 7) (b : BitVec 7) (ch : BitVec 6) : Statement (.chanSend d a b ch) := by
  intro hwf _ rest
  have hd := d.isLt; have ha := a.isLt; have hb := b.isLt; have hch := ch.isLt
  have hop : (pack25_18_11_4_0 0x7C d.toNat a.toNat b.toNat 1) / 2 ^ 25 = 0x7C := by simp only [pack25_18_11_4_0]; omega
  refine decodeWords_of hwf ?_ ?_
  · have hf : bitsOf (pack25_18_11_4_0 0x7C d.toNat a.toNat b.toNat 1) 0 4 = 1 := by simp only [bitsOf, pack25_18_11_4_0]; omega
    simp only [lengthOf]; rw [hop]; simp [hf]
  · rw [form_7C hop]
    simp only [decode7C, List.cons_append, List.nil_append, List.getD_cons_zero, List.getD_cons_succ]
    rw [if_neg (by simp only [bitsOf, pack0, pack25_18_11_4_0]; omega)]
    rw [if_neg (by simp only [bitsOf, pack0, pack25_18_11_4_0]; omega)]
    rw [if_neg (by simp only [bitsOf, pack0, pack25_18_11_4_0]; omega)]
    rw [if_neg (by simp only [bitsOf, pack0, pack25_18_11_4_0]; omega)]
    rw [if_pos (by simp only [bitsOf, pack0, pack25_18_11_4_0]; omega)]
    congr 2 <;> (apply BitVec.eq_of_toNat_eq; simp only [fieldOf, BitVec.toNat_ofNat, pack0, pack25_18_11_4_0]; omega)

theorem chanSendAcc (d : BitVec 7) (b : BitVec 7) (ch : BitVec 6) (tile : BitVec 6) : Statement (.chanSendAcc d b ch tile) := by
  intro hwf _ rest
  have hd := d.isLt; have hb := b.isLt; have hch := ch.isLt; have htile := tile.isLt
  have hop : (pack25_18_4_0 0x7C d.toNat b.toNat 2) / 2 ^ 25 = 0x7C := by simp only [pack25_18_4_0]; omega
  refine decodeWords_of hwf ?_ ?_
  · have hf : bitsOf (pack25_18_4_0 0x7C d.toNat b.toNat 2) 0 4 = 2 := by simp only [bitsOf, pack25_18_4_0]; omega
    simp only [lengthOf]; rw [hop]; simp [hf]
  · rw [form_7C hop]
    simp only [decode7C, List.cons_append, List.nil_append, List.getD_cons_zero, List.getD_cons_succ]
    rw [if_neg (by simp only [bitsOf, pack25_18_4_0, pack8_0]; omega)]
    rw [if_neg (by simp only [bitsOf, pack25_18_4_0, pack8_0]; omega)]
    rw [if_pos (by simp only [bitsOf, pack25_18_4_0, pack8_0]; omega)]
    congr 2 <;> (apply BitVec.eq_of_toNat_eq; simp only [fieldOf, BitVec.toNat_ofNat, pack25_18_4_0, pack8_0]; omega)

theorem chanSendAccBf16 (d : BitVec 7) (b : BitVec 7) (ch : BitVec 6) (tile : BitVec 6) : Statement (.chanSendAccBf16 d b ch tile) := by
  intro hwf _ rest
  have hd := d.isLt; have hb := b.isLt; have hch := ch.isLt; have htile := tile.isLt
  have hop : (pack25_18_4_0 0x7C d.toNat b.toNat 3) / 2 ^ 25 = 0x7C := by simp only [pack25_18_4_0]; omega
  refine decodeWords_of hwf ?_ ?_
  · have hf : bitsOf (pack25_18_4_0 0x7C d.toNat b.toNat 3) 0 4 = 3 := by simp only [bitsOf, pack25_18_4_0]; omega
    simp only [lengthOf]; rw [hop]; simp [hf]
  · rw [form_7C hop]
    simp only [decode7C, List.cons_append, List.nil_append, List.getD_cons_zero, List.getD_cons_succ]
    rw [if_neg (by simp only [bitsOf, pack25_18_4_0, pack8_0]; omega)]
    rw [if_neg (by simp only [bitsOf, pack25_18_4_0, pack8_0]; omega)]
    rw [if_neg (by simp only [bitsOf, pack25_18_4_0, pack8_0]; omega)]
    rw [if_pos (by simp only [bitsOf, pack25_18_4_0, pack8_0]; omega)]
    congr 2 <;> (apply BitVec.eq_of_toNat_eq; simp only [fieldOf, BitVec.toNat_ofNat, pack25_18_4_0, pack8_0]; omega)

theorem chanWait (d : BitVec 7) (b : BitVec 7) (ch : BitVec 6) (ln : BitVec 2) : Statement (.chanWait d b ch ln) := by
  intro hwf _ rest
  have hd := d.isLt; have hb := b.isLt; have hch := ch.isLt; have hln := ln.isLt
  have hop : (pack25_18_4_0 0x7C d.toNat b.toNat 4) / 2 ^ 25 = 0x7C := by simp only [pack25_18_4_0]; omega
  refine decodeWords_of hwf ?_ ?_
  · have hf : bitsOf (pack25_18_4_0 0x7C d.toNat b.toNat 4) 0 4 = 4 := by simp only [bitsOf, pack25_18_4_0]; omega
    simp only [lengthOf]; rw [hop]; simp [hf]
  · rw [form_7C hop]
    simp only [decode7C, List.cons_append, List.nil_append, List.getD_cons_zero, List.getD_cons_succ]
    rw [if_neg (by simp only [bitsOf, pack25_18_4_0, pack6_0]; omega)]
    rw [if_pos (by simp only [bitsOf, pack25_18_4_0, pack6_0]; omega)]
    congr 2 <;> (apply BitVec.eq_of_toNat_eq; simp only [fieldOf, BitVec.toNat_ofNat, pack25_18_4_0, pack6_0]; omega)

theorem chanRelease (b : BitVec 7) (ch : BitVec 6) (ln : BitVec 2) : Statement (.chanRelease b ch ln) := by
  intro hwf _ rest
  have hb := b.isLt; have hch := ch.isLt; have hln := ln.isLt
  have hop : (pack25_4_0 0x7C b.toNat 5) / 2 ^ 25 = 0x7C := by simp only [pack25_4_0]; omega
  refine decodeWords_of hwf ?_ ?_
  · have hf : bitsOf (pack25_4_0 0x7C b.toNat 5) 0 4 = 5 := by simp only [bitsOf, pack25_4_0]; omega
    simp only [lengthOf]; rw [hop]; simp [hf]
  · rw [form_7C hop]
    simp only [decode7C, List.cons_append, List.nil_append, List.getD_cons_zero, List.getD_cons_succ]
    rw [if_pos (by simp only [bitsOf, pack25_4_0, pack6_0]; omega)]
    congr 2 <;> (apply BitVec.eq_of_toNat_eq; simp only [fieldOf, BitVec.toNat_ofNat, pack25_4_0, pack6_0]; omega)

theorem wdqInit (a : BitVec 7) (q : BitVec 4) : Statement (.wdqInit a q) := by
  intro hwf _ rest
  have ha := a.isLt; have hq := q.isLt
  have hop : (pack25_11 0x7D a.toNat) / 2 ^ 25 = 0x7D := by simp only [pack25_11]; omega
  refine decodeWords_of hwf ?_ ?_
  · have hf : bitsOf (pack25_11 0x7D a.toNat) 0 4 = 0 := by simp only [bitsOf, pack25_11]; omega
    simp only [lengthOf]; rw [hop]; simp [hf]
  · rw [form_7D hop]
    simp only [decode7D, List.cons_append, List.nil_append, List.getD_cons_zero, List.getD_cons_succ]
    rw [if_neg (by simp only [bitsOf, pack0, pack25_11]; omega)]
    rw [if_pos (by simp only [bitsOf, pack0, pack25_11]; omega)]
    congr 2 <;> (apply BitVec.eq_of_toNat_eq; simp only [fieldOf, BitVec.toNat_ofNat, pack0, pack25_11]; omega)

theorem wdqNext (d : BitVec 7) (a : BitVec 7) (q : BitVec 4) (c : BitVec 7) : Statement (.wdqNext d a q c) := by
  intro hwf _ rest
  have hd := d.isLt; have ha := a.isLt; have hq := q.isLt; have hc := c.isLt
  have hop : (pack25_18_11_0 0x7D d.toNat a.toNat 1) / 2 ^ 25 = 0x7D := by simp only [pack25_18_11_0]; omega
  refine decodeWords_of hwf ?_ ?_
  · have hf : bitsOf (pack25_18_11_0 0x7D d.toNat a.toNat 1) 0 4 = 1 := by simp only [bitsOf, pack25_18_11_0]; omega
    simp only [lengthOf]; rw [hop]; simp [hf]
  · rw [form_7D hop]
    simp only [decode7D, List.cons_append, List.nil_append, List.getD_cons_zero, List.getD_cons_succ]
    rw [if_neg (by simp only [bitsOf, pack25_18_11_0, pack4_0]; omega)]
    rw [if_neg (by simp only [bitsOf, pack25_18_11_0, pack4_0]; omega)]
    rw [if_pos (by simp only [bitsOf, pack25_18_11_0, pack4_0]; omega)]
    congr 2 <;> (apply BitVec.eq_of_toNat_eq; simp only [fieldOf, BitVec.toNat_ofNat, pack25_18_11_0, pack4_0]; omega)

theorem wdqAnswer (ctx : Nat) (q : Nat) : Statement (.wdqAnswer ctx q) := statement_nil rfl

theorem wdqReset (q : BitVec 4) : Statement (.wdqReset q) := by
  intro hwf _ rest
  have hq := q.isLt
  have hop : (pack25_0 0x7D 2) / 2 ^ 25 = 0x7D := by decide
  refine decodeWords_of hwf ?_ ?_
  · have hf : bitsOf (pack25_0 0x7D 2) 0 4 = 2 := by decide
    simp only [lengthOf]; rw [hop]; simp [hf]
  · rw [form_7D hop]
    simp only [decode7D, List.cons_append, List.nil_append, List.getD_cons_zero, List.getD_cons_succ]
    rw [if_pos (by refine ⟨?_, ?_⟩ <;> first | decide | (simp only [bitsOf, pack0, pack25_0]; omega))]
    congr 2 <;> (apply BitVec.eq_of_toNat_eq; simp only [fieldOf, BitVec.toNat_ofNat, pack0, pack25_0]; omega)

theorem idleFlitReceived (port : Nat) (f : WireFlit) : Statement (.idleFlitReceived port f) := statement_nil rfl

theorem collapseAnswer (line : Nat) (die : Nat) : Statement (.collapseAnswer line die) := statement_nil rfl

theorem eventRnrRetry : Statement .eventRnrRetry := statement_nil rfl

theorem coolantSensorPoll : Statement .coolantSensorPoll := statement_nil rfl

theorem lifetimeSample : Statement .lifetimeSample := statement_nil rfl

theorem lifetimeFlashWrite : Statement .lifetimeFlashWrite := statement_nil rfl

theorem loadImageQuiesced : Statement .loadImageQuiesced := statement_nil rfl

theorem cmConnectRequest : Statement .cmConnectRequest := statement_nil rfl

theorem rateIncreasePeriod : Statement .rateIncreasePeriod := statement_nil rfl

theorem contributionRetryTimer : Statement .contributionRetryTimer := statement_nil rfl

theorem contributionAckTimeout : Statement .contributionAckTimeout := statement_nil rfl

theorem collectiveIdleTimeout : Statement .collectiveIdleTimeout := statement_nil rfl

theorem instanceStart : Statement .instanceStart := statement_nil rfl

theorem dispatch : Statement .dispatch := statement_nil rfl

theorem deadlineMiss : Statement .deadlineMiss := statement_nil rfl

theorem budgetExhausted : Statement .budgetExhausted := statement_nil rfl

theorem budgetGraceExpiry : Statement .budgetGraceExpiry := statement_nil rfl

theorem preemptionGraceExpiry : Statement .preemptionGraceExpiry := statement_nil rfl

theorem saveComplete : Statement .saveComplete := statement_nil rfl

theorem discardComplete : Statement .discardComplete := statement_nil rfl

theorem binTimerExpiry : Statement .binTimerExpiry := statement_nil rfl

theorem reorderTimerExpiry : Statement .reorderTimerExpiry := statement_nil rfl

theorem rendezvousTimeout : Statement .rendezvousTimeout := statement_nil rfl

theorem convergenceTimeout : Statement .convergenceTimeout := statement_nil rfl

theorem barrierTimeout : Statement .barrierTimeout := statement_nil rfl

theorem sealTimeout : Statement .sealTimeout := statement_nil rfl

theorem permitTimeout : Statement .permitTimeout := statement_nil rfl

theorem clauseStart : Statement .clauseStart := statement_nil rfl

theorem regionWindowEnd : Statement .regionWindowEnd := statement_nil rfl

theorem redfPerform : Statement .redfPerform := statement_nil rfl

theorem weightStoreRefreshStart : Statement .weightStoreRefreshStart := statement_nil rfl

theorem weightStoreRefreshEnd : Statement .weightStoreRefreshEnd := statement_nil rfl

theorem retentionEntry : Statement .retentionEntry := statement_nil rfl

theorem sealComplete : Statement .sealComplete := statement_nil rfl

theorem ret : Statement .ret := by
  intro hwf _ rest
  have hop : (pack25_0 0x22 2) / 2 ^ 25 = 0x22 := by decide
  refine decodeWords_of hwf ?_ ?_
  · simp only [lengthOf]; rw [hop]; rfl
  · rw [form_22 hop]
    simp only [decode22]
    rw [if_pos (by decide)]

theorem exitF : Statement .exitF := by
  intro hwf _ rest
  have hop : (pack25 0x23) / 2 ^ 25 = 0x23 := by decide
  refine decodeWords_of hwf ?_ ?_
  · simp only [lengthOf]; rw [hop]; rfl
  · rw [form_23 hop]
    simp only [decode23]
    rw [if_pos (by decide)]

theorem yield : Statement .yield := by
  intro hwf _ rest
  have hop : (pack25 0x26) / 2 ^ 25 = 0x26 := by decide
  refine decodeWords_of hwf ?_ ?_
  · simp only [lengthOf]; rw [hop]; rfl
  · rw [form_26 hop]
    simp only [decode26]
    rw [if_pos (by decide)]

theorem yieldSave : Statement .yieldSave := by
  intro hwf _ rest
  have hop : (pack25_0 0x26 1) / 2 ^ 25 = 0x26 := by decide
  refine decodeWords_of hwf ?_ ?_
  · simp only [lengthOf]; rw [hop]; rfl
  · rw [form_26 hop]
    simp only [decode26]
    rw [if_neg (by decide)]
    rw [if_pos (by decide)]

theorem yieldRestart : Statement .yieldRestart := by
  intro hwf _ rest
  have hop : (pack25_0 0x26 2) / 2 ^ 25 = 0x26 := by decide
  refine decodeWords_of hwf ?_ ?_
  · simp only [lengthOf]; rw [hop]; rfl
  · rw [form_26 hop]
    simp only [decode26]
    rw [if_neg (by decide)]
    rw [if_neg (by decide)]
    rw [if_pos (by decide)]

theorem rftResume : Statement .rftResume := by
  intro hwf _ rest
  have hop : (pack25 0x28) / 2 ^ 25 = 0x28 := by decide
  refine decodeWords_of hwf ?_ ?_
  · simp only [lengthOf]; rw [hop]; rfl
  · rw [form_28 hop]
    simp only [decode28]
    rw [if_pos (by decide)]

theorem rftSkip : Statement .rftSkip := by
  intro hwf _ rest
  have hop : (pack25_0 0x28 1) / 2 ^ 25 = 0x28 := by decide
  refine decodeWords_of hwf ?_ ?_
  · simp only [lengthOf]; rw [hop]; rfl
  · rw [form_28 hop]
    simp only [decode28]
    rw [if_neg (by decide)]
    rw [if_pos (by decide)]

theorem rftKill : Statement .rftKill := by
  intro hwf _ rest
  have hop : (pack25_0 0x28 2) / 2 ^ 25 = 0x28 := by decide
  refine decodeWords_of hwf ?_ ?_
  · simp only [lengthOf]; rw [hop]; rfl
  · rw [form_28 hop]
    simp only [decode28]
    rw [if_neg (by decide)]
    rw [if_neg (by decide)]
    rw [if_pos (by decide)]

theorem fenceLight : Statement .fenceLight := by
  intro hwf _ rest
  have hop : (pack25_0 0x2B 8) / 2 ^ 25 = 0x2B := by decide
  refine decodeWords_of hwf ?_ ?_
  · simp only [lengthOf]; rw [hop]; rfl
  · rw [form_2B hop]
    simp only [decode2B]
    rw [if_pos (by decide)]

theorem hopHome : Statement .hopHome := by
  intro hwf _ rest
  have hop : (pack25_0 0x7B 1) / 2 ^ 25 = 0x7B := by decide
  refine decodeWords_of hwf ?_ ?_
  · simp only [lengthOf]; rw [hop]; rfl
  · rw [form_7B hop]
    simp only [decode7B]
    rw [if_pos (by decide)]

theorem powerLoss : Statement .powerLoss := statement_nil rfl

theorem hostLinkRetrain : Statement .hostLinkRetrain := statement_nil rfl

theorem ext (e : BitVec 7) (m : BitVec 2) (p : BitVec 16) (w1 w2 w3 : BitVec 32) : Statement (.ext e m p w1 w2 w3) := by
  intro hwf _ rest
  have he := e.isLt; have hm := m.isLt; have hp := p.isLt
  have hop : (0x7F * 2 ^ 25 + e.toNat * 2 ^ 18 + m.toNat * 2 ^ 16 + p.toNat) / 2 ^ 25 = 0x7F := by omega
  have hmore : bitsOf (0x7F * 2 ^ 25 + e.toNat * 2 ^ 18 + m.toNat * 2 ^ 16 + p.toNat) 16 2 = m.toNat := by
    simp only [bitsOf]; omega
  have hfe : fieldOf (0x7F * 2 ^ 25 + e.toNat * 2 ^ 18 + m.toNat * 2 ^ 16 + p.toNat) 18 7 = e := by
    apply BitVec.eq_of_toNat_eq; simp only [fieldOf, BitVec.toNat_ofNat]; omega
  have hfm : fieldOf (0x7F * 2 ^ 25 + e.toNat * 2 ^ 18 + m.toNat * 2 ^ 16 + p.toNat) 16 2 = m := by
    apply BitVec.eq_of_toNat_eq; simp only [fieldOf, BitVec.toNat_ofNat]; omega
  have hfp : fieldOf (0x7F * 2 ^ 25 + e.toNat * 2 ^ 18 + m.toNat * 2 ^ 16 + p.toNat) 0 16 = p := by
    apply BitVec.eq_of_toNat_eq; simp only [fieldOf, BitVec.toNat_ofNat]; omega
  have hw (w : BitVec 32) : fieldOf w.toNat 0 32 = w := by
    apply BitVec.eq_of_toNat_eq; simp [fieldOf]
  have hz : ([w1.toNat, w2.toNat, w3.toNat].take m.toNat).length = m.toNat := by
    simp; omega
  refine decodeWords_of hwf ?_ ?_
  · rw [hz]; unfold lengthOf; rw [hop]; show 1 + bitsOf _ 16 2 = _; rw [hmore]; omega
  · rw [form_7F hop]
    simp only [decode7F, hmore, hfe, hfm, hfp]
    have hcase : m.toNat = 0 ∨ m.toNat = 1 ∨ m.toNat = 2 ∨ m.toNat = 3 := by omega
    simp only [Instr.wf, wfExt] at hwf
    rcases hcase with h | h | h | h <;> simp [h] at hwf <;> simp [h, hw, hwf]

end Sys2Proof.Laws.RoundTrip
end

