-- ==== Sys2Proof/Tests/Slice0.lean ====
section
/-! SUPPORT. Tests: words written out from the spec's encodings decode to their instructions, ill-formed terms are refused, single steps give the spec's worked results, and states that meet the hypotheses of the statements. -/

namespace Sys2Proof.Tests

set_option Elab.async false

open Sys2Proof Sys2Proof.Machine

/-! ### Helpers -/

/-- The fibre that acts in the test states, and its core. -/
def me : FibreRef := ⟨0, 0⟩

/-- A machine that stands at the instruction of a table word. -/
def standing (w : Nat) : State := State.reset.withFetchWord 64 w

/-- A standing machine whose fibre has been changed. -/
def having (g : Fibre → Fibre) : State := (standing 0).updFibre me g

/-- The fibre and the team that act in a state. -/
def team (s : State) : Team := (s.team? 0).getD (probeTeam 1 0)
def fibre (s : State) : Fibre := (s.fibre? me).getD (Fibre.fresh 0 128 0)

/-- The state after one instruction, and after one step. -/
def ran (i : Instr) (s : State) : Option State := match exec i s with | .next s' => some s' | _ => none
def stepped (s : State) : Option State := match step s with | .next s' => some s' | _ => none

/-- A register, a predicate, after one instruction. -/
def regOf (n : Nat) (o : Option State) : Option Nat := o.map fun s => ((fibre s).reg n).toNat
def predOf (n : Nat) (o : Option State) : Option Bool := o.map fun s => (fibre s).predBit n

/-- Two registers set. -/
def two (n m : Nat) (x y : Dword) : Fibre → Fibre := fun f => (f.setReg n x).setReg m y

/-- A page of 64 KiB at virtual page `vp` with the given leaf entry. -/
def withLeaf (vp leaf : Nat) (s : State) : State :=
  { s with mem := s.mem.write (0x40000 + 8 * vp) ((bytesOf (ofNat64 leaf) 8).map some) }

/-- The bytes of a dword at a physical address. -/
def put64 (pa : Nat) (v : Nat) (s : State) : State := { s with mem := s.mem.write pa ((bytesOf (ofNat64 v) 8).map some) }

/-- The number of `n` bytes at a physical address. -/
def memAt (pa n : Nat) (o : Option State) : Option Nat := o.map fun s => Claims.valueAt s pa n

/-- `Ready` for the acting fibre of a state, with nothing outstanding and no register poisoned, from one check. -/
theorem meReady {s : State} {rd wr preds tiles : List Nat}
    (h : (decide (s.current = some (me, team s, fibre s)) && ((rd ++ wr).all fun n => decide (n < windowOf (team s) (fibre s))) &&
      (fibre s).ll.isEmpty && (fibre s).spoilt.isEmpty) = true) : Ready s me (team s) (fibre s) rd wr preds tiles := by
  simp only [Bool.and_eq_true, decide_eq_true_eq, List.isEmpty_iff, List.all_eq_true, and_assoc] at h
  obtain ⟨here, low, none_out, none_bad⟩ := h
  exact { current := here, window := low, quiet := by simp [Fibre.quiet, none_out], clean := by simp [none_bad] }

/-- The fibre in a clause of `n` words; the team, the context changed. -/
def inClause (n : Nat) (f : Fibre) : Fibre := { f with clause := some ⟨0, probeHeader n, 0, 0, true, none⟩ }
def onTeam (g : Team → Team) (s : State) : State := s.updTeam 0 g
def onCtx (g : Context → Context) (s : State) : State := { s with ctxs := s.ctxs.map g }

/-- One store at the head of the queue. -/
def storing (k : StoreKind) : State := having fun f => { f with sq := [⟨k, ⟨false, 0, 0⟩, 0, 4⟩] }
def word0 : MemLoc := ⟨0x11000, 0x1000, 0, 0, 0, false⟩

/-- The parts of `Asked`, from one check. -/
theorem asked {s : State} {m : Message} {type len : Nat}
    (h : (s.serving && !s.os.recovery && msgType m == type && msgHeadOk m && m.body.length == len) = true) : Claims.Asked s m type len := by
  simp only [Bool.and_eq_true, Bool.not_eq_true', beq_iff_eq, and_assoc] at h
  obtain ⟨up, outside, named, good, size⟩ := h
  exact { serving := up, normal := outside, kind := named, head := good, length := size }

/-- Port 0. -/
def port (s : State) : Port := (s.port? 0).getD (Port.reset 0)

/-- `Arrives` at port 0, from one check. -/
theorem arrivesAt {s : State} {f : WireFlit} {k : Nat}
    (h : (decide (s.port? 0 = some (port s)) && (port s).live && flitKind f == k && flitSeq f == (port s).expected && decide ((port s).expected < 4096) &&
      s.gridAxes != 0 && flitDst f == s.here && flitFirst f && flitLast f && (port s).parts.isEmpty) = true) : Claims.Arrives s 0 (port s) f k := by
  simp only [Bool.and_eq_true, decide_eq_true_eq, beq_iff_eq, bne_iff_ne, List.isEmpty_iff, and_assoc] at h
  obtain ⟨there, carries, sort, inTurn, small, axes, mine, opens, ends, clear⟩ := h
  exact { port := there, live := carries, kind := sort, next := inTurn, range := small, here := ⟨axes, mine⟩, whole := ⟨opens, ends⟩, alone := clear }

/-- `FirstTeam` for the only team. -/
theorem firstTeam {s : State} {tm : Team} {p : Team → Prop} (h : s.teams = [tm]) (hp : p tm) : Claims.FirstTeam s tm p :=
  ⟨hp, by simp [h], [], [], by simpa using h, by simp⟩

/-! ### Words of the spec's encodings (15 to 20; the listings of 21 to 26), written out -/

theorem test_decode_rem : decodeWords [0x0C0C1036] = .ok (.rem 3 2 3 1 0, []) := rfl
theorem test_decode_mul_hi : decodeWords [0x081C2057] = .ok (.mul 7 4 5 7, []) := rfl
theorem test_decode_mul_lo : decodeWords [0x08203861] = .ok (.mul 8 7 6 1, []) := rfl
theorem test_decode_sub : decodeWords [0x04202081] = .ok (.sub 8 4 8 1, []) := rfl
theorem test_decode_addi : decodeWords [0x061837FF] = .ok (.addi 6 6 0x7FF, []) := rfl
theorem test_decode_cmp : decodeWords [0x30204065] = .ok (.cmp 2 0 8 6 5, []) := rfl
theorem test_decode_cmpi : decodeWords [0x32103001] = .ok (.cmpi 1 0 6 0 1, []) := rfl
theorem test_decode_pred : decodeWords [0x36200000] = .ok (.pred 2 0 0, []) := rfl
theorem test_decode_bra : decodeWords [0x4017FFFE] = .ok (.bra 1 0 0x7FFFE, []) := rfl
theorem test_decode_trap : decodeWords [0x4E000001] = .ok (.trap 1, []) := rfl
theorem test_decode_yield : decodeWords [0x4C000002] = .ok (.yieldRestart, []) := rfl
theorem test_decode_fence : decodeWords [0x56000480] = .ok (.fence 4 4, []) := rfl
theorem test_decode_fence_light : decodeWords [0x56000008] = .ok (.fenceLight, []) := rfl
theorem test_decode_fence_heavy : decodeWords [0x56004810] = .ok (.fenceHeavy 9, []) := rfl
theorem test_decode_ld : decodeWords [0x60142003] = .ok (.ld 5 4 0 0 3, []) := rfl
theorem test_decode_st : decodeWords [0x62144003] = .ok (.st 5 8 0 0 3, []) := rfl
theorem test_decode_ldnr : decodeWords [0x6C1420C3] = .ok (.ldnr 5 4 3 0 3, []) := rfl
theorem test_decode_atom : decodeWords [0x720C4090, 4] = .ok (.atom64 3 8 9 0 4 0 0 0, []) := rfl
theorem test_decode_fill : decodeWords [0x80002051, 0x15] = .ok (.fillVal 4 5 5 2, []) := rfl
theorem test_decode_take : decodeWords [0x821C2423] = .ok (.take 7 4 4 1, []) := rfl
theorem test_decode_waitf : decodeWords [0x8464BC23] = .ok (.waitf 25 23 4 1, []) := rfl
theorem test_decode_cntdn : decodeWords [0x8604BC43] = .ok (.cntdn 1 23 4 2, []) := rfl
theorem test_decode_bwait : decodeWords [0x8E00A150] = .ok (.bwait 20 21 0, []) := rfl
theorem test_decode_ffma : decodeWords [0xA4081840] = .ok (.ffma 2 3 4 0, []) := rfl
theorem test_decode_fcmp : decodeWords [0xA8201842] = .ok (.fcmp 2 0 3 4 0 2, []) := rfl
theorem test_decode_fcvt : decodeWords [0xAA1C3010] = .ok (.fcvt 7 6 1 0 0, []) := rfl
theorem test_decode_kvmin : decodeWords [0xB43850C0] = .ok (.kvmin 14 10 12 0, []) := rfl
theorem test_decode_xshf : decodeWords [0xC0143093] = .ok (.xshf 5 6 9 3, []) := rfl
theorem test_decode_mma : decodeWords [0xE60C50B1, 0x03A01805] = .ok (.mma 3 10 11 1 0 0 5 6 2 7 0, []) := rfl
theorem test_decode_tld : decodeWords [0xE2143071, 0x00000C02] = .ok (.tldDem 5 6 7 2 3, []) := rfl
theorem test_decode_acc_st : decodeWords [0xE80010D2, 0x00000080] = .ok (.accSt 2 13 0 2 0 0 0, []) := rfl
theorem test_decode_compress : decodeWords [0xEA004081, 0x00800800] = .ok (.metaCompress 8 8 0 2 1 0, []) := rfl
theorem test_decode_cvdecl : decodeWords [0xEC004800] = .ok (.cvdecl 0 9, []) := rfl
theorem test_decode_tcopy : decodeWords [0xF01450B0, 0x162A500C] = .ok (.tcopy 5 10 11 12 20 21 22, []) := rfl
theorem test_decode_seal : decodeWords [0xF2180001, 0x00000402] = .ok (.placeSeal 6 2 1, []) := rfl
theorem test_decode_scan : decodeWords [0xF44020A0, 0x1E2C03FF] = .ok (.srchScan 16 4 10 0xFF 3 11 15, []) := rfl
theorem test_decode_hop : decodeWords [0xF6006000] = .ok (.hop 12, []) := rfl
theorem test_decode_hop_home : decodeWords [0xF6000001] = .ok (.hopHome, []) := rfl
theorem test_decode_chan : decodeWords [0xF8382051, 0] = .ok (.chanSend 14 4 5 0, []) := rfl
theorem test_decode_wdq : decodeWords [0xFA386001, 0xD0] = .ok (.wdqNext 14 12 0 13, []) := rfl

/-- 15 R306: an unassigned opcode, a reserved fn, a reserved field, a word too few. -/
theorem test_decode_reject_opcode : decodeWords [0] = .error .unassignedOpcode := rfl
theorem test_decode_reject_fn : decodeWords [0x0C0C1038] = .error .unassignedForm := rfl
theorem test_decode_reject_field : decodeWords [0x4C000802] = .error .unassignedForm := rfl
theorem test_decode_reject_short : decodeWords [0xF01450B0] = .error .shortWords := rfl
/-- 00 R2, 15 R298: a word of the table is laid out little-endian, words of zeros behind it. -/
theorem test_table_word : decodeTableWord 32 0x0C0C1036 = some (.rem 3 2 3 1 0) := by decide +kernel
theorem test_table_two_words : decodeTableWord 64 (0x720C4090 + 4 * 2 ^ 32) = some (.atom64 3 8 9 0 4 0 0 0) := by decide +kernel

/-! ### Terms each check of WellFormed refuses -/

theorem test_ill_formed_integer : ([.add 1 2 3 6, .sub 1 2 3 15, .mul 1 2 3 4, .mul 1 2 3 8, .mad 1 2 3 6, .shifti 1 2 1 0 32, .bitop 1 2 10, .mov 1 2 7,
    .movFromSpecial 1 5, .movToSpecial 127 1, .cmp 1 0 2 3 12, .cmpi 1 0 2 3 15] : List Instr).all (fun i => !i.wf) = true := rfl
theorem test_ill_formed_control : ([.spawn 1 2 3 5 0, .rebin 1 2 3 15 0, .sysrd 1 0x006 , .sysrd 1 0x008, .syswr 1 0x016, .fence 4 0, .fence 4 5, .fence 6 1] : List Instr).map Instr.wf
    = [false, false, true, false, false, false, false, false] := rfl
theorem test_ill_formed_memory : ([.ld 1 2 0 0 5, .ld 1 2 0 0 4, .st 127 2 0 0 4, .lds 1 2 4 2 0 3, .lds 1 2 6 0 0 3, .lds 1 2 4 0 0 4, .sts 1 2 4 1 0 3,
    .ldnr 1 2 3 1 3, .pref 1 0 2 0, .preq 1 2 0 1 0, .acqr 1 2 1, .acqr 1 2 6] : List Instr).all (fun i => !i.wf) = true := rfl
theorem test_ill_formed_atomic : ([.atom32 1 2 3 10 4 0 0 0, .atom64 1 2 3 0 6 0 0 0, .atom64 1 2 3 0 4 4 0 0, .atom64 1 2 3 0 4 0 0 3, .cas 1 2 3 0 6 0 0,
    .cas 1 2 3 0 4 4 0, .red 2 3 9 4 0 0 0, .red 2 3 0 4 1 0 0, .redf 1 2 3 0, .redf 1 2 0 3] : List Instr).all (fun i => !i.wf) = true := rfl
theorem test_ill_formed_tagged : ([.fill 1 6 0, .fillVal 1 2 4 1, .fillEmpty 1 4 3, .take 1 2 4 4, .waitf 1 2 4 2, .cntdn 1 2 4 1] : List Instr).all (fun i => !i.wf) = true := rfl
theorem test_ill_formed_float : ([.fadd 1 2 3 6, .fcmp 1 0 2 3 0 7, .fcvt 1 2 127 0 0, .frnd 1 2 3 0, .ftoi 1 2 0 0 0 6, .itof 1 2 3 0 0 0, .fspec 1 2 0 10,
    .fdot 1 2 3 6, .fscale 1 2 3 7, .kvmin 1 2 4 0, .kvmax 2 4 6 3] : List Instr).map Instr.wf
    = [false, true, false, false, false, false, false, false, false, false, false] := rfl
theorem test_ill_formed_cross : ([.xred 1 2 3 11, .xscan 1 2 3 0 7, .xvote 1 2 3 4, .xmatch 1 2 3 15] : List Instr).all (fun i => !i.wf) = true := rfl
theorem test_ill_formed_tensor : ([.tdefBounds 1 2 5, .mma 0 1 2 0 0 3 4 5 6 7 0, .mma 0 1 2 0 0 1 4 5 6 7 3, .mma 0 1 2 0 0 0 4 5 6 7 1, .accSt 1 2 0 3 6 0 0,
    .metaCompress 1 2 3 4 0 3, .metaExpand 1 2 3 4 0 3] : List Instr).all (fun i => !i.wf) = true := rfl
theorem test_ill_formed_engine : ([.srchScan 1 2 3 0 4 5 6, .srchPush 1 2 3, .srchPop 1 2, .ixver 1 2 6 0, .ixver 1 2 4 2, .ext 8 0 0 1 0 0] : List Instr).all (fun i => !i.wf) = true := rfl

/-! ### Single steps with the spec's worked results -/

/-- A fetched step runs the decoded instruction: the Barrett clause's multiply (16, A reduction step). -/
theorem test_step_fetches : (stepped (standing 0x06102008)).map (fun s => ((fibre s).reg 4, (fibre s).pc)) = some (8, 8) := by decide +kernel
/-- 16, A reduction step: x = 150,994,944, m = 349,496 give q = 12,286 and q p = 150,982,654. -/
theorem test_mul_hi : regOf 7 (ran (.mul 7 4 5 7) (having (two 4 5 150994944 349496))) = some 12286 := by decide +kernel
theorem test_mul_lo : regOf 8 (ran (.mul 8 7 6 1) (having (two 7 6 12286 12289))) = some 150982654 := by decide +kernel
theorem test_sub : regOf 8 (ran (.sub 8 4 8 1) (having (two 4 8 150994944 150982654))) = some 12290 := by decide +kernel
theorem test_cmp : predOf 2 (ran (.cmp 2 0 8 6 5) (having (two 8 6 12290 12289))) = some true := by decide +kernel
/-- 16 Table 16.1: a saturating signed sum; a 32-bit sum is zero-extended. -/
theorem test_add_saturates : regOf 3 (ran (.add 3 4 5 2) (having (two 4 5 0x7FFFFFFFFFFFFFFF 1))) = some 0x7FFFFFFFFFFFFFFF := by decide +kernel
theorem test_add_wraps_32 : regOf 3 (ran (.add 3 4 5 1) (having (two 4 5 0xFFFFFFFF 1))) = some 0 := by decide +kernel
/-- 16 Table 16.2. -/
theorem test_div_zero : regOf 3 (ran (.div 3 4 5 0 1) (having (two 4 5 7 0))) = some 0xFFFFFFFF := by decide +kernel
theorem test_rem_least : regOf 3 (ran (.rem 3 4 5 0 0) (having (two 4 5 0x8000000000000000 0xFFFFFFFFFFFFFFFF))) = some 0 := by decide +kernel
theorem test_mad_destination : regOf 3 (ran (.mad 3 3 4 0) (having (two 3 4 5 6))) = some 35 := by decide +kernel
theorem test_minmax_signed : regOf 3 (ran (.minmax 3 4 5 0 1 1) (having (two 4 5 0xFFFFFFFF 1))) = some 1 := by decide +kernel
/-- 16 R323: the count is modulo the width; R324: field bits above 63 read 0 or are dropped. -/
theorem test_shift_count : regOf 3 (ran (.shift 3 4 5 1 0) (having (two 4 5 1 33))) = some 2 := by decide +kernel
theorem test_sar : regOf 3 (ran (.shifti 3 4 0 2 63) (having (two 4 5 0x8000000000000000 0))) = some 0xFFFFFFFFFFFFFFFF := by decide +kernel
theorem test_bfx_above : regOf 3 (ran (.bfx 3 4 31 60) (having (two 4 5 0xF000000000000000 0))) = some 0xF := by decide +kernel
theorem test_bfi : regOf 3 (ran (.bfi 3 4 15 0) (having (two 3 4 0xFFFFFFFF 0x12345))) = some 0xFFFF2345 := by decide +kernel
theorem test_clz_zero : regOf 3 (ran (.bitop 3 4 1) (having (two 3 4 0 0))) = some 32 := by decide +kernel
theorem test_bswap : regOf 3 (ran (.bitop 3 4 9) (having (two 3 4 0 0x12345678))) = some 0x78563412 := by decide +kernel
theorem test_mov_sext : regOf 3 (ran (.mov 3 4 1) (having (two 3 4 0 0x80))) = some 0xFFFFFFFFFFFFFF80 := by decide +kernel
theorem test_movl_hi : regOf 3 (ran (.movlHi 3 0x12345678) (having (two 3 4 0x9ABCDEF0 0))) = some 0x123456789ABCDEF0 := by decide +kernel
theorem test_srseed_zero : (ran (.movToSpecial 4 4) (having id)).map (fun s => (fibre s).srseed) = some 1 := by decide +kernel
theorem test_p0 : predOf 0 (ran (.movWrp 4) (having id)) = some true := by decide +kernel
theorem test_lea_signed : regOf 2 (ran (.lea 2 3 4 1 2) (having (two 3 4 100 0xFFFFFFFF))) = some 96 := by decide +kernel
theorem test_plog : predOf 4 (ran (.plog 4 0 0 1 8) (having id)) = some false := by decide +kernel

/-! ### States that meet the hypotheses of the statements: integer and control -/

theorem witness_AddSubMadResult : Ready (having id) me (team (having id)) (fibre (having id)) [3, 4, 127] [3, 4, 127] [] [] ∧ (5 : BitVec 4).toNat ≤ 5 :=
  ⟨meReady (by decide +kernel), by decide⟩
theorem witness_MulDivMinmaxResult : Ready (having id) me (team (having id)) (fibre (having id)) [3, 4, 127] [3, 4, 127] [] [] ∧
    ((3 : BitVec 4).toNat ≤ 3 ∨ (7 : BitVec 4).toNat = 6) ∧ (8 : BitVec 4).toNat ≥ 8 ∧ (7 : BitVec 4).toNat = (1 : BitVec 1).toNat * 4 + 2 + (1 : BitVec 1).toNat :=
  ⟨meReady (by decide +kernel), by decide⟩
theorem witness_LogicShiftResult : Ready (having id) me (team (having id)) (fibre (having id)) [3, 4, 127] [3, 4, 127] [] [] ∧
    ((1 : BitVec 1) = 0 ∨ (31 : BitVec 6).toNat < 32) ∧ (9 : BitVec 4).toNat ≤ 9 ∧ 2 ^ 9 ≤ (0x200 : BitVec 11).toNat :=
  ⟨meReady (by decide +kernel), by decide⟩
theorem witness_MoveResult : Ready (having id) me (team (having id)) (fibre (having id)) [3, 4] [3, 4] (List.range 32) [] ∧ (6 : BitVec 4).toNat ≤ 6 ∧ (3 : BitVec 4).toNat ≥ 3 :=
  ⟨meReady (by decide +kernel), by decide⟩
theorem witness_LeaResult : Ready (having id) me (team (having id)) (fibre (having id)) [0, 127, 3] [0, 127, 3] [] [] := meReady (by decide +kernel)
theorem witness_PredicateResult : Ready (having (inClause 3)) me (team (having (inClause 3))) (fibre (having (inClause 3))) [3, 4] [3, 4] [0, 1, 31] [] ∧
    (fibre (having (inClause 3))).clauseAfter > (fibre (having (inClause 3))).pc.toNat + 4 ∧ (11 : BitVec 4).toNat ≤ 11 :=
  ⟨meReady (by decide +kernel), by decide +kernel, by decide⟩
theorem witness_IntegerFrame : Ready (having id) me (team (having id)) (fibre (having id)) [3, 4, 5] [3, 4, 5] (List.range 32) [] ∧
    (Instr.rem 3 4 5 0 1) ∈ [Instr.add 3 4 5 0, .rem 3 4 5 0 1] := ⟨meReady (by decide +kernel), by decide⟩

/-- 15 R301: p0 with neg 0 always holds, with neg 1 never; the last address that has no upper bit, and a return address. -/
def jumping : State := having fun f => { (two 4 5 0xFFFFFFFFFFFFC 6) f with lk := 8 }
theorem witness_BranchResult : Ready jumping me (team jumping) (fibre jumping) [4] [4] [0] [] ∧ (fibre jumping).clause.isSome = true ∧
    (((0 : BitVec 5) = 0 ∨ (fibre jumping).pred.getLsbD 0 = true) ↔ (0 : BitVec 1) = 0) ∧ ¬ (((0 : BitVec 5) = 0 ∨ (fibre jumping).pred.getLsbD 0 = true) ↔ (1 : BitVec 1) = 0) ∧
    ((fibre jumping).reg 4).toNat < 2 ^ 52 ∧ ((fibre jumping).reg 4).toNat % 4 = 0 ∧ (fibre jumping).lk.toNat % 4 = 0 :=
  ⟨meReady (by decide +kernel), by (repeat' apply And.intro) <;> decide +kernel⟩
def misjumping : State := having fun f => { (two 4 5 0x10000000000000 6) f with lk := 2 }
theorem witness_JumpFaults : Ready misjumping me (team misjumping) (fibre misjumping) [4, 5] [4, 5] [] [] ∧ 2 ^ 52 ≤ ((fibre misjumping).reg 4).toNat ∧
    ((fibre misjumping).reg 5).toNat < 2 ^ 52 ∧ ((fibre misjumping).reg 5).toNat % 4 ≠ 0 ∧ (fibre misjumping).lk.toNat % 4 ≠ 0 :=
  ⟨meReady (by decide +kernel), by decide +kernel, by decide +kernel, by decide +kernel, by decide +kernel⟩

/-- A team of two indices, the second free; and the same team full. -/
def pairTeam : State := { onTeam (fun t => { t with
  kernel := { t.kernel with fibresM1 := 1 }
  fibres := t.fibres ++ [{ Fibre.fresh 1 128 0 with status := .notLive }] }) (having id) with aclk := 10 }
theorem witness_FibreLifeResult : Ready pairTeam me (team pairTeam) (fibre pairTeam) [3, 4, 5, 6, 7, 8] [3, 4, 5, 6, 7, 8] [] [] ∧ (fibre pairTeam).faults = [] ∧ (∀ c ∈ (fibre pairTeam).cf, c = 0) ∧
    (fibre pairTeam).sq = [] ∧ (fibre pairTeam).ll = [] ∧ (fibre pairTeam).hostFail = [] ∧ pairTeam.remote = [] ∧
    ((team pairTeam).fibres.find? fun x => !x.live && decide (x.since < pairTeam.aclk)).isSome = true ∧ pairTeam.binFree (team pairTeam) = true ∧
    (∀ x ∈ (team (having id)).fibres, x.live = true) ∧ ((fibre pairTeam).reg 3).toNat % 4 = 0 ∧ depositReady pairTeam me (fibre pairTeam) = true ∧
    depositReady (pairTeam.updTeam 0 fun u => u.releaseDue pairTeam.aclk) me (fibre pairTeam) = true :=
  ⟨meReady (by decide +kernel), by (repeat' apply And.intro) <;> decide +kernel⟩
/-- The other teams of the core hold its 16 bins (06 R130; log entry 88). -/
def crowded : State := onTeam (fun t => { t with binQuota := 0 }) pairTeam
theorem witness_SpawnWaits : Ready crowded me (team crowded) (fibre crowded) [4, 5, 6, 7, 8] [3] [] [] ∧ (crowded.updTeam 0 fun u => u.releaseDue crowded.aclk).binFree (team crowded) = false ∧
    (team crowded).bins = [] ∧ (fibre crowded).hostFail = [] := ⟨meReady (by decide +kernel), by decide +kernel, by decide +kernel, by decide +kernel⟩
/-- 16 R335: the lowest free index; all ones when none is free. -/
theorem test_spawn : regOf 3 (ran (.spawn 3 4 5 1 7) pairTeam) = some 1 := by decide +kernel
theorem test_spawn_full : regOf 3 (ran (.spawn 3 4 5 1 7) (having id)) = some 0xFFFFFFFFFFFFFFFF := by decide +kernel

/-- A team that keeps its core, one whose context is held, one with a pre-emption pending, one that can restart. -/
def restarting : State := onTeam (fun t => { t with kernel := { t.kernel with restartPc := 64 } }) (having id)
def preempted : State := onTeam (fun t => { t with state := .preemptPending }) (having id)
/-- A second team of the same class and an earlier deadline waits for a core. -/
def wanted : State := { onTeam (fun t => { t with deadline := 100 }) (having id) with teams := (onTeam (fun t => { t with deadline := 100 }) (having id)).teams ++ [{ probeTeam 1 0 with
  id := 1
  state := .saved
  core := none
  resSince := none
  fibres := [] }] }
theorem witness_YieldResult : Ready (having id) me (team (having id)) (fibre (having id)) [] [] [] [] ∧ Ready preempted me (team preempted) (fibre preempted) [] [] [] [] ∧
    Ready wanted me (team wanted) (fibre wanted) [] [] [] [] ∧ Ready restarting me (team restarting) (fibre restarting) [] [] [] [] ∧
    (team (having id)).state = .running ∧ (having id).coreWanted (team (having id)) = false ∧ ((having id).ctx? 0).map (·.held) = some false ∧
    wanted.coreWanted (team wanted) = true ∧ (team restarting).kernel.restartPc ≠ 0 ∧ (team preempted).state = .preemptPending ∧ (fibre preempted).handler = none ∧ (fibre (having id)).nearSlot = none :=
  ⟨meReady (by decide +kernel), meReady (by decide +kernel), meReady (by decide +kernel), meReady (by decide +kernel), by decide +kernel⟩
/-- 05 R103: the slice count of a team that keeps its core. -/
theorem test_yield_slice : (ran .yield (having id)).map (fun s => (team s).slice) = some 2 := by decide +kernel
/-- 06 R136: a team whose core is wanted saves at the swap point. -/
theorem test_yield_save : (ran .yield wanted).map (fun s => (team s).state) = some .saving := by decide +kernel

/-- A context with a trap handler at 0x100 and a ring at 0x4000; a clause header stands at the handler; the fibre's stack ends at 0x8000. -/
def handled : State := onCtx (fun c => { c with
  trapHandler := 0x100
  trapRing := 0x4000 }) (put64 0x10100 (probeHeader 1).toNat (put64 0x10104 0x4E00000150000000 (having fun f => { f with csp := 0x8000 })))
theorem witness_TrapResult : Ready handled me (team handled) (fibre handled) [] [] [] [] ∧ (fibre handled).clause.isSome = true ∧ (fibre handled).away = none ∧
    (team handled).resident = true ∧ (handled.ctx? 0).map (·.trapHandler) = some 0x100 ∧ ((standing 0).ctx? 0).map (·.trapHandler) = some 0 ∧
    (fetchWord handled 0 0 4).toOption.isSome = true ∧ (fibre handled).handler = none := ⟨meReady (by decide +kernel), by decide +kernel⟩
/-- The trap of TRAP begins at once, at the handler of the context. -/
theorem test_trap_enters : ((ran (.trap 17) handled).bind fun s => s.fibre? me).map (fun f => (f.pc, f.reg 1)) = some (0x100, 0x17) := by decide +kernel

/-- The fibre waits to enter its trap handler; and stands in it, its frame at csp. -/
def entering : State := handled.updFibre me fun f => { f with entering := some ⟨0x17, 0x4400, 0, 4, 8, 0, [], f.clause⟩ }
theorem witness_HandlerEntry : (entering.team? 0).isSome = true ∧ ((team entering).fibre? 0).isSome = true ∧ (entering.ctx? 0).map (·.trapHandler) = some 0x100 ∧
    (∀ n ∈ List.range 4, n ∉ (fibre entering).spoilt) ∧ 4 ≤ (fibre entering).regs.length ∧ (fibre entering).csp.toNat % 8 = 0 ∧ handlerUsable entering 0 0 0x100 = none ∧
    (framePlaces entering 0 0 ((0x8000 + 2 ^ 52 - 128) % 2 ^ 52) 16).toOption.isSome = true := by decide +kernel
/-- A frame at 0x7F80 with a pc and a last dword, all predicates and all flags set; the fibre stands in a service slot of stack 0, where loads are served at the home. -/
def framed (pc last : Nat) : State := put64 0x17F80 pc (put64 0x17FF8 last (put64 0x17F98 0xFFFFFFFFFFFFFFFF (having fun f => { f with
  csp := 0x7F80
  away := some (.service 0 0 4)
  handler := some ⟨0x03, 4, 8, f.clause, false⟩ })))
/-- The frame's pc is the interrupted instruction's. -/
def returning : State := framed 4 0
/-- The frame of a state, loaded. -/
def frameOf (s : State) : Option Nat := (recordAt me (team s) (fibre s) 0x7F80 16 0 s).toOption.map (·.1)
theorem witness_ReturnResult : Ready returning me (team returning) (fibre returning) [] [] [] [] ∧ Ready (framed 6 0) me (team (framed 6 0)) (fibre (framed 6 0)) [] [] [] [] ∧
    Ready (framed 4 1) me (team (framed 4 1)) (fibre (framed 4 1)) [] [] [] [] ∧ (fibre returning).handler.map (·.pc) = some 4 ∧ (fibre (having id)).handler = none ∧ resumesAsSkip 0x03 = false ∧
    frameOf returning = some (4 + (2 ^ 64 - 1) * 2 ^ 192) ∧ frameOf (framed 6 0) = some (6 + (2 ^ 64 - 1) * 2 ^ 192) ∧ frameOf (framed 4 1) = some (4 + (2 ^ 64 - 1) * 2 ^ 192 + 2 ^ 960) :=
  ⟨meReady (by decide +kernel), meReady (by decide +kernel), meReady (by decide +kernel), by (repeat' apply And.intro) <;> decide +kernel⟩
/-- 14 R282: RFT restores predicates with p0 held at 1, the reserved bits of fmode held at 0, and leaves the handler. -/
theorem test_rft_resume : ((ran .rftResume returning).bind fun s => s.fibre? me).map (fun f => (f.pc, f.fmode, f.csp)) = some (4, 0xFB, 0x8000) := by decide +kernel
theorem witness_SystemRegisterResult : Ready (having id) me (team (having id)) (fibre (having id)) [3] [3] [] [] ∧ (fibre (having id)).idx < 2 ^ 11 ∧ (team (having id)).ctx < 2 ^ 6 ∧
    (fibre (having id)).away = none ∧ (team (having id)).die < 2 ^ 5 ∧ (team (having id)).core.map (·.idx) = some 0 ∧ (team (having id)).cls < 4 := ⟨meReady (by decide +kernel), by decide +kernel⟩
/-- 16 Table 16.5: class 2 in bits 29 and 28, alloc 1 in [50:46], window 7 in [45:43]. -/
theorem test_sys_self : regOf 3 (ran (.sysrd 3 3) (having id)) = some (2 * 2 ^ 28 + 2 ^ 46 + 7 * 2 ^ 43) := by decide +kernel
theorem witness_FenceExtResult : Ready (having id) me (team (having id)) (fibre (having id)) [9] [9] [] [] ∧ (fibre (having id)).loadsPending = false ∧ (fibre (having id)).sq = [] ∧
    (having id).collapsesOf (.fibre me) = false ∧ (having id).redfOf me = false ∧ (having id).writesOut me = false ∧ (having id).probesToward 0 = false ∧
    (fibre (having id)).hostFail = [] ∧ (fibre (having id)).nearSlot = none ∧ teamDrained (having id) 0 0 ((fibre (having id)).reg 9).toNat = true ∧
    (7 : BitVec 7).toNat < 8 ∧ 8 ≤ (8 : BitVec 7).toNat := ⟨meReady (by decide +kernel), by decide +kernel⟩
/-- A store still queued before a release fence; g4 an address with a page, g5 a number of bytes, g6 one with no page; the mailbox of the context stands in a tagged page. -/
def fencing : State := onCtx (fun c => { c with pagerMbox := 0x10000 }) (withLeaf 1 (0x50000 + 0x7B) (having fun f => { (two 4 5 0x1001 0x300 f).setReg 6 0x30000 with
  sq := [⟨.write (.scr 0 64) [some 1], ⟨false, 0, 0⟩, 0, 4⟩] }))
theorem witness_FenceHints : Ready fencing me (team fencing) (fibre fencing) [4, 5, 6] [] [] [] ∧ redfPending fencing me (fibre fencing) = false ∧
    ((fibre fencing).loadsPending || !storesDone fencing me (fibre fencing) 1) = true ∧ access fencing (team fencing) (fibre fencing) .load 0 0x30000 1 1 = .error (.unmapped 0x30000) ∧
    0 < ((fibre fencing).reg 5).toNat ∧ (fibre fencing).loadsPending = false ∧ ((fibre fencing).reg 7).toNat = 0 :=
  ⟨meReady (by decide +kernel), by (repeat' apply And.intro) <;> decide +kernel⟩
/-- The context's mailbox stands in a mapped, tagged page, and no store is queued. -/
def paging : State := onCtx (fun c => { c with pagerMbox := 0x10000 }) (withLeaf 1 (0x50000 + 0x7B) (having (two 4 5 0x1001 0x300)))
theorem witness_PreqResult : Ready paging me (team paging) (fibre paging) [4, 5] [] [] [] ∧ leafFor paging 0 0 0x1001 ≠ .none ∧
    (mailboxWord paging 0 0x10000).toOption.map (fun m => (m.pa, mailboxOwned paging m)) = some (0x50000, false) ∧
    (fibre paging).loadsPending = false ∧ storesDone paging me (fibre paging) 4 = true := ⟨meReady (by decide +kernel), by (repeat' apply And.intro) <;> decide +kernel⟩
/-- 04 R96: PREQ counts the request in the mailbox's first word. -/
theorem test_preq_count : memAt 0x50000 8 (ran (.preq 5 4 0 0 0) paging) = some 1 := by decide +kernel
/-- 17 R357: a line of the range leaves the core's L1. -/
theorem test_acqr : ((ran (.acqr 4 5 1) { fencing with coh := { fencing.coh with l1 := [⟨⟨0, 0⟩, 0x11000 / 128, []⟩] } }).map fun s => ((fibre s).pc, s.coh.l1.length)) = some (8, 0) := by decide +kernel

/-! ### Memory, atomics, tagged words, barriers -/

/-- g4 holds an address in the mapped page, g5 a scratchpad offset, g6 a page that is not resident (virtual page 2). -/
def loading : State := withLeaf 2 0x1F (withLeaf 1 (0x50000 + 0x7B) (having fun f => (two 4 5 0x1000 64 f).setReg 6 0x20000))
theorem witness_LoadIssue : Ready loading me (team loading) (fibre loading) [4, 126, 127] [4, 126, 127] [3] [] ∧ (fibre loading).canIssue 0 ∧
    (access loading (team loading) (fibre loading) .load 0 0x1000 8 8).toOption.isSome = true ∧
    access loading (team loading) (fibre loading) .load 1 64 16 16 = .ok (.ok (.scr 0 64)) ∧
    access loading (team loading) (fibre loading) .load 0 0x20000 8 8 = .ok .nonres ∧
    (∀ st ∈ [(⟨false, 0, 0⟩ : Strength), ⟨true, 2, 0⟩], meetsPoison loading (team loading) (fibre loading) (.scr 0 64) 16 st = false) ∧ (.scr 0 64 : Loc).isLocal ∧
    (access loading (team loading) (fibre loading) .tagRead 0 0x10000 8 8).toOption.isSome = true :=
  ⟨meReady (by decide +kernel), ⟨by decide +kernel, by decide +kernel⟩, by decide +kernel, by decide +kernel, by decide +kernel, by decide +kernel, rfl, by decide +kernel⟩
theorem witness_MisalignedAccess : Ready loading me (team loading) (fibre loading) [4, 3, 5] [4, 3, 5] [] [] ∧
    ((fibre loading).reg 4 + BitVec.ofInt 64 ((0 : BitVec 6).toInt * 16)).toNat % 16 = 0 ∧ ((fibre (having (two 4 5 0x1001 2))).reg 4).toNat % 2 ≠ 0 ∧
    ((fibre (having (two 4 5 0x1008 2))).reg 4).toNat % 16 ≠ 0 := ⟨meReady (by decide +kernel), by decide +kernel⟩
/-- A load of 8 bytes of the scratchpad outstanding under counter 3; LDNR of a page that is not resident; a value that has come; TAGQ. -/
def outstanding (k : LongKind) : State := onTeam (fun t => { t with scratch := [(64, 0xAB), (71, 0x80)] }) (having fun f => { f with
  cf := f.cf.set 3 1
  ll := [⟨k, some 3, [5], [], [], 0, 4, 1, 0⟩] })
theorem witness_LoadDrop : ((team (outstanding (.value [(5, 9)] none))).fibre? 0).isSome = true ∧ (fibre (outstanding (.loadNr none 8 5 3))).entering = none ∧
    loadReady (outstanding (.load (.scr 0 64) 8 5 ⟨false, 0, 0⟩)) (team (outstanding (.load (.scr 0 64) 8 5 ⟨false, 0, 0⟩))) (fibre (outstanding (.load (.scr 0 64) 8 5 ⟨false, 0, 0⟩))) 0
      (.scr 0 64) ⟨false, 0, 0⟩ = true ∧
    loadReady (outstanding (.tagq (.mem ⟨0x50000, 0x10000, 0, 0, 0, false⟩) 5)) (team (outstanding (.tagq (.mem ⟨0x50000, 0x10000, 0, 0, 0, false⟩) 5)))
      (fibre (outstanding (.tagq (.mem ⟨0x50000, 0x10000, 0, 0, 0, false⟩) 5))) 0 (.mem ⟨0x50000, 0x10000, 0, 0, 0, false⟩) ⟨true, 4, 0⟩ = true := by decide +kernel
/-- 15 Table 15.3: the drop point writes the bytes read, zero-extended, and counts down. -/
theorem test_load_drop : ((ran (.longLatencyDrop 0 0 0) (outstanding (.load (.scr 0 64) 8 5 ⟨false, 0, 0⟩))).bind fun s => s.fibre? me).map (fun f => (f.reg 5, f.cf.getD 3 9, f.ll))
    = some (0x80000000000000AB, 0, []) := by decide +kernel
theorem test_ldnr_drop : ((ran (.longLatencyDrop 0 0 0) (outstanding (.loadNr none 8 5 3))).bind fun s => s.fibre? me).map (fun f => (f.reg 5, f.predBit 3)) = some (0, false) := by decide +kernel
theorem witness_StoreQueue : Ready loading me (team loading) (fibre loading) [5, 6, 7] [5, 6, 7] [] [] ∧
    access loading (team loading) (fibre loading) .store 1 64 8 8 = .ok (.ok (.scr 0 64)) ∧ access loading (team loading) (fibre loading) .store 1 32 1 1 = .ok (.ok (.scr 0 32)) ∧
    (.scr 0 32 : Loc).isLocal ∧ ((fibre loading).reg 5).toNat % 256 ≠ 0 ∧ ((fibre loading).reg 7).toNat % 256 = 0 := ⟨meReady (by decide +kernel), by decide +kernel, by decide +kernel, rfl, by decide +kernel⟩
theorem witness_AccessIssueFrame : (having id).current = some (me, team (having id), fibre (having id)) := by decide +kernel
theorem witness_StorePerformed : (having id).mem.wf = true ∧ sparseWf 0 (team (having id)).scratch = true ∧
    (∀ k ∈ [StoreKind.write (.mem word0) [some 1, none, some 3], .write (.scr 0 1023) [some 7], .nibble (.mem word0) true 5], ((fibre (storing k)).sq.head?.map fun op =>
      storeReady (storing k) me (team (storing k)) (fibre (storing k)) op) = some true) := by decide +kernel
/-- 17 R350: a masked store leaves the byte its mask leaves out. -/
theorem test_store_mask : memAt 0x10004 4 (ran (.storePerform 0 0) (storing (.write (.mem { word0 with pa := 0x10004 }) [some 1, none, some 3]))) = some 0x00030001 := by decide +kernel
theorem test_store_nibble : memAt 0x11000 1 (ran (.storePerform 0 0) (storing (.nibble (.mem word0) true 5))) = some 0x50 := by decide +kernel
/-- The core's L1 holds the line of 0x11000, and so does its home slice. -/
def caching : State := let s := having (two 4 5 0x1000 0x1080)
  { s with coh := { s.coh with
    l1 := [⟨⟨0, 0⟩, 0x11000 / 128, List.replicate 16 (0, false)⟩]
    slices := [⟨0x11000 / 128, 0, 0, 0, 15, 0⟩] } }
theorem witness_CacheFormResult : Ready caching me (team caching) (fibre caching) [4, 5, 6] [3] [] [] ∧ (fibre caching).nearSlot = none ∧
    (cachedLine caching (team caching) (fibre caching) 0x1000).map (fun p => (p.1, p.2.pa)) = some (⟨0, 0⟩, 0x11000) ∧
    cachedLine caching (team caching) (fibre caching) 0x1080 = none ∧ coreOf (team caching) (fibre returning) = none ∧
    (team caching).alloc ≤ (team caching).reserved ∧ (team caching).reserved ≤ 16 ∧ (access caching (team caching) (fibre caching) .load 0 0x1000 1 1).toOption.isSome = true ∧
    (access caching (team caching) (fibre caching) .load 1 0 1 1).toOption.isSome = true :=
  ⟨meReady (by decide +kernel), by (repeat' apply And.intro) <;> decide +kernel⟩
/-- 08 R172, 17 R358: CACHE.retain gives a held line its class; a line that is not held is left alone. -/
theorem test_cache_retain : (ran (.cacheRetain 4) caching).map (fun s => s.coh.slices.map (·.cls)) = some [2] ∧
    (ran (.cacheRetain 5) caching).map (fun s => s.coh.slices.map (·.cls)) = some [0] := by decide +kernel
/-- 16 R360: one way allocated and reserved, none retained. -/
theorem test_cache_ways : (regOf 3 (ran (.cacheWays 3) caching)).map (fun v => (v % 32, v / 32 % 32, v / 2 ^ 15 % 32)) = some (1, 1, 0) := by decide +kernel

/-- g4 a scratchpad dword, g5 an HBM word of the mapped page, g6 a word of the tagged page. -/
def syncing : State := withLeaf 1 (0x50000 + 0x7B) (having fun f => (two 4 5 64 0x1000 f).setReg 6 0x10000)
theorem witness_AtomicIssue : Ready syncing me (team syncing) (fibre syncing) [4, 5, 6] [4, 5, 6] [] [] ∧ (fibre syncing).canIssue 0 ∧ (.scr 0 64 : Loc).isLocal ∧
    access syncing (team syncing) (fibre syncing) .atomic 1 64 4 4 = .ok (.ok (.scr 0 64)) ∧ access syncing (team syncing) (fibre syncing) .atomic 1 64 8 8 = .ok (.ok (.scr 0 64)) ∧
    ((fibre syncing).queuedPoison (.scr 0 64)).getD (syncing.poisonedAt (.scr 0 64)) = false ∧ (access syncing (team syncing) (fibre syncing) .redf 0 0x1000 4 4).toOption.isSome = true :=
  ⟨meReady (by decide +kernel), ⟨by decide +kernel, by decide +kernel⟩, rfl, by decide +kernel⟩
def adding : AtomOp → StoreKind := fun o => .atomic (.mem word0) o 8 3 (some 1)
theorem witness_AtomicPerformed : (having id).mem.wf = true ∧ (having id).mem.poison.contains (word0.pa / 8) = false ∧
    (∀ o ∈ [AtomOp.add, .cas 7], ((fibre (storing (adding o))).sq.head?.map fun op => storeReady (storing (adding o)) me (team (storing (adding o))) (fibre (storing (adding o))) op) = some true) ∧
    (3 : Dword).toNat < 2 ^ (8 * 4) ∧ (9 : Nat) ≤ 9 := by decide +kernel
/-- 17 Table 17.2: 32-bit signed minimum of −1 and 1; a compare that fails stores nothing. -/
theorem test_atomic_min : memAt 0x11000 4 (ran (.storePerform 0 0) (put64 0x11000 0x5FFFFFFFF (storing (.atomic (.mem word0) .minI 4 1 none)))) = some 0xFFFFFFFF := by decide +kernel
theorem test_cas_fails : memAt 0x11000 8 (ran (.storePerform 0 0) (put64 0x11000 6 (storing (adding (.cas 7))))) = some 6 := by decide +kernel

def tag0 : MemLoc := ⟨0x50000, 0x10000, 0, 0, 0, false⟩
def full (s : State) : State := s.setTag 0xA000 true
theorem witness_TaggedWordResult : Ready syncing me (team syncing) (fibre syncing) [6, 5] [6, 5] [] [] ∧ (fibre syncing).canIssue 0 ∧
    access syncing (team syncing) (fibre syncing) .tagWrite 0 0x10000 8 8 = .ok (.ok (.mem tag0)) ∧ access syncing (team syncing) (fibre syncing) .tagRead 0 0x10000 8 8 = .ok (.ok (.mem tag0)) ∧
    access syncing (team syncing) (fibre syncing) .take 0 0x10000 8 8 = .ok (.ok (.mem tag0)) ∧
    takeReady syncing me (team syncing) (fibre syncing) true tag0 ⟨true, 4, 1⟩ = true ∧ takeReady syncing me (team syncing) (fibre syncing) false tag0 ⟨true, 4, 1⟩ = true ∧ (full syncing).mem.full.contains 0xA000 = true ∧ syncing.mem.full.contains 0xA000 = false ∧
    syncing.mem.poison.contains 0xA000 = false ∧ syncing.coh.waiters = [] ∧ (syncing.ctxs.all fun y => y.graphs.isEmpty) = true ∧ tag0.pa % 8 = 0 ∧
    ((fibre (storing (.cntdn (.mem tag0) 1))).sq.head?.map fun op => storeReady (storing (.cntdn (.mem tag0) 1)) me (team (storing (.cntdn (.mem tag0) 1))) (fibre (storing (.cntdn (.mem tag0) 1))) op) = some true :=
  ⟨meReady (by decide +kernel), ⟨by decide +kernel, by decide +kernel⟩, by decide +kernel⟩
/-- 17 R362: a TAKE of a FULL word leaves it EMPTY with its data in d; of an EMPTY one, the fibre blocks. -/
theorem test_take : (ran (.take 7 6 4 1) (put64 0x50000 9 (full syncing))).map (fun s => ((fibre s).reg 7, s.mem.full)) = some (9, []) := by decide +kernel
theorem test_take_blocks : (ran (.take 7 6 4 1) syncing).map (fun s => (fibre s).status) = some (.tagWait 0x10000) := by decide +kernel
/-- 17 R361: a countdown to 0 makes the word FULL. -/
theorem test_cntdn : (ran (.storePerform 0 0) (put64 0x50000 1 (storing (.cntdn (.mem tag0) 1)))).map (fun s => s.mem.full) = some [0xA000] := by decide +kernel

/-- A barrier object of one expected and one pending arrival, in phase 0, at scratchpad offset 32; g4 its offset, g5 a count. -/
def barrier : State := onTeam (fun t => { t with scratch := [(32, 2), (34, 1), (36, 1)] }) (having (two 4 5 32 1))
theorem witness_BarrierResult : Ready barrier me (team barrier) (fibre barrier) [4, 5, 6, 7, 8] [4, 5, 6, 7, 8] [] [] ∧ (fibre barrier).nearSlot = none ∧ ((fibre barrier).reg 4).toNat = 32 ∧
    32 + 32 ≤ (team barrier).allocBytes ∧ sparseWf 0 (team barrier).scratch = true ∧ barUnusable (barrier.barAt (.scr 0 32)) = false ∧
    participant (some (team barrier)) (team barrier) 0 (barrier.barAt (.scr 0 32)) = true ∧ barPendingArr (barrier.barAt (.scr 0 32)) = 1 ∧ barPendingBytes (barrier.barAt (.scr 0 32)) = 0 ∧
    barrier.blockedAt (.scr 0 32) false = [] ∧ barrier.blockedAt (.scr 0 32) true = [] ∧ (barrier.team? 0).isSome = true ∧ (fibre barrier).sq = [] ∧ barTimedOut (barrier.barAt (.scr 0 32)) = false ∧ ((fibre barrier).reg 5).toNat % 2 ^ 12 ≠ 0 ∧ (fibre barrier).loadsPending = false ∧
    fencesMet barrier me (fibre barrier) (fibre barrier).seq = true :=
  ⟨meReady (by decide +kernel), by decide +kernel⟩
/-- The object with two arrivals pending; a good image of four registers. -/
def barrier2 : State := onTeam (fun t => { t with scratch := [(32, 2), (34, 2), (36, 2)] }) (having (two 4 5 32 (2 ^ 16)))
theorem witness_BarrierClauses : Ready barrier2 me (team barrier2) (fibre barrier2) [4, 5, 6, 7, 8] [] [] [] ∧ barPendingArr (barrier2.barAt (.scr 0 32)) = 2 ∧ barUnusable (barrier2.barAt (.scr 0 32)) = false ∧
    participant (some (team barrier2)) (team barrier2) 0 (barrier2.barAt (.scr 0 32)) = true ∧ barImageBad (image4 (fibre barrier2) 5) = false ∧ ((fibre barrier).reg 5).toNat < 2 ^ 31 ∧
    barPhase (barrier2.barAt (.scr 0 32)) ≠ (((fibre barrier).reg 5).toNat % 2 == 1) ∧ barPhase (barrier2.barAt (.scr 0 32)) = (((fibre barrier).reg 6).toNat % 2 == 1) :=
  ⟨meReady (by decide +kernel), by (repeat' apply And.intro) <;> decide +kernel⟩
/-- 07 Table 7.7: the last arrival inverts the phase and expects all arrivals anew. -/
theorem test_arrive : (ran (.arrive 4 0) barrier).map (fun s => (barPhase (s.barAt (.scr 0 32)), barPendingArr (s.barAt (.scr 0 32)))) = some (true, 1) := by decide +kernel
/-- 07 R160: BWAIT with bit 0 for the operand blocks in phase 0; with bit 1 it passes. -/
theorem test_bwait_blocks : (ran (.bwait 4 6 0) barrier).map (fun s => (fibre s).status) = some (.bwait (.scr 0 32) false) := by decide +kernel
theorem test_bwait_passes : (ran (.bwait 4 5 0) barrier).map (fun s => ((fibre s).status, (fibre s).pc)) = some (.ready, 8) := by decide +kernel
/-- 17 R365: BINIT of count 0 traps; the image of a count n. -/
theorem test_binit : (ran (.binit 4 5 0) barrier).map (fun s => s.barAt (.scr 0 32)) = some (2 + 2 ^ 16 + 2 ^ 32) := by decide +kernel

/-! ### Floating point and cross-fibre -/

theorem witness_FpArithmeticResult : Ready (having id) me (team (having id)) (fibre (having id)) [3, 4, 2] [3, 4, 2] [] [] ∧ (fibre (having id)).nearSlot = none := ⟨meReady (by decide +kernel), by decide +kernel⟩
theorem witness_FpSelectResult : Ready (having id) me (team (having id)) (fibre (having id)) [10, 11, 12, 13, 14, 15] [10, 11, 12, 13, 14, 15] [2] [] ∧ (fibre (having id)).nearSlot = none ∧ (4 : BitVec 4).toNat = 4 ∧ (3 : BitVec 4).toNat ≤ 3 :=
  ⟨meReady (by decide +kernel), by decide +kernel⟩
theorem witness_FpConvertResult : Ready (having (two 4 3 0x40000000 0)) me (team (having (two 4 3 0x40000000 0))) (fibre (having (two 4 3 0x40000000 0))) [4, 3] [4, 3] [] [] ∧
    codeRm 0 (fibre (having id)) ≠ .sr ∧ (4 : BitVec 3).toNat = 4 ∧ ((fibre (having (two 4 3 0x40000000 0))).reg 4).toNat % 2 ^ 32 = 0x40000000 := ⟨meReady (by decide +kernel), by decide +kernel⟩
/-- 13 and 18, worked values: 1 + 2⁻²⁴ ties to even; a canonical NaN; −7 as an f16; +∞ saturates; a scale of 2⁻¹. -/
theorem test_fadd_tie : regOf 3 (ran (.fadd 3 4 5 0) (having (two 4 5 0x3F800000 0x33800000))) = some 0x3F800000 := by decide +kernel
theorem test_fadd_nan : regOf 3 (ran (.fadd 3 4 5 0) (having (two 4 5 0x7F800000 0xFF800000))) = some 0x7FC00000 := by decide +kernel
theorem test_fmul_packed : regOf 3 (ran (.fmul 3 4 5 3) (having (two 4 5 0x4000000040400000 0x4040000040400000))) = some 0x40C0000041100000 := by decide +kernel
theorem test_ffma_single_rounding : regOf 2 (ran (.ffma 2 3 4 0) (having fun f => (two 3 4 0x3F800001 0x3F800001 f).setReg 2 0xBF800002)) = some 0x28800000 := by decide +kernel
theorem test_itof : regOf 3 (ran (.itof 3 4 1 0 0 0) (having (two 4 5 0xFFFFFFF9 0))) = some 0xC700 := by decide +kernel
theorem test_ftoi_infinity : regOf 3 (ran (.ftoi 3 4 1 0 1 0) (having (two 4 5 0x7C00 0))) = some 0x7FFFFFFF := by decide +kernel
theorem test_fscale : regOf 3 (ran (.fscaleE8m0 3 4 5 2) (having (two 4 5 0x3F81 125))) = some 0x3E81 := by decide +kernel
/-- 13 R266: with srseed 0x80200003 the value 0x3F80C000 goes up to 0x3F81; toward zero it is 0x3F80. -/
theorem test_stochastic : regOf 3 (ran (.fcvt 3 4 1 0 4) (having fun f => { f.setReg 4 0x3F80C000 with srseed := 1 })) = some 0x3F81 := by decide +kernel
theorem test_toward_zero : regOf 3 (ran (.fcvt 3 4 1 0 1) (having fun f => f.setReg 4 0x3F80C000)) = some 0x3F80 := by decide +kernel
theorem test_fcmp : predOf 2 (ran (.fcmp 2 0 3 4 0 0) (having (two 3 4 0x80000000 0))) = some true := by decide +kernel
theorem test_fmin_nan : regOf 3 (ran (.fmin 3 4 5 0) (having (two 4 5 0x7FC00000 0x3F800000))) = some 0x3F800000 := by decide +kernel
/-- 18 R378: equal keys are decided by the id. -/
theorem test_kvmin : regOf 15 (ran (.kvmin 14 10 12 0) (having fun f => ((two 10 11 0x3E800000 41 f).setReg 12 0x3E800000).setReg 13 9)) = some 9 := by decide +kernel
theorem test_fspec_sqrt : regOf 3 (ran (.fspec 3 4 0 2) (having (two 4 5 0x40800000 0))) = some 0x40000000 := by decide +kernel
theorem test_fdot_wraps : regOf 3 (ran (.fdot 3 4 5 4) (having fun f => (two 4 5 0x0000000000000001 0x0000000000000001 f).setReg 3 0x7FFFFFFF)) = some 0x80000000 := by decide +kernel

/-- Two fibres of one row; the second stands blocked at the instruction with the same set. -/
def meeting : State := onTeam (fun t => { t with
  kernel := { t.kernel with fibresM1 := 1 }
  fibres := t.fibres.map (fun f => (two 4 6 5 3 f)) ++ t.fibres.map (fun f => { two 4 6 9 3 f with
    idx := 1
    status := .rendezvous 4 3 0 }) }) (having id)
/-- The same with the second fibre still to come, and with one that has ended. -/
def early : State := onTeam (fun t => { t with fibres := t.fibres.map (fun f => { f with status := .ready }) }) meeting
def alone : State := onTeam (fun t => { t with fibres := t.fibres.map (fun f => { f with status := if f.idx = 1 then .notLive else .ready }) }) meeting
theorem witness_CrossFibreResult : Ready meeting me (team meeting) (fibre meeting) [3, 4, 6] [3, 4, 6] [] [] ∧ (3 : BitVec 32) = ((fibre meeting).reg 6).setWidth 32 ∧
    (fibre meeting).status = .ready ∧ (fibre meeting).away = none ∧ (fibre meeting).held = none ∧ (3 : BitVec 32).getLsbD (0 % 32) = true ∧
    ((team meeting).fibre? 1).map (fun g => (g.status, g.held, g.pc, decide (3 < g.regs.length))) = some (.rendezvous 4 3 0, none, 4, true) := ⟨meReady (by decide +kernel), by decide +kernel⟩
theorem witness_RendezvousArrival : Ready early me (team early) (fibre early) [3, 4, 6] [3, 4, 6] [] [] ∧ ((team early).fibre? 1).map (fun x => (x.status, x.held)) = some (.ready, none) ∧
    ((team alone).fibre? 1).map (·.status) = some .notLive ∧ (2 : BitVec 32).getLsbD (0 % 32) = false ∧ Ready alone me (team alone) (fibre alone) [3, 4, 6] [3, 4, 6] [] [] :=
  ⟨meReady (by decide +kernel), by decide +kernel, by decide +kernel, by decide, meReady (by decide +kernel)⟩
/-- 18 Table 18.8 and R384: the sum of both; the exclusive scan of the lowest lane is 0. -/
theorem test_xred : regOf 3 (ran (.xred 3 4 6 0) meeting) = some 14 := by decide +kernel
theorem test_xscan : (ran (.xscan 3 4 6 1 0) meeting).bind (fun s => (s.fibre? ⟨0, 1⟩).map fun f => f.reg 3) = some 5 := by decide +kernel
theorem test_xshf : regOf 3 (ran (.xshf 3 4 6 3) (meeting.updFibre me fun f => f.setReg 3 1)) = some 9 := by decide +kernel
theorem test_rendezvous_blocks : (ran (.xred 3 4 6 0) early).map (fun s => (fibre s).status) = some (.rendezvous 4 3 0) := by decide +kernel

/-! ### Cache forms, resize, tensors, tiles, products -/

/-- An outstanding RESIZE to `n` ways of a team with one way of two reserved. -/
def resizing (n : Nat) : State := onTeam (fun t => { t with reserved := 2, kernel := { t.kernel with scratchWays := 2 } }) (outstanding (.resize n 5 true))
theorem witness_ResizeSwitch : ((fibre (resizing 2)).ll[0]?).map (fun op => (op.kind, op.counter)) = some (.resize 2 5 true, some 3) ∧ (fibre (resizing 2)).entering = none ∧
    5 < (fibre (resizing 2)).regs.length ∧ resizeRefused (resizing 2) (team (resizing 2)) 2 = false ∧ resizeRefused (resizing 3) (team (resizing 3)) 3 = true ∧
    resizeRefused (resizing 1) (team (resizing 1)) 1 = false ∧ (team (resizing 3)).alloc < 2 ^ 64 ∧
    resizeRefused (resizing 0) (team (resizing 0)) 0 = false ∧ issuedAbove (resizing 0) (team (resizing 0)) 0 = false := by decide +kernel
theorem witness_ResizeIssue : Ready caching me (team caching) (fibre caching) [4] [3] [] [] ∧ (fibre caching).canIssue 0 ∧ (fibre caching).nearSlot = none :=
  ⟨meReady (by decide +kernel), ⟨by decide +kernel, by decide +kernel⟩, by decide +kernel⟩
/-- 08 R167: the granted allocation, and its answer. -/
theorem test_resize_shrink : ((ran (.resizeSwitchPoint 0 0 0) (resizing 0)).map fun s => ((team s).alloc, (team s).reserved, (team s).scratch, (fibre s).reg 5)) = some (0, 2, [], 0) := by decide +kernel
theorem test_resize : ((ran (.resizeSwitchPoint 0 0 0) (resizing 2)).map fun s => ((team s).alloc, (fibre s).reg 5)) = some (2, 2) := by decide +kernel

/-- A dense entry of rank 2: format, space, base and dimensions; a placement field on the package axis of one die, in a state. -/
def ent (fmt space base d0 d1 : Nat) : Nat :=
  fmt + 2 * 2 ^ 4 + space * 2 ^ 7 + base * 2 ^ 64 + (d0 - 1) * 2 ^ 256 + (d1 - 1) * 2 ^ 280 + 2 ^ 384 + d0 * 2 ^ 416 + d0 * 2 ^ 608 + d1 * 2 ^ 632
def placed (state : Nat) (e : Nat) : Nat := e + 2 ^ 784 + state * 2 ^ 786 + 2 ^ 796 + (1 + 2 ^ 4) * 2 ^ 864
/-- Entry `n` of the table, which the test context has at virtual address 0. -/
def withEnt (n e : Nat) (s : State) : State := { s with mem := s.mem.write (0x10000 + 128 * n) ((bytesOfNat 128 e).map some) }
def entOf (n : Nat) (o : Option State) : Option Nat := memAt (0x10000 + 128 * n) 128 o

/-- An i8 tensor in memory, entry 64; a sealed placed one, entry 65; an image at 0x3000 and at g4. -/
def tensors : State := withEnt 64 (ent 6 0 0x8000 4 4) (withEnt 65 (placed 1 (ent 6 0 0x8000 4 4)) (withEnt 96 (ent 6 0 0x9000 4 4) (having (two 4 5 0x3000 3))))
theorem witness_TdefResult : Ready tensors me (team tensors) (fibre tensors) [4, 5, 6] [4, 5, 6] [] [] ∧ (fibre tensors).nearSlot = none ∧ tensors.mem.wf = true ∧ (fibre tensors).sq = [] ∧
    (fibre tensors).loadsPending = false ∧
    (tensors.readEntry 0 4 64).toOption.map (fun p => entryReady tensors (team tensors) (fibre tensors) p.1) = some true ∧
    (tensors.readEntry 0 4 64).toOption.map (fun p => (p.1.pa % 128, p.2)) = some (0, ent 6 0 0x8000 4 4) ∧
    (tensors.readEntry 0 4 65).toOption.map (fun p => (p.1.pa % 128, Entry.naxes p.2, Entry.state p.2)) = some (0, 1, 1) ∧
    Entry.invalid (ent 6 0 0x3000 4 4 + 3 * 2 ^ 7 * 0) tensors.grid = false ∧ Entry.naxes (ent 6 0 0x8000 4 4) = 0 ∧ Entry.dimM1 (ent 6 0 0x8000 4 4) 0 + 1 = 4 :=
  ⟨meReady (by decide +kernel), by decide +kernel⟩
/-- The image that TDEF.define reads is read at the home, from a service slot. -/
def defining : State := tensors.updFibre me fun f => { f with away := some (.service 0 0 4) }
theorem witness_TdefDefine : (match recordAt me (team defining) (fibre defining) 0x3000 16 0 defining with
    | .ok (image, s1) => let s2 := s1.takeAnswers me (fibre defining).seq
      image == ent 6 0 0x9000 4 4 && s2.mem.wf && (match s2.entryPlace 0 4 64 .load with | .ok m => !s2.ownedAt (.mem m) && decide (Entry.state (Claims.valueAt s2 m.pa 128) ≠ 2) | .error _ => false) &&
        !(Entry.invalid image s2.grid) && decide (image < 2 ^ 1024) && decide ((fibre defining).sq = []) && !(fibre defining).loadsPending
    | _ => false) = true ∧ Ready defining me (team defining) (fibre defining) [4] [4] [] [] := ⟨by decide +kernel, meReady (by decide +kernel)⟩
/-- 19 R397: query, bind and bounds of entry 64. -/
theorem test_tdef_query : regOf 6 (ran (.tdefQuery 6 64 1) tensors) = some 0x8000 := by decide +kernel
theorem test_tdef_bounds : (entOf 64 (ran (.tdefBounds 5 64 1) tensors)).map (fun e => (Entry.bound e 1, Entry.bound e 0)) = some (3, 4) := by decide +kernel
theorem test_tdef_define : entOf 64 (ran (.tdef 4 64) defining) = some (ent 6 0 0x9000 4 4) := by decide +kernel

/-- 19 R391: a list of entries, each of which the acting fibre can read now. -/
theorem entriesReadable {s : State} {ns : List Nat}
    (h : (ns.all fun n => match s.entryPlace (team s).ctx (fibre s).pc.toNat n .load with | .ok m => entryReady s (team s) (fibre s) m | .error _ => true) = true) :
    EntriesReadable s (team s) (fibre s) ns := by
  intro n hn m hm
  have hr := List.all_eq_true.mp h n hn
  simpa [hm] using hr

/-- Two tensors of 2 by 2 bytes in the scratchpad, at offsets 0 and 256. -/
def tiles : State := onTeam (fun t => { t with scratch := [(0, 1), (1, 2), (2, 3), (3, 4)] })
  (withEnt 64 (ent 6 1 0 2 2) (withEnt 65 (ent 6 1 256 2 2) (withEnt 66 (placed 1 (ent 6 0 0x8000 2 2)) (having (two 4 5 0 (2 ^ 56 + 2 ^ 48))))))
def tileX : TileShape := tileShape 0 (2 ^ 56 + 2 ^ 48) 0
theorem witness_TileMoveResult : Ready tiles me (team tiles) (fibre tiles) [4, 5, 6] [4, 5, 6] [] [] ∧ (fibre tiles).nearSlot = none ∧ (fibre tiles).canIssue 0 ∧
    tileEntries tiles (team tiles) (fibre tiles) 64 65 false tileX = .ok (ent 6 1 0 2 2, ent 6 1 256 2 2) ∧ tileEntries tiles (team tiles) (fibre tiles) 65 64 true tileX = .ok (ent 6 1 256 2 2, ent 6 1 0 2 2) ∧
    pagesFault tiles (team tiles) (fibre tiles) .load 1 (touched tiles (team tiles) (fibre tiles) (ent 6 1 0 2 2) ((tileX.units 6).map tileX.sIx)) = none ∧
    sealFault tiles 0 1 (touched tiles (team tiles) (fibre tiles) (ent 6 1 0 2 2) ((tileX.units 6).map tileX.sIx)) = none ∧
    (tileMoves tiles (team tiles) (fibre tiles) (ent 6 1 0 2 2) (ent 6 1 256 2 2) (unitHalf 6) (tileX.units 6) tileX.sIx tileX.dIx).toOption.map (fun ms => (remoteParts (ms.flatMap (·.src)), ms.length)) = some ([], 4) ∧
    tileMoves tiles (team tiles) (fibre tiles) (ent 6 1 0 2 2) (ent 6 1 256 2 2) (unitHalf 6) (tileX.units 6) tileX.dIx tileX.sIx =
      .ok (([(0, (.scr 0 256 : Loc), 1), (1, .scr 0 257, 1), (2, .scr 0 258, 1), (3, .scr 0 259, 1)]).map fun p => ⟨[.read (.scr 0 p.1) p.2.2], [(p.2.1, p.2.2)], none⟩) ∧
    (tileEntries tiles (team tiles) (fibre tiles) 66 65 false tileX).toOption.map (fun p => (Entry.naxes p.1, Entry.demandBad p.1 0, Entry.state p.1, Entry.meets p.1 0)) = some (1, false, 1, true) ∧ tiles.demands = [] :=
  ⟨meReady (by decide +kernel), by decide +kernel, ⟨by decide +kernel, by decide +kernel⟩, by decide +kernel⟩
theorem witness_TileSources : EntriesReadable tiles (team tiles) (fibre tiles) [64, 65, 66] ∧ (fibre tiles).sq = [] ∧ (team tiles).scratchPoison = [] ∧ (tiles.team? 0).isSome = true ∧
    piecesReady tiles (team tiles) (fibre tiles) (fibre tiles).seq ((List.range 4).map fun o => .read (.scr 0 o) 1) = true :=
  ⟨entriesReadable (by decide +kernel), by (repeat' apply And.intro) <;> decide +kernel⟩
def dropping : State := outstanding (.tile [⟨[.read (.scr 0 64) 8], [(.scr 0 128, 8)], none⟩])
theorem witness_TileDrop : ((fibre dropping).ll[0]?).map (·.counter) = some (some 3) ∧ (fibre dropping).entering = none ∧ sparseWf 0 (team dropping).scratch = true ∧ 8 ≤ 8 - 64 % 8 ∧
    piecesReady dropping (team dropping) (fibre dropping) 0 [.read (.scr 0 64) 8] = true ∧ (fibre dropping).sq = [] ∧ (team dropping).scratchPoison.contains (64 / 8) = false := by decide +kernel
theorem test_tile_drop : (ran (.longLatencyDrop 0 0 0) dropping).map (fun s => (team s).scratch) = some [(64, 0xAB), (71, 0x80), (128, 0xAB), (135, 0x80)] := by decide +kernel

/-- A tile with elements 0 and 1 set; entry 64 is an i32 tensor in the scratchpad whose rows all stand at offset 0. -/
def tiled : State := onTeam (fun t => { t with acc := [(0, 7), (1, 9)], metaMem := [(8, 5)] }) (withEnt 64 (ent 9 1 0 96 64 - 96 * 2 ^ 416) (having (two 4 5 0 64)))
theorem witness_AccumulatorResult : Ready tiled me (team tiled) (fibre tiled) [4, 5, 6] [4, 5, 6] [] [0] ∧ (fibre tiled).nearSlot = none ∧ (fibre tiled).canIssue 0 ∧ 0 < (team tiled).kernel.accTiles ∧
    tiled.mmas = [] ∧ sparseWf 0 (team tiled).acc = true ∧ (team tiled).accBad 0 0 = false ∧ ((fibre tiled).reg 4).toNat / 2 ^ 8 % 64 < 48 ∧
    accEntry tiled (team tiled) (fibre tiled) 64 (fun e => e.fmt == 0 || e.fmt == 1 || e.fmt == 2 || e.fmt == 9) = .ok (ent 9 1 0 96 64 - 96 * 2 ^ 416) ∧
    accEntry tiled (team tiled) (fibre tiled) 64 (fun e => accStOk e 0 1 && (!e.scaled || bitsOf (0 : Dword).toNat 0 24 % 32 == 0)) = .ok (ent 9 1 0 96 64 - 96 * 2 ^ 416) ∧
    64 % 64 = 0 ∧ ((fibre tiled).reg 5).toNat = 64 ∧ 64 ≤ (team tiled).allocBytes ∧ 64 * (0 : BitVec 12).toNat + 64 ≤ 4096 * (team tiled).kernel.metaUnits ∧
    access tiled (team tiled) (fibre tiled) .load 1 0 1 1 = .ok (.ok (.scr 0 0)) ∧ (team tiled).metaPoison.contains 0 = false := 
  ⟨meReady (by decide +kernel), by decide +kernel, ⟨by decide +kernel, by decide +kernel⟩, by decide +kernel⟩
/-- Every element of the first and the last row has its place; the row stride is 0, so the rows between have the same. -/
theorem witness_AccPlaces : ([0, 63].all fun a => (List.range 96).all fun b =>
    decide (elemPlaces tiled (team tiled) (fibre tiled) .load (ent 9 1 0 96 64 - 96 * 2 ^ 416) (accIx ((fibre tiled).reg 4) (96 * a + b)) = .ok (some [(.scr 0 (4 * b), 4)]))) = true := by
  decide +kernel
theorem witness_AccSources : EntriesReadable tiled (team tiled) (fibre tiled) [64] ∧ (fibre tiled).sq = [] ∧ (team tiled).scratchPoison = [] ∧ (team tiled).metaPoison.contains (8 / 8) = false ∧
    piecesReady tiled (team tiled) (fibre tiled) (fibre tiled).seq ((List.range 96).map fun b => .read (.scr 0 (4 * b)) 4) = true ∧ 4096 * (team tiled).kernel.metaUnits ≤ 2 ^ 20 ∧ (team tiled).accPoison = [] :=
  ⟨entriesReadable (by decide +kernel), by (repeat' apply And.intro) <;> decide +kernel⟩
/-- 19 R409: two elements in one register; R411: metadata of the team. -/
theorem test_acc_rd : ((ran (.accRd 6 4 0) tiled).bind fun s => (fibre s).ll.head?.map (·.kind)) = some (.value [(6, 7 + 9 * 2 ^ 32)] none) := by decide +kernel
theorem test_acc_zero : (ran (.accZero 0) tiled).map (fun s => (team s).acc) = some [] := by decide +kernel
theorem test_meta_rd : regOf 6 (ran (.metaRd 6 4) (tiled.updFibre me fun f => f.setReg 4 8)) = some 5 := by decide +kernel

/-- Convergence register 0 declared with a count; entries 64 and 65 are i8 operands of one row of 32. -/
def signing (need : Option Nat) : State := onTeam (fun t => { t with cv := (List.replicate 8 Conv.idle).set 0 { Conv.idle with declared := need } })
  (withEnt 64 (ent 6 1 0 32 1) (withEnt 65 (ent 6 1 64 32 1) (having (two 4 5 0 0))))
def oneMma : MmaOp := ⟨0, ⟨0, 0⟩, 0, 0, 4, 0, true, false, 0, 16, 32, ent 6 1 0 32 1, ent 6 1 64 32 1, 0, 0, [], [0], 0⟩
theorem witness_MmaSignResult : (∀ n ∈ [some 1, some 2, none], (team (signing n)).cv.length = 8 ∧ (fibre (signing n)).handler = none ∧ (fibre (signing n)).held = none ∧
      (fibre (signing n)).status = .ready ∧ ((team (signing n)).conv 0).signers = [] ∧ ((team (signing n)).conv 0).declared = n) ∧
    Ready (signing (some 1)) me (team (signing (some 1))) (fibre (signing (some 1))) [4, 5, 6] [4, 5, 6] [] [0] ∧ (fibre (signing (some 1))).canIssue 0 ∧ (signing (some 1)).mmas = [] ∧
    ((signing (some 1)).validEntry 0 4 64).toOption.map (·.2) = some (ent 6 1 0 32 1) ∧ ((signing (some 1)).validEntry 0 4 65).toOption.map (·.2) = some (ent 6 1 64 32 1) ∧
    mmaFault { signing (some 1) with nextId := (signing (some 1)).nextId + 1 } (team (signing (some 1))) (fibre (signing (some 1))) 64 oneMma = none :=
  ⟨by decide +kernel, meReady (by decide +kernel), ⟨by decide +kernel, by decide +kernel⟩, by decide +kernel⟩
theorem witness_MmaEntries : EntriesReadable (signing (some 1)) (team (signing (some 1))) (fibre (signing (some 1))) [64, 65] ∧ (signing (some 1)).mmas.countP (fun m => (team (signing (some 1))).core == some m.core) < 8 :=
  ⟨entriesReadable (by decide +kernel), by decide +kernel⟩
/-- A register that is signed; and masks of 16 ones for the 96 columns of one group of 64, for two i8 tensors of 96 columns. -/
def signed1 : State := onTeam (fun t => { t with cv := (List.replicate 8 Conv.idle).set 0 { Conv.idle with declared := some 2, signers := [0] } }) (having id)
def masked : State := onTeam (fun t => { t with metaMem := (List.range 96).flatMap fun j => [(8 * j, 0xFF), (8 * j + 1, 0xFF)] })
  (withEnt 64 (ent 6 1 0 64 96) (withEnt 65 (ent 6 1 8192 64 96) (having (two 4 5 0 0))))
theorem witness_SparsityResult : Ready masked me (team masked) (fibre masked) [4, 5] [] [] [] ∧ EntriesReadable masked (team masked) (fibre masked) [64, 65] ∧
    metaEntries masked (team masked) (fibre masked) 64 65 (32 * 2) 0 = .ok (ent 6 1 0 64 96, ent 6 1 8192 64 96) ∧ sparseWf 0 (team masked).metaMem = true ∧
    ((List.range 96).all fun j => Claims.ones ((team masked).metaDword (maskOffset 0 0 j)).toNat == keptOf 0) = true ∧ ((team signed1).conv 0).signers ≠ [] :=
  ⟨meReady (by decide +kernel), entriesReadable (by decide +kernel), by (repeat' apply And.intro) <;> decide +kernel⟩
theorem test_cv_stat : regOf 6 (ran (.cvstat 6 0) (signing (some 3))) = some (1 + 3 * 16) := by decide +kernel
theorem test_mma_issues : (ran (.mma 0 4 5 1 0 0 64 65 0 0 0) (signing (some 1))).map (fun s => (s.mmas.map (fun m => (m.depth, m.acc, m.signers)), (fibre s).pc)) = some ([(32, true, [0])], 12) := by decide +kernel

/-- The operation issued, A = (3) and B = (−5) in one place. -/
def mmaState : State := onTeam (fun t => { t with scratch := [(0, 3), (64, 0xFB)], acc := [(0, 100)] }) { signing none with mmas := [oneMma] }
theorem witness_MmaIntegerResult : mmaState.mmas = [oneMma] ∧ (mmaState.team? oneMma.team).isSome = true ∧ mmaStalled mmaState (team mmaState) oneMma = false ∧ Entry.fmt oneMma.entryA = 6 ∧ Entry.fmt oneMma.entryB = 6 ∧
    oneMma.kind = 0 ∧ oneMma.sat = false ∧ oneMma.depth % 32 = 0 ∧ Entry.scaled oneMma.entryA = false ∧
    mmaCause (team mmaState) oneMma (mmaRows mmaState (team mmaState) oneMma) (mmaColumns mmaState (team mmaState) oneMma) = none ∧ sparseWf 0 (team mmaState).acc = true := by decide +kernel
/-- 13 R269: 100 + 3 · (−5). -/
theorem test_mma_element : ((mmaTile (team mmaState) oneMma (mmaRows mmaState (team mmaState) oneMma) (mmaColumns mmaState (team mmaState) oneMma)).head?) = some 85 := by decide +kernel

/-! ### Engines, placement, search -/

/-- A fibre in a service slot of stack 0, its registers zero; a record read by its plain loads is read at the home. -/
def atHome (x y : Nat) : State := having fun f => { two 4 5 (ofNat64 x) (ofNat64 y) f with away := some (.service 0 0 4) }
/-- A TCOPY of a 2 by 2 byte tile from entry 64 to the tensor of a shape record at g6 (offset 0x3000 of the page), mask form with member 0. -/
def copying : State := withEnt 64 (ent 6 0 0x8000 2 2) (withEnt 96 (ent 6 0 0x9000 2 2)
  (put64 0x13080 (2 ^ 48) (put64 0x13088 1 ((atHome 0 (2 ^ 56 + 2 ^ 48)).updFibre me fun f => f.setReg 6 0x3000))))
/-- A chain of one link of 64 zero bytes. -/
def chaining : State := put64 0x13108 0x9000 (put64 0x13110 63 (put64 0x13118 (2 ^ 32) (atHome 0x3100 0)))
theorem witness_EngineIssueResult : Ready copying me (team copying) (fibre copying) [4, 5, 6, 7, 8, 9] [4, 5, 6, 7, 8, 9] [] [] ∧ (fibre copying).nearSlot = none ∧ (fibre copying).canIssue 0 ∧
    (targetOf copying me (team copying) (fibre copying) ((fibre copying).reg 8)).toOption = some (.bar (.scr 0 0)) ∧
    (match recordAt me (team copying) (fibre copying) 0x3000 20 0 copying with
      | .ok (rec, s1) => let s2 := s1.takeAnswers me (fibre copying).seq
        let ed : Entry := bitsOf rec 0 1024
        let sx := shapeExt (bitsOf rec 1024 256)
        !(s2.enginesFull (team copying)) && releasedForIssue s2 me (fibre copying) && (s2.validEntry 0 4 64).toOption.any (fun p => p.2 == ent 6 0 0x8000 2 2) && !(ed.invalid s2.grid) &&
        !((tileShape 0 (2 ^ 56 + 2 ^ 48) 0).bad 6) && !(sx.bad (bitsOf rec 1024 256) ed) && ed.fmt == 6 && ed.space == 0 && sx.op == 0 &&
        (extentFault s2 (team copying) (fibre copying) 64 (ent 6 0 0x8000 2 2)).isNone && (extentFault s2 (team copying) (fibre copying) 64 ed).isNone
      | _ => false) = true := ⟨meReady (by decide +kernel), by decide +kernel, ⟨by decide +kernel, by decide +kernel⟩, by decide +kernel⟩
theorem witness_EngineIssueChain : Ready chaining me (team chaining) (fibre chaining) [4, 5, 6, 7, 8, 9] [4, 5, 6, 7, 8, 9] [] [] ∧ (fibre chaining).canIssue 0 ∧
    (match readLinks me (team chaining) (fibre chaining) 64 0 0x3100 chaining with
      | .ok (ls, s1) => let s2 := s1.takeAnswers me (fibre chaining).seq
        !(s2.enginesFull (team chaining)) && releasedForIssue s2 me (fibre chaining) && ls.length == 1
      | _ => false) = true := ⟨meReady (by decide +kernel), ⟨by decide +kernel, by decide +kernel⟩, by decide +kernel⟩
/-- 20 R419 and R420: the bytes the commands count. -/
theorem test_tcopy : (ran (.tcopy 9 4 5 64 6 7 8) copying).map (fun s => s.cmds.map (·.total)) = some [4] := by decide +kernel
theorem test_chain : (ran (.chain 9 4 8) chaining).map (fun s => s.cmds.map (·.total)) = some [64] := by decide +kernel

/-- A descriptor at 0x4000: version 5, i8, squared Euclid, dimension 4, one record at 0x4100 in stack 0; its record: insert 0, delete all ones, id 41, vector 2, 0, 0, 0. -/
def indexed : State := put64 0x14110 2 (put64 0x14108 0xFFFFFFFF00000000 (put64 0x14100 41 (put64 0x14018 1 (put64 0x14010 0x4100
  (put64 0x14000 (5 + 2 ^ 36 + 4 * 2 ^ 40) (having fun f => (two 4 5 0x4000 5 f).setReg 6 0x4100))))))
/-- A heap list at 0x5000: k 4, pairs (1, 10) and (4, 20). -/
def heap (k dist id : Nat) : State := put64 0x15038 20 (put64 0x15030 4 (put64 0x15028 10 (put64 0x15020 1 (put64 0x15000 (k + 2 * 2 ^ 16) (having fun f => (two 4 5 0x5000 (ofNat64 dist) f).setReg 6 (ofNat64 id))))))
def heaped : State := heap 4 2 30
theorem witness_EngineIssueSearch : Ready indexed me (team indexed) (fibre indexed) [4, 5, 6, 7, 8, 9] [4, 5, 6, 7, 8, 9] [] [] ∧ (fibre indexed).canIssue 0 ∧ (indexed.enginesFull (team indexed) = false ∧ releasedForIssue indexed me (fibre indexed) = true) ∧
    (match descPlace indexed me (team indexed) (fibre indexed) .load 0x4000 with | .ok m => !(readDesc indexed m).2 && !(ixBad (readDesc indexed m).1) | _ => false) = true ∧
    (match descPlace indexed me (team indexed) (fibre indexed) .load 0x4000 with | .ok m => !(indexed.spanOwned (descSpan m)) | _ => false) = true ∧ indexed.cmds = [] ∧ scratchPlace (team indexed) (fibre indexed) 0 16 = .ok (.scr 0 0) ∧ scratchPlace (team indexed) (fibre indexed) 0 8 = .ok (.scr 0 0) ∧ (indexed.ctx? 0).isSome = true :=
  ⟨meReady (by decide +kernel), ⟨by decide +kernel, by decide +kernel⟩, by decide +kernel⟩
theorem witness_EngineIssueDrain : Ready heaped me (team heaped) (fibre heaped) [4, 5, 6, 7, 8, 9] [4, 5, 6, 7, 8, 9] [] [] ∧ (fibre heaped).canIssue 0 ∧ heaped.owned = [] ∧ heaped.mem.wf = true ∧ (fibre heaped).sq = [] ∧
    (readHeap heaped (team heaped) (fibre heaped) 0x5000).toOption.map (fun h => (h.k, h.pairs, h.locs.length, h.locs.map (·.2), searchReady heaped me (fibre heaped) h.locs)) = some (4, [⟨1, 10⟩, ⟨4, 20⟩], 1, [96], true) ∧
    (drainChunks heaped (team heaped) (fibre heaped) true 64 (pairBytes 4 [⟨1, 10⟩, ⟨4, 20⟩])).toOption.isSome = true := ⟨meReady (by decide +kernel), ⟨by decide +kernel, by decide +kernel⟩, by decide +kernel⟩
/-- A sealed placed tensor, entry 64; an open one, entry 65. -/
def sealed : State := withEnt 64 (placed 1 (ent 6 0 0x8000 2 2)) (withEnt 65 (placed 0 (ent 6 0 0xA000 2 2)) (having (two 4 5 0x3300 5)))
theorem witness_EngineIssueConvert : Ready sealed me (team sealed) (fibre sealed) [4, 5, 6, 7, 8, 9] [4, 5, 6, 7, 8, 9] [] [] ∧ (fibre sealed).canIssue 0 ∧ sealed.demands = [] ∧
    (sealed.validEntry 0 4 64).toOption.map (fun p => (Entry.naxes p.2, Entry.demandBad p.2 0, Entry.state p.2, Entry.meets p.2 0)) = some (1, false, 1, true) ∧
    (sealed.enginesFull (team sealed) = false ∧ releasedForIssue sealed me (fibre sealed) = true) := ⟨meReady (by decide +kernel), ⟨by decide +kernel, by decide +kernel⟩, by decide +kernel⟩
theorem witness_EngineEntries : EntriesReadable copying (team copying) (fibre copying) [64] ∧ EntriesReadable sealed (team sealed) (fibre sealed) [64, 65] :=
  ⟨entriesReadable (by decide +kernel), entriesReadable (by decide +kernel)⟩
/-- A distributor record of 3 by 2 tiles in Morton order at 0x3200. -/
def distributing : State := put64 0x13200 (3 + 2 * 2 ^ 16 + 2 * 2 ^ 32) (atHome 0x3200 0)
theorem witness_EngineIssueWdq : Ready distributing me (team distributing) (fibre distributing) [4, 5, 6, 7, 8, 9] [4, 5, 6, 7, 8, 9] [] [] ∧ (distributing.ctx? 0).isSome = true ∧ distributing.cmds = [] ∧
    (match recordAt me (team distributing) (fibre distributing) 0x3200 4 0 distributing with | .ok (v, _) => !(wdqBad v) | _ => false) = true := ⟨meReady (by decide +kernel), by decide +kernel⟩
/-- 05 R124: the Morton order of a 3 by 2 grid. -/
theorem test_wdq_init : ((ran (.wdqInit 4 1) distributing).bind fun s => s.ctxs.head?.map (·.wdq)) = some [⟨1, 3, 2, 2, 0⟩] := by decide +kernel
theorem test_morton : (List.range 6).map (tileOfSeq 3 2 2) = [(0, 0), (1, 0), (0, 1), (1, 1), (2, 0), (2, 1)] := by decide +kernel

theorem witness_PlaceIndexResult : Ready sealed me (team sealed) (fibre sealed) [4, 5, 6, 7, 8, 9] [4, 5, 6, 7, 8, 9] [] [] ∧ (fibre sealed).nearSlot = none ∧ (fibre sealed).canIssue 0 ∧ sealed.mem.wf = true ∧ sealed.demands = [] ∧ sealed.sealing = [] ∧
    ((sealed.validEntry 0 4 64).toOption.map fun p => (Entry.naxes p.2, Entry.state p.2, (Entry.localMembers p.2 sealed.grid).length)) = some (1, 1, 1) ∧
    ((sealed.validEntry 0 4 65).toOption.map fun p => (Entry.naxes p.2, Entry.state p.2, (Entry.sealedMask p.2).testBit 0)) = some (1, 0, false) :=
  ⟨meReady (by decide +kernel), by decide +kernel, ⟨by decide +kernel, by decide +kernel⟩, by decide +kernel⟩
theorem witness_IndexForms : Ready indexed me (team indexed) (fibre indexed) [4, 7, 8, 6, 5, 10, 11] [4, 7, 8, 6, 5, 10, 11] [] [] ∧ scratchOffset ((fibre indexed).reg 7) = .ok 0 ∧
    (match descPlace indexed me (team indexed) (fibre indexed) .load 0x4000 with | .ok m => !(readDesc indexed m).2 && !(ixBad (readDesc indexed m).1) && loadReady indexed (team indexed) (fibre indexed) (fibre indexed).seq (.mem m) ⟨true, 0, 0⟩ && !(indexed.poisonedAt (.mem m)) && Claims.valueAt indexed m.pa 4 == 5 | _ => false) = true ∧
    (match descPlace indexed me (team indexed) (fibre indexed) .atomic 0x4000 with | .ok m => Claims.valueAt indexed m.pa 4 == ((fibre indexed).reg 5).toNat % 2 ^ 32 | _ => false) = true ∧
    (readQuery indexed (team indexed) (fibre indexed) 0 4).toOption.map (·.2) = some false ∧ (distRecord indexed (team indexed) (fibre indexed) 0x4100 32).toOption.isSome = true ∧
    storesDone indexed me (fibre indexed) 4 = true ∧ indexed.owned = [] ∧ indexed.coh.probes = [] ∧ (fibre indexed).sq = [] ∧ (fibre indexed).loadsPending = false ∧
    (match descPlace indexed me (team indexed) (fibre indexed) .load 0x4000, distRecord indexed (team indexed) (fibre indexed) 0x4100 32 with
      | .ok m, .ok ls => searchReady indexed me (fibre indexed) (descSpan m) && !(indexed.spanOwned ls) && !(homeSpan indexed ls).2
      | _, _ => false) = true := ⟨meReady (by decide +kernel), by decide +kernel⟩
theorem witness_HeapForms : Ready heaped me (team heaped) (fibre heaped) [4, 5, 6, 7, 8, 9] [4, 5, 6, 7, 8, 9] [] [] ∧ (fibre heaped).sq = [] ∧ (fibre heaped).loadsPending = false ∧
    (readHeap heaped (team heaped) (fibre heaped) 0x5000).toOption.map (·.pairs) = some ([⟨1, 10⟩] ++ [⟨4, 20⟩]) ∧ (⟨2, 30⟩ : Pair).before ⟨1, 10⟩ = false ∧ (⟨2, 30⟩ : Pair).before ⟨4, 20⟩ = true :=
  ⟨meReady (by decide +kernel), by decide +kernel⟩
/-- A full list, toward whose end and past whose end a pair comes; pairs whose id the list has, nearer and farther; an empty list. -/
theorem witness_HeapClauses : (∀ p ∈ [(2, 2, 30), (2, 5, 30), (4, 2, 20), (4, 5, 20)], Ready (heap p.1 p.2.1 p.2.2) me (team (heap p.1 p.2.1 p.2.2)) (fibre (heap p.1 p.2.1 p.2.2)) [4, 5, 6] [10, 11] [] []) ∧
    (∀ k ∈ [2, 4], (readHeap (heap k 2 30) (team (heap k 2 30)) (fibre (heap k 2 30)) 0x5000).toOption.map (fun h => (h.k, h.pairs)) = some (k, [⟨1, 10⟩, ⟨4, 20⟩])) ∧
    (⟨5, 30⟩ : Pair).before ⟨4, 20⟩ = false ∧ (⟨2, 20⟩ : Pair).before ⟨4, 20⟩ = true ∧ (⟨5, 20⟩ : Pair).before ⟨4, 20⟩ = false ∧
    (readHeap (put64 0x15000 4 heaped) (team heaped) (fibre heaped) 0x5000).toOption.map (·.pairs) = some [] := by
  refine ⟨?_, by decide +kernel, by decide +kernel, by decide +kernel, by decide +kernel, by decide +kernel⟩
  intro p hp
  simp only [List.mem_cons, List.not_mem_nil, or_false] at hp
  rcases hp with rfl | rfl | rfl | rfl <;> exact meReady (by decide +kernel)
/-- The last version a descriptor can have. -/
def lastVersion : State := (put64 0x14000 (0xFFFFFFFE + 2 ^ 36 + 4 * 2 ^ 40) indexed).updFibre me fun f => f.setReg 5 0xFFFFFFFE
theorem witness_VersionLimit : Ready lastVersion me (team lastVersion) (fibre lastVersion) [4, 5] [10] [] [] ∧ storesDone lastVersion me (fibre lastVersion) 4 = true ∧
    (match descPlace lastVersion me (team lastVersion) (fibre lastVersion) .atomic 0x4000 with | .ok m => Claims.valueAt lastVersion m.pa 4 == 0xFFFFFFFE && !(lastVersion.poisonedAt (.mem m)) && !(lastVersion.ownedAt (.mem m)) | _ => false) = true :=
  ⟨meReady (by decide +kernel), by decide +kernel, by decide +kernel⟩
def answered (i : Instr) (s : State) : Option LongKind := (ran i s).bind fun s => (fibre s).ll.head?.map (·.kind)
/-- 20 R425: a push keeps the order and answers its index; a pop takes the best pair. -/
theorem test_push : answered (.srchPush 10 4 5) heaped = some (.value [(10, 1)] none) := by decide +kernel
theorem test_pop : answered (.srchPop 10 4) heaped = some (.value [(10, 1), (11, 10)] none) := by decide +kernel
/-- 10 R208: the squared distance of (0, 0, 0, 0) and (2, 0, 0, 0) is 4.0; the record is visible at snapshot 5. R212: IXCOMMIT. -/
theorem test_dist : answered (.srchDist 10 4 7 6 5) indexed = some (.value [(10, 2 ^ 32 + 0x40800000)] none) := by decide +kernel
theorem test_ixcommit : memAt 0x14000 4 (ran (.ixcommit 10 4 5) indexed) = some 6 := by decide +kernel
/-- 20 Table 20.4: sealed, one axis. -/
theorem test_place_query : answered (.placeQuery 10 64) sealed = some (.value [(10, 1 + 64)] none) := by decide +kernel

/-! ### Engine and placement events -/

/-- An issued command. -/
def command (k : CmdKind) (target : Target) (total : Nat) (stages : List Stage) (ended : Bool) : Cmd := ⟨7, 7, me, 0, 0, some ⟨0, 0⟩, 4, 5, k, target, total, 0, stages, none, ended, []⟩
def withCmd (c : Cmd) : State := onCtx (fun y => { y with wdq := [⟨1, 3, 2, 0, 4⟩] }) { having id with cmds := [c], owned := [(lineOf 0x11000, 7)] }
def fill0 : Target := .fill tag0
def chunk0 : Chunk := ⟨[.known [1, 2, 3]], [], .write (.mem word0), 3, false⟩
def landing : Cmd := command .copy fill0 3 [⟨[chunk0], true⟩] false
theorem witness_EngineEventResult : (withCmd landing).cmd? 7 = some landing ∧ (withCmd landing).mem.wf = true ∧ [chunk0].find? (chunkReady (withCmd landing) landing) = some chunk0 ∧
    (∀ c ∈ [command .copy fill0 3 [] false, command .copy fill0 3 [] true, command .copy (.countdown tag0) 3 [] true], (withCmd c).cmd? 7 = some c ∧ (withCmd c).collapsesOf (.engine 7) = false) ∧
    tag0.pa % 8 = 0 ∧ (withCmd landing).mem.poison.contains (tag0.pa / 8) = false ∧ (withCmd landing).coh.waiters = [] ∧ ((withCmd landing).ctxs.all fun y => y.graphs.isEmpty) = true := by decide +kernel
def passed64 : Demand := ⟨.convert 7, 0, 64, 1, 0, true⟩
def ending : State := { withCmd (command (.convert 64) fill0 64 [] false) with demands := [passed64] }
theorem witness_ConvertEvent : ending.cmd? 7 = some (command (.convert 64) fill0 64 [] false) ∧ ending.mem.wf = true ∧ passed64 ∈ ending.demands ∧ passed64.who = .convert 7 ∧ passed64.granted = true := by decide +kernel
/-- 11 R241: a PLACE.convert whose demand has passed ends, and its completion word is next. -/
theorem test_convert_ends : ((ran (.engineLanding 7) ending).map fun s => (s.cmds.map (·.ended), s.demands)) = some ([true], []) := by decide +kernel
def walking (at_ n : Nat) : Cmd := command (.walk (.list 9 0 8 16) at_ n (.scr 0 64)) fill0 16 [] false
theorem witness_WalkEvents : (withCmd (walking 0x6000 0)).cmd? 7 = some (walking 0x6000 0) ∧
    (match walkPlace (withCmd (walking 0x6000 0)) (walking 0x6000 0) 0x6000 with
      | .ok m => sourceReady (withCmd (walking 0x6000 0)) 7 (.read (.mem m) 8) && (match walkDword (withCmd (walking 0x6000 0)) (walking 0x6000 0) m with
        | ((v, q), s1) => !q && v.toNat != 9 && decide (s1.cmds = (withCmd (walking 0x6000 0)).cmds))
      | .error _ => false) = true ∧
    (withCmd (walking 0 3)).cmd? 7 = some (walking 0 3) ∧ (team (withCmd (walking 0 3))).state = .running ∧ sparseWf 0 (team (withCmd (walking 0 3))).scratch = true := by decide +kernel
def asking : Cmd := command (.wdq 1 (.scr 0 64)) fill0 8 [] false
theorem witness_WdqEvents : (withCmd asking).cmd? 7 = some asking ∧ (withCmd asking).cmds.find? (fun z => z.ctx == 0 && !z.ended && (match z.kind with | .wdq k _ => k == 1 | _ => false)) = some asking ∧
    ((withCmd asking).ctx? 0).map (fun x => x.wdq.find? (fun z => z.idx == 1)) = some (some ⟨1, 3, 2, 0, 4⟩) := by decide +kernel
def scanning (p : ScanPhase) : Cmd := command (.scan 0 word0 (some []) 2 (.scr 0 64) (some 5) [⟨0, 0, p, []⟩, ⟨1, 1, .queued, []⟩]) fill0 64 [] false
theorem witness_ScanEvents : (withCmd (scanning .queued)).scanNext 0 = some (scanning .queued) ∧ (withCmd (scanning .queued)).scansOn 0 < 4 ∧ (withCmd (scanning .running)).cmd? 7 = some (scanning .running) ∧
    ([⟨0, 0, .running, []⟩, ⟨1, 1, .queued, []⟩] : List ScanPart).find? (fun p => p.stack == 0 && p.phase == .running) = some ⟨0, 0, .running, []⟩ := by decide +kernel
/-- A scan that has no snapshot yet; one that is paused. -/
def fresh : State := { withCmd (command (.scan 0 word0 (some []) 2 (.scr 0 64) none [⟨0, 0, .queued, []⟩]) fill0 32 [] false) with owned := [] }
theorem witness_ScanSnapshot : fresh.cmds.map (fun c => fresh.scanNext 0 == some c) = [true] ∧ fresh.scansOn 0 < 4 ∧ fresh.pausedOn 0 = false ∧ fresh.ownedAt (.mem word0) = false ∧
    fresh.collapsesAt (lineOf word0.pa) = false ∧ fresh.poisonedAt (.mem word0) = false ∧ (withCmd (scanning .queued)).pausedOn 0 = false ∧ (withCmd (scanning .paused)).pausedOn 0 = true := by decide +kernel
/-- One sector of the list of stack 0 is still to be written, and stack 1 is not done. -/
def sector : Cmd := command (.scan 0 word0 (some []) 2 (.scr 0 64) (some 5) [⟨0, 0, .writing, [(0, pairBytes 2 [⟨1, 10⟩])]⟩, ⟨1, 1, .queued, []⟩]) fill0 64 [] false
theorem witness_ScanSectors : (withCmd sector).cmd? 7 = some sector ∧ (withCmd sector).scansOn 1 = 0 ∧ 0 < (withCmd (scanning .running)).scansOn 0 ∧ sparseGet 0 (withCmd sector).scanOwed 0 = 0 ∧
    sparseGet 0 ({ withCmd sector with scanOwed := [(0, 8)] } : State).scanOwed 0 = 8 ∧ sparseWf 0 (team (withCmd sector)).scratch = true := by decide +kernel
/-- 10 R217, R218: the last sector lands and counts the list; the eighth refresh owed is the last. -/
theorem test_scan_sector : ((ran (.scanComplete 7 0) (withCmd sector)).map fun s => (s.cmds.map (·.landed), sparseBytes (team s).scratch 72 1)) = some ([32], [10]) := by decide +kernel
theorem test_scan_owed : (ran (.scanRefreshPause 0) (withCmd (scanning .running))).map (·.scanOwed) = some [(0, 1)] := by decide +kernel
/-- 10 R221: a walk at the null address answers status 1; 05 R124: tile 4 of a 3 by 2 grid in row-major order is (1, 1). -/
theorem test_walk_null : ((ran (.walkStep 7) (withCmd (walking 0 3))).map fun s => natOfBytes (sparseBytes (team s).scratch 64 16)) = some (3 * 2 ^ 64 + 2 ^ 80) := by decide +kernel
theorem test_wdq_answer : ((ran (.wdqAnswer 0 1) (withCmd asking)).map fun s => natOfBytes (sparseBytes (team s).scratch 64 8)) = some (1 + 2 ^ 16 + 4 * 2 ^ 32) := by decide +kernel
theorem test_engine_landing : memAt 0x11000 3 (ran (.engineLanding 7) (withCmd landing)) = some 0x030201 := by decide +kernel

def run1 (axis : Nat) : ConvRun := ⟨0, 64, 0, axis, true, [], [], 0⟩
def converting (axis : Nat) : State := withEnt 64 (placed 2 (ent 6 0 0x8000 2 2)) { having id with convs := [run1 axis] }
def seal65 : Sealing := ⟨0, 65, 0, none, none⟩
def closing : State := { sealed with sealing := [seal65] }
def waitingTld : Demand := ⟨.tld me, 0, 65, 1, 0, false⟩
/-- A TLD.dem that has waited long for an open tensor. -/
def overdue : State := { sealed with demands := [waitingTld], aclk := 2 ^ 40 }
theorem witness_PlacementEventResult : (∀ k ∈ [0, 1], (converting k).convOf 0 64 = some (run1 k)) ∧ (converting 0).mem.wf = true ∧
    ((converting 0).readEntry 0 0 64).toOption.map (fun p => (Entry.naxes p.2, axKind (Entry.axis p.2 0), stepReady (converting 0) (run1 0) p.2 0)) = some (1, 1, true) ∧ (converting 0).remote = [] ∧
    ((converting 1).readEntry 0 0 64).toOption.map (fun p => (convPlan (converting 1) (run1 1) p.2).map List.length) = some (some 0) ∧ (converting 1).demands = [] ∧ (run1 1).parts = [] ∧
    closing.sealing.find? closing.sealReady = some seal65 ∧ (closing.readEntry 0 0 65).toOption.map (fun p => (Entry.state p.2, Entry.localMembers p.2 closing.grid)) = some (0, [(0, [0])]) ∧
    overdue.demands.find? overdue.askerDue = some waitingTld ∧ overdue.convs = [] := by decide +kernel
/-- 11 Table 11.5: the last member's seal closes the generation. -/
theorem test_seal : (entOf 65 (ran .sealComplete closing)).map (fun e => (Entry.state e, Entry.sealedMask e, Entry.generation e)) = some (1, 1, 1) := by decide +kernel

/-! ### Hops and channels -/

def hopping (a : Option Away) : State := having fun f => { f.setReg 4 0x3000 with away := a }
def arriving : State := { hopping (some (.escape 0 true)) with arrivals := [me] }
theorem witness_HopResult : (∀ a ∈ [none, some (Away.near 0 0 0), some (Away.near 1 0 0)], (hopping a).current = some (me, team (hopping a), fibre (hopping a)) ∧ hopReady (fibre (hopping a)) = true ∧ (fibre (hopping a)).handler = none) ∧
    Ready (hopping none) me (team (hopping none)) (fibre (hopping none)) [4] [4] [] [] ∧
    (match translate (hopping none) 0 (dieOf (team (hopping none)) (fibre (hopping none))) 0 0x3000 .load false with | .ok l => l.cls == 0 && stackOf (l.place 0x3000) == 0 | _ => false) = true ∧
    (hopping none).coreEntries 0 < 1024 ∧ (hopping (some (.near 0 0 0))).freeService 0 = some 0 ∧ (team (hopping none)).state = .running ∧
    arriving.arrivals.find? (fun q => arriving.escapeOf q == some 0) = some me ∧ arriving.freeSlot 0 = some (0, 0) ∧ (fibre arriving).away = some (.escape 0 true) :=
  ⟨by decide +kernel, meReady (by decide +kernel), by decide +kernel⟩
/-- 20 R427, 10 R222: a hop leaves for the stack; the first arrival enters a free slot. -/
theorem test_hop : (ran (.hop 4) (hopping none)).map (fun s => ((fibre s).away, (fibre s).pc)) = some (some (.transit 0 true), 8) := by decide +kernel
theorem test_slot_entry : (ran (.nearSlotEntry 0) arriving).map (fun s => (fibre s).away) = some (some (.near 0 0 0)) := by decide +kernel

/-- A channel of one lane and depth 2 between team 0 (feed-forward) and team 1; a record at 0x3200 that configures channel 3 so. -/
def endA : Endpoint := ⟨0, true, 0, 0x1000, 0, 1, 0, [0, 0, 0, 0], [2], [1, 0, 0, 0], false⟩
def endB : Endpoint := ⟨1, false, 0, 0x1000, 0, 0, 0, [0, 0, 0, 0], [2], [0, 0, 0, 0], false⟩
def linked : State := onCtx (fun y => { y with chans := [⟨3, 1, 2, 1, 1, [endA, endB], [(true, 0)]⟩] }) (having (two 4 5 0x2000 64))
def cfgd : State := put64 0x13200 (3 + 2 ^ 6 + 2 ^ 11 + 2 ^ 32) (put64 0x13208 0x1000 (atHome 0x3200 64))
theorem witness_ChannelConfig : Ready cfgd me (team cfgd) (fibre cfgd) [4, 5, 6] [4, 5, 6] [] [0] ∧ (fibre cfgd).nearSlot = none ∧ (fibre cfgd).canIssue 0 ∧ 0 < (team cfgd).kernel.accTiles ∧ (cfgd.ctx? 0).isSome = true ∧
    (match recordAt me (team cfgd) (fibre cfgd) 0x3200 4 0 cfgd with | .ok (v, s1) => chStatus (s1.takeAnswers me (fibre cfgd).seq) (team cfgd) v == 0 && v % 2 ^ 6 == 3 | _ => false) = true ∧
    (match recordAt me (team cfgd) (fibre cfgd) 0x3300 4 0 cfgd with | .ok (v, s1) => chStatus (s1.takeAnswers me (fibre cfgd).seq) (team cfgd) v != 0 | _ => false) = true ∧
    cfgd.chan? 0 3 = none ∧ cfgd.permitWaits = [] := ⟨meReady (by decide +kernel), by decide +kernel, ⟨by decide +kernel, by decide +kernel⟩, by decide +kernel⟩
theorem witness_ChannelResult : Ready linked me (team linked) (fibre linked) [4, 5, 6] [4, 5, 6] [] [0] ∧ (fibre linked).canIssue 0 ∧ (linked.chan? 0 3).map (fun h => h.ends.find? (fun x => x.team == 0)) = some (some endA) ∧ endA.lost = false ∧
    linked.enginesFull (team linked) = false ∧ releasedForIssue linked me (fibre linked) = true ∧ linked.permitWaits = [] ∧
    (linked.chan? 0 3).map (fun h => (sendLanes h endA, (receiverOf h endA 0).isSome, endA.permit.getD (endA.entry 0) 0)) = some ([0], true, 2) ∧
    ((fibre linked).reg 4).toNat + 64 ≤ (team linked).allocBytes ∧ linked.tileBusy (team linked) 0 = false ∧
    countBefore 0 (endA.release.getD (endA.entry 0) 0) = false ∧ countBefore 0 (endA.landed.getD (endA.entry 0) 0) = true ∧ (fibre linked).loadsPending = false ∧
    barPhase ((onTeam (fun t => { t with scratch := [(0, 3)] }) linked).barAt (.scr 0 (endA.rxBar + 32 * 0))) ≠ (0 / 2 % 2 == 1) :=
  ⟨meReady (by decide +kernel), ⟨by decide +kernel, by decide +kernel⟩, by decide +kernel⟩
/-- A message of two bytes from team 0 to team 1; a fibre that has waited for a permit past its time-out. -/
def message : Cmd := ⟨7, 7, me, 0, 0, some ⟨0, 0⟩, 4, 6, .chan 3 false 0 0 (.scr 1 0) 1, .none, 2, 0, [⟨[⟨[.known [1, 2]], [], .write (.scr 1 0x1000), 2, false⟩], true⟩], none, false, []⟩
def delivering : State := { linked with teams := linked.teams ++ linked.teams.map (fun t => { t with id := 1 }), cmds := [message] }
def permitless : State := { onCtx (fun y => { y with chans := [⟨3, 1, 2, 1, 1, [{ endA with permit := [0] }, endB], []⟩] }) linked with permitWaits := [⟨me, 0, 3, 4, 0, none⟩], aclk := 2 ^ 40 }
theorem witness_ChannelEvents : delivering.cmd? 7 = some message ∧ delivering.firstMessage message 3 false 0 = true ∧ (delivering.team? 1).map (fun p => (p.state, sparseWf 0 p.scratch)) = some (.running, true) ∧
    (linked.chan? 0 3).map (fun h => (h.returning, h.ends.find? (fun z => z.ff != true && (true || z.lane == 0)))) = some ([(true, 0)], some endB) ∧
    permitless.permitWaits.find? permitless.permitDue = some ⟨me, 0, 3, 4, 0, none⟩ ∧ (fibre permitless).pc.toNat = 4 ∧ (fibre permitless).handler = none ∧ (fibre permitless).entering = none := by decide +kernel
/-- 12 R247, R248: a message takes a permit and the send count; a permit comes back to its sender. -/
theorem test_chan_send : ((ran (.chanSend 6 4 5 3) linked).bind fun s => (s.chan? 0 3).map fun h => h.ends.map (fun e => (e.team, e.send, e.permit))) = some [(0, 1, [1]), (1, 0, [2])] := by decide +kernel
theorem test_permit_return : ((ran (.permitReturn 0 3) linked).bind fun s => (s.chan? 0 3).map fun h => (h.returning, h.ends.map (fun e => (e.team, e.permit)))) = some ([], [(0, [2]), (1, [3])]) := by decide +kernel
theorem test_slot_landing : ((ran (.slotLanding 7) delivering).bind fun s => (s.team? 1).map fun t => sparseBytes t.scratch 0x1000 2) = some [1, 2] := by decide +kernel

/-! ### The board and management messages -/

def onOs (g : Oseus → Oseus) (s : State) : State := { s with os := g s.os }
/-- A device that serves messages; its page tables stand in frames 1 to 5. -/
def desk : State := onOs (fun o => { o with
  powered := true
  mgmt := true
  host := { o.host with up := true }
  used := [(1, 5)] }) (having id)
def ripe : State := { desk with aclk := 2 ^ 50 }
theorem witness_BoardResult : State.reset.os.powered = false ∧ desk.os.powered = true ∧ (onOs (fun o => { o with resetAt := some 5 }) desk).os.resetAt = some 5 ∧ desk.os.resetAt = none ∧
    desk.guardOk (List.replicate 120 0) false = true ∧ desk.guardOk (List.replicate 120 16) false = false ∧ ripe.os.guardAt + 3600 ≤ ripe.aclk ∧ ripe.os.pollAt + 3600000 ≤ ripe.aclk ∧ ripe.os.sampleAt + 3600000 ≤ ripe.aclk ∧
    ripe.os.lifeAt + 216000000000 ≤ ripe.aclk ∧ sparseWf 0 ripe.os.carry = true ∧ sparseGet 0 ripe.os.carry (10 * 65536) < 999 ∧ desk.events = [] ∧
    (onOs (fun o => { o with qps := [⟨2, 0, 7, 1, 3, 0, 0, 1, 0, 0, 0, 0, false, 800000, []⟩] }) desk).qp? 2 ≠ none ∧
    (({ desk with os := { desk.os with banks := [⟨[], true⟩, ⟨[], true⟩] } } : State).os.banks[0]?).isSome = true := by decide +kernel
/-- A device with one lifetime copy, an event queued, stage 1 on and not in the rated coolant condition; and one in it. -/
def warm : State := { onOs (fun o => { o with copies := [⟨4, [], [], true⟩] }) ripe with thermal := 2, events := [⟨3, 1, 0, 0, 0, 0⟩] }
theorem witness_BoardClauses : warm.os.bestCopy = some ⟨4, [], [], true⟩ ∧ warm.events ≠ [] ∧ warm.os.mgmt = true ∧ warm.os.records = true ∧ warm.os.rated = false ∧
    (onOs (fun o => { o with coolant := (40, 18) }) warm).os.rated = true ∧ warm.guardOk (List.replicate 120 15) true = true ∧ (onOs (fun o => { o with coolant := (40, 18) }) warm).guardOk (List.replicate 120 15) true = false ∧
    sparseWf 0 warm.life = true ∧ warm.thermal.getLsbD 1 = true ∧ warm.thermal.getLsbD 0 = false ∧ ({ warm with thermal := 1 } : State).thermal.getLsbD 0 = true ∧
    sparseGet 0 (onOs (fun o => { o with carry := [(10 * 65536, 999)] }) ripe).os.carry (10 * 65536) = 999 ∧ ripe.os.host.rateAt + 3600 * ripe.os.host.periodUs ≤ ripe.aclk ∧
    desk.aclk < desk.os.host.rateAt + 3600 * desk.os.host.periodUs ∧ desk.aclk < desk.os.guardAt + 3600 ∧ State.reset.os.records = false ∧ sparseWf 0 (Claims.recordsOf warm) = true ∧ sparseWf 0 (Claims.recordsOf { warm with thermal := 1 }) = true := by decide +kernel
/-- 01 R31: the 1,000th millisecond makes a second. -/
theorem test_power_on_second : ((ran .lifetimeSample (onOs (fun o => { o with carry := [(10 * 65536, 999)] }) ripe)).map fun s => (sparseGet 0 s.life (10 * 65536), sparseGet 0 s.os.carry (10 * 65536))) = some (1, 0) := by decide +kernel
/-- 01 R27: the stop at 110 °C. -/
theorem test_junction_stop : ((ran (.junctionStop 110) desk).map fun s => (s.os.held, s.teams.length, s.events.map (·.code))) = some (true, 0, [5]) := by decide +kernel

/-- A request of a type for a context, with the number of its body and the body's length. -/
def request (type ctx len b : Nat) : Message := ⟨BitVec.ofNat 128 (type + 2 ^ 8 + len * 2 ^ 16 + 9 * 2 ^ 32 + ctx * 2 ^ 64), bytesOfNat len b⟩
/-- All 64 contexts, or only context 0, stand. -/
def fullDesk : State := { desk with ctxs := (List.range 64).map (fun i => Context.blank i 0x20000) }
def mapOne : Message := request 4 0 40 (0x70000 + 65536 * 2 ^ 64 + (2 ^ 4 + 2 ^ 5) * 2 ^ 128)
def qpOne : Qp := ⟨2, 0, 7, 1, 3, 0, 0, 1, 0, 0, 0, 0, false, 800000, []⟩
def sweeping (dies : List Nat) : State := { desk with shoot := some ⟨0, [], dies, [(9, 1)], 5, 9, 0⟩ }
theorem witness_ContextMessageResult : Claims.Asked desk (request 1 0 64 (2 ^ 384)) 1 64 ∧ bitsOf (msgNum (request 1 0 64 (2 ^ 384))) 384 32 ≠ 0 ∧
    (∀ p ∈ [(52, 12), (116, 12), (180, 12), (244, 12), (312, 8), (372, 12), (417, 95)], bitsOf (msgNum (request 1 0 64 (2 ^ 384))) p.1 p.2 = 0) ∧
    desk.ctx? 1 = none ∧ (desk.ctx? 0).isSome = true ∧ (highestFree desk.os.used 0x11E00000 1).isSome = true ∧ (∀ i, i < 64 → fullDesk.ctx? i ≠ none) ∧ Claims.Asked fullDesk (request 1 0 64 (2 ^ 384)) 1 64 ∧
    Claims.Asked desk (request 2 0 0 0) 2 0 ∧ Claims.Asked desk (request 2 1 0 0) 2 0 ∧ Claims.Asked desk (request 3 0 24 (3 + (2 ^ 192 - 2 ^ 64))) 3 24 ∧
    desk.admittedLive 0 0 = false ∧ desk.admittedLive 0 1 = false :=
  by (repeat' apply And.intro) <;> first | decide +kernel | exact asked (by decide +kernel)
theorem witness_MapMessages : Claims.Asked desk mapOne 4 40 ∧ firstBad ((mapAsk (msgNum mapOne)).fields (msgNum mapOne) true) = none ∧ (mapAsk (msgNum mapOne)).cls ≤ 2 ∧ (mapAsk (msgNum mapOne)).big = false ∧
    (mapAsk (msgNum mapOne)).nonres = false ∧ (mapAsk (msgNum mapOne)).len = 65536 ∧ desk.pagesIn 0x20000 0x70000 65536 = [] ∧ desk.mem.wf = true ∧ ((mapAsk (msgNum mapOne)).frame desk.os.used 0).isSome = true ∧
    (∀ i, i < 8 → (∃ p ∈ desk.os.used, p.1 * 65536 ≤ 0x40038 + i ∧ 0x40038 + i < (p.1 + p.2) * 65536)) ∧ desk.tableEntry 0x20000 % 4 = 1 ∧ desk.tableEntry 0x30000 % 4 = 1 ∧
    0x40038 = entryPa (desk.tableEntry 0x30000) + 8 * bitsOf 0x70000 16 13 ∧ Claims.Asked desk (request 5 0 16 (65536 * 2 ^ 64)) 5 16 ∧ desk.pagesIn 0x20000 0 65536 ≠ [] ∧
    Claims.Asked desk (request 9 0 32 7) 9 32 ∧ desk.qp? 2 = none ∧ Claims.Asked desk (request 10 0 2 2) 10 2 ∧ (onOs (fun o => { o with qps := [qpOne] }) desk).qp? 2 = some qpOne ∧
    Claims.Asked desk (request 11 0 1 1) 11 1 ∧ (sweeping [0]).sweepDone ⟨0, [], [0], [(9, 1)], 5, 9, 0⟩ 0 = true ∧ (sweeping [0]).cmds = [] ∧ (sweeping [0]).coh.waiters = [] :=
  by (repeat' apply And.intro) <;> first | decide +kernel | exact asked (by decide +kernel)
/-- A pair of another context before a free index; the pair named by a mapping; a store that a removed entry translated, still queued. -/
def paired : State := onOs (fun o => { o with qps := [qpOne] }) desk
def naming : State := onCtx (fun y => { y with windows := [⟨0, true, 5, 2, 7, 0x30000, 65536, false, 1⟩] }) paired
def sweptStore : State := { storing (.write (.mem word0) [some 1]) with shoot := some ⟨0, [(0, 0, 0x1003B)], [0, 1], [(9, 1)], 5, 9, 0⟩ }
theorem witness_MessageClauses : Claims.Asked desk (request 3 0 24 (33 + (2 ^ 192 - 2 ^ 64))) 3 24 ∧ 32 < bitsOf (msgNum (request 3 0 24 (33 + (2 ^ 192 - 2 ^ 64)))) 0 8 ∧
    (paired.qp? 2).map (·.ctx) = some 0 ∧ paired.qp? 3 = none ∧ ((onOs (fun o => { o with qps := [{ qpOne with ctx := 64 }] }) desk).qp? 2).map (·.ctx) = some 64 ∧
    Claims.Asked naming (request 10 0 2 2) 10 2 ∧ Claims.Asked naming (request 10 1 2 2) 10 2 ∧ (naming.ctx? 0).map (fun y => y.windows.map fun w => (w.host, w.pages, w.qp)) = some [(true, 1, 2)] ∧
    sweptStore.sweepDone ⟨0, [(0, 0, 0x1003B)], [0, 1], [(9, 1)], 5, 9, 0⟩ 0 = false ∧ sweptStore.cmds = [] ∧ sweptStore.coh.waiters = [] ∧ sweptStore.remote = [] ∧
    (sweeping [0, 1]).sweepDone ⟨0, [], [0, 1], [(9, 1)], 5, 9, 0⟩ 1 = true ∧ ((desk.pagesIn 0x20000 0 65536).map fun p => (p.1, p.2.1)) = [(0, 0)] ∧ desk.pagesIn 0x20000 0x70000 65536 = [] :=
  by (repeat' apply And.intro) <;> first | decide +kernel | exact asked (by decide +kernel)
/-- 03 R68, R72: the lowest free number; the frame the page gets, zeroed. -/
theorem test_create : ((ran (.createContext (request 1 0 64 (2 ^ 384))) desk).map fun s => (s.os.out, s.ctxs.length)) = some (some (.message (messageBytes 1 9 0 0 0 [1])), 2) := by decide +kernel
theorem test_map : ((ran (.mapMemory mapOne) desk).map fun s => (s.tableEntry 0x40038, s.os.out)) = some (0x1B, some (.message (messageBytes 4 9 0 0 0 []))) := by decide +kernel

/-- A page that is readable and executable but not writable, virtual page 2; a graph of a header and a SIGNAL node at 0x6000, its words in the tagged page. -/
def shelf : State := withLeaf 2 (0x60000 + 0x2B) (withLeaf 1 (0x50000 + 0x7B) desk)
def headerBits : Nat := 2 * 2 ^ 4 + 2 ^ 8 + 2 ^ 24 + 2 ^ 128 + 0x10000 * 2 ^ 192
def signalBits : Nat := 5 + (2 ^ 64 - 1) * 2 ^ 64 + 0x10008 * 2 ^ 128 + 2 ^ 192
def library : State := { shelf with mem := (shelf.mem.write 0x16000 ((bytesOfNat 128 headerBits).map some)).write 0x16080 ((bytesOfNat 128 signalBits).map some) }
def graphMsg : Message := request 7 0 24 (0x6000 + 2 * 2 ^ 64 + 0x10010 * 2 ^ 96)
def imageMsg : Message := request 6 0 24 (0x20000 + 0x3000 * 2 ^ 64 + 16 * 2 ^ 132)
def shelved (g : Graph) : State := onCtx (fun y => { y with graphs := [g] }) library
def copyingImage : State := { onOs (fun o => { o with image := some ⟨9, 0, 0x20000, 0x3000, false, 16, none, none⟩ }) shelf with teams := [] }
theorem witness_GraphMessages : Claims.Asked library graphMsg 7 24 ∧ bitsOf (msgNum graphMsg) 64 16 = 2 ∧ taggedWord library 0 (bitsOf (msgNum graphMsg) 96 52) = true ∧
    nodeReadable library 0 0x6000 = true ∧ nodeReadable library 0 0x6080 = true ∧ natOfBytes (library.physBytes 0x16000 128) = headerBits ∧ natOfBytes (library.physBytes 0x16080 128) = signalBits ∧
    (match leafFor library 0 8 0x6000 with | .leaf l => l.place 0x6000 == 0x16000 | _ => false) = true ∧ nodeOk library 0 2 0 headerBits = true ∧ nodeOk library 0 2 1 signalBits = true ∧
    nodeOk desk 0 2 0 0 = false ∧ library.ctxs.map (·.graphs) = [[]] ∧
    (graphFrom [headerBits, signalBits] 0 0x10010 none).badShape = none ∧ Claims.Asked library (request 8 0 1 0) 8 1 ∧
    (shelved (graphFrom [headerBits, signalBits] 0 0x10010 none)).liveOf 0 0 = 0 :=
  by (repeat' apply And.intro) <;> first | decide +kernel | exact asked (by decide +kernel)
theorem witness_ImageMessages : Claims.Asked shelf imageMsg 6 24 ∧ bitsOf (msgNum imageMsg) 132 28 = 16 ∧ imageDest shelf 0 0x20000 16 = true ∧ imageSource shelf 0 0x3000 16 = true ∧
    ((shelf.ctx? 0).bind fun c => c.imageIndex 0x20000 16) = some 0 ∧ copyingImage.os.image.isSome = true ∧ (copyingImage.ctx? 0).isSome = true ∧ copyingImage.mem.wf = true ∧
    (match leafFor copyingImage 0 8 0x20000 with | .leaf _ => true | _ => false) = true ∧ (∃ x ∈ shelf.teams, x.ctx = 0 ∧ x.core.isSome = true) :=
  ⟨asked (by decide +kernel), by decide +kernel⟩
/-- Grid: one axis, own coordinate 0, one reducer address; a port that is down. -/
def gridMsg : Message := request 12 0 280 (2 ^ 48 + 2 ^ 2112 + 5 * 2 ^ 2176)
def portDown : State := { desk with ports := desk.ports.map (fun p => { p with state := .down }) }
def linkMsg : Message := request 14 0 40 (2 ^ 48 + 2 ^ 208)
theorem witness_ServiceMessageResult : Claims.Asked desk gridMsg 12 (272 + 8 * bitsOf (msgNum gridMsg) 2112 7) ∧ desk.remote = [] ∧ (desk.ctxs.all fun y => y.windows.all fun w => w.host) = true ∧
    ((List.range 16).all fun i => portEntryOk (bitsOf (msgNum gridMsg) (64 + 128 * i) 128) 1 0 && bitsOf (msgNum gridMsg) (161 + 128 * i) 31 == 0) = true ∧
    Claims.Asked portDown (request 13 0 1 3) 13 1 ∧ (portDown.port? 3).map (·.state) = some .down ∧ Claims.Asked desk linkMsg 14 40 ∧ bitsOf (msgNum linkMsg) 48 3 ≠ bitsOf (msgNum linkMsg) 52 3 ∧
    Claims.Asked desk (request 16 0 8 (1 + 5 * 2 ^ 32)) 16 (4 + 4 * 1) ∧ Claims.Asked desk (request 15 0 8 (1 + 1 * 2 ^ 32)) 15 (4 + 4 * 1) ∧ Claims.Asked desk (request 17 0 34 0) 17 (34 + 2 * 0) ∧
    Claims.Asked desk (request 18 0 17 (2 * 2 ^ 32 + 7 * 2 ^ 128)) 18 (16 + 1) ∧ Claims.Asked desk (request 19 0 4 0) 19 4 ∧ desk.os.fusedMin ≤ 0 ∧ desk.os.banks.length = 2 ∧ desk.os.booted ≠ some 0 ∧
    msgType (request 20 0 0 0) = 0x14 ∧ msgHeadOk (request 20 0 0 0) = true ∧ msgHeadOk (request 21 0 0 0) = true ∧ (onOs (fun o => { o with recovery := true }) desk).serving = true :=
  by (repeat' apply And.intro) <;> first | decide +kernel | exact asked (by decide +kernel)
theorem witness_FirmwareClause : Claims.Asked (onOs (fun o => { o with loading := some ⟨0, 2, [1]⟩ }) desk) (request 18 0 17 (1 + 2 * 2 ^ 32 + 2 * 2 ^ 64 + 7 * 2 ^ 128)) 18 (16 + 1) ∧
    bitsOf (msgNum (request 18 0 17 (1 + 2 * 2 ^ 32 + 2 * 2 ^ 64 + 7 * 2 ^ 128))) 65 1 = 1 := ⟨asked (by decide +kernel), by decide +kernel⟩
/-- A busy Oseus with nothing waiting, one with 64 messages waiting, one in recovery mode, one whose connection is down; the longest body, and one byte more. -/
def busy (n : Nat) : State := onOs (fun o => { o with image := some ⟨9, 0, 0x20000, 0x3000, false, 16, none, none⟩, inbox := List.replicate n mapOne }) desk
theorem witness_MessageService : (busy 0).mgmtUp = true ∧ (busy 0).serving = false ∧ (busy 0).os.inbox.length = 0 ∧ (busy 63).os.inbox.length < 64 ∧ (busy 64).serving = false ∧ (busy 64).mgmtUp = true ∧
    desk.serving = true ∧ (onOs (fun o => { o with recovery := true }) desk).serving = true ∧ (onOs (fun o => { o with mgmt := false }) desk).mgmtUp = false ∧
    (request 4 0 4080 0).body.length = 4080 ∧ 4080 < (request 4 0 4081 0).body.length ∧ msgHeadOk ⟨4, []⟩ = false ∧ msgType ⟨4, []⟩ = 4 := by decide +kernel
/-- 03 R59, 02 R36: a message to a busy Oseus waits; the 65th is answered with the RNR NAK. -/
theorem test_message_waits : (ran (.mapMemory mapOne) (busy 63)).map (fun s => s.os.inbox.length) = some 64 := by decide +kernel
theorem test_message_rnr : (ran (.mapMemory mapOne) (busy 64)).map (fun s => (s.os.inbox.length, s.os.out)) = some (64, some (.nak 1 .receiverNotReady)) := by decide +kernel
/-- The image is written and digested; its collapses are open, or done. The start word of a graph is FULL at the load. -/
def copiedImage (open_ : Bool) : State := { onOs (fun o => { o with image := some ⟨9, 0, 0x20000, 0x3000, false, 16, none, some (0, [1])⟩ }) copyingImage with
  coh := { copyingImage.coh with probes := if open_ then [⟨0xC00, 1, false, false, .oseus, 0⟩] else [] } }
theorem witness_ImageClauses : (copiedImage true).collapsesOf .oseus = true ∧ (copiedImage false).collapsesOf .oseus = false ∧ ((copiedImage true).ctx? 0).isSome = true ∧ copyingImage.coh.regions = [] ∧ copyingImage.coh.probes = [] ∧
    0x20000 % 65536 + 16 ≤ 65536 ∧ library.watched 0 (bitsOf (msgNum graphMsg) 96 52) = some 0xA002 ∧ library.tagFull 0xA002 = false ∧ (library.setTag 0xA002 true).tagFull 0xA002 = true ∧
    (desk.ctxs.all fun y => y.windows.all fun w => w.host || w.pages == 0) = true := by decide +kernel
/-- 03 R76, R59: the reply waits for the collapses of the copy. -/
theorem test_image_reply : (ran .loadImageQuiesced (copiedImage false)).map (fun s => (s.os.image, s.os.out)) = some (none, some (.message (messageBytes 6 9 0 0 0 [0, 1]))) := by decide +kernel
theorem test_image_waits : (ran .loadImageQuiesced (copiedImage true)).map (fun s => s.os.out) = some none := by decide +kernel

/-! ### Host port, links, peers, collectives -/

/-- A page of fill-on-write words at virtual page 3; queue pair 2 of context 0 with key 7; a window of the host class. -/
def dock : State := withLeaf 3 (0x70000 + 0xDB) (onCtx (fun y => { y with
  windows := [⟨1, true, 0, 2, 7, 0x40000, 65536, false, 1⟩]
  peer := true }) (onOs (fun o => { o with qps := [qpOne] }) desk))
def hostRead (who : RemoteWho) (k : RemoteKind) : RemoteOp := ⟨5, true, none, 0, some ⟨1, true, 0, 2, 7, 0x40000, 65536, false, 1⟩, 0, k, who, none, false, 0, 1, none, 0, 0⟩
def fetching (who : RemoteWho) (k : RemoteKind) : State := { dock with remote := [hostRead who k], aclk := 2 ^ 40 }
theorem witness_HostPortResult : dock.os.powered = true ∧ dock.os.host.up = true ∧ State.reset.os.powered = false ∧ dock.qp? 2 = some qpOne ∧ dock.qp? 3 = none ∧ qpOne.error = false ∧ dock.qpOps 2 = [] ∧ dock.mem.wf = true ∧
    (∀ n ∈ [1, 8, 16], (incoming dock 0 0x30000 n .store).map (fun ps => ps.map (fun p => (p.1.pa, p.2.1))) = some [(0x70000, n)]) ∧ incoming dock 0 0x50000 8 .load = none ∧
    (∀ k ∈ [AccKind.load, .atomic], (incoming dock 0 0x30000 8 k).map (fun ps => (ps.map (fun p => (p.1.pa, p.2.1, p.2.2.tagged)), incomingOwned dock ps)) = some ([(0x70000, 8, true)], false)) ∧
    dock.sealHit 0 0x30000 8 = false ∧ dock.os.fills = [] ∧ dock.coh.regions = [] ∧ dock.coh.probes = [] ∧ dock.coh.waiters = [] ∧ (dock.ctxs.all fun c => c.graphs.isEmpty) = true ∧
    dock.collapsesOf (.qp 2) = false ∧ dock.mem.poison = [] ∧ dock.remote = [] ∧ (8 : Nat) ≤ 256 * 2 ^ qpOne.mtu ∧ qpOne.pending = [] := by decide +kernel
theorem witness_HostTransactions : (∀ p ∈ [(RemoteWho.load me 0 0, RemoteKind.read 8), (.store me 4, .write [some 1])],
      (fetching p.1 p.2).opQp (hostRead p.1 p.2) = some qpOne ∧ ((fetching p.1 p.2).qpOps 2).head? = some (hostRead p.1 p.2)) ∧
    qpOne.ackTimeout ≠ 0 ∧ (hostRead (.load me 0 0) (.read 8)).since + ackAclk qpOne.ackTimeout ≤ (fetching (.load me 0 0) (.read 8)).aclk ∧ qpOne.retry < 1 ∧ 1 ≤ ({ qpOne with retry := 1 } : Qp).retry := by decide +kernel
/-- The pair has an operation waiting, one in the error state, 16 fetches outstanding; collapses of the pair are open; its priority is paused; the 512 MiB limit of Table 2.1 is passed by one byte. -/
def pairIn (g : Qp → Qp) : State := onOs (fun o => { o with qps := [g qpOne] }) dock
def lastWord : State := put64 0x70000 (2 ^ 64 - 5) dock
theorem witness_HostPortClauses : ((pairIn fun q => { q with pending := [.read 7 0 8] }).qp? 2).map (·.pending.length) = some 1 ∧ dock.fetchesOut qpOne = 0 ∧
    16 ≤ (pairIn fun q => { q with pending := List.replicate 16 (.read 7 0x30000 8) }).fetchesOut { qpOne with pending := List.replicate 16 (.read 7 0x30000 8) } ∧
    (HostOp.read 7 0 8).fetches = true ∧ (HostOp.write 7 0 []).fetches = false ∧ ((pairIn fun q => { q with error := true }).qp? 2).map (·.error) = some true ∧
    ({ dock with coh := { dock.coh with probes := [⟨0xE00, 1, false, false, .qp 2, 0⟩] } } : State).collapsesOf (.qp 2) = true ∧
    (onOs (fun o => { o with host := { o.host with paused := [o.host.prioA, o.host.prioB] } }) dock).pausedQp 2 = true ∧ dock.pausedQp 2 = false ∧
    (2 ^ 64 - 5 + (5 : Dword).toNat) % 2 ^ 64 = 0 ∧ Claims.valueAt lastWord 0x70000 8 = 2 ^ 64 - 5 ∧ 65536 ≤ 2 ^ 31 ∧ qpOne.key = 7 := by decide +kernel
/-- 03 R79: a fetch-and-add whose sum is 0 fills its tagged word. -/
theorem test_rdma_add_fills : (ran (.rdmaFetchAddReceived 2 7 0x30000 5) lastWord).map (fun s => (Claims.valueAt s 0x70000 8, s.mem.full)) = some (0, [0xE000]) := by decide +kernel
/-- 03 R74, R78: the bytes stand in memory, the word they cover is FULL; a fetch-and-add that does not fill. -/
theorem test_rdma_write : (ran (.rdmaWriteReceived 2 7 0x30000 [1, 2, 3, 4, 5, 6, 7, 8]) dock).map (fun s => (Claims.valueAt s 0x70000 8, s.mem.full, s.os.out)) = some (0x0807060504030201, [0xE000], some (.ack 2)) := by decide +kernel
theorem test_rdma_add : (ran (.rdmaFetchAddReceived 2 7 0x30000 5) (put64 0x70000 6 dock)).map (fun s => (Claims.valueAt s 0x70000 8, s.os.out)) = some (11, some (.atomicResponse 2 6)) := by decide +kernel
theorem test_rdma_key : (ran (.rdmaReadReceived 2 8 0x30000 8) dock).map (fun s => (s.os.out, s.os.qps.map (·.error))) = some (some (.nak 2 .remoteAccess), [true]) := by decide +kernel

/-- A device at coordinate 0 of a one-axis grid, port 0 up and reaching coordinate 1. -/
def port0 (g : Port → Port) : State := { dock with
  grid := 2 ^ 48
  ports := dock.ports.map (fun p => if p.idx = 0 then g { p with state := .up, reach := some (1, 1) } else p) }
/-- A flit of a kind alone in its transaction, from coordinate 1 to coordinate 0. -/
def wire (kind : Nat) (payload : List (BitVec 8)) : WireFlit := ⟨BitVec.ofNat 128 (kind + 2 ^ 6 + 2 ^ 7 + 2 ^ 80), payload⟩
def flit (tc seq : Nat) : Flit := ⟨2, tc, true, true, seq, 0, 1, 0, [], 0, none⟩
/-- One flit queued; one in the replay buffer, its time-out past; the same in replay; a port that retrains for the third time. -/
def queued : State := port0 fun p => { p with queue := [flit 2 0] }
def unacked : State := { port0 fun p => { p with buffer := [flit 2 5], unacked := 64 } with aclk := 2 ^ 30 }
def replaying : State := port0 fun p => { p with buffer := [flit 2 5], resend := 1, state := .replay }
def retraining : State := port0 fun p => { p with state := .retrain, fails := 2 }
theorem witness_LinkResult : (∀ s ∈ [queued, unacked, replaying], (s.port? 0).map (·.live) = some true ∧ s.opened = [] ∧ s.contribs = [] ∧ s.remote = []) ∧
    ((port queued).queue, (port queued).resend, (port queued).credits.getD 2 0) = ([] ++ flit 2 0 :: [], 0, 32) ∧ (port replaying).buffer[(port replaying).buffer.length - 1]? = some (flit 2 5) ∧
    ((6 : Nat) + 4096 - 5) % 4096 = 1 + 4096 * 0 ∧ flitAck ⟨BitVec.ofNat 128 (6 * 2 ^ 20), []⟩ = 6 ∧ flitKind (wire 1 []) = 1 ∧ (∀ c, c < 4 → creditDiff (port queued) 0 c ≤ 32) ∧ creditDiff (port queued) (33 * 2 ^ 16) 0 = 33 ∧
    64 ≤ (port unacked).unacked ∧ (port unacked).progress + 7200 ≤ unacked.aclk ∧ (port unacked).replays + 1 < 8 ∧ (port retraining).state = .retrain ∧ 2 ≤ (port retraining).fails ∧ (dock.port? 1).map (·.live) = some false := by decide +kernel
/-- A NAK of flit 6 on an empty buffer and on one that starts at 5; a link-control flit with a reserved bit. -/
def nakFlit (ack : Nat) : WireFlit := ⟨BitVec.ofNat 128 (1 + ack * 2 ^ 20), bytesOfNat 6 (6 + 2 ^ 12)⟩
theorem witness_LinkClauses : (∀ s ∈ [queued, unacked, replaying], (port s).reach.isSome = true) ∧ (dock.port? 1).map (·.reach) = some none ∧ (port replaying).resend = 1 ∧ 0 < (port replaying).credits.getD 2 0 ∧
    flitKind (nakFlit 5) = 1 ∧ bitsOf (flitNum (nakFlit 5)) 12 1 = 1 ∧ bitsOf (flitNum (nakFlit 5)) 13 3 = 0 ∧ flitNum (nakFlit 5) / 2 ^ 48 = 0 ∧ flitAck (nakFlit 5) = 5 ∧ (6 + 4096 - 5) % 4096 ≤ (port unacked).buffer.length ∧
    (port queued).buffer = [] ∧ (port queued).replays + 1 < 8 ∧ ({ port unacked with replays := 7 } : Port).replays + 1 = 8 ∧ bitsOf (flitNum ⟨BitVec.ofNat 128 1, bytesOfNat 6 (2 ^ 13)⟩) 13 3 ≠ 0 ∧
    (port queued).unacked < 64 ∧ queued.aclk < (port queued).ackAt + 360 ∧ (port retraining).fails + 1 = 3 ∧ ({ port retraining with fails := 1 } : Port).fails + 1 < 3 := by decide +kernel
/-- 02 R44: a NAK on an empty buffer counts a replay. -/
theorem test_nak_empty : ((ran (.linkControlFlit 0 (nakFlit 5)) queued).bind fun s => (s.port? 0).map fun p => (p.replays, p.resend)) = some (1, 0) := by decide +kernel
theorem witness_LinkIssue : ({ queued with remote := [⟨5, false, some 1, 0, none, 0x100, .read 8, .load me 0 0, none, false, 0, 0, none, 0, 0⟩] } : State).eligible 1 = [port queued] ∧ queued.gridAxes = 1 ∧ queued.eligible 2 = [] ∧
    queued.portFor 2 2 0 = none := by
  refine ⟨by decide +kernel, by decide +kernel, by decide +kernel, ?_⟩
  simp [State.portFor, show queued.eligible 2 = [] by decide +kernel]
/-- 02 R44: the flit sent takes a credit and the next number, and stays in the replay buffer; R55: eight time-outs retrain. -/
theorem test_flit_send : ((ran (.flitSend 0) queued).bind fun s => (s.port? 0).map fun p => (p.credits, p.seq, p.buffer.length, p.queue.length)) = some ([32, 32, 31, 32], 1, 1, 0) := by decide +kernel
theorem test_replay : ((ran (.replayTimeout 0) unacked).bind fun s => (s.port? 0).map fun p => (p.state, p.resend, p.replays)) = some (.replay, 1, 1) := by decide +kernel
theorem test_link_down : ((ran (.linkRetrainDone 0 false) retraining).map fun s => ((s.port? 0).map (·.state), s.events.map (·.code))) = some (some .down, [4]) := by decide +kernel

def ring : State := port0 id
/-- Requests of 8 bytes at virtual address 0x30000 of context 0, tag 9; an answer of the same tag. -/
def reading : WireFlit := wire 2 (descriptor 9 0 0 7 0 0x30000)
def writing : WireFlit := wire 4 (descriptor 9 0 0 7 0 0x30000 ++ [1, 2, 3, 4, 5, 6, 7, 8])
def adding1 : WireFlit := wire 6 (descriptor 9 0 0 7 0 0x30000 ++ bytesOfNat 8 5)
def answer (k : Nat) : WireFlit := wire k (descriptor 9 0 0 7 0 0 ++ bytesOfNat 8 77)
def peerOp1 (k : RemoteKind) (w : RemoteWho) : RemoteOp := ⟨9, false, some 1, 0, none, 0x100, k, w, none, false, 0, 1, some 0, 0, 0⟩
def asking1 (k : RemoteKind) (w : RemoteWho) : State := { ring with remote := [peerOp1 k w] }
theorem witness_PeerResult : Claims.Arrives ring 0 (port ring) reading 2 ∧ Claims.Arrives ring 0 (port ring) writing 4 ∧ Claims.Arrives ring 0 (port ring) adding1 6 ∧ requestOk false (flitNum reading) = true ∧
    requestOk false (flitNum writing) = true ∧ requestOk true (flitNum adding1) = true ∧ (∃ c, ring.ctx? 0 = some c ∧ c.peer = true) ∧ (8 : Nat) + 16 ≤ writing.payload.length ∧
    (incoming (Claims.tookFlit ring 0 reading) 0 0x30000 8 .load).map (fun ps => (ps.length, incomingOwned ring ps)) = some (1, false) ∧
    (incoming (Claims.tookFlit ring 0 reading) 0 0x50000 8 .load) = none ∧ leafFor ring 0 8 0x50000 ≠ .invalid ∧ (incoming ring 0 0x30000 8 .store).isSome = true ∧ ring.sealHit 0 0x30000 8 = false ∧
    (descOp (flitNum adding1), descVa (flitNum adding1) % 8) = (0, 0) ∧ ring.mem.wf = true :=
  ⟨arrivesAt (by decide +kernel), arrivesAt (by decide +kernel), arrivesAt (by decide +kernel), by decide +kernel, by decide +kernel, by decide +kernel, ⟨(ring.ctx? 0).getD (Context.blank 0 0), by decide +kernel⟩, by decide +kernel⟩
theorem witness_PeerAnswers : (∀ p ∈ [(RemoteKind.read 8, RemoteWho.load me 0 0), (.atomic 0 5 0, .load me 0 0), (.write [some 1], .store me 4)], peerOp1 p.1 p.2 ∈ (asking1 p.1 p.2).remote) ∧
    Claims.Arrives (asking1 (.read 8) (.load me 0 0)) 0 (port ring) (answer 3) 3 ∧ answerOk (flitNum (answer 3)) = true ∧
    (asking1 (.read 8) (.load me 0 0)).peerOp 9 1 (fun k => match k with | .read _ => true | _ => false) = some (peerOp1 (.read 8) (.load me 0 0)) ∧
    (asking1 (.atomic 0 5 0) (.load me 0 0)).peerOp 9 1 (fun k => match k with | .atomic _ _ _ => true | _ => false) = some (peerOp1 (.atomic 0 5 0) (.load me 0 0)) ∧
    (asking1 (.write [some 1]) (.store me 4)).peerOp 9 1 (fun k => match k with | .write _ => true | _ => false) = some (peerOp1 (.write [some 1]) (.store me 4)) :=
  ⟨by decide +kernel, arrivesAt (by decide +kernel), by decide +kernel⟩
/-- An earlier request of the same device and context waits; the write is of one flit and no gather awaits it. -/
def heldUp : State := { ring with peerWaits := [⟨4, writing, writing.payload⟩] }
theorem witness_PeerClauses : (∀ f ∈ [reading, writing, adding1], heldUp.peerWaits.map (·.before f f.payload) = [true]) ∧ ring.peerWaits = [] ∧ descLen (natOfBytes (writing.payload.take 16)) ≤ 208 ∧
    gatherInput (Claims.tookFlit ring 0 writing) 0 0x30000 8 (flitSrc writing) = none ∧ ring.mem.poison = [] := by decide +kernel
theorem witness_PeerClauses_held : Claims.Arrives heldUp 0 (port heldUp) reading 2 ∧ Claims.Arrives heldUp 0 (port heldUp) writing 4 ∧ Claims.Arrives heldUp 0 (port heldUp) adding1 6 :=
  ⟨arrivesAt (by decide +kernel), arrivesAt (by decide +kernel), arrivesAt (by decide +kernel)⟩
/-- 02 R42: the data of a read's answer. -/
theorem test_peer_answer : ((ran (.peerReadResponse 0 (answer 3)) (asking1 (.read 8) (.load me 0 0))).map fun s => s.remote.map (·.answer)) = some [some (bytesOfNat 8 77)] := by decide +kernel

/-- A sum of two contributors over i32, contributor 1's part there already; contributions of contributor 0 and of an unknown collective. -/
def sumColl (parts : List (Nat × List Nat)) : Coll := ⟨4, 2, 0, 2, 0, 4, 0, [⟨0, 0, 0, 0, 0, 0, 0, 0⟩, ⟨1, 0, 0, 0, 0, 0, 0, 0⟩], [], none, if parts.isEmpty then [] else [⟨3, 0, 2, parts, none⟩], 0⟩
def reducing (parts : List (Nat × List Nat)) : State := { ring with colls := [sumColl parts], aclk := 0 }
def part (kind coll : Nat) : WireFlit := wire kind (({ coll := coll, round := 3, contrib := 0, ncontrib := 2, op := 0, fmt := 2, status := 0, offset := 0, count := 2, k := 0 } : ContribDesc).bytes ++ bytesOfNat 8 (10 + 20 * 2 ^ 32))
theorem witness_ReducerResult : Claims.Arrives (reducing [(1, [5, 6])]) 0 (port (reducing [(1, [5, 6])])) (part 8 4) 8 ∧ contribDescOk (flitNum (part 8 4)) = true ∧
    (reducing [(1, [5, 6])]).coll? 4 = some (sumColl [(1, [5, 6])]) ∧ (reducing []).coll? 5 = none ∧ Claims.contribOf (part 8 4) = ⟨4, 3, 0, 2, 0, 2, 0, 0, 2, 0⟩ ∧
    roundAfter ((sumColl [(1, [5, 6])]).n.getD 3) 3 ≤ 1 ∧ (∀ q ∈ Claims.partsSoFar (sumColl [(1, [5, 6])]) (Claims.contribOf (part 8 4)), q.1 ≠ 0) ∧ (∀ k ∈ (sumColl [(1, [5, 6])]).chunks, k.result = none) ∧
    (2 : Nat) < (sumColl [(1, [5, 6])]).count ∧ (∀ x ∈ (sumColl [(1, [5, 6])]).dests, x.count = 0) ∧ 2 * elemBytes 2 ≤ ((part 8 4).payload.drop 32).length ∧
    fclkOf 0 + 2400000000 ≤ fclkOf (2 ^ 60) := ⟨arrivesAt (by decide +kernel), by decide +kernel⟩
/-- A top-k contribution of one pair, without and with a reserved bit; the sum's result for a destination at coordinate 1 that takes all of it. -/
def topPart (v : Nat) : WireFlit := wire 9 (({ coll := 4, round := 3, contrib := 0, ncontrib := 2, op := 3, fmt := 3, status := 0, offset := 0, count := 1, k := 2 } : ContribDesc).bytes ++ bytesOfNat 16 v)
def topColl : Coll := { sumColl [] with op := 3, fmt := 3, k := 2 }
def farColl : Coll := { sumColl [(1, [5, 6])] with dests := [⟨0, 1, 0, 0, 0, 4, 0, 0⟩] }
theorem witness_ReducerClauses : Claims.Arrives (reducing []) 0 (port (reducing [])) (topPart 5) 9 ∧ Claims.Arrives (reducing []) 0 (port (reducing [])) (topPart (2 ^ 40)) 9 ∧ contribDescOk (flitNum (topPart 5)) = true ∧
    reservedBits (Claims.contribOf (topPart 5)) (Claims.contribElems (topPart 5)) = false ∧ reservedBits (Claims.contribOf (topPart (2 ^ 40))) (Claims.contribElems (topPart (2 ^ 40))) = true ∧
    (∃ x ∈ topColl.dests, x.contrib = 0) ∧ topColl.op = 3 ∧ 0 + 1 ≤ topColl.count ∧ (insertPart (0, Claims.contribElems (part 8 4)) [(1, [5, 6])]).length = farColl.ncontrib ∧
    farColl.dests.map (fun x => (x.coord != ring.here, decide (x.off ≤ 0), decide (0 + 2 ≤ x.off + x.count))) = [(true, true, true)] ∧ roundAfter 3 2 = 2 ^ 32 - 1 ∧ roundAfter 3 5 = 2 :=
  ⟨arrivesAt (by decide +kernel), arrivesAt (by decide +kernel), by decide +kernel⟩
/-- 02 R52: i32 sums wrap. -/
theorem test_reduce : combineParts (sumColl []) [[10, 20], [5, 0xFFFFFFFF]] 2 = [15, 19] := by decide +kernel
/-- Opens and closes: a record of 2 contributors, sum over i32 of 4 elements, without a destination range. -/
def control (cc status : Nat) (rest : List (BitVec 8)) : WireFlit := wire 11 (controlWord cc status 4 0 ++ rest)
def openRec : List (BitVec 8) := bytesOfNat 64 (2 + 2 * 2 ^ 20 + 4 * 2 ^ 32)
theorem witness_ReducerControl : (∀ f ∈ [control 0 0 openRec, control 3 0 [], control 4 0 [], control 1 0 []], controlOk (flitNum f) = true) ∧ Claims.Arrives (reducing []) 0 (port (reducing [])) (control 0 0 openRec) 11 ∧
    Claims.Arrives (reducing []) 0 (port (reducing [])) (control 3 0 []) 11 ∧ recordOk 0 (natOfBytes openRec) = true ∧ wordCc (flitNum (control 3 0 [])) = 3 ∧
    (({ reducing [] with colls := [{ sumColl [] with closed := [1] }] } : State).coll? 4).map (fun c => c.dests.all fun x => x.contrib == 0 || c.closed.contains x.contrib) = some true ∧
    ((collOf 4 (natOfBytes openRec) 0).ncontrib, (collOf 4 (natOfBytes openRec) 0).fmt) = (2, 2) :=
  ⟨by decide +kernel, arrivesAt (by decide +kernel), arrivesAt (by decide +kernel), by decide +kernel⟩
/-- A contribution sent and one to be sent; the open record they belong to. -/
def openOne (closing acked : Bool) : Opened := ⟨4, 0, 0, 64, 1, openRec, acked, closing, true, 0, 1⟩
def contribOne (sent : Bool) (sends : Nat) : Contribution := ⟨4, 3, 0, 2, 0, 2, 0, [10, 20], 0, 64, 1, sent, 0, sends⟩
def giving (closing acked sent : Bool) (sends : Nat) : State := { ring with opened := [openOne closing acked], contribs := [contribOne sent sends], aclk := 2 ^ 30 }
theorem witness_ContributorResult : Claims.Arrives (giving false true true 1) 0 (port (giving false true true 1)) (part 10 4) 10 ∧ (giving false true true 1).convs = [] ∧
    (Claims.contribOf (part 10 4)).status = 0 ∧ (contribOne true 1).inFlight = true ∧ Claims.Arrives (giving false false true 1) 0 (port ring) (control 1 0 []) 11 ∧
    Claims.Arrives (giving true true true 1) 0 (port ring) (control 4 0 []) 11 ∧ (openOne false true).dst ≠ ring.here ∧ (contribOne false 0).since ≤ (giving false true false 0).aclk ∧
    (contribOne true 8).since + 72000 ≤ (giving false true true 8).aclk ∧ (openOne false false).since + 72000 ≤ ({ giving false false true 1 with contribs := [] } : State).aclk :=
  ⟨arrivesAt (by decide +kernel), by decide +kernel, by decide +kernel, by decide +kernel, arrivesAt (by decide +kernel), arrivesAt (by decide +kernel), by decide +kernel⟩
/-- A partial tensor of i32 over two devices that converts to a sum, its own part sent; the result of its collective. -/
def partialEnt : Nat := ent 9 0 0x30000 2 1 + 2 ^ 784 + 2 * 2 ^ 786 + 2 ^ 796 + (2 + 3 * 2 ^ 9 + 2 * 2 ^ 32) * 2 ^ 864
def summing : State := withEnt 64 partialEnt { giving false true true 1 with convs := [⟨0, 64, 1, 0, true, [], [], 0⟩], contribs := [] }
def resultFlit : WireFlit := control 2 0 (({ coll := 4, round := 1, contrib := 0, ncontrib := 2, op := 0, fmt := 2, status := 0, offset := 0, count := 2, k := 0 } : ContribDesc).bytes ++ bytesOfNat 8 (10 + 20 * 2 ^ 32))
theorem witness_ResultClause : Claims.Arrives summing 0 (port ring) resultFlit 11 ∧ (let r := contribDesc (natOfBytes ((resultFlit.payload.drop 8).take 32)); decide (r.count * elemBytes r.fmt ≤ (resultFlit.payload.drop 40).length) && !(reservedBits r (elemsOf r.fmt r.count (resultFlit.payload.drop 40)))) = true ∧ controlOk (flitNum resultFlit) = true ∧ wordCc (natOfBytes resultFlit.payload) = 2 ∧
    (contribDesc (natOfBytes ((resultFlit.payload.drop 8).take 32))).coll = 4 ∧ summing.entryOf 0 64 = partialEnt ∧ Entry.invalid partialEnt summing.grid = false ∧ Entry.stepKind partialEnt 1 0 = .reduce ∧
    axKind (Entry.axis partialEnt 0) = 2 ∧ (Entry.generation partialEnt + 1) % 2 ^ 32 = 1 ∧ summing.opened = [openOne false true] ∧ summing.convs.map (fun c => (c.ctx, c.tid, c.sent, c.inputs.length)) = [((openOne false true).ctx, (openOne false true).tid, true, 0)] ∧ bitsOf (natOfBytes openRec) 372 2 = 0 := ⟨arrivesAt (by decide +kernel), by decide +kernel⟩

/-! ### Scheduler, team events, coherence, the step -/

/-- Context 0 with one graph of the given nodes after the header; an instance of it that has reached node 1. -/
def graphOf (ns : List Node) : Graph := ⟨0, 2, 1, 1, 100, 0x10000, 0x10010, false, none, ⟨.join 1, []⟩ :: ns⟩
def runOf (ready : Bool) (next left : Nat) (latched : List Bool) : NodeRun := ⟨1, latched, ready, 3, next, left, 0, 0⟩
def instOf (r : NodeRun) (counts : List (Nat × Nat)) : Inst := ⟨5, 0, 0, 0, 0, 0, true, [r], counts, false, false⟩
def sched (k : NodeKind) (r : NodeRun) (counts : List (Nat × Nat)) : State :=
  { onCtx (fun y => { y with graphs := [graphOf [⟨k, [2, 0xFFFF, 0xFFFF, 0xFFFF]⟩, ⟨.join 1, [0xFFFF, 0xFFFF, 0xFFFF, 0xFFFF]⟩]] }) library with
    insts := [instOf r counts]
    teams := []
    nextId := 9 }
def aJob : NodeKind := .job probeKernel 100 0 [0x10010]
def runA : NodeRun := runOf false 0 0 [true]
theorem witness_SchedulerNodes : (∀ k ∈ [aJob, .cond 0x10010, .while_ 2 0x10010, .join 1, .signal false 0x10008 1, .seal 64 1],
      (sched k runA []).insts = [instOf runA []] ∧ ((sched k runA []).graphOf (instOf runA [])).map (fun g => (g.node 1).kind) = some k ∧ (instOf runA []).runs.find? (fun q => q.node == 1) = some runA ∧
      (sched k runA []).hostWritesDone 0 = true) ∧
    (sched (.cond 0x10010) runA []).condWord 0 0x10010 = .ok 0 ∧ (sched (.cond 0x10010) runA []).condWord 0 0x50000 = .error 0x03 ∧ sparseGet 0 (instOf runA [(1, 1)]).counts 1 = 1 ∧
    (match translate (sched aJob runA []) 0 8 0 0x10008 .store false with | .ok l => l.tagged && (match l.loc 0x10008 with | .mem m => m.pa % 8 == 0 | _ => false) | _ => false) = true ∧
    (sched aJob runA []).mem.poison = [] ∧ (sched aJob runA []).mem.wf = true ∧ (sched aJob runA []).sealing = [] ∧ (sched aJob (runOf true probeKernel.teams 0 [true]) []).demandOf (.node 5 1) = none := by decide +kernel
/-- The SEAL node's tensor, open and sealed. -/
def sealNode (st : Nat) : State := withEnt 64 (placed st (ent 6 0 0x8000 2 2)) (sched (.seal 64 1) runA [])
theorem witness_SealNode : (∀ st ∈ [0, 1], ((sealNode st).validEntry 0 0 64).toOption.map (fun p => (Entry.naxes p.2, Entry.state p.2, (Entry.localMembers p.2 (sealNode st).grid).length)) = some (1, st, 1)) ∧
    (1 : Nat).testBit 1 = false ∧ (1 : Nat).testBit 0 = true := by decide +kernel
/-- A start of the graph waits; an admitted instance is late; a JOB node's team waits for a core. -/
def starting (cls : Nat) : State := { onCtx (fun y => { y with
  critC := 2
  graphs := [{ graphOf [⟨.job { probeKernel with nslices := 1 } 100 0 [], [0xFFFF, 0xFFFF, 0xFFFF, 0xFFFF]⟩] with cls := cls, relDeadline := 2 ^ 31 }] }) library with
  starts := [(0, 0, 7)]
  insts := [] }
def waitingTeam : State := onTeam (fun t => { t with state := .waiting, core := none }) (having id)
theorem witness_SchedulerResult : (∀ c ∈ [0, 2], (starting c).starts = (0, 0, 7) :: [] ∧ ((starting c).ctx? 0).isSome = true ∧ (starting c).insts = []) ∧
    ((starting 0).ctx? 0).bind (fun c => c.graphs.head?.map (starting 0).admits) = some true ∧ ({ sched aJob runA [] with aclk := 2 ^ 40 } : State).now > 100 ∧
    ((Claims.dispatchOrder waitingTeam).map (·.id), waitingTeam.coreFor (team waitingTeam)) = ([0], some ⟨0, 0⟩) ∧ (team waitingTeam).cluster = none ∧ (waitingTeam.team? 0).isSome = true ∧
    (Claims.dispatchOrder (sched aJob (runOf true 0 1 [true]) [])).map (fun t => (t.job, t.linear, ((sched aJob (runOf true 0 1 [true]) []).team? t.id).isNone, t.cluster.isNone)) = [(3, 0, true, true)] ∧
    Claims.dispatchOrder (having id) = [] := by decide +kernel
/-- A JOIN of count 1 reached less often, as often, more often; its successor's words are watched; the last team's job is settled; an admission without room; quadrants that issue and that have issued. -/
def refusing : State := { starting 0 with ctxs := (starting 0).ctxs.map fun c => { c with critC := 0, notifyTerm := true } }
def quad0 : Quad := ⟨⟨⟨0, 0⟩, 0⟩, 0, [], 0, 0⟩
theorem witness_SchedulerLimits : (∀ c ∈ [(0, 0), (1, 1), (2, 2)], sparseGet 0 (instOf runA [(1, c.1)]).counts 1 = c.2) ∧ ((sched (.join 1) runA []).graphOf (instOf runA [])).map (fun g => ((g.node 1).succs, (g.node 2).kind)) = some ([2], .join 1) ∧
    ((sched aJob runA []).watched 0 0x10010).isSome = true ∧ (sched aJob (runOf true probeKernel.teams 0 [true]) []).jobSettled 0 3 = true ∧
    ((sched aJob (runOf true 0 1 [true]) []).takeImage probeKernel).isSome = true ∧
    (refusing.starts = (0, 0, 7) :: [] ∧ (refusing.ctx? 0).bind (fun c => c.graphs.head?.map refusing.admits) = some false ∧ (refusing.ctx? 0).map (·.notifyTerm) = some true ∧ refusing.coh.probes = [] ∧ refusing.remote = [] ∧
      refusing.coh.redfs = [] ∧ refusing.insts = []) ∧
    ((standing 0).quadIds, ((standing 0).newGroup quad0).map (fun u => (u.last, u.group, u.pc))) = ([⟨⟨0, 0⟩, 0⟩], some (0, [me], 4)) ∧
    ({ standing 0 with acted := [⟨⟨0, 0⟩, 0⟩] } : State).restOfGroup (({ standing 0 with acted := [⟨⟨0, 0⟩, 0⟩] } : State).quad ⟨⟨0, 0⟩, 0⟩) = [] ∧
    (let s := onOs (fun o => { o with gaps := [(⟨0, 0⟩, 16)] }) (standing 0); (s.gapped ⟨⟨0, 0⟩, 0⟩, s.restOfGroup (s.quad ⟨⟨0, 0⟩, 0⟩)) = (true, [])) := by decide +kernel
/-- 05 R120, R121: a JOIN that has its count passes to its successor; a launch writes the index registers. -/
theorem test_join : (ran (.jobReady 5 1) (sched (.join 1) runA [(1, 1)])).map (fun s => s.insts.map fun x => x.runs.map (·.node)) = some [[2]] := by decide +kernel
theorem test_dispatch : ((ran .dispatch (sched aJob (runOf true 0 1 [true]) [])).map fun s => s.teams.map fun t => (t.core, t.fibres.map fun f => (f.pc, f.pred, f.reg 2))) = some [(some ⟨0, 0⟩, [(0, 1, 0)])] := by decide +kernel

def timed (g : Team → Team) : State := { onTeam g (having id) with aclk := 2 ^ 40 }
/-- The fibre between clauses, a valid clause at 0. -/
def between : State := (standing 0x06102008).updFibre me fun f => { f with pc := 0, clause := none }
/-- The fibre in an executable page of the host's, between clauses and in one, on its core and on a near core. -/
def abroad (g : Fibre → Fibre) : State := withLeaf 3 (0x10000 + 0x42B) (onCtx (fun y => { y with windows := [⟨1, true, 0, 2, 7, 0x40000, 65536, false, 1⟩] })
  (between.updFibre me fun f => g { f with pc := 0x30000 }))
def onNear (f : Fibre) : Fibre := { f with away := some (.near 0 1 0) }
def asksWord (e : Except Trap α) : Bool := match e with | .error t => t.cause == 0 && t.addr == 0x30000 | .ok _ => false
theorem witness_FetchAbroad : (∀ g ∈ [id, onNear], asksWord (clauseAt (abroad g) 0 (dieOf (team (abroad g)) (fibre (abroad g))) 0x30000) = true ∧ asksWord (fetchWord (abroad g) 0 (dieOf (team (abroad g)) (fibre (abroad g))) 0x30000) = true ∧
      (abroad g).current = some (me, team (abroad g), fibre (abroad g))) ∧ (fibre (abroad id)).nearSlot = none ∧ (fibre (abroad onNear)).nearSlot = some (0, 1, 0) := by decide +kernel
theorem witness_TeamEventResult : between.current = some (me, team between, fibre between) ∧ (fibre between).clause = none ∧ (fibre between).entering = none ∧ (fibre between).faults = [] ∧ (team between).interruptDue = none ∧
    (clauseAt between 0 (dieOf (team between) (fibre between)) 0).toOption.map Option.isSome = some true ∧ (clauseAt between 0 (dieOf (team between) (fibre between)) 0x3000).toOption = some none ∧
    (clauseAt between 0 (dieOf (team between) (fibre between)) 0x50000).toOption = none ∧ (fibre between).cf.all (· == 0) = true := by decide +kernel
theorem witness_BudgetEvents : Claims.FirstTeam (timed id) (team (timed id)) (fun y => y.resident = true ∧ y.budgetOut = none ∧ y.budgetLeft (timed id).aclk = 0) ∧ ((timed id).ctx? 0).map (·.trapHandler) = some 0 ∧ (team (timed id)).cluster = none ∧
    (∀ st ∈ [TeamState.running, .preemptPending], (team (timed fun t => { t with state := st })).state = st ∧ (team (timed fun t => { t with state := st })).resident = true) ∧
    Claims.FirstTeam (timed fun t => { t with budgetOut := some 0 }) (team (timed fun t => { t with budgetOut := some 0 })) (fun y => y.state = .running ∧ ∃ a, y.budgetOut = some a ∧ a + 36000 ≤ 2 ^ 40) ∧
    Claims.FirstTeam (timed fun t => { t with state := .preemptPending, preempt := some 0 }) (team (timed fun t => { t with state := .preemptPending, preempt := some 0 }))
      (fun y => y.state = .preemptPending ∧ ∃ a, y.preempt = some a ∧ a + 36000 ≤ 2 ^ 40) :=
  ⟨firstTeam (by decide +kernel) (by decide +kernel), by decide +kernel, by decide +kernel, by decide +kernel, firstTeam (by decide +kernel) ⟨by decide +kernel, 0, by decide +kernel, by decide⟩,
   firstTeam (by decide +kernel) ⟨by decide +kernel, 0, by decide +kernel, by decide⟩⟩
theorem witness_SaveEvents : (∀ st ∈ [TeamState.saving, .discarding], (timed fun t => { t with state := st }).teams = [team (timed fun t => { t with state := st })] ∧ (team (timed fun t => { t with state := st })).state = st ∧
      (timed fun t => { t with state := st }).drained (team (timed fun t => { t with state := st })) = true ∧ 0 < (timed fun t => { t with state := st }).nextId) ∧
    (team (timed fun t => { t with state := .restoring })).redirect = [] ∧ (team (timed fun t => { t with state := .saved, redirect := [.write 64 ([1, 2].map some) [] true] })).redirect = .write 64 ([1, 2].map some) [] true :: [] ∧
    sparseWf 0 (team (timed fun t => { t with state := .saved })).scratch = true := by decide +kernel
def aDeposit : Deposit := ⟨0, 0x40, 1, [9, 8, 7, 6]⟩
def binned : State := timed fun t => { t with bins := [⟨0x40, 1, 0, [aDeposit]⟩], reorder := [aDeposit], fibres := t.fibres.map fun f => { f with status := .inBin } }
def lonely : State := timed fun t => { t with kernel := { t.kernel with fibresM1 := 1 }, fibres := t.fibres.map fun f => { f with status := .rendezvous 4 3 0 } }
def signedLate : State := timed fun t => { t with cv := (List.replicate 8 Conv.idle).set 0 ⟨some 2, [0], [], [], 4, 0⟩, fibres := t.fibres.map fun f => { f with status := .signed 0 } }
/-- A barrier of time-out 1 with a fibre blocked at it, its timer started at 0. -/
def barred : State := { timed fun t => { t with scratch := [(32, 2), (34, 1), (36, 1), (44, 1)], fibres := t.fibres.map fun f => { f with status := .bwait (.scr 0 32) false } } with bars := [⟨.scr 0 32, some 0, false, false, []⟩] }
theorem witness_TimerEvents : Claims.FirstTeam binned (team binned) (fun y => y.resident = true ∧ ∃ b ∈ y.bins, b.since + y.kernel.binTimerM1 + 1 ≤ y.residentTime binned.aclk) ∧
    Claims.FirstTeam binned (team binned) (fun y => y.resident = true ∧ y.reorder ≠ [] ∧ y.reorderSince + y.kernel.binTimerM1 + 1 ≤ y.residentTime binned.aclk) ∧ ((team binned).fibre? aDeposit.fibre).isSome = true ∧
    Claims.FirstTeam lonely (team lonely) (fun y => (y.rendezvousDue (lonely.rdvTimeout y.ctx) lonely.aclk).isSome = true) ∧ (fibre lonely).held = none ∧ (team lonely).rendezvousDue (lonely.rdvTimeout 0) lonely.aclk = some (0, 4, 3) ∧
    Claims.FirstTeam signedLate (team signedLate) (fun y => (y.convDue (signedLate.rdvTimeout y.ctx) signedLate.aclk).isSome = true) ∧ (team signedLate).convDue (signedLate.rdvTimeout 0) signedLate.aclk = some 0 ∧ ((team signedLate).conv 0).signers = [0] ∧
    (barred.bars.find? (fun b => barred.barDue b)).isSome = true ∧ barred.blockedAt (.scr 0 32) (barPhase (barred.barAt (.scr 0 32))) = [me] :=
  ⟨firstTeam (by decide +kernel) (by decide +kernel), firstTeam (by decide +kernel) (by decide +kernel), by decide +kernel, firstTeam (by decide +kernel) (by decide +kernel), by decide +kernel, by decide +kernel,
   firstTeam (by decide +kernel) (by decide +kernel), by decide +kernel⟩
theorem witness_TeamEventLimits : (∀ y ∈ [timed fun t => { t with state := .restoring, keepSlice := true, budgetEnd := 2 ^ 50 }, timed fun t => { t with state := .restoring, keepSlice := false }],
      y.team? 0 = some (team y) ∧ (team y).state = .restoring ∧ (team y).core.all (fun c => y.probesToward c.die == false) = true ∧ (team y).redirect = []) ∧
    (team (timed fun t => { t with state := .restoring, keepSlice := true, budgetEnd := 2 ^ 50 })).budgetLeft (2 ^ 40) ≠ 0 ∧ (team (timed id)).fibres.countP (fun y => y.idx == 0) = 1 ∧
    (timed fun t => { t with image := (1, 1) }).mem.wf = true ∧ 0 < (team (timed fun t => { t with image := (1, 1) })).image.2 ∧ (timed fun t => { t with state := .saving }).bars = [] ∧
    ((team lonely).fibres.all fun y => y.heldAt.isNone) = true ∧ (timed fun t => { t with state := .saving, image := (1, 1) }).mem.wf = true ∧
    ((team (timed fun t => { t with state := .saving, image := (0, 64) })).imageCells (2 ^ 40)).all (fun c => c.1 < 64 * 65536) = true := by decide +kernel
/-- 06 R130, R131: the timer starts the fibres of the bin with their payloads; R140: a saved team's redirect entry. -/
theorem test_bin_timer : ((ran .binTimerExpiry binned).map fun s => ((fibre s).status, (fibre s).pc, (fibre s).reg 0, (fibre s).reg 3)) = some (.ready, 0x40, 9, 6) := by decide +kernel
theorem test_save : ((ran .saveComplete (timed fun t => { t with state := .saving })).map fun s => ((team s).state, (team s).core)) = some (.saved, none) := by decide +kernel

def probe0 (answered : Bool) : Probe := ⟨3, 1, answered, true, .other, 0⟩
def stale0 (st : Bool) : Fill := ⟨1, 3, List.replicate 16 (0, false), 0, 0, 0, st⟩
def withCoh (g : Coherence → Coherence) : State := { having id with coh := g (having id).coh, aclk := 2 ^ 40 }
def redf0 : PendingRedf := ⟨word0, 0, 0, 5, me, 0⟩
theorem witness_CoherenceResult : (∀ b ∈ [false, true], (withCoh fun c => { c with probes := [probe0 b] }).coh.probes = [] ++ probe0 b :: []) ∧ (withCoh id).os.fills = [] ∧
    (∀ b ∈ [false, true], (withCoh fun c => { c with fills := [stale0 b] }).coh.fills = [] ++ stale0 b :: []) ∧ (withCoh id).coh.windowEnd + 65536 ≤ fclkOf (withCoh id).aclk ∧
    fclkOf (having id).aclk < (having id).coh.windowEnd + 65536 ∧ (withCoh fun c => { c with redfs := [redf0] }).coh.redfs = [] ++ redf0 :: [] ∧ (withCoh id).owned = [] ∧ wordOf redf0.m.pa ∉ (withCoh id).mem.poison ∧
    (having id).aclk % 14400 < 3240 ∧ (having id).coh.refreshing = [] ∧ (0 : Nat) + 3240 ≤ (withCoh fun c => { c with refreshing := [(0, 0)] }).aclk ∧ 3240 ≤ (3240 : Nat) % 14400 ∧
    (∀ g ∈ [(⟨0, 3, 0, false, 16, 3, 0, 0, 0⟩ : Region), ⟨0, 3, 4, false, 16, 3, 0, 0, 0⟩], g.writes = 0 ∧ 2 ≤ maskCount g.readers ∧ 16 ≤ g.reads) := by decide +kernel
theorem witness_CoherenceLimits : excessHolders ((withCoh id).region (regionOf 3)) = [] ∧ (withCoh id).holdsRegion 1 (regionOf 3) = false ∧ (withCoh id).coh.fills = [] ∧ ((withCoh id).coh.cuttings).all (fun c => !(c.die == 1 && c.line == 3)) = true ∧
    (redf0.ftype = 0 ∧ redf0.op = 0) ∧ wordOf redf0.m.pa ∈ ({ withCoh id with mem := { (withCoh id).mem with poison := [wordOf redf0.m.pa] } } : State).mem.poison ∧
    (withCoh fun c => { c with redfs := [redf0] }).owned.all (fun o => o.1 != lineOf redf0.m.pa) = true ∧ (redf0.m.pa = 0x11000) := by decide +kernel
/-- 08 Table 8.4: a REDF add at the home; R176: a busy region gains a degree. -/
theorem test_redf : memAt 0x11000 4 (ran .redfPerform (put64 0x11000 7 (withCoh fun c => { c with redfs := [redf0] }))) = some 12 := by decide +kernel
theorem test_region : (Region.endWindow ⟨0, 3, 0, false, 16, 3, 0, 0, 0⟩).degree = 1 := by decide +kernel

theorem witness_DecodeEncode : (Instr.mma 3 10 11 1 0 0 5 6 2 7 0).wf = true ∧ encode (Instr.mma 3 10 11 1 0 0 5 6 2 7 0) ≠ [] ∧ (Instr.hopHome).wf = true ∧ encode Instr.hopHome ≠ [] := by decide +kernel
/-- An instruction in a clause, one that a predicate span leaves out, a word that decodes to nothing, a fibre between clauses, a device step, an empty agenda. -/
def spanned : State := (standing 0x06102008).updFibre me fun f => { f with clause := some ⟨0, probeHeader 1, 0, 1, false, none⟩ }
theorem witness_StepRunsDecoded : (∀ s ∈ [standing 0x06102008, standing 0, spanned, between], s.agenda = .fibre me :: [] ∧ ({ s with agenda := [], cur := some me } : State).current = some (me, team s, fibre s) ∧
      (fibre s).entering = none ∧ mayIssue (team s) (fibre s) = true ∧ (fibre s).blocked = false ∧ (fibre s).status = .ready ∧ s.hasFetched me = false) ∧
    (fetchWord (standing 0x06102008) 0 (dieOf (team (standing 0x06102008)) (fibre (standing 0x06102008))) 4).toOption = some 0x06102008 ∧ (decodeWords [0x06102008]).toOption = some (.addi 4 4 8, []) ∧ lengthOf 0x06102008 = 0 + 1 ∧
    (decodeWords [0]).toOption = none ∧ (fibre spanned).clause.map (fun c => (c.span, c.spanOn)) = some (1, false) ∧ topReg (.addi 4 4 8) < windowOf (team spanned) (fibre spanned) ∧ neverLegal (.addi 4 4 8) = false ∧
    ({ standing 0 with agenda := [.event .sealComplete] } : State).agenda = .event .sealComplete :: [] ∧ State.reset.agenda = [] := by decide +kernel
/-- A wait that an atomic clause is left at, the wire's turn, the cycle when nothing is ready. -/
theorem witness_StepLimits : waitsOutside .exitF = true ∧ waitsOutside (.addi 4 4 8) = false ∧ hdrAtomic (probeHeader 1) = false ∧
    ({ State.reset with agenda := [.outside (.wire 0 [] false)] } : State).agenda = .outside (.wire 0 [] false) :: [] ∧ (standing 0).cycle.quads = (standing 0).quads.map (fun (q : Quad) => { q with group := (standing 0).restOfGroup q }) := by decide +kernel
theorem witness_StepKeepsMemoryForm : (standing 0x06102008).mem.wf = true ∧ (stepped (standing 0x06102008)).isSome = true := by decide +kernel

end Sys2Proof.Tests
end

section
/-! SUPPORT. A memory in its canonical form, in everything that a function of the model can answer; and folds over states. -/

namespace Sys2Proof.Machine

/-- What stops a fibre leaves a memory in its form, where it carries a state. -/
def Stop.MemWf : Stop → Prop
  | .trap _ => True
  | .took _ s => s.mem.wf = true
  | .hold s => s.mem.wf = true
  | .stuck _ => True

/-- An answer that is as `p` says, or a stop that leaves a memory in its form. -/
def AnswerWf {α : Type} (p : α → Prop) : Except Stop α → Prop
  | .ok a => p a
  | .error e => e.MemWf

/-- An instruction's meaning leaves a memory in its form, whichever way it comes out. -/
def ActWf (a : Act) : Prop := AnswerWf (fun s => s.mem.wf = true) a

/-- An outcome with a next state has a memory in its form. -/
def OutcomeWf : Host.Outcome State Fault Refusal → Prop
  | .next s => s.mem.wf = true
  | .fault _ => True
  | .refused _ => True

@[simp] theorem Stop.MemWf_trap {t : Trap} : (Stop.trap t).MemWf := trivial

@[simp] theorem Stop.MemWf_took {t : Trap} {s : State} : (Stop.took t s).MemWf ↔ s.mem.wf = true := Iff.rfl

@[simp] theorem Stop.MemWf_hold {s : State} : (Stop.hold s).MemWf ↔ s.mem.wf = true := Iff.rfl

@[simp] theorem AnswerWf_ok {α : Type} {p : α → Prop} {a : α} : AnswerWf p (.ok a) ↔ p a := Iff.rfl

@[simp] theorem AnswerWf_error {α : Type} {p : α → Prop} {e : Stop} : AnswerWf p (.error e) ↔ e.MemWf := Iff.rfl

@[simp] theorem ActWf_ok {s : State} : ActWf (.ok s) ↔ s.mem.wf = true := Iff.rfl

@[simp] theorem ActWf_error {e : Stop} : ActWf (.error e) ↔ e.MemWf := Iff.rfl

@[simp] theorem ActWf_wait {s : State} : ActWf (wait s) ↔ s.mem.wf = true := Iff.rfl

@[simp] theorem OutcomeWf_device {s : State} : OutcomeWf (device s) ↔ s.mem.wf = true := Iff.rfl

theorem ActWf.of_error {a : Act} {e : Stop} (ha : ActWf a) (he : a = .error e) : e.MemWf := by simpa [he] using ha

theorem ActWf.of_ok {a : Act} {s : State} (ha : ActWf a) (he : a = .ok s) : s.mem.wf = true := by simpa [he] using ha

@[simp] theorem OutcomeWf_next {s : State} : OutcomeWf (.next s) ↔ s.mem.wf = true := Iff.rfl

@[simp] theorem OutcomeWf_fault {e : Fault} : OutcomeWf (.fault e) := trivial

@[simp] theorem foldl_mem {α : Type} {g : State → α → State} (hg : ∀ s a, (g s a).mem = s.mem) (l : List α) (s : State) :
    (l.foldl g s).mem = s.mem :=
  List.foldlRecOn (motive := fun u => u.mem = s.mem) l g rfl fun u hu a _ => (hg u a).trans hu

@[simp] theorem foldl_wf {α : Type} {g : State → α → State} (hg : ∀ s a, s.mem.wf = true → (g s a).mem.wf = true) {l : List α}
    {s : State} (h : s.mem.wf = true) : (l.foldl g s).mem.wf = true :=
  List.foldlRecOn (motive := fun u => u.mem.wf = true) l g h fun u hu a _ => hg u a hu

theorem foldl_fst_mem {α β : Type} {g : State × β → α → State × β} (hg : ∀ p a, (g p a).1.mem = p.1.mem) (l : List α)
    (p : State × β) : (l.foldl g p).1.mem = p.1.mem :=
  List.foldlRecOn (motive := fun u => u.1.mem = p.1.mem) l g rfl fun u hu a _ => (hg u a).trans hu

theorem foldl_fst_wf {α β : Type} {g : State × β → α → State × β} (hg : ∀ p a, p.1.mem.wf = true → (g p a).1.mem.wf = true)
    {l : List α} {p : State × β} (h : p.1.mem.wf = true) : (l.foldl g p).1.mem.wf = true :=
  List.foldlRecOn (motive := fun u => u.1.mem.wf = true) l g h fun u hu a _ => hg u a hu

theorem foldl_snd_mem {α β : Type} {g : β × State → α → β × State} (hg : ∀ p a, (g p a).2.mem = p.2.mem) (l : List α)
    (p : β × State) : (l.foldl g p).2.mem = p.2.mem :=
  List.foldlRecOn (motive := fun u => u.2.mem = p.2.mem) l g rfl fun u hu a _ => (hg u a).trans hu

theorem foldl_snd_wf {α β : Type} {g : β × State → α → β × State} (hg : ∀ p a, p.2.mem.wf = true → (g p a).2.mem.wf = true)
    {l : List α} {p : β × State} (h : p.2.mem.wf = true) : (l.foldl g p).2.mem.wf = true :=
  List.foldlRecOn (motive := fun u => u.2.mem.wf = true) l g h fun u hu a _ => hg u a hu

/-- A state, where there is one, has a memory in its form. -/
def OptionWf (o : Option State) : Prop := ∀ u, o = some u → u.mem.wf = true

@[simp] theorem OptionWf_none : OptionWf none := fun _ e => nomatch e

@[simp] theorem OptionWf_some {s : State} : OptionWf (some s) ↔ s.mem.wf = true :=
  ⟨fun h => h s rfl, fun h _ e => Option.some.inj e ▸ h⟩

theorem OptionWf.getD {o : Option State} {s : State} (ho : OptionWf o) (h : s.mem.wf = true) : (o.getD s).mem.wf = true := by
  cases o with
  | none => exact h
  | some u => exact ho u rfl

theorem OptionWf.map {o : Option State} {g : State → State} (ho : OptionWf o) (hg : ∀ s, s.mem.wf = true → (g s).mem.wf = true) :
    OptionWf (o.map g) := by
  cases o with
  | none => exact OptionWf_none
  | some u => exact OptionWf_some.mpr (hg u (ho u rfl))

theorem OptionWf.bind {o : Option State} {g : State → Option State} (ho : OptionWf o)
    (hg : ∀ s, s.mem.wf = true → OptionWf (g s)) : OptionWf (o.bind g) := by
  cases o with
  | none => exact OptionWf_none
  | some u => exact hg u (ho u rfl)

theorem OptionWf.findSome {α : Type} {g : α → Option State} (hg : ∀ a, OptionWf (g a)) (l : List α) : OptionWf (l.findSome? g) := by
  intro u hu
  obtain ⟨a, -, ha⟩ := List.exists_of_findSome?_eq_some hu
  exact hg a u ha

theorem OptionWf.foldl {α : Type} {g : Option State → α → Option State} (hg : ∀ o a, OptionWf o → OptionWf (g o a)) {l : List α}
    {o : Option State} (ho : OptionWf o) : OptionWf (l.foldl g o) :=
  List.foldlRecOn (motive := OptionWf) l g ho fun o ho a _ => hg o a ho

/-- Looking a value up and going on from it: a state in the form where one comes of it. -/
theorem OptionWf.bind_of {α : Type} {o : Option α} {g : α → Option State} (hg : ∀ a, OptionWf (g a)) : OptionWf (o.bind g) := by
  cases o with
  | none => exact OptionWf_none
  | some a => exact hg a

theorem OptionWf.map_of {α : Type} {o : Option α} {g : α → State} (hg : ∀ a, o = some a → (g a).mem.wf = true) :
    OptionWf (o.map g) := by
  cases o with
  | none => exact OptionWf_none
  | some a => exact OptionWf_some.mpr (hg a rfl)

end Sys2Proof.Machine
end

section
/-! SUPPORT. What the shared operations of the model do to the memory: most leave it as it is (`_mem`), the others keep its form (`_wf`). -/

namespace Sys2Proof.Machine

/-! ### `Machine/Base.lean`: Oseus, collectives and fresh numbers -/

@[simp] theorem State.updOs_mem (s : State) (f : Oseus → Oseus) : (s.updOs f).mem = s.mem := by simp [State.updOs]

@[simp] theorem State.closeCollectives_mem (s : State) (gone : Opened → Bool) : (s.closeCollectives gone).mem = s.mem := by
  simp [State.closeCollectives]

@[simp] theorem State.fresh_mem (s : State) : s.fresh.2.mem = s.mem := by simp [State.fresh]

/-! ### `Machine/Home.lean`: the homes of memory words; here memory changes, by `Memory.write` and `State.setTag` -/

@[simp] theorem State.poisonUsed_mem (s : State) (die : Nat) : (s.poisonUsed die).mem = s.mem := by simp [State.poisonUsed]

@[simp] theorem State.putRegion_mem (s : State) (r : Region) : (s.putRegion r).mem = s.mem := by simp [State.putRegion]

@[simp] theorem State.sendProbes_mem (s : State) (line : Nat) (w : Writer) (ctx : Nat) : (s.sendProbes line w ctx).mem = s.mem := by
  simp [State.sendProbes]

@[simp] theorem State.collapseExcess_mem (s : State) (region : Nat) (w : Writer) (ctx : Nat) :
    (s.collapseExcess region w ctx).mem = s.mem := by simp [State.collapseExcess]

@[simp] theorem State.directoryWrite_mem (s : State) (line : Nat) (w : Writer) (atomic : Bool) (ctx : Nat) :
    (s.directoryWrite line w atomic ctx).mem = s.mem := by simp [State.directoryWrite, apply_ite State.mem]

@[simp] theorem State.dropCutting_mem (s : State) (die line : Nat) : (s.dropCutting die line).mem = s.mem := by
  simp [State.dropCutting]

@[simp] theorem State.recall_mem (s : State) (ws : List Nat) : (s.recall ws).mem = s.mem := by simp [State.recall]

@[simp] theorem State.register_mem (s : State) (ws : List Nat) (c : CoreId) : (s.register ws c).mem = s.mem := by
  simp [State.register]

@[simp] theorem State.dropLine_mem (s : State) (c : CoreId) (line : Nat) : (s.dropLine c line).mem = s.mem := by
  simp [State.dropLine]

@[simp] theorem State.refreshL1_mem (s : State) (c : CoreId) (line : Nat) (ws : List Nat) :
    (s.refreshL1 c line ws).mem = s.mem := by
  simp [State.refreshL1]

@[simp] theorem State.ownCopy_mem (s : State) (c : CoreId) (line : Nat) (ws : List Nat) : (s.ownCopy c line ws).mem = s.mem := by
  simp [State.ownCopy, apply_ite State.mem]

@[simp] theorem State.writeHome_wf {s : State} {m : MemLoc} {bytes : List (Option Byte)} {w : Writer} {ctx : Nat} {o : Origin}
    (h : s.mem.wf = true) : (s.writeHome m bytes w ctx o).mem.wf = true := by
  unfold State.writeHome
  (repeat' split) <;> simp [h, Memory.write_wf]

@[simp] theorem State.collapseNow_mem (s : State) (line ctx : Nat) : (s.collapseNow line ctx).mem = s.mem := by
  simp -implicitDefEqProofs [State.collapseNow]

@[simp] theorem State.recallLine_mem (s : State) (line : Nat) : (s.recallLine line).mem = s.mem := by simp [State.recallLine]

@[simp] theorem State.modifyHome_wf {s : State} {m : MemLoc} {bytes : List (Option Byte)} {w : Writer} {ctx : Nat}
    {core : Option CoreId} (h : s.mem.wf = true) : (s.modifyHome m bytes w ctx core).mem.wf = true := by
  unfold State.modifyHome
  split <;> simp [h, Memory.write_wf]

@[simp] theorem State.remoteRead_mem (s : State) (die : Nat) (m : MemLoc) (ctx : Nat) : (s.remoteRead die m ctx).mem = s.mem := by
  simp [State.remoteRead, apply_ite State.mem]

@[simp] theorem State.readHome_mem (s : State) (die : Nat) (m : MemLoc) (ctx : Nat) : (s.readHome die m ctx).2.mem = s.mem := by
  simp [State.readHome, apply_ite State.mem]

@[simp] theorem State.readSlices_mem (s : State) (die : Nat) (m : MemLoc) (ctx : Nat) : (s.readSlices die m ctx).2.mem = s.mem := by
  unfold State.readSlices
  split <;> simp

@[simp] theorem State.installL1_mem (s : State) (c : CoreId) (line : Nat) (d : LineData) : (s.installL1 c line d).mem = s.mem := by
  simp [State.installL1]

@[simp] theorem State.evictL1_mem (s : State) (c : CoreId) (line : Nat) : (s.evictL1 c line).mem = s.mem := by
  simp [State.evictL1]

@[simp] theorem State.renewWord_mem (s : State) (c : CoreId) (line i : Nat) (v : Dword × Bool) :
    (s.renewWord c line i v).mem = s.mem := by simp [State.renewWord]

@[simp] theorem State.serveWord_mem (s : State) (core : Option CoreId) (die : Nat) (m : MemLoc) (ctx : Nat) (st : Strength) :
    (s.serveWord core die m ctx st).2.mem = s.mem := by
  unfold State.serveWord
  dsimp only
  (repeat' split) <;> simp

@[simp] theorem State.acquireL1_mem (s : State) (c : CoreId) (range : Option (Nat → Bool)) : (s.acquireL1 c range).mem = s.mem := by
  simp [State.acquireL1]

@[simp] theorem State.acquireFor_mem (s : State) (r : FibreRef) (st : Strength) : (s.acquireFor r st).mem = s.mem := by
  unfold State.acquireFor
  (repeat' split) <;> rfl

@[simp] theorem serveWaiter_mem (v : Dword) (w : Waiter) (s : State) : (serveWaiter v w s).mem = s.mem := by
  unfold serveWaiter
  dsimp only
  (repeat' split) <;> simp

@[simp] theorem poisonWaiter_mem (w : Waiter) (s : State) : (poisonWaiter w s).mem = s.mem := by simp [poisonWaiter]

@[simp] theorem latchDeps_mem (s : State) (w : Nat) : (latchDeps s w).mem = s.mem := by simp [latchDeps]

@[simp] theorem State.noteFill_mem (s : State) (w : Nat) : (s.noteFill w).mem = s.mem := by simp [State.noteFill]

@[simp] theorem State.observeFull_wf {s : State} {w : Nat} (h : s.mem.wf = true) : (s.observeFull w).mem.wf = true := by
  unfold State.observeFull
  dsimp only
  split <;> simp [h, Memory.tag_wf]

@[simp] theorem State.leaveWord_mem (s : State) (gone : Waiter → Bool) : (s.leaveWord gone).mem = s.mem := by
  simp [State.leaveWord]

@[simp] theorem serveAll_mem (v : Dword × Bool) (ws : List Waiter) (s : State) : (serveAll v ws s).mem = s.mem := by
  simp [serveAll, apply_ite State.mem]

@[simp] theorem State.fullTransition_wf {s : State} {w : Nat} (h : s.mem.wf = true) : (s.fullTransition w).mem.wf = true := by
  unfold State.fullTransition
  dsimp only
  (repeat' split) <;> simp [h, Memory.tag_wf]

@[simp] theorem State.fillAt_wf {s : State} {m : MemLoc} {v : Option Dword} {w : Writer} {ctx : Nat} {core : Option CoreId}
    (h : s.mem.wf = true) : (s.fillAt m v w ctx core).mem.wf = true := by
  unfold State.fillAt
  cases v <;> dsimp only <;> split
  · exact h
  · exact State.fullTransition_wf (State.setTag_wf h)
  · exact State.modifyHome_wf h
  · exact State.fullTransition_wf (State.setTag_wf (State.modifyHome_wf h))

@[simp] theorem State.countdownAt_wf {s : State} {m : MemLoc} {n : Dword} {w : Writer} {ctx die : Nat} {core : Option CoreId}
    (h : s.mem.wf = true) : (s.countdownAt m n w ctx die core).mem.wf = true := by
  unfold State.countdownAt
  dsimp only
  split
  · exact h
  · split
    · exact State.fullTransition_wf (State.setTag_wf (State.modifyHome_wf h))
    · exact State.modifyHome_wf h

/-! ### `Machine/Ops.lean`: records, reports, handlers and traps, and the frame `isa` of every instruction -/

@[simp] theorem State.pushEvent_mem (s : State) (code ctx : Nat) (word : Dword) : (s.pushEvent code ctx word).mem = s.mem := by
  simp [State.pushEvent, apply_ite State.mem]

@[simp] theorem State.send_mem (s : State) (host : Bool) (ctx window off : Nat) (k : RemoteKind) (who : RemoteWho) :
    (s.send host ctx window off k who).mem = s.mem := by simp [State.send]

@[simp] theorem State.deviceWrite_wf {s : State} {ctx va : Nat} {bytes : List Byte} (h : s.mem.wf = true) :
    (s.deviceWrite ctx va bytes).mem.wf = true := by
  unfold State.deviceWrite
  (repeat' split) <;> simp [h]

@[simp] theorem State.deviceDwords_wf {s : State} {ctx va : Nat} {vs : List Dword} (h : s.mem.wf = true) :
    (s.deviceDwords ctx va vs).mem.wf = true := by
  induction vs generalizing s va with
  | nil => exact h
  | cons v vs ih => exact ih (State.deviceWrite_wf h)

@[simp] theorem State.writeFaultWord_wf {s : State} {ctx va : Nat} {v : Dword} (h : s.mem.wf = true) :
    (s.writeFaultWord ctx va v).mem.wf = true := by
  unfold State.writeFaultWord
  (repeat' split) <;> simp [h]

@[simp] theorem State.giveReport_wf {s : State} {p : Report} (h : s.mem.wf = true) : (s.giveReport p).mem.wf = true := by
  unfold State.giveReport
  split <;> simp [h]

@[simp] theorem State.report_wf {s : State} {ctx va : Nat} {v : Dword} {event : Bool} (h : s.mem.wf = true) :
    (s.report ctx va v event).mem.wf = true := by
  unfold State.report
  dsimp only
  split <;> simp [h]

@[simp] theorem State.settleReport_wf {s : State} (h : s.mem.wf = true) : s.settleReport.mem.wf = true := by
  unfold State.settleReport
  split <;> simp [h]

@[simp] theorem State.dropRecordLines_mem (s : State) (ctx a : Nat) (core : Option CoreId) :
    (s.dropRecordLines ctx a core).mem = s.mem := by
  unfold State.dropRecordLines
  (repeat' split) <;> rfl

@[simp] theorem State.countCause_mem (s : State) (cause die : Nat) : (s.countCause cause die).mem = s.mem := by
  simp [State.countCause, apply_ite State.mem]

@[simp] theorem State.writeRecord_wf {s : State} {ctx : Nat} {t : Option Team} {f : Option Fibre} {i : RecordInfo}
    (h : s.mem.wf = true) : (s.writeRecord ctx t f i).2.2.mem.wf = true := by
  unfold State.writeRecord
  split <;> simp [h]

@[simp] theorem State.dropPermitWait_mem (s : State) (w : PermitWait) : (s.dropPermitWait w).mem = s.mem := by
  simp [State.dropPermitWait]

@[simp] theorem State.endPermitWaits_mem (s : State) (p : FibreRef → Bool) : (s.endPermitWaits p).mem = s.mem := by
  simp [State.endPermitWaits]

@[simp] theorem State.forgetFibres_mem (s : State) (gone : Nat → Bool) : (s.forgetFibres gone).mem = s.mem := by
  simp [State.forgetFibres]

@[simp] theorem State.breakChannels_mem (s : State) (gone : Nat → Bool) : (s.breakChannels gone).mem = s.mem := by
  simp [State.breakChannels]

@[simp] theorem State.dropCommands_mem (s : State) (gone : Nat → Bool) : (s.dropCommands gone).mem = s.mem := by
  simp [State.dropCommands]

@[simp] theorem State.closeInstances_mem (s : State) : s.closeInstances.mem = s.mem := by simp [State.closeInstances]

@[simp] theorem State.reportTermination_wf {s : State} {ctx va kind cause recSeq : Nat} (h : s.mem.wf = true) :
    (s.reportTermination ctx va kind cause recSeq).mem.wf = true := by simp [State.reportTermination, h]

@[simp] theorem State.freeImages_mem (s : State) (gone : Nat → Bool) : (s.freeImages gone).mem = s.mem := by
  simp [State.freeImages]

@[simp] theorem State.stopJob_mem (s : State) (job ctx : Nat) : (s.stopJob job ctx).mem = s.mem := by simp [State.stopJob]

@[simp] theorem State.terminateJob_wf {s : State} {job ctx faultKind : Nat} {t : Option Team} {f : Option Fibre}
    {i : RecordInfo} (h : s.mem.wf = true) : (s.terminateJob job ctx faultKind t f i).mem.wf = true := by
  simp [State.terminateJob, h]

@[simp] theorem State.trapInHandler_wf {s : State} {r : FibreRef} {t : Trap} {noHandler : Bool} (h : s.mem.wf = true) :
    (s.trapInHandler r t noHandler).mem.wf = true := by
  unfold State.trapInHandler
  (repeat' split) <;> simp [h]

/-- What an entry can do: nothing, a trap in the handler's place, or the entry itself, counted, which changes the fibre. -/
theorem State.enterHandler_cases {P : State → Prop} {s : State} {r : FibreRef} (same : P s)
    (trapped : ∀ t here, P (s.trapInHandler r t here)) (entered : ∀ c e n g, P ((s.count c e n).updFibre r g)) :
    P (s.enterHandler r) := by
  rw [State.enterHandler]
  split
  · exact same
  · split
    · split
      · exact same
      · refine iteInduction (fun _ => trapped ..) fun _ => iteInduction (fun _ => trapped ..) fun _ => ?_
        cases handlerUsable _ _ _ _ with
        | some t => exact trapped ..
        | none =>
          cases framePlaces _ _ _ _ _ with
          | error t => exact trapped ..
          | ok ls => exact entered ..
    · exact same

@[simp] theorem State.enterHandler_wf {s : State} {r : FibreRef} (h : s.mem.wf = true) : (s.enterHandler r).mem.wf = true :=
  State.enterHandler_cases (P := fun s => s.mem.wf = true) h (fun _ _ => State.trapInHandler_wf h) fun _ _ _ _ => h

@[simp] theorem State.leaveSlot_mem (s : State) (r : FibreRef) : (s.leaveSlot r).mem = s.mem := by
  unfold State.leaveSlot
  split <;> rfl

@[simp] theorem State.tryEnter_wf {s : State} {r : FibreRef} (h : s.mem.wf = true) : (s.tryEnter r).mem.wf = true := by
  unfold State.tryEnter
  (repeat' split) <;> simp [h]

@[simp] theorem State.beginEntry_wf {s : State} {r : FibreRef} {e : TrapEntry} (h : s.mem.wf = true) :
    (s.beginEntry r e).mem.wf = true := by simp [State.beginEntry, h]

@[simp] theorem State.trapAt_wf {s : State} {r : FibreRef} {t : Trap} {list : List ListEntry} {more : Nat} (h : s.mem.wf = true) :
    (s.trapAt r t list more).mem.wf = true := by
  unfold State.trapAt
  dsimp only
  (repeat' split) <;> simp [h]

@[simp] theorem State.raiseAt_wf {s : State} {r : FibreRef} {t : Trap} {list : List ListEntry} {more : Nat}
    (h : s.mem.wf = true) : (s.raiseAt r t list more).mem.wf = true := by
  unfold State.raiseAt
  split <;> simp [h]

@[simp] theorem State.setOverflow_wf {s : State} {ctx rec : Nat} (h : s.mem.wf = true) : (s.setOverflow ctx rec).mem.wf = true := by
  unfold State.setOverflow
  (repeat' split) <;> simp [h]

@[simp] theorem State.markFault_wf {s : State} {r : FibreRef} {ctx : Nat} {a : AsyncFault} (h : s.mem.wf = true) :
    (s.markFault r ctx a).mem.wf = true := by
  unfold State.markFault
  (repeat' split) <;> simp [h]

@[simp] theorem State.deliverAsync_wf {s : State} {r : FibreRef} {kind cause detail engine pc addr : Nat} {on : Option Loc}
    (h : s.mem.wf = true) : (s.deliverAsync r kind cause detail engine pc addr on).mem.wf = true := by
  unfold State.deliverAsync
  dsimp only
  (repeat' split) <;> simp [h]

@[simp] theorem State.raiseAsync_wf {s : State} {r : FibreRef} {kind cause detail engine pc addr : Nat} {on : Option Loc}
    (h : s.mem.wf = true) : (s.raiseAsync r kind cause detail engine pc addr on).mem.wf = true := by
  unfold State.raiseAsync
  split <;> simp [h]

@[simp] theorem State.takeAsync_wf {s : State} {r : FibreRef} (h : s.mem.wf = true) : (s.takeAsync r).mem.wf = true := by
  unfold State.takeAsync
  dsimp only
  (repeat' split) <;> simp [h]

@[simp] theorem State.takeInterrupt_wf {s : State} {r : FibreRef} {cause : Nat} (h : s.mem.wf = true) :
    (s.takeInterrupt r cause).mem.wf = true := by
  unfold State.takeInterrupt
  (repeat' split) <;> simp [h]

@[simp] theorem State.beginReturnTrap_mem (s : State) (r : FibreRef) (_stack : Nat) : (s.beginReturnTrap r _stack).mem = s.mem := by
  simp [State.beginReturnTrap]

theorem State.raiseFirst_wf {s : State} {r : FibreRef} {a : Act} {t : Trap} (h : s.mem.wf = true) (ha : ActWf a) :
    (s.raiseFirst r a t).mem.wf = true := by
  unfold State.raiseFirst
  split
  · simp [h]
  · split <;> simp_all
  · simp [h]

/-- The frame of every instruction: its outcome keeps the form where its meaning does. -/
theorem isa_wf {len : Nat} {u : Uses} {body : FibreRef → Team → Fibre → State → Act} {s : State} (h : s.mem.wf = true)
    (hb : ∀ r t f, ActWf (body r t f s)) : OutcomeWf (isa len u body s) := by
  unfold isa
  split
  · trivial
  next r t f _ =>
    have hr : ∀ x, (s.raiseFirst r (body r t f s) x).mem.wf = true := fun x => State.raiseFirst_wf h (hb r t f)
    have ha := hb r t f
    (repeat' split) <;> simp_all

@[simp] theorem issueLong_wf {r : FibreRef} {f : Fibre} {len : Nat} {k : LongKind} {regs preds tiles : List Nat} {s : State}
    (h : s.mem.wf = true) : ActWf (issueLong r f len k regs preds tiles s) := by
  unfold issueLong
  (repeat' split) <;> simp [h]

@[simp] theorem State.readPlace_mem (s : State) (core : Option CoreId) (die ctx : Nat) (l : Loc) (n : Nat) (st : Strength) :
    (s.readPlace core die ctx l n st).2.mem = s.mem := by
  unfold State.readPlace
  split <;> simp

@[simp] theorem State.loadPlace_mem (s : State) (t : Team) (f : Fibre) (l : Loc) (n : Nat) (st : Strength) :
    (s.loadPlace t f l n st).2.mem = s.mem := by simp [State.loadPlace]

@[simp] theorem State.askWord_mem (s : State) (r : FibreRef) (t : Team) (f : Fibre) (a : Nat) :
    (s.askWord r t f a).mem = s.mem := by
  unfold State.askWord
  (repeat' split) <;> rfl

theorem framePc_stop_wf {s : State} {r : FibreRef} {t : Team} {f : Fibre} {m : HandlerMark} {pc : Nat} {e : Stop}
    (h : s.mem.wf = true) (he : framePc s r t f m pc = .error e) : e.MemWf := by
  unfold framePc at he
  (repeat' split at he) <;> cases he <;> simp [h]

theorem returnFromTrap_wf {mode : Nat} {vs : List Dword} {r : FibreRef} {t : Team} {f : Fibre} {s : State}
    (h : s.mem.wf = true) : ActWf (returnFromTrap mode vs r t f s) := by
  unfold returnFromTrap
  dsimp only
  (repeat' split) <;> simp [h]
  exact framePc_stop_wf h ‹_›

/-! ### `Machine/Operands.lean`: the resolution of an address -/

theorem place_stop {s : State} {r : FibreRef} {t : Team} {f : Fibre} {k : AccKind} {space a n align : Nat} {e : Stop}
    (h : s.mem.wf = true) (he : place s r t f k space a n align = .error e) : e.MemWf := by
  unfold place at he
  split at he <;> cases he <;> simp [h]

/-! ### `Machine/Frames.lean`: frames and image slots -/

@[simp] theorem State.useFrames_wf {s : State} {f n : Nat} (h : s.mem.wf = true) : (s.useFrames f n).mem.wf = true := by
  simp [State.useFrames, h, State.zeroFrames_wf]

@[simp] theorem State.freeFrames_mem (s : State) (fs : List (Nat × Nat)) : (s.freeFrames fs).mem = s.mem := by
  simp [State.freeFrames]

theorem State.takeImage_mem {s : State} {k : Kernel} {p : (Nat × Nat) × State} (e : s.takeImage k = some p) :
    p.2.mem = s.mem := by
  obtain ⟨f, -, rfl⟩ := Option.map_eq_some_iff.mp e
  rfl

/-! ### `Machine/Teams.lean`: teams and the ends of fibres -/

@[simp] theorem State.shareBins_mem (s : State) (c : CoreId) : (s.shareBins c).mem = s.mem := by simp [State.shareBins]

@[simp] theorem State.memberGone_wf {s : State} {team i : Nat} (h : s.mem.wf = true) : (s.memberGone team i).mem.wf = true := by
  unfold State.memberGone
  (repeat' split) <;> simp +contextual [h]

@[simp] theorem State.convergenceGone_wf {s : State} {team : Nat} (h : s.mem.wf = true) :
    (s.convergenceGone team).mem.wf = true := by
  unfold State.convergenceGone
  split
  · exact h
  · refine foldl_wf (fun s k h => ?_) h
    split
    · exact h
    · split
      · exact h
      · dsimp only
        split
        · exact h
        · exact foldl_wf (fun s i h => State.raiseAt_wf h) h

@[simp] theorem State.teamDone_mem (s : State) (team : Nat) : (s.teamDone team).mem = s.mem := by
  unfold State.teamDone
  (repeat' split) <;> simp

@[simp] theorem State.passFaults_wf {s : State} {team : Nat} {f : Fibre} (h : s.mem.wf = true) :
    (s.passFaults team f).mem.wf = true := by
  unfold State.passFaults
  (repeat' split) <;> simp +contextual [h]

@[simp] theorem State.endFibre_wf {s : State} {r : FibreRef} {parked : Bool} (h : s.mem.wf = true) :
    (s.endFibre r parked).mem.wf = true := by
  unfold State.endFibre
  split
  · exact h
  · rw [State.teamDone_mem, State.updTeam_mem]
    refine State.convergenceGone_wf (State.memberGone_wf (State.passFaults_wf ?_))
    simp [h]

@[simp] theorem State.terminateRun_wf {s : State} {ctx cause addr : Nat} {g : Graph} {r : NodeRun} (h : s.mem.wf = true) :
    (s.terminateRun ctx cause addr g r).mem.wf = true := by
  unfold State.terminateRun
  split <;> simp [h]

@[simp] theorem State.endInstance_wf {s : State} {inst ctx kind cause addr : Nat} {each : Bool} (h : s.mem.wf = true) :
    (s.endInstance inst ctx kind cause addr each).mem.wf = true := by
  unfold State.endInstance
  split
  · exact h
  · refine State.reportTermination_wf (State.writeRecord_wf ?_)
    refine foldl_wf (fun s r h => ?_) h
    (repeat' split) <;> simp [h]

@[simp] theorem State.withdrawTeam_mem (s : State) (team : Nat) : (s.withdrawTeam team).mem = s.mem := by
  simp [State.withdrawTeam]

@[simp] theorem State.swapTeam_mem (s : State) (team : Nat) (discard forced keepSlice : Bool) :
    (s.swapTeam team discard forced keepSlice).mem = s.mem := by simp [State.swapTeam]

@[simp] theorem State.swapPoint_mem (s : State) (team : Nat) (discard forced keepSlice : Bool) :
    (s.swapPoint team discard forced keepSlice).mem = s.mem := by
  unfold State.swapPoint
  split <;> simp

@[simp] theorem State.demote_mem (s : State) (team : Nat) : (s.demote team).mem = s.mem := by
  unfold State.demote
  (repeat' split) <;> rfl

end Sys2Proof.Machine
end

section
/-! SUPPORT. Instructions of fibres, from branches to tensors: an `Act` in the form, and so an outcome in the form. -/

namespace Sys2Proof.Machine

/-! ### `Machine/Control.lean`: branches and EXIT -/

@[simp] theorem execBra_wf {s : State} {p : BitVec 5} {n : BitVec 1} {o : BitVec 19} (h : s.mem.wf = true) :
    OutcomeWf (execBra p n o s) := isa_wf h fun _ _ _ => by (repeat' split) <;> simp [h]

@[simp] theorem execCall_wf {s : State} {p : BitVec 5} {n : BitVec 1} {o : BitVec 19} (h : s.mem.wf = true) :
    OutcomeWf (execCall p n o s) := isa_wf h fun _ _ _ => by (repeat' split) <;> simp [h]

@[simp] theorem execJmp_wf {s : State} {a : BitVec 7} (h : s.mem.wf = true) : OutcomeWf (execJmp a s) :=
  isa_wf h fun _ _ _ => by (repeat' split) <;> simp [h]

@[simp] theorem execCallr_wf {s : State} {a : BitVec 7} (h : s.mem.wf = true) : OutcomeWf (execCallr a s) :=
  isa_wf h fun _ _ _ => by (repeat' split) <;> simp [h]

@[simp] theorem execRet_wf {s : State} (h : s.mem.wf = true) : OutcomeWf (execRet s) :=
  isa_wf h fun _ _ _ => by (repeat' split) <;> simp [h]

@[simp] theorem beforeEnd_wf {r : FibreRef} {f : Fibre} {s : State} (h : s.mem.wf = true) : ActWf (beforeEnd r f s) := by
  unfold beforeEnd
  (repeat' split) <;> simp [h]

@[simp] theorem State.reported_mem (s : State) (r : FibreRef) : (s.reported r).mem = s.mem := by simp [State.reported]

@[simp] theorem reporting_wf {r : FibreRef} {s : State} {a : Act} (h : s.mem.wf = true) (ha : ActWf a) :
    ActWf (reporting r s a) := by
  unfold reporting
  split
  · split
    · exact ha
    · simp [h]
  · exact ha

@[simp] theorem execExitF_wf {s : State} (h : s.mem.wf = true) : OutcomeWf (execExitF s) := by
  refine isa_wf h fun r t f => ?_
  have ha := reporting_wf (r := r) h (beforeEnd_wf (r := r) (f := f) h)
  split <;> simp_all

/-! ### `Machine/System.lean`: system registers and fences -/

@[simp] theorem execTrap_wf {s : State} {_i : BitVec 11} (h : s.mem.wf = true) : OutcomeWf (execTrap _i s) :=
  isa_wf h fun _ _ _ => by simp

@[simp] theorem execSysrd_wf {st : State} {d : BitVec 7} {s : BitVec 11} (h : st.mem.wf = true) : OutcomeWf (execSysrd d s st) :=
  isa_wf h fun _ _ _ => h

@[simp] theorem execSyswr_wf {s : State} {a : BitVec 7} {_s : BitVec 11} (h : s.mem.wf = true) : OutcomeWf (execSyswr a _s s) :=
  isa_wf h fun _ _ _ => h

@[simp] theorem State.acquireAt_mem (s : State) (t : Team) (f : Fibre) (scope : Nat) : (s.acquireAt t f scope).mem = s.mem := by
  unfold State.acquireAt
  (repeat' split) <;> rfl

@[simp] theorem State.postFence_mem (s : State) (r : FibreRef) (f : Fibre) (scope : Nat) : (s.postFence r f scope).mem = s.mem := by
  simp [State.postFence, apply_ite State.mem]

@[simp] theorem fenceAt_wf {scope kind : Nat} {r : FibreRef} {t : Team} {f : Fibre} {s : State} (h : s.mem.wf = true) :
    ActWf (fenceAt scope kind r t f s) := by
  unfold fenceAt
  (repeat' split) <;> simp [h]

@[simp] theorem execFence_wf {s : State} {c k : BitVec 3} (h : s.mem.wf = true) : OutcomeWf (execFence c k s) :=
  isa_wf h fun _ _ _ => reporting_wf h (fenceAt_wf h)

@[simp] theorem execFenceLight_wf {s : State} (h : s.mem.wf = true) : OutcomeWf (execFenceLight s) := isa_wf h fun _ _ _ => h

@[simp] theorem execFenceHeavy_wf {s : State} {b : BitVec 7} (h : s.mem.wf = true) : OutcomeWf (execFenceHeavy b s) := by
  refine isa_wf h fun r t f => ?_
  have ha := fenceAt_wf (scope := 4) (kind := 4) (r := r) (t := t) (f := f) h
  (repeat' split) <;> simp_all

@[simp] theorem execExt_wf {s : State} {e : BitVec 7} {m : BitVec 2} {_p : BitVec 16} {_w1 _w2 _w3 : BitVec 32}
    (h : s.mem.wf = true) : OutcomeWf (execExt e m _p _w1 _w2 _w3 s) := isa_wf h fun _ _ _ => by (repeat' split) <;> simp

/-! ### `Machine/Memory.lean`: loads, stores and page requests -/

@[simp] theorem State.takeAnswers_mem (s : State) (r : FibreRef) (seq : Nat) : (s.takeAnswers r seq).mem = s.mem := by
  simp [State.takeAnswers]

/-- An access of class peer or host waits, faults, or goes on from the bytes that came. -/
theorem remoteAccess_wf {r : FibreRef} {t : Team} {f : Fibre} {va : Nat} {parts : List RemotePart} {st : Strength} {s : State}
    {k : List (List Byte) → State → Act} (h : s.mem.wf = true) (hk : ∀ bs s, s.mem.wf = true → ActWf (k bs s)) :
    ActWf (remoteAccess r t f va parts st s k) := by
  unfold remoteAccess
  dsimp only
  split
  · split
    · exact h
    · exact Stop.MemWf_hold.mpr (foldl_wf (fun _ _ h => by simpa using h) h)
  · split
    · split
      · exact hk _ _ (State.raiseAsync_wf h)
      · exact State.raiseAt_wf h
    · split
      · exact h
      · exact hk _ _ (by simp [h])

@[simp] theorem loadAt_wf {len : Nat} {space n d : Nat} {st : Strength} {va : Nat} {r : FibreRef} {t : Team} {f : Fibre} {s : State}
    (h : s.mem.wf = true) : ActWf (loadAt len space n d st va r t f s) := by
  unfold loadAt
  split
  · exact place_stop h ‹_›
  · exact remoteAccess_wf h fun _ _ h => issueLong_wf h
  · split <;> simp [h]

@[simp] theorem execLd_wf {s : State} {d b : BitVec 7} {o : BitVec 6} {sp : BitVec 2} {z : BitVec 3} (h : s.mem.wf = true) :
    OutcomeWf (execLd d b o sp z s) := isa_wf h fun _ _ _ => by simp [h]

@[simp] theorem execLds_wf {s : State} {d b : BitVec 7} {c k : BitVec 3} {sp : BitVec 2} {z : BitVec 3} (h : s.mem.wf = true) :
    OutcomeWf (execLds d b c k sp z s) := isa_wf h fun _ _ _ => by simp [h]

@[simp] theorem pairPart_mem (t : Team) (f : Fibre) (l : Loc) (n : Nat) (bs : List (List Byte)) (s : State) :
    (pairPart t f l n bs s).2.2.2.mem = s.mem := by
  unfold pairPart
  split <;> simp

@[simp] theorem remotePair_wf {r : FibreRef} {t : Team} {f : Fibre} {a n d : Nat} {l0 l1 : Loc} {s : State} (h : s.mem.wf = true) :
    ActWf (remotePair r t f a n d l0 l1 s) := by
  unfold remotePair
  dsimp only
  split
  · exact h
  · refine remoteAccess_wf h fun bs s h => ?_
    (repeat' split) <;> simp [h]

@[simp] theorem execLdp_wf {s : State} {d b : BitVec 7} {o : BitVec 6} {sp : BitVec 2} {z : BitVec 1} (h : s.mem.wf = true) :
    OutcomeWf (execLdp d b o sp z s) := by
  unfold execLdp
  refine isa_wf h fun r t f => ?_
  dsimp only
  split
  · exact place_stop h ‹_›
  · exact place_stop h ‹_›
  · (repeat' split) <;> simp [h]

@[simp] theorem execLdnr_wf {s : State} {d b : BitVec 7} {p : BitVec 5} {sp : BitVec 2} {z : BitVec 3} (h : s.mem.wf = true) :
    OutcomeWf (execLdnr d b p sp z s) := by
  unfold execLdnr
  refine isa_wf h fun r t f => ?_
  dsimp only
  split
  · trivial
  · exact issueLong_wf h
  · simp [h]
  · exact remoteAccess_wf h fun _ _ h => issueLong_wf h
  · split <;> simp [h]

@[simp] theorem queueBytes_mem (r : FibreRef) (l : Loc) (bs : List Byte) (st : Strength) (s : State) :
    (queueBytes r l bs st s).mem = s.mem := by
  unfold queueBytes
  split <;> rfl

@[simp] theorem carryPoison_mem (r : FibreRef) (f : Fibre) (d : Nat) (l : Loc) (s : State) :
    (carryPoison r f d l s).mem = s.mem := by
  unfold carryPoison
  split <;> rfl

@[simp] theorem storeAt_wf {space n d : Nat} {st : Strength} {va : Nat} {r : FibreRef} {t : Team} {f : Fibre} {s : State}
    (h : s.mem.wf = true) : ActWf (storeAt space n d st va r t f s) := by
  unfold storeAt
  split
  · exact place_stop h ‹_›
  · (repeat' split) <;> simp [h]

@[simp] theorem execSt_wf {s : State} {d b : BitVec 7} {o : BitVec 6} {sp : BitVec 2} {z : BitVec 3} (h : s.mem.wf = true) :
    OutcomeWf (execSt d b o sp z s) := isa_wf h fun _ _ _ => by simp [h]

@[simp] theorem execSts_wf {s : State} {d b : BitVec 7} {c k : BitVec 3} {sp : BitVec 2} {z : BitVec 3} (h : s.mem.wf = true) :
    OutcomeWf (execSts d b c k sp z s) := isa_wf h fun _ _ _ => by simp [h]

@[simp] theorem execStp_wf {s : State} {d b : BitVec 7} {o : BitVec 6} {sp : BitVec 2} {z : BitVec 1} (h : s.mem.wf = true) :
    OutcomeWf (execStp d b o sp z s) := by
  unfold execStp
  refine isa_wf h fun r t f => ?_
  dsimp only
  split
  · exact place_stop h ‹_›
  · exact place_stop h ‹_›
  · (repeat' split) <;> simp [h]

@[simp] theorem execStn_wf {s : State} {d b : BitVec 7} {o : BitVec 6} {sp : BitVec 2} (h : s.mem.wf = true) :
    OutcomeWf (execStn d b o sp s) := by
  refine isa_wf h fun r t f => ?_
  dsimp only
  split
  · trivial
  · split
    · exact place_stop h ‹_›
    · split <;> simp [h, queueStore_mem]

@[simp] theorem execStm_wf {s : State} {d b : BitVec 7} {o : BitVec 6} {sp : BitVec 2} (h : s.mem.wf = true) :
    OutcomeWf (execStm d b o sp s) := by
  refine isa_wf h fun r t f => ?_
  dsimp only
  split
  · exact place_stop h ‹_›
  · (repeat' split) <;> simp [h, queueStore_mem]

@[simp] theorem execPref_wf {s : State} {b : BitVec 7} {o : BitVec 6} {sp : BitVec 2} {l : BitVec 1} (h : s.mem.wf = true) :
    OutcomeWf (execPref b o sp l s) :=
  isa_wf h fun _ _ _ => by
    dsimp only
    (repeat' split) <;> simp [h]

@[simp] theorem postRequest_wf {s : State} {r : FibreRef} {ctx : Nat} {m : MemLoc} {page notify : Nat} {write : Bool}
    {core : Option CoreId} (h : s.mem.wf = true) : (postRequest s r ctx m page notify write core).mem.wf = true := by
  unfold postRequest
  dsimp only
  split
  · exact State.modifyHome_wf (State.modifyHome_wf h)
  · exact State.fillAt_wf (State.fillAt_wf (State.modifyHome_wf (State.modifyHome_wf h)))

@[simp] theorem execPreq_wf {s : State} {d b : BitVec 7} {o : BitVec 6} {_sp : BitVec 2} {w : BitVec 1} (h : s.mem.wf = true) :
    OutcomeWf (execPreq d b o _sp w s) :=
  isa_wf h fun _ _ _ => by
    dsimp only
    (repeat' split) <;> simp [h]

@[simp] theorem State.acquireRange_mem (s : State) (t : Team) (f : Fibre) (lo hi : Nat) :
    (s.acquireRange t f lo hi).mem = s.mem := by
  unfold State.acquireRange
  split <;> rfl

@[simp] theorem execAcqr_wf {s : State} {a b : BitVec 7} {_c : BitVec 3} (h : s.mem.wf = true) : OutcomeWf (execAcqr a b _c s) :=
  isa_wf h fun _ _ _ => by
    dsimp only
    (repeat' split) <;> simp [h]

@[simp] theorem cacheFlush_wf {s : State} {a : BitVec 7} {drop : Bool} (h : s.mem.wf = true) : OutcomeWf (cacheFlush a drop s) :=
  isa_wf h fun _ _ _ => by (repeat' split) <;> simp [h]

@[simp] theorem execCacheFlush_wf {s : State} {a : BitVec 7} (h : s.mem.wf = true) : OutcomeWf (execCacheFlush a s) := by
  simp [execCacheFlush, h]

@[simp] theorem execCacheInval_wf {s : State} {a : BitVec 7} (h : s.mem.wf = true) : OutcomeWf (execCacheInval a s) := by
  simp [execCacheInval, h]

@[simp] theorem cacheClass_wf {s : State} {a : BitVec 7} {keep : Bool} (h : s.mem.wf = true) : OutcomeWf (cacheClass a keep s) :=
  isa_wf h fun _ _ _ => by (repeat' split) <;> simp [h]

@[simp] theorem execCacheRetain_wf {s : State} {a : BitVec 7} (h : s.mem.wf = true) : OutcomeWf (execCacheRetain a s) := by
  simp [execCacheRetain, h]

@[simp] theorem execCacheEvict_wf {s : State} {a : BitVec 7} (h : s.mem.wf = true) : OutcomeWf (execCacheEvict a s) := by
  simp [execCacheEvict, h]

@[simp] theorem resizeForm_wf {s : State} {d a : BitVec 7} {keep : Bool} (h : s.mem.wf = true) :
    OutcomeWf (resizeForm d a keep s) :=
  isa_wf h fun _ _ _ => by simp [h]

@[simp] theorem execResize_wf {s : State} {d a : BitVec 7} (h : s.mem.wf = true) : OutcomeWf (execResize d a s) := by
  simp [execResize, h]

@[simp] theorem execResizeRel_wf {s : State} {d a : BitVec 7} (h : s.mem.wf = true) : OutcomeWf (execResizeRel d a s) := by
  simp [execResizeRel, h]

@[simp] theorem execCacheWays_wf {s : State} {d : BitVec 7} (h : s.mem.wf = true) : OutcomeWf (execCacheWays d s) :=
  isa_wf h fun _ _ _ => h

@[simp] theorem execRqdeg_wf {s : State} {d a : BitVec 7} (h : s.mem.wf = true) : OutcomeWf (execRqdeg d a s) := by
  refine isa_wf h fun r t f => ?_
  split
  · exact place_stop h ‹_›
  · exact h

@[simp] theorem performLoad_mem (s : State) (t : Team) (f : Fibre) (seq : Nat) (l : Loc) (n : Nat) (st : Strength) :
    (performLoad s t f seq l n st).2.mem = s.mem := by simp [performLoad]

@[simp] theorem finishLong_mem (r : FibreRef) (op : LongOp) (vals : List (Nat × Dword)) (pr : Option (Nat × Bool)) (s : State) :
    (finishLong r op vals pr s).mem = s.mem := by simp [finishLong]

@[simp] theorem State.countRefresh_mem (s : State) (ctx a : Nat) (ls : List Loc) : (s.countRefresh ctx a ls).mem = s.mem := by
  simp [State.countRefresh, apply_ite State.mem]

@[simp] theorem dropPoisoned_wf {r : FibreRef} {op : LongOp} {s : State} (h : s.mem.wf = true) :
    (dropPoisoned r op s).mem.wf = true := by simp [dropPoisoned, h]

@[simp] theorem dropLoad_wf {r : FibreRef} {t : Team} {f : Fibre} {op : LongOp} {parts : List (Loc × Nat × Nat)} {st : Strength}
    {pr : Option (Nat × Bool)} {s : State} (h : s.mem.wf = true) : (dropLoad r t f op parts st pr s).mem.wf = true := by
  unfold dropLoad
  split
  · dsimp only
    generalize hp : List.foldl _ _ _ = p
    have hs : p.2.mem.wf = true := hp ▸ foldl_snd_wf (fun a q ha => by simpa using ha) h
    split
    · simp [hs]
    · split <;> simp [hs]
  · exact h

@[simp] theorem dropMemory_wf {r : FibreRef} {t : Team} {f : Fibre} {op : LongOp} {s : State} (h : s.mem.wf = true) :
    (dropMemory r t f op s).mem.wf = true := by
  unfold dropMemory
  (repeat' split) <;> simp [h]

/-! ### `Machine/Atomics.lean`: atomics, and what the store queue performs at the homes -/

@[simp] theorem atomicRet_wf {r : FibreRef} {f : Fibre} {len d n : Nat} {op : AtomOp} {v : Dword} {st : Strength} {l : Loc}
    {s : State} (h : s.mem.wf = true) : ActWf (atomicRet r f len d n op v st l s) := by
  unfold atomicRet
  dsimp only
  split
  · exact h
  · exact (issueLong_wf (s := s.fresh.2) h).of_error ‹_›
  next u hu =>
    have := (issueLong_wf (s := s.fresh.2) h).of_ok hu
    simp [queueStore_mem, this]

@[simp] theorem atomicAt_wf {len d n space va : Nat} {op : AtomOp} {v : Dword} {rem : Bool → Option RemoteKind} {st : Strength}
    {r : FibreRef} {t : Team} {f : Fibre} {s : State} (h : s.mem.wf = true) :
    ActWf (atomicAt len d n space va op v rem st r t f s) := by
  unfold atomicAt
  split
  · exact place_stop h ‹_›
  · split
    · trivial
    · exact remoteAccess_wf h fun _ _ h => issueLong_wf h
  · split <;> simp [h]

@[simp] theorem reduceAt_wf {n space va : Nat} {op : AtomOp} {v : Dword} {rem : Bool → Option RemoteKind} {st : Strength}
    {r : FibreRef} {t : Team} {f : Fibre} {s : State} (h : s.mem.wf = true) :
    ActWf (reduceAt n space va op v rem st r t f s) := by
  unfold reduceAt
  split
  · exact place_stop h ‹_›
  · split
    · trivial
    · dsimp only
      split
      · simp [h]
      · exact remoteAccess_wf h fun _ _ h => h
  · simp [queueStore_mem, h]

@[simp] theorem atomForm_wf {s : State} {n : Nat} {d a b : BitVec 7} {f : BitVec 4} {c k : BitVec 3} {nr : BitVec 1} {sp : BitVec 2}
    (h : s.mem.wf = true) : OutcomeWf (atomForm n d a b f c k nr sp s) := by
  unfold atomForm
  refine isa_wf h fun r t x => ?_
  dsimp only
  split <;> simp [h]

@[simp] theorem execAtom32_wf {s : State} {d a b : BitVec 7} {f : BitVec 4} {c k : BitVec 3} {nr : BitVec 1} {sp : BitVec 2}
    (h : s.mem.wf = true) : OutcomeWf (execAtom32 d a b f c k nr sp s) := by simp [execAtom32, h]

@[simp] theorem execAtom64_wf {s : State} {d a b : BitVec 7} {f : BitVec 4} {c k : BitVec 3} {nr : BitVec 1} {sp : BitVec 2}
    (h : s.mem.wf = true) : OutcomeWf (execAtom64 d a b f c k nr sp s) := by simp [execAtom64, h]

@[simp] theorem execCas_wf {s : State} {d a b : BitVec 7} {w : BitVec 1} {c k : BitVec 3} {sp : BitVec 2} (h : s.mem.wf = true) :
    OutcomeWf (execCas d a b w c k sp s) := by
  unfold execCas
  exact isa_wf h fun _ _ _ => atomicAt_wf h

@[simp] theorem execRed_wf {s : State} {a b : BitVec 7} {f : BitVec 4} {c k : BitVec 3} {sp : BitVec 2} {w : BitVec 1}
    (h : s.mem.wf = true) : OutcomeWf (execRed a b f c k sp w s) := isa_wf h fun _ _ _ => by simp [h]

@[simp] theorem execRedf_wf {s : State} {a b : BitVec 7} {f : BitVec 4} {ft : BitVec 2} (h : s.mem.wf = true) :
    OutcomeWf (execRedf a b f ft s) := by
  unfold execRedf
  refine isa_wf h fun r t x => ?_
  dsimp only
  split
  · exact place_stop h ‹_›
  · simp [queueStore_mem, h]

@[simp] theorem scratchWrite_mem (s : State) (team off : Nat) (bs : List (Option Byte)) :
    (scratchWrite s team off bs).mem = s.mem := by
  simp [scratchWrite]

@[simp] theorem nearWrite_mem (s : State) (k c i off : Nat) (bs : List (Option Byte)) : (nearWrite s k c i off bs).mem = s.mem := by
  simp [nearWrite]

@[simp] theorem State.poisonAt_wf {s : State} {l : Loc} (h : s.mem.wf = true) : (s.poisonAt l).mem.wf = true := by
  unfold State.poisonAt
  split
  · exact Memory.poison_wf h
  · exact h
  · exact h
  · exact h

@[simp] theorem State.storeBytesAt_wf {s : State} {r : FibreRef} {t : Team} {f : Fibre} {l : Loc} {bs : List (Option Byte)}
    {pc : Nat} (h : s.mem.wf = true) : (s.storeBytesAt r t f l bs pc).mem.wf = true := by
  unfold State.storeBytesAt
  split <;> simp [h]

@[simp] theorem State.modifyAt_wf {s : State} {r : FibreRef} {t : Team} {f : Fibre} {l : Loc} {bs : List Byte}
    (h : s.mem.wf = true) : (s.modifyAt r t f l bs).mem.wf = true := by
  unfold State.modifyAt
  split <;> simp [h]

@[simp] theorem giveTicket_mem (r : FibreRef) (ticket : Nat) (v : Dword) (st : Strength) (s : State) :
    (giveTicket r ticket v st s).mem = s.mem := by simp [giveTicket]

@[simp] theorem performAtomic_wf {r : FibreRef} {t : Team} {f : Fibre} {l : Loc} {op : AtomOp} {n : Nat} {v : Dword}
    {ticket : Option Nat} {st : Strength} {s : State} (h : s.mem.wf = true) :
    (performAtomic r t f l op n v ticket st s).mem.wf = true := by
  unfold performAtomic
  (repeat' split) <;> simp [h]

@[simp] theorem forwardRedf_mem (r : FibreRef) (t : Team) (l : Loc) (ft op : Nat) (v : Dword) (s : State) :
    (forwardRedf r t l ft op v s).mem = s.mem := by
  unfold forwardRedf
  split <;> simp

@[simp] theorem performStore_wf {r : FibreRef} {t : Team} {f : Fibre} {op : StoreOp} {s : State} (h : s.mem.wf = true) :
    (performStore r t f op s).mem.wf = true := by
  unfold performStore
  split <;> simp [h, Memory.tag_wf]

@[simp] theorem execStorePerform_wf {team fibre : Nat} {s : State} (h : s.mem.wf = true) :
    OutcomeWf (execStorePerform team fibre s) := by
  unfold execStorePerform
  dsimp only
  (repeat' split) <;> simp [h]

/-! ### `Machine/Tags.lean`: tagged words -/

theorem tagPlace_stop {s : State} {r : FibreRef} {t : Team} {f : Fibre} {k : AccKind} {va : Nat} {e : Stop}
    (h : s.mem.wf = true) (he : tagPlace s r t f k va = .error e) : e.MemWf := by
  unfold tagPlace at he
  split at he <;> cases he
  · exact place_stop h ‹_›
  · trivial

@[simp] theorem tagStore_wf {va : Nat} {k : Loc → StoreKind} {st : Strength} {r : FibreRef} {t : Team} {f : Fibre} {s : State}
    (h : s.mem.wf = true) : ActWf (tagStore va k st r t f s) := by
  unfold tagStore
  split
  · exact tagPlace_stop h ‹_›
  · simp [queueStore_mem, h]

@[simp] theorem execFill_wf {s : State} {a : BitVec 7} {c k : BitVec 3} (h : s.mem.wf = true) : OutcomeWf (execFill a c k s) :=
  isa_wf h fun _ _ _ => by simp [h]

@[simp] theorem execFillVal_wf {s : State} {a b : BitVec 7} {c k : BitVec 3} (h : s.mem.wf = true) :
    OutcomeWf (execFillVal a b c k s) := isa_wf h fun _ _ _ => by simp [h]

@[simp] theorem execFillEmpty_wf {s : State} {a : BitVec 7} {c k : BitVec 3} (h : s.mem.wf = true) :
    OutcomeWf (execFillEmpty a c k s) := isa_wf h fun _ _ _ => by simp [h]

@[simp] theorem execCntdn_wf {s : State} {d b : BitVec 7} {c k : BitVec 3} (h : s.mem.wf = true) :
    OutcomeWf (execCntdn d b c k s) :=
  isa_wf h fun _ _ _ => by simp [h]

@[simp] theorem blockAtTag_wf {r : FibreRef} {f : Fibre} {d : Nat} {take : Bool} {m : MemLoc} {st : Strength} {s : State}
    (h : s.mem.wf = true) : ActWf (blockAtTag r f d take m st s) := by
  unfold blockAtTag
  split
  · exact (issueLong_wf h).of_error ‹_›
  next u hu => exact (issueLong_wf h).of_ok (s := u) hu

@[simp] theorem tagLoad_wf {s : State} {take : Bool} {d b : BitVec 7} {c k : BitVec 3} (h : s.mem.wf = true) :
    OutcomeWf (tagLoad take d b c k s) := by
  unfold tagLoad
  refine isa_wf h fun r t f => ?_
  dsimp only
  split
  · exact tagPlace_stop h ‹_›
  · split
    · exact h
    · split
      · split
        · trivial
        · cases take <;> cases coreOf t f <;> simp [h, Memory.tag_wf]
      · exact blockAtTag_wf h

@[simp] theorem execTake_wf {s : State} {d b : BitVec 7} {c k : BitVec 3} (h : s.mem.wf = true) :
    OutcomeWf (execTake d b c k s) := by
  simp [execTake, h]

@[simp] theorem execWaitf_wf {s : State} {d b : BitVec 7} {c k : BitVec 3} (h : s.mem.wf = true) :
    OutcomeWf (execWaitf d b c k s) := by
  simp [execWaitf, h]

@[simp] theorem execTagq_wf {s : State} {d b : BitVec 7} {o : BitVec 6} (h : s.mem.wf = true) :
    OutcomeWf (execTagq d b o s) := by
  refine isa_wf h fun r t f => ?_
  split
  · exact tagPlace_stop h ‹_›
  · exact issueLong_wf h

/-! ### `Machine/Barriers.lean`: barrier objects -/

@[simp] theorem State.putBar_mem (s : State) (l : Loc) (b : Nat) : (s.putBar l b).mem = s.mem := by
  unfold State.putBar
  split <;> rfl

@[simp] theorem State.putBarInfo_mem (s : State) (b : Bar) : (s.putBarInfo b).mem = s.mem := by simp [State.putBarInfo]

@[simp] theorem State.barAcquire_mem (s : State) (r : FibreRef) (b : Nat) (landed : Bool) :
    (s.barAcquire r b landed).mem = s.mem := by
  unfold State.barAcquire
  (repeat' split) <;> simp

@[simp] theorem State.flipBar_mem (s : State) (l : Loc) (b : Nat) : (s.flipBar l b).mem = s.mem := by
  simp [State.flipBar, apply_ite State.mem]

@[simp] theorem State.settleBar_mem (s : State) (l : Loc) (b : Nat) : (s.settleBar l b).mem = s.mem := by
  simp [State.settleBar, apply_ite State.mem]

@[simp] theorem State.startBarTimer_mem (s : State) (l : Loc) (b : Nat) : (s.startBarTimer l b).mem = s.mem := by
  simp [State.startBarTimer, apply_ite State.mem]

@[simp] theorem State.landAt_mem (s : State) (l : Loc) (n : Nat) : (s.landAt l n).mem = s.mem := by simp [State.landAt]

@[simp] theorem barMisuse_wf {va : Nat} : ActWf (barMisuse va) := trivial

theorem barPlace_stop {s : State} {t : Team} {f : Fibre} {cl : BitVec 1} {va : Nat} {e : Stop}
    (he : barPlace s t f cl va = .error e) : e.MemWf := by
  unfold barPlace at he
  (repeat' split at he) <;> cases he <;> trivial

@[simp] theorem binitWith_wf {image va : Nat} {cl : BitVec 1} {r : FibreRef} {t : Team} {f : Fibre} {s : State}
    (h : s.mem.wf = true) : ActWf (binitWith image va cl r t f s) := by
  unfold binitWith
  split
  · exact barPlace_stop ‹_›
  · (repeat' split) <;> simp [h]

@[simp] theorem execBinit_wf {s : State} {a b : BitVec 7} {c : BitVec 1} (h : s.mem.wf = true) : OutcomeWf (execBinit a b c s) :=
  isa_wf h fun _ _ _ => by simp [h]

@[simp] theorem execBinitFull_wf {s : State} {a b : BitVec 7} {c : BitVec 1} (h : s.mem.wf = true) :
    OutcomeWf (execBinitFull a b c s) := isa_wf h fun _ _ _ => by simp [h]

@[simp] theorem arriveWith_wf {n va : Nat} {cl : BitVec 1} {r : FibreRef} {t : Team} {f : Fibre} {s : State}
    (h : s.mem.wf = true) : ActWf (arriveWith n va cl r t f s) := by
  unfold arriveWith
  split
  · exact barPlace_stop ‹_›
  · dsimp only
    (repeat' split) <;> simp [h]

@[simp] theorem execArrive_wf {s : State} {a : BitVec 7} {c : BitVec 1} (h : s.mem.wf = true) : OutcomeWf (execArrive a c s) :=
  isa_wf h fun _ _ _ => by simp [h]

@[simp] theorem execArriveExpect_wf {s : State} {a b : BitVec 7} {c : BitVec 1} (h : s.mem.wf = true) :
    OutcomeWf (execArriveExpect a b c s) := isa_wf h fun _ _ _ => by simp [h]

@[simp] theorem execBwait_wf {s : State} {a b : BitVec 7} {c : BitVec 1} (h : s.mem.wf = true) :
    OutcomeWf (execBwait a b c s) := by
  refine isa_wf h fun r t f => ?_
  dsimp only
  split
  · exact barPlace_stop ‹_›
  · (repeat' split) <;> simp [h]

@[simp] theorem State.expireBar_wf {s : State} {l : Loc} (h : s.mem.wf = true) : (s.expireBar l).mem.wf = true := by
  unfold State.expireBar
  exact foldl_wf (fun s p h => State.raiseAt_wf (by simpa using h)) (by simpa using h)

@[simp] theorem execBarrierTimeout_wf {s : State} (h : s.mem.wf = true) : OutcomeWf (execBarrierTimeout s) := by
  unfold execBarrierTimeout
  (repeat' split) <;> simp [h]

/-! ### `Machine/Vector.lean`: floating-point instructions -/

@[simp] theorem withFlags_wf {r : FibreRef} {f : Fibre} {fl : FFlags} {write : Fibre → Fibre} {s : State} (h : s.mem.wf = true) :
    ActWf (withFlags r f fl write s) := by
  unfold withFlags
  (repeat' split) <;> simp [h]

@[simp] theorem elementwise_wf {n : Nat} {d : BitVec 7} {op : Fibre → Nat → FVal} {r : FibreRef} {t : Team} {f : Fibre} {s : State}
    (h : s.mem.wf = true) : ActWf (elementwise n d op r t f s) := withFlags_wf h

@[simp] theorem execFadd_wf {s : State} {d a b : BitVec 7} {t : BitVec 3} (h : s.mem.wf = true) : OutcomeWf (execFadd d a b t s) :=
  isa_wf h fun _ _ _ => by simp [h]

@[simp] theorem execFsub_wf {s : State} {d a b : BitVec 7} {t : BitVec 3} (h : s.mem.wf = true) : OutcomeWf (execFsub d a b t s) :=
  isa_wf h fun _ _ _ => by simp [h]

@[simp] theorem execFmul_wf {s : State} {d a b : BitVec 7} {t : BitVec 3} (h : s.mem.wf = true) : OutcomeWf (execFmul d a b t s) :=
  isa_wf h fun _ _ _ => by simp [h]

@[simp] theorem execFfma_wf {s : State} {d a b : BitVec 7} {t : BitVec 3} (h : s.mem.wf = true) : OutcomeWf (execFfma d a b t s) :=
  isa_wf h fun _ _ _ => by simp [h]

@[simp] theorem execFfms_wf {s : State} {d a b : BitVec 7} {t : BitVec 3} (h : s.mem.wf = true) : OutcomeWf (execFfms d a b t s) :=
  isa_wf h fun _ _ _ => by simp [h]

@[simp] theorem minMaxForm_wf {s : State} {max : Bool} {d a b : BitVec 7} {t : BitVec 3} (h : s.mem.wf = true) :
    OutcomeWf (minMaxForm max d a b t s) := isa_wf h fun _ _ _ => by simp [h]

@[simp] theorem execFmin_wf {s : State} {d a b : BitVec 7} {t : BitVec 3} (h : s.mem.wf = true) :
    OutcomeWf (execFmin d a b t s) := by
  simp [execFmin, h]

@[simp] theorem execFmax_wf {s : State} {d a b : BitVec 7} {t : BitVec 3} (h : s.mem.wf = true) :
    OutcomeWf (execFmax d a b t s) := by
  simp [execFmax, h]

@[simp] theorem execFcmp_wf {s : State} {p : BitVec 5} {c : BitVec 2} {a b : BitVec 7} {t : BitVec 1} {k : BitVec 3}
    (h : s.mem.wf = true) : OutcomeWf (execFcmp p c a b t k s) := isa_wf h fun _ _ _ => by simp [h]

@[simp] theorem execFcvt_wf {s : State} {d a k : BitVec 7} {sat : BitVec 1} {c : BitVec 3} (h : s.mem.wf = true) :
    OutcomeWf (execFcvt d a k sat c s) := isa_wf h fun _ _ _ => by simp [h]

@[simp] theorem execFrnd_wf {s : State} {d a : BitVec 7} {t c : BitVec 3} (h : s.mem.wf = true) : OutcomeWf (execFrnd d a t c s) :=
  isa_wf h fun _ _ _ => by simp [h]

@[simp] theorem execFtoi_wf {s : State} {d a : BitVec 7} {t : BitVec 3} {i : BitVec 2} {sat : BitVec 1} {c : BitVec 3}
    (h : s.mem.wf = true) : OutcomeWf (execFtoi d a t i sat c s) := isa_wf h fun _ _ _ => by simp [h]

@[simp] theorem execItof_wf {s : State} {d a : BitVec 7} {t : BitVec 3} {i : BitVec 2} {sat : BitVec 1} {c : BitVec 3}
    (h : s.mem.wf = true) : OutcomeWf (execItof d a t i sat c s) := isa_wf h fun _ _ _ => by simp [h]

@[simp] theorem execFspec_wf {s : State} {d a : BitVec 7} {t : BitVec 3} {fn : BitVec 4} (h : s.mem.wf = true) :
    OutcomeWf (execFspec d a t fn s) := isa_wf h fun _ _ _ => by simp [h]

@[simp] theorem execFdot_wf {s : State} {d a b : BitVec 7} {fn : BitVec 4} (h : s.mem.wf = true) :
    OutcomeWf (execFdot d a b fn s) :=
  isa_wf h fun _ _ _ => by (repeat' split) <;> simp [h]

@[simp] theorem execFscale_wf {s : State} {d a b : BitVec 7} {t : BitVec 3} (h : s.mem.wf = true) :
    OutcomeWf (execFscale d a b t s) := isa_wf h fun _ _ _ => by simp [h]

@[simp] theorem execFscaleE8m0_wf {s : State} {d a b : BitVec 7} {t : BitVec 3} (h : s.mem.wf = true) :
    OutcomeWf (execFscaleE8m0 d a b t s) := isa_wf h fun _ _ _ => by simp [h]

@[simp] theorem kvForm_wf {s : State} {max : Bool} {d a b : BitVec 7} {k : BitVec 2} (h : s.mem.wf = true) :
    OutcomeWf (kvForm max d a b k s) := isa_wf h fun _ _ _ => h

@[simp] theorem execKvmin_wf {s : State} {d a b : BitVec 7} {k : BitVec 2} (h : s.mem.wf = true) :
    OutcomeWf (execKvmin d a b k s) := by
  simp [execKvmin, h]

@[simp] theorem execKvmax_wf {s : State} {d a b : BitVec 7} {k : BitVec 2} (h : s.mem.wf = true) :
    OutcomeWf (execKvmax d a b k s) := by
  simp [execKvmax, h]

/-! ### `Machine/Cross.lean`: rendezvous and cross-fibre instructions -/

@[simp] theorem deliver_mem (r : FibreRef) (k : Nat × BitVec 32) (d : BitVec 7) (rs : List (Nat × Dword)) (flags : FFlags)
    (row : Nat) (s : State) : (deliver r k d rs flags row s).mem = s.mem := by simp -implicitDefEqProofs [deliver]

@[simp] theorem cross_wf {s : State} {d a m : BitVec 7} {rdD : Bool} {op : List Member → List (Nat × Dword) × FFlags}
    (h : s.mem.wf = true) : OutcomeWf (cross d a m rdD op s) :=
  isa_wf h fun _ _ _ => by
    dsimp only
    (repeat' split) <;> simp [h]

@[simp] theorem execXshf_wf {s : State} {d a m : BitVec 7} {k : BitVec 2} (h : s.mem.wf = true) :
    OutcomeWf (execXshf d a m k s) := by
  simp [execXshf, h]

@[simp] theorem execXred_wf {s : State} {d a m : BitVec 7} {f : BitVec 4} (h : s.mem.wf = true) :
    OutcomeWf (execXred d a m f s) := by
  simp [execXred, h]

@[simp] theorem execXscan_wf {s : State} {d a m : BitVec 7} {e : BitVec 1} {o : BitVec 3} (h : s.mem.wf = true) :
    OutcomeWf (execXscan d a m e o s) := by simp [execXscan, h]

@[simp] theorem execXvote_wf {s : State} {d a m : BitVec 7} {f : BitVec 4} (h : s.mem.wf = true) :
    OutcomeWf (execXvote d a m f s) := by
  simp [execXvote, h]

@[simp] theorem execXbcast_wf {s : State} {d a m : BitVec 7} (h : s.mem.wf = true) : OutcomeWf (execXbcast d a m s) := by
  simp [execXbcast, h]

@[simp] theorem execXbcastLane_wf {s : State} {d a m : BitVec 7} (h : s.mem.wf = true) : OutcomeWf (execXbcastLane d a m s) := by
  simp [execXbcastLane, h]

@[simp] theorem execXelect_wf {s : State} {d m : BitVec 7} (h : s.mem.wf = true) : OutcomeWf (execXelect d m s) := by
  simp [execXelect, h]

@[simp] theorem execXelectIf_wf {s : State} {d a m : BitVec 7} (h : s.mem.wf = true) : OutcomeWf (execXelectIf d a m s) := by
  simp [execXelectIf, h]

@[simp] theorem execXmatch_wf {s : State} {d a m : BitVec 7} {f : BitVec 4} (h : s.mem.wf = true) :
    OutcomeWf (execXmatch d a m f s) := by simp [execXmatch, h]

@[simp] theorem State.expireRendezvous_wf {s : State} {t : Team} {row : Nat} {k : Nat × BitVec 32} (h : s.mem.wf = true) :
    (s.expireRendezvous t row k).mem.wf = true := by simp +contextual [State.expireRendezvous, h]

@[simp] theorem execRendezvousTimeout_wf {s : State} (h : s.mem.wf = true) : OutcomeWf (execRendezvousTimeout s) := by
  unfold execRendezvousTimeout
  (repeat' split) <;> simp [h]

/-! ### `Machine/Tensor.lean`: tensor entries and records -/

@[simp] theorem State.dropCopies_mem (s : State) (line : Nat) : (s.dropCopies line).mem = s.mem := by simp [State.dropCopies]

@[simp] theorem State.writeEntry_wf {s : State} {m : MemLoc} {e : Entry} {w : Writer} {ctx : Nat} (h : s.mem.wf = true) :
    (s.writeEntry m e w ctx).mem.wf = true := by simp [State.writeEntry, h]

@[simp] theorem State.changeEntry_wf {s : State} {ctx n : Nat} {g : Entry → Entry} (h : s.mem.wf = true) :
    (s.changeEntry ctx n g).mem.wf = true := by
  unfold State.changeEntry
  split <;> simp [h]

/-- Of places resolved one after the other, the first that stops decides. -/
theorem mapM_stop {α β : Type} {g : α → Except Stop β} (hg : ∀ a e, g a = .error e → e.MemWf) {l : List α} {e : Stop}
    (he : l.mapM g = .error e) : e.MemWf := by
  induction l with
  | nil => cases he
  | cons a l ih =>
    rw [List.mapM_cons] at he
    cases ha : g a with
    | error x =>
      rw [ha] at he
      cases he
      exact hg a _ ha
    | ok b =>
      rw [ha] at he
      cases hl : l.mapM g with
      | error x =>
        rw [hl] at he
        cases he
        exact ih hl
      | ok bs =>
        rw [hl] at he
        cases he

theorem recordPlaces_stop {r : FibreRef} {t : Team} {f : Fibre} {va n : Nat} {s : State} {e : Stop} (h : s.mem.wf = true)
    (he : recordPlaces r t f va n s = .error e) : e.MemWf :=
  mapM_stop (fun _ _ => place_stop h) he

theorem recordDword_mem {r : FibreRef} {t : Team} {f : Fibre} {va part : Nat} {l : Loc} {s : State} {p : Nat × State}
    (e : recordDword r t f va part l s = .ok p) : p.2.mem = s.mem := by
  unfold recordDword at e
  split at e
  · cases e; rfl
  · dsimp only at e
    split at e <;> cases e
    exact State.loadPlace_mem s t f l 8 plain

@[simp] theorem State.settleLost_wf {s : State} {r : FibreRef} {f : Fibre} {va : Nat} (h : s.mem.wf = true) :
    (s.settleLost r f va).mem.wf = true := by simp [State.settleLost, h]

@[simp] theorem recordFailed_wf {r : FibreRef} {f : Fibre} {va : Nat} {o : RemoteOp} {s : State} (h : s.mem.wf = true) :
    (recordFailed r f va o s).MemWf := by
  unfold recordFailed
  split <;> simp [h]

/-- A record's dwords are read one after the other, and a read that fails ends them. -/
theorem recordFold_wf {α : Type} {g : Except Trap (Nat × State) → α → Except Trap (Nat × State)} {l : List α}
    {x : Except Trap (Nat × State)} (hx : ∀ p, x = .ok p → p.2.mem.wf = true)
    (hg : ∀ x a, (∀ p, x = .ok p → p.2.mem.wf = true) → ∀ p, g x a = .ok p → p.2.mem.wf = true) :
    AnswerWf (fun p => p.2.mem.wf = true) ((l.foldl g x).mapError Stop.trap) := by
  have hl : ∀ p, l.foldl g x = .ok p → p.2.mem.wf = true :=
    List.foldlRecOn (motive := fun x => ∀ p, x = .ok p → p.2.mem.wf = true) l g hx fun x hx a _ => hg x a hx
  cases hr : l.foldl g x with
  | error e => trivial
  | ok p => exact hl p hr

theorem recordAt_wf {r : FibreRef} {t : Team} {f : Fibre} {va n base : Nat} {s : State} (h : s.mem.wf = true) :
    AnswerWf (fun p => p.2.mem.wf = true) (recordAt r t f va n base s) := by
  unfold recordAt
  split
  · exact recordPlaces_stop h ‹_›
  next ls _ =>
    dsimp only
    split
    · split
      · exact h
      · refine Stop.MemWf_hold.mpr (foldl_wf (fun s p h => ?_) h)
        split <;> simp [h]
    · split
      · exact recordFailed_wf h
      · split
        · exact h
        · refine recordFold_wf (fun p hp => by cases hp; exact h) fun x a hx p hp => ?_
          split at hp
          · cases hp
          · split at hp <;> cases hp
            next hd => rw [recordDword_mem hd]; exact hx _ rfl

/-- A record is read, then the meaning goes on from its number. -/
theorem withRecord_wf {r : FibreRef} {t : Team} {f : Fibre} {va n align : Nat} {s : State} {k : Nat → State → Act}
    (h : s.mem.wf = true) (hk : ∀ v s, s.mem.wf = true → ActWf (k v s)) : ActWf (withRecord r t f va n align s k) := by
  unfold withRecord
  split
  · trivial
  · have ha := recordAt_wf (r := r) (t := t) (f := f) (va := va) (n := n) (base := 0) h
    split
    · simpa [*] using ha
    · exact hk _ _ (by simpa [*] using ha)

@[simp] theorem State.entryTouched_mem (s : State) (t : Team) (f : Fibre) (m : MemLoc) : (s.entryTouched t f m).mem = s.mem := by
  simp [State.entryTouched]

theorem withEntry_wf {n : Nat} {t : Team} {f : Fibre} {s : State} {k : MemLoc → Entry → State → Act} (h : s.mem.wf = true)
    (hk : ∀ m e s, s.mem.wf = true → ActWf (k m e s)) : ActWf (withEntry n t f s k) := by
  unfold withEntry
  split
  · trivial
  · split
    · exact h
    · split
      · trivial
      · exact hk _ _ _ (by simp [h])

/-- Entries that an instruction reads are touched after its meaning, which leaves memory alone. -/
theorem reading_wf {ns : List Nat} {t : Team} {f : Fibre} {s : State} {a : Act} (h : s.mem.wf = true) (ha : ActWf a) :
    ActWf (reading ns t f s a) := by
  unfold reading
  dsimp only
  split
  · exact h
  · cases a with
    | error e => exact ha
    | ok u =>
      refine foldl_wf (fun s n h => ?_) ha
      split <;> simp [h]

@[simp] theorem changeEntryBy_wf {n : Nat} {r : FibreRef} {t : Team} {f : Fibre} {s : State} {g : Entry → Except Trap Entry}
    (h : s.mem.wf = true) : ActWf (changeEntryBy n r t f s g) := by
  refine withEntry_wf h fun m e u hu => ?_
  (repeat' split) <;> simp [h, hu]

@[simp] theorem execTdef_wf {s : State} {a : BitVec 7} {n : BitVec 10} (h : s.mem.wf = true) : OutcomeWf (execTdef a n s) := by
  refine isa_wf h fun r t f => withRecord_wf h fun v u hu => ?_
  (repeat' split) <;> simp [h, hu]

@[simp] theorem execTdefQuery_wf {s : State} {d : BitVec 7} {n : BitVec 10} {k : BitVec 4} (h : s.mem.wf = true) :
    OutcomeWf (execTdefQuery d n k s) :=
  isa_wf h fun _ _ _ => withEntry_wf h fun _ _ _ h => h

@[simp] theorem execTdefBind_wf {s : State} {a b : BitVec 7} {n : BitVec 10} (h : s.mem.wf = true) :
    OutcomeWf (execTdefBind a b n s) := isa_wf h fun _ _ _ => by simp [h]

@[simp] theorem execTdefFill_wf {s : State} {a : BitVec 7} {n : BitVec 10} (h : s.mem.wf = true) : OutcomeWf (execTdefFill a n s) :=
  isa_wf h fun _ _ _ => by simp [h]

@[simp] theorem execTdefBounds_wf {s : State} {a : BitVec 7} {n : BitVec 10} {k : BitVec 3} (h : s.mem.wf = true) :
    OutcomeWf (execTdefBounds a n k s) := isa_wf h fun _ _ _ => by simp [h]

/-! ### `Machine/Demands.lean`: demands on placed tensors -/

@[simp] theorem State.own_mem (s : State) (cmd ctx : Nat) (lines : List Nat) : (s.own cmd ctx lines).mem = s.mem := by
  simp [State.own]

@[simp] theorem State.releaseLines_mem (s : State) (cmd : Nat) (keep : List Nat) : (s.releaseLines cmd keep).mem = s.mem := by
  simp [State.releaseLines]

@[simp] theorem State.beginConversion_wf {s : State} {ctx tid demand : Nat} (h : s.mem.wf = true) :
    (s.beginConversion ctx tid demand).mem.wf = true := by simp [State.beginConversion, h]

@[simp] theorem State.dropDemand_mem (s : State) (who : Asker) : (s.dropDemand who).mem = s.mem := by simp [State.dropDemand]

@[simp] theorem State.addDemand_mem (s : State) (d : Demand) : (s.addDemand d).mem = s.mem := by
  simp [State.addDemand, apply_ite State.mem]

@[simp] theorem State.ownSlots_mem (s : State) (ctx tid : Nat) : (s.ownSlots ctx tid).mem = s.mem := by
  unfold State.ownSlots
  split <;> simp

@[simp] theorem State.releaseSlots_mem (s : State) (ctx tid : Nat) : (s.releaseSlots ctx tid).mem = s.mem := by
  simp [State.releaseSlots]

@[simp] theorem State.serveDemands_wf {s : State} {ctx tid : Nat} (h : s.mem.wf = true) :
    (s.serveDemands ctx tid).mem.wf = true := by
  unfold State.serveDemands
  dsimp only
  (repeat' split) <;> simp [h]

@[simp] theorem State.ungrant_mem (s : State) (who : Asker) : (s.ungrant who).mem = s.mem := by simp [State.ungrant]

theorem State.examine_waits_wf {s u : State} {e : Entry} {d : Demand} (h : s.mem.wf = true) (hu : s.examine e d = .waits u) :
    u.mem.wf = true := by
  unfold State.examine at hu
  dsimp only at hu
  (repeat' split at hu) <;> cases hu <;> exact State.serveDemands_wf (by simpa using h)

@[simp] theorem State.acquireSlots_mem (s : State) (t : Team) (f : Fibre) (e : Entry) : (s.acquireSlots t f e).mem = s.mem := by
  simp [State.acquireSlots]

end Sys2Proof.Machine
end

section
/-! SUPPORT. Tiles, matrix operations, reductions and engine commands keep the form of the memory. -/

namespace Sys2Proof.Machine

/-! ### `Machine/Tiles.lean`: tile moves and accumulators -/

@[simp] theorem loadSpan_mem (s : State) (t : Team) (f : Fibre) (seq : Nat) (l : Loc) (n : Nat) (st : Strength) :
    (loadSpan s t f seq l n st).2.mem = s.mem := by
  unfold loadSpan
  exact foldl_snd_mem (by simp) _ _

@[simp] theorem readPieces_mem (s : State) (t : Team) (f : Fibre) (seq : Nat) (ps : List Piece) :
    (readPieces s t f seq ps).2.mem = s.mem := by
  unfold readPieces
  refine foldl_snd_mem (fun p a => ?_) _ _
  cases a <;> simp

@[simp] theorem State.landMove_wf {s : State} {r : FibreRef} {t : Team} {f : Fibre} {m : Move} {bs : List Byte} {poison : Bool}
    (h : s.mem.wf = true) : (s.landMove r t f m bs poison).mem.wf = true := by
  unfold State.landMove
  extract_lets landed
  have hl : landed.mem.wf = true := foldl_fst_wf (fun p a hp => State.modifyAt_wf hp) h
  split
  · exact foldl_wf (fun s a h => State.poisonAt_wf h) hl
  · exact hl

@[simp] theorem queueMove_mem (r : FibreRef) (m : Move) (bs : List Byte) (poison : Bool) (s : State) :
    (queueMove r m bs poison s).mem = s.mem := by
  unfold queueMove
  extract_lets queued
  have hq : queued.mem = s.mem := by
    refine foldl_fst_mem (fun p a => ?_) _ _
    simp [queueStore_mem]
  split
  · exact (foldl_mem (fun s a => by simp [queueStore_mem]) _ _).trans hq
  · exact hq

theorem withMoves_wf {r : FibreRef} {t : Team} {f : Fibre} {va : Nat} {ms : List Move} {s : State} {k : List Move → State → Act}
    (h : s.mem.wf = true) (hk : ∀ ms s, s.mem.wf = true → ActWf (k ms s)) : ActWf (withMoves r t f va ms s k) := by
  unfold withMoves
  dsimp only
  split
  · exact hk _ _ h
  · exact remoteAccess_wf h fun _ _ h => hk _ _ h

@[simp] theorem tileLoad_wf {r : FibreRef} {t : Team} {f : Fibre} {es ed : Entry} {x : TileShape} {s : State}
    (h : s.mem.wf = true) :
    ActWf (tileLoad r t f es ed x s) := by
  unfold tileLoad
  dsimp only
  split
  · trivial
  · split
    · trivial
    · exact withMoves_wf h fun _ _ h => issueLong_wf h

@[simp] theorem execTld_wf {s : State} {d a b : BitVec 7} {ts td : BitVec 10} (h : s.mem.wf = true) :
    OutcomeWf (execTld d a b ts td s) := by
  refine isa_wf h fun r t f => reading_wf h ?_
  split
  · trivial
  · exact tileLoad_wf h

@[simp] theorem execTldDem_wf {s : State} {d a b : BitVec 7} {ts td : BitVec 10} (h : s.mem.wf = true) :
    OutcomeWf (execTldDem d a b ts td s) := by
  refine isa_wf h fun r t f => reading_wf h ?_
  split
  · trivial
  · split
    · exact tileLoad_wf h
    · split
      · trivial
      · split
        · exact State.examine_waits_wf h ‹_›
        · exact tileLoad_wf (by split <;> simp [h])

@[simp] theorem storeMoves_wf {r : FibreRef} {t : Team} {f : Fibre} {len va : Nat} {ms : List Move} {s : State}
    (h : s.mem.wf = true) : ActWf (storeMoves r t f len va ms s) := by
  unfold storeMoves
  split
  · exact h
  · refine withMoves_wf h fun ms u hu => ?_
    dsimp only
    split
    · refine (issueLong_wf (foldl_snd_wf (fun p a hp => ?_) hu)).of_error ‹_›
      simpa using hp
    next w hw =>
      refine foldl_wf (fun s p h => ?_) ((issueLong_wf (foldl_snd_wf (fun p a hp => ?_) hu)).of_ok hw)
      · simpa using h
      · simpa using hp

@[simp] theorem execTst_wf {s : State} {d a b : BitVec 7} {ts td : BitVec 10} (h : s.mem.wf = true) :
    OutcomeWf (execTst d a b ts td s) := by
  refine isa_wf h fun r t f => reading_wf h ?_
  split
  · trivial
  · dsimp only
    (repeat' split) <;> simp [h]

@[simp] theorem dropTile_wf {r : FibreRef} {t : Team} {f : Fibre} {op : LongOp} {ms : List Move} {s : State}
    (h : s.mem.wf = true) : (dropTile r t f op ms s).mem.wf = true := by
  unfold dropTile
  (repeat' split) <;> simp +contextual [h]

theorem placesOf_stop {α : Type} {s : State} {r : FibreRef} {t : Team} {f : Fibre} {k : AccKind} {space : Nat}
    {g : Nat × Nat → Loc → α} {l : List (Nat × Nat)} {e : Stop} (h : s.mem.wf = true)
    (he : l.mapM (fun p => (place s r t f k space p.1 1 1).map (g p)) = .error e) : e.MemWf := by
  refine mapM_stop (fun p x hx => ?_) he
  cases hp : place s r t f k space p.1 1 1 with
  | error y => rw [hp] at hx; cases hx; exact place_stop h hp
  | ok l => rw [hp] at hx; cases hx

@[simp] theorem execMetaLd_wf {s : State} {a b : BitVec 7} {off : BitVec 12} {sp : BitVec 1} (h : s.mem.wf = true) :
    OutcomeWf (execMetaLd a b off sp s) := by
  refine isa_wf h fun r t f => ?_
  extract_lets va n
  split
  · trivial
  · split
    · trivial
    · split
      · trivial
      · split
        · trivial
        · split
          · exact placesOf_stop h ‹_›
          · exact withMoves_wf h fun _ _ h => issueLong_wf h

@[simp] theorem dropMeta_mem (r : FibreRef) (t : Team) (f : Fibre) (op : LongOp) (off : Nat) (ps : List Piece) (s : State) :
    (dropMeta r t f op off ps s).mem = s.mem := by
  unfold dropMeta
  split
  · rfl
  · rw [finishLong_mem]
    exact foldl_snd_mem (fun p a => by simp) _ _

@[simp] theorem execMetaRd_wf {s : State} {d a : BitVec 7} (h : s.mem.wf = true) : OutcomeWf (execMetaRd d a s) :=
  isa_wf h fun _ _ _ => by
    dsimp only
    (repeat' split) <;> simp [h]

@[simp] theorem execAccZero_wf {s : State} {k : BitVec 6} (h : s.mem.wf = true) : OutcomeWf (execAccZero k s) :=
  isa_wf h fun _ _ _ => by (repeat' split) <;> simp [h]

@[simp] theorem execAccLd_wf {s : State} {a : BitVec 7} {k : BitVec 6} {n : BitVec 10} (h : s.mem.wf = true) :
    OutcomeWf (execAccLd a k n s) := by
  refine isa_wf h fun r t f => reading_wf h ?_
  split
  · trivial
  · dsimp only
    split
    · trivial
    · split
      · trivial
      · refine withMoves_wf h fun ms u hu => ?_
        split
        · exact hu
        · refine foldl_snd_wf (fun p a hp => ?_) hu
          simpa using hp

@[simp] theorem execAccRd_wf {s : State} {d a : BitVec 7} {k : BitVec 6} (h : s.mem.wf = true) : OutcomeWf (execAccRd d a k s) :=
  isa_wf h fun _ _ _ => by
    dsimp only
    (repeat' split) <;> simp [h]

@[simp] theorem execAccSt_wf {s : State} {a b : BitVec 7} {k : BitVec 6} {n : BitVec 10} {rm : BitVec 3} {sat it : BitVec 1}
    (h : s.mem.wf = true) : OutcomeWf (execAccSt a b k n rm sat it s) := by
  refine isa_wf h fun r t f => reading_wf h ?_
  split
  · trivial
  · extract_lets
    split
    split
    · trivial
    · trivial
    · split
      · trivial
      · split
        · exact h
        · refine withMoves_wf h fun ms u hu => ?_
          split
          · exact (issueLong_wf hu).of_error ‹_›
          next w hw =>
            refine foldl_wf (fun s p h => ?_) ((issueLong_wf hu).of_ok hw)
            rwa [queueMove_mem]

/-! ### `Machine/Matrix.lean`: convergence registers and MMA -/

@[simp] theorem execCvdecl_wf {s : State} {c : BitVec 3} {a : BitVec 7} (h : s.mem.wf = true) : OutcomeWf (execCvdecl c a s) :=
  isa_wf h fun _ _ _ => by
    dsimp only
    (repeat' split) <;> simp [h]

@[simp] theorem execCvstat_wf {s : State} {d : BitVec 7} {c : BitVec 3} (h : s.mem.wf = true) : OutcomeWf (execCvstat d c s) :=
  isa_wf h fun _ _ _ => h

@[simp] theorem execCvclear_wf {s : State} {c : BitVec 3} (h : s.mem.wf = true) : OutcomeWf (execCvclear c s) :=
  isa_wf h fun _ _ _ => by (repeat' split) <;> simp [h]

@[simp] theorem State.failSigners_wf {s : State} {team k : Nat} {tr : Trap} (h : s.mem.wf = true) :
    (s.failSigners team k tr).mem.wf = true := by
  unfold State.failSigners
  (repeat' split) <;> simp +contextual [h]

@[simp] theorem State.issueMma_mem (s : State) (t : Team) (k : Nat) (m : MmaOp) : (s.issueMma t k m).mem = s.mem := by
  simp [State.issueMma]

@[simp] theorem completeSignature_wf {r : FibreRef} {t : Team} {f : Fibre} {k : Nat} {c : Conv}
    {tile a b acc sat kind ta tb depth n : Nat} {s : State} (h : s.mem.wf = true) :
    ActWf (completeSignature r t f k c tile a b acc sat kind ta tb depth n s) := by
  unfold completeSignature
  extract_lets vals ra rb fail
  have hf : ∀ e, ActWf (fail e) := fun e => by simp [fail, h]
  split
  · exact h
  · refine reading_wf h ?_
    split
    · exact hf _
    · dsimp only
      split
      · exact hf _
      · simp [h]

@[simp] theorem execMma_wf {s : State} {tile : BitVec 6} {a b : BitVec 7} {acc sat : BitVec 1} {kind : BitVec 2}
    {ta tb : BitVec 10} {cv : BitVec 3} {k : BitVec 7} {n : BitVec 2} (h : s.mem.wf = true) :
    OutcomeWf (execMma tile a b acc sat kind ta tb cv k n s) :=
  isa_wf h fun _ _ _ => by
    dsimp only
    (repeat' split) <;> simp [h]

@[simp] theorem execConvergenceTimeout_wf {s : State} (h : s.mem.wf = true) : OutcomeWf (execConvergenceTimeout s) := by
  unfold execConvergenceTimeout
  (repeat' split) <;> simp [h]

@[simp] theorem State.dropSigners_mem (s : State) (m : MmaOp) : (s.dropSigners m).mem = s.mem := by
  simp -implicitDefEqProofs [State.dropSigners]

@[simp] theorem State.raiseSigners_wf {s : State} {m : MmaOp} {cause : Nat} (h : s.mem.wf = true) :
    (s.raiseSigners m cause).mem.wf = true := by simp +contextual [State.raiseSigners, h]

@[simp] theorem State.raiseCheck_wf {s : State} {m : MmaOp} (h : s.mem.wf = true) : (s.raiseCheck m).mem.wf = true := by
  unfold State.raiseCheck
  split
  · exact h
  · dsimp only
    split
    · simp [h]
    · exact foldl_wf (fun s a h => State.markFault_wf h) (State.writeRecord_wf (by simpa using h))

@[simp] theorem completeMma_wf {m : MmaOp} {t : Team} {resid : Nat} {s : State} (h : s.mem.wf = true) :
    (completeMma m t resid s).mem.wf = true := by
  unfold completeMma
  dsimp only
  (repeat' split) <;> simp [h]

@[simp] theorem execMmaComplete_wf {resid : BitVec 2} {s : State} (h : s.mem.wf = true) : OutcomeWf (execMmaComplete resid s) := by
  unfold execMmaComplete
  (repeat' split) <;> simp [h]

@[simp] theorem State.putElem_wf {s : State} {r : FibreRef} {t : Team} {f : Fibre} {e : Entry} {ix : Index} {v : Nat}
    {poison : Bool} (h : s.mem.wf = true) : (s.putElem r t f e ix v poison).mem.wf = true := by
  unfold State.putElem
  split <;> simp [h]

@[simp] theorem compressGroup_wf {r : FibreRef} {t : Team} {f : Fibre} {es ed : Entry} {ra rb n g j : Nat} {s : State}
    (h : s.mem.wf = true) : (compressGroup r t f es ed ra rb n g j s).mem.wf = true := by simp +contextual [compressGroup, h]

@[simp] theorem expandGroup_wf {r : FibreRef} {t : Team} {f : Fibre} {es ed : Entry} {ra rb n g j : Nat} {s : State}
    (h : s.mem.wf = true) : (expandGroup r t f es ed ra rb n g j s).mem.wf = true := by
  unfold expandGroup
  refine foldl_fst_wf (fun p i hp => ?_) h
  dsimp only
  split <;> exact State.putElem_wf hp

theorem metaForm_wf {ts td depth n : Nat} {v : Dword} {expand : Bool} {g : Entry → Entry → Team → Nat → Nat → State → State}
    {r : FibreRef} {t : Team} {f : Fibre} {s : State} (h : s.mem.wf = true)
    (hg : ∀ es ed t k j s, s.mem.wf = true → (g es ed t k j s).mem.wf = true) :
    ActWf (metaForm ts td depth n v expand g r t f s) := by
  refine reading_wf h ?_
  split
  · trivial
  · split
    · trivial
    · split
      · exact h
      · exact foldl_wf (fun s k h => foldl_wf (fun s j h => hg _ _ _ _ _ _ h) h) h

@[simp] theorem execMetaCompress_wf {s : State} {a b : BitVec 7} {ts td : BitVec 10} {k : BitVec 7} {n : BitVec 2}
    (h : s.mem.wf = true) : OutcomeWf (execMetaCompress a b ts td k n s) :=
  isa_wf h fun _ _ _ => metaForm_wf h fun _ _ _ _ _ _ h => compressGroup_wf h

@[simp] theorem execMetaExpand_wf {s : State} {a b : BitVec 7} {ts td : BitVec 10} {k : BitVec 7} {n : BitVec 2}
    (h : s.mem.wf = true) : OutcomeWf (execMetaExpand a b ts td k n s) :=
  isa_wf h fun _ _ _ => metaForm_wf h fun _ _ _ _ _ _ h => expandGroup_wf h

/-! ### `Machine/Reduce.lean`: reductions at memory -/

@[simp] theorem State.combineAt_wf {s : State} {m : MemLoc} {ft op v : Nat} {w : Writer} {ctx : Nat} (h : s.mem.wf = true) :
    (s.combineAt m ft op v w ctx).mem.wf = true := by
  unfold State.combineAt
  (repeat' split) <;> simp [h]

@[simp] theorem execRedfPerform_wf {s : State} (h : s.mem.wf = true) : OutcomeWf (execRedfPerform s) := by
  unfold execRedfPerform
  (repeat' split) <;> simp [h]

/-! ### `Machine/Engines.lean`: engine commands -/

theorem mapError_trap_stop {α : Type} {x : Except Trap α} {e : Stop} (he : x.mapError Stop.trap = .error e) : e.MemWf := by
  cases x <;> cases he
  trivial

theorem targetOf_stop {s : State} {r : FibreRef} {t : Team} {f : Fibre} {v : Dword} {e : Stop} (h : s.mem.wf = true)
    (he : targetOf s r t f v = .error e) : e.MemWf := by
  unfold targetOf at he
  dsimp only at he
  split at he
  · cases he; trivial
  · split at he
    · cases he; trivial
    · split at he
      · exact mapError_trap_stop he
      · split at he
        · exact mapError_trap_stop he
        · split at he <;> cases he
          · exact place_stop h ‹_›
          · trivial

@[simp] theorem State.dropCompletion_mem (s : State) (t : Team) : (s.dropCompletion t).mem = s.mem := by
  simp [State.dropCompletion]

@[simp] theorem State.poisonBytes_wf {s : State} {l : Loc} {offs : List Nat} (h : s.mem.wf = true) :
    (s.poisonBytes l offs).mem.wf = true := by simp +contextual [State.poisonBytes, h]

/-- A combination in a scratchpad keeps the form where the write of its result, `put`, does. -/
theorem State.combineScratch_wf {s : State} {l : Loc} {die ft op : Nat} {v : Dword} {poison : Bool}
    {put : State → List (Option Byte) → State} (h : s.mem.wf = true) (hp : ∀ bs, (put s bs).mem.wf = true) :
    (s.combineScratch l die ft op v poison put).mem.wf = true := by
  unfold State.combineScratch
  dsimp only
  (repeat' split) <;> simp [h, hp]

@[simp] theorem State.arriveAt_mem (s : State) (l : Loc) : (s.arriveAt l).mem = s.mem := by simp [State.arriveAt]

@[simp] theorem State.applyCompletion_wf {s : State} {team : Nat} {c : Completion} (h : s.mem.wf = true) :
    (s.applyCompletion team c).mem.wf = true := by
  cases c with
  | combine o ft op v q => exact State.combineScratch_wf h fun bs => by simp [h]
  | _ => simp only [State.applyCompletion]; (repeat' split) <;> simp [h]

@[simp] theorem State.completeAt_wf {s : State} {team : Nat} {c : Completion} (h : s.mem.wf = true) :
    (s.completeAt team c).mem.wf = true := by
  unfold State.completeAt
  (repeat' split) <;> simp [h]

@[simp] theorem State.landTarget_wf {s : State} {l : Loc} {n : Nat} (h : s.mem.wf = true) : (s.landTarget l n).mem.wf = true := by
  unfold State.landTarget
  split <;> simp [h]

@[simp] theorem State.engineScratch_wf {s : State} {l : Loc} {bs : List (Option Byte)} {poison : List Nat} {alone : Bool}
    (h : s.mem.wf = true) : (s.engineScratch l bs poison alone).mem.wf = true := by
  unfold State.engineScratch
  split <;> simp [h]

@[simp] theorem State.engineNibble_wf {s : State} {l : Loc} {high : Bool} {v : BitVec 4} {poison alone : Bool}
    (h : s.mem.wf = true) : (s.engineNibble l high v poison alone).mem.wf = true := by
  unfold State.engineNibble
  (repeat' split) <;> simp [h]

@[simp] theorem State.engineCombine_wf {s : State} {l : Loc} {die ft op : Nat} {v : Dword} {poison alone : Bool}
    (h : s.mem.wf = true) : (s.engineCombine l die ft op v poison alone).mem.wf = true := by
  unfold State.engineCombine
  split
  · simp [h]
  · exact State.combineScratch_wf h fun bs => by simp [h]
  · exact h

@[simp] theorem waitIn_wf {s0 : State} {a : Act} (h : s0.mem.wf = true) (ha : ActWf a) : ActWf (waitIn s0 a) := by
  unfold waitIn
  split
  · exact h
  · exact ha

theorem issueCmds_wf {r : FibreRef} {t : Team} {f : Fibre} {len : Nat} {vals : List (Nat × Dword)} {mk : Nat → List Cmd}
    {s0 s : State} (h0 : s0.mem.wf = true) (h : s.mem.wf = true) : ActWf (issueCmds r t f len vals mk s0 s) := by
  unfold issueCmds
  split
  · exact h0
  · extract_lets cs u
    have hu : u.mem.wf = true := h
    split
    · exact (waitIn_wf h0 (issueLong_wf hu)).of_error ‹_›
    next w hw =>
      refine foldl_wf (fun s c h => ?_) ((waitIn_wf h0 (issueLong_wf hu)).of_ok hw)
      simpa using h

@[simp] theorem execTcopy_wf {s : State} {d a b : BitVec 7} {ts : BitVec 10} {rr j c : BitVec 7} (h : s.mem.wf = true) :
    OutcomeWf (execTcopy d a b ts rr j c s) := by
  refine isa_wf h fun r t f => ?_
  split
  · exact targetOf_stop h ‹_›
  · refine withRecord_wf h fun v u hu => reading_wf h ?_
    split
    · trivial
    · extract_lets
      split
      · trivial
      · split
        · trivial
        · trivial
        · exact issueCmds_wf h hu

theorem readLinks_wf {r : FibreRef} {t : Team} {f : Fibre} {fuel k va : Nat} {s : State} (h : s.mem.wf = true) :
    AnswerWf (fun p => p.2.mem.wf = true) (readLinks r t f fuel k va s) := by
  induction fuel generalizing k va s with
  | zero => trivial
  | succ fuel ih =>
    unfold readLinks
    have ha := recordAt_wf (r := r) (t := t) (f := f) (va := va) (n := 8) (base := 8 * k) h
    split
    · trivial
    · split
      · simpa [*] using ha
      next v u hu =>
        have hu : u.mem.wf = true := by simpa [hu] using ha
        split
        · trivial
        · dsimp only
          split
          · exact hu
          · have hl := ih (k := k + 1) (va := (linkOf v).next) hu
            split <;> simpa [*] using hl

@[simp] theorem execChain_wf {s : State} {d a c : BitVec 7} (h : s.mem.wf = true) : OutcomeWf (execChain d a c s) := by
  refine isa_wf h fun r t f => ?_
  split
  · exact targetOf_stop h ‹_›
  · have hl := readLinks_wf (r := r) (t := t) (f := f) (fuel := 64) (k := 0) (va := (f.reg a.toNat).toNat) h
    split
    · simpa [*] using hl
    next ls u hu => exact issueCmds_wf h (by simpa [hu] using hl)

@[simp] theorem State.updCmd_mem (s : State) (id : Nat) (g : Cmd → Cmd) : (s.updCmd id g).mem = s.mem := by simp [State.updCmd]

@[simp] theorem State.removeCmd_mem (s : State) (id : Nat) : (s.removeCmd id).mem = s.mem := by simp [State.removeCmd]

@[simp] theorem State.landCmd_wf {s : State} {c : Cmd} {n : Nat} (h : s.mem.wf = true) : (s.landCmd c n).mem.wf = true := by
  unfold State.landCmd
  split <;> simp [h]

@[simp] theorem State.raiseCmd_wf {s : State} {c : Cmd} (h : s.mem.wf = true) : (s.raiseCmd c).mem.wf = true := by
  unfold State.raiseCmd
  (repeat' split) <;> simp [h]

@[simp] theorem State.endCmd_wf {s : State} {c : Cmd} (h : s.mem.wf = true) : (s.endCmd c).mem.wf = true := by
  unfold State.endCmd
  dsimp only
  (repeat' split) <;> simp [h]

@[simp] theorem engineRead_mem (s : State) (c : Cmd) (l : Loc) (n : Nat) : (engineRead s c l n).2.mem = s.mem := by
  unfold engineRead
  dsimp only
  (repeat' split) <;> simp

@[simp] theorem enginePieces_mem (s : State) (c : Cmd) (ps : List Piece) : (enginePieces s c ps).2.mem = s.mem := by
  unfold enginePieces
  refine foldl_snd_mem (fun p a => ?_) _ _
  cases a with
  | known bs => rfl
  | read l n => exact foldl_snd_mem (by simp) _ _

@[simp] theorem State.takeCmdAnswers_mem (s : State) (cmd : Nat) : (s.takeCmdAnswers cmd).mem = s.mem := by
  simp [State.takeCmdAnswers]

@[simp] theorem State.sendRead_mem (s : State) (c : Cmd) (x : FarRead) : (s.sendRead c x).mem = s.mem := by
  unfold State.sendRead
  split <;> rfl

theorem fetchRemote_mem {s : State} {c : Cmd} {g : Stage} :
    (∀ u, fetchRemote s c g = .error u → u.mem = s.mem) ∧ ∀ p, fetchRemote s c g = .ok p → p.2.mem = s.mem := by
  have hm : ∀ xs : List FarRead, (xs.foldl (fun s x => s.sendRead c x) s).mem = s.mem := fun xs =>
    foldl_mem (by simp) xs s
  unfold fetchRemote
  dsimp only
  (repeat' split) <;> simp_all

@[simp] theorem readStage_mem (s : State) (c : Cmd) (g : Stage) (rest : List Stage) : (readStage s c g rest).mem = s.mem := by
  unfold readStage
  split
  · exact fetchRemote_mem.1 _ ‹_›
  next p u hu =>
    have hu : u.mem = s.mem := fetchRemote_mem.2 _ hu
    split
    · exact hu
    · exact (foldl_snd_mem (fun p a => by simp) _ _).trans hu

@[simp] theorem performChunk_wf {s : State} {c : Cmd} {k : Chunk} (h : s.mem.wf = true) : (performChunk s c k).mem.wf = true := by
  unfold performChunk
  dsimp only
  (repeat' split) <;> simp [h]

@[simp] theorem sendChunk_mem (s : State) (c : Cmd) (coord va : Nat) (bs : List Byte) :
    (sendChunk s c coord va bs).mem = s.mem := by
  simp [sendChunk]

@[simp] theorem advanceStage_wf {s : State} {c : Cmd} {g : Stage} {rest : List Stage} (h : s.mem.wf = true) :
    (advanceStage s c g rest).mem.wf = true := by
  unfold advanceStage
  (repeat' split) <;> simp [h]

@[simp] theorem advanceCopy_wf {s : State} {c : Cmd} (h : s.mem.wf = true) : (advanceCopy s c).mem.wf = true := by
  unfold advanceCopy
  (repeat' split) <;> simp [h]

@[simp] theorem State.answerChunk_wf {s : State} {cmd off : Nat} {bs : List (Option Byte)} {failed : Option Nat}
    (h : s.mem.wf = true) : (s.answerChunk cmd off bs failed).mem.wf = true := by
  unfold State.answerChunk
  (repeat' split) <;> simp [h]

@[simp] theorem State.endConvert_wf {s : State} {c : Cmd} (h : s.mem.wf = true) : (s.endConvert c).mem.wf = true := by
  unfold State.endConvert
  (repeat' split) <;> simp [h]

@[simp] theorem execEngineLanding_wf {cmd : Nat} {s : State} (h : s.mem.wf = true) : OutcomeWf (execEngineLanding cmd s) := by
  unfold execEngineLanding
  (repeat' split) <;> simp [h]

@[simp] theorem execEngineCompletionWord_wf {cmd : Nat} {s : State} (h : s.mem.wf = true) :
    OutcomeWf (execEngineCompletionWord cmd s) := by
  unfold execEngineCompletionWord
  (repeat' split) <;> simp [h]

@[simp] theorem dropCmd_mem (r : FibreRef) (op : LongOp) (grp : Nat) (vals : List (Nat × Dword)) (s : State) :
    (dropCmd r op grp vals s).mem = s.mem := by
  unfold dropCmd
  (repeat' split) <;> simp

end Sys2Proof.Machine
end

section
/-! SUPPORT. Placement, search, travel, channels and distributors keep the form of the memory. -/

namespace Sys2Proof.Machine

/-! ### `Machine/Placement.lean`: PLACE and conversions -/

@[simp] theorem State.startSeal_mem (s : State) (e : Entry) (x : Sealing) : (s.startSeal e x).mem = s.mem := by
  simp [State.startSeal]

@[simp] theorem State.finishSeal_wf {s : State} {x : Sealing} (h : s.mem.wf = true) : (s.finishSeal x).mem.wf = true := by
  simp [State.finishSeal, h]

@[simp] theorem execSealComplete_wf {s : State} (h : s.mem.wf = true) : OutcomeWf (execSealComplete s) := by
  unfold execSealComplete
  (repeat' split) <;> simp [h]

theorem placed_wf {s : State} {d : BitVec 7} {tid : BitVec 10}
    {body : FibreRef → Team → Fibre → MemLoc → Entry → State → Act} (h : s.mem.wf = true)
    (hb : ∀ r t f m e, ActWf (body r t f m e s)) : OutcomeWf (placed d tid body s) := by
  refine isa_wf h fun r t f => reading_wf h ?_
  split
  · trivial
  · split
    · trivial
    · exact hb ..

@[simp] theorem placeWaits_wf {who : Asker} {t : Team} {tid : Nat} {s : State} (h : s.mem.wf = true) :
    ActWf (placeWaits who t tid s) := by simp [placeWaits, h]

@[simp] theorem placeDone_wf {r : FibreRef} {f : Fibre} {d : Nat} {e : Entry} {s : State} (h : s.mem.wf = true) :
    ActWf (placeDone r f d e s) := by simp [placeDone, h]

@[simp] theorem execPlaceConvert_wf {s : State} {d c : BitVec 7} {tid : BitVec 10} {dem : BitVec 16} (h : s.mem.wf = true) :
    OutcomeWf (execPlaceConvert d c tid dem s) := by
  refine isa_wf h fun r t f => reading_wf h ?_
  split
  · exact targetOf_stop h ‹_›
  · trivial
  · split
    · trivial
    · split
      · trivial
      · extract_lets cmd
        split
        · exact (issueCmds_wf h h).of_error ‹_›
        next u hu =>
          have hu := (issueCmds_wf h h).of_ok hu
          split
          · exact hu
          · split
            · simpa using hu
            · exact State.examine_waits_wf hu ‹_›

@[simp] theorem execPlaceSeal_wf {s : State} {d : BitVec 7} {tid : BitVec 10} {m : BitVec 2} (h : s.mem.wf = true) :
    OutcomeWf (execPlaceSeal d tid m s) := by
  refine placed_wf h fun r t f m e => ?_
  split
  · trivial
  · split
    · exact placeWaits_wf h
    · have hs : (s.dropDemand (.seal r)).mem.wf = true := by simpa using h
      split
      · exact (issueLong_wf hs).of_error ‹_›
      next u hu =>
        have hu := (issueLong_wf hs).of_ok hu
        split <;> simpa using hu

@[simp] theorem execPlaceUnseal_wf {s : State} {d : BitVec 7} {tid : BitVec 10} (h : s.mem.wf = true) :
    OutcomeWf (execPlaceUnseal d tid s) := by
  refine placed_wf h fun r t f m e => ?_
  split
  · exact placeWaits_wf h
  · have hs : (s.dropDemand (.unseal r)).mem.wf = true := by simpa using h
    dsimp only
    split
    · exact placeDone_wf hs
    · split
      · exact (placeDone_wf hs).of_error ‹_›
      next u hu =>
        have hu := (placeDone_wf hs).of_ok hu
        exact State.writeEntry_wf hu

@[simp] theorem execPlaceQuery_wf {s : State} {d : BitVec 7} {tid : BitVec 10} (h : s.mem.wf = true) :
    OutcomeWf (execPlaceQuery d tid s) := by
  refine isa_wf h fun r t f => reading_wf h ?_
  split
  · trivial
  · exact placeDone_wf h

@[simp] theorem dropSeal_mem (r : FibreRef) (op : LongOp) (ctx tid member d : Nat) (s : State) :
    (dropSeal r op ctx tid member d s).mem = s.mem := by simp [dropSeal, apply_ite State.mem]

@[simp] theorem convWrite_wf {s : State} {ctx : Nat} {w : Nat × List Byte × Option Bool × Bool} (h : s.mem.wf = true) :
    (convWrite s ctx w).mem.wf = true := by
  unfold convWrite
  refine foldl_fst_wf (fun a p ha => ?_) h
  split
  · split
    · dsimp only
      split
      · exact State.poisonBytes_wf (State.modifyHome_wf ha)
      · exact State.modifyHome_wf ha
    · exact ha
  · exact ha

@[simp] theorem State.collectiveWord_wf {s : State} {record : Nat} {rounds : List Nat} (h : s.mem.wf = true) :
    (s.collectiveWord record rounds).mem.wf = true := by
  unfold State.collectiveWord
  dsimp only
  split
  · split
    · split
      · exact h
      · split
        · cases rounds <;> simp [h]
        · split
          · exact foldl_wf (fun s _ h => State.countdownAt_wf h) h
          · exact h
    · exact h
  · exact h

@[simp] theorem State.collectiveWords_wf {s : State} {c : ConvRun} (h : s.mem.wf = true) : (s.collectiveWords c).mem.wf = true := by
  simp +contextual [State.collectiveWords, h]

@[simp] theorem State.finishConversion_wf {s : State} {c : ConvRun} {e : Entry} {ws : List (Nat × List Byte × Option Bool × Bool)}
    (h : s.mem.wf = true) : (s.finishConversion c e ws).mem.wf = true := by
  have hw : ((ws.foldl (fun s w => convWrite s c.ctx w) s).collectiveWords c).mem.wf = true :=
    State.collectiveWords_wf (foldl_wf (fun s w h => convWrite_wf h) h)
  refine State.serveDemands_wf ?_
  rw [State.count_mem]
  exact State.changeEntry_wf (by simpa using hw)

@[simp] theorem State.abandonConversion_wf {s : State} {ctx tid : Nat} (h : s.mem.wf = true) :
    (s.abandonConversion ctx tid).mem.wf = true := by simp [State.abandonConversion, h]

@[simp] theorem State.failAsker_wf {s : State} {d : Demand} {cause : Nat} (h : s.mem.wf = true) :
    (s.failAsker d cause).mem.wf = true := by
  unfold State.failAsker
  dsimp only
  (repeat' split) <;> simp [h]

@[simp] theorem State.failConversion_wf {s : State} {ctx tid cause : Nat} (h : s.mem.wf = true) :
    (s.failConversion ctx tid cause).mem.wf = true := by
  unfold State.failConversion
  split
  · exact h
  · exact State.serveDemands_wf (foldl_wf (fun s d h => State.failAsker_wf h) (State.abandonConversion_wf h))

@[simp] theorem sendStep_wf {s : State} {c : ConvRun} {e : Entry} {a : Nat} (h : s.mem.wf = true) :
    (sendStep s c e a).mem.wf = true := by
  unfold sendStep
  dsimp only
  (repeat' split) <;> simp [h]

@[simp] theorem advanceConversion_wf {s : State} {c : ConvRun} (h : s.mem.wf = true) : (advanceConversion s c).mem.wf = true := by
  unfold advanceConversion
  dsimp only
  (repeat' split) <;> simp [h]

@[simp] theorem execConversionComplete_wf {ctx tid : Nat} {s : State} (h : s.mem.wf = true) :
    OutcomeWf (execConversionComplete ctx tid s) := by
  unfold execConversionComplete
  (repeat' split) <;> simp [h]

@[simp] theorem State.convInput_mem (s : State) (ctx tid axis coord : Nat) (cells : List (Nat × BitVec 8)) :
    (s.convInput ctx tid axis coord cells).mem = s.mem := by simp [State.convInput]

@[simp] theorem execConversionInput_wf {ctx tid axis coord : Nat} {cells : List (Nat × BitVec 8)} {s : State}
    (h : s.mem.wf = true) : OutcomeWf (execConversionInput ctx tid axis coord cells s) := by simp [execConversionInput, h]

@[simp] theorem State.failNode_wf {s : State} {inst node ctx cause : Nat} (h : s.mem.wf = true) :
    (s.failNode inst node ctx cause).mem.wf = true := by simp [State.failNode, h]

@[simp] theorem execSealTimeout_wf {s : State} (h : s.mem.wf = true) : OutcomeWf (execSealTimeout s) := by
  unfold execSealTimeout
  refine OutcomeWf_device.mpr ?_
  split
  · split
    · exact State.failNode_wf (by simpa using h)
    · dsimp only
      split
      · exact State.serveDemands_wf (State.abandonConversion_wf (State.failAsker_wf h))
      · exact State.failAsker_wf h
  · split <;> simp [h]

/-! ### `Machine/Search.lean`: scans, walks and heaps -/

theorem descPlace_stop {s : State} {r : FibreRef} {t : Team} {f : Fibre} {k : AccKind} {va : Nat} {e : Stop}
    (h : s.mem.wf = true) (he : descPlace s r t f k va = .error e) : e.MemWf := by
  unfold descPlace at he
  split at he
  · cases he; exact place_stop h ‹_›
  · split at he <;> cases he; trivial
  · cases he; trivial

@[simp] theorem execSrchScan_wf {s : State} {d a b : BitVec 7} {mask : BitVec 8} {k : BitVec 10} {rr c : BitVec 7}
    (h : s.mem.wf = true) : OutcomeWf (execSrchScan d a b mask k rr c s) := by
  refine isa_wf h fun r t f => ?_
  dsimp only
  split
  · exact targetOf_stop h ‹_›
  · split
    · trivial
    · split
      · trivial
      · split
        · trivial
        · exact descPlace_stop h ‹_›
        · split
          · exact h
          · exact issueCmds_wf h (by simpa using h)

@[simp] theorem State.settleRefreshes_mem (s : State) (stack : Nat) : (s.settleRefreshes stack).mem = s.mem := by
  simp [State.settleRefreshes, apply_ite State.mem]

@[simp] theorem execScanStart_wf {stack : Nat} {s : State} (h : s.mem.wf = true) : OutcomeWf (execScanStart stack s) := by
  unfold execScanStart
  dsimp only
  (repeat' split) <;> simp [h]

@[simp] theorem State.landScan_wf {s : State} {c : Cmd} {n : Nat} {last : Bool} (h : s.mem.wf = true) :
    (s.landScan c n last).mem.wf = true := by
  unfold State.landScan
  split <;> simp [h]

@[simp] theorem State.listScan_mem (s : State) (c : Cmd) (d : Nat) (m : MemLoc) (q : Option (List Byte)) (k : Nat) (res : Loc)
    (snap : Nat) (ps : List ScanPart) (p : ScanPart) : (s.listScan c d m q k res snap ps p).mem = s.mem := by
  simp [State.listScan]

@[simp] theorem State.writeScan_wf {s : State} {c : Cmd} {d : Nat} {m : MemLoc} {q : Option (List Byte)} {k : Nat} {res : Loc}
    {snap : Option Nat} {ps : List ScanPart} {p : ScanPart} (h : s.mem.wf = true) :
    (s.writeScan c d m q k res snap ps p).mem.wf = true := by
  unfold State.writeScan
  dsimp only
  (repeat' split) <;> simp [h]

@[simp] theorem execScanComplete_wf {cmd stack : Nat} {s : State} (h : s.mem.wf = true) :
    OutcomeWf (execScanComplete cmd stack s) := by
  unfold execScanComplete
  (repeat' split) <;> simp [h]

@[simp] theorem State.onScans_mem (s : State) (stack : Nat) (g : ScanPart → ScanPart) : (s.onScans stack g).mem = s.mem := by
  simp [State.onScans]

@[simp] theorem execScanRefreshPause_wf {stack : Nat} {s : State} (h : s.mem.wf = true) :
    OutcomeWf (execScanRefreshPause stack s) := by
  unfold execScanRefreshPause
  dsimp only
  (repeat' split) <;> simp [h]

@[simp] theorem execScanResume_wf {stack : Nat} {s : State} (h : s.mem.wf = true) : OutcomeWf (execScanResume stack s) := by
  simp [execScanResume, h]

@[simp] theorem execSrchDist_wf {s : State} {d a b e sn : BitVec 7} (h : s.mem.wf = true) :
    OutcomeWf (execSrchDist d a b e sn s) := by
  unfold execSrchDist
  refine isa_wf h fun r t f => ?_
  dsimp only
  split
  · trivial
  · split
    · trivial
    · split
      · trivial
      · exact descPlace_stop h ‹_›
      · split
        · exact h
        · split
          · split
            · trivial
            · trivial
            · trivial
          · split
            · trivial
            · split
              · trivial
              · trivial
              · split
                · exact h
                · split
                  · trivial
                  · split
                    · trivial
                    · exact issueLong_wf (by simpa using h)

@[simp] theorem walkForm_wf {s : State} {d a b rr c : BitVec 7} {mk : Fibre → WalkKind × Nat} {bad : Fibre → Bool}
    (h : s.mem.wf = true) : OutcomeWf (walkForm d a b rr c mk bad s) := by
  refine isa_wf h fun r t f => ?_
  dsimp only
  split
  · exact targetOf_stop h ‹_›
  · split
    · trivial
    · split
      · trivial
      · exact issueCmds_wf h h

@[simp] theorem execSrchWalkList_wf {s : State} {d a b : BitVec 7} {ko no : BitVec 9} {rr c : BitVec 7} {n : BitVec 16}
    (h : s.mem.wf = true) : OutcomeWf (execSrchWalkList d a b ko no rr c n s) := by simp [execSrchWalkList, h]

@[simp] theorem execSrchWalkHash_wf {s : State} {d a b : BitVec 7} {lb sb : BitVec 5} {rr c : BitVec 7} (h : s.mem.wf = true) :
    OutcomeWf (execSrchWalkHash d a b lb sb rr c s) := by simp [execSrchWalkHash, h]

@[simp] theorem execSrchWalkKv_wf {s : State} {d a b : BitVec 7} {lb : BitVec 5} {tb : BitVec 16} {lv : BitVec 1}
    {rr c : BitVec 7} (h : s.mem.wf = true) : OutcomeWf (execSrchWalkKv d a b lb tb lv rr c s) := by simp [execSrchWalkKv, h]

@[simp] theorem State.endWalk_wf {s : State} {c : Cmd} {res : Loc} {a steps status : Nat} (h : s.mem.wf = true) :
    (s.endWalk c res a steps status).mem.wf = true := by simp [State.endWalk, h]

@[simp] theorem walkDword_mem (s : State) (c : Cmd) (m : MemLoc) : (walkDword s c m).2.mem = s.mem := by
  unfold walkDword
  split <;> simp

@[simp] theorem walkStep_wf {s : State} {c : Cmd} {k : WalkKind} {a steps : Nat} {res : Loc} (h : s.mem.wf = true) :
    (walkStep s c k a steps res).mem.wf = true := by
  unfold walkStep
  dsimp only
  (repeat' split) <;> simp [h]

@[simp] theorem execWalkStep_wf {cmd : Nat} {s : State} (h : s.mem.wf = true) : OutcomeWf (execWalkStep cmd s) := by
  unfold execWalkStep
  (repeat' split) <;> simp [h]

@[simp] theorem State.writeSpan_wf {s : State} {ls : List (Loc × Nat)} {bs : List Byte} {w : Writer} {ctx : Nat}
    {core : Option CoreId} (h : s.mem.wf = true) : (s.writeSpan ls bs w ctx core).mem.wf = true := by
  unfold State.writeSpan
  refine foldl_fst_wf (fun a p ha => ?_) h
  split
  · exact foldl_wf (fun s l h => State.modifyHome_wf h) ha
  · exact ha

@[simp] theorem State.writeHeap_wf {s : State} {r : FibreRef} {t : Team} {f : Fibre} {l : HeapList} {ps : List Pair}
    (h : s.mem.wf = true) : (s.writeHeap r t f l ps).mem.wf = true := State.writeSpan_wf h

theorem withHeap_wf {a : BitVec 7} {r : FibreRef} {t : Team} {f : Fibre} {s : State} {body : HeapList → Act}
    (h : s.mem.wf = true) (hb : ∀ l, ActWf (body l)) : ActWf (withHeap a r t f s body) := by
  unfold withHeap
  split
  · trivial
  · split
    · exact hb _
    · exact h

@[simp] theorem execSrchPush_wf {s : State} {d a b : BitVec 7} (h : s.mem.wf = true) : OutcomeWf (execSrchPush d a b s) := by
  unfold execSrchPush
  exact isa_wf h fun r t f => withHeap_wf h fun l => issueLong_wf
    (iteInduction (motive := fun u : State => u.mem.wf = true) (fun _ => State.writeHeap_wf h) fun _ => h)

@[simp] theorem execSrchPop_wf {s : State} {d a : BitVec 7} (h : s.mem.wf = true) : OutcomeWf (execSrchPop d a s) := by
  unfold execSrchPop
  refine isa_wf h fun r t f => withHeap_wf h fun l => issueLong_wf ?_
  cases l.pairs <;> simp [h]

@[simp] theorem execSrchDrain_wf {s : State} {d a b c : BitVec 7} {sp : BitVec 1} (h : s.mem.wf = true) :
    OutcomeWf (execSrchDrain d a b c sp s) := by
  refine isa_wf h fun r t f => ?_
  split
  · exact targetOf_stop h ‹_›
  · refine withHeap_wf h fun l => ?_
    dsimp only
    split
    · exact (issueCmds_wf h h).of_error ‹_›
    next u hu => exact State.writeHeap_wf ((issueCmds_wf h h).of_ok hu)

@[simp] theorem execIxcommit_wf {s : State} {d a b : BitVec 7} (h : s.mem.wf = true) : OutcomeWf (execIxcommit d a b s) := by
  unfold execIxcommit
  refine isa_wf h fun r t f => ?_
  dsimp only
  split
  · exact descPlace_stop h ‹_›
  · split
    · trivial
    · split
      · exact h
      · split
        · trivial
        · refine issueLong_wf ?_
          split <;> simp [h]

@[simp] theorem execIxver_wf {s : State} {d a : BitVec 7} {c k : BitVec 3} (h : s.mem.wf = true) :
    OutcomeWf (execIxver d a c k s) := by
  unfold execIxver
  refine isa_wf h fun r t f => ?_
  dsimp only
  split
  · exact descPlace_stop h ‹_›
  · split
    · trivial
    · split
      · exact h
      · split
        · exact (issueLong_wf h).of_error ‹_›
        next u hu =>
          have hu := (issueLong_wf h).of_ok hu
          simpa using hu

/-! ### `Machine/Hop.lean`: the travel of fibres -/

@[simp] theorem depart_wf {r : FibreRef} {dest : Away} {s : State} (h : s.mem.wf = true) : ActWf (depart r dest s) := by
  simp [depart, h]

@[simp] theorem execHop_wf {s : State} {a : BitVec 7} (h : s.mem.wf = true) : OutcomeWf (execHop a s) :=
  isa_wf h fun _ _ _ => by
    dsimp only
    (repeat' split) <;> simp [h]

@[simp] theorem execHopHome_wf {s : State} (h : s.mem.wf = true) : OutcomeWf (execHopHome s) :=
  isa_wf h fun _ _ _ => by (repeat' split) <;> simp [h]

@[simp] theorem execHopLand_wf {team fibre : Nat} {s : State} (h : s.mem.wf = true) : OutcomeWf (execHopLand team fibre s) := by
  unfold execHopLand
  dsimp only
  (repeat' split) <;> simp [h]

@[simp] theorem execNearSlotEntry_wf {stack : Nat} {s : State} (h : s.mem.wf = true) : OutcomeWf (execNearSlotEntry stack s) := by
  unfold execNearSlotEntry
  (repeat' split) <;> simp [h]

@[simp] theorem execHopHomeArrival_wf {team fibre : Nat} {s : State} (h : s.mem.wf = true) :
    OutcomeWf (execHopHomeArrival team fibre s) := by
  unfold execHopHomeArrival
  (repeat' split) <;> simp [h]

@[simp] theorem execReturnTrap_wf {team fibre : Nat} {s : State} (h : s.mem.wf = true) :
    OutcomeWf (execReturnTrap team fibre s) := by
  unfold execReturnTrap
  dsimp only
  (repeat' split) <;> simp [h]

@[simp] theorem execReturnTrapResume_wf {team fibre : Nat} {s : State} (h : s.mem.wf = true) :
    OutcomeWf (execReturnTrapResume team fibre s) := by
  unfold execReturnTrapResume
  dsimp only
  (repeat' split) <;> simp [h]

/-! ### `Machine/Channels.lean`: exchange channels -/

@[simp] theorem State.putChan_mem (s : State) (ctx : Nat) (h : Chan) : (s.putChan ctx h).mem = s.mem := by simp [State.putChan]

@[simp] theorem State.updEnd_mem (s : State) (ctx ch team : Nat) (g : Endpoint → Endpoint) :
    (s.updEnd ctx ch team g).mem = s.mem := by
  simp [State.updEnd]

@[simp] theorem initSlots_mem (s : State) (t : Team) (v : Nat) : (initSlots s t v).mem = s.mem := by simp [initSlots]

@[simp] theorem State.notePermits_mem (s : State) : s.notePermits.mem = s.mem := by simp [State.notePermits]

@[simp] theorem configure_mem (s : State) (t : Team) (v : Nat) : (configure s t v).mem = s.mem := by simp [configure]

@[simp] theorem execChanConfig_wf {s : State} {d a : BitVec 7} (h : s.mem.wf = true) : OutcomeWf (execChanConfig d a s) := by
  unfold execChanConfig
  refine isa_wf h fun r t f => withRecord_wf h fun v u hu => ?_
  dsimp only
  split
  · exact h
  · refine waitIn_wf h (issueLong_wf ?_)
    split <;> simpa using hu

@[simp] theorem chanError_wf {r : FibreRef} {t : Team} {detail : Nat} {s : State} (h : s.mem.wf = true) :
    ActWf (chanError r t detail s) := by simp [chanError, h]

@[simp] theorem sendWith_wf {d b ch : Nat} {r : FibreRef} {t : Team} {f : Fibre} {s : State} {ok : Bool}
    {src : Except Trap (List Piece × Bool × List Nat)} (h : s.mem.wf = true) : ActWf (sendWith d b ch r t f s ok src) := by
  unfold sendWith
  split
  · trivial
  · exact chanError_wf h
  · split
    · exact chanError_wf h
    · dsimp only
      split
      · split <;> simp [h]
      · split
        · exact (issueCmds_wf h h).of_error ‹_›
        next u hu =>
          have hu := (issueCmds_wf h h).of_ok hu
          simpa using hu

@[simp] theorem execChanSend_wf {s : State} {d a b : BitVec 7} {ch : BitVec 6} (h : s.mem.wf = true) :
    OutcomeWf (execChanSend d a b ch s) := isa_wf h fun _ _ _ => by simp [h]

@[simp] theorem sendAcc_wf {s : State} {d b : BitVec 7} {ch : BitVec 6} {tile : BitVec 6} {half : Bool} (h : s.mem.wf = true) :
    OutcomeWf (sendAcc d b ch tile half s) := isa_wf h fun _ _ _ => by (repeat' split) <;> simp [h]

@[simp] theorem execChanSendAcc_wf {s : State} {d b : BitVec 7} {ch tile : BitVec 6} (h : s.mem.wf = true) :
    OutcomeWf (execChanSendAcc d b ch tile s) := by simp [execChanSendAcc, h]

@[simp] theorem execChanSendAccBf16_wf {s : State} {d b : BitVec 7} {ch tile : BitVec 6} (h : s.mem.wf = true) :
    OutcomeWf (execChanSendAccBf16 d b ch tile s) := by simp [execChanSendAccBf16, h]

@[simp] theorem execChanWait_wf {s : State} {d b : BitVec 7} {ch : BitVec 6} {ln : BitVec 2} (h : s.mem.wf = true) :
    OutcomeWf (execChanWait d b ch ln s) :=
  isa_wf h fun _ _ _ => by
    dsimp only
    (repeat' split) <;> simp [h]

@[simp] theorem execChanRelease_wf {s : State} {b : BitVec 7} {ch : BitVec 6} {ln : BitVec 2} (h : s.mem.wf = true) :
    OutcomeWf (execChanRelease b ch ln s) := by
  refine isa_wf h fun r t f => ?_
  dsimp only
  split
  · exact chanError_wf h
  · split
    · exact chanError_wf h
    · split
      · exact h
      · split
        · exact (issueLong_wf h).of_error ‹_›
        next u hu =>
          have hu := (issueLong_wf h).of_ok hu
          simpa using hu

@[simp] theorem execSlotLanding_wf {cmd : Nat} {s : State} (h : s.mem.wf = true) : OutcomeWf (execSlotLanding cmd s) := by
  unfold execSlotLanding
  refine OutcomeWf_device.mpr ?_
  split
  · exact h
  · split
    · split
      · exact h
      · split
        · simpa using h
        · have hp : ∀ (l : List Chunk) (c : Cmd), (l.foldl (fun s k => performChunk s c k) s).mem.wf = true :=
            fun l c => foldl_wf (fun s k h => performChunk_wf h) h
          simp [hp]
    · exact h

@[simp] theorem execPermitReturn_wf {ctx ch : Nat} {s : State} (h : s.mem.wf = true) : OutcomeWf (execPermitReturn ctx ch s) := by
  unfold execPermitReturn
  (repeat' split) <;> simp [h]

@[simp] theorem execPermitTimeout_wf {s : State} (h : s.mem.wf = true) : OutcomeWf (execPermitTimeout s) := by
  unfold execPermitTimeout
  (repeat' split) <;> simp [h]

/-! ### `Machine/Wdq.lean`: work distributors -/

@[simp] theorem State.putWdq_mem (s : State) (ctx q : Nat) (d : Option Distributor) : (s.putWdq ctx q d).mem = s.mem := by
  simp [State.putWdq]

@[simp] theorem serveWdq_wf {s : State} {c : Cmd} {q : Nat} {dst : Loc} (h : s.mem.wf = true) :
    (serveWdq s c q dst).mem.wf = true := by
  unfold serveWdq
  exact State.landScan_wf (State.engineScratch_wf (by simpa using h))

@[simp] theorem State.serveAllWdq_wf {s : State} {ctx q : Nat} (h : s.mem.wf = true) :
    (s.serveAllWdq ctx q).mem.wf = true := by
  unfold State.serveAllWdq
  refine foldl_wf (fun s c h => ?_) h
  (repeat' split) <;> simp [h]

@[simp] theorem execWdqAnswer_wf {ctx q : Nat} {s : State} (h : s.mem.wf = true) : OutcomeWf (execWdqAnswer ctx q s) := by
  unfold execWdqAnswer
  (repeat' split) <;> simp [h]

@[simp] theorem execWdqInit_wf {s : State} {a : BitVec 7} {q : BitVec 4} (h : s.mem.wf = true) :
    OutcomeWf (execWdqInit a q s) := by
  unfold execWdqInit
  refine isa_wf h fun r t f => withRecord_wf h fun v u hu => ?_
  split
  · trivial
  · exact waitIn_wf h (issueLong_wf (by simp [hu]))

@[simp] theorem execWdqNext_wf {s : State} {d a : BitVec 7} {q : BitVec 4} {c : BitVec 7} (h : s.mem.wf = true) :
    OutcomeWf (execWdqNext d a q c s) := by
  refine isa_wf h fun r t f => ?_
  dsimp only
  split
  · exact targetOf_stop h ‹_›
  · split
    · trivial
    · split
      · trivial
      · split
        · exact h
        · split
          · exact (issueLong_wf h).of_error ‹_›
          next u hu =>
            have hu := (issueLong_wf h).of_ok hu
            exact hu

@[simp] theorem execWdqReset_wf {s : State} {q : BitVec 4} (h : s.mem.wf = true) : OutcomeWf (execWdqReset q s) :=
  isa_wf h fun _ _ _ => waitIn_wf h (issueLong_wf (by simp [h]))

end Sys2Proof.Machine
end

section
/-! SUPPORT. The scheduler, the memories' own steps and the board keep the form of the memory. -/

namespace Sys2Proof.Machine

/-! ### `Machine/Jobs.lean`: graphs, dispatch and pre-emption -/

@[simp] theorem State.updInst_mem (s : State) (id : Nat) (f : Inst → Inst) : (s.updInst id f).mem = s.mem := by
  simp [State.updInst]

@[simp] theorem State.reach_wf {s : State} {inst node : Nat} {src : Option Nat} (h : s.mem.wf = true) :
    (s.reach inst node src).mem.wf = true := by
  unfold State.reach
  dsimp only
  (repeat' split) <;> simp [h]

@[simp] theorem State.completeNode_wf {s : State} {inst node : Nat} {succs : List Nat} (h : s.mem.wf = true) :
    (s.completeNode inst node succs).mem.wf = true := by simp +contextual [State.completeNode, h]

theorem State.signal_wf {s : State} {ctx va : Nat} {down : Bool} {v : Dword} (h : s.mem.wf = true) :
    OptionWf (s.signal ctx va down v) := by
  unfold State.signal
  (repeat' split) <;> simp [h]

@[simp] theorem sealNode_wf {s : State} {inst node ctx tid mask since : Nat} (h : s.mem.wf = true) :
    (sealNode s inst node ctx tid mask since).mem.wf = true := by
  unfold sealNode
  (repeat' split) <;> simp [h]

@[simp] theorem actNode_wf {s : State} {x : Inst} {g : Graph} {r : NodeRun} (h : s.mem.wf = true) :
    (actNode s x g r).mem.wf = true := by
  unfold actNode
  dsimp only
  split
  · split <;> simp [h]
  · split <;> simp [h]
  · split
    · simp [h]
    · split
      · simp [h]
      · split <;> simp [h]
  · split
    · exact h
    · split
      · simp [h]
      · exact foldl_wf (fun s k h => State.reach_wf h) (by simp [h])
  · split
    · simp [h]
    next u hu =>
      have hu := State.signal_wf h u hu
      split <;> simp [h, hu]
  · split
    · exact h
    · exact sealNode_wf (by simp [h])

@[simp] theorem execJobReady_wf {inst node : Nat} {s : State} (h : s.mem.wf = true) : OutcomeWf (execJobReady inst node s) := by
  unfold execJobReady
  (repeat' split) <;> simp [h]

@[simp] theorem execSealNodeComplete_wf {inst node : Nat} {s : State} (h : s.mem.wf = true) :
    OutcomeWf (execSealNodeComplete inst node s) := by
  unfold execSealNodeComplete
  (repeat' split) <;> simp [h]

@[simp] theorem execJobComplete_wf {inst node : Nat} {s : State} (h : s.mem.wf = true) :
    OutcomeWf (execJobComplete inst node s) := by
  unfold execJobComplete
  (repeat' split) <;> simp [h]

theorem State.takeStart_wf {s : State} {p : Nat × Graph × Nat × State} (h : s.mem.wf = true) (e : s.takeStart = some p) :
    p.2.2.2.mem.wf = true := by
  obtain ⟨a, -, ha⟩ := List.exists_of_findSome?_eq_some e
  (repeat' split at ha) <;> cases ha
  exact State.setTag_wf h

@[simp] theorem State.startInstance_wf {s : State} {ctx : Nat} {g : Graph} {fill : Nat} (h : s.mem.wf = true) :
    (s.startInstance ctx g fill).mem.wf = true := by
  unfold State.startInstance
  dsimp only
  (repeat' split) <;> simp [h]

@[simp] theorem execInstanceStart_wf {s : State} (h : s.mem.wf = true) : OutcomeWf (execInstanceStart s) := by
  unfold execInstanceStart
  refine OutcomeWf_device.mpr ?_
  split
  · split
    · exact State.startInstance_wf h
    · exact h
  · split
    · exact State.startInstance_wf (State.takeStart_wf h ‹_›)
    · exact h

@[simp] theorem execDeadlineMiss_wf {s : State} (h : s.mem.wf = true) : OutcomeWf (execDeadlineMiss s) := by
  unfold execDeadlineMiss
  (repeat' split) <;> simp [h]

@[simp] theorem State.takeWays_mem (s : State) (c : CoreId) : (s.takeWays c).mem = s.mem := by simp [State.takeWays]

@[simp] theorem State.prepareCore_mem (s : State) (t : Team) (c : CoreId) : (s.prepareCore t c).mem = s.mem := by
  simp [State.prepareCore, apply_ite State.mem]

@[simp] theorem State.settleCore_mem (s : State) (c : CoreId) : (s.settleCore c).mem = s.mem := by simp [State.settleCore]

@[simp] theorem State.resume_mem (s : State) (t : Team) (c : CoreId) : (s.resume t c).mem = s.mem := by
  simp [State.resume, apply_ite State.mem]

theorem State.launchNew_wf {s : State} {x : Inst} {r : NodeRun} {t : Team} {cs : List CoreId} (h : s.mem.wf = true) :
    OptionWf (s.launchNew x r t cs) := by
  refine OptionWf.map (OptionWf.foldl (fun o m ho => ho.bind fun s h => ?_) (OptionWf_some.mpr h)) fun s h => by simpa using h
  refine OptionWf.map_of fun p hp => ?_
  simp [State.takeImage_mem hp, h]

theorem State.place_wf {s : State} {t : Team} (h : s.mem.wf = true) : OptionWf (s.place t) := by
  unfold State.place
  extract_lets isNew start found
  have hs : ∀ cs, OptionWf (start cs) := by
    intro cs
    dsimp only [start]
    split
    · exact OptionWf.bind_of fun p => State.launchNew_wf h
    · split
      · refine OptionWf_some.mpr (foldl_wf (fun s m h => ?_) h)
        split <;> simp [h]
      · exact OptionWf.map_of fun c _ => by simp [h]
  have hf : OptionWf found := by
    dsimp only [found]
    split
    · exact OptionWf.bind_of hs
    · exact OptionWf.bind_of fun c => hs [c]
  exact hf.map fun s h => h

@[simp] theorem State.requestPreempt_mem (s : State) (team : Nat) : (s.requestPreempt team).mem = s.mem := by
  unfold State.requestPreempt
  (repeat' split) <;> simp

theorem State.askToLeave_wf {s : State} {cs : List CoreId} (h : s.mem.wf = true) : OptionWf (s.askToLeave cs) := by
  unfold State.askToLeave
  dsimp only
  split
  · exact OptionWf_none
  · exact OptionWf_some.mpr (foldl_wf (fun s t h => by simpa using h) h)

theorem State.preemptFor_wf {s : State} {t : Team} (h : s.mem.wf = true) : OptionWf (s.preemptFor t) := by
  unfold State.preemptFor
  split
  · exact OptionWf_none
  · split
    · exact State.askToLeave_wf h
    · dsimp only
      split
      · exact OptionWf_none
      · split
        · exact OptionWf_none
        · exact (State.askToLeave_wf h).map fun s h => h

@[simp] theorem execDispatch_wf {s : State} (h : s.mem.wf = true) : OutcomeWf (execDispatch s) := by
  refine OutcomeWf_device.mpr (OptionWf.getD (OptionWf.findSome (fun t => ?_) _) h)
  split
  next u hu => exact OptionWf_some.mpr (State.place_wf h u hu)
  · exact State.preemptFor_wf h

@[simp] theorem State.forceSave_mem (s : State) (t : Team) (demote keep : Bool) : (s.forceSave t demote keep).mem = s.mem := by
  simp [State.forceSave, apply_ite State.mem]

@[simp] theorem execBudgetExhausted_wf {s : State} (h : s.mem.wf = true) : OutcomeWf (execBudgetExhausted s) := by
  unfold execBudgetExhausted
  dsimp only
  (repeat' split) <;> simp [h]

@[simp] theorem execBudgetGraceExpiry_wf {s : State} (h : s.mem.wf = true) : OutcomeWf (execBudgetGraceExpiry s) := by
  unfold execBudgetGraceExpiry
  (repeat' split) <;> simp [h]

@[simp] theorem execPreemptionGraceExpiry_wf {s : State} (h : s.mem.wf = true) : OutcomeWf (execPreemptionGraceExpiry s) := by
  unfold execPreemptionGraceExpiry
  (repeat' split) <;> simp [h]

@[simp] theorem State.saveBars_mem (s : State) (t : Team) : (s.saveBars t).mem = s.mem := by
  unfold State.saveBars
  refine foldl_mem (fun s b => ?_) _ _
  split <;> simp

@[simp] theorem execSaveComplete_wf {s : State} (h : s.mem.wf = true) : OutcomeWf (execSaveComplete s) := by
  unfold execSaveComplete
  (repeat' split) <;> simp [h, State.writeImage_wf]

@[simp] theorem State.readAhead_mem (s : State) (team : Nat) : (s.readAhead team).mem = s.mem := by simp [State.readAhead]

@[simp] theorem State.leaveSlots_mem (s : State) (t : Team) : (s.leaveSlots t).mem = s.mem := by simp [State.leaveSlots]

@[simp] theorem execDiscardComplete_wf {s : State} (h : s.mem.wf = true) : OutcomeWf (execDiscardComplete s) := by
  unfold execDiscardComplete
  dsimp only
  (repeat' split) <;> simp [h]

@[simp] theorem execRedirectEntryCompletion_wf {team : Nat} {s : State} (h : s.mem.wf = true) :
    OutcomeWf (execRedirectEntryCompletion team s) := by
  unfold execRedirectEntryCompletion
  (repeat' split) <;> simp [h, State.writeImage_wf]

@[simp] theorem execRestoreComplete_wf {team : Nat} {s : State} (h : s.mem.wf = true) : OutcomeWf (execRestoreComplete team s) := by
  unfold execRestoreComplete
  dsimp only
  (repeat' split) <;> simp_all

@[simp] theorem execBinTimerExpiry_wf {s : State} (h : s.mem.wf = true) : OutcomeWf (execBinTimerExpiry s) := by
  unfold execBinTimerExpiry
  (repeat' split) <;> simp [h]

@[simp] theorem execReorderTimerExpiry_wf {s : State} (h : s.mem.wf = true) : OutcomeWf (execReorderTimerExpiry s) := by
  unfold execReorderTimerExpiry
  (repeat' split) <;> simp [h]

/-! ### `Machine/Cuttings.lean`: collapse probes, refreshes and errors of the arrays -/

@[simp] theorem execCollapseProbe_wf {line die : Nat} {s : State} (h : s.mem.wf = true) :
    OutcomeWf (execCollapseProbe line die s) := by
  unfold execCollapseProbe
  dsimp only
  (repeat' split) <;> simp [h]

@[simp] theorem State.releaseFills_wf {s : State} (h : s.mem.wf = true) : s.releaseFills.mem.wf = true := by
  simp +contextual [State.releaseFills, h]

@[simp] theorem execCollapseAnswer_wf {line die : Nat} {s : State} (h : s.mem.wf = true) :
    OutcomeWf (execCollapseAnswer line die s) := by
  unfold execCollapseAnswer
  dsimp only
  (repeat' split) <;> simp [h]

@[simp] theorem execCuttingFill_wf {line die : Nat} {s : State} (h : s.mem.wf = true) : OutcomeWf (execCuttingFill line die s) := by
  unfold execCuttingFill
  (repeat' split) <;> simp [h]

@[simp] theorem execRegionWindowEnd_wf {s : State} (h : s.mem.wf = true) : OutcomeWf (execRegionWindowEnd s) := by
  unfold execRegionWindowEnd
  refine OutcomeWf_device.mpr ?_
  dsimp only
  split
  · exact h
  · refine foldl_wf (fun s p h => ?_) h
    split <;> simp [h]

@[simp] theorem State.poisonMade_mem (s : State) (die : Nat) (before : Bool) : (s.poisonMade die before).mem = s.mem := by
  simp [State.poisonMade, apply_ite State.mem]

@[simp] theorem State.spoilL1_wf {s : State} {c : CoreId} {pa : Nat} (h : s.mem.wf = true) : (s.spoilL1 c pa).mem.wf = true := by
  unfold State.spoilL1
  (repeat' split) <;> simp [h, State.spoilHome_wf]

@[simp] theorem State.spoilCutting_mem (s : State) (die pa : Nat) : (s.spoilCutting die pa).mem = s.mem := by
  unfold State.spoilCutting
  split <;> simp

@[simp] theorem State.spoilTeam_mem (s : State) (team n : Nat) (get : Team → List Nat) (put : Team → List Nat → Team) :
    (s.spoilTeam team n get put).mem = s.mem := by
  unfold State.spoilTeam
  split <;> simp

@[simp] theorem State.spoilReg_mem (s : State) (r : FibreRef) (n : Nat) : (s.spoilReg r n).mem = s.mem := by
  unfold State.spoilReg
  (repeat' split) <;> simp

@[simp] theorem State.spoilNear_wf {s : State} {k c i o : Nat} (h : s.mem.wf = true) : (s.spoilNear k c i o).mem.wf = true := by
  unfold State.spoilNear
  split <;> simp [h]

@[simp] theorem State.stateLost_wf {s : State} {ctx job die : Nat} (h : s.mem.wf = true) :
    (s.stateLost ctx job die).mem.wf = true := by
  unfold State.stateLost
  split <;> simp [h]

@[simp] theorem State.upset_wf {s : State} {u : Outside} (h : s.mem.wf = true) : (s.upset u).mem.wf = true := by
  unfold State.upset
  (repeat' split) <;> simp [h, State.spoilHome_wf]

@[simp] theorem execWeightStoreRefreshStart_wf {s : State} (h : s.mem.wf = true) : OutcomeWf (execWeightStoreRefreshStart s) := by
  unfold execWeightStoreRefreshStart
  (repeat' split) <;> simp [h]

@[simp] theorem execWeightStoreRefreshEnd_wf {s : State} (h : s.mem.wf = true) : OutcomeWf (execWeightStoreRefreshEnd s) := by
  unfold execWeightStoreRefreshEnd
  (repeat' split) <;> simp [h]

@[simp] theorem execRetentionEntry_wf {s : State} (h : s.mem.wf = true) : OutcomeWf (execRetentionEntry s) := by
  simp [execRetentionEntry, h]

@[simp] theorem switchResize_mem (r : FibreRef) (t : Team) (op : LongOp) (n d : Nat) (keep : Bool) (s : State) :
    (switchResize r t op n d keep s).mem = s.mem := by
  unfold switchResize
  (repeat' split) <;> simp

@[simp] theorem dropOp_wf {r : FibreRef} {t : Team} {f : Fibre} {op : LongOp} {s : State} (h : s.mem.wf = true) :
    (dropOp r t f op s).mem.wf = true := by
  unfold dropOp
  split <;> simp [h]

@[simp] theorem State.countStall_mem (s : State) (r : FibreRef) (t : Team) (f : Fibre) (op : LongOp) :
    (s.countStall r t f op).mem = s.mem := by simp [State.countStall, apply_ite State.mem]

@[simp] theorem execLongLatencyDrop_wf {team fibre slot : Nat} {s : State} (h : s.mem.wf = true) :
    OutcomeWf (execLongLatencyDrop team fibre slot s) := by
  unfold execLongLatencyDrop
  (repeat' split) <;> simp [h]

@[simp] theorem execResizeSwitchPoint_wf {team fibre slot : Nat} {s : State} (h : s.mem.wf = true) :
    OutcomeWf (execResizeSwitchPoint team fibre slot s) := by
  unfold execResizeSwitchPoint
  (repeat' split) <;> simp [h]

/-! ### `Machine/Board.lean`: power, boot and reset -/

@[simp] theorem State.writeLife_mem (s : State) : s.writeLife.mem = s.mem := by simp [State.writeLife]

@[simp] theorem State.cleared_wf {s : State} : s.cleared.mem.wf = true := Memory.reset_wf

@[simp] theorem State.loadRecords_mem (s : State) : s.loadRecords.mem = s.mem := by simp [State.loadRecords]

@[simp] theorem State.boot_mem (s : State) (dead ports : Nat) (host : Bool) : (s.boot dead ports host).mem = s.mem := by
  simp [State.boot, apply_ite State.mem]

@[simp] theorem execPowerGood_wf {dead ports : Nat} {host : Bool} {s : State} (h : s.mem.wf = true) :
    OutcomeWf (execPowerGood dead ports host s) := by
  unfold execPowerGood
  (repeat' split) <;> simp [h]

@[simp] theorem execModuleReset_wf {dead ports : Nat} {host : Bool} {s : State} (h : s.mem.wf = true) :
    OutcomeWf (execModuleReset dead ports host s) := by
  unfold execModuleReset
  (repeat' split) <;> simp [h]

@[simp] theorem execPowerLoss_wf {s : State} : OutcomeWf (execPowerLoss s) := by simp [execPowerLoss]

@[simp] theorem State.excursionChange_mem (s : State) (before now : Bool) : (s.excursionChange before now).mem = s.mem := by
  simp [State.excursionChange, apply_ite State.mem]

@[simp] theorem State.throttled_mem (s : State) : s.throttled.mem = s.mem := by simp [State.throttled]

@[simp] theorem State.junctionStop_wf {s : State} : s.junctionStop.mem.wf = true := by
  simp [State.junctionStop]

@[simp] theorem execJunctionStop_wf {temp : Nat} {s : State} (h : s.mem.wf = true) : OutcomeWf (execJunctionStop temp s) := by
  unfold execJunctionStop
  (repeat' split) <;> simp [h]

@[simp] theorem execThermalGuardEvaluation_wf {gaps : List Nat} {temp : Nat} {excursion : Bool} {s : State}
    (h : s.mem.wf = true) : OutcomeWf (execThermalGuardEvaluation gaps temp excursion s) := by
  unfold execThermalGuardEvaluation
  (repeat' split) <;> simp [h]

@[simp] theorem execCoolantSensorPoll_wf {s : State} (h : s.mem.wf = true) : OutcomeWf (execCoolantSensorPoll s) := by
  unfold execCoolantSensorPoll
  (repeat' split) <;> simp [h]

@[simp] theorem State.addMs_mem (s : State) (entry inst : Nat) : (s.addMs entry inst).mem = s.mem := by
  simp [State.addMs, apply_ite State.mem]

@[simp] theorem execLifetimeSample_wf {s : State} (h : s.mem.wf = true) : OutcomeWf (execLifetimeSample s) := by
  unfold execLifetimeSample
  (repeat' split) <;> simp [h]

@[simp] theorem execLifetimeFlashWrite_wf {s : State} (h : s.mem.wf = true) : OutcomeWf (execLifetimeFlashWrite s) := by
  unfold execLifetimeFlashWrite
  (repeat' split) <;> simp [h]

@[simp] theorem execEventRnrRetry_wf {s : State} (h : s.mem.wf = true) : OutcomeWf (execEventRnrRetry s) := by
  unfold execEventRnrRetry
  (repeat' split) <;> simp [h]

@[simp] theorem execHostLinkRetrain_wf {s : State} (h : s.mem.wf = true) : OutcomeWf (execHostLinkRetrain s) := by
  simp [execHostLinkRetrain, h]

end Sys2Proof.Machine
end

section
/-! SUPPORT. The host port, management, the links, peers and collectives keep the form of the memory. -/

namespace Sys2Proof.Machine

/-! ### `Machine/Remote.lean`: remote transactions -/

@[simp] theorem State.remoteDone_wf {s : State} {o : RemoteOp} {res : Except Nat (List Byte)} (h : s.mem.wf = true) :
    (s.remoteDone o res).mem.wf = true := by
  unfold State.remoteDone
  (repeat' split) <;> simp [h]

@[simp] theorem incomingRead_mem (s : State) (ps : List (MemLoc × Nat × Leaf)) : (incomingRead s ps).2.2.mem = s.mem :=
  foldl_mem (by simp) _ _

@[simp] theorem incomingWrite_wf {s : State} {ps : List (MemLoc × Nat × Leaf)} {bs : List Byte} {w : Writer} {ctx : Nat}
    (h : s.mem.wf = true) : (incomingWrite s ps bs w ctx).mem.wf = true := by
  unfold incomingWrite
  exact foldl_fst_wf (fun a p ha => State.writeHome_wf ha) h

/-! ### `Machine/Rdma.lean`: queue pairs -/

@[simp] theorem State.updQp_mem (s : State) (q : Nat) (f : Qp → Qp) : (s.updQp q f).mem = s.mem := by simp [State.updQp]

@[simp] theorem State.say_mem (s : State) (m : HostOut) : (s.say m).mem = s.mem := by simp [State.say]

@[simp] theorem State.sayQp_mem (s : State) (q : Nat) (m : HostOut) : (s.sayQp q m).mem = s.mem := by
  simp [State.sayQp, apply_ite State.mem]

@[simp] theorem State.sendWaiting_mem (s : State) : s.sendWaiting.mem = s.mem := by
  unfold State.sendWaiting
  split <;> rfl

@[simp] theorem State.sayOp_mem (s : State) (o : RemoteOp) : (s.sayOp o).mem = s.mem := by
  unfold State.sayOp
  cases o.request <;> simp

@[simp] theorem State.pump_wf {s : State} {now : Option Nat} (h : s.mem.wf = true) : (s.pump now).mem.wf = true := by
  simp +contextual [State.pump, h]

@[simp] theorem State.errorQp_wf {s : State} {q : Nat} (h : s.mem.wf = true) : (s.errorQp q).mem.wf = true := by
  simp +contextual [State.errorQp, h]

@[simp] theorem State.nakError_wf {s : State} {q : Nat} {k : Nak} (h : s.mem.wf = true) : (s.nakError q k).mem.wf = true := by
  simp [State.nakError, h]

@[simp] theorem execCmConnectRequest_wf {s : State} (h : s.mem.wf = true) : OutcomeWf (execCmConnectRequest s) := by
  unfold execCmConnectRequest
  (repeat' split) <;> simp [h]

@[simp] theorem execCongestionNotificationReceived_wf {qp : Nat} {s : State} (h : s.mem.wf = true) :
    OutcomeWf (execCongestionNotificationReceived qp s) := by simp [execCongestionNotificationReceived, h]

@[simp] theorem execRateIncreasePeriod_wf {s : State} (h : s.mem.wf = true) : OutcomeWf (execRateIncreasePeriod s) := by
  unfold execRateIncreasePeriod
  (repeat' split) <;> simp [h]

@[simp] theorem execEcnMarkedPacketReceived_wf {qp : Nat} {s : State} (h : s.mem.wf = true) :
    OutcomeWf (execEcnMarkedPacketReceived qp s) := by simp [execEcnMarkedPacketReceived, h]

@[simp] theorem execPfcPauseFrame_wf {prio : Nat} {pause : Bool} {s : State} (h : s.mem.wf = true) :
    OutcomeWf (execPfcPauseFrame prio pause s) := by
  unfold execPfcPauseFrame
  (repeat' split) <;> simp [h]

theorem withQp_wf {q : Nat} {s : State} {k : Qp → State} (h : s.mem.wf = true) (hk : ∀ x, (k x).mem.wf = true) :
    (withQp q s k).mem.wf = true := by
  unfold withQp
  split
  · exact h
  · split
    · exact h
    · split
      · exact h
      · split
        · simp [h]
        · exact hk _

@[simp] theorem State.qpFills_wf {s : State} {q : Qp} {ms : List MemLoc} (h : s.mem.wf = true) :
    (s.qpFills q ms).mem.wf = true := by
  simp [State.qpFills, h]

theorem writePackets_wf {q : Qp} {ps : List (Nat × Nat)} {bs : List Byte} {s : State} (h : s.mem.wf = true) :
    (writePackets q ps bs s).2.mem.wf = true := by
  induction ps generalizing bs s with
  | nil => exact h
  | cons p ps ih =>
    unfold writePackets
    split
    · exact h
    · split
      · exact h
      · exact ih (incomingWrite_wf h)

theorem hostWrite_wf {q : Qp} {va : Nat} {bytes : List Byte} {s : State} (h : s.mem.wf = true) :
    OptionWf (hostWrite q va bytes s) := by
  unfold hostWrite
  have hw := writePackets_wf (q := q) (ps := q.packets va bytes.length) (bs := bytes) h
  dsimp only
  split
  · exact OptionWf_none
  · split <;> simp_all

theorem hostRead_wf {q : Qp} {va len : Nat} {s : State} (h : s.mem.wf = true) : OptionWf (hostRead q va len s) := by
  unfold hostRead
  split
  · simp [h]
  · split
    · simp
    · refine OptionWf_some.mpr ?_
      split <;> simp [h]

theorem hostAtomic_wf {q : Qp} {va : Nat} {g : Nat → Nat} {fills : Nat → Bool} {s : State} (h : s.mem.wf = true) :
    OptionWf (hostAtomic q va g fills s) := by
  unfold hostAtomic
  split
  · dsimp only
    split
    · simp [h]
    · split
      · simp
      · split
        · simp [h]
        · split <;> simp [h]
  · simp [h]

theorem performHost_wf {q : Qp} {op : HostOp} {s : State} (h : s.mem.wf = true) : OptionWf (performHost q op s) := by
  unfold performHost
  split
  · simp [h]
  · split
    · exact hostWrite_wf h
    · exact hostRead_wf h
    · exact hostAtomic_wf h
    · exact hostAtomic_wf h
    · simp [h]

@[simp] theorem arriveHost_wf {q : Qp} {op : HostOp} {s : State} (h : s.mem.wf = true) : (arriveHost q op s).mem.wf = true := by
  unfold arriveHost
  dsimp only
  split
  · simp [h]
  · split
    · exact (performHost_wf h).getD (by simp [h])
    · simp [h]

@[simp] theorem State.runQp_wf {s : State} {i : Nat} (h : s.mem.wf = true) : (s.runQp i).mem.wf = true := by
  unfold State.runQp
  split
  · exact h
  · split
    · exact h
    · exact (performHost_wf (by simp [h])).getD h

@[simp] theorem execRdmaWriteReceived_wf {qp key va : Nat} {bytes : List (BitVec 8)} {s : State} (h : s.mem.wf = true) :
    OutcomeWf (execRdmaWriteReceived qp key va bytes s) := OutcomeWf_device.mpr (withQp_wf h fun _ => arriveHost_wf h)

@[simp] theorem execRdmaReadReceived_wf {qp key va len : Nat} {s : State} (h : s.mem.wf = true) :
    OutcomeWf (execRdmaReadReceived qp key va len s) := OutcomeWf_device.mpr (withQp_wf h fun _ => arriveHost_wf h)

@[simp] theorem execRdmaFetchAddReceived_wf {qp key va : Nat} {v : BitVec 64} {s : State} (h : s.mem.wf = true) :
    OutcomeWf (execRdmaFetchAddReceived qp key va v s) := OutcomeWf_device.mpr (withQp_wf h fun _ => arriveHost_wf h)

@[simp] theorem execRdmaCompareSwapReceived_wf {qp key va : Nat} {cmp swap : BitVec 64} {s : State} (h : s.mem.wf = true) :
    OutcomeWf (execRdmaCompareSwapReceived qp key va cmp swap s) := OutcomeWf_device.mpr (withQp_wf h fun _ => arriveHost_wf h)

@[simp] theorem execRdmaInvalidRequest_wf {qp : Nat} {s : State} (h : s.mem.wf = true) :
    OutcomeWf (execRdmaInvalidRequest qp s) := OutcomeWf_device.mpr (withQp_wf h fun _ => arriveHost_wf h)

@[simp] theorem execHostRdmaResponse_wf {op : Nat} {ok : Bool} {bytes : List Byte} {s : State} (h : s.mem.wf = true) :
    OutcomeWf (execHostRdmaResponse op ok bytes s) := by
  unfold execHostRdmaResponse
  refine OutcomeWf_device.mpr ?_
  dsimp only
  split
  · exact State.pump_wf h
  · split
    · exact State.pump_wf h
    · exact State.pump_wf (State.remoteDone_wf (State.pump_wf h))

@[simp] theorem execHostWriteAck_wf {op : Nat} {ok : Bool} {s : State} (h : s.mem.wf = true) :
    OutcomeWf (execHostWriteAck op ok s) := by
  unfold execHostWriteAck
  dsimp only
  (repeat' split) <;> simp [h]

@[simp] theorem State.hostNotReady_wf {s : State} {op : Nat} (h : s.mem.wf = true) : (s.hostNotReady op).mem.wf = true := by
  unfold State.hostNotReady
  dsimp only
  (repeat' split) <;> simp [h]

@[simp] theorem execQpAckTimeout_wf {qp : Nat} {s : State} (h : s.mem.wf = true) : OutcomeWf (execQpAckTimeout qp s) := by
  unfold execQpAckTimeout
  dsimp only
  (repeat' split) <;> simp [h]

/-! ### `Machine/Pages.lean`: translation tables and shoot-downs -/

theorem State.newTable_wf {s : State} {p : Nat × State} (h : s.mem.wf = true) (e : s.newTable = some p) : p.2.mem.wf = true := by
  obtain ⟨f, -, rfl⟩ := Option.map_eq_some_iff.mp e
  exact State.useFrames_wf h

@[simp] theorem State.setEntry_wf {s : State} {pa e : Nat} (h : s.mem.wf = true) : (s.setEntry pa e).mem.wf = true := by
  simp [State.setEntry, h, Memory.write_wf]

theorem State.tableAt_wf {s : State} {pa : Nat} {p : Nat × State} (h : s.mem.wf = true) (e : s.tableAt pa = some p) :
    p.2.mem.wf = true := by
  unfold State.tableAt at e
  dsimp only at e
  split at e
  · cases e; exact h
  · obtain ⟨q, hq, rfl⟩ := Option.map_eq_some_iff.mp e
    exact State.setEntry_wf (State.newTable_wf h hq)

theorem State.mapPage_wf {s : State} {root va : Nat} {big : Bool} {leaf : Nat} (h : s.mem.wf = true) :
    OptionWf (s.mapPage root va big leaf) := by
  unfold State.mapPage
  split
  · exact OptionWf_none
  next t2 u hu =>
    have hu : u.mem.wf = true := State.tableAt_wf h hu
    dsimp only
    split
    · refine OptionWf_some.mpr (State.setEntry_wf ?_)
      split <;> simp [hu]
    · exact OptionWf.map_of fun p hp => State.setEntry_wf (State.tableAt_wf hu hp)

@[simp] theorem State.unmapPage_wf {s : State} {root va : Nat} {big : Bool} (h : s.mem.wf = true) :
    (s.unmapPage root va big).mem.wf = true := by
  unfold State.unmapPage
  split <;> simp [h]

@[simp] theorem State.loseWords_wf {s : State} {ctx : Nat} {ps : List (Nat × Nat × Nat)} (h : s.mem.wf = true) :
    (s.loseWords ctx ps).mem.wf = true := by
  unfold State.loseWords
  dsimp only
  refine foldl_wf (fun s x h => ?_) (by simpa using h)
  (repeat' split) <;> simp [h]

@[simp] theorem State.shrinkWindows_mem (s : State) (ctx : Nat) (ps : List (Nat × Nat × Nat)) :
    (s.shrinkWindows ctx ps).mem = s.mem := by simp [State.shrinkWindows]

@[simp] theorem State.startShoot_wf {s : State} {c : Context} {ps : List (Nat × Nat × Nat)} {msg req : Nat} (h : s.mem.wf = true) :
    (s.startShoot c ps msg req).mem.wf = true := by
  refine State.loseWords_wf ?_
  rw [State.shrinkWindows_mem]
  exact foldl_wf (fun s p h => State.unmapPage_wf h) h

@[simp] theorem State.withdrawSwept_mem (s : State) (sh : ShootDown) (die : Nat) : (s.withdrawSwept sh die).mem = s.mem := by
  simp -implicitDefEqProofs [State.withdrawSwept]

@[simp] theorem State.sweepConvert_wf {s : State} {sh : ShootDown} {c : Cmd} (h : s.mem.wf = true) :
    (s.sweepConvert sh c).mem.wf = true := by
  unfold State.sweepConvert
  split
  · split
    · exact h
    · split
      · exact h
      · extract_lets c u v wanted
        have hv : v.mem.wf = true := State.endCmd_wf (by simp [u, h])
        split
        · exact State.serveDemands_wf (State.abandonConversion_wf hv)
        · exact hv
  · exact h

@[simp] theorem State.sweepCmd_wf {s : State} {sh : ShootDown} {c : Cmd} (h : s.mem.wf = true) :
    (s.sweepCmd sh c).mem.wf = true := by
  unfold State.sweepCmd
  dsimp only
  (repeat' split) <;> simp [h]

@[simp] theorem State.reply_mem (s : State) (type req ctx status detail : Nat) (body : List Byte) :
    (s.reply type req ctx status detail body).mem = s.mem := by simp [State.reply]

@[simp] theorem State.finishShoot_wf {s : State} {sh : ShootDown} (h : s.mem.wf = true) : (s.finishShoot sh).mem.wf = true := by
  unfold State.finishShoot
  dsimp only
  (repeat' split) <;> simp [h, State.zeroFrames_wf]

@[simp] theorem execDieSweepAnswer_wf {die : Nat} {s : State} (h : s.mem.wf = true) : OutcomeWf (execDieSweepAnswer die s) := by
  unfold execDieSweepAnswer
  refine OutcomeWf_device.mpr ?_
  split
  · exact h
  next sh _ =>
    split
    · exact h
    · extract_lets u v
      have hv : v.mem.wf = true := by
        refine foldl_wf (fun s c h => ?_) (by simp [u, h])
        dsimp only
        cases (s.sweepCmd sh c).cmd? c.id <;> simp [h]
      split
      · exact hv
      · split
        · exact State.finishShoot_wf hv
        · exact hv

/-! ### `Machine/Mgmt.lean`: management messages -/

/-- A message that is done or answered later leaves a memory in its form. -/
def Served.MemWf : Served → Prop
  | .refuse _ _ => True
  | .done s _ => s.mem.wf = true
  | .later s => s.mem.wf = true

@[simp] theorem Served.MemWf_refuse {st d : Nat} : (Served.refuse st d).MemWf := trivial

@[simp] theorem Served.MemWf_done {s : State} {body : List Byte} : (Served.done s body).MemWf ↔ s.mem.wf = true := Iff.rfl

@[simp] theorem Served.MemWf_later {s : State} : (Served.later s).MemWf ↔ s.mem.wf = true := Iff.rfl

/-- A message that is served keeps the form where its meaning does. -/
theorem serve_wf {type : Nat} {lenOk : Nat → Bool} {named recovery : Bool} {m : Message} {s : State} {k : State → Served}
    (h : s.mem.wf = true) (hk : (k s).MemWf) : (serve type lenOk named recovery m s k).mem.wf = true := by
  unfold serve
  extract_lets r
  have hr : r.MemWf := by
    dsimp only [r]
    split
    · trivial
    · split
      · trivial
      · exact hk
  cases hv : r with
  | refuse st d => simpa using h
  | done u body => simpa [hv] using hr
  | later u => simpa [hv] using hr

theorem takeMessage_wf {g : Message → State → State} {m : Message} {s : State} (h : s.mem.wf = true)
    (hg : (g m s).mem.wf = true) : (takeMessage g m s).mem.wf = true := by
  unfold takeMessage
  (repeat' split) <;> simp [h, hg]

theorem onMessage_wf {type : Nat} {g : Message → State → State} {m : Message} {s : State} (h : s.mem.wf = true)
    (hg : (g m s).mem.wf = true) : OutcomeWf (onMessage type g m s) := by
  refine OutcomeWf_device.mpr ?_
  split
  · exact takeMessage_wf h hg
  · exact h

theorem checked_wf {fs : List (Bool × Nat)} {k : Served} (hk : k.MemWf) : (checked fs k).MemWf := by
  unfold checked
  split
  · trivial
  · exact hk

theorem withCtx_wf {m : Message} {s : State} {k : Context → Served} (hk : ∀ c, (k c).MemWf) : (withCtx m s k).MemWf := by
  unfold withCtx
  split
  · exact hk _
  · trivial

@[simp] theorem serveCreateContext_wf {m : Message} {s : State} (h : s.mem.wf = true) : (serveCreateContext m s).mem.wf = true := by
  refine serve_wf h (checked_wf ?_)
  split
  next hn => exact State.newTable_wf h hn
  · trivial

@[simp] theorem execCreateContext_wf {m : Message} {s : State} (h : s.mem.wf = true) : OutcomeWf (execCreateContext m s) :=
  onMessage_wf h (serveCreateContext_wf h)

@[simp] theorem State.dismantle_mem (s : State) (ctx : Nat) : (s.dismantle ctx).mem = s.mem := by simp [State.dismantle]

@[simp] theorem serveDestroyContext_wf {m : Message} {s : State} (h : s.mem.wf = true) : (serveDestroyContext m s).mem.wf = true :=
  serve_wf h (withCtx_wf fun _ => State.startShoot_wf (by simpa using h))

@[simp] theorem execDestroyContext_wf {m : Message} {s : State} (h : s.mem.wf = true) : OutcomeWf (execDestroyContext m s) :=
  onMessage_wf h (serveDestroyContext_wf h)

@[simp] theorem serveSetReservations_wf {m : Message} {s : State} (h : s.mem.wf = true) :
    (serveSetReservations m s).mem.wf = true := by
  refine serve_wf h (withCtx_wf fun c => checked_wf ?_)
  dsimp only
  (repeat' split) <;> simp [h]

@[simp] theorem execSetReservations_wf {m : Message} {s : State} (h : s.mem.wf = true) : OutcomeWf (execSetReservations m s) :=
  onMessage_wf h (serveSetReservations_wf h)

theorem State.mapOne_wf {s : State} {root : Nat} {a : MapAsk} {window k : Nat} (h : s.mem.wf = true) :
    OptionWf (s.mapOne root a window k) := by
  unfold State.mapOne
  dsimp only
  split
  · exact State.mapPage_wf h
  · split
    · exact State.mapPage_wf h
    · split
      · exact OptionWf_none
      · exact State.mapPage_wf (by simp [h])

theorem State.mapMany_wf {s : State} {root : Nat} {a : MapAsk} {window : Nat} {ks : List Nat} (h : s.mem.wf = true) :
    OptionWf (s.mapMany root a window ks) := by
  induction ks generalizing s with
  | nil => exact OptionWf_some.mpr h
  | cons k ks ih => exact (State.mapOne_wf h).bind fun s h => ih h

@[simp] theorem State.wakeGroups_mem (s : State) (ctx : Nat) (a : MapAsk) : (s.wakeGroups ctx a).mem = s.mem := by
  simp [State.wakeGroups, apply_ite State.mem]

@[simp] theorem serveMapMemory_wf {m : Message} {s : State} (h : s.mem.wf = true) : (serveMapMemory m s).mem.wf = true := by
  refine serve_wf h (withCtx_wf fun c => checked_wf ?_)
  dsimp only
  split
  · trivial
  · split
    · trivial
    · split
      · trivial
      next u hu =>
        have hu := State.mapMany_wf h u hu
        refine Served.MemWf_done.mpr ?_
        rw [State.wakeGroups_mem]
        split <;> simp [hu]

@[simp] theorem execMapMemory_wf {m : Message} {s : State} (h : s.mem.wf = true) : OutcomeWf (execMapMemory m s) :=
  onMessage_wf h (serveMapMemory_wf h)

@[simp] theorem serveUnmapMemory_wf {m : Message} {s : State} (h : s.mem.wf = true) : (serveUnmapMemory m s).mem.wf = true := by
  refine serve_wf h (withCtx_wf fun c => checked_wf ?_)
  dsimp only
  (repeat' split) <;> simp [h]

@[simp] theorem execUnmapMemory_wf {m : Message} {s : State} (h : s.mem.wf = true) : OutcomeWf (execUnmapMemory m s) :=
  onMessage_wf h (serveUnmapMemory_wf h)

@[simp] theorem serveCreateQueuePair_wf {m : Message} {s : State} (h : s.mem.wf = true) :
    (serveCreateQueuePair m s).mem.wf = true := by
  refine serve_wf h (withCtx_wf fun c => checked_wf ?_)
  split <;> simp [h]

@[simp] theorem execCreateQueuePair_wf {m : Message} {s : State} (h : s.mem.wf = true) : OutcomeWf (execCreateQueuePair m s) :=
  onMessage_wf h (serveCreateQueuePair_wf h)

@[simp] theorem serveDestroyQueuePair_wf {m : Message} {s : State} (h : s.mem.wf = true) :
    (serveDestroyQueuePair m s).mem.wf = true := by
  refine serve_wf h (withCtx_wf fun c => checked_wf ?_)
  (repeat' split) <;> simp [h]

@[simp] theorem execDestroyQueuePair_wf {m : Message} {s : State} (h : s.mem.wf = true) : OutcomeWf (execDestroyQueuePair m s) :=
  onMessage_wf h (serveDestroyQueuePair_wf h)

@[simp] theorem serveGrantPeerAccess_wf {m : Message} {s : State} (h : s.mem.wf = true) :
    (serveGrantPeerAccess m s).mem.wf = true :=
  serve_wf h (withCtx_wf fun _ => checked_wf (by simp [h]))

@[simp] theorem execGrantPeerAccess_wf {m : Message} {s : State} (h : s.mem.wf = true) : OutcomeWf (execGrantPeerAccess m s) :=
  onMessage_wf h (serveGrantPeerAccess_wf h)

@[simp] theorem serveLoadImage_wf {m : Message} {s : State} (h : s.mem.wf = true) : (serveLoadImage m s).mem.wf = true := by
  refine serve_wf h (withCtx_wf fun c => checked_wf ?_)
  (repeat' split) <;> simp [h]

@[simp] theorem execLoadImage_wf {m : Message} {s : State} (h : s.mem.wf = true) : OutcomeWf (execLoadImage m s) :=
  onMessage_wf h (serveLoadImage_wf h)

@[simp] theorem State.copyImage_wf {s : State} {ctx dst : Nat} {bs : List Byte} (h : s.mem.wf = true) :
    (s.copyImage ctx dst bs).mem.wf = true := by
  unfold State.copyImage
  refine foldl_fst_wf (fun a va ha => ?_) h
  dsimp only
  split
  · exact State.writeHome_wf ha
  · exact ha

@[simp] theorem State.takeImageIn_wf {s : State} {q : ImageLoad} {c : Context} (h : s.mem.wf = true) :
    (s.takeImageIn q c).mem.wf = true := by simp [State.takeImageIn, h]

@[simp] theorem State.answerImage_mem (s : State) (q : ImageLoad) : (s.answerImage q).mem = s.mem := by
  unfold State.answerImage
  (repeat' split) <;> rfl

@[simp] theorem execLoadImageQuiesced_wf {s : State} (h : s.mem.wf = true) : OutcomeWf (execLoadImageQuiesced s) := by
  unfold execLoadImageQuiesced
  dsimp only
  (repeat' split) <;> simp [h]

@[simp] theorem serveSetLinkParameters_wf {m : Message} {s : State} (h : s.mem.wf = true) :
    (serveSetLinkParameters m s).mem.wf = true := serve_wf h (checked_wf (by simp [h]))

@[simp] theorem execSetLinkParameters_wf {m : Message} {s : State} (h : s.mem.wf = true) : OutcomeWf (execSetLinkParameters m s) :=
  onMessage_wf h (serveSetLinkParameters_wf h)

@[simp] theorem serveReadRecords_wf {m : Message} {s : State} (h : s.mem.wf = true) :
    (serveReadRecords m s).mem.wf = true := serve_wf h (checked_wf h)

@[simp] theorem execReadRecords_wf {m : Message} {s : State} (h : s.mem.wf = true) : OutcomeWf (execReadRecords m s) :=
  onMessage_wf h (serveReadRecords_wf h)

@[simp] theorem serveReadCounters_wf {m : Message} {s : State} (h : s.mem.wf = true) :
    (serveReadCounters m s).mem.wf = true := serve_wf h (checked_wf h)

@[simp] theorem execReadCounters_wf {m : Message} {s : State} (h : s.mem.wf = true) : OutcomeWf (execReadCounters m s) :=
  onMessage_wf h (serveReadCounters_wf h)

@[simp] theorem serveAttest_wf {m : Message} {s : State} (h : s.mem.wf = true) : (serveAttest m s).mem.wf = true := by
  refine serve_wf h (checked_wf ?_)
  split <;> simp [h]

@[simp] theorem execAttest_wf {m : Message} {s : State} (h : s.mem.wf = true) : OutcomeWf (execAttest m s) :=
  onMessage_wf h (serveAttest_wf h)

@[simp] theorem State.verifyBank_mem (s : State) (l : BankLoad) : (s.verifyBank l).1.mem = s.mem := by
  simp [State.verifyBank]

@[simp] theorem serveFirmwareLoad_wf {m : Message} {s : State} (h : s.mem.wf = true) :
    (serveFirmwareLoad m s).mem.wf = true := by
  refine serve_wf h (checked_wf ?_)
  dsimp only
  split
  · trivial
  · split
    · trivial
    · split
      · trivial
      · split
        · split
          next e =>
            have hv := congrArg (fun p : State × Bool => p.1.mem.wf) e
            simpa [h] using hv.symm
          next e =>
            have hv := congrArg (fun p : State × Bool => p.1.mem.wf) e
            simpa [h] using hv.symm
        · simpa using h

@[simp] theorem execFirmwareLoad_wf {m : Message} {s : State} (h : s.mem.wf = true) : OutcomeWf (execFirmwareLoad m s) :=
  onMessage_wf h (serveFirmwareLoad_wf h)

@[simp] theorem serveRaiseSecurityMinimum_wf {m : Message} {s : State} (h : s.mem.wf = true) :
    (serveRaiseSecurityMinimum m s).mem.wf = true := by
  refine serve_wf h ?_
  (repeat' split) <;> simp [h]

@[simp] theorem execRaiseSecurityMinimum_wf {m : Message} {s : State} (h : s.mem.wf = true) :
    OutcomeWf (execRaiseSecurityMinimum m s) :=
  onMessage_wf h (serveRaiseSecurityMinimum_wf h)

@[simp] theorem serveResetMsg_wf {m : Message} {s : State} (h : s.mem.wf = true) : (serveResetMsg m s).mem.wf = true :=
  serve_wf h (by simp [h])

@[simp] theorem execResetMsg_wf {m : Message} {s : State} (h : s.mem.wf = true) : OutcomeWf (execResetMsg m s) := by
  unfold execResetMsg
  split
  · refine OutcomeWf_device.mpr ?_
    dsimp only
    split
    · rw [State.updOs_mem]
      exact serveResetMsg_wf h
    · exact h
  · exact onMessage_wf h (serveResetMsg_wf h)

@[simp] theorem serveUnassigned_wf {m : Message} {s : State} (h : s.mem.wf = true) : (serveUnassigned m s).mem.wf = true :=
  serve_wf h trivial

@[simp] theorem execUnassignedMessageType_wf {m : Message} {s : State} (h : s.mem.wf = true) :
    OutcomeWf (execUnassignedMessageType m s) := by
  refine OutcomeWf_device.mpr ?_
  split
  · exact h
  · exact takeMessage_wf h (serveUnassigned_wf h)

/-! ### `Machine/Links.lean`: ports -/

@[simp] theorem State.updPort_mem (s : State) (i : Nat) (f : Port → Port) : (s.updPort i f).mem = s.mem := by simp [State.updPort]

@[simp] theorem State.discardFlit_mem (s : State) : s.discardFlit.mem = s.mem := by simp [State.discardFlit]

/-- A flit is taken or discarded; a whole transaction is acted on from a state with the same memory. -/
theorem takeFlit_wf {kind port : Nat} {f : WireFlit} {firstOk : Nat → Bool} {act : WireFlit → List Byte → State → State} {s : State}
    (h : s.mem.wf = true) (ha : ∀ g bs u, u.mem.wf = true → (act g bs u).mem.wf = true) :
    (takeFlit kind port f firstOk act s).mem.wf = true := by
  unfold takeFlit
  split
  · exact h
  next p _ =>
    extract_lets took mine others now
    have ht : ∀ parts, (took s parts).mem.wf = true := fun parts => by simpa [took] using h
    split
    · exact h
    · split
      · exact ht _
      · split
        · rw [State.discardFlit_mem]
          exact ht _
        · split
          · exact ht _
          · generalize now = l
            cases l with
            | nil => exact h
            | cons g _ =>
              dsimp only
              split
              · exact ha _ _ _ (ht _)
              · exact ht _

@[simp] theorem execBadFlitReceived_wf {port : Nat} {s : State} (h : s.mem.wf = true) : OutcomeWf (execBadFlitReceived port s) := by
  simp [execBadFlitReceived, h]

@[simp] theorem execIdleFlitReceived_wf {port : Nat} {f : WireFlit} {s : State} (h : s.mem.wf = true) :
    OutcomeWf (execIdleFlitReceived port f s) := by simp [execIdleFlitReceived, h]

@[simp] theorem execLinkControlFlit_wf {port : Nat} {f : WireFlit} {s : State} (h : s.mem.wf = true) :
    OutcomeWf (execLinkControlFlit port f s) := by
  unfold execLinkControlFlit
  dsimp only
  (repeat' split) <;> simp [h]

@[simp] theorem execAckReturnTimer_wf {port : Nat} {s : State} (h : s.mem.wf = true) : OutcomeWf (execAckReturnTimer port s) := by
  simp [execAckReturnTimer, h]

@[simp] theorem execReplayTimeout_wf {port : Nat} {s : State} (h : s.mem.wf = true) : OutcomeWf (execReplayTimeout port s) := by
  simp [execReplayTimeout, h]

theorem State.enqueue_mem {s : State} {kind tc dst ctx : Nat} {bs : List Byte} {txn : Option Nat} {p : Nat × State}
    (e : s.enqueue kind tc dst ctx bs txn = some p) : p.2.mem = s.mem := by
  obtain ⟨i, -, rfl⟩ := Option.map_eq_some_iff.mp e
  exact State.updPort_mem ..

@[simp] theorem State.enqueueD_mem (s : State) (kind tc dst ctx : Nat) (bs : List Byte) :
    (s.enqueueD kind tc dst ctx bs).mem = s.mem := by
  unfold State.enqueueD
  split
  next e => exact State.enqueue_mem e
  · rfl

@[simp] theorem State.route_wf {s : State} (h : s.mem.wf = true) : s.route.mem.wf = true := by
  refine foldl_wf (fun s o h => ?_) h
  dsimp only
  split
  · exact State.remoteDone_wf h
  next u hu =>
    have hu : u.mem = s.mem := State.enqueue_mem hu
    rwa [← hu] at h

@[simp] theorem State.moveFlits_mem (s : State) (fs : List Flit) : (s.moveFlits fs).mem = s.mem := by
  unfold State.moveFlits
  (repeat' split) <;> rfl

@[simp] theorem State.losePort_wf {s : State} {p : Port} (h : s.mem.wf = true) : (s.losePort p).mem.wf = true := by
  simp +contextual [State.losePort, h]

@[simp] theorem execLinkRetrainDone_wf {port : Nat} {ok : Bool} {s : State} (h : s.mem.wf = true) :
    OutcomeWf (execLinkRetrainDone port ok s) := by
  unfold execLinkRetrainDone
  (repeat' split) <;> simp [h]

@[simp] theorem serveSetGrid_wf {m : Message} {s : State} (h : s.mem.wf = true) : (serveSetGrid m s).mem.wf = true := by
  refine serve_wf h (checked_wf ?_)
  dsimp only
  split
  · trivial
  · exact foldl_wf (fun s p h => State.losePort_wf h) (by exact h)

@[simp] theorem execSetGrid_wf {m : Message} {s : State} (h : s.mem.wf = true) : OutcomeWf (execSetGrid m s) :=
  onMessage_wf h (serveSetGrid_wf h)

@[simp] theorem servePortUp_wf {m : Message} {s : State} (h : s.mem.wf = true) : (servePortUp m s).mem.wf = true := by
  refine serve_wf h (checked_wf ?_)
  split <;> simp [h]

@[simp] theorem execPortUp_wf {m : Message} {s : State} (h : s.mem.wf = true) : OutcomeWf (execPortUp m s) :=
  onMessage_wf h (servePortUp_wf h)

/-! ### `Machine/Peers.lean`: peer transactions -/

@[simp] theorem State.answerPeer_mem (s : State) (kind : Nat) (f : WireFlit) (b status : Nat) (data : List Byte) :
    (s.answerPeer kind f b status data).mem = s.mem := by simp [State.answerPeer]

theorem State.peerRead_wf {g : WireFlit} {bs : List Byte} {s : State} (h : s.mem.wf = true) : OptionWf (s.peerRead g bs) := by
  unfold State.peerRead
  dsimp only
  split
  · simp [h]
  · split
    · simp
    · refine OptionWf_some.mpr ?_
      split <;> simp [h]

theorem State.writeParts_wf {s : State} {ctx : Nat} {ps : List (Nat × Nat)} {bs : List Byte} (h : s.mem.wf = true) :
    (s.writeParts ctx ps bs).2.mem.wf = true := by
  induction ps generalizing bs s with
  | nil => exact h
  | cons p ps ih =>
    unfold State.writeParts
    split
    · exact h
    · split
      · exact h
      · exact ih (incomingWrite_wf h)

theorem State.peerWrite_wf {g : WireFlit} {bs : List Byte} {s : State} (h : s.mem.wf = true) : OptionWf (s.peerWrite g bs) := by
  unfold State.peerWrite
  dsimp only
  split
  · exact OptionWf_some.mpr h
  · split
    · simp [h]
    · split
      · simp
      · exact OptionWf_some.mpr (by simpa using State.writeParts_wf h)

theorem State.peerAtomic_wf {g : WireFlit} {bs : List Byte} {s : State} (h : s.mem.wf = true) : OptionWf (s.peerAtomic g bs) := by
  unfold State.peerAtomic
  dsimp only
  (repeat' split) <;> simp [h]

theorem State.peerRequest_wf {kind : Nat} {g : WireFlit} {bs : List Byte} {s : State} (h : s.mem.wf = true) :
    OptionWf (s.peerRequest kind g bs) := by
  unfold State.peerRequest
  split
  · exact State.peerWrite_wf h
  · exact State.peerAtomic_wf h
  · exact State.peerRead_wf h

@[simp] theorem State.arrivePeer_wf {kind : Nat} {g : WireFlit} {bs : List Byte} {s : State} (h : s.mem.wf = true) :
    (State.arrivePeer kind g bs s).mem.wf = true := by
  unfold State.arrivePeer
  dsimp only
  split
  · exact h
  · exact (State.peerRequest_wf h).getD h

@[simp] theorem State.runPeer_wf {s : State} (h : s.mem.wf = true) : s.runPeer.mem.wf = true := by
  refine OptionWf.getD (OptionWf.findSome (fun p => ?_) _) h
  exact State.peerRequest_wf h

@[simp] theorem execPeerReadRequest_wf {port : Nat} {f : WireFlit} {s : State} (h : s.mem.wf = true) :
    OutcomeWf (execPeerReadRequest port f s) := OutcomeWf_device.mpr (takeFlit_wf h fun _ _ _ h => State.arrivePeer_wf h)

@[simp] theorem execPeerWriteRequest_wf {port : Nat} {f : WireFlit} {s : State} (h : s.mem.wf = true) :
    OutcomeWf (execPeerWriteRequest port f s) := OutcomeWf_device.mpr (takeFlit_wf h fun _ _ _ h => State.arrivePeer_wf h)

@[simp] theorem execPeerAtomicRequest_wf {port : Nat} {f : WireFlit} {s : State} (h : s.mem.wf = true) :
    OutcomeWf (execPeerAtomicRequest port f s) := OutcomeWf_device.mpr (takeFlit_wf h fun _ _ _ h => State.arrivePeer_wf h)

@[simp] theorem answered_wf {g : WireFlit} {bs : List Byte} {isKind : RemoteKind → Bool}
    {data : RemoteOp → List Byte → List Byte} {s : State} (h : s.mem.wf = true) : (answered g bs isKind data s).mem.wf = true := by
  unfold answered
  dsimp only
  split <;> simp [h]

@[simp] theorem execPeerReadResponse_wf {port : Nat} {f : WireFlit} {s : State} (h : s.mem.wf = true) :
    OutcomeWf (execPeerReadResponse port f s) := OutcomeWf_device.mpr (takeFlit_wf h fun _ _ _ h => answered_wf h)

@[simp] theorem execPeerWriteAck_wf {port : Nat} {f : WireFlit} {s : State} (h : s.mem.wf = true) :
    OutcomeWf (execPeerWriteAck port f s) := OutcomeWf_device.mpr (takeFlit_wf h fun _ _ _ h => answered_wf h)

@[simp] theorem execPeerAtomicResponse_wf {port : Nat} {f : WireFlit} {s : State} (h : s.mem.wf = true) :
    OutcomeWf (execPeerAtomicResponse port f s) := OutcomeWf_device.mpr (takeFlit_wf h fun _ _ _ h => answered_wf h)

/-! ### `Machine/Collectives.lean`: the reducer and its contributors -/

@[simp] theorem State.applyResult_mem (s : State) (d : ContribDesc) (vs : List Nat) : (s.applyResult d vs).mem = s.mem := by
  unfold State.applyResult
  (repeat' split) <;> simp [apply_ite State.mem]

@[simp] theorem execCollectiveResult_wf {port : Nat} {f : WireFlit} {s : State} (h : s.mem.wf = true) :
    OutcomeWf (execCollectiveResult port f s) := by
  refine OutcomeWf_device.mpr (takeFlit_wf h fun g bs u hu => ?_)
  dsimp only
  (repeat' split) <;> simp [hu]

@[simp] theorem State.updColl_mem (s : State) (i : Nat) (f : Coll → Coll) : (s.updColl i f).mem = s.mem := by simp [State.updColl]

@[simp] theorem State.deliver_mem (s : State) (c : Coll) (k : CollChunk) (d : CollDest) : (s.deliver c k d).mem = s.mem := by
  simp [State.deliver, apply_ite State.mem]

@[simp] theorem State.acceptPart_mem (s : State) (c : Coll) (d : ContribDesc) (vs : List Nat) :
    (s.acceptPart c d vs).mem = s.mem := by
  simp [State.acceptPart, apply_ite State.mem]

@[simp] theorem State.reduceRow_mem (s : State) (d : ContribDesc) (topK whole : Bool) (vs : List Nat) :
    (s.reduceRow d topK whole vs).2.mem = s.mem := by
  unfold State.reduceRow
  dsimp only
  (repeat' split) <;> simp

@[simp] theorem contributed_mem (topK : Bool) (g : WireFlit) (bs : List Byte) (s : State) :
    (contributed topK g bs s).mem = s.mem := by
  simp [contributed, apply_ite State.mem]

@[simp] theorem execReductionContribution_wf {port : Nat} {f : WireFlit} {s : State} (h : s.mem.wf = true) :
    OutcomeWf (execReductionContribution port f s) :=
  OutcomeWf_device.mpr (takeFlit_wf h fun _ _ _ h => by simpa using h)

@[simp] theorem execTopKContribution_wf {port : Nat} {f : WireFlit} {s : State} (h : s.mem.wf = true) :
    OutcomeWf (execTopKContribution port f s) :=
  OutcomeWf_device.mpr (takeFlit_wf h fun _ _ _ h => by simpa using h)

@[simp] theorem State.openAt_mem (s : State) (coll contrib r : Nat) : (s.openAt coll contrib r).2.mem = s.mem := by
  unfold State.openAt
  dsimp only
  (repeat' split) <;> rfl

@[simp] theorem State.closeAt_mem (s : State) (coll contrib : Nat) : (s.closeAt coll contrib).2.mem = s.mem := by
  unfold State.closeAt
  dsimp only
  (repeat' split) <;> rfl

@[simp] theorem execCollectiveOpen_wf {port : Nat} {f : WireFlit} {s : State} (h : s.mem.wf = true) :
    OutcomeWf (execCollectiveOpen port f s) := by
  refine OutcomeWf_device.mpr (takeFlit_wf h fun g bs u hu => ?_)
  dsimp only
  (repeat' split) <;> simp [hu]

@[simp] theorem execCollectiveClose_wf {port : Nat} {f : WireFlit} {s : State} (h : s.mem.wf = true) :
    OutcomeWf (execCollectiveClose port f s) := by
  refine OutcomeWf_device.mpr (takeFlit_wf h fun g bs u hu => ?_)
  dsimp only
  simp [hu]

@[simp] theorem execCollectiveIdleTimeout_wf {s : State} (h : s.mem.wf = true) : OutcomeWf (execCollectiveIdleTimeout s) := by
  unfold execCollectiveIdleTimeout
  (repeat' split) <;> simp [h]

@[simp] theorem State.openAcked_wf {s : State} {coll contrib status : Nat} (h : s.mem.wf = true) :
    (s.openAcked coll contrib status).mem.wf = true := by
  unfold State.openAcked
  (repeat' split) <;> simp [h]

@[simp] theorem State.closeAcked_mem (s : State) (coll contrib : Nat) : (s.closeAcked coll contrib).mem = s.mem := by
  simp [State.closeAcked]

@[simp] theorem execCollectiveOpenAck_wf {port : Nat} {f : WireFlit} {s : State} (h : s.mem.wf = true) :
    OutcomeWf (execCollectiveOpenAck port f s) :=
  OutcomeWf_device.mpr (takeFlit_wf h fun _ _ _ h => State.openAcked_wf h)

@[simp] theorem execCollectiveCloseAck_wf {port : Nat} {f : WireFlit} {s : State} (h : s.mem.wf = true) :
    OutcomeWf (execCollectiveCloseAck port f s) :=
  OutcomeWf_device.mpr (takeFlit_wf h fun _ _ _ h => by simpa using h)

@[simp] theorem State.contribAcked_wf {s : State} {d : ContribDesc} (h : s.mem.wf = true) : (s.contribAcked d).mem.wf = true := by
  unfold State.contribAcked
  (repeat' split) <;> simp [h]

@[simp] theorem execContributionAck_wf {port : Nat} {f : WireFlit} {s : State} (h : s.mem.wf = true) :
    OutcomeWf (execContributionAck port f s) :=
  OutcomeWf_device.mpr (takeFlit_wf h fun _ _ _ h => State.contribAcked_wf h)

@[simp] theorem State.sendOpened_wf {s : State} {o : Opened} (h : s.mem.wf = true) : (s.sendOpened o).mem.wf = true := by
  unfold State.sendOpened
  dsimp only
  (repeat' split) <;> simp [h]

@[simp] theorem State.sendContribution_wf {s : State} {tc : Nat} {c : Contribution} (h : s.mem.wf = true) :
    (s.sendContribution tc c).mem.wf = true := by
  unfold State.sendContribution
  dsimp only
  split <;> simp [h]

@[simp] theorem State.sendDue_wf {s : State} (h : s.mem.wf = true) : s.sendDue.mem.wf = true := by
  unfold State.sendDue
  refine foldl_wf (fun s c h => ?_) (foldl_wf (fun s o h => State.sendOpened_wf h) h)
  split
  · exact State.sendContribution_wf h
  · exact h

@[simp] theorem execContributionRetryTimer_wf {s : State} (h : s.mem.wf = true) : OutcomeWf (execContributionRetryTimer s) := by
  simp [execContributionRetryTimer, h]

@[simp] theorem execContributionAckTimeout_wf {s : State} (h : s.mem.wf = true) : OutcomeWf (execContributionAckTimeout s) := by
  unfold execContributionAckTimeout
  (repeat' split) <;> simp [h]

@[simp] theorem execFlitSend_wf {port : Nat} {s : State} (h : s.mem.wf = true) : OutcomeWf (execFlitSend port s) := by
  simp [execFlitSend, h]

end Sys2Proof.Machine
end

section
/-! SUPPORT. New fibres, graphs and integer instructions keep the form of the memory. -/

namespace Sys2Proof.Machine

/-! ### `Machine/Fibres.lean`: SPAWN, REBIN and YIELD -/

@[simp] theorem execSpawn_wf {s : State} {d a b : BitVec 7} {n : BitVec 4} {key : BitVec 16} (h : s.mem.wf = true) :
    OutcomeWf (execSpawn d a b n key s) :=
  isa_wf h fun _ _ _ => by
    dsimp only
    (repeat' split) <;> simp [h]

@[simp] theorem execRebin_wf {s : State} {d a b : BitVec 7} {n : BitVec 4} {key : BitVec 16} (h : s.mem.wf = true) :
    OutcomeWf (execRebin d a b n key s) := by
  refine isa_wf h fun r t f => ?_
  have ha := reporting_wf (r := r) h (beforeEnd_wf (r := r) (f := f) h)
  split
  · trivial
  · split
    · exact ha.of_error ‹_›
    next u hu =>
      have hu := ha.of_ok hu
      split
      · exact hu
      · refine Stop.MemWf_hold.mpr ?_
        rw [State.updTeam_mem]
        exact State.endFibre_wf (by simpa using hu)

@[simp] theorem passYield_mem (r : FibreRef) (s : State) : (passYield r s).mem = s.mem := by simp [passYield]

@[simp] theorem State.beginSlice_mem (s : State) (t : Team) : (s.beginSlice t).mem = s.mem := by
  simp [State.beginSlice, apply_ite State.mem]

@[simp] theorem yieldSave_mem (r : FibreRef) (t : Team) (f : Fibre) (s : State) : (yieldSave r t f s).mem = s.mem := by
  simp [yieldSave]

@[simp] theorem execYield_wf {s : State} (h : s.mem.wf = true) : OutcomeWf (execYield s) :=
  isa_wf h fun _ _ _ => by (repeat' split) <;> simp [h]

@[simp] theorem execYieldSave_wf {s : State} (h : s.mem.wf = true) : OutcomeWf (execYieldSave s) :=
  isa_wf h fun _ _ _ => by (repeat' split) <;> simp [h]

@[simp] theorem execYieldRestart_wf {s : State} (h : s.mem.wf = true) : OutcomeWf (execYieldRestart s) :=
  isa_wf h fun _ _ _ => by (repeat' split) <;> simp [h]

/-! ### `Machine/Graphs.lean`: the loading of graphs, and a message by its type -/

@[simp] theorem State.keepGraph_wf {s : State} {ctx : Nat} {g : Graph} (h : s.mem.wf = true) :
    (s.keepGraph ctx g).mem.wf = true := by
  unfold State.keepGraph
  dsimp only
  split
  · split
    · exact State.setTag_wf (by simpa using h)
    · simpa using h
  · simpa using h

@[simp] theorem serveLoadGraph_wf {m : Message} {s : State} (h : s.mem.wf = true) : (serveLoadGraph m s).mem.wf = true := by
  refine serve_wf h (withCtx_wf fun c => checked_wf ?_)
  split
  · trivial
  · refine checked_wf ?_
    dsimp only
    (repeat' split) <;> simp [h]

@[simp] theorem execLoadGraph_wf {m : Message} {s : State} (h : s.mem.wf = true) : OutcomeWf (execLoadGraph m s) :=
  onMessage_wf h (serveLoadGraph_wf h)

@[simp] theorem serveUnloadGraph_wf {m : Message} {s : State} (h : s.mem.wf = true) : (serveUnloadGraph m s).mem.wf = true := by
  refine serve_wf h (withCtx_wf fun c => ?_)
  (repeat' split) <;> simp [h]

@[simp] theorem execUnloadGraph_wf {m : Message} {s : State} (h : s.mem.wf = true) : OutcomeWf (execUnloadGraph m s) :=
  onMessage_wf h (serveUnloadGraph_wf h)

@[simp] theorem serveAny_wf {m : Message} {s : State} (h : s.mem.wf = true) : (serveAny m s).mem.wf = true := by
  generalize hg : serveAny m = g
  unfold serveAny at hg
  split at hg <;> subst hg <;> simp [h]

@[simp] theorem State.nextMessage_wf {s : State} (h : s.mem.wf = true) : s.nextMessage.mem.wf = true := by
  unfold State.nextMessage
  split
  · exact h
  · split
    · exact serveAny_wf (by simpa using h)
    · exact h

/-! ### `Machine/Integer.lean`: integer instructions -/

@[simp] theorem execAdd_wf {s : State} {d a b : BitVec 7} {f : BitVec 4} (h : s.mem.wf = true) : OutcomeWf (execAdd d a b f s) :=
  isa_wf h fun _ _ _ => h

@[simp] theorem execSub_wf {s : State} {d a b : BitVec 7} {f : BitVec 4} (h : s.mem.wf = true) : OutcomeWf (execSub d a b f s) :=
  isa_wf h fun _ _ _ => h

@[simp] theorem execMad_wf {s : State} {d a b : BitVec 7} {f : BitVec 4} (h : s.mem.wf = true) : OutcomeWf (execMad d a b f s) :=
  isa_wf h fun _ _ _ => h

@[simp] theorem execAddi_wf {s : State} {d a : BitVec 7} {i : BitVec 11} (h : s.mem.wf = true) : OutcomeWf (execAddi d a i s) :=
  isa_wf h fun _ _ _ => h

@[simp] theorem execMul_wf {s : State} {d a b : BitVec 7} {f : BitVec 4} (h : s.mem.wf = true) : OutcomeWf (execMul d a b f s) :=
  isa_wf h fun _ _ _ => h

@[simp] theorem execDiv_wf {st : State} {d a b : BitVec 7} {s w : BitVec 1} (h : st.mem.wf = true) :
    OutcomeWf (execDiv d a b s w st) := isa_wf h fun _ _ _ => h

@[simp] theorem execRem_wf {st : State} {d a b : BitVec 7} {s w : BitVec 1} (h : st.mem.wf = true) :
    OutcomeWf (execRem d a b s w st) := isa_wf h fun _ _ _ => h

@[simp] theorem execMinmax_wf {s : State} {d a b : BitVec 7} {c m w : BitVec 1} (h : s.mem.wf = true) :
    OutcomeWf (execMinmax d a b c m w s) := isa_wf h fun _ _ _ => h

@[simp] theorem execAndR_wf {s : State} {d a b : BitVec 7} (h : s.mem.wf = true) : OutcomeWf (execAndR d a b s) :=
  isa_wf h fun _ _ _ => h

@[simp] theorem execOrR_wf {s : State} {d a b : BitVec 7} (h : s.mem.wf = true) : OutcomeWf (execOrR d a b s) :=
  isa_wf h fun _ _ _ => h

@[simp] theorem execXorR_wf {s : State} {d a b : BitVec 7} (h : s.mem.wf = true) : OutcomeWf (execXorR d a b s) :=
  isa_wf h fun _ _ _ => h

@[simp] theorem execAndn_wf {s : State} {d a b : BitVec 7} (h : s.mem.wf = true) : OutcomeWf (execAndn d a b s) :=
  isa_wf h fun _ _ _ => h

@[simp] theorem execAndi_wf {s : State} {d a : BitVec 7} {i : BitVec 11} (h : s.mem.wf = true) : OutcomeWf (execAndi d a i s) :=
  isa_wf h fun _ _ _ => h

@[simp] theorem execOri_wf {s : State} {d a : BitVec 7} {i : BitVec 11} (h : s.mem.wf = true) : OutcomeWf (execOri d a i s) :=
  isa_wf h fun _ _ _ => h

@[simp] theorem execXori_wf {s : State} {d a : BitVec 7} {i : BitVec 11} (h : s.mem.wf = true) : OutcomeWf (execXori d a i s) :=
  isa_wf h fun _ _ _ => h

@[simp] theorem execShift_wf {s : State} {d a b : BitVec 7} {w : BitVec 1} {k : BitVec 2} (h : s.mem.wf = true) :
    OutcomeWf (execShift d a b w k s) := isa_wf h fun _ _ _ => h

@[simp] theorem execShifti_wf {s : State} {d a : BitVec 7} {w : BitVec 1} {k : BitVec 2} {c : BitVec 6} (h : s.mem.wf = true) :
    OutcomeWf (execShifti d a w k c s) := isa_wf h fun _ _ _ => h

@[simp] theorem execBfx_wf {s : State} {d a : BitVec 7} {l : BitVec 5} {p : BitVec 6} (h : s.mem.wf = true) :
    OutcomeWf (execBfx d a l p s) := isa_wf h fun _ _ _ => h

@[simp] theorem execBfi_wf {s : State} {d a : BitVec 7} {l : BitVec 5} {p : BitVec 6} (h : s.mem.wf = true) :
    OutcomeWf (execBfi d a l p s) := isa_wf h fun _ _ _ => h

@[simp] theorem execBitop_wf {s : State} {d a : BitVec 7} {f : BitVec 4} (h : s.mem.wf = true) : OutcomeWf (execBitop d a f s) :=
  isa_wf h fun _ _ _ => h

@[simp] theorem execMov_wf {s : State} {d a : BitVec 7} {f : BitVec 4} (h : s.mem.wf = true) : OutcomeWf (execMov d a f s) :=
  isa_wf h fun _ _ _ => h

@[simp] theorem execMovRdp_wf {s : State} {d : BitVec 7} (h : s.mem.wf = true) : OutcomeWf (execMovRdp d s) :=
  isa_wf h fun _ _ _ => h

@[simp] theorem execMovWrp_wf {s : State} {a : BitVec 7} (h : s.mem.wf = true) : OutcomeWf (execMovWrp a s) :=
  isa_wf h fun _ _ _ => h

@[simp] theorem execMovFromSpecial_wf {s : State} {d c : BitVec 7} (h : s.mem.wf = true) : OutcomeWf (execMovFromSpecial d c s) :=
  isa_wf h fun _ _ _ => h

@[simp] theorem execMovToSpecial_wf {s : State} {c a : BitVec 7} (h : s.mem.wf = true) : OutcomeWf (execMovToSpecial c a s) :=
  isa_wf h fun _ _ _ => h

@[simp] theorem execMovi_wf {s : State} {d : BitVec 7} {i : BitVec 11} (h : s.mem.wf = true) : OutcomeWf (execMovi d i s) :=
  isa_wf h fun _ _ _ => h

@[simp] theorem execMovl_wf {s : State} {d : BitVec 7} {l : BitVec 32} (h : s.mem.wf = true) : OutcomeWf (execMovl d l s) :=
  isa_wf h fun _ _ _ => h

@[simp] theorem execMovlS_wf {s : State} {d : BitVec 7} {l : BitVec 32} (h : s.mem.wf = true) : OutcomeWf (execMovlS d l s) :=
  isa_wf h fun _ _ _ => h

@[simp] theorem execMovlHi_wf {s : State} {d : BitVec 7} {l : BitVec 32} (h : s.mem.wf = true) : OutcomeWf (execMovlHi d l s) :=
  isa_wf h fun _ _ _ => h

@[simp] theorem execLea_wf {st : State} {d a b : BitVec 7} {x : BitVec 1} {s : BitVec 3} (h : st.mem.wf = true) :
    OutcomeWf (execLea d a b x s st) := isa_wf h fun _ _ _ => h

@[simp] theorem execCmp_wf {s : State} {p : BitVec 5} {c : BitVec 2} {a b : BitVec 7} {n : BitVec 4} (h : s.mem.wf = true) :
    OutcomeWf (execCmp p c a b n s) := isa_wf h fun _ _ _ => h

@[simp] theorem execCmpi_wf {s : State} {p : BitVec 5} {c : BitVec 2} {a i : BitVec 7} {n : BitVec 4} (h : s.mem.wf = true) :
    OutcomeWf (execCmpi p c a i n s) := isa_wf h fun _ _ _ => h

@[simp] theorem execPlog_wf {s : State} {p : BitVec 5} {c : BitVec 2} {x y : BitVec 5} {t : BitVec 4} (h : s.mem.wf = true) :
    OutcomeWf (execPlog p c x y t s) := isa_wf h fun _ _ _ => h

@[simp] theorem execPred_wf {st : State} {p : BitVec 5} {n : BitVec 1} {s : BitVec 3} (h : st.mem.wf = true) :
    OutcomeWf (execPred p n s st) := isa_wf h fun _ _ _ => h

end Sys2Proof.Machine
end

section
/-! SUPPORT. Turns, the table of steps and the step itself keep the form of the memory (O60). -/

namespace Sys2Proof.Machine

/-! ### `Machine/Return.lean`: RFT -/

@[simp] theorem rft_wf {mode : Nat} {r : FibreRef} {t : Team} {f : Fibre} {s : State} (h : s.mem.wf = true) :
    ActWf (rft mode r t f s) := by
  unfold rft
  have ha := recordAt_wf (r := r) (t := t) (f := f) (va := f.csp.toNat) (n := 16) (base := 0) h
  split
  · trivial
  · split
    next e => simpa [e] using ha
    next v u e => exact returnFromTrap_wf (by simpa [e] using ha)

@[simp] theorem execRftResume_wf {s : State} (h : s.mem.wf = true) : OutcomeWf (execRftResume s) :=
  isa_wf h fun _ _ _ => by simp [h]

@[simp] theorem execRftSkip_wf {s : State} (h : s.mem.wf = true) : OutcomeWf (execRftSkip s) := isa_wf h fun _ _ _ => by simp [h]

@[simp] theorem execRftKill_wf {s : State} (h : s.mem.wf = true) : OutcomeWf (execRftKill s) := isa_wf h fun _ _ _ => by simp [h]

/-! ### `Machine/Turn.lean`: the turn of a fibre -/

@[simp] theorem State.leaveBlock_mem (s : State) (r : FibreRef) (f : Fibre) : (s.leaveBlock r f).mem = s.mem := by
  unfold State.leaveBlock
  split <;> rfl

theorem State.takeDue_wf {s : State} {r : FibreRef} {t : Team} {f : Fibre} (h : s.mem.wf = true) : OptionWf (s.takeDue r t f) := by
  unfold State.takeDue
  dsimp only
  (repeat' split) <;> simp [h]

theorem State.takePending_wf {s : State} {r : FibreRef} {t : Team} {f : Fibre} (h : s.mem.wf = true) :
    OptionWf (s.takePending r t f) := by
  unfold State.takePending
  split
  · exact OptionWf_none
  · split
    · exact OptionWf_some.mpr (by simp [h])
    · exact State.takeDue_wf h

@[simp] theorem State.fetchStops_wf {s : State} {r : FibreRef} {t : Team} {f : Fibre} {e : Trap} (h : s.mem.wf = true) :
    (s.fetchStops r t f e).mem.wf = true := by
  unfold State.fetchStops
  (repeat' split) <;> simp [h]

@[simp] theorem State.dropFetched_mem (s before : State) (r : FibreRef) : (s.dropFetched before r).mem = s.mem := by
  unfold State.dropFetched
  split <;> rfl

@[simp] theorem startClause_wf {r : FibreRef} {t : Team} {f : Fibre} {s : State} (h : s.mem.wf = true) :
    (startClause r t f s).mem.wf = true := by
  unfold startClause
  extract_lets pending
  have hp : OptionWf pending := by
    dsimp only [pending]
    split
    · exact OptionWf_none
    · exact State.takePending_wf h
  cases hv : pending with
  | some u => exact hp u hv
  | none =>
    dsimp only
    split
    · exact State.fetchStops_wf h
    · simp [h]
    · split <;> simp [h]

@[simp] theorem execClauseStart_wf {s : State} (h : s.mem.wf = true) : OutcomeWf (execClauseStart s) := by
  unfold execClauseStart
  (repeat' split) <;> simp [h]

@[simp] theorem State.withdrawDemand_mem (s : State) (r : FibreRef) : (s.withdrawDemand r).mem = s.mem := by
  simp [State.withdrawDemand]

@[simp] theorem State.waitInside_wf {s : State} {r : FibreRef} {t : Team} {f : Fibre} (h : s.mem.wf = true) :
    (s.waitInside r t f).mem.wf = true := by
  unfold State.waitInside
  split
  · simp [h]
  · split
    · exact h
    · exact (State.takeDue_wf (by simpa using h)).getD h

/-- A turn of a fibre keeps the form where the meaning of instructions, `run`, does. -/
theorem fetchedTurn_wf {run : Instr → State → Host.Outcome State Fault Refusal} {r : FibreRef} {s : State} (h : s.mem.wf = true)
    (hr : ∀ i s, s.mem.wf = true → OutcomeWf (run i s)) : OutcomeWf (fetchedTurn run r s) := by
  unfold fetchedTurn
  dsimp only
  split
  · exact h
  next t f _ =>
    split
    · exact State.tryEnter_wf h
    · split
      · refine OutcomeWf_next.mpr ?_
        split
        · exact State.raiseAt_wf h
        · exact h
      · split
        · exact h
        · split
          · exact (State.takePending_wf (s := { s with cur := some r }) h).getD h
          · split
            · exact hr _ _ h
            next c _ =>
              have hn : (({ s with cur := some r } : State).updFibre r Fibre.notePrefix).mem.wf = true := by simpa using h
              split
              · exact State.fetchStops_wf hn
              next i len _ =>
                split
                · split
                  · exact State.raiseAt_wf hn
                  · exact hn
                · have hi := hr i _ hn
                  split
                  · split
                    · exact State.waitInside_wf hn
                    next e _ => rwa [e] at hi
                  · exact hi

theorem fibreTurn_wf {run : Instr → State → Host.Outcome State Fault Refusal} {r : FibreRef} {s : State} (h : s.mem.wf = true)
    (hr : ∀ i s, s.mem.wf = true → OutcomeWf (run i s)) : OutcomeWf (fibreTurn run r s) := by
  unfold fibreTurn
  have ht := fetchedTurn_wf (r := r) h hr
  split
  · exact ht
  · split
    next e => simpa [e] using ht
    · exact ht

/-! ### `Machine/Dispatch.lean`: every step of the table -/

/-- Every step of the table keeps the form: each arm is one call of a meaning, whose lemma stands above. -/
theorem exec_wf {i : Instr} {s : State} (h : s.mem.wf = true) : OutcomeWf (exec i s) := by
  unfold exec
  cases i <;> simp [h]

/-! ### `Machine/Sched.lean`: issue and the device's turns -/

@[simp] theorem State.ageFibres_mem (s : State) : s.ageFibres.mem = s.mem := by simp [State.ageFibres]

@[simp] theorem State.cycle_mem (s : State) : s.cycle.mem = s.mem := by simp [State.cycle, apply_ite State.mem]

@[simp] theorem State.noteTurn_mem (s : State) (t : Turn) : (s.noteTurn t).mem = s.mem := by
  unfold State.noteTurn
  (repeat' split) <;> rfl

theorem deviceTurn_wf {t : Turn} {s : State} (h : s.mem.wf = true) : OutcomeWf (deviceTurn t s) := by
  unfold deviceTurn
  split
  · exact exec_wf h
  · exact h
  · exact exec_wf h
  all_goals simp [h]

/-! ### `Machine/Step.lean`: the step -/

theorem runTurn_wf {t : Turn} {s : State} (h : s.mem.wf = true) : OutcomeWf (runTurn t s) := by
  unfold runTurn
  split
  · exact fibreTurn_wf h fun _ _ h => exec_wf h
  · exact deviceTurn_wf h

theorem afterTurn_wf {o : Host.Outcome State Fault Refusal} (h : OutcomeWf o) : OutcomeWf (afterTurn o) := by
  cases o <;> exact h

/-- One step: a turn of the agenda or an enabled one; the issue cycle before it and the clock after it leave memory alone. -/
theorem step_wf {s : State} (h : s.mem.wf = true) : OutcomeWf (step s) := by
  have hc : s.cycle.mem.wf = true := by simpa using h
  unfold step
  split
  · exact afterTurn_wf (runTurn_wf h)
  · split
    · exact hc
    · exact afterTurn_wf (runTurn_wf (by simpa using hc))

/-- Settles O60: a step is a turn of a fibre, of the device or of what is outside, and each of them changes the memory only by
operations that keep its form. -/
theorem stepKeepsMemoryForm : Obligations.StepKeepsMemoryForm := by
  intro s s' h hs
  simpa [hs] using step_wf h

end Sys2Proof.Machine
end

section
/-! SUPPORT. The module as a board, `Machine/Board.lean`: the lifetime counters, their copies in flash, boot, events, the thermal guard and the samples; then the obligations on the board and on what module reset leaves. -/

namespace Sys2Proof.Machine

/-! ### Oseus and the lifetime counters (01 R31) -/

@[simp] theorem State.updOs_teams (s : State) (f : Oseus → Oseus) : (s.updOs f).teams = s.teams := rfl
@[simp] theorem State.updOs_events (s : State) (f : Oseus → Oseus) : (s.updOs f).events = s.events := rfl
@[simp] theorem State.updOs_life (s : State) (f : Oseus → Oseus) : (s.updOs f).life = s.life := rfl
@[simp] theorem State.updOs_os (s : State) (f : Oseus → Oseus) : (s.updOs f).os = f s.os := rfl

/-- A value other than the one of an unlisted key is read back from a map in any order. -/
theorem sparseGet_put_listed {α : Type} [DecidableEq α] {z v : α} {m : List (Nat × α)} {a : Nat} (hv : v ≠ z) :
    sparseGet z (sparsePut z m a v) a = v := by
  induction m with
  | nil => simp [sparsePut, sparseGet, hv]
  | cons p m ih =>
    obtain ⟨b, w⟩ := p
    unfold sparsePut
    split
    · simp [sparseGet]
    · split
      next hab => simp [sparseGet, hab]
      next hab => rw [sparseGet, if_neg hab, ih]

theorem State.lifeCount_life_wf {s : State} {e i n : Nat} (h : sparseWf 0 s.life = true) :
    sparseWf 0 (s.lifeCount e i n).life = true := sparsePut_wf h

theorem State.lifeCount_life_other {s : State} {e i n k : Nat} (h : k ≠ e * 65536 + i) :
    sparseGet 0 (s.lifeCount e i n).life k = sparseGet 0 s.life k := sparseGet_put_other h

/-- Counters in canonical form: a count adds its number. -/
theorem State.lifeCount_more {s : State} {e i n : Nat} (h : sparseWf 0 s.life = true) :
    Claims.More s.life (s.lifeCount e i n) e i n := sparseGet_put_same h

/-- Counters in any form: a count of one is read back, since what it leaves is not 0. -/
theorem State.lifeCount_oneMore (s : State) (e i : Nat) : Claims.OneMore s.life (s.lifeCount e i 1) e i :=
  sparseGet_put_listed (by omega)

end Sys2Proof.Machine

namespace Sys2Proof.Claims

open Sys2Proof.Machine

/-- What a count says of one counter stands under a later count of another. -/
theorem More.lifeCount {cs : List (Nat × Nat)} {t : State} {e i n e' i' m : Nat} (h : More cs t e i n)
    (other : e * 65536 + i ≠ e' * 65536 + i') : More cs (t.lifeCount e' i' m) e i n :=
  (State.lifeCount_life_other other).trans h

/-- A counter that reads the same before gives the same claim. -/
theorem More.of_same {cs ds : List (Nat × Nat)} {t : State} {e i n : Nat} (h : More cs t e i n)
    (same : sparseGet 0 cs (e * 65536 + i) = sparseGet 0 ds (e * 65536 + i)) : More ds t e i n := by
  rwa [More, ← same]

/-- A claim on a counter speaks of the counters of its state alone. -/
theorem More.of_life_eq {cs : List (Nat × Nat)} {t u : State} {e i n : Nat} (h : More cs t e i n)
    (same : u.life = t.life) : More cs u e i n := by
  rwa [More, same]

end Sys2Proof.Claims

namespace Sys2Proof.Machine

/-! ### The copies of the counters in flash (01 R32) -/

/-- The best copy is one of the whole ones. -/
theorem Oseus.bestCopy_mem {o : Oseus} {b : LifeCopy} (h : o.bestCopy = some b) : b ∈ o.copies ∧ b.whole = true := by
  have best : ∀ r, o.bestCopy = some r → r ∈ o.copies.filter (fun c => c.whole) := by
    unfold Oseus.bestCopy
    refine List.foldlRecOn (motive := fun b => ∀ r, b = some r → r ∈ o.copies.filter (fun c => c.whole)) _ _ ?_ ?_
    · simp
    intro b hb c hc r hr
    cases b with
    | none => exact Option.some.inj hr ▸ hc
    | some x =>
      dsimp only at hr
      split at hr
      · exact Option.some.inj hr ▸ hc
      · exact hb r hr
  exact List.mem_filter.mp (best b h)

/-- The best copy depends on the copies alone. -/
theorem Oseus.bestCopy_congr {o p : Oseus} (h : o.copies = p.copies) : o.bestCopy = p.bestCopy := by
  rw [Oseus.bestCopy, Oseus.bestCopy, h]

/-- A copy that is not whole, written over the older one, leaves the best copy. -/
theorem Oseus.replaceOlder_spoilt {o : Oseus} {b c : LifeCopy} (h : o.bestCopy = some b) (spoilt : c.whole = false) :
    (o.replaceOlder c).bestCopy = some b := by
  obtain ⟨-, whole⟩ := Oseus.bestCopy_mem h
  simp only [Oseus.replaceOlder, h]
  simp [Oseus.bestCopy, whole, spoilt]

/-- A whole copy with a higher number, written over the older one, is the best. -/
theorem Oseus.replaceOlder_newer {o : Oseus} {c : LifeCopy} (whole : c.whole = true)
    (newer : ∀ b, o.bestCopy = some b → b.seq < c.seq) : (o.replaceOlder c).bestCopy = some c := by
  cases h : o.bestCopy with
  | none => simp only [Oseus.replaceOlder, h]; simp [Oseus.bestCopy, whole]
  | some b =>
    obtain ⟨-, hb⟩ := Oseus.bestCopy_mem h
    simp only [Oseus.replaceOlder, h]
    simp [Oseus.bestCopy, whole, hb, newer b h]

theorem Oseus.replaceOlder_keeps_best {o : Oseus} {b c : LifeCopy} (h : o.bestCopy = some b) :
    b ∈ (o.replaceOlder c).copies := by
  simp [Oseus.replaceOlder, h]

@[simp] theorem State.writeLife_events (s : State) : s.writeLife.events = s.events := by simp [State.writeLife]

/-- A write leaves a best copy of the counters, with the number after the best one before, which stays. -/
theorem State.writeLife_bestCopy (s : State) : ∃ c, s.writeLife.os.bestCopy = some c ∧ c.counters = s.life ∧
    c.carry = s.os.carry ∧ ∀ b, s.os.bestCopy = some b → c.seq = b.seq + 1 ∧ b ∈ s.writeLife.os.copies := by
  refine ⟨_, Oseus.replaceOlder_newer rfl ?_, rfl, rfl, ?_⟩
  · intro b hb
    simp [hb]
  · intro b hb
    exact ⟨by simp [hb], Oseus.replaceOlder_keeps_best hb⟩

/-! ### Boot (01 Table 1.6) -/

/-- The dies that a boot finds failed: none where no bank is good. -/
def Oseus.failedDies (o : Oseus) (dead : Nat) : Nat := if o.bootBank.isSome then dead &&& dieMask else 0

/-- A boot ends in recovery mode: no bank is good, or a stack failed. -/
def Oseus.recovers (o : Oseus) (dead : Nat) : Bool := o.bootBank.isNone || decide (o.failedDies dead % 256 ≠ 0)

/-- What boot steps 2 to 4 leave of the bank: its measurements, where one is good. -/
def Oseus.measured (o : Oseus) : Oseus := match o.bootBank with | some b => o.measure b | none => o

@[simp] theorem Oseus.measured_copies (o : Oseus) : o.measured.copies = o.copies := by
  unfold Oseus.measured; split <;> rfl
@[simp] theorem Oseus.measured_banks (o : Oseus) : o.measured.banks = o.banks := by
  unfold Oseus.measured; split <;> rfl
@[simp] theorem Oseus.measured_preferred (o : Oseus) : o.measured.preferred = o.preferred := by
  unfold Oseus.measured; split <;> rfl
@[simp] theorem Oseus.measured_flash (o : Oseus) : o.measured.flash = o.flash := by
  unfold Oseus.measured; split <;> rfl
@[simp] theorem Oseus.measured_fusedMin (o : Oseus) : o.measured.fusedMin = o.fusedMin := by
  unfold Oseus.measured; split <;> rfl
@[simp] theorem Oseus.measured_held (o : Oseus) : o.measured.held = o.held := by
  unfold Oseus.measured; split <;> rfl

/-- After a reset nothing is booted but what the boot measures. -/
theorem Oseus.measured_booted {o : Oseus} (h : o.booted = none) : o.measured.booted = o.bootBank := by
  unfold Oseus.measured
  split
  next hb => rw [hb]; rfl
  next hb => rw [hb]; exact h

/-- What a boot brings up of a state: the module has power, the failed dies are named, and with a host port that trains the Pyryta ports come up. Only the loading of the counters is still to come. -/
def State.broughtUp (s : State) (dead ports : Nat) (host : Bool) : State :=
  let mac := if s.os.host.nextMac = 0 then Config.fusedMac else s.os.host.nextMac
  { s with
    dieStatus := BitVec.ofNat 64 (s.os.failedDies dead)
    bootDone := if host then !s.os.recovers dead else s.bootDone
    ports := if host then s.ports.map (fun (p : Port) => { p with state := if ports.testBit p.idx then .down else .up }) else s.ports
    os := { s.os.measured with
      powered := true
      recovery := s.os.recovers dead
      light := !host
      host := { s.os.measured.host with
        up := host
        mac := mac
        gid := if s.os.host.nextGid = 0 then linkLocal mac else s.os.host.nextGid } } }

/-- A host port that does not train halts the boot before the counters are loaded. -/
theorem State.boot_halted (s : State) (dead ports : Nat) : s.boot dead ports false = s.broughtUp dead ports false := rfl

/-- A boot that goes on loads the counters and counts itself, once more where it ends in recovery mode. -/
theorem State.boot_trained (s : State) (dead ports : Nat) : s.boot dead ports true =
    let u := (s.broughtUp dead ports true).loadRecords.lifeCount 11 0 1
    if s.os.recovers dead then u.lifeCount 11 1 1 else u := rfl

/-- The counters and their milliseconds are all that a boot changes beside what it brings up. -/
theorem State.boot_eq (s : State) (dead ports : Nat) (host : Bool) : ∃ life carry, s.boot dead ports host =
    { s.broughtUp dead ports host with
      life := life
      os := { (s.broughtUp dead ports host).os with carry := carry } } := by
  cases host with
  | false => exact ⟨_, _, s.boot_halted dead ports⟩
  | true =>
    rw [s.boot_trained dead ports]
    dsimp only
    split <;> exact ⟨_, _, rfl⟩

/-- A good preferred bank is booted, and a good other bank where the preferred one is not. -/
theorem Oseus.bootBank_of_good {o : Oseus} {b : Nat} (good : o.bankGood b = true) :
    (b = o.preferred → o.bootBank = some b) ∧ (b = 1 - o.preferred → o.bootBank.isSome = true) := by
  unfold Oseus.bootBank
  refine ⟨fun h => ?_, fun h => ?_⟩
  · rw [← h, if_pos good]
  · rw [← h, if_pos good]
    split <;> rfl

/-- The dies count as failed only where a bank is booted. -/
theorem Oseus.failedDies_eq (o : Oseus) (dead : Nat) :
    (o.bootBank.isSome = true → o.failedDies dead = dead &&& dieMask) ∧ (o.bootBank = none → o.failedDies dead = 0) :=
  ⟨fun h => if_pos h, fun h => by rw [failedDies, h]; rfl⟩

theorem Oseus.recovers_eq (o : Oseus) (dead : Nat) :
    o.recovers dead = (o.bootBank.isNone || decide ((dead &&& dieMask) % 256 ≠ 0)) := by
  cases h : o.bootBank <;> simp [recovers, failedDies, h]

/-- The measurements of a booted bank. -/
theorem Oseus.measured_of_bank {o : Oseus} {b : Nat} {k : Bank} (boots : o.bootBank = some b) (holds : o.banks[b]? = some k) :
    o.measured.booted = some b ∧ o.measured.digest = padTo 64 (Config.shake256 k.image) ∧
      o.measured.security = Config.securityOf k.image := by
  simp [measured, boots, measure, holds]

/-- The boot of a cleared module is the one that 01 Table 1.6 describes. -/
theorem State.cleared_boot_booted (s : State) (dead ports : Nat) (host : Bool) :
    Claims.Booted s (s.cleared.boot dead ports host) dead ports host := by
  obtain ⟨life, carry, eq⟩ := s.cleared.boot_eq dead ports host
  have booted : s.cleared.os.measured.booted = s.cleared.os.bootBank := Oseus.measured_booted rfl
  obtain ⟨failed, noneFailed⟩ := s.cleared.os.failedDies_eq dead
  have recovers := s.cleared.os.recovers_eq dead
  rw [← booted] at failed noneFailed recovers
  rw [eq]
  exact {
    lost := ⟨rfl, rfl, rfl, rfl, rfl, rfl, rfl, rfl, Oseus.measured_held _⟩
    kept := ⟨Oseus.measured_banks _, Oseus.measured_preferred _, Oseus.measured_flash _, Oseus.measured_fusedMin _⟩
    up := ⟨rfl, rfl, rfl, fun h => congrArg (BitVec.ofNat 64) (failed h),
      fun h => congrArg (BitVec.ofNat 64) (noneFailed h), by cases host <;> rfl, recovers⟩
    ports := by
      cases host with
      | false => exact ⟨rfl, fun p hp => by obtain ⟨i, -, rfl⟩ := List.mem_map.mp hp; rfl⟩
      | true =>
        refine ⟨rfl, fun p hp => ?_⟩
        obtain ⟨q, -, rfl⟩ := List.mem_map.mp hp
        simp
    bank := fun b k holds valid signed secure => by
      have good : s.cleared.os.bankGood b = true := by
        have hb : s.cleared.os.banks[b]? = some k := holds
        have hm : s.cleared.os.fusedMin ≤ Config.securityOf k.image := secure
        simp [Oseus.bankGood, hb, valid, signed, hm]
      obtain ⟨preferred, other⟩ := Oseus.bootBank_of_good good
      rw [← booted] at other
      exact ⟨fun h => Oseus.measured_of_bank (preferred h) holds, other⟩ }

/-- A boot whose host port trains counts itself in boots, number 0, above what the best copy holds. -/
theorem State.boot_oneMore {s : State} {c : LifeCopy} (dead ports : Nat) (h : s.os.bestCopy = some c) :
    Claims.OneMore c.counters (s.boot dead ports true) 11 0 := by
  have best : (s.broughtUp dead ports true).os.bestCopy = some c :=
    (Oseus.bestCopy_congr s.os.measured_copies).trans h
  have loaded : (s.broughtUp dead ports true).loadRecords.life = c.counters := by simp [State.loadRecords, best]
  have counted := State.lifeCount_oneMore (s.broughtUp dead ports true).loadRecords 11 0
  rw [loaded] at counted
  rw [s.boot_trained dead ports]
  dsimp only
  split
  · exact Claims.More.lifeCount counted (by decide)
  · exact counted

/-- What a boot makes of a module, its records written first, is what it makes of the module. -/
theorem State.writeLife_booted (s : State) (dead ports : Nat) (host : Bool) :
    Claims.Booted s (s.writeLife.cleared.boot dead ports host) dead ports host :=
  let ⟨lost, kept, up, ports, bank⟩ := s.writeLife.cleared_boot_booted dead ports host
  ⟨lost, kept, up, ports, bank⟩

theorem execPowerGood_result (s : State) (dead ports : Nat) (host : Bool) :
    (s.os.powered = true → execPowerGood dead ports host s = .next s) ∧
    (s.os.powered = false → ∃ t, execPowerGood dead ports host s = .next t ∧ Claims.Booted s t dead ports host ∧
      ∀ c, host = true → s.os.bestCopy = some c → Claims.OneMore c.counters t 11 0) := by
  refine ⟨fun h => by simp [execPowerGood, device, h], fun h => ?_⟩
  refine ⟨_, by simp [execPowerGood, device, h], s.cleared_boot_booted dead ports host, ?_⟩
  rintro c rfl best
  exact State.boot_oneMore (s := s.cleared) dead ports best

theorem execModuleReset_due {s : State} {a : Nat} (dead ports : Nat) (host : Bool) (h : s.os.resetAt = some a) :
    (s.aclk < a → execModuleReset dead ports host s = .next s) ∧
    (a ≤ s.aclk → ∃ t, execModuleReset dead ports host s = .next t ∧ Claims.Booted s t dead ports host ∧
      (host = true → Claims.OneMore s.life t 11 0)) := by
  refine ⟨fun early => by simp [execModuleReset, device, h, early], fun due => ?_⟩
  obtain ⟨c, best, counters, -⟩ := s.writeLife_bestCopy
  refine ⟨_, by simp [execModuleReset, device, h, due], s.writeLife_booted dead ports host, ?_⟩
  rintro rfl
  rw [← counters]
  exact State.boot_oneMore (s := s.writeLife.cleared) dead ports best

theorem execModuleReset_none {s : State} (dead ports : Nat) (host : Bool) (h : s.os.resetAt = none) :
    execModuleReset dead ports host s = .next s := by
  simp [execModuleReset, device, h]

theorem execPowerLoss_result (s : State) : ∃ t, execPowerLoss s = .next t ∧ t.os.powered = false ∧ t.teams = [] ∧ t.ctxs = [] ∧
    t.mem = Memory.reset ∧ t.bootDone = false ∧ t.os.banks = s.os.banks ∧ t.os.flash = s.os.flash ∧
    t.os.fusedMin = s.os.fusedMin ∧ ∀ b, s.os.bestCopy = some b → t.os.bestCopy = some b := by
  unfold execPowerLoss
  split
  · exact ⟨_, rfl, rfl, rfl, rfl, rfl, rfl, rfl, rfl, rfl, fun b best => Oseus.replaceOlder_spoilt best rfl⟩
  · exact ⟨_, rfl, rfl, rfl, rfl, rfl, rfl, rfl, rfl, rfl, fun b best => best⟩

/-! ### Events (03 R61) -/

@[simp] theorem State.pushEvent_teams (s : State) (code ctx : Nat) (word : Dword) : (s.pushEvent code ctx word).teams = s.teams := by
  simp [State.pushEvent, apply_ite State.teams]
@[simp] theorem State.pushEvent_insts (s : State) (code ctx : Nat) (word : Dword) : (s.pushEvent code ctx word).insts = s.insts := by
  simp [State.pushEvent, apply_ite State.insts]
@[simp] theorem State.pushEvent_life (s : State) (code ctx : Nat) (word : Dword) : (s.pushEvent code ctx word).life = s.life := by
  simp [State.pushEvent, apply_ite State.life]
@[simp] theorem State.pushEvent_os (s : State) (code ctx : Nat) (word : Dword) : (s.pushEvent code ctx word).os = s.os := by
  simp [State.pushEvent, apply_ite State.os]

/-- The new event is the last of the queue, and only the oldest of 256 gives way to it. -/
theorem State.pushEvent_events (s : State) (code ctx : Nat) (word : Dword) : ∃ e, e.code = code ∧
    (s.pushEvent code ctx word).events = s.events.drop (if s.events.length < 256 then 0 else 1) ++ [e] := by
  unfold State.pushEvent
  dsimp only
  split <;> exact ⟨⟨_, code, _, _, _, _⟩, rfl, rfl⟩

theorem State.pushEvent_last (s : State) (code ctx : Nat) (word : Dword) :
    ∃ e, (s.pushEvent code ctx word).events.getLast? = some e ∧ e.code = code := by
  obtain ⟨e, he, events⟩ := s.pushEvent_events code ctx word
  exact ⟨e, by rw [events, List.getLast?_concat], he⟩

/-- The event before the new one stays: of 256 events only the first gives way. -/
theorem State.pushEvent_keeps_last {s : State} {e : EventMsg} (code ctx : Nat) (word : Dword) (h : s.events.getLast? = some e) :
    e ∈ (s.pushEvent code ctx word).events := by
  obtain ⟨x, -, events⟩ := s.pushEvent_events code ctx word
  rw [events]
  refine List.mem_append_left _ (List.mem_of_getLast? ?_)
  have nonempty : s.events ≠ [] := fun empty => by simp [empty] at h
  have length := List.length_pos_iff.mpr nonempty
  rw [List.getLast?_drop, h, if_neg]
  split <;> omega

/-! ### The thermal guard (01 R25 to R27) -/

@[simp] theorem State.excursionChange_teams (s : State) (before now : Bool) : (s.excursionChange before now).teams = s.teams := by
  simp [State.excursionChange, apply_ite State.teams]
@[simp] theorem State.excursionChange_life (s : State) (before now : Bool) : (s.excursionChange before now).life = s.life := by
  simp [State.excursionChange, apply_ite State.life]
@[simp] theorem State.excursionChange_os (s : State) (before now : Bool) : (s.excursionChange before now).os = s.os := by
  simp [State.excursionChange, apply_ite State.os]

/-- An excursion that neither begins nor ends changes nothing. -/
theorem State.excursionChange_same (s : State) (now : Bool) : s.excursionChange now now = s := by
  cases now <;> rfl

theorem State.excursionChange_rise (s : State) : s.excursionChange false true =
    ({ s with insts := s.insts.map (fun (x : Inst) => { x with excursion := true }) } : State).pushEvent 1 0 0 := rfl

/-- The begin of an excursion marks every live instance and queues event 1. -/
theorem State.excursionChange_begin (s : State) : (∀ x ∈ (s.excursionChange false true).insts, x.excursion = true) ∧
    ∃ e, (s.excursionChange false true).events.getLast? = some e ∧ e.code = 1 := by
  rw [State.excursionChange_rise, State.pushEvent_insts]
  refine ⟨fun x hx => ?_, State.pushEvent_last _ 1 0 0⟩
  obtain ⟨y, -, rfl⟩ := List.mem_map.mp hx
  rfl

/-- The end of an excursion queues event 2. -/
theorem State.excursionChange_end (s : State) : (s.excursionChange true false).insts = s.insts ∧
    ∃ e, (s.excursionChange true false).events.getLast? = some e ∧ e.code = 2 :=
  ⟨s.pushEvent_insts 2 0 0, s.pushEvent_last 2 0 0⟩

@[simp] theorem State.throttled_teams (s : State) : s.throttled.teams = s.teams := by simp [State.throttled]
@[simp] theorem State.throttled_insts (s : State) : s.throttled.insts = s.insts := by simp [State.throttled]
@[simp] theorem State.throttled_events (s : State) : s.throttled.events = s.events := by simp [State.throttled]

theorem bit_lt (b : Bool) : bit b < 2 := by
  cases b <;> decide

theorem decide_bit (b : Bool) : decide (bit b = 1) = b := by
  cases b <;> rfl

theorem mul_bit (n : Nat) (b : Bool) : n * bit b = if b then n else 0 := by
  cases b <;> simp [bit]

/-- The three kinds of throttling time of 01 Table 1.7, each with the bit of sys.thermal_state that counts it. -/
theorem State.throttled_more {s : State} (h : sparseWf 0 s.life = true) {k i : Nat} (hk : (k, i) ∈ [(0, 1), (1, 2), (2, 0)]) :
    Claims.More s.life s.throttled 7 k (if s.thermal.getLsbD i then s.aclk / 3600 - s.os.guardAt / 3600 else 0) := by
  rw [← mul_bit]
  simp only [List.mem_cons, Prod.mk.injEq, List.not_mem_nil, or_false] at hk
  rcases hk with ⟨rfl, rfl⟩ | ⟨rfl, rfl⟩ | ⟨rfl, rfl⟩
  · exact ((State.lifeCount_more h).lifeCount (by decide)).lifeCount (by decide)
  · exact ((State.lifeCount_more (State.lifeCount_life_wf h)).of_same (State.lifeCount_life_other (by decide))).lifeCount (by decide)
  · refine (State.lifeCount_more (State.lifeCount_life_wf (State.lifeCount_life_wf h))).of_same ?_
    exact (State.lifeCount_life_other (by decide)).trans (State.lifeCount_life_other (by decide))

/-- The counts of throttling time leave the other counters. -/
theorem State.throttled_other {s : State} {k : Nat} (h : k < 7 * 65536 ∨ 7 * 65536 + 2 < k) :
    sparseGet 0 s.throttled.life k = sparseGet 0 s.life k :=
  ((State.lifeCount_life_other (by omega)).trans (State.lifeCount_life_other (by omega))).trans (State.lifeCount_life_other (by omega))

/-- The state with the counters that Oseus holds, from flash where the boot has not loaded them (01 R32). -/
def State.withRecords (s : State) : State := if s.os.records then s else s.loadRecords

theorem State.withRecords_life (s : State) : s.withRecords.life = Claims.recordsOf s := by
  have records : s.os.records = true ↔ s.os.powered = true ∧ s.os.host.up = true := Bool.and_eq_true_iff
  by_cases h : s.os.powered = true ∧ s.os.host.up = true
  · exact (congrArg State.life (if_pos (records.mpr h))).trans (if_pos h).symm
  · exact (congrArg State.life (if_neg (fun on => h (records.mp on)))).trans (if_neg h).symm

theorem State.withRecords_throttle (s : State) :
    s.withRecords.thermal = s.thermal ∧ s.withRecords.aclk = s.aclk ∧ s.withRecords.os.guardAt = s.os.guardAt := by
  unfold State.withRecords
  split <;> exact ⟨rfl, rfl, rfl⟩

/-- What the stop counts, with the end of an excursion that stood. -/
def State.stopCounted (s : State) : State :=
  (s.withRecords.throttled.excursionChange (s.withRecords.thermal.getLsbD 0) false).lifeCount 11 2 1

theorem State.stopCounted_life (s : State) : s.stopCounted.life = (s.withRecords.throttled.lifeCount 11 2 1).life := by
  simp [State.stopCounted, State.lifeCount]

/-- What stands after the stop: no work, no memory, and what the stop has counted, saved and reported. -/
theorem State.junctionStop_after (s : State) : s.junctionStop.teams = [] ∧ s.junctionStop.ctxs = [] ∧
    s.junctionStop.mem = Memory.reset ∧ s.junctionStop.os.held = true ∧ s.junctionStop.os.powered = true ∧
    s.junctionStop.os.copies = s.stopCounted.writeLife.os.copies ∧ s.junctionStop.life = s.stopCounted.life ∧
    s.junctionStop.events = (s.stopCounted.writeLife.pushEvent 5 0 0).events :=
  ⟨rfl, rfl, rfl, rfl, rfl, (congrArg Oseus.copies (s.stopCounted.writeLife.pushEvent_os 5 0 0) :), State.pushEvent_life _ 5 0 0, rfl⟩

/-- The stop is recorded in the copy that is then the best. -/
theorem State.junctionStop_saved (s : State) :
    ∃ c, s.junctionStop.os.bestCopy = some c ∧ c.counters = s.junctionStop.life := by
  obtain ⟨-, -, -, -, -, copies, life, -⟩ := s.junctionStop_after
  obtain ⟨c, best, counters, -⟩ := s.stopCounted.writeLife_bestCopy
  exact ⟨c, (Oseus.bestCopy_congr copies).trans best, by rw [life, counters]⟩

theorem State.junctionStop_last (s : State) : ∃ e, s.junctionStop.events.getLast? = some e ∧ e.code = 5 :=
  State.pushEvent_last _ 5 0 0

/-- An excursion that stands at the stop ends with event 2. -/
theorem State.junctionStop_ends {s : State} (h : s.thermal.getLsbD 0 = true) : ∃ e ∈ s.junctionStop.events, e.code = 2 := by
  obtain ⟨-, e, last, code⟩ := s.withRecords.throttled.excursionChange_end
  obtain ⟨thermal, -, -⟩ := s.withRecords_throttle
  refine ⟨e, ?_, code⟩
  refine State.pushEvent_keeps_last (s := s.stopCounted.writeLife) 5 0 0 ?_
  rw [State.writeLife_events, State.stopCounted, State.lifeCount_events, thermal, h, last]

/-- The stop counts itself, and the throttling time up to it. -/
theorem State.junctionStop_counts {s : State} (h : sparseWf 0 (Claims.recordsOf s) = true) :
    Claims.OneMore (Claims.recordsOf s) s.junctionStop 11 2 ∧ ∀ k i, (k, i) ∈ [(0, 1), (1, 2), (2, 0)] →
      Claims.More (Claims.recordsOf s) s.junctionStop 7 k
        (if s.thermal.getLsbD i then s.aclk / 3600 - s.os.guardAt / 3600 else 0) := by
  obtain ⟨-, -, -, -, -, -, life, -⟩ := s.junctionStop_after
  have life := life.trans s.stopCounted_life
  obtain ⟨thermal, aclk, guardAt⟩ := s.withRecords_throttle
  rw [← s.withRecords_life] at *
  refine ⟨?_, fun k i hk => ?_⟩
  · have one := State.lifeCount_oneMore s.withRecords.throttled 11 2
    exact (Claims.More.of_same one (State.throttled_other (by decide))).of_life_eq life
  · have more := State.throttled_more h hk
    rw [thermal, aclk, guardAt] at more
    have kind_lt : k < 3 := by
      simp only [List.mem_cons, Prod.mk.injEq, List.not_mem_nil, or_false] at hk
      omega
    exact (more.lifeCount (by omega)).of_life_eq life

theorem execJunctionStop_result (s : State) (temp : Nat) :
    (temp < 110 ∨ s.os.powered = false → execJunctionStop temp s = .next s) ∧
    (110 ≤ temp → s.os.powered = true → ∃ t c, execJunctionStop temp s = .next t ∧ t.teams = [] ∧ t.ctxs = [] ∧ t.mem = Memory.reset ∧
      t.os.held = true ∧ t.os.powered = true ∧ t.os.bestCopy = some c ∧ c.counters = t.life ∧
      (sparseWf 0 (Claims.recordsOf s) = true → Claims.OneMore (Claims.recordsOf s) t 11 2 ∧
        ∀ k i, (k, i) ∈ [(0, 1), (1, 2), (2, 0)] → Claims.More (Claims.recordsOf s) t 7 k (if s.thermal.getLsbD i then s.aclk / 3600 - s.os.guardAt / 3600 else 0)) ∧
      (s.thermal.getLsbD 0 = true → ∃ e ∈ t.events, e.code = 2) ∧ ∃ e, t.events.getLast? = some e ∧ e.code = 5) := by
  refine ⟨fun h => by simp [execJunctionStop, device, h], fun hot powered => ?_⟩
  obtain ⟨teams, ctxs, mem, held, on, -⟩ := s.junctionStop_after
  obtain ⟨c, best, counters⟩ := s.junctionStop_saved
  exact ⟨s.junctionStop, c, by simp [execJunctionStop, device, hot, powered], teams, ctxs, mem, held, on, best, counters,
    State.junctionStop_counts, State.junctionStop_ends, s.junctionStop_last⟩

/-- The lowest bits of sys.thermal_state, and the temperature above them (01 Table 1.5). -/
theorem thermalWord_getLsbD (excursion stage1 stage2 : Bool) (temp : Nat) :
    (thermalWord excursion stage1 stage2 temp).getLsbD 0 = excursion ∧
    (thermalWord excursion stage1 stage2 temp).getLsbD 1 = stage1 ∧
    (thermalWord excursion stage1 stage2 temp).getLsbD 2 = stage2 := by
  have hx := bit_lt excursion
  have h1 := bit_lt stage1
  have h2 := bit_lt stage2
  simp only [thermalWord, BitVec.getLsbD_ofNat, Nat.testBit_eq_decide_div_mod_eq]
  refine ⟨Eq.trans ?_ (decide_bit excursion), Eq.trans ?_ (decide_bit stage1), Eq.trans ?_ (decide_bit stage2)⟩ <;>
    simp <;> omega

theorem thermalWord_temp {temp : Nat} (excursion stage1 stage2 : Bool) (h : temp < 256) :
    bitsOf (thermalWord excursion stage1 stage2 temp).toNat 8 8 = temp := by
  have hx := bit_lt excursion
  have h1 := bit_lt stage1
  have h2 := bit_lt stage2
  simp only [thermalWord, bitsOf, BitVec.toNat_ofNat]
  omega

/-- An excursion is only ever set outside the rated coolant condition (01 R27). -/
theorem State.not_rated_of_guardOk {s : State} {gaps : List Nat} (h : s.guardOk gaps true = true) : s.os.rated = false := by
  rw [State.guardOk] at h
  simp only [Bool.and_eq_true, Bool.true_and] at h
  obtain ⟨⟨-, unrated⟩, -⟩ := h
  simpa using unrated

/-- A core at a stage of the guard has a gap. -/
def State.stageOn (s : State) (gaps : List Nat) (k : Nat) : Bool :=
  (allCores.zip gaps).any (fun p => s.guardStage p.1 == some k && decide (0 < p.2))

/-- What a due evaluation leaves, before it looks at the temperature. -/
def State.guarded (s : State) (gaps : List Nat) (temp : Nat) (excursion : Bool) : State :=
  let s1 := s.throttled.excursionChange (s.thermal.getLsbD 0) excursion
  { s1 with
    thermal := thermalWord excursion (s.stageOn gaps 1) (s.stageOn gaps 2) temp
    os := { s1.os with guardAt := s.aclk, gaps := (allCores.zip gaps).filter (fun p => p.2 != 0) } }

/-- An evaluation that is not due, or whose values the guard cannot set, changes nothing. -/
theorem execThermalGuardEvaluation_off {s : State} {gaps : List Nat} {temp : Nat} {excursion : Bool}
    (h : s.aclk < s.os.guardAt + 3600 ∨ s.guardOk gaps excursion = false) :
    execThermalGuardEvaluation gaps temp excursion s = .next s :=
  congrArg device (if_pos (by simpa using h))

theorem execThermalGuardEvaluation_due {s : State} {gaps : List Nat} {excursion : Bool} (temp : Nat)
    (due : s.os.guardAt + 3600 ≤ s.aclk) (ok : s.guardOk gaps excursion = true) :
    execThermalGuardEvaluation gaps temp excursion s =
      .next (if 110 ≤ temp ∧ s.os.powered then (s.guarded gaps temp excursion).junctionStop else s.guarded gaps temp excursion) :=
  congrArg device (if_neg (by simp [ok, due]))

/-- A due evaluation that finds 110 °C stops the module. -/
theorem execThermalGuardEvaluation_stops {s : State} {gaps : List Nat} {temp : Nat} {excursion : Bool}
    (due : s.os.guardAt + 3600 ≤ s.aclk) (ok : s.guardOk gaps excursion = true) (hot : 110 ≤ temp) (powered : s.os.powered = true) :
    ∃ t, execThermalGuardEvaluation gaps temp excursion s = .next t ∧
      t.teams = [] ∧ t.mem = Memory.reset ∧ t.os.held = true ∧ ∃ e, t.events.getLast? = some e ∧ e.code = 5 := by
  obtain ⟨teams, -, mem, held, -⟩ := (s.guarded gaps temp excursion).junctionStop_after
  refine ⟨_, ?_, teams, mem, held, State.junctionStop_last _⟩
  rw [execThermalGuardEvaluation_due temp due ok, if_pos ⟨hot, powered⟩]

/-- A due evaluation below 110 °C sets sys.thermal_state and counts the time since the last one; the begin of an excursion marks the instances and its begin and end queue an event. -/
theorem execThermalGuardEvaluation_goes_on {s : State} {gaps : List Nat} {temp : Nat} {ex : Bool}
    (due : s.os.guardAt + 3600 ≤ s.aclk) (ok : s.guardOk gaps ex = true) (cool : temp < 110 ∨ s.os.powered = false) :
    ∃ t, execThermalGuardEvaluation gaps temp ex s = .next t ∧ t.os.guardAt = s.aclk ∧
      t.mem = s.mem ∧ t.teams = s.teams ∧ (ex = true → s.os.rated = false) ∧
      (sparseWf 0 s.life = true → ∀ k i, (k, i) ∈ [(0, 1), (1, 2), (2, 0)] → Claims.More s.life t 7 k (if s.thermal.getLsbD i then s.aclk / 3600 - s.os.guardAt / 3600 else 0)) ∧
      t.thermal.getLsbD 0 = ex ∧ (temp < 256 → bitsOf t.thermal.toNat 8 8 = temp) ∧
      (∀ k, k = 1 ∨ k = 2 → t.thermal.getLsbD k = s.stageOn gaps k) ∧
      (s.thermal.getLsbD 0 = ex → t.insts = s.insts ∧ t.events = s.events) ∧
      (s.thermal.getLsbD 0 = false → ex = true → (∀ x ∈ t.insts, x.excursion = true) ∧ ∃ e, t.events.getLast? = some e ∧ e.code = 1) ∧
      (s.thermal.getLsbD 0 = true → ex = false → t.insts = s.insts ∧ ∃ e, t.events.getLast? = some e ∧ e.code = 2) := by
  obtain ⟨bit0, bit1, bit2⟩ := thermalWord_getLsbD ex (s.stageOn gaps 1) (s.stageOn gaps 2) temp
  have insts : (s.guarded gaps temp ex).insts = (s.throttled.excursionChange (s.thermal.getLsbD 0) ex).insts := rfl
  have events : (s.guarded gaps temp ex).events = (s.throttled.excursionChange (s.thermal.getLsbD 0) ex).events := rfl
  refine ⟨s.guarded gaps temp ex, ?_, rfl, ?_, ?_, ?_, ?_, bit0, thermalWord_temp _ _ _, ?_, ?_, ?_, ?_⟩
  · rw [execThermalGuardEvaluation_due temp due ok, if_neg (fun hot => by simp [hot.2, Nat.not_lt.mpr hot.1] at cool)]
  · exact (State.excursionChange_mem _ _ _).trans s.throttled_mem
  · exact (State.excursionChange_teams _ _ _).trans s.throttled_teams
  · rintro rfl
    exact State.not_rated_of_guardOk ok
  · intro wf k i hk
    exact (State.throttled_more wf hk).of_life_eq (State.excursionChange_life _ _ _)
  · rintro k (rfl | rfl)
    · exact bit1
    · exact bit2
  · intro same
    rw [insts, events, same, State.excursionChange_same]
    exact ⟨s.throttled_insts, s.throttled_events⟩
  · rintro before rfl
    rw [insts, events, before]
    exact State.excursionChange_begin _
  · rintro before rfl
    rw [insts, events, before]
    exact State.excursionChange_end _

/-! ### Sensors and samples (01 R24, R31) -/

theorem execCoolantSensorPoll_result (s : State) :
    (s.aclk < s.os.pollAt + 3600000 → execCoolantSensorPoll s = .next s) ∧
    (s.os.pollAt + 3600000 ≤ s.aclk → ∃ c, execCoolantSensorPoll s = .next { s with os := { s.os with coolant := c, pollAt := s.aclk } }) :=
  ⟨fun early => congrArg device (if_pos early), fun due => ⟨_, congrArg device (if_neg (Nat.not_lt.mpr due))⟩⟩

/-- A millisecond changes the counters and the milliseconds, and nothing else. -/
theorem State.addMs_frame (s : State) (e i : Nat) :
    s.addMs e i = { s with life := (s.addMs e i).life, os := { s.os with carry := (s.addMs e i).os.carry } } := by
  unfold State.addMs
  dsimp only
  split <;> rfl

theorem State.addMs_carry_wf {s : State} (e i : Nat) (h : sparseWf 0 s.os.carry = true) :
    sparseWf 0 (s.addMs e i).os.carry = true := by
  unfold State.addMs
  dsimp only
  split <;> exact sparsePut_wf h

/-- A millisecond of one bin leaves the other bins and their seconds. -/
theorem State.addMs_other {s : State} {e i k : Nat} (h : k ≠ e * 65536 + i) :
    sparseGet 0 (s.addMs e i).os.carry k = sparseGet 0 s.os.carry k ∧ sparseGet 0 (s.addMs e i).life k = sparseGet 0 s.life k := by
  unfold State.addMs
  dsimp only
  split
  · exact ⟨sparseGet_put_other h, State.lifeCount_life_other h⟩
  · exact ⟨sparseGet_put_other h, rfl⟩

/-- The 1,000th millisecond makes a second. -/
theorem State.addMs_second {s : State} {e i : Nat} (wf : sparseWf 0 s.os.carry = true)
    (last : sparseGet 0 s.os.carry (e * 65536 + i) = 999) :
    sparseGet 0 (s.addMs e i).os.carry (e * 65536 + i) = 0 ∧ Claims.OneMore s.life (s.addMs e i) e i := by
  unfold State.addMs
  simp only [last]
  exact ⟨sparseGet_put_same wf, State.lifeCount_oneMore _ e i⟩

/-- A millisecond before it is kept. -/
theorem State.addMs_below {s : State} {e i : Nat} (below : sparseGet 0 s.os.carry (e * 65536 + i) < 999) :
    sparseGet 0 (s.addMs e i).os.carry (e * 65536 + i) = sparseGet 0 s.os.carry (e * 65536 + i) + 1 ∧
    (s.addMs e i).life = s.life := by
  unfold State.addMs
  dsimp only
  rw [if_neg (by omega)]
  exact ⟨sparseGet_put_listed (by omega), rfl⟩

theorem tempBin_lt (t : Nat) : tempBin t < 16 := by
  unfold tempBin
  split <;> omega

theorem utilBin_lt (issued : Nat) : utilBin issued < 16 := by
  unfold utilBin
  omega

/-- The sample of the temperature and of the utilisation, which come before the one of power-on time. -/
def State.binned (s : State) : State := (s.addMs 8 (tempBin (bitsOf s.thermal.toNat 8 8))).addMs 9 (utilBin s.os.issued)

theorem State.binned_frame (s : State) : s.binned = { s with life := s.binned.life, os := { s.os with carry := s.binned.os.carry } } := by
  rw [State.binned, State.addMs_frame (s.addMs 8 _), State.addMs_frame s]

/-- The bins of temperature and utilisation are not that of power-on time. -/
theorem State.binned_power (s : State) : sparseGet 0 s.binned.os.carry (10 * 65536) = sparseGet 0 s.os.carry (10 * 65536) ∧
    sparseGet 0 s.binned.life (10 * 65536) = sparseGet 0 s.life (10 * 65536) := by
  have temp := tempBin_lt (bitsOf s.thermal.toNat 8 8)
  have util := utilBin_lt s.os.issued
  obtain ⟨carry1, life1⟩ := State.addMs_other (s := s) (show 10 * 65536 ≠ 8 * 65536 + tempBin (bitsOf s.thermal.toNat 8 8) by omega)
  obtain ⟨carry2, life2⟩ := State.addMs_other (s := s.addMs 8 (tempBin (bitsOf s.thermal.toNat 8 8)))
    (show 10 * 65536 ≠ 9 * 65536 + utilBin s.os.issued by omega)
  exact ⟨carry2.trans carry1, life2.trans life1⟩

/-- What a due sample leaves. -/
def State.sampled (s : State) : State :=
  (s.binned.addMs 10 0).updOs (fun o => { o with sampleAt := o.sampleAt + 3600000, issued := 0 })

theorem State.sampled_frame (s : State) : s.sampled.mem = s.mem ∧ s.sampled.teams = s.teams ∧
    s.sampled.os.sampleAt = s.os.sampleAt + 3600000 := by
  rw [State.sampled, State.addMs_frame, State.binned_frame]
  simp

/-- Power-on time is counted last. -/
theorem State.sampled_counts (s : State) :
    s.sampled.os.carry = (s.binned.addMs 10 0).os.carry ∧ s.sampled.life = (s.binned.addMs 10 0).life := by
  simp [State.sampled]

theorem execLifetimeSample_result (s : State) :
    (s.aclk < s.os.sampleAt + 3600000 ∨ s.os.records = false → execLifetimeSample s = .next s) ∧
    (s.os.sampleAt + 3600000 ≤ s.aclk → s.os.records = true → sparseWf 0 s.os.carry = true →
      let n := sparseGet 0 s.os.carry (10 * 65536)
      ∃ t, execLifetimeSample s = .next t ∧ t.mem = s.mem ∧ t.teams = s.teams ∧ t.os.sampleAt = s.os.sampleAt + 3600000 ∧
        (n = 999 → sparseGet 0 t.os.carry (10 * 65536) = 0 ∧ Claims.OneMore s.life t 10 0) ∧
        (n < 999 → sparseGet 0 t.os.carry (10 * 65536) = n + 1 ∧ sparseGet 0 t.life (10 * 65536) = sparseGet 0 s.life (10 * 65536))) := by
  refine ⟨fun off => congrArg device (if_pos (by simpa using off)), fun due records wf => ?_⟩
  obtain ⟨mem, teams, sampleAt⟩ := s.sampled_frame
  obtain ⟨sampledCarry, sampledLife⟩ := s.sampled_counts
  obtain ⟨carry, life⟩ := s.binned_power
  refine ⟨s.sampled, congrArg device (if_neg (by simp [due, records])), mem, teams, sampleAt, fun last => ?_, fun below => ?_⟩
  · obtain ⟨zero, more⟩ := State.addMs_second (s := s.binned) (e := 10) (i := 0)
      (State.addMs_carry_wf _ _ (State.addMs_carry_wf _ _ wf)) (carry.trans last)
    exact ⟨by rw [sampledCarry]; exact zero, (more.of_same life).of_life_eq sampledLife⟩
  · obtain ⟨next, same⟩ := State.addMs_below (s := s.binned) (e := 10) (i := 0) (carry.symm ▸ below)
    exact ⟨by rw [sampledCarry, ← carry]; exact next, by rw [sampledLife, same, life]⟩

theorem execLifetimeFlashWrite_result (s : State) :
    (s.aclk < s.os.lifeAt + 216000000000 ∨ s.os.records = false → execLifetimeFlashWrite s = .next s) ∧
    (s.os.lifeAt + 216000000000 ≤ s.aclk → s.os.records = true → ∃ t c, execLifetimeFlashWrite s = .next t ∧ t.life = s.life ∧ t.mem = s.mem ∧
      t.os.lifeAt = s.aclk ∧ t.os.bestCopy = some c ∧ c.counters = s.life ∧ c.carry = s.os.carry ∧
      (∀ b, s.os.bestCopy = some b → c.seq = b.seq + 1 ∧ b ∈ t.os.copies)) := by
  refine ⟨fun off => congrArg device (if_pos (by simpa using off)), fun due records => ?_⟩
  obtain ⟨c, saved⟩ := s.writeLife_bestCopy
  exact ⟨s.writeLife, c, congrArg device (if_neg (by simp [due, records])), rfl, rfl, rfl, saved⟩

/-! ### The host port (03 R61, R84; 02 R34, R35) -/

theorem execEventRnrRetry_result (s : State) :
    (s.events = [] ∨ s.os.mgmt = false → execEventRnrRetry s = .next s) ∧
    ∀ e rest, s.events = e :: rest → execEventRnrRetry s = .next s ∨ execEventRnrRetry s = .next { s with
      events := rest, eventsLost := 0, os := { s.os with out := some (.message ({ e with lost := min s.eventsLost 65535 } : EventMsg).bytes) } } := by
  unfold execEventRnrRetry
  refine ⟨fun h => ?_, fun e rest events => ?_⟩
  · rcases h with h | h
    · simp [h, device]
    · cases s.events <;> simp [h, device]
  · simp only [events]
    split
    · exact .inr rfl
    · exact .inl rfl

theorem execHostLinkRetrain_result (s : State) :
    ∃ t, execHostLinkRetrain s = .next t ∧ Claims.OneMore s.life t 5 0 ∧ t = { s with life := t.life } :=
  ⟨_, rfl, s.lifeCount_oneMore 5 0, rfl⟩

theorem execCmConnectRequest_result (s : State) : execCmConnectRequest s =
    .next (if s.os.powered ∧ s.os.host.up then { s with os := { s.os with mgmt := true, out := some .connected } } else s) := by
  simp [execCmConnectRequest, device]

/-- A rise of the rates of the queue pairs keeps what each index finds. -/
theorem execRateIncreasePeriod_result (s : State) :
    (s.aclk < s.os.host.rateAt + 3600 * s.os.host.periodUs → execRateIncreasePeriod s = .next s) ∧
    (s.os.host.rateAt + 3600 * s.os.host.periodUs ≤ s.aclk → ∃ t, execRateIncreasePeriod s = .next t ∧ t.mem = s.mem ∧ t.remote = s.remote ∧
      t.os.host.rateAt = s.aclk ∧
      ∀ i q, s.qp? i = some q → ∃ x, t.qp? i = some x ∧ x = { q with rate := min 800000 (q.rate + s.os.host.stepMbps) }) := by
  refine ⟨fun early => congrArg device (if_pos early), fun due => ⟨_, congrArg device (if_neg (Nat.not_lt.mpr due)), rfl, rfl, rfl, ?_⟩⟩
  intro i q found
  refine ⟨_, ?_, rfl⟩
  simp only [State.qp?, State.updOs, List.find?_map]
  exact congrArg (Option.map _) found

/-! ### The obligations -/

/-- Settles O59: each value is that of `State.reset`, its sixteen ports are those of `Port.reset`, and a memory with no cell listed reads 0 (log entry 3); sys.die_status is 0 by log entry 74. -/
theorem resetState : Obligations.ResetState := by
  have port : ∀ p ∈ State.reset.ports, p.state = .down ∧ p.credits = [32, 32, 32, 32] := by
    intro p hp
    obtain ⟨i, -, rfl⟩ := List.mem_map.mp hp
    exact ⟨rfl, rfl⟩
  have each : ∀ k, k < 16 → ∃ p, p ∈ State.reset.ports ∧ p.idx = k := fun k hk =>
    ⟨Port.reset k, List.mem_map_of_mem (List.mem_range.mpr hk), rfl⟩
  exact ⟨rfl, rfl, rfl, rfl, rfl, rfl, rfl, rfl, rfl, rfl, rfl, port, each, rfl, rfl, rfl, Memory.reset_wf, fun _ => rfl⟩

/-- Settles O45: each step of the board keeps the state where it is not due, and leaves what its clause says where it is. A boot in recovery mode is counted in number 0 of the boots too and trains the ports (log entry 81), gap ratios out of range change nothing (log entry 56), and rates end at the line rate (log entry 52). -/
theorem boardResult : Obligations.BoardResult := fun s dead ports temp host _ _ =>
  ⟨execPowerGood_result s dead ports host,
    fun _ => execModuleReset_due dead ports host,
    execModuleReset_none dead ports host,
    execPowerLoss_result s,
    execJunctionStop_result s temp,
    ⟨execThermalGuardEvaluation_off, execThermalGuardEvaluation_stops, execThermalGuardEvaluation_goes_on⟩,
    execCoolantSensorPoll_result s,
    execLifetimeSample_result s,
    execLifetimeFlashWrite_result s,
    execEventRnrRetry_result s,
    execHostLinkRetrain_result s,
    execCmConnectRequest_result s,
    execRateIncreasePeriod_result s⟩

end Sys2Proof.Machine
end

section
/-! SUPPORT. The Pyryta ports, `Machine/Links.lean`: what one port does with what it sends and receives, what a lost port leaves, and the obligation on links (O49). -/

namespace Sys2Proof.Machine

/-! ### One port of the state -/

/-- From `s` to `t` port `i` becomes `q`; memory, teams and the other ports stand. -/
def OnlyPort (s t : State) (i : Nat) (q : Port) : Prop :=
  t.mem = s.mem ∧ t.teams = s.teams ∧ t.port? i = some q ∧ ∀ j, j ≠ i → t.port? j = s.port? j

theorem State.port?_idx {s : State} {i : Nat} {p : Port} (h : s.port? i = some p) : p.idx = i := by
  simpa using List.find?_some h

@[simp] theorem State.updPort_teams (s : State) (i : Nat) (g : Port → Port) : (s.updPort i g).teams = s.teams := rfl
@[simp] theorem State.updPort_remote (s : State) (i : Nat) (g : Port → Port) : (s.updPort i g).remote = s.remote := rfl
@[simp] theorem State.updPort_life (s : State) (i : Nat) (g : Port → Port) : (s.updPort i g).life = s.life := rfl
@[simp] theorem State.updPort_grid (s : State) (i : Nat) (g : Port → Port) : (s.updPort i g).grid = s.grid := rfl
@[simp] theorem State.updPort_aclk (s : State) (i : Nat) (g : Port → Port) : (s.updPort i g).aclk = s.aclk := rfl
@[simp] theorem State.updPort_linkDiscard (s : State) (i : Nat) (g : Port → Port) : (s.updPort i g).linkDiscard = s.linkDiscard := rfl

/-- A search by a number that an update of the entries numbered otherwise keeps. -/
theorem find?_map_upd_other {α : Type} {p r : α → Bool} {g : α → α} {l : List α} (hg : ∀ x, p (g x) = p x)
    (apart : ∀ x, p x = true → r x = false) : (l.map (fun x => if r x then g x else x)).find? p = l.find? p := by
  induction l with
  | nil => rfl
  | cons x l ih =>
    rw [List.map_cons, List.find?_cons, List.find?_cons, ih]
    by_cases hp : p x = true
    · simp [hp, apart x hp]
    · by_cases hr : r x = true <;> simp [hp, hr, hg]

section Update

variable {s : State} {i : Nat} {p : Port} {g : Port → Port}

theorem State.port?_updPort (hg : ∀ q, (g q).idx = q.idx) : (s.updPort i g).port? i = (s.port? i).map g :=
  find?_map_upd (fun x : Port => x.idx == i) g s.ports (fun x => by simp only [hg])

theorem State.port?_updPort_other (hg : ∀ q, (g q).idx = q.idx) {j : Nat} (hj : j ≠ i) :
    (s.updPort i g).port? j = s.port? j := by
  refine find?_map_upd_other (fun x => by simp only [hg]) (fun x hx => ?_)
  simp only [beq_iff_eq] at hx
  simp [hx, hj]

theorem State.updPort_onlyPort (h : s.port? i = some p) (hg : ∀ q, (g q).idx = q.idx) : OnlyPort s (s.updPort i g) i (g p) :=
  ⟨rfl, rfl, by rw [State.port?_updPort hg, h]; rfl, fun _ hj => State.port?_updPort_other hg hj⟩

/-- A step that updates one port. -/
theorem updPort_ends {q : Port} (h : s.port? i = some p) (hg : ∀ q, (g q).idx = q.idx) (e : g p = q) :
    ∃ t, device (s.updPort i g) = .next t ∧ OnlyPort s t i q :=
  ⟨_, rfl, e ▸ State.updPort_onlyPort h hg⟩

/-- A step that leaves the state as it is. -/
theorem same_ends (h : s.port? i = some p) : ∃ t, device s = .next t ∧ OnlyPort s t i p :=
  ⟨_, rfl, rfl, rfl, h, fun _ _ => rfl⟩

end Update

/-! ### What each operation of a port leaves of it -/

section Frame

variable (p : Port) (n ack aclk : Nat) (nak : Bool) (g : Flit) (f : WireFlit)

@[simp] theorem Port.nak_idx : (p.nak aclk).idx = p.idx := by
  unfold Port.nak
  split <;> rfl

@[simp] theorem Port.nak_nakOut : (p.nak aclk).nakOut = true := by
  unfold Port.nak
  split
  · assumption
  · rfl

@[simp] theorem Port.nak_expected : (p.nak aclk).expected = p.expected := by
  unfold Port.nak
  split <;> rfl

@[simp] theorem Port.nak_queue : (p.nak aclk).queue = p.queue := by
  unfold Port.nak
  split <;> rfl

@[simp] theorem Port.nak_buffer : (p.nak aclk).buffer = p.buffer := by
  unfold Port.nak
  split <;> rfl

@[simp] theorem Port.nak_parts : (p.nak aclk).parts = p.parts := by
  unfold Port.nak
  split <;> rfl

@[simp] theorem Port.startReplay_idx : (p.startReplay n).idx = p.idx := by
  unfold Port.startReplay
  split <;> rfl

@[simp] theorem Port.nakked_idx : (p.nakked n).idx = p.idx := by
  unfold Port.nakked
  split
  · simp
  · dsimp only
    split <;> simp

/-- ack_seq frees a part of the replay buffer and nothing of the receiver's side. -/
theorem Port.acked_eq : ∃ b r k pr st, p.acked ack aclk = { p with buffer := b, resend := r, replays := k, progress := pr, state := st } := by
  unfold Port.acked
  split
  · exact ⟨_, _, _, _, _, rfl⟩
  · dsimp only
    split <;> exact ⟨_, _, _, _, _, rfl⟩

@[simp] theorem Port.acked_idx : (p.acked ack aclk).idx = p.idx := by
  obtain ⟨_, _, _, _, _, e⟩ := p.acked_eq ack aclk
  rw [e]

@[simp] theorem Port.acked_expected : (p.acked ack aclk).expected = p.expected := by
  obtain ⟨_, _, _, _, _, e⟩ := p.acked_eq ack aclk
  rw [e]

@[simp] theorem Port.acked_parts : (p.acked ack aclk).parts = p.parts := by
  obtain ⟨_, _, _, _, _, e⟩ := p.acked_eq ack aclk
  rw [e]

@[simp] theorem Port.acked_queue : (p.acked ack aclk).queue = p.queue := by
  obtain ⟨_, _, _, _, _, e⟩ := p.acked_eq ack aclk
  rw [e]

@[simp] theorem Port.sendOne_idx : (p.sendOne aclk).idx = p.idx := by
  unfold Port.sendOne
  dsimp only
  (repeat' split) <;> rfl

end Frame

/-! ### Acknowledgements and replays (02 R44, Table 2.5) -/

section Replay

variable {p : Port} {g : Flit} {rest : List Flit} {ack aclk n : Nat}

theorem Port.acked_of_empty (h : p.buffer = []) : p.acked ack aclk = p := by
  simp [Port.acked, h]

/-- An ack_seq that acknowledges nothing, or more than was sent, changes nothing. -/
theorem Port.acked_of_none (h : p.buffer = g :: rest) (none : (ack + 4096 - g.seq) % 4096 = 0 ∨ p.buffer.length < (ack + 4096 - g.seq) % 4096) :
    p.acked ack aclk = p := by
  unfold Port.acked
  rw [h] at none ⊢
  exact if_pos none

/-- Outside a replay an ack_seq drops what it acknowledges. -/
theorem Port.acked_of_some (h : p.buffer = g :: rest) (hn : n = (ack + 4096 - g.seq) % 4096) (pos : 0 < n) (le : n ≤ p.buffer.length)
    (hr : p.resend = 0) (hs : p.state = .up) :
    p.acked ack aclk = { p with buffer := p.buffer.drop n, replays := 0, progress := aclk } := by
  unfold Port.acked
  rw [h] at le ⊢
  subst hn
  dsimp only
  rw [if_neg (by omega)]
  simp [hr, hs]

theorem Port.startReplay_of_few (h : p.replays + 1 < 8) :
    p.startReplay n = { p with state := if n = 0 then .up else .replay, resend := n, replays := p.replays + 1 } := if_pos h

theorem Port.startReplay_of_many (h : p.replays + 1 = 8) :
    p.startReplay n = { p with state := .retrain, resend := 0, replays := 0 } := if_neg (by omega)

/-- A NAK with nothing unacknowledged counts a replay all the same (log entry 59). -/
theorem Port.nakked_of_empty (h : p.buffer = []) : p.nakked n = p.startReplay 0 := by
  simp [Port.nakked, h]

theorem Port.nakked_of_buffered {k : Nat} (h : p.buffer = g :: rest) (hk : k = (n + 4096 - g.seq) % 4096) (le : k ≤ p.buffer.length) :
    p.nakked n = p.startReplay (p.buffer.length - k) := by
  unfold Port.nakked
  rw [h] at le ⊢
  subst hk
  exact if_neg (by omega)

end Replay

/-! ### Sending one flit (02 R44, R45) -/

section Send

variable {p : Port} {aclk c : Nat} {g : Flit} {front back : List Flit}

theorem Port.sendOne_of_idle (h : p.live = false ∨ p.reach = none) : p.sendOne aclk = p :=
  if_pos (by simpa using h)

theorem Port.sendOne_resend (live : p.live = true) (reach : p.reach ≠ none) (hr : p.resend ≠ 0)
    (hg : p.buffer[p.buffer.length - p.resend]? = some g) (credit : 0 < p.credits.getD g.tc 0) :
    p.sendOne aclk = { p.emit g aclk with resend := p.resend - 1, state := if p.resend = 1 then .up else .replay } := by
  unfold Port.sendOne
  rw [if_neg (by simpa [live] using reach), if_pos hr, hg]
  exact if_neg (by omega)

theorem Port.sendOne_full (hr : p.resend = 0) (full : 512 ≤ p.buffer.length) : p.sendOne aclk = p := by
  unfold Port.sendOne
  split
  · rfl
  · exact if_neg (not_not.mpr hr)

theorem Port.nextClass_eq_none (h : ∀ g ∈ p.queue, g.tc < 4 → p.credits.getD g.tc 0 = 0) : p.nextClass = none := by
  refine List.find?_eq_none.mpr fun c hc => ?_
  simp only [Bool.and_eq_true, List.any_eq_true, beq_iff_eq, decide_eq_true_eq, not_and]
  rintro ⟨g, hg, rfl⟩
  have := h g hg (List.mem_range.mp hc)
  omega

/-- The class that is sent is the first one with a flit and a credit. -/
theorem Port.nextClass_eq_some (hc : c < 4) (queued : ∃ g ∈ p.queue, g.tc = c) (credit : 0 < p.credits.getD c 0)
    (first : ∀ g ∈ p.queue, g.tc < c → p.credits.getD g.tc 0 = 0) : p.nextClass = some c := by
  refine List.find?_range_eq_some.mpr ⟨?_, List.mem_range.mpr hc, fun j hj => ?_⟩
  · simpa using ⟨queued, credit⟩
  · simp only [Bool.not_eq_true', Bool.and_eq_false_iff, List.any_eq_false, beq_iff_eq, decide_eq_false_iff_not]
    by_cases any : ∃ g ∈ p.queue, g.tc = j
    · obtain ⟨g, hg, rfl⟩ := any
      exact .inr (by have := first g hg hj; omega)
    · exact .inl fun g hg e => any ⟨g, hg, e⟩

theorem Port.sendOne_of_no_credit (hr : p.resend = 0) (h : ∀ g ∈ p.queue, g.tc < 4 → p.credits.getD g.tc 0 = 0) :
    p.sendOne aclk = p := by
  unfold Port.sendOne
  split
  · rfl
  · rw [if_neg (not_not.mpr hr), Port.nextClass_eq_none h]
    exact ite_self _

/-- A list's first element with a property is found, and erased by itself. -/
theorem find?_append_cons {α : Type} {q : α → Bool} {front back : List α} {a : α} (ha : q a = true) (hf : ∀ x ∈ front, q x = false) :
    (front ++ a :: back).find? q = some a := by
  rw [List.find?_append, List.find?_eq_none.mpr fun x hx => by simp [hf x hx], List.find?_cons_of_pos ha]
  rfl

theorem erase_append_cons {α : Type} [DecidableEq α] {front back : List α} {a : α} (ha : a ∉ front) :
    (front ++ a :: back).erase a = front ++ back := by
  rw [List.erase_append_right _ ha, List.erase_cons_head]

theorem Port.sendOne_first (live : p.live = true) (reach : p.reach ≠ none) (hr : p.resend = 0) (room : p.buffer.length < 512) (hc : c < 4)
    (hq : p.queue = front ++ g :: back) (hg : g.tc = c) (hf : ∀ x ∈ front, x.tc ≠ c) (credit : 0 < p.credits.getD c 0)
    (first : ∀ x ∈ p.queue, x.tc < c → p.credits.getD x.tc 0 = 0) :
    p.sendOne aclk = { p with
      out := ({ g with seq := p.seq, ack := p.expected } : Flit).bytes, credits := p.credits.set c (p.credits.getD c 0 - 1), unacked := 0, ackAt := aclk
      queue := front ++ back, buffer := p.buffer ++ [{ g with seq := p.seq, ack := p.expected }], seq := (p.seq + 1) % 4096
      progress := if p.buffer = [] then aclk else p.progress } := by
  have next : p.nextClass = some c := Port.nextClass_eq_some hc ⟨g, by simp [hq], hg⟩ credit first
  have found : p.queue.find? (fun x => x.tc == c) = some g := by
    rw [hq]
    exact find?_append_cons (by simpa using hg) fun x hx => by simpa using hf x hx
  have erased : p.queue.erase g = front ++ back := by
    rw [hq]
    exact erase_append_cons fun h => hf g h hg
  unfold Port.sendOne
  rw [if_neg (by simpa [live] using reach), if_neg (not_not.mpr hr), if_neg (by omega), next]
  dsimp only
  rw [found]
  simp only [erased, Port.emit, hg, List.isEmpty_iff]

end Send

/-! ### FLIT_SEND: what is due, and the ports it gets (02 R45, R48) -/

theorem State.sendDue_of_none {s : State} (ho : s.opened = []) (hc : s.contribs = []) : s.sendDue = s := by
  simp [State.sendDue, ho, hc]

theorem State.route_of_none {s : State} (h : ∀ o ∈ s.remote, o.host = true ∨ o.tries ≠ 0 ∨ o.answer.isSome = true ∨ o.failed = true) :
    s.route = s := by
  have none : s.remote.filter (fun o => !o.host && o.tries == 0 && o.answer.isNone && !o.failed) = [] := by
    refine List.filter_eq_nil_iff.mpr fun o ho => ?_
    rcases h o ho with h | h | h | h
    · simp [h]
    · simp [h]
    · simp [Option.isSome_iff_ne_none.mp h]
    · simp [h]
  unfold State.route
  rw [none]
  rfl

/-- With nothing due FLIT_SEND is the port's alone. -/
theorem execFlitSend_of_nothingDue {s : State} {i : Nat} (due : Claims.NothingDue s) :
    execFlitSend i s = device (s.updPort i (fun p => p.sendOne s.aclk)) := by
  obtain ⟨opened, contribs, remote⟩ := due
  unfold execFlitSend
  rw [State.sendDue_of_none opened contribs, State.route_of_none remote]

theorem flitSend_ends {s : State} {i : Nat} {p q : Port} (h : s.port? i = some p) (due : Claims.NothingDue s) (e : p.sendOne s.aclk = q) :
    ∃ t, execFlitSend i s = .next t ∧ OnlyPort s t i q := by
  rw [execFlitSend_of_nothingDue due]
  exact updPort_ends h (fun q => q.sendOne_idx s.aclk) e

/-- The one peer transaction of a state with nothing else due. -/
structure OneUnsent (s : State) (o : RemoteOp) : Prop where
  opened : s.opened = []
  contribs : s.contribs = []
  remote : s.remote = [o]
  unsent : o.host = false ∧ o.tries = 0 ∧ o.answer = none ∧ o.failed = false

section Unsent

variable {s : State} {o : RemoteOp} {i : Nat} {p : Port}

theorem OneUnsent.due (h : OneUnsent s o) : s.remote.filter (fun o => !o.host && o.tries == 0 && o.answer.isNone && !o.failed) = [o] := by
  obtain ⟨host, tries, answer, failed⟩ := h.unsent
  simp [h.remote, host, tries, answer, failed]

/-- A transaction that no port can reach completes with "link down" (02 R48). -/
theorem OneUnsent.route_of_no_port (h : OneUnsent s o) (none : s.portFor o.peerTarget.1 (s.classOf o.who) o.ctx = none) :
    s.route = s.remoteDone o (.error 255) := by
  unfold State.route
  rw [h.due]
  simp [State.enqueue, none]

theorem State.remoteDone_load_error {r : FibreRef} {n part st : Nat} (who : o.who = .load r n part) (remote : s.remote = [o]) :
    s.remoteDone o (.error st) = { s with remote := [{ o with failed := true, status := st }] } := by
  simp [State.remoteDone, who, remote]

/-- The flits of a peer transaction as it is sent (02 R42). -/
def State.flitsFor (s : State) (o : RemoteOp) : List Flit :=
  flitsOf (peerBytes o o.peerTarget.2.1 o.peerTarget.2.2).1 (s.classOf o.who) o.peerTarget.1 s.here o.ctx
    (peerBytes o o.peerTarget.2.1 o.peerTarget.2.2).2 (some o.id)

/-- A transaction whose port is chosen waits in that port's queue. -/
theorem OneUnsent.route_of_port (h : OneUnsent s o) (port : s.portFor o.peerTarget.1 (s.classOf o.who) o.ctx = some i) :
    s.route = { s.updPort i (fun p => { p with queue := p.queue ++ s.flitsFor o }) with
      remote := [{ o with port := some i, tries := 1, since := s.aclk }] } := by
  unfold State.route
  rw [h.due]
  simp [State.enqueue, port, h.remote, State.flitsFor]

theorem OneUnsent.flitSend (h : OneUnsent s o) : execFlitSend i s = device (s.route.updPort i (fun p => p.sendOne s.aclk)) := by
  unfold execFlitSend
  rw [State.sendDue_of_none h.opened h.contribs]

theorem OneUnsent.flitSend_no_port (h : OneUnsent s o) (load : ∃ r n part, o.who = .load r n part)
    (none : s.portFor o.peerTarget.1 (s.classOf o.who) o.ctx = none) :
    ∃ t y, execFlitSend i s = .next t ∧ t.mem = s.mem ∧ t.remote = [y] ∧ y = { o with failed := true, status := 255 } := by
  obtain ⟨r, n, part, who⟩ := load
  rw [h.flitSend, h.route_of_no_port none, State.remoteDone_load_error who h.remote]
  exact ⟨_, _, rfl, rfl, rfl, rfl⟩

theorem OneUnsent.flitSend_port (h : OneUnsent s o) (port : s.portFor o.peerTarget.1 (s.classOf o.who) o.ctx = some i)
    (hp : s.port? i = some p) (idle : p.live = false) :
    ∃ t y q, execFlitSend i s = .next t ∧ t.remote = [y] ∧ y.port = some i ∧ y.tries = 1 ∧ y.failed = false ∧ t.port? i = some q ∧
      q.queue = p.queue ++ s.flitsFor o := by
  obtain ⟨-, -, -, failed⟩ := h.unsent
  rw [h.flitSend, h.route_of_port port]
  refine ⟨_, _, { p with queue := p.queue ++ s.flitsFor o }, rfl, rfl, rfl, rfl, failed, ?_, rfl⟩
  refine (State.port?_updPort (fun q => q.sendOne_idx _)).trans ?_
  refine (congrArg (Option.map _) (State.port?_updPort (s := s) (by intro; rfl))).trans ?_
  rw [hp]
  exact congrArg some (Port.sendOne_of_idle (.inl idle))

end Unsent

/-! ### Flits that arrive, and the timers of a port (02 R44, R55) -/

@[simp] theorem bytesOfNat_length (n v : Nat) : (bytesOfNat n v).length = n := by
  induction n generalizing v with
  | zero => rfl
  | succ n ih => rw [bytesOfNat, List.length_cons, ih]

/-- The lowest bytes of a number. -/
theorem bytesOfNat_take {k n : Nat} (h : k ≤ n) (v : Nat) : (bytesOfNat n v).take k = bytesOfNat k v := by
  induction k generalizing n v with
  | zero => rfl
  | succ k ih =>
    obtain ⟨m, rfl⟩ := Nat.exists_eq_add_of_le' h
    rw [← Nat.add_assoc, bytesOfNat, List.take_succ_cons, ih (by omega), bytesOfNat]

theorem dvd_foldl_add {m a : Nat} {l : List Nat} (ha : m ∣ a) (h : ∀ x ∈ l, m ∣ x) : m ∣ l.foldl (· + ·) a := by
  induction l generalizing a with
  | nil => exact ha
  | cons x l ih => exact ih (Nat.dvd_add ha (h x List.mem_cons_self)) fun y hy => h y (List.mem_cons_of_mem x hy)

/-- The bytes 0 and 1 of a NAK: the number asked for, and the NAK's mark (02 Table 2.10). -/
theorem controlPayload_nak {p : Port} (h : p.expected < 4096) : natOfBytes ((controlPayload p true).take 2) = p.expected + 4096 := by
  have credits : 2 ^ (8 * 2) ∣ ((List.range 4).map (fun c => p.freed.getD c 0 % 256 * 2 ^ (16 + 8 * c))).foldl (· + ·) 0 := by
    refine dvd_foldl_add (Nat.dvd_zero _) fun x hx => ?_
    obtain ⟨c, -, rfl⟩ := List.mem_map.mp hx
    exact Nat.dvd_mul_left_of_dvd (Nat.pow_dvd_pow 2 (by omega)) _
  obtain ⟨k, hk⟩ := credits
  unfold controlPayload
  rw [bytesOfNat_take (Nat.le_add_right 2 222), natOfBytes_bytesOfNat, if_pos rfl, hk, Nat.add_mul_mod_self_left, show 2 ^ 12 = 4096 from rfl,
    Nat.mod_eq_of_lt (by omega)]

/-- A NAK goes out once (02 Table 2.5). -/
theorem Port.nak_out (p : Port) (aclk : Nat) : (p.nakOut = true → (p.nak aclk).out = p.out) ∧ (p.nakOut = false → ∃ g : Flit, (p.nak aclk).out = g.bytes ∧
    g.kind = 1 ∧ g.ack = p.expected ∧ (p.expected < 4096 → natOfBytes (g.payload.take 2) = p.expected + 4096)) := by
  refine ⟨fun h => by simp [Port.nak, h], fun h => ?_⟩
  unfold Port.nak
  rw [if_neg (by simp [h])]
  exact ⟨_, rfl, rfl, rfl, controlPayload_nak⟩

section Arrive

variable {s : State} {i : Nat} {p : Port} {f : WireFlit}

/-- The port with a bad flit counted; the class of the buffer it freed is the device's choice (02 R55). -/
def Port.countBad (p : Port) (class_ : Nat) : Port :=
  { p with freed := if class_ < 4 then addAt p.freed class_ 1 else p.freed, unacked := p.unacked + 1 }

theorem execBadFlitReceived_ends {q : Port} (h : s.port? i = some p)
    (e : (if p.live then (p.countBad (Config.free s.tick 0 % 5)).nak s.aclk else p) = q) :
    ∃ t, execBadFlitReceived i s = .next t ∧ OnlyPort s t i q :=
  updPort_ends h (fun q => by split <;> simp) e

theorem execBadFlitReceived_live (h : s.port? i = some p) (live : p.live = true) :
    ∃ t q, execBadFlitReceived i s = .next t ∧ t.port? i = some q ∧ q.nakOut = true ∧ q.expected = p.expected ∧ q.queue = p.queue ∧ q.buffer = p.buffer ∧ t.mem = s.mem ∧
      (p.nakOut = true → q.out = p.out) ∧ (p.nakOut = false → ∃ g : Flit, q.out = g.bytes ∧ g.kind = 1 ∧ g.ack = p.expected ∧ (p.expected < 4096 → natOfBytes (g.payload.take 2) = p.expected + 4096)) := by
  obtain ⟨t, done, mem, -, port, -⟩ := execBadFlitReceived_ends h (if_pos live)
  have out := (p.countBad (Config.free s.tick 0 % 5)).nak_out s.aclk
  exact ⟨t, _, done, port, by simp, by simp [Port.countBad], by simp [Port.countBad], by simp [Port.countBad], mem, out⟩

theorem execIdleFlitReceived_ends {q : Port} (h : s.port? i = some p) (e : (if p.live ∧ flitKind f = 0 then p.acked (flitAck f) s.aclk else p) = q) :
    ∃ t, execIdleFlitReceived i f s = .next t ∧ OnlyPort s t i q :=
  updPort_ends h (fun q => by split <;> simp) e

/-- The port as a link-control flit's credits leave it. -/
def Port.withCredits (p : Port) (b : Nat) : Port :=
  { p with
    credits := (List.range 4).map (fun c => p.credits.getD c 0 + creditDiff p b c)
    credited := (List.range 4).map (fun c => bitsOf b (16 + 8 * c) 8) }

theorem execLinkControlFlit_idle (h : s.port? i = some p) (idle : p.live = false) : execLinkControlFlit i f s = device s := by
  unfold execLinkControlFlit
  rw [h]
  exact congrArg device (if_pos (by simp [idle]))

/-- A link-control flit with a reserved bit, or that returns more than 32 credits of a class, is discarded and counted (02 R55). -/
theorem execLinkControlFlit_bad (h : s.port? i = some p) (live : p.live = true) (kind : flitKind f = 1)
    (bad : bitsOf (flitNum f) 13 3 ≠ 0 ∨ flitNum f / 2 ^ 48 ≠ 0 ∨ ∃ c, c < 4 ∧ 32 < creditDiff p (flitNum f) c) :
    execLinkControlFlit i f s = device s.discardFlit := by
  unfold execLinkControlFlit
  rw [h]
  dsimp only
  rw [if_neg (by simp [live, kind]), if_pos (by simpa using bad)]

theorem execLinkControlFlit_good {q : Port} (h : s.port? i = some p) (live : p.live = true) (kind : flitKind f = 1)
    (reserved : bitsOf (flitNum f) 13 3 = 0) (top : flitNum f / 2 ^ 48 = 0) (few : ∀ c, c < 4 → creditDiff p (flitNum f) c ≤ 32)
    (e : (if bitsOf (flitNum f) 12 1 = 1 then ((p.withCredits (flitNum f)).acked (flitAck f) s.aclk).nakked (bitsOf (flitNum f) 0 12)
      else (p.withCredits (flitNum f)).acked (flitAck f) s.aclk) = q) :
    ∃ t, execLinkControlFlit i f s = .next t ∧ OnlyPort s t i q := by
  unfold execLinkControlFlit
  rw [h]
  dsimp only
  have fine : ¬ (bitsOf (flitNum f) 13 3 ≠ 0 ∨ flitNum f / 2 ^ 48 ≠ 0 ∨ (List.range 4).any (fun c => decide (32 < creditDiff p (flitNum f) c)) = true) := by
    rintro (bad | bad | bad)
    · exact bad reserved
    · exact bad top
    · obtain ⟨c, hc, many⟩ := List.any_eq_true.mp bad
      exact absurd (of_decide_eq_true many) (Nat.not_lt.mpr (few c (List.mem_range.mp hc)))
  rw [if_neg (by simp [live, kind]), if_neg fine]
  exact updPort_ends h (fun q => by split <;> simp) e

theorem execAckReturnTimer_ends {q : Port} (h : s.port? i = some p)
    (e : (if p.live ∧ (64 ≤ p.unacked ∨ p.ackAt + 360 ≤ s.aclk) then p.sendControl false s.aclk else p) = q) :
    ∃ t, execAckReturnTimer i s = .next t ∧ OnlyPort s t i q :=
  updPort_ends h (fun q => by split <;> rfl) e

theorem execReplayTimeout_ends {q : Port} (h : s.port? i = some p)
    (e : (if p.live ∧ p.buffer ≠ [] ∧ p.progress + 7200 ≤ s.aclk then { p.startReplay p.buffer.length with progress := s.aclk } else p) = q) :
    ∃ t, execReplayTimeout i s = .next t ∧ OnlyPort s t i q :=
  updPort_ends h (fun q => by split <;> simp) e

end Arrive

/-! ### A port that is lost (02 R44, R48) -/

section Lost

variable {s : State} {i : Nat} {p : Port}

/-- A port that is down is chosen for no destination. -/
theorem State.portFor_down {dst tc ctx j : Nat} (down : ∀ q ∈ s.ports, q.idx = i → q.state = .down) (h : s.portFor dst tc ctx = some j) : j ≠ i := by
  unfold State.portFor at h
  split at h
  · cases h
  · obtain ⟨q, hq, rfl⟩ := Option.map_eq_some_iff.mp h
    obtain ⟨hq, up⟩ := List.mem_filter.mp (List.mem_of_getElem? hq)
    intro e
    simp [down q hq e] at up

theorem State.updPort_ports_idx {g : Port → Port} (hg : ∀ q, (g q).idx = q.idx) {P : Port → Prop} {j : Nat}
    (h : ∀ q ∈ s.ports, q.idx = i → P q) (keep : ∀ q, P q → P (g q)) : ∀ q ∈ (s.updPort j g).ports, q.idx = i → P q := by
  intro q hq e
  obtain ⟨x, hx, rfl⟩ := List.mem_map.mp hq
  by_cases hj : (x.idx == j) = true
  · rw [if_pos hj] at e ⊢
    exact keep x (h x hx ((hg x).symm.trans e))
  · rw [if_neg hj] at e ⊢
    exact h x hx e

/-- Flits move to other ports than one that is down. -/
theorem State.moveFlits_down (fs : List Flit) (down : ∀ q ∈ s.ports, q.idx = i → q.state = .down) :
    (s.moveFlits fs).port? i = s.port? i ∧ ∀ q ∈ (s.moveFlits fs).ports, q.idx = i → q.state = .down := by
  unfold State.moveFlits
  split
  · exact ⟨rfl, down⟩
  · split
    next j hj =>
      exact ⟨State.port?_updPort_other (by intro; rfl) (State.portFor_down down hj).symm, State.updPort_ports_idx (by intro; rfl) down (by intro _ h; exact h)⟩
    · exact ⟨rfl, down⟩

theorem State.foldl_moveFlits_down (l : List (List Flit)) (down : ∀ q ∈ s.ports, q.idx = i → q.state = .down) :
    (l.foldl State.moveFlits s).port? i = s.port? i := by
  induction l generalizing s with
  | nil => rfl
  | cons fs l ih =>
    obtain ⟨same, still⟩ := State.moveFlits_down fs down
    exact (ih still).trans same

@[simp] theorem State.moveFlits_life (s : State) (fs : List Flit) : (s.moveFlits fs).life = s.life := by
  unfold State.moveFlits
  (repeat' split) <;> rfl

theorem State.foldl_moveFlits_life (l : List (List Flit)) : (l.foldl State.moveFlits s).life = s.life :=
  List.foldlRecOn (motive := fun u : State => u.life = s.life) l _ rfl fun u hu fs _ => (u.moveFlits_life fs).trans hu

/-- The flits of a lost port that move: those of no transaction of this device. -/
def Port.moving (p : Port) : List (List Flit) := (byTxn p.queue).filter (fun fs => fs.any (fun g => g.first && g.txn.isNone))

/-- With no transaction of its own open, a device that loses a port moves flits and does nothing else. -/
theorem State.losePort_of_no_remote (h : s.remote = []) :
    s.losePort p = p.moving.foldl State.moveFlits (s.updPort p.idx (fun q => { q with queue := [] })) := by
  obtain ⟨⟩ := s
  subst h
  rfl

/-- The port as the third failed retrain leaves it. -/
def Port.downed (p : Port) : Port := { p with state := .down, fails := 0, replays := 0 }

theorem execLinkRetrainDone_of_other (ok : Bool) (h : s.port? i = some p) (other : p.state ≠ .retrain) : execLinkRetrainDone i ok s = device s := by
  unfold execLinkRetrainDone
  rw [h]
  exact congrArg device (if_pos other)

/-- The end of a retrain is counted, then acted on. -/
theorem execLinkRetrainDone_eq (ok : Bool) (h : s.port? i = some p) (retrain : p.state = .retrain) :
    execLinkRetrainDone i ok s = device (
      let s := s.lifeCount 5 (1 + i) 1
      if ok then s.updPort i (fun p => { p with
        state := if p.buffer.isEmpty then .up else .replay
        resend := p.buffer.length
        replays := 0
        fails := 0
        credits := [32, 32, 32, 32]
        credited := [0, 0, 0, 0]
        freed := [0, 0, 0, 0]
        progress := s.aclk
        ackAt := s.aclk })
      else if p.fails + 1 < 3 then s.updPort i (fun p => { p with fails := p.fails + 1 })
      else ((s.updPort i Port.downed).losePort p).pushEvent 4 0 0) := by
  unfold execLinkRetrainDone
  rw [h]
  exact congrArg device (if_neg (not_not.mpr retrain))

theorem execLinkRetrainDone_ok (h : s.port? i = some p) (retrain : p.state = .retrain) :
    ∃ t, execLinkRetrainDone i true s = .next t ∧ OnlyPort s t i { p with
      state := (if p.buffer.isEmpty then .up else .replay), resend := p.buffer.length, replays := 0, fails := 0, credits := [32, 32, 32, 32]
      credited := [0, 0, 0, 0], freed := [0, 0, 0, 0], progress := s.aclk, ackAt := s.aclk } := by
  rw [execLinkRetrainDone_eq true h retrain]
  exact updPort_ends (s := s.lifeCount 5 (1 + i) 1) h (by intro; rfl) rfl

theorem execLinkRetrainDone_failed (h : s.port? i = some p) (retrain : p.state = .retrain) (few : p.fails + 1 < 3) :
    ∃ t, execLinkRetrainDone i false s = .next t ∧ OnlyPort s t i { p with fails := p.fails + 1 } := by
  rw [execLinkRetrainDone_eq false h retrain]
  dsimp only
  rw [if_neg Bool.false_ne_true, if_pos few]
  exact updPort_ends (s := s.lifeCount 5 (1 + i) 1) h (by intro; rfl) rfl

@[simp] theorem State.pushEvent_ports (s : State) (code ctx : Nat) (word : Dword) : (s.pushEvent code ctx word).ports = s.ports := by
  simp [State.pushEvent, apply_ite State.ports]

/-- The state after the third failure: the port down and empty, its flits at other ports. -/
def State.lostPort (s : State) (i : Nat) (p : Port) : State :=
  p.moving.foldl State.moveFlits (((s.lifeCount 5 (1 + i) 1).updPort i Port.downed).updPort i (fun q => { q with queue := [] }))

theorem execLinkRetrainDone_lost (h : s.port? i = some p) (retrain : p.state = .retrain) (third : 2 ≤ p.fails) (remote : s.remote = []) :
    execLinkRetrainDone i false s = device ((s.lostPort i p).pushEvent 4 0 0) := by
  rw [execLinkRetrainDone_eq false h retrain]
  dsimp only
  rw [if_neg Bool.false_ne_true, if_neg (by omega), State.losePort_of_no_remote (s := (s.lifeCount 5 (1 + i) 1).updPort i Port.downed) remote, State.port?_idx h]
  rfl

/-- The lost port is down with an empty queue; its replay buffer and its numbers stand (02 R44; log entry 59). -/
theorem State.lostPort_port (h : s.port? i = some p) : (s.lostPort i p).port? i = some { p.downed with queue := [] } := by
  have down : ∀ q ∈ (((s.lifeCount 5 (1 + i) 1).updPort i Port.downed).updPort i (fun q => { q with queue := [] })).ports, q.idx = i → q.state = .down := by
    refine State.updPort_ports_idx (by intro; rfl) (fun q hq e => ?_) (by intro _ h; exact h)
    obtain ⟨x, -, rfl⟩ := List.mem_map.mp hq
    by_cases hx : (x.idx == i) = true
    · rw [if_pos hx]
      rfl
    · rw [if_neg hx] at e
      simp [e] at hx
  refine (State.foldl_moveFlits_down _ down).trans ?_
  refine (State.port?_updPort (by intro; rfl)).trans ?_
  refine (congrArg (Option.map _) (State.port?_updPort (s := s.lifeCount 5 (1 + i) 1) (g := Port.downed) (by intro; rfl))).trans ?_
  exact congrArg (fun o => Option.map _ (Option.map _ o)) h

theorem State.lostPort_life (s : State) (i : Nat) (p : Port) : (s.lostPort i p).life = (s.lifeCount 5 (1 + i) 1).life :=
  State.foldl_moveFlits_life _

/-- The third failure with nothing queued changes the port alone. -/
theorem execLinkRetrainDone_lost_ends (h : s.port? i = some p) (retrain : p.state = .retrain) (third : 2 ≤ p.fails) (remote : s.remote = []) (empty : p.queue = []) :
    ∃ t, execLinkRetrainDone i false s = .next t ∧ OnlyPort s t i p.downed := by
  have nothing : p.moving = [] := by simp [Port.moving, empty, byTxn]
  have port := State.lostPort_port h
  have same : { p.downed with queue := [] } = p.downed := by simp [Port.downed, empty]
  rw [execLinkRetrainDone_lost h retrain third remote]
  refine ⟨_, rfl, by simp [State.lostPort, nothing], by simp [State.lostPort, nothing], ?_, fun j hj => ?_⟩
  · unfold State.port? at port ⊢
    rw [State.pushEvent_ports, port, same]
  · unfold State.port?
    rw [State.pushEvent_ports, State.lostPort, nothing]
    refine (State.port?_updPort_other (by intro; rfl) hj).trans ?_
    exact State.port?_updPort_other (s := s.lifeCount 5 (1 + i) 1) (by intro; rfl) hj

theorem execLinkRetrainDone_lost_event (h : s.port? i = some p) (retrain : p.state = .retrain) (third : 2 ≤ p.fails) (remote : s.remote = []) :
    ∃ t e q, execLinkRetrainDone i false s = .next t ∧ t.events.getLast? = some e ∧ e.code = 4 ∧ t.port? i = some q ∧ q.state = .down ∧
      q.queue = [] ∧ q.buffer = p.buffer ∧ q.seq = p.seq := by
  rw [execLinkRetrainDone_lost h retrain third remote]
  obtain ⟨e, last, code⟩ := (s.lostPort i p).pushEvent_last 4 0 0
  refine ⟨_, e, { p.downed with queue := [] }, rfl, last, code, ?_, rfl, rfl, rfl, rfl⟩
  unfold State.port?
  rw [State.pushEvent_ports]
  exact State.lostPort_port h

theorem execLinkRetrainDone_counted (ok : Bool) (h : s.port? i = some p) (retrain : p.state = .retrain) :
    ∃ t, execLinkRetrainDone i ok s = .next t ∧ (s.remote = [] → Claims.OneMore s.life t 5 (1 + i)) := by
  have counted := s.lifeCount_oneMore 5 (1 + i)
  cases ok with
  | true =>
    obtain ⟨t, done, -⟩ := execLinkRetrainDone_ok h retrain
    refine ⟨t, done, fun _ => ?_⟩
    rw [execLinkRetrainDone_eq true h retrain] at done
    obtain rfl := Host.Outcome.next.inj done
    exact counted
  | false =>
    by_cases few : p.fails + 1 < 3
    · rw [execLinkRetrainDone_eq false h retrain]
      dsimp only
      rw [if_neg Bool.false_ne_true, if_pos few]
      exact ⟨_, rfl, fun _ => counted⟩
    · by_cases remote : s.remote = []
      · rw [execLinkRetrainDone_lost h retrain (by omega) remote]
        exact ⟨_, rfl, fun _ => counted.of_life_eq (by rw [State.pushEvent_life, State.lostPort_life])⟩
      · rw [execLinkRetrainDone_eq false h retrain]
        exact ⟨_, rfl, fun none => absurd none remote⟩

end Lost

/-! ### The clauses of O49 and the obligation -/

section Clauses

variable {s : State} {i : Nat} {p : Port} {f : WireFlit}

/-- On a port whose lanes carry no flits nothing arrives and no timer acts. -/
theorem port_idle_ends (h : s.port? i = some p) (idle : p.live = false) :
    (∃ t, execBadFlitReceived i s = .next t ∧ OnlyPort s t i p) ∧ (∃ t, execIdleFlitReceived i f s = .next t ∧ OnlyPort s t i p) ∧
    (∃ t, execLinkControlFlit i f s = .next t ∧ OnlyPort s t i p) ∧ (∃ t, execAckReturnTimer i s = .next t ∧ OnlyPort s t i p) ∧
    (∃ t, execReplayTimeout i s = .next t ∧ OnlyPort s t i p) := by
  refine ⟨execBadFlitReceived_ends h (by simp [idle]), execIdleFlitReceived_ends h (by simp [idle]), ?_, execAckReturnTimer_ends h (by simp [idle]),
    execReplayTimeout_ends h (by simp [idle])⟩
  rw [execLinkControlFlit_idle h idle]
  exact same_ends h

theorem idleFlit_ends {g : Flit} {rest : List Flit} {n : Nat} (h : s.port? i = some p) (live : p.live = true) (hb : p.buffer = g :: rest)
    (hn : n = (flitAck f + 4096 - g.seq) % 4096) (kind : flitKind f = 0) :
    (n = 0 ∨ p.buffer.length < n → ∃ t, execIdleFlitReceived i f s = .next t ∧ OnlyPort s t i p) ∧
    (0 < n → n ≤ p.buffer.length → p.resend = 0 → p.state = .up →
      ∃ t, execIdleFlitReceived i f s = .next t ∧ OnlyPort s t i { p with buffer := p.buffer.drop n, replays := 0, progress := s.aclk }) :=
  ⟨fun none => execIdleFlitReceived_ends h ((if_pos ⟨live, kind⟩).trans (Port.acked_of_none hb (hn ▸ none))),
    fun pos le hr hs => execIdleFlitReceived_ends h ((if_pos ⟨live, kind⟩).trans (Port.acked_of_some hb hn pos le hr hs))⟩

theorem linkControl_ends (h : s.port? i = some p) (live : p.live = true) (kind : flitKind f = 1) (reserved : bitsOf (flitNum f) 13 3 = 0)
    (top : flitNum f / 2 ^ 48 = 0) (few : ∀ c, c < 4 → creditDiff p (flitNum f) c ≤ 32) :
    (bitsOf (flitNum f) 12 1 = 0 → p.buffer = [] → ∃ t, execLinkControlFlit i f s = .next t ∧ OnlyPort s t i (p.withCredits (flitNum f))) ∧
    (bitsOf (flitNum f) 12 1 = 1 → p.buffer = [] → p.replays + 1 < 8 → ∃ t, execLinkControlFlit i f s = .next t ∧
      OnlyPort s t i { p.withCredits (flitNum f) with state := .up, resend := 0, replays := p.replays + 1 }) ∧
    (∀ g rest k, bitsOf (flitNum f) 12 1 = 1 → p.buffer = g :: rest → flitAck f = g.seq → g.seq < 4096 → k = (bitsOf (flitNum f) 0 12 + 4096 - g.seq) % 4096 →
      k ≤ p.buffer.length → p.replays + 1 < 8 → ∃ t, execLinkControlFlit i f s = .next t ∧ OnlyPort s t i { p.withCredits (flitNum f) with
        resend := p.buffer.length - k, state := if p.buffer.length - k = 0 then .up else .replay, replays := p.replays + 1 }) := by
  refine ⟨fun plain empty => ?_, fun nak empty few8 => ?_, fun g rest k nak hb ack _ hk le few8 => ?_⟩ <;>
    refine execLinkControlFlit_good h live kind reserved top few ?_
  · exact (if_neg (by omega)).trans (Port.acked_of_empty empty)
  · rw [if_pos nak, Port.acked_of_empty (p := p.withCredits _) empty, Port.nakked_of_empty (p := p.withCredits _) empty]
    exact Port.startReplay_of_few (p := p.withCredits _) few8
  · rw [if_pos nak, Port.acked_of_none (p := p.withCredits _) hb (.inl (by omega)), Port.nakked_of_buffered (p := p.withCredits _) hb hk le]
    exact Port.startReplay_of_few (p := p.withCredits _) few8

theorem ackReturn_ends (h : s.port? i = some p) (live : p.live = true) :
    (p.unacked < 64 → s.aclk < p.ackAt + 360 → ∃ t, execAckReturnTimer i s = .next t ∧ OnlyPort s t i p) ∧
    (64 ≤ p.unacked ∨ p.ackAt + 360 ≤ s.aclk → ∃ g : Flit, g.kind = 1 ∧ g.ack = p.expected ∧
      ∃ t, execAckReturnTimer i s = .next t ∧ OnlyPort s t i { p with out := g.bytes, unacked := 0, ackAt := s.aclk }) :=
  ⟨fun few early => execAckReturnTimer_ends h (if_neg (by omega)),
    fun due => ⟨_, rfl, rfl, execAckReturnTimer_ends h (if_pos ⟨live, due⟩)⟩⟩

theorem replayTimeout_ends (h : s.port? i = some p) (live : p.live = true) :
    (p.buffer = [] ∨ s.aclk < p.progress + 7200 → ∃ t, execReplayTimeout i s = .next t ∧ OnlyPort s t i p) ∧
    (p.buffer ≠ [] → p.progress + 7200 ≤ s.aclk →
      (p.replays + 1 < 8 → ∃ t, execReplayTimeout i s = .next t ∧
        OnlyPort s t i { p with state := .replay, resend := p.buffer.length, replays := p.replays + 1, progress := s.aclk }) ∧
      (p.replays + 1 = 8 → ∃ t, execReplayTimeout i s = .next t ∧
        OnlyPort s t i { p with state := .retrain, resend := 0, replays := 0, progress := s.aclk })) := by
  refine ⟨fun early => execReplayTimeout_ends h (if_neg ?_), fun held late => ⟨fun few => execReplayTimeout_ends h ?_, fun many => execReplayTimeout_ends h ?_⟩⟩
  · rintro ⟨-, held, late⟩
    rcases early with empty | early
    · exact held empty
    · omega
  · rw [if_pos ⟨live, held, late⟩, Port.startReplay_of_few few, if_neg (by simpa using held)]
  · rw [if_pos ⟨live, held, late⟩, Port.startReplay_of_many many]

/-- FLIT_SEND with nothing else due: what it sends, and when it sends nothing. -/
theorem flitSend_clauses (h : s.port? i = some p) (due : Claims.NothingDue s) :
    (p.live = false ∨ p.reach = none → ∃ t, execFlitSend i s = .next t ∧ OnlyPort s t i p) ∧
    (p.live = true → p.reach ≠ none →
      (∀ g, p.resend ≠ 0 → p.buffer[p.buffer.length - p.resend]? = some g → 0 < p.credits.getD g.tc 0 →
        ∃ t, execFlitSend i s = .next t ∧ OnlyPort s t i { p with
          out := ({ g with ack := p.expected } : Flit).bytes, credits := p.credits.set g.tc (p.credits.getD g.tc 0 - 1), unacked := 0, ackAt := s.aclk
          resend := p.resend - 1, state := if p.resend = 1 then .up else .replay }) ∧
      (p.resend = 0 → 512 ≤ p.buffer.length → ∃ t, execFlitSend i s = .next t ∧ OnlyPort s t i p) ∧
      (p.resend = 0 → (∀ g ∈ p.queue, g.tc < 4 → p.credits.getD g.tc 0 = 0) → ∃ t, execFlitSend i s = .next t ∧ OnlyPort s t i p) ∧
      (∀ c g front back, p.resend = 0 → p.buffer.length < 512 → c < 4 → p.queue = front ++ g :: back → g.tc = c → (∀ x ∈ front, x.tc ≠ c) → 0 < p.credits.getD c 0 →
        (∀ x ∈ p.queue, x.tc < c → p.credits.getD x.tc 0 = 0) →
        ∃ t, execFlitSend i s = .next t ∧ OnlyPort s t i { p with
          out := ({ g with seq := p.seq, ack := p.expected } : Flit).bytes, credits := p.credits.set c (p.credits.getD c 0 - 1), unacked := 0, ackAt := s.aclk
          queue := front ++ back, buffer := p.buffer ++ [{ g with seq := p.seq, ack := p.expected }], seq := (p.seq + 1) % 4096
          progress := if p.buffer = [] then s.aclk else p.progress })) :=
  ⟨fun idle => flitSend_ends h due (Port.sendOne_of_idle idle), fun live reach =>
    ⟨fun _ hr hg credit => flitSend_ends h due (Port.sendOne_resend live reach hr hg credit),
      fun hr full => flitSend_ends h due (Port.sendOne_full hr full),
      fun hr none => flitSend_ends h due (Port.sendOne_of_no_credit hr none),
      fun _ _ _ _ hr room hc hq hg hf credit first => flitSend_ends h due (Port.sendOne_first live reach hr room hc hq hg hf credit first)⟩⟩

end Clauses

/-- Settles O49: each step of a port is one of the equations above. A NAK on an empty buffer counts a replay, and a port that goes down keeps its buffer and its numbers (log entry 59). -/
theorem linkResult : Obligations.LinkResult := by
  intro s i p f h
  refine ⟨flitSend_clauses h, ?_, port_idle_ends h, fun live => ⟨execBadFlitReceived_live h live, ?_, ?_, ackReturn_ends h live, replayTimeout_ends h live⟩,
    fun ok other => execLinkRetrainDone_of_other ok h other, fun retrain => ⟨execLinkRetrainDone_ok h retrain, execLinkRetrainDone_failed h retrain,
      fun third remote => ⟨execLinkRetrainDone_lost_ends h retrain third remote, execLinkRetrainDone_lost_event h retrain third remote⟩,
      fun ok => execLinkRetrainDone_counted ok h retrain⟩⟩
  · intro o opened contribs remote host tries answer failed
    have one : OneUnsent s o := ⟨opened, contribs, remote, host, tries, answer, failed⟩
    exact ⟨fun r n part who none _ => one.flitSend_no_port ⟨r, n, part, who⟩ none, fun port idle => one.flitSend_port port h idle⟩
  · exact fun g rest n hb hn kind => idleFlit_ends h live hb hn kind
  · exact fun kind => ⟨fun bad => execLinkControlFlit_bad h live kind bad, fun reserved top few => linkControl_ends h live kind reserved top few⟩

end Sys2Proof.Machine
end

section
/-! SUPPORT. Sequenced flits as a port takes them, and transactions that wait at a port to be sent (`Machine/Links.lean`; 02 R42 to R45). -/

namespace Sys2Proof.Machine

/-! ### Taking a flit -/

/-- The flit of the expected number is the expected one. -/
theorem seqCase_expected_iff {p : Port} {f : WireFlit} (range : p.expected < 4096) : seqCase p f = .expected ↔ flitSeq f = p.expected := by
  have seq : flitSeq f < 4096 := Nat.mod_lt _ (by decide)
  unfold seqCase
  dsimp only
  split
  next h => exact ⟨fun _ => by omega, fun _ => rfl⟩
  next h =>
    refine ⟨fun e => ?_, fun e => absurd (by omega) h⟩
    split at e <;> cases e

theorem Port.received_idx (p : Port) (f : WireFlit) (aclk : Nat) : (p.received f aclk).idx = p.idx := by
  unfold Port.received
  dsimp only
  split <;> simp

/-- A flit of another number leaves the expected one. -/
theorem Port.received_other {p : Port} {f : WireFlit} {aclk : Nat} (h : seqCase p f ≠ .expected) : (p.received f aclk).expected = p.expected := by
  have same : seqCase { p with freed := addAt p.freed (flitTc f) 1, unacked := p.unacked + 1 } f = seqCase p f := rfl
  unfold Port.received
  dsimp only
  rw [same]
  split
  next e => exact absurd e h
  · simp
  · rfl

theorem Port.received_expected {p : Port} {f : WireFlit} {aclk : Nat} (h : seqCase p f = .expected) :
    (p.received f aclk).expected = (p.expected + 1) % 4096 ∧ (p.received f aclk).nakOut = false := by
  have same : seqCase { p with freed := addAt p.freed (flitTc f) 1, unacked := p.unacked + 1 } f = seqCase p f := rfl
  unfold Port.received
  dsimp only
  rw [same, h]
  exact ⟨rfl, rfl⟩

theorem seqCase_acked (p : Port) (f : WireFlit) (ack aclk : Nat) : seqCase (p.acked ack aclk) f = seqCase p f := by
  simp [seqCase]

/-- The port after it has taken a flit. -/
def Port.took (p : Port) (f : WireFlit) (aclk : Nat) (parts : List WireFlit) : Port :=
  { (p.acked (flitAck f) aclk).received f aclk with parts := parts }

@[simp] theorem Port.took_idx (p : Port) (f : WireFlit) (aclk : Nat) (parts : List WireFlit) : (p.took f aclk parts).idx = p.idx :=
  (Port.received_idx _ _ _).trans (Port.acked_idx _ _ _)

section Take

variable {s : State} {i kind : Nat} {p : Port} {f : WireFlit} {firstOk : Nat → Bool} {act : WireFlit → List Byte → State → State}

theorem takeFlit_idle (h : s.port? i = some p) (idle : p.live = false) : takeFlit kind i f firstOk act s = s := by
  unfold takeFlit
  rw [h]
  exact if_pos (.inl (by simp [idle]))

/-- A flit of another number acknowledges and counts, no more. -/
theorem takeFlit_other (h : s.port? i = some p) (live : p.live = true) (hk : flitKind f = kind) (other : seqCase p f ≠ .expected) :
    takeFlit kind i f firstOk act s = s.updPort i (fun q => q.took f s.aclk p.parts) := by
  unfold takeFlit
  rw [h]
  dsimp only
  rw [if_neg (by simp [live, hk]), if_pos other]
  rfl

/-- The expected flit for another device is discarded and counted (02 R43). -/
theorem takeFlit_elsewhere (h : s.port? i = some p) (live : p.live = true) (hk : flitKind f = kind) (expected : seqCase p f = .expected)
    (far : s.gridAxes = 0 ∨ flitDst f ≠ s.here) :
    takeFlit kind i f firstOk act s = (s.updPort i (fun q => q.took f s.aclk p.parts)).discardFlit := by
  unfold takeFlit
  rw [h]
  dsimp only
  rw [if_neg (by simp [live, hk]), if_neg (not_not.mpr expected), if_pos (.inr (far.imp_right .inl))]
  rfl

/-- A whole transaction of one flit acts from the state that has taken the flit. -/
theorem takeFlit_arrives (h : Claims.Arrives s i p f kind) (low : kind < 12) (ok : firstOk (flitNum f) = true) :
    takeFlit kind i f firstOk act s = act f f.payload (Claims.tookFlit s i f) := by
  obtain ⟨port, live, hk, next, range, ⟨axes, here⟩, ⟨first, last⟩, alone⟩ := h
  unfold takeFlit
  rw [port]
  dsimp only
  rw [if_neg (by simp [live, hk]), if_neg (not_not.mpr ((seqCase_expected_iff range).mpr next)), if_neg (by simp [hk, axes, here, ok, Nat.not_le.mpr low])]
  simp [first, last, alone, Claims.tookFlit]

end Take

/-! ### Transactions that wait at a port -/

section Enqueue

variable (s : State) (kind tc dst ctx : Nat) (bs : List Byte)

theorem State.enqueueD_of_port {j : Nat} (h : s.portFor dst tc ctx = some j) :
    s.enqueueD kind tc dst ctx bs = s.updPort j (fun p => { p with queue := p.queue ++ flitsOf kind tc dst s.here ctx bs none }) := by
  simp [State.enqueueD, State.enqueue, h]

/-- What waits to be sent changes the ports alone. -/
theorem State.enqueueD_ports_only : ∃ ps, s.enqueueD kind tc dst ctx bs = { s with ports := ps } := by
  unfold State.enqueueD State.enqueue
  cases s.portFor dst tc ctx with
  | none => exact ⟨s.ports, rfl⟩
  | some j => exact ⟨_, rfl⟩

@[simp] theorem State.enqueueD_contribs : (s.enqueueD kind tc dst ctx bs).contribs = s.contribs := by
  obtain ⟨_, e⟩ := s.enqueueD_ports_only kind tc dst ctx bs
  rw [e]

@[simp] theorem State.enqueueD_opened : (s.enqueueD kind tc dst ctx bs).opened = s.opened := by
  obtain ⟨_, e⟩ := s.enqueueD_ports_only kind tc dst ctx bs
  rw [e]

/-- A transaction joins the queue of the port its hash names (02 R48). -/
theorem State.enqueueD_queue {j : Nat} {q : Port} (h : s.portFor dst tc ctx = some j) (hq : s.port? j = some q) :
    (s.enqueueD kind tc dst ctx bs).port? j = some { q with queue := q.queue ++ flitsOf kind tc dst s.here ctx bs none } := by
  rw [s.enqueueD_of_port kind tc dst ctx bs h, State.port?_updPort (by intro; rfl), hq]
  rfl

/-- What waits at a port goes on waiting there when more is enqueued. -/
theorem State.enqueueD_keeps_queue {j : Nat} {q : Port} (hq : s.port? j = some q) :
    ∃ y, (s.enqueueD kind tc dst ctx bs).port? j = some y ∧ ∀ g ∈ q.queue, g ∈ y.queue := by
  cases h : s.portFor dst tc ctx with
  | none => exact ⟨q, by simpa [State.enqueueD, State.enqueue, h] using hq, fun _ hg => hg⟩
  | some k =>
    by_cases e : j = k
    · subst e
      exact ⟨_, s.enqueueD_queue kind tc dst ctx bs h hq, fun _ hg => List.mem_append_left _ hg⟩
    · exact ⟨q, by rw [s.enqueueD_of_port kind tc dst ctx bs h, State.port?_updPort_other (by intro; rfl) e, hq], fun _ hg => hg⟩

end Enqueue

end Sys2Proof.Machine
end

section
/-! SUPPORT. This device in collectives (`Machine/Collectives.lean`): what answers, results, sends and time-outs make of its opens and contributions, and the obligation on them (O52). -/

namespace Sys2Proof.Machine

/-! ### Lists with one entry changed -/

/-- An entry that stands once in a list is the one an update by equality reaches. -/
theorem map_append_cons_upd {α : Type} [DecidableEq α] {front back : List α} {a : α} {g : α → α} (hf : a ∉ front) (hb : a ∉ back) :
    (front ++ a :: back).map (fun x => if x == a then g x else x) = front ++ g a :: back := by
  have keep : ∀ l : List α, a ∉ l → l.map (fun x => if x == a then g x else x) = l := by
    intro l hl
    refine (List.map_congr_left fun x hx => ?_).trans l.map_id'
    exact if_neg (by simpa using fun e : x = a => hl (e ▸ hx))
  rw [List.map_append, List.map_cons, keep front hf, keep back hb]
  simp

/-! ### Answers to contributions, opens and closes (02 R51, R57) -/

theorem State.failConversion_of_none {s : State} (ctx tid cause : Nat) (h : s.convs = []) : s.failConversion ctx tid cause = s := by
  simp [State.failConversion, State.convOf, h]

section Answers

variable {s : State} {front back : List Contribution} {c : Contribution} {d : ContribDesc}

/-- The contribution that an acknowledgement names: one that waits for it. -/
def Contribution.named (x : Contribution) (d : ContribDesc) : Prop :=
  x.coll = d.coll ∧ x.round = d.round ∧ x.contrib = d.contrib ∧ x.offset = d.offset ∧ x.inFlight = true

theorem find?_named (hc : s.contribs = front ++ c :: back) (hit : c.named d) (hf : ∀ x ∈ front, ¬ x.named d) :
    s.contribs.find? (fun c => c.coll == d.coll && c.round == d.round && c.contrib == d.contrib && c.offset == d.offset && c.inFlight) = some c := by
  have bool : ∀ x : Contribution, (x.coll == d.coll && x.round == d.round && x.contrib == d.contrib && x.offset == d.offset && x.inFlight) = true ↔ x.named d := by
    simp [Contribution.named, and_assoc]
  rw [hc]
  exact find?_append_cons ((bool c).mpr hit) fun x hx => Bool.eq_false_iff.mpr fun e => hf x hx ((bool x).mp e)

/-- Statuses 2 and 5 send the contribution again 3,600 aclk later; its sends count from 0 (log entry 61). -/
theorem State.contribAcked_again (hc : s.contribs = front ++ c :: back) (hit : c.named d) (hf : ∀ x ∈ front, ¬ x.named d) (once : c ∉ back)
    (status : d.status = 2 ∨ d.status = 5) :
    s.contribAcked d = { s with contribs := front ++ { c with inFlight := false, since := s.aclk + 3600, sends := 0 } :: back } := by
  unfold State.contribAcked
  rw [find?_named hc hit hf]
  dsimp only
  rw [if_neg (by omega), if_pos status, hc, map_append_cons_upd (fun h => hf c h hit) once]

/-- Every other status ends it; with no conversion nothing fails. -/
theorem State.contribAcked_ended (hc : s.contribs = front ++ c :: back) (hit : c.named d) (hf : ∀ x ∈ front, ¬ x.named d) (convs : s.convs = [])
    (h2 : d.status ≠ 2) (h5 : d.status ≠ 5) : s.contribAcked d = { s with contribs := front ++ back } := by
  unfold State.contribAcked
  rw [find?_named hc hit hf]
  dsimp only
  rw [if_neg (by omega : ¬ (d.status = 2 ∨ d.status = 5)), hc, erase_append_cons fun h => hf c h hit]
  split
  · rfl
  · exact State.failConversion_of_none _ _ _ convs

end Answers

section Opens

variable {s : State} {front back : List Opened} {o : Opened} {coll contrib status : Nat}

/-- The open that an answer names is the first unanswered one of its collective and contributor. -/
structure AwaitsOpen (s : State) (front back : List Opened) (o : Opened) (coll contrib : Nat) : Prop where
  opened : s.opened = front ++ o :: back
  once : o ∉ back
  named : o.coll = coll ∧ o.contrib = contrib
  waits : o.closing = false ∧ o.acked = false
  first : ∀ x ∈ front, x.coll = o.coll → x.contrib = o.contrib → x.closing = true ∨ x.acked = true

theorem AwaitsOpen.not_mem (h : AwaitsOpen s front back o coll contrib) : o ∉ front := fun hm => by
  obtain ⟨open_, unacked⟩ := h.waits
  rcases h.first o hm rfl rfl with e | e <;> simp_all

theorem AwaitsOpen.found (h : AwaitsOpen s front back o coll contrib) :
    s.opened.find? (fun o => o.coll == coll && o.contrib == contrib && !o.closing && !o.acked) = some o := by
  obtain ⟨rfl, rfl⟩ := h.named
  obtain ⟨open_, unacked⟩ := h.waits
  rw [h.opened]
  refine find?_append_cons (by simp [open_, unacked]) fun x hx => Bool.eq_false_iff.mpr fun e => ?_
  simp only [Bool.and_eq_true, beq_iff_eq, Bool.not_eq_true'] at e
  obtain ⟨⟨⟨hcoll, hcontrib⟩, closing⟩, acked⟩ := e
  rcases h.first x hx hcoll hcontrib with e | e <;> simp_all

/-- With status 0 contributions may begin. -/
theorem State.openAcked_done (h : AwaitsOpen s front back o coll contrib) :
    s.openAcked coll contrib 0 = { s with opened := front ++ { o with acked := true, inFlight := false, sends := 0 } :: back } := by
  unfold State.openAcked
  rw [h.found]
  dsimp only
  rw [if_pos rfl, h.opened, map_append_cons_upd h.not_mem h.once]

/-- For want of room the open is sent again. -/
theorem State.openAcked_again (h : AwaitsOpen s front back o coll contrib) :
    s.openAcked coll contrib 2 = { s with opened := front ++ { o with inFlight := false, since := s.aclk + 3600, sends := 0 } :: back } := by
  unfold State.openAcked
  rw [h.found]
  dsimp only
  rw [if_neg (by omega), if_pos rfl, h.opened, map_append_cons_upd h.not_mem h.once]

theorem State.openAcked_refused (h : AwaitsOpen s front back o coll contrib) (convs : s.convs = []) (h0 : status ≠ 0) (h2 : status ≠ 2) :
    s.openAcked coll contrib status = { s with opened := front ++ back } := by
  unfold State.openAcked
  rw [h.found]
  dsimp only
  rw [if_neg h0, if_neg h2, h.opened, erase_append_cons h.not_mem]
  exact State.failConversion_of_none _ _ _ convs

/-- A close's answer takes the closing opens of its collective and contributor away, and no open of another collective. -/
theorem State.closeAcked_opened : (∀ o ∈ (s.closeAcked coll contrib).opened, ¬ (o.coll = coll ∧ o.contrib = contrib ∧ o.closing = true)) ∧
    ∀ x, x.coll ≠ coll → (x ∈ (s.closeAcked coll contrib).opened ↔ x ∈ s.opened) := by
  unfold State.closeAcked
  refine ⟨fun o ho => ?_, fun x hx => ?_⟩
  · rintro ⟨hcoll, hcontrib, closing⟩
    simp [hcoll, hcontrib, closing] at ho
  · simp [List.mem_filter, hx]

end Opens

/-! ### Results (02 R53, R57 item 4) -/

theorem mem_range_zip {α : Type} (l : List α) (k : Nat) (d : α) (h : k < l.length) : (k, l.getD k d) ∈ (List.range l.length).zip l := by
  refine List.mem_iff_getElem.mpr ⟨k, by simpa using h, ?_⟩
  simp [h]

theorem mem_cellsFrom (va : Nat) (bs : List Byte) (z : Nat) (h : z < bs.length) : (va + z, bs.getD z 0) ∈ cellsFrom va bs :=
  List.mem_map.mpr ⟨_, mem_range_zip bs z 0 h, rfl⟩

/-- Byte `z` of element `k` of a part stands at its place in the range of the open record. -/
theorem mem_partCells {record k z : Nat} {d : ContribDesc} {vs : List Nat} (hk : k < vs.length) (hz : z < elemBytes d.fmt) :
    (bitsOf record 192 52 + (d.offset + k - bitsOf record 256 32) * elemBytes d.fmt + z, (bytesOfNat (elemBytes d.fmt) (vs.getD k 0)).getD z 0) ∈
      partCells record d vs :=
  List.mem_flatMap.mpr ⟨(k, vs.getD k 0), mem_range_zip vs k 0 hk, mem_cellsFrom _ _ _ (by simpa using hz)⟩

@[simp] theorem elemsOf_length (fmt count : Nat) (bs : List Byte) : (elemsOf fmt count bs).length = count := by
  simp [elemsOf]

theorem State.applyResult_of_none {s : State} {d : ContribDesc} (vs : List Nat) (h : ∀ o ∈ s.opened, o.coll ≠ d.coll) : s.applyResult d vs = s := by
  unfold State.applyResult
  rw [List.find?_eq_none.mpr fun o ho => by simpa using h o ho]

/-- The conversion `c` on the tensor of open `o` awaits the round of `d` at its axis. -/
structure AwaitsResult (s : State) (o : Opened) (c : ConvRun) (d : ContribDesc) : Prop where
  opened : s.opened = [o]
  coll : o.coll = d.coll
  convs : s.convs = [c]
  tensor : c.ctx = o.ctx ∧ c.tid = o.tid
  step : (s.entryOf o.ctx o.tid).stepKind c.demand c.axis = .reduce ∧ axKind ((s.entryOf o.ctx o.tid).axis c.axis) = 2
  sent : c.sent = true
  round : ((s.entryOf o.ctx o.tid).generation + 1) % 2 ^ 32 = d.round
  fresh : ∀ y ∈ c.inputs, y.axis ≠ c.axis

/-- The part of a result that a conversion awaits becomes its input. -/
theorem State.applyResult_taken {s : State} {o : Opened} {c : ConvRun} {d : ContribDesc} (h : AwaitsResult s o c d) (vs : List Nat) :
    s.applyResult d vs = { s with convs := [{ c with
      inputs := c.inputs ++ [⟨c.axis, 0, partCells (natOfBytes o.record) d vs⟩], parts := c.parts ++ [d.round] }] } := by
  obtain ⟨opened, coll, convs, ⟨ctx, tid⟩, ⟨kind, axis⟩, sent, round, fresh⟩ := h
  have new : c.holds (partCells (natOfBytes o.record) d vs) = false :=
    List.any_eq_false.mpr fun y hy => by simp [fresh y hy]
  have none : c.inputs.find? (fun i => i.axis == c.axis && i.coord == 0) = none :=
    List.find?_eq_none.mpr fun y hy => by simp [fresh y hy]
  unfold State.applyResult State.convOf
  simp only [opened, convs, List.find?_cons, coll, ctx, tid, beq_self_eq_true, Bool.and_self]
  rw [if_neg (by rw [round]; simp [kind, axis, sent, new])]
  simp [State.convInput, opened, convs, ctx, tid, none]

/-! ### Sends and time-outs (02 R51) -/

section Sends

variable {s : State} {o : Opened} {c : Contribution}

/-- The bytes of a contribution as it is sent (02 Table 2.9). -/
def Contribution.sentBytes (c : Contribution) : List Byte :=
  (⟨c.coll, c.round, c.contrib, c.ncontrib, c.op, c.fmt, 0, c.offset, c.elems.length, 0⟩ : ContribDesc).bytes ++ elemsBytes c.fmt c.elems

/-- The only contribution goes to its reducer at another device, and the send is counted. -/
theorem State.sendContribution_far (tc : Nat) (hc : s.contribs = [c]) (far : c.dst ≠ s.here) :
    s.sendContribution tc c =
      ({ s with contribs := [{ c with inFlight := true, since := s.aclk, sends := c.sends + 1 }] } : State).enqueueD 8 tc c.dst c.ctx c.sentBytes := by
  unfold State.sendContribution
  dsimp only
  rw [if_neg fun h => far h.2, hc]
  simp [Contribution.sentBytes]

/-- The bytes of an open or a close as it is sent (02 Table 2.11). -/
def Opened.sentBytes (o : Opened) : List Byte :=
  if o.closing then controlWord 3 0 o.coll o.contrib else controlWord 0 0 o.coll o.contrib ++ o.record

/-- The only open goes to its reducer at another device, and the send is counted. -/
theorem State.sendOpened_far (ho : s.opened = [o]) (far : o.dst ≠ s.here) : s.sendOpened o =
    ({ s with opened := [{ o with inFlight := true, since := s.aclk, sends := o.sends + 1 }] } : State).enqueueD 11 o.tc o.dst o.ctx o.sentBytes := by
  unfold State.sendOpened
  dsimp only
  rw [if_neg fun h => far h.2, ho]
  simp [Opened.sentBytes]

/-- The one open is answered and not closing, and the contribution not due: nothing is sent. -/
theorem State.sendDue_early (ho : s.opened = [o]) (acked : o.acked = true) (closing : o.closing = false) (hc : s.contribs = [c]) (early : s.aclk < c.since) :
    s.sendDue = s := by
  simp [State.sendDue, ho, acked, closing, hc, Nat.not_le.mpr early]

/-- A contribution of an open collective that is due is sent. -/
theorem State.sendDue_contribution (ho : s.opened = [o]) (acked : o.acked = true) (closing : o.closing = false) (coll : o.coll = c.coll)
    (hc : s.contribs = [c]) (waits : c.inFlight = false) (due : c.since ≤ s.aclk) : s.sendDue = s.sendContribution o.tc c := by
  simp [State.sendDue, ho, acked, closing, hc, waits, due, coll]

/-- An open without an answer, or a close, that is due is sent. -/
theorem State.sendDue_open (ho : s.opened = [o]) (waits : o.inFlight = false) (need : o.acked = false ∨ o.closing = true) (due : o.since ≤ s.aclk)
    (far : o.dst ≠ s.here) (hc : s.contribs = []) : s.sendDue = s.sendOpened o := by
  have filtered : s.opened.filter (fun o => !o.inFlight && (o.closing || !o.acked) && decide (o.since ≤ s.aclk)) = [o] := by
    rcases need with h | h <;> simp [ho, waits, due, h]
  have contribs : (s.sendOpened o).contribs = [] := by
    rw [State.sendOpened_far ho far]
    simpa using hc
  unfold State.sendDue
  rw [filtered]
  simp [contribs]

/-- What has timed out, due at once. -/
def Contribution.again (c : Contribution) (aclk : Nat) : Contribution := { c with inFlight := false, since := aclk }
def Opened.again (o : Opened) (aclk : Nat) : Opened := { o with inFlight := false, since := aclk }

/-- A contribution that has been without an answer for 72,000 aclk is sent again, or given up after eight sends. -/
theorem execContributionAckTimeout_contribution (hc : s.contribs = [c]) (flight : c.inFlight = true) (late : c.since + 72000 ≤ s.aclk) :
    execContributionAckTimeout s = device (if 8 ≤ c.sends then ({ s with contribs := [] } : State).failConversion c.ctx c.tid 0x1B
      else ({ s with contribs := [c.again s.aclk] } : State).sendDue) := by
  simp [execContributionAckTimeout, hc, Contribution.late, Contribution.again, flight, late]

theorem execContributionAckTimeout_open (ho : s.opened = [o]) (hc : s.contribs = []) (flight : o.inFlight = true) (late : o.since + 72000 ≤ s.aclk) :
    execContributionAckTimeout s = device (if 8 ≤ o.sends then
        (if o.closing then { s with opened := [] } else ({ s with opened := [] } : State).failConversion o.ctx o.tid 0x1B)
      else ({ s with opened := [o.again s.aclk] } : State).sendDue) := by
  simp [execContributionAckTimeout, ho, hc, Opened.late, Opened.again, flight, late]

theorem execContributionAckTimeout_none (ho : s.opened = [o]) (hc : s.contribs = []) (flight : o.inFlight = false) : execContributionAckTimeout s = device s := by
  simp [execContributionAckTimeout, ho, hc, Opened.late, flight]

end Sends

/-! ### The clauses of O52 and the obligation -/

section Clauses

variable {s : State} {i : Nat} {p : Port} {f : WireFlit}

theorem execContributionAck_arrives (h : Claims.Arrives s i p f 10) (ok : contribDescOk (flitNum f) = true) :
    execContributionAck i f s = device ((Claims.tookFlit s i f).contribAcked (Claims.contribOf f)) :=
  congrArg device (takeFlit_arrives h (by decide) ok)

theorem contributionAck_clause (h : Claims.Arrives s i p f 10) (ok : contribDescOk (flitNum f) = true) {c : Contribution} {front back : List Contribution}
    (convs : s.convs = []) (hc : s.contribs = front ++ c :: back) (hit : c.named (Claims.contribOf f)) (hf : ∀ x ∈ front, ¬ x.named (Claims.contribOf f)) (once : c ∉ back) :
    ((Claims.contribOf f).status ≠ 2 → (Claims.contribOf f).status ≠ 5 → execContributionAck i f s = .next { Claims.tookFlit s i f with contribs := front ++ back }) ∧
    ((Claims.contribOf f).status = 2 ∨ (Claims.contribOf f).status = 5 → execContributionAck i f s =
      .next { Claims.tookFlit s i f with contribs := front ++ { c with inFlight := false, since := s.aclk + 3600, sends := 0 } :: back }) := by
  rw [execContributionAck_arrives h ok]
  exact ⟨fun h2 h5 => congrArg device (State.contribAcked_ended (s := Claims.tookFlit s i f) hc hit hf convs h2 h5),
    fun again => congrArg device (State.contribAcked_again (s := Claims.tookFlit s i f) hc hit hf once again)⟩

theorem collectiveOpenAck_clause (h : Claims.Arrives s i p f 11) (ok : controlOk (flitNum f) = true) {o : Opened} {front back : List Opened} (convs : s.convs = [])
    (cc : wordCc (natOfBytes f.payload) = 1) (wait : AwaitsOpen s front back o (wordColl (natOfBytes f.payload)) (wordContrib (natOfBytes f.payload))) :
    let t := Claims.tookFlit s i f
    (wordStatus (natOfBytes f.payload) = 0 → execCollectiveOpenAck i f s = .next { t with opened := front ++ { o with acked := true, inFlight := false, sends := 0 } :: back }) ∧
    (wordStatus (natOfBytes f.payload) = 2 → execCollectiveOpenAck i f s = .next { t with opened := front ++ { o with inFlight := false, since := s.aclk + 3600, sends := 0 } :: back }) ∧
    (wordStatus (natOfBytes f.payload) ≠ 0 → wordStatus (natOfBytes f.payload) ≠ 2 → execCollectiveOpenAck i f s = .next { t with opened := front ++ back }) := by
  intro t
  have acts : execCollectiveOpenAck i f s = device (t.openAcked (wordColl (natOfBytes f.payload)) (wordContrib (natOfBytes f.payload)) (wordStatus (natOfBytes f.payload))) :=
    congrArg device (takeFlit_arrives h (by decide) (Bool.and_eq_true_iff.mpr ⟨ok, beq_iff_eq.mpr cc⟩))
  have wait : AwaitsOpen t front back o (wordColl (natOfBytes f.payload)) (wordContrib (natOfBytes f.payload)) := ⟨wait.opened, wait.once, wait.named, wait.waits, wait.first⟩
  rw [acts]
  refine ⟨fun e => ?_, fun e => ?_, fun h0 h2 => congrArg device (State.openAcked_refused wait convs h0 h2)⟩
  · rw [e]
    exact congrArg device (State.openAcked_done wait)
  · rw [e]
    exact congrArg device (State.openAcked_again wait)

theorem collectiveCloseAck_clause (h : Claims.Arrives s i p f 11) (ok : controlOk (flitNum f) = true) (cc : wordCc (natOfBytes f.payload) = 4) {o : Opened}
    (named : o.coll = wordColl (natOfBytes f.payload) ∧ o.contrib = wordContrib (natOfBytes f.payload)) (closing : o.closing = true) :
    ∃ u, execCollectiveCloseAck i f s = .next u ∧ u.mem = s.mem ∧ o ∉ u.opened ∧ ∀ x, x.coll ≠ o.coll → (x ∈ u.opened ↔ x ∈ s.opened) := by
  have acts : execCollectiveCloseAck i f s = device ((Claims.tookFlit s i f).closeAcked (wordColl (natOfBytes f.payload)) (wordContrib (natOfBytes f.payload))) :=
    congrArg device (takeFlit_arrives h (by decide) (Bool.and_eq_true_iff.mpr ⟨ok, beq_iff_eq.mpr cc⟩))
  obtain ⟨gone, others⟩ := (Claims.tookFlit s i f).closeAcked_opened (coll := wordColl (natOfBytes f.payload)) (contrib := wordContrib (natOfBytes f.payload))
  exact ⟨_, acts, rfl, fun ho => gone o ho ⟨named.1, named.2, closing⟩, fun x hx => others x (named.1 ▸ hx)⟩

/-- The result that a COLLECTIVE_RESULT flit carries, and its elements. -/
def resultOf (f : WireFlit) : ContribDesc := contribDesc (natOfBytes ((f.payload.drop 8).take 32))
def resultElems (f : WireFlit) : List Nat := elemsOf (resultOf f).fmt (resultOf f).count (f.payload.drop 40)

theorem execCollectiveResult_arrives (h : Claims.Arrives s i p f 11) (ok : controlOk (flitNum f) = true) (cc : wordCc (natOfBytes f.payload) = 2)
    (whole : (resultOf f).count * elemBytes (resultOf f).fmt ≤ (f.payload.drop 40).length) : execCollectiveResult i f s =
      device (if reservedBits (resultOf f) (resultElems f) then (Claims.tookFlit s i f).discardFlit else (Claims.tookFlit s i f).applyResult (resultOf f) (resultElems f)) :=
  congrArg device ((takeFlit_arrives h (by decide) (Bool.and_eq_true_iff.mpr ⟨ok, beq_iff_eq.mpr cc⟩)).trans (if_neg (Nat.not_lt.mpr whole)))

/-- The part of a result that a conversion awaits, byte by byte. -/
theorem collectiveResult_taken {o : Opened} {c : ConvRun} (h : Claims.Arrives s i p f 11) (ok : controlOk (flitNum f) = true) (cc : wordCc (natOfBytes f.payload) = 2)
    (whole : (resultOf f).count * elemBytes (resultOf f).fmt ≤ (f.payload.drop 40).length) (clean : reservedBits (resultOf f) (resultElems f) = false)
    (wait : AwaitsResult s o c (resultOf f)) :
    ∃ u y, execCollectiveResult i f s = .next u ∧ u.mem = s.mem ∧ u.convs = [{ c with inputs := c.inputs ++ [y], parts := c.parts ++ [(resultOf f).round] }] ∧ y.axis = c.axis ∧ y.coord = 0 ∧
      ∀ k, k < (resultOf f).count → ∀ z, z < elemBytes (resultOf f).fmt →
        (bitsOf (natOfBytes o.record) 192 52 + ((resultOf f).offset + k - bitsOf (natOfBytes o.record) 256 32) * elemBytes (resultOf f).fmt + z,
          (bytesOfNat (elemBytes (resultOf f).fmt) ((resultElems f).getD k 0)).getD z 0) ∈ y.cells := by
  have wait : AwaitsResult (Claims.tookFlit s i f) o c (resultOf f) :=
    ⟨wait.opened, wait.coll, wait.convs, wait.tensor, wait.step, wait.sent, wait.round, wait.fresh⟩
  rw [execCollectiveResult_arrives h ok cc whole, if_neg (Bool.eq_false_iff.mp clean), State.applyResult_taken wait]
  exact ⟨_, _, rfl, rfl, rfl, rfl, rfl, fun k hk z hz => mem_partCells (by simpa [resultElems] using hk) hz⟩

/-- A due contribution to a reducer at another device is enqueued at its port and counted. -/
theorem execContributionRetryTimer_due {o : Opened} {c : Contribution} (ho : s.opened = [o]) (acked : o.acked = true) (closing : o.closing = false) (coll : o.coll = c.coll)
    (hc : s.contribs = [c]) (waits : c.inFlight = false) (far : c.dst ≠ s.here) (due : c.since ≤ s.aclk) :
    ∃ u, execContributionRetryTimer s = .next u ∧ u.mem = s.mem ∧ u.contribs = [{ c with inFlight := true, since := s.aclk, sends := c.sends + 1 }] ∧
      ∀ j q, s.portFor c.dst o.tc c.ctx = some j → s.port? j = some q → ∃ y, u.port? j = some y ∧ y.queue = q.queue ++ flitsOf 8 o.tc c.dst s.here c.ctx c.sentBytes none := by
  unfold execContributionRetryTimer
  rw [State.sendDue_contribution ho acked closing coll hc waits due, State.sendContribution_far o.tc hc far]
  refine ⟨_, rfl, by simp, by simp, fun j q hj hq => ⟨_, State.enqueueD_queue _ _ _ _ _ _ hj hq, rfl⟩⟩

theorem contributionTimeout_clause {o : Opened} {c : Contribution} (ho : s.opened = [o]) (convs : s.convs = []) (hc : s.contribs = [c]) (flight : c.inFlight = true)
    (late : c.since + 72000 ≤ s.aclk) :
    (8 ≤ c.sends → execContributionAckTimeout s = .next { s with contribs := [] }) ∧
    (c.sends < 8 → o.acked = true → o.closing = false → o.coll = c.coll → c.dst ≠ s.here → ∃ u, execContributionAckTimeout s = .next u ∧ u.mem = s.mem ∧
      u.contribs = [{ c with inFlight := true, since := s.aclk, sends := c.sends + 1 }]) := by
  rw [execContributionAckTimeout_contribution hc flight late]
  refine ⟨fun many => ?_, fun few acked closing coll far => ?_⟩
  · rw [if_pos many, State.failConversion_of_none (s := { s with contribs := [] }) _ _ _ convs]
    rfl
  · have sent := (State.sendDue_contribution (s := { s with contribs := [c.again s.aclk] }) (c := c.again s.aclk) ho acked closing coll rfl rfl (Nat.le_refl _)).trans
      (State.sendContribution_far (s := { s with contribs := [c.again s.aclk] }) (c := c.again s.aclk) o.tc rfl far)
    rw [if_neg (by omega)]
    exact ⟨_, congrArg device sent, by simp, by simp [Contribution.again]⟩

theorem openTimeout_clause {o : Opened} (ho : s.opened = [o]) (convs : s.convs = []) (hc : s.contribs = []) (flight : o.inFlight = true)
    (late : o.since + 72000 ≤ s.aclk) :
    (8 ≤ o.sends → execContributionAckTimeout s = .next { s with opened := [] }) ∧
    (o.sends < 8 → o.acked = false ∨ o.closing = true → o.dst ≠ s.here → ∃ u, execContributionAckTimeout s = .next u ∧ u.mem = s.mem ∧
      u.opened = [{ o with inFlight := true, since := s.aclk, sends := o.sends + 1 }]) := by
  rw [execContributionAckTimeout_open ho hc flight late]
  refine ⟨fun many => ?_, fun few need far => ?_⟩
  · rw [if_pos many, State.failConversion_of_none (s := { s with opened := [] }) _ _ _ convs, ite_self]
    rfl
  · have sent := (State.sendDue_open (s := { s with opened := [o.again s.aclk] }) (o := o.again s.aclk) rfl rfl need (Nat.le_refl _) far hc).trans
      (State.sendOpened_far (s := { s with opened := [o.again s.aclk] }) (o := o.again s.aclk) rfl far)
    rw [if_neg (by omega)]
    exact ⟨_, congrArg device sent, by simp, by simp [Opened.again]⟩

end Clauses

/-- Settles O52: each clause is one of the equations above. After statuses 2 and 5 the sends count from 0 again, opens and closes are sent again and given up as contributions are (log entry 61), and a result is kept as an input by address (log entry 90). -/
theorem contributorResult : Obligations.ContributorResult := by
  intro s i p f
  refine ⟨fun c front back h ok convs hc hit hf once => contributionAck_clause h ok convs hc hit hf once, fun h ok => ⟨?_, fun cc whole => ⟨?_, ?_, ?_⟩⟩, ?_, ?_⟩
  · intro o front back convs opened once coll contrib
    exact ⟨fun cc closing acked first => collectiveOpenAck_clause h ok convs cc ⟨opened, once, ⟨coll, contrib⟩, ⟨closing, acked⟩, first⟩,
      fun cc closing => collectiveCloseAck_clause h ok cc ⟨coll, contrib⟩ closing⟩
  · exact fun reserved => (execCollectiveResult_arrives h ok cc whole).trans (congrArg device (if_pos reserved))
  · intro clean none
    refine (execCollectiveResult_arrives h ok cc whole).trans (congrArg device ((if_neg (Bool.eq_false_iff.mp clean)).trans ?_))
    exact State.applyResult_of_none (s := Claims.tookFlit s i f) _ none
  · exact fun o c clean opened coll convs ctx tid kind axis sent round fresh =>
      collectiveResult_taken h ok cc whole clean ⟨opened, coll, convs, ⟨ctx, tid⟩, ⟨kind, axis⟩, sent, round, fresh⟩
  · intro o c ho acked closing coll hc waits far
    exact ⟨fun early => congrArg device (State.sendDue_early ho acked closing hc early),
      fun due => execContributionRetryTimer_due ho acked closing coll hc waits far due⟩
  · intro o c ho convs
    exact ⟨fun hc flight late => contributionTimeout_clause ho convs hc flight late, fun hc flight late => openTimeout_clause ho convs hc flight late,
      fun hc flight => execContributionAckTimeout_none ho hc flight⟩

end Sys2Proof.Machine
end

section
/-! SUPPORT. The reducer (`Machine/Collectives.lean`): combination, the rows of 02 R50, delivery, opens, closes and the idle time-out, and the obligation on them (O51). -/

namespace Sys2Proof.Machine

/-! ### Combination (02 R52) -/

/-- i32 sums, one after another, are the sum modulo 2^32. -/
theorem foldl_reduceApply_add (vs : List Nat) (a : Nat) (h : a < 2 ^ 32) :
    vs.foldl (fun a x => reduceApply 0 0 a x) a = (a + vs.sum) % 2 ^ 32 := by
  induction vs generalizing a with
  | nil => exact (Nat.mod_eq_of_lt h).symm
  | cons v vs ih =>
    have step : reduceApply 0 0 a v = (a + v) % 2 ^ 32 := rfl
    rw [List.foldl_cons, step, ih _ (Nat.mod_lt _ (by decide)), List.sum_cons, Nat.mod_add_mod, Nat.add_assoc]

theorem combineCodes_add {vs : List Nat} (ne : vs ≠ []) (h : ∀ v ∈ vs, v < 2 ^ 32) : combineCodes 9 0 vs = vs.sum % 2 ^ 32 := by
  obtain ⟨v, rest, rfl⟩ := List.exists_cons_of_ne_nil ne
  exact foldl_reduceApply_add rest v (h v List.mem_cons_self)

theorem combineParts_sum {c : Coll} {parts : List (List Nat)} {count : Nat} (op : c.op = 0) (fmt : c.fmt = 2) (ne : parts ≠ [])
    (h : ∀ p ∈ parts, ∀ v ∈ p, v < 2 ^ 32) :
    (combineParts c parts count).length = count ∧ ∀ i, i < count → (combineParts c parts count).getD i 0 = (parts.map (fun p => p.getD i 0)).sum % 2 ^ 32 := by
  have small : ∀ i, ∀ v ∈ parts.map (fun p => p.getD i 0), v < 2 ^ 32 := by
    intro i v hv
    obtain ⟨p, hp, rfl⟩ := List.mem_map.mp hv
    by_cases hi : i < p.length
    · rw [List.getD_eq_getElem _ _ hi]
      exact h p hp _ (List.getElem_mem hi)
    · rw [List.getD_eq_default _ _ (Nat.le_of_not_lt hi)]
      decide
  have eq : combineParts c parts count = (List.range count).map (fun i => combineCodes 9 0 (parts.map (fun p => p.getD i 0))) := by
    simp [combineParts, op, fmt]
  rw [eq]
  refine ⟨by simp, fun i hi => ?_⟩
  rw [List.getD_eq_getElem _ _ (by simpa using hi), List.getElem_map, List.getElem_range]
  exact combineCodes_add (by simpa using ne) (small i)

theorem mem_insertPair {p x : Pair} {l : List Pair} (h : x ∈ insertPair p l) : x = p ∨ x ∈ l := by
  induction l with
  | nil => exact .inl (by simpa [insertPair] using h)
  | cons q qs ih =>
    unfold insertPair at h
    split at h
    · simpa using h
    · rcases List.mem_cons.mp h with rfl | h
      · exact .inr List.mem_cons_self
      · exact (ih h).imp_right (List.mem_cons_of_mem q)

theorem mem_foldl_insertPair {x : Pair} (ps a : List Pair) (h : x ∈ ps.foldl (fun a p => insertPair p a) a) : x ∈ ps ∨ x ∈ a := by
  induction ps generalizing a with
  | nil => exact .inr h
  | cons p ps ih =>
    rcases ih _ h with h | h
    · exact .inl (List.mem_cons_of_mem p h)
    · rcases mem_insertPair h with rfl | h
      · exact .inl List.mem_cons_self
      · exact .inr h

theorem mem_dedupe {x : Pair} (ps : List Pair) (seen : List Nat) (h : x ∈ dedupe ps seen) : x ∈ ps := by
  induction ps generalizing seen with
  | nil => exact h
  | cons p ps ih =>
    unfold dedupe at h
    split at h
    · exact List.mem_cons_of_mem p (ih _ h)
    · rcases List.mem_cons.mp h with rfl | h
      · exact List.mem_cons_self
      · exact List.mem_cons_of_mem p (ih _ h)

/-- The best of some pairs are pairs among them. -/
theorem mem_bestPairs {k : Nat} {ps : List Pair} {x : Pair} (h : x ∈ bestPairs k ps) : x ∈ ps := by
  rcases mem_foldl_insertPair ps [] (mem_dedupe _ _ (List.mem_of_mem_take h)) with h | h
  · exact h
  · simp at h

theorem combineParts_topK {c : Coll} (parts : List (List Nat)) (count : Nat) (op : c.op = 3) :
    (combineParts c parts count).length = c.k ∧ ∀ v ∈ combineParts c parts count, v = pairCode noPair ∨ ∃ p ∈ parts, ∃ w ∈ p, v = pairCode (pairOf w) := by
  have few : (bestPairs c.k ((parts.flatMap id).map pairOf)).length ≤ c.k := List.length_take_le _ _
  unfold combineParts
  rw [if_pos op]
  refine ⟨by rw [List.length_map, List.length_append, List.length_replicate]; omega, fun v hv => ?_⟩
  obtain ⟨x, hx, rfl⟩ := List.mem_map.mp hv
  rcases List.mem_append.mp hx with hx | hx
  · obtain ⟨w, hw, rfl⟩ := List.mem_map.mp (mem_bestPairs hx)
    obtain ⟨p, hp, hw⟩ := List.mem_flatMap.mp hw
    exact .inr ⟨p, hp, w, hw, rfl⟩
  · exact .inl (congrArg pairCode (List.eq_of_mem_replicate hx))

/-! ### Collectives of the state -/

section Colls

variable {s : State} {i : Nat} {c : Coll}

theorem State.coll?_id (h : s.coll? i = some c) : c.id = i := by
  simpa using List.find?_some h

theorem State.coll?_updColl {g : Coll → Coll} (hg : ∀ x, (g x).id = x.id) (h : s.coll? i = some c) : (s.updColl i g).coll? i = some (g c) := by
  have found := find?_map_upd (fun x : Coll => x.id == i) g s.colls (fun x => by simp only [hg])
  exact found.trans (congrArg (Option.map g) h)

end Colls

/-! ### The rows of a contribution (02 R50) -/

section Rows

variable {s : State} {d : ContribDesc} {c : Coll} {topK whole : Bool} {vs : List Nat}

/-- An open, a contribution or a close keeps a collective from its idle time-out. -/
def State.touchColl (s : State) (i : Nat) : State := s.updColl i (fun c => { c with last := s.aclk })

theorem State.coll?_touchColl {i : Nat} (h : s.coll? i = some c) : (s.touchColl i).coll? i = some { c with last := s.aclk } :=
  State.coll?_updColl (by intro; rfl) h

theorem State.reduceRow_unknown (h : s.coll? d.coll = none) : s.reduceRow d topK whole vs = (3, s) := by
  simp [State.reduceRow, h]

theorem State.reduceRow_stranger (h : s.coll? d.coll = some c) (none : ∀ x ∈ c.dests, x.contrib ≠ d.contrib) : s.reduceRow d topK whole vs = (3, s) := by
  have stranger : c.dests.any (fun x => x.contrib == d.contrib) = false := List.any_eq_false.mpr fun x hx => by simpa using none x hx
  simp [State.reduceRow, h, stranger]

/-- The chunk that a contribution belongs to, where the reducer holds it. -/
def Coll.chunkOf (c : Coll) (d : ContribDesc) : Option CollChunk := c.chunks.find? (fun k => k.round == d.round && k.offset == d.offset)

/-- What makes a contribution unfit for its collective (status 4). -/
def Coll.unfit (c : Coll) (d : ContribDesc) (topK whole : Bool) : Prop :=
  !whole ∨ d.status ≠ 0 ∨ d.ncontrib ≠ c.ncontrib ∨ d.op ≠ c.op ∨ d.fmt ≠ c.fmt ∨ (topK != (c.op == 3)) ∨ (c.op = 3 ∧ d.k ≠ c.k) ∨
    d.count = 0 ∨ c.count < d.offset + d.count ∨ 4096 < d.count * elemBytes d.fmt ∨ (c.chunkOf d).any (fun k => k.count != d.count)

theorem State.reduceRow_unfit (h : s.coll? d.coll = some c) (opener : ∃ x ∈ c.dests, x.contrib = d.contrib) (bad : c.unfit d topK whole) :
    s.reduceRow d topK whole vs = (4, s.touchColl c.id) := by
  unfold State.reduceRow
  rw [h]
  dsimp only
  rw [if_neg (by simpa using opener)]
  exact if_pos bad

/-- The rows of a contribution that fits and is not of the round before the oldest. -/
theorem State.reduceRow_fit (h : s.coll? d.coll = some c) (opener : ∃ x ∈ c.dests, x.contrib = d.contrib) (good : ¬ c.unfit d topK whole)
    (redelivers : roundAfter (c.n.getD d.round) d.round ≠ 2 ^ 32 - 1) :
    s.reduceRow d topK whole vs =
      if 2 ^ 31 ≤ roundAfter (c.n.getD d.round) d.round then (6, s.touchColl c.id)
      else if 1 < roundAfter (c.n.getD d.round) d.round then (2, s.touchColl c.id)
      else if (c.chunkOf d).any (fun k => k.parts.any (fun p => p.1 == d.contrib)) then (1, s.touchColl c.id)
      else if (c.chunkOf d).isNone ∧ s.freeBit 40 then (5, s.touchColl c.id)
      else (0, (s.touchColl c.id).acceptPart c d vs) := by
  unfold State.reduceRow
  rw [h]
  dsimp only
  rw [if_neg (by simpa using opener)]
  refine (if_neg good).trans ?_
  rw [if_neg redelivers]
  rfl

section Statuses

variable (h : s.coll? d.coll = some c) (opener : ∃ x ∈ c.dests, x.contrib = d.contrib) (good : ¬ c.unfit d topK whole)
include h opener good

theorem State.reduceRow_past (past : 2 ^ 31 ≤ roundAfter (c.n.getD d.round) d.round) (low : roundAfter (c.n.getD d.round) d.round < 2 ^ 32 - 1) :
    s.reduceRow d topK whole vs = (6, s.touchColl c.id) := by
  rw [State.reduceRow_fit h opener good (by omega), if_pos past]

theorem State.reduceRow_far (far : 1 < roundAfter (c.n.getD d.round) d.round) (low : roundAfter (c.n.getD d.round) d.round < 2 ^ 31) :
    s.reduceRow d topK whole vs = (2, s.touchColl c.id) := by
  rw [State.reduceRow_fit h opener good (by omega), if_neg (by omega), if_pos far]

/-- A contribution of the oldest round or the next. -/
theorem State.reduceRow_near (near : roundAfter (c.n.getD d.round) d.round ≤ 1) :
    s.reduceRow d topK whole vs =
      if (c.chunkOf d).any (fun k => k.parts.any (fun p => p.1 == d.contrib)) then (1, s.touchColl c.id)
      else if (c.chunkOf d).isNone ∧ s.freeBit 40 then (5, s.touchColl c.id)
      else (0, (s.touchColl c.id).acceptPart c d vs) := by
  rw [State.reduceRow_fit h opener good (by omega), if_neg (by omega), if_neg (by omega)]

end Statuses

end Rows

/-! ### Accepting a contribution into its chunk -/

section Accept

variable {s : State} {c : Coll} {d : ContribDesc} {vs : List Nat}

/-- A chunk with one more contribution put among the collective's chunks. -/
def Coll.putChunk (k : CollChunk) (d : ContribDesc) (c : Coll) : Coll :=
  { c with n := c.n.or (some d.round), chunks := k :: c.chunks.filter (fun x => !(x.round == d.round && x.offset == d.offset)) }

/-- The chunk of a contribution with its parts and result. -/
def chunkWith (d : ContribDesc) (now : List (Nat × List Nat)) (res : Option (List Nat)) : CollChunk := ⟨d.round, d.offset, d.count, now, res⟩

/-- What the chunk holds with this contribution. -/
def Coll.partsWith (c : Coll) (d : ContribDesc) (vs : List Nat) : List (Nat × List Nat) := insertPart (d.contrib, vs) (Claims.partsSoFar c d)

theorem partsSoFar_eq : Claims.partsSoFar c d = ((c.chunkOf d).map (fun k => k.parts)).getD [] := by
  unfold Claims.partsSoFar Coll.chunkOf
  cases c.chunks.find? (fun k => k.round == d.round && k.offset == d.offset) <;> rfl

theorem Coll.chunkOf_named {k : CollChunk} (h : c.chunkOf d = some k) : k ∈ c.chunks ∧ k.round = d.round ∧ k.offset = d.offset :=
  ⟨List.mem_of_find?_eq_some h, by simpa using List.find?_some h⟩

theorem Coll.chunkOf_eq_none : c.chunkOf d = none ↔ ∀ k ∈ c.chunks, ¬ (k.round = d.round ∧ k.offset = d.offset) := by
  simp [Coll.chunkOf, List.find?_eq_none]

/-- The chunk of a contribution as it was, or an empty one. -/
theorem Coll.chunkOf_getD (fits : ∀ k ∈ c.chunks, k.round = d.round → k.offset = d.offset → k.count = d.count) :
    ∃ r, (c.chunkOf d).getD ⟨d.round, d.offset, d.count, [], none⟩ = chunkWith d (Claims.partsSoFar c d) r := by
  rw [partsSoFar_eq]
  cases h : c.chunkOf d with
  | none => exact ⟨none, rfl⟩
  | some k =>
    obtain ⟨mem, round, offset⟩ := Coll.chunkOf_named h
    exact ⟨k.result, by simp [chunkWith, ← round, ← offset, ← fits k mem round offset]⟩

/-- A chunk that still waits for contributors is put among the others. -/
theorem State.acceptPart_partial (fits : ∀ k ∈ c.chunks, k.round = d.round → k.offset = d.offset → k.count = d.count)
    (few : (c.partsWith d vs).length < c.ncontrib) :
    s.acceptPart c d vs = s.updColl c.id (Coll.putChunk (chunkWith d (c.partsWith d vs) none) d) := by
  obtain ⟨r, old⟩ := Coll.chunkOf_getD fits
  have open_ : decide (c.ncontrib ≤ (insertPart (d.contrib, vs) (chunkWith d (Claims.partsSoFar c d) r).parts).length) = false :=
    decide_eq_false (Nat.not_le.mpr few)
  unfold State.acceptPart
  rw [show c.chunks.find? _ = c.chunkOf d from rfl, old]
  dsimp only
  rw [open_]
  rfl

/-- The result of a full chunk. -/
def Coll.resultWith (c : Coll) (d : ContribDesc) (vs : List Nat) : List Nat := combineParts c ((c.partsWith d vs).map (fun q => q.2)) d.count

def Coll.fullChunk (c : Coll) (d : ContribDesc) (vs : List Nat) : CollChunk := chunkWith d (c.partsWith d vs) (some (c.resultWith d vs))

/-- The last contribution combines its chunk, which is delivered; complete rounds then let the next begin. -/
theorem State.acceptPart_full (fits : ∀ k ∈ c.chunks, k.round = d.round → k.offset = d.offset → k.count = d.count)
    (all : c.ncontrib ≤ (c.partsWith d vs).length) :
    s.acceptPart c d vs = (c.dests.foldl (fun s x => s.deliver c (c.fullChunk d vs) x) (s.updColl c.id (Coll.putChunk (c.fullChunk d vs) d))).updColl c.id (Coll.advance 3) := by
  obtain ⟨r, old⟩ := Coll.chunkOf_getD fits
  have full : decide (c.ncontrib ≤ (insertPart (d.contrib, vs) (chunkWith d (Claims.partsSoFar c d) r).parts).length) = true :=
    decide_eq_true all
  unfold State.acceptPart
  rw [show c.chunks.find? _ = c.chunkOf d from rfl, old]
  dsimp only
  rw [full]
  rfl

/-! ### Delivery (02 R53) -/

/-- A destination with an empty range gets nothing. -/
theorem State.deliver_none {k : CollChunk} {x : CollDest} (h : x.count = 0) : s.deliver c k x = s := by
  unfold State.deliver
  exact if_pos (by omega)

theorem State.foldl_deliver_none {k : CollChunk} (l : List CollDest) (h : ∀ x ∈ l, x.count = 0) : l.foldl (fun s x => s.deliver c k x) s = s := by
  induction l with
  | nil => rfl
  | cons x l ih =>
    rw [List.foldl_cons, State.deliver_none (h x List.mem_cons_self)]
    exact ih fun y hy => h y (List.mem_cons_of_mem x hy)

/-- A result that lies in the range of a destination at another device goes there whole. -/
theorem State.deliver_whole {x : CollDest} {now : List (Nat × List Nat)} {res : List Nat} (length : res.length = d.count) (some_ : d.count ≠ 0) (far : x.coord ≠ s.here)
    (lo : x.off ≤ d.offset) (hi : d.offset + d.count ≤ x.off + x.count) :
    s.deliver c (chunkWith d now (some res)) x = s.enqueueD 11 c.tc x.coord x.ctx (controlWord 2 0 c.id 0 ++
      (⟨c.id, d.round, 0, c.ncontrib, c.op, c.fmt, 0, d.offset, d.count, c.k⟩ : ContribDesc).bytes ++ elemsBytes c.fmt res) := by
  have low : max d.offset x.off = d.offset := by omega
  have high : min (d.offset + d.count) (x.off + x.count) = d.offset + d.count := by omega
  have taken : res.take d.count = res := by rw [← length, List.take_length]
  unfold State.deliver
  simp only [chunkWith, Option.getD_some, length, low, high]
  rw [if_neg (by omega), if_neg fun h => far h.2]
  simp [taken]

/-! ### Complete rounds (02 R50) -/

@[simp] theorem Coll.advance_id (n : Nat) (c : Coll) : (c.advance n).id = c.id := by
  induction n generalizing c with
  | zero => rfl
  | succ n ih =>
    unfold Coll.advance
    split
    · rfl
    · split
      · exact ih _
      · rfl

theorem Coll.advance_incomplete {n : Nat} (fuel : Nat) (h : c.n = some n) (open_ : c.complete n = false) : c.advance fuel = c := by
  cases fuel with
  | zero => rfl
  | succ fuel => simp [Coll.advance, h, open_]

theorem Coll.advance_complete {n : Nat} (fuel : Nat) (h : c.n = some n) (done : c.complete n = true) :
    c.advance (fuel + 1) = Coll.advance fuel { c with n := some ((n + 1) % 2 ^ 32), chunks := c.chunks.filter (fun k => decide (roundAfter n k.round ≤ 2)) } := by
  simp [Coll.advance, h, done]

/-- With one chunk released a round is complete when that chunk is of it and has every element. -/
theorem Coll.complete_one {k : CollChunk} {rest : List CollChunk} (h : c.chunks = k :: rest) (released : k.result.isSome = true)
    (others : ∀ x ∈ rest, x.result = none) (r : Nat) : c.complete r = decide (c.count ≤ if k.round = r then k.count else 0) := by
  have none : rest.filter (fun k => k.round == r && k.result.isSome) = [] := List.filter_eq_nil_iff.mpr fun x hx => by simp [others x hx]
  unfold Coll.complete
  rw [h, List.filter_cons, none]
  by_cases e : k.round = r <;> simp [e, released]

theorem roundAfter_self (r : Nat) : roundAfter r r = 0 := by
  unfold roundAfter
  omega

theorem roundAfter_eq_zero {n r : Nat} (hn : n < 2 ^ 32) (hr : r < 2 ^ 32) (h : roundAfter n r = 0) : n = r := by
  unfold roundAfter at h
  omega

/-- A collective whose only released chunk is the one just put, as the rounds advance: only that chunk's round can be complete, and the chunk stays. -/
theorem Coll.advance_putChunk {k : CollChunk} (hk : k.round = d.round ∧ k.count = d.count) (released : k.result.isSome = true) (others : ∀ x ∈ c.chunks, x.result = none)
    (pos : d.count ≠ 0) (le : d.count ≤ c.count) (hr : d.round < 2 ^ 32) (small : ∀ n, c.n = some n → n < 2 ^ 32)
    (cases_ : d.count < c.count ∨ roundAfter (c.n.getD d.round) d.round = 0) :
    k ∈ ((c.putChunk k d).advance 3).chunks ∧ (d.count < c.count → ((c.putChunk k d).advance 3).n = c.n.or (some d.round)) ∧
      (d.count = c.count → ((c.putChunk k d).advance 3).n = some ((d.round + 1) % 2 ^ 32)) := by
  obtain ⟨round, count⟩ := hk
  have filtered : ∀ x ∈ c.chunks.filter (fun x => !(x.round == d.round && x.offset == d.offset)), x.result = none := fun x hx => others x (List.mem_filter.mp hx).1
  have complete := Coll.complete_one (c := c.putChunk k d) rfl released filtered
  have n : (c.putChunk k d).n = some (c.n.getD d.round) := by
    cases h : c.n <;> simp [Coll.putChunk, h]
  have same : (c.putChunk k d).count = c.count := rfl
  by_cases part : d.count < c.count
  · have open_ : (c.putChunk k d).complete (c.n.getD d.round) = false := by
      rw [complete, same, count]
      split <;> exact decide_eq_false (by omega)
    rw [Coll.advance_incomplete 3 n open_]
    exact ⟨List.mem_cons_self, fun _ => rfl, fun e => absurd e (by omega)⟩
  · have oldest : c.n.getD d.round = d.round := by
      have lt : c.n.getD d.round < 2 ^ 32 := by
        cases h : c.n with
        | none => exact hr
        | some n => exact small n h
      exact roundAfter_eq_zero lt hr (cases_.resolve_left part)
    rw [oldest] at n
    have done : (c.putChunk k d).complete d.round = true := by
      rw [complete, same, if_pos round, count]
      exact decide_eq_true (by omega)
    have keeps : decide (roundAfter d.round k.round ≤ 2) = true := by
      rw [round, roundAfter_self]
      rfl
    have chunks : (c.putChunk k d).chunks.filter (fun k => decide (roundAfter d.round k.round ≤ 2)) =
        k :: (c.chunks.filter (fun x => !(x.round == d.round && x.offset == d.offset))).filter (fun k => decide (roundAfter d.round k.round ≤ 2)) :=
      List.filter_cons_of_pos keeps
    rw [Coll.advance_complete 2 n done, chunks, Coll.advance_incomplete 2 rfl]
    · exact ⟨List.mem_cons_self, fun lt => absurd lt part, fun _ => rfl⟩
    · rw [Coll.complete_one rfl released fun x hx => filtered x (List.mem_filter.mp hx).1]
      rw [if_neg (by omega)]
      exact decide_eq_false (by simp [Coll.putChunk]; omega)

end Accept

/-! ### Opens and closes (02 R57) -/

section Opening

variable {s : State} {coll contrib r : Nat} {c : Coll}

theorem State.openAt_full (h : s.coll? coll = none) (full : s.freeBit 41 = true) : s.openAt coll contrib r = (2, s) := by
  simp [State.openAt, h, full]

theorem State.openAt_new (h : s.coll? coll = none) (room : s.freeBit 41 = false) :
    s.openAt coll contrib r = (0, { s with colls := s.colls ++ [{ collOf coll r s.aclk with dests := [destOf contrib r] }] }) := by
  simp only [State.openAt, h, room]
  rfl

/-- An open record has the fields of a collective. -/
def Coll.sameFields (c new : Coll) : Prop :=
  c.ncontrib = new.ncontrib ∧ c.op = new.op ∧ c.fmt = new.fmt ∧ c.tc = new.tc ∧ c.count = new.count ∧ c.k = new.k

theorem Coll.not_sameFields {c new : Coll} :
    ¬ c.sameFields new ↔ c.ncontrib ≠ new.ncontrib ∨ c.op ≠ new.op ∨ c.fmt ≠ new.fmt ∨ c.tc ≠ new.tc ∨ c.count ≠ new.count ∨ c.k ≠ new.k := by
  simp only [Coll.sameFields, not_and_or, ne_eq]

theorem State.openAt_mismatch (h : s.coll? coll = some c) (other : ¬ c.sameFields (collOf coll r s.aclk)) :
    s.openAt coll contrib r = (1, s.touchColl coll) := by
  unfold State.openAt
  rw [h]
  exact if_pos (Coll.not_sameFields.mp other)

/-- A collective that one more contributor has opened, or the same one anew. -/
def Coll.joined (c : Coll) (contrib r aclk : Nat) : Coll :=
  { c with
    dests := c.dests.filter (fun d => d.contrib != contrib) ++ [destOf contrib r]
    closed := c.closed.filter (fun k => k != contrib)
    last := aclk }

theorem State.openAt_join (h : s.coll? coll = some c) (same : c.sameFields (collOf coll r s.aclk)) :
    s.openAt coll contrib r = (0, s.updColl coll (fun c => c.joined contrib r s.aclk)) := by
  unfold State.openAt
  rw [h]
  exact if_neg fun other => Coll.not_sameFields.mpr other same

theorem State.closeAt_unknown (h : s.coll? coll = none) : s.closeAt coll contrib = (3, s) := by
  simp [State.closeAt, h]

/-- The closed contributors of a collective with one more. -/
def Coll.closedWith (c : Coll) (contrib : Nat) : List Nat := c.closed.filter (fun k => k != contrib) ++ [contrib]

theorem Coll.mem_closedWith {x : Nat} : x ∈ c.closedWith contrib ↔ x = contrib ∨ x ∈ c.closed := by
  by_cases e : x = contrib <;> simp [Coll.closedWith, e]

/-- The last opener's close frees the collective. -/
theorem State.closeAt_last (h : s.coll? coll = some c) (last : ∀ x ∈ c.dests, x.contrib = contrib ∨ x.contrib ∈ c.closed) :
    s.closeAt coll contrib = (0, { s with colls := s.colls.filter (fun c => c.id != coll) }) := by
  have all : c.dests.all (fun d => (c.closedWith contrib).contains d.contrib) = true :=
    List.all_eq_true.mpr fun x hx => List.contains_iff_mem.mpr (Coll.mem_closedWith.mpr (last x hx))
  unfold State.closeAt
  rw [h]
  exact if_pos all

theorem State.closeAt_noted (h : s.coll? coll = some c) (left : ∃ x ∈ c.dests, x.contrib ≠ contrib ∧ x.contrib ∉ c.closed) :
    s.closeAt coll contrib = (0, s.updColl coll (fun y => { y with closed := c.closedWith contrib, last := s.aclk })) := by
  obtain ⟨x, hx, other, open_⟩ := left
  have some_ : ¬ c.dests.all (fun d => (c.closedWith contrib).contains d.contrib) = true := fun all =>
    (Coll.mem_closedWith.mp (List.contains_iff_mem.mp (List.all_eq_true.mp all x hx))).elim other open_
  unfold State.closeAt
  rw [h]
  exact if_neg some_

theorem State.coll?_filter (s : State) (i : Nat) : ({ s with colls := s.colls.filter (fun c => c.id != i) } : State).coll? i = none :=
  List.find?_eq_none.mpr fun x hx => by simpa using (List.mem_filter.mp hx).2

end Opening

/-! ### The clauses of O51 and the obligation -/

section Clauses

variable {s : State} {i : Nat} {p : Port} {f : WireFlit} {c : Coll} {topK : Bool}

/-- The elements of a contribution came in full. -/
def wholeContribution (f : WireFlit) : Bool := decide ((Claims.contribOf f).count * elemBytes (Claims.contribOf f).fmt ≤ (f.payload.drop 32).length)

/-- The acknowledgement of a contribution with a status, enqueued toward its source. -/
def State.acknowledge (u : State) (f : WireFlit) (st : Nat) : State :=
  u.enqueueD 10 (flitTc f) (flitSrc f) 0 ({ Claims.contribOf f with status := st } : ContribDesc).bytes

theorem contributed_discards (t : State) (top : topK = true) (reserved : reservedBits (Claims.contribOf f) (Claims.contribElems f) = true) :
    contributed topK f f.payload t = t.discardFlit :=
  if_pos (Bool.and_eq_true_iff.mpr ⟨top, reserved⟩)

/-- A contribution without a reserved bit is acknowledged with the status of its row. -/
theorem contributed_row {t u : State} {st : Nat} (clean : topK = false ∨ reservedBits (Claims.contribOf f) (Claims.contribElems f) = false)
    (row : t.reduceRow (Claims.contribOf f) topK (wholeContribution f) (Claims.contribElems f) = (st, u)) :
    contributed topK f f.payload t = u.acknowledge f st := by
  have no : ¬ (topK && reservedBits (Claims.contribOf f) (Claims.contribElems f)) = true := by
    rcases clean with e | e <;> simp [e]
  unfold contributed
  refine (if_neg no).trans ?_
  exact congrArg (fun x : Nat × State => x.2.acknowledge f x.1) row

theorem fits_not_unfit (h : Claims.Fits s f (Claims.contribOf f) c topK) : ¬ c.unfit (Claims.contribOf f) topK (wholeContribution f) := by
  obtain ⟨-, -, whole, ⟨status, ncontrib, op, fmt, top, k⟩, ⟨count, le, bytes⟩, -, chunk⟩ := h
  have kind : (topK != (c.op == 3)) = false := by
    by_cases e : c.op = 3
    · simp [e, top.mpr e]
    · simp [e, mt top.mp e]
  have known : ((c.chunkOf (Claims.contribOf f)).any fun k => k.count != (Claims.contribOf f).count) = false := by
    cases h : c.chunkOf (Claims.contribOf f) with
    | none => rfl
    | some x =>
      obtain ⟨mem, round, offset⟩ := Coll.chunkOf_named h
      simp [chunk x mem round offset]
  have came : (!wholeContribution f) = false := congrArg not (decide_eq_true whole)
  unfold Coll.unfit
  rw [kind, known, came]
  rintro (bad | bad | bad | bad | bad | bad | bad | bad | bad | bad | bad)
  · exact Bool.false_ne_true bad
  · exact bad status
  · exact bad ncontrib
  · exact bad op
  · exact bad fmt
  · exact Bool.false_ne_true bad
  · exact bad.2 (k bad.1)
  · exact count bad
  · exact absurd le (Nat.not_le.mpr bad)
  · exact absurd bytes (Nat.not_le.mpr bad)
  · exact Bool.false_ne_true bad

/-- The collective after it has accepted a part of a chunk that is not full. -/
theorem acceptPart_partial_coll {d : ContribDesc} {vs : List Nat} (h : s.coll? d.coll = some c)
    (fits : ∀ k ∈ c.chunks, k.round = d.round → k.offset = d.offset → k.count = d.count) (few : (c.partsWith d vs).length < c.ncontrib) :
    ∃ c', ((s.touchColl c.id).acceptPart c d vs).coll? d.coll = some c' ∧ c'.n = c.n.or (some d.round) ∧ chunkWith d (c.partsWith d vs) none ∈ c'.chunks := by
  rw [State.acceptPart_partial fits few, State.coll?_id h]
  exact ⟨_, State.coll?_updColl (by intro; rfl) (State.coll?_touchColl h), rfl, List.mem_cons_self⟩

theorem acceptPart_full_coll {d : ContribDesc} {vs : List Nat} (h : s.coll? d.coll = some c)
    (fits : ∀ k ∈ c.chunks, k.round = d.round → k.offset = d.offset → k.count = d.count) (all : c.ncontrib ≤ (c.partsWith d vs).length)
    (others : ∀ k ∈ c.chunks, k.result = none) (pos : d.count ≠ 0) (le : d.count ≤ c.count) (hr : d.round < 2 ^ 32) (small : ∀ n, c.n = some n → n < 2 ^ 32)
    (cases_ : d.count < c.count ∨ roundAfter (c.n.getD d.round) d.round = 0) (nobody : ∀ x ∈ c.dests, x.count = 0) :
    ∃ c', ((s.touchColl c.id).acceptPart c d vs).coll? d.coll = some c' ∧ c.fullChunk d vs ∈ c'.chunks ∧
      (d.count < c.count → c'.n = c.n.or (some d.round)) ∧ (d.count = c.count → c'.n = some ((d.round + 1) % 2 ^ 32)) := by
  have advanced := Coll.advance_putChunk (c := { c with last := s.aclk }) (k := c.fullChunk d vs) (d := d) ⟨rfl, rfl⟩ rfl others pos le hr small cases_
  rw [State.acceptPart_full fits all, State.foldl_deliver_none _ nobody, State.coll?_id h]
  have put := State.coll?_updColl (g := Coll.putChunk (c.fullChunk d vs) d) (by intro; rfl) (State.coll?_touchColl h)
  exact ⟨_, State.coll?_updColl (Coll.advance_id 3) put, advanced⟩

theorem combineParts_length (parts : List (List Nat)) (count : Nat) (op : c.op ≠ 3) : (combineParts c parts count).length = count := by
  simp [combineParts, op]

/-- A full chunk whose one destination at another device takes all of it: its result waits at that device's port. -/
theorem acceptPart_full_sent {d : ContribDesc} {vs : List Nat} {x : CollDest} {j : Nat} {q : Port} {st : Nat}
    (fits : ∀ k ∈ c.chunks, k.round = d.round → k.offset = d.offset → k.count = d.count) (all : c.ncontrib ≤ (c.partsWith d vs).length)
    (op : c.op ≠ 3) (pos : d.count ≠ 0) (dests : c.dests = [x]) (far : x.coord ≠ s.here) (lo : x.off ≤ d.offset) (hi : d.offset + d.count ≤ x.off + x.count)
    (hj : s.portFor x.coord c.tc x.ctx = some j) (hq : s.port? j = some q) :
    ∃ y, (((s.touchColl c.id).acceptPart c d vs).acknowledge f st).port? j = some y ∧ ∀ g ∈ flitsOf 11 c.tc x.coord s.here x.ctx (controlWord 2 0 c.id 0 ++
      (⟨c.id, d.round, 0, c.ncontrib, c.op, c.fmt, 0, d.offset, d.count, c.k⟩ : ContribDesc).bytes ++ elemsBytes c.fmt (c.resultWith d vs)) none, g ∈ y.queue := by
  rw [State.acceptPart_full fits all, dests, List.foldl_cons, List.foldl_nil, Coll.fullChunk,
    State.deliver_whole (s := (s.touchColl c.id).updColl c.id _) (res := c.resultWith d vs) (combineParts_length _ _ op) pos far lo hi]
  have sent := State.enqueueD_queue ((s.touchColl c.id).updColl c.id (Coll.putChunk (c.fullChunk d vs) d)) 11 c.tc x.coord x.ctx (controlWord 2 0 c.id 0 ++
      (⟨c.id, d.round, 0, c.ncontrib, c.op, c.fmt, 0, d.offset, d.count, c.k⟩ : ContribDesc).bytes ++ elemsBytes c.fmt (c.resultWith d vs)) hj hq
  obtain ⟨y, port, keeps⟩ := State.enqueueD_keeps_queue (State.updColl _ c.id (Coll.advance 3)) 10 (flitTc f) (flitSrc f) 0
    ({ Claims.contribOf f with status := st } : ContribDesc).bytes sent
  exact ⟨y, port, fun g hg => keeps g (List.mem_append_right _ hg)⟩

/-- The statuses of a contribution that its collective fits, and what it makes of the collective. -/
theorem contribution_fits {instr : Instr} (acts : exec instr s = .next (contributed topK f f.payload (Claims.tookFlit s i f)))
    (clean : topK = false ∨ reservedBits (Claims.contribOf f) (Claims.contribElems f) = false) (h : Claims.Fits s f (Claims.contribOf f) c topK) :
    let t := Claims.tookFlit s i f
    let d := Claims.contribOf f
    let vs := Claims.contribElems f
    let acked := fun (u : State) (st : Nat) => exec instr s = .next (u.acknowledge f st)
    let u := t.touchColl c.id
    let after := roundAfter (c.n.getD d.round) d.round
    (2 ^ 31 ≤ after → after < 2 ^ 32 - 1 → acked u 6) ∧ (1 < after → after < 2 ^ 31 → acked u 2) ∧
    (after ≤ 1 → (∃ q ∈ Claims.partsSoFar c d, q.1 = d.contrib) → acked u 1) ∧
    (after ≤ 1 → (∀ k ∈ c.chunks, ¬ (k.round = d.round ∧ k.offset = d.offset)) → s.freeBit 40 = true → acked u 5) ∧
    (after ≤ 1 → (∀ q ∈ Claims.partsSoFar c d, q.1 ≠ d.contrib) → ((∃ k ∈ c.chunks, k.round = d.round ∧ k.offset = d.offset) ∨ s.freeBit 40 = false) →
      acked (u.acceptPart c d vs) 0) := by
  intro t d vs acked u after
  have acknowledged : ∀ {st : Nat} {w : State}, t.reduceRow d topK (wholeContribution f) vs = (st, w) → acked w st :=
    fun row => acts.trans (congrArg device (contributed_row clean row))
  have good := fits_not_unfit h
  have repeated : (c.chunkOf d).any (fun k => k.parts.any (fun p => p.1 == d.contrib)) = true ↔ ∃ q ∈ Claims.partsSoFar c d, q.1 = d.contrib := by
    rw [partsSoFar_eq]
    cases c.chunkOf d <;> simp
  refine ⟨fun past low => acknowledged (State.reduceRow_past h.coll h.opener good past low),
    fun far low => acknowledged (State.reduceRow_far h.coll h.opener good far low),
    fun near again => acknowledged ?_, fun near none full => acknowledged ?_, fun near new room => acknowledged ?_⟩ <;>
    rw [State.reduceRow_near (s := t) (d := d) (vs := vs) h.coll h.opener good near]
  · exact if_pos (repeated.mpr again)
  · rw [if_neg (by simp [Coll.chunkOf_eq_none.mpr none]), if_pos ⟨by rw [Coll.chunkOf_eq_none.mpr none]; rfl, full⟩]
  · rw [if_neg fun again => ?_, if_neg fun none => ?_]
    · obtain ⟨none, full⟩ := none
      rcases room with ⟨k, hk, e⟩ | room
      · exact Coll.chunkOf_eq_none.mp (Option.isNone_iff_eq_none.mp none) k hk e
      · exact Bool.false_ne_true (room.symm.trans full)
    · obtain ⟨q, hq, e⟩ := repeated.mp again
      exact new q hq e

theorem contribDesc_round_lt (b : Nat) : (contribDesc b).round < 2 ^ 32 := Nat.mod_lt _ (by decide)

/-- The clauses of a contribution that its collective fits, where it is accepted. -/
theorem contribution_accepted {instr : Instr} (acts : exec instr s = .next (contributed topK f f.payload (Claims.tookFlit s i f)))
    (clean : topK = false ∨ reservedBits (Claims.contribOf f) (Claims.contribElems f) = false) (h : Claims.Fits s f (Claims.contribOf f) c topK)
    (near : roundAfter (c.n.getD (Claims.contribOf f).round) (Claims.contribOf f).round ≤ 1)
    (new : ∀ q ∈ Claims.partsSoFar c (Claims.contribOf f), q.1 ≠ (Claims.contribOf f).contrib)
    (room : (∃ k ∈ c.chunks, k.round = (Claims.contribOf f).round ∧ k.offset = (Claims.contribOf f).offset) ∨ s.freeBit 40 = false) :
    let t := Claims.tookFlit s i f
    let d := Claims.contribOf f
    let acked := fun (u : State) (st : Nat) => exec instr s = .next (u.acknowledge f st)
    let now := c.partsWith d (Claims.contribElems f)
    (now.length < c.ncontrib → ∃ w c', acked w 0 ∧ w.mem = s.mem ∧ w.coll? d.coll = some c' ∧ c'.n = c.n.or (some d.round) ∧
      ⟨d.round, d.offset, d.count, now, none⟩ ∈ c'.chunks) ∧
    (c.ncontrib ≤ now.length → (∀ k ∈ c.chunks, k.result = none) → d.count < c.count ∨ roundAfter (c.n.getD d.round) d.round = 0 →
      let res := combineParts c (now.map (fun q => q.2)) d.count
      ((∀ x ∈ c.dests, x.count = 0) → ∃ w c', acked w 0 ∧ w.mem = s.mem ∧ w.coll? d.coll = some c' ∧ ⟨d.round, d.offset, d.count, now, some res⟩ ∈ c'.chunks ∧
        (d.count < c.count → c'.n = c.n.or (some d.round)) ∧ (d.count = c.count → c'.n = some ((d.round + 1) % 2 ^ 32))) ∧
      (∀ x j q, c.op ≠ 3 → c.dests = [x] → x.coord ≠ s.here → x.off ≤ d.offset → d.offset + d.count ≤ x.off + x.count →
        t.portFor x.coord c.tc x.ctx = some j → t.port? j = some q → ∃ w y, exec instr s = .next w ∧ w.port? j = some y ∧
          ∀ g ∈ flitsOf 11 c.tc x.coord s.here x.ctx (controlWord 2 0 c.id 0 ++
            (⟨c.id, d.round, 0, c.ncontrib, c.op, c.fmt, 0, d.offset, d.count, c.k⟩ : ContribDesc).bytes ++ elemsBytes c.fmt res) none, g ∈ y.queue)) := by
  intro t d acked now
  obtain ⟨-, -, -, -, accepted⟩ := contribution_fits acts clean h
  have acked0 : acked ((t.touchColl c.id).acceptPart c d (Claims.contribElems f)) 0 := accepted near new room
  have mem : ((t.touchColl c.id).acceptPart c d (Claims.contribElems f)).mem = s.mem := State.acceptPart_mem _ c d _
  obtain ⟨pos, le, -⟩ := h.range
  refine ⟨fun few => ?_, fun all others cases_ => ⟨fun nobody => ?_, fun x j q op dests far lo hi hj hq => ?_⟩⟩
  · obtain ⟨c', coll, n, chunk⟩ := acceptPart_partial_coll (s := t) h.coll h.chunk few
    exact ⟨_, c', acked0, mem, coll, n, chunk⟩
  · obtain ⟨c', coll, chunk, n⟩ := acceptPart_full_coll (s := t) h.coll h.chunk all others pos (by omega) (contribDesc_round_lt _) h.small cases_ nobody
    exact ⟨_, c', acked0, mem, coll, chunk, n⟩
  · obtain ⟨y, port, sent⟩ := acceptPart_full_sent (s := t) (f := f) (st := 0) h.chunk all op pos dests far lo hi hj hq
    exact ⟨_, y, acked0, port, sent⟩

/-- The faults of Table 2.9's fields that the elements' length is not part of. -/
theorem unfit_of_fields {d : ContribDesc} {whole : Bool}
    (bad : d.status ≠ 0 ∨ d.ncontrib ≠ c.ncontrib ∨ d.op ≠ c.op ∨ d.fmt ≠ c.fmt ∨ (topK = true ∧ c.op ≠ 3) ∨ (topK = false ∧ c.op = 3) ∨ (c.op = 3 ∧ d.k ≠ c.k) ∨
      d.count = 0 ∨ c.count < d.offset + d.count ∨ 4096 < d.count * elemBytes d.fmt) : c.unfit d topK whole := by
  have kind : (topK = true ∧ c.op ≠ 3) ∨ (topK = false ∧ c.op = 3) → (topK != (c.op == 3)) = true := by
    rintro (⟨rfl, op⟩ | ⟨rfl, op⟩) <;> simp [op]
  unfold Coll.unfit
  tauto

/-- A collective whose contributors have been silent for 2,400,000,000 fclk is freed. -/
theorem execCollectiveIdleTimeout_frees {front back : List Coll} (colls : s.colls = front ++ c :: back) (idle : fclkOf c.last + 2400000000 ≤ fclkOf s.aclk)
    (busy : ∀ x ∈ front, fclkOf s.aclk < fclkOf x.last + 2400000000) :
    execCollectiveIdleTimeout s = .next { s with colls := s.colls.filter (fun x => x.id != c.id) } := by
  have found : s.colls.find? (fun c => decide (fclkOf c.last + 2400000000 ≤ fclkOf s.aclk)) = some c := by
    rw [colls]
    exact find?_append_cons (decide_eq_true idle) fun x hx => decide_eq_false (Nat.not_le.mpr (busy x hx))
  unfold execCollectiveIdleTimeout
  rw [found]
  rfl

/-- Both kinds of contribution, by what they do once whole. -/
theorem contribution_acts {r : Instr × Nat × Bool} (hr : r ∈ [(Instr.reductionContribution i f, 8, false), (.topKContribution i f, 9, true)])
    (h : Claims.Arrives s i p f r.2.1) (ok : contribDescOk (flitNum f) = true) : exec r.1 s = .next (contributed r.2.2 f f.payload (Claims.tookFlit s i f)) := by
  rcases List.mem_pair.mp hr with rfl | rfl
  · exact congrArg device (takeFlit_arrives h (by decide) ok)
  · exact congrArg device (takeFlit_arrives h (by decide) ok)

/-- The open record that a COLLECTIVE_OPEN flit carries (02 Table 2.12). -/
def recordOf (f : WireFlit) : Nat := natOfBytes ((f.payload.drop 8).take 64)

/-- The answer to an open or a close, enqueued toward its source. -/
def State.answerControl (u : State) (f : WireFlit) (cc st : Nat) : State :=
  u.enqueueD 11 (flitTc f) (flitSrc f) 0 (controlWord cc st (wordColl (natOfBytes f.payload)) (wordContrib (natOfBytes f.payload)))

section Control

variable (h : Claims.Arrives s i p f 11) (ok : controlOk (flitNum f) = true)
include h ok

/-- An open whose record lies out of range is not answered. -/
theorem execCollectiveOpen_bad (cc : wordCc (natOfBytes f.payload) = 0) (bad : recordOk (wordContrib (natOfBytes f.payload)) (recordOf f) = false) :
    execCollectiveOpen i f s = .next (Claims.tookFlit s i f) :=
  congrArg device ((takeFlit_arrives h (by decide) (Bool.and_eq_true_iff.mpr ⟨ok, beq_iff_eq.mpr cc⟩)).trans (if_pos (congrArg not bad)))

/-- An open is answered with the status of its case. -/
theorem execCollectiveOpen_row {st : Nat} {u : State} (cc : wordCc (natOfBytes f.payload) = 0) (good : recordOk (wordContrib (natOfBytes f.payload)) (recordOf f) = true)
    (row : (Claims.tookFlit s i f).openAt (wordColl (natOfBytes f.payload)) (wordContrib (natOfBytes f.payload)) (recordOf f) = (st, u)) :
    execCollectiveOpen i f s = .next (u.answerControl f 1 st) := by
  refine congrArg device ((takeFlit_arrives h (by decide) (Bool.and_eq_true_iff.mpr ⟨ok, beq_iff_eq.mpr cc⟩)).trans ((if_neg ?_).trans ?_))
  · exact Bool.eq_false_iff.mp (congrArg not good)
  · exact congrArg (fun x : Nat × State => x.2.answerControl f 1 x.1) row

theorem execCollectiveClose_row {st : Nat} {u : State} (cc : wordCc (natOfBytes f.payload) = 3)
    (row : (Claims.tookFlit s i f).closeAt (wordColl (natOfBytes f.payload)) (wordContrib (natOfBytes f.payload)) = (st, u)) :
    execCollectiveClose i f s = .next (u.answerControl f 4 st) :=
  congrArg device ((takeFlit_arrives h (by decide) (Bool.and_eq_true_iff.mpr ⟨ok, beq_iff_eq.mpr cc⟩)).trans
    (congrArg (fun x : Nat × State => x.2.answerControl f 4 x.1) row))

/-- An open of a known collective: joined where the fields agree, status 1 where they do not. -/
theorem collectiveOpen_known (cc : wordCc (natOfBytes f.payload) = 0) (good : recordOk (wordContrib (natOfBytes f.payload)) (recordOf f) = true)
    (found : s.coll? (wordColl (natOfBytes f.payload)) = some c) :
    let coll := wordColl (natOfBytes f.payload)
    let contrib := wordContrib (natOfBytes f.payload)
    let new := collOf coll (recordOf f) s.aclk
    (¬ c.sameFields new → ∃ u : State, execCollectiveOpen i f s = .next (u.answerControl f 1 1) ∧ u.coll? coll = some { c with last := s.aclk }) ∧
    (c.sameFields new → ∃ (u : State) (c' : Coll), execCollectiveOpen i f s = .next (u.answerControl f 1 0) ∧ u.coll? coll = some c' ∧ destOf contrib (recordOf f) ∈ c'.dests ∧
      contrib ∉ c'.closed ∧ c'.chunks = c.chunks ∧ c'.n = c.n) := by
  intro coll contrib new
  have found : (Claims.tookFlit s i f).coll? coll = some c := found
  refine ⟨fun other => ⟨_, execCollectiveOpen_row h ok cc good (State.openAt_mismatch found other), State.coll?_touchColl found⟩, fun same => ?_⟩
  refine ⟨_, _, execCollectiveOpen_row h ok cc good (State.openAt_join found same), State.coll?_updColl (by intro; rfl) found, ?_, ?_, rfl, rfl⟩
  · exact List.mem_append_right _ List.mem_cons_self
  · simp [Coll.joined, contrib]

/-- A close of a known collective is noted; the last one frees it. -/
theorem collectiveClose_known (cc : wordCc (natOfBytes f.payload) = 3) (found : s.coll? (wordColl (natOfBytes f.payload)) = some c) :
    let coll := wordColl (natOfBytes f.payload)
    let contrib := wordContrib (natOfBytes f.payload)
    ((∀ x ∈ c.dests, x.contrib = contrib ∨ x.contrib ∈ c.closed) → ∃ u : State, execCollectiveClose i f s = .next (u.answerControl f 4 0) ∧ u.coll? coll = none) ∧
    ((∃ x ∈ c.dests, x.contrib ≠ contrib ∧ x.contrib ∉ c.closed) → ∃ (u : State) (c' : Coll), execCollectiveClose i f s = .next (u.answerControl f 4 0) ∧
      u.coll? coll = some c' ∧ contrib ∈ c'.closed ∧ c'.dests = c.dests) := by
  intro coll contrib
  have found : (Claims.tookFlit s i f).coll? coll = some c := found
  refine ⟨fun last => ⟨_, execCollectiveClose_row h ok cc (State.closeAt_last found last), State.coll?_filter _ coll⟩, fun left => ?_⟩
  exact ⟨_, _, execCollectiveClose_row h ok cc (State.closeAt_noted found left), State.coll?_updColl (by intro; rfl) found,
    Coll.mem_closedWith.mpr (.inl rfl), rfl⟩

end Control

end Clauses

/-- Settles O51: each clause is one of the equations above. The first contribution sets the round, and an open record out of range is dropped without an answer (log entry 61). -/
theorem reducerResult : Obligations.ReducerResult := by
  refine ⟨fun c parts count => ⟨combineParts_sum, combineParts_topK parts count⟩, fun s i p f => ⟨fun r hr h ok => ?_, fun h ok => ⟨fun cc => ?_, fun cc => ?_⟩, ?_⟩⟩
  · have acts := contribution_acts hr h ok
    refine ⟨fun top reserved => acts.trans (congrArg device (contributed_discards _ top reserved)), fun clean => ⟨?_, ?_, ?_, ?_⟩⟩
    · exact fun none => acts.trans (congrArg device (contributed_row clean (State.reduceRow_unknown none)))
    · exact fun c found stranger => acts.trans (congrArg device (contributed_row clean (State.reduceRow_stranger found stranger)))
    · exact fun c found opener bad => acts.trans (congrArg device (contributed_row clean (State.reduceRow_unfit found opener (unfit_of_fields bad))))
    · intro c fits
      obtain ⟨past, far, again, full, -⟩ := contribution_fits acts clean fits
      exact ⟨past, far, again, full, fun near new room => contribution_accepted acts clean fits near new room⟩
  · refine ⟨execCollectiveOpen_bad h ok cc, fun good => ⟨fun none => ⟨fun full => ?_, fun room => ?_⟩, fun c found => collectiveOpen_known h ok cc good found⟩⟩
    · exact execCollectiveOpen_row h ok cc good (State.openAt_full none full)
    · exact execCollectiveOpen_row h ok cc good (State.openAt_new none room)
  · exact ⟨fun none => execCollectiveClose_row h ok cc (State.closeAt_unknown none), fun c found => collectiveClose_known h ok cc found⟩
  · exact fun c front back colls idle busy => execCollectiveIdleTimeout_frees colls idle busy

end Sys2Proof.Machine
end

section
/-! SUPPORT. Accesses from outside (`Machine/Remote.lean`): what they change at the home of their bytes, and what they read there. -/

namespace Sys2Proof.Machine

/-! ### The state but for the shared caches -/

/-- From `s` to `t` the coherence state, but for the waiters on tags, and performance counters of contexts may differ, and nothing else. -/
def HomeChanged (s t : State) : Prop :=
  ∃ (coh : Coherence) (f : Context → Context), coh.waiters = s.coh.waiters ∧ (∀ c, f c = { c with counters := (f c).counters }) ∧ t = { s with coh := coh, ctxs := s.ctxs.map f }

section Changed

variable {s t u : State}

theorem HomeChanged.of_coh (s : State) (coh : Coherence) (waiters : coh.waiters = s.coh.waiters) : HomeChanged s { s with coh := coh } :=
  ⟨coh, id, waiters, fun _ => rfl, by simp⟩

theorem HomeChanged.refl (s : State) : HomeChanged s s := HomeChanged.of_coh s s.coh rfl

theorem HomeChanged.trans (h : HomeChanged s t) (h' : HomeChanged t u) : HomeChanged s u := by
  obtain ⟨coh, f, waiters, hf, rfl⟩ := h
  obtain ⟨coh', g, waiters', hg, rfl⟩ := h'
  exact ⟨coh', g ∘ f, waiters'.trans waiters, fun c => by rw [Function.comp, hg, hf], by simp⟩

theorem HomeChanged.foldl {α : Type} {g : State → α → State} (hg : ∀ s a, HomeChanged s (g s a)) (l : List α) (s : State) : HomeChanged s (l.foldl g s) := by
  induction l generalizing s with
  | nil => exact HomeChanged.refl s
  | cons a l ih => exact (hg s a).trans (ih _)

theorem HomeChanged.count (s : State) (ctx entry n : Nat) : HomeChanged s (s.count ctx entry n) :=
  ⟨s.coh, fun x => if x.id == ctx then { x with counters := sparsePut 0 x.counters entry (min (sparseGet 0 x.counters entry + n) (2 ^ 64 - 1)) } else x, rfl,
    fun c => by dsimp only; split <;> rfl, rfl⟩

section Fields

variable (h : HomeChanged s t)
include h

theorem HomeChanged.mem : t.mem = s.mem := by
  obtain ⟨_, _, -, -, rfl⟩ := h
  rfl
theorem HomeChanged.teams : t.teams = s.teams := by
  obtain ⟨_, _, -, -, rfl⟩ := h
  rfl
theorem HomeChanged.remote : t.remote = s.remote := by
  obtain ⟨_, _, -, -, rfl⟩ := h
  rfl
theorem HomeChanged.cmds : t.cmds = s.cmds := by
  obtain ⟨_, _, -, -, rfl⟩ := h
  rfl
theorem HomeChanged.ports : t.ports = s.ports := by
  obtain ⟨_, _, -, -, rfl⟩ := h
  rfl
theorem HomeChanged.life : t.life = s.life := by
  obtain ⟨_, _, -, -, rfl⟩ := h
  rfl
theorem HomeChanged.os : t.os = s.os := by
  obtain ⟨_, _, -, -, rfl⟩ := h
  rfl
theorem HomeChanged.tick : t.tick = s.tick := by
  obtain ⟨_, _, -, -, rfl⟩ := h
  rfl
theorem HomeChanged.shoot : t.shoot = s.shoot := by
  obtain ⟨_, _, -, -, rfl⟩ := h
  rfl
theorem HomeChanged.owned : t.owned = s.owned := by
  obtain ⟨_, _, -, -, rfl⟩ := h
  rfl
theorem HomeChanged.sealedRanges : t.sealedRanges = s.sealedRanges := by
  obtain ⟨_, _, -, -, rfl⟩ := h
  rfl

theorem HomeChanged.waiters : t.coh.waiters = s.coh.waiters := by
  obtain ⟨_, _, waiters, -, rfl⟩ := h
  exact waiters

/-- A context has the same tables and grants as before. -/
theorem HomeChanged.ctx? (c : Nat) : ∃ f : Context → Context, (∀ x, f x = { x with counters := (f x).counters }) ∧ t.ctx? c = (s.ctx? c).map f := by
  obtain ⟨_, f, -, hf, rfl⟩ := h
  refine ⟨f, hf, ?_⟩
  have same : (fun x : Context => x.id == c) ∘ f = fun x => x.id == c := funext fun x => by
    rw [Function.comp_apply, hf]
  simp only [State.ctx?, List.find?_map, same]

theorem HomeChanged.graphs (none : ∀ c ∈ s.ctxs, c.graphs = []) : ∀ c ∈ t.ctxs, c.graphs = [] := by
  obtain ⟨_, f, -, hf, rfl⟩ := h
  intro c hc
  obtain ⟨x, hx, rfl⟩ := List.mem_map.mp hc
  rw [hf]
  exact none x hx

/-- What an access from outside finds does not hang on the shared caches. -/
theorem HomeChanged.leafFor : leafFor t = leafFor s := by
  funext c die va
  obtain ⟨f, hf, ctx⟩ := h.ctx? c
  have swept : sweptLeaf t c die va = sweptLeaf s c die va := by
    unfold sweptLeaf State.freeBit
    rw [h.shoot, h.tick]
  unfold Machine.leafFor
  rw [ctx, h.mem, swept]
  cases s.ctx? c with
  | none => rfl
  | some x =>
    have root : (f x).root = x.root := by rw [hf]
    simp only [Option.map_some, root]

theorem HomeChanged.incoming : incoming t = incoming s := by
  have same : translate t = translate s := by
    funext c die space va k engine
    unfold translate
    rw [h.leafFor]
  funext ctx va n k
  unfold Machine.incoming
  rw [same]

theorem HomeChanged.incomingOwned : incomingOwned t = incomingOwned s := by
  funext ps
  unfold Machine.incomingOwned
  rw [h.owned]

theorem HomeChanged.sealHit : t.sealHit = s.sealHit := by
  funext ctx va n
  unfold State.sealHit
  rw [h.sealedRanges]

end Fields

end Changed

/-! ### The operations at a home -/

section Home

variable (s : State)

theorem State.recall_home (ws : List Nat) : HomeChanged s (s.recall ws) := HomeChanged.of_coh s _ rfl

theorem State.recallLine_home (line : Nat) : HomeChanged s (s.recallLine line) := s.recall_home _

theorem State.putRegion_home (r : Region) : HomeChanged s (s.putRegion r) := HomeChanged.of_coh s _ rfl

theorem State.keepHome_home (m : MemLoc) (line : Nat) (ws : List Nat) (write : Bool) (ctx : Nat) : HomeChanged s (s.keepHome m line ws write ctx) := by
  obtain ⟨cs, hs, -, eq⟩ := s.keepHome_slices m line ws write ctx
  rw [eq]
  exact HomeChanged.of_coh s _ rfl

theorem State.sendProbes_home (line : Nat) (w : Writer) (ctx : Nat) : HomeChanged s (s.sendProbes line w ctx) :=
  (HomeChanged.count s _ _ _).trans (HomeChanged.of_coh _ _ (by rfl))

theorem State.collapseExcess_home (region : Nat) (w : Writer) (ctx : Nat) : HomeChanged s (s.collapseExcess region w ctx) :=
  (HomeChanged.count s _ _ _).trans (HomeChanged.of_coh _ _ (by rfl))

theorem State.directoryWrite_home (line : Nat) (w : Writer) (atomic : Bool) (ctx : Nat) : HomeChanged s (s.directoryWrite line w atomic ctx) := by
  have counted : ∀ (b : Bool) (t : State), HomeChanged t (if b then t.count ctx 0x43 1 else t) := fun b t => by
    cases b
    · exact HomeChanged.refl t
    · exact HomeChanged.count t _ _ _
  have put : ∀ (b : Bool) (t : State) (r : Region), HomeChanged t (if b then t.putRegion r else t) := fun b t r => by
    cases b
    · exact HomeChanged.refl t
    · exact t.putRegion_home r
  exact ((counted _ s).trans (put _ _ _)).trans (State.collapseExcess_home _ _ _ _)

theorem State.collapseNow_home (line ctx : Nat) : HomeChanged s (s.collapseNow line ctx) := by
  have each : ∀ l : List Probe, HomeChanged s (l.foldl (fun s p => s.count p.ctx 0x42 1) s) := fun l => HomeChanged.foldl (fun s p => HomeChanged.count s _ _ _) l s
  exact ((((each _).trans (HomeChanged.count _ _ _ _)).trans (HomeChanged.count _ _ _ _)).trans (HomeChanged.of_coh _ _ (by rfl))).trans (State.putRegion_home _ _)

/-- A write from outside stores its bytes; but for them only the shared caches and counters change. -/
theorem State.writeHome_outside (m : MemLoc) (bytes : List (Option Byte)) (w : Writer) (ctx : Nat) :
    HomeChanged { s with mem := s.mem.write m.pa bytes } (s.writeHome m bytes w ctx .outside) := by
  refine (State.recall_home { s with mem := s.mem.write m.pa bytes } (wordsTouched m.pa bytes)).trans ?_
  exact HomeChanged.foldl (fun s l => ((s.keepHome_home m l _ true ctx).trans (State.sendProbes_home _ l w ctx)).trans (State.directoryWrite_home _ l w false ctx)) _ _

/-- The same of a word that is changed at its home. -/
theorem State.modifyHome_outside (m : MemLoc) (bytes : List (Option Byte)) (w : Writer) (ctx : Nat) :
    HomeChanged { s with mem := s.mem.write m.pa bytes } (s.modifyHome m bytes w ctx none) := by
  have before : ∀ l : List Nat, HomeChanged s (l.foldl (fun s l => ((s.recallLine l).collapseNow l ctx).keepHome m l (wordsTouched m.pa bytes) true ctx) s) := fun l =>
    HomeChanged.foldl (fun s l => ((s.recallLine_home l).trans (State.collapseNow_home _ l ctx)).trans (State.keepHome_home _ m l _ true ctx)) l s
  have changed := before (linesOf (wordsTouched m.pa bytes))
  refine HomeChanged.trans ?_ (HomeChanged.foldl (fun s l => s.directoryWrite_home l w true ctx) (linesOf (wordsTouched m.pa bytes)) _)
  obtain ⟨coh, f, waiters, hf, eq⟩ := changed
  rw [eq]
  exact ⟨coh, f, waiters, hf, rfl⟩

end Home

/-! ### Bytes at one place -/

section Place

variable {s : State} {m : MemLoc} {l : Leaf} {n : Nat} {bs : List Byte}

theorem Memory.write_other {mem : Memory} {pa a : Nat} (h : a < pa ∨ pa + bs.length ≤ a) :
    sparseGet 0 (mem.write pa (bs.map some)).cells a = sparseGet 0 mem.cells a :=
  sparseGet_write_other (by simpa using h)

theorem Memory.write_inside {mem : Memory} {pa i : Nat} (hw : mem.wf = true) (h : i < bs.length) :
    sparseGet 0 (mem.write pa (bs.map some)).cells (pa + i) = bs.getD i 0 := by
  have cells : sparseWf 0 mem.cells = true := by
    simp only [Memory.wf, Bool.and_eq_true] at hw
    exact hw.1.1
  have read := sparseGet_write_inside (m := mem.cells) (a := pa) (bs := bs.map some) (i := i) cells (by simpa using h)
  refine read.trans ?_
  simp [h]

theorem natOfBytes_lt (bs : List Byte) : natOfBytes bs < 256 ^ bs.length := by
  induction bs with
  | nil => exact Nat.one_pos
  | cons b bs ih =>
    have small := b.isLt
    rw [natOfBytes, List.length_cons, Nat.pow_succ]
    omega

theorem sparseBytes_length (cs : List Host.Cell) (a n : Nat) : (sparseBytes cs a n).length = n := by
  induction n generalizing a with
  | zero => rfl
  | succ n ih => simp [sparseBytes, ih]

theorem sparseBytes_getD {cs : List Host.Cell} {a n i : Nat} (h : i < n) : (sparseBytes cs a n).getD i 0 = sparseGet 0 cs (a + i) := by
  induction n generalizing a i with
  | zero => omega
  | succ n ih =>
    cases i with
    | zero => rfl
    | succ i =>
      simp only [sparseBytes, List.getD_cons_succ]
      rw [ih (by omega), Nat.add_right_comm, Nat.add_assoc]

/-- A range that was written whole reads as the bytes written. -/
theorem sparseBytes_written {mem : Memory} {pa : Nat} (hw : mem.wf = true) : sparseBytes (mem.write pa (bs.map some)).cells pa bs.length = bs := by
  refine List.ext_getElem (sparseBytes_length _ _ _) fun i h h' => ?_
  have read := sparseBytes_getD (cs := (mem.write pa (bs.map some)).cells) (a := pa) h'
  rw [Memory.write_inside hw h'] at read
  rw [List.getD_eq_getElem _ _ h, List.getD_eq_getElem _ _ h'] at read
  exact read

/-- The words of a read from one place. -/
def placeWords (m : MemLoc) (n : Nat) : List Nat :=
  (List.range (n / 8 + 2)).filterMap (fun i => if 8 * (wordOf m.pa + i) < m.pa + n then some (wordOf m.pa + i) else none)

theorem mem_placeWords {w : Nat} (hn : 0 < n) : w ∈ placeWords m n ↔ ∃ a, m.pa ≤ a ∧ a < m.pa + n ∧ wordOf a = w := by
  have listed : w ∈ placeWords m n ↔ ∃ i, i < n / 8 + 2 ∧ 8 * (m.pa / 8 + i) < m.pa + n ∧ m.pa / 8 + i = w := by
    refine List.mem_filterMap.trans (exists_congr fun i => ?_)
    rw [List.mem_range, wordOf]
    by_cases h : 8 * (m.pa / 8 + i) < m.pa + n <;> simp [h]
  rw [listed]
  unfold wordOf
  constructor
  · rintro ⟨i, -, lt, rfl⟩
    exact ⟨max m.pa (8 * (m.pa / 8 + i)), by omega, by omega, by omega⟩
  · rintro ⟨a, lo, hi, rfl⟩
    exact ⟨a / 8 - m.pa / 8, by omega, by omega, by omega⟩

theorem incomingRead_one (s : State) (m : MemLoc) (n : Nat) (l : Leaf) : incomingRead s [(m, n, l)] =
    (sparseBytes s.mem.cells m.pa n, (placeWords m n).any (fun w => s.mem.poison.contains w), (linesOf (placeWords m n)).foldl State.recallLine s) := by
  have words : ([(m, n, l)] : List (MemLoc × Nat × Leaf)).flatMap (fun p => (List.range (p.2.1 / 8 + 2)).filterMap (fun i =>
      if 8 * (wordOf p.1.pa + i) < p.1.pa + p.2.1 then some (wordOf p.1.pa + i) else none)) = placeWords m n := List.flatMap_singleton _ _
  unfold incomingRead
  rw [words, List.flatMap_singleton]
  rfl

theorem placeWords_poisoned (hn : 0 < n) :
    (placeWords m n).any (fun w => s.mem.poison.contains w) = true ↔ ∃ a, m.pa ≤ a ∧ a < m.pa + n ∧ wordOf a ∈ s.mem.poison := by
  simp only [List.any_eq_true, mem_placeWords hn, List.contains_iff_mem]
  constructor
  · rintro ⟨w, ⟨a, lo, hi, rfl⟩, h⟩
    exact ⟨a, lo, hi, h⟩
  · rintro ⟨a, lo, hi, h⟩
    exact ⟨wordOf a, ⟨a, lo, hi, rfl⟩, h⟩

theorem incomingWrite_one (s : State) (m : MemLoc) (l : Leaf) (bs : List Byte) (w : Writer) (ctx : Nat) :
    incomingWrite s [(m, bs.length, l)] bs w ctx = s.writeHome m (bs.map some) w ctx .outside := by
  unfold incomingWrite
  rw [List.foldl_cons, List.foldl_nil, List.take_length]

/-- A write from outside at one place changes the bytes of its range, and of memory nothing else. -/
theorem onlyBytes_of_home {t : State} (h : HomeChanged { s with mem := s.mem.write m.pa (bs.map some) } t) : Claims.OnlyBytes s t m.pa bs.length := by
  refine ⟨fun a ha => ?_, h.teams, h.remote, h.cmds⟩
  rw [h.mem]
  exact Memory.write_other ha

/-- The dword of an aligned place as a number. -/
theorem wordAt_toNat (s : State) {pa : Nat} (aligned : pa % 8 = 0) : (s.wordAt (wordOf pa)).1.toNat = Claims.valueAt s pa 8 := by
  have at_ : 8 * wordOf pa = pa := by
    unfold wordOf
    omega
  have small : natOfBytes (sparseBytes s.mem.cells pa 8) < 2 ^ 64 := by
    have bound := natOfBytes_lt (sparseBytes s.mem.cells pa 8)
    rw [sparseBytes_length] at bound
    exact bound
  unfold State.wordAt sparseDword Claims.valueAt
  rw [at_, BitVec.toNat_ofNat, Nat.mod_eq_of_lt small]

/-- The value of eight bytes after they were written. -/
theorem valueAt_of_written {t : State} {pa v : Nat} (hw : s.mem.wf = true) (h : t.mem = s.mem.write pa ((bytesOfNat 8 v).map some)) :
    Claims.valueAt t pa 8 = v % 2 ^ 64 := by
  have written := sparseBytes_written (bs := bytesOfNat 8 v) (pa := pa) hw
  rw [bytesOfNat_length] at written
  unfold Claims.valueAt
  rw [h, written, natOfBytes_bytesOfNat]

end Place

end Sys2Proof.Machine
end

section
/-! SUPPORT. Peer requests and answers (`Machine/Peers.lean`; 02 R42 to R44, 03 R74, R75), and the obligation on them (O50). -/

namespace Sys2Proof.Machine

/-! ### Flits of every kind -/

/-- The steps of sequenced flits, with their kinds (02 Table 2.4). -/
def flitSteps (i : Nat) (f : WireFlit) : List (Instr × Nat) :=
  [(.peerReadRequest i f, 2), (.peerReadResponse i f, 3), (.peerWriteRequest i f, 4), (.peerWriteAck i f, 5), (.peerAtomicRequest i f, 6),
    (.peerAtomicResponse i f, 7), (.reductionContribution i f, 8), (.topKContribution i f, 9), (.contributionAck i f, 10), (.collectiveOpen i f, 11),
    (.collectiveResult i f, 11), (.collectiveClose i f, 11), (.collectiveOpenAck i f, 11), (.collectiveCloseAck i f, 11)]

/-- A sequenced flit of every kind is taken in the same way. -/
theorem exec_flitStep {i : Nat} {f : WireFlit} {k : Instr × Nat} (hk : k ∈ flitSteps i f) (s : State) :
    ∃ firstOk act, exec k.1 s = device (takeFlit k.2 i f firstOk act s) := by
  simp only [flitSteps, List.mem_cons, List.not_mem_nil, or_false] at hk
  rcases hk with rfl | rfl | rfl | rfl | rfl | rfl | rfl | rfl | rfl | rfl | rfl | rfl | rfl | rfl <;> exact ⟨_, _, rfl⟩

section Steps

variable {s : State} {i : Nat} {p : Port} {f : WireFlit} {k : Instr × Nat}

theorem Port.took_expected {aclk : Nat} {parts : List WireFlit} (h : seqCase p f = .expected) :
    (p.took f aclk parts).expected = (p.expected + 1) % 4096 ∧ (p.took f aclk parts).nakOut = false := by
  obtain ⟨expected, nakOut⟩ := Port.received_expected (aclk := aclk) ((seqCase_acked p f (flitAck f) aclk).trans h)
  exact ⟨expected.trans (by simp), nakOut⟩

theorem Port.took_other {aclk : Nat} {parts : List WireFlit} (h : seqCase p f ≠ .expected) : (p.took f aclk parts).expected = p.expected :=
  (Port.received_other (by rwa [seqCase_acked])).trans (by simp)

/-- The clauses of a flit that no transaction takes. -/
theorem flitStep_clauses (hk : k ∈ flitSteps i f) (h : s.port? i = some p) :
    (p.live = false → exec k.1 s = .next s) ∧
    (p.live = true → flitKind f = k.2 → p.expected < 4096 → flitSeq f ≠ p.expected → ∃ t q, exec k.1 s = .next t ∧ t.mem = s.mem ∧ t.remote = s.remote ∧
      t.linkDiscard = s.linkDiscard ∧ t.port? i = some q ∧ q.expected = p.expected ∧ q.parts = p.parts) ∧
    (p.live = true → flitKind f = k.2 → p.expected < 4096 → flitSeq f = p.expected → s.gridAxes = 0 ∨ flitDst f ≠ s.here →
      ∃ t q, exec k.1 s = .next t ∧ t.mem = s.mem ∧ t.remote = s.remote ∧ t.linkDiscard = min (s.linkDiscard + 1) (2 ^ 48 - 1) ∧
        t.port? i = some q ∧ q.expected = (p.expected + 1) % 4096 ∧ q.nakOut = false) := by
  obtain ⟨firstOk, act, exec⟩ := exec_flitStep hk s
  have took : (s.updPort i (fun q => q.took f s.aclk p.parts)).port? i = some (p.took f s.aclk p.parts) :=
    (State.port?_updPort (fun q => q.took_idx f s.aclk p.parts)).trans (congrArg (Option.map _) h)
  rw [exec]
  refine ⟨fun idle => congrArg device (takeFlit_idle h idle), fun live kind range other => ?_, fun live kind range next far => ?_⟩
  · have other := mt (seqCase_expected_iff range).mp other
    exact ⟨_, _, congrArg device (takeFlit_other h live kind other), rfl, rfl, rfl, took, Port.took_other other, rfl⟩
  · have expected := (seqCase_expected_iff range).mpr next
    exact ⟨_, _, congrArg device (takeFlit_elsewhere h live kind expected far), rfl, rfl, rfl, took, Port.took_expected expected⟩

end Steps

/-! ### The places of a request (02 R42, 04 R95) -/

section Places

variable {s : State} {ctx va n : Nat} {k : AccKind}

/-- The context has granted peer access (03 R74). -/
def Granted (s : State) (ctx : Nat) : Prop := ∃ c, s.ctx? ctx = some c ∧ c.peer = true

theorem granted_iff : Granted s ctx ↔ (s.ctx? ctx).any (fun c => c.peer) = true := by
  unfold Granted
  cases s.ctx? ctx <;> simp

theorem peerPlaces_refused (no : ¬ Granted s ctx) : peerPlaces s ctx va n k = .error 2 := by
  rw [granted_iff] at no
  unfold peerPlaces
  exact if_pos (by simpa using no)

theorem peerPlaces_ok {ps : List (MemLoc × Nat × Leaf)} (yes : Granted s ctx) (h : incoming s ctx va n k = some ps) : peerPlaces s ctx va n k = .ok ps := by
  rw [granted_iff] at yes
  unfold peerPlaces
  rw [if_neg (by simp [yes]), h]

theorem pageParts_head (va n : Nat) : ∃ m rest, pageParts 0 va n = (va, m) :: rest := by
  unfold pageParts
  split
  · exact ⟨n, [], rfl⟩
  · exact ⟨_, _, rfl⟩

/-- An access that fails its checks has status 5 where a table entry is invalid (log entry 60). -/
theorem peerPlaces_invalid (yes : Granted s ctx) (h : incoming s ctx va n k = none) (bad : leafFor s ctx 8 va = .invalid) : peerPlaces s ctx va n k = .error 5 := by
  obtain ⟨m, rest, parts⟩ := pageParts_head va n
  rw [granted_iff] at yes
  unfold peerPlaces
  rw [if_neg (by simp [yes]), h, parts]
  exact if_pos (by simp [bad])

/-- Any other has status 1. -/
theorem peerPlaces_unmapped (yes : Granted s ctx) (h : incoming s ctx va n k = none) (valid : ∀ p ∈ pageParts 0 va n, leafFor s ctx 8 p.1 ≠ .invalid) :
    peerPlaces s ctx va n k = .error 1 := by
  rw [granted_iff] at yes
  unfold peerPlaces
  rw [if_neg (by simp [yes]), h]
  refine if_neg fun any => ?_
  obtain ⟨p, hp, bad⟩ := List.any_eq_true.mp any
  have other := valid p hp
  split at bad
  next e => exact other e
  · exact Bool.false_ne_true bad

/-- A write to no sealed slot is no gather. -/
theorem gatherInput_none {src : Nat} (h : s.sealHit ctx va n = false) : gatherInput s ctx va n src = none := by
  have none : s.sealedRanges.find? (fun r => r.ctx == ctx && decide (r.lo < va + n ∧ va < r.hi)) = none :=
    List.find?_eq_none.mpr fun r hr => List.any_eq_false.mp h r hr
  unfold gatherInput
  rw [none]
  rfl

end Places

/-! ### Requests -/

section Requests

variable {s : State} {g : WireFlit} {bs : List Byte} {m : MemLoc} {l : Leaf}

/-- A request behind an earlier one of its device and context waits. -/
theorem State.arrivePeer_held {kind : Nat} (h : ∃ w ∈ s.peerWaits, w.before g bs = true) :
    State.arrivePeer kind g bs s = { s with peerWaits := s.peerWaits ++ [⟨kind, g, bs⟩] } :=
  if_pos (List.any_eq_true.mpr h)

theorem State.arrivePeer_free {kind : Nat} (h : ¬ ∃ w ∈ s.peerWaits, w.before g bs = true) :
    State.arrivePeer kind g bs s = (s.peerRequest kind g bs).getD { s with peerWaits := s.peerWaits ++ [⟨kind, g, bs⟩] } :=
  if_neg fun any => h (List.any_eq_true.mp any)

/-- The descriptor of a transaction. -/
def descOf (bs : List Byte) : Nat := natOfBytes (bs.take 16)

theorem State.peerRead_error {st : Nat} (h : peerPlaces s (descCtx (descOf bs)) (descVa (descOf bs)) (descLen (descOf bs)) .load = .error st) :
    s.peerRead g bs = some (s.answerPeer 3 g (descOf bs) st []) := by
  unfold State.peerRead descOf at *
  dsimp only
  rw [h]

theorem State.peerRead_owned {ps : List (MemLoc × Nat × Leaf)}
    (h : peerPlaces s (descCtx (descOf bs)) (descVa (descOf bs)) (descLen (descOf bs)) .load = .ok ps) (owned : incomingOwned s ps = true) : s.peerRead g bs = none := by
  unfold State.peerRead descOf at *
  dsimp only
  rw [h]
  exact if_pos owned

/-- A read is answered with its bytes, or with status 3 where a word of them is poisoned. -/
theorem State.peerRead_one (h : peerPlaces s (descCtx (descOf bs)) (descVa (descOf bs)) (descLen (descOf bs)) .load = .ok [(m, descLen (descOf bs), l)])
    (free : incomingOwned s [(m, descLen (descOf bs), l)] = false) :
    let u := (linesOf (placeWords m (descLen (descOf bs)))).foldl State.recallLine s
    s.peerRead g bs = some (if (placeWords m (descLen (descOf bs))).any (fun w => s.mem.poison.contains w) then (u.lifeCount 4 65 1).answerPeer 3 g (descOf bs) 3 []
      else u.answerPeer 3 g (descOf bs) 0 (sparseBytes s.mem.cells m.pa (descLen (descOf bs)))) := by
  intro u
  have read := incomingRead_one s m (descLen (descOf bs)) l
  unfold State.peerRead
  dsimp only
  rw [show natOfBytes (bs.take 16) = descOf bs from rfl, h]
  dsimp only
  rw [if_neg (Bool.eq_false_iff.mp free), read]
  rfl

/-- A write of one flit, once its places are known, unless it is a gather. -/
theorem State.peerWrite_one (small : descLen (descOf bs) ≤ 208) (whole : descLen (descOf bs) + 16 ≤ bs.length)
    (plain : gatherInput s (descCtx (descOf bs)) (descVa (descOf bs)) (descLen (descOf bs)) (flitSrc g) = none ∨
      ∃ st, peerPlaces s (descCtx (descOf bs)) (descVa (descOf bs)) (descLen (descOf bs)) .store = .error st) :
    s.peerWrite g bs = if peerOwned s (descCtx (descOf bs)) [(descVa (descOf bs), descLen (descOf bs))] .store then none
      else some ((s.writeParts (descCtx (descOf bs)) [(descVa (descOf bs), descLen (descOf bs))] ((bs.drop 16).take (descLen (descOf bs)))).2.answerPeer 5 g (descOf bs)
        (s.writeParts (descCtx (descOf bs)) [(descVa (descOf bs), descLen (descOf bs))] ((bs.drop 16).take (descLen (descOf bs)))).1 []) := by
  have parts : flitParts (descVa (descOf bs)) (descLen (descOf bs)) = [(descVa (descOf bs), descLen (descOf bs))] := if_pos small
  rw [← parts]
  unfold State.peerWrite
  dsimp only
  rw [show natOfBytes (bs.take 16) = descOf bs from rfl, if_neg (by simp; omega)]
  rcases plain with none | ⟨st, refused⟩
  · rw [none]
  · rw [refused]
    cases gatherInput s (descCtx (descOf bs)) (descVa (descOf bs)) (descLen (descOf bs)) (flitSrc g) <;> rfl

theorem peerOwned_one {ctx va n : Nat} {ps : List (MemLoc × Nat × Leaf)} (h : peerPlaces s ctx va n .store = .ok ps) :
    peerOwned s ctx [(va, n)] .store = incomingOwned s ps := by
  simp [peerOwned, h]

theorem State.writeParts_error {ctx va n st : Nat} {data : List Byte} (h : peerPlaces s ctx va n .store = .error st) : s.writeParts ctx [(va, n)] data = (st, s) := by
  simp [State.writeParts, h]

theorem State.writeParts_sealed {ctx va n : Nat} {ps : List (MemLoc × Nat × Leaf)} {data : List Byte} (h : peerPlaces s ctx va n .store = .ok ps)
    (sealed : s.sealHit ctx va n = true) : s.writeParts ctx [(va, n)] data = (2, s) := by
  simp [State.writeParts, h, sealed]

theorem State.writeParts_one {ctx va : Nat} {data : List Byte} (h : peerPlaces s ctx va data.length .store = .ok [(m, data.length, l)])
    (open_ : s.sealHit ctx va data.length = false) : s.writeParts ctx [(va, data.length)] data = (0, s.writeHome m (data.map some) .peer ctx .outside) := by
  simp [State.writeParts, h, open_, incomingWrite_one]

section Writes

/-- The bytes a peer's write carries. -/
def writeData (bs : List Byte) : List Byte := (bs.drop 16).take (descLen (descOf bs))

theorem writeData_length (whole : descLen (descOf bs) + 16 ≤ bs.length) : (writeData bs).length = descLen (descOf bs) := by
  simp only [writeData, List.length_take, List.length_drop]
  omega

variable (small : descLen (descOf bs) ≤ 208) (whole : descLen (descOf bs) + 16 ≤ bs.length)
include small whole

theorem State.peerWrite_refused {st : Nat} (places : peerPlaces s (descCtx (descOf bs)) (descVa (descOf bs)) (descLen (descOf bs)) .store = .error st) :
    s.peerWrite g bs = some (s.answerPeer 5 g (descOf bs) st []) := by
  rw [State.peerWrite_one small whole (.inr ⟨st, places⟩), if_neg (by simp [peerOwned, places]), State.writeParts_error places]

variable (places : peerPlaces s (descCtx (descOf bs)) (descVa (descOf bs)) (descLen (descOf bs)) .store = .ok [(m, descLen (descOf bs), l)])
  (plain : gatherInput s (descCtx (descOf bs)) (descVa (descOf bs)) (descLen (descOf bs)) (flitSrc g) = none)
include places plain

theorem State.peerWrite_owned (owned : incomingOwned s [(m, descLen (descOf bs), l)] = true) : s.peerWrite g bs = none := by
  rw [State.peerWrite_one small whole (.inl plain), peerOwned_one places, if_pos owned]

/-- A sealed slot takes nothing but what a conversion gathers, and no tag changes (log entry 45). -/
theorem State.peerWrite_sealed (owned : incomingOwned s [(m, descLen (descOf bs), l)] = false)
    (sealed : s.sealHit (descCtx (descOf bs)) (descVa (descOf bs)) (descLen (descOf bs)) = true) : s.peerWrite g bs = some (s.answerPeer 5 g (descOf bs) 2 []) := by
  rw [State.peerWrite_one small whole (.inl plain), peerOwned_one places, if_neg (Bool.eq_false_iff.mp owned), State.writeParts_sealed places sealed]

theorem State.peerWrite_stored (owned : incomingOwned s [(m, descLen (descOf bs), l)] = false)
    (open_ : s.sealHit (descCtx (descOf bs)) (descVa (descOf bs)) (descLen (descOf bs)) = false) :
    s.peerWrite g bs = some ((s.writeHome m ((writeData bs).map some) .peer (descCtx (descOf bs)) .outside).answerPeer 5 g (descOf bs) 0 []) := by
  rw [State.peerWrite_one small whole (.inl plain), peerOwned_one places, if_neg (Bool.eq_false_iff.mp owned)]
  have parts := State.writeParts_one (s := s) (ctx := descCtx (descOf bs)) (va := descVa (descOf bs)) (data := writeData bs) (m := m) (l := l)
  rw [writeData_length whole] at parts
  rw [show (bs.drop 16).take (descLen (descOf bs)) = writeData bs from rfl, parts places open_]

end Writes

section Atomics

/-- The operands of a peer's atomic. -/
def atomicValue (bs : List Byte) : Nat := natOfBytes ((bs.drop 16).take 8)
def atomicCompare (bs : List Byte) : Nat := natOfBytes ((bs.drop 24).take 8)
def peerAtomOp (bs : List Byte) : AtomOp := if descOp (descOf bs) = 0xFF then .cas (BitVec.ofNat 64 (atomicCompare bs)) else atomOp (descOp (descOf bs))

theorem State.peerAtomic_refused (no : ¬ Granted s (descCtx (descOf bs))) : s.peerAtomic g bs = some (s.answerPeer 7 g (descOf bs) 2 []) := by
  rw [granted_iff] at no
  exact if_pos (by simpa [descOf] using no)

variable (yes : Granted s (descCtx (descOf bs)))
include yes

theorem State.peerAtomic_misaligned (off : descVa (descOf bs) % 8 ≠ 0) : s.peerAtomic g bs = some (s.answerPeer 7 g (descOf bs) 4 []) := by
  rw [granted_iff] at yes
  exact (if_neg (by simp [show natOfBytes (bs.take 16) = descOf bs from rfl, yes])).trans (if_pos off)

/-- An aligned atomic of a granted context at one word: sealed, or waiting, or poisoned, or performed. -/
theorem State.peerAtomic_one (aligned : descVa (descOf bs) % 8 = 0) (h : incoming s (descCtx (descOf bs)) (descVa (descOf bs)) 8 .atomic = some [(m, 8, l)]) :
    s.peerAtomic g bs = if s.sealHit (descCtx (descOf bs)) (descVa (descOf bs)) 8 then some (s.answerPeer 7 g (descOf bs) 2 [])
      else if incomingOwned s [(m, 8, l)] then none
      else if s.mem.poison.contains (wordOf m.pa) then some ((s.lifeCount 4 65 1).answerPeer 7 g (descOf bs) 3 [])
      else some ((s.modifyHome m ((bytesOfNat 8 ((peerAtomOp bs).apply 64 (s.wordAt (wordOf m.pa)).1.toNat (atomicValue bs))).map some) .peer (descCtx (descOf bs)) none).answerPeer 7 g
        (descOf bs) 0 (bytesOfNat 8 (s.wordAt (wordOf m.pa)).1.toNat)) := by
  have places := peerPlaces_ok yes h
  rw [granted_iff] at yes
  unfold State.peerAtomic
  dsimp only
  rw [show natOfBytes (bs.take 16) = descOf bs from rfl, if_neg (by simp [yes]), if_neg (by simp [aligned]), places]
  rfl

end Atomics

end Requests

/-! ### Answers -/

section Answers

variable {s : State} {o : RemoteOp} {g : WireFlit} {bs : List Byte} {isKind : RemoteKind → Bool} {data : RemoteOp → List Byte → List Byte}

theorem answered_of_op (h : s.peerOp (descTag (descOf bs)) (flitSrc g) isKind = some o) :
    answered g bs isKind data s = s.remoteDone o (if descStatus (descOf bs) = 0 then .ok (data o (bs.drop 16)) else .error (descStatus (descOf bs))) := by
  unfold answered descOf at *
  dsimp only
  rw [h]

/-- A transaction that holds its bytes, or has failed with a status. -/
def RemoteOp.ended (o : RemoteOp) : Except Nat (List Byte) → RemoteOp
  | .ok bs => { o with answer := some bs }
  | .error st => { o with failed := true, status := st }

/-- A load's transaction is held with its outcome until the load drops. -/
theorem State.remoteDone_load {r : FibreRef} {n part : Nat} (who : o.who = .load r n part) (res : Except Nat (List Byte)) :
    s.remoteDone o res = { s with remote := s.remote.map (fun x => if x.id == o.id then x.ended res else x) } := by
  unfold State.remoteDone
  rw [who]
  cases res <;> rfl

theorem mem_map_ended (mem : o ∈ s.remote) (res : Except Nat (List Byte)) : o.ended res ∈ s.remote.map (fun x => if x.id == o.id then x.ended res else x) :=
  List.mem_map.mpr ⟨o, mem, if_pos (beq_self_eq_true _)⟩

/-- A store's transaction ends. -/
theorem State.remoteDone_store_ok {r : FibreRef} {pc : Nat} (who : o.who = .store r pc) (bs : List Byte) :
    s.remoteDone o (.ok bs) = { s with remote := s.remote.filter (fun x => x.id != o.id) } := by
  unfold State.remoteDone
  rw [who]

end Answers

/-! ### The clauses of O50 and the obligation -/

section Clauses

variable {s : State} {i : Nat} {p : Port} {f : WireFlit} {pm : MemLoc} {l : Leaf}

/-- A request that arrives behind an earlier one of its device and context waits. -/
theorem peerRequests_held (held : ∃ w ∈ s.peerWaits, w.before f f.payload = true) :
    let waits := fun (k : Instr) (kind : Nat) => exec k s = .next { Claims.tookFlit s i f with peerWaits := s.peerWaits ++ [⟨kind, f, f.payload⟩] }
    (Claims.Arrives s i p f 2 → requestOk false (flitNum f) = true → waits (.peerReadRequest i f) 2) ∧
    (Claims.Arrives s i p f 4 → requestOk false (flitNum f) = true → waits (.peerWriteRequest i f) 4) ∧
    (Claims.Arrives s i p f 6 → requestOk true (flitNum f) = true → waits (.peerAtomicRequest i f) 6) :=
  have kept : ∀ kind, State.arrivePeer kind f f.payload (Claims.tookFlit s i f) = { Claims.tookFlit s i f with peerWaits := s.peerWaits ++ [⟨kind, f, f.payload⟩] } :=
    fun _ => State.arrivePeer_held (s := Claims.tookFlit s i f) held
  ⟨fun h ok => congrArg device ((takeFlit_arrives h (by decide) ok).trans (kept 2)), fun h ok => congrArg device ((takeFlit_arrives h (by decide) ok).trans (kept 4)),
    fun h ok => congrArg device ((takeFlit_arrives h (by decide) ok).trans (kept 6))⟩

/-- What a request with none before it does: it is performed, or waits behind a line of an engine command. -/
theorem arrivePeer_some {kind : Nat} {t u : State} (free : ¬ ∃ w ∈ t.peerWaits, w.before f f.payload = true) (h : t.peerRequest kind f f.payload = some u) :
    State.arrivePeer kind f f.payload t = u := by
  rw [State.arrivePeer_free free, h]
  rfl

theorem arrivePeer_none {kind : Nat} {t : State} (free : ¬ ∃ w ∈ t.peerWaits, w.before f f.payload = true) (h : t.peerRequest kind f f.payload = none) :
    State.arrivePeer kind f f.payload t = { t with peerWaits := t.peerWaits ++ [⟨kind, f, f.payload⟩] } := by
  rw [State.arrivePeer_free free, h]
  rfl

section Read

variable (h : Claims.Arrives s i p f 2) (ok : requestOk false (flitNum f) = true) (free : ¬ ∃ w ∈ s.peerWaits, w.before f f.payload = true)
include h ok free

theorem execPeerReadRequest_some {u : State} (reads : (Claims.tookFlit s i f).peerRead f f.payload = some u) : execPeerReadRequest i f s = .next u :=
  congrArg device ((takeFlit_arrives h (by decide) ok).trans (arrivePeer_some (t := Claims.tookFlit s i f) free reads))

theorem execPeerReadRequest_error {st : Nat}
    (places : peerPlaces (Claims.tookFlit s i f) (descCtx (descOf f.payload)) (descVa (descOf f.payload)) (descLen (descOf f.payload)) .load = .error st) :
    execPeerReadRequest i f s = .next ((Claims.tookFlit s i f).answerPeer 3 f (descOf f.payload) st []) :=
  execPeerReadRequest_some h ok free (State.peerRead_error places)

/-- A granted read of one place. -/
theorem peerRead_clause (granted : Granted s (descCtx (descOf f.payload)))
    (place : incoming (Claims.tookFlit s i f) (descCtx (descOf f.payload)) (descVa (descOf f.payload)) (descLen (descOf f.payload)) .load =
      some [(pm, descLen (descOf f.payload), l)]) :
    let t := Claims.tookFlit s i f
    let b := descOf f.payload
    let n := descLen b
    (incomingOwned t [(pm, n, l)] = true → execPeerReadRequest i f s = .next { t with peerWaits := s.peerWaits ++ [⟨2, f, f.payload⟩] }) ∧
    (incomingOwned t [(pm, n, l)] = false →
      ((∀ a, pm.pa ≤ a → a < pm.pa + n → wordOf a ∉ s.mem.poison) → ∃ u : State, execPeerReadRequest i f s = .next (u.answerPeer 3 f b 0 (sparseBytes s.mem.cells pm.pa n)) ∧
        u.mem = s.mem ∧ u.ports = t.ports ∧ u.teams = s.teams) ∧
      ((∃ a, pm.pa ≤ a ∧ a < pm.pa + n ∧ wordOf a ∈ s.mem.poison) → ∃ u : State, execPeerReadRequest i f s = .next (u.answerPeer 3 f b 3 []) ∧
        u.mem = s.mem ∧ u.ports = t.ports ∧ Claims.OneMore s.life u 4 65)) := by
  intro t b n
  have places : peerPlaces t (descCtx b) (descVa b) n .load = .ok [(pm, n, l)] := peerPlaces_ok (s := t) granted place
  have read : HomeChanged t ((linesOf (placeWords pm n)).foldl State.recallLine t) := HomeChanged.foldl (fun s l => s.recallLine_home l) _ _
  refine ⟨fun owned => ?_, fun owned => ⟨fun clean => ⟨_, execPeerReadRequest_some h ok free ?_, read.mem, read.ports, read.teams⟩,
    fun poisoned => ⟨State.lifeCount ((linesOf (placeWords pm n)).foldl State.recallLine t) 4 65 1, execPeerReadRequest_some h ok free ?_, read.mem, read.ports, ?_⟩⟩⟩
  · exact congrArg device ((takeFlit_arrives h (by decide) ok).trans (arrivePeer_none (t := t) free (State.peerRead_owned places owned)))
  · refine (State.peerRead_one places owned).trans (congrArg some (if_neg fun any => ?_))
    obtain ⟨a, lo, hi, bad⟩ := (placeWords_poisoned (s := t) (Nat.succ_pos _)).mp any
    exact clean a lo hi bad
  · exact (State.peerRead_one places owned).trans (congrArg some (if_pos ((placeWords_poisoned (s := t) (Nat.succ_pos _)).mpr poisoned)))
  · have counted := State.lifeCount_oneMore ((linesOf (placeWords pm n)).foldl State.recallLine t) 4 65
    rwa [read.life] at counted

end Read

section Write

variable (h : Claims.Arrives s i p f 4) (ok : requestOk false (flitNum f) = true) (free : ¬ ∃ w ∈ s.peerWaits, w.before f f.payload = true)
include h ok free

theorem execPeerWriteRequest_some {u : State} (writes : (Claims.tookFlit s i f).peerWrite f f.payload = some u) : execPeerWriteRequest i f s = .next u :=
  congrArg device ((takeFlit_arrives h (by decide) ok).trans (arrivePeer_some (t := Claims.tookFlit s i f) free writes))

variable (small : descLen (descOf f.payload) ≤ 208) (whole : descLen (descOf f.payload) + 16 ≤ f.payload.length)
include small whole

theorem peerWrite_refused (no : ¬ Granted s (descCtx (descOf f.payload))) :
    execPeerWriteRequest i f s = .next ((Claims.tookFlit s i f).answerPeer 5 f (descOf f.payload) 2 []) :=
  execPeerWriteRequest_some h ok free (State.peerWrite_refused small whole (peerPlaces_refused (s := Claims.tookFlit s i f) no))

/-- A granted write of one place that is no gather. -/
theorem peerWrite_clause (granted : Granted s (descCtx (descOf f.payload)))
    (place : incoming (Claims.tookFlit s i f) (descCtx (descOf f.payload)) (descVa (descOf f.payload)) (descLen (descOf f.payload)) .store =
      some [(pm, descLen (descOf f.payload), l)])
    (plain : gatherInput (Claims.tookFlit s i f) (descCtx (descOf f.payload)) (descVa (descOf f.payload)) (descLen (descOf f.payload)) (flitSrc f) = none) :
    let t := Claims.tookFlit s i f
    let b := descOf f.payload
    let n := descLen b
    (incomingOwned t [(pm, n, l)] = true → execPeerWriteRequest i f s = .next { t with peerWaits := s.peerWaits ++ [⟨4, f, f.payload⟩] }) ∧
    (incomingOwned t [(pm, n, l)] = false →
      (s.sealHit (descCtx b) (descVa b) n = true → execPeerWriteRequest i f s = .next (t.answerPeer 5 f b 2 [])) ∧
      (s.sealHit (descCtx b) (descVa b) n = false → s.mem.wf = true → ∃ u : State, execPeerWriteRequest i f s = .next (u.answerPeer 5 f b 0 []) ∧ u.ports = t.ports ∧
        u.mem.full = s.mem.full ∧ (∀ k, k < n → sparseGet 0 u.mem.cells (pm.pa + k) = (writeData f.payload).getD k 0) ∧ Claims.OnlyBytes s u pm.pa n)) := by
  intro t b n
  have places : peerPlaces t (descCtx b) (descVa b) n .store = .ok [(pm, n, l)] := peerPlaces_ok (s := t) granted place
  refine ⟨fun owned => ?_, fun owned => ⟨fun sealed => ?_, fun open_ wf => ?_⟩⟩
  · exact congrArg device ((takeFlit_arrives h (by decide) ok).trans (arrivePeer_none (t := t) free (State.peerWrite_owned small whole places plain owned)))
  · exact execPeerWriteRequest_some h ok free (State.peerWrite_sealed small whole places plain owned sealed)
  · have length : (writeData f.payload).length = n := writeData_length whole
    have stored := t.writeHome_outside pm ((writeData f.payload).map some) .peer (descCtx b)
    have only := onlyBytes_of_home stored
    rw [length] at only
    refine ⟨_, execPeerWriteRequest_some h ok free (State.peerWrite_stored small whole places plain owned open_), stored.ports, (congrArg Memory.full stored.mem).trans rfl, fun k hk => ?_, only⟩
    rw [stored.mem]
    exact Memory.write_inside wf (by omega)

end Write

/-- The value an atomic of Table 17.2 leaves: a sum, or the new word where the old one was expected. -/
theorem peerAtomOp_apply {bs : List Byte} {old : Nat} (small : old < 2 ^ 64) :
    (descOp (descOf bs) = 0 → (peerAtomOp bs).apply 64 old (atomicValue bs) % 2 ^ 64 = (old + atomicValue bs) % 2 ^ 64) ∧
    (descOp (descOf bs) = 0xFF → (peerAtomOp bs).apply 64 old (atomicValue bs) % 2 ^ 64 = if old = atomicCompare bs then atomicValue bs else old) := by
  have eight : ∀ l : List Byte, natOfBytes (l.take 8) < 2 ^ 64 := fun l =>
    (natOfBytes_lt _).trans_le (Nat.pow_le_pow_right (n := 256) (by decide) (List.length_take_le 8 l))
  have compare : atomicCompare bs < 2 ^ 64 := eight _
  have value : atomicValue bs < 2 ^ 64 := eight _
  constructor
  · intro op
    simp [peerAtomOp, op, atomOp, AtomOp.apply]
  · intro op
    have expected : (BitVec.ofNat 64 (atomicCompare bs)).toNat % 2 ^ 64 = atomicCompare bs := by
      rw [BitVec.toNat_ofNat, Nat.mod_mod, Nat.mod_eq_of_lt compare]
    unfold peerAtomOp
    rw [if_pos op]
    simp only [AtomOp.apply, expected]
    split
    · exact Nat.mod_eq_of_lt value
    · exact Nat.mod_eq_of_lt small

section Atomic

variable (h : Claims.Arrives s i p f 6) (ok : requestOk true (flitNum f) = true) (free : ¬ ∃ w ∈ s.peerWaits, w.before f f.payload = true)
include h ok free

theorem execPeerAtomicRequest_some {u : State} (acts : (Claims.tookFlit s i f).peerAtomic f f.payload = some u) : execPeerAtomicRequest i f s = .next u :=
  congrArg device ((takeFlit_arrives h (by decide) ok).trans (arrivePeer_some (t := Claims.tookFlit s i f) free acts))

/-- An aligned atomic of a granted context on one word that no engine command owns. -/
theorem peerAtomic_clause (granted : Granted s (descCtx (descOf f.payload))) (aligned : descVa (descOf f.payload) % 8 = 0)
    (place : incoming (Claims.tookFlit s i f) (descCtx (descOf f.payload)) (descVa (descOf f.payload)) 8 .atomic = some [(pm, 8, l)]) (word : pm.pa % 8 = 0)
    (owned : incomingOwned (Claims.tookFlit s i f) [(pm, 8, l)] = false) :
    let t := Claims.tookFlit s i f
    let b := descOf f.payload
    (s.sealHit (descCtx b) (descVa b) 8 = true → execPeerAtomicRequest i f s = .next (t.answerPeer 7 f b 2 [])) ∧
    (s.sealHit (descCtx b) (descVa b) 8 = false → wordOf pm.pa ∈ s.mem.poison → execPeerAtomicRequest i f s = .next ((t.lifeCount 4 65 1).answerPeer 7 f b 3 [])) ∧
    (s.sealHit (descCtx b) (descVa b) 8 = false → wordOf pm.pa ∉ s.mem.poison → s.mem.wf = true →
      ∃ u : State, execPeerAtomicRequest i f s = .next (u.answerPeer 7 f b 0 (bytesOfNat 8 (Claims.valueAt s pm.pa 8))) ∧ u.ports = t.ports ∧ u.mem.full = s.mem.full ∧
        Claims.OnlyBytes s u pm.pa 8 ∧ (descOp b = 0 → Claims.valueAt u pm.pa 8 = (Claims.valueAt s pm.pa 8 + atomicValue f.payload) % 2 ^ 64) ∧
        (descOp b = 0xFF → Claims.valueAt u pm.pa 8 = if Claims.valueAt s pm.pa 8 = atomicCompare f.payload then atomicValue f.payload else Claims.valueAt s pm.pa 8)) := by
  intro t b
  have acts := State.peerAtomic_one (s := t) (g := f) granted aligned place
  rw [if_neg (Bool.eq_false_iff.mp owned), wordAt_toNat t word] at acts
  refine ⟨fun sealed => ?_, fun open_ poisoned => ?_, fun open_ clean wf => ?_⟩
  · exact execPeerAtomicRequest_some h ok free (acts.trans (if_pos sealed))
  · exact execPeerAtomicRequest_some h ok free (acts.trans ((if_neg (Bool.eq_false_iff.mp open_)).trans (if_pos (List.contains_iff_mem.mpr poisoned))))
  · have stored := t.modifyHome_outside pm ((bytesOfNat 8 ((peerAtomOp f.payload).apply 64 (Claims.valueAt t pm.pa 8) (atomicValue f.payload))).map some) .peer (descCtx b)
    have only := onlyBytes_of_home stored
    rw [bytesOfNat_length] at only
    have small : Claims.valueAt t pm.pa 8 < 2 ^ 64 := wordAt_toNat t word ▸ BitVec.isLt _
    have value := valueAt_of_written (s := t) wf stored.mem
    obtain ⟨add, swap⟩ := peerAtomOp_apply (bs := f.payload) small
    refine ⟨_, execPeerAtomicRequest_some h ok free (acts.trans ((if_neg (Bool.eq_false_iff.mp open_)).trans (if_neg (mt List.contains_iff_mem.mp clean)))), stored.ports,
      (congrArg Memory.full stored.mem).trans rfl, only, fun op => value.trans (add op), fun op => value.trans (swap op)⟩

end Atomic

/-- An answer to a load's transaction ends it with its bytes, or with its status. -/
theorem peerAnswer_load {o : RemoteOp} {k : Instr} {isKind : RemoteKind → Bool} {data : RemoteOp → List Byte → List Byte} {r : FibreRef} {m part : Nat} {bs : List Byte}
    (acts : exec k s = device (answered f f.payload isKind data (Claims.tookFlit s i f))) (named : (Claims.tookFlit s i f).peerOp (descTag (descOf f.payload)) (flitSrc f) isKind = some o)
    (mem : o ∈ s.remote) (bytes : data o (f.payload.drop 16) = bs) (who : o.who = .load r m part) :
    (descStatus (descOf f.payload) = 0 → ∃ (u : State) (y : RemoteOp), exec k s = .next u ∧ u.mem = s.mem ∧ u.teams = s.teams ∧ y ∈ u.remote ∧
      y = { o with answer := some bs }) ∧
    (descStatus (descOf f.payload) ≠ 0 → ∃ (u : State) (y : RemoteOp), exec k s = .next u ∧ u.mem = s.mem ∧ u.teams = s.teams ∧ y ∈ u.remote ∧
      y = { o with failed := true, status := descStatus (descOf f.payload) }) := by
  subst bytes
  have held := fun res => mem_map_ended (s := s) mem res
  rw [acts, answered_of_op named, State.remoteDone_load who]
  refine ⟨fun good => ?_, fun bad => ?_⟩
  · rw [if_pos good]
    exact ⟨_, _, rfl, rfl, rfl, held (.ok _), rfl⟩
  · rw [if_neg bad]
    exact ⟨_, _, rfl, rfl, rfl, held (.error _), rfl⟩

/-- A write's acknowledgement ends its transaction. -/
theorem peerAck_store {o : RemoteOp} {k : Instr} {isKind : RemoteKind → Bool} {data : RemoteOp → List Byte → List Byte} {r : FibreRef} {pc : Nat}
    (acts : exec k s = device (answered f f.payload isKind data (Claims.tookFlit s i f))) (named : (Claims.tookFlit s i f).peerOp (descTag (descOf f.payload)) (flitSrc f) isKind = some o)
    (good : descStatus (descOf f.payload) = 0) (who : o.who = .store r pc) :
    ∃ u : State, exec k s = .next u ∧ u.mem = s.mem ∧ u.teams = s.teams ∧ ∀ y ∈ u.remote, y.id ≠ o.id := by
  rw [acts, answered_of_op named, if_pos good, State.remoteDone_store_ok who]
  exact ⟨_, rfl, rfl, rfl, fun y hy => by simpa using (List.mem_filter.mp hy).2⟩

end Clauses

/-- Settles O50: each clause is one of the equations above. A page with no table entry is status 1, an invalid entry status 5 (log entry 60); a sealed slot is status 2 and changes no tag (log entry 45). -/
theorem peerResult : Obligations.PeerResult := by
  intro s i p f pm l
  refine ⟨fun k hk h => flitStep_clauses hk h, peerRequests_held, ?_, ?_, ?_, ?_, ?_⟩
  · exact fun kind status data j q hj hq => ⟨_, State.enqueueD_queue _ _ _ _ _ _ hj hq, rfl⟩
  · intro h ok free
    refine ⟨fun no => execPeerReadRequest_error h ok free (peerPlaces_refused no), fun yes none => ⟨fun bad => ?_, fun valid => ?_⟩, fun yes place => ?_⟩
    · exact execPeerReadRequest_error h ok free (peerPlaces_invalid yes none bad)
    · exact execPeerReadRequest_error h ok free (peerPlaces_unmapped yes none valid)
    · exact peerRead_clause h ok free yes place
  · intro h ok free small whole
    refine ⟨peerWrite_refused h ok free small whole, fun yes place owned plain => ?_, fun yes place owned => ⟨fun sealed plain => ?_, fun open_ => ?_⟩⟩
    · obtain ⟨waits, -⟩ := peerWrite_clause h ok free small whole yes place plain
      exact waits owned
    · obtain ⟨-, performed⟩ := peerWrite_clause h ok free small whole yes place plain
      obtain ⟨refused, -⟩ := performed owned
      exact refused sealed
    · obtain ⟨-, performed⟩ := peerWrite_clause h ok free small whole yes place (gatherInput_none open_)
      obtain ⟨-, stored⟩ := performed owned
      exact stored open_
  · intro h ok free
    refine ⟨fun no => execPeerAtomicRequest_some h ok free (State.peerAtomic_refused no), fun yes off => execPeerAtomicRequest_some h ok free (State.peerAtomic_misaligned yes off), ?_⟩
    exact fun yes aligned place word owned => peerAtomic_clause h ok free yes aligned place word owned
  · intro o _ mem _ ok
    refine ⟨fun m kind h named r m' part who => ?_, fun g v cmp kind h named r m part who => ?_, fun bs r pc kind who good h named => ?_⟩
    · exact peerAnswer_load (k := .peerReadResponse i f) (congrArg device (takeFlit_arrives h (by decide) ok)) named mem (by rw [kind]) who
    · exact peerAnswer_load (k := .peerAtomicResponse i f) (congrArg device (takeFlit_arrives h (by decide) ok)) named mem rfl who
    · exact peerAck_store (k := .peerWriteAck i f) (congrArg device (takeFlit_arrives h (by decide) ok)) named good who

end Sys2Proof.Machine
end

section
/-! SUPPORT. Queue pairs of the host port (`Machine/Rdma.lean`): which operations they take, what they answer and what they refuse (02 R34 to R38). -/

namespace Sys2Proof.Machine

/-! ### What a queue pair sends -/

section Says

variable {s t : State} {q : Nat} {m : HostOut} {x : Qp}

theorem State.qp?_idx (h : s.qp? q = some x) : x.idx = q := by
  simpa using List.find?_some h

theorem State.qp?_updQp {g : Qp → Qp} (hg : ∀ x, (g x).idx = x.idx) : (s.updQp q g).qp? q = (s.qp? q).map g :=
  find?_map_upd (fun x : Qp => x.idx == q) g s.os.qps (fun x => by simp only [hg])

theorem State.qp?_updQp_other {g : Qp → Qp} {j : Nat} (hg : ∀ x, (g x).idx = x.idx) (h : j ≠ q) : (s.updQp q g).qp? j = s.qp? j :=
  find?_map_upd_other (fun x => by simp only [hg]) fun x hx => by
    have e : x.idx = j := by simpa using hx
    simp [e, h]

/-- A packet is sent by the queue pair's state: only that and what was sent last hang on it. -/
theorem State.sayQp_sends (s : State) (q : Nat) (m : HostOut) : Claims.Sends s (s.sayQp q m) q m := by
  unfold Claims.Sends State.sayQp
  split <;> exact ⟨rfl, rfl⟩

/-- The same where the state so far differs in neither. -/
theorem State.sayQp_sends_of (h : t.os.qps = s.os.qps ∧ t.os.host = s.os.host ∧ t.os.waiting = s.os.waiting ∧ t.os.out = s.os.out) : Claims.Sends s (t.sayQp q m) q m := by
  obtain ⟨qps, host, waiting, out⟩ := h
  have sent := t.sayQp_sends q m
  unfold Claims.Sends State.pausedQp State.qp? at *
  rwa [qps, host, waiting, out] at sent

theorem State.sayQp_os (s : State) (q : Nat) (m : HostOut) : ∃ waiting out, s.sayQp q m = s.updOs (fun o => { o with waiting := waiting, out := out }) := by
  unfold State.sayQp
  split
  · exact ⟨_, s.os.out, rfl⟩
  · exact ⟨s.os.waiting, _, rfl⟩

@[simp] theorem State.sayQp_teams (s : State) (q : Nat) (m : HostOut) : (s.sayQp q m).teams = s.teams := by
  obtain ⟨_, _, e⟩ := s.sayQp_os q m
  rw [e]
  rfl
@[simp] theorem State.sayQp_remote (s : State) (q : Nat) (m : HostOut) : (s.sayQp q m).remote = s.remote := by
  obtain ⟨_, _, e⟩ := s.sayQp_os q m
  rw [e]
  rfl
@[simp] theorem State.sayQp_cmds (s : State) (q : Nat) (m : HostOut) : (s.sayQp q m).cmds = s.cmds := by
  obtain ⟨_, _, e⟩ := s.sayQp_os q m
  rw [e]
  rfl
@[simp] theorem State.sayQp_life (s : State) (q : Nat) (m : HostOut) : (s.sayQp q m).life = s.life := by
  obtain ⟨_, _, e⟩ := s.sayQp_os q m
  rw [e]
  rfl
@[simp] theorem State.sayQp_qps (s : State) (q : Nat) (m : HostOut) : (s.sayQp q m).os.qps = s.os.qps := by
  obtain ⟨_, _, e⟩ := s.sayQp_os q m
  rw [e]
  rfl
@[simp] theorem State.sayQp_fills (s : State) (q : Nat) (m : HostOut) : (s.sayQp q m).os.fills = s.os.fills := by
  obtain ⟨_, _, e⟩ := s.sayQp_os q m
  rw [e]
  rfl

/-- A queue pair without open transactions enters the error state with a NAK. -/
def State.refuse (s : State) (q : Nat) (k : Nak) : State := (s.updQp q (fun y => { y with error := true, pending := [] })).sayQp q (.nak q k)

theorem State.nakError_idle {k : Nak} (idle : s.qpOps q = []) : s.nakError q k = s.refuse q k := by
  unfold State.nakError State.errorQp
  rw [idle]
  rfl

end Says

/-! ### Operations that arrive (02 R36 to R38) -/

section Arriving

variable {s : State} {q key va len : Nat} {x : Qp} {bytes : List (BitVec 8)} {v cmp : BitVec 64} {op : HostOp}

/-- The steps of operations that arrive on a queue pair. -/
def arrivals (q key va len : Nat) (bytes : List (BitVec 8)) (v cmp : BitVec 64) : List (Instr × HostOp) :=
  [(.rdmaWriteReceived q key va bytes, .write key va bytes), (.rdmaReadReceived q key va len, .read key va len), (.rdmaFetchAddReceived q key va v, .fetchAdd key va v),
    (.rdmaCompareSwapReceived q key va cmp v, .compareSwap key va cmp v), (.rdmaInvalidRequest q, .invalid)]

theorem exec_arrival {i : Instr × HostOp} (hi : i ∈ arrivals q key va len bytes v cmp) (s : State) : exec i.1 s = device (withQp q s (fun x => arriveHost x i.2 s)) := by
  simp only [arrivals, List.mem_cons, List.not_mem_nil, or_false] at hi
  rcases hi with rfl | rfl | rfl | rfl | rfl <;> rfl

theorem arrivals_mem (q key va len : Nat) (bytes : List (BitVec 8)) (v cmp : BitVec 64) :
    (Instr.rdmaWriteReceived q key va bytes, HostOp.write key va bytes) ∈ arrivals q key va len bytes v cmp ∧
    (Instr.rdmaReadReceived q key va len, HostOp.read key va len) ∈ arrivals q key va len bytes v cmp ∧
    (Instr.rdmaFetchAddReceived q key va v, HostOp.fetchAdd key va v) ∈ arrivals q key va len bytes v cmp ∧
    (Instr.rdmaCompareSwapReceived q key va cmp v, HostOp.compareSwap key va cmp v) ∈ arrivals q key va len bytes v cmp ∧
    (Instr.rdmaInvalidRequest q, HostOp.invalid) ∈ arrivals q key va len bytes v cmp := by
  simp [arrivals]

/-- The host port is up. -/
def PortUp (s : State) : Prop := s.os.powered = true ∧ s.os.host.up = true

theorem withQp_down {k : Qp → State} (h : ¬ PortUp s) : withQp q s k = s := by
  unfold withQp
  refine if_pos ?_
  rw [Bool.not_eq_true', Bool.eq_false_iff, Ne, Bool.and_eq_true]
  exact h

/-- What queue pair 1 and the others answer where the port is up. -/
theorem withQp_up {k : Qp → State} (h : PortUp s) : withQp q s k =
    if q = 1 then ({ s with os := { s.os with mgmt := false, inbox := [] } } : State).say (.nak 1 .invalidRequest)
    else match s.qp? q with
      | none => s
      | some x => if x.error then s.sayQp q (.nak q .remoteAccess) else k x := by
  obtain ⟨powered, up⟩ := h
  unfold withQp
  exact if_neg (by simp [powered, up])

theorem withQp_unknown {k : Qp → State} (up : PortUp s) (other : q ≠ 1) (h : s.qp? q = none) : withQp q s k = s := by
  rw [withQp_up up, if_neg other, h]

theorem withQp_some {k : Qp → State} (up : PortUp s) (other : q ≠ 1) (h : s.qp? q = some x) : withQp q s k = if x.error then s.sayQp q (.nak q .remoteAccess) else k x := by
  rw [withQp_up up, if_neg other, h]

/-- A good queue pair takes what arrives. -/
structure GoodPair (s : State) (q : Nat) (x : Qp) : Prop where
  up : PortUp s
  other : q ≠ 1
  pair : s.qp? q = some x
  good : x.error = false

theorem GoodPair.exec_arrival {i : Instr × HostOp} (h : GoodPair s q x) (hi : i ∈ arrivals q key va len bytes v cmp) : exec i.1 s = .next (arriveHost x i.2 s) := by
  rw [Machine.exec_arrival hi, withQp_some h.up h.other h.pair, if_neg (Bool.eq_false_iff.mp h.good)]
  rfl

/-- A 17th outstanding READ or atomic (02 R37). -/
theorem arriveHost_many (idx : x.idx = q) (fetches : op.fetches = true) (many : 16 ≤ s.fetchesOut x) (idle : s.qpOps q = []) :
    arriveHost x op s = s.refuse q .invalidRequest := by
  subst idx
  unfold arriveHost
  rw [if_pos (by simp [fetches, many]), State.nakError_idle idle]

theorem not_many (few : op.fetches = false ∨ s.fetchesOut x < 16) : ¬ (op.fetches && decide (16 ≤ s.fetchesOut x)) = true := by
  rcases few with e | e
  · simp [e]
  · simp [Nat.not_le.mpr e]

/-- An operation waits behind the queue pair's earlier ones. -/
theorem arriveHost_waits (idx : x.idx = q) (busy : x.pending ≠ []) (few : op.fetches = false ∨ s.fetchesOut x < 16) :
    arriveHost x op s = s.updQp q (fun y => { y with pending := y.pending ++ [op] }) := by
  subst idx
  unfold arriveHost
  dsimp only
  rw [if_neg (not_many few), if_neg (by simpa using busy)]

/-- With none before it an operation is performed, if it can be. -/
theorem arriveHost_performs {t : State} (free : x.pending = []) (few : s.fetchesOut x < 16) (h : performHost x op s = some t) : arriveHost x op s = t := by
  unfold arriveHost
  dsimp only
  rw [if_neg (not_many (.inr few)), if_pos (by simp [free]), h]
  rfl

theorem GoodPair.performs (h : GoodPair s q x) (free : x.pending = []) (few : s.fetchesOut x < 16) {i : Instr × HostOp} {t : State} (hi : i ∈ arrivals q key va len bytes v cmp) (acts : performHost x i.2 s = some t) : exec i.1 s = .next t :=
  (h.exec_arrival hi).trans (congrArg _ (arriveHost_performs free few acts))

/-- An operation whose key, address or length does not pass. -/
theorem performHost_refused {k : Nak} (idx : x.idx = q) (idle : s.qpOps q = []) (h : op.refused x = some k) : performHost x op s = some (s.refuse q k) := by
  subst idx
  unfold performHost
  rw [h]
  exact congrArg some (State.nakError_idle idle)

end Arriving

end Sys2Proof.Machine
end

section
/-! SUPPORT. Tags that a queue pair's operations make FULL (03 R78 to R80): what their release changes, and what it leaves. -/

namespace Sys2Proof.Machine

/-! ### Bytes and the host port while tags turn FULL -/

/-- From `s` to `t` no byte of memory and nothing at the host port has changed. -/
def BytesKept (s t : State) : Prop := t.mem.cells = s.mem.cells ∧ t.os = s.os

section Kept

variable {s t u : State}

theorem BytesKept.refl (s : State) : BytesKept s s := ⟨rfl, rfl⟩

theorem BytesKept.trans (h : BytesKept s t) (h' : BytesKept t u) : BytesKept s u := ⟨h'.1.trans h.1, h'.2.trans h.2⟩

theorem BytesKept.foldl {α : Type} {g : State → α → State} (hg : ∀ s a, BytesKept s (g s a)) (l : List α) (s : State) : BytesKept s (l.foldl g s) := by
  induction l generalizing s with
  | nil => exact BytesKept.refl s
  | cons a l ih => exact (hg s a).trans (ih _)

theorem State.acquireFor_kept (s : State) (r : FibreRef) (st : Strength) : BytesKept s (s.acquireFor r st) := by
  unfold State.acquireFor
  repeat' split
  all_goals exact ⟨rfl, rfl⟩

theorem serveWaiter_kept (v : Dword) (w : Waiter) (s : State) : BytesKept s (serveWaiter v w s) := by
  refine BytesKept.trans ?_ (State.acquireFor_kept _ w.who w.st)
  split <;> exact ⟨rfl, rfl⟩

theorem serveAll_kept (v : Dword × Bool) (ws : List Waiter) (s : State) : BytesKept s (serveAll v ws s) :=
  BytesKept.foldl (fun s x => by
    split
    · exact ⟨rfl, rfl⟩
    · exact serveWaiter_kept v.1 x s) ws s

theorem State.observeFull_kept (s : State) (w : Nat) : BytesKept s (s.observeFull w) := by
  unfold State.observeFull
  dsimp only
  split <;> exact ⟨rfl, rfl⟩

theorem State.fullTransition_kept (s : State) (w : Nat) : BytesKept s (s.fullTransition w) := by
  have observed : ∀ (ws : List Waiter) (gone : Waiter → Bool), BytesKept s (((serveAll (s.wordAt w) ws s).leaveWord gone).observeFull w) := fun ws gone =>
    (serveAll_kept (s.wordAt w) ws s).trans (BytesKept.trans ⟨rfl, rfl⟩ (State.observeFull_kept _ w))
  have served : ∀ (x : Waiter) (t : State), BytesKept s t → BytesKept s (serveAll (s.wordAt w) [x] (if (s.wordAt w).2 then t else t.setTag w false)) := fun x t ht => by
    refine ht.trans (BytesKept.trans ?_ (serveAll_kept _ [x] _))
    split <;> exact ⟨rfl, rfl⟩
  unfold State.fullTransition
  dsimp only
  split
  · exact (served _ _ (observed _ _)).trans ⟨rfl, rfl⟩
  · exact observed _ _

theorem State.fillAt_kept (s : State) (m : MemLoc) (w : Writer) (ctx : Nat) (core : Option CoreId) : BytesKept s (s.fillAt m none w ctx core) := by
  unfold State.fillAt
  dsimp only
  split
  · exact BytesKept.refl s
  · have set_ : BytesKept s (s.setTag (wordOf m.pa) true) := ⟨rfl, rfl⟩
    exact set_.trans (State.fullTransition_kept _ _)

/-- The tags that wait for a queue pair's collapses and need wait no longer. -/
def State.readyFills (s : State) : List QpFill := s.os.fills.filter (fun x => !s.collapsesOf (.qp x.qp))

/-- The list of them is taken off the host port's, then each is set. -/
def State.fillsTaken (s : State) : State := s.updOs (fun o => { o with fills := o.fills.filter (fun x => !s.readyFills.contains x) })

theorem State.releaseFills_eq (s : State) : s.releaseFills = s.readyFills.foldl (fun (s : State) x => s.fillAt x.m none (.qp x.qp) x.ctx none) s.fillsTaken := rfl

theorem State.releaseFills_kept (s : State) : BytesKept s.fillsTaken s.releaseFills :=
  BytesKept.foldl (fun s (x : QpFill) => s.fillAt_kept x.m _ _ _) _ _

/-- Tags of a queue pair are added to those that wait. -/
def State.addFills (s : State) (q : Qp) (ms : List MemLoc) : State := s.updOs (fun o => { o with fills := o.fills ++ ms.map (fun m => ⟨q.idx, q.ctx, m⟩) })

theorem State.qpFills_eq (s : State) (q : Qp) (ms : List MemLoc) : s.qpFills q ms = (s.addFills q ms).releaseFills := rfl

/-- Bytes stay, and of the host port all but the tags that wait. -/
theorem State.qpFills_kept (s : State) (q : Qp) (ms : List MemLoc) :
    (s.qpFills q ms).mem.cells = s.mem.cells ∧ ∃ fills, (s.qpFills q ms).os = { s.os with fills := fills } := by
  obtain ⟨cells, os⟩ := (s.addFills q ms).releaseFills_kept
  exact ⟨cells, _, os⟩

/-- Where no tag is ready nothing else changes. -/
theorem State.releaseFills_waiting (h : s.readyFills = []) : s.releaseFills = s.fillsTaken := by
  rw [State.releaseFills_eq, h]
  rfl

end Kept

/-! ### Tags with nobody waiting for them -/

section Quiet

variable {s : State} {w : Nat} {m : MemLoc}

/-- No waiter on a tag, and no graph to observe one. -/
def Quiet (s : State) : Prop := s.coh.waiters = [] ∧ ∀ c ∈ s.ctxs, c.graphs = []

/-- The bytes, teams, transactions and commands are those of `s`, and nobody waits. -/
structure QuietFrame (s t : State) : Prop where
  cells : t.mem.cells = s.mem.cells
  teams : t.teams = s.teams
  remote : t.remote = s.remote
  cmds : t.cmds = s.cmds
  quiet : Quiet t

theorem QuietFrame.trans {t u : State} (h : QuietFrame s t) (h' : QuietFrame t u) : QuietFrame s u :=
  ⟨h'.cells.trans h.cells, h'.teams.trans h.teams, h'.remote.trans h.remote, h'.cmds.trans h.cmds, h'.quiet⟩

theorem QuietFrame.onlyBytes {t u : State} {pa n : Nat} (h : Claims.OnlyBytes s t pa n) (h' : QuietFrame t u) : Claims.OnlyBytes s u pa n := by
  obtain ⟨bytes, teams, remote, cmds⟩ := h
  exact ⟨fun a ha => by rw [h'.cells, bytes a ha], h'.teams.trans teams, h'.remote.trans remote, h'.cmds.trans cmds⟩

/-- With no graph the scheduler takes no start. -/
theorem State.observeFull_quiet (h : Quiet s) : QuietFrame s (s.observeFull w) ∧ (s.observeFull w).mem = s.mem := by
  obtain ⟨waiters, graphs⟩ := h
  have none : ∀ c ∈ ((latchDeps s w).noteFill w).ctxs, c.graphs = [] := by
    intro c hc
    obtain ⟨x, hx, rfl⟩ := List.mem_map.mp hc
    simp [graphs x hx]
  have noStart : ((latchDeps s w).noteFill w).startAt w = Option.none := by
    unfold State.startAt
    rw [show ((latchDeps s w).noteFill w).ctxs.flatMap (fun c => c.graphs.map (fun g => (c.id, g))) = [] from
      List.flatMap_eq_nil_iff.mpr fun c hc => by rw [none c hc]; rfl]
    rfl
  unfold State.observeFull
  dsimp only
  rw [noStart]
  exact ⟨⟨rfl, rfl, rfl, rfl, waiters, none⟩, rfl⟩

theorem State.fullTransition_quiet (h : Quiet s) : QuietFrame s (s.fullTransition w) ∧ (s.fullTransition w).mem = s.mem := by
  have left : ∀ gone, Quiet (s.leaveWord gone) := fun gone => ⟨by simp [State.leaveWord, h.1], h.2⟩
  have eq : s.fullTransition w = (s.leaveWord (fun x => wordOf x.m.pa == w && !x.take)).observeFull w := by
    unfold State.fullTransition
    rw [h.1]
    dsimp only [List.filter_nil, List.find?_nil, serveAll, List.foldl_nil]
    split
    next e => cases e
    · rfl
  obtain ⟨frame, mem⟩ := State.observeFull_quiet (w := w) (left (fun x => wordOf x.m.pa == w && !x.take))
  rw [eq]
  exact ⟨⟨frame.cells, frame.teams, frame.remote, frame.cmds, frame.quiet⟩, mem⟩

theorem State.fillAt_quiet (h : Quiet s) (m : MemLoc) (wr : Writer) (ctx : Nat) (core : Option CoreId) :
    QuietFrame s (s.fillAt m none wr ctx core) ∧ ∀ w, w ∈ (s.fillAt m none wr ctx core).mem.full ↔ w ∈ s.mem.full ∨ w = wordOf m.pa := by
  unfold State.fillAt
  dsimp only
  split
  next full =>
    refine ⟨⟨rfl, rfl, rfl, rfl, h⟩, fun w => ⟨.inl, ?_⟩⟩
    rintro (hw | rfl)
    · exact hw
    · exact List.contains_iff_mem.mp full
  next =>
    obtain ⟨frame, mem⟩ := State.fullTransition_quiet (s := s.setTag (wordOf m.pa) true) (w := wordOf m.pa) h
    refine ⟨⟨frame.cells, frame.teams, frame.remote, frame.cmds, frame.quiet⟩, fun w => ?_⟩
    have inserted : (setInsert s.mem.full (wordOf m.pa)).contains w = true ↔ w ∈ s.mem.full ∨ w = wordOf m.pa := by
      rw [setInsert_contains]
      simp
    rw [mem]
    exact List.contains_iff_mem.symm.trans inserted

/-- Many tags set one after another. -/
theorem foldl_fillAt_quiet (l : List QpFill) (h : Quiet s) :
    QuietFrame s (l.foldl (fun s x => s.fillAt x.m none (.qp x.qp) x.ctx none) s) ∧
      ∀ w, w ∈ (l.foldl (fun (s : State) x => s.fillAt x.m none (.qp x.qp) x.ctx none) s).mem.full ↔ w ∈ s.mem.full ∨ ∃ x ∈ l, w = wordOf x.m.pa := by
  induction l generalizing s with
  | nil => exact ⟨⟨rfl, rfl, rfl, rfl, h⟩, fun w => by simp⟩
  | cons a l ih =>
    obtain ⟨first, full⟩ := State.fillAt_quiet h a.m (.qp a.qp) a.ctx none
    obtain ⟨rest, fulls⟩ := ih first.quiet
    refine ⟨first.trans rest, fun w => ?_⟩
    rw [List.foldl_cons, fulls, full]
    simp [or_assoc]

/-- Tags of a queue pair with no collapse under way and nobody waiting: they turn FULL at once (03 R78, R80). -/
theorem State.qpFills_quiet (h : Quiet s) (probes : s.coh.probes = []) (fills : s.os.fills = []) (q : Qp) (ms : List MemLoc) :
    QuietFrame s (s.qpFills q ms) ∧ ∀ w, w ∈ (s.qpFills q ms).mem.full ↔ w ∈ s.mem.full ∨ ∃ y ∈ ms, w = wordOf y.pa := by
  have ready : (s.addFills q ms).readyFills = ms.map (fun m => ⟨q.idx, q.ctx, m⟩) := by
    have all : (s.addFills q ms).os.fills = ms.map (fun m => ⟨q.idx, q.ctx, m⟩) := by
      simp [State.addFills, State.updOs, fills]
    have free : ∀ w, (s.addFills q ms).collapsesOf w = false := fun w => by
      unfold State.collapsesOf
      rw [show (s.addFills q ms).coh.probes = [] from probes]
      rfl
    simp [State.readyFills, all, free]
  rw [State.qpFills_eq, State.releaseFills_eq, ready]
  obtain ⟨frame, full⟩ := foldl_fillAt_quiet (s := (s.addFills q ms).fillsTaken) (ms.map (fun m => ⟨q.idx, q.ctx, m⟩)) h
  refine ⟨⟨frame.cells, frame.teams, frame.remote, frame.cmds, frame.quiet⟩, fun w => (full w).trans (or_congr_right ?_)⟩
  simp

/-- Tags of a queue pair with a collapse of its writes under way wait for it (03 R80). -/
theorem State.qpFills_waiting (q : Qp) (ms : List MemLoc) (fills : s.os.fills = []) (collapses : ms = [] ∨ s.collapsesOf (.qp q.idx) = true) :
    s.qpFills q ms = s.updOs (fun o => { o with fills := ms.map (fun m => ⟨q.idx, q.ctx, m⟩) }) := by
  have all : (s.addFills q ms).os.fills = ms.map (fun m => ⟨q.idx, q.ctx, m⟩) := by
    simp [State.addFills, State.updOs, fills]
  have none : (s.addFills q ms).readyFills = [] := by
    unfold State.readyFills
    rw [all]
    refine List.filter_eq_nil_iff.mpr fun y hy => ?_
    obtain ⟨m, hm, rfl⟩ := List.mem_map.mp hy
    rcases collapses with rfl | collapses
    · simp at hm
    · have same : (s.addFills q ms).collapsesOf (.qp q.idx) = true := collapses
      simp [same]
  rw [State.qpFills_eq, State.releaseFills_waiting none]
  unfold State.fillsTaken
  rw [none]
  simp [State.addFills, State.updOs, fills]

end Quiet

end Sys2Proof.Machine
end

section
/-! SUPPORT. RDMA WRITEs, READs and atomics as they are performed (`Machine/Rdma.lean`; 03 R73 to R80). -/

namespace Sys2Proof.Machine

/-! ### Collapse probes -/

/-- No die is registered as a holder and no probe is under way. -/
def Unheld (s : State) : Prop := (∀ r ∈ s.coh.regions, r.holders = 0) ∧ s.coh.probes = []

/-- The probes under way at `s` still are at `t`, and dies that hold nothing go on holding nothing. -/
def ProbesGrow (s t : State) : Prop := (∀ p ∈ s.coh.probes, p ∈ t.coh.probes) ∧ (Unheld s → Unheld t)

section Probes

variable {s t u : State}

theorem ProbesGrow.refl (s : State) : ProbesGrow s s := ⟨fun _ h => h, id⟩

theorem ProbesGrow.trans (h : ProbesGrow s t) (h' : ProbesGrow t u) : ProbesGrow s u := by
  obtain ⟨grow, unheld⟩ := h
  obtain ⟨grow', unheld'⟩ := h'
  exact ⟨fun p hp => grow' p (grow p hp), fun hs => unheld' (unheld hs)⟩

theorem ProbesGrow.foldl {α : Type} {g : State → α → State} (hg : ∀ s a, ProbesGrow s (g s a)) (l : List α) (s : State) : ProbesGrow s (l.foldl g s) := by
  induction l generalizing s with
  | nil => exact ProbesGrow.refl s
  | cons a l ih => exact (hg s a).trans (ih _)

/-- Probes and the directory as they were. -/
theorem ProbesGrow.of_same (probes : t.coh.probes = s.coh.probes) (regions : t.coh.regions = s.coh.regions) : ProbesGrow s t :=
  ⟨fun _ hp => probes ▸ hp, fun ⟨holders, empty⟩ => ⟨fun r hr => holders r (regions ▸ hr), probes.trans empty⟩⟩

theorem ProbesGrow.collapsesOf {w : Writer} (h : ProbesGrow s t) (hs : s.collapsesOf w = true) : t.collapsesOf w = true := by
  obtain ⟨p, hp, writer⟩ := List.any_eq_true.mp hs
  exact List.any_eq_true.mpr ⟨p, h.1 p hp, writer⟩

theorem Unheld.region (h : Unheld s) (i : Nat) : (s.region i).holders = 0 := by
  unfold State.region
  cases found : s.coh.regions.find? (fun r => r.idx == i) with
  | none => rfl
  | some r => exact h.1 r (List.mem_of_find?_eq_some found)

theorem maskDies_zero : maskDies 0 = [] := by decide

theorem Unheld.putRegion (h : Unheld s) {r : Region} (hr : r.holders = 0) : Unheld (s.putRegion r) := by
  obtain ⟨holders, probes⟩ := h
  refine ⟨fun x hx => ?_, probes⟩
  rcases List.mem_cons.mp hx with rfl | hx
  · exact hr
  · exact holders x (List.mem_filter.mp hx).1

/-- Probes are added, and none where no die holds anything. -/
theorem ProbesGrow.of_append (ps : List Probe) (probes : t.coh.probes = s.coh.probes ++ ps) (regions : t.coh.regions = s.coh.regions) (none : Unheld s → ps = []) : ProbesGrow s t :=
  ⟨fun p hp => probes ▸ List.mem_append_left ps hp, fun hs => ⟨fun r hr => hs.1 r (regions ▸ hr), by rw [probes, hs.2, none hs]; rfl⟩⟩

theorem State.keepHome_probes (s : State) (m : MemLoc) (line : Nat) (ws : List Nat) (write : Bool) (ctx : Nat) : ProbesGrow s (s.keepHome m line ws write ctx) := by
  obtain ⟨cs, hs, -, eq⟩ := s.keepHome_slices m line ws write ctx
  rw [eq]
  exact ProbesGrow.of_same rfl rfl

theorem State.sendProbes_probes (s : State) (line : Nat) (w : Writer) (ctx : Nat) : ProbesGrow s (s.sendProbes line w ctx) :=
  ProbesGrow.of_append ((maskDies (s.region (regionOf line)).holders).map (fun d => Probe.mk line d false false w ctx)) rfl rfl fun h => by
    rw [h.region, maskDies_zero]
    rfl

theorem State.collapseExcess_probes (s : State) (region : Nat) (w : Writer) (ctx : Nat) : ProbesGrow s (s.collapseExcess region w ctx) := by
  refine ProbesGrow.of_append _ rfl rfl fun h => ?_
  have none : excessHolders (s.region region) = [] := by
    unfold excessHolders
    rw [h.region, maskDies_zero]
    exact List.take_nil
  rw [none]
  rfl

theorem State.directoryWrite_probes (s : State) (line : Nat) (w : Writer) (atomic : Bool) (ctx : Nat) : ProbesGrow s (s.directoryWrite line w atomic ctx) := by
  refine ProbesGrow.trans ?_ (State.collapseExcess_probes _ _ w ctx)
  have put : ∀ (b : Bool) (t : State), t.coh = s.coh → ∀ (ws dg : Nat),
      ProbesGrow s (if b then t.putRegion { s.region (regionOf line) with writes := ws, degree := dg } else t) := fun b t same ws dg => by
    cases b
    · exact ProbesGrow.of_same (congrArg Coherence.probes same) (congrArg Coherence.regions same)
    · refine ⟨fun p hp => ?_, fun h => Unheld.putRegion ?_ (h.region _)⟩
      · rw [← same] at hp
        exact hp
      · unfold Unheld at *
        rwa [same]
  refine put _ _ ?_ _ _
  split <;> rfl

theorem State.writeHome_probes (s : State) (m : MemLoc) (bytes : List (Option Byte)) (w : Writer) (ctx : Nat) : ProbesGrow s (s.writeHome m bytes w ctx .outside) := by
  have recalled : ProbesGrow s { s.recall (wordsTouched m.pa bytes) with mem := s.mem.write m.pa bytes } := ProbesGrow.of_same rfl rfl
  exact recalled.trans (ProbesGrow.foldl (fun s l => ((s.keepHome_probes m l _ true ctx).trans (State.sendProbes_probes _ l w ctx)).trans
    (State.directoryWrite_probes _ l w false ctx)) _ _)

/-! ### The collapse of a line at once -/

theorem foldl_count_coh (l : List Probe) (s : State) : (l.foldl (fun s p => s.count p.ctx 0x42 1) s).coh = s.coh := by
  induction l generalizing s with
  | nil => rfl
  | cons p l ih => exact ih _

theorem State.collapseNow_unheld {line ctx : Nat} (h : Unheld s) : Unheld (s.collapseNow line ctx) := by
  unfold State.collapseNow
  dsimp only
  have left : ∀ t : State, Unheld t → Unheld (t.putRegion { t.region (regionOf line) with
      holders := ((maskDies (t.region (regionOf line)).holders).filter (fun d => t.holdsRegion d (regionOf line))).foldl (fun h d => h ||| BitVec.twoPow 8 d) 0 }) := fun t ht => by
    refine ht.putRegion ?_
    rw [ht.region, maskDies_zero]
    rfl
  refine left _ ⟨fun r hr => ?_, ?_⟩
  · refine h.1 r ?_
    rwa [← foldl_count_coh ((s.coh.probes.filter (fun p => p.line == line && !p.answered)).filter (fun p => !s.holdsLine p.die line)) s]
  · have same := foldl_count_coh ((s.coh.probes.filter (fun p => p.line == line && !p.answered)).filter (fun p => !s.holdsLine p.die line)) s
    exact (congrArg (fun c : Coherence => c.probes.filter (fun p => p.line != line)) same).trans (by rw [h.2, List.filter_nil])

/-- A word that is changed at its home, where no die holds anything. -/
theorem State.modifyHome_unheld {m : MemLoc} {bytes : List (Option Byte)} {w : Writer} {ctx : Nat} (h : Unheld s) : Unheld (s.modifyHome m bytes w ctx none) := by
  have before : ∀ (l : List Nat) (s : State), Unheld s → Unheld (l.foldl (fun s l => ((s.recallLine l).collapseNow l ctx).keepHome m l (wordsTouched m.pa bytes) true ctx) s) := by
    intro l
    induction l with
    | nil => exact fun s hs => hs
    | cons a l ih =>
      intro s hs
      have recalled : Unheld (s.recallLine a) := hs
      exact ih _ ((State.keepHome_probes _ m a _ true ctx).2 (State.collapseNow_unheld recalled))
  have written : ∀ t : State, Unheld t → Unheld { t with mem := t.mem.write m.pa bytes } := fun t ht => ht
  exact (ProbesGrow.foldl (fun s l => s.directoryWrite_probes l w true ctx) (linesOf (wordsTouched m.pa bytes)) _).2 (written _ (before _ s h))

end Probes

/-! ### Parts of an access within one page -/

section Page

variable {s : State} {ctx va va' n : Nat} {k : AccKind} {m : MemLoc} {l : Leaf}

theorem bitsOf_same_page (page : va' / 2 ^ 16 = va / 2 ^ 16) (lo w : Nat) : bitsOf va' (16 + lo) w = bitsOf va (16 + lo) w := by
  unfold bitsOf
  rw [Nat.pow_add, ← Nat.div_div_eq_div_mul, ← Nat.div_div_eq_div_mul, page]

/-- Addresses of one page have one table entry. -/
theorem leafFor_same_page (page : va' / 2 ^ 16 = va / 2 ^ 16) (s : State) (c die : Nat) : leafFor s c die va' = leafFor s c die va := by
  have walked : ∀ mem root, walk mem root va' = walk mem root va := fun mem root => by
    unfold walk
    rw [bitsOf_same_page page 26 10, bitsOf_same_page page 13 13, bitsOf_same_page page 0 13]
  have big : va' / 2 ^ 29 = va / 2 ^ 29 := by
    rw [show 2 ^ 29 = 2 ^ 16 * 2 ^ 13 from rfl, ← Nat.div_div_eq_div_mul, page, Nat.div_div_eq_div_mul]
  have swept : sweptLeaf s c die va' = sweptLeaf s c die va := by
    unfold sweptLeaf
    rw [page, big]
  unfold leafFor
  simp only [walked, swept]

/-- So a store to either is allowed or not. -/
theorem translate_same_page (page : va' / 2 ^ 16 = va / 2 ^ 16) (lt : va' < 2 ^ 52) {c die : Nat} (h : translate s c die 0 va .store false = .ok l) :
    translate s c die 0 va' .store false = .ok l := by
  have checks : ∀ l, checkLeaf .store 0 die va false l = none → checkLeaf .store 0 die va' false l = none := fun l hl => by
    by_cases write : l.write = false <;> by_cases weights : l.cls = 2 <;> simp_all [checkLeaf]
  unfold translate at *
  rw [if_neg (Nat.not_le.mpr lt), leafFor_same_page page]
  split at h
  · cases h
  · split at h
    · cases h
    · cases h
    next y found =>
      split at h
      · cases h
      next resident =>
        split at h
        · cases h
        next ok =>
          rw [if_neg resident, checks y ok]
          exact h

/-- The place of one page of an access from outside. -/
def pagePlace (s : State) (ctx : Nat) (k : AccKind) (p : Nat × Nat) : Option (MemLoc × Nat × Leaf) :=
  match translate s ctx 8 0 p.1 k false with
  | .ok l =>
    (match l.loc p.1 with
     | .mem m => if l.cls ≤ 1 ∧ !(l.exec && k != .load) then some (m, p.2, l) else none
     | _ => none)
  | _ => none

theorem incoming_eq : incoming s ctx va n k = if 2 ^ 52 < va + n then none else (pageParts 0 va n).mapM (pagePlace s ctx k) := rfl

/-- An access of one place lies in one page. -/
theorem incoming_one (h : incoming s ctx va n k = some [(m, n, l)]) : va + n ≤ 2 ^ 52 ∧ va % 65536 + n ≤ 65536 ∧ pagePlace s ctx k (va, n) = some (m, n, l) := by
  rw [incoming_eq] at h
  split at h
  next => cases h
  next small =>
    unfold pageParts at h
    split at h
    next one =>
      refine ⟨Nat.le_of_not_lt small, by omega, ?_⟩
      cases place : pagePlace s ctx k (va, n) with
      | none => simp [place] at h
      | some y => simpa [place] using h
    next two =>
      cases first : pagePlace s ctx k (va, 65536 - va % 65536) with
      | none => simp [first] at h
      | some y => cases second : pagePlace s ctx k (va / 65536 * 65536 + 65536, n - (65536 - va % 65536)) <;> simp [first, second] at h

theorem pagePlace_iff {p : Nat × Nat} : pagePlace s ctx k p = some (m, n, l) ↔
    translate s ctx 8 0 p.1 k false = .ok l ∧ l.cls ≤ 1 ∧ (l.exec && k != .load) = false ∧ p.2 = n ∧
      m = { pa := l.place p.1, va := p.1, cls := l.cls, policy := l.policy, part := l.part, pin0 := l.pin0 } := by
  have loc : ∀ y : Leaf, y.cls ≤ 1 → y.loc p.1 = .mem { pa := y.place p.1, va := p.1, cls := y.cls, policy := y.policy, part := y.part, pin0 := y.pin0 } := fun y hy =>
    if_pos (by omega)
  unfold pagePlace
  constructor
  · intro h
    split at h
    next y found =>
      split at h
      next place at_ =>
        split at h
        next allowed =>
          obtain ⟨cls, exec⟩ := allowed
          rw [loc y cls] at at_
          cases at_
          cases h
          exact ⟨found, cls, (Bool.not_eq_true' _).mp exec, rfl, rfl⟩
        next => cases h
      · cases h
    · cases h
  · rintro ⟨found, cls, exec, rfl, rfl⟩
    rw [found]
    dsimp only
    rw [loc l cls]
    exact if_pos ⟨cls, by simp [exec]⟩

/-- Part of a write that lies in one page is a write at the corresponding part of its place. -/
theorem incoming_part {off w : Nat} (h : incoming s ctx va n .store = some [(m, n, l)]) (fits : off + w ≤ n) (some_ : 0 < w) :
    ∃ m', m'.pa = m.pa + off ∧ incoming s ctx (va + off) w .store = some [(m', w, l)] := by
  obtain ⟨small, page, place⟩ := incoming_one h
  obtain ⟨found, cls, exec, -, rfl⟩ := pagePlace_iff.mp place
  have at_ : l.place (va + off) = l.place va + off := by
    have mapped : l.cls ≤ 2 := by omega
    unfold Leaf.place
    rw [if_pos mapped, if_pos mapped]
    by_cases big : l.big = true
    · rw [if_pos big, if_pos big]
      omega
    · rw [if_neg big, if_neg big]
      omega
  refine ⟨{ pa := l.place (va + off), va := va + off, cls := l.cls, policy := l.policy, part := l.part, pin0 := l.pin0 }, at_, ?_⟩
  rw [incoming_eq, if_neg (by omega), show pageParts 0 (va + off) w = [(va + off, w)] from if_pos (.inr (.inr (by omega)))]
  have part := (pagePlace_iff (s := s) (ctx := ctx) (k := .store) (l := l) (p := (va + off, w))).mpr ⟨translate_same_page (va' := va + off) (by omega) (by omega) found, cls, exec, rfl, rfl⟩
  simp [part]

end Page

/-! ### The packets of a WRITE -/

/-- Some parts cover a range one after another, none of them empty. -/
inductive Covers : Nat → Nat → List (Nat × Nat) → Prop
  | nil (va : Nat) : Covers va 0 []
  | cons {va w n : Nat} {ps : List (Nat × Nat)} (some_ : 0 < w) (rest : Covers (va + w) n ps) : Covers va (w + n) ((va, w) :: ps)

/-- A part lies in the range that the parts cover. -/
theorem Covers.mem {va n : Nat} {ps : List (Nat × Nat)} (h : Covers va n ps) {p : Nat × Nat} (hp : p ∈ ps) : ∃ off, p.1 = va + off ∧ off + p.2 ≤ n ∧ 0 < p.2 := by
  induction h with
  | nil => cases hp
  | @cons va w n ps some_ rest ih =>
    rcases List.mem_cons.mp hp with rfl | hp
    · exact ⟨0, rfl, by omega, some_⟩
    · obtain ⟨off, at_, fits, pos⟩ := ih hp
      exact ⟨w + off, by rw [at_, Nat.add_assoc], by omega, pos⟩

section Packets

/-- The parts of `w` bytes each that a range is cut into. -/
def cutEvery (w va n : Nat) : List (Nat × Nat) := (List.range ((n + w - 1) / w)).map (fun i => (va + w * i, min w (n - w * i)))

variable {w : Nat} (pos : 0 < w)
include pos

theorem cutEvery_zero (va : Nat) : cutEvery w va 0 = [] := by
  unfold cutEvery
  rw [Nat.div_eq_of_lt (by omega)]
  rfl

theorem cutEvery_cons (va : Nat) {n : Nat} (some_ : 0 < n) : cutEvery w va n = (va, min w n) :: cutEvery w (va + w) (n - w) := by
  have count : (n + w - 1) / w = (n - w + w - 1) / w + 1 := by
    rw [← Nat.add_div_right _ pos]
    by_cases le : w ≤ n
    · congr 1
      omega
    · rw [show n - w = 0 by omega, Nat.div_eq_of_lt_le (k := 1) (by omega) (by omega), Nat.div_eq_of_lt_le (k := 1) (by omega) (by omega)]
  unfold cutEvery
  rw [count, List.range_succ_eq_map, List.map_cons, List.map_map]
  refine congrArg₂ List.cons (by simp) (List.map_congr_left fun i _ => ?_)
  simp only [Function.comp_apply, Nat.succ_eq_add_one, Nat.mul_add, Nat.mul_one, Prod.mk.injEq]
  exact ⟨by omega, by omega⟩

theorem cutEvery_covers (va n : Nat) : Covers va n (cutEvery w va n) := by
  induction n using Nat.strong_induction_on generalizing va with
  | _ n ih =>
    rcases Nat.eq_zero_or_pos n with rfl | some_
    · rw [cutEvery_zero pos]
      exact Covers.nil va
    · rw [cutEvery_cons pos va some_]
      rcases Nat.le_total w n with le | le
      · have covered := Covers.cons pos (ih (n - w) (by omega) (va + w))
        rw [Nat.min_eq_left le]
        rwa [Nat.add_sub_cancel' le] at covered
      · rw [Nat.min_eq_right le, Nat.sub_eq_zero_of_le le, cutEvery_zero pos]
        exact Covers.cons some_ (Covers.nil _)

end Packets

theorem Qp.mtu_pos (x : Qp) : 0 < 256 * 2 ^ x.mtu := Nat.mul_pos (by decide) (Nat.two_pow_pos _)

theorem Qp.packets_covers (x : Qp) (va n : Nat) : Covers va n (x.packets va n) := cutEvery_covers x.mtu_pos va n

theorem Qp.packets_head (x : Qp) (va : Nat) {n : Nat} (some_ : 0 < n) : ∃ rest, x.packets va n = (va, min (256 * 2 ^ x.mtu) n) :: rest :=
  ⟨_, cutEvery_cons x.mtu_pos va some_⟩

/-- What fits in one packet is carried by one. -/
theorem Qp.packets_one (x : Qp) (va : Nat) {n : Nat} (some_ : 0 < n) (le : n ≤ 256 * 2 ^ x.mtu) : x.packets va n = [(va, n)] := by
  refine (cutEvery_cons x.mtu_pos va some_).trans ?_
  rw [Nat.min_eq_right le, Nat.sub_eq_zero_of_le le, cutEvery_zero x.mtu_pos]

/-! ### What a WRITE stores -/

/-- From `t` to `u` some bytes from `pa` up have been written, and nothing but them, the shared caches and counters has changed. -/
structure Stored (t u : State) (pa : Nat) (bs : List Byte) : Prop where
  home : HomeChanged { t with mem := u.mem } u
  full : u.mem.full = t.mem.full
  wf : u.mem.wf = true
  probes : ProbesGrow t u
  bytes : ∀ i, i < bs.length → sparseGet 0 u.mem.cells (pa + i) = bs.getD i 0
  others : ∀ a, a < pa ∨ pa + bs.length ≤ a → sparseGet 0 u.mem.cells a = sparseGet 0 t.mem.cells a

section Stores

variable {t t' u : State} {pa : Nat} {bs : List Byte}

theorem HomeChanged.withMem {mem : Memory} (h : HomeChanged { t with mem := mem } t') (mem' : Memory) : HomeChanged { t with mem := mem' } { t' with mem := mem' } := by
  obtain ⟨coh, f, waiters, hf, rfl⟩ := h
  exact ⟨coh, f, waiters, hf, rfl⟩

theorem Stored.refl (wf : t.mem.wf = true) (pa : Nat) : Stored t t pa [] :=
  ⟨HomeChanged.refl t, rfl, wf, ProbesGrow.refl t, fun i h => absurd h (by simp), fun _ _ => rfl⟩

/-- One packet's bytes after another's. -/
theorem Stored.append {ds : List Byte} (h : Stored t t' pa bs) (h' : Stored t' u (pa + bs.length) ds) : Stored t u pa (bs ++ ds) where
  home := (h.home.withMem u.mem).trans h'.home
  full := h'.full.trans h.full
  wf := h'.wf
  probes := h.probes.trans h'.probes
  bytes i hi := by
    rw [List.length_append] at hi
    by_cases first : i < bs.length
    · rw [h'.others _ (.inl (by omega)), h.bytes i first, List.getD_append _ _ _ _ first]
    · have later := h'.bytes (i - bs.length) (by omega)
      rw [show pa + bs.length + (i - bs.length) = pa + i by omega] at later
      rw [later, List.getD_append_right _ _ _ _ (by omega)]
  others a ha := by
    rw [List.length_append] at ha
    rw [h'.others a (by omega), h.others a (by omega)]

theorem State.writeHome_stored (wf : t.mem.wf = true) (m : MemLoc) (bs : List Byte) (w : Writer) (ctx : Nat) :
    Stored t (t.writeHome m (bs.map some) w ctx .outside) m.pa bs := by
  have home := t.writeHome_outside m (bs.map some) w ctx
  have mem := home.mem
  refine ⟨by rw [mem]; exact home, by rw [mem]; rfl, State.writeHome_wf wf, t.writeHome_probes m _ w ctx, fun i hi => ?_, fun a ha => ?_⟩
  · rw [mem]
    exact Memory.write_inside wf hi
  · rw [mem]
    exact Memory.write_other ha

theorem Stored.onlyBytes (h : Stored t u pa bs) : Claims.OnlyBytes t u pa bs.length := ⟨h.others, h.home.teams, h.home.remote, h.home.cmds⟩

/-- What is not written over the tables leaves every translation as it was. -/
theorem Stored.incoming {ctx n lo : Nat} (h : Stored t u pa bs) (stable : Claims.NoTable t ctx lo n) (inside : lo ≤ pa ∧ pa + bs.length ≤ lo + n) (va len : Nat) :
    incoming u ctx va len .store = incoming t ctx va len .store := by
  rw [h.home.incoming]
  exact stable u.mem (fun a ha => h.others a (by omega)) va len

theorem Stored.noTable {ctx n lo : Nat} (h : Stored t u pa bs) (stable : Claims.NoTable t ctx lo n) (inside : lo ≤ pa ∧ pa + bs.length ≤ lo + n) :
    Claims.NoTable u ctx lo n := by
  intro mem' same va len
  rw [h.incoming stable inside, (h.home.withMem mem').incoming]
  exact stable mem' (fun a ha => (same a ha).trans (h.others a (by omega))) va len

end Stores

/-! ### A WRITE on one page -/

section Write

variable {s : State} {x : Qp} {va n : Nat} {m : MemLoc} {l : Leaf}

theorem sealHit_part {ctx off w : Nat} (open_ : s.sealHit ctx va n = false) (fits : off + w ≤ n) : s.sealHit ctx (va + off) w = false := by
  refine List.any_eq_false.mpr fun r hr => ?_
  have apart := List.any_eq_false.mp open_ r hr
  simp only [Bool.and_eq_true, decide_eq_true_eq, not_and, not_lt] at apart ⊢
  intro ctx lo
  have := apart ctx (by omega)
  omega

theorem incomingOwned_part {m' : MemLoc} {off w : Nat} (free : incomingOwned s [(m, n, l)] = false) (at_ : m'.pa = m.pa + off) (fits : off + w ≤ n) (some_ : 0 < w) :
    incomingOwned s [(m', w, l)] = false := by
  have one : ∀ (m : MemLoc) (n : Nat), incomingOwned s [(m, n, l)] = false ↔ ∀ q ∈ s.owned, ¬ (lineOf m.pa ≤ q.1 ∧ q.1 ≤ lineOf (m.pa + n - 1)) := fun m n => by
    simp [incomingOwned]
  rw [one] at free ⊢
  rintro q hq ⟨lo, hi⟩
  refine free q hq ⟨(Nat.div_le_div_right ?_).trans lo, hi.trans (Nat.div_le_div_right ?_)⟩
  · omega
  · omega

/-- The packets of a WRITE that lies in one page of an unsealed range store its bytes, one packet or off the tables. -/
theorem writePackets_stores {ps : List (Nat × Nat)} {off w : Nat} (cover : Covers (va + off) w ps) (fits : off + w ≤ n) {bs : List Byte} (length : bs.length = w)
    {t : State} (wf : t.mem.wf = true) (place : incoming t x.ctx va n .store = some [(m, n, l)]) (open_ : t.sealHit x.ctx va n = false)
    (stable : ps.length ≤ 1 ∨ Claims.NoTable t x.ctx m.pa n) :
    ∃ u, writePackets x ps bs t = (true, u) ∧ Stored t u (m.pa + off) bs := by
  generalize start : va + off = a at cover
  induction cover generalizing off bs t with
  | nil =>
    rw [List.eq_nil_of_length_eq_zero length]
    exact ⟨t, rfl, Stored.refl wf _⟩
  | @cons a w rest ps some_ covered ih =>
    subst start
    obtain ⟨m', at_, part⟩ := incoming_part place (show off + w ≤ n by omega) some_
    have taken : (bs.take w).length = w := by simp [length]
    have stored := State.writeHome_stored wf m' (bs.take w) (.qp x.idx) x.ctx
    rw [at_] at stored
    have one : writePackets x ((va + off, w) :: ps) bs t = writePackets x ps (bs.drop w) (t.writeHome m' ((bs.take w).map some) (.qp x.idx) x.ctx .outside) := by
      have written := incomingWrite_one t m' l (bs.take w) (.qp x.idx) x.ctx
      rw [taken] at written
      rw [writePackets, part]
      dsimp only
      rw [if_neg (Bool.eq_false_iff.mp (sealHit_part open_ (by omega))), written]
    rw [one]
    cases ps with
    | nil =>
      cases covered
      refine ⟨_, rfl, ?_⟩
      have whole : bs.take w = bs := List.take_of_length_le (by omega)
      rw [whole] at stored ⊢
      exact stored
    | cons p ps =>
      have stable := stable.resolve_left (by simp)
      have inside : m.pa ≤ m.pa + off ∧ m.pa + off + (bs.take w).length ≤ m.pa + n := ⟨by omega, by omega⟩
      obtain ⟨u, packets, later⟩ := ih (off := off + w) (bs := bs.drop w) (t := t.writeHome m' ((bs.take w).map some) (.qp x.idx) x.ctx .outside) (by omega)
        (by simp [length]) stored.wf ((stored.incoming stable inside _ _).trans place) (by rw [stored.home.sealHit]; exact open_)
        (.inr (stored.noTable stable inside)) (by omega)
      refine ⟨u, packets, ?_⟩
      have both := stored.append (u := u) (ds := bs.drop w) (by rwa [taken, Nat.add_assoc])
      rwa [List.take_append_drop] at both

end Write

end Sys2Proof.Machine
end

section
/-! SUPPORT. The clauses on operations that arrive at a good queue pair (`Machine/Rdma.lean`; 02 R36 to R38, 03 R73 to R80). -/

namespace Sys2Proof.Machine

section Operations

variable {s : State} {q key va len : Nat} {x : Qp} {bytes : List (BitVec 8)} {v cmp : BitVec 64} {m : MemLoc} {l : Leaf}

/-! ### WRITEs -/

theorem hostWrite_stores (some_ : 0 < bytes.length) (wf : s.mem.wf = true) (place : incoming s x.ctx va bytes.length .store = some [(m, bytes.length, l)])
    (free : incomingOwned s [(m, bytes.length, l)] = false) (open_ : s.sealHit x.ctx va bytes.length = false)
    (stable : bytes.length ≤ 256 * 2 ^ x.mtu ∨ Claims.NoTable s x.ctx m.pa bytes.length) :
    ∃ u, Stored s u m.pa bytes ∧ hostWrite x va bytes s = some ((u.qpFills x (fowWords [(m, bytes.length, l)])).sayQp x.idx (.ack x.idx)) := by
  have cover := x.packets_covers va bytes.length
  have unowned : (x.packets va bytes.length).any (fun p => (incoming s x.ctx p.1 p.2 .store).any (incomingOwned s)) = false := by
    refine List.any_eq_false.mpr fun p hp => ?_
    obtain ⟨off, at_, fits, pos⟩ := cover.mem hp
    obtain ⟨m', there, part⟩ := incoming_part place fits pos
    rw [at_, part]
    simpa using incomingOwned_part free there fits pos
  have few : (x.packets va bytes.length).length ≤ 1 ∨ Claims.NoTable s x.ctx m.pa bytes.length :=
    stable.imp_left fun le => by rw [x.packets_one va some_ le]; rfl
  obtain ⟨u, packets, stored⟩ := writePackets_stores (off := 0) cover (by omega) rfl wf place open_ few
  refine ⟨u, stored, ?_⟩
  unfold hostWrite
  dsimp only
  rw [if_neg (Bool.eq_false_iff.mp unowned), packets, place]

/-- A WRITE whose first packet fails its checks. -/
theorem hostWrite_refused (idx : x.idx = q) (idle : s.qpOps q = []) (some_ : 0 < bytes.length)
    (none : incoming s x.ctx va (min (256 * 2 ^ x.mtu) bytes.length) .store = Option.none)
    (free : ∀ p ∈ x.packets va bytes.length, ∀ ls, incoming s x.ctx p.1 p.2 .store = some ls → incomingOwned s ls = false) :
    hostWrite x va bytes s = some (s.refuse q .remoteAccess) := by
  subst idx
  obtain ⟨rest, packets⟩ := x.packets_head va some_
  have unowned : (x.packets va bytes.length).any (fun p => (incoming s x.ctx p.1 p.2 .store).any (incomingOwned s)) = false := by
    refine List.any_eq_false.mpr fun p hp => ?_
    cases place : incoming s x.ctx p.1 p.2 .store with
    | none => simp
    | some ls => simpa using free p hp ls place
  unfold hostWrite
  dsimp only
  rw [if_neg (Bool.eq_false_iff.mp unowned), packets, writePackets, none]
  exact congrArg some (State.nakError_idle idle)

/-- What is known of the host port after a queue pair's tags were set or put off. -/
theorem sends_of_fills {u t : State} {m : HostOut} (os : u.os = s.os) (fills : ∃ fs, t.os = { u.os with fills := fs }) : Claims.Sends s (t.sayQp q m) q m := by
  obtain ⟨fs, eq⟩ := fills
  refine State.sayQp_sends_of ?_
  rw [eq, os]
  exact ⟨rfl, rfl, rfl, rfl⟩

/-- The clause on a WRITE that is performed. -/
theorem write_clause (h : GoodPair s q x) (free : x.pending = []) (few : s.fetchesOut x < 16) (keyed : key = x.key) (range : va < 2 ^ 52) (wf : s.mem.wf = true)
    (some_ : 0 < bytes.length) (short : bytes.length ≤ 65536) (place : incoming s x.ctx va bytes.length .store = some [(m, bytes.length, l)])
    (unowned : incomingOwned s [(m, bytes.length, l)] = false) (open_ : s.sealHit x.ctx va bytes.length = false) (fills : s.os.fills = [])
    (stable : bytes.length ≤ 256 * 2 ^ x.mtu ∨ Claims.NoTable s x.ctx m.pa bytes.length) :
    let words := fowWords [(m, bytes.length, l)]
    ∃ t, exec (.rdmaWriteReceived q key va bytes) s = .next t ∧ Claims.Sends s t q (.ack q) ∧ (∀ i, i < bytes.length → sparseGet 0 t.mem.cells (m.pa + i) = bytes.getD i 0) ∧
      (words = [] → t.mem.full = s.mem.full ∧ Claims.OnlyBytes s t m.pa bytes.length) ∧
      (s.collapsesOf (.qp q) = true → t.mem.full = s.mem.full ∧ Claims.OnlyBytes s t m.pa bytes.length ∧ t.os.fills = words.map (fun m => ⟨q, x.ctx, m⟩)) ∧
      (s.coh.regions = [] → s.coh.probes = [] → s.coh.waiters = [] → (∀ c ∈ s.ctxs, c.graphs = []) → Claims.OnlyBytes s t m.pa bytes.length ∧
        ∀ w, w ∈ t.mem.full ↔ w ∈ s.mem.full ∨ ∃ y ∈ words, w = wordOf y.pa) := by
  intro words
  have idx : x.idx = q := State.qp?_idx h.pair
  obtain ⟨u, stored, written⟩ := hostWrite_stores some_ wf place unowned open_ stable
  rw [idx] at written
  have passes : (HostOp.write key va bytes).refused x = none := by
    unfold HostOp.refused
    dsimp only
    rw [if_neg (by omega), if_neg (by simp [keyed]; omega)]
  have performed : performHost x (.write key va bytes) s = some ((u.qpFills x words).sayQp q (.ack q)) := by
    unfold performHost
    rw [passes]
    exact written
  obtain ⟨arrives, -⟩ := arrivals_mem q key va 0 bytes 0 0
  have acts := h.performs free few arrives performed
  obtain ⟨cells, os⟩ := u.qpFills_kept x words
  have unfilled : u.os.fills = [] := (congrArg Oseus.fills stored.home.os).trans fills
  have waits : ∀ (c : words = [] ∨ u.collapsesOf (.qp x.idx) = true), ((u.qpFills x words).sayQp q (.ack q)).mem.full = s.mem.full ∧
      Claims.OnlyBytes s ((u.qpFills x words).sayQp q (.ack q)) m.pa bytes.length ∧
      ((u.qpFills x words).sayQp q (.ack q)).os.fills = words.map (fun m => ⟨q, x.ctx, m⟩) := fun c => by
    obtain ⟨others, teams, remote, cmds⟩ := stored.onlyBytes
    rw [State.qpFills_waiting x words unfilled c, ← idx]
    exact ⟨by simpa using stored.full, ⟨by simpa using others, by simpa [State.updOs] using teams, by simpa [State.updOs] using remote, by simpa [State.updOs] using cmds⟩,
      by simp [State.updOs]⟩
  refine ⟨_, acts, sends_of_fills stored.home.os os, fun i hi => ?_, fun none => ?_, fun collapses => waits (.inr ?_), fun regions probes waiters graphs => ?_⟩
  · rw [State.sayQp_mem, cells]
    exact stored.bytes i hi
  · obtain ⟨full, only, -⟩ := waits (.inl none)
    exact ⟨full, only⟩
  · rw [idx]
    exact stored.probes.collapsesOf collapses
  · have unheld : Unheld u := stored.probes.2 ⟨by simp [regions], probes⟩
    have quiet : Quiet u := ⟨stored.home.waiters.trans waiters, stored.home.graphs graphs⟩
    obtain ⟨frame, full⟩ := State.qpFills_quiet quiet unheld.2 unfilled x words
    obtain ⟨others, teams, remote, cmds⟩ := frame.onlyBytes stored.onlyBytes
    refine ⟨⟨by simpa using others, by simpa using teams, by simpa using remote, by simpa using cmds⟩, fun w => ?_⟩
    rw [State.sayQp_mem, full, stored.full]

/-! ### READs -/

theorem hostRead_one (place : incoming s x.ctx va len .load = some [(m, len, l)]) (unowned : incomingOwned s [(m, len, l)] = false) :
    let u := (linesOf (placeWords m len)).foldl State.recallLine s
    hostRead x va len s = some (if (placeWords m len).any (fun w => s.mem.poison.contains w) then (u.lifeCount 4 65 1).sayQp x.idx (.nak x.idx .remoteOperational)
      else u.sayQp x.idx (.readResponse x.idx (sparseBytes s.mem.cells m.pa len))) := by
  intro u
  have read := incomingRead_one s m len l
  unfold hostRead
  rw [place]
  dsimp only
  rw [if_neg (Bool.eq_false_iff.mp unowned), read]
  rfl

/-- The clause on a READ that is performed. -/
theorem read_clause (h : GoodPair s q x) (free : x.pending = []) (few : s.fetchesOut x < 16) (keyed : key = x.key) (range : va < 2 ^ 52) (some_ : 0 < len)
    (short : len ≤ 65536) (place : incoming s x.ctx va len .load = some [(m, len, l)]) (unowned : incomingOwned s [(m, len, l)] = false) :
    let poisoned := ∃ a, m.pa ≤ a ∧ a < m.pa + len ∧ wordOf a ∈ s.mem.poison
    ∃ t, exec (.rdmaReadReceived q key va len) s = .next t ∧ t.mem = s.mem ∧ t.teams = s.teams ∧ t.os.qps = s.os.qps ∧
      (¬ poisoned → Claims.Sends s t q (.readResponse q (sparseBytes s.mem.cells m.pa len))) ∧
      (poisoned → Claims.Sends s t q (.nak q .remoteOperational) ∧ Claims.OneMore s.life t 4 65) := by
  intro poisoned
  have idx : x.idx = q := State.qp?_idx h.pair
  have passes : (HostOp.read key va len).refused x = none := by
    unfold HostOp.refused
    dsimp only
    rw [if_neg (by omega), if_neg (by simp [keyed]; omega)]
  have read := hostRead_one place unowned
  rw [idx] at read
  dsimp only at read
  have acts : ∀ {t}, hostRead x va len s = some t → exec (.rdmaReadReceived q key va len) s = .next t := fun {t} eq => by
    have performed : performHost x (.read key va len) s = some t := by
      unfold performHost
      rw [passes]
      exact eq
    obtain ⟨-, arrives, -⟩ := arrivals_mem q key va len [] 0 0
    exact h.performs free few arrives performed
  have home : HomeChanged s ((linesOf (placeWords m len)).foldl State.recallLine s) := HomeChanged.foldl (fun s l => s.recallLine_home l) _ _
  by_cases bad : poisoned
  · rw [if_pos ((placeWords_poisoned some_).mpr bad)] at read
    refine ⟨_, acts read, by simp, by simpa using home.teams, by simpa using congrArg Oseus.qps home.os, fun clean => absurd bad clean, fun _ => ⟨?_, ?_⟩⟩
    · exact State.sayQp_sends_of (by simp [home.os])
    · have counted := State.lifeCount_oneMore ((linesOf (placeWords m len)).foldl State.recallLine s) 4 65
      rw [home.life] at counted
      simpa [Claims.OneMore, Claims.More] using counted
  · rw [if_neg (mt (placeWords_poisoned some_).mp bad)] at read
    refine ⟨_, acts read, by simp, by simpa using home.teams, by simpa using congrArg Oseus.qps home.os, fun _ => ?_, fun yes => absurd yes bad⟩
    exact State.sayQp_sends_of (by simp [home.os])

/-! ### Atomics -/

section Atomic

theorem valueAt_lt (s : State) {pa : Nat} (word : pa % 8 = 0) : Claims.valueAt s pa 8 < 2 ^ 64 := wordAt_toNat s word ▸ BitVec.isLt _

variable {f : Nat → Nat} {fills : Nat → Bool}

/-- The state after a word was changed at its home for a queue pair. -/
def State.changeWord (s : State) (x : Qp) (m : MemLoc) (f : Nat → Nat) : State :=
  s.modifyHome m ((bytesOfNat 8 (f (s.wordAt (wordOf m.pa)).1.toNat)).map some) (.qp x.idx) x.ctx none

theorem hostAtomic_one (place : incoming s x.ctx va 8 .atomic = some [(m, 8, l)]) (open_ : s.sealHit x.ctx va 8 = false) (unowned : incomingOwned s [(m, 8, l)] = false) :
    hostAtomic x va f fills s = if s.mem.poison.contains (wordOf m.pa) then some ((s.lifeCount 4 65 1).sayQp x.idx (.nak x.idx .remoteOperational))
      else some ((if l.tagged && fills (f (s.wordAt (wordOf m.pa)).1.toNat) then (s.changeWord x m f).qpFills x [m] else s.changeWord x m f).sayQp x.idx
        (.atomicResponse x.idx (s.wordAt (wordOf m.pa)).1)) := by
  unfold hostAtomic
  rw [place]
  dsimp only
  rw [if_neg (Bool.eq_false_iff.mp open_), if_neg (Bool.eq_false_iff.mp unowned)]
  rfl

theorem State.changeWord_home (s : State) (x : Qp) (m : MemLoc) (f : Nat → Nat) (word : m.pa % 8 = 0) :
    HomeChanged { s with mem := s.mem.write m.pa ((bytesOfNat 8 (f (Claims.valueAt s m.pa 8))).map some) } (s.changeWord x m f) := by
  unfold State.changeWord
  rw [wordAt_toNat s word]
  exact s.modifyHome_outside m _ _ _

/-- An atomic that makes no tag FULL. -/
theorem atomic_plain (place : incoming s x.ctx va 8 .atomic = some [(m, 8, l)]) (word : m.pa % 8 = 0) (open_ : s.sealHit x.ctx va 8 = false)
    (unowned : incomingOwned s [(m, 8, l)] = false) (clean : wordOf m.pa ∉ s.mem.poison) :
    ∃ t, hostAtomic x va f fills s = some t ∧ Claims.Sends s t x.idx (.atomicResponse x.idx (BitVec.ofNat 64 (Claims.valueAt s m.pa 8))) ∧
      (s.mem.wf = true → (l.tagged = false ∨ fills (f (Claims.valueAt s m.pa 8)) = false) →
        Claims.valueAt t m.pa 8 = f (Claims.valueAt s m.pa 8) % 2 ^ 64 ∧ t.mem.full = s.mem.full ∧ Claims.OnlyBytes s t m.pa 8) ∧
      (s.mem.wf = true → l.tagged = true → fills (f (Claims.valueAt s m.pa 8)) = true → s.os.fills = [] → s.coh.probes = [] → s.coh.waiters = [] → (∀ c ∈ s.ctxs, c.graphs = []) →
        s.coh.regions = [] → Claims.valueAt t m.pa 8 = f (Claims.valueAt s m.pa 8) % 2 ^ 64 ∧ wordOf m.pa ∈ t.mem.full) := by
  have home := s.changeWord_home x m f word
  have acts := hostAtomic_one (f := f) (fills := fills) place open_ unowned
  have old : (s.wordAt (wordOf m.pa)).1 = BitVec.ofNat 64 (Claims.valueAt s m.pa 8) := by
    rw [← wordAt_toNat s word, BitVec.ofNat_toNat, BitVec.setWidth_eq]
  rw [if_neg (mt List.contains_iff_mem.mp clean), wordAt_toNat s word, old] at acts
  refine ⟨_, acts, ?_, fun wf still => ?_, fun wf tagged zero nofills probes waiters graphs regions => ?_⟩
  · refine sends_of_fills (u := s.changeWord x m f) home.os ?_
    split
    · exact (State.qpFills_kept _ x [m]).2
    · exact ⟨_, rfl⟩
  · have none : (l.tagged && fills (f (Claims.valueAt s m.pa 8))) = false := by
      rcases still with e | e <;> simp [e]
    have only := onlyBytes_of_home home
    rw [bytesOfNat_length] at only
    obtain ⟨others, teams, remote, cmds⟩ := only
    rw [if_neg (Bool.eq_false_iff.mp none)]
    exact ⟨valueAt_of_written wf ((State.sayQp_mem _ _ _).trans home.mem), by rw [State.sayQp_mem, home.mem]; rfl,
      by simpa using others, by simpa using teams, by simpa using remote, by simpa using cmds⟩
  · have unheld : Unheld (s.changeWord x m f) := State.modifyHome_unheld ⟨by simp [regions], probes⟩
    have quiet : Quiet (s.changeWord x m f) := ⟨home.waiters.trans waiters, home.graphs graphs⟩
    obtain ⟨frame, full⟩ := State.qpFills_quiet quiet unheld.2 ((congrArg Oseus.fills home.os).trans nofills) x [m]
    rw [if_pos (by simp [tagged, zero])]
    refine ⟨?_, ?_⟩
    · have value := valueAt_of_written (t := s.changeWord x m f) wf home.mem
      unfold Claims.valueAt at *
      rw [State.sayQp_mem, frame.cells]
      exact value
    · rw [State.sayQp_mem, full]
      exact .inr ⟨m, List.mem_cons_self, rfl⟩

theorem atomic_poisoned (place : incoming s x.ctx va 8 .atomic = some [(m, 8, l)]) (open_ : s.sealHit x.ctx va 8 = false) (unowned : incomingOwned s [(m, 8, l)] = false)
    (bad : wordOf m.pa ∈ s.mem.poison) : hostAtomic x va f fills s = some ((s.lifeCount 4 65 1).sayQp x.idx (.nak x.idx .remoteOperational)) := by
  rw [hostAtomic_one place open_ unowned, if_pos (List.contains_iff_mem.mpr bad)]

end Atomic

/-- A FETCH_ADD with the queue pair's key is its atomic. -/
theorem execFetchAdd_performs {t : State} (h : GoodPair s q x) (free : x.pending = []) (few : s.fetchesOut x < 16) (keyed : key = x.key) (aligned : va % 8 = 0)
    (acts : hostAtomic x va (fun y => (y + v.toNat) % 2 ^ 64) (fun n => n == 0) s = some t) : exec (.rdmaFetchAddReceived q key va v) s = .next t := by
  have performed : performHost x (.fetchAdd key va v) s = some t := by
    unfold performHost HostOp.refused
    dsimp only
    rw [if_neg (by omega), if_neg (by simp [keyed])]
    exact acts
  obtain ⟨-, -, arrives, -⟩ := arrivals_mem q key va 0 [] v 0
  exact h.performs free few arrives performed

/-- So is a COMPARE_SWAP. -/
theorem execCompareSwap_performs {t : State} (h : GoodPair s q x) (free : x.pending = []) (few : s.fetchesOut x < 16) (keyed : key = x.key) (aligned : va % 8 = 0)
    (acts : hostAtomic x va (fun y => if y = cmp.toNat then v.toNat else y) (fun _ => false) s = some t) : exec (.rdmaCompareSwapReceived q key va cmp v) s = .next t := by
  have performed : performHost x (.compareSwap key va cmp v) s = some t := by
    unfold performHost HostOp.refused
    dsimp only
    rw [if_neg (by omega), if_neg (by simp [keyed])]
    exact acts
  obtain ⟨-, -, -, arrives, -⟩ := arrivals_mem q key va 0 [] v cmp
  exact h.performs free few arrives performed

/-- The clause on atomics that are performed. -/
theorem atomic_clause (h : GoodPair s q x) (free : x.pending = []) (few : s.fetchesOut x < 16) (keyed : key = x.key) (wf : s.mem.wf = true) (aligned : va % 8 = 0)
    (place : incoming s x.ctx va 8 .atomic = some [(m, 8, l)]) (word : m.pa % 8 = 0) (open_ : s.sealHit x.ctx va 8 = false) (unowned : incomingOwned s [(m, 8, l)] = false) :
    let old := Claims.valueAt s m.pa 8
    (wordOf m.pa ∈ s.mem.poison → exec (.rdmaFetchAddReceived q key va v) s = .next ((s.lifeCount 4 65 1).sayQp q (.nak q .remoteOperational)) ∧
      exec (.rdmaCompareSwapReceived q key va cmp v) s = .next ((s.lifeCount 4 65 1).sayQp q (.nak q .remoteOperational))) ∧
    (wordOf m.pa ∉ s.mem.poison →
      (∃ t, exec (.rdmaFetchAddReceived q key va v) s = .next t ∧ Claims.Sends s t q (.atomicResponse q (BitVec.ofNat 64 old)) ∧
        ((l.tagged = false ∨ (old + v.toNat) % 2 ^ 64 ≠ 0) → Claims.valueAt t m.pa 8 = (old + v.toNat) % 2 ^ 64 ∧ t.mem.full = s.mem.full ∧ Claims.OnlyBytes s t m.pa 8) ∧
        (l.tagged = true → (old + v.toNat) % 2 ^ 64 = 0 → s.os.fills = [] → s.coh.probes = [] → s.coh.waiters = [] → (∀ c ∈ s.ctxs, c.graphs = []) → s.coh.regions = [] →
          Claims.valueAt t m.pa 8 = 0 ∧ wordOf m.pa ∈ t.mem.full)) ∧
      (∃ t, exec (.rdmaCompareSwapReceived q key va cmp v) s = .next t ∧ Claims.Sends s t q (.atomicResponse q (BitVec.ofNat 64 old)) ∧
        Claims.valueAt t m.pa 8 = (if old = cmp.toNat then v.toNat else old) ∧ t.mem.full = s.mem.full ∧ Claims.OnlyBytes s t m.pa 8)) := by
  intro old
  obtain rfl : x.idx = q := State.qp?_idx h.pair
  have adds := fun {t} => execFetchAdd_performs (v := v) (t := t) h free few keyed aligned
  have swaps := fun {t} => execCompareSwap_performs (v := v) (cmp := cmp) (t := t) h free few keyed aligned
  refine ⟨fun bad => ⟨adds (atomic_poisoned place open_ unowned bad), swaps (atomic_poisoned place open_ unowned bad)⟩, fun clean => ⟨?_, ?_⟩⟩
  · obtain ⟨t, acts, sends, plain, filled⟩ := atomic_plain (f := fun y => (y + v.toNat) % 2 ^ 64) (fills := fun n => n == 0) place word open_ unowned clean
    refine ⟨t, adds acts, sends, fun still => ?_, fun tagged zero fills probes waiters graphs regions => ?_⟩
    · have kept := plain wf (still.imp_right beq_eq_false_iff_ne.mpr)
      rwa [Nat.mod_mod] at kept
    · obtain ⟨value, full⟩ := filled wf tagged (beq_iff_eq.mpr zero) fills probes waiters graphs regions
      exact ⟨by rw [value, Nat.mod_mod, zero], full⟩
  · obtain ⟨t, acts, sends, plain, -⟩ := atomic_plain (f := fun y => if y = cmp.toNat then v.toNat else y) (fills := fun _ => false) place word open_ unowned clean
    obtain ⟨value, full, only⟩ := plain wf (.inr rfl)
    have small : (if old = cmp.toNat then v.toNat else old) < 2 ^ 64 := by
      split
      · exact v.isLt
      · exact valueAt_lt s word
    exact ⟨t, swaps acts, sends, value.trans (Nat.mod_eq_of_lt small), full, only⟩

/-! ### What is refused -/

section Refused

variable (h : GoodPair s q x) (free : x.pending = []) (few : s.fetchesOut x < 16) (idle : s.qpOps q = [])
include h free few idle

/-- An operation that its key, address or length refuses. -/
theorem GoodPair.refuses {i : Instr × HostOp} {k : Nak} (hi : i ∈ arrivals q key va len bytes v cmp) (bad : i.2.refused x = some k) : exec i.1 s = .next (s.refuse q k) :=
  h.performs free few hi (performHost_refused (State.qp?_idx h.pair) idle bad)

/-- Invalid and misaligned requests, and those of more than 2^31 bytes. -/
theorem invalid_clauses :
    exec (.rdmaInvalidRequest q) s = .next (s.refuse q .invalidRequest) ∧
    (2 ^ 31 < bytes.length → exec (.rdmaWriteReceived q key va bytes) s = .next (s.refuse q .invalidRequest)) ∧
    (2 ^ 31 < len → exec (.rdmaReadReceived q key va len) s = .next (s.refuse q .invalidRequest)) ∧
    (va % 8 ≠ 0 → exec (.rdmaFetchAddReceived q key va v) s = .next (s.refuse q .invalidRequest) ∧
      exec (.rdmaCompareSwapReceived q key va cmp v) s = .next (s.refuse q .invalidRequest)) := by
  obtain ⟨write, read, add, swap, invalid⟩ := arrivals_mem q key va len bytes v cmp
  exact ⟨h.refuses free few idle invalid rfl, fun long => h.refuses free few idle write (if_pos long), fun long => h.refuses free few idle read (if_pos long),
    fun off => ⟨h.refuses free few idle add (if_pos off), h.refuses free few idle swap (if_pos off)⟩⟩

/-- A WRITE with another key, an address past 2^52, or a first packet that fails its checks. -/
theorem write_denied (short : bytes.length ≤ 2 ^ 31) (bad : key ≠ x.key ∨ 2 ^ 52 ≤ va ∨ (0 < bytes.length ∧ incoming s x.ctx va (min (256 * 2 ^ x.mtu) bytes.length) .store = none ∧
      ∀ p ∈ x.packets va bytes.length, ∀ ls, incoming s x.ctx p.1 p.2 .store = some ls → incomingOwned s ls = false)) :
    exec (.rdmaWriteReceived q key va bytes) s = .next (s.refuse q .remoteAccess) := by
  obtain ⟨write, -⟩ := arrivals_mem q key va 0 bytes 0 0
  by_cases wrong : key ≠ x.key ∨ 2 ^ 52 ≤ va
  · exact h.refuses free few idle write ((if_neg (by omega)).trans (if_pos wrong))
  · obtain ⟨some_, none, unowned⟩ := (or_assoc.mpr bad).resolve_left wrong
    have passes : (HostOp.write key va bytes).refused x = Option.none := (if_neg (by omega)).trans (if_neg wrong)
    refine h.performs free few write ?_
    unfold performHost
    dsimp only
    rw [passes]
    exact hostWrite_refused (State.qp?_idx h.pair) idle some_ none unowned

theorem read_denied (short : len ≤ 2 ^ 31) (bad : key ≠ x.key ∨ 2 ^ 52 ≤ va ∨ incoming s x.ctx va len .load = none) :
    exec (.rdmaReadReceived q key va len) s = .next (s.refuse q .remoteAccess) := by
  obtain ⟨-, read, -⟩ := arrivals_mem q key va len [] 0 0
  obtain rfl : x.idx = q := State.qp?_idx h.pair
  by_cases wrong : key ≠ x.key ∨ 2 ^ 52 ≤ va
  · exact h.refuses free few idle read ((if_neg (by omega)).trans (if_pos wrong))
  · have none := (or_assoc.mpr bad).resolve_left wrong
    have passes : (HostOp.read key va len).refused x = Option.none := (if_neg (by omega)).trans (if_neg wrong)
    refine h.performs free few read ?_
    unfold performHost
    dsimp only
    rw [passes]
    unfold hostRead
    rw [none]
    exact congrArg some (State.nakError_idle idle)

omit free few in
theorem hostAtomic_denied {f : Nat → Nat} {fills : Nat → Bool} (none : incoming s x.ctx va 8 .atomic = none) : hostAtomic x va f fills s = some (s.refuse q .remoteAccess) := by
  obtain rfl : x.idx = q := State.qp?_idx h.pair
  unfold hostAtomic
  rw [none]
  exact congrArg some (State.nakError_idle idle)

theorem atomics_denied (aligned : va % 8 = 0) (bad : key ≠ x.key ∨ incoming s x.ctx va 8 .atomic = none) :
    exec (.rdmaFetchAddReceived q key va v) s = .next (s.refuse q .remoteAccess) ∧ exec (.rdmaCompareSwapReceived q key va cmp v) s = .next (s.refuse q .remoteAccess) := by
  obtain ⟨-, -, add, swap, -⟩ := arrivals_mem q key va 0 [] v cmp
  by_cases wrong : key ≠ x.key
  · exact ⟨h.refuses free few idle add ((if_neg (by omega)).trans (if_pos wrong)), h.refuses free few idle swap ((if_neg (by omega)).trans (if_pos wrong))⟩
  · have none := bad.resolve_left wrong
    exact ⟨execFetchAdd_performs h free few (not_not.mp wrong) aligned (hostAtomic_denied h idle none),
      execCompareSwap_performs h free few (not_not.mp wrong) aligned (hostAtomic_denied h idle none)⟩

end Refused

/-- The clauses on what arrives where nothing is performed. -/
theorem arrival_clauses {i : Instr × HostOp} (hi : i ∈ arrivals q key va len bytes v cmp) :
    (¬ PortUp s → exec i.1 s = .next s) ∧
    (PortUp s → q = 1 → exec i.1 s = .next (({ s with os := { s.os with mgmt := false, inbox := [] } } : State).say (.nak 1 .invalidRequest))) ∧
    (PortUp s → q ≠ 1 → s.qp? q = none → exec i.1 s = .next s) ∧
    (PortUp s → q ≠ 1 → s.qp? q = some x → x.error = true → exec i.1 s = .next (s.sayQp q (.nak q .remoteAccess))) ∧
    (PortUp s → q ≠ 1 → s.qp? q = some x → x.error = false →
      (i.2.fetches = true → 16 ≤ s.fetchesOut x → s.qpOps q = [] → exec i.1 s = .next (s.refuse q .invalidRequest)) ∧
      (x.pending ≠ [] → i.2.fetches = false ∨ s.fetchesOut x < 16 → exec i.1 s = .next (s.updQp q (fun y => { y with pending := y.pending ++ [i.2] })))) := by
  refine ⟨fun down => ?_, fun up management => ?_, fun up other none => ?_, fun up other pair error => ?_, fun up other pair good => ?_⟩
  · exact (exec_arrival hi s).trans (congrArg device (withQp_down down))
  · exact (exec_arrival hi s).trans (congrArg device ((withQp_up up).trans (if_pos management)))
  · exact (exec_arrival hi s).trans (congrArg device (withQp_unknown up other none))
  · exact (exec_arrival hi s).trans (congrArg device ((withQp_some up other pair).trans (if_pos error)))
  · have h : GoodPair s q x := ⟨up, other, pair, good⟩
    have idx := State.qp?_idx pair
    exact ⟨fun fetches many idle => (h.exec_arrival hi).trans (congrArg _ (arriveHost_many idx fetches many idle)),
      fun busy few => (h.exec_arrival hi).trans (congrArg _ (arriveHost_waits idx busy few))⟩

end Operations

end Sys2Proof.Machine
end

section
/-! SUPPORT. The device's own host transactions (`Machine/Rdma.lean`; 02 R34, 03 R81): what leaves, answers, time-outs, and the obligation on the host port (O48). -/

namespace Sys2Proof.Machine

/-! ### What leaves when queue pairs send what they can -/

section Pump

variable {s t : State} {now : Option Nat} {o : RemoteOp} {x : Qp}

theorem foldl_sayOp (l : List RemoteOp) (s : State) : ∃ out, l.foldl State.sayOp s = { s with os := { s.os with out := out } } := by
  induction l generalizing s with
  | nil => exact ⟨s.os.out, rfl⟩
  | cons o l ih =>
    have one : ∃ out, s.sayOp o = { s with os := { s.os with out := out } } := by
      unfold State.sayOp
      cases o.request with
      | none => exact ⟨s.os.out, rfl⟩
      | some m => exact ⟨some m, rfl⟩
    obtain ⟨first, eq⟩ := one
    obtain ⟨last, rest⟩ := ih (s.sayOp o)
    refine ⟨last, ?_⟩
    rw [List.foldl_cons, rest, eq]

/-- How a queue pair's transactions are taken one after another, to be sent (02 R37). -/
def takeToSend (a : Nat × List Nat × Bool) (o : RemoteOp) : Nat × List Nat × Bool :=
  if a.2.2 then a
  else if o.tries ≠ 0 then (a.1 + bit o.kind.fetches, a.2.1, false)
  else if o.kind.fetches && decide (16 ≤ a.1) then (a.1, a.2.1, true)
  else (a.1 + bit o.kind.fetches, a.2.1 ++ [o.id], false)

theorem State.sendable_eq (s : State) (q : Qp) : s.sendable q = if s.os.host.paused.contains q.prio then [] else ((s.qpOps q.idx).foldl takeToSend (0, [], false)).2.1 := rfl

/-- Only a transaction that has not been sent is. -/
theorem mem_foldl_takeToSend {l : List RemoteOp} {a : Nat × List Nat × Bool} {i : Nat} (h : i ∈ (l.foldl takeToSend a).2.1) : i ∈ a.2.1 ∨ ∃ o ∈ l, o.id = i ∧ o.tries = 0 := by
  induction l generalizing a with
  | nil => exact .inl h
  | cons o l ih =>
    rcases ih h with first | ⟨y, hy, id, tries⟩
    · unfold takeToSend at first
      split at first
      · exact .inl first
      · split at first
        · exact .inl first
        next unsent =>
          split at first
          · exact .inl first
          · rcases List.mem_append.mp first with before | now
            · exact .inl before
            · exact .inr ⟨o, List.mem_cons_self, (List.mem_singleton.mp now).symm, not_not.mp unsent⟩
    · exact .inr ⟨y, List.mem_cons_of_mem o hy, id, tries⟩

theorem State.mem_sendable {q : Qp} {i : Nat} (h : i ∈ s.sendable q) : ∃ o ∈ s.remote, o.id = i ∧ o.tries = 0 := by
  rw [State.sendable_eq] at h
  split at h
  · cases h
  · rcases mem_foldl_takeToSend h with none | ⟨o, ho, unsent⟩
    · cases none
    · exact ⟨o, (List.mem_filter.mp ho).1, unsent⟩

/-- The transactions that leave: those that good queue pairs can send. -/
def State.leaving (s : State) : List Nat := (s.os.qps.filter (fun q => !q.error)).flatMap s.sendable

/-- A transaction as it is after that. -/
def State.sentNow (s : State) (now : Option Nat) (o : RemoteOp) : RemoteOp :=
  if s.leaving.contains o.id then { o with tries := 1, since := now.getD o.since } else o

theorem State.sentNow_fields (s : State) (now : Option Nat) (o : RemoteOp) : s.sentNow now o = { o with tries := (s.sentNow now o).tries, since := (s.sentNow now o).since } := by
  unfold State.sentNow
  split <;> rfl

/-- A transaction that has been sent stays as it is. -/
theorem State.sentNow_sent (sent : 0 < o.tries) (alone : ∀ y ∈ s.remote, y.id = o.id → y = o) : s.sentNow now o = o := by
  refine if_neg fun leaves => ?_
  obtain ⟨q, -, hq⟩ := List.mem_flatMap.mp (List.contains_iff_mem.mp leaves)
  obtain ⟨y, hy, id, unsent⟩ := State.mem_sendable hq
  rw [alone y hy id] at unsent
  omega

/-- With every queue pair good nothing fails: what can leave does, and but for that nothing changes. -/
theorem State.pump_good (h : Claims.PairsGood s) (now : Option Nat) :
    ∃ out, s.pump now = { s with remote := s.remote.map (s.sentNow now), os := { s.os with out := out } } := by
  have dead : s.remote.filter (fun o => o.host && o.answer.isNone && !o.failed && (s.opQp o).all (fun q => q.error)) = [] := by
    refine List.filter_eq_nil_iff.mpr fun o ho all => ?_
    simp only [Bool.and_eq_true, Option.isNone_iff_eq_none, Bool.not_eq_true'] at all
    obtain ⟨⟨⟨host, answer⟩, failed⟩, error⟩ := all
    obtain ⟨q, pair, good⟩ := h o ho host answer failed
    rw [pair] at error
    exact Bool.false_ne_true (good.symm.trans error)
  obtain ⟨out, sent⟩ := foldl_sayOp (s.remote.filter (fun o => s.leaving.contains o.id)) s
  refine ⟨out, ?_⟩
  have sends : s.pump now = (fun t : State => { t with remote := t.remote.map (s.sentNow now) }) ((s.remote.filter (fun o => s.leaving.contains o.id)).foldl State.sayOp s) := by
    unfold State.pump
    rw [dead]
    rfl
  rw [sends, sent]

/-- From `s` to `t` transactions may have been sent, and nothing else has changed but what the host port sent last. -/
def Pumped (s t : State) : Prop :=
  ∃ (f : RemoteOp → RemoteOp) (out : Option HostOut), (∀ o, f o = { o with tries := (f o).tries, since := (f o).since }) ∧
    (∀ o, 0 < o.tries → (∀ y ∈ s.remote, y.id = o.id → y = o) → f o = o) ∧ t = { s with remote := s.remote.map f, os := { s.os with out := out } }

theorem State.pump_pumped (h : Claims.PairsGood s) (now : Option Nat) : Pumped s (s.pump now) := by
  obtain ⟨out, eq⟩ := s.pump_good h now
  exact ⟨s.sentNow now, out, s.sentNow_fields now, fun _ sent alone => State.sentNow_sent sent alone, eq⟩

theorem Pumped.mem (h : Pumped s t) : t.mem = s.mem := by
  obtain ⟨_, _, -, -, rfl⟩ := h
  rfl
theorem Pumped.teams (h : Pumped s t) : t.teams = s.teams := by
  obtain ⟨_, _, -, -, rfl⟩ := h
  rfl
theorem Pumped.aclk (h : Pumped s t) : t.aclk = s.aclk := by
  obtain ⟨_, _, -, -, rfl⟩ := h
  rfl
theorem Pumped.host (h : Pumped s t) : t.os.host = s.os.host := by
  obtain ⟨_, _, -, -, rfl⟩ := h
  rfl
theorem Pumped.qp? (h : Pumped s t) (q : Nat) : t.qp? q = s.qp? q := by
  obtain ⟨_, _, -, -, rfl⟩ := h
  rfl

/-- The fields of transactions that their sending leaves are what they were. -/
theorem Pumped.member (h : Pumped s t) (ho : o ∈ s.remote) : ∃ y ∈ t.remote, y = { o with tries := y.tries, since := y.since } := by
  obtain ⟨f, _, hf, -, rfl⟩ := h
  exact ⟨f o, List.mem_map.mpr ⟨o, ho, rfl⟩, hf o⟩

theorem Pumped.opQp (h : Pumped s t) {n m : Nat} : t.opQp { o with tries := n, since := m } = s.opQp o := by
  obtain ⟨_, _, -, -, rfl⟩ := h
  rfl

theorem Pumped.pairsGood (h : Pumped s t) (good : Claims.PairsGood s) : Claims.PairsGood t := by
  intro y hy host answer failed
  have h' := h
  obtain ⟨f, _, hf, -, rfl⟩ := h
  obtain ⟨o, ho, rfl⟩ := List.mem_map.mp hy
  rw [hf o] at host answer failed ⊢
  rw [h'.opQp]
  exact good o ho host answer failed

/-- An open host transaction that is the oldest of its queue pair, and has been sent. -/
structure OpenOp (s : State) (o : RemoteOp) (x : Qp) : Prop where
  found : s.remote.find? (fun y => y.id == o.id) = some o
  alone : ∀ y ∈ s.remote, y.id = o.id → y = o
  host : o.host = true
  unanswered : o.answer = none
  good : o.failed = false
  pair : s.opQp o = some x
  oldest : (s.qpOps x.idx).head? = some o
  sent : 0 < o.tries

/-- What has been sent goes on standing as it was. -/
theorem Pumped.openOp (h : Pumped s t) (open_ : OpenOp s o x) : OpenOp t o x := by
  obtain ⟨found, alone, host, unanswered, good, pair, oldest, sent⟩ := open_
  have h' := h
  obtain ⟨f, _, hf, still, rfl⟩ := h
  have same := still o sent alone
  have ids : (fun y : RemoteOp => y.id == o.id) ∘ f = fun y => y.id == o.id := funext fun y => by rw [Function.comp_apply, hf]
  refine ⟨?_, fun y hy id => ?_, host, unanswered, good, pair, ?_, sent⟩
  · rw [List.find?_map, ids, found, Option.map_some, same]
  · obtain ⟨z, hz, rfl⟩ := List.mem_map.mp hy
    rw [hf] at id
    rw [alone z hz id, same]
  · have kept : ∀ y, ((f y).host && (f y).answer.isNone && !(f y).failed && (s.opQp (f y)).any (fun q => q.idx == x.idx)) =
        (y.host && y.answer.isNone && !y.failed && (s.opQp y).any (fun q => q.idx == x.idx)) := fun y => by
      have pairs : s.opQp (f y) = s.opQp y := by
        rw [hf]
        rfl
      rw [pairs, hf]
    refine (congrArg List.head? (List.filter_map (f := f) (l := s.remote))).trans ?_
    rw [List.head?_map]
    have filtered : s.remote.filter ((fun y => y.host && y.answer.isNone && !y.failed && (s.opQp y).any (fun q => q.idx == x.idx)) ∘ f) = s.qpOps x.idx :=
      List.filter_congr fun y _ => kept y
    refine (congrArg (fun l : List RemoteOp => l.head?.map f) filtered).trans ?_
    rw [oldest, Option.map_some, same]

/-- The transaction the host answers. -/
theorem OpenOp.answerable (h : OpenOp s o x) {fetches : Bool} (kind : o.kind.fetches = fetches) : s.answerable o.id fetches = some o := by
  unfold State.answerable
  rw [h.found]
  dsimp only
  rw [h.pair]
  dsimp only
  rw [if_pos (by simp [kind, h.sent, h.oldest])]

end Pump

/-! ### Answers and time-outs (02 R34, 03 R81) -/

section Answers

variable {s : State} {o : RemoteOp} {x : Qp} {r : FibreRef} {n part pc : Nat} {bytes : List (BitVec 8)}

/-- A load's transaction that has its outcome holds no queue pair up. -/
theorem pairsGood_ended (good : Claims.PairsGood s) (who : o.who = .load r n part) (res : Except Nat (List Byte)) : Claims.PairsGood (s.remoteDone o res) := by
  rw [State.remoteDone_load who]
  intro y hy host answer failed
  obtain ⟨z, hz, rfl⟩ := List.mem_map.mp hy
  by_cases named : (z.id == o.id) = true
  · rw [if_pos named] at answer failed
    cases res with
    | ok bs => cases answer
    | error st => cases failed
  · rw [if_neg named] at host answer failed ⊢
    exact good z hz host answer failed

/-- The outcome of a load's transaction, after what can be sent next has been. -/
theorem load_outcome (good : Claims.PairsGood s) (mem : o ∈ s.remote) (who : o.who = .load r n part) (res : Except Nat (List Byte)) (now : Option Nat) :
    ((s.remoteDone o res).pump now).mem = s.mem ∧ ((s.remoteDone o res).pump now).teams = s.teams ∧
      ∃ y ∈ ((s.remoteDone o res).pump now).remote, y.id = o.id ∧ y.who = o.who ∧ y.answer = (o.ended res).answer ∧ y.failed = (o.ended res).failed := by
  have pumped := State.pump_pumped (pairsGood_ended good who res) now
  have held : o.ended res ∈ (s.remoteDone o res).remote := by
    rw [State.remoteDone_load who]
    exact mem_map_ended mem res
  obtain ⟨y, hy, fields⟩ := pumped.member held
  have ended : (o.ended res).id = o.id ∧ (o.ended res).who = o.who := by
    cases res <;> exact ⟨rfl, rfl⟩
  have same : (s.remoteDone o res).mem = s.mem ∧ (s.remoteDone o res).teams = s.teams := by
    rw [State.remoteDone_load who]
    exact ⟨rfl, rfl⟩
  refine ⟨pumped.mem.trans same.1, pumped.teams.trans same.2, y, hy, ?_, ?_, ?_, ?_⟩
  · rw [fields]
    exact ended.1
  · rw [fields]
    exact ended.2
  · rw [fields]
  · rw [fields]

section Open

variable (good : Claims.PairsGood s) (h : OpenOp s o x)
include good h

/-- An answer to a READ or an ATOMIC ends it with its bytes, or in failure. -/
theorem hostRdmaResponse_clause (who : o.who = .load r n part) (fetches : o.kind.fetches = true) :
    (bytes.length = o.kind.bytes → ∃ t y, exec (.hostRdmaResponse o.id true bytes) s = .next t ∧ t.mem = s.mem ∧ t.teams = s.teams ∧ y ∈ t.remote ∧ y.id = o.id ∧
      y.answer = some bytes ∧ y.who = o.who) ∧
    (∃ t y, exec (.hostRdmaResponse o.id false bytes) s = .next t ∧ t.mem = s.mem ∧ t.teams = s.teams ∧ y ∈ t.remote ∧ y.id = o.id ∧ y.failed = true) := by
  have pumped := State.pump_pumped good none
  have open_ := pumped.openOp h
  have named := open_.answerable fetches
  have mem := List.mem_of_find?_eq_some open_.found
  have outcome := fun res => load_outcome (pumped.pairsGood good) mem who res (some (s.pump none).aclk)
  have acts : ∀ ok, (ok && bytes.length != o.kind.bytes) = false → exec (.hostRdmaResponse o.id ok bytes) s =
      .next (((s.pump none).remoteDone o (if ok then .ok bytes else .error 0)).pump (some (s.pump none).aclk)) := fun ok fits => by
    show execHostRdmaResponse o.id ok bytes s = _
    unfold execHostRdmaResponse
    dsimp only
    rw [named]
    dsimp only
    rw [if_neg (Bool.eq_false_iff.mp fits)]
    rfl
  refine ⟨fun length => ?_, ?_⟩
  · obtain ⟨memory, teams, y, hy, id, who', answer, -⟩ := outcome (.ok bytes)
    exact ⟨_, y, acts true (by simp [length]), memory.trans pumped.mem, teams.trans pumped.teams, hy, id, answer, who'⟩
  · obtain ⟨memory, teams, y, hy, id, -, -, failed⟩ := outcome (.error 0)
    exact ⟨_, y, acts false rfl, memory.trans pumped.mem, teams.trans pumped.teams, hy, id, failed⟩

theorem execHostWriteAck_open (write : o.kind.fetches = false) (ok : Bool) :
    exec (.hostWriteAck o.id ok) s = .next ((s.pump none).remoteDone o (if ok then .ok [] else .error 0)) := by
  have named := ((State.pump_pumped good none).openOp h).answerable write
  show execHostWriteAck o.id ok s = _
  unfold execHostWriteAck
  dsimp only
  rw [named]
  rfl

/-- A WRITE's acknowledgement ends it; a failed one is told to the fibre that stored. -/
theorem hostWriteAck_clause (who : o.who = .store r pc) (write : o.kind.fetches = false) :
    (∃ t, exec (.hostWriteAck o.id true) s = .next t ∧ t.mem = s.mem ∧ t.teams = s.teams ∧ ∀ y ∈ t.remote, y.id ≠ o.id) ∧
    (∀ f, s.fibre? r = some f → ∃ t, exec (.hostWriteAck o.id false) s = .next t ∧ t.mem = s.mem ∧ (∀ y ∈ t.remote, y.id ≠ o.id) ∧
      t.fibre? r = some { f with hostFail := f.hostFail ++ [pc] }) := by
  have pumped := State.pump_pumped good none
  have gone : ∀ y ∈ (s.pump none).remote.filter (fun x => x.id != o.id), y.id ≠ o.id := fun y hy => by simpa using (List.mem_filter.mp hy).2
  refine ⟨⟨_, execHostWriteAck_open good h write true, ?_⟩, fun f fibre => ⟨_, execHostWriteAck_open good h write false, ?_⟩⟩
  · rw [if_pos rfl, State.remoteDone_store_ok who]
    exact ⟨pumped.mem, pumped.teams, gone⟩
  · have failed : (s.pump none).remoteDone o (if false = true then .ok [] else .error 0) =
        ({ s.pump none with remote := (s.pump none).remote.filter (fun x => x.id != o.id) } : State).updFibre r (fun f => { f with hostFail := f.hostFail ++ [pc] }) := by
      rw [if_neg Bool.false_ne_true]
      unfold State.remoteDone
      rw [who]
      exact if_pos h.host
    rw [failed]
    refine ⟨pumped.mem, gone, (State.fibre?_updFibre _ r _ (by intro; rfl)).trans ?_⟩
    have same : ({ s.pump none with remote := (s.pump none).remote.filter (fun x => x.id != o.id) } : State).fibre? r = s.fibre? r := by
      show State.fibre? (s.pump none) r = _
      unfold State.fibre? State.team?
      rw [pumped.teams]
    rw [same, fibre]
    rfl

/-- A transaction without an answer for the queue pair's time-out is sent again, or fails when its retries are used up. -/
theorem qpAckTimeout_clause {q : Nat} (pair : s.qp? q = some x) (timed : x.ackTimeout ≠ 0) (late : o.since + ackAclk x.ackTimeout ≤ s.aclk) :
    (o.tries ≤ x.retry → ∃ t y, exec (.qpAckTimeout q) s = .next t ∧ t.mem = s.mem ∧ t.teams = s.teams ∧ y ∈ t.remote ∧ y = { o with tries := o.tries + 1, since := s.aclk }) ∧
    (∀ r n part, o.who = .load r n part → x.retry < o.tries → ∃ t y, exec (.qpAckTimeout q) s = .next t ∧ t.mem = s.mem ∧ y ∈ t.remote ∧ y.id = o.id ∧ y.failed = true) := by
  obtain rfl : x.idx = q := State.qp?_idx pair
  have pumped := State.pump_pumped good none
  have open_ := pumped.openOp h
  have mem := List.mem_of_find?_eq_some open_.found
  have sent := h.sent
  have acts : exec (.qpAckTimeout x.idx) s = .next (if x.retry < o.tries then (s.pump none).remoteDone o (.error 0)
      else (fun t : State => { t with remote := t.remote.map (fun y => if y.id == o.id then { y with tries := y.tries + 1, since := t.aclk } else y) }) ((s.pump none).sayOp o)) := by
    show execQpAckTimeout x.idx s = _
    unfold execQpAckTimeout
    dsimp only
    rw [pumped.qp?, pair, open_.oldest]
    dsimp only
    rw [if_neg (by rw [pumped.aclk]; omega)]
    rfl
  refine ⟨fun retries => ?_, fun r n part who none => ?_⟩
  · obtain ⟨out, said⟩ := foldl_sayOp [o] (s.pump none)
    have said : (s.pump none).sayOp o = { s.pump none with os := { (s.pump none).os with out := out } } := said
    rw [if_neg (by omega), said] at acts
    refine ⟨_, { o with tries := o.tries + 1, since := (s.pump none).aclk }, acts, pumped.mem, pumped.teams, List.mem_map.mpr ⟨o, mem, if_pos (beq_self_eq_true _)⟩, ?_⟩
    rw [pumped.aclk]
  · rw [if_pos none, State.remoteDone_load who] at acts
    exact ⟨_, o.ended (.error 0), acts, pumped.mem, mem_map_ended mem _, rfl, rfl⟩

end Open

/-- The priorities that flow control has paused are set. -/
def State.pausing (s : State) (ps : List Nat) : State := s.updOs (fun o => { o with host := { o.host with paused := ps } })

/-- A pause frame sets or clears its priority, and no other. -/
theorem pfcPauseFrame_clause (good : Claims.PairsGood s) (p : Nat) (pause : Bool) :
    ∃ t, exec (.pfcPauseFrame p pause) s = .next t ∧ t.mem = s.mem ∧ t.teams = s.teams ∧ (p ∈ t.os.host.paused ↔ pause = true) ∧
      ∀ j, j ≠ p → (j ∈ t.os.host.paused ↔ j ∈ s.os.host.paused) := by
  have pumped := State.pump_pumped good none
  have paused : (s.pump none).os.host.paused = s.os.host.paused := by rw [pumped.host]
  cases pause with
  | true =>
    have acts : exec (.pfcPauseFrame p true) s = .next ((s.pump none).pausing (p :: (s.pump none).os.host.paused.filter (fun x => x != p))) := rfl
    refine ⟨_, acts, pumped.mem, pumped.teams, ?_, fun j other => ?_⟩
    · simp [State.pausing, State.updOs]
    · simp [State.pausing, State.updOs, other, paused]
  | false =>
    have acts : exec (.pfcPauseFrame p false) s = .next (((s.pump none).pausing ((s.pump none).os.host.paused.filter (fun x => x != p))).pump (some (s.pump none).aclk)) := rfl
    have again := State.pump_pumped (s := (s.pump none).pausing ((s.pump none).os.host.paused.filter (fun x => x != p))) (pumped.pairsGood good) (some (s.pump none).aclk)
    refine ⟨_, acts, again.mem.trans pumped.mem, again.teams.trans pumped.teams, ?_, fun j other => ?_⟩
    · rw [again.host]
      simp [State.pausing, State.updOs]
    · rw [again.host]
      simp [State.pausing, State.updOs, other, paused]

end Answers

/-- A congestion notification lowers the rate of its queue pair alone (03 Table 3.14). -/
theorem congestion_clause {s : State} {q : Nat} {x : Qp} (pair : s.qp? q = some x) :
    ∃ t, exec (.congestionNotificationReceived q) s = .next t ∧ t.mem = s.mem ∧ (∀ j, j ≠ q → t.qp? j = s.qp? j) ∧
      t.qp? q = some { x with rate := max (x.rate * (65536 - s.os.host.cut) / 65536) (min x.rate s.os.host.minMbps) } := by
  refine ⟨_, rfl, rfl, fun j other => State.qp?_updQp_other (by intro; rfl) other, (State.qp?_updQp (by intro; rfl)).trans ?_⟩
  rw [pair]
  rfl

/-- Settles O48: each clause is one of the equations above. A queue pair in the error state answers NAK Remote Access Error and an unknown one nothing (log entry 50), a WRITE is checked packet by packet, and the oldest open transaction of a queue pair is the one answered (log entry 51). -/
theorem hostPortResult : Obligations.HostPortResult := by
  intro s q key va len x bytes v cmp pm l
  refine ⟨fun i hi => arrival_clauses hi, fun up other pair good free few => ?_, congestion_clause, rfl, fun good => ⟨pfcPauseFrame_clause good, ?_⟩⟩
  · have h : GoodPair s q x := ⟨up, other, pair, good⟩
    refine ⟨fun idle => ?_, fun keyed range wf => ⟨?_, ?_, ?_⟩⟩
    · obtain ⟨invalid, long, longRead, misaligned⟩ := invalid_clauses (key := key) (va := va) (len := len) (bytes := bytes) (v := v) (cmp := cmp) h free few idle
      exact ⟨invalid, long, longRead, misaligned, write_denied h free few idle, read_denied h free few idle, atomics_denied h free few idle⟩
    · exact fun some_ short place unowned open_ fills stable => write_clause h free few keyed range wf some_ short place unowned open_ fills stable
    · exact fun some_ short place unowned => read_clause h free few keyed range some_ short place unowned
    · exact fun aligned place word open_ unowned => atomic_clause h free few keyed wf aligned place word open_ unowned
  · intro o found alone host unanswered good' pair oldest sent
    have h : OpenOp s o x := ⟨found, alone, host, unanswered, good', pair, oldest, sent⟩
    exact ⟨fun r n part who fetches => hostRdmaResponse_clause good h who fetches, fun r pc who write => hostWriteAck_clause good h who write,
      fun named _ timed late => qpAckTimeout_clause good h named timed late⟩

end Sys2Proof.Machine
end

section
/-! SUPPORT. Management messages as they arrive and are answered (`Machine/Mgmt.lean`; 03 R58, R59, R62): what a message in good order does, and what every other one meets. -/

namespace Sys2Proof.Machine

section Messages

variable {s t : State} {m : Message} {type n : Nat} {g : Message → State → State} {lenOk : Nat → Bool} {named recovery : Bool} {k : State → Served}

/-! ### Arrival (03 R58, R59; 02 R36) -/

theorem State.mgmtUp_of_serving (h : s.serving = true) : s.mgmtUp = true := by
  rw [State.serving, Bool.and_eq_true, Bool.and_eq_true] at h
  exact h.1.1

/-- A message of another type, or without the management connection, changes nothing. -/
theorem onMessage_ignored (h : msgType m ≠ type ∨ s.mgmtUp = false) : onMessage type g m s = .next s := by
  unfold onMessage device
  rcases h with other | down
  · rw [if_neg other]
  · unfold takeMessage
    simp [down]

/-- The management connection does not bear a body longer than a receive buffer. -/
theorem takeMessage_long (up : s.mgmtUp = true) (long : 4080 < m.body.length) :
    takeMessage g m s = ({ s with os := { s.os with mgmt := false, inbox := [] } } : State).say (.nak 1 .invalidRequest) := by
  unfold takeMessage
  simp [up, long]

theorem takeMessage_serving (h : s.serving = true) (short : m.body.length ≤ 4080) : takeMessage g m s = g m s := by
  unfold takeMessage
  simp [State.mgmtUp_of_serving h, h, Nat.not_lt.mpr short]

/-- A busy Oseus keeps 64 messages and refuses the next one. -/
theorem takeMessage_busy (up : s.mgmtUp = true) (busy : s.serving = false) (short : m.body.length ≤ 4080) :
    takeMessage g m s = if s.os.inbox.length < 64 then { s with os := { s.os with inbox := s.os.inbox ++ [m] } } else s.say (.nak 1 .receiverNotReady) := by
  unfold takeMessage
  simp [up, busy, Nat.not_lt.mpr short, State.updOs]

theorem onMessage_of_type (h : msgType m = type) : onMessage type g m s = .next (takeMessage g m s) := by
  unfold onMessage device
  rw [if_pos h]

/-! ### Service (03 R59, R62, Table 3.1) -/

/-- What the state is once a message has come out so. -/
def Served.answer (v : Served) (type : Nat) (m : Message) (s : State) : State :=
  match v with
  | .refuse st d => s.reply type (msgReq m) (msgCtx m) st d []
  | .done t body => t.reply type (msgReq m) (msgCtx m) 0 0 body
  | .later t => t

theorem serve_recovery (h : s.os.recovery = true) : serve type lenOk named false m s k = s.reply type (msgReq m) (msgCtx m) 6 0 [] := by
  unfold serve
  simp [h]

theorem serve_badHead (h : s.os.recovery = false ∨ recovery = true) (bad : msgHeadOk m = false) :
    serve type lenOk named recovery m s k = s.reply type (msgReq m) (msgCtx m) 1 0 [] := by
  unfold serve
  rcases h with h | h <;> simp [h, bad]

/-- A message in good order is answered as its meaning says. -/
theorem serve_good (h : s.os.recovery = false ∨ recovery = true) (head : msgHeadOk m = true) (length : lenOk m.body.length = true)
    (ctx : named = true ∨ msgCtx m = 0) : serve type lenOk named recovery m s k = (k s).answer type m s := by
  have bad : (!msgHeadOk m || !lenOk m.body.length || (!named && (msgCtx m) != 0)) = false := by
    rcases ctx with named | ctx <;> simp [*]
  have served : (s.os.recovery && !recovery) = false := by
    rcases h with h | h <;> simp [h]
  unfold serve Served.answer
  rw [served, bad]
  rfl

/-- A message that Oseus was asked is answered as its meaning says. -/
theorem Asked.answered (h : Claims.Asked s m type n) (short : n ≤ 4080) (shape : g m s = serve type lenOk named recovery m s k)
    (length : lenOk n = true) (ctx : named = true ∨ msgCtx m = 0) : onMessage type g m s = .next ((k s).answer type m s) := by
  rw [onMessage_of_type h.kind, takeMessage_serving h.serving (h.length.symm ▸ short), shape,
    serve_good (.inl h.normal) h.head (h.length.symm ▸ length) ctx]

theorem answer_congr {v w : Served} (h : v = w) : (.next (v.answer type m s) : Host.Outcome State Fault Refusal) = .next (w.answer type m s) := by
  rw [h]

/-! ### Replies -/

theorem replied_refuse (h : msgType m = type) (st d : Nat) : Claims.Replied ((Served.refuse st d).answer type m s) m st d [] := by
  rw [← h]
  rfl

theorem replied_done (h : msgType m = type) (body : List Byte) : Claims.Replied ((Served.done t body).answer type m s) m 0 0 body := by
  rw [← h]
  rfl

section Done

variable {body : List Byte}

@[simp] theorem Served.answer_done_mem : ((Served.done t body).answer type m s).mem = t.mem := rfl
@[simp] theorem Served.answer_done_coh : ((Served.done t body).answer type m s).coh = t.coh := rfl
@[simp] theorem Served.answer_done_ctx? : ((Served.done t body).answer type m s).ctx? = t.ctx? := rfl
@[simp] theorem Served.answer_done_qp? : ((Served.done t body).answer type m s).qp? = t.qp? := rfl
@[simp] theorem Served.answer_done_port? : ((Served.done t body).answer type m s).port? = t.port? := rfl
@[simp] theorem Served.answer_done_tableEntry : ((Served.done t body).answer type m s).tableEntry = t.tableEntry := rfl
@[simp] theorem Served.answer_done_inUse {a : Nat} : Claims.InUse ((Served.done t body).answer type m s) a ↔ Claims.InUse t a := Iff.rfl

end Done

/-! ### The checks of a body (03 R62) -/

theorem firstBad_eq_none {fs : List (Bool × Nat)} : firstBad fs = none ↔ ∀ p ∈ fs, p.1 = true := by
  simp [firstBad]

theorem checked_good {fs : List (Bool × Nat)} {v : Served} (h : ∀ p ∈ fs, p.1 = true) : checked fs v = v := by
  unfold checked
  rw [firstBad_eq_none.mpr h]

theorem withCtx_some {c : Context} {v : Context → Served} (h : s.ctx? (msgCtx m) = some c) : withCtx m s v = v c := by
  unfold withCtx
  rw [h]

theorem withCtx_none {v : Context → Served} (h : s.ctx? (msgCtx m) = none) : withCtx m s v = .refuse 3 0 := by
  unfold withCtx
  rw [h]

theorem zeroAt_ok {b lo w : Nat} (h : bitsOf b lo w = 0) : (zeroAt b lo w).1 = true := by
  simp [zeroAt, h]

/-! ### The lowest free number -/

theorem freeId_eq_some {taken : Nat → Bool} {i : Nat} (lt : i < n) (free : taken i = false) (least : ∀ j, j < i → taken j = true) :
    freeId n taken = some i :=
  List.find?_range_eq_some.mpr ⟨by simp [free], List.mem_range.mpr lt, fun j hj => by simp [least j hj]⟩

theorem freeId_eq_none {taken : Nat → Bool} (full : ∀ j, j < n → taken j = true) : freeId n taken = none := by
  simp only [freeId, List.find?_range_eq_none]
  exact fun j hj => by simp [full j hj]

end Messages

end Sys2Proof.Machine
end

section
/-! SUPPORT. Contexts, their reservations, queue pairs and grants as messages change them (`Machine/Mgmt.lean`; 03 R63, R68, R70, R73). -/

namespace Sys2Proof.Machine

section Contexts

variable {s t : State} {m : Message} {c : Context}

/-! ### One context of the state -/

theorem State.ctx?_id {i : Nat} (h : s.ctx? i = some c) : c.id = i := by
  simpa using List.find?_some h

theorem State.ctx?_updCtx {i : Nat} {g : Context → Context} (hg : ∀ x, (g x).id = x.id) : (s.updCtx i g).ctx? i = (s.ctx? i).map g :=
  find?_map_upd (fun x : Context => x.id == i) g s.ctxs (fun x => by simp only [hg])

theorem State.ctx?_updCtx_other {i j : Nat} {g : Context → Context} (hg : ∀ x, (g x).id = x.id) (h : j ≠ i) : (s.updCtx i g).ctx? j = s.ctx? j :=
  find?_map_upd_other (fun x => by simp only [hg]) fun x hx => by
    have e : x.id = j := by simpa using hx
    simp [e, h]

theorem State.ctx?_updCtx_named {i : Nat} {g : Context → Context} (ctx : s.ctx? i = some c) (hg : ∀ x, (g x).id = x.id) :
    (s.updCtx c.id g).ctx? i = some (g c) := by
  obtain rfl := State.ctx?_id ctx
  rw [State.ctx?_updCtx hg, ctx]
  rfl

/-- A change of every context that leaves the identifiers. -/
theorem State.ctx?_of_map {i : Nat} {g : Context → Context} (hg : ∀ x, (g x).id = x.id) (h : t.ctxs = s.ctxs.map g) : t.ctx? i = (s.ctx? i).map g := by
  have same : (fun x : Context => x.id == i) ∘ g = fun x => x.id == i := funext fun x => by
    rw [Function.comp_apply, hg]
  simp only [State.ctx?, h, List.find?_map, same]

/-- A message that names a context is answered as its meaning says of that one. -/
theorem Asked.answeredFor {type n : Nat} {g : Message → State → State} {lenOk : Nat → Bool} {recovery : Bool} {v : State → Context → Served}
    (h : Claims.Asked s m type n) (short : n ≤ 4080) (shape : g m s = serve type lenOk true recovery m s (fun s => withCtx m s (v s)))
    (length : lenOk n = true) (ctx : s.ctx? (msgCtx m) = some c) : onMessage type g m s = .next ((v s c).answer type m s) := by
  rw [Asked.answered h short shape length (.inl rfl), withCtx_some ctx]

/-! ### Peer access -/

theorem exec_grantPeerAccess (ctx : s.ctx? (msgCtx m) = some c) (h : Claims.Asked s m 0x0B 1) (zero : bitsOf (msgNum m) 1 7 = 0) :
    exec (.grantPeerAccess m) s = .next ((Served.done (s.updCtx c.id (fun c => { c with peer := bitsOf (msgNum m) 0 1 == 1 })) []).answer 0x0B m s) := by
  refine (Asked.answeredFor (g := serveGrantPeerAccess) h (by decide) (by unfold serveGrantPeerAccess; rfl) (by rfl) ctx).trans ?_
  rw [checked_good (by simp [zeroAt, zero])]

theorem grantPeerAccess_clause (ctx : s.ctx? (msgCtx m) = some c) (h : Claims.Asked s m 0x0B 1) (zero : bitsOf (msgNum m) 1 7 = 0) :
    ∃ t, exec (.grantPeerAccess m) s = .next t ∧ Claims.Replied t m 0 0 [] ∧
      t.ctx? (msgCtx m) = some { c with peer := bitsOf (msgNum m) 0 1 == 1 } ∧ ∀ j, j ≠ msgCtx m → t.ctx? j = s.ctx? j := by
  refine ⟨_, exec_grantPeerAccess ctx h zero, replied_done h.kind _, ?_, fun j other => ?_⟩
  · rw [Served.answer_done_ctx?, State.ctx?_updCtx_named ctx (by intro; rfl)]
  · rw [Served.answer_done_ctx?, State.ctx?_id ctx, State.ctx?_updCtx_other (by intro; rfl) other]

/-! ### Queue pairs (03 R63, R73) -/

/-- The queue pair that a message asks for (03 Table 3.10). -/
def askedQp (b ctx idx : Nat) : Qp where
  idx := idx
  ctx := ctx
  key := bitsOf b 0 32
  remoteQpn := bitsOf b 32 24
  mtu := bitsOf b 56 3
  prio := bitsOf b 59 1
  retry := bitsOf b 60 3
  ackTimeout := bitsOf b 64 5
  rnrRetry := bitsOf b 69 3
  sqPsn := bitsOf b 72 24
  rqPsn := bitsOf b 96 24
  gid := bitsOf b 128 128
  error := false
  rate := lineRate
  pending := []

/-- The queue pairs with one of them put anew. -/
def State.putQp (s : State) (q : Qp) : State := s.updOs (fun o => { o with qps := o.qps.filter (fun x => x.idx != q.idx) ++ [q] })

theorem State.qp?_putQp (s : State) (q : Qp) : (s.putQp q).qp? q.idx = some q := by
  have gone : (s.os.qps.filter (fun x => x.idx != q.idx)).find? (fun x => x.idx == q.idx) = none := by simp
  simp only [State.putQp, State.qp?, State.updOs, List.find?_append, gone]
  simp

theorem find?_filter_keeps {α : Type} {p r : α → Bool} {l : List α} (h : ∀ x, p x = true → r x = true) : (l.filter r).find? p = l.find? p := by
  rw [List.find?_filter]
  congr 1
  funext x
  by_cases hp : p x = true
  · simp [hp, h x hp]
  · simp [hp]

theorem State.qp?_putQp_other {q : Qp} {j : Nat} (h : j ≠ q.idx) : (s.putQp q).qp? j = s.qp? j := by
  have kept : (s.os.qps.filter (fun x => x.idx != q.idx)).find? (fun x => x.idx == j) = s.os.qps.find? (fun x => x.idx == j) :=
    find?_filter_keeps fun x hx => by simpa [beq_iff_eq.mp hx] using h
  simp [State.putQp, State.qp?, List.find?_append, kept, h.symm]

theorem exec_createQueuePair (ctx : s.ctx? (msgCtx m) = some c) (h : Claims.Asked s m 0x09 32) (mtu : bitsOf (msgNum m) 56 3 ≤ 4)
    (zero : bitsOf (msgNum m) 63 1 = 0) (zero' : bitsOf (msgNum m) 120 8 = 0) {i : Nat} (low : 2 ≤ i) (high : i ≤ 1024)
    (free : ∀ q, s.qp? i = some q → q.ctx = 64) (taken : ∀ j, 2 ≤ j → j < i → ∃ q, s.qp? j = some q ∧ q.ctx ≠ 64) :
    exec (.createQueuePair m) s = .next ((Served.done (s.putQp (askedQp (msgNum m) c.id i)) (bytesOfNat 2 i)).answer 0x09 m s) := by
  obtain ⟨k, rfl⟩ := Nat.exists_eq_add_of_le' low
  have found : (List.range 1023).find? (fun i => (s.qp? (i + 2)).all (fun q => q.ctx == 64)) = some k := by
    refine List.find?_range_eq_some.mpr ⟨?_, List.mem_range.mpr (by omega), fun j hj => ?_⟩
    · cases e : s.qp? (k + 2) with
      | none => rfl
      | some q => simpa using free q e
    · obtain ⟨q, e, other⟩ := taken (j + 2) (by omega) (by omega)
      simp [e, other]
  refine (Asked.answeredFor (g := serveCreateQueuePair) h (by decide) (by unfold serveCreateQueuePair; rfl) (by rfl) ctx).trans ?_
  rw [checked_good (by simp [zeroAt, mtu, zero, zero']), found]
  rfl

theorem createQueuePair_clause (ctx : s.ctx? (msgCtx m) = some c) (h : Claims.Asked s m 0x09 32) (mtu : bitsOf (msgNum m) 56 3 ≤ 4)
    (zero : bitsOf (msgNum m) 63 1 = 0) (zero' : bitsOf (msgNum m) 120 8 = 0) {i : Nat} (low : 2 ≤ i) (high : i ≤ 1024)
    (free : ∀ q, s.qp? i = some q → q.ctx = 64) (taken : ∀ j, 2 ≤ j → j < i → ∃ q, s.qp? j = some q ∧ q.ctx ≠ 64) :
    ∃ t, exec (.createQueuePair m) s = .next t ∧ Claims.Replied t m 0 0 (bytesOfNat 2 i) ∧
      t.qp? i = some (askedQp (msgNum m) (msgCtx m) i) ∧ ∀ j, j ≠ i → t.qp? j = s.qp? j := by
  refine ⟨_, exec_createQueuePair ctx h mtu zero zero' low high free taken, replied_done h.kind _, ?_, fun j other => ?_⟩ <;>
    rw [Served.answer_done_qp?, State.ctx?_id ctx]
  · exact s.qp?_putQp (askedQp (msgNum m) (msgCtx m) i)
  · exact State.qp?_putQp_other other

/-- What comes of a DESTROY_QUEUE_PAIR of a number in range. -/
theorem exec_destroyQueuePair (ctx : s.ctx? (msgCtx m) = some c) (h : Claims.Asked s m 0x0A 2) (low : 2 ≤ bitsOf (msgNum m) 0 11)
    (high : bitsOf (msgNum m) 0 11 ≤ 1024) (zero : bitsOf (msgNum m) 11 5 = 0) {q : Qp} (pair : s.qp? (bitsOf (msgNum m) 0 11) = some q) :
    exec (.destroyQueuePair m) s = .next (
      (if q.ctx ≠ msgCtx m then Served.refuse 3 0
      else if ∃ w ∈ c.windows, w.host = true ∧ w.pages ≠ 0 ∧ w.qp = bitsOf (msgNum m) 0 11 then .refuse 4 0
      else .done ((s.errorQp (bitsOf (msgNum m) 0 11)).updOs (fun o => { o with qps := o.qps.filter (fun q => q.idx != bitsOf (msgNum m) 0 11) })) []).answer 0x0A m s) := by
  refine (Asked.answeredFor (g := serveDestroyQueuePair) h (by decide) (by unfold serveDestroyQueuePair; rfl) (by rfl) ctx).trans ?_
  rw [checked_good (by simp [zeroAt, low, high, zero]), pair, State.ctx?_id ctx]
  simp [and_assoc]

theorem destroyQueuePair_clause (ctx : s.ctx? (msgCtx m) = some c) (i : Nat) (q : Qp) (h : Claims.Asked s m 0x0A 2) (named : i = bitsOf (msgNum m) 0 11)
    (low : 2 ≤ i) (high : i ≤ 1024) (zero : bitsOf (msgNum m) 11 5 = 0) (pair : s.qp? i = some q) :
    (q.ctx ≠ msgCtx m → exec (.destroyQueuePair m) s = .next (s.reply 0x0A (msgReq m) (msgCtx m) 3 0 [])) ∧
    (q.ctx = msgCtx m → (∃ w ∈ c.windows, w.host = true ∧ w.pages ≠ 0 ∧ w.qp = i) →
      exec (.destroyQueuePair m) s = .next (s.reply 0x0A (msgReq m) (msgCtx m) 4 0 [])) ∧
    (q.ctx = msgCtx m → (∀ w ∈ c.windows, w.host = true → w.pages ≠ 0 → w.qp ≠ i) →
      ∃ t, exec (.destroyQueuePair m) s = .next t ∧ Claims.Replied t m 0 0 [] ∧ t.qp? i = none) := by
  subst named
  rw [exec_destroyQueuePair ctx h low high zero pair]
  refine ⟨fun other => ?_, fun own used => ?_, fun own unused => ?_⟩
  · rw [if_pos other]
    rfl
  · rw [if_neg (not_not_intro own), if_pos used]
    rfl
  · rw [if_neg (not_not_intro own), if_neg (fun ⟨w, mem, host, pages, named⟩ => unused w mem host pages named)]
    refine ⟨_, rfl, replied_done h.kind _, ?_⟩
    simp [Served.answer, State.reply, State.say, State.updOs, State.qp?]

/-! ### Reservations (03 R70, Table 3.5) -/

/-- The cores that the other contexts reserve. -/
def State.othersReserve (s : State) (c : Context) (f : Context → Nat) : Nat := ((s.ctxs.filter (fun x => x.id != c.id)).map f).foldl (· + ·) 0

/-- Reservations of a context beyond what the classes may reserve: 32 and 24 cores critical, 40 and 48 with the interactive ones (03 R70). -/
def State.reservesBeyond (s : State) (c : Context) (cc cm ic im : Nat) : Prop :=
  32 < cc + s.othersReserve c (·.critC) ∨ 24 < cm + s.othersReserve c (·.critM) ∨
    40 < cc + s.othersReserve c (·.critC) + (ic + s.othersReserve c (·.intC)) ∨ 48 < cm + s.othersReserve c (·.critM) + (im + s.othersReserve c (·.intM))

/-- The way masks of the eight partitions. -/
def askedMasks (b : Nat) : List Nat := (List.range 8).map (fun p => bitsOf b (64 + 16 * p) 16)

theorem askedMasks_getD {b p : Nat} (h : p < 8) : (askedMasks b).getD p 0 = bitsOf b (64 + 16 * p) 16 := by
  simp [askedMasks, h]

/-- Reservations and masks of a context are stored, and the ways that its masks include leave retention. -/
def State.reserve (s : State) (c : Context) (b : Nat) : State :=
  let back := s.coh.retainedWays.filter (fun p => (askedMasks b).any (fun k => k.testBit p.2))
  let s := (s.updCtx c.id (fun c => { c with critC := bitsOf b 0 8, critM := bitsOf b 8 8, intC := bitsOf b 16 8, intM := bitsOf b 24 8, partMask := askedMasks b })).count c.id 0x45 back.length
  { s with coh := { s.coh with retainedWays := s.coh.retainedWays.filter (fun p => !back.contains p) } }

theorem reservation_fields {b : Nat} (zero : bitsOf b 32 32 = 0) (masks : ∀ p, p < 8 → bitsOf b (64 + 16 * p) 16 ≠ 0) :
    ∀ p ∈ zeroAt b 32 32 :: (List.range 8).map (fun p => ((askedMasks b).getD p 0 != 0, 8 + 2 * p)), p.1 = true := by
  refine List.forall_mem_cons.mpr ⟨zeroAt_ok zero, List.forall_mem_map.mpr fun p hp => ?_⟩
  have hp : p < 8 := List.mem_range.mp hp
  rw [askedMasks_getD hp]
  simpa using masks p hp

theorem exec_setReservations_beyond (ctx : s.ctx? (msgCtx m) = some c) (h : Claims.Asked s m 0x03 24) (zero : bitsOf (msgNum m) 32 32 = 0)
    (masks : ∀ p, p < 8 → bitsOf (msgNum m) (64 + 16 * p) 16 ≠ 0)
    (beyond : s.reservesBeyond c (bitsOf (msgNum m) 0 8) (bitsOf (msgNum m) 8 8) (bitsOf (msgNum m) 16 8) (bitsOf (msgNum m) 24 8)) :
    exec (.setReservations m) s = .next ((Served.refuse 5 0).answer 0x03 m s) := by
  refine (Asked.answeredFor (g := serveSetReservations) h (by decide) (by unfold serveSetReservations; rfl) (by rfl) ctx).trans (answer_congr ?_)
  exact (checked_good (reservation_fields zero masks)).trans (if_pos beyond)

theorem exec_setReservations_within (ctx : s.ctx? (msgCtx m) = some c) (h : Claims.Asked s m 0x03 24) (zero : bitsOf (msgNum m) 32 32 = 0)
    (masks : ∀ p, p < 8 → bitsOf (msgNum m) (64 + 16 * p) 16 ≠ 0)
    (within : ¬ s.reservesBeyond c (bitsOf (msgNum m) 0 8) (bitsOf (msgNum m) 8 8) (bitsOf (msgNum m) 16 8) (bitsOf (msgNum m) 24 8))
    (critical : s.admittedLive c.id 0 = false) (interactive : s.admittedLive c.id 1 = false) :
    exec (.setReservations m) s = .next ((Served.done (s.reserve c (msgNum m)) []).answer 0x03 m s) := by
  refine (Asked.answeredFor (g := serveSetReservations) h (by decide) (by unfold serveSetReservations; rfl) (by rfl) ctx).trans (answer_congr ?_)
  refine (checked_good (reservation_fields zero masks)).trans ((if_neg within).trans (if_neg ?_))
  simp [critical, interactive]

theorem State.reserve_ctx (ctx : s.ctx? c.id = some c) (b : Nat) : ∃ y, (s.reserve c b).ctx? c.id = some y ∧
    y.critC = bitsOf b 0 8 ∧ y.critM = bitsOf b 8 8 ∧ y.intC = bitsOf b 16 8 ∧ y.intM = bitsOf b 24 8 ∧ y.partMask = askedMasks b := by
  have stored := State.ctx?_updCtx (s := s) (i := c.id) (g := fun c => { c with
    critC := bitsOf b 0 8, critM := bitsOf b 8 8, intC := bitsOf b 16 8, intM := bitsOf b 24 8, partMask := askedMasks b }) (by intro; rfl)
  rw [ctx] at stored
  obtain ⟨f, same, counted⟩ := (HomeChanged.count _ c.id 0x45 _).trans (HomeChanged.of_coh _ (s.reserve c b).coh rfl) |>.ctx? c.id
  refine ⟨_, counted.trans (congrArg _ stored), ?_⟩
  rw [same]
  exact ⟨rfl, rfl, rfl, rfl, rfl⟩

theorem State.reserve_ways (b : Nat) {w : Nat × Nat} (h : w ∈ (s.reserve c b).coh.retainedWays) {p : Nat} (hp : p < 8) :
    (bitsOf b (64 + 16 * p) 16).testBit w.2 = false := by
  obtain ⟨retained, out⟩ := List.mem_filter.mp h
  by_contra included
  have included : (bitsOf b (64 + 16 * p) 16).testBit w.2 = true := by simpa using included
  have mask : bitsOf b (64 + 16 * p) 16 ∈ askedMasks b := List.mem_map.mpr ⟨p, List.mem_range.mpr hp, rfl⟩
  have back : w ∈ s.coh.retainedWays.filter (fun p => (askedMasks b).any (fun k => k.testBit p.2)) :=
    List.mem_filter.mpr ⟨retained, List.any_eq_true.mpr ⟨_, mask, included⟩⟩
  rw [List.contains_iff_mem.mpr back] at out
  exact Bool.noConfusion out

theorem setReservations_clause (ctx : s.ctx? (msgCtx m) = some c) (h : Claims.Asked s m 0x03 24) (zero : bitsOf (msgNum m) 32 32 = 0)
    (masks : ∀ p, p < 8 → bitsOf (msgNum m) (64 + 16 * p) 16 ≠ 0)
    (within : ¬ s.reservesBeyond c (bitsOf (msgNum m) 0 8) (bitsOf (msgNum m) 8 8) (bitsOf (msgNum m) 16 8) (bitsOf (msgNum m) 24 8))
    (critical : s.admittedLive c.id 0 = false) (interactive : s.admittedLive c.id 1 = false) :
    ∃ t y, exec (.setReservations m) s = .next t ∧ Claims.Replied t m 0 0 [] ∧ t.mem = s.mem ∧ t.ctx? (msgCtx m) = some y ∧
      y.critC = bitsOf (msgNum m) 0 8 ∧ y.critM = bitsOf (msgNum m) 8 8 ∧ y.intC = bitsOf (msgNum m) 16 8 ∧ y.intM = bitsOf (msgNum m) 24 8 ∧
      (∀ p, p < 8 → y.partMask.getD p 0 = bitsOf (msgNum m) (64 + 16 * p) 16) ∧
      ∀ w ∈ t.coh.retainedWays, ∀ p, p < 8 → (bitsOf (msgNum m) (64 + 16 * p) 16).testBit w.2 = false := by
  have own := ctx
  rw [← State.ctx?_id ctx] at own
  obtain ⟨y, stored, cc, cm, ic, im, masks'⟩ := State.reserve_ctx own (msgNum m)
  refine ⟨_, y, exec_setReservations_within ctx h zero masks within critical interactive, replied_done h.kind _, rfl, ?_, cc, cm, ic, im, fun p hp => ?_,
    fun w mem p hp => State.reserve_ways _ mem hp⟩
  · rw [Served.answer_done_ctx?, ← State.ctx?_id ctx, stored]
  · rw [masks', askedMasks_getD hp]

end Contexts

end Sys2Proof.Machine
end

section
/-! SUPPORT. Frames, tables and pages as messages give them out (`Machine/Frames.lean`, `Machine/Pages.lean`; 03 R68, R72, 04 R89): what memory holds in a frame that is given out or taken back, and the leaf entry of a new page. -/

namespace Sys2Proof.Machine

/-! ### Parts of a sparse map -/

theorem sparseGet_filter_out {α : Type} {z : α} {l : List (Nat × α)} {f : Nat × α → Bool} {a : Nat} (out : ∀ v, f (a, v) = false) :
    sparseGet z (l.filter f) a = z := by
  induction l with
  | nil => rfl
  | cons p l ih =>
    obtain ⟨b, v⟩ := p
    rw [List.filter_cons]
    split
    next kept =>
      have other : a ≠ b := by
        rintro rfl
        rw [out v] at kept
        cases kept
      rw [sparseGet, if_neg other, ih]
    · exact ih

theorem sparseGet_filter_in {α : Type} {z : α} {l : List (Nat × α)} {f : Nat × α → Bool} {a : Nat} (kept : ∀ v, f (a, v) = true) :
    sparseGet z (l.filter f) a = sparseGet z l a := by
  induction l with
  | nil => rfl
  | cons p l ih =>
    obtain ⟨b, v⟩ := p
    rw [List.filter_cons]
    split
    · rw [sparseGet, sparseGet, ih]
    next gone =>
      have other : a ≠ b := by
        rintro rfl
        exact gone (kept v)
      rw [ih, sparseGet, if_neg other]

theorem sparseBytes_congr {l l' : List Host.Cell} {a n : Nat} (h : ∀ i, i < n → sparseGet 0 l (a + i) = sparseGet 0 l' (a + i)) : sparseBytes l a n = sparseBytes l' a n := by
  induction n generalizing a with
  | zero => rfl
  | succ n ih =>
    have rest := ih (a := a + 1) fun i hi => by rw [Nat.add_right_comm]; exact h (i + 1) (by omega)
    rw [sparseBytes, sparseBytes, rest]
    congr 1
    exact h 0 (by omega)

/-! ### Frames (03 R72) -/

section Frames

variable {s : State} {fs : List (Nat × Nat)} {a f n : Nat}

/-- Byte address `a` lies in one of some frames. -/
def InFrames (fs : List (Nat × Nat)) (a : Nat) : Prop := ∃ p ∈ fs, p.1 * 65536 ≤ a ∧ a < (p.1 + p.2) * 65536

theorem inFrames_one : InFrames [(f, 1)] a ↔ f * 65536 ≤ a ∧ a < (f + 1) * 65536 := by
  simp [InFrames]

theorem State.zeroFrames_inside (h : InFrames fs a) : sparseGet 0 (s.zeroFrames fs).mem.cells a = 0 := by
  refine sparseGet_filter_out fun _ => ?_
  obtain ⟨p, mem, within⟩ := h
  simpa using ⟨p.1, p.2, mem, within⟩

theorem State.zeroFrames_outside (h : ¬ InFrames fs a) : sparseGet 0 (s.zeroFrames fs).mem.cells a = sparseGet 0 s.mem.cells a := by
  refine sparseGet_filter_in fun _ => ?_
  by_contra inside
  refine h ?_
  simp only [Bool.not_eq_true', Bool.not_eq_false, List.any_eq_true, decide_eq_true_eq] at inside
  exact inside

theorem State.zeroFrames_used (s : State) (fs : List (Nat × Nat)) : (s.zeroFrames fs).os.used = s.os.used := rfl

theorem State.useFrames_inUse {b : Nat} (h : InFrames [(f, n)] b) : Claims.InUse (s.useFrames f n) b := by
  obtain ⟨p, mem, within⟩ := h
  exact ⟨p, List.mem_cons.mpr (.inl (List.mem_singleton.mp mem)), within⟩

theorem State.useFrames_keeps_inUse (h : Claims.InUse s a) : Claims.InUse (s.useFrames f n) a := by
  obtain ⟨p, mem, within⟩ := h
  exact ⟨p, List.mem_cons_of_mem _ mem, within⟩

/-- A frame that is not in use holds no byte that is. -/
theorem not_inFrames_of_inUse (free : framesFree s.os.used f 1 = true) (h : Claims.InUse s a) : ¬ InFrames [(f, 1)] a := by
  obtain ⟨p, mem, low, high⟩ := h
  have apart : p.1 + p.2 ≤ f ∨ f + 1 ≤ p.1 := by simpa using List.all_eq_true.mp free p mem
  rw [inFrames_one]
  omega

theorem least_mem {l : List Nat} {x : Nat} (h : least l = some x) : x ∈ l := by
  induction l generalizing x with
  | nil => cases h
  | cons y l ih =>
    rw [least] at h
    split at h
    next z hz =>
      cases h
      rcases Nat.le_total y z with le | le
      · simp [Nat.min_eq_left le]
      · rw [Nat.min_eq_right le]
        exact List.mem_cons_of_mem _ (ih hz)
    · cases h
      simp

theorem lowestFree_spec {used : List (Nat × Nat)} {lo hi : Nat} (h : lowestFree used lo hi n = some f) :
    lo ≤ f ∧ f + n ≤ hi ∧ framesFree used f n = true := by
  have mem := List.mem_filter.mp (least_mem h)
  simpa [and_assoc] using mem.2

end Frames

/-! ### Table entries (04 R89) -/

section Tables

variable {s : State} {root va e leaf : Nat}

theorem bits_of_pointer (h : e % 4 = 1) : bitsOf e 0 1 = 1 ∧ bitsOf e 1 1 = 0 := by
  simp only [bitsOf]
  omega

theorem State.tableAt_standing {pa : Nat} (h : s.tableEntry pa % 4 = 1) : s.tableAt pa = some (entryPa (s.tableEntry pa), s) := by
  unfold State.tableAt
  exact if_pos (bits_of_pointer h)

/-- Where both tables stand, a page of 64 KiB is mapped by its leaf entry alone. -/
theorem State.mapPage_standing (h : Claims.leafEntryAt s root va e) : s.mapPage root va false leaf = some (s.setEntry e leaf) := by
  obtain ⟨first, second, rfl, -⟩ := h
  unfold State.mapPage
  simp [State.tableAt_standing first, State.tableAt_standing second]

theorem State.tableEntry_congr {t : State} {pa : Nat} (h : ∀ i, i < 8 → sparseGet 0 t.mem.cells (pa + i) = sparseGet 0 s.mem.cells (pa + i)) :
    t.tableEntry pa = s.tableEntry pa := by
  unfold State.tableEntry sparseDword
  rw [sparseBytes_congr h]

theorem State.tableEntry_setEntry {pa : Nat} (wf : s.mem.wf = true) (small : e < 2 ^ 64) : (s.setEntry pa e).tableEntry pa = e := by
  have bytes := sparseBytes_written (pa := pa) (bs := bytesOfNat 8 e) wf
  rw [bytesOfNat_length] at bytes
  have value : natOfBytes (sparseBytes (s.setEntry pa e).mem.cells pa 8) = e := by
    rw [show (s.setEntry pa e).mem = s.mem.write pa ((bytesOfNat 8 e).map some) from rfl, bytes, natOfBytes_bytesOfNat]
    exact Nat.mod_eq_of_lt small
  unfold State.tableEntry sparseDword
  rw [value, BitVec.toNat_ofNat]
  exact Nat.mod_eq_of_lt small

theorem State.setEntry_other {pa a : Nat} (h : a < pa ∨ pa + 8 ≤ a) : sparseGet 0 (s.setEntry pa e).mem.cells a = sparseGet 0 s.mem.cells a :=
  Memory.write_other (bs := bytesOfNat 8 e) (by rwa [bytesOfNat_length])

/-- A frame given out to a page leaves the tables as they were. -/
theorem leafEntryAt_useFrames {f : Nat} (free : framesFree s.os.used f 1 = true) (h : Claims.leafEntryAt s root va e) :
    Claims.leafEntryAt (s.useFrames f 1) root va e := by
  have same : ∀ pa, (∀ i, i < 8 → Claims.InUse s (pa + i)) → (s.useFrames f 1).tableEntry pa = s.tableEntry pa := fun pa used =>
    State.tableEntry_congr fun i hi => State.zeroFrames_outside (not_inFrames_of_inUse free (used i hi))
  obtain ⟨first, second, place, used⟩ := h
  have eq1 := same _ fun i hi => (used i hi).1
  have eq2 := same _ fun i hi => (used i hi).2.1
  unfold Claims.leafEntryAt
  dsimp only
  rw [eq1, eq2]
  exact ⟨first, second, place, fun i hi => ⟨State.useFrames_keeps_inUse (used i hi).1, State.useFrames_keeps_inUse (used i hi).2.1, State.useFrames_keeps_inUse (used i hi).2.2⟩⟩

end Tables

/-! ### What MAP_MEMORY asks for (03 Table 3.6) -/

section Ask

variable {a : MapAsk} {b : Nat}

/-- The pool of frames that a message names for its first page. -/
def MapAsk.pool (a : MapAsk) : Nat × Nat := framePool a.cls (if a.cls = 0 ∧ a.place = 8 then 0 else a.place)

theorem MapAsk.frame_zero (a : MapAsk) (used : List (Nat × Nat)) (small : a.big = false) : a.frame used 0 = lowestFree used a.pool.1 a.pool.2 1 := by
  unfold MapAsk.frame MapAsk.pool
  simp [small]

/-- For memory of the module no queue pair is asked for. -/
theorem MapAsk.fields_qp (own : a.cls ≤ 2) (q : Bool) : a.fields b q = a.fields b true := by
  have other : a.cls ≠ 4 := by omega
  unfold MapAsk.fields
  simp [other]

theorem MapAsk.place_le {q : Bool} (good : firstBad (a.fields b q) = none) : (a.cls = 0 → a.place ≤ 8) ∧ (a.cls = 2 → a.place ≤ 3) := by
  have fields := firstBad_eq_none.mp good
  simp only [MapAsk.fields, List.forall_mem_cons] at fields
  obtain ⟨-, -, -, -, -, -, -, -, -, place, -⟩ := fields
  constructor <;>
  · intro h
    rw [h] at place
    simpa using place

theorem MapAsk.pool_le {q : Bool} (own : a.cls ≤ 2) (good : firstBad (a.fields b q) = none) : a.pool.2 ≤ 2 ^ 30 := by
  obtain ⟨hbm, weights⟩ := MapAsk.place_le good
  unfold MapAsk.pool
  obtain h | h | h : a.cls = 0 ∨ a.cls = 1 ∨ a.cls = 2 := by omega
  · have := hbm h
    rw [h]
    simp only [framePool]
    split <;> omega
  · rw [h]
    simp only [framePool, tableBase]
    omega
  · have := weights h
    rw [h]
    simp only [framePool, OfNat.ofNat_ne_zero, false_and, if_false]
    omega

theorem bitsOf_lt (w lo n : Nat) : bitsOf w lo n < 2 ^ n := Nat.mod_lt _ (Nat.two_pow_pos n)

theorem mapAsk_leaf_lt (own : (mapAsk b).cls ≤ 2) (resident : (mapAsk b).nonres = false) : (mapAsk b).leaf < 2 ^ 50 + 2 ^ 51 := by
  have h1 := bitsOf_lt b 132 1
  have h2 := bitsOf_lt b 133 1
  have h3 := bitsOf_lt b 134 1
  have h4 := bitsOf_lt b 135 1
  have h5 := bitsOf_lt b 136 1
  have h6 := bitsOf_lt b 137 1
  have h7 := bitsOf_lt b 138 2
  have h8 := bitsOf_lt b 140 3
  unfold MapAsk.leaf
  rw [resident]
  simp only [mapAsk, bit] at own ⊢
  simp only [Bool.false_eq_true, if_false]
  omega

end Ask

end Sys2Proof.Machine
end

section
/-! SUPPORT. CREATE_CONTEXT and MAP_MEMORY (`Machine/Mgmt.lean`; 03 R68, R72, Tables 3.4 and 3.6): the context that a message makes, and the page that it maps. -/

namespace Sys2Proof.Machine

/-! ### CREATE_CONTEXT (03 R68) -/

section Create

variable {s : State} {m : Message}

/-- The context that a message makes, with its translation root (03 Table 3.4). -/
def askedContext (b id root : Nat) : Context where
  id := id
  trapHandler := bitsOf b 0 52
  emulHandler := bitsOf b 64 52
  preemptHandler := bitsOf b 128 52
  tidTable := bitsOf b 192 52
  trapRing := bitsOf b 256 52
  ringOrder := bitsOf b 308 4
  pagerMbox := bitsOf b 320 52
  rdvTimeout := bitsOf b 384 32
  notifyTerm := bitsOf b 416 1 == 1
  root := root
  critC := 0
  critM := 0
  intC := 0
  intM := 0
  partMask := List.replicate 8 0xFFFF
  peer := false
  windows := []
  graphs := []
  images := []
  wdq := []
  chans := []
  recSeq := 0
  counters := []
  held := false

/-- What comes of a message with good fields. -/
def State.makeContext (s : State) (b : Nat) : Served :=
  match freeId 64 (fun i => (s.ctx? i).isSome), s.newTable with
  | some id, some (root, s) => .done { s with ctxs := s.ctxs ++ [askedContext b id root] } (bytesOfNat 1 id)
  | _, _ => .refuse 2 0

/-- The fields of a CREATE_CONTEXT are as they must be (03 Table 3.4). -/
structure ContextFields (b : Nat) : Prop where
  trap : bitsOf b 0 52 % 4 = 0
  emul : bitsOf b 64 52 % 4 = 0
  preempt : bitsOf b 128 52 % 4 = 0
  tids : bitsOf b 192 52 % 65536 = 0
  ring : bitsOf b 256 52 % 65536 = 0
  order : bitsOf b 308 4 ≤ 8
  pager : bitsOf b 320 52 % 4096 = 0
  rendezvous : bitsOf b 384 32 ≠ 0
  reserved : ∀ p ∈ [(52, 12), (116, 12), (180, 12), (244, 12), (312, 8), (372, 12), (417, 95)], bitsOf b p.1 p.2 = 0

theorem exec_createContext (h : Claims.Asked s m 0x01 64) (ctx : msgCtx m = 0) (fields : ContextFields (msgNum m)) :
    exec (.createContext m) s = .next ((s.makeContext (msgNum m)).answer 0x01 m s) := by
  obtain ⟨trap, emul, preempt, tids, ring, order, pager, rendezvous, reserved⟩ := fields
  simp only [List.forall_mem_cons, List.not_mem_nil, false_imp_iff, implies_true, and_true] at reserved
  obtain ⟨r1, r2, r3, r4, r5, r6, r7⟩ := reserved
  refine (Asked.answered (g := serveCreateContext) h (by decide) (by unfold serveCreateContext; rfl) (by rfl) (.inr ctx)).trans (answer_congr ?_)
  exact checked_good (by simp [zeroAt, trap, emul, preempt, tids, ring, order, pager, rendezvous, r1, r2, r3, r4, r5, r6, r7])

theorem State.makeContext_full (b : Nat) (full : ∀ i, i < 64 → s.ctx? i ≠ none) : s.makeContext b = .refuse 2 0 := by
  unfold State.makeContext
  rw [freeId_eq_none fun j hj => Option.isSome_iff_ne_none.mpr (full j hj)]

theorem State.makeContext_lowest (b : Nat) {id f : Nat} (lt : id < 64) (free : s.ctx? id = none) (least : ∀ j, j < id → s.ctx? j ≠ none)
    (frame : highestFree s.os.used 0x11E00000 1 = some f) :
    s.makeContext b = .done { s.useFrames f 1 with ctxs := s.ctxs ++ [askedContext b id (f * 65536)] } [BitVec.ofNat 8 id] := by
  unfold State.makeContext State.newTable
  rw [freeId_eq_some lt (by rw [free]; rfl) fun j hj => Option.isSome_iff_ne_none.mpr (least j hj), frame]
  rfl

theorem createContext_clause (h : Claims.Asked s m 0x01 64) (ctx : msgCtx m = 0) (fields : ContextFields (msgNum m)) :
    ((∀ i, i < 64 → s.ctx? i ≠ none) → ∃ t, exec (.createContext m) s = .next t ∧ Claims.Replied t m 2 0 [] ∧ t.ctxs = s.ctxs) ∧
    ∀ id, id < 64 → s.ctx? id = none → (∀ j, j < id → s.ctx? j ≠ none) → (highestFree s.os.used 0x11E00000 1).isSome = true →
      ∃ t root, exec (.createContext m) s = .next t ∧ Claims.Replied t m 0 0 [BitVec.ofNat 8 id] ∧ t.ctx? id = some (askedContext (msgNum m) id root) ∧
        (∀ j, j ≠ id → t.ctx? j = s.ctx? j) ∧ (∀ a, root ≤ a → a < root + 65536 → sparseGet 0 t.mem.cells a = 0) ∧ Claims.InUse t root := by
  rw [exec_createContext h ctx fields]
  constructor
  · intro full
    rw [State.makeContext_full _ full]
    exact ⟨_, rfl, replied_refuse h.kind _ _, rfl⟩
  · intro id lt free least frame
    obtain ⟨f, frame⟩ := Option.isSome_iff_exists.mp frame
    rw [State.makeContext_lowest _ lt free least frame]
    refine ⟨_, f * 65536, rfl, replied_done h.kind _, ?_, fun j other => ?_, fun a low high => ?_, ?_⟩
    · rw [Served.answer_done_ctx?]
      simp only [State.ctx?] at free ⊢
      rw [List.find?_append, free]
      simp [askedContext]
    · rw [Served.answer_done_ctx?]
      simp only [State.ctx?, List.find?_append]
      simp [askedContext, other.symm]
    · rw [Served.answer_done_mem]
      exact State.zeroFrames_inside (inFrames_one.mpr ⟨low, by omega⟩)
    · exact State.useFrames_inUse (inFrames_one.mpr ⟨Nat.le_refl _, by omega⟩)

end Create

/-! ### MAP_MEMORY of one page of the module's memory (03 R72) -/

section Map

variable {s t : State} {m : Message} {c : Context} {e : Nat}

theorem State.shrinkWindows_os (s : State) (ctx : Nat) (ps : List (Nat × Nat × Nat)) : (s.shrinkWindows ctx ps).os = s.os := rfl

theorem State.wakeGroups_os (s : State) (ctx : Nat) (a : MapAsk) : (s.wakeGroups ctx a).os = s.os := by
  unfold State.wakeGroups
  split <;> rfl

/-- A MAP_MEMORY asks for one resident page of 64 KiB of the module's own memory, in a range with no page. -/
structure MapsOne (s : State) (c : Context) (b : Nat) : Prop where
  good : firstBad ((mapAsk b).fields b true) = none
  own : (mapAsk b).cls ≤ 2
  small : (mapAsk b).big = false
  resident : (mapAsk b).nonres = false
  length : (mapAsk b).len = 65536
  empty : s.pagesIn c.root (mapAsk b).va 65536 = []

/-- The first page of a range takes a frame of its own. -/
theorem State.mapOne_zero {a : MapAsk} {root f : Nat} (own : a.cls ≤ 2) (small : a.big = false) (resident : a.nonres = false) (frame : a.frame s.os.used 0 = some f) :
    s.mapOne root a 0 0 = (s.useFrames f 1).mapPage root a.va false (a.leaf + f * 2 ^ 16) := by
  have va : a.va + 0 * pageBytes a.big = a.va := by rw [Nat.zero_mul, Nat.add_zero]
  unfold State.mapOne
  rw [va, frame]
  simp only [resident, Nat.not_lt.mpr own, small, Bool.false_eq_true, if_false]

/-- The page is mapped to the lowest free frame of its pool. -/
theorem State.mapMany_one {b f : Nat} (ask : MapsOne s c b) (frame : (mapAsk b).frame s.os.used 0 = some f)
    (leaf : Claims.leafEntryAt s c.root (mapAsk b).va e) :
    s.mapMany c.root (mapAsk b) 0 (List.range ((mapAsk b).len / pageBytes (mapAsk b).big)) = some ((s.useFrames f 1).setEntry e ((mapAsk b).leaf + f * 2 ^ 16)) := by
  have frame' := frame
  rw [MapAsk.frame_zero _ _ ask.small] at frame'
  obtain ⟨-, -, free⟩ := lowestFree_spec frame'
  have one : s.mapOne c.root (mapAsk b) 0 0 = some ((s.useFrames f 1).setEntry e ((mapAsk b).leaf + f * 2 ^ 16)) := by
    rw [State.mapOne_zero ask.own ask.small ask.resident frame]
    exact State.mapPage_standing (leafEntryAt_useFrames free leaf)
  have pages : (mapAsk b).len / pageBytes (mapAsk b).big = 1 := by
    rw [ask.length, ask.small]
    simp [pageBytes]
  rw [pages]
  simp [State.mapMany, one]

theorem exec_mapMemory_one (ctx : s.ctx? (msgCtx m) = some c) (h : Claims.Asked s m 0x04 40) (ask : MapsOne s c (msgNum m)) {f : Nat}
    (frame : (mapAsk (msgNum m)).frame s.os.used 0 = some f) (leaf : Claims.leafEntryAt s c.root (mapAsk (msgNum m)).va e) :
    exec (.mapMemory m) s = .next ((Served.done
      ((((s.useFrames f 1).setEntry e ((mapAsk (msgNum m)).leaf + f * 2 ^ 16)).shrinkWindows c.id []).wakeGroups c.id (mapAsk (msgNum m))) []).answer 0x04 m s) := by
  have own : ¬ 2 < (mapAsk (msgNum m)).cls := Nat.not_lt.mpr ask.own
  refine (Asked.answeredFor (g := serveMapMemory) h (by decide) (by unfold serveMapMemory; rfl) (by rfl) ctx).trans (answer_congr ?_)
  rw [MapAsk.fields_qp ask.own, checked_good (firstBad_eq_none.mp ask.good)]
  have empty : s.pagesIn c.root (mapAsk (msgNum m)).va (mapAsk (msgNum m)).len = [] := ask.length ▸ ask.empty
  dsimp only
  simp only [empty, own, if_false, State.mapMany_one ask frame leaf]
  simp

theorem mapMemory_clause (ctx : s.ctx? (msgCtx m) = some c) (h : Claims.Asked s m 0x04 40) (ask : MapsOne s c (msgNum m))
    (leaf : Claims.leafEntryAt s c.root (mapAsk (msgNum m)).va e) (wf : s.mem.wf = true) (room : ((mapAsk (msgNum m)).frame s.os.used 0).isSome = true) :
    ∃ t f, exec (.mapMemory m) s = .next t ∧ Claims.Replied t m 0 0 [] ∧
      (mapAsk (msgNum m)).pool.1 ≤ f ∧ f < (mapAsk (msgNum m)).pool.2 ∧ framesFree s.os.used f 1 = true ∧ Claims.InUse t (f * 65536) ∧
      t.tableEntry e = (mapAsk (msgNum m)).leaf + f * 2 ^ 16 ∧ (∀ a, f * 65536 ≤ a → a < (f + 1) * 65536 → sparseGet 0 t.mem.cells a = 0) ∧
      ∀ a, (a < f * 65536 ∨ (f + 1) * 65536 ≤ a) → (a < e ∨ e + 8 ≤ a) → sparseGet 0 t.mem.cells a = sparseGet 0 s.mem.cells a := by
  obtain ⟨f, frame⟩ := Option.isSome_iff_exists.mp room
  have pool := frame
  rw [MapAsk.frame_zero _ _ ask.small] at pool
  obtain ⟨low, high, free⟩ := lowestFree_spec pool
  have bound := MapAsk.pool_le ask.own ask.good
  have leafSmall := mapAsk_leaf_lt ask.own ask.resident
  have apart : ∀ i, i < 8 → ¬ InFrames [(f, 1)] (e + i) := by
    obtain ⟨-, -, -, used⟩ := leaf
    exact fun i hi => not_inFrames_of_inUse free (used i hi).2.2
  have mem : ∀ u : State, ((u.shrinkWindows c.id []).wakeGroups c.id (mapAsk (msgNum m))).mem = u.mem := fun u => by
    rw [State.wakeGroups_mem, State.shrinkWindows_mem]
  have used : ∀ u : State, ((u.shrinkWindows c.id []).wakeGroups c.id (mapAsk (msgNum m))).os = u.os := fun u => by
    rw [State.wakeGroups_os, State.shrinkWindows_os]
  refine ⟨_, f, exec_mapMemory_one ctx h ask frame leaf, replied_done h.kind _, low, by omega, free, ?_, ?_, fun a inside inside' => ?_, fun a outside other => ?_⟩
  · rw [Served.answer_done_inUse]
    unfold Claims.InUse
    rw [used]
    exact State.useFrames_inUse (inFrames_one.mpr ⟨Nat.le_refl _, by omega⟩)
  · rw [Served.answer_done_tableEntry]
    unfold State.tableEntry
    rw [mem]
    exact State.tableEntry_setEntry (State.useFrames_wf wf) (by omega)
  · have elsewhere : a < e ∨ e + 8 ≤ a := by
      by_contra within
      refine apart (a - e) (by omega) (inFrames_one.mpr ?_)
      omega
    rw [Served.answer_done_mem, mem, State.setEntry_other elsewhere]
    exact State.zeroFrames_inside (inFrames_one.mpr ⟨inside, inside'⟩)
  · rw [Served.answer_done_mem, mem, State.setEntry_other other]
    refine State.zeroFrames_outside fun inside => ?_
    rw [inFrames_one] at inside
    omega

end Map

end Sys2Proof.Machine
end

section
/-! SUPPORT. Time stands still while the device writes records and reports, ends instances and starts a shoot-down: each of these operations is at one aclk (log entry 4). -/

namespace Sys2Proof.Machine

section Clock

variable {s : State}

theorem foldl_aclk {α : Type} {g : State → α → State} (hg : ∀ s a, (g s a).aclk = s.aclk) (l : List α) (s : State) : (l.foldl g s).aclk = s.aclk :=
  List.foldlRecOn (motive := fun u => u.aclk = s.aclk) l g rfl fun u hu a _ => (hg u a).trans hu

theorem HomeChanged.aclk {t : State} (h : HomeChanged s t) : t.aclk = s.aclk := by
  obtain ⟨_, _, -, -, rfl⟩ := h
  rfl

/-! ### Words, tags and their waiters -/

@[simp] theorem State.writeHome_aclk (s : State) (m : MemLoc) (bytes : List (Option Byte)) (w : Writer) (ctx : Nat) :
    (s.writeHome m bytes w ctx .outside).aclk = s.aclk := (s.writeHome_outside m bytes w ctx).aclk

@[simp] theorem State.acquireFor_aclk (s : State) (r : FibreRef) (st : Strength) : (s.acquireFor r st).aclk = s.aclk := by
  unfold State.acquireFor
  (repeat' split) <;> rfl

@[simp] theorem serveWaiter_aclk (v : Dword) (w : Waiter) (s : State) : (serveWaiter v w s).aclk = s.aclk := by
  unfold serveWaiter
  rw [State.acquireFor_aclk]
  split <;> rfl

@[simp] theorem serveAll_aclk (v : Dword × Bool) (ws : List Waiter) (s : State) : (serveAll v ws s).aclk = s.aclk :=
  foldl_aclk (fun s x => by
    split
    · rfl
    · exact serveWaiter_aclk v.1 x s) ws s

@[simp] theorem State.observeFull_aclk (s : State) (w : Nat) : (s.observeFull w).aclk = s.aclk := by
  unfold State.observeFull
  dsimp only
  split <;> rfl

@[simp] theorem State.fullTransition_aclk (s : State) (w : Nat) : (s.fullTransition w).aclk = s.aclk := by
  have observed : ∀ (ws : List Waiter) (gone : Waiter → Bool), (((serveAll (s.wordAt w) ws s).leaveWord gone).observeFull w).aclk = s.aclk := fun ws gone =>
    (State.observeFull_aclk _ w).trans (serveAll_aclk (s.wordAt w) ws s)
  unfold State.fullTransition
  dsimp only
  split
  · refine (serveAll_aclk _ _ _).trans ?_
    split <;> exact observed _ _
  · exact observed _ _

@[simp] theorem State.fillAt_aclk (s : State) (m : MemLoc) (v : Option Dword) (w : Writer) (ctx : Nat) : (s.fillAt m v w ctx none).aclk = s.aclk := by
  have filled : ∀ u : State, (if u.tagFull (wordOf m.pa) then u else (u.setTag (wordOf m.pa) true).fullTransition (wordOf m.pa)).aclk = u.aclk := fun u => by
    split
    · rfl
    · exact State.fullTransition_aclk _ _
  cases v with
  | none => exact filled s
  | some x => exact (filled _).trans (s.modifyHome_outside m _ w ctx).aclk

/-! ### Records and reports -/

@[simp] theorem State.deviceWrite_aclk (s : State) (ctx va : Nat) (bytes : List Byte) : (s.deviceWrite ctx va bytes).aclk = s.aclk := by
  unfold State.deviceWrite
  (repeat' split) <;> simp [State.send]

@[simp] theorem State.deviceDwords_aclk (s : State) (ctx va : Nat) (vs : List Dword) : (s.deviceDwords ctx va vs).aclk = s.aclk := by
  induction vs generalizing s va with
  | nil => rfl
  | cons v vs ih => rw [State.deviceDwords, ih, State.deviceWrite_aclk]

@[simp] theorem State.dropRecordLines_aclk (s : State) (ctx a : Nat) (core : Option CoreId) : (s.dropRecordLines ctx a core).aclk = s.aclk := by
  unfold State.dropRecordLines
  (repeat' split) <;> rfl

@[simp] theorem State.writeRecord_aclk (s : State) (ctx : Nat) (t : Option Team) (f : Option Fibre) (i : RecordInfo) :
    (s.writeRecord ctx t f i).2.2.aclk = s.aclk := by
  unfold State.writeRecord
  split
  · rfl
  · rw [State.dropRecordLines_aclk, State.deviceDwords_aclk]
    rfl

@[simp] theorem State.writeFaultWord_aclk (s : State) (ctx va : Nat) (v : Dword) : (s.writeFaultWord ctx va v).aclk = s.aclk := by
  unfold State.writeFaultWord
  (repeat' split) <;> simp [State.send]

@[simp] theorem State.pushEvent_aclk (s : State) (code ctx : Nat) (word : Dword) : (s.pushEvent code ctx word).aclk = s.aclk := by
  unfold State.pushEvent
  dsimp only
  split <;> rfl

@[simp] theorem State.report_aclk (s : State) (ctx va : Nat) (v : Dword) (event : Bool) : (s.report ctx va v event).aclk = s.aclk := by
  unfold State.report State.giveReport
  dsimp only
  (repeat' split) <;> simp

@[simp] theorem State.reportTermination_aclk (s : State) (ctx va kind cause recSeq : Nat) : (s.reportTermination ctx va kind cause recSeq).aclk = s.aclk :=
  State.report_aclk _ _ _ _ _

/-! ### Jobs, instances and shoot-downs -/

@[simp] theorem State.endPermitWaits_aclk (s : State) (p : FibreRef → Bool) : (s.endPermitWaits p).aclk = s.aclk :=
  foldl_aclk (g := State.dropPermitWait) (fun _ _ => rfl) _ s

@[simp] theorem State.stopJob_aclk (s : State) (job ctx : Nat) : (s.stopJob job ctx).aclk = s.aclk :=
  State.endPermitWaits_aclk _ _

@[simp] theorem State.terminateRun_aclk (s : State) (ctx cause addr : Nat) (g : Graph) (r : NodeRun) : (s.terminateRun ctx cause addr g r).aclk = s.aclk := by
  unfold State.terminateRun
  split
  · refine (State.reportTermination_aclk _ _ _ _ _ _).trans ((State.writeRecord_aclk _ _ _ _ _).trans ?_)
    rw [State.stopJob_aclk]
  · rfl

@[simp] theorem State.endInstance_aclk (s : State) (inst ctx kind cause addr : Nat) (each : Bool) : (s.endInstance inst ctx kind cause addr each).aclk = s.aclk := by
  unfold State.endInstance
  split
  · rfl
  · refine (State.reportTermination_aclk _ _ _ _ _ _).trans ((State.writeRecord_aclk _ _ _ _ _).trans ?_)
    refine foldl_aclk (fun s r => ?_) _ s
    split
    · split <;> simp
    · simp

@[simp] theorem State.loseWords_aclk (s : State) (ctx : Nat) (ps : List (Nat × Nat × Nat)) : (s.loseWords ctx ps).aclk = s.aclk := by
  unfold State.loseWords
  dsimp only
  refine foldl_aclk (fun s x => ?_) _ _
  split <;> simp

theorem State.unmapPage_eq (s : State) (root va : Nat) (big : Bool) : ∃ mem, s.unmapPage root va big = { s with mem := mem } := by
  unfold State.unmapPage
  dsimp only
  split <;> exact ⟨_, rfl⟩

/-- Entries are removed in memory alone. -/
theorem foldl_unmapPage_eq (root : Nat) (ps : List (Nat × Nat × Nat)) (s : State) :
    ∃ mem, ps.foldl (fun s p => s.unmapPage root p.1 (p.2.1 == 1)) s = { s with mem := mem } := by
  induction ps generalizing s with
  | nil => exact ⟨s.mem, rfl⟩
  | cons p ps ih =>
    obtain ⟨mem, first⟩ := s.unmapPage_eq root p.1 (p.2.1 == 1)
    obtain ⟨mem', rest⟩ := ih (s.unmapPage root p.1 (p.2.1 == 1))
    exact ⟨mem', by rw [List.foldl_cons, rest, first]⟩

/-- The sweep of a shoot-down begins at once, on all dies (04 R98). -/
theorem State.startShoot_shoot (s : State) (c : Context) (ps : List (Nat × Nat × Nat)) (msg req : Nat) :
    (s.startShoot c ps msg req).shoot = some { ctx := c.id, removed := ps, dies := sweptDies, frames := removedFrames ps, msg := msg, req := req, since := s.aclk } := by
  have clock : ((ps.foldl (fun s p => s.unmapPage c.root p.1 (p.2.1 == 1)) s).shrinkWindows c.id ps).aclk = s.aclk := by
    obtain ⟨mem, eq⟩ := foldl_unmapPage_eq c.root ps s
    rw [eq]
    rfl
  unfold State.startShoot
  dsimp only
  rw [State.loseWords_aclk, clock]

end Clock

end Sys2Proof.Machine
end

section
/-! SUPPORT. UNMAP_MEMORY, DESTROY_CONTEXT and the answers of the dies to a sweep (`Machine/Mgmt.lean`, `Machine/Pages.lean`; 03 R71, R72, 04 R98, R99). -/

namespace Sys2Proof.Machine

section Sweeps

variable {s t : State} {m : Message} {c : Context}

/-! ### A context taken apart (03 R71, steps 1 to 3) -/

theorem State.count_eq (s : State) (ctx entry n : Nat) :
    ∃ g : Context → Context, (∀ x, g x = { x with counters := (g x).counters }) ∧ s.count ctx entry n = { s with ctxs := s.ctxs.map g } := by
  refine ⟨_, fun x => ?_, rfl⟩
  dsimp only
  split <;> rfl

theorem State.dropPermitWait_eq (s : State) (w : PermitWait) :
    ∃ (waits : List PermitWait) (g : Context → Context), (∀ x, g x = { x with counters := (g x).counters }) ∧
      s.dropPermitWait w = { s with permitWaits := waits, ctxs := s.ctxs.map g } := by
  obtain ⟨g, hg, eq⟩ := State.count_eq { s with permitWaits := s.permitWaits.filter (fun x => x != w) } w.ctx 0x61
    (w.until_.getD ((s.team? w.who.team).elim w.since (fun t => t.residentTime s.aclk)) - w.since)
  exact ⟨_, g, hg, eq⟩

/-- Waits for permits that end change their list and counters. -/
theorem State.endPermitWaits_eq (s : State) (p : FibreRef → Bool) :
    ∃ (waits : List PermitWait) (g : Context → Context), (∀ x, g x = { x with counters := (g x).counters }) ∧
      s.endPermitWaits p = { s with permitWaits := waits, ctxs := s.ctxs.map g } := by
  unfold State.endPermitWaits
  generalize s.permitWaits.filter (fun w => p w.who) = ws
  induction ws generalizing s with
  | nil => exact ⟨s.permitWaits, id, fun _ => rfl, by simp⟩
  | cons w ws ih =>
    obtain ⟨waits, g, hg, eq⟩ := ih (s.dropPermitWait w)
    obtain ⟨waits', f, hf, first⟩ := s.dropPermitWait_eq w
    refine ⟨waits, g ∘ f, fun x => by rw [Function.comp, hg, hf], ?_⟩
    rw [List.foldl_cons, eq, first]
    exact congrArg (fun l => { s with permitWaits := waits, ctxs := l }) (List.map_map ..)

/-- A queue pair of a context that is destroyed stands in the error state, bound to none (log entry 52). -/
def Qp.orphan (ctx : Nat) (q : Qp) : Qp := if q.ctx == ctx then { q with ctx := 64, error := true, pending := [] } else q

/-- What a context taken apart is left with. -/
def Context.bare (c : Context) : Context :=
  { c with graphs := [], images := [], wdq := [], chans := [], critC := 0, critM := 0, intC := 0, intM := 0, peer := false }

/-- The queue pairs of a context enter the error state, and its tags no longer wait for them. -/
def State.orphanPairs (s : State) (ctx : Nat) : State :=
  s.updOs (fun o => { o with qps := o.qps.map (Qp.orphan ctx), fills := o.fills.filter (fun x => x.ctx != ctx) })

/-- What hangs on the teams of a context is dropped; the teams stand still in their list. -/
def State.dropTeamWork (s : State) (ctx : Nat) : State :=
  let gone := fun (k : Nat) => s.teams.any (fun t => t.id == k && t.ctx == ctx)
  ((((s.orphanPairs ctx).freeImages gone).forgetFibres gone).dropCommands gone).closeCollectives (fun o => o.ctx == ctx)

theorem State.dismantle_os (s : State) (ctx : Nat) : (s.dismantle ctx).os = (s.dropTeamWork ctx).os := rfl

theorem State.dismantle_ctxs (s : State) (ctx : Nat) :
    (s.dismantle ctx).ctxs = (s.dropTeamWork ctx).ctxs.map (fun x => if x.id == ctx then x.bare else x) := rfl

theorem State.dismantle_teams {ctx : Nat} : ∀ x ∈ (s.dismantle ctx).teams, x.ctx ≠ ctx := fun x hx => by
  have kept : x ∈ (s.dropTeamWork ctx).teams.filter (fun t => t.ctx != ctx) := hx
  simpa using (List.mem_filter.mp kept).2

theorem State.dismantle_insts {ctx : Nat} : ∀ x ∈ (s.dismantle ctx).insts, x.ctx ≠ ctx := fun x hx => by
  have kept : x ∈ (s.dropTeamWork ctx).insts.filter (fun x => x.ctx != ctx) := hx
  simpa using (List.mem_filter.mp kept).2

theorem State.forgetFibres_os (s : State) (gone : Nat → Bool) : (s.forgetFibres gone).os = s.os := by
  obtain ⟨waits, g, -, eq⟩ := s.endPermitWaits_eq (fun r => gone r.team)
  unfold State.forgetFibres
  rw [eq]

theorem State.forgetFibres_ctxs (s : State) (gone : Nat → Bool) :
    ∃ g : Context → Context, (∀ x, g x = { x with counters := (g x).counters }) ∧ (s.forgetFibres gone).ctxs = s.ctxs.map g := by
  obtain ⟨waits, g, hg, eq⟩ := s.endPermitWaits_eq (fun r => gone r.team)
  refine ⟨g, hg, ?_⟩
  unfold State.forgetFibres
  rw [eq]

theorem State.dropTeamWork_parts (s : State) (ctx : Nat) :
    (s.dropTeamWork ctx).os.out = s.os.out ∧ (s.dropTeamWork ctx).os.qps = s.os.qps.map (Qp.orphan ctx) ∧
      ∃ g : Context → Context, (∀ x, g x = { x with counters := (g x).counters }) ∧ (s.dropTeamWork ctx).ctxs = s.ctxs.map g := by
  obtain ⟨g, hg, eq⟩ := ((s.orphanPairs ctx).freeImages (fun k => s.teams.any (fun t => t.id == k && t.ctx == ctx))).forgetFibres_ctxs
    (fun k => s.teams.any (fun t => t.id == k && t.ctx == ctx))
  have os : (s.dropTeamWork ctx).os = ((s.orphanPairs ctx).freeImages (fun k => s.teams.any (fun t => t.id == k && t.ctx == ctx))).os :=
    ((s.orphanPairs ctx).freeImages (fun k => s.teams.any (fun t => t.id == k && t.ctx == ctx))).forgetFibres_os
      (fun k => s.teams.any (fun t => t.id == k && t.ctx == ctx))
  rw [os]
  exact ⟨rfl, rfl, g, hg, eq⟩

theorem State.dismantle_ctx (ctx : s.ctx? c.id = some c) : ∃ y, (s.dismantle c.id).ctx? c.id = some y ∧ y.id = c.id ∧ y.peer = false ∧ y.graphs = [] ∧
    y.images = [] ∧ y.chans = [] ∧ y.wdq = [] := by
  obtain ⟨-, -, g, hg, ctxs⟩ := s.dropTeamWork_parts c.id
  have counted := State.ctx?_of_map (i := c.id) (fun x => by rw [hg]) ctxs
  have bare : (s.dismantle c.id).ctx? c.id = ((s.dropTeamWork c.id).ctx? c.id).map Context.bare :=
    State.ctx?_updCtx (s := s.dropTeamWork c.id) (g := Context.bare) (fun _ => rfl)
  rw [bare, counted, ctx]
  refine ⟨_, rfl, ?_, rfl, rfl, rfl, rfl, rfl⟩
  rw [hg]
  rfl

theorem State.dismantle_qps (s : State) {ctx : Nat} (named : ctx < 64) :
    (∀ q ∈ (s.dismantle ctx).os.qps, q.ctx ≠ ctx) ∧
      ∀ q ∈ s.os.qps, q.ctx = ctx → ∃ x ∈ (s.dismantle ctx).os.qps, x.idx = q.idx ∧ x.ctx = 64 ∧ x.error = true ∧ x.pending = [] := by
  obtain ⟨-, qps, -⟩ := s.dropTeamWork_parts ctx
  rw [State.dismantle_os, qps]
  refine ⟨List.forall_mem_map.mpr fun q _ => ?_, fun q mem own => ⟨_, List.mem_map_of_mem mem, ?_⟩⟩
  · unfold Qp.orphan
    split
    · exact Nat.ne_of_gt named
    next other => simpa using other
  · unfold Qp.orphan
    rw [if_pos (beq_iff_eq.mpr own)]
    exact ⟨rfl, rfl, rfl, rfl⟩

/-! ### A shoot-down begins (04 R98) -/

theorem State.loseWords_noInsts {ctx : Nat} (ps : List (Nat × Nat × Nat)) (none : ∀ x ∈ s.insts, x.ctx ≠ ctx) :
    s.loseWords ctx ps = s.updCtx ctx (fun c => { c with graphs := c.graphs.map (fun (g : Graph) =>
      if inPages ps g.startWord then { g with startLost := true } else g) }) := by
  have empty : s.insts.filter (fun x => x.ctx == ctx) = [] := List.filter_eq_nil_iff.mpr fun x hx => by simpa using none x hx
  unfold State.loseWords
  change List.foldl _ _ (s.insts.filter (fun x => x.ctx == ctx)) = _
  rw [empty]
  rfl

/-- Where the context has no instance, a shoot-down changes entries in memory, windows and start words. -/
theorem State.startShoot_noInsts {ctx : Nat} (named : c.id = ctx) (ps : List (Nat × Nat × Nat)) (msg req : Nat) (none : ∀ x ∈ s.insts, x.ctx ≠ ctx) :
    ∃ (mem : Memory) (f : Context → Context) (sh : Option ShootDown),
      (∀ x, f x = { x with windows := (f x).windows, graphs := (f x).graphs } ∧ (x.graphs = [] → (f x).graphs = [])) ∧
      s.startShoot c ps msg req = { s with mem := mem, ctxs := s.ctxs.map f, shoot := sh } := by
  subst named
  obtain ⟨mem, eq⟩ := foldl_unmapPage_eq c.root ps s
  unfold State.startShoot
  dsimp only
  rw [eq, State.loseWords_noInsts (s := ({ s with mem := mem } : State).shrinkWindows c.id ps) ps none]
  refine ⟨mem, _, _, fun x => ?_, congrArg (fun l : List Context => ({ s with mem := mem, ctxs := l, shoot := _ } : State)) (List.map_map ..)⟩
  by_cases own : x.id = c.id <;> simp [own]

/-! ### DESTROY_CONTEXT (03 R71) -/

theorem exec_destroyContext_unknown (ctx : s.ctx? (msgCtx m) = none) (h : Claims.Asked s m 0x02 0) :
    exec (.destroyContext m) s = .next ((Served.refuse 3 0).answer 0x02 m s) := by
  refine (Asked.answered (g := serveDestroyContext) h (by decide) (by unfold serveDestroyContext; rfl) (by rfl) (.inl rfl)).trans (answer_congr ?_)
  exact withCtx_none ctx

theorem destroyContext_unknown_clause (ctx : s.ctx? (msgCtx m) = none) (h : Claims.Asked s m 0x02 0) :
    ∃ t, exec (.destroyContext m) s = .next t ∧ Claims.Replied t m 3 0 [] ∧ t.teams = s.teams :=
  ⟨_, exec_destroyContext_unknown ctx h, replied_refuse h.kind _ _, rfl⟩

theorem exec_destroyContext (ctx : s.ctx? (msgCtx m) = some c) (h : Claims.Asked s m 0x02 0) :
    exec (.destroyContext m) s = .next ((Served.later ((s.dismantle c.id).startShoot c (mappedPages (s.dismantle c.id).mem.cells c.root) 0x02 (msgReq m))).answer 0x02 m s) := by
  refine (Asked.answeredFor (g := serveDestroyContext) h (by decide) (by unfold serveDestroyContext; rfl) (by rfl) ctx).trans (answer_congr ?_)
  dsimp only

theorem msgCtx_lt (m : Message) : msgCtx m < 64 := Nat.mod_lt _ (by decide)

theorem destroyContext_clause (ctx : s.ctx? (msgCtx m) = some c) (h : Claims.Asked s m 0x02 0) :
    ∃ t y sh, exec (.destroyContext m) s = .next t ∧ t.os.out = s.os.out ∧ t.shoot = some sh ∧ sh.ctx = msgCtx m ∧ sh.dies = sweptDies ∧ sh.msg = 2 ∧
      (∀ x ∈ t.teams, x.ctx ≠ msgCtx m) ∧ (∀ x ∈ t.insts, x.ctx ≠ msgCtx m) ∧ (∀ q ∈ t.os.qps, q.ctx ≠ msgCtx m) ∧
      (∀ q ∈ s.os.qps, q.ctx = msgCtx m → ∃ x ∈ t.os.qps, x.idx = q.idx ∧ x.ctx = 64 ∧ x.error = true ∧ x.pending = []) ∧
      t.ctx? (msgCtx m) = some y ∧ y.peer = false ∧ y.graphs = [] ∧ y.images = [] ∧ y.chans = [] ∧ y.wdq = [] := by
  have named := State.ctx?_id ctx
  rw [exec_destroyContext ctx h]
  have own := ctx
  rw [← named] at own
  obtain ⟨out, -⟩ := s.dropTeamWork_parts c.id
  obtain ⟨y, bare, -, peer, graphs, images, chans, wdq⟩ := State.dismantle_ctx own
  obtain ⟨qps, orphans⟩ := s.dismantle_qps (named.symm ▸ msgCtx_lt m : c.id < 64)
  have shoot := State.startShoot_shoot (s.dismantle c.id) c (mappedPages (s.dismantle c.id).mem.cells c.root) 0x02 (msgReq m)
  obtain ⟨mem, f, sh, hf, eq⟩ := State.startShoot_noInsts (s := s.dismantle c.id) (c := c) rfl (mappedPages (s.dismantle c.id).mem.cells c.root) 0x02 (msgReq m) State.dismantle_insts
  rw [← named]
  refine ⟨_, f y, _, rfl, ?_, shoot, rfl, rfl, rfl, ?_⟩
  · rw [eq]
    exact out
  · rw [eq]
    have keeps : ∀ x, (f x).id = x.id := fun x => by rw [(hf x).1]
    have left : ({ s.dismantle c.id with mem := mem, ctxs := (s.dismantle c.id).ctxs.map f, shoot := sh } : State).ctx? c.id = some (f y) :=
      (State.ctx?_of_map keeps rfl).trans (by rw [bare]; rfl)
    refine ⟨State.dismantle_teams, State.dismantle_insts, qps, orphans, left, ?_, (hf y).2 graphs, ?_, ?_, ?_⟩ <;> rw [(hf y).1]
    · exact peer
    · exact images
    · exact chans
    · exact wdq

/-! ### UNMAP_MEMORY (03 R72) -/

/-- A range of UNMAP_MEMORY is as it must be (03 Table 3.6). -/
structure RangeFields (b : Nat) : Prop where
  start : bitsOf b 0 52 % 65536 = 0
  above : bitsOf b 52 12 = 0
  some_ : bitsOf b 64 52 ≠ 0
  length : bitsOf b 64 52 % 65536 = 0
  above' : bitsOf b 116 12 = 0

theorem exec_unmapMemory (ctx : s.ctx? (msgCtx m) = some c) (h : Claims.Asked s m 0x05 16) (fields : RangeFields (msgNum m)) {va len : Nat}
    (hva : va = bitsOf (msgNum m) 0 52) (hlen : len = bitsOf (msgNum m) 64 52)
    (whole : ∀ p ∈ s.pagesIn c.root va len, va ≤ p.1 ∧ p.1 + pageBytes (p.2.1 == 1) ≤ va + len) :
    exec (.unmapMemory m) s = .next ((if (s.pagesIn c.root va len).isEmpty then Served.done s []
      else .later (s.startShoot c (s.pagesIn c.root va len) 0x05 (msgReq m))).answer 0x05 m s) := by
  obtain ⟨start, above, some_, length, above'⟩ := fields
  subst hva hlen
  refine (Asked.answeredFor (g := serveUnmapMemory) h (by decide) (by unfold serveUnmapMemory; rfl) (by rfl) ctx).trans (answer_congr ?_)
  have inside : (s.pagesIn c.root (bitsOf (msgNum m) 0 52) (bitsOf (msgNum m) 64 52)).any (fun p =>
      decide (p.1 < bitsOf (msgNum m) 0 52 ∨ bitsOf (msgNum m) 0 52 + bitsOf (msgNum m) 64 52 < p.1 + pageBytes (p.2.1 == 1))) = false := by
    refine List.any_eq_false.mpr fun p hp => ?_
    obtain ⟨low, high⟩ := whole p hp
    simp [low, high]
  refine (checked_good (by simp [zeroAt, start, above, some_, length, above'])).trans ?_
  dsimp only
  rw [inside]
  rfl

theorem unmapMemory_clause (ctx : s.ctx? (msgCtx m) = some c) (h : Claims.Asked s m 0x05 16) (fields : RangeFields (msgNum m)) (ps : List (Nat × Nat × Nat))
    (hps : ps = s.pagesIn c.root (bitsOf (msgNum m) 0 52) (bitsOf (msgNum m) 64 52)) :
    (ps = [] → exec (.unmapMemory m) s = .next (s.reply 5 (msgReq m) (msgCtx m) 0 0 [])) ∧
    (ps ≠ [] → (∀ p ∈ ps, bitsOf (msgNum m) 0 52 ≤ p.1 ∧ p.1 + pageBytes (p.2.1 == 1) ≤ bitsOf (msgNum m) 0 52 + bitsOf (msgNum m) 64 52) →
      ∃ t sh, exec (.unmapMemory m) s = .next t ∧ t.shoot = some sh ∧ sh.ctx = msgCtx m ∧ sh.removed = ps ∧ sh.dies = sweptDies ∧ sweptDies.length = 18 ∧
        sh.msg = 5 ∧ sh.req = msgReq m ∧ sh.since = s.aclk) := by
  constructor
  · intro empty
    rw [exec_unmapMemory ctx h fields rfl rfl (by rw [← hps, empty]; exact fun _ h => absurd h List.not_mem_nil), ← hps, empty]
    rfl
  · intro some_ whole
    subst hps
    rw [exec_unmapMemory ctx h fields rfl rfl whole, if_neg (by simpa using some_)]
    exact ⟨_, _, rfl, State.startShoot_shoot _ _ _ _ _, State.ctx?_id ctx, rfl, rfl, by decide, rfl, rfl, rfl⟩

/-! ### The dies answer (04 R98, R99) -/

theorem State.pump_nothing (remote : s.remote = []) : s.pump none = s := by
  cases s
  cases remote
  rfl

theorem State.withdrawSwept_nothing (waiters : s.coh.waiters = []) (sh : ShootDown) (die : Nat) : s.withdrawSwept sh die = s := by
  obtain ⟨_, _, _, _, _, _, _, _, _, coh⟩ := s
  cases coh
  cases waiters
  rfl

/-- With nothing to send and nobody waiting, a die that answers finds the state as it is. -/
theorem execDieSweepAnswer_quiet {sh : ShootDown} {die : Nat} (shoot : s.shoot = some sh) (asked : die ∈ sh.dies) (cmds : s.cmds = [])
    (waiters : s.coh.waiters = []) (remote : s.remote = []) :
    execDieSweepAnswer die s = .next (
      if !s.sweepDone sh die then s
      else if (sh.dies.erase die).isEmpty then ({ s with shoot := some { sh with dies := sh.dies.erase die } } : State).finishShoot { sh with dies := sh.dies.erase die }
      else { s with shoot := some { sh with dies := sh.dies.erase die } }) := by
  have none : s.cmds.filter (fun c => c.ctx == sh.ctx && c.die == die) = [] := by
    rw [cmds]
    rfl
  unfold execDieSweepAnswer device
  rw [shoot]
  dsimp only
  rw [if_neg (by simpa using asked), State.pump_nothing remote, State.withdrawSwept_nothing waiters sh die, none]
  rfl

/-- A destroyed context is gone, and its tables are zeroed and free (03 R71). -/
def State.removeContext (s : State) (ctx : Nat) : State :=
  match s.ctx? ctx with
  | some c =>
    let ts := tableFrames s.mem.cells c.root
    { (s.zeroFrames ts).freeFrames ts with ctxs := s.ctxs.filter (fun x => x.id != ctx) }
  | none => s

theorem State.removeContext_ctx (s : State) (ctx : Nat) : (s.removeContext ctx).ctx? ctx = none := by
  unfold State.removeContext
  split
  · simp [State.ctx?]
  · assumption

theorem State.removeContext_shoot (s : State) (ctx : Nat) : (s.removeContext ctx).shoot = s.shoot := by
  unfold State.removeContext
  split <;> rfl

/-- A byte that is zero stays so where a context is removed. -/
theorem State.removeContext_zero {ctx a : Nat} (zero : sparseGet 0 s.mem.cells a = 0) : sparseGet 0 (s.removeContext ctx).mem.cells a = 0 := by
  unfold State.removeContext
  split
  next d _ =>
    by_cases inside : InFrames (tableFrames s.mem.cells d.root) a
    · exact State.zeroFrames_inside inside
    · exact (State.zeroFrames_outside inside).trans zero
  · exact zero

/-- The frames of a shoot-down are zeroed and free, and its time is recorded (04 R98, R99). -/
def State.endShoot (s : State) (sh : ShootDown) : State :=
  ((({ s with shoot := none } : State).zeroFrames sh.frames).freeFrames sh.frames).lifeCount 6 (min 15 ((s.aclk - sh.since) / 450)) 1

/-- The last answer zeroes the frames, removes a destroyed context and answers the message (04 R98, R99; 03 R71). -/
theorem State.finishShoot_eq (s : State) (sh : ShootDown) :
    s.finishShoot sh = (if sh.msg = 0x02 then (s.endShoot sh).removeContext sh.ctx else s.endShoot sh).reply sh.msg sh.req sh.ctx 0 0 [] := rfl

theorem State.finishShoot_parts (s : State) (sh : ShootDown) :
    (s.finishShoot sh).shoot = none ∧ (s.finishShoot sh).os.out = some (.message (messageBytes sh.msg sh.req sh.ctx 0 0 [])) ∧
      (sh.msg = 2 → (s.finishShoot sh).ctx? sh.ctx = none) ∧ ∀ a, InFrames sh.frames a → sparseGet 0 (s.finishShoot sh).mem.cells a = 0 := by
  have zero : ∀ a, InFrames sh.frames a → sparseGet 0 (s.endShoot sh).mem.cells a = 0 := fun _ inside => State.zeroFrames_inside inside
  rw [State.finishShoot_eq]
  split
  next destroy => exact ⟨State.removeContext_shoot _ _, rfl, fun _ => State.removeContext_ctx _ _, fun a inside => State.removeContext_zero (zero a inside)⟩
  next other => exact ⟨rfl, rfl, fun destroy => absurd destroy other, zero⟩

theorem dieSweepAnswer_clause (sh : ShootDown) (die : Nat) (shoot : s.shoot = some sh) :
    (die ∉ sh.dies → exec (.dieSweepAnswer die) s = .next s) ∧
    (die ∈ sh.dies → s.cmds = [] → s.coh.waiters = [] → s.remote = [] →
      (s.sweepDone sh die = false → exec (.dieSweepAnswer die) s = .next s) ∧
      (s.sweepDone sh die = true → sh.dies ≠ [die] → exec (.dieSweepAnswer die) s = .next { s with shoot := some { sh with dies := sh.dies.erase die } }) ∧
      (s.sweepDone sh die = true → sh.dies = [die] → ∃ t, exec (.dieSweepAnswer die) s = .next t ∧ t.shoot = none ∧
        t.os.out = some (.message (messageBytes sh.msg sh.req sh.ctx 0 0 [])) ∧ (sh.msg = 2 → t.ctx? sh.ctx = none) ∧
        ∀ a, InFrames sh.frames a → sparseGet 0 t.mem.cells a = 0)) := by
  change (_ → execDieSweepAnswer die s = _) ∧ (_ → _ → _ → _ → (_ → execDieSweepAnswer die s = _) ∧ (_ → _ → execDieSweepAnswer die s = _) ∧
    (_ → _ → ∃ t, execDieSweepAnswer die s = _ ∧ _))
  refine ⟨fun other => ?_, fun asked cmds waiters remote => ?_⟩
  · unfold execDieSweepAnswer device
    rw [shoot]
    exact congrArg _ (if_pos (by simpa using other))
  · rw [execDieSweepAnswer_quiet shoot asked cmds waiters remote]
    refine ⟨fun busy => ?_, fun done more => ?_, fun done last => ?_⟩
    · rw [if_pos (by rw [busy]; rfl)]
    · have left : sh.dies.erase die ≠ [] := fun empty => by
        rcases List.erase_eq_nil_iff.mp empty with nil | one
        · rw [nil] at asked
          exact List.not_mem_nil asked
        · exact more one
      rw [done, if_neg (by decide), if_neg (by simpa using left)]
    · rw [done, if_neg (by decide), if_pos (by simp [last])]
      exact ⟨_, rfl, State.finishShoot_parts _ { sh with dies := sh.dies.erase die }⟩

end Sweeps

end Sys2Proof.Machine
end

section
/-! The obligation on context messages (O46), from what each message does (03 R68 to R73, 04 R89, R98, R99). -/

namespace Sys2Proof.Machine

/-- Settles O46, message by message; the queue pairs of a destroyed context stand in error, bound to none (log entry 52). -/
theorem contextMessageResult : Obligations.ContextMessageResult := by
  unfold Obligations.ContextMessageResult
  intro s m c
  refine ⟨?_, destroyContext_unknown_clause, fun ctx => ⟨destroyContext_clause ctx, ?_, ?_, ?_, ?_, destroyQueuePair_clause ctx, grantPeerAccess_clause ctx⟩, ?_⟩
  · intro h cx trap emul preempt tids ring order pager rendezvous reserved
    obtain ⟨full, lowest⟩ := createContext_clause h cx ⟨trap, emul, preempt, tids, ring, order, pager, rendezvous, reserved⟩
    refine ⟨full, fun id lt free least frame => ?_⟩
    obtain ⟨t, root, next, replied, made, others, zero, used⟩ := lowest id lt free least frame
    exact ⟨t, _, next, replied, made, others, rfl, rfl, rfl, rfl, rfl, rfl, rfl, rfl, rfl, rfl, rfl, rfl, rfl, zero, used⟩
  · intro h zero masks
    exact ⟨fun beyond => ⟨_, exec_setReservations_beyond ctx h zero masks beyond, replied_refuse h.kind _ _, rfl⟩,
      fun within critical interactive => setReservations_clause ctx h zero masks within critical interactive⟩
  · intro e h good own small resident length empty leaf wf room
    exact mapMemory_clause ctx h ⟨good, own, small, resident, length, empty⟩ leaf wf room
  · intro h start above some_ length above'
    exact unmapMemory_clause ctx h ⟨start, above, some_, length, above'⟩ _ rfl
  · intro h mtu zero zero' i low high free taken
    obtain ⟨t, next, replied, made, others⟩ := createQueuePair_clause ctx h mtu zero zero' low high free taken
    exact ⟨t, _, next, replied, made, others, rfl, rfl, rfl, rfl, rfl, rfl, rfl, rfl, rfl, rfl, rfl, rfl, rfl⟩
  · intro sh die shoot
    obtain ⟨other, asked⟩ := dieSweepAnswer_clause sh die shoot
    refine ⟨other, fun mem cmds waiters remote => ?_⟩
    obtain ⟨busy, more, last⟩ := asked mem cmds waiters remote
    refine ⟨busy, more, fun done dies => ?_⟩
    obtain ⟨t, next, ended, out, gone, zero⟩ := last done dies
    exact ⟨t, next, ended, out, gone, fun p hp a low high => zero a ⟨p, hp, low, high⟩⟩

end Sys2Proof.Machine
end

section
/-! SUPPORT. Service messages as they arrive (`Machine/Mgmt.lean`; 03 R58, R59, R62): every type waits, is refused or is served alike. -/

namespace Sys2Proof.Machine

section Arrivals

variable {s : State} {m : Message} {type : Nat} {recovery : Bool} {g : Message → State → State}

/-- A message is served under its type, in recovery mode or not. -/
def ServedAs (g : Message → State → State) (type : Nat) (recovery : Bool) : Prop :=
  ∀ m s, ∃ lenOk named k, g m s = serve type lenOk named recovery m s k

/-- What the arrival of a message comes to before its meaning counts (03 R59, R62, Table 3.1; 02 R36). -/
def MessageArrival (s : State) (m : Message) (p : Instr × Nat × Bool) : Prop :=
  (msgType m ≠ p.2.1 ∨ s.mgmtUp = false → exec p.1 s = .next s) ∧
  (msgType m = p.2.1 → s.mgmtUp = true →
    (4080 < m.body.length → exec p.1 s = .next (({ s with os := { s.os with mgmt := false, inbox := [] } } : State).say (.nak 1 .invalidRequest))) ∧
    (m.body.length ≤ 4080 →
      (s.serving = false → s.os.inbox.length < 64 → exec p.1 s = .next { s with os := { s.os with inbox := s.os.inbox ++ [m] } }) ∧
      (s.serving = false → 64 ≤ s.os.inbox.length → exec p.1 s = .next (s.say (.nak 1 .receiverNotReady))) ∧
      (s.serving = true → s.os.recovery = true → p.2.2 = false → exec p.1 s = .next (s.reply p.2.1 (msgReq m) (msgCtx m) 6 0 [])) ∧
      (s.serving = true → (s.os.recovery = false ∨ p.2.2 = true) → msgHeadOk m = false → exec p.1 s = .next (s.reply p.2.1 (msgReq m) (msgCtx m) 1 0 []))))

theorem arrival_of_onMessage {i : Instr} (means : exec i s = onMessage type g m s) (served : ServedAs g type recovery) : MessageArrival s m (i, type, recovery) := by
  obtain ⟨lenOk, named, k, shape⟩ := served m s
  unfold MessageArrival
  dsimp only
  rw [means]
  refine ⟨onMessage_ignored, fun kind up => ?_⟩
  rw [onMessage_of_type kind]
  refine ⟨fun long => by rw [takeMessage_long up long], fun short => ⟨fun busy room => ?_, fun busy full => ?_, fun serving broken only => ?_, fun serving allowed bad => ?_⟩⟩
  · rw [takeMessage_busy up busy short, if_pos room]
  · rw [takeMessage_busy up busy short, if_neg (Nat.not_lt.mpr full)]
  · rw [takeMessage_serving serving short, shape, only, serve_recovery broken]
  · rw [takeMessage_serving serving short, shape, serve_badHead allowed bad]

/-- The messages with a type of their own but RESET, which the hold at 110 °C lets through: each with its type, and whether recovery mode serves it (03 Table 3.2). -/
def servedMessages (m : Message) : List (Instr × Nat × Bool) :=
  [(Instr.createContext m, 0x01, false), (.destroyContext m, 0x02, false), (.setReservations m, 0x03, false), (.mapMemory m, 0x04, false),
    (.unmapMemory m, 0x05, false), (.loadImage m, 0x06, false), (.loadGraph m, 0x07, false), (.unloadGraph m, 0x08, false), (.createQueuePair m, 0x09, false),
    (.destroyQueuePair m, 0x0A, false), (.grantPeerAccess m, 0x0B, false), (.setGrid m, 0x0C, false), (.portUp m, 0x0D, false), (.setLinkParameters m, 0x0E, false),
    (.readCounters m, 0x0F, false), (.readRecords m, 0x10, true), (.attest m, 0x11, false), (.firmwareLoad m, 0x12, true), (.raiseSecurityMinimum m, 0x13, false)]

theorem arrival_of_served (s : State) (m : Message) : ∀ p ∈ servedMessages m, MessageArrival s m p := by
  simp only [servedMessages, List.forall_mem_cons]
  exact ⟨arrival_of_onMessage rfl fun _ _ => ⟨_, _, _, by unfold serveCreateContext; rfl⟩,
    arrival_of_onMessage rfl fun _ _ => ⟨_, _, _, by unfold serveDestroyContext; rfl⟩,
    arrival_of_onMessage rfl fun _ _ => ⟨_, _, _, by unfold serveSetReservations; rfl⟩,
    arrival_of_onMessage rfl fun _ _ => ⟨_, _, _, by unfold serveMapMemory; rfl⟩,
    arrival_of_onMessage rfl fun _ _ => ⟨_, _, _, by unfold serveUnmapMemory; rfl⟩,
    arrival_of_onMessage rfl fun _ _ => ⟨_, _, _, by unfold serveLoadImage; rfl⟩,
    arrival_of_onMessage rfl fun _ _ => ⟨_, _, _, by unfold serveLoadGraph; rfl⟩,
    arrival_of_onMessage rfl fun _ _ => ⟨_, _, _, by unfold serveUnloadGraph; rfl⟩,
    arrival_of_onMessage rfl fun _ _ => ⟨_, _, _, by unfold serveCreateQueuePair; rfl⟩,
    arrival_of_onMessage rfl fun _ _ => ⟨_, _, _, by unfold serveDestroyQueuePair; rfl⟩,
    arrival_of_onMessage rfl fun _ _ => ⟨_, _, _, by unfold serveGrantPeerAccess; rfl⟩,
    arrival_of_onMessage rfl fun _ _ => ⟨_, _, _, by unfold serveSetGrid; rfl⟩,
    arrival_of_onMessage rfl fun _ _ => ⟨_, _, _, by unfold servePortUp; rfl⟩,
    arrival_of_onMessage rfl fun _ _ => ⟨_, _, _, by unfold serveSetLinkParameters; rfl⟩,
    arrival_of_onMessage rfl fun _ _ => ⟨_, _, _, by unfold serveReadCounters; rfl⟩,
    arrival_of_onMessage rfl fun _ _ => ⟨_, _, _, by unfold serveReadRecords; rfl⟩,
    arrival_of_onMessage rfl fun _ _ => ⟨_, _, _, by unfold serveAttest; rfl⟩,
    arrival_of_onMessage rfl fun _ _ => ⟨_, _, _, by unfold serveFirmwareLoad; rfl⟩,
    arrival_of_onMessage rfl fun _ _ => ⟨_, _, _, by unfold serveRaiseSecurityMinimum; rfl⟩,
    fun _ h => absurd h List.not_mem_nil⟩

/-! ### RESET and types that no message has (03 R59, R85; 01 R27, R28) -/

theorem exec_resetMsg_other (other : msgType m ≠ 0x14) : exec (.resetMsg m) s = .next s := by
  change execResetMsg m s = _
  unfold execResetMsg
  split
  · exact congrArg _ (if_neg fun h => other h.1)
  · exact onMessage_ignored (.inl other)

/-- A reset message in good order is answered, and the reset is due 1 ms later. -/
theorem serveResetMsg_good (head : msgHeadOk m = true) (body : m.body = []) (ctx : msgCtx m = 0) :
    serveResetMsg m s = (s.updOs (fun o => { o with resetAt := some (s.aclk + 3600000) })).reply 0x14 (msgReq m) (msgCtx m) 0 0 [] := by
  unfold serveResetMsg
  exact serve_good (.inr rfl) head (by rw [body]; rfl) (.inr ctx)

/-- A reset message is taken in the hold at 110 °C too, which stands until the reset. -/
theorem exec_resetMsg (free : ({ s with os := { s.os with held := false } } : State).serving = true) (kind : msgType m = 0x14) (head : msgHeadOk m = true)
    (body : m.body = []) (ctx : msgCtx m = 0) :
    exec (.resetMsg m) s = .next ((s.updOs (fun o => { o with resetAt := some (s.aclk + 3600000) })).reply 0x14 (msgReq m) (msgCtx m) 0 0 []) := by
  change execResetMsg m s = _
  unfold execResetMsg
  by_cases held : s.os.held = true
  · rw [if_pos held]
    refine congrArg _ ((if_pos ⟨kind, State.mgmtUp_of_serving free⟩).trans ?_)
    rw [serveResetMsg_good head body ctx]
    simp only [State.reply, State.say, State.updOs]
    rw [← held]
  · have same : ({ s with os := { s.os with held := false } } : State) = s := by rw [← Bool.eq_false_of_not_eq_true held]
    rw [if_neg held, onMessage_of_type kind, takeMessage_serving (same ▸ free) (by rw [body]; decide), serveResetMsg_good head body ctx]

theorem resetMsg_clause (free : ({ s with os := { s.os with held := false } } : State).serving = true) (kind : msgType m = 0x14) (head : msgHeadOk m = true)
    (body : m.body = []) (ctx : msgCtx m = 0) :
    ∃ t, exec (.resetMsg m) s = .next t ∧ Claims.Replied t m 0 0 [] ∧ t.os.resetAt = some (s.aclk + 3600000) ∧ t.os.held = s.os.held ∧ t.mem = s.mem := by
  refine ⟨_, exec_resetMsg free kind head body ctx, ?_, rfl, rfl, rfl⟩
  unfold Claims.Replied
  rw [kind]
  rfl

theorem unassignedMessageType_clause :
    (1 ≤ msgType m ∧ msgType m ≤ 0x14 → exec (.unassignedMessageType m) s = .next s) ∧
    (msgType m = 0 ∨ 0x14 < msgType m → s.serving = true → m.body.length ≤ 4080 → msgHeadOk m = true →
      exec (.unassignedMessageType m) s = .next (s.reply (msgType m) (msgReq m) (msgCtx m) (if s.os.recovery then 6 else 8) 0 [])) := by
  refine ⟨fun assigned => congrArg _ (if_pos (decide_eq_true assigned)), fun unassigned serving short head => ?_⟩
  have type : ¬ assignedType (msgType m) = true := by
    rw [assignedType, decide_eq_true_eq]
    omega
  refine congrArg _ ((if_neg type).trans ?_)
  rw [takeMessage_serving serving short]
  unfold serveUnassigned
  exact serve_good (.inr rfl) head rfl (.inl rfl)

end Arrivals

end Sys2Proof.Machine
end

section
/-! SUPPORT. LOAD_IMAGE and its copy once the context is quiesced (`Machine/Mgmt.lean`; 03 R59, R76): what the message checks, and where the image stands. -/

namespace Sys2Proof.Machine

section Loads

variable {s t : State} {m : Message} {c : Context} {i : ImageLoad}

/-! ### LOAD_IMAGE (03 R76) -/

/-- The image that a LOAD_IMAGE asks for. -/
def askedImage (m : Message) : ImageLoad :=
  let b := msgNum m
  ⟨msgReq m, msgCtx m, bitsOf b 0 52, bitsOf b 64 52, bitsOf b 128 2 == 1, bitsOf b 132 28, if bitsOf b 130 1 = 1 then some (bitsOf b 160 8) else none, none⟩

/-- A LOAD_IMAGE of context memory is in good order, and there is room for the image. -/
structure ImageGood (s : State) (c : Context) (m : Message) : Prop where
  reserved : ∀ p ∈ [(52, 12), (116, 12), (131, 1), (168, 24)], bitsOf (msgNum m) p.1 p.2 = 0
  memory : bitsOf (msgNum m) 128 2 = 0
  some_ : 1 ≤ (askedImage m).len
  short : (askedImage m).len ≤ 2 ^ 26
  slot : if bitsOf (msgNum m) 130 1 = 1 then bitsOf (msgNum m) 160 8 ≤ 63 else bitsOf (msgNum m) 160 8 = 0
  dest : imageDest s (msgCtx m) (askedImage m).dst (askedImage m).len = true
  source : imageSource s (msgCtx m) (askedImage m).src (askedImage m).len = true
  index : (c.imageIndex (askedImage m).dst (askedImage m).len).isSome = true
  room : bitsOf (msgNum m) 130 1 = 1 → s.os.flashRoom (bitsOf (msgNum m) 160 8) (askedImage m).len = true

theorem exec_loadImage (ctx : s.ctx? (msgCtx m) = some c) (h : Claims.Asked s m 0x06 24) (good : ImageGood s c m) :
    exec (.loadImage m) s = .next ((s.updCtx c.id (fun c => { c with held := true })).updOs (fun o => { o with image := some (askedImage m) })) := by
  obtain ⟨reserved, memory, some_, short, slot, dest, source, index, room⟩ := good
  simp only [askedImage] at *
  simp only [List.forall_mem_cons, List.not_mem_nil, false_imp_iff, implies_true, and_true] at reserved
  obtain ⟨r1, r2, r3, r4⟩ := reserved
  have slot' : (if bitsOf (msgNum m) 130 1 = 1 then decide (bitsOf (msgNum m) 160 8 ≤ 63) else bitsOf (msgNum m) 160 8 == 0) = true := by
    split at slot
    next store => rw [if_pos store, decide_eq_true slot]
    next keep => rw [if_neg keep, slot]; rfl
  have full : ¬ ((c.imageIndex (bitsOf (msgNum m) 0 52) (bitsOf (msgNum m) 132 28)).isNone = true ∨
      bitsOf (msgNum m) 130 1 = 1 ∧ (!s.os.flashRoom (bitsOf (msgNum m) 160 8) (bitsOf (msgNum m) 132 28)) = true) := by
    rintro (none | ⟨store, full⟩)
    · simp [Option.isSome_iff_ne_none.mp index] at none
    · simp [room store] at full
  refine (Asked.answeredFor (g := serveLoadImage) (v := _) h (by decide) (by unfold serveLoadImage; rfl) (by rfl) ctx).trans
    (answer_congr (w := .later _) ?_)
  refine (checked_good (by simpa [zeroAt, memory, some_, slot', r1, r2, r3, r4] using short)).trans ?_
  rw [State.ctx?_id ctx, dest, source, memory]
  simp only [full]
  rfl

theorem loadImage_clause (ctx : s.ctx? (msgCtx m) = some c) (h : Claims.Asked s m 0x06 24) (good : ImageGood s c m) :
    ∃ t, exec (.loadImage m) s = .next t ∧ t.os = { s.os with image := some (askedImage m) } ∧ t.ctx? (msgCtx m) = some { c with held := true } ∧ t.mem = s.mem :=
  ⟨_, exec_loadImage ctx h good, rfl, State.ctx?_updCtx_named ctx (by intro; rfl), rfl⟩

/-! ### LOAD_IMAGE_QUIESCED (03 R59, R76) -/

theorem exec_loadImageQuiesced {y : Context} (image : s.os.image = some i) (ctx : s.ctx? i.ctx = some y) :
    exec .loadImageQuiesced s = .next (if i.copied.isSome then s.answerImage i
      else if s.teams.any (fun t => t.ctx == i.ctx && t.core.isSome) then s
      else (s.takeImageIn i y).answerImage { i with copied := some ((y.imageIndex i.dst i.len).getD 0,
        padTo 64 (Config.shake256 (if i.flash then ((s.os.flash.find? (fun p => p.1 == i.src)).elim [] (fun p => p.2.take i.len)) else virtualBytes s i.ctx i.src i.len))) }) := by
  change execLoadImageQuiesced s = _
  unfold execLoadImageQuiesced device
  rw [image]
  dsimp only
  rw [ctx]
  rfl

/-- While a collapse of the copy is under way nothing is answered. -/
theorem State.answerImage_waiting {p : Nat × List Byte} (copied : i.copied = some p) (collapses : s.collapsesOf .oseus = true) : s.answerImage i = s := by
  unfold State.answerImage
  rw [copied]
  exact if_pos collapses

theorem State.answerImage_done {p : Nat × List Byte} (copied : i.copied = some p) (collapses : s.collapsesOf .oseus = false) :
    s.answerImage i = ((s.updCtx i.ctx (fun c => { c with held := false })).updOs (fun o => { o with image := none })).reply 0x06 i.req i.ctx 0 0 (bytesOfNat 1 p.1 ++ p.2) := by
  unfold State.answerImage
  rw [copied, collapses]
  rfl

theorem loadImageQuiesced_waits {y : Context} (image : s.os.image = some i) (ctx : s.ctx? i.ctx = some y) (copied : i.copied = none)
    (busy : ∃ x ∈ s.teams, x.ctx = i.ctx ∧ x.core.isSome = true) : exec .loadImageQuiesced s = .next s := by
  obtain ⟨x, mem, own, core⟩ := busy
  have running : s.teams.any (fun t => t.ctx == i.ctx && t.core.isSome) = true := List.any_eq_true.mpr ⟨x, mem, by simp [own, core]⟩
  rw [exec_loadImageQuiesced image ctx, copied, running]
  rfl

theorem loadImageQuiesced_copied {y : Context} (image : s.os.image = some i) (ctx : s.ctx? i.ctx = some y) {p : Nat × List Byte} (copied : i.copied = some p) :
    (s.collapsesOf .oseus = true → exec .loadImageQuiesced s = .next s) ∧
    (s.collapsesOf .oseus = false → ∃ t, exec .loadImageQuiesced s = .next t ∧ t.os.image = none ∧ t.mem = s.mem ∧ t.ctx? i.ctx = some { y with held := false } ∧
      t.os.out = some (.message (messageBytes 6 i.req i.ctx 0 0 (bytesOfNat 1 p.1 ++ p.2)))) := by
  rw [exec_loadImageQuiesced image ctx, copied]
  dsimp only [Option.isSome_some]
  rw [if_pos rfl]
  refine ⟨fun waiting => by rw [State.answerImage_waiting copied waiting], fun done => ⟨_, rfl, ?_⟩⟩
  rw [State.answerImage_done copied done]
  refine ⟨rfl, rfl, (State.ctx?_updCtx (by intro; rfl)).trans ?_, rfl⟩
  rw [ctx]
  rfl

theorem virtualBytes_length (s : State) (ctx va len : Nat) : (virtualBytes s ctx va len).length = len := by
  simp [virtualBytes]

theorem rangePages_one {va len : Nat} (some_ : 0 < len) (one : va % 65536 + len ≤ 65536) : rangePages va len = [va] := by
  have pages : (va + len - 1) / 65536 + 1 - va / 65536 = 1 := by omega
  unfold rangePages
  rw [pages]
  simp only [List.range_one, List.map_cons, List.map_nil, List.cons.injEq, and_true]
  omega

/-- An image within one page is copied to its leaf's place. -/
theorem State.copyImage_one {ctx dst : Nat} {bs : List Byte} {l : Leaf} (some_ : 0 < bs.length) (one : dst % 65536 + bs.length ≤ 65536)
    (leaf : leafFor s ctx 8 dst = .leaf l) (wf : s.mem.wf = true) : Stored s (s.copyImage ctx dst bs) (l.place dst) bs := by
  have stored := State.writeHome_stored wf ⟨l.place dst, dst, l.cls, l.policy, l.part, l.pin0⟩ bs .oseus ctx
  have whole : bs.take (65536 - dst % 65536) = bs := List.take_of_length_le (by omega)
  unfold State.copyImage
  rw [rangePages_one some_ one]
  dsimp only [List.foldl_cons, List.foldl_nil]
  rw [leaf]
  dsimp only
  rw [whole]
  obtain ⟨home, full, wf', probes, bytes, others⟩ := stored
  exact ⟨home.trans (HomeChanged.of_coh _ _ rfl), full, wf', probes.trans (ProbesGrow.of_same rfl rfl), bytes, others⟩

/-- An image of context memory that is taken in: its bytes at home, the context's list and the flash slot. -/
structure TakenIn (s t : State) (i : ImageLoad) (y : Context) (l : Leaf) (bs : List Byte) (k : Nat × List Byte) : Prop where
  image : t.os.image = some { i with copied := some k }
  out : t.os.out = s.os.out
  flash : ∀ slot, i.store = some slot → (slot, bs) ∈ t.os.flash
  kept : ∃ z, t.ctx? i.ctx = some z ∧ ⟨k.1, i.dst, i.len, k.2⟩ ∈ z.images ∧ z.held = y.held
  bytes : ∀ j, j < bs.length → sparseGet 0 t.mem.cells (l.place i.dst + j) = bs.getD j 0
  quiet : s.coh.regions = [] → s.coh.probes = [] → t.collapsesOf .oseus = false

theorem State.takeImageIn_parts {y : Context} (ctx : s.ctx? i.ctx = some y) {l : Leaf} {idx : Nat} (wf : s.mem.wf = true) (memory : i.flash = false)
    (some_ : 0 < i.len) (one : i.dst % 65536 + i.len ≤ 65536) (leaf : leafFor s i.ctx 8 i.dst = .leaf l) (index : y.imageIndex i.dst i.len = some idx) :
    TakenIn s (s.takeImageIn i y) i y l (virtualBytes s i.ctx i.src i.len) (idx, padTo 64 (Config.shake256 (virtualBytes s i.ctx i.src i.len))) := by
  have length := virtualBytes_length s i.ctx i.src i.len
  unfold State.takeImageIn
  dsimp only
  rw [if_neg (by simp [memory]), index]
  generalize virtualBytes s i.ctx i.src i.len = bs at *
  obtain ⟨home, -, -, probes, bytes, -⟩ := State.copyImage_one (length.symm ▸ some_) (length.symm ▸ one) leaf wf
  obtain ⟨f, hf, found⟩ := home.ctx? i.ctx
  have copied : (s.copyImage i.ctx i.dst bs).ctx? i.ctx = some (f y) := found.trans (congrArg _ ctx)
  have out : (s.copyImage i.ctx i.dst bs).os.out = s.os.out := congrArg Oseus.out home.os
  refine ⟨rfl, out, fun slot store => ?_, ⟨_, (State.ctx?_updCtx (by intro; rfl)).trans (congrArg _ copied), List.mem_cons_self, ?_⟩, bytes, fun regions none => ?_⟩
  · simp only [State.updOs, store]
    exact List.mem_cons_self
  · rw [hf]
  · have unheld : Unheld (s.copyImage i.ctx i.dst bs) := probes.2 ⟨by simp [regions], none⟩
    exact List.any_eq_false.mpr fun p hp => absurd (unheld.2 ▸ hp : p ∈ []) List.not_mem_nil

theorem loadImageQuiesced_copies {y : Context} (image : s.os.image = some i) (ctx : s.ctx? i.ctx = some y) (l : Leaf) (bs : List Byte) (idx : Nat) (fresh : i.copied = none)
    (quiesced : ∀ x ∈ s.teams, x.ctx = i.ctx → x.core = none) (wf : s.mem.wf = true) (memory : i.flash = false) (hbs : bs = virtualBytes s i.ctx i.src i.len) (some_ : 0 < i.len)
    (one : i.dst % 65536 + i.len ≤ 65536) (leaf : leafFor s i.ctx 8 i.dst = .leaf l) (index : y.imageIndex i.dst i.len = some idx) :
    ∃ t z, exec .loadImageQuiesced s = .next t ∧ t.ctx? i.ctx = some z ∧ ⟨idx, i.dst, i.len, padTo 64 (Config.shake256 bs)⟩ ∈ z.images ∧
      (s.coh.regions = [] → s.coh.probes = [] → t.os.image = none ∧ z.held = false ∧
        t.os.out = some (.message (messageBytes 6 i.req i.ctx 0 0 (bytesOfNat 1 idx ++ padTo 64 (Config.shake256 bs))))) ∧
      (t.collapsesOf .oseus = true → t.os.out = s.os.out ∧ z.held = y.held ∧ t.os.image = some { i with copied := some (idx, padTo 64 (Config.shake256 bs)) }) ∧
      (∀ k, i.store = some k → (k, bs) ∈ t.os.flash) ∧ ∀ j, j < i.len → sparseGet 0 t.mem.cells (l.place i.dst + j) = bs.getD j 0 := by
  have length : bs.length = i.len := by rw [hbs, virtualBytes_length]
  have idle : s.teams.any (fun t => t.ctx == i.ctx && t.core.isSome) = false := List.any_eq_false.mpr fun x mem => by
    by_cases own : x.ctx = i.ctx
    · simp [quiesced x mem own]
    · simp [own]
  have taken := State.takeImageIn_parts ctx wf memory some_ one leaf index
  rw [← hbs] at taken
  rw [exec_loadImageQuiesced image ctx, fresh, idle, index, if_neg (by decide), if_neg (by decide), if_neg (by simp [memory]), ← hbs]
  generalize s.takeImageIn i y = u at *
  obtain ⟨image', out, flash, ⟨z, kept, listed, held⟩, bytes, quiet⟩ := taken
  rw [length] at bytes
  cases collapses : u.collapsesOf .oseus with
  | true =>
    rw [State.answerImage_waiting rfl collapses]
    refine ⟨u, z, rfl, kept, listed, fun regions probes => ?_, fun _ => ⟨out, held, image'⟩, flash, bytes⟩
    rw [quiet regions probes] at collapses
    cases collapses
  | false =>
    rw [State.answerImage_done rfl collapses]
    refine ⟨_, { z with held := false }, rfl, (State.ctx?_updCtx (by intro; rfl)).trans (congrArg _ kept), listed, fun _ _ => ⟨rfl, rfl, rfl⟩, fun still => ?_, flash, bytes⟩
    exact absurd (collapses.symm.trans still) Bool.false_ne_true

end Loads

end Sys2Proof.Machine
end

section
/-! SUPPORT. LOAD_GRAPH and UNLOAD_GRAPH (`Machine/Graphs.lean`; 03 R77; 05 R114, R116 to R119): the first bad node, the kept graph and its start word. -/

namespace Sys2Proof.Machine

section GraphMessages

variable {s t : State} {m : Message} {c : Context} {n h : Nat}

/-! ### A context's graphs and its tables -/

/-- What a context's tables hold does not hang on its graphs. -/
theorem leafFor_updGraphs (s : State) (ctx : Nat) (f : List Graph → List Graph) :
    leafFor (s.updCtx ctx (fun c => { c with graphs := f c.graphs })) = leafFor s := by
  funext i die va
  have found := State.ctx?_of_map (s := s) (t := s.updCtx ctx (fun c => { c with graphs := f c.graphs })) (i := i)
    (g := fun c => if c.id == ctx then { c with graphs := f c.graphs } else c) (fun x => by split <;> rfl) rfl
  unfold leafFor
  rw [found]
  cases s.ctx? i with
  | none => rfl
  | some x =>
    have root : (if x.id == ctx then { x with graphs := f x.graphs } else x).root = x.root := by split <;> rfl
    simp only [Option.map_some, root]
    rfl

theorem State.watched_updGraphs (s : State) (ctx : Nat) (f : List Graph → List Graph) :
    (s.updCtx ctx (fun c => { c with graphs := f c.graphs })).watched = s.watched := by
  funext i va
  unfold State.watched
  rw [leafFor_updGraphs]

/-! ### LOAD_GRAPH (03 R77) -/

/-- The bytes of a node of the array that a LOAD_GRAPH names. -/
def State.askedNode (s : State) (m : Message) (i : Nat) : Nat := natOfBytes (virtualBytes s (msgCtx m) (bitsOf (msgNum m) 0 52 + 128 * i) 128)

/-- A node of the array is readable and in good order. -/
def State.askedNodeGood (s : State) (m : Message) (i : Nat) : Prop :=
  nodeReadable s (msgCtx m) (bitsOf (msgNum m) 0 52 + 128 * i) = true ∧ nodeOk s (msgCtx m) (bitsOf (msgNum m) 64 16) i (s.askedNode m i) = true

/-- The body of a LOAD_GRAPH is in good order, and its start word may be watched. -/
structure GraphFields (s : State) (m : Message) : Prop where
  above : bitsOf (msgNum m) 52 12 = 0
  some_ : bitsOf (msgNum m) 64 16 ≠ 0
  zero : bitsOf (msgNum m) 80 16 = 0
  above' : bitsOf (msgNum m) 148 44 = 0
  start : taggedWord s (msgCtx m) (bitsOf (msgNum m) 96 52) = true

/-- The graph of the nodes that a LOAD_GRAPH names. -/
def State.askedGraph (s : State) (m : Message) (h : Nat) : Graph :=
  graphFrom ((List.range (bitsOf (msgNum m) 64 16)).map (s.askedNode m)) h (bitsOf (msgNum m) 96 52) none

/-- What a LOAD_GRAPH in good order comes to once its nodes are read. -/
def State.loadNodes (s : State) (m : Message) (c : Context) : Option Nat → Served
  | some i => .refuse 1 i
  | none =>
    match freeId 256 (fun i => c.graphs.any (fun g => g.handle == i)) with
    | none => .refuse 2 0
    | some h =>
      match (s.askedGraph m h).badShape with
      | some i => .refuse 1 i
      | none =>
        if 1048576 < (c.graphs.map (fun g => g.nodes.length)).foldl (· + ·) 0 + bitsOf (msgNum m) 64 16 then .refuse 2 0
        else .done (s.keepGraph c.id (s.askedGraph m h)) (bytesOfNat 1 h)

theorem exec_loadGraph (ctx : s.ctx? (msgCtx m) = some c) (ask : Claims.Asked s m 0x07 24) (fields : GraphFields s m) :
    exec (.loadGraph m) s = .next ((s.loadNodes m c ((List.range (bitsOf (msgNum m) 64 16)).find? (fun i =>
      !(nodeReadable s (msgCtx m) (bitsOf (msgNum m) 0 52 + 128 * i) && nodeOk s (msgCtx m) (bitsOf (msgNum m) 64 16) i (s.askedNode m i))))).answer 0x07 m s) := by
  obtain ⟨above, some_, zero, above', start⟩ := fields
  refine (Asked.answeredFor (g := serveLoadGraph) ask (by decide) (by unfold serveLoadGraph; rfl) (by rfl) ctx).trans (answer_congr ?_)
  refine (checked_good (by simp [zeroAt, above, some_, zero])).trans ?_
  rw [State.ctx?_id ctx, start]
  refine (if_neg (by decide)).trans ((checked_good (by simp [zeroAt, above'])).trans ?_)
  dsimp only
  unfold State.loadNodes State.askedGraph State.askedNode
  rewrite [State.ctx?_id ctx]
  cases (List.range (bitsOf (msgNum m) 64 16)).find? _ <;> rfl

/-- The first bad node is named (log entry 34). -/
theorem loadGraph_badNode (ctx : s.ctx? (msgCtx m) = some c) (ask : Claims.Asked s m 0x07 24) (fields : GraphFields s m) (i : Nat) (lt : i < bitsOf (msgNum m) 64 16)
    (bad : ¬ s.askedNodeGood m i) (first : ∀ j, j < i → s.askedNodeGood m j) :
    ∃ t, exec (.loadGraph m) s = .next t ∧ Claims.Replied t m 1 i [] ∧ t.ctxs = s.ctxs := by
  rw [exec_loadGraph ctx ask fields, List.find?_range_eq_some.mpr ⟨?_, List.mem_range.mpr lt, fun j hj => ?_⟩]
  · exact ⟨_, rfl, replied_refuse ask.kind _ _, rfl⟩
  · have bad := not_and_or.mp bad
    simpa using bad
  · obtain ⟨readable, ok⟩ := first j hj
    simp [readable, ok]

/-- A graph stands last in its context's list. -/
def State.addGraph (s : State) (ctx : Nat) (g : Graph) : State := s.updCtx ctx (fun c => { c with graphs := c.graphs ++ [g] })

theorem State.addGraph_ctx (ctx : s.ctx? (msgCtx m) = some c) (g : Graph) : (s.addGraph c.id g).ctx? (msgCtx m) = some { c with graphs := c.graphs ++ [g] } :=
  State.ctx?_updCtx_named ctx (by intro; rfl)

/-- A start word that is not FULL is left. -/
theorem State.keepGraph_waits {ctx : Nat} {g : Graph} (waits : (s.watched ctx g.startWord).all (fun w => !s.tagFull w) = true) :
    s.keepGraph ctx g = s.addGraph ctx g := by
  unfold State.keepGraph
  dsimp only
  rw [State.watched_updGraphs s ctx (fun l => l ++ [g])]
  cases word : s.watched ctx g.startWord with
  | none => rfl
  | some w =>
    rw [word] at waits
    have empty : ¬ s.tagFull w = true := by simpa using waits
    exact if_neg empty

/-- A FULL start word is taken at once (05 R119). -/
theorem State.keepGraph_starts {ctx w : Nat} {g : Graph} (word : s.watched ctx g.startWord = some w) (full : s.tagFull w = true) :
    s.keepGraph ctx g = { (s.addGraph ctx g).setTag w false with starts := s.starts ++ [(ctx, g.handle, s.now)] } := by
  unfold State.keepGraph
  dsimp only
  rw [State.watched_updGraphs s ctx (fun l => l ++ [g]), word]
  exact if_pos full

theorem State.keepGraph_ctx (ctx : s.ctx? (msgCtx m) = some c) (g : Graph) : (s.keepGraph c.id g).ctx? (msgCtx m) = some { c with graphs := c.graphs ++ [g] } := by
  rw [← State.addGraph_ctx ctx]
  by_cases waits : (s.watched c.id g.startWord).all (fun w => !s.tagFull w) = true
  · rw [State.keepGraph_waits waits]
  · obtain ⟨w, word, full⟩ : ∃ w, s.watched c.id g.startWord = some w ∧ s.tagFull w = true := by simpa [Option.all_eq_true] using waits
    rw [State.keepGraph_starts word full]
    rfl

/-- A graph of good nodes is kept under the lowest free handle. -/
theorem exec_loadGraph_good (ctx : s.ctx? (msgCtx m) = some c) (ask : Claims.Asked s m 0x07 24) (fields : GraphFields s m)
    (good : ∀ j, j < bitsOf (msgNum m) 64 16 → s.askedNodeGood m j) (lt : h < 256) (free : ∀ x ∈ c.graphs, x.handle ≠ h) (least : ∀ k, k < h → ∃ x ∈ c.graphs, x.handle = k)
    (shape : (s.askedGraph m h).badShape = none) (room : (c.graphs.map (fun g => g.nodes.length)).foldl (· + ·) 0 + bitsOf (msgNum m) 64 16 ≤ 1048576) :
    exec (.loadGraph m) s = .next ((Served.done (s.keepGraph (msgCtx m) (s.askedGraph m h)) [BitVec.ofNat 8 h]).answer 0x07 m s) := by
  have handle : freeId 256 (fun i => c.graphs.any (fun g => g.handle == i)) = some h :=
    freeId_eq_some lt (List.any_eq_false.mpr fun x hx => by simpa using free x hx) fun k hk => by
      obtain ⟨x, hx, eq⟩ := least k hk
      exact List.any_eq_true.mpr ⟨x, hx, by simp [eq]⟩
  rw [exec_loadGraph ctx ask fields, List.find?_range_eq_none.mpr fun j hj => ?_]
  · unfold State.loadNodes
    rw [handle]
    dsimp only
    rw [shape]
    dsimp only
    rw [if_neg (Nat.not_lt.mpr room), State.ctx?_id ctx]
    rfl
  · obtain ⟨readable, ok⟩ := good j hj
    simp [readable, ok]

theorem State.askedGraph_parts (s : State) (m : Message) (h : Nat) (some_ : bitsOf (msgNum m) 64 16 ≠ 0) :
    (s.askedGraph m h).nodes.length = bitsOf (msgNum m) 64 16 ∧ (s.askedGraph m h).cls = bitsOf (s.askedNode m 0) 4 2 ∧
      (s.askedGraph m h).entry = bitsOf (s.askedNode m 0) 8 16 := by
  obtain ⟨n, hn⟩ := Nat.exists_eq_succ_of_ne_zero some_
  have head : ((List.range (bitsOf (msgNum m) 64 16)).map (s.askedNode m)).headD 0 = s.askedNode m 0 := by
    rw [hn, List.range_succ_eq_map]
    rfl
  refine ⟨by simp [State.askedGraph, graphFrom], ?_, ?_⟩ <;>
  · unfold State.askedGraph graphFrom
    rw [head]

theorem loadGraph_keeps (ctx : s.ctx? (msgCtx m) = some c) (ask : Claims.Asked s m 0x07 24) (fields : GraphFields s m)
    (good : ∀ j, j < bitsOf (msgNum m) 64 16 → s.askedNodeGood m j) (lt : h < 256) (free : ∀ x ∈ c.graphs, x.handle ≠ h) (least : ∀ k, k < h → ∃ x ∈ c.graphs, x.handle = k)
    {g : Graph} (hg : g = s.askedGraph m h) (shape : g.badShape = none) (room : (c.graphs.map (fun g => g.nodes.length)).foldl (· + ·) 0 + bitsOf (msgNum m) 64 16 ≤ 1048576) :
    ∃ t y, exec (.loadGraph m) s = .next t ∧ Claims.Replied t m 0 0 [BitVec.ofNat 8 h] ∧ t.ctx? (msgCtx m) = some y ∧ y.graphs = c.graphs ++ [g] ∧
      g.nodes.length = bitsOf (msgNum m) 64 16 ∧ g.cls = bitsOf (s.askedNode m 0) 4 2 ∧ g.entry = bitsOf (s.askedNode m 0) 8 16 ∧
      ((s.watched (msgCtx m) g.startWord).all (fun w => !s.tagFull w) = true → t.mem = s.mem ∧ t.starts = s.starts) ∧
      ∀ w, s.watched (msgCtx m) g.startWord = some w → s.tagFull w = true →
        t.mem = { s.mem with full := setPut s.mem.full w false } ∧ t.starts = s.starts ++ [(msgCtx m, h, s.now)] := by
  subst hg
  obtain ⟨length, cls, entry⟩ := s.askedGraph_parts m h fields.some_
  have kept := State.keepGraph_ctx ctx (s.askedGraph m h)
  rw [State.ctx?_id ctx] at kept
  refine ⟨_, _, exec_loadGraph_good ctx ask fields good lt free least shape room, replied_done ask.kind _, kept, rfl, length, cls, entry, fun waits => ?_, fun w word full => ?_⟩
  · rw [State.keepGraph_waits waits]
    exact ⟨rfl, rfl⟩
  · rw [State.keepGraph_starts word full]
    exact ⟨rfl, rfl⟩

/-! ### UNLOAD_GRAPH -/

theorem exec_unloadGraph (ctx : s.ctx? (msgCtx m) = some c) (ask : Claims.Asked s m 0x08 1) :
    exec (.unloadGraph m) s = .next ((if !c.graphs.any (fun g => g.handle == bitsOf (msgNum m) 0 8) then Served.refuse 3 0
      else if s.liveOf (msgCtx m) (bitsOf (msgNum m) 0 8) ≠ 0 then .refuse 4 0
      else .done (s.updCtx c.id (fun c => { c with graphs := c.graphs.filter (fun g => g.handle != bitsOf (msgNum m) 0 8) })) []).answer 0x08 m s) := by
  refine (Asked.answeredFor (g := serveUnloadGraph) ask (by decide) (by unfold serveUnloadGraph; rfl) (by rfl) ctx).trans (answer_congr ?_)
  rw [State.ctx?_id ctx]

theorem unloadGraph_clause (ctx : s.ctx? (msgCtx m) = some c) (ask : Claims.Asked s m 0x08 1) :
    ((∀ g ∈ c.graphs, g.handle ≠ bitsOf (msgNum m) 0 8) → exec (.unloadGraph m) s = .next (s.reply 8 (msgReq m) (msgCtx m) 3 0 [])) ∧
    ((∃ g ∈ c.graphs, g.handle = bitsOf (msgNum m) 0 8) → s.liveOf (msgCtx m) (bitsOf (msgNum m) 0 8) ≠ 0 →
      exec (.unloadGraph m) s = .next (s.reply 8 (msgReq m) (msgCtx m) 4 0 [])) ∧
    ((∃ g ∈ c.graphs, g.handle = bitsOf (msgNum m) 0 8) → s.liveOf (msgCtx m) (bitsOf (msgNum m) 0 8) = 0 → ∃ t y, exec (.unloadGraph m) s = .next t ∧
      Claims.Replied t m 0 0 [] ∧ t.ctx? (msgCtx m) = some y ∧ (∀ g, g ∈ y.graphs ↔ g ∈ c.graphs ∧ g.handle ≠ bitsOf (msgNum m) 0 8)) := by
  have loaded : (∃ g ∈ c.graphs, g.handle = bitsOf (msgNum m) 0 8) → c.graphs.any (fun g => g.handle == bitsOf (msgNum m) 0 8) = true := fun ⟨g, mem, eq⟩ =>
    List.any_eq_true.mpr ⟨g, mem, by simp [eq]⟩
  rw [exec_unloadGraph ctx ask]
  refine ⟨fun none => ?_, fun some_ live => ?_, fun some_ ended => ?_⟩
  · have unknown : c.graphs.any (fun g => g.handle == bitsOf (msgNum m) 0 8) = false := List.any_eq_false.mpr fun g mem => by simpa using none g mem
    rw [unknown]
    rfl
  · rw [loaded some_, if_neg (by decide), if_pos live]
    rfl
  · rw [loaded some_, if_neg (by decide), if_neg (not_not_intro ended)]
    refine ⟨_, _, rfl, replied_done ask.kind _, State.ctx?_updCtx_named ctx (by intro; rfl), fun g => ?_⟩
    simp

end GraphMessages

end Sys2Proof.Machine
end

section
/-! SUPPORT. SET_GRID, PORT_UP and SET_LINK_PARAMETERS (`Machine/Mgmt.lean`, `Machine/Links.lean`; 03 R64, R65): the checks of a port map, and what ports keep when it changes. -/

namespace Sys2Proof.Machine

theorem bitsOf_bitsOf {b lo n i k : Nat} (h : i + k ≤ n) : bitsOf (bitsOf b lo n) i k = bitsOf b (lo + i) k := by
  obtain ⟨r, rfl⟩ := Nat.exists_eq_add_of_le h
  unfold bitsOf
  rw [Nat.add_assoc, Nat.pow_add, Nat.mod_mul_right_div_self, Nat.div_div_eq_div_mul, ← Nat.pow_add, Nat.pow_add 2 k r]
  exact Nat.mod_mod_of_dvd _ (Nat.dvd_mul_right _ _)

section LinkMessages

variable {s t u : State} {m : Message} {b : Nat}

/-! ### Flits that change their port (02 R55) -/

/-- From `s` to `t` the flits that wait at ports may differ, and nothing else. -/
def QueuesMoved (s t : State) : Prop :=
  ∃ f : Port → Port, (∀ p, f p = { p with queue := (f p).queue }) ∧ t = { s with ports := s.ports.map f }

theorem QueuesMoved.refl (s : State) : QueuesMoved s s := ⟨id, fun _ => rfl, by simp⟩

theorem QueuesMoved.trans (h : QueuesMoved s t) (h' : QueuesMoved t u) : QueuesMoved s u := by
  obtain ⟨f, hf, rfl⟩ := h
  obtain ⟨g, hg, rfl⟩ := h'
  exact ⟨g ∘ f, fun p => by rw [Function.comp, hg, hf], by simp⟩

theorem QueuesMoved.updPort (s : State) (i : Nat) (q : Port → List Flit) : QueuesMoved s (s.updPort i (fun p => { p with queue := q p })) :=
  ⟨_, fun p => by split <;> rfl, rfl⟩

theorem QueuesMoved.moveFlits (s : State) (fs : List Flit) : QueuesMoved s (s.moveFlits fs) := by
  unfold State.moveFlits
  split
  · exact QueuesMoved.refl s
  · split
    · exact QueuesMoved.updPort s _ _
    · exact QueuesMoved.refl s

theorem QueuesMoved.foldl {α : Type} {g : State → α → State} (hg : ∀ s a, QueuesMoved s (g s a)) (l : List α) (s : State) : QueuesMoved s (l.foldl g s) :=
  List.foldlRecOn (motive := fun u => QueuesMoved s u) l g (QueuesMoved.refl s) fun u hu a _ => hu.trans (hg u a)

theorem QueuesMoved.remote (h : QueuesMoved s t) : t.remote = s.remote := by
  obtain ⟨_, -, rfl⟩ := h
  rfl

/-- Ports that are lost with no transaction of the device open. -/
theorem QueuesMoved.losePorts (l : List Port) (s : State) (remote : s.remote = []) : QueuesMoved s (l.foldl (fun s p => s.losePort p) s) := by
  induction l generalizing s with
  | nil => exact QueuesMoved.refl s
  | cons p l ih =>
    have lost : QueuesMoved s (s.losePort p) := by
      rw [State.losePort_of_no_remote remote]
      exact (QueuesMoved.updPort s p.idx (fun _ => [])).trans (QueuesMoved.foldl QueuesMoved.moveFlits _ _)
    exact lost.trans (ih _ (lost.remote.trans remote))

/-! ### SET_GRID (03 R64, Tables 3.11 to 3.13) -/

/-- The ranges that a port map gives a port. -/
def askedReach (b i : Nat) : Option (Nat × Nat) :=
  if bitsOf b (160 + 128 * i) 1 = 1 then some (portRange (bitsOf b (64 + 128 * i) 128)) else none

/-- The reducers that a SET_GRID names. -/
def askedReducers (b : Nat) : List (Nat × Nat) := (List.range (bitsOf b 2112 7)).map (fun k => (bitsOf b (2176 + 64 * k) 16, bitsOf b (2192 + 64 * k) 48))

/-- The body of a SET_GRID is in good order. -/
structure GridFields (b : Nat) : Prop where
  axes : bitsOf b 48 2 ≠ 0
  flat : ∀ i, bitsOf b 48 2 ≤ i → i < 3 → axisOf (bitsOf b 0 48) i = 0
  above : bitsOf b 50 14 = 0
  entries : ∀ i, i < 16 → portEntryOk (bitsOf b (64 + 128 * i) 128) (bitsOf b 48 2) (bitsOf b 0 48) = true ∧ bitsOf b (161 + 128 * i) 31 = 0
  few : bitsOf b 2112 7 ≤ 64
  above' : bitsOf b 2119 57 = 0
  distinct : ∀ j k, j < k → k < bitsOf b 2112 7 → bitsOf b (2176 + 64 * j) 16 ≠ bitsOf b (2176 + 64 * k) 16

/-- Ports, grid and reducers as a SET_GRID gives them. -/
def State.takeGrid (s : State) (b : Nat) : State :=
  { s with grid := BitVec.ofNat 64 (bitsOf b 0 50), reducers := askedReducers b, ports := s.ports.map (fun p => { p with reach := askedReach b p.idx }) }

theorem askedReducers_distinct (fields : GridFields b) {k : Nat} (hk : k < bitsOf b 2112 7) :
    ((askedReducers b).take k).any (fun p => p.1 == ((askedReducers b).getD k (0, 0)).1) = false := by
  have there : (askedReducers b).getD k (0, 0) = (bitsOf b (2176 + 64 * k) 16, bitsOf b (2192 + 64 * k) 48) := by
    simp [askedReducers, hk]
  rw [there]
  unfold askedReducers
  rw [← List.map_take, List.take_range, Nat.min_eq_left hk.le, List.any_map]
  refine List.any_eq_false.mpr fun j hj => ?_
  simpa using fields.distinct j k (List.mem_range.mp hj) hk

/-- The checks of a SET_GRID in the order of its fields. -/
def gridChecks (b : Nat) : List (Bool × Nat) :=
  [(bitsOf b 48 2 != 0 && (List.range 3).all (fun i => decide (i < bitsOf b 48 2) || axisOf (bitsOf b 0 48) i == 0), 0), zeroAt b 50 14] ++
    (List.range 16).flatMap (fun i => [(portEntryOk (bitsOf b (64 + 128 * i) 128) (bitsOf b 48 2) (bitsOf b 0 48), 8 + 16 * i),
      (bitsOf (bitsOf b (64 + 128 * i) 128) 97 31 == 0, 20 + 16 * i)]) ++
    [(decide (bitsOf b 2112 7 ≤ 64), 264), zeroAt b 2119 57] ++
    (List.range (bitsOf b 2112 7)).map (fun k => (!((askedReducers b).take k).any (fun p => p.1 == ((askedReducers b).getD k (0, 0)).1), 272 + 8 * k))

theorem gridChecks_good (fields : GridFields b) : ∀ p ∈ gridChecks b, p.1 = true := by
  have flat : (List.range 3).all (fun i => decide (i < bitsOf b 48 2) || axisOf (bitsOf b 0 48) i == 0) = true := List.all_eq_true.mpr fun i hi => by
    rcases Nat.lt_or_ge i (bitsOf b 48 2) with lt | ge
    · simp [lt]
    · simp [fields.flat i ge (List.mem_range.mp hi)]
  have few := fields.few
  refine List.forall_mem_append.mpr ⟨List.forall_mem_append.mpr ⟨List.forall_mem_append.mpr ⟨?_, fun p hp => ?_⟩, ?_⟩, List.forall_mem_map.mpr fun k hk => ?_⟩
  · rw [flat]
    simp [zeroAt, fields.axes, fields.above]
  · obtain ⟨i, hi, hp⟩ := List.mem_flatMap.mp hp
    obtain ⟨ok, zero⟩ := fields.entries i (List.mem_range.mp hi)
    have zero' : bitsOf (bitsOf b (64 + 128 * i) 128) 97 31 = 0 := by
      rw [bitsOf_bitsOf (by decide), ← zero]
      congr 1
      omega
    rw [ok, zero'] at hp
    simp only [List.mem_cons, List.not_mem_nil, or_false] at hp
    rcases hp with rfl | rfl <;> rfl
  · simp [zeroAt, few, fields.above']
  · rw [askedReducers_distinct fields (List.mem_range.mp hk)]
    rfl

theorem exec_setGrid (ask : Claims.Asked s m 0x0C (272 + 8 * bitsOf (msgNum m) 2112 7)) (ctx : msgCtx m = 0) (fields : GridFields (msgNum m))
    (unused : ∀ y ∈ s.ctxs, ∀ w ∈ y.windows, w.host = true ∨ w.pages = 0) :
    ∃ l : List Port, exec (.setGrid m) s = .next ((Served.done (l.foldl (fun s p => s.losePort p) (s.takeGrid (msgNum m))) []).answer 0x0C m s) := by
  have free : s.ctxs.any (fun c => c.windows.any (fun w => !w.host && w.pages != 0)) = false := List.any_eq_false.mpr fun y hy => by
    rw [Bool.not_eq_true]
    refine List.any_eq_false.mpr fun w hw => ?_
    rcases unused y hy w hw with host | none
    · simp [host]
    · simp [none]
  have few := fields.few
  have reach : (fun i => if bitsOf (bitsOf (msgNum m) (64 + 128 * i) 128) 96 1 = 1 then some (portRange (bitsOf (msgNum m) (64 + 128 * i) 128)) else none) = askedReach (msgNum m) := by
    funext i
    unfold askedReach
    rw [bitsOf_bitsOf (by decide), show 64 + 128 * i + 96 = 160 + 128 * i by omega]
  refine ⟨s.ports.filter (fun p => (askedReach (msgNum m) p.idx).isNone), ?_⟩
  refine (Asked.answered (g := serveSetGrid) ask (by omega) (by unfold serveSetGrid; rfl) (by simp) (.inr ctx)).trans (answer_congr ?_)
  refine (checked_good (gridChecks_good fields)).trans ((if_neg (by simp [free])).trans ?_)
  unfold State.takeGrid
  rw [← reach]
  rfl

theorem setGrid_clause (ask : Claims.Asked s m 0x0C (272 + 8 * bitsOf (msgNum m) 2112 7)) (ctx : msgCtx m = 0) (remote : s.remote = [])
    (unused : ∀ y ∈ s.ctxs, ∀ w ∈ y.windows, w.host = true ∨ w.pages = 0) (fields : GridFields (msgNum m)) :
    ∃ t, exec (.setGrid m) s = .next t ∧ Claims.Replied t m 0 0 [] ∧ t.grid = BitVec.ofNat 64 (bitsOf (msgNum m) 0 50) ∧
      t.reducers = askedReducers (msgNum m) ∧ ∀ p ∈ t.ports, p.idx < 16 → p.reach = askedReach (msgNum m) p.idx := by
  obtain ⟨l, next⟩ := exec_setGrid ask ctx fields unused
  obtain ⟨f, hf, eq⟩ := QueuesMoved.losePorts l (s.takeGrid (msgNum m)) remote
  rw [eq] at next
  refine ⟨_, next, replied_done ask.kind _, rfl, rfl, fun p hp _ => ?_⟩
  obtain ⟨q, hq, rfl⟩ := List.mem_map.mp (hp : p ∈ (s.takeGrid (msgNum m)).ports.map f)
  obtain ⟨r, -, rfl⟩ := List.mem_map.mp hq
  rw [hf]

/-! ### PORT_UP -/

theorem exec_portUp (ask : Claims.Asked s m 0x0D 1) (ctx : msgCtx m = 0) (zero : bitsOf (msgNum m) 4 4 = 0) :
    exec (.portUp m) s = .next ((if s.ports.any (fun p => p.idx == bitsOf (msgNum m) 0 4 && p.state == .down) then
      Served.done (s.updPort (bitsOf (msgNum m) 0 4) (fun p => { p with state := .retrain, fails := 0 })) [] else .refuse 4 0).answer 0x0D m s) := by
  refine (Asked.answered (g := servePortUp) ask (by decide) (by unfold servePortUp; rfl) (by rfl) (.inr ctx)).trans (answer_congr ?_)
  exact checked_good (by simp [zeroAt, zero])

theorem portUp_clause (p : Port) (ask : Claims.Asked s m 0x0D 1) (ctx : msgCtx m = 0) (zero : bitsOf (msgNum m) 4 4 = 0) (port : s.port? (bitsOf (msgNum m) 0 4) = some p) :
    (p.state = .down → ∃ t, exec (.portUp m) s = .next t ∧ Claims.Replied t m 0 0 [] ∧
      t.port? (bitsOf (msgNum m) 0 4) = some { p with state := .retrain, fails := 0 }) ∧
    ((∀ x ∈ s.ports, x.idx = bitsOf (msgNum m) 0 4 → x.state ≠ .down) → exec (.portUp m) s = .next (s.reply 0x0D (msgReq m) (msgCtx m) 4 0 [])) := by
  rw [exec_portUp ask ctx zero]
  constructor
  · intro down
    have named : p.idx = bitsOf (msgNum m) 0 4 := by simpa using List.find?_some port
    rw [if_pos (List.any_eq_true.mpr ⟨p, List.mem_of_find?_eq_some port, by simp [named, down]⟩)]
    refine ⟨_, rfl, replied_done ask.kind _, (State.port?_updPort (by intro; rfl)).trans ?_⟩
    rw [port]
    rfl
  · intro up
    rw [if_neg]
    · rfl
    · simpa using up

/-! ### SET_LINK_PARAMETERS (03 R65, Table 3.14) -/

/-- The host side as a SET_LINK_PARAMETERS sets it; an address of 0 leaves the one there is. -/
def HostPort.asked (x : HostPort) (b : Nat) : HostPort :=
  { x with
    nextMac := if bitsOf b 0 48 = 0 then x.nextMac else bitsOf b 0 48
    nextGid := if bitsOf b 64 128 = 0 then x.nextGid else bitsOf b 64 128
    prioA := bitsOf b 48 3, prioB := bitsOf b 52 3, dscp := bitsOf b 56 6, cut := bitsOf b 192 16
    periodUs := bitsOf b 208 16, stepMbps := bitsOf b 224 32, minMbps := bitsOf b 256 32 }

theorem setLinkParameters_clause (ask : Claims.Asked s m 0x0E 40) (ctx : msgCtx m = 0) (zero : bitsOf (msgNum m) 51 1 = 0) (apart : bitsOf (msgNum m) 48 3 ≠ bitsOf (msgNum m) 52 3)
    (zero' : bitsOf (msgNum m) 55 1 = 0) (zero'' : bitsOf (msgNum m) 62 2 = 0) (period : bitsOf (msgNum m) 208 16 ≠ 0) (above : bitsOf (msgNum m) 288 32 = 0) :
    ∃ t, exec (.setLinkParameters m) s = .next t ∧ Claims.Replied t m 0 0 [] ∧ t.os.host = s.os.host.asked (msgNum m) := by
  have next : exec (.setLinkParameters m) s = .next ((Served.done (s.updOs (fun o => { o with host := o.host.asked (msgNum m) })) []).answer 0x0E m s) := by
    refine (Asked.answered (g := serveSetLinkParameters) ask (by decide) (by unfold serveSetLinkParameters; rfl) (by rfl) (.inr ctx)).trans (answer_congr ?_)
    exact checked_good (by simp [zeroAt, zero, apart, zero', zero'', period, above])
  exact ⟨_, next, replied_done ask.kind _, rfl⟩

end LinkMessages

end Sys2Proof.Machine
end

section
/-! SUPPORT. READ_RECORDS, READ_COUNTERS and ATTEST (`Machine/Mgmt.lean`; 03 R66, R84, R85, Tables 3.7, 3.15 and 3.16): where the parts of a reply stand. -/

namespace Sys2Proof.Machine

/-! ### Parts of a byte string -/

/-- Equal parts follow one another. -/
theorem flatMap_part {α β : Type} {f : α → List β} {k : Nat} (length : ∀ a, (f a).length = k) {l : List α} {i : Nat} {a : α} (h : l[i]? = some a) (r : List β) :
    ((l.flatMap f ++ r).drop (k * i)).take k = f a := by
  induction l generalizing i with
  | nil => cases h
  | cons x l ih =>
    rw [List.flatMap_cons, List.append_assoc]
    cases i with
    | zero =>
      cases h
      exact List.take_left' (length a)
    | succ i =>
      rw [Nat.mul_succ, Nat.add_comm, ← List.drop_drop, List.drop_left' (length x)]
      exact ih h

theorem flatMap_length {α β : Type} {f : α → List β} {k : Nat} (length : ∀ a, (f a).length = k) (l : List α) : (l.flatMap f).length = k * l.length := by
  induction l with
  | nil => rfl
  | cons x l ih => rw [List.flatMap_cons, List.length_append, length, ih, List.length_cons, Nat.mul_succ, Nat.add_comm]

theorem part_append {α : Type} {a b : List α} {n k : Nat} (ha : a.length = n) (hb : b.length = k) (c : List α) : ((a ++ (b ++ c)).drop n).take k = b := by
  rw [List.drop_left' ha, List.take_left' hb]

theorem padTo_length (n : Nat) (bs : List Byte) : (padTo n bs).length = n := by
  simp [padTo]

theorem padTo_of_length {n : Nat} {bs : List Byte} (h : bs.length = n) : padTo n bs = bs := List.take_left' h

section Reads

variable {s : State} {m : Message} {c : Context} {n : Nat}

/-! ### Counters and records (03 R84, R85) -/

theorem countItem_length (p : Nat × Nat) (v : Option Nat) : (countItem p v).length = 16 := bytesOfNat_length _ _

/-- A reply item as a number (03 Table 3.7). -/
theorem natOfBytes_countItem {p : Nat × Nat} (entry : p.1 < 2 ^ 8) (inst : p.2 < 2 ^ 16) (v : Option Nat) :
    natOfBytes (countItem p v) = p.1 + bit v.isSome * 2 ^ 8 + p.2 * 2 ^ 16 + v.getD 0 % 2 ^ 64 * 2 ^ 64 := by
  have flag : bit v.isSome ≤ 1 := by cases v.isSome <;> decide
  unfold countItem
  rw [natOfBytes_bytesOfNat]
  omega

/-- The entry and the instance of an item. -/
def askedItem (b i : Nat) : Nat × Nat := (bitsOf b (32 + 32 * i) 8, bitsOf b (48 + 32 * i) 16)

theorem countItems_get {b i : Nat} (h : i < bitsOf b 0 8) : (countItems b)[i]? = some (askedItem b i) := by
  simp [countItems, askedItem, h]

theorem countReply_length (s : State) (b : Nat) (value : Nat × Nat → Option Nat) : (countReply s b value).length = 8 + 16 * bitsOf b 0 8 := by
  unfold countReply
  rw [List.length_append, bytesOfNat_length, flatMap_length fun p => countItem_length p (value p)]
  simp [countItems]

theorem countReply_time (s : State) (b : Nat) (value : Nat × Nat → Option Nat) : natOfBytes ((countReply s b value).take 8) = s.now := by
  unfold countReply
  rw [List.take_left' (bytesOfNat_length _ _), natOfBytes_bytesOfNat]
  exact Nat.mod_mod _ _

theorem countReply_item (s : State) {b i : Nat} (value : Nat × Nat → Option Nat) (h : i < bitsOf b 0 8) :
    natOfBytes (((countReply s b value).drop (8 + 16 * i)).take 16) =
      (askedItem b i).1 + bit (value (askedItem b i)).isSome * 2 ^ 8 + (askedItem b i).2 * 2 ^ 16 + (value (askedItem b i)).getD 0 % 2 ^ 64 * 2 ^ 64 := by
  have item := flatMap_part (fun p => countItem_length p (value p)) (countItems_get h) []
  rw [List.append_nil] at item
  unfold countReply
  rw [← List.drop_drop, List.drop_left' (bytesOfNat_length _ _), item]
  exact natOfBytes_countItem (bitsOf_lt ..) (bitsOf_lt ..) _

/-- The body of a request for counters is in good order. -/
structure CountFields (b : Nat) : Prop where
  some_ : 1 ≤ bitsOf b 0 8
  few : bitsOf b 0 8 ≤ 254
  zero : bitsOf b 8 24 = 0
  items : ∀ i, i < bitsOf b 0 8 → bitsOf b (40 + 32 * i) 8 = 0

theorem countChecks_good {b : Nat} (fields : CountFields b) : ∀ p ∈ countChecks b, p.1 = true := by
  obtain ⟨some_, few, zero, items⟩ := fields
  refine List.forall_mem_append.mpr ⟨by simp [zeroAt, some_, few, zero], List.forall_mem_map.mpr fun i hi => ?_⟩
  exact zeroAt_ok (items i (List.mem_range.mp hi))

theorem readRecords_clause (ask : Claims.Asked s m 0x10 (4 + 4 * bitsOf (msgNum m) 0 8)) (ctx : msgCtx m = 0) (fields : CountFields (msgNum m)) :
    ∃ body, exec (.readRecords m) s = .next (s.reply 0x10 (msgReq m) (msgCtx m) 0 0 body) ∧ body.length = 8 + 16 * bitsOf (msgNum m) 0 8 ∧ natOfBytes (body.take 8) = s.now ∧
      ∀ i, i < bitsOf (msgNum m) 0 8 → natOfBytes ((body.drop (8 + 16 * i)).take 16) =
        (askedItem (msgNum m) i).1 + bit (recordExists (askedItem (msgNum m) i)) * 2 ^ 8 + (askedItem (msgNum m) i).2 * 2 ^ 16 +
          (if recordExists (askedItem (msgNum m) i) then sparseGet 0 s.life ((askedItem (msgNum m) i).1 * 65536 + (askedItem (msgNum m) i).2) % 2 ^ 64 else 0) * 2 ^ 64 := by
  have few := fields.few
  refine ⟨_, (Asked.answered (g := serveReadRecords) ask (by omega) (by unfold serveReadRecords; rfl) (by simp) (.inr ctx)).trans
    (answer_congr (checked_good (countChecks_good fields))), countReply_length .., countReply_time .., fun i hi => (countReply_item _ _ hi).trans ?_⟩
  cases recordExists (askedItem (msgNum m) i) <;> simp

theorem readCounters_clause (ask : Claims.Asked s m 0x0F (4 + 4 * bitsOf (msgNum m) 0 8)) (ctx : msgCtx m = 0) (fields : CountFields (msgNum m)) :
    ∃ body, exec (.readCounters m) s = .next (s.reply 0x0F (msgReq m) (msgCtx m) 0 0 body) ∧ body.length = 8 + 16 * bitsOf (msgNum m) 0 8 ∧ natOfBytes (body.take 8) = s.now ∧
      ∀ i y, i < bitsOf (msgNum m) 0 8 → counterExists (askedItem (msgNum m) i).1 = true → s.ctx? (askedItem (msgNum m) i).2 = some y →
        natOfBytes ((body.drop (8 + 16 * i)).take 16) = (askedItem (msgNum m) i).1 + 2 ^ 8 + (askedItem (msgNum m) i).2 * 2 ^ 16 +
          sparseGet 0 y.counters (askedItem (msgNum m) i).1 % 2 ^ 64 * 2 ^ 64 := by
  have few := fields.few
  refine ⟨_, (Asked.answered (g := serveReadCounters) ask (by omega) (by unfold serveReadCounters; rfl) (by simp) (.inr ctx)).trans
    (answer_congr (checked_good (countChecks_good fields))), countReply_length .., countReply_time .., fun i y hi there found => (countReply_item _ _ hi).trans ?_⟩
  rw [there, found]
  simp [bit]

/-! ### ATTEST (03 R66) -/

theorem mapM_none {α β : Type} {f : α → Option β} {l : List α} {a : α} (mem : a ∈ l) (none : f a = none) : l.mapM f = Option.none := by
  induction l with
  | nil => cases mem
  | cons x l ih =>
    rw [List.mapM_cons]
    rcases List.mem_cons.mp mem with rfl | mem
    · rw [none]
      rfl
    · rw [ih mem]
      cases f x <;> rfl

theorem mapM_some {α β : Type} {f : α → Option β} {l : List α} {bs : List β} (h : l.map f = bs.map some) : l.mapM f = some bs := by
  induction l generalizing bs with
  | nil =>
    cases bs with
    | nil => rfl
    | cons b bs => cases h
  | cons x l ih =>
    cases bs with
    | nil => cases h
    | cons b bs =>
      obtain ⟨first, rest⟩ := List.cons.inj h
      rw [List.mapM_cons, first, ih rest]
      rfl

/-- What a report says before the measurement: the nonce, versions and the booted bank (03 Table 3.16). -/
def reportHead (o : Oseus) (nonce : List Byte) : List Byte :=
  padTo 32 nonce ++ bytesOfNat 4 Config.romVersion ++ bytesOfNat 1 (o.booted.getD 0) ++ bytesOfNat 3 0 ++ bytesOfNat 4 o.security ++ bytesOfNat 4 0

/-- The serial number and the number of digests. -/
def reportKeys (n : Nat) : List Byte := bytesOfNat 16 Config.serial ++ bytesOfNat 1 n ++ bytesOfNat 7 0

/-- The length of the signature. -/
def reportEnd : List Byte := bytesOfNat 2 1280 ++ bytesOfNat 6 0

theorem reportBytes_eq (o : Oseus) (nonce : List Byte) (ds : List (List Byte)) :
    reportBytes o nonce ds = reportHead o nonce ++ (padTo 64 o.digest ++ (reportKeys ds.length ++ (ds.flatMap (padTo 64) ++ reportEnd))) := by
  simp only [reportBytes, reportHead, reportKeys, reportEnd, List.append_assoc]

theorem reportHead_length (o : Oseus) (nonce : List Byte) : (reportHead o nonce).length = 48 := by
  simp [reportHead, padTo_length]

theorem reportKeys_length (n : Nat) : (reportKeys n).length = 24 := by
  simp [reportKeys]

theorem reportBytes_length (o : Oseus) (nonce : List Byte) (ds : List (List Byte)) : (reportBytes o nonce ds).length = 144 + 64 * ds.length := by
  rw [reportBytes_eq]
  simp only [List.length_append, reportHead_length, reportKeys_length, padTo_length, flatMap_length (padTo_length 64)]
  simp only [reportEnd, List.length_append, bytesOfNat_length]
  omega

theorem reportBytes_nonce {o : Oseus} {nonce : List Byte} {ds : List (List Byte)} (h : nonce.length = 32) (r : List Byte) : (reportBytes o nonce ds ++ r).take 32 = nonce := by
  simp only [reportBytes, List.append_assoc]
  rw [padTo_of_length h, List.take_left' h]

theorem reportBytes_measured (o : Oseus) (nonce : List Byte) (ds : List (List Byte)) (r : List Byte) :
    ((reportBytes o nonce ds ++ r).drop 48).take 64 = padTo 64 o.digest := by
  rw [reportBytes_eq, List.append_assoc, List.append_assoc]
  exact part_append (reportHead_length ..) (padTo_length ..) _

theorem reportBytes_digest {o : Oseus} {nonce : List Byte} {ds : List (List Byte)} {j : Nat} (h : j < ds.length) (r : List Byte) :
    ((reportBytes o nonce ds ++ r).drop (136 + 64 * j)).take 64 = padTo 64 (ds.getD j []) := by
  have before : (reportHead o nonce ++ (padTo 64 o.digest ++ reportKeys ds.length)).length = 136 := by
    simp only [List.length_append, reportHead_length, reportKeys_length, padTo_length]
  have digest : ds[j]? = some (ds.getD j []) := by simp [h]
  have parts : reportBytes o nonce ds ++ r =
      (reportHead o nonce ++ (padTo 64 o.digest ++ reportKeys ds.length)) ++ (ds.flatMap (padTo 64) ++ (reportEnd ++ r)) := by
    simp only [reportBytes_eq, List.append_assoc]
  rw [parts, ← List.drop_drop, List.drop_left' before]
  exact flatMap_part (padTo_length 64) digest _

/-- The body of an ATTEST is in good order. -/
structure AttestFields (b : Nat) : Prop where
  few : bitsOf b 256 8 ≤ 16
  zero : bitsOf b 264 8 = 0
  items : ∀ j, j < bitsOf b 256 8 → bitsOf b (278 + 16 * j) 2 = 0 ∧ bitsOf b (284 + 16 * j) 4 = 0

/-- An image whose digest is asked for: its context and its index. -/
def askedDigest (b j : Nat) : Nat × Nat := (bitsOf b (272 + 16 * j) 6, bitsOf b (280 + 16 * j) 4)

theorem attestItems_eq (b n : Nat) : attestItems b n = (List.range n).map (askedDigest b) := rfl

/-- The answer to an ATTEST whose digests are found or not. -/
def State.attested (s : State) (m : Message) : Option (List (List Byte)) → Served
  | none => .refuse 3 0
  | some ds =>
    let r := reportBytes s.os (m.body.take 32) ds
    .done s (r ++ padTo 1280 (Config.sign (Config.shake256 r)))

theorem exec_attest (ask : Claims.Asked s m 0x11 (34 + 2 * bitsOf (msgNum m) 256 8)) (ctx : msgCtx m = 0) (fields : AttestFields (msgNum m)) :
    exec (.attest m) s = .next ((s.attested m ((attestItems (msgNum m) (bitsOf (msgNum m) 256 8)).mapM s.imageDigest)).answer 0x11 m s) := by
  obtain ⟨few, zero, items⟩ := fields
  refine (Asked.answered (g := serveAttest) ask (by omega) (by unfold serveAttest; rfl) (by simp) (.inr ctx)).trans (answer_congr ?_)
  refine (checked_good (List.forall_mem_append.mpr ⟨by simp [zeroAt, few, zero], fun p hp => ?_⟩)).trans ?_
  · obtain ⟨j, hj, hp⟩ := List.mem_flatMap.mp hp
    obtain ⟨zero, zero'⟩ := items j (List.mem_range.mp hj)
    simp only [List.mem_cons, List.not_mem_nil, or_false] at hp
    rcases hp with rfl | rfl
    · exact zeroAt_ok zero
    · exact zeroAt_ok zero'
  · cases (attestItems (msgNum m) (bitsOf (msgNum m) 256 8)).mapM s.imageDigest <;> rfl

theorem attest_unknown (ask : Claims.Asked s m 0x11 (34 + 2 * bitsOf (msgNum m) 256 8)) (ctx : msgCtx m = 0) (fields : AttestFields (msgNum m))
    (unknown : ∃ j, j < bitsOf (msgNum m) 256 8 ∧ s.imageDigest (askedDigest (msgNum m) j) = none) :
    exec (.attest m) s = .next (s.reply 0x11 (msgReq m) (msgCtx m) 3 0 []) := by
  obtain ⟨j, lt, none⟩ := unknown
  rw [exec_attest ask ctx fields, attestItems_eq, mapM_none (List.mem_map.mpr ⟨j, List.mem_range.mpr lt, rfl⟩) none]
  rfl

theorem attest_known (ask : Claims.Asked s m 0x11 (34 + 2 * bitsOf (msgNum m) 256 8)) (ctx : msgCtx m = 0) (fields : AttestFields (msgNum m)) (ds : List (List Byte))
    (length : ds.length = bitsOf (msgNum m) 256 8) (known : ∀ j, j < bitsOf (msgNum m) 256 8 → s.imageDigest (askedDigest (msgNum m) j) = some (ds.getD j [])) :
    ∃ body, exec (.attest m) s = .next (s.reply 0x11 (msgReq m) (msgCtx m) 0 0 body) ∧ body.length = 1424 + 64 * bitsOf (msgNum m) 256 8 ∧ body.take 32 = m.body.take 32 ∧
      (body.drop 48).take 64 = padTo 64 s.os.digest ∧ (∀ j, j < bitsOf (msgNum m) 256 8 → (body.drop (136 + 64 * j)).take 64 = padTo 64 (ds.getD j [])) ∧
      body.drop (144 + 64 * bitsOf (msgNum m) 256 8) = padTo 1280 (Config.sign (Config.shake256 (body.take (144 + 64 * bitsOf (msgNum m) 256 8)))) := by
  have found : (attestItems (msgNum m) (bitsOf (msgNum m) 256 8)).mapM s.imageDigest = some ds := by
    refine mapM_some (List.ext_getElem (by simp [attestItems_eq, length]) fun j h h' => ?_)
    have lt : j < bitsOf (msgNum m) 256 8 := by simpa [attestItems_eq] using h
    have eq := known j lt
    rw [List.getD_eq_getElem _ _ (length.symm ▸ lt)] at eq
    simpa [attestItems_eq] using eq
  have nonce : (m.body.take 32).length = 32 := by
    rw [List.length_take, ask.length]
    omega
  have long := reportBytes_length s.os (m.body.take 32) ds
  rw [exec_attest ask ctx fields, found]
  rw [← length] at *
  refine ⟨_, rfl, ?_, reportBytes_nonce nonce _, reportBytes_measured .., fun j lt => reportBytes_digest lt _, ?_⟩
  · rw [List.length_append, long, padTo_length]
    omega
  · rw [List.drop_left' long, List.take_left' long]

end Reads

end Sys2Proof.Machine
end

section
/-! SUPPORT. FIRMWARE_LOAD and RAISE_SECURITY_MINIMUM (`Machine/Mgmt.lean`; 03 R67, Table 3.17): the parts of a bank, its verification, and the fuse. -/

namespace Sys2Proof.Machine

theorem natOfBytes_take (k : Nat) (bs : List Byte) : natOfBytes (bs.take k) = natOfBytes bs % 2 ^ (8 * k) := by
  induction k generalizing bs with
  | zero => simp [natOfBytes, Nat.mod_one]
  | succ k ih =>
    cases bs with
    | nil => simp [natOfBytes]
    | cons b bs =>
      have small := b.isLt
      have low : (b.toNat + 2 ^ 8 * natOfBytes bs) % 2 ^ 8 = b.toNat := by omega
      have high : (b.toNat + 2 ^ 8 * natOfBytes bs) / 2 ^ 8 = natOfBytes bs := by omega
      rw [List.take_succ_cons, natOfBytes, natOfBytes, ih, show 8 * (k + 1) = 8 + 8 * k by omega, Nat.pow_add, Nat.mod_mul, low, high]

/-- A field of the first 16 bytes of a body. -/
theorem bitsOf_take {m : Message} {lo n : Nat} (h : lo + n ≤ 128) : bitsOf (natOfBytes (m.body.take 16)) lo n = bitsOf (msgNum m) lo n := by
  have low : natOfBytes (m.body.take 16) = bitsOf (msgNum m) 0 128 := by
    rw [natOfBytes_take, bitsOf, Nat.pow_zero, Nat.div_one]
    rfl
  rw [low, bitsOf_bitsOf h, Nat.zero_add]

section Firmware

variable {s : State} {m : Message} {l : BankLoad} {n : Nat}

/-! ### FIRMWARE_LOAD (03 R67) -/

/-- One part of a bank that begins at `offset`, after the parts before it; the last one is verified. -/
def State.takePart (s : State) (m : Message) (l : BankLoad) (offset : Nat) (last : Bool) : Served :=
  let t := s.updOs (fun o => { o with loading := some l, banks := if offset = 0 then o.banks.set l.bank ⟨[], false⟩ else o.banks })
  if last then
    match t.verifyBank l with
    | (t, true) => .done t []
    | (t, false) => .later (t.reply 0x12 (msgReq m) (msgCtx m) 7 0 [])
  else .done t []

/-- The bytes before a part: none before the first one, and those of the load that it goes on with. -/
def State.partsBefore (s : State) (offset bank total : Nat) : Option (List Byte) :=
  if offset = 0 then some []
  else
    match s.os.loading with
    | some l => if l.bank = bank ∧ l.total = total ∧ l.data.length = offset then some l.data else none
    | none => none

/-- The fields of a FIRMWARE_LOAD are in good order (03 Table 3.17). -/
structure PartFields (m : Message) : Prop where
  some_ : 17 ≤ m.body.length
  short : m.body.length ≤ 4080
  total : 1 ≤ bitsOf (msgNum m) 32 32
  total' : bitsOf (msgNum m) 32 32 ≤ 100663296
  zero : bitsOf (msgNum m) 66 62 = 0

/-- What a part comes to after the bytes before it; the bank that the module has booted from takes none. -/
def State.takeAfter (s : State) (m : Message) : Option (List Byte) → Served
  | none => .refuse 1 0
  | some bs =>
    let b := msgNum m
    let data := m.body.drop 16
    let last := bitsOf b 65 1 == 1
    if !s.os.recovery && s.os.booted == some (bitsOf b 64 1) then .refuse 4 8
    else if bitsOf b 32 32 < bitsOf b 0 32 + data.length ∨ (last && bitsOf b 0 32 + data.length != bitsOf b 32 32) then .refuse 1 8
    else s.takePart m ⟨bitsOf b 64 1, bitsOf b 32 32, bs ++ data⟩ (bitsOf b 0 32) last

theorem exec_firmwareLoad (ask : Claims.Asked s m 0x12 n) (ctx : msgCtx m = 0) (fields : PartFields m) :
    exec (.firmwareLoad m) s = .next ((s.takeAfter m (s.partsBefore (bitsOf (msgNum m) 0 32) (bitsOf (msgNum m) 64 1) (bitsOf (msgNum m) 32 32))).answer 0x12 m s) := by
  obtain ⟨some_, short, total, total', zero⟩ := fields
  rw [ask.length] at some_ short
  refine (Asked.answered (g := serveFirmwareLoad) ask short (by unfold serveFirmwareLoad; rfl) (by simp [some_, short]) (.inr ctx)).trans (answer_congr ?_)
  dsimp only
  simp only [bitsOf_take (m := m) (lo := 0) (n := 32) (by decide), bitsOf_take (m := m) (lo := 32) (n := 32) (by decide),
    bitsOf_take (m := m) (lo := 64) (n := 1) (by decide), bitsOf_take (m := m) (lo := 65) (n := 1) (by decide)]
  refine (checked_good (by simp [zeroAt, total, total', bitsOf_take (m := m) (lo := 66) (n := 62) (by decide), zero])).trans ?_
  rfl

/-- The bank that the module has booted from takes no part. -/
theorem firmwareLoad_booted (ask : Claims.Asked s m 0x12 n) (ctx : msgCtx m = 0) (fields : PartFields m) (first : bitsOf (msgNum m) 0 32 = 0)
    (booted : s.os.booted = some (bitsOf (msgNum m) 64 1)) : exec (.firmwareLoad m) s = .next (s.reply 0x12 (msgReq m) (msgCtx m) 4 8 []) := by
  rw [exec_firmwareLoad ask ctx fields, State.partsBefore, if_pos first]
  unfold State.takeAfter
  dsimp only
  rw [if_pos (by rw [ask.normal, booted]; simp)]
  rfl

/-- A part of another bank is taken where it fits. -/
theorem exec_firmwareLoad_fits (ask : Claims.Asked s m 0x12 n) (ctx : msgCtx m = 0) (fields : PartFields m) (other : s.os.booted ≠ some (bitsOf (msgNum m) 64 1)) {bs : List Byte}
    (before : s.partsBefore (bitsOf (msgNum m) 0 32) (bitsOf (msgNum m) 64 1) (bitsOf (msgNum m) 32 32) = some bs)
    (fits : bitsOf (msgNum m) 0 32 + (m.body.drop 16).length ≤ bitsOf (msgNum m) 32 32)
    (ends : bitsOf (msgNum m) 65 1 = 1 → bitsOf (msgNum m) 0 32 + (m.body.drop 16).length = bitsOf (msgNum m) 32 32) :
    exec (.firmwareLoad m) s = .next ((s.takePart m ⟨bitsOf (msgNum m) 64 1, bitsOf (msgNum m) 32 32, bs ++ m.body.drop 16⟩ (bitsOf (msgNum m) 0 32)
      (bitsOf (msgNum m) 65 1 == 1)).answer 0x12 m s) := by
  rw [exec_firmwareLoad ask ctx fields, before]
  unfold State.takeAfter
  dsimp only
  rw [if_neg (by simp [other]), if_neg]
  rintro (beyond | short)
  · omega
  · rw [Bool.and_eq_true, beq_iff_eq, bne_iff_ne] at short
    exact short.2 (ends short.1)

theorem firmwareLoad_first (ask : Claims.Asked s m 0x12 n) (ctx : msgCtx m = 0) (fields : PartFields m) (other : s.os.booted ≠ some (bitsOf (msgNum m) 64 1))
    (banks : s.os.banks.length = 2) (first : bitsOf (msgNum m) 0 32 = 0) (more : bitsOf (msgNum m) 65 1 = 0) (fits : (m.body.drop 16).length ≤ bitsOf (msgNum m) 32 32) :
    ∃ t, exec (.firmwareLoad m) s = .next t ∧ Claims.Replied t m 0 0 [] ∧ t.os.loading = some ⟨bitsOf (msgNum m) 64 1, bitsOf (msgNum m) 32 32, m.body.drop 16⟩ ∧
      t.os.banks[bitsOf (msgNum m) 64 1]? = some ⟨[], false⟩ := by
  have bank : bitsOf (msgNum m) 64 1 < s.os.banks.length := banks.symm ▸ bitsOf_lt _ 64 1
  have before : s.partsBefore (bitsOf (msgNum m) 0 32) (bitsOf (msgNum m) 64 1) (bitsOf (msgNum m) 32 32) = some [] := if_pos first
  rw [exec_firmwareLoad_fits ask ctx fields other before (by omega) (by omega), first, more]
  exact ⟨_, rfl, replied_done ask.kind _, rfl, List.getElem?_set_self bank⟩

/-- A loaded bank is signed, and not below the minimum as it stands now (log entry 81). -/
def State.bankOk (s : State) (l : BankLoad) : Bool := Config.imageSigned l.data && decide (s.os.fusedMin ≤ Config.securityOf l.data)

/-- A bank after its last part. -/
def State.bankDone (s : State) (l : BankLoad) : State :=
  s.updOs (fun o => { o with loading := none, banks := o.banks.set l.bank ⟨l.data, s.bankOk l⟩, preferred := if s.bankOk l then l.bank else o.preferred })

theorem State.takePart_last {offset : Nat} (more : offset ≠ 0) :
    s.takePart m l offset true = if s.bankOk l then .done (s.bankDone l) [] else .later ((s.bankDone l).reply 0x12 (msgReq m) (msgCtx m) 7 0 []) := by
  have verified : ∀ t : State, t.os.fusedMin = s.os.fusedMin → t.verifyBank l = (t.updOs (fun o => { o with
      loading := none, banks := o.banks.set l.bank ⟨l.data, s.bankOk l⟩, preferred := if s.bankOk l then l.bank else o.preferred }), s.bankOk l) := fun t minimum => by
    unfold State.verifyBank State.bankOk
    rw [minimum]
  unfold State.takePart
  dsimp only
  simp only [if_neg more, if_true]
  rw [verified (s.updOs (fun o => { o with loading := some l })) rfl]
  unfold State.bankDone
  cases s.bankOk l <;> rfl

/-- The last part is verified, and a good bank is preferred (03 R67). -/
theorem firmwareLoad_last (ask : Claims.Asked s m 0x12 n) (ctx : msgCtx m = 0) (fields : PartFields m) (other : s.os.booted ≠ some (bitsOf (msgNum m) 64 1))
    (banks : s.os.banks.length = 2) (more : 0 < bitsOf (msgNum m) 0 32) (loading : s.os.loading = some l) (bank : l.bank = bitsOf (msgNum m) 64 1)
    (total : l.total = bitsOf (msgNum m) 32 32) (next : l.data.length = bitsOf (msgNum m) 0 32) (last : bitsOf (msgNum m) 65 1 = 1)
    (ends : bitsOf (msgNum m) 0 32 + (m.body.drop 16).length = bitsOf (msgNum m) 32 32) :
    ∃ t ok, exec (.firmwareLoad m) s = .next t ∧ t.os.loading = none ∧ t.os.banks[bitsOf (msgNum m) 64 1]? = some ⟨l.data ++ m.body.drop 16, ok⟩ ∧
      (ok = true ↔ Config.imageSigned (l.data ++ m.body.drop 16) = true ∧ s.os.fusedMin ≤ Config.securityOf (l.data ++ m.body.drop 16)) ∧
      (ok = true → t.os.preferred = bitsOf (msgNum m) 64 1 ∧ Claims.Replied t m 0 0 []) ∧ (ok = false → t.os.preferred = s.os.preferred ∧ Claims.Replied t m 7 0 []) := by
  have lt : bitsOf (msgNum m) 64 1 < s.os.banks.length := banks.symm ▸ bitsOf_lt _ 64 1
  have before : s.partsBefore (bitsOf (msgNum m) 0 32) (bitsOf (msgNum m) 64 1) (bitsOf (msgNum m) 32 32) = some l.data := by
    unfold State.partsBefore
    rw [if_neg (by omega), loading]
    exact if_pos ⟨bank, total, next⟩
  rw [exec_firmwareLoad_fits ask ctx fields other before ends.le fun _ => ends, last, beq_self_eq_true, State.takePart_last (by omega)]
  generalize hl : (⟨bitsOf (msgNum m) 64 1, bitsOf (msgNum m) 32 32, l.data ++ m.body.drop 16⟩ : BankLoad) = whole
  have ok : s.bankOk whole = true ↔ Config.imageSigned (l.data ++ m.body.drop 16) = true ∧ s.os.fusedMin ≤ Config.securityOf (l.data ++ m.body.drop 16) := by
    rw [← hl, State.bankOk, Bool.and_eq_true, decide_eq_true_eq]
  have set : (s.bankDone whole).os.banks[bitsOf (msgNum m) 64 1]? = some ⟨l.data ++ m.body.drop 16, s.bankOk whole⟩ := by
    rw [← hl]
    exact List.getElem?_set_self lt
  have preferred : (s.bankDone whole).os.preferred = if s.bankOk whole then bitsOf (msgNum m) 64 1 else s.os.preferred := by
    rw [← hl]
    rfl
  refine ⟨_, s.bankOk whole, rfl, ?_⟩
  cases good : s.bankOk whole with
  | true =>
    rw [good] at ok set preferred
    exact ⟨rfl, set, ok, fun _ => ⟨preferred, replied_done ask.kind _⟩, fun bad => absurd bad (by decide)⟩
  | false =>
    rw [good] at ok set preferred
    exact ⟨rfl, set, ok, fun bad => absurd bad (by decide), fun _ => ⟨preferred, ask.kind ▸ rfl⟩⟩

/-! ### RAISE_SECURITY_MINIMUM -/

theorem exec_raiseSecurityMinimum (ask : Claims.Asked s m 0x13 4) (ctx : msgCtx m = 0) :
    exec (.raiseSecurityMinimum m) s = .next ((if bitsOf (msgNum m) 0 32 < s.os.fusedMin then Served.refuse 1 0
      else if s.os.security < bitsOf (msgNum m) 0 32 then .refuse 4 0
      else .done (s.updOs (fun o => { o with fusedMin := bitsOf (msgNum m) 0 32 })) []).answer 0x13 m s) := by
  refine (Asked.answered (g := serveRaiseSecurityMinimum) ask (by decide) (by unfold serveRaiseSecurityMinimum; rfl) (by rfl) (.inr ctx)).trans (answer_congr ?_)
  rfl

theorem raiseSecurityMinimum_clause (v : Nat) (hv : v = bitsOf (msgNum m) 0 32) (ask : Claims.Asked s m 0x13 4) (ctx : msgCtx m = 0) :
    (v < s.os.fusedMin → exec (.raiseSecurityMinimum m) s = .next (s.reply 0x13 (msgReq m) (msgCtx m) 1 0 [])) ∧
    (s.os.fusedMin ≤ v → s.os.security < v → exec (.raiseSecurityMinimum m) s = .next (s.reply 0x13 (msgReq m) (msgCtx m) 4 0 [])) ∧
    (s.os.fusedMin ≤ v → v ≤ s.os.security → ∃ t, exec (.raiseSecurityMinimum m) s = .next t ∧ Claims.Replied t m 0 0 [] ∧ t.os.fusedMin = v) := by
  subst hv
  rw [exec_raiseSecurityMinimum ask ctx]
  refine ⟨fun below => ?_, fun above beyond => ?_, fun above within => ?_⟩
  · rw [if_pos below]
    rfl
  · rw [if_neg (Nat.not_lt.mpr above), if_pos beyond]
    rfl
  · rw [if_neg (Nat.not_lt.mpr above), if_neg (Nat.not_lt.mpr within)]
    exact ⟨_, rfl, replied_done ask.kind _, rfl⟩

end Firmware

end Sys2Proof.Machine
end

section
/-! The obligation on service messages (O47), from what each message does (03 R58, R59, R62 to R67, R76, R77, R84, R85). -/

namespace Sys2Proof.Machine

/-- Settles O47, message by message: an over-long message cuts the connection (log entry 49), the nodes of a graph are checked before its shape (log entry 34), and
a bank is verified against the minimum that was raised last, which is set at once (log entry 81). -/
theorem serviceMessageResult : Obligations.ServiceMessageResult := by
  unfold Obligations.ServiceMessageResult
  intro s m c
  refine ⟨arrival_of_served s m, fun ctx => ⟨?_, ?_, unloadGraph_clause ctx⟩, ?_, ?_, portUp_clause, setLinkParameters_clause, ?_, ?_, ?_, raiseSecurityMinimum_clause,
    resetMsg_clause, exec_resetMsg_other, unassignedMessageType_clause⟩
  · rintro i ask rfl reserved memory some_ short slot dest source index room
    exact loadImage_clause ctx ask ⟨reserved, memory, some_, short, slot, dest, source, index, room⟩
  · intro ask above some_ zero above' start
    have fields : GraphFields s m := ⟨above, some_, zero, above', start⟩
    exact ⟨loadGraph_badNode ctx ask fields, fun h g good lt free least hg shape room => loadGraph_keeps ctx ask fields good lt free least hg shape room⟩
  · intro i y image ctx
    refine ⟨loadImageQuiesced_waits image ctx, fun p copied => loadImageQuiesced_copied image ctx copied, fun l bs idx fresh quiesced wf memory hbs some_ one leaf index => ?_⟩
    exact loadImageQuiesced_copies image ctx l bs idx fresh quiesced wf memory hbs some_ one leaf index
  · intro ask ctx remote unused axes flat above entries few above' distinct
    exact setGrid_clause ask ctx remote unused ⟨axes, flat, above, entries, few, above', distinct⟩
  · rintro n rfl some_ few zero items ctx
    exact ⟨fun ask => readRecords_clause ask ctx ⟨some_, few, zero, items⟩, fun ask => readCounters_clause ask ctx ⟨some_, few, zero, items⟩⟩
  · rintro n rfl few zero items ctx ask
    exact ⟨attest_unknown ask ctx ⟨few, zero, items⟩, attest_known ask ctx ⟨few, zero, items⟩⟩
  · rintro offset total bank data ask ctx some_ short rfl rfl rfl rfl zero total total' banks
    have length := ask.length
    have fields : PartFields m := ⟨by omega, by omega, total, total', zero⟩
    refine ⟨firmwareLoad_booted ask ctx fields, fun other => ⟨firmwareLoad_first ask ctx fields other banks, fun l more loading bank total next last ends => ?_⟩⟩
    exact firmwareLoad_last ask ctx fields other banks more loading bank total next last ends

end Sys2Proof.Machine
end

section
/-! SUPPORT. A successor JOB node whose dependence word is watched no longer: what its reach writes (05 R455). -/

namespace Sys2Proof.Machine

/-- JOB_READY of a reached node of the instance that its number finds is the node's action. -/
theorem exec_jobReady_reached {s : State} {x : Inst} {g : Graph} {r : NodeRun} {node : Nat} (found : s.insts.find? (fun y => y.id == x.id) = some x)
    (loaded : s.graphOf x = some g) (reached : x.runs.find? (fun q => q.node == node) = some r) :
    exec (.jobReady x.id node) s = .next (actNode s x g r) := by
  change device _ = _
  simp only [found, loaded, reached]
  rfl

namespace LostWord

/-- JOIN node 1 of count 1 is followed by JOB node 2, whose dependence word stands in virtual page 2; the graph's fault word stands in page 0. -/
def graph : Graph where
  handle := 0
  cls := 2
  entry := 1
  maxLive := 1
  relDeadline := 100
  faultWord := 0x8000
  startWord := 0x8008
  startLost := false
  filledAt := none
  nodes := [⟨.join 1, []⟩, ⟨.join 1, [2, 0xFFFF, 0xFFFF, 0xFFFF]⟩, ⟨.job probeKernel 100 0 [0x20000], [0xFFFF, 0xFFFF, 0xFFFF, 0xFFFF]⟩]

/-- Node 1 is reached and incomplete. -/
def run : NodeRun where
  node := 1
  latched := []
  ready := false
  job := 3
  nextTeam := 0
  left := 0
  readyAt := 0
  since := 0

/-- The live instance: its JOIN node has met its count. -/
def inst : Inst where
  id := 5
  ctx := 0
  graph := 0
  fillTime := 0
  shareC := 0
  shareM := 0
  admitted := false
  runs := [run]
  counts := [(1, 1)]
  excursion := false
  missed := false

/-- Three levels of tables that map virtual page 0, tagged, readable and writable, onto physical page 0x10000; no other page is mapped any more. -/
def tables : Memory :=
  ((Memory.reset.write 0x20000 ((bytesOfNat 8 (0x30000 + 1)).map some)).write 0x30000 ((bytesOfNat 8 (0x40000 + 1)).map some)).write 0x40000
    ((bytesOfNat 8 (0x10000 + 0x7B)).map some)

/-- Context 0, its trap ring at virtual address 0, with the graph and its instance. -/
def state : State := { State.reset with
  nextId := 9
  mem := tables
  ctxs := [{ Context.blank 0 0x20000 with graphs := [graph] }]
  insts := [inst] }

theorem graphOf_inst : state.graphOf inst = some graph := rfl

/-- The dependence word is not watched, for its page is not mapped; so the reach of JOB node 2 ends the instance and writes record 1 into the trap ring, at
physical address 0x10400 (05 R455, 14 R277). -/
theorem ends_with_record : state.watched 0 0x20000 = none ∧ (actNode state inst graph run).insts = [] ∧
    sparseGet 0 (actNode state inst graph run).mem.cells 0x10400 = 1 := by decide +kernel

theorem ring_blank : sparseGet 0 state.mem.cells 0x10400 = 0 := by decide +kernel

end LostWord

/-- Refutes O53: its JOIN clause leaves the memory as it is at every completion, also where a successor JOB node names a word that is watched no longer.
The reach of such a node ends the instance with a trap record and the graph's fault word (05 R455), which the clause allows for in `NodePassed` but not in its
equation of the memories; `LostWord.state` is a machine where the JOIN node has met its count and the record is written. -/
theorem not_schedulerResult : ¬ Obligations.SchedulerResult := by
  unfold Obligations.SchedulerResult
  intro h
  have only : ∀ y ∈ LostWord.state.insts, y.id = LostWord.inst.id → y = LostWord.inst := fun y hy _ => List.mem_singleton.mp hy
  obtain ⟨nodes, -⟩ := h LostWord.state LostWord.inst LostWord.graph LostWord.run 1
  obtain ⟨-, -, -, join, -⟩ := nodes (List.mem_singleton.mpr rfl) only LostWord.graphOf_inst rfl
  obtain ⟨-, atCount, -⟩ := join 1 rfl
  obtain ⟨t, stepped, kept, -⟩ := atCount rfl
  have acted : t = actNode LostWord.state LostWord.inst LostWord.graph LostWord.run :=
    Host.Outcome.next.inj (stepped.symm.trans (exec_jobReady_reached rfl LostWord.graphOf_inst rfl))
  obtain ⟨-, -, record⟩ := LostWord.ends_with_record
  have written : sparseGet 0 t.mem.cells 0x10400 = 1 := acted ▸ record
  rw [kept, LostWord.ring_blank] at written
  exact absurd written (by decide)

end Sys2Proof.Machine
end

section
/-! SUPPORT. RESIZE (`Machine/Memory.lean`, `Machine/Cuttings.lean`; 08 R167, 17 R360): its issue, what its switch point makes of the team, and the obligation on both (O24). -/

namespace Sys2Proof.Machine

section Resize

variable {s : State} {r : FibreRef} {t : Team} {f : Fibre} {op : LongOp} {i n d : Nat} {keep : Bool}

/-! ### Issue (17 R360) -/

/-- Both forms stand outstanding with their operand and destination, and pass. -/
theorem resizeForm_issued {c : Nat} {d a : BitVec 7} (ready : Ready s r t f [a.toNat] [d.toNat] [] []) (onCore : f.nearSlot = none)
    (issue : f.canIssue c) (keep : Bool) :
    resizeForm d a keep s = .next (s.issued r 1 c (.resize (f.reg a.toNat).toNat d.toNat keep) [d.toNat] [] []) := by
  have full := counterFull_of_canIssue (u := { rd := [a.toNat], wr := [d.toNat], near := false, long := true }) issue
  obtain ⟨counter, below⟩ := issue
  unfold resizeForm
  rw [isa_of_ready ready (.inr onCore) (fun _ tile => by cases tile) full, issueLong_ok counter below]
  exact congrArg Host.Outcome.next (State.updFibre_updFibre s r _ _ fun _ => rfl)

/-! ### The completion of an outstanding instruction -/

theorem State.longOp_of (team : s.team? r.team = some t) (fibre : t.fibre? r.fibre = some f) (listed : f.ll[i]? = some op) :
    s.longOp r i = some (t, f, op) := by
  unfold State.longOp
  rw [team]
  dsimp only
  rw [fibre]
  dsimp only
  rw [listed]
  rfl

/-- A fibre that does not wait to enter a handler enters none. -/
theorem State.tryEnter_of_not_entering (fibre : s.fibre? r = some f) (idle : f.entering = none) : s.tryEnter r = s := by
  unfold State.tryEnter
  rw [fibre]
  simp [idle]

/-- A fibre at the completion of an outstanding instruction that answers one register. -/
def Fibre.finished (op : LongOp) (d : Nat) (v : Dword) (f : Fibre) : Fibre :=
  { (f.setReg d v).countDown op.counter with ll := f.ll.filter (fun o => o != op) }

theorem finishLong_register (r : FibreRef) (op : LongOp) (d : Nat) (v : Dword) (s : State) :
    finishLong r op [(d, v)] none s = s.updFibre r (Fibre.finished op d v) := rfl

theorem Fibre.finished_kept (op : LongOp) (d : Nat) (v : Dword) (f : Fibre) :
    (f.finished op d v).idx = f.idx ∧ (f.finished op d v).entering = f.entering ∧ (f.finished op d v).regs = f.regs.set d v := by
  unfold Fibre.finished Fibre.countDown
  cases op.counter <;> exact ⟨rfl, rfl, rfl⟩

/-- An instruction that completes with one register writes it, and of its team changes only the fibre. -/
theorem finishLong_answers {v : Dword} (team : s.team? r.team = some t) (fibre : t.fibre? r.fibre = some f) (reg : d < f.regs.length) :
    ∃ t' x, (finishLong r op [(d, v)] none s).team? r.team = some t' ∧ t'.alloc = t.alloc ∧ t'.scratch = t.scratch ∧
      (finishLong r op [(d, v)] none s).fibre? r = some x ∧ x.reg d = v ∧ x.entering = f.entering := by
  obtain ⟨-, entering, regs⟩ := Fibre.finished_kept op d v f
  have fibreNow : s.fibre? r = some f := by simp only [State.fibre?, team, fibre]
  rw [finishLong_register]
  refine ⟨t.updFibre r.fibre (Fibre.finished op d v), f.finished op d v, ?_, rfl, rfl, ?_, ?_, entering⟩
  · exact (State.team?_updTeam s r.team (fun t => t.updFibre r.fibre (Fibre.finished op d v)) fun _ => rfl).trans (congrArg _ team)
  · rw [State.fibre?_updFibre s r _ fun x => (Fibre.finished_kept op d v x).1, fibreNow]
    rfl
  · simp [Fibre.reg, regs, reg]

/-! ### The switch point (08 R167) -/

theorem exec_resizeSwitchPoint (team : s.team? r.team = some t) (fibre : t.fibre? r.fibre = some f) (listed : f.ll[i]? = some op)
    (kind : op.kind = .resize n d keep) :
    exec (.resizeSwitchPoint r.team r.fibre i) s = .next ((switchResize r t op n d keep s).tryEnter r) := by
  change execResizeSwitchPoint r.team r.fibre i s = _
  unfold execResizeSwitchPoint
  rw [State.longOp_of (r := r) team fibre listed]
  dsimp only
  rw [kind]
  rfl

theorem sparseGet_cutScratch (m : List Host.Cell) (bytes a : Nat) :
    sparseGet 0 (cutScratch m bytes) a = if a < bytes then sparseGet 0 m a else 0 := by
  induction m with
  | nil => simp [cutScratch, sparseGet]
  | cons p m ih =>
    obtain ⟨b, v⟩ := p
    unfold cutScratch at ih ⊢
    rw [List.filter_cons]
    by_cases here : a = b
    · subst here
      by_cases low : a < bytes
      · simp [sparseGet, low]
      · simpa [low] using ih
    · by_cases low : b < bytes <;> simpa [sparseGet, low, here] using ih

/-- Lines given up by an L1 change nothing but the copies of lines. -/
theorem State.takeWays_home (s : State) (c : CoreId) : HomeChanged s (s.takeWays c) :=
  HomeChanged.foldl (g := fun s l => s.evictL1 c l) (fun s _ => HomeChanged.of_coh s _ rfl) _ s

/-- The cache of a team's core gives up the lines of the ways that an allocation of `n` takes from it. -/
def State.yieldWays (s : State) (t : Team) (n : Nat) : State :=
  match t.core with
  | some c => if t.reserved < n then s.takeWays c else s
  | none => s

theorem State.yieldWays_home (s : State) (t : Team) (n : Nat) : HomeChanged s (s.yieldWays t n) := by
  unfold State.yieldWays
  split
  · split
    · exact s.takeWays_home _
    · exact HomeChanged.refl s
  · exact HomeChanged.refl s

/-- The machine at a granted switch, before the RESIZE completes. -/
def State.switched (s : State) (t : Team) (n : Nat) (keep : Bool) : State :=
  ((s.count t.ctx 0x45 (min n t.reserved - t.alloc)).updTeam t.id (fun t => t.resized n keep)).yieldWays t n

theorem State.switched_mem (s : State) (t : Team) (n : Nat) (keep : Bool) : (s.switched t n keep).mem = s.mem :=
  (State.yieldWays_home _ t n).mem

theorem State.switched_team (team : s.team? r.team = some t) : (s.switched t n keep).team? r.team = some (t.resized n keep) := by
  have named : t.id = r.team := by simpa using List.find?_some team
  have resized := State.team?_updTeam (s.count t.ctx 0x45 (min n t.reserved - t.alloc)) r.team (fun t => t.resized n keep) fun _ => rfl
  unfold State.switched
  rw [named]
  unfold State.team? at *
  rw [(State.yieldWays_home _ t n).teams, resized]
  exact congrArg _ team

theorem switchResize_refused (refused : resizeRefused s t n = true) :
    switchResize r t op n d keep s = finishLong r op [(d, ofNat64 t.alloc)] none s := if_pos refused

/-- A switch that is granted and need not wait. -/
theorem switchResize_granted (granted : resizeRefused s t n = false) (performed : n < t.alloc → issuedAbove s t (n * wayBytes t.kernel.mcore) = false) :
    switchResize r t op n d keep s = finishLong r op [(d, ofNat64 n)] none (s.switched t n keep) := by
  have ready : ¬ (n < t.alloc ∧ issuedAbove s t (n * wayBytes t.kernel.mcore) = true) := fun ⟨less, issued⟩ => by
    rw [performed less] at issued
    cases issued
  unfold switchResize
  rw [granted, if_neg Bool.false_ne_true, if_neg ready]
  rfl

/-- A RESIZE that completes with a value leaves the fibre in no handler entry, so its switch point ends there. -/
theorem resizeSwitchPoint_completes {u : State} {t' : Team} {v : Nat} (team : s.team? r.team = some t) (fibre : t.fibre? r.fibre = some f)
    (listed : f.ll[i]? = some op) (kind : op.kind = .resize n d keep) (idle : f.entering = none) (reg : d < f.regs.length) (small : v < 2 ^ 64)
    (switched : switchResize r t op n d keep s = finishLong r op [(d, ofNat64 v)] none u) (there : u.team? r.team = some t')
    (fibre' : t'.fibre? r.fibre = some f) :
    ∃ s' w x, exec (.resizeSwitchPoint r.team r.fibre i) s = .next s' ∧ s'.team? r.team = some w ∧ w.alloc = t'.alloc ∧ w.scratch = t'.scratch ∧
      s'.fibre? r = some x ∧ (x.reg d).toNat = v ∧ s'.mem = u.mem := by
  obtain ⟨w, x, teamAfter, alloc, scratch, fibreAfter, value, entering⟩ := finishLong_answers (op := op) (v := ofNat64 v) there fibre' reg
  refine ⟨finishLong r op [(d, ofNat64 v)] none u, w, x, ?_, teamAfter, alloc, scratch, fibreAfter, ?_, finishLong_mem ..⟩
  · rw [exec_resizeSwitchPoint team fibre listed kind, switched, State.tryEnter_of_not_entering fibreAfter (entering.trans idle)]
  · rw [value]
    exact Nat.mod_eq_of_lt small

end Resize

/-- Settles O24: the issue of both forms, and at the switch point the refused and the granted RESIZE. -/
theorem resizeSwitch : Obligations.ResizeSwitch := by
  refine ⟨fun s r t f c d a ready onCore issue => ⟨resizeForm_issued ready onCore issue true, resizeForm_issued ready onCore issue false⟩, ?_⟩
  intro s r t f i c n d keep op team fibre listed kind _ idle reg small
  constructor
  · intro refused smallAlloc
    obtain ⟨s', w, x, run, teamAfter, alloc, scratch, fibreAfter, value, -⟩ :=
      resizeSwitchPoint_completes team fibre listed kind idle reg smallAlloc (switchResize_refused refused) team fibre
    exact ⟨s', w, x, run, teamAfter, alloc, scratch, fibreAfter, value⟩
  · intro granted performed
    obtain ⟨s', w, x, run, teamAfter, alloc, scratch, fibreAfter, value, mem⟩ :=
      resizeSwitchPoint_completes team fibre listed kind idle reg small (switchResize_granted granted performed) (State.switched_team team) fibre
    refine ⟨s', w, x, run, teamAfter, alloc, fibreAfter, value, mem.trans (s.switched_mem t n keep), fun a => ?_⟩
    rw [scratch]
    exact sparseGet_cutScratch _ _ a

end Sys2Proof.Machine
end

section
/-! SUPPORT. Steps of the memories (`Machine/Cuttings.lean`, `Machine/Reduce.lean`; 08 R168, R171, R175 to R180, R184): what each makes of cuttings, probes, the directory, forwarded reductions, refresh windows and retention, and the obligation on them (O55). -/

namespace Sys2Proof.Machine

section Coherence

variable {s : State} {line die : Nat}

/-! ### The first entry of a list that a step takes -/

section First

variable {α : Type} {P : α → Prop} {q : α → Bool} {front back : List α} {a : α}

theorem find?_first (test : ∀ x, q x = true ↔ P x) (ha : P a) (hf : ∀ x ∈ front, ¬ P x) : (front ++ a :: back).find? q = some a :=
  find?_append_cons ((test a).mpr ha) fun x hx => Bool.eq_false_iff.mpr fun e => hf x hx ((test x).mp e)

theorem find?_never {l : List α} (test : ∀ x, q x = true ↔ P x) (never : ∀ x ∈ l, ¬ P x) : l.find? q = none :=
  List.find?_eq_none.mpr fun x hx e => never x hx ((test x).mp e)

theorem erase_first [DecidableEq α] (ha : P a) (hf : ∀ x ∈ front, ¬ P x) : (front ++ a :: back).erase a = front ++ back :=
  erase_append_cons fun h => hf a h ha

end First

/-- A count of a performance counter of a context is read back, since what it leaves is not 0. -/
theorem State.count_counted (s : State) (ctx entry : Nat) : Claims.Counted s (s.count ctx entry 1) ctx entry 1 := by
  intro c found
  unfold State.count
  rw [State.ctx?_updCtx (by intro; rfl), found]
  exact ⟨_, rfl, sparseGet_put_listed (by omega)⟩

/-! ### Collapse probes and their answers (08 R177, R178) -/

section Probe

variable {p : Probe} {front back : List Probe}

theorem probeOpen_iff (x : Probe) : (x.line == line && x.die == die && !x.answered) = true ↔ x.line = line ∧ x.die = die ∧ x.answered = false := by
  simp [and_assoc]

theorem probeAnswered_iff (x : Probe) : (x.line == line && x.die == die && x.answered) = true ↔ x.line = line ∧ x.die = die ∧ x.answered = true := by
  simp [and_assoc]

theorem execCollapseProbe_none (none : ∀ x ∈ s.coh.probes, ¬ (x.line = line ∧ x.die = die ∧ x.answered = false)) :
    execCollapseProbe line die s = .next s := by
  unfold execCollapseProbe
  rw [find?_never probeOpen_iff none]
  rfl

/-- The die's answer to a probe, its cutting of the line gone. -/
def State.answerProbe (s : State) (line die : Nat) (p : Probe) : State :=
  let u := s.dropCutting die line
  { u with coh := { u.coh with probes := s.coh.probes.erase p ++ [{ p with answered := true, clear := !u.holdsRegion die (regionOf line) }] } }

/-- A probe for a line that the die does not hold is counted as filtered. -/
def State.countFiltered (s : State) (line die : Nat) (p : Probe) : State :=
  if s.coh.cuttings.any (fun c => c.die == die && c.line == line) then s else s.count p.ctx 0x42 1

theorem State.countFiltered_home (s : State) (line die : Nat) (p : Probe) : HomeChanged s (s.countFiltered line die p) := by
  unfold State.countFiltered
  split
  · exact HomeChanged.refl s
  · exact HomeChanged.count s _ _ _

theorem State.countFiltered_coh (s : State) (line die : Nat) (p : Probe) : (s.countFiltered line die p).coh = s.coh := by
  unfold State.countFiltered
  split <;> rfl

theorem State.countFiltered_counted (p : Probe) (unheld : ∀ c ∈ s.coh.cuttings, ¬ (c.die = die ∧ c.line = line)) :
    Claims.Counted s (s.countFiltered line die p) p.ctx 0x42 1 := by
  have counted : s.countFiltered line die p = s.count p.ctx 0x42 1 := if_neg (by simpa using unheld)
  rw [counted]
  exact State.count_counted s p.ctx 0x42

theorem execCollapseProbe_found (found : s.coh.probes.find? (fun x => x.line == line && x.die == die && !x.answered) = some p) :
    execCollapseProbe line die s = .next ((s.countFiltered line die p).answerProbe line die p) := by
  unfold execCollapseProbe
  rw [found]
  rfl

/-- A die holds no line of a region: no cutting of it, and no fill that a probe has not overtaken. -/
theorem State.holdsRegion_eq_false (s : State) (die region : Nat) :
    s.holdsRegion die region = false ↔ (∀ c ∈ s.coh.cuttings, c.die = die → regionOf c.line ≠ region) ∧
      ∀ x ∈ s.coh.fills, x.die = die → regionOf x.line = region → x.stale = true := by
  unfold State.holdsRegion
  simp

theorem mem_dropCutting (s : State) (die line : Nat) (c : Cutting) :
    c ∈ (s.dropCutting die line).coh.cuttings ↔ c ∈ s.coh.cuttings ∧ ¬ (c.die = die ∧ c.line = line) := by
  simp [State.dropCutting, imp_iff_not_or]

theorem collapseProbe_clause (split : s.coh.probes = front ++ p :: back) (hp : p.line = line ∧ p.die = die ∧ p.answered = false)
    (first : ∀ x ∈ front, ¬ (x.line = line ∧ x.die = die ∧ x.answered = false)) :
    ∃ t q, execCollapseProbe line die s = .next t ∧ t.mem = s.mem ∧ t.teams = s.teams ∧
      (∀ c, c ∈ t.coh.cuttings ↔ c ∈ s.coh.cuttings ∧ ¬ (c.die = die ∧ c.line = line)) ∧ t.coh.probes = front ++ back ++ [q] ∧
      q.line = line ∧ q.die = die ∧ q.answered = true ∧ q.writer = p.writer ∧
      (q.clear = true ↔ (∀ c ∈ t.coh.cuttings, c.die = die → regionOf c.line ≠ regionOf line) ∧
        ∀ x ∈ s.coh.fills, x.die = die → regionOf x.line = regionOf line → x.stale = true) ∧
      ((∀ c ∈ s.coh.cuttings, ¬ (c.die = die ∧ c.line = line)) → Claims.Counted s t p.ctx 0x42 1) := by
  obtain ⟨hline, hdie, -⟩ := id hp
  have coh := s.countFiltered_coh line die p
  have home := s.countFiltered_home line die p
  have found : s.coh.probes.find? (fun x => x.line == line && x.die == die && !x.answered) = some p := by
    rw [split]
    exact find?_first probeOpen_iff hp first
  have erased : (s.countFiltered line die p).coh.probes.erase p = front ++ back := by
    rw [coh, split]
    exact erase_first hp first
  refine ⟨_, _, execCollapseProbe_found found, home.mem, home.teams, fun c => ?_, congrArg (· ++ [_]) erased, hline, hdie, rfl, rfl, ?_,
    State.countFiltered_counted p⟩
  · rw [← coh]
    exact mem_dropCutting _ die line c
  · have fills : ((s.countFiltered line die p).dropCutting die line).coh.fills = s.coh.fills := (congrArg Coherence.fills coh :)
    dsimp only
    rw [Bool.not_eq_true', State.holdsRegion_eq_false, fills]
    rfl

theorem execCollapseAnswer_none (none : ∀ x ∈ s.coh.probes, ¬ (x.line = line ∧ x.die = die ∧ x.answered = true)) :
    execCollapseAnswer line die s = .next s := by
  unfold execCollapseAnswer
  rw [find?_never probeAnswered_iff none]
  rfl

/-- No tag waits for the collapses of its write, so none is set. -/
theorem State.releaseFills_of_nil (none : s.os.fills = []) : s.releaseFills = s := by
  have same : ∀ q, ({ s.os with fills := s.os.fills.filter q } : Oseus) = s.os := fun q => by rw [none, List.filter_nil, ← none]
  unfold State.releaseFills State.updOs
  rw [none]
  exact congrArg (fun o => ({ s with os := o } : State)) (same _)

/-- The region with the holder bit of a die cleared. -/
def Region.unheld (g : Region) (die : Nat) : Region := { g with holders := g.holders &&& ~~~ BitVec.twoPow 8 die }

theorem State.region_idx (s : State) (i : Nat) : (s.region i).idx = i := by
  unfold State.region
  cases found : s.coh.regions.find? (fun r => r.idx == i) with
  | none => rfl
  | some r => simpa using List.find?_some found

theorem State.region_putRegion {i : Nat} {g : Region} (idx : g.idx = i) : (s.putRegion g).region i = g := by
  unfold State.region State.putRegion
  simp [idx]

/-- The answer takes the probe away, and the holder bit where the die holds nothing of the region any more. -/
theorem execCollapseAnswer_found (found : s.coh.probes.find? (fun x => x.line == line && x.die == die && x.answered) = some p)
    (none : s.os.fills = []) :
    execCollapseAnswer line die s = .next
      (let u := { s with coh := { s.coh with probes := s.coh.probes.erase p } }
       if p.clear && !s.holdsRegion die (regionOf line) then u.putRegion ((s.region (regionOf line)).unheld die) else u) := by
  unfold execCollapseAnswer
  rw [found]
  refine congrArg device (State.releaseFills_of_nil ?_)
  split <;> exact none

theorem collapseAnswer_clause (split : s.coh.probes = front ++ p :: back) (hp : p.line = line ∧ p.die = die ∧ p.answered = true)
    (small : die < 8) (none : s.os.fills = []) (first : ∀ x ∈ front, ¬ (x.line = line ∧ x.die = die ∧ x.answered = true)) :
    ∃ t, execCollapseAnswer line die s = .next t ∧ t.mem = s.mem ∧ t.coh.probes = front ++ back ∧ t.coh.cuttings = s.coh.cuttings ∧
      let gone := p.clear = true ∧ s.holdsRegion die (regionOf line) = false
      (gone → (t.region (regionOf line)).holders.getLsbD die = false ∧
        ∀ k, k < 8 → k ≠ die → (t.region (regionOf line)).holders.getLsbD k = (s.region (regionOf line)).holders.getLsbD k) ∧
      (¬ gone → t.coh.regions = s.coh.regions) := by
  have found : s.coh.probes.find? (fun x => x.line == line && x.die == die && x.answered) = some p := by
    rw [split]
    exact find?_first probeAnswered_iff hp first
  have erased : s.coh.probes.erase p = front ++ back := by
    rw [split]
    exact erase_first hp first
  refine ⟨_, execCollapseAnswer_found found none, ?_⟩
  by_cases gone : p.clear = true ∧ s.holdsRegion die (regionOf line) = false
  · obtain ⟨clear, away⟩ := id gone
    have region : ({ s with coh := { s.coh with probes := s.coh.probes.erase p } }.putRegion ((s.region (regionOf line)).unheld die)).region
        (regionOf line) = (s.region (regionOf line)).unheld die := State.region_putRegion (s.region_idx _)
    have cleared : (p.clear && !s.holdsRegion die (regionOf line)) = true := by
      simp [clear, away]
    rw [if_pos cleared]
    refine ⟨rfl, erased, rfl, fun _ => ?_, fun h => absurd gone h⟩
    rw [region]
    refine ⟨?_, fun k hk other => ?_⟩
    · simp [Region.unheld, small]
    · simpa [Region.unheld, hk] using fun _ => other
  · have kept : (p.clear && !s.holdsRegion die (regionOf line)) = false := by
      simpa using gone
    rw [if_neg (Bool.eq_false_iff.mp kept)]
    exact ⟨rfl, erased, rfl, fun h => absurd h gone, fun _ => rfl⟩

end Probe

/-! ### Cutting fills (08 R175, R178) -/

section Fill

variable {f : Fill} {front back : List Fill}

theorem fillTo_iff (x : Fill) : (x.line == line && x.die == die) = true ↔ x.line = line ∧ x.die = die := by
  simp

theorem execCuttingFill_none (none : ∀ x ∈ s.coh.fills, ¬ (x.line = line ∧ x.die = die)) : execCuttingFill line die s = .next s := by
  unfold execCuttingFill
  rw [find?_never fillTo_iff none]
  rfl

/-- Holders that are one too many get probes, and nothing else of the shared caches changes. -/
theorem State.collapseExcess_coh (s : State) (region : Nat) (w : Writer) (ctx : Nat) :
    ∃ ps, (excessHolders (s.region region) = [] → ps = []) ∧ (s.collapseExcess region w ctx).coh = { s.coh with probes := s.coh.probes ++ ps } :=
  ⟨_, fun none => by rw [none]; rfl, rfl⟩

/-- The state once a fill is no longer in flight. -/
def State.tookFill (s : State) (f : Fill) : State := { s with coh := { s.coh with fills := s.coh.fills.erase f } }

/-- The line of a fill as a cutting of its die, in place of the line that gives way to it. -/
def State.install (s : State) (line die : Nat) (f : Fill) : State :=
  let u := s.dropCutting die line
  let room := u.roomFor die line f.part f.policy f.ctx
  let c := u.coh.without die room.2
  { u with coh := { c with cuttings := ⟨die, line, f.data, f.part, room.1, f.policy⟩ :: c.cuttings } }

/-- The state once a fill has landed: a stale one installs nothing. -/
def State.landFill (s : State) (line die : Nat) (f : Fill) : State := if f.stale then s.tookFill f else (s.tookFill f).install line die f

theorem State.landFill_kept (s : State) (line die : Nat) (f : Fill) :
    (s.landFill line die f).mem = s.mem ∧ (s.landFill line die f).coh.fills = s.coh.fills.erase f ∧
      (s.landFill line die f).coh.probes = s.coh.probes ∧ (s.landFill line die f).coh.regions = s.coh.regions := by
  unfold State.landFill
  split <;> exact ⟨rfl, rfl, rfl, rfl⟩

theorem execCuttingFill_found (found : s.coh.fills.find? (fun x => x.line == line && x.die == die) = some f) :
    execCuttingFill line die s = .next
      ((s.landFill line die f).collapseExcess (regionOf line) .other ((s.landFill line die f).region (regionOf line)).ctx) := by
  unfold execCuttingFill
  rw [found]
  rfl

/-- After the installation no other cutting of the line stands on the die. -/
theorem State.install_only (s : State) (f : Fill) : ∀ c ∈ (s.install line die f).coh.cuttings, c.die = die → c.line = line → c.data = f.data := by
  intro c hc hdie hline
  rcases List.mem_cons.mp hc with rfl | older
  · rfl
  · have dropped := (mem_dropCutting s die line c).mp (List.mem_filter.mp older).1
    exact absurd ⟨hdie, hline⟩ dropped.2

theorem cuttingFill_clause (split : s.coh.fills = front ++ f :: back) (hf : f.line = line ∧ f.die = die)
    (first : ∀ x ∈ front, ¬ (x.line = line ∧ x.die = die)) :
    ∃ t, execCuttingFill line die s = .next t ∧ t.mem = s.mem ∧ t.coh.fills = front ++ back ∧
      (excessHolders (s.region (regionOf line)) = [] → t.coh.probes = s.coh.probes) ∧ (∀ p ∈ s.coh.probes, p ∈ t.coh.probes) ∧
      (f.stale = true → t.coh.cuttings = s.coh.cuttings) ∧
      (f.stale = false → (∃ w, ⟨die, line, f.data, f.part, w, f.policy⟩ ∈ t.coh.cuttings) ∧
        ∀ c ∈ t.coh.cuttings, c.die = die → c.line = line → c.data = f.data) := by
  have found : s.coh.fills.find? (fun x => x.line == line && x.die == die) = some f := by
    rw [split]
    exact find?_first fillTo_iff hf first
  have erased : s.coh.fills.erase f = front ++ back := by
    rw [split]
    exact erase_first hf first
  obtain ⟨mem, fills, probes, regions⟩ := s.landFill_kept line die f
  obtain ⟨ps, none, coh⟩ := (s.landFill line die f).collapseExcess_coh (regionOf line) .other ((s.landFill line die f).region (regionOf line)).ctx
  have region : (s.landFill line die f).region (regionOf line) = s.region (regionOf line) := by
    unfold State.region
    rw [regions]
  refine ⟨_, execCuttingFill_found found, (State.collapseExcess_mem ..).trans mem, ?_⟩
  rw [coh]
  refine ⟨fills.trans erased, fun few => ?_, fun p hp => List.mem_append_left _ (probes ▸ hp), fun stale => ?_, fun fresh => ?_⟩
  · dsimp only
    rw [none (region ▸ few), List.append_nil, probes]
  · have taken : s.landFill line die f = s.tookFill f := if_pos stale
    rw [taken]
    rfl
  · have installed : s.landFill line die f = (s.tookFill f).install line die f := if_neg (Bool.eq_false_iff.mp fresh)
    rw [installed]
    exact ⟨⟨_, List.mem_cons_self⟩, State.install_only (s.tookFill f) f⟩

end Fill

/-! ### Directory windows (08 R176) -/

theorem execRegionWindowEnd_early (early : fclkOf s.aclk < s.coh.windowEnd + 65536) : execRegionWindowEnd s = .next s :=
  congrArg device (if_pos early)

theorem execRegionWindowEnd_due (due : s.coh.windowEnd + 65536 ≤ fclkOf s.aclk) :
    ∃ t, execRegionWindowEnd s = .next t ∧ t.mem = s.mem ∧ t.coh.windowEnd = fclkOf s.aclk / 65536 * 65536 ∧
      t.coh.regions = s.coh.regions.map Region.endWindow := by
  have counts : ∀ l : List (Region × Region), HomeChanged s (l.foldl (fun s p => if p.1.degree = p.2.degree then s else s.count p.2.ctx 0x43 1) s) := fun l =>
    HomeChanged.foldl (fun s p => by
      split
      · exact HomeChanged.refl s
      · exact HomeChanged.count s _ _ _) l s
  refine ⟨_, congrArg device (if_neg (Nat.not_lt.mpr due)), (counts _).mem, rfl, ?_⟩
  exact List.map_map

theorem regionWindowEnd_clause (s : State) :
    (fclkOf s.aclk < s.coh.windowEnd + 65536 → execRegionWindowEnd s = .next s) ∧
    (s.coh.windowEnd + 65536 ≤ fclkOf s.aclk → ∃ t, execRegionWindowEnd s = .next t ∧ t.mem = s.mem ∧ t.coh.windowEnd % 65536 = 0 ∧
      t.coh.windowEnd ≤ fclkOf s.aclk ∧ fclkOf s.aclk < t.coh.windowEnd + 65536 ∧ t.coh.regions = s.coh.regions.map Region.endWindow) := by
  refine ⟨execRegionWindowEnd_early, fun due => ?_⟩
  obtain ⟨t, run, mem, window, regions⟩ := execRegionWindowEnd_due due
  refine ⟨t, run, mem, ?_, ?_, ?_, regions⟩ <;> rw [window] <;> omega

theorem Region.endWindow_clause (g : Region) :
    g.endWindow.reads = 0 ∧ g.endWindow.writes = 0 ∧ g.endWindow.readers = 0 ∧ g.endWindow.holders = g.holders ∧
      (g.pinned = false → g.writes = 0 → 2 ≤ maskCount g.readers → 16 ≤ g.reads → g.degree < 4 → g.endWindow.degree = g.degree + 1) ∧
      (g.pinned = true ∨ g.writes ≠ 0 ∨ maskCount g.readers < 2 ∨ g.reads < 16 ∨ 4 ≤ g.degree → g.endWindow.degree = g.degree) := by
  refine ⟨rfl, rfl, rfl, rfl, fun free unwritten read often low => ?_, fun held => ?_⟩
  · simp [Region.endWindow, free, unwritten, read, often, low]
  · refine if_neg fun up => ?_
    simp only [Bool.and_eq_true, Bool.not_eq_true', beq_iff_eq, decide_eq_true_eq] at up
    obtain ⟨⟨⟨⟨free, unwritten⟩, read⟩, often⟩, low⟩ := up
    rcases held with pinned | written | few | rare | top
    · rw [free] at pinned
      cases pinned
    · exact written unwritten
    · omega
    · omega
    · omega

/-! ### Forwarded reductions (08 R179, R180, R184) -/

section Redf

variable {p : PendingRedf} {front back : List PendingRedf}

/-- The line of a forwarded reduction is owned by an engine. -/
def RedfWaits (s : State) (p : PendingRedf) : Prop := ∃ o ∈ s.owned, o.1 = lineOf p.m.pa

theorem redfReady_iff (s : State) (x : PendingRedf) : (!s.owned.any (fun o => o.1 == lineOf x.m.pa)) = true ↔ ¬ RedfWaits s x := by
  rw [Bool.not_eq_true', ← Bool.not_eq_true, List.any_eq_true]
  simp only [RedfWaits, beq_iff_eq]

theorem execRedfPerform_none (owned : ∀ x ∈ s.coh.redfs, RedfWaits s x) : execRedfPerform s = .next s := by
  unfold execRedfPerform
  rw [find?_never (redfReady_iff s) fun x hx ready => ready (owned x hx)]
  rfl

theorem execRedfPerform_first (split : s.coh.redfs = front ++ p :: back) (waiting : ∀ x ∈ front, RedfWaits s x) (free : ¬ RedfWaits s p) :
    execRedfPerform s = .next (State.combineAt { s with coh := { s.coh with redfs := front ++ back } } p.m p.ftype p.op p.v.toNat .stack p.ctx) := by
  have first : ∀ x ∈ front, ¬ ¬ RedfWaits s x := fun x hx ready => ready (waiting x hx)
  have erased : s.coh.redfs.erase p = front ++ back := by
    rw [split]
    exact erase_first (P := fun x => ¬ RedfWaits s x) free first
  have found : s.coh.redfs.find? (fun x => !s.owned.any (fun o => o.1 == lineOf x.m.pa)) = some p := by
    rw [split]
    exact find?_first (redfReady_iff s) free first
  unfold execRedfPerform
  rw [found, ← erased]
  rfl

/-! The forwarded reductions stand as they are while a word is changed at its home. -/

theorem foldl_redfs {α : Type} {g : State → α → State} (hg : ∀ s a, (g s a).coh.redfs = s.coh.redfs) (l : List α) (s : State) :
    (l.foldl g s).coh.redfs = s.coh.redfs :=
  List.foldlRecOn (motive := fun u => u.coh.redfs = s.coh.redfs) l g rfl fun u hu a _ => (hg u a).trans hu

theorem State.keepHome_redfs (s : State) (m : MemLoc) (line : Nat) (ws : List Nat) (write : Bool) (ctx : Nat) :
    (s.keepHome m line ws write ctx).coh.redfs = s.coh.redfs := by
  obtain ⟨_, _, -, eq⟩ := s.keepHome_slices m line ws write ctx
  rw [eq]

theorem State.collapseNow_redfs (s : State) (line ctx : Nat) : (s.collapseNow line ctx).coh.redfs = s.coh.redfs := by
  have counted := foldl_count_coh ((s.coh.probes.filter (fun p => p.line == line && !p.answered)).filter (fun p => !s.holdsLine p.die line)) s
  have same : _ = s.coh.redfs := congrArg Coherence.redfs counted
  exact same

theorem State.directoryWrite_redfs (s : State) (line : Nat) (w : Writer) (atomic : Bool) (ctx : Nat) :
    (s.directoryWrite line w atomic ctx).coh.redfs = s.coh.redfs := by
  have put : ∀ (b c : Bool) (g : Region), (if b then (if c then s.count ctx 0x43 1 else s).putRegion g else if c then s.count ctx 0x43 1 else s).coh.redfs = s.coh.redfs := by
    intro b c g
    cases b <;> cases c <;> rfl
  exact put _ _ _

theorem State.modifyHome_redfs (s : State) (m : MemLoc) (bytes : List (Option Byte)) (w : Writer) (ctx : Nat) :
    (s.modifyHome m bytes w ctx none).coh.redfs = s.coh.redfs := by
  refine (foldl_redfs (fun u l => u.directoryWrite_redfs l w true ctx) (linesOf (wordsTouched m.pa bytes)) _).trans ?_
  exact foldl_redfs (g := fun u l => ((u.recallLine l).collapseNow l ctx).keepHome m l (wordsTouched m.pa bytes) true ctx)
    (fun u l => (State.keepHome_redfs _ m l _ true ctx).trans ((State.collapseNow_redfs _ l ctx).trans rfl)) _ s

theorem redfPerform_poisoned (split : s.coh.redfs = front ++ p :: back) (waiting : ∀ x ∈ front, RedfWaits s x) (free : ¬ RedfWaits s p)
    (poisoned : wordOf p.m.pa ∈ s.mem.poison) :
    ∃ t, execRedfPerform s = .next t ∧ t.mem = s.mem ∧ t.coh.redfs = front ++ back ∧ Claims.OneMore s.life t 4 (8 * homeDie (lineOf p.m.pa) + 1) := by
  refine ⟨State.poisonUsed { s with coh := { s.coh with redfs := front ++ back } } (homeDie (lineOf p.m.pa)), ?_, rfl, rfl, State.lifeCount_oneMore _ _ _⟩
  rw [execRedfPerform_first split waiting free]
  exact congrArg Host.Outcome.next (if_pos (List.contains_iff_mem.mpr poisoned))

/-- Any number of bytes read back as the number that was written. -/
theorem valueAt_of_bytesWritten {t : State} {pa n v : Nat} (wf : s.mem.wf = true) (h : t.mem = s.mem.write pa ((bytesOfNat n v).map some)) :
    Claims.valueAt t pa n = v % 2 ^ (8 * n) := by
  have written := sparseBytes_written (bs := bytesOfNat n v) (pa := pa) wf
  rw [bytesOfNat_length] at written
  unfold Claims.valueAt
  rw [h, written, natOfBytes_bytesOfNat]

/-- A number of `n` bytes put at its home reads back there, and no other byte and no tag changes. -/
theorem State.modifyHome_number (s : State) (m : MemLoc) (n v : Nat) (w : Writer) (ctx : Nat) (wf : s.mem.wf = true) :
    Claims.valueAt (s.modifyHome m ((bytesOfNat n v).map some) w ctx none) m.pa n = v % 2 ^ (8 * n) ∧
      (s.modifyHome m ((bytesOfNat n v).map some) w ctx none).mem.full = s.mem.full ∧
      ∀ a, a < m.pa ∨ m.pa + n ≤ a →
        sparseGet 0 (s.modifyHome m ((bytesOfNat n v).map some) w ctx none).mem.cells a = sparseGet 0 s.mem.cells a := by
  have mem := (s.modifyHome_outside m ((bytesOfNat n v).map some) w ctx).mem
  refine ⟨valueAt_of_bytesWritten wf mem, by rw [mem]; rfl, fun a apart => ?_⟩
  rw [mem]
  exact Memory.write_other (by rwa [bytesOfNat_length])

/-- 08 Table 8.4: the sum of type i32. -/
theorem State.combineAt_sum (s : State) (m : MemLoc) (v : Nat) (w : Writer) (ctx : Nat) (clean : wordOf m.pa ∉ s.mem.poison) :
    s.combineAt m 0 0 v w ctx = s.modifyHome m ((bytesOfNat 4 ((Claims.valueAt s m.pa 4 + v) % 2 ^ 32)).map some) w ctx none :=
  if_neg fun h => clean (List.contains_iff_mem.mp h)

theorem redfPerform_sum (split : s.coh.redfs = front ++ p :: back) (waiting : ∀ x ∈ front, RedfWaits s x) (free : ¬ RedfWaits s p)
    (clean : wordOf p.m.pa ∉ s.mem.poison) (i32 : p.ftype = 0) (add : p.op = 0) (wf : s.mem.wf = true) :
    ∃ t, execRedfPerform s = .next t ∧ t.coh.redfs = front ++ back ∧
      Claims.valueAt t p.m.pa 4 = (Claims.valueAt s p.m.pa 4 + p.v.toNat) % 2 ^ 32 ∧ t.mem.full = s.mem.full ∧
      ∀ a, a < p.m.pa ∨ p.m.pa + 4 ≤ a → sparseGet 0 t.mem.cells a = sparseGet 0 s.mem.cells a := by
  have run := execRedfPerform_first split waiting free
  rw [i32, add, State.combineAt_sum _ _ _ _ _ (by exact clean)] at run
  obtain ⟨value, full, others⟩ := State.modifyHome_number { s with coh := { s.coh with redfs := front ++ back } } p.m 4
    ((Claims.valueAt s p.m.pa 4 + p.v.toNat) % 2 ^ 32) .stack p.ctx wf
  exact ⟨_, run, State.modifyHome_redfs _ _ _ _ _, value.trans (Nat.mod_mod _ _), full, others⟩

end Redf

/-! ### Refresh windows of the weight store (08 R171) -/

theorem execWeightStoreRefreshStart_open {g : Nat} (inside : s.aclk % 14400 < 3240) (group : g = s.aclk % 115200 / 14400) :
    ((∃ p ∈ s.coh.refreshing, p.1 = g) → execWeightStoreRefreshStart s = .next s) ∧
    ((∀ p ∈ s.coh.refreshing, p.1 ≠ g) → execWeightStoreRefreshStart s =
      .next { s with coh := { s.coh with refreshing := s.coh.refreshing ++ [(g, s.aclk / 14400 * 14400)] } }) := by
  have here : refreshGroup s.aclk = some g := by rw [group]; exact if_pos inside
  unfold execWeightStoreRefreshStart
  rw [here]
  refine ⟨fun ⟨p, hp, same⟩ => congrArg device (if_pos ?_), fun other => congrArg device (if_neg ?_)⟩
  · exact List.any_eq_true.mpr ⟨p, hp, beq_iff_eq.mpr same⟩
  · rw [List.any_eq_true]
    exact fun ⟨x, hx, same⟩ => other x hx (beq_iff_eq.mp same)

theorem execWeightStoreRefreshStart_closed (outside : 3240 ≤ s.aclk % 14400) : execWeightStoreRefreshStart s = .next s := by
  have none : refreshGroup s.aclk = none := if_neg (Nat.not_lt.mpr outside)
  unfold execWeightStoreRefreshStart
  rw [none]
  rfl

theorem refreshEnded_iff (s : State) (x : Nat × Nat) : decide (x.2 + 3240 ≤ s.aclk) = true ↔ x.2 + 3240 ≤ s.aclk := decide_eq_true_iff

theorem execWeightStoreRefreshEnd_none (all : ∀ p ∈ s.coh.refreshing, s.aclk < p.2 + 3240) : execWeightStoreRefreshEnd s = .next s := by
  unfold execWeightStoreRefreshEnd
  rw [find?_never (refreshEnded_iff s) fun x hx => Nat.not_le.mpr (all x hx)]
  rfl

theorem weightStoreRefreshEnd_clause {p : Nat × Nat} {front back : List (Nat × Nat)} (split : s.coh.refreshing = front ++ p :: back)
    (first : ∀ x ∈ front, s.aclk < x.2 + 3240) (ended : p.2 + 3240 ≤ s.aclk) :
    ∃ t, execWeightStoreRefreshEnd s = .next t ∧ t.mem = s.mem ∧ t.teams = s.teams ∧
      ∀ x, x ∈ t.coh.refreshing ↔ x ∈ s.coh.refreshing ∧ x ≠ p := by
  have found : s.coh.refreshing.find? (fun p => decide (p.2 + 3240 ≤ s.aclk)) = some p := by
    rw [split]
    exact find?_first (refreshEnded_iff s) ended fun x hx => Nat.not_le.mpr (first x hx)
  refine ⟨{ s with coh := { s.coh with refreshing := s.coh.refreshing.filter (fun x => x != p) } }, ?_, rfl, rfl, fun x => ?_⟩
  · unfold execWeightStoreRefreshEnd
    rw [found]
    rfl
  · exact List.mem_filter.trans (and_congr_right fun _ => bne_iff_ne)

/-! ### Retention (08 R168) -/

theorem mem_pairs {m n a b : Nat} : (a, b) ∈ (List.range m).flatMap (fun d => (List.range n).map (fun g => (d, g))) ↔ a < m ∧ b < n := by
  simp

theorem not_mem_usedWays {w : Nat} (small : w < 16) : w ∉ s.usedWays ↔ ∀ c ∈ s.ctxs, ∀ m ∈ c.partMask, m.testBit w = false := by
  simp [State.usedWays, small]

theorem execRetentionEntry_clause (s : State) :
    ∃ t, execRetentionEntry s = .next t ∧ t.mem = s.mem ∧ t.teams = s.teams ∧
      (∀ c, c ∈ t.coh.cuttings ↔ c ∈ s.coh.cuttings ∧ c.way ∈ s.usedWays) ∧ (∀ h, h ∈ t.coh.slices ↔ h ∈ s.coh.slices ∧ h.way ∈ s.usedWays) ∧
      (∀ d g, (d, g) ∈ t.coh.retainedGroups ↔ d < 4 ∧ g < 8 ∧ (d, g) ∉ s.mappedGroups) ∧
      ∀ d w, (d, w) ∈ t.coh.retainedWays ↔ d < 8 ∧ w < 16 ∧ ∀ c ∈ s.ctxs, ∀ m ∈ c.partMask, m.testBit w = false := by
  refine ⟨_, rfl, rfl, rfl, fun c => ?_, fun h => ?_, fun d g => ?_, fun d w => ?_⟩
  · exact List.mem_filter.trans (and_congr_right fun _ => List.contains_iff_mem)
  · exact List.mem_filter.trans (and_congr_right fun _ => List.contains_iff_mem)
  · rw [List.mem_filter, mem_pairs, and_assoc]
    simp
  · rw [List.mem_filter, mem_pairs, and_assoc]
    refine and_congr_right fun _ => and_congr_right fun small => ?_
    rw [← not_mem_usedWays small]
    simp

end Coherence

/-- Settles O55, from what each of the memories' own steps does. -/
theorem coherenceResult : Obligations.CoherenceResult := by
  intro s line die
  refine ⟨execCollapseProbe_none, fun p front back split hline hdie open_ first => collapseProbe_clause split ⟨hline, hdie, open_⟩ first,
    execCollapseAnswer_none, fun p front back split hline hdie done small none first => collapseAnswer_clause split ⟨hline, hdie, done⟩ small none first,
    fun f front back split hline hdie first => cuttingFill_clause split ⟨hline, hdie⟩ first, execCuttingFill_none,
    regionWindowEnd_clause s, Region.endWindow_clause, execRedfPerform_none, fun p front back split waiting free => ?_,
    fun g => execWeightStoreRefreshStart_open, execWeightStoreRefreshStart_closed, execWeightStoreRefreshEnd_none,
    fun p front back => weightStoreRefreshEnd_clause, execRetentionEntry_clause s⟩
  have ready : ¬ RedfWaits s p := fun ⟨o, ho, same⟩ => free o ho same
  exact ⟨redfPerform_poisoned split waiting ready, redfPerform_sum split waiting ready⟩

end Sys2Proof.Machine
end

section
/-! SUPPORT. The store queue as it performs (`Machine/Home.lean`, `Machine/Atomics.lean`; 08 R173, R184, 09 R191, 17 R346, R350): what writes from a die change at their home, the head of a queue that leaves it, and the obligation on plain, masked and nibble stores (O22). -/

namespace Sys2Proof.Machine

/-! ### Writes of any origin -/

section Origins

variable (s : State) (m : MemLoc) (bytes : List (Option Byte)) (w : Writer) (ctx : Nat)

theorem State.dropCutting_home (die line : Nat) : HomeChanged s (s.dropCutting die line) := HomeChanged.of_coh s _ rfl

theorem State.refreshL1_home (c : CoreId) (line : Nat) (ws : List Nat) : HomeChanged s (s.refreshL1 c line ws) := HomeChanged.of_coh s _ rfl

theorem State.ownCopy_home (c : CoreId) (line : Nat) (ws : List Nat) : HomeChanged s (s.ownCopy c line ws) := by
  unfold State.ownCopy
  split
  · exact HomeChanged.of_coh s _ rfl
  · exact HomeChanged.of_coh s _ rfl

/-- A write of any origin stores its bytes; but for them only the shared caches, the cores' own copies and counters change. -/
theorem State.writeHome_home (o : Origin) : HomeChanged { s with mem := s.mem.write m.pa bytes } (s.writeHome m bytes w ctx o) := by
  have dropped : ∀ d, HomeChanged (s.recall (wordsTouched m.pa bytes))
      ((linesOf (wordsTouched m.pa bytes)).foldl (fun (s : State) l => s.dropCutting d l) (s.recall (wordsTouched m.pa bytes))) := fun d =>
    HomeChanged.foldl (fun s l => s.dropCutting_home d l) _ _
  have written : ∀ u : State, HomeChanged s u → HomeChanged { s with mem := s.mem.write m.pa bytes } ((linesOf (wordsTouched m.pa bytes)).foldl (fun s l =>
      ((s.keepHome m l (wordsTouched m.pa bytes) true ctx).sendProbes l w ctx).directoryWrite l w false ctx) { u with mem := u.mem.write m.pa bytes }) := fun u h => by
    rw [h.mem]
    exact (HomeChanged.withMem (mem := s.mem) h _).trans (HomeChanged.foldl (fun s l =>
      ((s.keepHome_home m l _ true ctx).trans (State.sendProbes_home _ l w ctx)).trans (State.directoryWrite_home _ l w false ctx)) _ _)
  have copied : ∀ (c : CoreId) (u : State), HomeChanged u
      ((linesOf (wordsTouched m.pa bytes)).foldl (fun s l => s.ownCopy c l ((wordsTouched m.pa bytes).filter (fun x => x / 16 == l))) u) := fun c u =>
    HomeChanged.foldl (fun s l => s.ownCopy_home c l _) _ u
  obtain ⟨core, die⟩ := o
  cases core <;> cases die
  case none.none => exact written _ (s.recall_home _)
  case none.some d => exact written _ ((s.recall_home _).trans (dropped d))
  case some.none c => exact (written _ (s.recall_home _)).trans (copied c _)
  case some.some c d => exact (written _ ((s.recall_home _).trans (dropped d))).trans (copied c _)

/-- The same of a word that a core or a near core changes at its home. -/
theorem State.modifyHome_home (core : Option CoreId) :
    HomeChanged { s with mem := s.mem.write m.pa bytes } (s.modifyHome m bytes w ctx core) := by
  cases core with
  | none => exact s.modifyHome_outside m bytes w ctx
  | some c => exact (s.modifyHome_outside m bytes w ctx).trans (HomeChanged.foldl (fun s l => s.refreshL1_home c l _) _ _)

end Origins

/-! ### Bytes of a masked write -/

/-- Inside the range, a byte that the mask names reads as stored and the others as before. -/
theorem sparseGet_masked {cells : List Host.Cell} {a i : Nat} {bs : List (Option Byte)} (wf : sparseWf 0 cells = true) (h : i < bs.length) :
    sparseGet 0 (sparseWrite cells a bs) (a + i) = (bs.getD i none).getD (sparseGet 0 cells (a + i)) := by
  rw [List.getD_eq_getElem _ _ h]
  exact sparseGet_write_inside wf h

/-! ### The head of a store queue (09 R191) -/

/-- The operation at place `seq` of the program order has left the fibre's queue, and the fences before it are met. -/
def Fibre.dequeued (rest : List StoreOp) (seq : Nat) (x : Fibre) : Fibre := { x with sq := rest, fences := x.fences.filter (fun p => seq < p.1) }

section Performed

variable {s s' : State} {r : FibreRef} {t : Team} {f : Fibre} {op : StoreOp} {rest : List StoreOp}

theorem exec_storePerform (team : s.team? r.team = some t) (fibre : t.fibre? r.fibre = some f) (queue : f.sq = op :: rest)
    (ready : storeReady s r t f op = true) : exec (.storePerform r.team r.fibre) s =
      .next (performStore r t { f with sq := rest } op (s.updFibre r (Fibre.dequeued rest op.seq))) := by
  change execStorePerform r.team r.fibre s = _
  unfold execStorePerform
  rw [team]
  dsimp only
  rw [fibre]
  dsimp only
  rw [queue]
  exact congrArg device (if_pos ready)

theorem State.team?_updFibre (g : Fibre → Fibre) (team : s.team? r.team = some t) :
    (s.updFibre r g).team? r.team = some (t.updFibre r.fibre g) :=
  (State.team?_updTeam s r.team (fun t => t.updFibre r.fibre g) fun _ => rfl).trans (congrArg _ team)

theorem HomeChanged.fibre? (h : HomeChanged s s') (r : FibreRef) : s'.fibre? r = s.fibre? r := by
  unfold State.fibre? State.team?
  rw [h.teams]

/-- After a write at the home on behalf of a fibre whose queue has lost its head, the fibre has the rest of it. -/
theorem HomeChanged.queue_of_dequeued {mem : Memory} {seq : Nat} (h : HomeChanged { s.updFibre r (Fibre.dequeued rest seq) with mem := mem } s')
    (fibre : s.fibre? r = some f) : ∃ x, s'.fibre? r = some x ∧ x.sq = rest := by
  refine ⟨f.dequeued rest seq, ?_, rfl⟩
  calc s'.fibre? r = (s.updFibre r (Fibre.dequeued rest seq)).fibre? r := h.fibre? r
    _ = (s.fibre? r).map (Fibre.dequeued rest seq) := s.fibre?_updFibre r _ fun _ => rfl
    _ = some (f.dequeued rest seq) := by rw [fibre]; rfl

end Performed

/-! ### Stores performed (17 R346, R350) -/

section Stores

variable {s : State} {r : FibreRef} {t : Team} {f : Fibre} {op : StoreOp} {rest : List StoreOp} {m : MemLoc} {off : Nat} {bs : List (Option Byte)}

theorem performStore_memory (kind : op.kind = .write (.mem m) bs) :
    HomeChanged { s with mem := s.mem.write m.pa bs } (performStore r t f op s) := by
  unfold performStore
  rw [kind]
  exact s.writeHome_home m bs _ _ _

theorem performStore_scratch (kind : op.kind = .write (.scr t.id off) bs) : performStore r t f op s = scratchWrite s t.id off bs := by
  unfold performStore
  rw [kind]
  rfl

theorem performStore_nibble {high : Bool} {v : BitVec 4} (kind : op.kind = .nibble (.mem m) high v) :
    HomeChanged { s with mem := s.mem.write m.pa [some (withNibble (sparseGet 0 s.mem.cells m.pa) high v)] } (performStore r t f op s) := by
  unfold performStore
  rw [kind]
  exact s.modifyHome_home m _ _ _ _

theorem scratchWrite_team? {i : Nat} (team : s.team? i = some t) :
    ∃ t', (scratchWrite s i off bs).team? i = some t' ∧ t'.scratch = sparseWrite t.scratch off bs := by
  unfold scratchWrite
  rw [State.team?_updTeam _ _ _ (by intro; rfl), team]
  exact ⟨_, rfl, rfl⟩

variable (team : s.team? r.team = some t) (fibre : t.fibre? r.fibre = some f) (queue : f.sq = op :: rest) (ready : storeReady s r t f op = true)
include team fibre queue ready

theorem storePerform_memory (wf : s.mem.wf = true) (kind : op.kind = .write (.mem m) bs) :
    ∃ s', exec (.storePerform r.team r.fibre) s = .next s' ∧ (∃ x, s'.fibre? r = some x ∧ x.sq = rest) ∧ s'.mem.full = s.mem.full ∧
      (∀ i, i < bs.length → sparseGet 0 s'.mem.cells (m.pa + i) = (bs.getD i none).getD (sparseGet 0 s.mem.cells (m.pa + i))) ∧
      (∀ a, a < m.pa ∨ m.pa + bs.length ≤ a → sparseGet 0 s'.mem.cells a = sparseGet 0 s.mem.cells a) := by
  have home := performStore_memory (s := s.updFibre r (Fibre.dequeued rest op.seq)) (r := r) (t := t) (f := { f with sq := rest }) kind
  have named : s.fibre? r = some f := by simp only [State.fibre?, team, fibre]
  obtain ⟨cells, -, -⟩ := Memory.wf_iff.mp wf
  refine ⟨_, exec_storePerform team fibre queue ready, home.queue_of_dequeued named, ?_, fun i inside => ?_, fun a outside => ?_⟩ <;> rw [home.mem]
  · rfl
  · exact sparseGet_masked cells inside
  · exact sparseGet_write_other outside

theorem storePerform_scratch (kind : op.kind = .write (.scr t.id off) bs) (wf : sparseWf 0 t.scratch = true) :
    ∃ s' t', exec (.storePerform r.team r.fibre) s = .next s' ∧ s'.mem = s.mem ∧ s'.team? r.team = some t' ∧
      (∀ i, i < bs.length → sparseGet 0 t'.scratch (off + i) = (bs.getD i none).getD (sparseGet 0 t.scratch (off + i))) ∧
      (∀ a, a < off ∨ off + bs.length ≤ a → sparseGet 0 t'.scratch a = sparseGet 0 t.scratch a) := by
  have run := exec_storePerform team fibre queue ready
  have id_ : t.id = r.team := by simpa using List.find?_some team
  rw [performStore_scratch kind, id_] at run
  obtain ⟨t', there, scratch⟩ := scratchWrite_team? (off := off) (bs := bs) (State.team?_updFibre (Fibre.dequeued rest op.seq) team)
  refine ⟨_, t', run, scratchWrite_mem .., there, fun i inside => ?_, fun a outside => ?_⟩ <;> rw [scratch]
  · exact sparseGet_masked wf inside
  · exact sparseGet_write_other outside

theorem storePerform_nibble {high : Bool} {v : BitVec 4} (wf : s.mem.wf = true) (kind : op.kind = .nibble (.mem m) high v) :
    ∃ s', exec (.storePerform r.team r.fibre) s = .next s' ∧
      sparseGet 0 s'.mem.cells m.pa = withNibble (sparseGet 0 s.mem.cells m.pa) high v ∧
      (∀ a, a ≠ m.pa → sparseGet 0 s'.mem.cells a = sparseGet 0 s.mem.cells a) ∧ s'.mem.full = s.mem.full := by
  have home := performStore_nibble (s := s.updFibre r (Fibre.dequeued rest op.seq)) (r := r) (t := t) (f := { f with sq := rest }) kind
  obtain ⟨cells, -, -⟩ := Memory.wf_iff.mp wf
  refine ⟨_, exec_storePerform team fibre queue ready, ?_, fun a other => ?_, ?_⟩ <;> rw [home.mem]
  · exact sparseGet_put_same cells
  · exact sparseGet_put_other other
  · rfl

end Stores

/-- Settles O22, from the write that each kind of store makes at its home. -/
theorem storePerformed : Obligations.StorePerformed := by
  intro s r t f op rest m off bs high v team fibre queue ready wf
  exact ⟨storePerform_memory team fibre queue ready wf, storePerform_scratch team fibre queue ready, storePerform_nibble team fibre queue ready wf⟩

end Sys2Proof.Machine
end

section
/-! SUPPORT. Fences, acquires, hints and the EXT escape (`Machine/System.lean`, `Machine/Memory.lean`; 04 R96, 09 R197 to R199, 15 R307, 17 R352, R357): one theorem per clause of O16, and the clause that fails. -/

namespace Sys2Proof.Machine

/-! ### Instructions that read registers and write none -/

section Reading

variable {s s' : State} {r : FibreRef} {t : Team} {f : Fibre} {rd : List Nat} {len : Nat} {near : Bool}
  {body : FibreRef → Team → Fibre → State → Act}

/-- A fibre that may execute an instruction that reads some registers may execute one that reads only some of them. -/
theorem Ready.subset {rd' : List Nat} (h : Ready s r t f rd [] [] []) (sub : rd' ⊆ rd) : Ready s r t f rd' [] [] [] := by
  obtain ⟨current, window, quiet, clean⟩ := h
  simp only [List.append_nil] at window quiet
  refine ⟨current, fun n hn => window n (sub (by simpa using hn)), fun op hop => ?_, fun n hn => clean n (sub hn)⟩
  obtain ⟨regs, preds, tiles⟩ := quiet op hop
  exact ⟨fun n hn named => regs n hn (sub (by simpa using named)), preds, tiles⟩

variable (ready : Ready s r t f rd [] [] []) (place : near = true ∨ f.nearSlot = none)
include ready place

theorem isa_passes (act : body r t f s = .ok s') : isa len { rd := rd, near := near } body s = .next (s'.past r len false s.aclk) := by
  rw [isa_of_ready (by simpa [Uses.reads] using ready) place (fun _ tile => by cases tile) rfl, act]
  rfl

theorem isa_passes_with {P : State → Prop} (act : ∃ s', body r t f s = .ok s' ∧ P s') :
    ∃ s', isa len { rd := rd, near := near } body s = .next (s'.past r len false s.aclk) ∧ P s' := by
  obtain ⟨s', act, holds⟩ := act
  exact ⟨s', isa_passes ready place act, holds⟩

theorem isa_traps {x : Trap} (act : body r t f s = .error (.trap x)) :
    isa len { rd := rd, near := near } body s = .next (s.raiseAt r x [] 0) := by
  rw [isa_of_ready (by simpa [Uses.reads] using ready) place (fun _ tile => by cases tile) rfl, act]

end Reading

/-- The reading of an offset as a signed number. -/
theorem immS_eq_toInt {n : Nat} (x : BitVec (n + 1)) : immS x = x.toInt := by
  have half : 2 * x.toNat < 2 ^ (n + 1) ↔ x.toNat < 2 ^ n := by rw [Nat.pow_succ]; omega
  rw [BitVec.toInt_eq_toNat_cond]
  simp only [immS, signedOf, half, Nat.add_sub_cancel, Nat.cast_pow, Nat.cast_ofNat]

theorem effAddr_eq (v : Dword) (o : BitVec 6) (n : Nat) : effAddr v o n = (v + BitVec.ofInt 64 (o.toInt * n)).toNat := by
  unfold effAddr wrap64
  rw [immS_eq_toInt]

/-! ### Fences (09 R197 to R199, Table 9.4) -/

section Fences

variable {s : State} {r : FibreRef} {t : Team} {f : Fibre}

/-- A release at system scope has nothing to wait for: no store queued, nothing open at a home, no remote write under way. -/
theorem storesDone_system : storesDone s r f 5 = true ↔ f.sq = [] ∧ s.homePending r = false ∧ s.remotePending r = false := by
  simp [storesDone, and_assoc]

/-- Then a release at no scope has. -/
theorem storesDone_of_system (done : storesDone s r f 5 = true) (scope : Nat) : storesDone s r f scope = true := by
  obtain ⟨queue, home, remote⟩ := storesDone_system.mp done
  simp [storesDone, queue, home, remote]

theorem redfPending_of_system (done : storesDone s r f 5 = true) : redfPending s r f = false := by
  obtain ⟨queue, home, -⟩ := storesDone_system.mp done
  have forwarded : s.redfOf r = false := by
    simp only [State.homePending, Bool.or_eq_false_iff] at home
    exact home.1.2
  simp [redfPending, forwarded, queue]

theorem remoteDone_of_system (done : storesDone s r f 5 = true) : (remoteQueued f || s.writesOut r) = false := by
  obtain ⟨queue, -, remote⟩ := storesDone_system.mp done
  have out : s.writesOut r = false := (Bool.or_eq_false_iff.mp remote).1
  simp [remoteQueued, queue, out]

theorem State.postFence_met (loads : f.loadsPending = false) {scope : Nat} (done : storesDone s r f scope = true) : s.postFence r f scope = s :=
  if_pos (by rw [loads, done]; rfl)

/-- A release fence recorded at its place in the fibre's program order. -/
def Fibre.fenced (scope : Nat) (x : Fibre) : Fibre := { x with fences := x.fences ++ [(x.seq, scope)] }

theorem State.postFence_open {scope : Nat} (pending : (f.loadsPending || !storesDone s r f scope) = true) :
    s.postFence r f scope = s.updFibre r (Fibre.fenced scope) := by
  have waits : ¬ (!f.loadsPending && storesDone s r f scope) = true := by
    rw [Bool.and_eq_true, Bool.not_eq_true']
    rintro ⟨loads, done⟩
    simp [loads, done] at pending
  exact if_neg waits

theorem State.acquireAt_narrow {scope : Nat} (narrow : scope < 2) : s.acquireAt t f scope = s := if_neg (by omega)

/-- With the fibre's accesses done no fence waits, and only its acquire side changes anything. -/
theorem fenceAt_quiet (loads : f.loadsPending = false) (done : storesDone s r f 5 = true) (host : f.hostFail = [])
    (probes : s.probesToward (dieOf t f) = false) (scope kind : Nat) :
    fenceAt scope kind r t f s = .ok (if kind = 2 then s else s.acquireAt t f scope) := by
  have posted : (if kind = 2 ∨ kind = 3 then s.postFence r f scope else s) = s := by
    rw [State.postFence_met loads (storesDone_of_system done scope), ite_self]
  unfold fenceAt
  by_cases none : scope = 0
  · rw [if_pos none, State.acquireAt_narrow (by omega), ite_self]
  · rw [if_neg none, if_neg (by simp [loads]), if_neg (by simp [redfPending_of_system done]),
      if_neg (by simp [loads, storesDone_of_system done scope]), if_neg (by simp [remoteDone_of_system done]), if_neg (by simp [host]),
      if_neg (by simp [probes])]
    dsimp only
    rw [posted]

/-- A release below system scope does not wait for the accesses before it: it is recorded, and holds back later stores (log entry 89). -/
theorem fenceAt_release {scope : Nat} (some_ : 1 ≤ scope) (below : scope ≤ 4) (redf : redfPending s r f = false)
    (pending : (f.loadsPending || !storesDone s r f scope) = true) :
    fenceAt scope 2 r t f s = .ok (s.updFibre r (Fibre.fenced scope)) := by
  have device : scope ≠ 5 := by omega
  unfold fenceAt
  rw [if_neg (by omega), if_neg (by simp), if_neg (by simp [redf]), if_neg (by simp [device]), if_neg (by simp [device]),
    if_neg (by simp [device]), if_neg (by simp)]
  exact congrArg Except.ok (State.postFence_open pending)

section Run

variable {b : BitVec 7} {c k : BitVec 3}

theorem execFence_passes {s' : State} (ready : Ready s r t f [] [] [] []) (act : fenceAt c.toNat k.toNat r t f s = .ok s') :
    execFence c k s = .next (s'.past r 1 false s.aclk) :=
  isa_passes ready (.inl rfl) (by rw [act]; rfl)

variable (loads : f.loadsPending = false) (done : storesDone s r f 5 = true) (host : f.hostFail = [])
  (probes : s.probesToward (dieOf t f) = false)
include loads done host probes

theorem execFence_release (ready : Ready s r t f [] [] [] []) (kind : k = 2) : execFence c k s = .next (s.passed r 1 id) := by
  have act := fenceAt_quiet loads done host probes c.toNat k.toNat
  rw [if_pos (by rw [kind]; rfl)] at act
  exact execFence_passes ready act

theorem execFence_acquire (ready : Ready s r t f [] [] [] []) (kind : k ≠ 2) : execFence c k s = .next ((s.acquireAt t f c.toNat).past r 1 false s.aclk) := by
  have act := fenceAt_quiet loads done host probes c.toNat k.toNat
  have other : k.toNat ≠ 2 := fun same => kind (BitVec.eq_of_toNat_eq same)
  rw [if_neg other] at act
  exact execFence_passes ready act

theorem execFence_narrow (ready : Ready s r t f [] [] [] []) (kind : k ≠ 2) (narrow : c.toNat < 2) : execFence c k s = .next (s.passed r 1 id) := by
  have run := execFence_acquire loads done host probes (c := c) ready kind
  rwa [State.acquireAt_narrow narrow] at run

theorem execFenceHeavy_drained (ready : Ready s r t f [b.toNat] [] [] []) (drained : teamDrained s t.job t.ctx (f.reg b.toNat).toNat = true) :
    execFenceHeavy b s = .next ((s.acquireAt t f 4).past r 1 false s.aclk) := by
  refine isa_passes ready (.inl rfl) ?_
  rw [fenceAt_quiet loads done host probes 4 4]
  exact if_pos drained

end Run

theorem execFenceLight_passes (ready : Ready s r t f [] [] [] []) : execFenceLight s = .next (s.passed r 1 id) :=
  isa_passes ready (.inl rfl) rfl

theorem execFence_open {c : BitVec 3} (ready : Ready s r t f [] [] [] []) (some_ : 1 ≤ c.toNat) (below : c.toNat ≤ 4)
    (redf : redfPending s r f = false) (pending : (f.loadsPending || !storesDone s r f c.toNat) = true) :
    execFence c 2 s = .next ((s.updFibre r (Fibre.fenced c.toNat)).past r 1 false s.aclk) :=
  execFence_passes ready (fenceAt_release some_ below redf pending)

/-- Where the number of the acting fibre names it alone, its place in program order is the one that O16 names. -/
theorem State.updFibre_fenced_of_alone (alone : ∀ u ∈ s.teams, u.id = r.team → ∀ x ∈ u.fibres, x.idx = r.fibre → x = f) (scope : Nat) :
    s.updFibre r (Fibre.fenced scope) = s.updFibre r fun x => { x with fences := x.fences ++ [(f.seq, scope)] } := by
  have fibres : ∀ u ∈ s.teams, u.id = r.team →
      u.updFibre r.fibre (Fibre.fenced scope) = u.updFibre r.fibre fun x => { x with fences := x.fences ++ [(f.seq, scope)] } := by
    intro u hu named
    refine congrArg (fun l => { u with fibres := l }) (List.map_congr_left fun x hx => ?_)
    by_cases same : x.idx = r.fibre
    · rw [alone u hu named x hx same]
      rfl
    · simp [same]
  refine congrArg (fun l => { s with teams := l }) (List.map_congr_left fun u hu => ?_)
  by_cases named : u.id = r.team
  · simp only [fibres u hu named]
  · simp [named]

end Fences

/-! ### The EXT escape (15 R307) -/

section Ext

variable {s : State} {r : FibreRef} {t : Team} {f : Fibre} {rd : List Nat} {e : BitVec 7} (m : BitVec 2) (pl : BitVec 16) (w1 w2 w3 : BitVec 32)
  (ready : Ready s r t f rd [] [] []) (onCore : f.nearSlot = none)
include ready onCore

theorem execExt_illegal (low : e.toNat < 8) : execExt e m pl w1 w2 w3 s = .next (s.raiseAt r .illegal [] 0) :=
  isa_traps (ready.subset (List.nil_subset _)) (.inr onCore) (if_pos low)

theorem execExt_emulated (high : 8 ≤ e.toNat) : execExt e m pl w1 w2 w3 s = .next (s.raiseAt r (mkTrap 0x02 0 0) [] 0) :=
  isa_traps (ready.subset (List.nil_subset _)) (.inr onCore) (if_neg (Nat.not_lt.mpr high))

end Ext

/-! ### Prefetch (17 R352, 08 R172) -/

section Reads

variable (s : State) (die ctx : Nat) (m : MemLoc)

theorem State.remoteRead_home : HomeChanged s (s.remoteRead die m ctx) := by
  have kept := (s.recallLine_home (lineOf m.pa)).trans (State.keepHome_home _ m (lineOf m.pa) [wordOf m.pa] false ctx)
  unfold State.remoteRead
  dsimp only
  split
  · exact (kept.trans (State.putRegion_home _ _)).trans (HomeChanged.of_coh _ _ rfl)
  · exact kept.trans (State.putRegion_home _ _)

theorem State.readHome_home : HomeChanged s (s.readHome die m ctx).2 := by
  unfold State.readHome
  dsimp only
  split
  · exact s.keepHome_home m _ _ _ ctx
  · exact s.remoteRead_home die ctx m

theorem State.readSlices_home : HomeChanged s (s.readSlices die m ctx).2 := by
  unfold State.readSlices
  split
  · exact HomeChanged.count s _ _ _
  · exact s.readHome_home die ctx m

theorem State.installL1_home (c : CoreId) (line : Nat) (d : LineData) : HomeChanged s (s.installL1 c line d) := HomeChanged.of_coh s _ rfl

end Reads

section Hints

variable {s : State} {r : FibreRef} {t : Team} {f : Fibre} {b d : BitVec 7} {o : BitVec 6} {sp : BitVec 2}

/-- The line that PREF.l1 brings into a core's L1. -/
def State.fetchL1 (s : State) (c : CoreId) (m : MemLoc) (ctx : Nat) : State :=
  let line := lineOf m.pa
  let (d, s) := if m.cls = 2 then (s.lineAt line, s) else s.readSlices c.die m ctx
  s.installL1 c line (s.ownWords c line d)

theorem State.fetchL1_home (s : State) (c : CoreId) (m : MemLoc) (ctx : Nat) : HomeChanged s (s.fetchL1 c m ctx) := by
  unfold State.fetchL1
  dsimp only
  split
  · exact s.installL1_home c _ _
  · exact (s.readSlices_home c.die ctx m).trans (State.installL1_home _ c _ _)

/-- PREF passes, and changes nothing but the caches and counters. -/
theorem execPref_passes {ln : BitVec 1} (ready : Ready s r t f [b.toNat] [] [] []) :
    ∃ s1, execPref b o sp ln s = .next (s1.past r 1 false s.aclk) ∧ HomeChanged s s1 := by
  refine isa_passes_with ready (.inl rfl) ?_
  dsimp only
  split
  next m c _ _ =>
    split
    · exact ⟨s, rfl, HomeChanged.refl s⟩
    · split
      · exact ⟨_, rfl, s.keepHome_home m _ _ _ _⟩
      · split
        · exact ⟨s, rfl, HomeChanged.refl s⟩
        · exact ⟨s.fetchL1 c m t.ctx, rfl, s.fetchL1_home c m t.ctx⟩
  next => exact ⟨s, rfl, HomeChanged.refl s⟩

theorem execPref_error {ln : BitVec 1} {x : Trap} (ready : Ready s r t f [b.toNat] [] [] [])
    (none : access s t f .load sp.toNat (f.reg b.toNat + BitVec.ofInt 64 (o.toInt * 8)).toNat 1 1 = .error x) : execPref b o sp ln s = .next (s.passed r 1 id) :=
  isa_passes ready (.inl rfl) (by rw [effAddr_eq, Nat.cast_ofNat, none])

/-! ### Acquires of a range (17 R357, 09 R202) -/

section Range

variable (ready : Ready s r t f [b.toNat, d.toNat] [] [] []) (sc : BitVec 3)
include ready

theorem execAcqr_passes (some_ : 0 < (f.reg d.toNat).toNat)
    (small : ((f.reg b.toNat).toNat + (f.reg d.toNat).toNat + 255) / 256 * 256 - (f.reg b.toNat).toNat / 256 * 256 ≤ 2 ^ 24)
    (inside : ((f.reg b.toNat).toNat + (f.reg d.toNat).toNat + 255) / 256 * 256 ≤ 2 ^ 52) (loads : f.loadsPending = false) :
    execAcqr b d sc s = .next ((s.acquireRange t f ((f.reg b.toNat).toNat / 256 * 256)
      (((f.reg b.toNat).toNat + (f.reg d.toNat).toNat + 255) / 256 * 256)).past r 1 false s.aclk) :=
  isa_passes ready (.inl rfl) <| by
    dsimp only
    rw [if_neg (by omega), if_neg (by simp [loads])]

theorem execAcqr_extent (bad : (f.reg d.toNat).toNat = 0 ∨
      2 ^ 24 < ((f.reg b.toNat).toNat + (f.reg d.toNat).toNat + 255) / 256 * 256 - (f.reg b.toNat).toNat / 256 * 256 ∨
      2 ^ 52 < ((f.reg b.toNat).toNat + (f.reg d.toNat).toNat + 255) / 256 * 256) :
    execAcqr b d sc s = .next (s.raiseAt r (.extent (f.reg b.toNat).toNat) [] 0) :=
  isa_traps ready (.inl rfl) (if_pos bad)

end Range

/-! ### Page requests (17 R352, 04 R96) -/

theorem execPreq_passes {w : BitVec 1} {mb : MemLoc} {va : Nat} (ready : Ready s r t f [b.toNat, d.toNat] [] [] [])
    (at_ : va = (f.reg b.toNat + BitVec.ofInt 64 (o.toInt * 8)).toNat)
    (leaf : leafFor s t.ctx (dieOf t f) va ≠ .none) (low : va < 2 ^ 52)
    (notify : (f.reg d.toNat).toNat < 2 ^ 52) (mailbox : mailboxWord s t.ctx ((s.ctx? t.ctx).elim 0 fun y => y.pagerMbox) = .ok mb)
    (free : mailboxOwned s mb = false) (loads : f.loadsPending = false) (done : storesDone s r f 4 = true) :
    execPreq d b o sp w s = .next ((postRequest s r t.ctx mb (va / 2 ^ 16) (f.reg d.toNat).toNat (w == 1)
      (coreOf t f)).past r 1 false s.aclk) :=
  isa_passes ready (.inl rfl) <| by
    have here : effAddr (f.reg b.toNat) o 8 = va := (effAddr_eq _ o 8).trans at_.symm
    rw [here]
    dsimp only
    rw [if_neg (not_or.mpr ⟨Nat.not_le.mpr low, leaf⟩), if_neg (Nat.not_le.mpr notify), mailbox]
    exact if_neg (by simp [loads, done, free])

end Hints

/-! ### The clause of O16 on release fences -/

namespace TwinFibres

/-- Fibre number 0 at a place of its program order, with a store queued. -/
def fibre (seq : Nat) : Fibre := { Fibre.fresh 0 128 0 with seq := seq, sq := [⟨.write (.scr 0 64) [some 1], ⟨false, 0, 0⟩, 0, 4⟩] }

/-- Two fibres with the same number. -/
def team : Team := { probeTeam 1 0 with fibres := [fibre 0, fibre 1] }

/-- The first of them acts. -/
def state : State := { State.reset with cur := some ⟨0, 0⟩, teams := [team] }

theorem ready : Ready state ⟨0, 0⟩ team (fibre 0) [0] [] [] [] where
  current := rfl
  window := by decide
  quiet := fun _ listed => absurd listed List.not_mem_nil
  clean := fun _ _ => List.not_mem_nil

theorem release_open : redfPending state ⟨0, 0⟩ (fibre 0) = false ∧ ((fibre 0).loadsPending || !storesDone state ⟨0, 0⟩ (fibre 0) 1) = true := by decide

/-- The fences of every fibre. -/
def recorded (s : State) : List (List (List (Nat × Nat))) := s.teams.map fun t => t.fibres.map fun f => f.fences

/-- Each of the two is given the fence at its own place. -/
theorem recorded_fence : recorded ((state.updFibre ⟨0, 0⟩ (Fibre.fenced 1)).past ⟨0, 0⟩ 1 false 0) = [[[(0, 1)], [(1, 1)]]] := by decide

end TwinFibres

/-- Refutes O16: its clause on release fences records the fence of every fibre that the acting fibre's number names at the acting fibre's place in program order,
where the model takes each fibre's own place. The two agree where a number names one fibre (`State.updFibre_fenced_of_alone`), but the statement is of every
state, and `TwinFibres.state` has two fibres of one number at different places. The other clauses hold: they are the theorems above on `execFence`, which a
release or an acquire with nothing open passes, `execFenceLight`, `execFenceHeavy` (log entry 20), `execExt`, `execPref`, `execAcqr` and `execPreq`. -/
theorem not_fenceExtResult : ¬ Obligations.FenceExtResult := by
  unfold Obligations.FenceExtResult
  intro h
  obtain ⟨redf, pending⟩ := TwinFibres.release_open
  obtain ⟨-, -, release, -⟩ := h _ _ _ _ 1 2 0 0 0 0 0 0 0 TwinFibres.ready
  have claimed := release (by decide) (by decide) redf pending
  have run := execFence_open (c := 1) (TwinFibres.ready.subset (List.nil_subset _)) (by decide) (by decide) redf pending
  have same := congrArg TwinFibres.recorded (Host.Outcome.next.inj (claimed.symm.trans run))
  exact absurd (same.trans TwinFibres.recorded_fence) (by decide)

end Sys2Proof.Machine
end

section
/-! SUPPORT. Placement entries, conversions and seals (`Machine/Place.lean`; 11 R235 to R241): the fields that a change of an entry sets and keeps, an entry changed by its controller, and the obligation on their events (O42). -/

namespace Sys2Proof.Machine

/-! ### Fields of an entry -/

theorem bitsOf_testBit (w lo n i : Nat) : (bitsOf w lo n).testBit i = (decide (i < n) && w.testBit (lo + i)) := by
  rw [bitsOf, Nat.testBit_mod_two_pow, Nat.testBit_div_two_pow, Nat.add_comm]

theorem bitsOf_congr {w w' lo n : Nat} (same : ∀ i, lo ≤ i → i < lo + n → w.testBit i = w'.testBit i) : bitsOf w lo n = bitsOf w' lo n := by
  refine Nat.eq_of_testBit_eq fun i => ?_
  rw [bitsOf_testBit, bitsOf_testBit]
  by_cases inside : i < n
  · rw [same (lo + i) (by omega) (by omega)]
  · simp [inside]

/-- A field of a number's low bits. -/
theorem bitsOf_mod {w lo n k : Nat} (h : lo + n ≤ k) : bitsOf (w % 2 ^ k) lo n = bitsOf w lo n :=
  bitsOf_congr fun i _ hi => by
    rw [Nat.testBit_mod_two_pow, decide_eq_true (by omega), Bool.true_and]

/-- A number cut at a field: the bits below it, the field, and the bits above. -/
theorem cut_at_field (e lo n : Nat) : e = 2 ^ lo * (2 ^ n * (e / 2 ^ (lo + n)) + bitsOf e lo n) + e % 2 ^ lo := by
  have field := Nat.div_add_mod (e / 2 ^ lo) (2 ^ n)
  rw [Nat.div_div_eq_div_mul, ← Nat.pow_add] at field
  unfold bitsOf
  rw [field, Nat.div_add_mod]

theorem Entry.put_eq (e : Entry) (lo n v : Nat) : e.put lo n v = 2 ^ lo * (2 ^ n * (e / 2 ^ (lo + n)) + v % 2 ^ n) + e % 2 ^ lo := by
  have cut := cut_at_field e lo n
  rw [Nat.mul_add] at cut
  have rest : e - 2 ^ lo * bitsOf e lo n = 2 ^ lo * (2 ^ n * (e / 2 ^ (lo + n))) + e % 2 ^ lo :=
    Nat.sub_eq_of_eq_add (cut.trans (Nat.add_right_comm _ _ _))
  unfold Entry.put
  rw [Nat.mul_comm (bitsOf e lo n), rest, Nat.mul_comm (v % 2 ^ n), Nat.mul_add, Nat.add_right_comm]

/-- A replaced field has the new bits, and every other bit stays. -/
theorem Entry.put_testBit (e : Entry) (lo n v i : Nat) :
    (e.put lo n v).testBit i = if lo ≤ i ∧ i < lo + n then v.testBit (i - lo) else Nat.testBit e i := by
  rw [Entry.put_eq, Nat.testBit_two_pow_mul_add _ (Nat.mod_lt _ (Nat.two_pow_pos lo)),
    Nat.testBit_two_pow_mul_add _ (Nat.mod_lt _ (Nat.two_pow_pos n)), Nat.testBit_mod_two_pow, Nat.testBit_mod_two_pow, Nat.testBit_div_two_pow]
  by_cases below : i < lo
  · simp [below, Nat.not_le.mpr below]
  · by_cases inside : i - lo < n
    · have within : lo ≤ i ∧ i < lo + n := by omega
      simp [below, inside, within]
    · have beyond : ¬ (lo ≤ i ∧ i < lo + n) := by omega
      rw [if_neg below, if_neg inside, if_neg beyond]
      congr 1
      omega

theorem Entry.bitsOf_put_same (e : Entry) (lo n v : Nat) : bitsOf (e.put lo n v) lo n = v % 2 ^ n := by
  refine Nat.eq_of_testBit_eq fun i => ?_
  rw [bitsOf_testBit, Entry.put_testBit, Nat.testBit_mod_two_pow]
  by_cases inside : i < n <;> simp [inside]

theorem Entry.bitsOf_put_other {e : Entry} {lo n v i k : Nat} (apart : i + k ≤ lo ∨ lo + n ≤ i) : bitsOf (e.put lo n v) i k = bitsOf e i k :=
  bitsOf_congr fun j _ _ => by rw [Entry.put_testBit, if_neg (by omega)]

/-- The state of an entry and its generation, as a seal's or a conversion's end leaves them (11 Table 11.5). -/
def Entry.closed (e : Entry) (generation : Nat) : Entry := (e.put 786 2 1).put 736 32 generation

theorem Entry.state_closed (e : Entry) (g : Nat) : (e.closed g).state = 1 :=
  (Entry.bitsOf_put_other (by decide)).trans (Entry.bitsOf_put_same _ _ _ _)

theorem Entry.generation_closed (e : Entry) (g : Nat) : (e.closed g).generation = g % 2 ^ 32 := Entry.bitsOf_put_same _ _ _ _

theorem Entry.sealedMask_closed (e : Entry) (g : Nat) : (e.closed g).sealedMask = e.sealedMask :=
  (Entry.bitsOf_put_other (by decide)).trans (Entry.bitsOf_put_other (by decide))

/-- The sealed mask does not touch the axes, and so not the members. -/
theorem Entry.localMembers_put_mask (e : Entry) (mask : Nat) (grid : Dword) : (e.put 788 4 mask).localMembers grid = e.localMembers grid := by
  have naxes : (e.put 788 4 mask).naxes = e.naxes := Entry.bitsOf_put_other (by decide)
  have axis : (e.put 788 4 mask).axis = e.axis := funext fun a => Entry.bitsOf_put_other (by omega)
  have axes : (e.put 788 4 mask).axes = e.axes := by
    unfold Entry.axes
    rw [naxes, axis]
  unfold Entry.localMembers
  rw [axes]

/-! ### A member's bit (11 Table 11.5) -/

/-- The entry once a member's seal is complete. -/
def Entry.sealMember (e : Entry) (grid : Dword) (k : Nat) : Entry :=
  let marked := e.put 788 4 (e.sealedMask ||| 2 ^ k)
  if marked.state = 0 ∧ (marked.localMembers grid).all (fun p => (e.sealedMask ||| 2 ^ k).testBit p.1) then marked.closed (marked.generation + 1) else marked

section Mask

variable {e : Entry} {grid : Dword} {k : Nat}

theorem or_two_pow_testBit (mask k i : Nat) : (mask ||| 2 ^ k).testBit i = (mask.testBit i || decide (i = k)) := by
  rw [Nat.testBit_or, Nat.testBit_two_pow, decide_eq_decide.mpr eq_comm]

theorem Entry.state_put_mask (mask : Nat) : (e.put 788 4 mask).state = e.state := Entry.bitsOf_put_other (by decide)

theorem Entry.generation_put_mask (mask : Nat) : (e.put 788 4 mask).generation = e.generation := Entry.bitsOf_put_other (by decide)

theorem Entry.sealMember_testBit {i : Nat} (hi : i < 4) : (e.sealMember grid k).sealedMask.testBit i = (e.sealedMask.testBit i || decide (i = k)) := by
  have marked : (e.sealMember grid k).sealedMask = (e.sealedMask ||| 2 ^ k) % 2 ^ 4 := by
    unfold Entry.sealMember
    dsimp only
    split
    · exact (Entry.sealedMask_closed _ _).trans (Entry.bitsOf_put_same _ _ _ _)
    · exact Entry.bitsOf_put_same _ _ _ _
  rw [marked, Nat.testBit_mod_two_pow, decide_eq_true hi, Bool.true_and, or_two_pow_testBit]

/-- The generation closes with the last local member's bit. -/
theorem Entry.sealMember_last (open_ : e.state = 0) (last : ∀ p ∈ e.localMembers grid, p.1 = k ∨ e.sealedMask.testBit p.1 = true) :
    (e.sealMember grid k).state = 1 ∧ (e.sealMember grid k).generation = (e.generation + 1) % 2 ^ 32 := by
  have all : (e.localMembers grid).all (fun p => (e.sealedMask ||| 2 ^ k).testBit p.1) = true :=
    List.all_eq_true.mpr fun p hp => by
      rw [or_two_pow_testBit]
      simpa [or_comm] using last p hp
  have eq : e.sealMember grid k = (e.put 788 4 (e.sealedMask ||| 2 ^ k)).closed (e.generation + 1) := by
    unfold Entry.sealMember
    dsimp only
    rw [Entry.state_put_mask, Entry.generation_put_mask, Entry.localMembers_put_mask]
    exact if_pos ⟨open_, all⟩
  rw [eq]
  exact ⟨Entry.state_closed _ _, Entry.generation_closed _ _⟩

theorem Entry.sealMember_more (open_ : e.state = 0) (more : ∃ p ∈ e.localMembers grid, p.1 ≠ k ∧ e.sealedMask.testBit p.1 = false) :
    (e.sealMember grid k).state = 0 ∧ (e.sealMember grid k).generation = e.generation := by
  obtain ⟨p, hp, other, clear⟩ := more
  have notAll : ¬ (e.localMembers grid).all (fun p => (e.sealedMask ||| 2 ^ k).testBit p.1) = true := fun all => by
    have set := List.all_eq_true.mp all p hp
    rw [or_two_pow_testBit] at set
    simp [other, clear] at set
  have eq : e.sealMember grid k = e.put 788 4 (e.sealedMask ||| 2 ^ k) := by
    unfold Entry.sealMember
    dsimp only
    rw [Entry.localMembers_put_mask]
    exact if_neg fun h => notAll h.2
  rw [eq]
  exact ⟨(Entry.state_put_mask _).trans open_, Entry.generation_put_mask _⟩

end Mask

/-! ### An entry changed by its controller (19 R391) -/

section Change

variable {s t : State} {ctx n : Nat} {m : MemLoc} {e : Entry}

theorem State.entryOf_of_read (read : s.readEntry ctx 0 n = .ok (m, e)) : s.entryOf ctx n = e := by
  unfold State.entryOf
  rw [read]

theorem State.writeEntry_home (s : State) (m : MemLoc) (e : Entry) (w : Writer) (ctx : Nat) :
    HomeChanged { s with mem := s.mem.write m.pa ((bytesOfNat 128 e).map some) } (s.writeEntry m e w ctx) :=
  (s.modifyHome_outside m _ w ctx).trans (HomeChanged.of_coh _ _ rfl)

/-- The entry is written at its home; but for it only the shared caches and counters change. -/
theorem State.changeEntry_home (read : s.readEntry ctx 0 n = .ok (m, e)) (g : Entry → Entry) :
    HomeChanged { s with mem := s.mem.write m.pa ((bytesOfNat 128 (g e)).map some) } (s.changeEntry ctx n g) := by
  unfold State.changeEntry
  rw [read]
  exact s.writeEntry_home m (g e) _ ctx

/-- A plain write leaves every tag. -/
theorem Memory.write_full (mem : Memory) (pa : Nat) (bytes : List (Option Byte)) : (mem.write pa bytes).full = mem.full := rfl

/-- An entry written at a place is stored there with every field of its 1,024 bits. -/
theorem entryStored_of_written (wf : s.mem.wf = true) (written : t.mem = s.mem.write m.pa ((bytesOfNat 128 e).map some)) :
    ∃ e', Claims.EntryStored s t m.pa e' ∧ ∀ lo n, lo + n ≤ 8 * 128 → bitsOf e' lo n = bitsOf e lo n := by
  have full : t.mem.full = s.mem.full := by rw [written, Memory.write_full]
  refine ⟨_, ⟨valueAt_of_bytesWritten wf written, full, fun a apart => ?_⟩, fun lo n => bitsOf_mod⟩
  rw [written]
  exact Memory.write_other (by rwa [bytesOfNat_length])

theorem HomeChanged.demands (h : HomeChanged s t) : t.demands = s.demands := by
  obtain ⟨_, _, -, -, rfl⟩ := h
  rfl

theorem HomeChanged.convs (h : HomeChanged s t) : t.convs = s.convs := by
  obtain ⟨_, _, -, -, rfl⟩ := h
  rfl

theorem HomeChanged.sealing (h : HomeChanged s t) : t.sealing = s.sealing := by
  obtain ⟨_, _, -, -, rfl⟩ := h
  rfl

/-- With no demand that waits, the controller has nothing to do (11 R239). -/
theorem State.serveDemands_of_none (h : s.demands = []) (ctx tid : Nat) : s.serveDemands ctx tid = s := by
  have unowned : s.ownSlots ctx tid = s := by
    unfold State.ownSlots State.convertsAt
    rw [h]
    split <;> rfl
  have same : { s with demands := [] } = s := by rw [← h]
  unfold State.serveDemands
  simp only [h, List.filter_nil, List.map_nil, List.find?_nil, same, unowned]

end Change

/-! ### Conversions (11 R235, R241) -/

section Conversions

variable {s : State} {ctx tid axis coord : Nat} {cells : List (Nat × BitVec 8)} {cv : ConvRun} {m : MemLoc} {e : Entry}

theorem State.convOf_names (h : s.convOf ctx tid = some cv) : cv.ctx = ctx ∧ cv.tid = tid := by
  simpa using List.find?_some h

/-- The conversion on a tensor after a change of every conversion that keeps whose it is. -/
theorem State.convOf_map {g : ConvRun → ConvRun} (hg : ∀ c, (g c).ctx = c.ctx ∧ (g c).tid = c.tid) :
    ({ s with convs := s.convs.map g } : State).convOf ctx tid = (s.convOf ctx tid).map g := by
  have keeps : (fun c : ConvRun => c.ctx == ctx && c.tid == tid) ∘ g = fun c => c.ctx == ctx && c.tid == tid := funext fun c => by
    obtain ⟨hc, ht⟩ := hg c
    rw [Function.comp_apply, hc, ht]
  unfold State.convOf
  rw [List.find?_map, keeps]

theorem State.convOf_filtered : ({ s with convs := s.convs.filter (fun x => !(x.ctx == ctx && x.tid == tid)) } : State).convOf ctx tid = none :=
  List.find?_eq_none.mpr fun x hx => by
    rw [Bool.not_eq_true]
    exact (Bool.not_eq_true' _).mp (List.mem_filter.mp hx).2

/-- What a member wrote first becomes an input of the conversion that awaits it. -/
theorem State.convInput_first (run : s.convOf ctx tid = some cv) (awaits : cv.axis ≤ axis) (first : ∀ i ∈ cv.inputs, i.axis = axis → i.coord ≠ coord) :
    (s.convInput ctx tid axis coord cells).convOf ctx tid = some { cv with inputs := cv.inputs ++ [⟨axis, coord, cells⟩] } := by
  obtain ⟨hc, ht⟩ := State.convOf_names run
  have new : cv.inputs.find? (fun i => i.axis == axis && i.coord == coord) = none :=
    List.find?_eq_none.mpr fun i hi => by simpa using first i hi
  unfold State.convInput
  rw [State.convOf_map (fun c => by (repeat' split) <;> exact ⟨rfl, rfl⟩), run]
  simp [hc, ht, awaits, new]

/-- The step of an axis of this package ends once it has its inputs and no gather is under way (log entry 44). -/
theorem advanceConversion_nextAxis (read : s.readEntry cv.ctx 0 cv.tid = .ok (m, e)) (more : cv.axis < e.naxes) (package : axKind (e.axis cv.axis) = 1)
    (ready : stepReady s cv e cv.axis = true) (remote : ∀ o ∈ s.remote, o.who ≠ .conv cv.ctx cv.tid) :
    advanceConversion s cv = { s with convs := s.convs.map (fun (x : ConvRun) =>
      if x == cv then { x with axis := x.axis + 1, sent := false, since := s.aclk } else x) } := by
  have answered : s.remote.any (fun o => o.who == RemoteWho.conv cv.ctx cv.tid) = false :=
    List.any_eq_false.mpr fun o ho => by simpa using remote o ho
  unfold advanceConversion
  simp only [State.entryOf_of_read read]
  rw [if_neg (Nat.not_le.mpr more), if_neg (by simp [package]), if_pos (by simp [ready, answered])]

/-- After the last axis, a conversion with nothing to write ends. -/
theorem advanceConversion_end (read : s.readEntry cv.ctx 0 cv.tid = .ok (m, e)) (last : e.naxes ≤ cv.axis) (plan : convPlan s cv e = some []) :
    advanceConversion s cv = s.finishConversion cv e [] := by
  unfold advanceConversion
  simp only [State.entryOf_of_read read]
  rw [if_pos last, plan]
  rfl

/-- A conversion that took no part of a collective has no completion word to act on. -/
theorem State.collectiveWords_of_none (parts : cv.parts = []) : s.collectiveWords cv = s := by
  unfold State.collectiveWords
  simp [parts]

/-- A conversion gone, its lines released. -/
def State.withoutConversion (s : State) (ctx tid : Nat) : State :=
  { s.releaseSlots ctx tid with convs := s.convs.filter (fun x => !(x.ctx == ctx && x.tid == tid)) }

theorem State.finishConversion_empty (parts : cv.parts = []) (demands : s.demands = []) (read : s.readEntry cv.ctx 0 cv.tid = .ok (m, e)) :
    HomeChanged { s.withoutConversion cv.ctx cv.tid with mem := s.mem.write m.pa ((bytesOfNat 128 ((e.demanded cv.demand).closed (e.generation + 1))).map some) }
      (s.finishConversion cv e []) := by
  have changed := (State.changeEntry_home (s := s.withoutConversion cv.ctx cv.tid) read fun _ => (e.demanded cv.demand).closed (e.generation + 1)).trans
    (HomeChanged.count _ cv.ctx 0x50 1)
  have idle := State.serveDemands_of_none (changed.demands.trans demands) cv.ctx cv.tid
  rw [← idle] at changed
  unfold State.finishConversion
  rw [List.foldl_nil, State.collectiveWords_of_none parts]
  exact changed

theorem conversionInput_clause (run : s.convOf ctx tid = some cv) (awaits : cv.axis ≤ axis) (first : ∀ i ∈ cv.inputs, i.axis = axis → i.coord ≠ coord) :
    ∃ s', exec (.conversionInput ctx tid axis coord cells) s = .next s' ∧ s'.mem = s.mem ∧
      s'.convOf ctx tid = some { cv with inputs := cv.inputs ++ [⟨axis, coord, cells⟩] } :=
  ⟨_, rfl, s.convInput_mem ctx tid axis coord cells, State.convInput_first run awaits first⟩

theorem exec_conversionComplete (run : s.convOf ctx tid = some cv) : exec (.conversionComplete ctx tid) s = .next (advanceConversion s cv) := by
  change execConversionComplete ctx tid s = _
  unfold execConversionComplete
  rw [run]
  rfl

theorem conversionComplete_nextAxis (run : s.convOf ctx tid = some cv) (read : s.readEntry ctx 0 tid = .ok (m, e)) (more : cv.axis < e.naxes)
    (package : axKind (e.axis cv.axis) = 1) (ready : stepReady s cv e cv.axis = true) (remote : ∀ o ∈ s.remote, o.who ≠ .conv ctx tid) :
    ∃ s', exec (.conversionComplete ctx tid) s = .next s' ∧ s'.mem = s.mem ∧
      s'.convOf ctx tid = some { cv with axis := cv.axis + 1, sent := false, since := s.aclk } := by
  obtain ⟨rfl, rfl⟩ := State.convOf_names run
  refine ⟨_, (exec_conversionComplete run).trans (congrArg Host.Outcome.next (advanceConversion_nextAxis read more package ready remote)), rfl, ?_⟩
  rw [State.convOf_map (fun c => by split <;> exact ⟨rfl, rfl⟩), run]
  simp

theorem conversionComplete_end (wf : s.mem.wf = true) (run : s.convOf ctx tid = some cv) (read : s.readEntry ctx 0 tid = .ok (m, e))
    (last : e.naxes ≤ cv.axis) (plan : convPlan s cv e = some []) (parts : cv.parts = []) (demands : s.demands = []) :
    ∃ s' e', exec (.conversionComplete ctx tid) s = .next s' ∧ s'.convOf ctx tid = none ∧ Claims.EntryStored s s' m.pa e' ∧
      Entry.state e' = 1 ∧ Entry.generation e' = (e.generation + 1) % 2 ^ 32 := by
  obtain ⟨rfl, rfl⟩ := State.convOf_names run
  have changed := State.finishConversion_empty parts demands read
  obtain ⟨e', stored, fields⟩ := entryStored_of_written wf changed.mem
  refine ⟨_, e', (exec_conversionComplete run).trans (congrArg Host.Outcome.next (advanceConversion_end read last plan)), ?_,
    stored, (fields 786 2 (by decide)).trans (Entry.state_closed _ _), (fields 736 32 (by decide)).trans (Entry.generation_closed _ _)⟩
  have gone := State.convOf_filtered (s := s) (ctx := cv.ctx) (tid := cv.tid)
  unfold State.convOf at gone ⊢
  rw [changed.convs]
  exact gone

end Conversions

/-! ### Seals and their time-out (11 R238, R240) -/

section Seals

variable {s : State} {x : Sealing} {d : Demand} {r : FibreRef} {m : MemLoc} {e : Entry}

/-- A seal that completes leaves the list, and its member's bit is set in the entry. -/
theorem State.finishSeal_home (demands : s.demands = []) (read : s.readEntry x.ctx 0 x.tid = .ok (m, e)) :
    HomeChanged { s with sealing := s.sealing.erase x, mem := s.mem.write m.pa ((bytesOfNat 128 (e.sealMember s.grid x.member)).map some) } (s.finishSeal x) := by
  have changed := State.changeEntry_home (s := { s with sealing := s.sealing.erase x }) read fun e => e.sealMember s.grid x.member
  have idle := State.serveDemands_of_none (changed.demands.trans demands) x.ctx x.tid
  have eq : s.finishSeal x = _ := idle
  rw [eq]
  exact changed

theorem exec_sealComplete (ready : s.sealing.find? s.sealReady = some x) : exec .sealComplete s = .next (s.finishSeal x) := by
  change execSealComplete s = _
  unfold execSealComplete
  rw [ready]
  rfl

theorem sealComplete_clause (wf : s.mem.wf = true) (ready : s.sealing.find? s.sealReady = some x) (read : s.readEntry x.ctx 0 x.tid = .ok (m, e))
    (demands : s.demands = []) :
    ∃ s' e', exec .sealComplete s = .next s' ∧ s'.sealing = s.sealing.erase x ∧ Claims.EntryStored s s' m.pa e' ∧
      (∀ k, k < 4 → (Entry.sealedMask e').testBit k = (e.sealedMask.testBit k || decide (k = x.member))) ∧
      (e.state = 0 → (∀ p ∈ e.localMembers s.grid, p.1 = x.member ∨ e.sealedMask.testBit p.1 = true) →
        Entry.state e' = 1 ∧ Entry.generation e' = (e.generation + 1) % 2 ^ 32) ∧
      (e.state = 0 → (∃ p ∈ e.localMembers s.grid, p.1 ≠ x.member ∧ e.sealedMask.testBit p.1 = false) →
        Entry.state e' = 0 ∧ Entry.generation e' = e.generation) := by
  have changed := State.finishSeal_home demands read
  obtain ⟨e', stored, fields⟩ := entryStored_of_written wf changed.mem
  have state : Entry.state e' = (e.sealMember s.grid x.member).state := fields 786 2 (by decide)
  have mask : Entry.sealedMask e' = (e.sealMember s.grid x.member).sealedMask := fields 788 4 (by decide)
  have generation : Entry.generation e' = (e.sealMember s.grid x.member).generation := fields 736 32 (by decide)
  refine ⟨_, e', exec_sealComplete ready, changed.sealing, stored, ?_⟩
  rw [state, mask, generation]
  exact ⟨fun k => Entry.sealMember_testBit, Entry.sealMember_last, Entry.sealMember_more⟩

/-- A TLD whose timer has run out, with no conversion on any tensor: it stops waiting, is counted, and traps. -/
theorem sealTimeout_tld (due : s.demands.find? s.askerDue = some d) (who : d.who = .tld r) (convs : s.convs = []) :
    exec .sealTimeout s = .next ((({ s with demands := s.demands.filter (fun y => y.who != d.who) }).count d.ctx 0x51 1).raiseAt r
      ⟨0x15, 0, s.entryAddr d.ctx d.tid, 0⟩ [] 0) := by
  have unserved : s.convOf d.ctx d.tid = none := by
    unfold State.convOf
    rw [convs]
    rfl
  change execSealTimeout s = _
  unfold execSealTimeout State.failAsker
  rw [due]
  simp only [who, unserved]
  rfl

end Seals

/-- Settles O42, from what each event does to the conversion, the seal or the demand that it is about; that one CONVERSION_COMPLETE takes one axis is log entry 44. -/
theorem placementEventResult : Obligations.PlacementEventResult := by
  intro s ctx tid axis coord cells m e wf
  refine ⟨fun cv => conversionInput_clause, fun cv run read => ⟨conversionComplete_nextAxis run read, conversionComplete_end wf run read⟩,
    fun x ready read _ demands => sealComplete_clause wf ready read demands, fun d r => sealTimeout_tld⟩

end Sys2Proof.Machine
end

section
/-! SUPPORT. Integer products on the matrix unit (`Machine/Fp.lean`, `Machine/Matrix.lean`; 13 R267, R269, R270): a sum of whole numbers is exact, and the chunks of an element add up to one dot product, wrapped once. -/

namespace Sys2Proof.Machine

/-! ### Whole values -/

/-- A finite value with exponent 0: what an integer, and a product of two of them, is (13 R267). -/
def FVal.Whole (x : FVal) : Prop := ∃ n m, x = .num n m 0

theorem FVal.whole_ofInt (v : Int) : (FVal.ofInt v).Whole := ⟨_, _, rfl⟩

/-- A magnitude with its sign is the value that it stands for. -/
theorem FVal.toIntExact_ofInt (v : Int) : (FVal.ofInt v).toIntExact = v := by
  obtain neg | pos := lt_or_ge v 0
  · simp [FVal.ofInt, FVal.toIntExact, neg, abs_of_neg]
  · simp [FVal.ofInt, FVal.toIntExact, pos, abs_of_nonneg]

/-- A whole value in units of 1 is its integer. -/
theorem FVal.Whole.units_eq {x : FVal} (h : x.Whole) : x.units 0 = x.toIntExact := by
  obtain ⟨n, m, rfl⟩ := h
  by_cases zero : m = 0 <;> simp [FVal.units, FVal.toIntExact, zero]

/-- A product of whole values is whole and exact. -/
theorem FVal.Whole.mul {x y : FVal} (hx : x.Whole) (hy : y.Whole) : (x.mul y).Whole ∧ (x.mul y).toIntExact = x.toIntExact * y.toIntExact := by
  obtain ⟨n, m, rfl⟩ := hx
  obtain ⟨n', m', rfl⟩ := hy
  refine ⟨⟨_, _, rfl⟩, ?_⟩
  cases n <;> cases n' <;> simp [FVal.mul, FVal.toIntExact]

/-- Whole terms are counted in units of 1, or all of them are 0. -/
theorem leastExp_whole {xs : List FVal} (h : ∀ x ∈ xs, x.Whole) :
    leastExp xs = some 0 ∨ (leastExp xs = none ∧ ∀ x ∈ xs, x.toIntExact = 0) := by
  induction xs with
  | nil => exact .inr ⟨rfl, by simp⟩
  | cons x xs ih =>
    obtain ⟨n, m, rfl⟩ := h x List.mem_cons_self
    obtain least | ⟨least, zeros⟩ := ih fun y hy => h y (List.mem_cons_of_mem _ hy)
    · exact .inl (by simp [leastExp, least])
    · by_cases zero : m = 0
      · exact .inr ⟨by simp [leastExp, least, zero], by simpa [zero, FVal.toIntExact] using zeros⟩
      · exact .inl (by simp [leastExp, least, zero])

/-- A sum of whole values is finite and exact (13 R267). -/
theorem sumVals_whole {xs : List FVal} (h : ∀ x ∈ xs, x.Whole) :
    (sumVals false xs).Whole ∧ (sumVals false xs).toIntExact = (xs.map FVal.toIntExact).sum := by
  have finite : ∀ p : FVal → Bool, (∀ n m, p (.num n m 0) = false) → xs.any p = false := fun p hp =>
    List.any_eq_false.mpr fun x hx => by
      obtain ⟨n, m, rfl⟩ := h x hx
      simp [hp]
  have units : (xs.map (FVal.units 0)).foldl (· + ·) 0 = (xs.map FVal.toIntExact).sum := by
    rw [List.sum_eq_foldl, List.map_congr_left fun x hx => (h x hx).units_eq]
  unfold sumVals
  rw [finite FVal.isNan fun _ _ => rfl, finite (· == .inf false) fun _ _ => rfl, finite (· == .inf true) fun _ _ => rfl]
  obtain least | ⟨least, zeros⟩ := leastExp_whole h
  · simp only [least, units]
    by_cases zero : (xs.map FVal.toIntExact).sum = 0
    · rw [if_pos zero, zero]
      exact ⟨⟨_, _, rfl⟩, rfl⟩
    · rw [if_neg zero]
      exact ⟨FVal.whole_ofInt _, FVal.toIntExact_ofInt _⟩
  · have sum : (xs.map FVal.toIntExact).sum = 0 := List.sum_eq_zero (by simpa using zeros)
    rw [least, sum]
    exact ⟨⟨_, _, rfl⟩, by simp [FVal.toIntExact]⟩

/-- A chunk of whole values has their dot product as its sum. -/
theorem chunkSum_whole {as bs : List FVal} (ha : ∀ x ∈ as, x.Whole) (hb : ∀ x ∈ bs, x.Whole) :
    (chunkSum as bs).toIntExact = (List.zipWith (fun x y => x.toIntExact * y.toIntExact) as bs).sum := by
  have factors : ∀ p ∈ as.zip bs, p.1.Whole ∧ p.2.Whole := fun p hp => ⟨ha _ (List.of_mem_zip hp).1, hb _ (List.of_mem_zip hp).2⟩
  obtain ⟨⟨n, m, sum⟩, value⟩ := sumVals_whole (xs := (as.zip bs).map fun p => p.1.mul p.2) fun x hx => by
    obtain ⟨p, hp, rfl⟩ := List.mem_map.mp hx
    exact ((factors p hp).1.mul (factors p hp).2).1
  have products : ((as.zip bs).map fun p => p.1.mul p.2).map FVal.toIntExact = List.zipWith (fun x y => x.toIntExact * y.toIntExact) as bs := by
    rw [List.map_map, ← List.map_uncurry_zip_eq_zipWith]
    exact List.map_congr_left fun p hp => ((factors p hp).1.mul (factors p hp).2).2
  rw [products, sum] at value
  unfold chunkSum
  rw [sum, ← value]
  by_cases zero : m = 0 <;> simp [zero, FVal.toIntExact]

/-! ### Chunks -/

/-- The exact dot product of two lists of integers. -/
def intDot (as bs : List Int) : Int := (List.zipWith (· * ·) as bs).sum

theorem intDot_take_add (as bs : List Int) (n k : Nat) :
    intDot (as.take (n + k)) (bs.take (n + k)) = intDot (as.take n) (bs.take n) + intDot ((as.drop n).take k) ((bs.drop n).take k) := by
  unfold intDot
  rw [← List.take_zipWith, ← List.take_zipWith, ← List.take_zipWith, ← List.drop_zipWith, List.take_add, List.sum_append]

theorem chunkSum_ofInt (as bs : List Int) : (chunkSum (as.map FVal.ofInt) (bs.map FVal.ofInt)).toIntExact = intDot as bs := by
  have whole : ∀ l : List Int, ∀ x ∈ l.map FVal.ofInt, x.Whole := fun l x hx => by
    obtain ⟨v, -, rfl⟩ := List.mem_map.mp hx
    exact FVal.whole_ofInt v
  rw [chunkSum_whole (whole as) (whole bs), List.zipWith_map]
  simp only [FVal.toIntExact_ofInt, intDot]

theorem ofNat_wrapNat (v : Int) : BitVec.ofNat 32 (wrapNat 32 v) = BitVec.ofInt 32 v := by
  apply BitVec.eq_of_toNat_eq
  simp only [wrapNat, BitVec.toNat_ofNat, BitVec.toNat_ofInt]
  omega

theorem ofInt_signedOf (v : Nat) : BitVec.ofInt 32 (signedOf 32 v) = BitVec.ofNat 32 v := by
  apply BitVec.eq_of_toNat_eq
  simp only [signedOf, BitVec.toNat_ofNat, BitVec.toNat_ofInt]
  split <;> omega

/-- A chunk without saturation adds its dot product modulo 2 ^ 32. -/
theorem intChunk_ofInt (acc : Nat) (as bs : List Int) :
    BitVec.ofNat 32 (intChunk false acc (as.map FVal.ofInt) (bs.map FVal.ofInt)) = BitVec.ofNat 32 acc + BitVec.ofInt 32 (intDot as bs) := by
  rw [intChunk, chunkSum_ofInt, ofNat_wrapNat, if_neg Bool.false_ne_true, BitVec.ofInt_add, ofInt_signedOf]

/-- The chunks of an integer element, each wrapped, give its start plus one dot product wrapped once (13 R269, R270). -/
theorem mmaElement_ofInt (kc : Nat) (sa sb : List (Option Int)) (left c : Nat) (as bs : List Int) (acc : Nat) :
    BitVec.ofNat 32 (mmaElement kc true false sa sb left c (as.map FVal.ofInt) (bs.map FVal.ofInt) acc) =
      BitVec.ofNat 32 acc + BitVec.ofInt 32 (intDot (as.take (kc * left)) (bs.take (kc * left))) := by
  induction left generalizing c as bs acc with
  | zero => simp [mmaElement, intDot]
  | succ left ih =>
    rw [mmaElement]
    simp only [if_true, ← List.map_take, ← List.map_drop]
    rw [ih, intChunk_ofInt, Nat.mul_succ, Nat.add_comm (kc * left), intDot_take_add, BitVec.ofInt_add, BitVec.add_assoc]

/-- Two i8 lines of `K` elements give the sum of their products, wrapped once (13 R269, R270). -/
theorem mmaElement_i8 {K : Nat} (a b : Nat → Int) (sa sb : List (Option Int)) (start : Nat) (chunks : 16 ∣ K) :
    BitVec.ofNat 32 (mmaElement 16 true false sa sb (K / 16) 0 (((List.range K).map a).map FVal.ofInt) (((List.range K).map b).map FVal.ofInt) start) =
      BitVec.ofNat 32 start + BitVec.ofInt 32 ((List.range K).map fun k => a k * b k).sum := by
  rw [mmaElement_ofInt, Nat.mul_div_cancel' chunks, List.take_of_length_le (by simp), List.take_of_length_le (by simp), intDot, List.zipWith_map, List.zipWith_self]

end Sys2Proof.Machine
end

section
/-! SUPPORT. MMA_COMPLETE on integer operands (`Machine/Matrix.lean`; 13 R269, R270; 19 R404): a tile written whole, the operand lines as they stand in memory, the new tile element by element, and the obligation (O38). -/

namespace Sys2Proof.Machine

/-! ### A tile written whole (19 R408) -/

section Tile

variable {t : Team} {tile : Nat}

theorem foldr_sparsePut_wf {α β : Type} [DecidableEq β] {z : β} {k : α → Nat} {v : α → β} {m : List (Nat × β)} (h : sparseWf z m = true) (l : List α) :
    sparseWf z (l.foldr (fun p m => sparsePut z m (k p) (v p)) m) = true := by
  induction l with
  | nil => exact h
  | cons p l ih => exact sparsePut_wf ih

/-- A key that no put names reads as before. -/
theorem sparseGet_foldr_put_other {α β : Type} [DecidableEq β] {z : β} {k : α → Nat} {v : α → β} {m : List (Nat × β)} {l : List α} {a : Nat}
    (other : ∀ p ∈ l, a ≠ k p) : sparseGet z (l.foldr (fun p m => sparsePut z m (k p) (v p)) m) a = sparseGet z m a := by
  induction l with
  | nil => rfl
  | cons p l ih =>
    rw [List.foldr_cons, sparseGet_put_other (other p List.mem_cons_self)]
    exact ih fun q hq => other q (List.mem_cons_of_mem _ hq)

/-- A key that is put, always with one value, reads as that value. -/
theorem sparseGet_foldr_put_same {α β : Type} [DecidableEq β] {z w : β} {k : α → Nat} {v : α → β} {m : List (Nat × β)} (wf : sparseWf z m = true)
    {l : List α} {q : α} (listed : q ∈ l) (only : ∀ p ∈ l, k p = k q → v p = w) :
    sparseGet z (l.foldr (fun p m => sparsePut z m (k p) (v p)) m) (k q) = w := by
  induction l with
  | nil => cases listed
  | cons p l ih =>
    rw [List.foldr_cons]
    by_cases same : k p = k q
    · rw [← same, sparseGet_put_same (foldr_sparsePut_wf wf l)]
      exact only p List.mem_cons_self same
    · rw [sparseGet_put_other (Ne.symm same)]
      refine ih ((List.mem_cons.mp listed).resolve_left ?_) fun p hp => only p (List.mem_cons_of_mem _ hp)
      rintro rfl
      exact same rfl

/-- A set that nothing joins stays. -/
theorem foldr_setInsert_none {α : Type} {joins : α → Bool} {k : α → Nat} {m : List Nat} {l : List α} (none : ∀ p ∈ l, joins p = false) :
    l.foldr (fun p m => if joins p then setInsert m (k p) else m) m = m := by
  induction l with
  | nil => rfl
  | cons p l ih =>
    rw [List.foldr_cons, none p List.mem_cons_self, if_neg Bool.false_ne_true]
    exact ih fun q hq => none q (List.mem_cons_of_mem _ hq)

/-- A tile write changes the elements and the poison of the accumulators alone: the tile's own go, and the new ones are put. -/
theorem Team.putTile_eq (t : Team) (tile : Nat) (vs : List (Word32 × Bool)) :
    t.putTile tile vs = { t with
      acc := ((List.range vs.length).zip vs).foldr (fun p m => sparsePut 0 m (tile * tileElems + p.1) p.2.1)
        (t.acc.filter fun p => p.1 < tile * tileElems || tile * tileElems + tileElems ≤ p.1)
      accPoison := ((List.range vs.length).zip vs).foldr (fun p m => if p.2.2 then setInsert m ((tile * tileElems + p.1) / 2) else m)
        (t.accPoison.filter fun p => 2 * p < tile * tileElems || tile * tileElems + tileElems ≤ 2 * p) } := by
  unfold Team.putTile
  dsimp only
  generalize (List.range vs.length).zip vs = l
  induction l with
  | nil => rfl
  | cons p l ih =>
    simp only [List.foldr_cons] at ih ⊢
    rw [ih]

theorem mem_range_zip_iff {α : Type} {vs : List α} {p : Nat × α} : p ∈ (List.range vs.length).zip vs ↔ vs[p.1]? = some p.2 := by
  constructor
  · intro hp
    obtain ⟨k, hk⟩ := List.mem_iff_getElem?.mp hp
    obtain ⟨place, value⟩ := List.getElem?_zip_eq_some.mp hk
    obtain ⟨inside, index⟩ := List.getElem?_eq_some_iff.mp place
    have found : k = p.1 := by simpa using index
    rwa [found] at value
  · intro hp
    obtain ⟨inside, value⟩ := List.getElem?_eq_some_iff.mp hp
    exact List.mem_iff_getElem?.mpr ⟨p.1, List.getElem?_zip_eq_some.mpr ⟨List.getElem?_range inside, hp⟩⟩

/-- An element of the tile is the one written at its place. -/
theorem Team.putTile_accAt {vs : List (Word32 × Bool)} {e : Nat} {w : Word32 × Bool} (wf : sparseWf 0 t.acc = true) (h : vs[e]? = some w) :
    (t.putTile tile vs).accAt tile e = w.1 := by
  rw [Team.putTile_eq, Team.accAt]
  refine sparseGet_foldr_put_same (q := (e, w)) (sparseFilter_wf _ wf) (mem_range_zip_iff.mpr h) fun p hp same => ?_
  have place : p.1 = e := Nat.add_left_cancel same
  rw [mem_range_zip_iff, place, h] at hp
  rw [← Option.some.inj hp]

/-- The other tiles stay. -/
theorem Team.putTile_accAt_other {vs : List (Word32 × Bool)} {u e : Nat} (short : vs.length ≤ tileElems) (other : u ≠ tile) (he : e < tileElems) :
    (t.putTile tile vs).accAt u e = t.accAt u e := by
  have outside : u * tileElems + e < tile * tileElems ∨ tile * tileElems + tileElems ≤ u * tileElems + e := by
    unfold tileElems at *
    omega
  rw [Team.putTile_eq, Team.accAt, Team.accAt]
  dsimp only
  rw [sparseGet_foldr_put_other, sparseGet_filter_in]
  · intro v
    simpa using outside
  · intro p hp
    obtain ⟨place, -⟩ := List.of_mem_zip hp
    have := List.mem_range.mp place
    omega

/-- A tile written without poison has none. -/
theorem Team.putTile_accBad {vs : List (Word32 × Bool)} {e : Nat} (clean : ∀ w ∈ vs, w.2 = false) (he : e < tileElems) :
    (t.putTile tile vs).accBad tile e = false := by
  rw [Team.putTile_eq, Team.accBad]
  dsimp only
  rw [foldr_setInsert_none fun p hp => clean _ (List.of_mem_zip hp).2]
  rw [List.contains_eq_mem, decide_eq_false_iff_not, List.mem_filter]
  rintro ⟨-, kept⟩
  simp only [Bool.or_eq_true, decide_eq_true_eq] at kept
  unfold tileElems at *
  omega

end Tile

/-! ### The operand lines in memory -/

section Lines

variable {s u : State} {t : Team} {m : MmaOp}

theorem HomeChanged.translate (h : HomeChanged s u) : translate u = translate s := by
  funext c die space va k engine
  unfold Machine.translate
  rw [h.leafFor]

theorem HomeChanged.operandBytes (h : HomeChanged s u) : operandBytes u = operandBytes s := by
  funext t die space a n
  unfold Machine.operandBytes State.member? State.physBytes
  rw [h.translate, h.teams, h.mem]

theorem elemCode_congr (same : operandBytes u = operandBytes s) : elemCode u = elemCode s := by
  funext t die e ix
  unfold elemCode
  rw [same]

theorem blockExp_congr (same : operandBytes u = operandBytes s) : blockExp u = blockExp s := by
  funext t die e n b ix
  unfold blockExp
  rw [same]

theorem denseLine_congr (same : operandBytes u = operandBytes s) : denseLine u = denseLine s := by
  funext t die e ints k0 row depth
  unfold denseLine o4Line
  rw [elemCode_congr same, blockExp_congr same, same]

theorem sparseLine_congr (same : operandBytes u = operandBytes s) : sparseLine u = sparseLine s := by
  funext t die m j
  unfold sparseLine
  rw [elemCode_congr same, blockExp_congr same]

theorem mmaRows_congr (same : operandBytes u = operandBytes s) : mmaRows u = mmaRows s := by
  funext t m
  unfold mmaRows
  rw [denseLine_congr same]

theorem mmaColumns_congr (same : operandBytes u = operandBytes s) : mmaColumns u = mmaColumns s := by
  funext t m
  unfold mmaColumns
  rw [denseLine_congr same, sparseLine_congr same]

theorem State.countRefresh_home (s : State) (ctx a : Nat) (ls : List Loc) : HomeChanged s (s.countRefresh ctx a ls) := by
  unfold State.countRefresh
  dsimp only
  split
  · exact HomeChanged.refl s
  · exact HomeChanged.count s ctx 0x44 _

theorem State.countRefresh_mmas (s : State) (ctx a : Nat) (ls : List Loc) : (s.countRefresh ctx a ls).mmas = s.mmas := by
  simp [State.countRefresh, apply_ite State.mmas]

/-- A dense line of an i8 operand holds the signed values of its codes. -/
theorem denseLine_i8 {die k0 row depth : Nat} {e : Entry} {ints : Bool} (fmt : e.fmt = 6) :
    (denseLine s t die e ints k0 row depth).vals =
      ((List.range depth).map fun k => Claims.signed 8 (elemCode s t die e [k0 + k, row, 0, 0, 0]).1).map FVal.ofInt := by
  unfold denseLine
  rw [fmt, if_neg (by decide)]
  simp only [List.map_map]
  rfl

end Lines

/-! ### The new tile -/

section NewTile

variable {s : State} {t : Team} {m : MmaOp} {i j : Nat}

/-- An element of equal parts is that of its part. -/
theorem flatMap_getElem? {α β : Type} {f : α → List β} {k : Nat} (length : ∀ a, (f a).length = k) {l : List α} {i j : Nat} {a : α} (h : l[i]? = some a) (hj : j < k) :
    (l.flatMap f)[k * i + j]? = (f a)[j]? := by
  rw [← flatMap_part length h [], List.append_nil, List.getElem?_take_of_lt hj, List.getElem?_drop]

theorem mmaTile_length {rows cols : List OperandLine} (hr : rows.length = tileRows) (hc : cols.length = tileCols) : (mmaTile t m rows cols).length = tileElems := by
  unfold mmaTile
  rw [flatMap_length (k := tileCols) fun r => by simp [hc], List.length_zip, hr, List.length_range]
  rfl

/-- The element of row `i` and column `j` comes of the line `i` of A and the line `j` of B (13 R269). -/
theorem mmaTile_element {rows cols : List OperandLine} {row col : OperandLine} (hr : rows.length = tileRows) (hc : cols.length = tileCols)
    (row_eq : rows[i]? = some row) (col_eq : cols[j]? = some col) :
    (mmaTile t m rows cols)[tileCols * i + j]? = some (BitVec.ofNat 32 (mmaElement (chunkSize (Entry.fmt m.entryA)) (intFmt (Entry.fmt m.entryA)) m.sat row.scales col.scales
      (m.depth / chunkSize (Entry.fmt m.entryA)) 0 row.vals col.vals (if m.acc then (t.accAt m.tile (tileCols * i + j)).toNat else 0))) := by
  have line : ((List.range tileRows).zip rows)[i]? = some (i, row) :=
    List.getElem?_zip_eq_some.mpr ⟨List.getElem?_range (hr ▸ (List.getElem?_eq_some_iff.mp row_eq).1), row_eq⟩
  have inside : j < tileCols := hc ▸ (List.getElem?_eq_some_iff.mp col_eq).1
  have column : ((List.range tileCols).zip cols)[j]? = some (j, col) := List.getElem?_zip_eq_some.mpr ⟨List.getElem?_range inside, col_eq⟩
  unfold mmaTile
  rw [flatMap_getElem? (fun r => by simp [hc]) line inside, List.getElem?_map, column, Nat.mul_comm]
  rfl

/-- Value `k` of row `i` of an i8 operand A. -/
def MmaOp.rowVal (m : MmaOp) (s : State) (t : Team) (i k : Nat) : Int :=
  Claims.signed 8 (elemCode s t m.die m.entryA [bitsOf m.ra 0 24 + k, bitsOf m.ra 24 24 + i, 0, 0, 0]).1

/-- Value `k` of column `j` of an i8 operand B. -/
def MmaOp.colVal (m : MmaOp) (s : State) (t : Team) (j k : Nat) : Int :=
  Claims.signed 8 (elemCode s t m.die m.entryB [bitsOf m.rb 0 24 + k, bitsOf m.rb 24 24 + j, 0, 0, 0]).1

theorem mmaRows_i8 (fmt : Entry.fmt m.entryA = 6) (hi : i < tileRows) :
    ∃ row, (mmaRows s t m)[i]? = some row ∧ row.vals = ((List.range m.depth).map (m.rowVal s t i)).map FVal.ofInt :=
  ⟨_, by rw [mmaRows, List.getElem?_map, List.getElem?_range hi]; rfl, denseLine_i8 fmt⟩

theorem mmaColumns_i8 (fmt : Entry.fmt m.entryB = 6) (dense : m.kind = 0) (hj : j < tileCols) :
    ∃ col, (mmaColumns s t m)[j]? = some col ∧ col.vals = ((List.range m.depth).map (m.colVal s t j)).map FVal.ofInt :=
  ⟨_, by rw [mmaColumns, List.getElem?_map, List.getElem?_range hj, dense]; rfl, denseLine_i8 fmt⟩

/-- An element of the new tile of two dense i8 operands. -/
theorem mmaTile_i8 (fmtA : Entry.fmt m.entryA = 6) (fmtB : Entry.fmt m.entryB = 6) (dense : m.kind = 0) (sat : m.sat = false) (depth : m.depth % 32 = 0)
    (hi : i < tileRows) (hj : j < tileCols) :
    (mmaTile t m (mmaRows s t m) (mmaColumns s t m))[tileCols * i + j]? = some (BitVec.ofInt 32
      ((if m.acc then (t.accAt m.tile (tileCols * i + j)).toInt else 0) + ((List.range m.depth).map fun k => m.rowVal s t i k * m.colVal s t j k).sum)) := by
  obtain ⟨row, row_eq, row_vals⟩ := mmaRows_i8 (s := s) (t := t) fmtA hi
  obtain ⟨col, col_eq, col_vals⟩ := mmaColumns_i8 (s := s) (t := t) fmtB dense hj
  have chunk : chunkSize 6 = 16 := rfl
  have ints : intFmt 6 = true := rfl
  rw [mmaTile_element (by simp [mmaRows]) (by simp [mmaColumns]) row_eq col_eq, fmtA, chunk, ints, sat, row_vals, col_vals, mmaElement_i8 _ _ _ _ _ (by omega),
    BitVec.ofInt_add]
  cases m.acc <;> simp

end NewTile

/-! ### MMA_COMPLETE -/

section Complete

variable {s : State} {t : Team} {m : MmaOp} {rest : List MmaOp}

/-- Two teams have the same accumulators. -/
def Team.SameTiles (t' t : Team) : Prop := t'.acc = t.acc ∧ t'.accPoison = t.accPoison

theorem Team.SameTiles.accAt {t' : Team} (h : t'.SameTiles t) (tile e : Nat) : t'.accAt tile e = t.accAt tile e := by
  rw [Team.accAt, Team.accAt, h.1]

theorem Team.SameTiles.accBad {t' : Team} (h : t'.SameTiles t) (tile e : Nat) : t'.accBad tile e = t.accBad tile e := by
  rw [Team.accBad, Team.accBad, h.2]

/-- The signers' counters are no part of a team's accumulators. -/
theorem State.dropSigners_team (team : s.team? m.team = some t) : ∃ t', (s.dropSigners m).team? m.team = some t' ∧ t'.SameTiles t :=
  List.foldlRecOn (motive := fun u : State => ∃ t', u.team? m.team = some t' ∧ t'.SameTiles t) m.signers _ ⟨t, team, rfl, rfl⟩
    fun _ ⟨_, found, same⟩ i _ => ⟨_, State.team?_updFibre (r := ⟨m.team, i⟩) _ found, same⟩

theorem State.dropSigners_mmas (s : State) (m : MmaOp) : (s.dropSigners m).mmas = s.mmas :=
  List.foldlRecOn (motive := fun u : State => u.mmas = s.mmas) m.signers _ rfl fun _ hu _ _ => hu

/-- The operation has left the queue, and the stall of its reads is counted (08 R171). -/
def State.mmaTaken (s : State) (t : Team) (m : MmaOp) (rest : List MmaOp) : State :=
  ({ s with mmas := rest } : State).countRefresh t.ctx m.at_ (mmaReads s t m)

theorem State.mmaTaken_home : HomeChanged { s with mmas := rest } (s.mmaTaken t m rest) := State.countRefresh_home _ _ _ _

theorem State.mmaTaken_mmas : (s.mmaTaken t m rest).mmas = rest := State.countRefresh_mmas _ _ _ _

/-- The words that the operation writes for team `u`, its lines read for team `t`; none is poisoned. -/
def MmaOp.written (m : MmaOp) (s : State) (t u : Team) : List (Word32 × Bool) :=
  (mmaTile u m (mmaRows s t m) (mmaColumns s t m)).map fun v => (v, false)

theorem MmaOp.written_length {u : Team} : (m.written s t u).length = tileElems := by
  rw [MmaOp.written, List.length_map]
  exact mmaTile_length (by simp [mmaRows]) (by simp [mmaColumns])

theorem MmaOp.written_clean {u : Team} {w : Word32 × Bool} (h : w ∈ m.written s t u) : w.2 = false := by
  obtain ⟨v, -, rfl⟩ := List.mem_map.mp h
  rfl

/-- The oldest operation, with its array right and nothing to report: its tile is written and its signers' counters drop (19 R404). -/
theorem exec_mmaComplete (queue : s.mmas = m :: rest) (ids : ∀ x ∈ rest, x.id ≠ m.id) (team : s.team? m.team = some t) (own : t.id = m.team)
    (runs : mmaStalled s t m = false) (clean : mmaCause t m (mmaRows s t m) (mmaColumns s t m) = none) :
    exec (.mmaComplete 0) s = .next (((s.mmaTaken t m rest).updTeam m.team fun u => u.putTile m.tile (m.written s t u)).dropSigners m) := by
  have kept : s.mmas.filter (fun x => x.id != m.id) = rest := by
    rw [queue, List.filter_cons_of_neg (by simp), List.filter_eq_self.mpr fun x hx => by simpa using ids x hx]
  have lines : operandBytes (({ s with mmas := rest } : State).countRefresh t.ctx m.at_ (mmaReads s t m)) = operandBytes s :=
    State.mmaTaken_home.operandBytes
  change execMmaComplete 0 s = _
  unfold execMmaComplete
  rw [queue]
  dsimp only
  rw [team]
  dsimp only
  rw [runs, if_neg Bool.false_ne_true]
  unfold completeMma
  rw [kept]
  dsimp only
  rw [mmaRows_congr lines, mmaColumns_congr lines, clean, own]
  rfl

/-- So its team has the tile written whole, and memory and the other operations are as before. -/
theorem mmaComplete_tile (queue : s.mmas = m :: rest) (ids : ∀ x ∈ rest, x.id ≠ m.id) (team : s.team? m.team = some t) (own : t.id = m.team)
    (runs : mmaStalled s t m = false) (clean : mmaCause t m (mmaRows s t m) (mmaColumns s t m) = none) :
    ∃ s' t', exec (.mmaComplete 0) s = .next s' ∧ s'.mem = s.mem ∧ s'.mmas = rest ∧ s'.team? m.team = some t' ∧
      t'.SameTiles (t.putTile m.tile (m.written s t t)) := by
  have found : (s.mmaTaken t m rest).team? m.team = some t := by
    unfold State.team?
    rw [State.mmaTaken_home.teams]
    exact team
  have written := (State.team?_updTeam _ m.team (fun u => u.putTile m.tile (m.written s t u)) fun _ => by rw [Team.putTile_eq]).trans (congrArg _ found)
  obtain ⟨t', last, tiles⟩ := State.dropSigners_team written
  refine ⟨_, t', exec_mmaComplete queue ids team own runs clean, ?_, ?_, last, tiles⟩
  · rw [State.dropSigners_mem, State.updTeam_mem, State.mmaTaken_home.mem]
  · rw [State.dropSigners_mmas, State.updTeam_mmas, State.mmaTaken_mmas]

end Complete

/-- Settles O38: the oldest operation writes its tile whole, and the chunks of an element, each wrapped, add up to one dot product of two i8 lines. -/
theorem mmaIntegerResult : Obligations.MmaIntegerResult := by
  unfold Obligations.MmaIntegerResult
  intro s t m rest queue ids team own runs fmtA fmtB dense sat depth _ _ clean wf av bv
  obtain ⟨s', t', run, mem, mmas, team', tiles⟩ := mmaComplete_tile queue ids team own runs clean
  refine ⟨s', t', run, mem, mmas, team', fun i j hi hj => ⟨?_, ?_⟩, fun u e other he => ?_⟩
  · have inside : 96 * i + j < tileElems := by
      unfold tileElems
      omega
    rw [tiles.accBad, Team.putTile_accBad (fun _ => MmaOp.written_clean) inside]
  · have element := congrArg (Option.map fun v => (v, false)) (mmaTile_i8 (s := s) (t := t) fmtA fmtB dense sat depth hi hj)
    rw [← List.getElem?_map] at element
    rw [tiles.accAt]
    exact Team.putTile_accAt wf element
  · rw [tiles.accAt, Team.putTile_accAt_other MmaOp.written_length.le other he]

end Sys2Proof.Machine
end

section
/-! SUPPORT. RFT (`Machine/Return.lean`, `Machine/Ops.lean`; 14 R282, R283, 16 R340): what the dwords of a frame are, where a return continues, and what it restores. -/

namespace Sys2Proof.Machine

/-! ### The dwords of a frame (14 Table 14.4) -/

/-- Dword `k` of a frame, from the number that its sixteen dwords form. -/
def frameDword (v k : Nat) : Dword := BitVec.ofNat 64 (v / 2 ^ (64 * k))

theorem frameWords_getD {v k : Nat} (hk : k < 16) : (frameWords v).getD k 0 = frameDword v k := by
  have word : ofNat64 (bitsOf v (64 * k) 64) = frameDword v k := by
    simp [ofNat64, bitsOf, frameDword, ← BitVec.toNat_inj]
  simpa [frameWords, hk] using word

theorem frameWords_drop (v : Nat) : (frameWords v).drop 12 = (List.range' 12 4).map (frameDword v) := by
  refine List.ext_getElem (by simp [frameWords]) fun i _ hi => ?_
  have below : 12 + i < 16 := by
    simp only [List.length_map, List.length_range'] at hi
    omega
  have word := frameWords_getD (v := v) below
  rw [List.getD_eq_getElem _ _ (by simpa [frameWords] using below)] at word
  simpa using word

/-- The reserved bits of a frame, its last four dwords among them, are zero. -/
def FrameClean (w : Nat → Dword) : Prop :=
  (∀ k, k ≤ 2 ∨ k = 4 → (w k).toNat < 2 ^ 52) ∧ (w 11).toNat < 2 ^ 8 ∧ ∀ k, 12 ≤ k → k < 16 → w k = 0

theorem frameReserved_eq_false {v : Nat} : frameReserved (frameWords v) = false ↔ FrameClean (frameDword v) := by
  have low : (∀ k, k ≤ 2 ∨ k = 4 → (frameDword v k).toNat < 2 ^ 52) ↔
      (frameDword v 0).toNat < 2 ^ 52 ∧ (frameDword v 1).toNat < 2 ^ 52 ∧ (frameDword v 2).toNat < 2 ^ 52 ∧ (frameDword v 4).toNat < 2 ^ 52 := by
    refine ⟨fun h => ⟨h 0 (by decide), h 1 (by decide), h 2 (by decide), h 4 (by decide)⟩, ?_⟩
    rintro ⟨h0, h1, h2, h4⟩ k (hk | rfl)
    · interval_cases k <;> assumption
    · exact h4
  have last : ((frameWords v).drop 12).any (fun d => d != 0) = false ↔ ∀ k, 12 ≤ k → k < 16 → frameDword v k = 0 := by
    simp [frameWords_drop, List.mem_range'_1]
  simp (disch := decide) only [frameReserved, frameWords_getD, Bool.or_eq_false_iff, last, FrameClean, low, decide_eq_false_iff_not, not_or,
    Nat.not_le, and_assoc]

/-! ### What a return restores (14 R282) -/

/-- A fibre that has returned to `target`: g0 to g3, the predicates, the modes, the flags and lk are those of the frame `w`, the frame is popped, and the fibre is in
no handler. A result held for its instruction is kept when it comes back to it (06 R135). -/
def Fibre.returned (w : Nat → Dword) (target : Nat) (clause : Option Clause) (again : Bool) (aclk : Nat) (f : Fibre) : Fibre :=
  ({ (((f.setReg 0 (w 5)).setReg 1 (w 6)).setReg 2 (w 7)).setReg 3 (w 8) with
    pred := predWord (BitVec.ofNat 32 ((w 3).toNat % 2 ^ 32))
    fmode := BitVec.ofNat 16 ((w 3).toNat / 2 ^ 32) &&& 0x00FB
    fflags := BitVec.ofNat 16 ((w 3).toNat / 2 ^ 48) &&& 0x001F
    lk := BitVec.ofNat 52 (w 4).toNat
    csp := BitVec.ofNat 52 (f.csp.toNat + 128)
    handler := none
    since := aclk
    pc := BitVec.ofNat 52 target
    clause := clause } : Fibre).keepHeld again

/-- The reserved bits of a field of 16 bits are held at 0 by its mask. -/
theorem getLsbD_field_and (d : Dword) (lo : Nat) (mask : BitVec 16) (i : Nat) :
    (BitVec.ofNat 16 (d.toNat / 2 ^ lo) &&& mask).getLsbD i = (mask.getLsbD i && d.getLsbD (lo + i)) := by
  rw [BitVec.getLsbD_and, BitVec.getLsbD_ofNat, Nat.testBit_div_two_pow, BitVec.testBit_toNat, Nat.add_comm i lo, Bool.and_comm]
  by_cases inside : i < 16
  · simp [inside]
  · simp [BitVec.getLsbD_of_ge mask i (by omega)]

theorem fmodeMask_getLsbD (i : Nat) : (0x00FB : BitVec 16).getLsbD i = (decide (i < 2) || decide (3 ≤ i ∧ i < 8)) := by
  by_cases inside : i < 16
  · interval_cases i <;> rfl
  · rw [BitVec.getLsbD_of_ge _ i (by omega)]
    simp
    omega

theorem fflagsMask_getLsbD (i : Nat) : (0x001F : BitVec 16).getLsbD i = decide (i < 5) := by
  by_cases inside : i < 16
  · interval_cases i <;> rfl
  · rw [BitVec.getLsbD_of_ge _ i (by omega)]
    simp
    omega

section Restored

variable {w : Nat → Dword} {target : Nat} {clause : Option Clause} {again : Bool} {aclk : Nat} (x : Fibre)

@[simp] theorem Fibre.returned_pc : (x.returned w target clause again aclk).pc = BitVec.ofNat 52 target := by
  cases again <;> rfl

@[simp] theorem Fibre.returned_clause : (x.returned w target clause again aclk).clause = clause := by
  cases again <;> rfl

@[simp] theorem Fibre.returned_handler : (x.returned w target clause again aclk).handler = none := by
  cases again <;> rfl

@[simp] theorem Fibre.returned_csp : (x.returned w target clause again aclk).csp = x.csp + 128 := by
  have sum : BitVec.ofNat 52 (x.csp.toNat + 128) = x.csp + 128 := by simp [BitVec.ofNat_add]
  cases again <;> exact sum

@[simp] theorem Fibre.returned_lk : (x.returned w target clause again aclk).lk = (w 4).setWidth 52 := by
  cases again <;> rfl

theorem Fibre.returned_regs : (x.returned w target clause again aclk).regs = (((x.regs.set 0 (w 5)).set 1 (w 6)).set 2 (w 7)).set 3 (w 8) := by
  cases again <;> rfl

theorem Fibre.returned_reg_frame (room : 4 ≤ x.regs.length) :
    (x.returned w target clause again aclk).reg 0 = w 5 ∧ (x.returned w target clause again aclk).reg 1 = w 6 ∧
    (x.returned w target clause again aclk).reg 2 = w 7 ∧ (x.returned w target clause again aclk).reg 3 = w 8 := by
  have h0 : 0 < x.regs.length := by omega
  have h1 : 1 < x.regs.length := by omega
  have h2 : 2 < x.regs.length := by omega
  have h3 : 3 < x.regs.length := by omega
  simp [Fibre.reg, Fibre.returned_regs, h0, h1, h2, h3]

theorem Fibre.returned_reg_other {n : Nat} (high : 4 ≤ n) : (x.returned w target clause again aclk).reg n = x.reg n := by
  have h0 : 0 ≠ n := by omega
  have h1 : 1 ≠ n := by omega
  have h2 : 2 ≠ n := by omega
  have h3 : 3 ≠ n := by omega
  simp [Fibre.reg, Fibre.returned_regs, h0, h1, h2, h3]

theorem Fibre.returned_pred : (x.returned w target clause again aclk).pred = predWord (BitVec.ofNat 32 ((w 3).toNat % 2 ^ 32)) := by
  cases again <;> rfl

theorem Fibre.returned_predBit_zero : (x.returned w target clause again aclk).predBit 0 = true := rfl

theorem Fibre.returned_predBit {i : Nat} (some_ : 1 ≤ i) (below : i < 32) :
    (x.returned w target clause again aclk).predBit i = (w 3).getLsbD i := by
  have other : i ≠ 0 := by omega
  have word : BitVec.ofNat 32 ((w 3).toNat % 2 ^ 32) = (w 3).setWidth 32 := BitVec.eq_of_toNat_eq (by simp)
  rw [Fibre.predBit, Fibre.returned_pred, word, predWord, BitVec.getLsbD_or, BitVec.getLsbD_setWidth]
  simp [other, below]

theorem Fibre.returned_fmode (i : Nat) :
    (x.returned w target clause again aclk).fmode.getLsbD i = ((decide (i < 2) || decide (3 ≤ i ∧ i < 8)) && (w 3).getLsbD (32 + i)) := by
  have field := getLsbD_field_and (w 3) 32 0x00FB i
  rw [fmodeMask_getLsbD] at field
  cases again <;> exact field

theorem Fibre.returned_fflags (i : Nat) :
    (x.returned w target clause again aclk).fflags.getLsbD i = (decide (i < 5) && (w 3).getLsbD (48 + i)) := by
  have field := getLsbD_field_and (w 3) 48 0x001F i
  rw [fflagsMask_getLsbD] at field
  cases again <;> exact field

end Restored

/-- A fibre that comes back to its instruction keeps its signature (06 R135). -/
theorem Team.withdrawSigner_again (t : Team) (f : Fibre) : t.withdrawSigner f true = t := by
  unfold Team.withdrawSigner
  split
  next back => cases back
  next => rfl

theorem State.updTeam_withdrawSigner_again (s : State) (i : Nat) (f : Fibre) : (s.updTeam i fun u => u.withdrawSigner f true) = s := by
  simp [State.updTeam, Team.withdrawSigner_again]

/-! ### The return, by mode -/

section Modes

variable {s : State} {r : FibreRef} {t : Team} {f : Fibre} {m : HandlerMark} {v mode : Nat}

theorem framePc_original {pc : Nat} (same : pc = m.pc) : framePc s r t f m pc = .ok () := if_pos same

theorem framePc_misaligned {pc : Nat} (moved : pc ≠ m.pc) (odd : pc % 4 ≠ 0) : framePc s r t f m pc = .error (.trap .illegal) := by
  unfold framePc
  rw [if_neg moved, if_pos odd]

theorem FrameClean.pc_eq (clean : FrameClean (frameDword v)) : ((frameWords v).getD 0 0).toNat % 2 ^ 52 = (frameDword v 0).toNat := by
  obtain ⟨low, -⟩ := clean
  rw [frameWords_getD (by decide)]
  exact Nat.mod_eq_of_lt (low 0 (by decide))

theorem FrameClean.cause_eq (clean : FrameClean (frameDword v)) : ((frameWords v).getD 11 0).toNat % 256 = (frameDword v 11).toNat := by
  obtain ⟨-, cause, -⟩ := clean
  rw [frameWords_getD (by decide)]
  exact Nat.mod_eq_of_lt cause

/-- What RFT kill writes in the record of the termination. -/
def killRecord (v : Nat) (t : Team) (f : Fibre) (s : State) : RecordInfo :=
  { kind := 3, cause := (frameDword v 11).toNat, detail := 0, engine := 0, inHandler := true, noHandler := false, terminated := true,
    pc := f.pc.toNat, issuePc := 0, addr := 0, words := recordWords s t f, list := [], more := 0 }

variable (mark : f.handler = some m)
include mark

/-- A frame with a nonzero reserved bit is an invalid record (log entry 85). -/
theorem returnFromTrap_reserved (bad : ¬ FrameClean (frameDword v)) :
    returnFromTrap mode (frameWords v) r t f s = .error (.trap (mkTrap 0x18 0 f.csp.toNat)) := by
  have reserved : frameReserved (frameWords v) = true := by
    rw [← Bool.not_eq_false, frameReserved_eq_false]
    exact bad
  unfold returnFromTrap
  rw [mark]
  exact if_pos reserved

theorem returnFromTrap_kill (clean : FrameClean (frameDword v)) :
    returnFromTrap 2 (frameWords v) r t f s = .error (.hold (s.terminateJob t.job t.ctx 3 (some t) (some f) (killRecord v t f s))) := by
  unfold returnFromTrap killRecord
  rw [mark]
  dsimp only
  rw [frameReserved_eq_false.mpr clean, clean.cause_eq]
  rfl

theorem returnFromTrap_misaligned (clean : FrameClean (frameDword v)) (lives : mode ≠ 2) (moved : (frameDword v 0).toNat ≠ m.pc)
    (odd : (frameDword v 0).toNat % 4 ≠ 0) : returnFromTrap mode (frameWords v) r t f s = .error (.trap .illegal) := by
  rw [← clean.pc_eq] at moved odd
  unfold returnFromTrap
  rw [mark]
  dsimp only
  rw [frameReserved_eq_false.mpr clean, if_neg Bool.false_ne_true, if_neg lives, framePc_misaligned moved odd]

/-- With the frame's pc unchanged, RFT skip continues at the skip point and RFT resume where the cause resumes (Table 14.1). -/
theorem returnFromTrap_original (clean : FrameClean (frameDword v)) (lives : mode ≠ 2) (same : (frameDword v 0).toNat = m.pc) {skip : Bool}
    (skips : (mode == 1 || resumesAsSkip m.cause) = skip) :
    returnFromTrap mode (frameWords v) r t f s = .error (.hold ((s.updTeam r.team fun u => u.withdrawSigner f (!skip)).updFibre r
      (Fibre.returned (frameDword v) (if skip then m.skipPc else m.pc) (resumeClause m skip m.long) (!skip) s.aclk))) := by
  rw [← clean.pc_eq] at same
  have still : (mode != 1 && ((frameWords v).getD 0 0).toNat % 2 ^ 52 != m.pc) = false := by rw [same, bne_self_eq_false, Bool.and_false]
  have target : (if mode = 1 then m.skipPc else if skip then m.skipPc else m.pc) = if skip then m.skipPc else m.pc := by
    by_cases one : mode = 1 <;> simp [← skips, one]
  unfold returnFromTrap
  rw [mark]
  dsimp only
  rw [frameReserved_eq_false.mpr clean, if_neg Bool.false_ne_true, if_neg lives, framePc_original same, still, skips, if_pos same, target]
  simp (disch := decide) only [frameWords_getD, Bool.not_false, Bool.true_and, Bool.false_eq_true, if_false]
  rfl

end Modes

/-! ### The instruction (16 R340) -/

section Run

variable {s s1 s' : State} {r : FibreRef} {t : Team} {f : Fibre} {m : HandlerMark} {v mode : Nat}

theorem rft_of_frame (mark : f.handler = some m) (frame : recordAt r t f f.csp.toNat 16 0 s = .ok (v, s1)) :
    rft mode r t f s = returnFromTrap mode (frameWords v) r t f (s1.takeAnswers r f.seq) := by
  unfold rft
  rw [mark, frame]
  rfl

variable (ready : Ready s r t f [] [] [] [])
include ready

/-- Outside a handler RFT is illegal, whatever its mode. -/
theorem isa_rft_outside (outside : f.handler = none) : isa 1 {} (rft mode) s = .next (s.raiseAt r .illegal [] 0) :=
  isa_traps ready (.inl rfl) <| by
    unfold rft
    rw [outside]
    rfl

variable (mark : f.handler = some m) (frame : recordAt r t f f.csp.toNat 16 0 s = .ok (v, s1))
include mark frame

theorem isa_rft_traps {x : Trap} (act : returnFromTrap mode (frameWords v) r t f (s1.takeAnswers r f.seq) = .error (.trap x)) :
    isa 1 {} (rft mode) s = .next (s.raiseAt r x [] 0) :=
  isa_traps ready (.inl rfl) ((rft_of_frame mark frame).trans act)

theorem isa_rft_holds (act : returnFromTrap mode (frameWords v) r t f (s1.takeAnswers r f.seq) = .error (.hold s')) :
    isa 1 {} (rft mode) s = .next s' := by
  rw [isa_of_ready ready (.inl rfl) (fun _ tile => by cases tile) rfl, rft_of_frame mark frame, act]

variable (clean : FrameClean (frameDword v)) (same : (frameDword v 0).toNat = m.pc)
include clean

theorem execRftKill_terminates :
    execRftKill s = .next ((s1.takeAnswers r f.seq).terminateJob t.job t.ctx 3 (some t) (some f) (killRecord v t f (s1.takeAnswers r f.seq))) :=
  isa_rft_holds ready mark frame (returnFromTrap_kill mark clean)

include same

theorem execRftSkip_returns :
    execRftSkip s = .next (((s1.takeAnswers r f.seq).updTeam r.team fun u => u.withdrawSigner f false).updFibre r
      (Fibre.returned (frameDword v) m.skipPc (resumeClause m true m.long) false (s1.takeAnswers r f.seq).aclk)) :=
  isa_rft_holds ready mark frame (returnFromTrap_original mark clean (by decide) same rfl)

/-- A return to the interrupted instruction: its clause is that of the mark, and what the fibre signed or holds stays. -/
theorem execRftResume_returns (cause : resumesAsSkip m.cause = false) :
    execRftResume s = .next ((s1.takeAnswers r f.seq).updFibre r
      (Fibre.returned (frameDword v) m.pc m.clause true (s1.takeAnswers r f.seq).aclk)) := by
  have act := returnFromTrap_original (s := s1.takeAnswers r f.seq) (r := r) (t := t) (mode := 0) mark clean (by decide) same cause
  rw [Bool.not_false, State.updTeam_withdrawSigner_again] at act
  exact isa_rft_holds ready mark frame act

end Run

/-- Settles O14: each clause is one of the theorems above on RFT. That a frame with a nonzero reserved bit is an invalid record is log entry 85. -/
theorem returnResult : Obligations.ReturnResult := by
  unfold Obligations.ReturnResult
  intro s r t f ready
  refine ⟨fun outside => ⟨isa_rft_outside ready outside, isa_rft_outside ready outside, isa_rft_outside ready outside⟩, ?_⟩
  intro m v s1 mark frame
  refine ⟨fun bad => ?_, fun clean moved odd => ?_, fun clean => ?_, fun clean same => ?_, fun clean same cause => ?_⟩
  · have invalid (mode : Nat) := isa_rft_traps ready mark frame (returnFromTrap_reserved (mode := mode) mark bad)
    exact ⟨invalid 0, invalid 1, invalid 2⟩
  · have illegal {mode : Nat} (lives : mode ≠ 2) := isa_rft_traps ready mark frame (returnFromTrap_misaligned mark clean lives moved odd)
    exact ⟨illegal (by decide), illegal (by decide)⟩
  · exact ⟨_, execRftKill_terminates ready mark frame clean, rfl, rfl⟩
  · exact ⟨_, execRftSkip_returns ready mark frame clean same, fun x => ⟨x.returned_pc, x.returned_handler, x.returned_csp, x.returned_lk,
      x.returned_reg_frame, fun _ => x.returned_reg_other⟩⟩
  · exact ⟨_, execRftResume_returns ready mark frame clean same cause, fun x => ⟨x.returned_pc, x.returned_clause, x.returned_handler, x.returned_csp,
      x.returned_lk, x.returned_predBit_zero, fun _ => x.returned_predBit, x.returned_fmode, x.returned_fflags⟩⟩

end Sys2Proof.Machine
end

section
/-! The decoder and the encoder as one (15 R298 to R304): every form by its own round trip (`Laws/PerInstr.lean`), and the obligations on decoding (O57, O56). -/

namespace Sys2Proof.Laws.RoundTrip

open Sys2Proof

/-- The words of a well-formed instruction decode to it, whatever its form; a device step has no words. -/
theorem statement (i : Instr) : Statement i := by
  cases i with
  -- integer and control forms: chapter 16
  | add => apply add | sub => apply sub | addi => apply addi | mul => apply mul | mad => apply mad | div => apply div
  | rem => apply rem | minmax => apply minmax | andR => apply andR | orR => apply orR | xorR => apply xorR | andn => apply andn
  | andi => apply andi | ori => apply ori | xori => apply xori | shift => apply shift | shifti => apply shifti | bfx => apply bfx
  | bfi => apply bfi | bitop => apply bitop | mov => apply mov | movRdp => apply movRdp | movWrp => apply movWrp
  | movFromSpecial => apply movFromSpecial | movToSpecial => apply movToSpecial | movi => apply movi | movl => apply movl
  | movlS => apply movlS | movlHi => apply movlHi | lea => apply lea | cmp => apply cmp | cmpi => apply cmpi | plog => apply plog
  | pred => apply pred | bra => apply bra | call => apply call | jmp => apply jmp | callr => apply callr | ret => exact ret
  | exitF => exact exitF | spawn => apply spawn | rebin => apply rebin | yield => exact yield | yieldSave => exact yieldSave
  | yieldRestart => exact yieldRestart | trap => apply trap | rftResume => exact rftResume | rftSkip => exact rftSkip | rftKill => exact rftKill
  | sysrd => apply sysrd | syswr => apply syswr | fence => apply fence | fenceHeavy => apply fenceHeavy | fenceLight => exact fenceLight
  | ext => apply ext
  -- memory, atomics, tagged words and barriers: chapter 17
  | ld => apply ld | st => apply st | lds => apply lds | sts => apply sts | ldp => apply ldp | stp => apply stp | stn => apply stn
  | stm => apply stm | ldnr => apply ldnr | pref => apply pref | preq => apply preq | atom32 => apply atom32 | atom64 => apply atom64
  | cas => apply cas | red => apply red | redf => apply redf | acqr => apply acqr | cacheFlush => apply cacheFlush
  | cacheInval => apply cacheInval | cacheRetain => apply cacheRetain | cacheEvict => apply cacheEvict | cacheWays => apply cacheWays
  | resize => apply resize | resizeRel => apply resizeRel | rqdeg => apply rqdeg | fill => apply fill | fillVal => apply fillVal
  | fillEmpty => apply fillEmpty | take => apply take | waitf => apply waitf | cntdn => apply cntdn | tagq => apply tagq
  | binit => apply binit | binitFull => apply binitFull | arrive => apply arrive | arriveExpect => apply arriveExpect | bwait => apply bwait
  -- vector and cross-fibre forms: chapter 18
  | fadd => apply fadd | fsub => apply fsub | fmul => apply fmul | ffma => apply ffma | ffms => apply ffms | fmin => apply fmin
  | fmax => apply fmax | fcmp => apply fcmp | fcvt => apply fcvt | frnd => apply frnd | ftoi => apply ftoi | itof => apply itof
  | fspec => apply fspec | fdot => apply fdot | fscale => apply fscale | fscaleE8m0 => apply fscaleE8m0 | kvmin => apply kvmin
  | kvmax => apply kvmax | xshf => apply xshf | xred => apply xred | xscan => apply xscan | xvote => apply xvote
  | xbcast => apply xbcast | xbcastLane => apply xbcastLane | xelect => apply xelect | xelectIf => apply xelectIf | xmatch => apply xmatch
  -- tensors, tiles and the matrix unit: chapter 19
  | tdef => apply tdef | tdefQuery => apply tdefQuery | tdefBind => apply tdefBind | tdefFill => apply tdefFill
  | tdefBounds => apply tdefBounds | tld => apply tld | tldDem => apply tldDem | tst => apply tst | mma => apply mma
  | accZero => apply accZero | accLd => apply accLd | accSt => apply accSt | accRd => apply accRd | metaLd => apply metaLd
  | metaCompress => apply metaCompress | metaExpand => apply metaExpand | metaRd => apply metaRd | cvdecl => apply cvdecl
  | cvstat => apply cvstat | cvclear => apply cvclear
  -- engines: chapter 20
  | tcopy => apply tcopy | chain => apply chain | placeConvert => apply placeConvert | placeSeal => apply placeSeal
  | placeUnseal => apply placeUnseal | placeQuery => apply placeQuery | srchScan => apply srchScan | srchDist => apply srchDist
  | srchWalkList => apply srchWalkList | srchWalkHash => apply srchWalkHash | srchWalkKv => apply srchWalkKv | srchPush => apply srchPush
  | srchPop => apply srchPop | srchDrain => apply srchDrain | ixcommit => apply ixcommit | ixver => apply ixver | hop => apply hop
  | hopHome => exact hopHome | chanConfig => apply chanConfig | chanSend => apply chanSend | chanSendAcc => apply chanSendAcc
  | chanSendAccBf16 => apply chanSendAccBf16 | chanWait => apply chanWait | chanRelease => apply chanRelease | wdqInit => apply wdqInit
  | wdqNext => apply wdqNext | wdqReset => apply wdqReset
  -- steps of the device
  | _ => exact statement_nil rfl

/-- The words that are the encoding of a well-formed instruction decode to it, and nothing is left over. -/
theorem decodeWords_of_encoding {i : Instr} {w : Nat} {ws : List Nat} (words : encode i = w :: ws) (wf : i.wf = true) :
    decodeWords (w :: ws) = .ok (i, []) := by
  have round := statement i wf (by rw [words]; exact List.cons_ne_nil w ws) []
  rwa [words, List.append_nil] at round

/-- Settles O57: each form is one case of `statement`. -/
theorem decodeEncode : Obligations.DecodeEncode := fun i rest wf some => statement i wf some rest

/-- Settles O56: the words of each listing are the encoding of its instruction (R298 to R304; R316 stands in 15_isa_encoding.md). -/
theorem decodeSamples : Obligations.DecodeSamples :=
  ⟨decodeWords_of_encoding rfl rfl, decodeWords_of_encoding rfl rfl, decodeWords_of_encoding rfl rfl, decodeWords_of_encoding rfl rfl,
    decodeWords_of_encoding rfl rfl, decodeWords_of_encoding rfl rfl, decodeWords_of_encoding rfl rfl, decodeWords_of_encoding rfl rfl,
    decodeWords_of_encoding rfl rfl, decodeWords_of_encoding rfl rfl, decodeWords_of_encoding rfl rfl, decodeWords_of_encoding rfl rfl,
    decodeWords_of_encoding rfl rfl, decodeWords_of_encoding rfl rfl⟩

end Sys2Proof.Laws.RoundTrip
end

section
/-! Misaligned loads and stores (`Machine/Operands.lean`, `Machine/Memory.lean`; 15 R309, 17 R346, R349): alignment is the first check of an access, and its trap comes before any other effect (O18). -/

namespace Sys2Proof.Machine

section Misaligned

variable {s : State} {r : FibreRef} {t : Team} {f : Fibre} {len : Nat} {body : FibreRef → Team → Fibre → State → Act}

/-- A trap is raised whatever the class of the instruction: a completion counter that is full keeps back only one that would issue (15 R295). -/
theorem isa_of_trap {u : Uses} {x : Trap} (ready : Ready s r t f u.reads u.wr (u.prd ++ u.pwr) u.tiles) (near : u.near = true) (tile : u.tileOf = none)
    (act : body r t f s = .error (.trap x)) : isa len u body s = .next (s.raiseAt r x [] 0) := by
  have short : isa len u body s = isa len { u with long := false } body s := by
    unfold isa
    rw [ready.current]
    simp only [act]
    rfl
  rw [short, isa_of_ready (u := { u with long := false }) ready (.inl near) (by simp [tile]) rfl, act]

variable {k : AccKind} {space a n d : Nat} {st : Strength} (odd : a % n ≠ 0)
include odd

/-- In every space the alignment of an address is checked first (15 R309). -/
theorem place_misaligned : place s r t f k space a n n = .error (.trap (.misaligned a)) := by
  unfold place access
  rw [if_pos odd]

theorem loadAt_misaligned : loadAt len space n d st a r t f s = .error (.trap (.misaligned a)) := by
  unfold loadAt
  rw [place_misaligned odd]

theorem storeAt_misaligned : storeAt space n d st a r t f s = .error (.trap (.misaligned a)) := by
  unfold storeAt
  rw [place_misaligned odd]

end Misaligned

/-- Settles O18: the place of each of the four accesses traps, and with it the instruction. -/
theorem misalignedAccess : Obligations.MisalignedAccess := by
  intro s r t f d b o sp z sc k _ n va base ds
  have address : effAddr (f.reg b.toNat) o n = va := effAddr_eq _ o n
  refine ⟨fun odd => ?_, fun _ odd => ?_⟩
  · rw [← address] at odd ⊢
    exact ⟨fun ready => isa_of_trap ready rfl rfl (loadAt_misaligned odd),
      fun ready => isa_of_trap (by simp only [Uses.reads, List.append_nil]; exact ready) rfl rfl (storeAt_misaligned odd)⟩
  · exact ⟨fun ready => isa_of_trap ready rfl rfl (loadAt_misaligned odd), fun ready => isa_of_trap (by simpa [Uses.reads] using ready) rfl rfl (storeAt_misaligned odd)⟩

end Sys2Proof.Machine
end

section
/-! The step in terms of the meaning of one instruction (`Machine/Turn.lean`, `Machine/Sched.lean`, `Machine/Step.lean`; 15 R290, R294, R298, R303, R306): what a fibre fetches at its pc, the turn it makes of it, the turns of the device, and the obligation on them (O58). -/

namespace Sys2Proof.Machine

/-! ### Answers of a list, in order -/

section Answers

variable {α β ε : Type} {f : α → Except ε β}

theorem mapM_eq_ok {g : α → β} {l : List α} (all : ∀ a ∈ l, f a = .ok (g a)) : l.mapM f = .ok (l.map g) := by
  induction l with
  | nil => rfl
  | cons a l ih =>
    rw [List.mapM_cons, all a List.mem_cons_self, ih fun b hb => all b (List.mem_cons_of_mem a hb)]
    rfl

/-- The first error of a list is the answer. -/
theorem mapM_eq_error {e : ε} {l : List α} {k : Nat} (inside : k < l.length) (bad : f l[k] = .error e)
    (before : ∀ j, (h : j < k) → ∃ b, f l[j] = .ok b) : l.mapM f = .error e := by
  induction l generalizing k with
  | nil => exact absurd inside (Nat.not_lt_zero k)
  | cons a l ih =>
    rw [List.mapM_cons]
    cases k with
    | zero =>
      rw [List.getElem_cons_zero] at bad
      rw [bad]
      rfl
    | succ k =>
      obtain ⟨b, first⟩ := before 0 k.succ_pos
      rw [List.getElem_cons_zero] at first
      rw [first, ih (Nat.lt_of_succ_lt_succ inside) bad fun j h => before (j + 1) (Nat.succ_lt_succ h)]
      rfl

end Answers

theorem map_getD_range {α : Type} (l : List α) (z : α) : (List.range l.length).map (fun k => l.getD k z) = l :=
  List.ext_getElem (by simp) fun k h _ => by simp at h; simp [h]

/-! ### The instruction at a pc (15 R298, R306) -/

/-- What decoded words of an instruction of `len` words are to a turn. -/
def Fetched.ofDecoded (len : Nat) : Except DecodeError (Instr × List Nat) → Fetched
  | .ok (i, _) => .instr i len
  | .error _ => .trap .illegal

section Fetch

variable {s : State} {ctx die pc w k : Nat} {ws : List Nat} {e : Trap}

/-- The first word that cannot be fetched is the fault. -/
theorem fetchInstr_error (bad : fetchWord s ctx die (pc + 4 * k) = .error e) (before : ∀ j, j < k → ∃ x, fetchWord s ctx die (pc + 4 * j) = .ok x)
    (within : 0 < k → ∃ x, fetchWord s ctx die (pc + 4 * 0) = .ok x ∧ k < lengthOf x) : fetchInstr s ctx die pc = .trap e := by
  unfold fetchInstr
  cases k with
  | zero =>
    rw [Nat.mul_zero, Nat.add_zero] at bad
    rw [bad]
  | succ k =>
    obtain ⟨x, first, short⟩ := within k.succ_pos
    rw [Nat.mul_zero, Nat.add_zero] at first
    have at_ (j : Nat) : pc + 4 + 4 * j = pc + 4 * (j + 1) := by omega
    have rest : (List.range (lengthOf x - 1)).mapM (fun j => fetchWord s ctx die (pc + 4 + 4 * j)) = .error e := by
      refine mapM_eq_error (k := k) (by rw [List.length_range]; omega) ?_ fun j h => ?_
      · rw [List.getElem_range, at_]
        exact bad
      · rw [List.getElem_range, at_]
        exact before (j + 1) (Nat.succ_lt_succ h)
    rw [first]
    dsimp only
    rw [rest]

/-- With all its words readable, the instruction is what they decode to. -/
theorem fetchInstr_words (len : lengthOf w = ws.length + 1)
    (words : ∀ k, k < ws.length + 1 → fetchWord s ctx die (pc + 4 * k) = .ok ((w :: ws).getD k 0)) :
    fetchInstr s ctx die pc = .ofDecoded (ws.length + 1) (decodeWords (w :: ws)) := by
  have first : fetchWord s ctx die pc = .ok w := words 0 (Nat.succ_pos _)
  have rest : (List.range (lengthOf w - 1)).mapM (fun j => fetchWord s ctx die (pc + 4 + 4 * j)) = .ok ws := by
    rw [len, Nat.add_sub_cancel]
    refine (mapM_eq_ok fun j hj => ?_).trans (congrArg _ (map_getD_range ws 0))
    rw [show pc + 4 + 4 * j = pc + 4 * (j + 1) by omega]
    exact words (j + 1) (Nat.succ_lt_succ (List.mem_range.mp hj))
  unfold fetchInstr decodeWords
  rw [first]
  dsimp only
  rw [rest, len, if_neg (Nat.lt_irrefl _)]
  dsimp only
  cases decode w (ws.getD 0 0) (ws.getD 1 0) (ws.getD 2 0) <;> rfl

end Fetch

section Stops

variable {s : State} {r : FibreRef} {t : Team} {f : Fibre} {e : Trap}

theorem State.fetchStops_fault (cause : e.cause ≠ 0) : s.fetchStops r t f e = s.raiseAt r e [] 0 := if_pos cause

theorem State.fetchStops_asks (cause : e.cause = 0) (core : f.nearSlot = none) : s.fetchStops r t f e = s.askWord r t f e.addr := by
  unfold State.fetchStops
  rw [if_neg (not_not.mpr cause), core]

theorem State.fetchStops_returns {m n i : Nat} (cause : e.cause = 0) (near : f.nearSlot = some (m, n, i)) :
    s.fetchStops r t f e = s.beginReturnTrap r m := by
  unfold State.fetchStops
  rw [if_neg (not_not.mpr cause), near]

end Stops

/-! ### The turn of a fibre that may execute -/

section Turn

variable (run : Instr → State → Host.Outcome State Fault Refusal) {s s' : State} {r : FibreRef} {t : Team} {f : Fibre} {c : Clause} {i : Instr} {len : Nat}

/-- What fibre `f`, inside clause `c`, makes of what it has fetched. -/
def clauseTurn (r : FibreRef) (t : Team) (f : Fibre) (c : Clause) (s : State) : Fetched → Host.Outcome State Fault Refusal
  | .trap e => .next (s.fetchStops r t f e)
  | .instr i len =>
    if c.span ≠ 0 ∧ !c.spanOn then
      (if windowOf t f ≤ topReg i ∨ neverLegal i then .next (s.raiseAt r .illegal [] 0)
       else .next (s.updFibre r (fun f => f.pass len (isLong i) s.aclk)))
    else
      match run i s with
      | .next s' => if s' = s ∧ hdrAtomic c.hdr ∧ waitsOutside i then .next (s.waitInside r t f) else .next s'
      | o => o

/-- The fibre is the current one, enters no handler, may issue, and is neither blocked nor woken by a poisoned word. -/
structure Executes (s : State) (r : FibreRef) (t : Team) (f : Fibre) : Prop where
  current : { s with cur := some r }.current = some (r, t, f)
  entering : f.entering = none
  issues : mayIssue t f = true
  free : f.blocked = false
  clean : ∀ va, f.status ≠ .poisoned va

/-- Outside a clause its turn starts one. -/
theorem fetchedTurn_outside (able : Executes s r t f) (outside : f.clause = none) :
    fetchedTurn run r s = run .clauseStart { s with cur := some r } := by
  obtain ⟨current, entering, issues, free, clean⟩ := able
  unfold fetchedTurn
  simp only [current, entering, issues, free, outside, Option.isSome_none, Bool.false_eq_true, if_false, Bool.not_true]

/-- Inside a clause it makes its turn of what the fetch at its pc brings, the PRED over the instruction noted. -/
theorem fetchedTurn_inside (able : Executes s r t f) (clause : f.clause = some c) {u : State} (noted : { s with cur := some r }.updFibre r Fibre.notePrefix = u) :
    fetchedTurn run r s = clauseTurn run r t f c u (fetchInstr u t.ctx (dieOf t f) f.pc.toNat) := by
  obtain ⟨current, entering, issues, free, clean⟩ := able
  unfold fetchedTurn
  simp only [current, entering, issues, free, clause, noted, Option.isSome_none, Bool.false_eq_true, if_false, Bool.not_true]
  cases fetchInstr u t.ctx (dieOf t f) f.pc.toNat <;> rfl

section Covered

variable (covered : c.span ≠ 0) (off : c.spanOn = false)
include covered off

/-- An instruction under a false PRED is passed without effect (15 R303). -/
theorem clauseTurn_passes (window : topReg i < windowOf t f) (legal : neverLegal i = false) :
    clauseTurn run r t f c s (.instr i len) = .next (s.updFibre r fun x => x.pass len (isLong i) s.aclk) := by
  unfold clauseTurn
  dsimp only
  rw [if_pos ⟨covered, by rw [off]; rfl⟩, if_neg fun bad => ?_]
  rcases bad with past | never
  · exact absurd past (Nat.not_le.mpr window)
  · rw [legal] at never
    cases never

theorem clauseTurn_illegal (bad : windowOf t f ≤ topReg i ∨ neverLegal i = true) :
    clauseTurn run r t f c s (.instr i len) = .next (s.raiseAt r .illegal [] 0) := by
  unfold clauseTurn
  dsimp only
  rw [if_pos ⟨covered, by rw [off]; rfl⟩, if_pos bad]

end Covered

section Runs

theorem Clause.uncovered (on : c.span = 0 ∨ c.spanOn = true) : ¬ (c.span ≠ 0 ∧ (!c.spanOn) = true) := fun ⟨covered, off⟩ => by
  rcases on with free | on
  · exact covered free
  · rw [on] at off
    cases off

variable (on : c.span = 0 ∨ c.spanOn = true)
include on

/-- Any other instruction has its effect. -/
theorem clauseTurn_runs (ran : run i s = .next s') (done : s' ≠ s ∨ hdrAtomic c.hdr = false ∨ waitsOutside i = false) :
    clauseTurn run r t f c s (.instr i len) = .next s' := by
  have stays : ¬ (s' = s ∧ hdrAtomic c.hdr = true ∧ waitsOutside i = true) := fun ⟨same, atomic, outside⟩ => by
    rcases done with moved | plain | inside
    · exact moved same
    · rw [plain] at atomic
      cases atomic
    · rw [inside] at outside
      cases outside
  unfold clauseTurn
  dsimp only
  rw [if_neg (Clause.uncovered on), ran]
  exact if_neg stays

/-- One of an atomic clause that waits on a condition outside the fibre lets the fibre be saved or interrupted (15 R294). -/
theorem clauseTurn_waits (ran : run i s = .next s) (atomic : hdrAtomic c.hdr = true) (outside : waitsOutside i = true) :
    clauseTurn run r t f c s (.instr i len) = .next (s.waitInside r t f) := by
  unfold clauseTurn
  dsimp only
  rw [if_neg (Clause.uncovered on), ran]
  exact if_pos ⟨rfl, atomic, outside⟩

theorem clauseTurn_fault {e : Fault} (ran : run i s = .fault e) : clauseTurn run r t f c s (.instr i len) = .fault e := by
  unfold clauseTurn
  dsimp only
  rw [if_neg (Clause.uncovered on), ran]

theorem clauseTurn_refused {e : Refusal} (ran : run i s = .refused e) : clauseTurn run r t f c s (.instr i len) = .refused e := by
  unfold clauseTurn
  dsimp only
  rw [if_neg (Clause.uncovered on), ran]

end Runs

end Turn

/-! ### One step -/

section Step

variable {s : State} {rest : List Turn}

theorem step_of_agenda {turn : Turn} (next : s.agenda = turn :: rest) : step s = afterTurn (runTurn turn { s with agenda := rest }) := by
  unfold step
  rw [next]

/-- The step of a fibre's turn for which no word has been read. -/
theorem step_of_fibre {r : FibreRef} (next : s.agenda = .fibre r :: rest) (unread : s.hasFetched r = false) :
    step s = afterTurn (fetchedTurn exec r { s with agenda := rest }) := by
  rw [step_of_agenda next]
  refine congrArg afterTurn (if_pos ?_)
  change (!s.hasFetched r) = true
  rw [unread]
  rfl

/-- The step of a device's turn, or of a flit's, is that of its instruction. -/
theorem step_of_device {i : Instr} {turn : Turn} (next : s.agenda = turn :: rest)
    (meant : turn = .event i ∨ ∃ port bytes fec, turn = .outside (.wire port bytes fec) ∧ i = flitStep port bytes fec) :
    step s = afterTurn (exec i { s with agenda := rest }) := by
  rw [step_of_agenda next]
  rcases meant with rfl | ⟨port, bytes, fec, rfl, rfl⟩ <;> rfl

theorem State.agenda_set {l : List Turn} (h : s.agenda = l) : { s with agenda := l } = s := by
  subst h
  rfl

theorem State.noteTurn_agenda (s : State) (turn : Turn) : (s.noteTurn turn).agenda = s.agenda := by
  unfold State.noteTurn
  split
  · split <;> rfl
  · rfl

/-- A new cycle changes the ages of fibres, the groups, which quadrants have acted, and the time. -/
theorem State.cycle_eq (s : State) : ∃ quads acted aclk, s.aclk ≤ aclk ∧ s.cycle = { s.ageFibres with quads := quads, acted := acted, aclk := aclk } := by
  unfold State.cycle
  dsimp only
  split
  · exact ⟨_, _, _, Nat.le_succ _, rfl⟩
  · exact ⟨_, _, _, Nat.le_refl _, rfl⟩

theorem State.ageFibres_sansAge (s : State) : s.ageFibres.teams.map Claims.sansAge = s.teams.map Claims.sansAge := by
  unfold State.ageFibres
  dsimp only
  rw [List.map_map]
  refine List.map_congr_left fun t _ => ?_
  have young (f : Fibre) : { (if s.readyFibre t f then f else { f with since := s.aclk }) with since := 0 } = { f with since := 0 } := by
    split <;> rfl
  simp only [Function.comp_apply, Claims.sansAge, List.map_map, Function.comp_def, young]

/-- A step with an empty agenda is that of the turn chosen. -/
theorem step_of_chosen {turn : Turn} (idle : s.agenda = []) (chosen : chosenTurn s.cycle = some turn) :
    step s = step { s.cycle.noteTurn turn with agenda := [turn] } := by
  obtain ⟨quads, acted, aclk, -, cycle⟩ := s.cycle_eq
  have still : (s.cycle.noteTurn turn).agenda = [] := by
    rw [State.noteTurn_agenda, cycle]
    exact idle
  have same : { s.cycle.noteTurn turn with agenda := [] } = s.cycle.noteTurn turn := State.agenda_set still
  rw [step_of_agenda (s := { s.cycle.noteTurn turn with agenda := [turn] }) rfl]
  unfold step
  rw [idle, chosen]
  exact congrArg (fun u => afterTurn (runTurn turn u)) same.symm

theorem State.after_aclk_le (s : State) : s.aclk ≤ s.after.aclk := by
  unfold State.after
  dsimp only
  split
  · exact Nat.le_refl _
  · exact Nat.le_add_right _ _

/-- Time stands still inside a group-instruction (log entry 4). -/
theorem State.after_aclk_of_group (group : ∃ q ∈ s.quads, q.group ≠ []) : s.after.aclk = s.aclk := by
  obtain ⟨q, hq, some⟩ := group
  exact if_pos (List.any_eq_true.mpr ⟨q, hq, by simpa using some⟩)

end Step

/-- Settles O58, from what a fibre's fetch brings and what it makes of that. How time passes and which turn is chosen are the model's (log entries 1 and 4);
the window check of an instruction under a false PRED is log entry 7, and the reading of a host or peer word before its turn log entry 10. -/
theorem stepRunsDecoded : Obligations.StepRunsDecoded := by
  intro s
  refine ⟨fun rest r t f next => ?_, fun rest i turn next meant => ?_, fun idle => ⟨fun none => ?_, fun turn => step_of_chosen idle⟩, ?_, ?_, ?_,
    rfl, rfl, s.after_aclk_le, State.after_aclk_of_group⟩
  · intro s0 current entering issues free clean unread
    have able : Executes { s with agenda := rest } r t f := ⟨current, entering, issues, free, clean⟩
    have run := step_of_fibre next unread
    refine ⟨fun outside s1 ran => ?_, fun c clause => ?_⟩
    · rw [run, fetchedTurn_outside exec able outside, ran]
      rfl
    · intro sp word
      have turn : step s = afterTurn (clauseTurn exec r t f c sp (fetchInstr sp t.ctx (dieOf t f) f.pc.toNat)) :=
        run.trans (congrArg afterTurn (fetchedTurn_inside exec able clause rfl))
      refine ⟨fun k e bad before within => ?_, fun w ws len words => ?_⟩
      · rw [fetchInstr_error bad before within] at turn
        refine ⟨fun cause => ?_, fun cause core => ?_, fun m n i cause near => ?_⟩
        · rw [turn, ← State.fetchStops_fault cause]
          rfl
        · rw [turn, ← State.fetchStops_asks cause core]
          rfl
        · rw [turn, ← State.fetchStops_returns cause near]
          rfl
      · rw [fetchInstr_words len words] at turn
        refine ⟨fun e undecoded => ?_, fun i decoded => ?_⟩
        · rw [turn, undecoded]
          rfl
        · rw [decoded] at turn
          refine ⟨fun on => ⟨fun s1 ran done => ?_, fun ran atomic outside => ?_, fun e ran => ?_, fun e ran => ?_⟩,
            fun covered off => ⟨fun window legal => ?_, fun bad => ?_⟩⟩
          · exact turn.trans (congrArg afterTurn (clauseTurn_runs exec on ran done))
          · exact turn.trans (congrArg afterTurn (clauseTurn_waits exec on ran atomic outside))
          · exact turn.trans (congrArg afterTurn (clauseTurn_fault exec on ran))
          · exact turn.trans (congrArg afterTurn (clauseTurn_refused exec on ran))
          · exact turn.trans (congrArg afterTurn (clauseTurn_passes exec covered off window legal))
          · exact turn.trans (congrArg afterTurn (clauseTurn_illegal exec covered off bad))
  · intro s0
    have run := step_of_device next meant
    exact ⟨fun s1 ran => run.trans (congrArg afterTurn ran), fun e ran => run.trans (congrArg afterTurn ran), fun e ran => run.trans (congrArg afterTurn ran)⟩
  · unfold step
    rw [idle, none]
  all_goals obtain ⟨quads, acted, aclk, later, cycle⟩ := s.cycle_eq
  · rw [cycle]
    rfl
  · rw [cycle]
    exact s.ageFibres_sansAge
  · rw [cycle]
    exact later

end Sys2Proof.Machine
end

section
/-! The drop points of loads (`Machine/Memory.lean`, `Machine/Cuttings.lean`; 15 R295, 17 R346, R351, R364, 08 R171): what a read changes beside what it answers, what a completed instruction leaves of its fibre, the stall it counts, and the obligation (O19). -/

namespace Sys2Proof.Machine

/-! ### Reading a place (09 Table 9.3) -/

section Reading

variable (s : State) (c : CoreId) (core : Option CoreId) (die ctx line i n : Nat) (m : MemLoc) (l : Loc) (st : Strength)

theorem State.renewWord_home (v : Dword × Bool) : HomeChanged s (s.renewWord c line i v) := HomeChanged.of_coh s _ rfl

theorem State.evictL1_home : HomeChanged s (s.evictL1 c line) := HomeChanged.of_coh s _ rfl

theorem State.serveWord_home : HomeChanged s (s.serveWord core die m ctx st).2 := by
  unfold State.serveWord
  dsimp only
  split
  next =>
    split
    · exact HomeChanged.refl s
    · exact s.readHome_home die ctx m
  next c =>
    split
    · split
      · exact (s.readHome_home die ctx m).trans (State.renewWord_home _ c _ _ _)
      · exact (s.readSlices_home die ctx m).trans (State.renewWord_home _ c _ _ _)
    · split
      · exact HomeChanged.refl s
      · have evicted := s.evictL1_home c (lineOf m.pa)
        split
        · exact evicted.trans (State.installL1_home _ c _ _)
        · exact (evicted.trans (State.readSlices_home _ die ctx m)).trans (State.installL1_home _ c _ _)

theorem State.readPlace_home : HomeChanged s (s.readPlace core die ctx l n st).2 := by
  cases l with
  | mem m => exact s.serveWord_home core die ctx m st
  | scr _ _ => exact HomeChanged.refl s
  | near _ _ _ _ => exact HomeChanged.refl s
  | remote _ _ _ => exact HomeChanged.refl s

end Reading

/-- With no store queued a load is the read of its place. -/
theorem performLoad_of_empty {s s1 : State} {t : Team} {f : Fibre} {seq n : Nat} {l : Loc} {st : Strength} {bs : List Byte} (queue : f.sq = [])
    (read : s.readPlace (coreOf t f) (dieOf t f) t.ctx l n st = ((bs, false), s1)) (whole : bs.length = n) :
    performLoad s t f seq l n st = ((bs, false), s1) := by
  have none : (f.queueBefore seq).sq = [] := by
    unfold Fibre.queueBefore
    rw [queue]
    rfl
  have bytes : (List.range n).map (fun i => (queuedByte [] (l.plus i)).getD (bs.getD i 0)) = bs := by
    rw [← whole]
    exact map_getD_range bs 0
  unfold performLoad State.loadPlace
  rw [none, show s.readPlace (coreOf t (f.queueBefore seq)) (dieOf t (f.queueBefore seq)) t.ctx l n st = _ from read]
  dsimp only
  rw [bytes]

/-! ### A completed instruction (15 R295) -/

section Completed

variable {s u : State} {r : FibreRef} {t : Team} {f : Fibre} {op : LongOp} {vals : List (Nat × Dword)} {pr : Option (Nat × Bool)}

theorem Fibre.setRegs_kept (vals : List (Nat × Dword)) (f : Fibre) :
    (vals.foldl (fun f p => f.setReg p.1 p.2) f).idx = f.idx ∧ (vals.foldl (fun f p => f.setReg p.1 p.2) f).entering = f.entering := by
  induction vals generalizing f with
  | nil => exact ⟨rfl, rfl⟩
  | cons p vals ih => exact ih (f.setReg p.1 p.2)

theorem Fibre.setPred_kept (f : Fibre) (p : Nat) (b : Bool) :
    (f.setPred p b).idx = f.idx ∧ (f.setPred p b).entering = f.entering ∧ (f.setPred p b).cf = f.cf ∧ (f.setPred p b).ll = f.ll := by
  unfold Fibre.setPred
  split <;> exact ⟨rfl, rfl, rfl, rfl⟩

theorem Fibre.countDown_kept (f : Fibre) (c : Option Nat) : (f.countDown c).idx = f.idx ∧ (f.countDown c).entering = f.entering := by
  cases c <;> exact ⟨rfl, rfl⟩

/-- Its fibre keeps its number and whether it enters a handler, and lists the instruction no more. -/
theorem finishLong_fibre : ∃ g : Fibre → Fibre, finishLong r op vals pr s = s.updFibre r g ∧
    ∀ x, (g x).idx = x.idx ∧ (g x).entering = x.entering ∧ op ∉ (g x).ll := by
  refine ⟨_, rfl, fun x => ?_⟩
  obtain ⟨idx, entering⟩ := Fibre.setRegs_kept vals x
  have gone (ops : List LongOp) : op ∉ ops.filter (fun o => o != op) := by simp
  cases pr with
  | none =>
    obtain ⟨idx', entering'⟩ := Fibre.countDown_kept (vals.foldl (fun f p => f.setReg p.1 p.2) x) op.counter
    exact ⟨idx'.trans idx, entering'.trans entering, gone _⟩
  | some q =>
    obtain ⟨idx', entering', -⟩ := Fibre.setPred_kept (vals.foldl (fun f p => f.setReg p.1 p.2) x) q.1 q.2
    obtain ⟨idx'', entering''⟩ := Fibre.countDown_kept ((vals.foldl (fun f p => f.setReg p.1 p.2) x).setPred q.1 q.2) op.counter
    exact ⟨idx''.trans (idx'.trans idx), entering''.trans (entering'.trans entering), gone _⟩

/-! ### The stall of the weight store's refresh (08 R171) -/

variable {ctx a : Nat} {ls : List Loc}

theorem State.countRefresh_ctxs (s : State) (ctx a : Nat) (ls : List Loc) : s.countRefresh ctx a ls = { s with ctxs := (s.countRefresh ctx a ls).ctxs } := by
  unfold State.countRefresh
  dsimp only
  split <;> rfl

/-- Only reads of the weight store stall. -/
theorem State.countRefresh_none (other : ∀ m, .mem m ∈ ls → m.cls ≠ 2) : s.countRefresh ctx a ls = s := by
  unfold State.countRefresh
  rw [List.filterMap_eq_nil_iff.mpr fun l hl => ?_]
  · rfl
  · cases l with
    | mem m => exact if_neg (other m hl)
    | scr _ _ => rfl
    | near _ _ _ _ => rfl
    | remote _ _ _ => rfl

/-- An instruction that has completed counts its stall, and its fibre, which waits to enter no handler, stands as it is. -/
theorem finishLong_drops (fibre : u.fibre? r = some f) (idle : f.entering = none) :
    ∃ ls, (∀ l ∈ ls, l ∈ op.kind.reads.map (fun p => p.1)) ∧
      ((finishLong r op vals pr u).countStall r t f op).tryEnter r = (finishLong r op vals pr u).countRefresh t.ctx op.at_ ls := by
  obtain ⟨g, done, kept⟩ := finishLong_fibre (s := u) (r := r) (op := op) (vals := vals) (pr := pr)
  obtain ⟨-, entering, gone⟩ := kept f
  have now : (finishLong r op vals pr u).fibre? r = some (g f) := by
    rw [done, State.fibre?_updFibre u r g fun x => (kept x).1, fibre]
    rfl
  unfold State.countStall
  rw [now, if_neg (by simpa using gone)]
  exact ⟨_, fun l hl => List.mem_of_mem_filter hl,
    State.tryEnter_of_not_entering (f := g f) (by rw [State.countRefresh_ctxs]; exact now) (entering.trans idle)⟩

end Completed

/-! ### The drop point -/

section Drop

variable {s u : State} {r : FibreRef} {t : Team} {f : Fibre} {op : LongOp} {i c n d p : Nat} {l : Loc} {vals : List (Nat × Dword)} {pr : Option (Nat × Bool)}

theorem exec_longLatencyDrop (team : s.team? r.team = some t) (fibre : t.fibre? r.fibre = some f) (listed : f.ll[i]? = some op) :
    exec (.longLatencyDrop r.team r.fibre i) s = .next (((dropOp r t f op s).countStall r t f op).tryEnter r) := by
  change execLongLatencyDrop r.team r.fibre i s = _
  unfold execLongLatencyDrop
  rw [State.longOp_of (r := r) team fibre listed]
  rfl

variable (team : s.team? r.team = some t) (fibre : t.fibre? r.fibre = some f) (listed : f.ll[i]? = some op) (idle : f.entering = none)
include team fibre listed idle

/-- An instruction that completes at its drop point changes, beside that, its context's counters for the places it has read. -/
theorem longLatencyDrop_completes (same : u.teams = s.teams) (drop : dropOp r t f op s = finishLong r op vals pr u) :
    ∃ ls, (∀ l ∈ ls, l ∈ op.kind.reads.map (fun p => p.1)) ∧
      exec (.longLatencyDrop r.team r.fibre i) s = .next ((finishLong r op vals pr u).countRefresh t.ctx op.at_ ls) := by
  have named : u.fibre? r = some f := by
    have was : s.fibre? r = some f := by simp only [State.fibre?, team, fibre]
    rw [← was]
    unfold State.fibre? State.team?
    rw [same]
  obtain ⟨ls, reads, stalled⟩ := finishLong_drops (t := t) (op := op) (vals := vals) (pr := pr) named idle
  exact ⟨ls, reads, by rw [exec_longLatencyDrop team fibre listed, drop, stalled]⟩

/-- One that has read no place of the weight store changes nothing beside. -/
theorem longLatencyDrop_completes_alone (other : ∀ m, .mem m ∈ op.kind.reads.map (fun p => p.1) → m.cls ≠ 2)
    (drop : dropOp r t f op s = finishLong r op vals pr s) :
    exec (.longLatencyDrop r.team r.fibre i) s = .next (finishLong r op vals pr s) := by
  obtain ⟨ls, reads, run⟩ := longLatencyDrop_completes team fibre listed idle rfl drop
  rw [run, State.countRefresh_none fun m hm => other m (reads _ hm)]

end Drop

/-! ### What the kinds of loads do when they drop -/

section Kinds

variable {s u : State} {r : FibreRef} {t : Team} {f : Fibre} {op : LongOp} {c n d p : Nat} {l : Loc} {q : MemLoc} {bs : List Byte} {v : Dword}

theorem LongKind.load_reads {st : Strength} (small : n ≤ 8) : (LongKind.load l n d st).reads = [(l, st)] := if_neg (by omega)

theorem finishLong_value (counted : op.counter = some c) : finishLong r op [(d, v)] none s =
    s.updFibre r fun x => { x.setReg d v with cf := x.cf.set c (x.cf.getD c 0 - 1), ll := x.ll.filter (fun o => o != op) } := by
  rw [finishLong_register]
  unfold Fibre.finished
  rw [counted]
  rfl

theorem finishLong_clears (counted : op.counter = some c) : finishLong r op [(d, 0)] (some (p, false)) s =
    s.updFibre r fun x => { (x.setReg d 0).setPred p false with cf := x.cf.set c (x.cf.getD c 0 - 1), ll := x.ll.filter (fun o => o != op) } := by
  unfold finishLong
  rw [counted]
  refine congrArg (s.updFibre r) (funext fun x => ?_)
  obtain ⟨-, -, cf, ll⟩ := Fibre.setPred_kept (x.setReg d 0) p false
  dsimp only [List.foldl_cons, List.foldl_nil, Fibre.countDown]
  rw [cf, ll]
  rfl

/-- A plain load of one register that meets no queued store writes the bytes read. -/
theorem dropOp_load (kind : op.kind = .load l n d ⟨false, 0, 0⟩) (small : n ≤ 8) (ready : loadReady s t f op.seq l ⟨false, 0, 0⟩ = true) (queue : f.sq = [])
    (read : s.readPlace (coreOf t f) (dieOf t f) t.ctx l n ⟨false, 0, 0⟩ = ((bs, false), u)) (whole : bs.length = n) :
    dropOp r t f op s = finishLong r op [(d, BitVec.ofNat 64 (natOfBytes bs))] none u := by
  have part : loadParts l n d = [(l, n, d)] := if_neg (by omega)
  have clean : (f.queueBefore op.seq).queuedPoison l = none := by
    unfold Fibre.queuedPoison Fibre.queueBefore
    rw [queue]
    rfl
  have performed : performLoad s t f op.seq l n ⟨false, 0, 0⟩ = ((bs, false), u) := performLoad_of_empty queue read whole
  unfold dropOp dropMemory
  rw [kind]
  dsimp only
  unfold dropLoad
  rw [part]
  simp [ready, performed, clean]

theorem dropOp_value (kind : op.kind = .value [(d, v)] none) : dropOp r t f op s = finishLong r op [(d, v)] none s := by
  unfold dropOp dropMemory
  rw [kind]

theorem dropOp_loadNr_none (kind : op.kind = .loadNr none n d p) (small : n ≤ 8) :
    dropOp r t f op s = finishLong r op [(d, 0)] (some (p, false)) s := by
  unfold dropOp dropMemory
  rw [kind]
  dsimp only
  rw [show loadRegs n d = [d] from if_neg (by omega)]
  rfl

theorem dropOp_tagq (kind : op.kind = .tagq (.mem q) d) (ready : loadReady s t f op.seq (.mem q) ⟨true, 4, 0⟩ = true) :
    dropOp r t f op s = finishLong r op [(d, if s.mem.full.contains (q.pa / 8) then 1 else 0)] none s := by
  unfold dropOp dropMemory
  rw [kind]
  exact if_pos ready

end Kinds

/-- Settles O19: an instruction that drops is completed in its fibre (15 R295), which then enters no handler; beside that a read changes caches and counters
only, and its stall by a refresh of the weight store is counted for its context (log entry 64). -/
theorem loadDrop : Obligations.LoadDrop := by
  unfold Obligations.LoadDrop
  intro s r t f i c n d p op l q team fibre listed counted idle small
  refine ⟨fun bs s1 kind ready queue read whole => ?_, fun v kind => ?_, fun kind _ => ?_, fun kind cls ready => ?_⟩
  · have home : HomeChanged s s1 := by
      have changed := s.readPlace_home (coreOf t f) (dieOf t f) t.ctx n l ⟨false, 0, 0⟩
      rwa [read] at changed
    have reads : op.kind.reads.map (fun p => p.1) = [l] := by
      rw [kind, LongKind.load_reads small]
      rfl
    obtain ⟨ls, places, run⟩ := longLatencyDrop_completes team fibre listed idle home.teams (dropOp_load kind small ready queue read whole)
    rw [reads] at places
    rw [finishLong_value counted] at run
    refine ⟨_, run, State.countRefresh_ctxs _ _ _ _, fun other => State.countRefresh_none fun m hm => ?_⟩
    exact other m (List.mem_singleton.mp (places _ hm)).symm
  · have reads : op.kind.reads = [] := by rw [kind]; rfl
    rw [longLatencyDrop_completes_alone team fibre listed idle (by simp [reads]) (dropOp_value kind), finishLong_value counted]
  · have reads : op.kind.reads = [] := by rw [kind]; rfl
    rw [longLatencyDrop_completes_alone team fibre listed idle (by simp [reads]) (dropOp_loadNr_none kind small), finishLong_clears counted]
  · have reads : op.kind.reads = [(.mem q, ⟨true, 4, 0⟩)] := by rw [kind]; rfl
    have other : ∀ m, .mem m ∈ op.kind.reads.map (fun p => p.1) → m.cls ≠ 2 := by
      intro m hm
      rw [reads] at hm
      cases List.mem_singleton.mp hm
      exact cls
    rw [longLatencyDrop_completes_alone team fibre listed idle other (dropOp_tagq kind ready), finishLong_value counted]

end Sys2Proof.Machine
end

section
/-! A completion that is no landing of its own, held for a saved team (`Machine/Jobs.lean`; 06 R139): where its counter stands twice in the context's list, the count of it is another than before (O54). -/

namespace Sys2Proof.Machine

/-- The first completion that a saved team's redirect entry holds goes into its image. -/
theorem exec_redirectEntryCompletion {s : State} {t : Team} {team : Nat} {c : Completion} {rest : List Completion} (named : s.team? team = some t)
    (saved : t.state = .saved) (held : t.redirect = c :: rest) : exec (.redirectEntryCompletion team) s =
      .next ((((s.updTeam team fun t => { t with redirect := rest, redirected := t.redirected + bit c.counts }).applyCompletion team c).writeImage team).count
        t.ctx 0x33 (bit c.counts)) := by
  change execRedirectEntryCompletion team s = _
  unfold execRedirectEntryCompletion
  rw [named]
  dsimp only
  rw [saved, held]
  rfl

/-- A context whose counter of held completions is listed twice, first as 0: it reads 0. -/
def doubledContext : Context := { Context.blank 0 0 with counters := [(0x33, 0), (0x33, 5)] }

/-- A saved team that holds the data of a landing that is still to come: no byte, and no completion of its own. -/
def holdingTeam : Team := { probeTeam 1 0 with state := .saved, redirect := [.write 0 [] [] false] }

def doubledState : State := { State.reset with teams := [holdingTeam], ctxs := [doubledContext] }

/-- Refutes O54: its clause on redirect entries says that the count of held completions rises by 0 for data that is no completion of its own, whatever the
context's list of counters; of a list that names that counter twice, putting the 0 back takes the first entry out, and the counter reads the second, 5.
The clause lacks that the counters are in the canonical form of a sparse map. -/
theorem not_teamEventResult : ¬ Obligations.TeamEventResult := by
  intro h
  obtain ⟨-, -, -, -, -, -, team, -⟩ := h doubledState ⟨0, 0⟩ holdingTeam (Fibre.fresh 0 128 0)
  obtain ⟨-, -, -, redirect⟩ := team rfl
  obtain ⟨t, -, ran, -, -, counted, -⟩ := redirect 0 [] false [] rfl rfl rfl
  obtain rfl := Host.Outcome.next.inj ((exec_redirectEntryCompletion (s := doubledState) (t := holdingTeam) rfl rfl rfl).symm.trans ran)
  obtain ⟨c, there, zero⟩ := counted doubledContext rfl
  obtain rfl : { doubledContext with counters := [(0x33, 5)] } = c := Option.some.inj there
  exact absurd zero (by decide)

end Sys2Proof.Machine
end
